-- ==== Sys2Proof/Word.lean ====
section
/-! DEFINITION. The word types of the ZQ9 and the plain records that commands carry as operands. -/

namespace Sys2Proof

/-- A byte of any memory of the module (R12: little-endian structures). -/
abbrev Byte := BitVec 8

/-- A 32-bit register or element container. -/
abbrev W32 := BitVec 32

/-- A 64-bit register, descriptor field or vector instruction. -/
abbrev W64 := BitVec 64

/-- A table keyed by number that lists only what differs from its default (R6, R291, R107: thousands of
like units). The keys rise strictly; Machine/Table.lean has its operations. -/
abbrev Table (α : Type) := List (Nat × α)

/-- The three variants of the part (R1). -/
inductive Variant where
  | full | half | compute
  deriving DecidableEq, Repr

/-- A trained cascade link: the devices that it joins, each with its number for the link (R326, R340). -/
structure Wiring where
  devA : Nat
  linkA : Nat
  devB : Nat
  linkB : Nat
  deriving DecidableEq, Repr

/-- The devices that a link joins. -/
def Wiring.ends (w : Wiring) : Nat × Nat := (w.devA, w.devB)

/-- Whether a link is a device's link of a number. -/
def Wiring.uses (w : Wiring) (dev link : Nat) : Bool :=
  (w.devA = dev && w.linkA = link) || (w.devB = dev && w.linkB = link)

/-- The master's values of a group Turnstile, which its mirrors take (R309). -/
structure Mirror where
  trn : Nat
  gen : Nat
  count : Nat
  owner : Nat
  remote : Bool
  arrived : Nat
  deriving DecidableEq, Repr

/-- What start-up finds in the silicon and on the connectors (R416, R419, R97, R145, R226, R228, R339,
R422): facts of the world that a start-up step reads and that no command chooses. -/
structure BootFindings where
  /-- step 0x0010: a rail out of regulation (R419 code 0x0001) -/
  railFails : Bool
  /-- step 0x0011: tile faults found by self-test: physical index, what (0 row, 1 column, 2 spare row,
  3 check pattern fails without a row or column to repair), index (R97, R100) -/
  tileFaults : List (Nat × Nat × Nat)
  /-- step 0x0012: every die-to-die link trains (R419 code 0x0003) -/
  linksTrain : Bool
  /-- step 0x0013: stacks that fail training -/
  stacksFail : List Nat
  /-- step 0x0013: fewest spare rows left in any bank, per stack (R226) -/
  spareRows : List (Nat × Nat)
  /-- step 0x0014: failing Floe engines: stack, engine (R145) -/
  floeFail : List (Nat × Nat)
  /-- step 0x0016: CXL expanders bound: port, width code, rate code, capacity in GiB (R228) -/
  expanders : List (Nat × Nat × Nat × Nat)
  /-- step 0x0016: other CXL devices found: port, device type (R228) -/
  strangers : List (Nat × Nat)
  /-- step 0x0018: cascade links trained: link, partner identifier, partner link -/
  cascLinks : List (Nat × Nat × Nat)
  /-- step 0x0018: devices reachable in no group: identifier, role code, protocol version (R339) -/
  peers : List (Nat × Nat × Nat)
  /-- step 0x0018: the trained links of the devices reachable -/
  edges : List Wiring
  /-- step 0x0018: the master's values of group Turnstiles (R309) -/
  mirrors : List Mirror
  /-- dies whose Ringmaster pair passes its self-test (R422) -/
  pairsPass : List Nat
  deriving DecidableEq, Repr

/-- A start-up in which every part works and nothing is attached outside. -/
def BootFindings.good : BootFindings :=
  { railFails := false, tileFaults := [], linksTrain := true, stacksFail := [], spareRows := [],
    floeFail := [], expanders := [], strangers := [], cascLinks := [], peers := [], edges := [],
    mirrors := [],
    pairsPass := [0, 1, 2, 3] }

/-- Where a memory request comes from (R211): an access engine's transfer, with the bytes of its innermost contiguous
run; a context saved or restored, a matrix drain, a VEMIT stream; a gather or scatter element; a Floe engine or a KV page
lock; a page migration, a host access through BAR2 or a copy to or from the CXL tier; a Midway queue port; the
Ringmaster, a translation walk, the Moraine or the Ice core. -/
inductive Origin where
  | transfer (run : Nat)
  | context
  | drain
  | vemit
  | element
  | floe
  | pageLock
  | migration
  | bar2
  | cxlCopy
  | midway
  | ringmaster
  | walk
  | moraine
  | ice
  deriving DecidableEq, Repr

/-- What routing brings to an input of a Midway cell (R349): a constant, the output of a cell, taken combinationally or
through its latch, a pin, the carry of the cell below, or a wire from outside the cells. -/
inductive Wire where
  | const (b : Bool)
  | cell (n : Nat)
  | latch (n : Nat)
  | pin (n : Nat)
  | chain
  | outside (n : Nat)
  deriving DecidableEq, Repr, Inhabited

/-- A logic cell as a design configures it (R349): its mode, and the wires to its inputs. -/
structure Cell where
  carry : Bool
  a : List Wire
  sa : List Wire
  b : List Wire
  sb : List Wire
  x : Wire
  cin : Wire
  deriving DecidableEq, Repr, Inhabited

end Sys2Proof
end

