-- ==== Sys2Proof/Syntax.lean ====
section
/-! DEFINITION. The commands of the ZQ9: one constructor per row of spec/opcode_table.json, with what the world
outside the block supplies at that step. -/

namespace Sys2Proof

/-- A command of the block. -/
inductive Instr where
  /-- STANDBY_POWER_ON (R416): the straps CASC_ROLE and CASC_ID as sampled, and what start-up finds. -/
  | standbyPowerOn (role : Nat) (ident : Nat) (found : BootFindings)
  /-- P12VAUX_LOSS (R437). -/
  | p12vauxLoss
  /-- P48V_IN_RANGE (R416): what start-up finds. -/
  | p48vInRange (found : BootFindings)
  /-- P48V_BELOW_38V (R437). -/
  | p48vBelow38v
  /-- P48V_ABOVE_62V (R437). -/
  | p48vAbove62v
  /-- PERST_ASSERT (R421): what the start-up that follows finds. -/
  | perstAssert (found : BootFindings)
  /-- PERST_DEASSERT (R417). -/
  | perstDeassert
  /-- HOT_RESET (R421). -/
  | hotReset
  /-- FUNCTION_LEVEL_RESET (R267): the function reset: 0 the PF, n VF n. -/
  | functionLevelReset (func : Nat)
  /-- LOCK_STEP_MISMATCH (R422): what the start-up that follows finds. -/
  | lockStepMismatch (found : BootFindings)
  /-- RST_CTRL_DEVICE (R421): the value written to RST_CTRL, and what the start-up that follows finds. -/
  | rstCtrlDevice (value : W32) (found : BootFindings)
  /-- READ32 (R440): the BAR0 offset, and whether the command's PEC is right. -/
  | read32 (offset : Nat) (pecOk : Bool)
  /-- READ64 (R440): the BAR0 offset, and whether the command's PEC is right. -/
  | read64 (offset : Nat) (pecOk : Bool)
  /-- SET_CAP (R27): the 16-bit watts, and whether the command's PEC is right. -/
  | setCap (watts : Nat) (pecOk : Bool)
  /-- RESET (R440): the 16-bit key, whether the PEC is right, and what the start-up that follows finds. -/
  | smbusReset (key : Nat) (pecOk : Bool) (found : BootFindings)
  /-- PWR_CAP_WRITE (R27): the value written to PWR_CAP. -/
  | pwrCapWrite (value : W32)
  /-- GOVERNOR_SAMPLE (R22): input power in watts, P48V at the contacts in mV, and the junction sensors that report: sensor, degrees C. -/
  | governorSample (watts : Nat) (millivolts : Nat) (temps : List (Nat × Int))
  /-- GOVERNOR_WINDOW_END (R24). -/
  | governorWindowEnd
  /-- THERMAL_COMPARATOR_TRIP (R26): the sensor that trips and its reading. -/
  | thermalComparatorTrip (sensor : Nat) (temp : Int)
  /-- REGISTER_WRITE (R14): the function, the BAR0 offset, the access size in bytes and the value; what a start-up finds, with the devices and edges that a formation finds, and the disagreements and UI that an eye scan counts. -/
  | registerWrite (func : Nat) (offset : Nat) (size : Nat) (value : W64) (found : BootFindings) (eye : Nat × Nat)
  /-- REGISTER_READ_CLEAR (R14): the function, the BAR0 offset and the access size in bytes. -/
  | registerReadClear (func : Nat) (offset : Nat) (size : Nat)
  /-- BAR2_READ (R261): the BAR2 offset and the bytes read. -/
  | bar2Read (offset : Nat) (len : Nat)
  /-- BAR2_WRITE (R261): the BAR2 offset and the bytes written. -/
  | bar2Write (offset : Nat) (data : List Byte)
  /-- SUBMISSION_DOORBELL (R270): the function written through, the queue, the access size and the value (KIND 0). -/
  | submissionDoorbell (func : Nat) (queue : Nat) (size : Nat) (value : W64)
  /-- COMPLETION_HEAD_DOORBELL (R271): the function written through, the queue, the access size and the value (KIND 1). -/
  | completionHeadDoorbell (func : Nat) (queue : Nat) (size : Nat) (value : W64)
  /-- FETCH_DESCRIPTOR (R268). -/
  | fetchDescriptor
  /-- COMPLETION_WRITE (R271): the operation that has ended. -/
  | completionWrite (op : Nat)
  /-- INTERRUPT_TIMER (R289): the queue whose moderation time has passed. -/
  | interruptTimer (queue : Nat)
  /-- VECTOR_UNMASK (R288): the function and its MSI-X vector. -/
  | vectorUnmask (func : Nat) (vector : Nat)
  /-- QGP_COMMIT (R263): the queue group. -/
  | qgpCommit (group : Nat)
  /-- QGP_APPLY (R265): the queue group. -/
  | qgpApply (group : Nat)
  /-- QGP_ABORT (R266): the queue group and the bits written. -/
  | qgpAbort (group : Nat) (queues : W64)
  /-- RESERVE (R238): the queue group and the fields SIZE, RD and WR of QGP_MMU_CMD; BASE and LEN stand in their registers. -/
  | reserve (group : Nat) (size : Nat) (rd : Bool) (wr : Bool)
  /-- RELEASE (R238): the queue group and the field SIZE. -/
  | release (group : Nat) (size : Nat)
  /-- UNMAP (R238): the queue group and the field SIZE. -/
  | unmap (group : Nat) (size : Nat)
  /-- PROTECT (R238): the queue group and the fields SIZE, RD and WR. -/
  | protect (group : Nat) (size : Nat) (rd : Bool) (wr : Bool)
  /-- MMU_CMD_DONE (R239): the queue group whose command ends. -/
  | mmuCmdDone (group : Nat)
  /-- IWIN_COMMIT (R221): the interleave window. -/
  | iwinCommit (window : Nat)
  /-- IWIN_APPLY (R222): the interleave window. -/
  | iwinApply (window : Nat)
  /-- NOP (R273): the operation. -/
  | nop (op : Nat)
  /-- COPY (R277): the operation. -/
  | copy (op : Nat)
  /-- CONVERT (R277): the operation. -/
  | convert (op : Nat)
  /-- GATHER (R277): the operation. -/
  | gather (op : Nat)
  /-- SCATTER (R277): the operation, and the index positions delivered after all others (the device's choice, R161). -/
  | scatter (op : Nat) (late : List Nat)
  /-- FILL (R278): the operation. -/
  | fill (op : Nat)
  /-- ELEMWISE (R278): the operation. -/
  | elemwise (op : Nat)
  /-- REDUCE (R279): the operation, and the order of the sum (0 adds two partial sums, i + 1 takes term i). -/
  | reduce (op : Nat) (tree : List Nat)
  /-- SCAN (R279): the operation, and for each prefix length the order of its sum. -/
  | scan (op : Nat) (trees : List (List Nat))
  /-- MATMUL (R280): the operation, the logical tiles its blocks are dealt to, the lengths of its K-slices, and the order in which
  their partial sums are added (as for REDUCE). -/
  | matmul (op : Nat) (tiles : List Nat) (slices : List Nat) (order : List Nat)
  /-- CONV (R281): the operation, the logical tiles its blocks are dealt to, the lengths of its K-slices, and the order in which
  their partial sums are added (as for REDUCE). -/
  | conv (op : Nat) (tiles : List Nat) (slices : List Nat) (order : List Nat)
  /-- ATTEND (R157): the operation, and the order in which its parts are combined. -/
  | attend (op : Nat) (tree : List Nat)
  /-- KV_APPEND (R151): the operation, in write mode. -/
  | kvAppend (op : Nat)
  /-- KV_TRUNCATE (R153): the operation, in truncate mode. -/
  | kvTruncate (op : Nat)
  /-- OPTSTEP (R163): the operation. -/
  | optstep (op : Nat)
  /-- TILEPROG (R282): the operation, and the logical tiles it is given. -/
  | tileprog (op : Nat) (tiles : List Nat)
  /-- STREAM_IN (R360): the operation. -/
  | streamIn (op : Nat)
  /-- STREAM_OUT (R360): the operation. -/
  | streamOut (op : Nat)
  /-- BIND_MEM (R362): the operation. -/
  | bindMem (op : Nat)
  /-- UNBIND (R362): the operation. -/
  | unbind (op : Nat)
  /-- LANE_UP (R366): the operation. -/
  | laneUp (op : Nat)
  /-- LANE_DOWN (R366): the operation. -/
  | laneDown (op : Nat)
  /-- LANE_LOCK (R366): the user serial lane that locks. -/
  | laneLock (lane : Nat)
  /-- FABRIC_TIMEOUT (R360): the operation whose time has passed. -/
  | fabricTimeout (op : Nat)
  /-- ALL_REDUCE (R344): the operation, and the order of the combining steps. -/
  | allReduce (op : Nat) (tree : List Nat)
  /-- REDUCE_SCATTER (R344): the operation, and the order of the combining steps. -/
  | reduceScatter (op : Nat) (tree : List Nat)
  /-- ALL_GATHER (R344): the operation. -/
  | allGather (op : Nat)
  /-- BROADCAST (R344): the operation. -/
  | broadcast (op : Nat)
  /-- PUT (R343): the operation, the remote record as the peer gives it, and the peer's status. -/
  | put (op : Nat) (peerRecord : List Byte) (status : Nat)
  /-- GET (R343): the operation, the remote record as the peer gives it, and the peer's status. -/
  | get (op : Nat) (peerRecord : List Byte) (status : Nat)
  /-- DOORBELL (R343): the operation. -/
  | doorbellOp (op : Nat)
  /-- COLLECTIVE_TIMEOUT (R345): the operation whose time has passed. -/
  | collectiveTimeout (op : Nat)
  /-- TRN_ARRIVE (R296): the operation. -/
  | trnArrive (op : Nat)
  /-- TRN_WAIT (R298): the operation. -/
  | trnWait (op : Nat)
  /-- TRN_ARRIVE_WAIT (R298): the operation. -/
  | trnArriveWait (op : Nat)
  /-- SIGNAL (R303): the operation. -/
  | signal (op : Nat)
  /-- TRN_TIMEOUT (R299): the operation whose time has passed; or, at the device that performs another's operation, whose it is: the device, whether it came by TRN_OP, and its WTAG or else its channel's queue (R305). -/
  | trnTimeout (op : Nat) (peer : Option (Nat × Bool × Nat))
  /-- FENCE_RELEASE (R304): the channel: sending device and queue. -/
  | fenceRelease (dev : Nat) (queue : Nat)
  /-- GROUP_GEN_BROADCAST (R308): the group Turnstile and the generation completed. -/
  | groupGenBroadcast (trn : Nat) (gen : Nat)
  /-- TRN_CFG_WRITE (R293): the Turnstile and the value written to TRN_CFG. -/
  | trnCfgWrite (trn : Nat) (value : W64)
  /-- SET_COUNT (R311): the Turnstile and VALUE. -/
  | setCount (trn : Nat) (value : Nat)
  /-- SET_GEN (R311): the Turnstile and VALUE. -/
  | setGen (trn : Nat) (value : Nat)
  /-- COMPLETE (R311): the Turnstile and VALUE. -/
  | completeGen (trn : Nat) (value : Nat)
  /-- DEADLOCK_FIRE (R310): the watcher. -/
  | deadlockFire (watcher : Nat)
  /-- AFFINITY (R204): the operation. -/
  | affinity (op : Nat)
  /-- KEEP_NEAR (R204): the operation. -/
  | keepNear (op : Nat)
  /-- PIN_DATA (R206): the operation. -/
  | pinData (op : Nat)
  /-- PIN_TILES (R206): the operation. -/
  | pinTiles (op : Nat)
  /-- PRIORITY_MODE (R205): the operation. -/
  | priorityMode (op : Nat)
  /-- UNPIN_DATA (R204): the operation. -/
  | unpinData (op : Nat)
  /-- UNPIN_TILES (R204): the operation. -/
  | unpinTiles (op : Nat)
  /-- CFG_LOAD (R381): the operation, and whether the flash reads without error. -/
  | cfgLoad (op : Nat) (flashOk : Bool)
  /-- CFG_COMMIT (R385): the operation, and whether the flash writes and reads back without error. -/
  | cfgCommit (op : Nat) (flashOk : Bool)
  /-- CFG_APPLY (R386). -/
  | cfgApply
  /-- CFG_DRAIN_TIMEOUT (R386). -/
  | cfgDrainTimeout
  /-- CFG_REVERT (R388): the operation, and whether the flash reads without error. -/
  | cfgRevert (op : Nat) (flashOk : Bool)
  /-- ADVANCE_SVN (R391): the value written to SEC_CTRL. -/
  | advanceSvn (value : W32)
  /-- SCRUB_PASS (R392): the upset frames met: kind (0 correctable, 1 uncorrectable, 2 sequencer table, 3 Floe microcode, 4 uncorrectable and its reload fails), die, booth, frame × 10240 + bit. -/
  | scrubPass (found : List (Nat × Nat × Nat × Nat))
  /-- SPDM_REQUEST (R394): the request code, the measurement index where the request is for one, and the rest of the request. -/
  | spdmRequest (code : Nat) (index : Nat) (body : List Byte)
  /-- IDE_KM_KEY_PROGRAM (R395): the function, the stream, whether a secured session carries the request, and whether the programming succeeds. -/
  | ideKmKeyProgram (func : Nat) (stream : Nat) (inSession : Bool) (ok : Bool)
  /-- WRITE_KEY_SLOT (R396): the owner key slot, its key-encryption key and signing-key hash, and whether a secured session carries the request. -/
  | writeKeySlot (slot : Nat) (kek : BitVec 256) (hash : BitVec 512) (inSession : Bool)
  /-- REVOKE_SLOT (R396): the owner key slot, and whether a secured session carries the request. -/
  | revokeSlot (slot : Nat) (inSession : Bool)
  /-- DEBUG_UNLOCK (R396): the signer's public key, the signature over the device nonce, and whether a secured session carries the request. -/
  | debugUnlock (key : List Byte) (sig : List Byte) (inSession : Bool)
  /-- PLACEMENT_SNAPSHOT (R207): the value written to PLC_VIEW_CTRL. -/
  | placementSnapshot (value : W32)
  /-- CONTEXT_COPY (R257): the value written to DBG_CTX_CTRL. -/
  | contextCopy (value : W32)
  /-- MIG_CTRL_WRITE (R203): the value written to PLC_MIG_CTRL. -/
  | migCtrlWrite (value : W64)
  /-- MIGRATION_EPOCH (R202). -/
  | migrationEpoch
  /-- MIGRATION_DONE (R203): the address space and 2 MiB page number whose copy ends, and whether the old copy read without an uncorrectable error. -/
  | migrationDone (asid : Nat) (page : Nat) (readOk : Bool)
  /-- SPEED_SAMPLE (R199): the measured rates: physical tile, M lc/s; and the spare tiles that would pass their check pattern. -/
  | speedSample (rates : List (Nat × Nat)) (spareOk : List Nat)
  /-- SWEEP_TIMEOUT (R90): the open generation sweep. -/
  | sweepTimeout (sweep : Nat)
  /-- ACC (R102): the physical tile, the 64-byte block command, the column operand where the access engine feeds it directly, and, for a sequencer that must be taken out of service, the spare tiles that would pass their check pattern (R201). -/
  | acc (tile : Nat) (cmd : BitVec 512) (feed : List Byte) (spareOk : List Nat)
  /-- ACC_DRAIN (R87): the physical tile, the block command, the column operand fed directly, and the spare tiles that would pass their check pattern (R201). -/
  | accDrain (tile : Nat) (cmd : BitVec 512) (feed : List Byte) (spareOk : List Nat)
  /-- DRAIN (R102): the physical tile, the block command, and the spare tiles that would pass their check pattern (R201). -/
  | drain (tile : Nat) (cmd : BitVec 512) (spareOk : List Nat)
  /-- SET_MODE (R93): the physical tile, the block command, and the spare tiles that would pass their check pattern (R201). -/
  | setMode (tile : Nat) (cmd : BitVec 512) (spareOk : List Nat)
  /-- CHECK (R100): the physical tile, the block command, the faults found (kind 0 row, 1 column, 2 spare row, 3 none repairable; index), and the spare tiles that would pass their check pattern. -/
  | check (tile : Nat) (cmd : BitVec 512) (faults : List (Nat × Nat)) (spareOk : List Nat)
  /-- DRAIN_END (R86): the physical tile and the partition. -/
  | drainEnd (tile : Nat) (part : Nat)
  /-- MULTICAST_PRUNE (R178): the multicast tree and the member logical tile. -/
  | multicastPrune (tree : Nat) (member : Nat)
  /-- SHARD_ARRIVE (R181): the queue group whose carousel ring it is, and the position of the tile in the ring. -/
  | shardArrive (group : Nat) (pos : Nat)
  /-- READ_RESPONSE (R171): the physical tile, the slot, the number of the 64-byte line from the lowest of the source tensor, and whether the line is uncorrectable. -/
  | readResponse (tile : Nat) (slot : Nat) (line : Nat) (bad : Bool)
  /-- FAULT_RESOLVED (R246): the suspended operation. -/
  | faultResolved (op : Nat)
  /-- PRI_RESPONSE (R242): the function, PASID and host page (4 KiB), the response code (0 Success, 1 Invalid Request, 2 Response Failure), and the permissions that the page's new translation has. -/
  | priResponse (func : Nat) (pasid : Nat) (page : Nat) (code : Nat) (rd : Bool) (wr : Bool)
  /-- PRI_TIMEOUT (R242): the function, PASID and host page (4 KiB) of the page request. -/
  | priTimeout (func : Nat) (pasid : Nat) (page : Nat)
  /-- ATS_INVALIDATE (R243): the function, PASID, first host page, number of pages and the tag to complete. -/
  | atsInvalidate (func : Nat) (pasid : Nat) (page : Nat) (count : Nat) (itag : Nat)
  /-- PREEMPT (R250): the physical tile and partition (or its stream run) that is taken, from 288 on the Floe engines of a stack
  (288 + stack), and the priority of the ready work. -/
  | preempt (tile : Nat) (part : Nat) (stream : Bool) (prio : Nat)
  /-- RESUME (R253): the saved context (0 the oldest), the physical tile it resumes on, and whether it reads without an uncorrectable error. -/
  | resume (ctx : Nat) (tile : Nat) (ok : Bool)
  /-- IMAGE_LOAD (R112): the physical tile, and the image's address and IMAGE_TAG. -/
  | imageLoad (tile : Nat) (addr : W64) (tag : Nat)
  /-- EPILOGUE_RUN_START (R113): the physical tile. -/
  | epilogueRunStart (tile : Nat)
  /-- SWAIT_RESUME (R119): the physical tile. -/
  | swaitResume (tile : Nat)
  /-- VX_NOP (R119): the physical tile whose vector engine issues it. -/
  | vxNop (tile : Nat)
  /-- HALT (R113): the physical tile whose vector engine issues it. -/
  | halt (tile : Nat)
  /-- JMP (R120): the physical tile whose vector engine issues it. -/
  | jmp (tile : Nat)
  /-- BNZ (R119): the physical tile whose vector engine issues it. -/
  | bnz (tile : Nat)
  /-- LOOP (R120): the physical tile whose vector engine issues it. -/
  | loop (tile : Nat)
  /-- SWAIT (R119): the physical tile whose vector engine issues it. -/
  | swait (tile : Nat)
  /-- SREL (R127): the physical tile whose vector engine issues it. -/
  | srel (tile : Nat)
  /-- VEMIT (R119): the physical tile whose vector engine issues it. -/
  | vemit (tile : Nat)
  /-- SMOVI (R119): the physical tile whose vector engine issues it. -/
  | smovi (tile : Nat)
  /-- SMOVH (R119): the physical tile whose vector engine issues it. -/
  | smovh (tile : Nat)
  /-- SADD (R119): the physical tile whose vector engine issues it. -/
  | sadd (tile : Nat)
  /-- RADV (R118): the physical tile whose vector engine issues it. -/
  | radv (tile : Nat)
  /-- VLD (R119): the physical tile whose vector engine issues it. -/
  | vld (tile : Nat)
  /-- VST (R119): the physical tile whose vector engine issues it. -/
  | vst (tile : Nat)
  /-- VMOVS (R119): the physical tile whose vector engine issues it. -/
  | vmovs (tile : Nat)
  /-- VPERM (R119): the physical tile whose vector engine issues it. -/
  | vperm (tile : Nat)
  /-- VADD (R128): the physical tile whose vector engine issues it. -/
  | vadd (tile : Nat)
  /-- VSUB (R128): the physical tile whose vector engine issues it. -/
  | vsub (tile : Nat)
  /-- VMUL (R128): the physical tile whose vector engine issues it. -/
  | vmul (tile : Nat)
  /-- VFMA (R128): the physical tile whose vector engine issues it. -/
  | vfma (tile : Nat)
  /-- VMAX (R44): the physical tile whose vector engine issues it. -/
  | vmax (tile : Nat)
  /-- VMIN (R44): the physical tile whose vector engine issues it. -/
  | vmin (tile : Nat)
  /-- VCMP (R128): the physical tile whose vector engine issues it. -/
  | vcmp (tile : Nat)
  /-- VSEL (R119): the physical tile whose vector engine issues it. -/
  | vsel (tile : Nat)
  /-- VADDH (R129): the physical tile whose vector engine issues it. -/
  | vaddh (tile : Nat)
  /-- VMULH (R129): the physical tile whose vector engine issues it. -/
  | vmulh (tile : Nat)
  /-- VFMAH (R129): the physical tile whose vector engine issues it. -/
  | vfmah (tile : Nat)
  /-- VCVT (R131): the physical tile whose vector engine issues it. -/
  | vcvt (tile : Nat)
  /-- VRED (R130): the physical tile whose vector engine issues it. -/
  | vred (tile : Nat)
  /-- VEXP2 (R136): the physical tile whose vector engine issues it. -/
  | vexp2 (tile : Nat)
  /-- VLOG2 (R136): the physical tile whose vector engine issues it. -/
  | vlog2 (tile : Nat)
  /-- VRCP (R136): the physical tile whose vector engine issues it. -/
  | vrcp (tile : Nat)
  /-- VRSQRT (R136): the physical tile whose vector engine issues it. -/
  | vrsqrt (tile : Nat)
  /-- QADD (R132): the physical tile whose vector engine issues it. -/
  | qadd (tile : Nat)
  /-- QSUB (R132): the physical tile whose vector engine issues it. -/
  | qsub (tile : Nat)
  /-- QMUL (R132): the physical tile whose vector engine issues it. -/
  | qmul (tile : Nat)
  /-- QMAC (R133): the physical tile whose vector engine issues it. -/
  | qmac (tile : Nat)
  /-- QMSU (R133): the physical tile whose vector engine issues it. -/
  | qmsu (tile : Nat)
  /-- ACLR (R119): the physical tile whose vector engine issues it. -/
  | aclr (tile : Nat)
  /-- AGET (R134): the physical tile whose vector engine issues it. -/
  | aget (tile : Nat)
  /-- VTAP (R135): the physical tile whose vector engine issues it. -/
  | vtap (tile : Nat)
  /-- PAGE_LOCK_GRANT (R152): the device address of the KV page. -/
  | pageLockGrant (page : Nat)
  /-- FLOE_PARITY_ERROR (R145): the stack and the engine. -/
  | floeParityError (stack : Nat) (engine : Nat)
  /-- MEM_REQUEST (R211): where the request comes from, the device physical address of the 64-byte line, read or write, the line's bytes and byte enables for a write, the hint bit, and the operation it serves. -/
  | memRequest (origin : Origin) (addr : Nat) (write : Bool) (data : List Byte) (enables : W64) (close : Bool) (op : Option Nat)
  /-- ISSUE_SLOT (R212): the stack, the banks that are not ready (pseudo-channel, bank), the symbols found in error on a read, and how often the request met a command/address parity error (R210). -/
  | issueSlot (stack : Nat) (busy : List (Nat × Nat)) (bad : Nat) (parity : Nat)
  /-- REFRESH (R215): the stack, pseudo-channel and bank whose refresh falls due. -/
  | refresh (stack : Nat) (pc : Nat) (bank : Nat)
  /-- TEMP_READ (R216): the stack and its temperature reading. -/
  | tempRead (stack : Nat) (temp : Int)
  /-- RETRAIN (R217): the stack and pseudo-channel, and whether the retraining succeeds. -/
  | retrain (stack : Nat) (pc : Nat) (ok : Bool)
  /-- ROW_IDLE_CLOSE (R218): the stack, pseudo-channel and bank. -/
  | rowIdleClose (stack : Nat) (pc : Nat) (bank : Nat)
  /-- PATROL (R224): the stack, the on-die ECC corrections read, and the lines with errors met (pseudo-channel, line number, symbols in error). -/
  | patrol (stack : Nat) (odeCount : Nat) (found : List (Nat × Nat × Nat))
  /-- ROW_REPAIR (R226): the stack, pseudo-channel, bank and row, the spare rows its bank has left, and the lines of the row found uncorrectable. -/
  | rowRepair (stack : Nat) (pc : Nat) (bank : Nat) (row : Nat) (spares : Nat) (badLines : List Nat)
  /-- CXL_LINK_DOWN (R230): the CXL port. -/
  | cxlLinkDown (port : Nat)
  /-- CXL_RETRAIN_TIMEOUT (R230): the CXL port. -/
  | cxlRetrainTimeout (port : Nat)
  /-- HOST_LANE_FAIL (R259): the width it retrains at: 4 or 2. -/
  | hostLaneFail (width : Nat)
  /-- HOST_LINK_LOSS (R259). -/
  | hostLinkLoss
  /-- FLIT_CRC_FAIL (R322): the sending and receiving node, the network, the node that injected the packet, and the replays of this flit that have gone before. -/
  | flitCrcFail (source : Nat) (target : Nat) (net : Nat) (inject : Nat) (replay : Nat)
  /-- CASC_FLIT_RECEIVE (R334): the cascade link, the 256 bytes of the flit, the lanes of the link that had it in an uncorrected codeword, and the symbols that lanes corrected. -/
  | cascFlitReceive (link : Nat) (flit : List Byte) (bad : List Nat) (fixed : List (Nat × Nat))
  /-- CASC_WRITE (R335): the sending device, its E2E_SEQ and queue, and the fields ADDR, GROUP, BYTES and OFFSET with the line. -/
  | cascWrite (dev : Nat) (seq : Nat) (queue : Nat) (addr : Nat) (group : Nat) (len : Nat) (off : Nat) (line : List Byte)
  /-- CASC_READ (R335): the sending device, its E2E_SEQ, and the fields ADDR, GROUP, BYTES, OFFSET and RTAG. -/
  | cascRead (dev : Nat) (seq : Nat) (addr : Nat) (group : Nat) (len : Nat) (off : Nat) (rtag : Nat)
  /-- READ_DATA (R335): the sending device, its E2E_SEQ, and the fields RTAG and STATUS with the line. -/
  | readData (dev : Nat) (seq : Nat) (rtag : Nat) (status : Nat) (line : List Byte)
  /-- WRITE_DONE (R335): the sending device, its E2E_SEQ, and the fields STATUS and LINES. -/
  | writeDone (dev : Nat) (seq : Nat) (status : Nat) (lines : Nat)
  /-- CASC_SIGNAL (R304): the sending device, its E2E_SEQ, the sending queue and its group's function, and the fields TRN, N, GEN, CURGEN and FENCE. -/
  | cascSignal (dev : Nat) (seq : Nat) (queue : Nat) (func : Nat) (trn : Nat) (n : Nat) (gen : Nat) (curgen : Bool) (fence : Nat)
  /-- SIGNAL_DONE (R305): the sending device, its E2E_SEQ, and the fields STATUS and CH_QUEUE. -/
  | signalDone (dev : Nat) (seq : Nat) (status : Nat) (queue : Nat)
  /-- TRN_OP (R307): the sending device, its E2E_SEQ, the fields OP, TRN, GEN, N, CURGEN and WTAG, and the sending queue and its group's function. -/
  | trnOp (dev : Nat) (seq : Nat) (kind : Nat) (trn : Nat) (gen : Nat) (n : Nat) (curgen : Bool) (wtag : Nat) (func : Nat) (queue : Nat)
  /-- TRN_REL (R308): the sending device, its E2E_SEQ, and the fields TRN and GEN. -/
  | trnRel (dev : Nat) (seq : Nat) (trn : Nat) (gen : Nat)
  /-- TRN_DONE (R335): the sending device, its E2E_SEQ, and the fields WTAG and STATUS. -/
  | trnDone (dev : Nat) (seq : Nat) (wtag : Nat) (status : Nat)
  /-- CASC_DOORBELL (R343): the sending device, its E2E_SEQ, the function number of the sending queue's group, and the fields QUEUE and VALUE. -/
  | cascDoorbell (dev : Nat) (seq : Nat) (func : Nat) (queue : Nat) (value : W64)
  /-- MARKER_SEND (R329): the cascade lane. -/
  | markerSend (lane : Nat)
  /-- IDLE_ENTER (R331): the cascade link. -/
  | idleEnter (link : Nat)
  /-- IDLE_NULL_BURST (R331): the cascade link. -/
  | idleNullBurst (link : Nat)
  /-- IDLE_EXIT (R331): the cascade link. -/
  | idleExit (link : Nat)
  /-- LANE_FAIL (R337): the cascade lane. -/
  | laneFail (lane : Nat)
  /-- LINK_RETRAIN_DONE (R337): the cascade link, the outcome (0 lanes 0 to 3 trained, 1 lanes 4 to 7, 2 the retrain failed, 3 no half can train), and the members that a path still reaches. -/
  | linkRetrainDone (link : Nat) (half : Nat) (reach : Nat)
  /-- CASCADE_FORM (R339): the value written to LAN_CASC_CFG, the devices reachable in no group (identifier, role, protocol version), the pairs joined by a trained link, and, where the master of another device forms the group,
the values that it sends for the mirrors. -/
  | cascadeForm (value : W32) (peers : List (Nat × Nat × Nat)) (edges : List Wiring)
      (master : Option (List Mirror))
  /-- FOLLOWER_HOST_TIMEOUT (R346). -/
  | followerHostTimeout
  /-- EYE_SCAN (R332): the value written to LAN_EYE_CTRL, and the disagreements and UI that the samplers count. -/
  | eyeScan (value : W64) (errors : Nat) (compared : Nat)
  /-- QUEUE_PUSH (R354): the queue port of the chain, or 256 + the block that heads a queue without a port, and the word. -/
  | queuePush (port : Nat) (data : W64) (keep : Nat) (last : Bool)
  /-- QUEUE_POP (R354): the queue, numbered as for QUEUE_PUSH. -/
  | queuePop (port : Nat)
  /-- RAM_ACCESS (R353): the memory block, read or write, the word address and the word. -/
  | ramAccess (block : Nat) (write : Bool) (addr : Nat) (data : BitVec 72)
  /-- PORT_WORD (R357): the source queue port, and the word: data, KEEP and LAST. -/
  | portWord (port : Nat) (data : W64) (keep : Nat) (last : Bool)
  /-- MEM_PORT_REQUEST (R363): the memory port, and the request fields ADDR, LEN, WRITE, DATA and BE. -/
  | memPortRequest (port : Nat) (addr : W64) (len : Nat) (write : Bool) (data : List Byte) (enables : W64)
  /-- PIN_CHANGE (R365): the general pin and its new level. -/
  | pinChange (pin : Nat) (level : Bool)
  /-- BANK_SUPPLY_CHANGE (R364): the I/O bank and its measured supply; 0 when it has left. -/
  | bankSupplyChange (bank : Nat) (millivolts : Nat)
  /-- PACER_TICK (R368): the pacer, whether the tick before has been acknowledged, the values that the fabric has prepared for its pacer-timed pins, and the pins that it samples. -/
  | pacerTick (pacer : Nat) (acked : Bool) (drive : List (Nat × Bool)) (sample : List Nat)
  /-- PACER_CALIBRATE (R368): the pacer, and how far it lies from the module reference, in ppm. -/
  | pacerCalibrate (pacer : Nat) (deviation : Nat)
  /-- LANE_RX_WORD (R367): the user serial lane, the word, and how many words the fabric has taken since the one before. -/
  | laneRxWord (lane : Nat) (word : W64) (taken : Nat)
  /-- LANE_TX_WORD (R367): the user serial lane, and the words that the fabric has supplied since the one before. -/
  | laneTxWord (lane : Nat) (words : List W64)
  /-- FLASH_LOG_WRITE (R402). -/
  | flashLogWrite
  /-- FREEZE (R406): the value written to MOR_CTRL. -/
  | freeze (value : W32)
  /-- MORAINE_COPY (R407): the value written to MOR_COPY_CTRL. -/
  | moraineCopy (value : W32)
  /-- MORAINE_CLEAR (R408): the value written to MOR_CLEAR. -/
  | moraineClear (value : W64)
  /-- ICE_COMMIT (R411). -/
  | iceCommit
  /-- ICE_CAL_SET (R414): the value written to ICE_CAL_SET. -/
  | iceCalSet (value : W64)
  /-- CONFIGURATION_REQUEST (R258): the function, the item of configuration space (0 MSI-X enable, 1 MSI-X function mask, 2 ATS enable, 3 PRI enable, 4 PRI allocation, 5 number of VFs enabled, 6 power state, 7 log2 of the BAR2 size, 8 device ID, 9 vendor ID, 10 Device Serial Number, 11 maximum payload size, 12 maximum read request size, 13 ASPM L1 enable, 14 L0p enable, 15 PASID enable, 16 AER uncorrectable error status, which writing 1 clears, 17 ARI), read or write, and the value. -/
  | configurationRequest (func : Nat) (item : Nat) (write : Bool) (value : Nat)
  /-- TRANSLATION_COMPLETION (R241): the function, PASID and host page (4 KiB), the permissions granted, and whether the completion is marked untranslated-only. -/
  | translationCompletion (func : Nat) (pasid : Nat) (page : Nat) (rd : Bool) (wr : Bool) (untranslated : Bool)
  /-- CXL_LINK_RETRAINED (R230): the CXL port, and the width and rate codes it trains at. -/
  | cxlLinkRetrained (port : Nat) (width : Nat) (rate : Nat)
  /-- HOST_LINK_UP (R259): the width and rate codes of HIF_LINK, and whether the partner supports Flit mode. -/
  | hostLinkUp (width : Nat) (rate : Nat) (flit : Bool)
  /-- CASC_LINK_TRAINED (R339): the cascade link, and the identifier and link number at the far end. -/
  | cascLinkTrained (link : Nat) (partner : Nat) (partnerLink : Nat)
  /-- MARKER_RECEIVE (R330): the cascade lane, the count its marker carries, and the skew measured, in ps. -/
  | markerReceive (lane : Nat) (count : Nat) (skew : Nat)
  /-- COLLECTIVE_CONTROL (R344): the sending member, its E2E_SEQ, COLL_TAG and MEMBERS, the step (bit 0 clear: submitted, with the format of its codes in bits 15:8; set: ended with a status), the element count, the element codes (of T elements a first word with d0 and tensor scale, then code and B8 code of each) and the status. -/
  | collectiveControl (dev : Nat) (seq : Nat) (tag : Nat) (members : Nat) (kind : Nat) (count : Nat) (codes : List W64) (status : Nat)
  /-- MORAINE_INTERRUPT_TIMER (R409). -/
  | moraineInterruptTimer
  /-- LATCH_CAPTURE (R350): the logic cell, the level of REQ, and the wires from outside the cells that carry 1. -/
  | latchCapture (cell : Nat) (req : Bool) (ones : List Nat)
  deriving DecidableEq, Repr

end Sys2Proof
end

