-- ==== Sys2Proof/Machine/Table.lean ====
section
/-! DEFINITION. Tables keyed by number in one canonical form (keys strictly rising, no entry equal to its
default), and lists of memory bytes, which are such tables with default 0. -/

namespace Sys2Proof.Machine

/-- Insert or replace an entry, keeping the keys in rising order. -/
def tinsert {α : Type} (k : Nat) (v : α) : Table α → Table α
  | [] => [(k, v)]
  | (k', v') :: t =>
    if k < k' then (k, v) :: (k', v') :: t
    else if k = k' then (k, v) :: t
    else (k', v') :: tinsert k v t

/-- Drop the entry of a key. -/
def terase {α : Type} (k : Nat) : Table α → Table α
  | [] => []
  | (k', v') :: t => if k = k' then terase k t else (k', v') :: terase k t

/-- What a table lists for a key. -/
def tfind {α : Type} (k : Nat) : Table α → Option α
  | [] => none
  | (k', v') :: t => if k = k' then some v' else tfind k t

/-- Read a table whose default is a function of the key. -/
def tget {α : Type} (d : Nat → α) (t : Table α) (k : Nat) : α :=
  match tfind k t with
  | some v => v
  | none => d k

/-- Write a table: the default of a key is not listed. -/
def tset {α : Type} [DecidableEq α] (d : Nat → α) (t : Table α) (k : Nat) (v : α) : Table α :=
  if v = d k then terase k t else tinsert k v t

/-- The canonical form of a table: keys strictly rising and no default listed. -/
def tsorted {α : Type} : Table α → Bool
  | [] => true
  | [_] => true
  | a :: b :: t => decide (a.1 < b.1) && tsorted (b :: t)

/-- The canonical form of a table over its default. -/
def tcanon {α : Type} [DecidableEq α] (d : Nat → α) (t : Table α) : Bool :=
  tsorted t && t.all (fun e => decide (e.2 ≠ d e.1))

/-- A default that is the same for every key. -/
def dflt {α : Type} (v : α) : Nat → α := fun _ => v

/-- Drop the last entries of a list that equal a filler (bit rows compare equal whatever their padding). -/
def listSet {α : Type} (l : List α) (i : Nat) (v : α) : List α := l.set i v

/-- A byte memory: a table of bytes whose default is 0. -/
abbrev Memory := List Host.Cell

/-- Read one byte of a memory. -/
def Memory.read (m : Memory) (a : Nat) : Byte := tget (dflt (0 : Byte)) m a

/-- Write one byte of a memory. -/
def Memory.write (m : Memory) (a : Nat) (b : Byte) : Memory := tset (dflt (0 : Byte)) m a b

/-- The canonical form of a memory. -/
def Memory.wf (m : Memory) : Bool := tcanon (dflt (0 : Byte)) m

/-- Read n bytes upward from an address. -/
def Memory.readN (m : Memory) (a : Nat) : Nat → List Byte
  | 0 => []
  | n + 1 => m.read a :: Memory.readN m (a + 1) n

/-- Write a run of bytes upward from an address. -/
def Memory.writeN (m : Memory) (a : Nat) : List Byte → Memory
  | [] => m
  | b :: bs => Memory.writeN (m.write a b) (a + 1) bs

end Sys2Proof.Machine
end

