-- ==== Sys2Proof/Machine/Bits.lean ====
section
/-! DEFINITION. Bit fields, saturation, wrapping and byte order: the helpers every chapter uses. -/

namespace Sys2Proof.Machine

/-- The field of n bits of a number that begins at bit lo. -/
def bits (x lo n : Nat) : Nat := (x >>> lo) % 2 ^ n

/-- One bit of a number as a truth value. -/
def bit (x i : Nat) : Bool := x.testBit i

/-- A truth value as a bit. -/
def b2n (b : Bool) : Nat := if b then 1 else 0

/-- Replace the field of n bits at bit lo. -/
def setBits (x lo n v : Nat) : Nat :=
  x - ((x >>> lo) % 2 ^ n) <<< lo + (v % 2 ^ n) <<< lo

/-- Add with saturation at a largest value. -/
def satAdd (top x n : Nat) : Nat := min top (x + n)

/-- Add with wrapping in w bits. -/
def wrapAdd (w x n : Nat) : Nat := (x + n) % 2 ^ w

/-- The two's complement reading of the low w bits. -/
def sext (w x : Nat) : Int :=
  let y := x % 2 ^ w
  if y < 2 ^ (w - 1) then (y : Int) else (y : Int) - (2 ^ w : Nat)

/-- The low w bits of an integer in two's complement. -/
def wrapInt (w : Nat) (i : Int) : Nat := (i % ((2 ^ w : Nat) : Int)).toNat

/-- Read a little-endian number from bytes (R12). -/
def leNat : List Byte → Nat
  | [] => 0
  | b :: bs => b.toNat + 256 * leNat bs

/-- The n little-endian bytes of a number (R12). -/
def leBytes : Nat → Nat → List Byte
  | 0, _ => []
  | n + 1, x => BitVec.ofNat 8 x :: leBytes n (x / 256)

/-- n little-endian bytes taken from position i of a byte list; missing bytes read 0. -/
def fieldAt (bs : List Byte) (i n : Nat) : Nat := leNat ((bs.drop i).take n)

/-- A list of n equal bytes. -/
def fill (n : Nat) (b : Byte) : List Byte := List.replicate n b

/-- Cut or pad with zeros to n bytes. -/
def padTo (n : Nat) (bs : List Byte) : List Byte := (bs ++ fill (n - bs.length) 0).take n

/-- The quotient rounded up. -/
def ceilDiv (a b : Nat) : Nat := (a + b - 1) / b

/-- Count the set bits among the low n bits. -/
def popCount (n x : Nat) : Nat := (List.range n).foldl (fun c i => c + b2n (bit x i)) 0

/-- The numbers of the set bits among the low n bits, rising. -/
def setBitsOf (n x : Nat) : List Nat := (List.range n).filter (fun i => bit x i)

/-- Whether the bytes from one position up to another are 0, as far as they are there. -/
def zeros (b : List Byte) (lo hi : Nat) : Bool := ((b.drop lo).take (hi - lo)).all (· = 0)

/-- The mask that has the listed bits set. -/
def maskOf (l : List Nat) : Nat := l.foldl (fun m i => m ||| (1 <<< i)) 0

/-- The first position from a start whose test holds, among n positions. -/
def firstFrom (start n : Nat) (p : Nat → Bool) : Option Nat :=
  ((List.range n).map (· + start)).find? p

/-- The least element of a list of numbers. -/
def minOf : List Nat → Option Nat
  | [] => none
  | x :: xs => match minOf xs with
    | none => some x
    | some y => some (min x y)

/-- Insert into a rising list of numbers without repeats. -/
def insertNat (x : Nat) : List Nat → List Nat
  | [] => [x]
  | y :: ys => if x < y then x :: y :: ys else if x = y then y :: ys else y :: insertNat x ys

/-- The rising list without repeats of a list's elements. -/
def sortNat (l : List Nat) : List Nat := l.foldl (fun acc x => insertNat x acc) []

/-- The median of a rising list (the lower of the two middle values). -/
def medianOf (l : List Nat) : Nat := l.getD ((l.length - 1) / 2) 0

/-- Insert by a key into a list that rises in it, after equal keys. -/
def insertBy {α : Type} (key : α → Nat) (x : α) : List α → List α
  | [] => [x]
  | y :: ys => if key x < key y then x :: y :: ys else y :: insertBy key x ys

/-- A stable sort by a rising key. -/
def sortBy {α : Type} (key : α → Nat) (l : List α) : List α :=
  l.foldl (fun acc x => insertBy key x acc) []

/-- The bits of a byte list, least significant first, as a number (the same as its little-endian value). -/
def bytesToNat (bs : List Byte) : Nat := leNat bs

end Sys2Proof.Machine
end

