-- ==== Sys2Proof/Config.lean ====
section
/-! DEFINITION. What the manual leaves open or takes from outside: constants without a body, so that no
proof can rest on a value of them. -/

namespace Sys2Proof

/-- The n-th open bit string of a width: what the manual leaves undefined, random or unstated takes the next one
(log entry 2). -/
opaque Config.freeBits : (w : Nat) → Nat → BitVec w

/-- What the host's memory holds at an address that the device has not written (log entry 4). -/
opaque Config.hostByte : Nat → Byte

/-- What a transcendental helper answers before it is held to the bound of R136: helper 0 VEXP2, 1 VLOG2, 2 VRCP,
3 VRSQRT (log entry 5). -/
opaque Config.helper : Nat → W32 → W32

/-- Where the page tables begin after the n-th device reset, as a page frame within the area that the Ringmaster keeps for them
(R232). -/
opaque Config.tableStart : Nat → BitVec 20

/-- SHA-512, taken from outside the manual (log entry 6). -/
opaque Config.sha512 : List Byte → BitVec 512

/-- HMAC-SHA-512 of a message under a key (R378). -/
opaque Config.hmacSha512 : List Byte → List Byte → BitVec 512

/-- ECDSA P-521 verification: public key, digest, signature (R379). -/
opaque Config.ecdsaVerify : List Byte → BitVec 512 → List Byte → Bool

/-- The AES key wrap of RFC 3394: key-encryption key and wrapped key give the key, or nothing (R373). -/
opaque Config.keyUnwrap : BitVec 256 → List Byte → Option (List Byte)

/-- AES-256-GCM opening: key, nonce, associated data, ciphertext and tag give the plaintext, or nothing (R378). -/
opaque Config.gcmOpen : List Byte → List Byte → List Byte → List Byte → List Byte → Option (List Byte)

/-- Whether tables of a segment type are ones that Tivik's format allows (R382 subcode 0x08; the format is not in
the manual). -/
opaque Config.tivikTablesOk : Nat → List Byte → Bool

/-- The physical bank and row of a byte offset in a pseudo-channel (R220: not part of the interface). -/
opaque Config.bankRow : Nat → Nat × Nat

/-- The row group of a row, as the core dies form it (R217). -/
opaque Config.rowGroup : Nat → Nat

/-- Activations of a row group at which the core dies ask for refresh management (R217). -/
opaque Config.refreshManagementThreshold : Nat

/-- What the frames of a design make of a queue port: direction, DROP, blocks in its chain, shape (R355, R371; Tivik's
frame layout is not in the manual). -/
opaque Config.portDesign : Table (List Byte) → Nat → Nat × Bool × Nat × Nat

/-- What the frames give a queue besides: the threshold of its level output and its credit count; and the queue that a block
heads without a queue port: DROP and its blocks (R354). -/
opaque Config.queueDesign : Table (List Byte) → Nat → Nat × Nat
opaque Config.freeQueue : Table (List Byte) → Nat → Option (Bool × Nat)

/-- The transmit taps that the frames give a user serial lane: pre-cursor and post-cursor (R366). -/
opaque Config.laneTaps : Table (List Byte) → Nat → Nat × Nat

/-- What the frames make of a memory block: queue mode, shape (R352). -/
opaque Config.blockDesign : Table (List Byte) → Nat → Bool × Nat

/-- The frequency in kHz that the frames give a pacer, if they use it (R368). -/
opaque Config.pacerDesign : Table (List Byte) → Nat → Option Nat

/-- The level that a pin drives from the cleared latches, if it is an output (R370). -/
opaque Config.pinDesign : Table (List Byte) → Nat → Option Bool

/-- What the frames make of a logic cell (R349; Tivik's frame layout is not in the manual). -/
opaque Config.cellDesign : Table (List Byte) → Nat → Cell

/-- The wires that the frames give a fast-path pin as an output: its level and its enable (R369). -/
opaque Config.fastDesign : Table (List Byte) → Nat → Option (Wire × Wire)

/-- The root key hash in fuses (R390). -/
opaque Config.rootKeyHash : BitVec 512

/-- The firmware key-encryption key that is fused at manufacture (R390). -/
opaque Config.firmwareKek : BitVec 256

/-- The private part of the identity key that the module made at manufacture, and the chain from the root to its
certificate, which names the Device Serial Number (R393). -/
opaque Config.identityKey : List Byte
opaque Config.identityChain : Nat → List Byte

/-- The alias key that an identity secret and a firmware hash give, and the certificate of a key under an issuer's key
(R393). -/
opaque Config.aliasKey : List Byte → BitVec 512 → List Byte
opaque Config.certify : List Byte → List Byte → List Byte

/-- The build number and the cascade protocol version of a firmware image (R425, R339; the image's layout is not in
the manual). -/
opaque Config.firmwareBuild : List Byte → Nat × Nat

/-- The perimeter node of a Midway queue port, as a number among the 30 of its die (R313, R325: fixed by the
variant). -/
opaque Config.portNode : Variant → Nat → Nat

end Sys2Proof
end

