-- ==== Sys2Proof/Machine/Types.lean ====
section
/-! DEFINITION. The parts of the state: one structure per unit of the manual, every field at its reset value
(log entry 3 where the manual states none). -/

namespace Sys2Proof.Machine

/-! ### Numbers (chapter 02) -/

/-- The exact value of an element: a signed fraction num / den, an infinity, or a NaN with its fraction field placed
at the top of 52 bits, so that bit 51 is the quiet bit (R32). -/
inductive XVal where
  | fin (neg : Bool) (num den : Nat)
  | inf (neg : Bool)
  | nan (neg : Bool) (frac : Nat)
  deriving DecidableEq, Repr

/-- The precision with hidden bit, exponent bits, bias and fraction bits of a floating format. -/
structure FloatFmt where
  prec : Nat
  ebits : Nat
  bias : Nat
  deriving DecidableEq, Repr

/-! ### Messages that leave the block -/

/-- A cascade message of R335 in the fields it carries. -/
inductive CascMsg where
  | write (queue addr group len off : Nat) (line : List Byte)
  | read (addr group len off rtag : Nat)
  | readData (rtag status : Nat) (line : List Byte)
  | writeDone (status lines : Nat)
  | signal (queue func trn n gen : Nat) (curgen : Bool) (fence : Nat)
  | signalDone (status queue : Nat)
  | trnOp (kind trn gen n : Nat) (curgen : Bool) (wtag func queue : Nat)
  | trnRel (trn gen : Nat)
  | trnDone (wtag status : Nat)
  | doorbell (func queue value : Nat)
  | collective (tag members kind count : Nat) (codes : List W64) (status : Nat)
  deriving DecidableEq, Repr

/-- What the block sends or answers, oldest first in the outbox of the state. -/
inductive Out where
  /-- an MSI-X message (R288) -/
  | msix (func vector addr data : Nat)
  /-- the answer to a BAR0 read (R434) -/
  | bar0 (func offset size value : Nat)
  /-- the answer to a BAR2 read (R261) -/
  | bar2 (data : List Byte)
  /-- a Completer Abort (R261, R418) -/
  | completerAbort
  /-- the answer to an SMBus read (R440) -/
  | smbus (data : List Byte)
  /-- a NACK on the SMBus (R440) -/
  | smbusNack
  /-- the answer to a configuration read (R258) -/
  | config (func item value : Nat)
  /-- an ATS translation request (R241) -/
  | atsRequest (func pasid page : Nat) (write : Bool)
  /-- a PRI page request (R242) -/
  | pageRequest (func pasid page : Nat) (rd wr : Bool)
  /-- the completion of an ATS invalidation (R243) -/
  | atsDone (func itag : Nat)
  /-- a memory controller's answer to a read: stack, line address, bytes, or uncorrectable (R212) -/
  | memLine (port addr : Nat) (data : List Byte) (bad : Bool)
  /-- a memory controller refuses a request because its queue is full (R213) -/
  | memRefused (port addr : Nat)
  /-- a message to another device of the cascade, with its E2E_SEQ, as it is given to its link (R335, R340) -/
  | casc (link dev seq : Nat) (m : CascMsg)
  /-- a flit on a cascade link (R333) -/
  | flit (link : Nat) (bytes : List Byte)
  /-- what a link sends without a sequence number: 0 ACK, 1 NAK, 3 NULL flits in idle, 5 the exit from idle (R331, R334) -/
  | linkCtl (link kind seq : Nat)
  /-- a marker block on a cascade lane, with its count (R329) -/
  | marker (lane count : Nat) (block : List Byte)
  /-- a word popped from a Midway queue chain (R354) -/
  | popWord (port : Nat) (data : W64) (keep : Nat) (last : Bool)
  /-- a push or pop that waits (R354) -/
  | queueWaits (port : Nat)
  /-- an output of a queue that changes: 0 its level output, 1 FULL, 2 EMPTY (R354) -/
  | queueOut (port which : Nat) (high : Bool)
  /-- a word read from a RAM-mode block (R353) -/
  | ramWord (block : Nat) (data : BitVec 72)
  /-- the response of a Midway memory port (R363) -/
  | portResponse (port rstatus : Nat) (data : List Byte)
  /-- a word, or an idle control block when none, sent on a user serial lane (R367) -/
  | laneWord (lane : Nat) (word : Option W64)
  /-- a level change that the arbiter passes into the fabric, or a level that a pin drives (R364, R365) -/
  | pinEvent (pin : Nat) (level driven : Bool)
  /-- a handshake latch raises or lowers ACK (R350) -/
  | latchAck (cell : Nat) (ack : Bool)
  /-- a pacer raises REQ (R368) -/
  | pacerReq (pacer : Nat)
  /-- an SPDM answer: response code and body (R394) -/
  | spdm (code : Nat) (body : List Byte)
  /-- an on-chip flit is sent again (R322) -/
  | nocReplay (source target net : Nat)
  deriving DecidableEq, Repr

/-! ### Moraine and Ice core (chapter 17) -/

/-- A Moraine record (R398). On the ZQ9-H repeats and lastDelta are its repeat tail (R405). -/
structure MorRec where
  seq : Nat
  code : Nat
  src : Nat
  sev : Nat
  time : Nat
  payload : List Byte
  repeats : Nat
  lastDelta : Nat
  touched : Nat
  deriving DecidableEq, Repr

/-- A code's token bucket (R404): tokens in units of 10^-9, and the time they were counted. -/
structure Bucket where
  level : Nat := 32000000000
  since : Nat := 0
  drops : Nat := 0
  firstDrop : Nat := 0
  lastDrop : Nat := 0
  deriving DecidableEq, Repr

/-- The Moraine (R398 to R409, R415). -/
structure Moraine where
  nextSeq : Nat := 0
  ring : List MorRec := []
  pending : List MorRec := []
  frozen : Bool := false
  pendLost : Nat := 0
  lostNow : Nat := 0
  firstLost : Nat := 0
  toFlash : List MorRec := []
  flash : List (Nat × MorRec) := []
  flashStart : Nat := 0
  flashEnd : Nat := 0
  irqSev : Nat := 15
  vector : Nat := 0
  rate : Nat := 100
  burst : Nat := 32
  buckets : Table Bucket := []
  newBucket : Bucket := {}
  dropped : Nat := 0
  lastCode : Nat := 0
  lastIrq : Option Nat := none
  irqHeld : Bool := false
  copyAddr : Nat := 0
  copyLen : Nat := 0
  copyDone : Bool := false
  copyTrunc : Bool := false
  copyFault : Bool := false
  copySource : Bool := false
  copyMinSev : Nat := 0
  copyFrom : Nat := 0
  nonce : BitVec 256 := 0
  clearDone : Bool := false
  clearResult : Nat := 0
  clearOffset : Nat := 0
  deriving DecidableEq, Repr

/-- The counters of the ledger (R412); times in ns. -/
structure Ledger where
  commitSeq : Nat := 0
  firstCal : Nat := 0
  lastCal : Nat := 0
  poweredNs : Nat := 0
  standbyNs : Nat := 0
  standbyCycles : Nat := 0
  thermalCycles : Nat := 0
  thermalLimitNs : Nat := 0
  thermalTrips : Nat := 0
  cfgLoads : Table Nat := []
  fwStores : Table Nat := []
  flashErases : Table Nat := []
  sparesUsed : Table Nat := []
  fusesBlown : Table Nat := []
  retiredMap : List Nat := []
  doubleRefNs : Table Nat := []
  hardRepairs : Table Nat := []
  framesRetired : Table Nat := []
  floeRetired : Table Nat := []
  stackLost : List Nat := []
  linkUpNs : Table Nat := []
  linkCorr : Table Nat := []
  linkUncorr : Table Nat := []
  linkRetrains : Table Nat := []
  linkFailures : Table Nat := []
  laneUpNs : Table Nat := []
  laneOver : Table Nat := []
  laneUnder : Table Nat := []
  downshifts : Nat := 0
  deriving DecidableEq, Repr

/-- The Ice core: the present ledger, its two committed copies and the calendar (R411, R413 to R415). -/
structure Ice where
  now : Ledger := {}
  copy0 : Option Ledger := none
  copy1 : Option Ledger := none
  calValid : Bool := false
  refT : Nat := 0
  refC : Nat := 0
  lastCommit : Nat := 0
  coldSeen : Bool := false
  deriving DecidableEq, Repr

/-! ### Power, start-up and resets (chapters 01, 18, 19) -/

/-- The governor and the rails (R22 to R28, R436 to R438). -/
structure Power where
  capW : Nat := 0x960
  capInForce : Nat := 0x960
  floorDefault : Bool := false
  boostEn : Bool := true
  stage : Nat := 0
  vcoreMv : Nat := 0
  inputW : Nat := 0
  minMlcs : Nat := 0
  medMlcs : Nat := 0
  limitNs : Nat := 0
  throttled : Bool := false
  winSum : Nat := 0
  winCount : Nat := 0
  overCount : Nat := 0
  overRun : Nat := 0
  under5 : Bool := true
  capStage : Nat := 0
  lastSample : Nat := 0
  lastWindow : Nat := 0
  supplyMv : Nat := 48000
  temps : Table Int := []
  thermalLimit : Bool := false
  alertN : Bool := true
  thermN : Bool := true
  pwrGood : Bool := false
  deriving DecidableEq, Repr

/-- Start-up, resets and the pins that cause them (R416 to R424). -/
structure Startup where
  auxOn : Bool := false
  supplyOk : Bool := false
  standbyDone : Bool := false
  railsOn : Bool := false
  ready : Bool := false
  failed : Bool := false
  thermalHold : Bool := false
  perst : Bool := true
  cxlPerst : Bool := true
  rmDie : Nat := 0
  excluded : List Nat := []
  cause : Nat := 0
  step : Nat := 0
  code : Nat := 0
  deviceResets : Nat := 0
  strapRole : Nat := 0
  strapId : Nat := 0
  agrValid : Bool := false
  agrKind : Nat := 0
  agrIndex : Nat := 0
  agrResult : Nat := 0
  agrRejects : Nat := 0
  tilesActive : Nat := 0
  capStacks : Nat := 0
  capFloe : Nat := 0
  deriving DecidableEq, Repr

/-- What is fused or fixed at manufacture (R425, R97, R98; log entry 7): repairs holds the factory repairs of a physical
tile, each in the layout of a field-fuse slot. -/
structure Fused where
  vendor : Nat := 0
  stepping : Nat := 0
  family : Nat := 0
  serial : Nat := 0
  repairs : Table (List Nat) := []
  deriving DecidableEq, Repr

/-! ### Accesses (chapter 10) -/

/-- Who makes an access: its address space, its function and PASID for host addresses, the unit as FAULT_UNRESOLVED
names it (R231, R245), and the priority. -/
structure Who where
  asid : Nat := 0
  func : Nat := 0
  pasid : Option Nat := none
  unit : Nat := 0x0500
  prio : Nat := 0
  deriving DecidableEq, Repr

/-- What an access waits for while its fault can resolve (R245, R241, R230, R259). -/
inductive Wait where
  /-- a RESERVED leaf that the Ringmaster backs (R236) -/
  | backing
  /-- a MIGRATING page that is written (R203) -/
  | migration
  /-- a host translation that is requested (R241) -/
  | translation
  /-- a page request (R242) -/
  | pageRequest
  /-- a CXL link that may retrain (R230) -/
  | cxl
  /-- the host link, which is down (R259) -/
  | link
  deriving DecidableEq, Repr

/-- What a translation answers. -/
inductive Tr where
  | phys (a : Nat)
  | host (a : Nat)
  | bad (status : Nat)
  | wait (w : Wait)
  deriving DecidableEq, Repr

/-- Why an access stops: a status and the address that completions report (R285), or a fault that may resolve at an
address as presented. -/
inductive Stop where
  | fault (status addr : Nat)
  /-- an uncorrectable or lost line at a physical address (R225) -/
  | line (addr : Nat)
  /-- a scale line whose tag disagrees: its address, FIRST_BLOCK expected and found, STAMP expected and found
  (R68) -/
  | skew (addr expFirst first expStamp stamp : Nat)
  /-- extents or an index that disagree while the operation runs (R277, R282) -/
  | shape
  | wait (w : Wait) (addr : Nat)
  deriving DecidableEq, Repr

/-- Why a descriptor fails validation (R447, R448): a status with DETAIL, or a structure that it names cannot be read. -/
inductive Reject where
  | code (status detail : Nat)
  | read (e : Stop)
  deriving DecidableEq, Repr

/-! ### Host interface (chapter 11) -/

/-- The PCIe state of one function (R258, R288); payload and request sizes stand at the values of the PCIe specification at
reset, and aer is AER's uncorrectable error status (log entry 3). -/
structure PciFunc where
  msixEnable : Bool := false
  msixMask : Bool := false
  entries : Table (Nat × Nat × Bool) := []
  pba : List Nat := []
  atsEnable : Bool := false
  priEnable : Bool := false
  priAlloc : Nat := 0
  priStopped : Bool := false
  d3hot : Bool := false
  numVfs : Nat := 0
  bar2Log2 : Nat := 30
  maxPayload : Nat := 128
  maxRead : Nat := 512
  aspmL1 : Bool := false
  l0p : Bool := false
  pasidEn : Bool := false
  aer : Nat := 0
  deriving DecidableEq, Repr

/-- The host link (R259). -/
structure HostLink where
  up : Bool := false
  flit : Bool := false
  noFlit : Bool := false
  width : Nat := 0
  rate : Nat := 0
  retrains : Nat := 0
  training : Bool := false
  widthLimit : Nat := 3
  deriving DecidableEq, Repr

/-- The three members of a queue group's agreement group (R262, R263). -/
structure GroupCfg where
  bind : Nat
  qtable : Nat
  ctrl : Nat
  deriving DecidableEq, Repr

/-- One entry of a queue table in its 32 bytes' fields (R264). -/
structure QEntry where
  sqBase : Nat := 0
  cqBase : Nat := 0
  sqLog2 : Nat := 0
  cqLog2 : Nat := 0
  priority : Nat := 0
  enable : Bool := false
  irqEn : Bool := false
  vector : Nat := 0
  epoch : Nat := 0
  deriving DecidableEq, Repr

/-- A queue group (R237, R262 to R266, R204 to R206); tableWait is the address at which a commit waits to read its table. -/
structure Group where
  active : GroupCfg
  shadow : GroupCfg
  result : Nat := 0
  snapshot : Option GroupCfg := none
  tableWait : Option Nat := none
  newEntries : List (Nat × QEntry) := []
  held : List Nat := []
  modTime : Nat := 0
  modCount : Nat := 0
  mmuBase : Nat := 0
  mmuLen : Nat := 0
  mmuSize : Nat := 0
  mmuWr : Bool := false
  mmuRd : Bool := false
  mmuOp : Nat := 0
  mmuBusy : Bool := false
  mmuStatus : Nat := 0
  tilePin : Option Nat := none
  latencyFirst : Bool := false
  deriving DecidableEq, Repr

/-- A queue (R265, R268, R271, R289), and when its last descriptor in flight left it (R310). -/
structure Queue where
  entry : QEntry := {}
  head : Nat := 0
  tail : Nat := 0
  cqTail : Nat := 0
  cqHead : Nat := 0
  phase : Bool := true
  stopped : Bool := false
  ringFailed : Bool := false
  irqCount : Nat := 0
  irqFirst : Nat := 0
  irqTime : Nat := 0
  lastEnd : Nat := 0
  waitAddr : Option Nat := none
  deriving DecidableEq, Repr

/-- The doorbells that were dropped (R270). -/
structure Dropped where
  reason : Nat := 0
  queue : Nat := 0
  count : Nat := 0
  deriving DecidableEq, Repr

/-- An arbiter (R185, R268): grants each level has waited, the group that each level serves with what is left of
its quantum, and the queue or slot that each group of a level served last (keyed 4096 × level + group). -/
structure Arbiter where
  waited : Table Nat := []
  lastGroup : Table Nat := []
  deficit : Table Nat := []
  lastQueue : Table Nat := []
  deriving DecidableEq, Repr

/-- What asks an arbiter for a grant: its priority, its queue group with the group's WEIGHT, and its number (R184, R185). -/
structure Claim where
  prio : Nat
  group : Nat
  weight : Nat
  id : Nat
  deriving DecidableEq, Repr

/-- Where an operation stands between its fetch and its completion entry (R268, R274, R186, R246). -/
inductive Phase where
  /-- fetched; earlier descriptors of its queue are still in flight (R186) -/
  | gated
  /-- validated; its header waits for a generation (R186, R298) -/
  | headWait
  /-- nothing holds it; its own row runs it -/
  | ready
  /-- its own event is awaited: a Turnstile, a port, a lane, a peer, a drain -/
  | waiting
  /-- suspended at its cursor by a fault that resolves (R245) -/
  | suspended
  /-- matrix, vector or fabric work runs on units -/
  | running
  /-- ended; its completion is not written yet -/
  | done
  deriving DecidableEq, Repr

/-- The result that a completion carries (R284, R285). -/
structure Result where
  status : Nat := 0
  subcode : Nat := 0
  cursor : Nat := 0
  faultAddr : Nat := 0
  detail : Nat := 0
  deriving DecidableEq, Repr

/-- A binding of a vector program to a source (R282). -/
structure Binding where
  kind : Nat
  source : Nat
  ringOff : Nat
  winLen : Nat
  fmt : Nat
  deriving DecidableEq, Repr

/-- The totals of a statistics record while an operation runs, with the terms of SSE and SSQ, whose order of addition
placement chooses (R70 to R72). -/
structure Stats where
  elements : Nat := 0
  sse : List Nat := []
  ssq : List Nat := []
  amax : Nat := 0
  sat : Nat := 0
  ufz : Nat := 0
  nonfinite : Nat := 0
  blocks : Nat := 0
  clampHi : Nat := 0
  clampLo : Nat := 0
  bexpMin : Nat := 0xFF
  bexpMax : Nat := 0
  deriving DecidableEq, Repr

/-- A tensor record (R276). -/
structure Tensor where
  base : Nat
  format : Nat
  rank : Nat
  stamp : Nat
  dims : List Nat
  strides : List Int
  scalePtr : Nat
  tscale : Nat
  deriving DecidableEq, Repr

/-- A position that ATTEND has read: its number, key, value, and the flags of decoding (R152, R157). -/
structure KvPos where
  pos : Nat
  key : List XVal
  value : List XVal
  flags : Nat
  deriving DecidableEq, Repr

/-- A page that ATTEND has read under its lock: its entry, its stack, whether that stack's engines read it, and its positions
(R141, R152). -/
structure KvSeen where
  entry : Nat
  stack : Nat
  floe : Bool := false
  rows : List KvPos
  deriving DecidableEq, Repr

/-- An operation: a descriptor in flight (R268, R272 to R274, R283). -/
structure Op where
  tag : Nat
  queue : Nat
  slot : Nat
  desc : List Byte
  phase : Phase := .gated
  valid : Bool := false
  wait : Option Wait := none
  waitWrite : Bool := false
  result : Result := {}
  asid : Nat := 0
  func : Nat := 0
  pasid : Option Nat := none
  prio : Nat := 0
  recs : List (Nat × List Byte) := []
  seqRec : List Byte := []
  image : List Byte := []
  binds : List (Nat × Binding) := []
  pageList : List Nat := []
  cursor : Nat := 0
  started : Bool := false
  flags : Nat := 0
  blockFlags : Table Nat := []
  offender : Nat := 0
  offOrd : Nat := 0
  onFloe : Option Nat := none
  stats : Table Stats := []
  faultAddr : Nat := 0
  since : Nat := 0
  gen : Nat := 0
  blocksLeft : Nat := 0
  blocksDone : List Nat := []
  subKey : Nat := 0
  subRun : Nat := 0
  blockFl : Nat := 0
  blockCand : Option Nat := none
  slices : List Nat := []
  sumTree : List Nat := []
  tiles : List Nat := []
  phys : Nat := 0
  assign : List Nat := []
  resident : Option Nat := none
  noRuns : Bool := false
  order : Nat := 0
  lines : Table (List Byte) := []
  sent : List (Nat × Nat) := []
  sentFlags : List (Nat × Nat × Nat × Nat) := []
  inPlace : Bool := false
  old : Table Byte := []
  kvSeen : List KvSeen := []
  closing : Nat := 0
  statsSent : Nat := 0
  spans : List (Nat × Nat) := []
  began : Nat := 0
  deriving DecidableEq, Repr

/-! ### Translation (chapter 10) and placement of data (chapter 08) -/

/-- The kinds of leaf of a device page table but for INVALID, which is no leaf listed (R235). -/
inductive LeafKind where
  | reserved | backed | tier2 | migrating | lost
  deriving DecidableEq, Repr

/-- A run of equal leaves of an address space: the leaves of [base, base + len) of size 2^leaf; where they are
backed, leaf by leaf upward from the physical address phys (R234, R235). -/
structure PRange where
  asid : Nat
  base : Nat
  len : Nat
  leaf : Nat
  kind : LeafKind
  rd : Bool
  wr : Bool
  pin : Bool := false
  kv : Bool := false
  cause : Bool := false
  fromTier2 : Bool := false
  phys : Nat := 0
  stack : Option Nat := none
  deriving DecidableEq, Repr

/-- An entry of a page table: the next table, or a leaf in its 8 bytes, INVALID as 0 (R234, R235). -/
inductive TableEntry where
  | table (addr : Nat)
  | leaf (pte : Nat)
  deriving DecidableEq, Repr

/-- A placement hint recorded for a range (R204): kind 1 affinity, 2 keep near, 3 pin. -/
structure Hint where
  asid : Nat
  base : Nat
  len : Nat
  kind : Nat
  arg : Nat
  stackSet : Nat
  window : Nat
  func : Nat
  deriving DecidableEq, Repr

/-- The backing that a hint or rule asks for a region: on one of some stacks, or interleaved in a window (R195). -/
inductive Backing where
  | onOne (among : List Nat)
  | inWindow (n : Nat)
  deriving DecidableEq, Repr

/-- A page that migrates (R203): its old and new place, and the priority and weight of its transfer (R184). -/
structure Migration where
  asid : Nat
  page : Nat
  old : Nat
  new : Nat
  toTier1 : Bool
  prio : Nat := 0
  weight : Nat := 1
  deriving DecidableEq, Repr

/-- A page request that waits for its answer (R242). -/
structure PriReq where
  func : Nat
  pasid : Nat
  page : Nat
  wr : Bool
  deadline : Nat
  sent : Bool := true
  deriving DecidableEq, Repr

/-- A host translation held in the address translation cache of a die (R240, R241). -/
structure AtsEntry where
  die : Nat := 0
  func : Nat
  pasid : Nat
  page : Nat
  rd : Bool
  wr : Bool
  untranslated : Bool := false
  deriving DecidableEq, Repr

/-- A carousel's ring (R180 to R183): what identifies its weights, its logical tiles in order, the phases that each has done
of the step that runs, and whether work of a higher priority has taken the ring. -/
structure Carousel where
  record : List Byte
  ring : List Nat
  phases : List Nat := []
  taken : Bool := false
  op : Nat := 0
  deriving DecidableEq, Repr

/-- A multicast tree (R177 to R179, R320): the operations it serves, its number in the network's group table, its nodes as they
were when it formed with the root first, its cursor as a number of lines of the row operand, what it had sent when the present
block row began, the block rows sent whole, and the members that were pruned with the cursor from which each fetches by
itself. -/
structure Tree where
  root : Nat
  members : List Nat
  ops : List Nat
  group : Nat := 0
  nodes : List Nat := []
  cursor : Nat := 0
  base : Nat := 0
  rows : List Nat := []
  pruned : List (Nat × Nat) := []
  deriving DecidableEq, Repr

/-- An open sweep of generation requests (R89, R90). -/
structure Sweep where
  opened : Nat
  limit : Nat
  cols : Nat
  ops : List Nat
  key : List Byte
  deriving DecidableEq, Repr

/-- A weight tensor that stays resident in the tile stores between generation sweeps (R91): what identifies it, the
element codes with their B8 codes as they were fetched, and the sweeps it has served. -/
structure Resident where
  id : Nat
  ident : List Byte
  codes : List (Nat × Nat)
  sweeps : Nat
  deriving DecidableEq, Repr

/-- Placement by the Ringmaster (chapter 08). -/
structure Placement where
  migCtrl : Nat := 0x8000010000641001
  migNext : Option Nat := none
  promoted : Nat := 0
  demoted : Nat := 0
  counts : Table Nat := []
  lastEpoch : Nat := 0
  lastSpeed : Nat := 0
  migrations : List Migration := []
  hints : List Hint := []
  fillTimeout : Nat := 50
  viewAddr : Nat := 0
  viewLen : Nat := 0
  viewDone : Bool := false
  viewTrunc : Bool := false
  viewKind : Nat := 0
  viewGroup : Nat := 0
  viewSel : Nat := 0
  sweeps : Table Sweep := []
  nextSweep : Nat := 0
  resident : Option Resident := none
  rings : Table Carousel := []
  trees : Table Tree := []
  nextTree : Nat := 0
  ctxAddr : Nat := 0
  ctxDone : Bool := false
  ctxNone : Bool := false
  ctxSel : Nat := 0
  deriving DecidableEq, Repr

/-- A KV page that the Ringmaster has allocated: where its entry stands, what it holds, its pieces of memory in
order, where the Ringmaster maps them, and its lock: readers, a writer, and the requests in order; a request is an operation and whether it writes
(R147 to R154, R451; log entry 15). -/
structure KvPage where
  asid : Nat
  entry : Nat
  seqId : Nat
  layer : Nat
  head : Nat
  page : Nat
  stack : Nat
  leaf : Nat
  pieces : List Nat
  va : Option Nat := none
  lost : Bool := false
  readers : List Nat := []
  writer : Option Nat := none
  waiting : List (Nat × Bool) := []
  deriving DecidableEq, Repr

/-! ### Memory system (chapter 09) -/

/-- A request that a memory controller holds (R212, R213). Its data is what its line held, or will hold, in the
order of acceptance (R214). -/
structure MemReq where
  port : Nat
  addr : Nat
  write : Bool
  data : List Byte
  enables : Nat
  time : Nat
  target : Nat
  close : Bool
  lost : Bool
  op : Option Nat
  deriving DecidableEq, Repr

/-- A request as its port offers it (R211, R213). -/
structure MemCall where
  port : Nat
  addr : Nat
  write : Bool
  data : List Byte
  enables : Nat
  close : Bool
  op : Option Nat
  deriving DecidableEq, Repr

/-- A bank (R215, R217, R218, R226). -/
structure Bank where
  openRow : Option Nat := none
  lastUse : Nat := 0
  policy : Nat := 0
  postponed : Nat := 0
  acts : Table Nat := []
  rfmDue : Bool := false
  deriving DecidableEq, Repr

/-- A stack and its memory controller (R210 to R227); ingress holds the requests that it refused, in their ports' buffers (R213,
R319). -/
structure Stack where
  present : Bool := false
  trained : Bool := false
  doubleRef : Bool := false
  derated : Bool := false
  lost : Bool := false
  tempC : Int := 0
  retrains : Nat := 0
  targets : List Nat := [0x7D0, 0x258, 0x3E8, 0xFA0, 0x190, 0x12C]
  ue : Nat := 0
  ceCtrl : Nat := 0
  ceOde : Nat := 0
  tableFull : Bool := false
  spareMin : Nat := 0
  softPending : Nat := 0
  repairFailed : Nat := 0
  patrolH : Nat := 0x18
  rowThresh : Nat := 4
  frames : Table Nat := []
  rowCounts : Table Nat := []
  repairDue : List Nat := []
  softRows : List Nat := []
  reqs : List MemReq := []
  burst : Bool := false
  banks : Table Bank := []
  retrainFailed : List Nat := []
  ingress : List MemCall := []
  deriving DecidableEq, Repr

/-- One copy of an interleave window's registers (R219, R221, R222). -/
structure WinCfg where
  base : Nat
  size : Nat
  map : Nat
  deriving DecidableEq, Repr

/-- An interleave window: active, shadow and the snapshot under check. -/
structure Window where
  active : WinCfg := { base := 0, size := 0, map := 0 }
  shadow : WinCfg := { base := 0, size := 0, map := 0 }
  result : Nat := 0
  snapshot : Option WinCfg := none
  deriving DecidableEq, Repr

/-- A CXL port (R228 to R230), with the requests that wait while its link is down (R319). -/
structure CxlPort where
  up : Bool := false
  failed : Bool := false
  width : Nat := 0
  rate : Nat := 0
  capGib : Nat := 0
  downSince : Option Nat := none
  bad : List Nat := []
  ingress : List MemCall := []
  deriving DecidableEq, Repr

/-! ### Tiles (chapters 04, 05, 07, 08, 10) -/

/-- The columns of a bank or of an epilogue block that one operation owns: from column off, cols of them, with the flags and
the first-INVALID candidate of the array in those columns (R89, R91, R104, R105); of a drain into memory also the pieces
delivered and their flags, and whether a fault holds it (R92). -/
structure EpiOwn where
  op : Nat
  off : Nat := 0
  cols : Nat
  flags : Nat := 0
  cand : Option Nat := none
  ord : Nat := 0
  sent : Nat := 0
  sentFl : Nat := 0
  held : Bool := false
  deriving DecidableEq, Repr

/-- An accumulator bank of one partition (R83, R86, R104, R105): 0 free, 1 accumulating, 2 draining; the entries by
row × 32 + column, the OR of the sticky flags, the first-INVALID candidate with its place in the tile's processing order,
the last command for it, when it closed among the tile's banks (R85), and the columns that each operation owns in it (none:
all are those of its command). place is the key of the output block and the first row and column of the share, where the
Ringmaster chose them; slices are the commands since FIRST with what was fed to them, which a resumed partition runs again
(R94). -/
structure PeBank where
  st : Nat := 0
  wide : Bool := false
  vals : Table Nat := []
  flags : Nat := 0
  cand : Option Nat := none
  ord : Nat := 0
  cmd : Nat := 0
  closed : Nat := 0
  own : List EpiOwn := []
  place : Option (Nat × Nat × Nat) := none
  slices : List (Nat × List Byte) := []
  deriving DecidableEq, Repr

/-- A partition of a matrix engine (R93 to R95, R107): 0 idle, 1 running, 2 stopped with its context saved; and the
block commands that wait for a draining bank, each with the column operand fed to it (R86). -/
structure Partn where
  st : Nat := 0
  accBank : Nat := 0
  bankA : PeBank := {}
  bankB : PeBank := {}
  cmd : Nat := 0
  held : List (Nat × List Byte) := []
  deriving DecidableEq, Repr


/-- An output block of a MATMUL or CONV, or of a sweep of them, whose values are ready for an epilogue run, or stand in
the vector bank already (R89, R113 to R115, R139): the partition that computed it, its first row and column within the
128 × 32 block (R93), and the columns of each operation that it serves. -/
structure EpiBlock where
  op : Nat
  base : Nat := 0
  vals : Option (List Nat) := none
  wide : Bool := false
  part : Nat := 0
  row0 : Nat := 0
  col0 : Nat := 0
  brow : Nat := 0
  bcol : Nat := 0
  batch : Nat := 0
  rows : Nat := 0
  cols : Nat := 0
  own : List EpiOwn := []
  deriving DecidableEq, Repr

/-- An arrival counter of a run (R127, R282): how it is bound (0 not, 1 a tensor, 2 a queue port), what it counts, its
release mark, and the ring that its source fills. -/
structure ArrCounter where
  bound : Nat := 0
  src : Nat := 0
  count : Nat := 0
  ended : Bool := true
  release : Int := 0
  ringOff : Nat := 0
  winLen : Nat := 0
  deriving DecidableEq, Repr

/-- A loop level (R120). -/
structure LoopLevel where
  count : Nat
  start : Nat
  len : Nat
  deriving DecidableEq, Repr

/-- The vector engine with its run (R108, R113, R114, R138): 0 idle, 1 epilogue run, 2 stream run, 3 stopped by a
fault. Vector and accumulator lanes are keyed by 64 × register + lane. Of an epilogue run the flags stand by column of its
block too, and the first INVALID of each column in program order (R91); of a stream run also the flags and the candidate
that stood when it last delivered (R56). -/
structure VecRun where
  kind : Nat := 0
  op : Nat := 0
  prio : Nat := 0
  imgAddr : Nat := 0
  imgTag : Nat := 0
  pc : Nat := 0
  v : Table Nat := []
  acc : Table Nat := []
  sreg : Table Nat := []
  preds : Table Nat := []
  loops : List LoopLevel := []
  winBase : Nat := 0
  winSize : Nat := 0
  ctrs : Table ArrCounter := []
  flags : Nat := 0
  cand : Option Nat := none
  colFl : Table Nat := []
  colCand : List (Nat × Nat) := []
  sentFl : Nat := 0
  sentCand : Option Nat := none
  emitted : List Byte := []
  delivered : Nat := 0
  emitPc : Nat := 0
  tileIx : Nat := 0
  block : Option EpiBlock := none
  deriving DecidableEq, Repr

/-- A transfer in a slot of an access engine that feeds a run's window, or (window false) that belongs to another operation
which a fault holds at its cursor: its source from element first to last, the lines
that have arrived by their number from the tensor's lowest, its priority, queue group and WEIGHT (R166 to R171, R184,
R246). -/
structure Transfer where
  op : Nat
  prio : Nat := 0
  group : Nat := 0
  weight : Nat := 1
  ctr : Nat
  record : List Byte
  fmt : Nat
  first : Nat
  last : Nat
  cursor : Nat
  arrived : Table (List Byte) := []
  suspended : Bool := false
  faultAddr : Nat := 0
  window : Bool := true
  deriving DecidableEq, Repr

/-- A physical tile; accepted counts the block commands that its sequencer has accepted (R85, R105), mcastRx the bytes received as a multicast member (R192), shards are what its two
shard buffers hold: number, element codes and B8 codes (R180), copies the regions of its store that copy memory: address, bytes,
device virtual address and address space (R255), and arb arbitrates among its slots (R185). Its state: 0 ACTIVE, 1 SLOW, 2 retired, 3 spare unused, 4 checking (R200, R208). -/
structure Tile where
  st : Nat := 3
  logical : Option Nat := none
  rate : Nat := 0
  hist : List Nat := []
  mode : Nat := 0
  check : Nat := 0
  parts : Table Partn := []
  slots : List Nat := []
  store : Memory := []
  bank : Memory := []
  run : VecRun := {}
  images : List (Nat × Nat × Nat) := []
  epi : List EpiBlock := []
  vxFault : Option (Nat × Nat) := none
  xfers : Table Transfer := []
  pruned : Nat := 0
  mcastRx : Nat := 0
  accepted : Nat := 0
  shards : List (Nat × List (Nat × Nat)) := []
  copies : List (Nat × Nat × Nat × Nat) := []
  arb : Arbiter := {}
  deriving DecidableEq, Repr

/-- A saved context (R255 to R257): 0 a partition, 1 a stream run. stopped: its partition was stopped by a fault or an error
of its own work (R94). refetch are the tile-store regions that copy memory: address, bytes, device virtual address and
address space (R255). -/
structure Context where
  kind : Nat
  prio : Nat
  op : Nat
  tile : Nat
  part : Nat
  time : Nat
  partn : Option Partn := none
  mode : Nat := 0
  run : Option VecRun := none
  window : List Byte := []
  stores : List (Nat × List Byte) := []
  refetch : List (Nat × Nat × Nat × Nat) := []
  xfers : Table Transfer := []
  stopped : Bool := false
  deriving DecidableEq, Repr

/-- The Floe engines of a stack: those retired, lock requests that waited, KV pages read (R145, R165). -/
structure FloeUnit where
  retired : List Nat := []
  buffer : List Nat := []
  lockWait : Nat := 0
  pagesRead : Nat := 0
  deriving DecidableEq, Repr

/-- A program image that the Ringmaster has checked (R111). -/
structure Image where
  addr : Nat
  tag : Nat
  bytes : List Byte
  deriving DecidableEq, Repr

/-! ### Turnstiles (chapter 12) -/

/-- Who sent an operation on a Turnstile from another device: the device, whether it came by TRN_OP (then its WTAG) or
by SIGNAL (then its queue), and the queue of its channel (R303 to R307). -/
structure Peer where
  dev : Nat
  byOp : Bool
  mark : Nat
  queue : Nat
  deriving DecidableEq, Repr

/-- An entry of the waiter table (R291, R296 to R301): kind 0 a wait, 1 an arrival for a future generation, 2 such an
arrival that waits after it has counted, 3 a header wait; the operation of this device, or the peer's. -/
structure Waiter where
  kind : Nat
  op : Nat := 0
  peer : Option Peer := none
  gen : Nat
  n : Nat := 0
  time : Nat := 0
  deriving DecidableEq, Repr

/-- A Turnstile (R291 to R293); on a member of a group, the mirror of a group Turnstile (R308). -/
structure Turnstile where
  count : Nat := 1
  width : Nat := 0
  owner : Nat := 0
  remote : Bool := false
  ignored : Bool := false
  gen : Nat := 0
  arrived : Nat := 0
  total : Nat := 0
  waiters : List Waiter := []
  lastArrival : Nat := 0
  deriving DecidableEq, Repr

/-- A deadlock watcher (R310), with the time from which its interval counts at the earliest. -/
structure Watcher where
  enable : Bool := false
  fired : Bool := false
  vector : Nat := 0
  interval : Nat := 1000
  lastGroup : Nat := 0
  firstGroup : Nat := 0
  since : Nat := 0
  status : Nat := 0
  deriving DecidableEq, Repr

/-! ### Network on chip (chapter 13) -/

/-- The network (R322, R323, R325): NOC_ERR_LOG, and the flits replayed on the outgoing links of a node and
those that it forwards, by 4 × node + network; the group table of multicast by group number (R320), and the numbers of the
lines that each die's read cache holds, oldest first (R321). -/
structure Noc where
  errLog : Nat := 0
  replays : Table Nat := []
  flits : Table Nat := []
  groups : Table Nat := []
  caches : Table (List Nat) := []
  deriving DecidableEq, Repr

/-! ### Serial lanes and cascade (chapter 14) -/

/-- A packet that a link sends: its destination, the queue of its channel, its message slot and its line (R335, R341). -/
structure TxMsg where
  dev : Nat
  queue : Nat
  slot : List Byte
  line : List Byte
  deriving DecidableEq, Repr

/-- A flit that has not been acknowledged (R334). -/
structure TxFlit where
  seq : Nat
  bytes : List Byte
  msg : Option TxMsg
  deriving DecidableEq, Repr

/-- A cascade link (R326 to R337, R347), with its receiver (sequence number expected, whether a NAK is out) and its
transmitter (next sequence number, last one acknowledged, packets that wait, flits not yet acknowledged, whether an
acknowledgement is owed, credits received and due). -/
structure CascLink where
  up : Bool := false
  idle : Bool := false
  failed : Bool := false
  partner : Nat := 0
  partnerLink : Nat := 0
  width : Nat := 0
  retrains : Nat := 0
  replays : Nat := 0
  training : Bool := false
  badLane : Option Nat := none
  retrainTimes : List Nat := []
  failRow : Nat := 0
  rxFlits : Nat := 0
  rxNext : Nat := 0
  naked : Bool := false
  rxIdle : Bool := false
  txNext : Nat := 0
  acked : Nat := 4095
  idleSince : Nat := 0
  owed : Bool := false
  txQueue : List TxMsg := []
  txBuf : List TxFlit := []
  credits : List Nat := [0, 0, 0, 0]
  creditDue : List Nat := [0, 0, 0, 0]
  deriving DecidableEq, Repr

/-- A cascade lane (R327 to R330, R337): FEC counts, the times of its latest uncorrected codewords, markers sent and when the next is
due, the count and skew of the last marker received, codewords received since training, and whether the last of them could not be
corrected. -/
structure CascLane where
  uncorr : Nat := 0
  corr : Nat := 0
  badTimes : List Nat := []
  markersSent : Nat := 0
  markerSeen : Nat := 0
  skew : Nat := 0
  markerDue : Nat := 0
  codewords : Nat := 0
  codewordBad : Bool := false
  deriving DecidableEq, Repr

/-- A contribution that a member has submitted to a collective (R344): the format of its codes, its element count and
the codes. -/
structure CollPart where
  dev : Nat
  tag : Nat
  members : Nat
  fmt : Nat
  count : Nat
  codes : List W64
  deriving DecidableEq, Repr

/-- Cascade: role, group, links and lanes, eye scan, packet order, channels and remote operations (R303 to R309,
R326 to R347). Channels are keyed by 16 × queue + device. -/
structure Cascade where
  useReg : Bool := false
  role : Nat := 0
  ident : Nat := 0
  topo : Nat := 0
  formed : Bool := false
  left : Bool := false
  master : Bool := false
  masterId : Nat := 0
  ownId : Nat := 0
  members : Nat := 0
  result : Nat := 0
  links : Table CascLink := []
  wires : List Wiring := []
  lanes : Table CascLane := []
  eyeDone : Bool := false
  eyeBusy : Option (Nat × Nat × Nat) := none
  eyeLane : Nat := 0
  eyeEye : Nat := 0
  eyePhase : Nat := 0
  eyeVolt : Nat := 0
  eyeDwell : Nat := 30
  eyeResult : Nat := 0
  servesMaster : Bool := false
  txSeq : Table Nat := []
  rxSeq : Table Nat := []
  rxHeld : List (Nat × Nat × Nat × CascMsg) := []
  txBytes : Table Nat := []
  sigOut : List (Nat × Nat) := []
  trnOut : List (Nat × Nat × Nat) := []
  rxBytes : Table Nat := []
  rxSignals : List (Nat × CascMsg) := []
  reads : Table (Nat × Nat) := []
  acks : List (Nat × Nat) := []
  parts : List CollPart := []
  late : List (Nat × Nat × Nat) := []
  deriving DecidableEq, Repr

/-! ### Midway (chapter 15) -/

/-- A word in a queue chain: 64 data bits, KEEP, LAST, and how many of its counted bytes have been taken (R354,
R356). -/
structure PortWord where
  data : W64
  keep : Nat
  last : Bool
  taken : Nat := 0
  deriving DecidableEq, Repr

/-- A request that waits at a memory port (R363), with the binding under which it came; none: the port was not bound. -/
structure PortReq where
  who : Option Who
  addr : Nat
  len : Nat
  write : Bool
  data : List Byte
  enables : Nat
  deriving DecidableEq, Repr

/-- A queue port with its queue chain (R354 to R358, R362, R363): direction, policy and length of its chain as
configured, with its level threshold and credit count; holder; binding with its address space and function; the words waiting,
the pushes and the pop that wait. -/
structure MidPort where
  dir : Nat := 0
  drop : Bool := false
  blocks : Nat := 0
  words : Nat := 0
  holder : Option Nat := none
  holderGroup : Nat := 0
  bound : Option Nat := none
  bindWho : Who := {}
  chain : List PortWord := []
  pushing : List PortWord := []
  popping : Bool := false
  level : Nat := 0
  credits : Nat := 0
  dropped : Nat := 0
  reqs : List PortReq := []
  deriving DecidableEq, Repr

/-- A memory block (R352, R353): queue mode or RAM mode, its shape, and its words in RAM mode. -/
structure MidBlock where
  queue : Bool := false
  shape : Nat := 0
  words : Table (BitVec 72) := []
  deriving DecidableEq, Repr

/-- A pacer (R368). -/
structure Pacer where
  running : Bool := false
  calOk : Bool := false
  freqKhz : Nat := 0
  missed : Nat := 0
  waiting : Bool := false
  deriving DecidableEq, Repr

/-- A user serial lane (R366, R367); its transmit taps in use are pre-cursor and post-cursor. -/
structure UserLane where
  up : Bool := false
  training : Option Nat := none
  rate : Nat := 0
  code : Bool := false
  loopback : Bool := false
  regTaps : Bool := false
  taps : Nat × Nat := (0, 0)
  overrun : Nat := 0
  underrun : Nat := 0
  post : Nat := 6
  pre : Nat := 0
  rx : List W64 := []
  tx : List W64 := []
  deriving DecidableEq, Repr

/-- A general pin (R364, R365): the level at the pin, and what the design drives on it. -/
structure Pin where
  level : Bool := false
  drive : Option Bool := none
  deriving DecidableEq, Repr

/-- The Midway (R348 to R371): state, configuration memory by frame number and the essential map (R376, R392), ports,
blocks, pacers, lanes, banks in mV, pins and handshake latches. -/
structure Midway where
  loaded : Bool := false
  version : Nat := 0
  frames : Table (List Byte) := []
  masks : Table (List Byte) := []
  ports : Table MidPort := []
  blocks : Table MidBlock := []
  pacers : Table Pacer := []
  lanes : Table UserLane := []
  banks : Table Nat := []
  pins : Table Pin := []
  latches : Table (Bool × Bool) := []
  deriving DecidableEq, Repr

/-- A copy into a BAR2 buffer that waits at a write (R207, R257, R407): kind 0 the Moraine's, 1 a snapshot, 2 a context, with where it
goes on, what is left of it and whether it is cut short; or, kind 3, a clear that waits for its token (R408). -/
structure CopyWait where
  kind : Nat
  addr : Nat
  bytes : List Byte := []
  trunc : Bool := false
  deriving DecidableEq, Repr

/-! ### Configuration and security (chapter 16) -/

/-- A stream that has passed its checks, or is stored in a slot area: its bytes, its header fields that matter later, its
decrypted segments by type, and its digest (R372 to R381). -/
structure CfgStream where
  bytes : List Byte := []
  firmware : Bool := false
  partly : Bool := false
  version : Nat := 0
  segs : List (Nat × List Byte) := []
  digest : BitVec 512 := 0
  deriving DecidableEq, Repr

/-- A firmware image in a firmware area (R390, R391), with the order in which it was stored. -/
structure FwImage where
  svn : Nat := 0
  build : Nat := 0
  proto : Nat := 0
  image : List Byte := []
  order : Nat := 0
  deriving DecidableEq, Repr

/-- An owner key slot (R377). -/
structure KeySlot where
  kek : BitVec 256 := 0
  hash : BitVec 512 := 0
  written : Bool := false
  revoked : Bool := false
  deriving DecidableEq, Repr

/-- A copy of the directory: its sequence number, and the slot areas of the roles active, previous, golden and staging (R387). -/
structure RoleMap where
  seq : Nat
  areas : List Nat
  deriving DecidableEq, Repr

/-- Configuration and security (R372 to R397). In flash: the slot areas, the two copies of the directory, none of them one whose
CRC fails, and the firmware areas. -/
structure CfgState where
  fallback : Bool := false
  role : Nat := 0
  lastSub : Nat := 0
  version : Nat := 0
  digest : BitVec 512 := 0
  inEffect : Bool := false
  stageId : Nat := 0
  staged : Option CfgStream := none
  stageArea : Option Nat := none
  areas : Table CfgStream := []
  dir0 : Option RoleMap := some { seq := 1, areas := [0, 1, 2, 3] }
  dir1 : Option RoleMap := some { seq := 0, areas := [0, 1, 2, 3] }
  fwA : Option FwImage := some {}
  fwB : Option FwImage := none
  fwArea : Nat := 0
  fuseSvn : Nat := 0
  fwStores : Nat := 1
  running : FwImage := {}
  aliasKey : List Byte := []
  chain : List Byte := []
  slots : Table KeySlot := []
  golden : Bool := false
  provision : Bool := false
  debugOpen : Bool := false
  scrubOn : Bool := true
  passMs : Nat := 50
  uncorr : Nat := 0
  essential : Nat := 0
  nonessential : Nat := 0
  rewrite : List Nat := []
  seqTables : List Byte := []
  microcode : List Byte := []
  defaults : List Byte := []
  applying : Option Nat := none
  applyFrom : Nat := 4
  applySince : Nat := 0
  ide : Table Nat := []
  deriving DecidableEq, Repr

/-- The valid copy of the directory with the higher sequence number; where none is valid, the map of a new module (R387). -/
def CfgState.map (c : CfgState) : RoleMap := match c.dir0, c.dir1 with
  | some a, some b => if a.seq < b.seq then b else a
  | some a, none => a
  | none, some b => b
  | none, none => { seq := 0, areas := [0, 1, 2, 3] }

/-- The slot areas of the roles active, previous, golden and staging. -/
def CfgState.roles (c : CfgState) : List Nat := c.map.areas

/-- A new map goes into the other copy (R387, R388). -/
def CfgState.putRoles (l : List Nat) (c : CfgState) : CfgState :=
  let x : RoleMap := { seq := c.map.seq + 1, areas := l }
  if c.dir0 = some c.map then { c with dir1 := some x } else { c with dir0 := some x }

end Sys2Proof.Machine
end

