-- ==== Sys2Proof/Machine/State.lean ====
section
/-! DEFINITION. The state of the ZQ9 as a block, why a step can stop, and the state right after reset. -/

namespace Sys2Proof.Machine

/-- The whole state. Every field holds its reset value by default. -/
structure State where
  /-- commands that wait, first in first out -/
  pending : List Instr := []
  /-- what the block has sent or answered, oldest first -/
  outbox : List Out := []
  /-- Ringmaster time in ns (R10) -/
  time : Nat := 0
  /-- the model's own field: how many open values have been taken (log entry 2) -/
  fresh : Nat := 0
  /-- the variant of the part (R1; log entry 7) -/
  variant : Variant := .full
  fused : Fused := {}
  mor : Moraine := {}
  ice : Ice := {}
  pwr : Power := {}
  st : Startup := {}
  funcs : Table PciFunc := []
  link : HostLink := {}
  dropped : Dropped := {}
  groups : Table Group := []
  queues : Table Queue := []
  arb : Arbiter := {}
  ops : List Op := []
  nextTag : Nat := 1
  pages : List PRange := []
  resets : Nat := 0
  place : Placement := {}
  dmem : Memory := []
  hmem : Table Byte := []
  fills : Table Nat := []
  memStacks : Table Stack := []
  windows : Table Window := []
  cxl : Table CxlPort := []
  kv : List KvPage := []
  ats : List AtsEntry := []
  pris : List PriReq := []
  /-- accesses through BAR2 that wait: offset, length, and the data of a write (R245, R261) -/
  bar2Waits : List (Nat × Nat × Option (List Byte)) := []
  copies : List CopyWait := []
  priTimeout : Nat := 1000
  tiles : Table Tile := []
  images : List Image := []
  contexts : List Context := []
  floe : Table FloeUnit := []
  trns : Table Turnstile := []
  trnHeld : List (Nat × Waiter) := []
  watchers : Table Watcher := []
  noc : Noc := {}
  casc : Cascade := {}
  mid : Midway := {}
  cfg : CfgState := {}
  /-- the model's own field: how many operations have passed validation (R358, R380) -/
  nextOrder : Nat := 0
  /-- counters of lc, flits and delivered bytes (R124, R165, R189, R192, R325) by twice the BAR0 offset, plus 1 for the
  upper field: their events are below the model's steps, so a read first adds an open amount where the unit has worked (log entry 39) -/
  counters : Table Nat := []
  /-- the model's own fields: how often each unit has accepted work, and how often it had when each counter was last read
  (R189; log entry 39) -/
  works : Table Nat := []
  worksSeen : Table Nat := []
  deriving DecidableEq, Repr

/-- Why a step stops with a fault: no command of the manual does. -/
inductive Fault where
  deriving DecidableEq, Repr

/-- Why a command has no meaning. -/
inductive Refusal where
  /-- raised by an arm of exec whose command has no meaning yet; safe -/
  | notModelled (mnemonic : String)
  deriving DecidableEq, Repr

/-- The machine right after reset: neither power input applied, every register at its reset value, every memory
empty, no command waiting (R416, R421; log entry 1). -/
def State.reset : State := {}

end Sys2Proof.Machine
end

