-- ==== Sys2Proof/Machine/Ops.lean ====
section
/-! DEFINITION. The operations every family shares: units by number, Ringmaster time, Moraine records, messages,
the memory of the stacks, and the life of an operation up to its completion. -/

namespace Sys2Proof.Machine

/-! ### Units by number (R3, R6, R425, R426) -/

/-- The number of logic dies of a variant (R20). -/
def numDies : Variant → Nat
  | .full => 4 | .half => 2 | .compute => 4

/-- The code of a variant (R373). -/
def variantCode : Variant → Nat
  | .full => 1 | .half => 2 | .compute => 3

/-- The stacks, physical tiles and nominal active tiles of a variant (R3, R20). -/
def numStacks (v : Variant) : Nat := 8 * numDies v
def numPhys (v : Variant) : Nat := 72 * numDies v
def numTiles (v : Variant) : Nat := 64 * numDies v

/-- Fewest active tiles for service (R426). -/
def tilesMin (v : Variant) : Nat := 56 * numDies v

/-- CXL ports, cascade links, user lanes, I/O banks, queue ports, memory blocks (R20, R426). -/
def numCxl : Variant → Nat
  | .full => 4 | .half => 2 | .compute => 2
def numLinks (v : Variant) : Nat := 2 * numDies v
def numUserLanes : Variant → Nat
  | .full => 16 | .half => 8 | .compute => 0
def numBanks (v : Variant) : Nat := 2 * numDies v
def numPorts (v : Variant) : Nat := 64 * numDies v
def numBlocks (v : Variant) : Nat := 2048 * numDies v

/-- Whether the base dies carry Floe engines (R4). -/
def hasFloe : Variant → Bool
  | .compute => false | _ => true

/-- The group registers at reset (R262). -/
def groupReset (g : Nat) : Group :=
  let c : GroupCfg := if g = 0 then { bind := 0x8000000000000010, qtable := 0x80000, ctrl := 1 }
    else { bind := 0x10, qtable := 0, ctrl := 0 }
  { active := c, shadow := c }

/-- Window 0 covers every stack of the variant at reset (R222). -/
def windowReset (v : Variant) (n : Nat) : Window :=
  if n = 0 then
    let c : WinCfg := match v with
      | .half => { base := 0, size := 0x11FC0000000, map := 0x0000FFFF0000000C }
      | _ => { base := 0, size := 0x23F80000000, map := 0xFFFFFFFF0000000C }
    { active := c, shadow := c }
  else {}

def getGroup (s : State) (g : Nat) : Group := tget groupReset s.groups g
def setGroup (s : State) (g : Nat) (x : Group) : State := { s with groups := tset groupReset s.groups g x }
def getTile (s : State) (p : Nat) : Tile := tget (dflt {}) s.tiles p
def setTile (s : State) (p : Nat) (x : Tile) : State := { s with tiles := tset (dflt {}) s.tiles p x }
def updTile (p : Nat) (f : Tile → Tile) (s : State) : State := setTile s p (f (getTile s p))
def getFloe (s : State) (k : Nat) : FloeUnit := tget (dflt {}) s.floe k
def setFloe (s : State) (k : Nat) (x : FloeUnit) : State := { s with floe := tset (dflt {}) s.floe k x }
def getQueue (s : State) (q : Nat) : Queue := tget (dflt {}) s.queues q
def setQueue (s : State) (q : Nat) (x : Queue) : State := { s with queues := tset (dflt {}) s.queues q x }
def getFunc (s : State) (f : Nat) : PciFunc := tget (dflt {}) s.funcs f
def setFunc (s : State) (f : Nat) (x : PciFunc) : State := { s with funcs := tset (dflt {}) s.funcs f x }
def getStack (s : State) (k : Nat) : Stack := tget (dflt {}) s.memStacks k
def setStack (s : State) (k : Nat) (x : Stack) : State := { s with memStacks := tset (dflt {}) s.memStacks k x }
def getWindow (s : State) (n : Nat) : Window := tget (windowReset s.variant) s.windows n
def setWindow (s : State) (n : Nat) (x : Window) : State :=
  { s with windows := tset (windowReset s.variant) s.windows n x }
def getCxl (s : State) (p : Nat) : CxlPort := tget (dflt {}) s.cxl p
def setCxl (s : State) (p : Nat) (x : CxlPort) : State := { s with cxl := tset (dflt {}) s.cxl p x }

/-- Fields of QGP_BIND (R262). -/
def bindEnable (b : Nat) : Bool := bit b 63
def bindPasid (b : Nat) : Option Nat := if bit b 62 then some (bits b 32 20) else none
def bindFunc (b : Nat) : Nat := bits b 56 6
def bindAsid (b : Nat) : Nat := bits b 16 12
def bindWeight (b : Nat) : Nat := bits b 0 8

/-! ### Free values, messages and time -/

/-- Take the next open value (log entry 2). -/
def takeFree (w : Nat) (s : State) : BitVec w × State :=
  (Config.freeBits w s.fresh, { s with fresh := s.fresh + 1 })

/-- Put a message into the outbox. -/
def emit (o : Out) (s : State) : State := { s with outbox := s.outbox ++ [o] }

/-- Add to a counter of a table. -/
def tadd (t : Table Nat) (k n : Nat) : Table Nat := tset (dflt 0) t k (tget (dflt 0) t k + n)

/-- The time that passes is counted where the manual counts time: standby, powered, limiting, double refresh,
links and lanes up (R28, R412, R413, R216). -/
def account (dt : Nat) (s : State) : State :=
  let l := s.ice.now
  let on := s.pwr.vcoreMv ≠ 0
  let dbl := (List.range (numStacks s.variant)).filter (fun k => (getStack s k).doubleRef)
  let l' := { l with
    standbyNs := if s.st.auxOn then l.standbyNs + dt else l.standbyNs
    poweredNs := if on then l.poweredNs + dt else l.poweredNs
    thermalLimitNs := if s.pwr.stage = 3 then l.thermalLimitNs + dt else l.thermalLimitNs
    doubleRefNs := dbl.foldl (fun t k => tadd t k dt) l.doubleRefNs
    linkUpNs := s.casc.links.foldl (fun t e => if e.2.up then tadd t e.1 dt else t) l.linkUpNs
    laneUpNs := s.mid.lanes.foldl (fun t e => if e.2.up then tadd t e.1 dt else t) l.laneUpNs }
  { s with
    ice := { s.ice with now := l' }
    pwr := { s.pwr with limitNs := if s.pwr.stage = 0 then s.pwr.limitNs else wrapAdd 64 s.pwr.limitNs dt } }

/-- Ringmaster time moves on by a number of ns, while standby power is present (R10). -/
def passTime (dt : Nat) (s : State) : State :=
  if s.st.auxOn then { account dt s with time := s.time + dt } else s

/-- Ringmaster time moves on to a time that has not passed yet. -/
def passTo (t : Nat) (s : State) : State := passTime (t - s.time) s

/-! ### MSI-X (R288) -/

/-- Send a message on a vector of a function, or set its pending bit while it is masked or MSI-X is not enabled
(R288, R290; log entry 8). -/
def sendMsix (func vec : Nat) (s : State) : State :=
  let f := getFunc s func
  let (a, d, m) := tget (dflt (0, 0, true)) f.entries vec
  if f.msixEnable && !f.msixMask && !m then emit (.msix func vec a d) s
  else setFunc s func { f with pba := insertNat vec f.pba }

/-- Send the pending messages of the vectors that are no longer masked (R288). -/
def sendPending (func : Nat) (s : State) : State :=
  let f := getFunc s func
  f.pba.foldl (fun s v => sendMsix func v s) (setFunc s func { f with pba := [] })

/-! ### Moraine records (R398 to R406, R409) -/

/-- The severity of an event code (R403); CFG_REJECTED takes its own (R384). -/
def sevOf (code : Nat) : Nat :=
  if code ∈ [0x0103, 0x0205, 0x0801, 0x0C02, 0x0E02] then 5
  else if code ∈ [0x0B04, 0x0C03, 0x0C04, 0x0D01, 0x0D02] then 6
  else if code ∈ [0x0203, 0x0301, 0x0302, 0x0401, 0x0402, 0x0403, 0x0405, 0x0502, 0x0902, 0x0903, 0x0B03, 0x0B05]
    then 4
  else if code ∈ [0x0102, 0x0206, 0x0207, 0x0303, 0x0406, 0x0501, 0x0503, 0x0602, 0x0701, 0x0702, 0x0A01, 0x0D04]
    then 3
  else if code ∈ [0x0101, 0x0202, 0x0B02, 0x0E03] then 1
  else 2

/-- The length of a record in bytes (R398); the ZQ9-H adds the repeat tail (R405). -/
def recLen (v : Variant) (r : MorRec) : Nat :=
  16 + 8 * ceilDiv r.payload.length 8 + (if v = .half then 8 else 0)

/-- The bytes of a record (R398, R405). -/
def recBytes (v : Variant) (r : MorRec) : List Byte :=
  let n := 8 * ceilDiv r.payload.length 8
  let head := r.seq * 2 ^ 32 + r.code * 2 ^ 16 + r.src * 2 ^ 8 + r.sev * 16 + recLen v r / 8
  leBytes 8 head ++ leBytes 8 r.time ++ padTo n r.payload ++
    (if v = .half then leBytes 4 r.lastDelta ++ leBytes 4 r.repeats else [])

/-- The bytes that records take in the ring. -/
def ringBytes (v : Variant) (l : List MorRec) : Nat := l.foldl (fun n r => n + recLen v r) 0

/-- Drop the oldest whole records until the rest fits (R401). -/
def ringTrim (v : Variant) (top : Nat) : List MorRec → List MorRec
  | [] => []
  | r :: rs => if ringBytes v (r :: rs) ≤ top then r :: rs else ringTrim v top rs

/-- Append a record to the RAM ring of 16 MiB (R401). -/
def ringAppend (v : Variant) (ring : List MorRec) (r : MorRec) : List MorRec :=
  ringTrim v (16 * 2 ^ 20) (ring ++ [r])

/-- Tokens of a bucket at a time (R404). -/
def bucketAt (m : Moraine) (t : Nat) (b : Bucket) : Bucket :=
  { b with level := min (m.burst * 1000000000) (b.level + m.rate * (t - b.since)), since := t }

/-- The Moraine interrupt: at most one message per 1 ms (R409). -/
def morIrq (sev : Nat) (s : State) : State :=
  if s.mor.irqSev ≤ 6 && s.mor.irqSev ≤ sev then
    match s.mor.lastIrq with
    | some t =>
      if t + 1000000 ≤ s.time then sendMsix 0 s.mor.vector { s with mor := { s.mor with lastIrq := some s.time } }
      else { s with mor := { s.mor with irqHeld := true } }
    | none => sendMsix 0 s.mor.vector { s with mor := { s.mor with lastIrq := some s.time } }
  else s

/-- Create a record with the next sequence number and store it: in the ring, or while the ring is frozen in the
pending buffer; what R402 names also waits for flash. -/
def createRec (code sev src : Nat) (payload : List Byte) (s : State) : State :=
  let m := s.mor
  let r : MorRec := { seq := m.nextSeq, code, src, sev, time := s.time, payload, repeats := 0, lastDelta := 0,
                      touched := s.time }
  let m1 := { m with
    nextSeq := (m.nextSeq + 1) % 2 ^ 32
    toFlash := if 4 ≤ sev || code = 0x0E01 then m.toFlash ++ [r] else m.toFlash }
  let m2 :=
    if m.frozen then
      if m.pending.length < 256 then { m1 with pending := m.pending ++ [r] }
      else { m1 with pendLost := satAdd 0xFFFF m.pendLost 1, lostNow := m.lostNow + 1,
                     firstLost := if m.lostNow = 0 then r.seq else m.firstLost }
    else { m1 with ring := ringAppend s.variant m.ring r }
  morIrq sev { s with mor := m2 }

/-- Whether a new record folds into this one (R405). -/
def folds (code src now : Nat) (r : MorRec) : Bool :=
  r.code = code && r.src = src && decide (now < r.touched + 1000000000)

/-- Fold a repeat into the last record with the code (R405). -/
def foldLast (code now : Nat) : List MorRec → List MorRec
  | [] => []
  | r :: rs =>
    if rs.any (fun x => x.code = code) then r :: foldLast code now rs
    else if r.code = code then
      { r with repeats := satAdd (2 ^ 32 - 1) r.repeats 1,
               lastDelta := min (2 ^ 32 - 1) ((now - r.time) / 1000), touched := now } :: rs
    else r :: rs

/-- The last record with a code in a list. -/
def lastWith (code : Nat) (l : List MorRec) : Option MorRec := l.reverse.find? (fun r => r.code = code)

/-- Report an event: the ZQ9-H folds repeats (R405), the ZQ9-F and ZQ9-C limit each code by its token bucket
(R404). -/
def recordSev (code sev src : Nat) (payload : List Byte) (s : State) : State :=
  let m := s.mor
  if s.variant = .half then
    if sev = 5 || sev = 6 || code = 0x0E01 || code = 0x0D01 then createRec code sev src payload s
    else
      let fits (l : List MorRec) : Bool := match lastWith code l with
        | some r => folds code src s.time r
        | none => false
      if fits m.pending then { s with mor := { m with pending := foldLast code s.time m.pending } }
      else if !m.frozen && (lastWith code m.pending).isNone && fits m.ring then
        { s with mor := { m with ring := foldLast code s.time m.ring } }
      else createRec code sev src payload s
  else if sev = 5 || sev = 6 || code = 0x0E01 || code = 0x0D03 || code = 0x0D04 then
    createRec code sev src payload s
  else
    let b := bucketAt m s.time (tget (dflt m.newBucket) m.buckets code)
    if b.level < 1000000000 then
      let b' := { b with drops := b.drops + 1, firstDrop := if b.drops = 0 then s.time else b.firstDrop,
                         lastDrop := s.time }
      { s with mor := { m with buckets := tset (dflt m.newBucket) m.buckets code b',
                               dropped := satAdd (2 ^ 32 - 1) m.dropped 1, lastCode := code } }
    else
      let b' : Bucket := { level := b.level - 1000000000, since := b.since }
      let s1 := { s with mor := { m with buckets := tset (dflt m.newBucket) m.buckets code b' } }
      let s2 := if b.drops = 0 then s1 else
        createRec 0x0D03 2 0x07 (leBytes 2 code ++ leBytes 2 0 ++ leBytes 4 b.drops ++ leBytes 8 b.firstDrop ++
          leBytes 8 b.lastDrop) s1
      createRec code sev src payload s2

/-- Report an event of a code whose severity R403 fixes. -/
def record (code src : Nat) (payload : List Byte) (s : State) : State := recordSev code (sevOf code) src payload s

/-- Append the pending records when FREEZE returns to 0, then PENDING_LOST if any were lost (R406). -/
def unfreeze (s : State) : State :=
  let m := s.mor
  let s1 := { s with mor := { m with
    frozen := false, ring := m.pending.foldl (ringAppend s.variant) m.ring, pending := [], lostNow := 0 } }
  if m.lostNow = 0 then s1
  else record 0x0D04 0x07 (leBytes 4 m.lostNow ++ leBytes 4 m.firstLost) s1

/-! ### The Ice core (R411 to R414) -/

/-- The calendar at a time, 0 while it is not valid (R414). -/
def calNow (s : State) : Nat := if s.ice.calValid then s.ice.refC + (s.time - s.ice.refT) / 1000000000 else 0

/-- The ledger's field FLASH_ERASES[i] counts an erase: 0 to 3 slot areas, 4 and 5 firmware, 6 directory, 7 log,
8 Ice core (R412). -/
def countErase (i : Nat) (s : State) : State :=
  { s with ice := { s.ice with now := { s.ice.now with flashErases := tadd s.ice.now.flashErases i 1 } } }

/-- Commit the ledger into the copy that does not hold the highest COMMIT_SEQ (R411). -/
def iceCommitOp (s : State) : State :=
  let l := { s.ice.now with commitSeq := s.ice.now.commitSeq + 1, lastCal := calNow s }
  let into1 : Bool := match s.ice.copy0, s.ice.copy1 with
    | some a, some b => decide (b.commitSeq ≤ a.commitSeq)
    | some _, none => true
    | _, _ => false
  { s with ice := { s.ice with
      now := l, lastCommit := s.time,
      copy0 := if into1 then s.ice.copy0 else some l,
      copy1 := if into1 then some l else s.ice.copy1 } }

/-- The valid copy with the higher COMMIT_SEQ (R411). -/
def iceBest (i : Ice) : Ledger :=
  match i.copy0, i.copy1 with
  | some a, some b => if a.commitSeq < b.commitSeq then b else a
  | some a, none => a
  | none, some b => b
  | none, none => {}

/-! ### Device physical memory (R214, R219, R220, R223 to R230) -/

/-- Second-tier addresses stand above every device physical address of the first tier: the port in bits 47:44 of
the entry (R235). -/
def tier2Base : Nat := 2 ^ 48

/-- The stacks of a window's set, rising (R219). -/
def winStacks (w : WinCfg) : List Nat := setBitsOf 32 (bits w.map 32 32)

/-- The grain of a window in bytes, and its place on each stack (R219). -/
def winGrain (w : WinCfg) : Nat := 2 ^ bits w.map 0 5
def winStackBase (w : WinCfg) : Nat := bits w.map 16 11 * 2 ^ 26

/-- The mapping of R220: stack, pseudo-channel and byte offset within it of a device physical address. -/
def winMap (w : WinCfg) (a : Nat) : Nat × Nat × Nat :=
  let o := a - w.base
  let c := o / winGrain w
  let stks := winStacks w
  let n := stks.length
  let r := c / n
  (stks.getD (c % n) 0, r % 32, winStackBase w / 32 + (r / 32) * winGrain w + o % winGrain w)

/-- The enabled window that holds a device physical address. -/
def windowOf (s : State) (a : Nat) : Option (Nat × WinCfg) :=
  ((List.range 16).map (fun n => (n, (getWindow s n).active))).find?
    (fun w => decide (w.2.size ≠ 0 ∧ w.2.base ≤ a ∧ a < w.2.base + w.2.size))

/-- Stack, pseudo-channel and offset of a device physical address of the first tier. -/
def localOf (s : State) (a : Nat) : Option (Nat × Nat × Nat) := (windowOf s a).map (fun w => winMap w.2 a)

/-- The device physical address of a stack-local place in a window, if the window has it: R220 read the other way. -/
def winUnmap (w : WinCfg) (k pc off : Nat) : Option Nat :=
  let stks := winStacks w
  let n := stks.length
  let lo := winStackBase w / 32
  match stks.findIdx? (· = k) with
  | none => none
  | some i =>
    let x := off - lo
    let o := ((x / winGrain w * 32 + pc) * n + i) * winGrain w + x % winGrain w
    if lo ≤ off ∧ o < w.size then some (w.base + o) else none

/-- The number of a stack frame of 4 KiB from pseudo-channel and offset, and the line within it (R225). -/
def frameNo (pc off : Nat) : Nat := pc * 2 ^ 20 + off / 4096
def frameLine (off : Nat) : Nat := off % 4096 / 64

/-- Whether the line at a physical address is lost: its stack is lost, its bit stands in the remap table (R227), or
its expander reported it poisoned (R230). -/
def lineLost (s : State) (a : Nat) : Bool :=
  if tier2Base ≤ a then
    decide (a / 64 ∈ (getCxl s ((a - tier2Base) / 2 ^ 44)).bad)
  else match localOf s a with
    | some (k, pc, off) =>
      let st := getStack s k
      st.lost || bit (tget (dflt 0) st.frames (frameNo pc off)) (frameLine off)
    | none => false

/-- Whether an address lies on a stack that is out of service: every access to it ends with DATA_ERROR (R227). -/
def stackGone (s : State) (a : Nat) : Bool :=
  decide (a < tier2Base) && match localOf s a with
    | some (k, _, _) => (getStack s k).lost
    | none => false

/-- A full write of a lost line clears its bit (R227). -/
def clearLost (s : State) (a : Nat) : State :=
  if tier2Base ≤ a then s
  else match localOf s a with
    | some (k, pc, off) =>
      let st := getStack s k
      let f := frameNo pc off
      let m := tget (dflt 0) st.frames f
      if bit m (frameLine off) then
        setStack s k { st with frames := tinsert f (m - 2 ^ frameLine off) st.frames }
      else s
    | none => s

/-- A write to a line invalidates it in the read caches of the other dies before it is delivered (R321). -/
def snoop (a : Nat) (s : State) : State :=
  if s.noc.caches.isEmpty then s
  else { s with noc := { s.noc with caches := s.noc.caches.map (fun e => (e.1, e.2.filter (fun l => decide (l ≠ a / 64)))) } }

/-- Write bytes of one line of physical memory. The bytes that one transfer writes to a lost line are gathered, and
the line is whole again when all 64 are written (R227; log entry 12). -/
def writeLine (a : Nat) (bs : List Byte) (s : State) : State :=
  let s1 := snoop a { s with dmem := Memory.writeN s.dmem a bs }
  if lineLost s a then
    let m := tget (dflt 0) s.fills (a / 64) ||| ((2 ^ bs.length - 1) * 2 ^ (a % 64))
    if m = 2 ^ 64 - 1 then clearLost { s1 with fills := terase (a / 64) s.fills } a
    else { s1 with fills := tinsert (a / 64) m s.fills }
  else s1

/-- Write a run of bytes of physical memory, line by line. -/
def writePhys : Nat → Nat → List Byte → State → State
  | 0, _, _, s => s
  | fuel + 1, a, bs, s =>
    if bs.isEmpty then s
    else
      let n := 64 - a % 64
      writePhys fuel (a + n) (bs.drop n) (writeLine a (bs.take n) s)

/-- The first lost line among those that hold n bytes from an address. -/
def firstLost (s : State) : Nat → Nat → Nat → Option Nat
  | 0, _, _ => none
  | fuel + 1, a, n =>
    if n = 0 then none
    else if lineLost s a then some (a / 64 * 64)
    else firstLost s fuel ((a / 64 + 1) * 64) (n - min n (64 - a % 64))

/-- The lost lines of a frame of a stack but for those that lie in a physical range. -/
def linesKept (s : State) (k a n f m : Nat) : Nat :=
  maskOf ((setBitsOf 64 m).filter (fun i =>
    let place := (List.range 16).findSome? (fun j =>
      let w := (getWindow s j).active
      if w.size = 0 then none else winUnmap w k (f / 2 ^ 20) (f % 2 ^ 20 * 4096 + 64 * i))
    match place with
    | some x => decide (x < a ∨ a + n ≤ x)
    | none => true))

/-- Whether no line of a physical range is lost. -/
def rangeWhole (s : State) (a n : Nat) : Bool := (firstLost s (n / 64 + 1) a n).isNone

/-- Every line of a range of physical memory is written whole, so that none is lost any more (R227). -/
def wholeLines (a n : Nat) (s : State) : State :=
  { s with
    memStacks := s.memStacks.map (fun e => (e.1, if e.2.frames.isEmpty then e.2
      else { e.2 with frames := e.2.frames.map (fun x => (x.1, linesKept s e.1 a n x.1 x.2)) })) }

/-- Zero a range of physical memory: a newly backed page reads as zero, its lost lines written anew (R227, R236). -/
def zeroPhys (a n : Nat) (s : State) : State :=
  { wholeLines a n s with
    dmem := s.dmem.filter (fun c => decide (c.1 < a ∨ a + n ≤ c.1))
    noc := { s.noc with caches := s.noc.caches.map (fun e => (e.1, e.2.filter (fun l => decide (64 * l < a ∨ a + n ≤ 64 * l)))) } }

/-- The first spare-frame table is full (R227). -/
def spareFrames : Nat := 1024

/-- Retire the frame of a line: mark the line lost in the remap table, if a spare frame is left (R225, R227). -/
def retireLine (k pc off : Nat) (s : State) : State :=
  let st := getStack s k
  let f := frameNo pc off
  match tfind f st.frames with
  | some m => setStack s k { st with frames := tinsert f (m ||| 2 ^ frameLine off) st.frames }
  | none =>
    if st.frames.length < spareFrames then
      let st' := { st with frames := tinsert f (2 ^ frameLine off) st.frames }
      let l := s.ice.now
      let s1 := setStack { s with ice := { s.ice with now := { l with framesRetired := tadd l.framesRetired k 1 } } }
        k st'
      if st'.frames.length = spareFrames then
        record 0x0402 (0x20 + k) [] (setStack s1 k { st' with tableFull := true })
      else s1
    else s

/-- The bank and row of a stack-local place (R220: the controller's own mapping). -/
def bankOf (off : Nat) : Nat := (Config.bankRow off).1
def rowOf (off : Nat) : Nat := (Config.bankRow off).2

/-- An uncorrectable line of a stack: MEM_UE with its device physical address, the count, and the retirement of its
frame; by 0 demand, 1 patrol, 2 partial write (R225). -/
def uncorrectableAt (k pc off a by_ : Nat) (s : State) : State :=
  let s1 := record 0x0401 (0x20 + k) (leBytes 8 (a / 64 * 64) ++ leBytes 1 pc ++ leBytes 1 (bankOf off) ++
    leBytes 1 by_ ++ leBytes 1 0 ++ leBytes 4 (rowOf off)) s
  let st := getStack s1 k
  retireLine k pc off (setStack s1 k { st with ue := satAdd 0xFFFF st.ue 1 })

/-- An uncorrectable line at a device physical address (R225). -/
def uncorrectable (a by_ : Nat) (s : State) : State := match localOf s a with
  | some (k, pc, off) => uncorrectableAt k pc off a by_ s
  | none => s

/-- Count an access to a page of 2 MiB: one in 256 is sampled, and the sampled count saturates at 255 (R202; log entry
27). -/
def countAccess (a : Nat) (s : State) : State :=
  let v := tget (dflt 0) s.place.counts (a / 2 ^ 21) + 1
  { s with place := { s.place with counts := tset (dflt 0) s.place.counts (a / 2 ^ 21) (min v 65535) } }

/-! ### Operations -/

def findOp (s : State) (tag : Nat) : Option Op := s.ops.find? (fun o => o.tag = tag)

/-- Replace an operation. -/
def setOp (s : State) (o : Op) : State := { s with ops := s.ops.map (fun x => if x.tag = o.tag then o else x) }

/-- Change an operation, if there is one with the tag. -/
def updOp (tag : Nat) (f : Op → Op) (s : State) : State :=
  { s with ops := s.ops.map (fun x => if x.tag = tag then f x else x) }

/-- The slots of access engines that transfers of some operations hold, but for those that feed a window, are free again
(R166). -/
def freeSlots (p : Nat → Bool) (s : State) : State :=
  { s with tiles := s.tiles.map (fun e => (e.1, { e.2 with xfers := e.2.xfers.filter (fun x => x.2.window || !p x.2.op) })) }

/-- The partial state of an operation leaves the state buffers of the stacks (R144). -/
def leaveBuffers (tag : Nat) (s : State) : State :=
  { s with floe := s.floe.map (fun e => (e.1, { e.2 with buffer := e.2.buffer.filter (· ≠ tag) })) }

/-- End an operation with a result: its completion is due (R271, R283). The bytes it gathered for lost lines are
dropped, a statistics write that still waits is given up, and its slots and buffers are free (R144, R166, R245, R259). -/
def endOp (tag : Nat) (r : Result) (s : State) : State :=
  updOp tag (fun o => { o with phase := .done, result := r, closing := if o.closing = 1 then 2 else o.closing })
    (leaveBuffers tag (freeSlots (fun t => t = tag) { s with fills := [] }))

/-- Field of a descriptor: n bytes from byte i (R272). -/
def Op.fld (o : Op) (i n : Nat) : Nat := fieldAt o.desc i n

/-- The opcode (R273), DFLAGS and ARITH (R272, R42). -/
def Op.opc (o : Op) : Nat := o.fld 0 1
def Op.dflags (o : Op) : Nat := o.fld 1 1
def Op.arith (o : Op) : Nat := o.fld 2 2
def Op.unit (o : Op) : Nat := bits o.dflags 4 2
def Op.overlap (o : Op) : Bool := bit o.dflags 1
def Op.waitTrn (o : Op) : Nat := o.fld 8 2
def Op.waitGen (o : Op) : Nat := o.fld 10 2
def Op.doneTrn (o : Op) : Nat := o.fld 12 2

/-- The group of a queue (R262). -/
def groupOf (q : Nat) : Nat := q / 64

/-- A result with a status and a cursor. -/
def stopWith (status cursor addr : Nat) : Result := { status, cursor, faultAddr := addr }

/-! ### Arbitration (R184, R185) -/

/-- The level that an arbiter grants: the highest that claims, but a lower one that has waited for 63 grants. -/
def arbLevel (l : List Claim) (a : Arbiter) : Option Nat :=
  let ready (q : Nat) : Bool := l.any (fun c => c.prio = q)
  match (List.range 8).reverse.find? ready with
  | none => none
  | some p =>
    match (List.range p).reverse.find? (fun q => ready q && decide (63 ≤ tget (dflt 0) a.waited q)) with
    | some q => some q
    | none => some p

/-- The next of some numbers after one, in a circle. -/
def nextAfter (l : List Nat) (last : Nat) : Nat := ((l.find? (fun x => decide (last < x))).orElse (fun _ => l.head?)).getD 0

/-- One grant: level, group by deficit round robin with its WEIGHT as quantum, and round robin within the group. Numbers
in the arbiter's tables stand one above those they name; 0 names none. -/
def arbGrant (cs : List Claim) (a : Arbiter) : Option (Nat × Arbiter) :=
  match arbLevel cs a with
  | none => none
  | some l =>
    let here := cs.filter (fun c => c.prio = l)
    let gs := sortNat (here.map (fun c => c.group))
    let cur := tget (dflt 0) a.lastGroup l
    let left := tget (dflt 0) a.deficit l
    let stay := decide (0 < cur) && decide (cur - 1 ∈ gs) && decide (0 < left)
    let g := if stay then cur - 1 else nextAfter (gs.map (· + 1)) cur - 1
    let mine := here.filter (fun c => c.group = g)
    let quantum := if stay then left else (mine.head?.map (fun c => c.weight)).getD 1
    let k := 4096 * l + g
    let id := nextAfter (mine.map (fun c => c.id + 1)) (tget (dflt 0) a.lastQueue k) - 1
    some (id, {
      waited := (List.range 8).foldl (fun t i => tset (dflt 0) t i (if i = l then 0 else tget (dflt 0) t i + 1)) a.waited
      lastGroup := tset (dflt 0) a.lastGroup l (g + 1)
      deficit := tset (dflt 0) a.deficit l (quantum - 1)
      lastQueue := tset (dflt 0) a.lastQueue k (id + 1) })

/-! ### Owner key slots (R377) -/

def getSlot (s : State) (k : Nat) : KeySlot := tget (dflt {}) s.cfg.slots k

/-- Whether an owner key slot is usable (R377). -/
def slotUsable (s : State) (k : Nat) : Bool := decide (k < 4) && (getSlot s k).written && !(getSlot s k).revoked

end Sys2Proof.Machine
end

