-- ==== Sys2Proof/Machine/Network.lean ====
section
/-! DEFINITION. The network on chip: the grid of router nodes, what attaches to them, the path of a packet, the tree of a
multicast, and the flits that pass (R312 to R315, R320, R325). A node is named by the physical index of its tile (R107). -/

namespace Sys2Proof.Machine

/-! ### The grid (R312) -/

/-- Nodes in a row and in a column. -/
def gridW : Nat := 18
def gridH (v : Variant) : Nat := 4 * numDies v

/-- The coordinates of a node: X = x + 9 × (die mod 2), Y = y + 8 × (die div 2). -/
def nodeX (p : Nat) : Nat := p % 9 + 9 * (p / 72 % 2)
def nodeY (p : Nat) : Nat := p % 72 / 9 + 8 * (p / 72 / 2)

/-- The node at coordinates. -/
def nodeAt (x y : Nat) : Nat := 72 * (x / 9 + 2 * (y / 8)) + 9 * (y % 8) + x % 9

/-- Whether two nodes lie on different dies: a link between them is a die-to-die link. -/
def crosses (a b : Nat) : Bool := decide (a / 72 ≠ b / 72)

/-! ### What attaches to the nodes (R313) -/

/-- The node of a local place on a die. -/
def dieNode (d x y : Nat) : Nat := 72 * d + 9 * y + x

/-- The outer row and column of a die. -/
def outerY (d : Nat) : Nat := if d < 2 then 0 else 7
def outerX (d : Nat) : Nat := if d % 2 = 0 then 0 else 8

/-- The nodes of a stack's base die, of PCIe, of a CXL port, of a cascade link and of a die's Ringmaster. -/
def stackNode (k : Nat) : Nat :=
  let d := k / 8
  let j := k % 8
  if j < 4 then dieNode d (1 + 2 * j) (outerY d) else dieNode d (outerX d) (2 * (j - 4) + 1)
def pcieNode : Nat := dieNode 0 0 0
def cxlNode (q : Nat) : Nat := dieNode q 4 (outerY q)
def linkNode (l : Nat) : Nat := dieNode (l / 2) (2 + 4 * (l % 2)) (outerY (l / 2))
def ringmasterNode (d : Nat) : Nat := dieNode d (8 - outerX d) (7 - outerY d)

/-- The perimeter nodes of a die's grid, by local index 9 × y + x. -/
def perimeter : List Nat :=
  (List.range 72).filter (fun i => i / 9 = 0 || i / 9 = 7 || i % 9 = 0 || i % 9 = 8)

/-- The node of a Midway queue port. -/
def portNode (v : Variant) (m : Nat) : Nat := 72 * (m / 64) + perimeter.getD (Config.portNode v m % 30) 0

/-! ### Paths (R315) -/

/-- The coordinates of a ring of n that a packet passes from a to b, without a: the direction with fewer hops, + on a
tie. -/
def ringPath (n a b : Nat) : List Nat :=
  let up := (b + n - a) % n
  if up ≤ n - up then (List.range up).map (fun i => (a + i + 1) % n)
  else (List.range (n - up)).map (fun i => (a + n - (i + 1)) % n)

/-- The nodes that a packet passes, source and destination among them: along its row to the destination's X, then along
that column. -/
def path (v : Variant) (a b : Nat) : List Nat :=
  nodeAt (nodeX a) (nodeY a) :: ((ringPath gridW (nodeX a) (nodeX b)).map (fun x => nodeAt x (nodeY a)) ++
    (ringPath (gridH v) (nodeY a) (nodeY b)).map (fun y => nodeAt (nodeX b) y))

/-- The hops of a path, and the die-to-die links that it crosses. -/
def hops (v : Variant) (a b : Nat) : Nat := (path v a b).length - 1
def crossings (v : Variant) (a b : Nat) : Nat :=
  (((path v a b).zip ((path v a b).drop 1)).filter (fun e => crosses e.1 e.2)).length

/-- The unloaded bound of a path in lc (R324). -/
def pathBound (v : Variant) (a b : Nat) : Nat := 8 + 2 * hops v a b + 6 * crossings v a b

/-- Whether the variant has a node, one for each physical tile (R312). -/
def isNode (v : Variant) (p : Nat) : Bool := decide (p < numPhys v)

/-- Whether two nodes of the variant are neighbours, so that a link joins them (R312). -/
def linked (v : Variant) (a b : Nat) : Bool := isNode v a && isNode v b && decide (hops v a b = 1)

/-- The nodes of a multicast from a root to members, each once for each of its outputs: to every node that follows it on some
path, and to the port of a member (R320, R325). -/
def treeNodes (v : Variant) (root : Nat) (members : List Nat) : List Nat :=
  ((members.flatMap (fun m => (path v root m).zip ((path v root m).drop 1))).eraseDups.map (·.1)) ++ members

/-! ### Flits (R314, R325) -/

/-- n flits pass each of some nodes on a network: 0 REQ, 1 RSP, 2 SNP, 3 DAT. The counts wrap at 48 bits. -/
def passFlits (net n : Nat) (nodes : List Nat) (s : State) : State :=
  { s with noc := { s.noc with flits := nodes.foldl (fun t p =>
      tset (dflt 0) t (4 * p + net) (wrapAdd 48 (tget (dflt 0) t (4 * p + net)) n)) s.noc.flits } }

/-- The node that serves a device physical address: its stack's base die, or its CXL port. -/
def homeNode (s : State) (a : Nat) : Nat :=
  if tier2Base ≤ a then cxlNode ((a - tier2Base) / 2 ^ 44)
  else match localOf s a with
    | some (k, _, _) => stackNode k
    | none => pcieNode

/-- The lines that a die's read cache holds (R321). -/
def cacheLines : Nat := 65536

/-- A line that a unit reads from a stack of another die stands in the read cache of its die from then on; the oldest leaves a
full one (R321; log entry 71). -/
def cacheLine (at_ a : Nat) (s : State) : State :=
  let d := at_ / 72
  let l := (tget (dflt []) s.noc.caches d).filter (fun x => decide (x ≠ a / 64))
  if decide (tier2Base ≤ a) || homeNode s a / 72 = d then s
  else { s with noc := { s.noc with caches := tinsert d ((if cacheLines ≤ l.length then l.drop 1 else l) ++ [a / 64]) s.noc.caches } }

/-- Whether the read cache of a unit's die holds a line, so that no packet leaves the die for it (R321). -/
def cached (s : State) (at_ a : Nat) : Bool := decide (a / 64 ∈ tget (dflt []) s.noc.caches (at_ / 72))

/-- The read of a line by a unit at a node: the request, and the line (R314). -/
def readFlits (at_ home : Nat) (s : State) : State :=
  passFlits 3 1 (path s.variant home at_) (passFlits 0 1 (path s.variant at_ home) s)

/-- The write of a line by a unit at a node: the request, the line, and the acknowledgement (R314). -/
def writeFlits (at_ home : Nat) (s : State) : State :=
  passFlits 1 1 (path s.variant home at_) (passFlits 3 1 (path s.variant at_ home) (passFlits 0 1 (path s.variant at_ home) s))

/-- The read of a line of device memory by a unit at a node: from the read cache of its die, or from its home (R314, R321). -/
def lineFlits (at_ a : Nat) (s : State) : State :=
  if cached s at_ a then s else cacheLine at_ a (readFlits at_ (homeNode s a) s)

/-- The Ringmaster sends the block commands of 64 bytes to a tile (R314). -/
def commandFlits (p n : Nat) (s : State) : State := passFlits 0 (4 * n) (path s.variant (ringmasterNode s.st.rmDie) p) s

/-- A message of the Turnstile unit, beside the Ringmaster of the active die (R313, R314). -/
def turnstileFlit (s : State) : State := passFlits 1 1 [ringmasterNode s.st.rmDie] s

/-! ### Work of the units (R189 to R192, R325) -/

/-- The numbers of a tile's units, 0 to 3 the partitions of its matrix engine, 4 its vector engine, 5 its access engine; of
a Floe engine; and of the network as a whole. -/
def tileUnit (p u : Nat) : Nat := 8 * p + u
def floeUnit (k e : Nat) : Nat := 8 * 512 + 4 * k + e
def netUnit : Nat := 8 * 1024

/-- Units accept work: their counters may move from now on until they are next read (log entry 39). -/
def markWork (us : List Nat) (s : State) : State := { s with works := us.foldl (fun t u => tadd t u 1) s.works }

end Sys2Proof.Machine
end

