-- ==== Sys2Proof/Machine/Translate.lean ====
section
/-! DEFINITION. Address spaces: the forms of an address, the page tables as runs of leaves, the backing of a region
at first touch, and reads and writes of virtual and host memory (R231 to R245, R195, R196, R451). -/

namespace Sys2Proof.Machine

/-! ### The two forms of an address (R231) -/

/-- Whether an address field keeps the form of R231. -/
def addrOk (a : Nat) : Bool :=
  if bit a 63 then bits a 57 6 = 0 else bits a 48 15 = 0

/-- Whether an address is in host form. -/
def isHost (a : Nat) : Bool := bit a 63

/-- The address of a byte at a signed distance from a base, and whether it stays in the base's range (R231). -/
def offsetAddr (base : Nat) (d : Int) : Nat × Bool :=
  let top : Nat := if isHost base then 2 ^ 57 else 2 ^ 48
  let lo := base % 2 ^ 63
  let x : Int := Int.ofNat lo + d
  let okay := decide (0 ≤ x ∧ x < Int.ofNat top)
  (wrapInt 63 x + (if isHost base then 2 ^ 63 else 0), okay)

/-- The address that a stop names. -/
def Stop.addr : Stop → Nat
  | .fault _ a => a
  | .line a => a
  | .skew a .. => a
  | .wait _ a => a
  | _ => 0

/-! ### Page tables (R234, R235) -/

/-- The run of leaves that maps an address. -/
def findPage (s : State) (asid va : Nat) : Option PRange :=
  s.pages.find? (fun p => decide (p.asid = asid ∧ p.base ≤ va ∧ va < p.base + p.len))

/-- The physical address of a virtual address within a run. -/
def PRange.at (p : PRange) (va : Nat) : Nat := p.phys + (va - p.base)

/-- Whether a leaf has backing. -/
def LeafKind.isBacked : LeafKind → Bool
  | .backed => true | .tier2 => true | .migrating => true | _ => false

/-- The 8-byte entry of a leaf (R235), for the leaf that holds an address. -/
def pteOf (p : PRange) (va : Nat) : Nat :=
  let page := va - va % 2 ^ p.leaf
  let phys := p.at page
  let addr := match p.kind with
    | .reserved => 0
    | _ => if tier2Base ≤ phys then phys - tier2Base else phys
  let kind := match p.kind with
    | .reserved => 2 | .backed => 3 | .tier2 => 4 | .migrating => 5 | .lost => 6
  addr / 4096 * 4096 + b2n p.kv * 2 ^ 11 + b2n (p.pin || p.leaf = 30) * 2 ^ 10 + b2n p.cause * 2 ^ 9 + b2n p.fromTier2 * 2 ^ 8 +
    (if p.leaf = 16 then 2 ^ 7 else 0) + b2n p.wr * 2 ^ 6 + b2n p.rd * 2 ^ 5 + kind

/-- The level of a table at which a leaf stands (R234). -/
def leafLevel (leaf : Nat) : Nat := if leaf = 30 then 2 else if leaf = 21 then 1 else 0

/-- The device physical addresses that the Ringmaster keeps for page tables in the stacks' reserved ranges: nothing else is
placed there (R232; log entry 68). -/
def tableArea : Nat × Nat := (2 ^ 47, 2 ^ 47 + 2 ^ 34)

/-- The tables below the roots: address space, level and number of the region that each maps. -/
def lowTables (s : State) : List (Nat × Nat × Nat) :=
  (s.pages.flatMap (fun p => ((List.range 3).filter (fun lvl => leafLevel p.leaf ≤ lvl)).flatMap (fun lvl =>
    let reach := 2 ^ (21 + 9 * lvl)
    (List.range ((p.base + p.len - 1) / reach + 1 - p.base / reach)).map (fun i => (p.asid, lvl, p.base / reach + i))))).eraseDups

/-- The device physical address of a table: the roots come first, each at its own place until the next device reset, and every
other table has a frame of its own behind them (R232). -/
def tableAddr (s : State) (asid lvl i : Nat) : Nat :=
  let n := if lvl = 3 then asid else 4096 + (lowTables s).idxOf (asid, lvl, i)
  tableArea.1 + 4096 * ((Config.tableStart s.resets).toNat + n)

/-- The entry of an address space's table of a level for an address: its leaf, or the next table where a smaller leaf lies
in its reach, else INVALID (R234, R235). -/
def tableEntry (s : State) (asid lvl va : Nat) : TableEntry :=
  let reach := 2 ^ (12 + 9 * lvl)
  let lo := va / reach * reach
  let next : TableEntry := .table (tableAddr s asid (lvl - 1) (lo / reach))
  match findPage s asid va with
  | some p => if leafLevel p.leaf = lvl then .leaf (pteOf p va) else if leafLevel p.leaf < lvl then next else .leaf 0
  | none => if s.pages.any (fun p => decide (p.asid = asid ∧ leafLevel p.leaf < lvl ∧ p.base < lo + reach ∧ lo < p.base + p.len))
      then next else .leaf 0

/-- Whether an entry is malformed at a level (R234, R235). -/
def malformed (lvl : Nat) : TableEntry → Bool
  | .table _ => lvl = 0
  | .leaf e => (bits e 0 3 ≠ 0 && lvl = 3) || bits e 0 3 = 7 || bits e 3 2 ≠ 0 || bits e 48 16 ≠ 0

/-- The walk of R234 from a level down: the level and the entry of the leaf, where a malformed entry reads as INVALID. -/
def walk (s : State) (asid va : Nat) : Nat → Nat × Nat
  | 0 => match tableEntry s asid 0 va with
    | .leaf e => (0, if malformed 0 (.leaf e) then 0 else e)
    | .table _ => (0, 0)
  | lvl + 1 => match tableEntry s asid (lvl + 1) va with
    | .leaf e => (lvl + 1, if malformed (lvl + 1) (.leaf e) then 0 else e)
    | .table _ => walk s asid va lvl

/-- The ERROR event of a malformed entry that a walk meets below a level, with the entry's address (R234). -/
def walkEvent (asid va : Nat) : Nat → State → State
  | 0, s => s
  | lvl + 1, s =>
    let e := tableEntry s asid lvl va
    let i := va / 2 ^ (12 + 9 * lvl)
    if malformed lvl e then record 0x0502 0x80 (leBytes 8 (tableAddr s asid lvl (i / 512) + 8 * (i % 512))) s
    else match e with
      | .table _ => walkEvent asid va lvl s
      | .leaf _ => s

/-- How many tables of a level some runs need, in their order: regions of 2^k bytes that leaves of lower levels lie in. -/
def tablesOf (k : Nat) (l : List PRange) : Nat :=
  (l.foldl (fun (acc : Nat × Nat × Nat) p =>
    let first := p.base / 2 ^ k
    let last := (p.base + p.len - 1) / 2 ^ k
    let from_ := if acc.1 = p.asid + 1 then max first (acc.2.1 + 1) else first
    (p.asid + 1, max last (if acc.1 = p.asid + 1 then acc.2.1 else 0), acc.2.2 + (last + 1 - from_))) (0, 0, 0)).2.2

/-- The tables below the roots that the address spaces need (R234). -/
def tablesNeeded (l : List PRange) : Nat :=
  tablesOf 39 l + tablesOf 30 (l.filter (fun p => leafLevel p.leaf < 2)) + tablesOf 21 (l.filter (fun p => leafLevel p.leaf < 1))

/-- The tables that the memory which the Ringmaster backs for them holds: 32 MiB on each stack in service (R232; log
entry 68). -/
def tableRoom (s : State) : Nat :=
  ((List.range (numStacks s.variant)).filter (fun k => (getStack s k).present && !(getStack s k).lost)).length * 2 ^ 13

/-- Keep the runs in order of address space and address. -/
def insertPage (p : PRange) : List PRange → List PRange
  | [] => [p]
  | q :: qs =>
    if p.asid < q.asid ∨ (p.asid = q.asid ∧ p.base < q.base) then p :: q :: qs else q :: insertPage p qs

/-- The part of a run from one address up to another. -/
def PRange.slice (p : PRange) (lo hi : Nat) : PRange :=
  { p with base := lo, len := hi - lo, phys := if p.kind = .reserved then 0 else p.at lo }

/-- The parts of a run below, within and above a range. -/
def PRange.cut (p : PRange) (lo hi : Nat) : List PRange × Option PRange × List PRange :=
  let e := p.base + p.len
  if e ≤ lo ∨ hi ≤ p.base then ([p], none, [])
  else
    let a := max lo p.base
    let b := min hi e
    (if p.base < a then [p.slice p.base a] else [], some (p.slice a b), if b < e then [p.slice b e] else [])

/-- Apply a change to the leaves of a range of an address space; the runs are cut at its ends. -/
def mapRange (asid lo hi : Nat) (f : PRange → List PRange) (l : List PRange) : List PRange :=
  (l.flatMap (fun p =>
    if p.asid = asid then
      match p.cut lo hi with
      | (a, some m, c) => a ++ f m ++ c
      | (a, none, c) => a ++ c
    else [p])).foldl (fun acc p => insertPage p acc) []

/-- The runs of a range, cut at its ends. -/
def runsIn (s : State) (asid lo hi : Nat) : List PRange :=
  s.pages.filterMap (fun p => if p.asid = asid then (p.cut lo hi).2.1 else none)

/-- The bytes of a range that some leaf maps. -/
def mappedBytes (s : State) (asid lo hi : Nat) : Nat := (runsIn s asid lo hi).foldl (fun n p => n + p.len) 0

/-! ### Free memory and backing (R195, R196, R236, R451) -/

/-- The physical ranges in use, the page tables (R232), the staging area of configuration streams (R381) and
the second-tier pages with a poisoned line (R230) among them. -/
def usedRanges (s : State) : List (Nat × Nat) :=
  tableArea ::
  (s.pages.filter (fun p => p.kind ≠ .reserved)).map (fun p => (p.phys, p.phys + p.len)) ++
    s.place.migrations.map (fun m => (m.new, m.new + 2 ^ 21)) ++
    (s.kv.filter (fun k => !k.lost)).flatMap (fun k => k.pieces.map (fun a => (a, a + k.leaf))) ++
    (s.cfg.stageArea.toList).map (fun a => (a, a + 2 ^ 33)) ++
    (s.cxl.flatMap (fun e => e.2.bad)).map (fun l => (64 * l / 2 ^ 21 * 2 ^ 21, 64 * l / 2 ^ 21 * 2 ^ 21 + 2 ^ 21))

/-- A range in use that meets [a, b). -/
def usedAt (used : List (Nat × Nat)) (a b : Nat) : Option (Nat × Nat) :=
  used.find? (fun u => decide (u.1 < b ∧ a < u.2))

/-- The lowest free range of a size and alignment from a start, below a limit. -/
def lowestFree (used : List (Nat × Nat)) (size align limit : Nat) : Nat → Nat → Option Nat
  | 0, _ => none
  | fuel + 1, a =>
    if limit < a + size then none
    else match usedAt used a (a + size) with
      | none => some a
      | some u => lowestFree used size align limit fuel (max (a + align) (ceilDiv u.2 align * align))

/-- Whether a region of a window touches a stack that is out of service, which takes no new data (R227). -/
def touchesLost (s : State) (w : WinCfg) (a size : Nat) : Bool :=
  let stks := winStacks w
  let g := winGrain w
  let c := (a - w.base) / g
  (List.range (min (ceilDiv (a - w.base + size) g - c) stks.length)).any (fun i =>
    (getStack s (stks.getD ((c + i) % stks.length) 0)).lost)

/-- As lowestFree within a window, passing over the stacks that are out of service. -/
def lowestWhole (s : State) (w : WinCfg) (used : List (Nat × Nat)) (size align : Nat) : Nat → Nat → Option Nat
  | 0, _ => none
  | fuel + 1, a =>
    match lowestFree used size align (w.base + w.size) (2 * used.length + 2) a with
    | none => none
    | some x => if touchesLost s w x size then lowestWhole s w used size align fuel (x + align) else some x

/-- The place for an interleaved region in a window: the lowest free addresses (R222) on stacks in service (R227). -/
def placeInterleaved (s : State) (n size align : Nat) : Option Nat :=
  let w := (getWindow s n).active
  let used := usedRanges s
  let from_ := ceilDiv w.base align * align
  if w.size = 0 then none
  else if !((winStacks w).any (fun k => (getStack s k).lost)) then
    lowestFree used size align (w.base + w.size) (2 * used.length + 2) from_
  else if (winStacks w).length * winGrain w ≤ size then none
  else lowestWhole s w used size align ((used.length + 1) * (2 ^ 20 + (winStacks w).length)) from_

/-- The number of a stack within a window's set. -/
def indexIn (l : List Nat) (k : Nat) : Option Nat := l.findIdx? (· = k)

/-- Highest free pieces of a stack's chunks, from chunk number c downward: pieces of leaf bytes (R451). -/
def highestPieces (used : List (Nat × Nat)) (base grain leaf n : Nat) : Nat → Nat → Nat → List Nat
  | 0, _, _ => []
  | fuel + 1, need, c =>
    if need = 0 then []
    else
      let a := base + c * grain
      let here := ((List.range (grain / leaf)).reverse.map (fun i => a + i * leaf)).filter
        (fun x => (usedAt used x (x + leaf)).isNone)
      let got := here.take need
      let lower : Nat := match usedAt used a (a + grain) with
        | some u => if u.1 ≤ a ∧ a + grain ≤ u.2 then (a - u.1) / (grain * n) else 0
        | none => 0
      let step := n * (lower + 1)
      if c < step then got
      else got ++ highestPieces used base grain leaf n fuel (need - got.length) (c - step)

/-- The largest leaf, as log2, of at most some bytes (R234). -/
def leafWithin (n : Nat) : Nat := if 2 ^ 30 ≤ n then 30 else if 2 ^ 21 ≤ n then 21 else if 2 ^ 16 ≤ n then 16 else 12

/-- The pieces that back a single-stack region of a size on a stack, in a window whose set holds the stack and whose
grain is at least 4 KiB (R451), lowest address first. -/
def placeOnWindow (s : State) (n k leafLog2 size : Nat) : Option (Nat × List Nat) :=
  let w := (getWindow s n).active
  let stks := winStacks w
  let g := winGrain w
  if w.size = 0 ∨ g < 4096 then none
  else match indexIn stks k with
    | none => none
    | some i =>
      let leaf := 2 ^ leafWithin (min (2 ^ leafLog2) g)
      let chunks := w.size / g
      let top := (chunks - 1) - ((chunks - 1) + stks.length - i) % stks.length
      let used := usedRanges s
      let need := size / leaf
      let ps := highestPieces used w.base g leaf stks.length (need + 4 * used.length + 4) need top
      if ps.length = need then some (leaf, ps) else none

/-- As placeOnWindow, in the first window that has room. -/
def placeOnStack (s : State) (k leafLog2 size : Nat) : Option (Nat × List Nat) :=
  if (getStack s k).lost then none
  else (List.range 16).findSome? (fun n => placeOnWindow s n k leafLog2 size)

/-- The place for a 2 MiB page in the second tier: the first port in service with a free page (R229, R230). -/
def placeTier2 (s : State) (size : Nat) : Option Nat :=
  let used := usedRanges s
  (List.range (numCxl s.variant)).findSome? (fun p =>
    let c := getCxl s p
    if c.up && !c.failed then
      let base := tier2Base + p * 2 ^ 44
      lowestFree used size size (base + c.capGib * 2 ^ 30) (2 * used.length + 2) base
    else none)

/-- Back the RESERVED leaves of a run on single pieces of a stack, leaf by leaf. -/
def splitPieces (p : PRange) (k leaf : Nat) : List Nat → Nat → List PRange
  | [], _ => []
  | a :: as, i =>
    { p with base := p.base + i * leaf, len := leaf, leaf := leafWithin leaf, kind := .backed, phys := a,
             stack := some k } :: splitPieces p k leaf as (i + 1)

/-- The hints that name an address (R204). -/
def hintsAt (s : State) (asid va : Nat) : List Hint :=
  s.place.hints.filter (fun h => decide (h.asid = asid ∧ h.base ≤ va ∧ va < h.base + h.len))

/-- Stacks that take new single-stack regions: in service, the derated ones last (R196). -/
def stackOrder (s : State) (l : List Nat) : List Nat :=
  let okay := l.filter (fun k => !(getStack s k).lost && (getStack s k).present)
  okay.filter (fun k => !(getStack s k).derated) ++ okay.filter (fun k => (getStack s k).derated)

/-- A window whose stack set lies within a set (R204). -/
def windowWithin (s : State) (set : Nat) : Option Nat :=
  (List.range 16).find? (fun n =>
    let w := (getWindow s n).active
    w.size ≠ 0 && (winStacks w).all (fun k => bit set k) && !(winStacks w).isEmpty)

/-- Whether the stacks of a window lie within a set (R204). -/
def windowIn (s : State) (n set : Nat) : Bool :=
  let w := (getWindow s n).active
  w.size ≠ 0 && (winStacks w).all (fun k => bit set k)

/-- The backings that a PIN_DATA accepts, best first: interleaved in WINDOW, which must lie within STACK_SET if there is
one, on STACK_SET, or anywhere (R204). -/
def pinBackings (s : State) (set win : Nat) : List Backing :=
  if win ≠ 0xFF then (if set = 0 || windowIn s win set then [.inWindow win] else [])
  else if set = 0 then (List.range 16).map Backing.inWindow
  else (match windowWithin s set with
    | some n => if popCount 32 set = 1 then [] else [Backing.inWindow n]
    | none => []) ++ [.onOne (stackOrder s (setBitsOf 32 set))]

/-- The backing of a run that lies in tier one: its stack, or its window. -/
def backingOf (s : State) (p : PRange) (va : Nat) : Option Backing := match p.stack with
  | some k => some (.onOne [k])
  | none => (windowOf s (p.at va)).map (fun w => .inWindow w.1)

/-- The backings to try for a region, in the order of R195: a pin binds; a part with UNIT 0b01 takes one stack; else a
keep-near relation and an affinity group come before window 0. -/
def backingsFor (s : State) (asid va : Nat) (one : Bool) : List Backing :=
  let hs := hintsAt s asid va
  let near := hs.filterMap (fun h => if h.kind = 2 then
      (findPage s h.asid h.arg).bind (fun p => if p.kind.isBacked then backingOf s p h.arg else none) else none)
  let aff := hs.filterMap (fun h => if h.kind = 1 then
      (s.place.hints.filter (fun g => g.kind = 1 && g.asid = asid && g.arg = h.arg)).findSome? (fun g =>
        (runsIn s asid g.base (g.base + g.len)).findSome? (fun p =>
          if p.kind = .backed then backingOf s p p.base else none)) else none)
  match hs.find? (fun h => h.kind = 3) with
  | some h => pinBackings s h.stackSet h.window
  | none => if one then [Backing.onOne (stackOrder s (List.range (numStacks s.variant)))] else near ++ aff ++ [.inWindow 0]

/-- Back one run of RESERVED leaves as asked, if there is room. The leaf size that software chose is kept, but
leaves on one stack are no larger than the grain (R236, R451). -/
def backRun (s : State) (b : Backing) (p : PRange) : Option (List PRange) :=
  match b with
  | .inWindow n => (placeInterleaved s n p.len (2 ^ p.leaf)).map (fun a =>
      [{ p with kind := .backed, phys := a, stack := none }])
  | .onOne ks => ks.findSome? (fun k => (placeOnStack s k p.leaf p.len).map (fun r => splitPieces p k r.1 r.2 0))

/-- Replace the runs that make up a range of an address space. -/
def putRuns (asid lo hi : Nat) (rs : List PRange) (s : State) : State :=
  let rest := mapRange asid lo hi (fun _ => []) s.pages
  { s with pages := rs.foldl (fun acc p => insertPage p acc) rest }

/-- The physical ranges of new runs read as zero (R236). -/
def zeroRuns (rs : List PRange) (s : State) : State := rs.foldl (fun s p => zeroPhys p.phys p.len s) s

/-- Back a run by the first backing that has room, else in the second tier (R195). -/
def backOne (bs : List Backing) (p : PRange) (s : State) : Option State :=
  let pin := (hintsAt s p.asid p.base).any (fun h => h.kind = 3)
  let put (rs : List PRange) : State :=
    let rs := rs.map (fun r => { r with pin := r.pin || pin })
    zeroRuns rs (putRuns p.asid p.base (p.base + p.len) rs s)
  match bs.findSome? (fun b => backRun s b p) with
  | some rs => some (put rs)
  | none =>
    if pin then none
    else (placeTier2 s (2 ^ 21)).map (fun a => put [{ p with kind := .tier2, phys := a, stack := none }])

/-- Back every RESERVED leaf of the 2 MiB region that holds an address, or the whole 1 GiB leaf (R236). none: no
free memory. -/
def backRegion (asid va : Nat) (one : Bool) (s : State) : Option State :=
  match findPage s asid va with
  | some p =>
    if p.leaf = 30 then
      let lo := va / 2 ^ 30 * 2 ^ 30
      match p.cut lo (lo + 2 ^ 30) with
      | (_, some m, _) => (placeInterleaved s 0 (2 ^ 30) (2 ^ 30)).map (fun a =>
          let r := { m with kind := .backed, phys := a, pin := true }
          zeroRuns [r] (putRuns asid lo (lo + 2 ^ 30) [r] s))
      | _ => none
    else
      let lo := va / 2 ^ 21 * 2 ^ 21
      let runs := (runsIn s asid lo (lo + 2 ^ 21)).filter (fun r => r.kind = .reserved)
      runs.foldl (fun acc r => acc.bind (fun s' => backOne (backingsFor s' asid va one) r s')) (some s)
  | none => none

/-! ### Translation (R231, R240 to R245) -/

/-- A host byte: what the device has written there, else what the host's memory holds (log entry 4). -/
def hostRead (s : State) (a : Nat) : Byte :=
  match tfind a s.hmem with
  | some b => b
  | none => Config.hostByte a

/-- The die of the unit that makes an access, whose address translation cache it uses: of a unit on no die that of the active
Ringmaster (R240, R245, R399). -/
def Who.die (w : Who) (rm : Nat) : Nat :=
  let c := w.unit / 256
  if 0x10 ≤ c ∧ c < 0x14 then c - 0x10
  else if 0x40 ≤ c ∧ c < 0x60 then (c - 0x40) / 8
  else if 0x70 ≤ c ∧ c < 0x74 then c - 0x70
  else rm

/-- The host translation that a die holds for a page (R240). -/
def atsFind (s : State) (die func pasid page : Nat) : Option AtsEntry :=
  s.ats.find? (fun e => e.die = die && e.func = func && e.pasid = pasid && e.page = page)

/-- Translate one address for a read or a write (R231, R241, R245). Permission is judged before backing. -/
def translate (s : State) (w : Who) (write : Bool) (addr : Nat) : Tr :=
  if isHost addr then
    if bits addr 57 6 ≠ 0 then .bad 0x20
    else if !s.link.up then .wait .link
    else
      let f := getFunc s w.func
      if !f.atsEnable then .host (addr % 2 ^ 57)
      else match atsFind s (w.die s.st.rmDie) w.func (w.pasid.getD 0) (addr % 2 ^ 57 / 4096) with
        | none => .wait .translation
        | some e =>
          if e.untranslated || (if write then e.wr else e.rd) then .host (addr % 2 ^ 57)
          else if f.priEnable && !f.priStopped then .wait .pageRequest
          else .bad 0x20
  else if bits addr 48 15 ≠ 0 then .bad 0x20
  else match findPage s w.asid addr with
    | none => .bad 0x20
    | some p =>
      if !(if write then p.wr else p.rd) then .bad 0x21
      else match p.kind with
        | .reserved => .wait .backing
        | .lost => .bad (if p.cause then 0x31 else 0x30)
        | .migrating => if write then .wait .migration else .phys (p.at addr)
        | .backed => if (windowOf s (p.at addr)).isNone then .bad 0x20 else .phys (p.at addr)
        | .tier2 =>
          if (getCxl s ((p.at addr - tier2Base) / 2 ^ 44)).downSince.isSome then .wait .cxl
          else .phys (p.at addr)

/-- Whether n bytes from an address can be accessed now: the first address that cannot, and why. A lost line stops a
read with DATA_ERROR and its physical address, and a stack out of service every access (R225, R227). -/
def checkV (s : State) (w : Who) (write : Bool) : Nat → Nat → Nat → Option Stop
  | 0, _, _ => none
  | fuel + 1, addr, n =>
    if n = 0 then none
    else
      let k := min n (64 - addr % 64)
      match translate s w write addr with
      | .bad st =>
        let page := match findPage s w.asid addr with
          | some p => if st = 0x31 then addr / 2 ^ p.leaf * 2 ^ p.leaf else addr
          | none => addr
        some (.fault st page)
      | .wait x => some (.wait x addr)
      | .host _ => checkV s w write fuel (addr + k) (n - k)
      | .phys a =>
        if stackGone s a || (!write && lineLost s a) then some (.line (a / 64 * 64))
        else checkV s w write fuel (addr + k) (n - k)

/-- The bytes at an address whose access has been checked. -/
def fetchV (s : State) (w : Who) : Nat → Nat → List Byte
  | 0, _ => []
  | n + 1, addr =>
    (match translate s w false addr with
      | .phys a => Memory.read s.dmem a
      | .host a => hostRead s a
      | _ => 0) :: fetchV s w n (addr + 1)

/-- Read n bytes, or why not. -/
def readV (s : State) (w : Who) (addr n : Nat) : Except Stop (List Byte) :=
  match checkV s w false (n / 64 + 2) addr n with
  | some e => .error e
  | none => .ok (fetchV s w n addr)

/-- Write bytes at an address whose access has been checked, line by line. -/
def storeV (w : Who) : Nat → Nat → List Byte → State → State
  | 0, _, _, s => s
  | fuel + 1, addr, bs, s =>
    if bs.isEmpty then s
    else
      let k := 64 - addr % 64
      let s1 := match translate s w true addr with
        | .phys a => writeLine a (bs.take k) s
        | .host a => { s with hmem := (bs.take k).zipIdx.foldl (fun t x => tinsert (a + x.2) x.1 t) s.hmem }
        | _ => s
      storeV w fuel (addr + k) (bs.drop k) s1

/-- Write bytes, or why not; nothing is written when some byte cannot be. -/
def writeV (w : Who) (addr : Nat) (bs : List Byte) (s : State) : Except Stop State :=
  match checkV s w true (bs.length / 64 + 2) addr bs.length with
  | some e => .error e
  | none => .ok (storeV w (bs.length / 64 + 2) addr bs s)

/-! ### Faults (R241, R242, R245) -/

/-- The WARN event of a fault that cannot be resolved (R245). -/
def recordFault (w : Who) (addr : Nat) (s : State) : State :=
  record 0x0501 0x80 (leBytes 8 addr ++ leBytes 2 w.unit ++ leBytes 2 (if isHost addr then 0 else w.asid) ++
    leBytes 1 (if isHost addr then w.func else 0) ++ leBytes 1 0 ++
    leBytes 4 (if isHost addr then w.pasid.getD 0 else 0)) s

/-- The event of a stop that is a fault that cannot be resolved; a lost line records nothing more (R227, R245). -/
def recordStop (w : Who) (e : Stop) (s : State) : State :=
  match e with
  | .fault _ addr => recordFault w addr s
  | _ => s

/-- What the device does when an access begins to wait: a translation request, or one page request for the page,
within the allocation that the host grants (R241, R242); a migration that is written takes the access's priority
(R184, R203). -/
def startWait (w : Who) (write : Bool) (x : Wait) (addr : Nat) (s : State) : State :=
  let page := addr % 2 ^ 57 / 4096
  let pasid := w.pasid.getD 0
  match x with
  | .translation => emit (.atsRequest w.func pasid page write) s
  | .pageRequest =>
    if s.pris.any (fun r => r.func = w.func && r.pasid = pasid && r.page = page) then s
    else
      let sent := decide ((s.pris.filter (fun r => r.func = w.func && r.sent)).length < (getFunc s w.func).priAlloc)
      let r : PriReq := { func := w.func, pasid, page, wr := write,
                          deadline := s.time + s.priTimeout * 1000000, sent }
      let s1 := { s with pris := s.pris ++ [r] }
      if sent then emit (.pageRequest w.func pasid page (!write) write) s1 else s1
  | .migration =>
    { s with place := { s.place with migrations := s.place.migrations.map (fun m =>
        if m.asid = w.asid ∧ m.page = addr / 2 ^ 21 then { m with prio := max m.prio w.prio, weight := 255 } else m) } }
  | _ => s

/-- Move the bytes of a physical range. -/
def movePhys (old new n : Nat) (s : State) : State :=
  let inside (c : Host.Cell) : Bool := decide (old ≤ c.1 ∧ c.1 < old + n)
  let cells := s.dmem.filter inside
  let rest := s.dmem.filter (fun c => !inside c && !decide (new ≤ c.1 ∧ c.1 < new + n))
  { s with
    dmem := cells.foldl (fun m c => Memory.write m (c.1 - old + new) c.2) rest
    noc := { s.noc with caches := s.noc.caches.map (fun e => (e.1, e.2.filter (fun l => decide (64 * l < new ∨ new + n ≤ 64 * l)))) } }

/-- Let a suspended operation go on: its own row runs it from its cursor; one that was being validated is validated
again; one that has ended writes its statistics. -/
def wake (o : Op) : Op :=
  { o with phase := if o.closing ≠ 0 then .done else if o.valid then .ready else .gated, wait := none }

/-- The suspended operations that pass a test go on, and leave the slots of the access engines that a fault kept them in
(R166, R246). -/
def wakeOps (p : Op → Bool) (s : State) : State :=
  let goes (o : Op) : Bool := o.phase = .suspended && p o
  freeSlots (fun t => s.ops.any (fun o => o.tag = t && goes o))
    { s with ops := s.ops.map (fun o => if goes o then wake o else o) }

/-- The writes that waited for the migration of a page go on (R203). -/
def wakeMigrated (asid page : Nat) (s : State) : State :=
  wakeOps (fun o => o.wait = some .migration && o.asid = asid && decide (o.faultAddr / 2 ^ 21 = page)) s

/-- A page begins to migrate (R203). -/
def beginMigration (m : Migration) (s : State) : State :=
  let lo := m.page * 2 ^ 21
  let f (r : PRange) : List PRange := [{ r with kind := .migrating, fromTier2 := decide (tier2Base ≤ m.old) }]
  { s with
    pages := mapRange m.asid lo (lo + 2 ^ 21) f s.pages
    place := { s.place with migrations := s.place.migrations ++ [m] } }

/-- A migration ends without its copy: the page stays where it was, and the writes that waited for it go on (R203). -/
def endMigration (m : Migration) (s : State) : State :=
  let lo := m.page * 2 ^ 21
  let f (r : PRange) : List PRange := if r.kind = .migrating then
    [{ r with kind := if r.fromTier2 then .tier2 else .backed, fromTier2 := false }] else [r]
  wakeMigrated m.asid m.page { s with
    pages := mapRange m.asid lo (lo + 2 ^ 21) f s.pages
    place := { s.place with migrations := s.place.migrations.filter (fun x => !decide (x = m)) } }

/-- As endMigration; a page that was to take the old page's place stays where it is too (R202). -/
def cancelMigration (m : Migration) (s : State) : State :=
  endMigration m ((s.place.migrations.filter (fun x => x.new = m.old && x != m)).foldl (fun s x => endMigration x s) s)

/-- The poisoned lines that the expander of a second-tier page has reported in it (R230). -/
def badLines (s : State) (a : Nat) : List Nat :=
  if tier2Base ≤ a then
    (getCxl s ((a - tier2Base) / 2 ^ 44)).bad.filter (fun l => decide (a / 2 ^ 21 * 2 ^ 21 ≤ 64 * l ∧ 64 * l < a / 2 ^ 21 * 2 ^ 21 + 2 ^ 21))
  else []

/-- The contents of a line that could not be read are open where a page has moved (R230; log entry 69). -/
def unreadLines (m : Migration) (s : State) : State :=
  (badLines s m.old).foldl (fun s l =>
    let (x, s1) := takeFree 512 s
    { s1 with dmem := Memory.writeN s1.dmem (m.new + (64 * l - m.old)) (leBytes 64 x.toNat) }) s

/-- A migration ends well: the new mapping is installed, the old copy is freed, and the move is counted (R203). -/
def installMigration (m : Migration) (s : State) : State :=
  let lo := m.page * 2 ^ 21
  let f (r : PRange) : List PRange := if r.kind = .migrating then
      [{ r with kind := if m.toTier1 then .backed else .tier2, fromTier2 := false,
                phys := m.new + (r.phys - m.old), stack := none }] else [r]
  let s1 := unreadLines m (wholeLines m.new (2 ^ 21) (movePhys m.old m.new (2 ^ 21) s))
  let p := s1.place
  { s1 with
    pages := mapRange m.asid lo (lo + 2 ^ 21) f s1.pages
    place := { p with
      migrations := p.migrations.filter (fun x => !decide (x = m))
      promoted := if m.toTier1 && decide (tier2Base ≤ m.old) then wrapAdd 32 p.promoted 1 else p.promoted
      demoted := if m.toTier1 || decide (tier2Base ≤ m.old) then p.demoted else wrapAdd 32 p.demoted 1 } }

/-- The migration of the page that holds an address. -/
def migrationAt (s : State) (asid va : Nat) : Option Migration :=
  s.place.migrations.find? (fun m => m.asid = asid && m.page = va / 2 ^ 21)

/-- Whether the old copy of a page holds no uncorrectable line of a stack (R203); a second-tier page leaves a poisoned line behind
(R230). -/
def Migration.readable (m : Migration) (s : State) : Bool := decide (tier2Base ≤ m.old) || rangeWhole s m.old (2 ^ 21)

/-- A migration ends well, after those whose old copies stand in its new place have ended; an uncorrectable line of an old copy
ends it, and the page stays where it was (R202, R203). -/
def finishMigration (m : Migration) (s : State) : State :=
  let before := s.place.migrations.filter (fun x => x.old = m.new && x != m)
  match (m :: before).find? (fun x => !x.readable s) with
  | some x => cancelMigration x s
  | none => installMigration m (before.foldl (fun s x => installMigration x s) s)

/-- Resolve a first touch, or a write to a migrating page, at once; anything else stays as it is. Used by the
Ringmaster's own accesses. -/
def resolveTouch (w : Who) (e : Stop) (s : State) : Except Stop State :=
  match e with
  | .wait .migration addr =>
    match migrationAt s w.asid addr with
    | some m => .ok (finishMigration m s)
    | none => .error e
  | .wait .backing addr =>
    match backRegion w.asid addr false s with
    | some s' => .ok s'
    | none => .error (.fault 0x12 addr)
  | e => .error e

/-- Read by the Ringmaster, the host interface or a port: first touches are backed on the way. -/
def readRM (w : Who) (addr n : Nat) : Nat → State → Except Stop (List Byte) × State
  | 0, s => (readV s w addr n, s)
  | fuel + 1, s =>
    match readV s w addr n with
    | .ok bs => (.ok bs, s)
    | .error e =>
      match resolveTouch w e s with
      | .ok s' => readRM w addr n fuel s'
      | .error e' => (.error e', s)

/-- Write by the Ringmaster, the host interface or a port: first touches are backed on the way. -/
def writeRM (w : Who) (addr : Nat) (bs : List Byte) : Nat → State → Option Stop × State
  | 0, s =>
    match writeV w addr bs s with
    | .ok s' => (none, s')
    | .error e => (some e, s)
  | fuel + 1, s =>
    match writeV w addr bs s with
    | .ok s' => (none, s')
    | .error e =>
      match resolveTouch w e s with
      | .ok s' => writeRM w addr bs fuel s'
      | .error e' => (some e', s)

/-- The flits of an access that a unit at a node makes (R314, R315). -/
def accessFlits (at_ : Nat) (w : Who) (write : Bool) (addr : Nat) (s : State) : State :=
  match translate s w write addr with
  | .phys a => if write then writeFlits at_ (homeNode s a) s else lineFlits at_ a s
  | _ => if write then writeFlits at_ pcieNode s else readFlits at_ pcieNode s

/-! ### KV pages in retired memory (R154) -/

/-- The page-table entry of a KV page (R147). -/
def kvEntry (valid lost : Bool) (stack addr : Nat) : Nat :=
  let hi := b2n valid * 2 ^ 63 + b2n lost * 2 ^ 62 + stack * 2 ^ 57 + addr / 64 * 64
  hi + popCount 64 hi % 64

/-- The leaves that map a KV page are removed: its memory is given back (R235). -/
def unmapKv (k : KvPage) (s : State) : State :=
  match k.va with
  | some va => { s with pages := mapRange k.asid va (va + k.leaf * k.pieces.length) (fun _ => []) s.pages }
  | none => s

/-- The Ringmaster marks the KV page that holds an uncorrectable line LOST (R154), though its frame is not remapped because the
table is full (R227; DESIGN CHOICE, log entry 73). -/
def kvRetire (a : Nat) (s : State) : State :=
  match s.kv.find? (fun k => !k.lost && k.pieces.any (fun x => decide (x ≤ a ∧ a < x + k.leaf))) with
  | none => s
  | some k =>
    let s0 := unmapKv k s
    let s1 := { s0 with kv := s0.kv.map (fun x => if x.asid = k.asid && x.entry = k.entry then { x with lost := true, va := none }
                                                  else x) }
    let s2 := (writeRM { asid := k.asid } k.entry (leBytes 8 (kvEntry true true k.stack 0)) 2 s1).2
    record 0x0302 0x05 (leBytes 4 k.seqId ++ leBytes 2 k.layer ++ leBytes 2 k.head ++ leBytes 4 k.page) s2

/-- Whether a write of the whole line that holds an address waits in its controller: it takes effect after what was
accepted before it (R214). -/
def writeWaits (s : State) (a : Nat) : Bool := match localOf s a with
  | some (k, _, _) => (getStack s k).reqs.any (fun r =>
      r.write && decide (r.addr = a / 64 * 64 ∧ r.enables = 2 ^ 64 - 1))
  | none => false

/-- The reads of a line that were accepted before the first write of the whole line meet its loss (R214, R227). -/
def loseReads (a : Nat) : List MemReq → List MemReq
  | [] => []
  | r :: rs =>
    let mine := decide (r.addr = a / 64 * 64)
    if mine && r.write && decide (r.enables = 2 ^ 64 - 1) then r :: rs
    else (if mine && !r.write then { r with lost := true } else r) :: loseReads a rs

/-- An uncorrectable line and the KV page that holds it (R154, R225); a write of the whole line that was accepted
later makes it whole, but not for the reads accepted before it (R214, R227). A page is marked LOST though the remap table is full
(DESIGN CHOICE, log entry 73). -/
def uncorrectableKv (a by_ : Nat) (s : State) : State :=
  let s1 := kvRetire a (uncorrectable a by_ s)
  if writeWaits s1 a then match localOf s1 a with
    | some (k, _, _) =>
      let st := getStack s1 k
      clearLost (setStack s1 k { st with reqs := loseReads a st.reqs }) a
    | none => s1
  else s1

/-- The second-tier pages that hold a poisoned line leave for another place, one page after another, where one is free
(R230). -/
def leaveBad (s : State) : State :=
  (s.cxl.flatMap (fun e => e.2.bad)).foldl (fun s l =>
    match s.pages.find? (fun r => r.kind = .tier2 && decide (r.phys ≤ 64 * l ∧ 64 * l < r.phys + r.len)) with
    | none => s
    | some r =>
      let page := (r.base + (64 * l - r.phys)) / 2 ^ 21
      let old := 64 * l / 2 ^ 21 * 2 ^ 21
      match (List.range 16).findSome? (fun w => placeInterleaved s w (2 ^ 21) (2 ^ 21)) with
      | some new => beginMigration { asid := r.asid, page, old, new, toTier1 := true } s
      | none => match placeTier2 s (2 ^ 21) with
        | some new => beginMigration { asid := r.asid, page, old, new, toTier1 := false } s
        | none => s) s

/-- An expander reports a line poisoned: it is recorded as an uncorrectable line by its port, whose expander shows neither
pseudo-channel, bank nor row, and its page leaves (R225, R230, R410; log entry 69). -/
def poison (a : Nat) (s : State) : State :=
  let p := (a - tier2Base) / 2 ^ 44
  let c := getCxl s p
  let (x, s1) := takeFree 48 s
  let place := leBytes 6 x.toNat
  leaveBad (setCxl (record 0x0401 (0x60 + p) (leBytes 8 (a / 64 * 64) ++ place.take 2 ++ leBytes 2 0 ++ place.drop 2) s1) p
    { c with bad := insertNat (a / 64) c.bad })

/-- An operation's read meets an uncorrectable line; of a line that is lost already nothing more is reported (R225,
R227, R230). -/
def badRead (a : Nat) (s : State) : State :=
  if lineLost s a then s else if tier2Base ≤ a then poison a s else uncorrectableKv a 0 s

end Sys2Proof.Machine
end

