-- ==== Sys2Proof/Machine/LinkLayer.lean ====
section
/-! DEFINITION. The link layer of a cascade link: message slots, flits and their CRC, and the transmitter with its buffer of
flits that have not been acknowledged (R329 to R331, R333 to R335, R341). -/

namespace Sys2Proof.Machine

def getLink (s : State) (l : Nat) : CascLink := tget (dflt {}) s.casc.links l
def setLink (s : State) (l : Nat) (x : CascLink) : State :=
  { s with casc := { s.casc with links := tset (dflt {}) s.casc.links l x } }
def getLane (s : State) (n : Nat) : CascLane := tget (dflt {}) s.casc.lanes n
def setLane (s : State) (n : Nat) (x : CascLane) : State :=
  { s with casc := { s.casc with lanes := tset (dflt {}) s.casc.lanes n x } }

/-- The lanes of a link that carry traffic at a width code: 1 lanes 0 to 3, 2 lanes 4 to 7, 3 all (R347). -/
def laneWorks (width i : Nat) : Bool :=
  decide (width = 3 ∨ (width = 1 ∧ i < 4) ∨ (width = 2 ∧ 4 ≤ i))

/-! ### Message slots (R314, R335) -/

/-- The network code of a message: requests on REQ, lines on DAT, everything else on RSP (R314). -/
def CascMsg.net : CascMsg → Nat
  | .write .. => 3
  | .readData .. => 3
  | .read .. => 0
  | .doorbell .. => 0
  | .collective .. => 0
  | _ => 1

/-- Whether a message travels on the pair of RSP that carries Turnstile traffic (R314). -/
def CascMsg.trnVc : CascMsg → Bool
  | .signal .. => true
  | .trnOp .. => true
  | .trnRel .. => true
  | .trnDone .. => true
  | _ => false

/-- The number of the queue whose channel a message belongs to, where it names one (R304). -/
def CascMsg.queue : CascMsg → Nat
  | .write queue .. => queue
  | .signal queue .. => queue
  | .trnOp _ _ _ _ _ _ _ queue => queue
  | _ => 0

/-- The KIND of a message, and the fields of its ARGS with their widths in their order; none for a collective's, which only
firmware interprets (R335). -/
def CascMsg.args : CascMsg → Nat × Option (List (Nat × Nat))
  | .write _ addr group len off _ => (1, some [(48, addr), (12, group), (7, len), (6, off)])
  | .read addr group len off rtag => (2, some [(48, addr), (12, group), (7, len), (6, off), (12, rtag)])
  | .readData rtag status _ => (3, some [(12, rtag), (8, status)])
  | .writeDone status lines => (4, some [(8, status), (16, lines)])
  | .signal _ _ trn n gen curgen fence => (5, some [(12, trn), (16, n), (16, gen), (1, b2n curgen), (40, fence)])
  | .signalDone status queue => (6, some [(8, status), (18, queue)])
  | .trnOp kind trn gen n curgen wtag _ _ => (7, some [(2, kind), (12, trn), (16, gen), (16, n), (1, b2n curgen), (16, wtag)])
  | .trnRel trn gen => (8, some [(12, trn), (16, gen)])
  | .trnDone wtag status => (9, some [(16, wtag), (8, status)])
  | .doorbell _ queue value => (10, some [(18, queue), (64, value)])
  | .collective .. => (16, none)

/-- Fields packed from bit 0 in their order. -/
def packFields : List (Nat × Nat) → Nat
  | [] => 0
  | f :: fs => f.2 % 2 ^ f.1 + packFields fs * 2 ^ f.1

/-- The line that goes with a message. -/
def CascMsg.line : CascMsg → List Byte
  | .write _ _ _ _ _ line => padTo 64 line
  | .readData _ _ line => padTo 64 line
  | _ => []

/-- The 16 bytes of a message slot (R335). The ARGS of a collective's message are open. -/
def msgSlot (src dst seq : Nat) (m : CascMsg) (s : State) : List Byte × State :=
  let (kind, fs) := m.args
  let (args, s1) := match fs with
    | some fs => (packFields fs, s)
    | none => let (x, s1) := takeFree 88 s
              (x.toNat, s1)
  (leBytes 1 (dst % 16 + 16 * (src % 16)) ++ leBytes 1 (m.net + 4 * b2n m.trnVc) ++ leBytes 2 seq ++ leBytes 1 kind ++ leBytes 11 args, s1)

/-- The message of a slot that came with a line, where the slot says all that its receiver needs: a WRITE, a SIGNAL, a TRN_OP and a
DOORBELL carry no field for the sender's queue or function, which their own commands name (R304, R335; log entry 74). -/
def slotMsg (slot line : List Byte) : Option CascMsg :=
  let args := fieldAt slot 5 11
  match fieldAt slot 4 1 with
  | 2 => some (.read (bits args 0 48) (bits args 48 12) (bits args 60 7) (bits args 67 6) (bits args 73 12))
  | 3 => some (.readData (bits args 0 12) (bits args 12 8) line)
  | 4 => some (.writeDone (bits args 0 8) (bits args 8 16))
  | 6 => some (.signalDone (bits args 0 8) (bits args 8 18))
  | 8 => some (.trnRel (bits args 0 12) (bits args 12 16))
  | 9 => some (.trnDone (bits args 0 16) (bits args 16 8))
  | _ => none

/-! ### Flits (R333) -/

/-- One bit of the CRC-64 of ECMA-182. -/
def crc64Bit (c : Nat) (b : Bool) : Nat :=
  let top := bit c 63 != b
  let d := (2 * c) % 2 ^ 64
  if top then d ^^^ 0x42F0E1EBA9EA3693 else d

/-- The CRC-64 of ECMA-182 over bytes: most significant bit first, from 0 (log entry 32). -/
def crc64 (bs : List Byte) : Nat :=
  bs.foldl (fun c b => (List.range 8).foldl (fun c i => crc64Bit c (b.getLsbD (7 - i))) c) 0

/-- Whether the header of a flit is one that R333 allows: a listed FTYPE, reserved bits 0, and no data slot without its
message. -/
def flitHeaderOk (h : Nat) : Bool :=
  decide (bits h 0 4 ≤ 3) && bits h 35 13 = 0 && (bits h 29 3 &&& bits h 32 3) = bits h 29 3

/-- Which credit a message takes and gives back: REQ 0, general RSP 1, Turnstile RSP 2, DAT 3 (R333). -/
def creditOf (net : Nat) (trnVc : Bool) : Nat := if net = 3 then 3 else if net = 0 then 0 else if trnVc then 2 else 1

/-- The four 4-bit credit returns of a header. -/
def creditField (l : List Nat) : Nat := (List.range 4).foldl (fun n i => n + min 15 (l.getD i 0) * 16 ^ i) 0

/-- The 256 bytes of the next flit of a link: FTYPE, its one message with its line, the last flit accepted, and the credits that it
returns. -/
def flitBytes (x : CascLink) (ftype : Nat) (m : Option TxMsg) : List Byte :=
  let slot := (m.map (fun m => m.slot)).getD []
  let line := (m.map (fun m => m.line)).getD []
  let h := ftype + x.txNext * 2 ^ 4 + (x.rxNext + 4095) % 4096 * 2 ^ 16 + b2n x.naked * 2 ^ 28 + b2n (!line.isEmpty) * 2 ^ 29 +
    b2n m.isSome * 2 ^ 32 + creditField x.creditDue * 2 ^ 48
  let body := leBytes 8 h ++ padTo 64 line ++ fill 128 0 ++ padTo 16 slot ++ fill 32 0
  body ++ leBytes 8 (crc64 body)

/-! ### The transmitter (R331, R334) -/

/-- Flits that the transmitter keeps until they are acknowledged. -/
def txRoom : Nat := 1024

/-- Send one flit with a sequence number: it stays in the buffer until it is acknowledged, and carries the acknowledgement that is
owed. -/
def sendFlit (l ftype : Nat) (m : Option TxMsg) (s : State) : State :=
  let x := getLink s l
  let bs := flitBytes x ftype m
  emit (.flit l bs) (setLink s l { x with
    txBuf := x.txBuf ++ [{ seq := x.txNext, bytes := bs, msg := m }], txNext := (x.txNext + 1) % 4096, owed := false
    idleSince := s.time, creditDue := x.creditDue.map (fun n => n - min 15 n) })

/-- Send what waits, as long as the link carries flits and its buffer has room (R331, R334). -/
def pumpLink (l : Nat) : Nat → State → State
  | 0, s => s
  | fuel + 1, s =>
    let x := getLink s l
    match x.txQueue with
    | [] => s
    | m :: rest =>
      if x.up && !x.idle && decide (x.txBuf.length < txRoom) then
        pumpLink l fuel (sendFlit l 1 (some m) (setLink s l { x with txQueue := rest }))
      else s

/-- A message waits at a link until a flit takes it: one message to a flit (R333; log entry 74). -/
def queueMsg (l : Nat) (m : TxMsg) (s : State) : State :=
  let x := getLink s l
  pumpLink l (x.txQueue.length + 1) (setLink s l { x with txQueue := x.txQueue ++ [m] })

/-- Send the flits of the buffer again, in order (R334). -/
def resend (l : Nat) (s : State) : State := (getLink s l).txBuf.foldl (fun s f => emit (.flit l f.bytes) s) s

/-- The flits up to one that the far end has accepted leave the buffer. -/
def dropAcked (ack : Nat) (l : List TxFlit) : List TxFlit :=
  match l.findIdx? (fun f => decide (f.seq = ack)) with
  | some i => l.drop (i + 1)
  | none => l

/-- What a valid flit says of the reverse direction: the last flit accepted, and a NAK, which is answered by a replay from
the next one; and its credit returns (R333, R334). -/
def takeAck (l h : Nat) (s : State) : State :=
  let x := getLink s l
  let ack := bits h 16 12
  let x1 := { x with
    acked := ack, txBuf := dropAcked ack x.txBuf
    credits := (List.range 4).map (fun i => x.credits.getD i 0 + bits h (48 + 4 * i) 4) }
  let s1 := if bit h 28 then resend l (setLink s l { x1 with replays := satAdd (2 ^ 32 - 1) x.replays 1 }) else setLink s l x1
  pumpLink l x.txQueue.length s1

/-! ### Marker blocks (R329) -/

/-- The 5,440 bits of a marker block: 28 times the unit of pattern, count, lane and link, and 64 bits of 0. -/
def markerBlock (n count : Nat) : List Byte :=
  let unit := 0x5A3C96E10F78C3A51E2D4B87F069D2B4 + count % 2 ^ 32 * 2 ^ 128 + n % 8 * 2 ^ 160 + n / 8 % 8 * 2 ^ 163
  ((List.range 28).flatMap (fun _ => leBytes 24 unit)) ++ fill 8 0

/-- The times in ns from the first codeword of a lane, and from one marker, to the next marker: 8,192 codewords, and a block more,
of 2,720 UI at 112 GBd (R327, R329). -/
def firstMarker : Nat := 198949
def markerPeriod : Nat := 198973

end Sys2Proof.Machine
end

