-- ==== Sys2Proof/Machine/Turnstiles.lean ====
section
/-! DEFINITION. Packets to other devices of a cascade group, and the Turnstile unit: generations, arrivals, waits and the
waiter table (R291 to R301, R304, R307, R308, R340). -/

namespace Sys2Proof.Machine

/-! ### Paths between devices (R340) -/

/-- The links of a device, each with the device that it joins, in increasing number. -/
def linksOf (wires : List Wiring) (a : Nat) : List (Nat × Nat) :=
  sortBy (fun x => 16 * x.1 + x.2) (wires.flatMap (fun w =>
    (if w.devA = a then [(w.linkA, w.devB)] else []) ++ (if w.devB = a then [(w.linkB, w.devA)] else [])))

/-- The devices within a number of hops of a device. -/
def withinHops (wires : List Wiring) (b : Nat) : Nat → List Nat
  | 0 => [b]
  | n + 1 =>
    let l := withinHops wires b n
    sortNat (l ++ l.flatMap (fun x => (linksOf wires x).map (·.2)))

/-- The fewest device hops between two devices. -/
def devHops (wires : List Wiring) (a b : Nat) : Option Nat := (List.range 16).find? (fun n => a ∈ withinHops wires b n)

/-- The next device on the path from a to b: of fewest hops, over the lowest link that begins such a path. -/
def nextDevice (wires : List Wiring) (a b : Nat) : Option Nat :=
  match devHops wires a b with
  | some (n + 1) => ((linksOf wires a).find? (fun x => devHops wires x.2 b = some n)).map (·.2)
  | _ => none

/-- The devices of the path from a to b, without a. -/
def devPath (wires : List Wiring) (b : Nat) : Nat → Nat → List Nat
  | 0, _ => []
  | n + 1, a => match nextDevice wires a b with
    | some x => x :: devPath wires b n x
    | none => []

/-- The link by which a channel of a queue leaves for a device: among the links that are up and join the next device, the one
at the queue's number modulo their count; while none of them is up, one that retrains, at which packets wait (R337, R340). -/
def linkTo (s : State) (dev queue : Nat) : Nat :=
  let x := (nextDevice s.casc.wires s.casc.ownId dev).getD dev
  let up := (s.casc.links.filter (fun e => e.2.up && e.2.partner = x)).map (·.1)
  let l := if up.isEmpty then (s.casc.links.filter (fun e => e.2.training && e.2.partner = x)).map (·.1) else up
  l.getD (queue % max 1 l.length) 0

/-! ### Packets in order (R340) -/

/-- The key of a packet order: device and network. -/
def seqKey (dev net : Nat) : Nat := 4 * dev + net

/-- Send a message to a member, with the next E2E_SEQ of its destination and network: it goes to its link, where a flit takes it
(R333, R335, R340). -/
def sendCasc (dev : Nat) (m : CascMsg) (s : State) : State :=
  let k := seqKey dev m.net
  let n := tget (dflt 0) s.casc.txSeq k
  let l := linkTo s dev m.queue
  let (slot, s1) := msgSlot s.casc.ownId dev n m s
  queueMsg l { dev, queue := m.queue, slot, line := m.line } (emit (.casc l dev n m)
    { s1 with casc := { s1.casc with txSeq := tset (dflt 0) s1.casc.txSeq k ((n + 1) % 2 ^ 16) } })

/-- Whether a device is another member of this device's group. -/
def isMember (s : State) (dev : Nat) : Bool := s.casc.formed && bit s.casc.members dev && decide (dev ≠ s.casc.ownId)

/-- The other members of the group. -/
def otherMembers (s : State) : List Nat := (setBitsOf 16 s.casc.members).filter (fun d => decide (d ≠ s.casc.ownId))

/-- The key of a channel (R304). -/
def chanKey (queue dev : Nat) : Nat := 16 * queue + dev

/-- Bytes of a channel since its last SIGNAL (R304). -/
def unsignalled (s : State) (queue dev : Nat) : Nat := tget (dflt 0) s.casc.txBytes (chanKey queue dev)

/-- Whether a signal of a channel has not taken effect yet, so that its later bytes are held back (R305). -/
def channelHeld (s : State) (queue dev : Nat) : Bool :=
  s.casc.sigOut.any (fun x => x.1 = chanKey queue dev) || s.casc.trnOut.any (fun x => x.2.1 = chanKey queue dev)

/-- Take the fence of a channel: the next one counts from 0 (R304). -/
def takeFence (queue dev : Nat) (s : State) : Nat × State :=
  (unsignalled s queue dev,
   { s with casc := { s.casc with txBytes := terase (chanKey queue dev) s.casc.txBytes } })

/-- Send a fence-only SIGNAL of a channel (R335). -/
def sendFence (queue dev func : Nat) (s : State) : State :=
  let (f, s1) := takeFence queue dev s
  sendCasc dev (.signal queue func 0 0 0 false f) s1

/-- Bytes leave on a channel; a fence-only SIGNAL goes first where they would reach 2^40 (R304, R335). -/
def countChannel (queue dev func n : Nat) (s : State) : State :=
  let s1 := if 2 ^ 40 ≤ unsignalled s queue dev + n then sendFence queue dev func s else s
  { s1 with casc := { s1.casc with
      txBytes := tset (dflt 0) s1.casc.txBytes (chanKey queue dev) (unsignalled s1 queue dev + n) } }

/-! ### Turnstiles (R291 to R294) -/

def getTrn (s : State) (t : Nat) : Turnstile := tget (dflt {}) s.trns t
def setTrn (s : State) (t : Nat) (x : Turnstile) : State := { s with trns := tset (dflt {}) s.trns t x }

/-- Turnstiles of the group while a device belongs to one, and those that are mirrors here (R307, R308). -/
def isGroupTrn (s : State) (t : Nat) : Bool := s.casc.formed && decide (3840 ≤ t)
def isMirror (s : State) (t : Nat) : Bool := isGroupTrn s t && !s.casc.master

/-- The distance of a generation from the current one (R294). -/
def genDist (g gen : Nat) : Nat := (g + 2 ^ 16 - gen % 2 ^ 16) % 2 ^ 16
def genDone (g gen : Nat) : Bool := decide (32768 ≤ genDist g gen)
def genFuture (g gen : Nat) : Bool := decide (1 ≤ genDist g gen ∧ genDist g gen < 32768)

/-- A waiter stands while its operation waits: one that has timed out or been aborted has withdrawn (R299). -/
def liveWaiter (s : State) (w : Waiter) : Bool :=
  match w.peer with
  | some _ => true
  | none => match findOp s w.op with
    | some o => if w.kind = 3 then o.phase = .headWait else o.phase = .waiting
    | none => false

/-- The waiters of a Turnstile, oldest registration first. -/
def trnWaiters (s : State) (t : Nat) : List Waiter := (getTrn s t).waiters.filter (liveWaiter s)

/-- Entries of the waiter table in use, and its size (R301). -/
def waiterCount (s : State) : Nat := s.trns.foldl (fun n e => n + (e.2.waiters.filter (liveWaiter s)).length) 0
def waiterRoom : Nat := 65536

/-- Answer the device that sent an operation (R305, R335). -/
def answerPeer (p : Peer) (status : Nat) (s : State) : State :=
  sendCasc p.dev (if p.byOp then .trnDone p.mark status else .signalDone status p.mark) s

/-- An operation at a Turnstile ends well: a header wait lets its descriptor start (R298). -/
def releaseWaiter (w : Waiter) (s : State) : State :=
  match w.peer with
  | some p => answerPeer p 0 s
  | none => if w.kind = 3 then updOp w.op (fun o => { o with phase := .ready }) s else endOp w.op {} s

/-- The waiters that a completed generation releases, and those that stay: they roll to the next one (R297). -/
def splitRelease (s : State) (width g : Nat) : List Waiter → Nat → List Waiter × List Waiter
  | [], _ => ([], [])
  | w :: ws, r =>
    if (w.kind = 0 ∨ w.kind = 3) && w.gen = g && liveWaiter s w then
      if width = 0 ∨ r < width then
        let (a, b) := splitRelease s width g ws (r + 1)
        (w :: a, b)
      else
        let (a, b) := splitRelease s width g ws r
        (a, { w with gen := (g + 1) % 2 ^ 16 } :: b)
    else
      let (a, b) := splitRelease s width g ws r
      (a, w :: b)

/-- The current generation completes; the master of a group broadcasts it (R297, R308). -/
def completeTrn (t : Nat) (s : State) : State :=
  let x := getTrn s t
  let (out, stay) := splitRelease s x.width x.gen x.waiters 0
  let s1 := setTrn s t { x with gen := (x.gen + 1) % 2 ^ 16, arrived := 0, waiters := stay }
  let s2 := out.foldl (fun s w => releaseWaiter w s) s1
  if isGroupTrn s t then (otherMembers s2).foldl (fun s d => sendCasc d (.trnRel t x.gen) s) s2 else s2

/-- Count one arrival of the current generation, without the total (R297, R311). -/
def recount (t : Nat) (s : State) : State :=
  let x := getTrn s t
  let s1 := setTrn s t { x with arrived := x.arrived + 1 }
  if x.count ≤ x.arrived + 1 then completeTrn t s1 else s1

/-- One arrival (R297). -/
def arriveOne (t : Nat) (s : State) : State :=
  let x := getTrn s t
  recount t (setTrn s t { x with total := wrapAdd 64 x.total 1, lastArrival := s.time })

/-- A number of single arrivals in succession: the generation in which the last counted, and the state (R296, R298). -/
def arriveMany (t : Nat) : Nat → State → Nat × State
  | 0, s => ((getTrn s t).gen, s)
  | 1, s => ((getTrn s t).gen, arriveOne t s)
  | n + 2, s => arriveMany t (n + 1) (arriveOne t s)

/-- Enter a waiter into the table; the event of a table that fills (R301). -/
def enterWaiter (t : Nat) (w : Waiter) (s : State) : State :=
  let x := getTrn s t
  let s1 := setTrn s t { x with waiters := x.waiters.filter (liveWaiter s) ++ [{ w with time := s.time }] }
  if waiterCount s1 = waiterRoom then record 0x0703 0x02 [] s1 else s1

/-- Register a waiter, or hold it while the table is full (R301). -/
def registerWaiter (t : Nat) (w : Waiter) (s : State) : State :=
  let held := s.trnHeld.filter (fun x => liveWaiter s x.2)
  if waiterRoom ≤ waiterCount s || !held.isEmpty then { s with trnHeld := held ++ [(t, w)] }
  else enterWaiter t w s

/-- Whether an earlier arrival of a channel has not taken effect yet: it names a future generation (R304). -/
def channelWaits (s : State) (dev queue : Nat) : Bool :=
  let mine (w : Waiter) : Bool := (w.kind = 1 || w.kind = 2) && (w.peer.map (fun p => p.dev = dev && p.queue = queue)).getD false
  s.trns.any (fun e => e.2.waiters.any mine) || s.trnHeld.any (fun x => mine x.2)

/-- A wait on a generation (R298). -/
def waitAt (t : Nat) (w : Waiter) (s : State) : State :=
  if genDone w.gen (getTrn s t).gen then releaseWaiter w s else registerWaiter t w s

/-- An arrival counts; then its operation ends, or waits for the generation in which its last arrival counted
(R298). -/
def countFor (t : Nat) (w : Waiter) (s : State) : State :=
  let (g, s1) := arriveMany t w.n s
  if w.kind = 2 then waitAt t { w with kind := 0, gen := g } s1 else releaseWaiter w s1

/-- Arrivals that waited for a generation which is future no more count, oldest first (R296, R311). -/
def settleTrn (t : Nat) : Nat → State → State
  | 0, s => s
  | fuel + 1, s =>
    let x := getTrn s t
    match x.waiters.find? (fun w => (w.kind = 1 ∨ w.kind = 2) && !genFuture w.gen x.gen && liveWaiter s w) with
    | none => s
    | some w => settleTrn t fuel (countFor t w (setTrn s t { x with waiters := x.waiters.filter (fun v => !decide (v = w)) }))

/-- An arrival that names a generation, or CURGEN (R296). -/
def arriveAt (t : Nat) (curgen : Bool) (w : Waiter) (s : State) : State :=
  if !curgen && genFuture w.gen (getTrn s t).gen then registerWaiter t w s
  else
    let s1 := countFor t w s
    settleTrn t (getTrn s1 t).waiters.length s1

/-- Held operations enter the table as entries free, in order; each is judged as it enters (R301). -/
def admitHeld : Nat → State → State
  | 0, s => s
  | fuel + 1, s =>
    match s.trnHeld with
    | [] => s
    | (t, w) :: rest =>
      let s1 := { s with trnHeld := rest }
      if !liveWaiter s w then admitHeld fuel s1
      else if waiterRoom ≤ waiterCount s then s
      else
        let gen := (getTrn s t).gen
        let s2 := if w.kind = 1 ∨ w.kind = 2 then
            (if genFuture w.gen gen then enterWaiter t w s1
             else let s2 := countFor t w s1
                  settleTrn t (getTrn s2 t).waiters.length s2)
          else if genDone w.gen gen then releaseWaiter w s1
          else enterWaiter t w s1
        admitHeld fuel s2

/-- After an operation of the Turnstile unit: held operations enter as far as there is room; each waiter that is counted on the
way may wait again, behind the others. -/
def letIn (s : State) : State := if s.trnHeld.isEmpty then s else admitHeld (2 * (s.trnHeld.length + waiterCount s)) s

/-! ### Operations of this device on a Turnstile (R296 to R298, R307) -/

/-- A member's operation on a group Turnstile goes to the master behind a fence (R307, R335). -/
def sendTrnOp (o : Op) (kind t gen n : Nat) (curgen : Bool) (s : State) : State :=
  let d := s.casc.masterId
  let s1 := sendFence o.queue d o.func s
  let wtag := o.tag % 2 ^ 16
  sendCasc d (.trnOp kind t gen n curgen wtag o.func o.queue)
    { s1 with casc := { s1.casc with trnOut := s1.casc.trnOut ++ [(wtag, chanKey o.queue d, o.tag)] } }

/-- The arrival of DONE_TRN: one arrival with CURGEN (R187, R296). -/
def doneArrival (o : Op) (s : State) : State :=
  let t := o.doneTrn
  if t = 0xFFFF then s
  else if isMirror s t then sendTrnOp o 0 t 0 1 true s
  else
    let s1 := arriveOne t s
    letIn (settleTrn t (getTrn s1 t).waiters.length s1)

/-- A header wait (R186, R298). -/
def headerWait (o : Op) (s : State) : State :=
  if o.waitTrn = 0xFFFF then updOp o.tag (fun o => { o with phase := .ready }) s
  else waitAt o.waitTrn { kind := 3, op := o.tag, gen := o.waitGen }
    (updOp o.tag (fun o => { o with phase := .headWait, since := s.time }) s)

end Sys2Proof.Machine
end

