-- ==== Sys2Proof/Machine/Ports.lean ====
section
/-! DEFINITION. Midway queue ports: queue chains, holders, and the requests of memory ports (R354 to R358, R362,
R363). -/

namespace Sys2Proof.Machine

def getPort (s : State) (m : Nat) : MidPort := tget (dflt {}) s.mid.ports m
def setPort (s : State) (m : Nat) (x : MidPort) : State :=
  { s with mid := { s.mid with ports := tset (dflt {}) s.mid.ports m x } }

/-! ### Queue chains (R354, R356, R357) -/

/-- The level output of a queue: high from the threshold of its configuration on; a queue without a threshold has none. -/
def MidPort.high (x : MidPort) : Bool := decide (0 < x.level ∧ x.level ≤ x.chain.length)

/-- Whether a chain is full (R354). -/
def MidPort.full (x : MidPort) : Bool := decide (x.words ≤ x.chain.length)

/-- The outputs of a queue: its level output, FULL and EMPTY (R354). -/
def MidPort.outputs (x : MidPort) : List Bool := [x.high, x.full, x.chain.isEmpty]

/-- The outputs of a queue that differ between two states of it, as they come to be. -/
def outputsMoved (m : Nat) (x y : MidPort) : List Out :=
  (y.outputs.zipIdx.filter (fun b => decide (x.outputs[b.2]? ≠ some b.1))).map (fun b => .queueOut m b.2 b.1)

/-- A port whose chain may have changed: the queue's outputs follow (R354). -/
def putPort (s : State) (m : Nat) (x : MidPort) : State :=
  let s1 := setPort s m x
  { s1 with outbox := s1.outbox ++ outputsMoved m (getPort s m) x }

/-- The bytes of a word that count: all 8, or on a last word those up to the first 0 bit of KEEP (R356). -/
def PortWord.counted (w : PortWord) : Nat :=
  if w.last then ((List.range 8).find? (fun i => !bit w.keep i)).getD 8 else 8

/-- The counted bytes of a word that have not been taken. -/
def PortWord.rest (w : PortWord) : List Byte := ((leBytes 8 w.data.toNat).take w.counted).drop w.taken

/-- The bytes of a chain up to the end of its stream, and whether the stream ends there. -/
def chainBytes : List PortWord → List Byte × Bool
  | [] => ([], false)
  | w :: ws =>
    if w.last then (w.rest, true)
    else
      let (b, e) := chainBytes ws
      (w.rest ++ b, e)

/-- Take n bytes from a chain. A word goes with its last counted byte, but the last word of a stream stays until its end
is seen. -/
def chainTake : Nat → List PortWord → List PortWord
  | 0, l => l
  | _, [] => []
  | n + 1, w :: ws =>
    let k := w.rest.length
    if n + 1 < k || w.last then { w with taken := w.taken + min (n + 1) k } :: ws else chainTake (n + 1 - k) ws

/-- The end of a stream whose bytes have all been taken goes with the operation that took them. -/
def chainTidy : List PortWord → List PortWord
  | [] => []
  | w :: ws => if w.last && w.rest.isEmpty && decide (0 < w.taken) then ws else w :: ws

/-- A chain after the end of its stream. -/
def chainSkip : List PortWord → List PortWord
  | [] => []
  | w :: ws => if w.last then ws else chainSkip ws

/-! ### Directions and holders (R355, R358) -/

/-- The direction that a FABRIC kind asks of its port: a source, a sink, a memory port (R355, R359, R362). -/
def fabricDir (kind : Nat) : Nat := match kind with
  | 1 => 1 | 2 => 2 | _ => 3

/-- Whether a port that the variant has is in use the way round that is asked; a port that it lacks is judged later
(R282, R359, R370). -/
def portServes (s : State) (m dir : Nat) : Bool :=
  decide (numPorts s.variant ≤ m) || (s.mid.loaded && (getPort s m).dir = dir)

/-- The operation that holds a port: its hold ends with it. -/
def portHolder (s : State) (m : Nat) : Option Nat :=
  match (getPort s m).holder with
  | some tag => match findOp s tag with
    | some o => if o.phase = .done then none else some tag
    | none => none
  | none => none

/-- Whether an operation takes a port: a FABRIC stream of it, or a binding of KIND 2 (R358, R359). -/
def Op.namesPort (o : Op) (m : Nat) : Bool :=
  (o.opc = 0x38 && (o.fld 38 1 = 1 || o.fld 38 1 = 2) && o.fld 36 2 = m) ||
    (o.opc = 0x30 && o.binds.any (fun b => b.2.kind = 2 && b.2.source % 256 = m))

/-- Whether an operation may take a port: nobody else holds it, and no operation that passed validation earlier still
waits for it (R358). -/
def portFree (s : State) (o : Op) (m : Nat) : Bool :=
  (match portHolder s m with
    | some tag => tag = o.tag
    | none => !(s.ops.any (fun x => x.valid && !x.started && decide (x.order < o.order) && decide (x.phase ≠ .done) && x.namesPort m)))

/-- Take a port. -/
def holdPort (o : Op) (m : Nat) (s : State) : State :=
  setPort s m { getPort s m with holder := some o.tag, holderGroup := groupOf o.queue }

/-- Give a port back: its holder's stream has ended (R358). -/
def freePort (m : Nat) (s : State) : State := setPort s m { getPort s m with holder := none }

/-- The holder of a port goes on when its chain has changed. -/
def wakeHolder (m : Nat) (s : State) : State :=
  match portHolder s m with
  | some tag => updOp tag (fun o => if o.phase = .waiting then { o with phase := .ready, since := s.time } else o) s
  | none => s

/-! ### Push and pop (R354) -/

/-- A word leaves the head of a chain for the fabric; a push that waited is stored. -/
def popHead (m : Nat) (s : State) : State :=
  let x := getPort s m
  match x.chain with
  | [] => s
  | w :: ws =>
    let x1 := { x with chain := ws, popping := false }
    let x2 := match x.pushing with
      | v :: vs => if x1.full then x1 else { x1 with chain := x1.chain ++ [v], pushing := vs }
      | [] => x1
    wakeHolder m (emit (.popWord m w.data w.keep w.last) (putPort s m x2))

/-- A word is stored; a pop that waited takes it after it is stored. -/
def storeWord (m : Nat) (w : PortWord) (s : State) : State :=
  let x := getPort s m
  let s1 := putPort s m { x with chain := x.chain ++ [w] }
  if x.popping then popHead m s1 else s1

/-- PUSH: on a full queue it waits under BLOCK, and is counted and discarded under DROP. As many words may wait as the queue's
credit count lets a producer send without ACK. -/
def pushWord (m : Nat) (w : PortWord) (s : State) : State :=
  let x := getPort s m
  if !x.full then wakeHolder m (storeWord m w s)
  else if x.drop then setPort s m { x with dropped := satAdd (2 ^ 32 - 1) x.dropped 1 }
  else if x.pushing.length < max 1 x.credits then emit (.queueWaits m) (setPort s m { x with pushing := x.pushing ++ [w] })
  else s

/-- POP: on an empty queue it waits. -/
def popWordOp (m : Nat) (s : State) : State :=
  let x := getPort s m
  if x.chain.isEmpty then emit (.queueWaits m) (setPort s m { x with popping := true }) else popHead m s

/-- Pushes that waited are stored once a holder has taken words. -/
def refill (m : Nat) (s : State) : State :=
  let x := getPort s m
  let n := x.words - x.chain.length
  if x.pushing.isEmpty ∨ n = 0 then s
  else putPort s m { x with chain := x.chain ++ x.pushing.take n, pushing := x.pushing.drop n }

/-! ### Memory ports (R363) -/

/-- Write the enabled bytes of a request, first to last. -/
def portStore (w : Who) (r : PortReq) : List Nat → State → Option Stop × State
  | [], s => (none, s)
  | i :: is, s =>
    if bit r.enables ((r.addr + i) % 64) then
      match writeRM w (r.addr + i) [r.data.getD ((r.addr + i) % 64) 0] 3 s with
      | (none, s1) => portStore w r is s1
      | (some e, s1) => (some e, s1)
    else portStore w r is s

/-- The flits of a request that a port makes (R314, R315). -/
def portFlits (m : Nat) (w : Who) (r : PortReq) (s : State) : State :=
  let at_ := portNode s.variant m
  accessFlits at_ w r.write r.addr s

/-- Perform a request: the bytes read, or why not. -/
def portAccess (w : Who) (r : PortReq) (s : State) : Except Stop (List Byte) × State :=
  if r.write then
    match portStore w r (List.range r.len) s with
    | (none, s1) => (.ok [], { s1 with fills := [] })
    | (some e, s1) => (.error e, s1)
  else readRM w r.addr r.len 3 s

/-- The RSTATUS of a stop that is no wait (R363). -/
def portStatus : Stop → Nat
  | .fault st _ => st
  | _ => 0x30

/-- Answer a request with a failure (R363). -/
def portFail (m : Nat) (r : PortReq) (w : Who) (e : Stop) (s : State) : State :=
  emit (.portResponse m (portStatus e) [])
    (record 0x0A01 (0x70 + m / 64) (leBytes 1 m ++ leBytes 1 (portStatus e) ++ leBytes 6 0 ++ leBytes 8 r.addr)
      (recordStop w e s))

/-- Answer the requests of a port in order, as far as no fault stalls it (R363). -/
def pumpPort (m : Nat) : Nat → State → State
  | 0, s => s
  | fuel + 1, s =>
    match (getPort s m).reqs with
    | [] => s
    | r :: rest =>
      let pop (s1 : State) : State := setPort s1 m { getPort s1 m with reqs := rest }
      match r.who with
      | none => pumpPort m fuel (emit (.portResponse m 0x21 []) (pop s))
      | some w =>
        match portAccess w r s with
        | (.ok bs, s1) => pumpPort m fuel (emit (.portResponse m 0 bs) (pop (portFlits m w r s1)))
        | (.error (.wait x a), s1) => startWait w r.write x a s1
        | (.error e, s1) => pumpPort m fuel (portFail m r w e (pop s1))

/-- UNBIND completes once every outstanding request has been answered (R362). -/
def endUnbind (m : Nat) (s : State) : State :=
  if (getPort s m).reqs.isEmpty then
    (s.ops.filter (fun o => o.phase = .waiting && o.opc = 0x38 && o.fld 38 1 = 4 && o.fld 36 2 = m)).foldl
      (fun s o => endOp o.tag {} s) s
  else s

/-- Requests that were stalled try again. -/
def retryPort (m : Nat) (s : State) : State := endUnbind m (pumpPort m (getPort s m).reqs.length s)
def retryPorts (s : State) : State :=
  s.mid.ports.foldl (fun s e => if e.2.reqs.isEmpty then s else retryPort e.1 s) s

/-- The requests at the head of a port that meet a test fail with a status; the rest of the port goes on. -/
def failPorts (test : PortReq → Who → Bool) (status : Nat) (s : State) : State :=
  s.mid.ports.foldl (fun s e =>
    match (getPort s e.1).reqs with
    | [] => s
    | r :: rest => match r.who with
      | none => s
      | some w => if test r w then
          retryPort e.1 (portFail e.1 r w (.fault status r.addr) (setPort s e.1 { getPort s e.1 with reqs := rest }))
        else s) s

/-- Whether a request waits on a host page. -/
def reqOnHost (func pasid page : Nat) (r : PortReq) (w : Who) : Bool :=
  w.func = func && w.pasid.getD 0 = pasid && isHost r.addr && decide (r.addr % 2 ^ 57 / 4096 = page)

end Sys2Proof.Machine
end

