-- ==== Sys2Proof/Machine/Governor.lean ====
section
/-! DEFINITION. The governor: the cap, the stages, boost and thermal limiting (R17, R18, R21 to R28, R413, R437). -/

namespace Sys2Proof.Machine

/-- VCORE is lowered no further than this (R23, R25, R26). -/
def vcoreFloor (p : Power) : Nat := if p.floorDefault then 720 else 600

/-- The cap as it is stored (R27). -/
def clampCap (watts : Nat) : Nat := max 800 (min 2400 watts)

/-- Store a cap and record CAP_CHANGED; via 0 PCIe, 1 SMBus (R27). -/
def applyCap (watts via : Nat) (s : State) : State :=
  let c := clampCap watts
  record 0x0101 0x01 (leBytes 2 c ++ leBytes 1 via) { s with pwr := { s.pwr with capW := c } }

/-- The figure that the stages hold to: the cap in force, or 60 A times the input voltage between 38 V and 40 V
(R437). -/
def effectiveCap (p : Power) : Nat :=
  if 38000 ≤ p.supplyMv ∧ p.supplyMv < 40000 then min p.capInForce (60 * p.supplyMv / 1000) else p.capInForce

/-- The highest reading of any junction sensor and the sensor that gives it: among equals the lowest number, which is
the one that THERMAL_LIMIT and THERMAL_TRIP name (the manual does not say which: log entry 14). -/
def hottest (t : Table Int) : Option (Nat × Int) :=
  t.foldl (fun m x => match m with
    | none => some x
    | some y => if y.2 < x.2 then some x else some y) none

/-- Whether some sensor reads at least, or above, a temperature. -/
def anyAtLeast (t : Table Int) (c : Int) : Bool := t.any (fun x => decide (c ≤ x.2))
def anyAbove (t : Table Int) (c : Int) : Bool := t.any (fun x => decide (c < x.2))

/-- The stage that PWR_STATUS reports: thermal limiting stands above the stages of the cap (R23, R26; log entry
14). -/
def shownStage (p : Power) : Nat := if p.thermalLimit then 3 else p.capStage

/-- Keep the reported stage and ALERT_N in step with the governor (R26, R438). -/
def showStage (s : State) : State :=
  { s with pwr := { s.pwr with stage := shownStage s.pwr, alertN := !s.pwr.thermalLimit } }

/-- A thermal cycle is counted when the highest reading rises above 85 after one below 40 (R413). -/
def countThermalCycle (s : State) : State :=
  match hottest s.pwr.temps with
  | none => s
  | some (_, c) =>
    if c < 40 then { s with ice := { s.ice with coldSeen := true } }
    else if 85 < c && s.ice.coldSeen then
      { s with ice := { s.ice with
          coldSeen := false, now := { s.ice.now with thermalCycles := s.ice.now.thermalCycles + 1 } } }
    else s

/-- Every operation in flight ends with a status at its cursor. -/
def endAllOps (status : Nat) (s : State) : State :=
  { s with ops := s.ops.map (fun o => if o.phase = .done then o else
      { o with phase := .done, result := stopWith status o.cursor 0 }) }

/-- VCORE is removed: no work runs, and the ledger is committed (R26, R411). Thermal limiting lasts until the sensors
have cooled (R26). -/
def removeVcore (s : State) : State :=
  iceCommitOp { s with
    pwr := { s.pwr with vcoreMv := 0, pwrGood := false, throttled := false, capStage := 0,
                        stage := if s.pwr.thermalLimit then 3 else 0 }
    st := { s.st with ready := false } }

/-- One step of VCORE downward by heat, or issue throttling at the floor (R25, R26). -/
def coolStep (p : Power) : Power :=
  if vcoreFloor p < p.vcoreMv then { p with vcoreMv := max (vcoreFloor p) (p.vcoreMv - 5) } else { p with throttled := true }

/-- VCORE after as many 5 mV steps downward as bring a draw of w watts to a target, as draw goes with the square of
VCORE, but no further than the floor (R23; log entry 14). -/
def steppedDown (floor w target v0 : Nat) : Nat → Nat → Nat
  | 0, v => v
  | fuel + 1, v =>
    if floor < v ∧ target * v0 * v0 < w * v * v then steppedDown floor w target v0 fuel (max floor (v - 5)) else v

/-- The samples of a window (R22). -/
def windowSamples : Nat := 100

/-- What the draw must come down to: the cap, or what the rest of the window leaves below it (R22). -/
def drawTarget (p : Power) : Nat :=
  min (effectiveCap p) ((effectiveCap p * windowSamples - p.winSum) / max 1 (windowSamples - p.winCount))

/-- Whether the governor must act on a draw: the mean of the window would exceed the cap at this draw; the draw exceeds the
cap by more than 15 %; or it has exceeded the cap at 9 samples of the window, or at 9 on end, so that VCORE and then issue
are held within the 1 ms that the manual allows in all and after a step of load (R22, R23; log entry 14). -/
def overCap (watts : Nat) (p : Power) : Bool :=
  let cap := effectiveCap p
  decide (cap * windowSamples < p.winSum + watts * (windowSamples - p.winCount) ∨ 115 * cap < 100 * watts ∨
    ((9 ≤ p.overCount ∨ 9 ≤ p.overRun) ∧ cap < watts))

/-- The stages of the cap at one sample: VCORE down in 5 mV steps as far as the draw needs, or issue throttling where the
draw is above the cap at the lowest VCORE permitted (R23, R25). -/
def limitDraw (watts : Nat) (p : Power) : Power :=
  if p.vcoreMv ≤ vcoreFloor p then { p with throttled := true, capStage := 2 }
  else
    { p with
      vcoreMv := steppedDown (vcoreFloor p) watts (drawTarget p) p.vcoreMv 64 p.vcoreMv
      capStage := max 1 p.capStage }

/-- Heat and the cap at one sample: each judges the VCORE that stands, and the lower VCORE applies (R27). -/
def limitBoth (watts : Nat) (p : Power) : Power :=
  let byCap := if overCap watts p then limitDraw watts p else p
  let byHeat := if anyAbove p.temps 105 then coolStep p else p
  { byCap with
    vcoreMv := min byCap.vcoreMv byHeat.vcoreMv
    throttled := byCap.throttled || byHeat.throttled }

/-- The stage in which limiting by heat leaves the cap: none with VCORE off, else throttling, VCORE below 0.72 V, or neither
(R23, R26). -/
def stageLeft (p : Power) : Nat :=
  if p.vcoreMv = 0 then 0 else if p.throttled then 2 else if p.vcoreMv < 720 then max 1 p.capStage else p.capStage

/-- The governor leaves a stage of the cap, in reverse order (R23): throttling first, then VCORE back to 0.72 V. How fast
VCORE comes back is not stated: one 5 mV step for each window that stayed 5 % below the cap, and the stage reads 0b01 until
720 mV stand (DESIGN CHOICE, log entry 14). -/
def leaveStage (p : Power) : Power :=
  if p.capStage = 2 then { p with throttled := false, capStage := if p.vcoreMv < 720 then 1 else 0 }
  else if p.capStage = 1 && p.vcoreMv < 720 then
    { p with vcoreMv := p.vcoreMv + 5, capStage := if p.vcoreMv + 5 < 720 then 1 else 0 }
  else { p with capStage := 0 }

/-- The change of stage and VCORE at the end of a window (R23, R24, R26). VCORE is not raised while a sensor reads above
103 °C, which does not keep issue throttled; nor is it boosted from 95 °C. With BOOST_EN clear, VCORE above 0.72 V comes
down one step a window: the manual does not say what becomes of it (log entry 14). -/
def windowStep (p : Power) : Power :=
  if p.thermalLimit then p
  else if p.capStage ≠ 0 then
    (if p.under5 && (decide (p.capStage = 2) || !anyAbove p.temps 103) then leaveStage p else p)
  else if anyAbove p.temps 103 then p
  else if p.boostEn then
    if p.vcoreMv < 800 && !anyAtLeast p.temps 95 && decide (20 * p.winSum < 19 * effectiveCap p * p.winCount) then
      { p with vcoreMv := p.vcoreMv + 5 }
    else p
  else if 720 < p.vcoreMv then { p with vcoreMv := p.vcoreMv - 5 }
  else p

/-- FLOOR_DEFAULT forbids VCORE below 0.72 V (R25): a VCORE that stands there comes up at once, and stage 0b01 ends. It comes
up with a sensor above 103 °C too, where R26 would not have it raised: the manual does not say which of the two holds
(DESIGN CHOICE, log entry 14). -/
def setFloor (on : Bool) (p : Power) : Power :=
  if on && decide (0 < p.vcoreMv ∧ p.vcoreMv < 720) then
    { p with floorDefault := true, vcoreMv := 720, capStage := if p.capStage = 1 then 0 else p.capStage }
  else { p with floorDefault := on }

/-- The end of a 10 ms window: the mean is taken, rounded down, the stages step, and a new cap comes into force (R22 to R24,
R27; log entry 14). -/
def governorWindowEndOp (s : State) : State :=
  if !s.st.standbyDone then s
  else
    let s1 := passTo (s.pwr.lastWindow + 10000000) s
    let p := s1.pwr
    let p1 := if p.vcoreMv = 0 then p else windowStep p
    showStage { s1 with pwr := { p1 with
      inputW := if p.winCount = 0 then 0 else p.winSum / p.winCount
      winSum := 0, winCount := 0, overCount := 0, under5 := true, capInForce := p.capW, lastWindow := s1.time } }

/-- PWR_CAP_WRITE (R27): the whole value that the write carries is judged (DEDUCED, log entry 13). -/
def execPwrCapWrite (value : W32) (s : State) : Host.Outcome State Fault Refusal :=
  .next (if s.st.standbyDone then applyCap value.toNat 0 s else s)

/-- SET_CAP over the SMBus: 16-bit watts, never cut to 12 bits; a failing PEC is NACKed (R27, R440). -/
def execSetCap (watts : Nat) (pecOk : Bool) (s : State) : Host.Outcome State Fault Refusal :=
  .next (if !s.st.standbyDone then s else if pecOk then applyCap watts 1 s else emit .smbusNack s)

/-- GOVERNOR_WINDOW_END (R23, R24, R27). -/
def execGovernorWindowEnd (s : State) : Host.Outcome State Fault Refusal :=
  .next (governorWindowEndOp s)

/-- THERMAL_COMPARATOR_TRIP (R26): the comparator removes VCORE; no completion is written; the FATAL record goes to
flash. -/
def execThermalComparatorTrip (sensor : Nat) (temp : Int) (s : State) : Host.Outcome State Fault Refusal :=
  .next (
    if s.pwr.vcoreMv = 0 then s
    else
      let s1 := record 0x0103 0x01 (leBytes 2 sensor ++ leBytes 1 (wrapInt 8 temp) ++ leBytes 1 1) s
      let l := s1.ice.now
      removeVcore { s1 with
        ops := []
        pwr := { s1.pwr with thermN := false, temps := tinsert sensor temp s1.pwr.temps }
        st := { s1.st with thermalHold := true }
        ice := { s1.ice with now := { l with thermalTrips := l.thermalTrips + 1 } } })

end Sys2Proof.Machine
end

