-- ==== Sys2Proof/Machine/MoraineCmds.lean ====
section
/-! DEFINITION. The commands of the Moraine and the Ice core (R402, R406 to R409, R411, R414), and the copies into
BAR2 buffers (R207, R257, R407). -/

namespace Sys2Proof.Machine

/-- The flash log: 768 MiB in erase blocks of 128 KiB (R402). -/
def flashSize : Nat := 768 * 2 ^ 20
def flashBlock : Nat := 128 * 2 ^ 10

/-- Erase oldest blocks until a record of some bytes fits; each erase is counted (R402). -/
def flashMakeRoom : Nat → Nat → State → State
  | 0, _, s => s
  | fuel + 1, n, s =>
    let m := s.mor
    if m.flashEnd + n ≤ m.flashStart + flashSize then s
    else
      let start := m.flashStart + flashBlock
      flashMakeRoom fuel n (countErase 7 { s with mor := { m with
        flashStart := start, flash := m.flash.filter (fun r => decide (start ≤ r.1)) } })

/-- Write one record to the flash log, as first created (R402, R405). -/
def flashAppend (r : MorRec) (s : State) : State :=
  let n := recLen s.variant r
  let s1 := flashMakeRoom 2 n s
  { s1 with mor := { s1.mor with flash := s1.mor.flash ++ [(s1.mor.flashEnd, r)], flashEnd := s1.mor.flashEnd + n } }

/-- Empty the flash log; the blocks it held are erased (R408). -/
def flashClear (s : State) : State :=
  let m := s.mor
  let blocks := ceilDiv m.flashEnd flashBlock - m.flashStart / flashBlock
  let stop := ceilDiv m.flashEnd flashBlock * flashBlock
  let l := s.ice.now
  { s with
    mor := { m with flash := [], flashStart := stop, flashEnd := stop }
    ice := { s.ice with now := { l with flashErases := tadd l.flashErases 7 blocks } } }

/-- The address space 0 as the Ringmaster's copies reach it: BAR2 offsets (R207, R257, R407). -/
def copyWho (unit : Nat) : Who := { unit }

/-- Whether an offset range lies in BAR2 (R260). -/
def inBar2 (s : State) (offset len : Nat) : Bool := decide (offset + len ≤ 2 ^ (getFunc s 0).bar2Log2)

/-- Write a run of bytes into a BAR2 buffer line by line, up to the first write that cannot be made: why, where, and what is left. -/
def copyOut (w : Who) : Nat → Nat → List Byte → State → Option (Stop × Nat × List Byte) × State
  | 0, _, _, s => (none, s)
  | fuel + 1, addr, bs, s =>
    if bs.isEmpty then (none, s)
    else
      let k := 64 - addr % 64
      match writeRM w addr (bs.take k) 2 s with
      | (none, s1) => copyOut w fuel (addr + k) (bs.drop k) { s1 with fills := [] }
      | (some e, s1) => (some (e, addr, bs), s1)

/-- Who writes a copy: the Moraine its records, placement a snapshot or a context. -/
def CopyWait.who (x : CopyWait) : Who := copyWho (if x.kind = 0 then 0x0700 else 0x0500)

/-- A copy has ended, perhaps at a write that could not be made. -/
def copyEnds (x : CopyWait) (fault : Bool) (s : State) : State :=
  let p := s.place
  if x.kind = 0 then { s with mor := { s.mor with copyDone := true, copyTrunc := x.trunc, copyFault := fault } }
  else if x.kind = 1 then { s with place := { p with viewDone := true, viewTrunc := x.trunc } }
  else { s with place := { p with ctxDone := true, ctxNone := false } }

/-- Write a copy, or what is left of it; a write whose fault may still resolve waits, and the copy is BUSY (R207, R245, R257, R407). -/
def runCopy (x : CopyWait) (s : State) : State :=
  match copyOut x.who (x.bytes.length / 64 + 2) x.addr x.bytes s with
  | (none, s1) => copyEnds x false s1
  | (some (.wait k a, addr, bytes), s1) => startWait x.who true k a { s1 with copies := s1.copies ++ [{ x with addr, bytes }] }
  | (some (e, _, _), s1) => copyEnds x true (recordStop x.who e s1)

/-- Whether a copy of a kind runs. -/
def copyBusy (s : State) (kind : Nat) : Bool := s.copies.any (fun x => x.kind = kind)

/-- The longest prefix of records that fits a number of bytes. -/
def takeFit (v : Variant) : Nat → List MorRec → List MorRec
  | _, [] => []
  | n, r :: rs => if recLen v r ≤ n then r :: takeFit v (n - recLen v r) rs else []

/-- The records that a copy takes, in sequence order (R407). -/
def copySelect (m : Moraine) : List MorRec :=
  let src := if m.copySource then m.flash.map (·.2) else m.ring
  let dist (r : MorRec) : Nat := (r.seq + 2 ^ 32 - m.copyFrom % 2 ^ 32) % 2 ^ 32
  sortBy dist (src.filter (fun r => decide (dist r < 2 ^ 31) && decide (m.copyMinSev ≤ r.sev)))

/-- The bytes of a copy: header and records, and whether some were left out (R407). -/
def copyBytes (s : State) : List Byte × Bool :=
  let m := s.mor
  let all := copySelect m
  let got := takeFit s.variant (m.copyLen - 64) all
  let body := got.flatMap (recBytes s.variant)
  let first := (got.head?.map (·.seq)).getD 0
  let last := (got.getLast?.map (·.seq)).getD 0
  (padTo 64 (leBytes 4 got.length ++ leBytes 4 body.length ++ leBytes 4 first ++ leBytes 4 last ++
    leBytes 8 (b2n m.copySource) ++ leBytes 8 s.time) ++ body, decide (got.length < all.length))

/-- Run a copy request (R407). -/
def moraineCopyOp (s : State) : State :=
  if s.mor.copyLen < 64 then { s with mor := { s.mor with copyDone := true, copyTrunc := true, copyFault := false } }
  else
    let (bytes, trunc) := copyBytes s
    runCopy { kind := 0, addr := s.mor.copyAddr, bytes, trunc } s

/-- A write of MOR_CTRL (R406, R415). -/
def morCtrlWrite (v : Nat) (s : State) : State :=
  let m := s.mor
  let s1 := { s with mor := { m with irqSev := bits v 0 4, vector := bits v 4 11 } }
  if bit v 31 then { s1 with mor := { s1.mor with frozen := true } }
  else if m.frozen then unfreeze s1 else s1

/-- A write of MOR_COPY_CTRL (R407, R415). -/
def morCopyCtrlWrite (v : Nat) (s : State) : State :=
  let m := s.mor
  let s1 := { s with mor := { m with copySource := bit v 27, copyMinSev := bits v 0 4,
                                     copyDone := m.copyDone && !bit v 29 } }
  if bit v 31 && !copyBusy s 0 then moraineCopyOp s1 else s1

/-! ### The clear (R408) -/

/-- The owner slot, or 0xFF for root, whose key hash a token's key has. -/
def clearKey (s : State) (h : BitVec 512) : Option Nat :=
  if h = Config.rootKeyHash then some 0xFF
  else (List.range 4).find? (fun k => slotUsable s k && decide ((getSlot s k).hash = h))

/-- RESULT of a token: 0 and the key, or why not, in the order of the codes. -/
def judgeToken (s : State) (t : List Byte) : Nat × Nat :=
  let scope := fieldAt t 265 1
  let key := t.take 133
  let signed := Config.sha512 ((t.drop 272).take 32 ++ leBytes 8 s.fused.serial ++ leBytes 1 scope)
  if t.length < 304 ∨ scope = 0 ∨ 3 < scope ∨ zeros t 266 272 = false then (1, 0)
  else if fieldAt t 272 32 ≠ s.mor.nonce.toNat then (2, 0)
  else match clearKey s (Config.sha512 key) with
    | none => (3, 0)
    | some k =>
      if !Config.ecdsaVerify key signed ((t.drop 133).take 132) then (3, 0)
      else if s.mor.frozen then (4, 0) else (0, k)

/-- The token has been read, or could not be: check it and clear. -/
def clearWith (t : List Byte) (s1 : State) : State :=
  let (res, key) := judgeToken s1 t
  let scope := fieldAt t 265 1
  let (n, s2) := takeFree 256 s1
  let m := s2.mor
  let m1 : Moraine := { m with nonce := n, clearDone := true, clearResult := res }
  if res ≠ 0 then record 0x0D02 0x07 (leBytes 1 res) { s2 with mor := m1 }
  else
    let s3 := { s2 with mor := { m1 with
      ring := if bit scope 0 then [] else m1.ring
      toFlash := if bit scope 1 then [] else m1.toFlash } }
    record 0x0D01 0x07 (leBytes 1 scope ++ leBytes 1 key ++ leBytes 2 0 ++ leBytes 4 ((m.nextSeq + 2 ^ 32 - 1) % 2 ^ 32))
      (if bit scope 1 then flashClear s3 else s3)

/-- Read the token at an offset: while its read may still succeed the attempt is running. -/
def readToken (off : Nat) (s : State) : State :=
  let w := copyWho 0x0700
  if !inBar2 s off 304 then clearWith [] s
  else match readRM w off 304 3 s with
    | (.ok t, s1) => clearWith t s1
    | (.error (.wait k a), s1) => startWait w false k a { s1 with
        copies := s1.copies ++ [{ kind := 3, addr := off }], mor := { s1.mor with clearResult := 0xFF } }
    | (.error e, s1) => clearWith [] (recordStop w e s1)

/-- A write of MOR_CLEAR (R408, R415). -/
def moraineClearOp (v : Nat) (s : State) : State :=
  let off := bits v 6 42 * 64
  let s1 := { s with mor := { s.mor with clearOffset := off, clearDone := s.mor.clearDone && !bit v 61 } }
  if bit v 63 && !copyBusy s 3 then readToken off s1 else s1

/-- The copies and the clear that waited go on. -/
def retryCopies (s : State) : State :=
  s.copies.foldl (fun s x => if x.kind = 3 then readToken x.addr s else runCopy x s) { s with copies := [] }

/-! ### The calendar and the commands -/

/-- A write of ICE_CAL_SET (R414). -/
def iceCalSetOp (v : Nat) (s : State) : State :=
  let old := calNow s
  let l := s.ice.now
  record 0x0E03 0x00 (leBytes 8 old ++ leBytes 8 v) { s with ice := { s.ice with
    calValid := true, refT := s.time, refC := v,
    now := { l with firstCal := if l.firstCal = 0 then v else l.firstCal } } }

/-- FLASH_LOG_WRITE (R402): the oldest record that waits is written. -/
def execFlashLogWrite (s : State) : Host.Outcome State Fault Refusal :=
  .next (
    if !s.st.auxOn then s
    else match s.mor.toFlash with
      | [] => s
      | r :: rs => flashAppend r { s with mor := { s.mor with toFlash := rs } })

/-- FREEZE (R406). -/
def execFreeze (value : W32) (s : State) : Host.Outcome State Fault Refusal :=
  .next (if s.st.standbyDone then morCtrlWrite value.toNat s else s)

/-- MORAINE_COPY (R407). -/
def execMoraineCopy (value : W32) (s : State) : Host.Outcome State Fault Refusal :=
  .next (if s.st.standbyDone then morCopyCtrlWrite value.toNat s else s)

/-- MORAINE_CLEAR (R408). -/
def execMoraineClear (value : W64) (s : State) : Host.Outcome State Fault Refusal :=
  .next (if s.st.standbyDone then moraineClearOp value.toNat s else s)

/-- ICE_COMMIT (R411). -/
def execIceCommit (s : State) : Host.Outcome State Fault Refusal :=
  .next (if s.st.standbyDone then iceCommitOp s else s)

/-- ICE_CAL_SET (R414). -/
def execIceCalSet (value : W64) (s : State) : Host.Outcome State Fault Refusal :=
  .next (if s.st.standbyDone then iceCalSetOp value.toNat s else s)

/-- MORAINE_INTERRUPT_TIMER (R409): the message held back is sent 1 ms after the last. -/
def execMoraineInterruptTimer (s : State) : Host.Outcome State Fault Refusal :=
  .next (
    match s.mor.irqHeld, s.mor.lastIrq with
    | true, some t =>
      let s1 := passTo (t + 1000000) s
      sendMsix 0 s1.mor.vector { s1 with mor := { s1.mor with irqHeld := false, lastIrq := some s1.time } }
    | _, _ => s)

end Sys2Proof.Machine
end

