-- ==== Sys2Proof/Machine/MemCtl.lean ====
section
/-! DEFINITION. The memory controllers, the interleave windows and the CXL ports (R210 to R230). -/

namespace Sys2Proof.Machine

/-! ### Requests and issue (R211 to R214, R218, R223 to R225) -/

/-- The number of a bank among a stack's pseudo-channels, and of a row. -/
def bankKey (pc bank : Nat) : Nat := pc * 2 ^ 16 + bank
def rowKey (pc bank row : Nat) : Nat := bankKey pc bank * 2 ^ 32 + row

/-- The urgency of a request at a time (R212). -/
def urgency (now : Nat) (r : MemReq) : Nat :=
  let age := now - r.time
  if 2 * age < r.target then 0 else if 4 * age < 3 * r.target then 1 else if age < r.target then 2 else 3

/-- The bytes of a write merged into a line by its byte enables (R223). -/
def mergeLine (old data : List Byte) (enables : Nat) : List Byte :=
  (List.range 64).map (fun i => if bit enables i then data.getD i 0 else old.getD i 0)

/-- The controller port of a request, fixed by its origin (R211). -/
def portOf : Origin → Nat
  | .transfer run => if run < 256 then 1 else 0
  | .context | .drain | .vemit => 0
  | .element => 1
  | .floe | .pageLock => 2
  | .migration | .bar2 | .cxlCopy => 3
  | .midway => 4
  | .ringmaster | .walk | .moraine | .ice => 5

/-- End an operation whose access met an uncorrectable or lost line (R225, R227). -/
def dataError (op : Option Nat) (a : Nat) (s : State) : State :=
  match op.bind (findOp s) with
  | some o => endOp o.tag (stopWith 0x30 o.cursor a) s
  | none => s

/-- The bytes of a line after a write, and of its loss (R214, R227). -/
def takeWrite (a : Nat) (new : List Byte) (enables : Nat) (s : State) : State :=
  let s1 := snoop a { s with dmem := Memory.writeN s.dmem a new }
  if enables % 2 ^ 64 = 2 ^ 64 - 1 then clearLost s1 a else s1

/-- A request to the second tier goes to its CXL port and not to a controller: it is served in the order accepted, while
the link is up, waits while it may retrain, and fails on a port that is out of service (R214, R229, R230, R319). -/
def cxlRequest (c : MemCall) (s : State) : State :=
  let p := (c.addr - tier2Base) / 2 ^ 44
  let x := getCxl s p
  let old := Memory.readN s.dmem c.addr 64
  if !x.up then
    (if x.downSince.isSome then setCxl s p { x with ingress := x.ingress ++ [c] }
     else if c.write then s else emit (.memLine c.port c.addr [] true) s)
  else if c.write then takeWrite c.addr (mergeLine old c.data c.enables) c.enables (countAccess c.addr s)
  else if lineLost s c.addr then dataError c.op c.addr (emit (.memLine c.port c.addr [] true) (countAccess c.addr s))
  else emit (.memLine c.port c.addr old false) (countAccess c.addr s)

/-- The requests that waited at a CXL port are served. -/
def offerCxl (p : Nat) (s : State) : State :=
  (getCxl s p).ingress.foldl (fun s c => cxlRequest c s) (setCxl s p { getCxl s p with ingress := [] })

/-- Whether the queue for a request has room (R213). -/
def Stack.room (st : Stack) (write : Bool) : Bool :=
  decide ((st.reqs.filter (fun r => r.write = write)).length < (if write then 128 else 256))

/-- A controller accepts a request: the line takes its new contents, and a read takes the line's contents, in the order of
acceptance (R214; log entry 16). -/
def acceptReq (k : Nat) (c : MemCall) (s : State) : State :=
  let st := getStack s k
  let n := (st.reqs.filter (fun r => r.write = c.write)).length
  let old := Memory.readN s.dmem c.addr 64
  let new := if c.write then mergeLine old c.data c.enables else old
  let s1 := if c.write then takeWrite c.addr new c.enables (countAccess c.addr s) else countAccess c.addr s
  let st1 := getStack s1 k
  let r : MemReq := { port := c.port, addr := c.addr, write := c.write, data := new, enables := c.enables % 2 ^ 64, time := s.time
                      target := st.targets.getD c.port 1, close := c.close, lost := lineLost s c.addr, op := c.op }
  setStack s1 k { st1 with reqs := st1.reqs ++ [r], burst := st1.burst || (c.write && decide (96 < n + 1)) }

/-- Accept a request, or refuse it when its queue is full: it stays in its port's ingress buffer, and the port retries it (R211,
R213, R319). A stack out of service answers every access with DATA_ERROR (R227). -/
def offerReq (again : Bool) (k : Nat) (c : MemCall) (s : State) : State :=
  let st := getStack s k
  if st.lost then dataError c.op c.addr (emit (.memLine c.port c.addr [] true) s)
  else if !st.present then s
  else if st.room c.write then acceptReq k c s
  else
    let s1 := setStack s k { st with ingress := st.ingress ++ [c] }
    if again then s1 else emit (.memRefused c.port c.addr) s1

/-- The requests that a controller refused try again, in their order (R213). -/
def retryIngress (k : Nat) (s : State) : State :=
  if (getStack s k).ingress.isEmpty then s
  else (getStack s k).ingress.foldl (fun s c => offerReq true k c s) (setStack s k { getStack s k with ingress := [] })

/-- A request arrives at a memory controller, or at a CXL port (R211, R213, R229). After a link of the network has failed nothing
more is taken (R323). -/
def memRequestOp (port addr : Nat) (write : Bool) (data : List Byte) (enables : Nat) (close : Bool)
    (op : Option Nat) (s : State) : State :=
  let c : MemCall := { port, addr := addr / 64 * 64, write, data, enables, close, op }
  if bit s.noc.errLog 63 then s
  else if tier2Base ≤ c.addr then cxlRequest c s
  else match localOf s c.addr with
  | none => s
  | some (k, _, _) => offerReq false k c s

/-- Whether one request goes before another at an issue slot: urgency, then a hit on the open row, then age; at urgency
3 the oldest first (R212). -/
def goesBefore (now : Nat) (hit : MemReq → Bool) (r q : MemReq) : Bool :=
  let u := urgency now r
  let v := urgency now q
  if u ≠ v then decide (v < u)
  else if u ≠ 3 ∧ hit r ≠ hit q then hit r
  else decide (r.time < q.time)

/-- The request that an issue slot takes among candidates. -/
def pickReq (now : Nat) (hit : MemReq → Bool) : List MemReq → Option MemReq
  | [] => none
  | r :: rs => match pickReq now hit rs with
    | none => some r
    | some q => if goesBefore now hit q r then some q else some r

/-- Remove the first occurrence of a request. -/
def dropReq (r : MemReq) : List MemReq → List MemReq
  | [] => []
  | q :: qs => if q = r then qs else q :: dropReq r qs

/-- A corrected line counts, and its row may fall due for repair (R224, R226). -/
def correctedLine (k pc off : Nat) (s : State) : State :=
  let st := getStack s k
  let rk := rowKey pc (bankOf off) (rowOf off)
  let n := tget (dflt 0) st.rowCounts rk + 1
  setStack s k { st with
    ceCtrl := satAdd 0xFFFFFF st.ceCtrl 1
    rowCounts := tset (dflt 0) st.rowCounts rk n
    repairDue := if st.rowThresh ≤ n then insertNat rk st.repairDue else st.repairDue }

/-- The requests of a queue that were accepted before one, and after it, for its line (R214). -/
def olderFor (r : MemReq) (l : List MemReq) : List MemReq := (l.takeWhile (· ≠ r)).filter (fun q => q.addr = r.addr)
def laterFor (r : MemReq) (l : List MemReq) : List MemReq :=
  ((l.dropWhile (· ≠ r)).drop 1).filter (fun q => q.addr = r.addr)

/-- Whether a read is forwarded from the write queue (R214). -/
def forwarded (r : MemReq) (l : List MemReq) : Bool :=
  !r.write && (olderFor r l).any (fun q => q.write && decide (q.enables = 2 ^ 64 - 1))

/-- The read of a line completes (R223 to R225, R227): bad symbols found, 0 none, 1 corrected, 2 detected, more
whatever the code yields. -/
def readDone (r : MemReq) (k pc off bad : Nat) (s : State) : State :=
  if r.lost || lineLost s r.addr then dataError r.op r.addr (emit (.memLine r.port r.addr [] true) s)
  else if bad = 0 then emit (.memLine r.port r.addr r.data false) s
  else if bad = 1 then emit (.memLine r.port r.addr r.data false) (correctedLine k pc off s)
  else if bad = 2 then
    dataError r.op r.addr (emit (.memLine r.port r.addr [] true) (uncorrectableKv r.addr 0 s))
  else
    let (x, s1) := takeFree 512 s
    emit (.memLine r.port r.addr (leBytes 64 x.toNat) false) s1

/-- The write of a line completes; a partial write reads the line first, and what it then stores is under the writes
accepted after it (R214, R223 to R225, R227). -/
def writeDone (r : MemReq) (later : List MemReq) (k pc off bad : Nat) (s : State) : State :=
  if stackGone s r.addr then dataError r.op r.addr s
  else if r.enables = 2 ^ 64 - 1 || r.lost || lineLost s r.addr || bad = 0 then s
  else if bad = 1 then correctedLine k pc off s
  else if bad = 2 then uncorrectableKv r.addr 2 s
  else
    let (x, s1) := takeFree 512 s
    let line := (r :: later.filter (fun q => q.write)).foldl (fun l q => mergeLine l q.data q.enables) (leBytes 64 x.toNat)
    { s1 with dmem := Memory.writeN s1.dmem r.addr line }

/-- The bank of a request is used: row, policy counter, activations (R217, R218). -/
def useBank (now : Nat) (r : MemReq) (row : Nat) (b : Bank) : Bank :=
  let hit := b.openRow = some row
  let policy := if hit then min 3 (b.policy + 1) else b.policy - 1
  let acts0 := if b.rfmDue && !hit then [] else b.acts
  let acts := if hit then acts0 else tadd acts0 (Config.rowGroup row) 1
  let keep := if r.port = 0 ∨ r.port = 2 then !r.close else decide (2 ≤ policy)
  { b with
    openRow := if keep then some row else none
    lastUse := now, policy, acts
    rfmDue := if hit then b.rfmDue else decide (Config.refreshManagementThreshold ≤ tget (dflt 0) acts (Config.rowGroup row)) }

/-- A stack is taken out of service: MEM_STACK_LOST with the reason, 0 also for
a failed link (R210, R217, R227; log entry 69). -/
def loseStack (k pc reason : Nat) (s : State) : State :=
  let st := getStack s k
  let s1 := setStack s k { st with lost := true, present := false }
  let l := s1.ice.now
  record 0x0403 (0x20 + k) (leBytes 1 pc ++ leBytes 1 reason)
    { s1 with ice := { s1.ice with now := { l with stackLost := insertNat k l.stackLost } } }

/-- Whether a controller starts a write burst: more than 96 writes, or the oldest at urgency 2 (R213). -/
def startsBurst (now : Nat) (writes : List MemReq) : Bool :=
  decide (96 < writes.length) || (writes.head?.map (fun r => decide (2 ≤ urgency now r))).getD false

/-- The bank and row that a request uses: pseudo-channel and offset. -/
def reqPlace (s : State) (r : MemReq) : Nat × Nat := match localOf s r.addr with
  | some (_, pc, off) => (pc, off)
  | none => (0, 0)

/-- Whether a request may issue: its bank is ready and owes no fifth refresh, a write has its burst, and a write goes
after the requests for its line that came before it (R212 to R215). -/
def issuable (s : State) (st : Stack) (busy : List (Nat × Nat)) (burst : Bool) (r : MemReq) : Bool :=
  let (pc, off) := reqPlace s r
  decide ((pc, bankOf off) ∉ busy) && decide ((tget (dflt {}) st.banks (bankKey pc (bankOf off))).postponed < 5) &&
    (!r.write || (burst && (olderFor r st.reqs).isEmpty))

/-- One issue slot of a controller (R212, R213, R215, R218). A parity error on the command or address is retried once; a
second is handled as a failed link, and the stack is taken out of service (R210, R227). -/
def issueSlotOp (k : Nat) (busy : List (Nat × Nat)) (bad parity : Nat) (s : State) : State :=
  let st := getStack s k
  let bankAt (r : MemReq) : Bank := tget (dflt {}) st.banks (bankKey (reqPlace s r).1 (bankOf (reqPlace s r).2))
  let urgentRead := st.reqs.any (fun r => !r.write && decide (urgency s.time r = 3))
  let writes := st.reqs.filter (fun r => r.write)
  let burst := (st.burst || startsBurst s.time writes) && !urgentRead && !writes.isEmpty
  let hit (r : MemReq) : Bool := (bankAt r).openRow = some (rowOf (reqPlace s r).2)
  match pickReq s.time hit (st.reqs.filter (issuable s st busy burst)) with
  | none => setStack s k { st with burst }
  | some r =>
    let (pc, off) := reqPlace s r
    let bk := bankKey pc (bankOf off)
    let s1 := setStack s k { st with
      burst := burst, reqs := dropReq r st.reqs
      banks := tset (dflt {}) st.banks bk (useBank s.time r (rowOf off) (bankAt r)) }
    let s2 := if parity < 2 then s1 else loseStack k pc 0 s1
    retryIngress k (
      if r.write then writeDone r (laterFor r st.reqs) k pc off bad s2
      else if forwarded r st.reqs then emit (.memLine r.port r.addr r.data false) s2
      else readDone r k pc off bad s2)

/-! ### Refresh, temperature, retraining, patrol and repair (R215 to R218, R224 to R227) -/

/-- Whether requests at urgency 3 wait for a bank. -/
def bankUrgent (s : State) (k pc bank : Nat) : Bool :=
  (getStack s k).reqs.any (fun r => decide (urgency s.time r = 3) && match localOf s r.addr with
    | some (_, p, off) => decide (p = pc ∧ bankOf off = bank)
    | none => false)

/-- A refresh of a bank falls due: it is postponed while urgent requests wait, four times at most, else issued with
those postponed; the row is closed (R215, R218). -/
def refreshOp (k pc bank : Nat) (s : State) : State :=
  let st := getStack s k
  let key := bankKey pc bank
  let b := tget (dflt {}) st.banks key
  let b' := if !bankUrgent s k pc bank then { b with openRow := none, postponed := 0 }
    else if b.postponed < 4 then { b with postponed := b.postponed + 1 }
    else { b with openRow := none }
  if st.trained then setStack s k { st with banks := tset (dflt {}) st.banks key b' } else s

/-- The junction sensor number under which a stack counts above 105 °C (R216; log entry 14). -/
def stackSensor (k : Nat) : Nat := 0x100 + k

/-- A temperature reading of a stack (R196, R216). -/
def tempReadOp (k : Nat) (t : Int) (s : State) : State :=
  let st := getStack s k
  if !st.trained then s
  else
    let hot (old : Bool) : Bool := if 85 < t then true else if t ≤ 80 then false else old
    let s1 := setStack s k { st with tempC := t, doubleRef := hot st.doubleRef, derated := hot st.derated }
    { s1 with pwr := { s1.pwr with
        temps := if 105 < t then tinsert (stackSensor k) t s1.pwr.temps else terase (stackSensor k) s1.pwr.temps } }

/-- A periodic retraining of a pseudo-channel ends (R217). -/
def retrainOp (k pc : Nat) (good : Bool) (s : State) : State :=
  let st := getStack s k
  if !st.present then s
  else
    let n := wrapAdd 32 st.retrains 1
    if good then setStack s k { st with retrains := n, retrainFailed := st.retrainFailed.filter (· ≠ pc) }
    else if pc ∈ st.retrainFailed then loseStack k pc 0 (setStack s k { st with retrains := n })
    else setStack s k { st with retrains := n, retrainFailed := insertNat pc st.retrainFailed }

/-- A row kept open is closed after 200 ns without a request for it (R218). -/
def rowIdleCloseOp (k pc bank : Nat) (s : State) : State :=
  let st := getStack s k
  let key := bankKey pc bank
  let b := tget (dflt {}) st.banks key
  match b.openRow with
  | none => s
  | some row =>
    let wanted := st.reqs.any (fun r => match localOf s r.addr with
      | some (_, p, off) => decide (p = pc ∧ bankOf off = bank ∧ rowOf off = row)
      | none => false)
    if wanted then s
    else setStack (passTo (b.lastUse + 200) s) k
      { st with banks := tset (dflt {}) st.banks key { b with openRow := none } }

/-- The device physical address of a place on a stack, if some window holds it. -/
def dpaOf (s : State) (k pc off : Nat) : Option Nat :=
  (List.range 16).findSome? (fun n => (fun w => if w.size = 0 then none else winUnmap w k pc off) (getWindow s n).active)

/-- A line that patrol or repair finds in error: corrected, or uncorrectable, unless it is lost already (R224, R225,
R227). The device physical address of a line in no window is open (log entry 69). -/
def foundLine (k pc line bad by_ : Nat) (s : State) : State :=
  let off := line * 64
  if bad = 0 then s
  else if bad = 1 then correctedLine k pc off s
  else match dpaOf s k pc off with
    | some a => if lineLost s a then s else uncorrectableKv a by_ s
    | none =>
      if bit (tget (dflt 0) (getStack s k).frames (frameNo pc off)) (frameLine off) then s
      else
        let (x, s1) := takeFree 64 s
        uncorrectableAt k pc off x.toNat by_ s1

/-- One patrol over a stack: on-die counts, corrections, uncorrectable lines; the period's row counts end with it
(R224). -/
def patrolOp (k odeCount : Nat) (found : List (Nat × Nat × Nat)) (s : State) : State :=
  let st := getStack s k
  if !st.present then s
  else
    let s1 := setStack s k { st with ceOde := satAdd 0xFFFFFF st.ceOde odeCount }
    let s2 := found.foldl (fun s f => foundLine k f.1 f.2.1 f.2.2 1 s) s1
    setStack s2 k { getStack s2 k with rowCounts := [] }

/-- The repair of a row that is due (R226). -/
def rowRepairOp (k pc bank row spares : Nat) (badLines : List Nat) (s : State) : State :=
  let st := getStack s k
  let rk := rowKey pc bank row
  if !(rk ∈ st.repairDue) then s
  else
    let st1 := { st with repairDue := st.repairDue.filter (· ≠ rk), rowCounts := terase rk st.rowCounts }
    let s1 := badLines.foldl (fun s l => foundLine k pc l 2 1 s) (setStack s k st1)
    let st2 := getStack s1 k
    if spares = 0 then setStack s1 k { st2 with repairFailed := satAdd 0xFFFF st2.repairFailed 1 }
    else setStack s1 k { st2 with
      softPending := satAdd 0xFFFF st2.softPending 1, softRows := insertNat rk st2.softRows
      spareMin := min st2.spareMin (spares - 1)
      banks := tset (dflt {}) st2.banks (bankKey pc bank)
        { tget (dflt {}) st2.banks (bankKey pc bank) with openRow := none } }

/-! ### Interleave windows (R219 to R222, R429 to R431) -/

/-- The usable capacity per stack in bytes (R219, R222): 73,664 MiB. -/
def usableBytes : Nat := 73664 * 2 ^ 20

/-- Note a rejected commit in AGR_STATUS (R431). -/
def agrReject (kind index result : Nat) (s : State) : State :=
  { s with st := { s.st with agrValid := true, agrKind := kind, agrIndex := index, agrResult := result,
                             agrRejects := satAdd (2 ^ 32 - 1) s.st.agrRejects 1 } }

/-- Whether a physical range holds backed memory (R222). -/
def backedIn (s : State) (lo hi : Nat) : Bool := (usedAt (usedRanges s) lo hi).isSome

/-- The checks of R221 on a window's snapshot, in the order of their codes; 0 passes. Another window counts as it is and
as a commit of it that has passed will make it. -/
def windowCheck (s : State) (n : Nat) (w : WinCfg) : Nat :=
  let stks := winStacks w
  let k := stks.length
  let g := bits w.map 0 5
  let others := ((List.range 16).filter (· ≠ n)).flatMap (fun i =>
    (getWindow s i).active :: (getWindow s i).snapshot.toList)
  let live := others.filter (fun o => o.size ≠ 0)
  let per (c : WinCfg) : Nat := c.size / (winStacks c).length
  let a := (getWindow s n).active
  if g < 8 ∨ 21 < g ∨ (k ≠ 0 ∧ w.size % (k * 2 ^ 26) ≠ 0) then 1
  else if (w.size ≠ 0 ∧ k = 0) ∨ stks.any (fun x => decide (numStacks s.variant ≤ x) || !(getStack s x).trained) then 2
  else if w.size ≠ 0 ∧ live.any (fun o => decide (w.base < o.base + o.size ∧ o.base < w.base + w.size)) then 3
  else if w.size ≠ 0 ∧ (usableBytes < winStackBase w + per w ∨ live.any (fun o =>
      (winStacks o).any (fun x => decide (x ∈ stks)) &&
      decide (winStackBase w < winStackBase o + per o ∧ winStackBase o < winStackBase w + per w))) then 4
  else if (w.base ≠ a.base ∨ w.map ≠ a.map) ∧ a.size ≠ 0 ∧ backedIn s a.base (a.base + a.size) then 5
  else if w.size < a.size ∧ backedIn s (a.base + w.size) (a.base + a.size) then 5
  else if n = 0 ∧ (w.base ≠ 0 ∨ w.size = 0) then 6
  else 0

/-- GO to a window's COMMIT (R221, R430, R431). -/
def iwinCommitOp (n : Nat) (s : State) : State :=
  let w := getWindow s n
  if w.result = 0xFF then s
  else
    let c := windowCheck s n w.shadow
    if c = 0 then setWindow s n { w with result := 0xFF, snapshot := some w.shadow }
    else agrReject 1 n c (setWindow s n { w with result := c })

/-- A passed snapshot takes effect, unless a page has since been backed in what it removes or remaps (R222, R431; log
entry 69). -/
def iwinApplyOp (n : Nat) (s : State) : State :=
  let w := getWindow s n
  match w.snapshot with
  | some c =>
    let r := windowCheck s n c
    if r = 0 then setWindow s n { w with active := c, snapshot := none, result := 0 }
    else agrReject 1 n r (setWindow s n { w with snapshot := none, result := r })
  | none => s

/-! ### CXL ports (R228 to R230) -/

/-- The runs of pages that stand on a CXL port. -/
def onPort (p : Nat) (r : PRange) : Bool :=
  decide (r.kind = .tier2 ∨ (r.kind = .migrating ∧ r.fromTier2 = true)) &&
    decide (tier2Base ≤ r.phys ∧ (r.phys - tier2Base) / 2 ^ 44 = p)

/-- The 2 MiB pages placed on a port (R230). -/
def pagesUsed (s : State) (p : Nat) : Nat :=
  (s.pages.filter (onPort p)).foldl (fun n r => n + ceilDiv r.len (2 ^ 21)) 0

/-- A port's link goes down: a wait of 10 ms begins (R230). -/
def cxlLinkDownOp (p : Nat) (s : State) : State :=
  let c := getCxl s p
  if c.up then setCxl s p { c with up := false, width := 0, rate := 0, downSince := some s.time } else s

/-! ### The commands -/

/-- MEM_REQUEST (R211, R213, R214). -/
def execMemRequest (origin : Origin) (addr : Nat) (write : Bool) (data : List Byte) (enables : W64) (close : Bool)
    (op : Option Nat) (s : State) : Host.Outcome State Fault Refusal :=
  .next (memRequestOp (portOf origin) addr write data enables.toNat close op s)

/-- ISSUE_SLOT (R212, R213, R218, R223 to R225). -/
def execIssueSlot (stack : Nat) (busy : List (Nat × Nat)) (bad parity : Nat) (s : State) :
    Host.Outcome State Fault Refusal :=
  .next (issueSlotOp stack busy bad parity s)

/-- REFRESH (R215). -/
def execRefresh (stack pc bank : Nat) (s : State) : Host.Outcome State Fault Refusal :=
  .next (refreshOp stack pc bank s)

/-- TEMP_READ (R216). -/
def execTempRead (stack : Nat) (temp : Int) (s : State) : Host.Outcome State Fault Refusal :=
  .next (tempReadOp stack temp s)

/-- RETRAIN (R217). -/
def execRetrain (stack pc : Nat) (ok : Bool) (s : State) : Host.Outcome State Fault Refusal :=
  .next (retrainOp stack pc ok s)

/-- ROW_IDLE_CLOSE (R218). -/
def execRowIdleClose (stack pc bank : Nat) (s : State) : Host.Outcome State Fault Refusal :=
  .next (rowIdleCloseOp stack pc bank s)

/-- PATROL (R224). -/
def execPatrol (stack odeCount : Nat) (found : List (Nat × Nat × Nat)) (s : State) :
    Host.Outcome State Fault Refusal :=
  .next (patrolOp stack odeCount found s)

/-- ROW_REPAIR (R226). -/
def execRowRepair (stack pc bank row spares : Nat) (badLines : List Nat) (s : State) :
    Host.Outcome State Fault Refusal :=
  .next (rowRepairOp stack pc bank row spares badLines s)

/-- IWIN_COMMIT (R221). -/
def execIwinCommit (window : Nat) (s : State) : Host.Outcome State Fault Refusal :=
  .next (if s.st.ready then iwinCommitOp window s else s)

/-- IWIN_APPLY (R222). -/
def execIwinApply (window : Nat) (s : State) : Host.Outcome State Fault Refusal :=
  .next (iwinApplyOp window s)

/-- CXL_LINK_DOWN (R230). -/
def execCxlLinkDown (port : Nat) (s : State) : Host.Outcome State Fault Refusal :=
  .next (cxlLinkDownOp port s)

end Sys2Proof.Machine
end

