-- ==== Sys2Proof/Machine/Mmu.lean ====
section
/-! DEFINITION. Address-space commands, host translations and page requests, and the end of faults (R237 to R245,
R203), BAR2 (R261), and CXL links that were down (R230). -/

namespace Sys2Proof.Machine

/-! ### Address-space commands (R237 to R239) -/

/-- The bytes of a leaf by the field SIZE, as log2 (R239). -/
def leafOfSize (size : Nat) : Nat := match size with
  | 0 => 12 | 1 => 16 | 2 => 21 | _ => 30

/-- Split the one leaf that an address cuts into leaves of a smaller size (R238). -/
def splitAt (asid a leaf : Nat) (s : State) : State :=
  match findPage s asid a with
  | some p =>
    let lo := p.base + (a - p.base) / 2 ^ p.leaf * 2 ^ p.leaf
    if lo = a ∨ p.leaf ≤ leaf then s
    else { s with pages := mapRange asid lo (lo + 2 ^ p.leaf) (fun r => [{ r with leaf := leaf, pin := r.pin || r.leaf = 30 }]) s.pages }
  | none => s

/-- The parts of a hint outside a range. -/
def Hint.without (h : Hint) (asid lo hi : Nat) : List Hint :=
  let e := h.base + h.len
  if h.asid ≠ asid ∨ e ≤ lo ∨ hi ≤ h.base then [h]
  else (if h.base < lo then [{ h with len := lo - h.base }] else []) ++
    (if hi < e then [{ h with base := hi, len := e - hi }] else [])

/-- Remove the pins, affinity and keep-near relations of a range (R204, R238). -/
def dropHints (asid lo hi : Nat) (s : State) : State :=
  { s with place := { s.place with hints := s.place.hints.flatMap (fun h => h.without asid lo hi) } }

/-- The migrations of the pages that a range meets end where they are (R238). -/
def cancelRange (asid lo hi : Nat) (s : State) : State :=
  (s.place.migrations.filter (fun m => m.asid = asid && decide (m.page * 2 ^ 21 < hi ∧ lo < (m.page + 1) * 2 ^ 21))).foldl
    (fun s m => cancelMigration m s) s

/-- The checks of R238, in the order of the STATUS codes; 0 passes. -/
def mmuCheck (s : State) (asid base len leaf op : Nat) : Nat :=
  if base % 2 ^ leaf ≠ 0 ∨ len % 2 ^ leaf ≠ 0 ∨ len = 0 ∨ 2 ^ 48 < base + len then 1
  else if op = 0 ∨ 4 < op then 2
  else if op = 1 ∧ mappedBytes s asid base (base + len) ≠ 0 then 3
  else if (op = 2 ∨ op = 4) ∧ mappedBytes s asid base (base + len) ≠ len then 3
  else 0

/-- The effect of a command that passed (R238): 1 RESERVE, 2 RELEASE, 3 UNMAP, 4 PROTECT. -/
def mmuEffect (asid base len leaf op : Nat) (rd wr : Bool) (s : State) : State :=
  let hi := base + len
  let s1 := if op = 1 then s else splitAt asid hi leaf (splitAt asid base leaf (if op = 4 then s else cancelRange asid base hi s))
  match op with
  | 1 => { s with pages := insertPage { asid, base, len, leaf, kind := .reserved, rd, wr } s.pages }
  | 2 =>
    let f (r : PRange) : List PRange := [{ r with kind := .reserved, kv := false, cause := false, fromTier2 := false,
                                                  phys := 0, stack := none }]
    { s1 with pages := mapRange asid base hi f s1.pages }
  | 3 => dropHints asid base hi { s1 with pages := mapRange asid base hi (fun _ => []) s1.pages }
  | _ => { s1 with pages := mapRange asid base hi (fun r => [{ r with rd := rd, wr := wr }]) s1.pages }

/-- The STATUS of a command: that of its checks, or 0x04 where the tables that it needs do not fit (R238). -/
def mmuStatusOf (asid base len leaf op : Nat) (rd wr : Bool) (s : State) : Nat :=
  let c := mmuCheck s asid base len leaf op
  if c ≠ 0 then c
  else if tableRoom s < tablesNeeded (mmuEffect asid base len leaf op rd wr s).pages then 4 else 0

/-- GO with an operation code (R237 to R239): ignored while BUSY; a command that passes is in force at once and runs
until MMU_CMD_DONE; one that fails changes nothing. -/
def mmuCommand (g op size : Nat) (rd wr : Bool) (s : State) : State :=
  let x := getGroup s g
  if x.mmuBusy then setGroup s g { x with mmuSize := size, mmuRd := rd, mmuWr := wr, mmuOp := op }
  else
    let asid := bindAsid x.active.bind
    let leaf := leafOfSize size
    let c := mmuStatusOf asid x.mmuBase x.mmuLen leaf op rd wr s
    let x1 := { x with mmuSize := size, mmuRd := rd, mmuWr := wr, mmuOp := op }
    if c = 0 then
      mmuEffect asid x.mmuBase x.mmuLen leaf op rd wr (setGroup s g { x1 with mmuBusy := true, mmuStatus := 0xFF })
    else setGroup s g { x1 with mmuStatus := c }

/-- The command ends (R239). -/
def mmuDone (g : Nat) (s : State) : State :=
  let x := getGroup s g
  if x.mmuBusy then setGroup s g { x with mmuBusy := false, mmuStatus := 0 } else s

/-! ### Waiting transfers -/

/-- The accesses of an operation are made under its group's binding (R231, R262); the unit is the Floe engine or the
access engine that carries it (R245; log entry 17). -/
def whoOf (o : Op) : Who :=
  { asid := o.asid, func := o.func, pasid := o.pasid, prio := o.prio
    unit := match o.onFloe with
      | some k => (0x40 + k) * 0x100 + o.phys % 4
      | none => 0x1000 + o.phys / 72 * 0x100 + o.phys % 72 }

/-- A transfer's accesses are charged to its tile (R245). -/
def whoAt (o : Op) (p : Nat) : Who := whoOf { o with phys := p }

/-! ### What an operation has under way on the tiles (R96) -/

/-- A block command's OP_TAG and COLS (R102). -/
def cmdTag (c : Nat) : Nat := bits c 192 32
def cmdCols (c : Nat) : Nat := bits c 152 8

/-- Whether an epilogue block serves an operation. -/
def EpiBlock.serves (b : EpiBlock) (tag : Nat) : Bool := b.op = tag || b.own.any (fun w => w.op = tag)

/-- Whether the engine of a tile has a run that serves an operation. -/
def VecRun.serves (r : VecRun) (tag : Nat) : Bool :=
  (r.kind = 1 && (r.op = tag || (r.block.map (fun b => b.serves tag)).getD false)) || (r.kind = 2 && r.op = tag)

/-- What each operation owns of a bank: where nothing else is noted, its command's operation owns all of it. -/
def PeBank.owners (b : PeBank) : List EpiOwn :=
  if b.own.isEmpty then [{ op := cmdTag b.cmd, cols := cmdCols b.cmd, flags := b.flags, cand := b.cand, ord := b.ord }] else b.own

/-- Whether a bank accumulates or drains for an operation. -/
def PeBank.serves (b : PeBank) (tag : Nat) : Bool := b.st ≠ 0 && b.owners.any (fun w => w.op = tag)

/-- A bank of which some owners are given up; without an owner it is free (R92). -/
def PeBank.keepOwners (keep : EpiOwn → Bool) (b : PeBank) : PeBank :=
  if b.st = 0 then b
  else match b.owners.filter keep with
    | [] => {}
    | l => if l.length = b.owners.length then b else { b with own := l }

/-- A partition with a change made to both banks. -/
def Partn.mapBanks (f : PeBank → PeBank) (x : Partn) : Partn := { x with bankA := f x.bankA, bankB := f x.bankB }

/-- Change the partitions of every tile. -/
def mapParts (f : Partn → Partn) (s : State) : State :=
  { s with tiles := s.tiles.map (fun e => (e.1, { e.2 with parts := e.2.parts.map (fun y => (y.1, f y.2)) })) }

/-- Whether a partition has work of an operation: a bank that accumulates or drains its block, or a command that waits
(R96). -/
def Partn.hasWork (x : Partn) (tag : Nat) : Bool :=
  x.bankA.serves tag || x.bankB.serves tag || x.held.any (fun h => cmdTag h.1 = tag)

/-- Whether a tile has work of an operation: block commands, queued blocks or a run. -/
def Tile.hasWork (t : Tile) (tag : Nat) : Bool :=
  t.epi.any (fun b => b.serves tag) || t.run.serves tag || t.parts.any (fun e => e.2.hasWork tag)

/-- Whether runs or block commands of an operation are still to come; the work of a partition that the operation's own stop
stopped is not. -/
def opHasRuns (s : State) (tag : Nat) : Bool :=
  let stops := ((findOp s tag).map (fun o => decide (o.result.status ≠ 0))).getD false
  s.tiles.any (fun e => e.2.hasWork tag) || s.contexts.any (fun c => c.op = tag && !(stops && c.stopped))

/-- The drains of an operation that a fault holds are given up (R92). -/
def dropHeld (tag : Nat) (s : State) : State :=
  mapParts (Partn.mapBanks (PeBank.keepOwners (fun w => !(w.op = tag && w.held)))) s

/-- A stop that cannot be resolved ends an operation: matrix work ends when the block commands and runs already issued have
ended, with the status of the first stop (R96, R248). -/
def endIssued (tag : Nat) (r : Result) (s : State) : State :=
  let prior := ((findOp s tag).map (fun o => o.result)).getD {}
  let s1 := endOp tag (if prior.status = 0 then r else prior) (dropHeld tag s)
  match findOp s1 tag with
  | some o => if decide (o.opc = 0x10 ∨ o.opc = 0x12) && (decide (0 < o.blocksLeft) || opHasRuns s1 tag) then
      updOp tag (fun o => { o with phase := .running }) s1 else s1
  | none => s1

/-- A free slot of an access engine, a wanted one first (R166). -/
def freeSlot (x : Table Transfer) (want : Nat) : Nat :=
  if (tfind want x).isNone then want else ((List.range 16).find? (fun k => (tfind k x).isNone)).getD 16

/-- The transfer that a fault suspends keeps a slot of its tile's access engine, with its cursor and its address (R166, R246). -/
def holdSlot (o : Op) (a : Nat) (s : State) : State :=
  let t := getTile s o.phys
  if !o.started || o.onFloe.isSome || decide (16 ≤ t.xfers.length) || t.xfers.any (fun x => x.2.op = o.tag && x.2.suspended) then s
  else
    let x : Transfer := { op := o.tag, prio := o.prio, group := groupOf o.queue
                          weight := bindWeight (getGroup s (groupOf o.queue)).active.bind
                          ctr := 16, record := [], fmt := 0, first := 0, last := 0, cursor := o.cursor
                          suspended := true, faultAddr := a, window := false }
    setTile s o.phys { t with xfers := tinsert (freeSlot t.xfers 0) x t.xfers }

/-- The part that a fault suspends on a stack's engines keeps its partial state in the stack's state buffer, while that has
room; else it keeps its engine (R144, R246). -/
def bufferPart (o : Op) (s : State) : State := match o.onFloe with
  | some k =>
    let x := getFloe s k
    if o.started && !decide (o.tag ∈ x.buffer) && decide (x.buffer.length < 8) then
      setFloe s k { x with buffer := x.buffer ++ [o.tag] } else s
  | none => s

/-- Suspend an operation at its cursor by a fault that may resolve, or end it by one that does not (R245, R246,
R225). -/
def stopOp (tag : Nat) (e : Stop) (write : Bool) (s : State) : State :=
  match findOp s tag with
  | none => s
  | some o =>
    match e with
    | .fault st a => endIssued tag (stopWith st o.cursor a) (recordStop (whoOf o) e s)
    | .line a => endIssued tag (stopWith 0x30 o.cursor a) s
    | .skew a ef f es st =>
      endIssued tag (stopWith 0x40 o.cursor a) (record 0x0207 ((whoOf o).unit / 256)
        (leBytes 8 a ++ leBytes 4 ef ++ leBytes 4 f ++ leBytes 4 es ++ leBytes 4 st) s)
    | .shape => endIssued tag (stopWith 0x41 o.cursor 0) s
    | .wait x a =>
      startWait (whoOf o) write x a
        (updOp tag (fun o => { o with phase := .suspended, wait := some x, waitWrite := write, faultAddr := a }) (bufferPart o (holdSlot o a s)))

/-- Whether an operation waits on a host page. -/
def waitsOnHost (func pasid page : Nat) (o : Op) : Bool :=
  o.phase = .suspended && o.func = func && o.pasid.getD 0 = pasid && isHost o.faultAddr &&
    decide (o.faultAddr % 2 ^ 57 / 4096 = page)

/-- Whether a queue waits to write its completion ring, and not to read its submission ring. -/
def ringWrite (q : Queue) : Bool := match q.waitAddr with
  | some a => decide (q.entry.cqBase ≤ a ∧ a < q.entry.cqBase + 32 * 2 ^ q.entry.cqLog2)
  | none => false

/-- A queue stops: its ring could not be reached; one whose completion ring could not be written writes no more entries (R271,
R283). -/
def stopQueue (q status addr : Nat) (s : State) : State :=
  let x := getQueue s q
  record 0x0602 0x03 (leBytes 4 q ++ leBytes 1 status ++ leBytes 3 0 ++ leBytes 8 addr)
    (setQueue s q { x with stopped := true, waitAddr := none, ringFailed := x.ringFailed || ringWrite x })

/-- The queues whose rings wait on a host page. -/
def queuesOnHost (s : State) (func pasid page : Nat) : List Nat :=
  (s.queues.filter (fun e => match e.2.waitAddr with
    | some a => isHost a && decide (a % 2 ^ 57 / 4096 = page) &&
        (let b := (getGroup s (groupOf e.1)).active.bind
         bindFunc b = func && (bindPasid b).getD 0 = pasid)
    | none => false)).map (·.1)

/-! ### The table reads of commits (R263) -/

/-- Who reads a queue table under a binding (R263): the host interface. -/
def bindWho (bind : Nat) : Who :=
  { asid := bindAsid bind, func := bindFunc bind, pasid := bindPasid bind, unit := 0x0300 }

/-- Reject a queue-group commit (R263, R431). -/
def rejectCommit (g code : Nat) (s : State) : State :=
  let x := getGroup s g
  agrReject 2 g code (setGroup s g { x with result := code, snapshot := none, tableWait := none, held := [] })

/-- The groups whose commit waits to read its queue table at an address that meets a test, with the address. -/
def tablesWaiting (s : State) (test : Who → Nat → Bool) : List (Nat × Who × Nat) :=
  s.groups.filterMap (fun e => match e.2.snapshot, e.2.tableWait with
    | some c, some a => if test (bindWho c.bind) a then some (e.1, bindWho c.bind, a) else none
    | _, _ => none)

/-- The commits whose table cannot be read after all are rejected (R263). -/
def refuseTables (test : Who → Nat → Bool) (s : State) : State :=
  (tablesWaiting s test).foldl (fun s x => rejectCommit x.1 3 (recordFault x.2.1 x.2.2 s)) s

/-- Whether an address lies on a host page of a function and a PASID. -/
def onHostPage (func pasid page : Nat) (w : Who) (a : Nat) : Bool :=
  w.func = func && w.pasid.getD 0 = pasid && isHost a && decide (a % 2 ^ 57 / 4096 = page)

/-! ### Host pages (R241 to R243) -/

/-- The transfers and port requests that wait on a host page and whose access it does not permit, a read or a write, fail
with TRANSLATION_FAULT, the queues whose rings wait on it so stop, and the commits whose tables do are rejected (R242, R263, R271,
R363). -/
def refuseHostPage (func pasid page : Nat) (rd wr : Bool) (s : State) : State :=
  let bad (write : Bool) : Bool := !(if write then wr else rd)
  let tags := (s.ops.filter (fun o => waitsOnHost func pasid page o && bad o.waitWrite)).map (fun o => (o.tag, o.faultAddr))
  let s1 := tags.foldl (fun s t => stopOp t.1 (.fault 0x20 t.2) false s) s
  let qs := (queuesOnHost s1 func pasid page).filter (fun q => bad (ringWrite (getQueue s1 q)))
  failPorts (fun r w => reqOnHost func pasid page r w && bad r.write) 0x20
    (qs.foldl (fun s q => stopQueue q 0x20 ((getQueue s q).waitAddr.getD 0) s)
      (if rd then s1 else refuseTables (onHostPage func pasid page) s1))

/-- As refuseHostPage, for every access. -/
def failHostPage (func pasid page : Nat) (s : State) : State := refuseHostPage func pasid page false false s

/-- Send the requests that the allocation now has room for (R242). -/
def sendHeldPri (func : Nat) (s : State) : State :=
  let out := (s.pris.filter (fun r => r.func = func && r.sent)).length
  match s.pris.find? (fun r => r.func = func && !r.sent) with
  | some r =>
    if out < (getFunc s func).priAlloc then
      emit (.pageRequest r.func r.pasid r.page (!r.wr) r.wr)
        { s with pris := s.pris.map (fun x => if x = r then
            { r with sent := true, deadline := s.time + s.priTimeout * 1000000 } else x) }
    else s
  | none => s

/-- Put a host translation into the address translation cache of its die, which holds 4,096: the oldest leaves (R240). -/
def atsPut (e : AtsEntry) (s : State) : State :=
  let rest := s.ats.filter (fun x => !(x.die = e.die && x.func = e.func && x.pasid = e.pasid && x.page = e.page))
  let full := decide (4096 ≤ (rest.filter (fun x => x.die = e.die)).length)
  { s with ats := (if full then rest.eraseP (fun x => x.die = e.die) else rest) ++ [e] }

/-- The dies whose units wait for a host page: of operations, of queues' rings and of ports (R240, R242). -/
def diesOnHost (s : State) (func pasid page : Nat) : List Nat :=
  ((s.ops.filter (waitsOnHost func pasid page)).map (fun o => (whoOf o).die s.st.rmDie) ++
    (queuesOnHost s func pasid page).map (fun _ => s.st.rmDie) ++
    (tablesWaiting s (onHostPage func pasid page)).map (fun _ => s.st.rmDie) ++ s.mid.ports.filterMap (fun e => match (getPort s e.1).reqs with
      | r :: _ => r.who.bind (fun w => if reqOnHost func pasid page r w then some (e.1 / 64) else none)
      | [] => none)).eraseDups

/-- A host translation arrives at the dies that wait for it; where none does, at that of the active Ringmaster. -/
def atsArrive (e : AtsEntry) (s : State) : State :=
  let l := diesOnHost s e.func e.pasid e.page
  (if l.isEmpty then [s.st.rmDie] else l).foldl (fun s d => atsPut { e with die := d } s) s

/-- The accesses that wait on a host page try again. -/
def retryHostPage (func pasid page : Nat) (s : State) : State :=
  let qs := queuesOnHost s func pasid page
  let s1 := wakeOps (waitsOnHost func pasid page) s
  retryPorts (qs.foldl (fun s q => setQueue s q { getQueue s q with waitAddr := none }) s1)

/-- The answer to a page request (R242): 0 Success, 1 Invalid Request, other Response Failure. After Success the page is
translated again, once, with what it then permits: each access that shared the request goes on or fails by its own need
(log entry 69). -/
def priAnswer (func pasid page code : Nat) (rd wr : Bool) (s : State) : State :=
  match s.pris.find? (fun r => r.func = func && r.pasid = pasid && r.page = page && r.sent) with
  | none => s
  | some r =>
    let s1 := { s with pris := s.pris.filter (fun x => !decide (x = r)) }
    let s2 :=
      if code = 0 then
        retryHostPage func pasid page (refuseHostPage func pasid page rd wr
          (atsArrive { func, pasid, page, rd, wr } (emit (.atsRequest func pasid page r.wr) s1)))
      else if code = 1 then failHostPage func pasid page s1
      else
        let all := s1.pris.filter (fun x => x.func = func)
        let s2 := setFunc { s1 with pris := s1.pris.filter (fun x => !(x.func = func)) } func
          { getFunc s1 func with priStopped := true }
        (r :: all).foldl (fun s x => failHostPage func x.pasid x.page s) s2
    sendHeldPri func s2

/-- QGP_PRI_TIMEOUT passes without an answer (R242). -/
def priExpire (func pasid page : Nat) (s : State) : State :=
  match s.pris.find? (fun r => r.func = func && r.pasid = pasid && r.page = page && r.sent) with
  | none => s
  | some r =>
    let s1 := passTo r.deadline { s with pris := s.pris.filter (fun x => !decide (x = r)) }
    sendHeldPri func (failHostPage func pasid page s1)

/-! ### BAR2 (R261) -/

/-- Accesses through BAR2 are made by the host interface in address space 0. -/
def bar2Who : Who := { unit := 0x0300 }

/-- What an access through BAR2 that cannot be resolved records (R245, R261). -/
def bar2Fault (write : Bool) (offset : Nat) (e : Stop) (s : State) : State :=
  match e with
  | .fault _ _ => record 0x0503 0x03 (leBytes 8 offset ++ leBytes 1 (b2n write)) (recordStop bar2Who e s)
  | _ => s

/-- The regions that an access can touch first, and some more. -/
def touchFuel (len : Nat) : Nat := 2 * (len / 2 ^ 21 + 2)

/-- A read completes with Completer Abort, which AER notes (R258, R261). -/
def completerAbort (s : State) : State :=
  let f := getFunc s 0
  emit .completerAbort (setFunc s 0 { f with aer := f.aer ||| 2 ^ 15 })

/-- A read of some bytes, or a write of data, through BAR2; an access whose fault may still resolve waits in its place, and
those after it behind it (R245, R261). -/
def bar2Access (offset len : Nat) (data : Option (List Byte)) (s : State) : State :=
  let later (s : State) : State := { s with bar2Waits := s.bar2Waits ++ [(offset, len, data)] }
  if !s.bar2Waits.isEmpty then later s
  else match data with
    | none => match readRM bar2Who offset len (touchFuel len) s with
      | (.ok bs, s1) => emit (.bar2 bs) (accessFlits pcieNode bar2Who false offset s1)
      | (.error (.wait k a), s1) => startWait bar2Who false k a (later s1)
      | (.error e, s1) => completerAbort (bar2Fault false offset e s1)
    | some bs => match writeRM bar2Who offset bs (touchFuel len) s with
      | (none, s1) => accessFlits pcieNode bar2Who true offset { s1 with fills := [] }
      | (some (.wait k a), s1) => startWait bar2Who true k a (later s1)
      | (some e, s1) => bar2Fault true offset e s1

/-- The accesses that wait try again, in their order. -/
def retryBar2 (s : State) : State :=
  s.bar2Waits.foldl (fun s x => bar2Access x.1 x.2.1 x.2.2 s) { s with bar2Waits := [] }

/-- A host read (R261, R418). -/
def bar2ReadOp (offset len : Nat) (s : State) : State :=
  if !s.st.standbyDone || !inBar2 s offset len then s
  else if !s.st.ready then completerAbort s
  else bar2Access offset len none s

/-- A host write (R261, R418). -/
def bar2WriteOp (offset : Nat) (data : List Byte) (s : State) : State :=
  if !s.st.ready || !inBar2 s offset data.length then s else bar2Access offset data.length (some data) s

/-! ### A CXL link that was down (R230) -/

/-- Operations that wait on a page of a port (R230). -/
def waitsOnPort (s : State) (p : Nat) (o : Op) : Bool :=
  o.phase = .suspended && match findPage s o.asid o.faultAddr with
    | some r => onPort p r
    | none => false

/-- Queues whose rings in device memory could not be reached try again. -/
def retryDeviceRings (s : State) : State :=
  { s with queues := s.queues.map (fun e => match e.2.waitAddr with
      | some a => if isHost a then e else (e.1, { e.2 with waitAddr := none })
      | none => e) }

/-- Device memory can be reached again, or is lost: what waited for it tries again. -/
def retryDevice (s : State) : State := retryCopies (retryBar2 (retryPorts (retryDeviceRings s)))

/-- The link is back within the wait: the operations that waited go on (R230). -/
def cxlLinkRetrainedOp (p width rate : Nat) (s : State) : State :=
  let c := getCxl s p
  match c.downSince with
  | some t =>
    if t + 10000000 < s.time then s
    else
      retryDevice (offerCxl p (setCxl (wakeOps (waitsOnPort s p) s) p { c with up := true, width := width, rate := rate, downSince := none }))
  | none => s

/-- The link stays down: the port is out of service and its pages are lost; the operations that wait on one end with
LINK_ERROR and the page address, when what they have issued has ended (R96, R230). -/
def cxlRetrainTimeoutOp (p : Nat) (s : State) : State :=
  let c := getCxl s p
  match c.downSince with
  | some t =>
    let s1 := passTo (t + 10000000) s
    let n := pagesUsed s1 p
    let tags := (s1.ops.filter (waitsOnPort s1 p)).map (fun o => (o.tag, o.faultAddr / 2 ^ 21 * 2 ^ 21))
    let s2 := (s1.place.migrations.filter (fun m => decide (tier2Base ≤ m.new ∧ (m.new - tier2Base) / 2 ^ 44 = p))).foldl
      (fun s m => cancelMigration m s) s1
    let s3 := tags.foldl (fun s x => stopOp x.1 (.fault 0x31 x.2) false s)
      { s2 with pages := s2.pages.map (fun r => if onPort p r then { r with kind := .lost, cause := true } else r) }
    retryDevice (record 0x0405 (0x60 + p) (leBytes 4 n) (offerCxl p (setCxl s3 p { c with failed := true, downSince := none })))
  | none => s

/-! ### The commands -/

/-- RESERVE (R238). -/
def execReserve (group size : Nat) (rd wr : Bool) (s : State) : Host.Outcome State Fault Refusal :=
  .next (if s.st.ready then mmuCommand group 1 size rd wr s else s)

/-- RELEASE (R238): RD and WR stand as they were. -/
def execRelease (group size : Nat) (s : State) : Host.Outcome State Fault Refusal :=
  .next (if s.st.ready then mmuCommand group 2 size (getGroup s group).mmuRd (getGroup s group).mmuWr s else s)

/-- UNMAP (R238): RD and WR stand as they were. -/
def execUnmap (group size : Nat) (s : State) : Host.Outcome State Fault Refusal :=
  .next (if s.st.ready then mmuCommand group 3 size (getGroup s group).mmuRd (getGroup s group).mmuWr s else s)

/-- PROTECT (R238). -/
def execProtect (group size : Nat) (rd wr : Bool) (s : State) : Host.Outcome State Fault Refusal :=
  .next (if s.st.ready then mmuCommand group 4 size rd wr s else s)

/-- MMU_CMD_DONE (R239). -/
def execMmuCmdDone (group : Nat) (s : State) : Host.Outcome State Fault Refusal :=
  .next (mmuDone group s)

/-- PRI_RESPONSE (R242). -/
def execPriResponse (func pasid page code : Nat) (rd wr : Bool) (s : State) : Host.Outcome State Fault Refusal :=
  .next (priAnswer func pasid page code rd wr s)

/-- PRI_TIMEOUT (R242). -/
def execPriTimeout (func pasid page : Nat) (s : State) : Host.Outcome State Fault Refusal :=
  .next (priExpire func pasid page s)

/-- ATS_INVALIDATE (R243). -/
def execAtsInvalidate (func pasid page count itag : Nat) (s : State) : Host.Outcome State Fault Refusal :=
  .next (emit (.atsDone func itag) { s with ats := s.ats.filter (fun e =>
    !(e.func = func && e.pasid = pasid && decide (page ≤ e.page ∧ e.page < page + count))) })

/-- TRANSLATION_COMPLETION (R241). -/
def execTranslationCompletion (func pasid page : Nat) (rd wr untranslated : Bool) (s : State) :
    Host.Outcome State Fault Refusal :=
  .next (
    if (getFunc s func).atsEnable then
      retryHostPage func pasid page (atsArrive { func, pasid, page, rd, wr, untranslated } s)
    else s)

end Sys2Proof.Machine
end

