-- ==== Sys2Proof/Machine/HostIf.lean ====
section
/-! DEFINITION. The host interface: doorbells, queue-group commits, interrupts, BAR2, configuration requests and the
host link (R258 to R271, R288, R289). -/

namespace Sys2Proof.Machine

/-! ### Doorbells (R270, R271) -/

/-- Count a dropped doorbell (R270). -/
def dropDoorbell (q reason : Nat) (s : State) : State :=
  { s with dropped := { reason, queue := q, count := satAdd (2 ^ 32 - 1) s.dropped.count 1 } }

/-- Entries written and not yet freed of a completion ring (R271). -/
def cqUsed (q : Queue) : Nat := (q.cqTail + 2 ^ q.entry.cqLog2 - q.cqHead) % 2 ^ q.entry.cqLog2

/-- Why a doorbell is dropped, in the order of R270; none: it is taken. -/
def doorbellFault (s : State) (func q size v : Nat) : Option Nat :=
  let g := getGroup s (groupOf q)
  let x := getQueue s q
  let idx := bits v 0 32
  if size ≠ 8 ∨ bits v 48 15 ≠ 0 then some 3
  else if bindFunc g.active.bind ≠ func then some 2
  else if !x.entry.enable || x.stopped || !bindEnable g.active.bind || !s.st.ready || (getFunc s func).d3hot then some 1
  else if bits v 32 16 ≠ x.entry.epoch then some 0
  else if bit v 63 then
    (if 2 ^ x.entry.cqLog2 ≤ idx ∨ cqUsed x < (idx + 2 ^ x.entry.cqLog2 - x.cqHead) % 2 ^ x.entry.cqLog2
     then some 3 else none)
  else if 2 ^ x.entry.sqLog2 ≤ idx then some 3 else none

/-- A doorbell write: KIND 0 announces a tail, KIND 1 moves the completion head (R270, R271). -/
def doorbellOp (func q size v : Nat) (s : State) : State :=
  match doorbellFault s func q size v with
  | some r => dropDoorbell q r s
  | none =>
    let x := getQueue s q
    if bit v 63 then setQueue s q { x with cqHead := bits v 0 32 } else setQueue s q { x with tail := bits v 0 32 }

/-! ### Queue-group commits (R263 to R266, R430, R431) -/

/-- The 32 bytes of a queue table entry as its fields (R264). -/
def parseEntry (bs : List Byte) : QEntry :=
  { sqBase := fieldAt bs 0 8, cqBase := fieldAt bs 8 8, sqLog2 := fieldAt bs 16 1, cqLog2 := fieldAt bs 17 1
    priority := bits (fieldAt bs 18 1) 0 3, enable := bit (fieldAt bs 18 1) 7
    irqEn := bit (fieldAt bs 19 1) 0, vector := fieldAt bs 20 2, epoch := fieldAt bs 22 2 }

/-- Whether an entry keeps R264, and, against the active entry, changes no ring without a new EPOCH (R263). A queue
that has had no entry has none to change. -/
def entryOk (old : QEntry) (bs : List Byte) : Bool :=
  let e := parseEntry bs
  addrOk e.sqBase && e.sqBase % 4096 = 0 && addrOk e.cqBase && e.cqBase % 4096 = 0 &&
    decide (4 ≤ e.sqLog2 ∧ e.sqLog2 ≤ 16 ∧ 5 ≤ e.cqLog2 ∧ e.cqLog2 ≤ 17) && decide (e.vector < 2048) &&
    bits (fieldAt bs 18 1) 3 4 = 0 && bits (fieldAt bs 19 1) 1 7 = 0 && fieldAt bs 24 8 = 0 &&
    (old.sqLog2 = 0 || decide (e.epoch ≠ old.epoch) ||
      decide (e.sqBase = old.sqBase ∧ e.cqBase = old.cqBase ∧ e.sqLog2 = old.sqLog2 ∧ e.cqLog2 = old.cqLog2))

/-- QCOUNT of QGP_CTRL (R262). -/
def qcountOf (ctrl : Nat) : Nat := bits ctrl 0 7

/-- Whether a function exists: the PF or a VF that is enabled (R263). -/
def funcEnabled (s : State) (f : Nat) : Bool := f = 0 || decide (f ≤ (getFunc s 0).numVfs)

/-- The queues that a commit affects: those whose entry differs, or all when the binding changes (R265). -/
def affectedQueues (s : State) (g : Nat) (c : GroupCfg) (es : List (Nat × QEntry)) : List Nat :=
  let old (i : Nat) : QEntry := (getQueue s (64 * g + i)).entry
  let want (i : Nat) : QEntry := match es.find? (fun e => e.1 = i) with
    | some e => e.2
    | none => { old i with enable := false }
  (List.range 64).filter (fun i => c.bind != (getGroup s g).active.bind || want i != old i)

/-- Read and check the snapshot's queue table (R263). A host translation that is missing leaves the commit submitted
and unchecked. -/
def checkTable (g : Nat) (c : GroupCfg) (s : State) : State :=
  let n := qcountOf c.ctrl
  let w := bindWho c.bind
  match readRM w c.qtable (32 * n) 3 s with
  | (.error (.wait k a), s1) =>
    startWait w false k a (setGroup s1 g { getGroup s1 g with result := 0xFF, snapshot := some c, tableWait := some a })
  | (.error e, s1) => rejectCommit g 3 (recordStop w e s1)
  | (.ok bs, s1) =>
    let raw := (List.range n).map (fun i => (i, (bs.drop (32 * i)).take 32))
    if raw.all (fun e => entryOk (getQueue s1 (64 * g + e.1)).entry e.2) then
      let es := raw.map (fun e => (e.1, parseEntry e.2))
      setGroup s1 g { getGroup s1 g with result := 0xFF, snapshot := some c, tableWait := none, newEntries := es,
                                         held := affectedQueues s1 g c es }
    else rejectCommit g 4 s1

/-- GO to QGP_COMMIT (R263): ignored while a commit is submitted. -/
def qgpCommitOp (g : Nat) (s : State) : State :=
  let x := getGroup s g
  let c := x.shadow
  if x.result = 0xFF then s
  else if bindWeight c.bind = 0 ∨ 64 < qcountOf c.ctrl ∨ c.qtable % 4096 ≠ 0 ∨ addrOk c.qtable = false then
    rejectCommit g 1 s
  else if !funcEnabled s (bindFunc c.bind) then rejectCommit g 2 s
  else checkTable g c s

/-- Whether a queue has a descriptor in flight (R262, R265). -/
def inFlight (s : State) (q : Nat) : Bool := s.ops.any (fun o => o.queue = q)

/-- A queue takes its new entry (R265); the completions counted for its next message stay counted (R289). -/
def applyEntry (q : Nat) (e : QEntry) (s : State) : State :=
  let x := getQueue s q
  if e.epoch ≠ x.entry.epoch then
    setQueue s q { entry := e, irqCount := x.irqCount, irqFirst := x.irqFirst, irqTime := x.irqTime, lastEnd := s.time }
  else setQueue s q { x with entry := e }

/-- A commit that changes a queue with announced slots may end what kept a watcher's condition from holding (R310). -/
def restartWatchers (g : Nat) (busy : Bool) (s : State) : State :=
  if busy then { s with watchers := s.watchers.map (fun e => (e.1,
    if e.2.firstGroup ≤ g ∧ g ≤ e.2.lastGroup then { e.2 with since := s.time } else e.2)) }
  else s

/-- A passed commit applies when no affected queue has a descriptor in flight (R265). -/
def qgpApplyOp (g : Nat) (s : State) : State :=
  let x := getGroup s g
  match x.snapshot with
  | none => s
  | some c =>
    if x.tableWait.isSome then checkTable g c s
    else if x.held.any (fun i => inFlight s (64 * g + i)) then s
    else
      let s1 := setGroup s g { x with active := c, result := 0, snapshot := none, newEntries := [], held := [] }
      (List.range 64).foldl (fun s i =>
        let q := 64 * g + i
        match x.newEntries.find? (fun e => e.1 = i) with
        | some e => applyEntry q e.2 s
        | none => let y := getQueue s q
                  if y.entry.enable then setQueue s q { y with entry := { y.entry with enable := false } } else s)
        (restartWatchers g (x.held.any (fun i => decide ((getQueue s (64 * g + i)).head ≠ (getQueue s (64 * g + i)).tail))) s1)

/-- Every fetched descriptor of a queue completes with ABORTED at its cursor (R266). -/
def abortQueue (q : Nat) (s : State) : State :=
  let tags := (s.ops.filter (fun o => o.queue = q && decide (o.phase ≠ .done))).map (fun o => (o.tag, o.cursor))
  letIn (tags.foldl (fun s t => endOp t.1 (stopWith 0x50 t.2 0) s)
    (setQueue s q { getQueue s q with stopped := true }))

/-! ### Interrupts of queues (R288, R289) -/

/-- Send a queue's message and clear its count (R289). -/
def sendQueueIrq (q : Nat) (s : State) : State :=
  let x := getQueue s q
  sendMsix (bindFunc (getGroup s (groupOf q)).active.bind) x.entry.vector
    (setQueue s q { x with irqCount := 0, irqFirst := 0 })

/-- Count a completion of a queue whose IRQ_EN is 1, and send the message when it is due; the TIME_US in force now applies from
here on (R289). -/
def countIrq (q : Nat) (irqBit : Bool) (s : State) : State :=
  let x := getQueue s q
  let g := getGroup s (groupOf q)
  if !x.entry.irqEn then s
  else
    let n := x.irqCount + 1
    let s1 := setQueue s q { x with
      irqCount := n, irqFirst := if x.irqCount = 0 then s.time else x.irqFirst, irqTime := g.modTime }
    if irqBit || decide (max 1 g.modCount ≤ n) then sendQueueIrq q s1 else s1

/-! ### Configuration requests and the link (R258, R259) -/

/-- The vendor and device identifiers (R1). -/
def deviceId (s : State) : Nat := 0x9F00 + variantCode s.variant

/-- The value of an item of a function's configuration space (R1, R258); what is not listed is not implemented and reads 0 (log
entry 3). -/
def configValue (s : State) (func item : Nat) : Nat :=
  let f := getFunc s func
  match item with
  | 0 => b2n f.msixEnable
  | 1 => b2n f.msixMask
  | 2 => b2n f.atsEnable
  | 3 => b2n f.priEnable
  | 4 => f.priAlloc
  | 5 => f.numVfs
  | 6 => b2n f.d3hot
  | 7 => f.bar2Log2
  | 8 => deviceId s
  | 9 => s.fused.vendor % 2 ^ 16
  | 10 => s.fused.serial % 2 ^ 64
  | 11 => f.maxPayload
  | 12 => f.maxRead
  | 13 => b2n f.aspmL1
  | 14 => b2n f.l0p
  | 15 => b2n f.pasidEn
  | 16 => f.aer
  | 17 => 1
  | _ => 0

/-- A configuration write (R258, R260). Enabling PRI again ends its stop (R242); messages that are no longer masked
are sent (R288). -/
def configWrite (func item v : Nat) (s : State) : State :=
  let f := getFunc s func
  match item with
  | 0 => if v ≠ 0 then sendPending func (setFunc s func { f with msixEnable := true })
         else setFunc s func { f with msixEnable := false }
  | 1 => if v ≠ 0 then setFunc s func { f with msixMask := true }
         else sendPending func (setFunc s func { f with msixMask := false })
  | 2 => if v ≠ 0 then setFunc s func { f with atsEnable := true }
         else setFunc { s with ats := s.ats.filter (fun e => !(e.func = func)) } func { f with atsEnable := false }
  | 3 => setFunc s func { f with priEnable := decide (v ≠ 0), priStopped := f.priStopped && decide (v = 0) }
  | 4 => sendHeldPri func (setFunc s func { f with priAlloc := v })
  | 5 => if func = 0 ∧ v ≤ 63 then setFunc s func { f with numVfs := v } else s
  | 6 => if v = 0 ∨ v = 3 then setFunc s func { f with d3hot := decide (v = 3) } else s
  | 7 => if func = 0 ∧ 28 ≤ v ∧ v ≤ 36 then setFunc s func { f with bar2Log2 := v } else s
  | 11 => if v ∈ [128, 256, 512] then setFunc s func { f with maxPayload := v } else s
  | 12 => if v ∈ [128, 256, 512, 1024, 2048, 4096] then setFunc s func { f with maxRead := v } else s
  | 13 => setFunc s func { f with aspmL1 := decide (v ≠ 0) }
  | 14 => setFunc s func { f with l0p := decide (v ≠ 0) }
  | 15 => setFunc s func { f with pasidEn := decide (v ≠ 0) }
  | 16 => setFunc s func { f with aer := f.aer ^^^ (f.aer &&& v) }
  | _ => s

/-- A lane fails: the link retrains narrower, and HOST_DOWNSHIFT is recorded (R259). -/
def hostLaneFailOp (width : Nat) (s : State) : State :=
  if !s.link.up then s
  else
    let code := if width = 4 then 2 else 1
    let l := s.ice.now
    record 0x0601 0x03 (leBytes 1 code) { s with
      link := { s.link with up := false, training := true, widthLimit := min code s.link.widthLimit,
                            retrains := satAdd 0xFFFF s.link.retrains 1 }
      ice := { s.ice with now := { l with downshifts := l.downshifts + 1 } } }

/-- The link reaches L0, always in Flit mode; the accesses that waited for it go on (R258, R259). -/
def hostLinkUpOp (width rate : Nat) (flit : Bool) (s : State) : State :=
  if !s.link.training then s
  else if !flit then { s with link := { s.link with noFlit := true, training := false } }
  else
    retryPorts (wakeOps (fun o => o.wait = some .link) { s with
      link := { s.link with up := true, flit := true, noFlit := false, training := false, rate := rate,
                            width := min width s.link.widthLimit }
      queues := s.queues.map (fun e => match e.2.waitAddr with
        | some a => if isHost a then (e.1, { e.2 with waitAddr := none }) else e
        | none => e) })

/-- The link stays down past the host's completion timeout: host accesses in flight end with LINK_ERROR and the page address,
when the work issued has ended; queues whose rings wait on it stop, and commits whose tables do are rejected (R96, R259, R263,
R271, R283, R285). -/
def hostLinkLossOp (s : State) : State :=
  let s1 := { s with link := { s.link with up := false, flit := false, width := 0, rate := 0, training := true } }
  let waiting (o : Op) : Bool := o.phase = .suspended && isHost o.faultAddr
  let s2 := refuseTables (fun _ a => isHost a) ((s1.ops.filter waiting).foldl
    (fun s o => endIssued o.tag (stopWith 0x31 o.cursor (o.faultAddr / 4096 * 4096)) s) { s1 with pris := [] })
  failPorts (fun r _ => isHost r.addr) 0x31 <| (s2.queues.filterMap (fun e => match e.2.waitAddr with
      | some a => if isHost a then some (e.1, a) else none
      | none => none)).foldl (fun s x => stopQueue x.1 0x31 x.2 s) s2

/-! ### The commands -/

/-- SUBMISSION_DOORBELL (R270). -/
def execSubmissionDoorbell (func queue size : Nat) (value : W64) (s : State) : Host.Outcome State Fault Refusal :=
  .next (if s.st.standbyDone then doorbellOp func queue size value.toNat s else s)

/-- COMPLETION_HEAD_DOORBELL (R270, R271). -/
def execCompletionHeadDoorbell (func queue size : Nat) (value : W64) (s : State) :
    Host.Outcome State Fault Refusal :=
  .next (if s.st.standbyDone then doorbellOp func queue size value.toNat s else s)

/-- INTERRUPT_TIMER (R289). -/
def execInterruptTimer (queue : Nat) (s : State) : Host.Outcome State Fault Refusal :=
  .next (
    let x := getQueue s queue
    if x.irqCount = 0 ∨ x.irqTime = 0 ∨ x.entry.irqEn = false then s
    else sendQueueIrq queue (passTo (x.irqFirst + x.irqTime * 1000) s))

/-- VECTOR_UNMASK (R288). -/
def execVectorUnmask (func vector : Nat) (s : State) : Host.Outcome State Fault Refusal :=
  .next (
    let f := getFunc s func
    let (a, d, _) := tget (dflt (0, 0, true)) f.entries vector
    sendPending func (setFunc s func { f with entries := tset (dflt (0, 0, true)) f.entries vector (a, d, false) }))

/-- QGP_COMMIT (R263). -/
def execQgpCommit (group : Nat) (s : State) : Host.Outcome State Fault Refusal :=
  .next (if s.st.ready then qgpCommitOp group s else s)

/-- QGP_APPLY (R265). -/
def execQgpApply (group : Nat) (s : State) : Host.Outcome State Fault Refusal :=
  .next (qgpApplyOp group s)

/-- QGP_ABORT (R266). -/
def execQgpAbort (group : Nat) (queues : W64) (s : State) : Host.Outcome State Fault Refusal :=
  .next (if s.st.ready then (setBitsOf 64 queues.toNat).foldl (fun s i => abortQueue (64 * group + i) s) s else s)

/-- BAR2_READ (R261). -/
def execBar2Read (offset len : Nat) (s : State) : Host.Outcome State Fault Refusal :=
  .next (bar2ReadOp offset len s)

/-- BAR2_WRITE (R261). -/
def execBar2Write (offset : Nat) (data : List Byte) (s : State) : Host.Outcome State Fault Refusal :=
  .next (bar2WriteOp offset data s)

/-- CONFIGURATION_REQUEST (R258). -/
def execConfigurationRequest (func item : Nat) (write : Bool) (value : Nat) (s : State) :
    Host.Outcome State Fault Refusal :=
  .next (
    if !s.st.standbyDone || !funcEnabled s func then s
    else if write then configWrite func item value s
    else emit (.config func item (configValue s func item)) s)

/-- HOST_LANE_FAIL (R259). -/
def execHostLaneFail (width : Nat) (s : State) : Host.Outcome State Fault Refusal :=
  .next (hostLaneFailOp width s)

/-- HOST_LINK_UP (R258, R259). -/
def execHostLinkUp (width rate : Nat) (flit : Bool) (s : State) : Host.Outcome State Fault Refusal :=
  .next (hostLinkUpOp width rate flit s)

/-- HOST_LINK_LOSS (R259). -/
def execHostLinkLoss (s : State) : Host.Outcome State Fault Refusal :=
  .next (hostLinkLossOp s)

end Sys2Proof.Machine
end

