-- ==== Sys2Proof/Machine/Flags.lean ====
section
/-! DEFINITION. Flags and first offenders: what each is, the output blocks they belong to, and what a completion
carries of them (R53 to R57). -/

namespace Sys2Proof.Machine

/-! ### Flags (R53) -/

def fINVALID : Nat := 1
def fDIVZERO : Nat := 2
def fOVERFLOW : Nat := 4
def fUNDERFLOW : Nat := 8
def fINEXACT : Nat := 16
def fSAT : Nat := 32
def fNONFINITE : Nat := 64
def fEXPCLAMP : Nat := 128
def fUFZ : Nat := 256

/-- The flags that make OK into OK_FLAGGED (R55). -/
def fStatusMask : Nat := fINVALID + fDIVZERO + fOVERFLOW + fSAT + fNONFINITE + fEXPCLAMP

/-! ### First offender (R57) -/

/-- The first-offender record: TRANSPOSED, UNIT_KIND, UNIT_NUM, BLOCK_ROW, BLOCK_COL, ROW × 32 + COL, BATCH and
K_INDEX (R57). -/
def offenderRec (trans : Bool) (kind unitNum row col elem batch k : Nat) : Nat :=
  2 ^ 127 + b2n trans * 2 ^ 124 + kind % 4 * 2 ^ 122 + unitNum % 1024 * 2 ^ 112 + row % 2 ^ 24 * 2 ^ 88 +
    col % 2 ^ 24 * 2 ^ 64 + elem % 4096 * 2 ^ 52 + batch % 2 ^ 20 * 2 ^ 32 + k % 2 ^ 32

/-- The physical tile that carries a logical number. -/
def physOf (s : State) (l : Nat) : Option Nat := (s.tiles.find? (fun e => e.2.logical = some l)).map (·.1)

/-- The logical tiles in service, rising. -/
def activeTiles (s : State) : List Nat := sortNat (s.tiles.filterMap (fun e => e.2.logical))

/-- The logical tiles that a queue group's pin allows (R206). -/
def pinnedTiles (s : State) (g : Nat) : List Nat :=
  match (getGroup s g).tilePin with
  | none => activeTiles s
  | some m => (activeTiles s).filter (fun t => bit m t)

/-- The stacks that back a range of an address space. -/
def stacksUnder (s : State) (asid lo hi : Nat) : List Nat :=
  (runsIn s asid lo hi).flatMap (fun p => match p.stack with
    | some k => [k]
    | none => if p.kind = .backed then ((windowOf s p.phys).map (fun w => winStacks w.2)).getD [] else [])

/-- The dies that hold the affinity group in which all records of an operation lie (R204). -/
def affineDies (s : State) (o : Op) : Option (List Nat) :=
  let bases := o.recs.map (fun r => fieldAt r.2 0 8)
  let inGroup (g a : Nat) : Bool := (hintsAt s o.asid a).any (fun h => h.kind = 1 && h.arg = g)
  match (s.place.hints.filter (fun h => h.kind = 1 && h.asid = o.asid)).find? (fun h => bases.all (inGroup h.arg)) with
  | none => none
  | some h =>
    if bases.isEmpty then none
    else some ((s.place.hints.filter (fun x => x.kind = 1 && x.asid = o.asid && x.arg = h.arg)).flatMap (fun x =>
      (stacksUnder s o.asid x.base (x.base + x.len)).map (· / 8)))

/-- Of some tiles those on the dies of the operation's affinity group, as far as there are any (R204, R205). -/
def affineTiles (s : State) (o : Op) (l : List Nat) : List Nat := match affineDies s o with
  | none => l
  | some ds =>
    let near := l.filter (fun t => decide ((physOf s t).getD 0 / 72 ∈ ds))
    if near.isEmpty then l else near

/-- The lowest logical tile that serves, that the pin of an operation's queue group allows, and that its affinity group asks for
(R204, R206). -/
def lowestTile (s : State) (o : Op) : Nat := (affineTiles s o (pinnedTiles s (groupOf o.queue))).headD 0

/-- Whether a stack has a Floe engine in service. -/
def floeServes (s : State) (k : Nat) : Bool :=
  hasFloe s.variant && decide (k < numStacks s.variant) && (getStack s k).present && decide ((getFloe s k).retired.length < 4)

/-- Whether an operation between two of its commands has a part with state on the engines of a stack: one that a fault
suspended there, or pages that ATTEND has read (R144, R245). -/
def Op.partOn (o : Op) (k : Nat) : Bool :=
  (o.started && o.onFloe = some k && o.phase = .suspended) ||
    (o.phase != .done && o.kvSeen.any (fun x => x.floe && x.stack = k))

/-- The parts that hold engines of a stack: those whose state does not stand in the stack's state buffer (R144). -/
def floeParts (s : State) (k : Nat) : List Nat :=
  (s.ops.filter (fun o => o.partOn k && !decide (o.tag ∈ (getFloe s k).buffer))).map (·.tag)

/-- Whether an engine of a stack is free for a part of an operation, or runs it already. -/
def floeFree (s : State) (k tag : Nat) : Bool :=
  decide (((floeParts s k).filter (· ≠ tag)).length + (getFloe s k).retired.length < 4)

/-- The stacks whose engines an operation goes on with. -/
def Op.floeStacks (o : Op) : List Nat := o.onFloe.toList ++ (o.kvSeen.filter (fun x => x.floe)).map (fun x => x.stack)

/-- Formats that the engines accept (R142). -/
def floeFmt (f : Nat) : Bool := decide (f = 0x02 ∨ f = 0x10 ∨ f = 0x11 ∨ f = 0x20 ∨ f = 0x21 ∨ f = 0x30)

/-- UNIT_KIND and UNIT_NUM of the unit that runs an operation: a stack for Floe work, else the first tile that it was
given, else the lowest that could be (R57, R143; log entry 65). -/
def Op.offUnit (o : Op) (s : State) : Nat × Nat := match o.onFloe with
  | some k => (1, k)
  | none => (0, o.tiles.headD (lowestTile s o))

/-- K_INDEX where an operation has no reduction dimension (R57). -/
def noK : Nat := 2 ^ 32 - 1

/-- The first-offender record of an element at a place in the destination's order of runs; BATCH of an operation that is
no matrix product is 0 (R57; log entry 65). -/
def Op.offender1 (o : Op) (s : State) (pos k : Nat) : Nat :=
  let u := o.offUnit s
  offenderRec false u.1 u.2 (pos / 4096) 0 (pos % 4096) 0 k

/-- The unit that a record names, in the order of R57: tiles first, then Floe units. -/
def offUnitOf (r : Nat) : Nat := bits r 112 12

/-- A first-offender candidate is offered, with its place in its unit's processing order: a lower-numbered unit's record
stands, and of one unit the earlier (R57, R105). -/
def Op.offer (o : Op) (ord : Nat) (cand : Option Nat) : Op := match cand with
  | none => o
  | some r =>
    if o.offender = 0 ∨ offUnitOf r < offUnitOf o.offender ∨ (offUnitOf r = offUnitOf o.offender ∧ ord < o.offOrd) then
      { o with offender := r, offOrd := ord } else o

/-! ### Output blocks (R54, R55) -/

/-- The flags of the conversion to an error status keep to what was delivered: add the flags of a delivered block to
an operation (R54 to R56). -/
def Op.addBlock (o : Op) (key fl : Nat) : Op :=
  { o with flags := o.flags ||| fl
           blockFlags := tset (dflt 0) o.blockFlags key (tget (dflt 0) o.blockFlags key ||| fl) }

/-- FLAGGED_BLOCKS: output blocks in which any flag other than INEXACT is set (R55). -/
def Op.flaggedBlocks (o : Op) : Nat :=
  min (2 ^ 32 - 1) (o.blockFlags.filter (fun e => e.2 != 0 && e.2 != fINEXACT)).length

/-- Add the flags of a delivered element, by its place in the destination's order of runs of 4,096 (R54, R57). -/
def flagElem (tag pos fl k : Nat) (s : State) : State :=
  updOp tag (fun o => (o.addBlock (pos / 4096) fl).offer 0 (if bit fl 0 then some (o.offender1 s pos k) else none)) s

/-- A result of OK becomes OK_FLAGGED by the flags (R55). -/
def Op.finalStatus (o : Op) : Nat :=
  if o.result.status = 0 ∧ o.flags &&& fStatusMask ≠ 0 then 1 else o.result.status

end Sys2Proof.Machine
end

