-- ==== Sys2Proof/Machine/Numbers.lean ====
section
/-! DEFINITION. Number formats, conversions and IEEE arithmetic over exact values (R29 to R53). -/

namespace Sys2Proof.Machine

/-! ### Formats (R29, R30, R37) -/

/-- The parameters of a format code; none for B8, Q24, A56 and codes that R29 does not list. -/
def floatFmt (f : Nat) : Option FloatFmt := match f with
  | 0x01 => some ⟨53, 11, 1023⟩
  | 0x02 => some ⟨24, 8, 127⟩
  | 0x03 => some ⟨11, 5, 15⟩
  | 0x10 => some ⟨11, 8, 127⟩
  | 0x11 => some ⟨8, 8, 127⟩
  | 0x20 => some ⟨4, 4, 7⟩
  | 0x21 => some ⟨3, 5, 15⟩
  | 0x22 => some ⟨3, 3, 3⟩
  | 0x23 => some ⟨2, 2, 1⟩
  | _ => none

/-- The classes of R45. -/
def isIeee (f : Nat) : Bool := decide (f = 1 ∨ f = 2 ∨ f = 3)
def isW (f : Nat) : Bool := decide (f = 0x10 ∨ f = 0x11)
def isT (f : Nat) : Bool := decide (0x20 ≤ f ∧ f ≤ 0x23)

/-- Whether a code is one of R29. -/
def fmtListed (f : Nat) : Bool := isIeee f || isW f || isT f || decide (f = 0x30 ∨ f = 0x40 ∨ f = 0x41)

/-- Bytes of an element's container; T4 and T6 are packed (R30). -/
def fmtBytes (f : Nat) : Nat := match f with
  | 0x01 => 8 | 0x02 => 4 | 0x03 => 2 | 0x10 => 4 | 0x11 => 2 | 0x20 => 1 | 0x21 => 1 | 0x30 => 1 | 0x40 => 4
  | 0x41 => 8 | 0x22 => 3 | _ => 1

/-- The element in its container, and the container of an element (R30). -/
def fromContainer (f c : Nat) : Nat := match f with
  | 0x10 => c / 2 ^ 13 % 2 ^ 19
  | 0x40 => c % 2 ^ 24
  | 0x41 => c % 2 ^ 56
  | _ => c
def toContainer (f e : Nat) : Nat := match f with
  | 0x10 => e * 2 ^ 13
  | 0x40 => if bit e 23 then e + 0xFF000000 else e
  | 0x41 => if bit e 55 then e + 0xFF00000000000000 else e
  | _ => e

/-! ### Exact values -/

/-- A power of two with a signed exponent, as a fraction. -/
def pow2 (e : Int) : Nat × Nat := if 0 ≤ e then (2 ^ e.toNat, 1) else (1, 2 ^ (-e).toNat)

def XVal.zero : XVal := .fin false 0 1
def XVal.one : XVal := .fin false 1 1
def XVal.isNan : XVal → Bool
  | .nan _ _ => true | _ => false
def XVal.isInf : XVal → Bool
  | .inf _ => true | _ => false
def XVal.isFin : XVal → Bool
  | .fin _ _ _ => true | _ => false
def XVal.isZero : XVal → Bool
  | .fin _ n _ => n = 0 | _ => false
def XVal.neg : XVal → Bool
  | .fin s _ _ => s | .inf s => s | .nan s _ => s
/-- A signalling NaN (R32). -/
def XVal.isSnan : XVal → Bool
  | .nan _ f => !bit f 51 | _ => false
/-- Make a NaN quiet, with its payload. -/
def XVal.quiet : XVal → XVal
  | .nan s f => .nan s (f ||| 2 ^ 51)
  | x => x
/-- The default NaN (R32). -/
def XVal.dnan : XVal := .nan false (2 ^ 51)
def XVal.negate : XVal → XVal
  | .fin s n d => .fin (!s) n d
  | .inf s => .inf (!s)
  | .nan s f => .nan (!s) f
def XVal.abs : XVal → XVal
  | .fin _ n d => .fin false n d
  | .inf _ => .inf false
  | .nan _ f => .nan false f

/-- A finite value times a power of two. -/
def XVal.scale (x : XVal) (e : Int) : XVal := match x with
  | .fin s n d => let (a, b) := pow2 e
                  .fin s (n * a) (d * b)
  | x => x

/-- The exact product of finite values. -/
def mulFin (s : Bool) (n d : Nat) (t : Bool) (m e : Nat) : XVal := .fin (s != t) (n * m) (d * e)

/-- The exact sum of finite values; an exact zero of opposite signs is +0, or −0 when rounding down (IEEE 754). -/
def addFin (down : Bool) (s : Bool) (n d : Nat) (t : Bool) (m e : Nat) : XVal :=
  if n = 0 ∧ m = 0 then .fin (if s = t then s else down) 0 1
  else
    let a := n * e
    let b := m * d
    if s = t then .fin s (a + b) (d * e)
    else if a = b then .fin down 0 1
    else if b < a then .fin s (a - b) (d * e)
    else .fin t (b - a) (d * e)

/-- Compare the magnitudes of fractions. -/
def magLt (n d m e : Nat) : Bool := decide (n * e < m * d)

/-- Compare values that are no NaN, −0 equal to +0. -/
def xlt (x y : XVal) : Bool := match x, y with
  | .inf s, .inf t => s && !t
  | .inf s, .fin _ _ _ => s
  | .fin _ _ _, .inf t => !t
  | .fin s n d, .fin t m e =>
    if n = 0 ∧ m = 0 then false
    else if s && !t then decide (n ≠ 0 ∨ m ≠ 0)
    else if !s && t then false
    else if s then magLt m e n d else magLt n d m e
  | _, _ => false
def xeq (x y : XVal) : Bool := match x, y with
  | .inf s, .inf t => s = t
  | .fin s n d, .fin t m e => (n = 0 && m = 0) || (s = t && decide (n * e = m * d))
  | _, _ => false

/-! ### Decoding (R32, R35 to R37, R40, R41) -/

/-- The exact value of an element code of a format, before any scale. A B8 code 0xFF is +0 (R450). -/
def decodeElem (f c : Nat) : XVal :=
  match floatFmt f with
  | some p =>
    let m := c % 2 ^ (p.prec - 1)
    let e := c / 2 ^ (p.prec - 1) % 2 ^ p.ebits
    let s := bit c (p.prec - 1 + p.ebits)
    if !isT f && decide (e = 2 ^ p.ebits - 1) then
      if m = 0 then .inf s
      else
        let fr := m * 2 ^ (53 - p.prec)
        .nan s (if isW f then fr ||| 2 ^ 51 else fr)
    else if e = 0 then
      if isW f then .fin s 0 1
      else if m = 0 then .fin (s && !isT f) 0 1
      else (XVal.fin s m (2 ^ (p.prec - 1))).scale (1 - Int.ofNat p.bias)
    else (XVal.fin s (2 ^ (p.prec - 1) + m) (2 ^ (p.prec - 1))).scale (Int.ofNat e - Int.ofNat p.bias)
  | none =>
    if f = 0x30 then (if c = 0xFF then .fin false 0 1 else XVal.one.scale (Int.ofNat c - 127))
    else if f = 0x40 then .fin (bit c 23) (sext 24 c).natAbs (2 ^ 23)
    else .fin (bit c 55) (sext 56 c).natAbs (2 ^ 48)

/-! ### Rounding (R33, R42, R45, R46) -/

/-- The exponent of the leading bit of a positive fraction. -/
def floorLog2 (n d : Nat) : Int :=
  let e : Int := Int.ofNat (Nat.log2 n) - Int.ofNat (Nat.log2 d)
  let (a, b) := pow2 e
  if n * b < d * a then e - 1 else e

/-- A fraction in units of 2^x: the whole part, twice the rest, and the divisor of the rest. -/
def unitsOf (n d : Nat) (x : Int) : Nat × Nat × Nat :=
  let (a, b) := pow2 x
  let den := d * a
  (n * b / den, 2 * (n * b % den), den)

/-- Round a fraction to units of 2^x by a rounding attribute (R42): the integer, and whether it is inexact. -/
def roundUnits (rnd : Nat) (neg : Bool) (n d : Nat) (x : Int) : Nat × Bool :=
  let (q, r2, den) := unitsOf n d x
  let up : Bool := match rnd with
    | 0 => decide (den < r2) || (decide (r2 = den) && decide (q % 2 = 1))
    | 1 => decide (den ≤ r2)
    | 2 => false
    | 3 => !neg && decide (r2 ≠ 0)
    | _ => neg && decide (r2 ≠ 0)
  (if up then q + 1 else q, decide (r2 ≠ 0))

/-- The least exponent of a normal value and the greatest exponent. -/
def FloatFmt.emin (p : FloatFmt) : Int := 1 - Int.ofNat p.bias
def FloatFmt.emaxIeee (p : FloatFmt) : Int := Int.ofNat p.bias

/-- The code of sign, and of a significand in units of 2^x, where x is the unit that its exponent gives. -/
def packFloat (p : FloatFmt) (neg : Bool) (q : Nat) (x : Int) : Nat :=
  let top := 2 ^ (p.prec - 1)
  let sgn := b2n neg * 2 ^ (p.prec - 1 + p.ebits)
  let (q, x) := if q = 2 * top then (top, x + 1) else (q, x)
  if q < top then sgn + q
  else sgn + (x + Int.ofNat (p.prec - 1) + Int.ofNat p.bias).toNat * top + (q - top)

/-- The largest finite code, the infinity and the default NaN of an IEEE or W format, by sign. -/
def infCode (p : FloatFmt) (neg : Bool) : Nat := b2n neg * 2 ^ (p.prec - 1 + p.ebits) + (2 ^ p.ebits - 1) * 2 ^ (p.prec - 1)
def maxCode (p : FloatFmt) (neg : Bool) : Nat := infCode p neg - 1
def nanCode (p : FloatFmt) : Nat := infCode p false + 2 ^ (p.prec - 2)

/-- Round a finite value into an IEEE format: code and flags. Tininess is detected after rounding (R33). -/
def roundIeee (p : FloatFmt) (rnd : Nat) (neg : Bool) (n d : Nat) : Nat × Nat :=
  if n = 0 then (b2n neg * 2 ^ (p.prec - 1 + p.ebits), 0)
  else
    let e := floorLog2 n d
    let x := (if e < p.emin then p.emin else e) - Int.ofNat (p.prec - 1)
    let (q, inex) := roundUnits rnd neg n d x
    let eOut := if q = 2 ^ p.prec then e + 1 else e
    if p.emaxIeee < eOut then
      let toInf : Bool := match rnd with
        | 0 => true | 1 => true | 2 => false | 3 => !neg | _ => neg
      (if toInf then infCode p neg else maxCode p neg, fOVERFLOW + fINEXACT)
    else
      let (u, _) := roundUnits rnd neg n d (e - Int.ofNat (p.prec - 1))
      let tiny := decide (e < p.emin) && !(decide (u = 2 ^ p.prec) && decide (e + 1 = p.emin))
      (packFloat p neg q x, (if inex then fINEXACT else 0) + (if tiny && inex then fUNDERFLOW else 0))

/-- Round a finite value into a W format (R36, R45, R46). -/
def roundW (p : FloatFmt) (ovfInf : Bool) (neg : Bool) (n d : Nat) : Nat × Nat :=
  let sgn := b2n neg * 2 ^ (p.prec - 1 + p.ebits)
  if n = 0 then (sgn, 0)
  else
    let e := floorLog2 n d
    let (q, _) := roundUnits 1 neg n d (e - Int.ofNat (p.prec - 1))
    let eOut := if q = 2 ^ p.prec then e + 1 else e
    let (mn, md) := pow2 (p.emaxIeee - Int.ofNat (p.prec - 1))
    let beyond := magLt ((2 ^ p.prec - 1) * mn) md n d
    if beyond && !ovfInf then (maxCode p neg, fSAT)
    else if p.emaxIeee < eOut then (infCode p neg, fOVERFLOW)
    else if eOut < p.emin then (sgn, fUFZ)
    else (packFloat p neg q (e - Int.ofNat (p.prec - 1)), 0)

/-- The largest value of a T format is (2 − 2^(1 − prec)) × 2^(2^ebits − 1 − bias) (R37). -/
def maxT (p : FloatFmt) : Nat × Nat :=
  let (a, b) := pow2 (Int.ofNat (2 ^ p.ebits - 1) - Int.ofNat p.bias - Int.ofNat (p.prec - 1))
  ((2 ^ p.prec - 1) * a, b)

/-- Round a finite value into a T format (R45, R46). A zero result is +0 (R37). -/
def roundT (p : FloatFmt) (neg : Bool) (n d : Nat) : Nat × Nat :=
  let sgn := b2n neg * 2 ^ (p.prec - 1 + p.ebits)
  let top := 2 ^ (p.prec - 1 + p.ebits) - 1
  let (mn, md) := maxT p
  if n = 0 then (0, 0)
  else if magLt mn md n d then (sgn + top, fSAT)
  else
    let e := floorLog2 n d
    let x := (if e < p.emin then p.emin else e) - Int.ofNat (p.prec - 1)
    let (q, _) := roundUnits 1 neg n d x
    if q = 0 then (0, fUFZ) else (packFloat p neg q x, 0)

/-- Round a finite value into a fixed-point format of w bits with fraction bits fr (R41, R45, R46). -/
def roundFixed (w fr : Nat) (neg : Bool) (n d : Nat) : Nat × Nat :=
  let hi := 2 ^ (w - 1) - 1
  if n = 0 then (0, 0)
  else if neg then
    if magLt (2 ^ (w - 1)) (2 ^ fr) n d then (2 ^ (w - 1), fSAT)
    else
      let (q, _) := roundUnits 1 true n d (-(Int.ofNat fr))
      (wrapInt w (-(Int.ofNat q)), if q = 0 then fUFZ else 0)
  else if magLt hi (2 ^ fr) n d then (hi, fSAT)
  else
    let (q, _) := roundUnits 1 false n d (-(Int.ofNat fr))
    (q, if q = 0 then fUFZ else 0)

/-- Convert an exact value into a format: element code and flags (R45, R46). rnd and the W overflow mode come from
ARITH (R42). -/
def convert (f rnd : Nat) (wInf : Bool) (x : XVal) : Nat × Nat :=
  let inv := if x.isSnan then fINVALID else 0
  match floatFmt f with
  | some p =>
    if isT f then
      match x with
      | .fin s n d => roundT p s n d
      | .inf s => (b2n s * 2 ^ (p.prec - 1 + p.ebits) + (2 ^ (p.prec - 1 + p.ebits) - 1), fNONFINITE)
      | .nan _ _ => (0, fNONFINITE + inv)
    else if isW f then
      match x with
      | .fin s n d => roundW p wInf s n d
      | .inf s => (infCode p s, 0)
      | .nan _ _ => (nanCode p, inv)
    else
      match x with
      | .fin s n d => roundIeee p rnd s n d
      | .inf s => (infCode p s, 0)
      | .nan s fr => (infCode p s + (fr ||| 2 ^ 51) / 2 ^ (53 - p.prec), inv)
  | none =>
    let (w, fr) := if f = 0x40 then (24, 23) else (56, 48)
    match x with
    | .fin s n d => roundFixed w fr s n d
    | .inf s => (if s then 2 ^ (w - 1) else 2 ^ (w - 1) - 1, fNONFINITE)
    | .nan _ _ => (0, fNONFINITE + inv)

/-- Convert under an ARITH field (R42). -/
def convertA (f arith : Nat) (x : XVal) : Nat × Nat := convert f (bits arith 0 3) (bit arith 4) x

/-- The store path's zero: +0 unless KEEP_ZERO_SIGN, and always +0 in a T format (R43). -/
def storeZero (f arith : Nat) (code : Nat) : Nat :=
  match floatFmt f with
  | some p => if code = 2 ^ (p.prec - 1 + p.ebits) ∧ (bit arith 3 = false ∨ isT f = true) then 0 else code
  | none => code

/-! ### IEEE operations (R33, R34) -/

/-- The first NaN of some operands, quiet, with its payload; else the default NaN (R34). -/
def firstNan : List XVal → XVal
  | [] => XVal.dnan
  | x :: xs => if x.isNan then x.quiet else firstNan xs

/-- The flags of signalling operands. -/
def snanFlag (l : List XVal) : Nat := if l.any XVal.isSnan then fINVALID else 0

/-- An operation's NaN result: of the first NaN operand, or the default NaN in a sum (R34). -/
def nanResult (sum : Bool) (l : List XVal) : XVal := if sum then XVal.dnan else firstNan l

/-- Round a result that is no NaN into a format. -/
def finish (f rnd : Nat) (x : XVal) : XVal × Nat :=
  let (c, fl) := convert f rnd false x
  (decodeElem f c, fl)

/-- addition (R33). -/
def ieeeAdd (f rnd : Nat) (sum : Bool) (x y : XVal) : XVal × Nat :=
  match x, y with
  | .fin s n d, .fin t m e => finish f rnd (addFin (rnd = 4) s n d t m e)
  | .inf s, .inf t => if s = t then (.inf s, 0) else (XVal.dnan, fINVALID)
  | .inf s, .fin _ _ _ => (.inf s, 0)
  | .fin _ _ _, .inf t => (.inf t, 0)
  | x, y => (nanResult sum [x, y], snanFlag [x, y])

/-- subtraction: the first NaN keeps its sign (R33, R34). -/
def ieeeSub (f rnd : Nat) (x y : XVal) : XVal × Nat :=
  if x.isNan || y.isNan then (firstNan [x, y], snanFlag [x, y]) else ieeeAdd f rnd false x y.negate

/-- The exact product of two values that are no NaN; none: 0 × ∞. -/
def exactMul (x y : XVal) : Option XVal := match x, y with
  | .fin s n d, .fin t m e => some (mulFin s n d t m e)
  | .inf s, y => if y.isZero then none else some (.inf (s != y.neg))
  | x, .inf t => if x.isZero then none else some (.inf (x.neg != t))
  | _, _ => none

/-- multiplication (R33). -/
def ieeeMul (f rnd : Nat) (x y : XVal) : XVal × Nat :=
  if x.isNan || y.isNan then (firstNan [x, y], snanFlag [x, y])
  else match exactMul x y with
    | some (.fin s n d) => finish f rnd (.fin s n d)
    | some z => (z, 0)
    | none => (XVal.dnan, fINVALID)

/-- Add a value to an exact product, with one rounding: fusedMultiplyAdd (R33, R34). In a sum every NaN is the
default NaN. -/
def ieeeFma (f rnd : Nat) (sum : Bool) (a b c : XVal) : XVal × Nat :=
  if a.isNan || b.isNan then (nanResult sum [a, b, c], snanFlag [a, b, c])
  else match exactMul a b with
    | none => (if c.isNan then nanResult sum [c] else XVal.dnan, fINVALID)
    | some p =>
      if c.isNan then (nanResult sum [c], snanFlag [c])
      else match p, c with
        | .fin s n d, .fin t m e => finish f rnd (addFin (rnd = 4) s n d t m e)
        | .inf s, .inf t => if s = t then (.inf s, 0) else (XVal.dnan, fINVALID)
        | .inf s, _ => (.inf s, 0)
        | _, .inf t => (.inf t, 0)
        | _, _ => (XVal.dnan, 0)

/-- division (R33). -/
def ieeeDiv (f rnd : Nat) (x y : XVal) : XVal × Nat :=
  match x, y with
  | .fin s n d, .fin t m e =>
    if m = 0 then (if n = 0 then (XVal.dnan, fINVALID) else (.inf (s != t), fDIVZERO))
    else finish f rnd (.fin (s != t) (n * e) (d * m))
  | .inf s, .fin t _ _ => (.inf (s != t), 0)
  | .fin s _ _, .inf t => (.fin (s != t) 0 1, 0)
  | .inf _, .inf _ => (XVal.dnan, fINVALID)
  | x, y => (firstNan [x, y], snanFlag [x, y])

/-- The integer square root, bit by bit from bit i − 1. -/
def isqrtFrom (n : Nat) : Nat → Nat → Nat
  | 0, r => r
  | i + 1, r => isqrtFrom n i (if (r + 2 ^ i) * (r + 2 ^ i) ≤ n then r + 2 ^ i else r)
def isqrt (n : Nat) : Nat := isqrtFrom n (Nat.log2 n / 2 + 1) 0

/-- A fraction that rounds as the square root of n / d does: its leading 130 bits and a sticky bit. -/
def sqrtFrac (n d : Nat) : Nat × Nat :=
  let e := floorLog2 n d
  let k := (130 - e / 2).toNat
  let m := n * 2 ^ (2 * k) / d
  let r := isqrt m
  let exact := decide (r * r * d = n * 2 ^ (2 * k))
  (2 * r + (if exact then 0 else 1), 2 ^ (k + 1))

/-- squareRoot (R33). -/
def ieeeSqrt (f rnd : Nat) (x : XVal) : XVal × Nat :=
  match x with
  | .fin s n d =>
    if n = 0 then (.fin s 0 1, 0)
    else if s then (XVal.dnan, fINVALID)
    else let (a, b) := sqrtFrac n d
         finish f rnd (.fin false a b)
  | .inf s => if s then (XVal.dnan, fINVALID) else (.inf false, 0)
  | x => (firstNan [x], snanFlag [x])

/-- maximum and minimum of IEEE 754-2019 (R44). -/
def ieeeMax (sum : Bool) (x y : XVal) : XVal × Nat :=
  if x.isNan || y.isNan then (nanResult sum [x, y], snanFlag [x, y])
  else if x.isZero && y.isZero then (if x.neg then y else x, 0)
  else (if xlt x y then y else x, 0)
def ieeeMin (sum : Bool) (x y : XVal) : XVal × Nat :=
  if x.isNan || y.isNan then (nanResult sum [x, y], snanFlag [x, y])
  else if x.isZero && y.isZero then (if x.neg then x else y, 0)
  else (if xlt y x then y else x, 0)

/-! ### Products of the matrix engine (R47 to R52) -/

/-- One accumulation step in binary32 (R47): OVERFLOW and INVALID only. -/
def accStep (a b s : XVal) : XVal × Nat :=
  let (r, fl) := ieeeFma 2 0 true a b s
  (r, fl &&& (fINVALID + fOVERFLOW))

/-- The product without the piece products that FAST omits (R49, R52): significands of an operand of a format. -/
def sigOf (f c : Nat) : Nat × Nat × Nat :=
  let p := (floatFmt f).getD ⟨53, 11, 1023⟩
  let e := c / 2 ^ (p.prec - 1) % 2 ^ p.ebits
  let s := if e = 0 then c % 2 ^ (p.prec - 1) else c % 2 ^ (p.prec - 1) + 2 ^ (p.prec - 1)
  if f = 1 then (s / 2 ^ 35 * 2 ^ 35, s / 2 ^ 17 % 2 ^ 18 * 2 ^ 17, s % 2 ^ 17)
  else (s / 2 ^ 6 * 2 ^ 6, 0, s % 2 ^ 6)

/-- The magnitude that FAST omits from the product of two finite operands, as a fraction of the product's units
(R52). -/
def fastOmitted (f a b : Nat) : Nat :=
  let (_, am, al) := sigOf f a
  let (_, bm, bl) := sigOf f b
  am * bl + al * bm + al * bl

/-- One step of a binary64 or binary32 sum of products, exact or FAST (R50 to R52). Operands are element codes. -/
def sumStep (f rnd : Nat) (fast : Bool) (a b : Nat) (s : XVal) : XVal × Nat :=
  let x := decodeElem f a
  let y := decodeElem f b
  match fast, x, y with
  | true, .fin sx n d, .fin sy m e =>
    let (ah, am, al) := sigOf f a
    let (bh, bm, bl) := sigOf f b
    let whole := (ah + am + al) * (bh + bm + bl)
    let used := whole - fastOmitted f a b
    if whole = 0 then ieeeFma f rnd true x y s
    else ieeeFma f rnd true (.fin (sx != sy) (n * m * used) (d * e * whole)) XVal.one s
  | _, _, _ => ieeeFma f rnd true x y s

end Sys2Proof.Machine
end

