-- ==== Sys2Proof/Machine/Operands.lean ====
section
/-! DEFINITION. Operands: tensor records, element addresses, the load path, block exponents, scale lines, the store path and
the statistics record (R54 to R73, R169 to R176, R276). -/

namespace Sys2Proof.Machine

/-! ### Records (R169, R170, R276) -/

/-- The 128 bytes of a tensor record as its fields. -/
def parseTensor (bs : List Byte) : Tensor :=
  { base := fieldAt bs 0 8, format := fieldAt bs 8 1, rank := fieldAt bs 9 1, stamp := fieldAt bs 12 4
    dims := (List.range 5).map (fun i => fieldAt bs (16 + 4 * i) 4)
    strides := (List.range 5).map (fun i => sext 40 (fieldAt bs (36 + 5 * i) 5))
    scalePtr := fieldAt bs 64 8, tscale := fieldAt bs 72 4 }

def Tensor.dim (t : Tensor) (i : Nat) : Nat := t.dims.getD i 1
def Tensor.stride (t : Tensor) (i : Nat) : Int := t.strides.getD i 0

/-- The number of elements (R170). -/
def Tensor.count (t : Tensor) : Nat := t.dims.foldl (· * ·) 1

/-- The record of a record-field number (R448), as it was read at validation (R274). -/
def Op.rec? (o : Op) (place : Nat) : Option Tensor := (o.recs.find? (fun r => r.1 = place)).map (fun r => parseTensor r.2)
def Op.tensor (o : Op) (place : Nat) : Tensor := (o.rec? place).getD (parseTensor [])

/-- The coordinates of a linear index (R170). -/
def coordsOf : List Nat → Nat → List Nat
  | [], _ => []
  | d :: ds, l => l % d :: coordsOf ds (l / d)
def Tensor.coords (t : Tensor) (l : Nat) : List Nat := coordsOf t.dims l

/-- The linear index of coordinates (R170). -/
def Tensor.linear (t : Tensor) (c : List Nat) : Nat :=
  (t.dims.zip c).reverse.foldl (fun acc x => acc * x.1 + x.2) 0

/-- The place of an element in the order of output blocks: by increasing address within each dimension, innermost
first (R54; log entry 19). -/
def Tensor.runPos (t : Tensor) (l : Nat) : Nat :=
  let flip := (t.coords l).zipIdx.map (fun x => if t.stride x.2 < 0 then t.dim x.2 - 1 - x.1 else x.1)
  t.linear flip

/-- T4 and T6 are packed along dimension 0 (R30, R31). -/
def packed (f : Nat) : Bool := decide (f = 0x22 ∨ f = 0x23)

/-- Elements in a packing unit. -/
def unitElems (f : Nat) : Nat := if f = 0x23 then 2 else if f = 0x22 then 4 else 1

/-- The signed distance of an element's container, or packing unit, from the base (R169). -/
def Tensor.distance (t : Tensor) (c : List Nat) : Int :=
  let outer := (List.range 4).foldl (fun (a : Int) i => a + Int.ofNat (c.getD (i + 1) 0) * t.stride (i + 1)) 0
  if packed t.format then outer + Int.ofNat (c.getD 0 0 / unitElems t.format * fmtBytes t.format)
  else outer + Int.ofNat (c.getD 0 0) * t.stride 0

/-- The address of the container at some coordinates, as presented, and whether it stays in the address form's range
(R231). -/
def Tensor.addrAt (t : Tensor) (c : List Nat) : Nat × Bool :=
  let (a, ok1) := offsetAddr t.base (t.distance c)
  let (_, ok2) := offsetAddr t.base (t.distance c + Int.ofNat (fmtBytes t.format - 1))
  (a, ok1 && ok2)

/-- Read n bytes for an element, or why not; an address outside the form's range is a fault (R231). -/
def readElem (s : State) (w : Who) (a : Nat × Bool) (n : Nat) : Except Stop (List Byte) :=
  if a.2 then readV s w a.1 n else .error (.fault 0x20 a.1)

/-! ### Scale streams (R60, R64 to R68) -/

/-- The block of an element and the number of blocks (R65). -/
def Tensor.nb0 (t : Tensor) : Nat := ceilDiv (t.dim 0) 32
def Tensor.block (t : Tensor) (c : List Nat) : Nat :=
  c.getD 0 0 / 32 + t.nb0 * (c.getD 1 0 + t.dim 1 * (c.getD 2 0 + t.dim 2 * (c.getD 3 0 + t.dim 3 * c.getD 4 0)))
def Tensor.blocks (t : Tensor) : Nat := t.nb0 * t.dim 1 * t.dim 2 * t.dim 3 * t.dim 4

/-- The address of a block's scale line. -/
def Tensor.lineAddr (t : Tensor) (blk : Nat) : Nat := t.scalePtr + 64 * (blk / 56)

/-- The B8 code of a block, after the check of its line (R64, R68). -/
def blockScale (s : State) (w : Who) (t : Tensor) (blk : Nat) : Except Stop Nat :=
  if t.scalePtr = 0 then .ok 127
  else
    let a := t.lineAddr blk
    match readElem s w (a, addrOk a) 64 with
    | .error e => .error e
    | .ok l =>
      let first := fieldAt l 56 4
      let stamp := fieldAt l 60 4
      let want := 56 * (blk / 56)
      if first ≠ want ∨ (t.stamp ≠ 0 ∧ stamp ≠ t.stamp) then .error (.skew a want first t.stamp stamp)
      else .ok (fieldAt l (blk % 56) 1)

/-- The tensor scale as an exact value (R59). -/
def Tensor.scaleVal (t : Tensor) : XVal := decodeElem 2 t.tscale

/-- A decoded T element under its block code and tensor scale (R58); a code 0xFF gives +0 with NONFINITE_IN (R40). -/
def scaleElem (t : Tensor) (b : Nat) (x : XVal) : XVal × Nat :=
  if b = 0xFF then (XVal.zero, fNONFINITE)
  else match x.scale (Int.ofNat b - 127), t.scaleVal with
    | .fin s n d, .fin t' m e => (mulFin s n d t' m e, 0)
    | y, _ => (y, 0)

/-! ### The load path (R174) -/

/-- The element code inside its container bytes (R30). -/
def codeIn (f i0 : Nat) (bs : List Byte) : Nat :=
  let c := leNat bs
  if f = 0x23 then bits c (4 * (i0 % 2)) 4
  else if f = 0x22 then bits c (6 * (i0 % 4)) 6
  else fromContainer f c

/-- The code of an element. -/
def loadCode (s : State) (w : Who) (t : Tensor) (c : List Nat) : Except Stop Nat :=
  (readElem s w (t.addrAt c) (fmtBytes t.format)).map (codeIn t.format (c.getD 0 0))

/-- The exact value of an element and the flags that its decoding raises (R58, R174, R450). The scale line is checked
first. -/
def loadElem (s : State) (w : Who) (t : Tensor) (c : List Nat) : Except Stop (XVal × Nat) :=
  if isT t.format then
    match blockScale s w t (t.block c) with
    | .error e => .error e
    | .ok b => (loadCode s w t c).map (fun code => scaleElem t b (decodeElem t.format code))
  else (loadCode s w t c).map (fun code =>
    (decodeElem t.format code, if t.format = 0x30 ∧ code = 0xFF then fNONFINITE else 0))

/-! ### Block exponents and the store path (R61 to R64, R67, R175) -/

/-- The largest magnitude among finite values, divided by the tensor scale. -/
def blockMax (ts : XVal) (vs : List XVal) : Nat × Nat :=
  vs.foldl (fun (m : Nat × Nat) v => match v, ts with
    | .fin _ n d, .fin _ k e => if magLt m.1 m.2 (n * e) (d * k) then (n * e, d * k) else m
    | _, _ => m) (0, 1)

/-- The least e with a ≤ maxT × 2^e, for a positive fraction (R61). -/
def leastExp (p : FloatFmt) (a : Nat × Nat) : Int :=
  let (mn, md) := maxT p
  let n := a.1 * md
  let d := a.2 * mn
  let e := floorLog2 n d
  let (x, y) := pow2 e
  if n * y = d * x then e else e + 1

/-- The block code, and whether it was clamped at the top or at the bottom (R61). -/
def blockCode (f : Nat) (ts : XVal) (vs : List XVal) : Nat × Bool × Bool :=
  let a := blockMax ts vs
  match floatFmt f with
  | some p =>
    if a.1 = 0 then (127, false, false)
    else
      let b := leastExp p a + 127
      if 254 < b then (254, true, false) else if b < 0 then (0, false, true) else (b.toNat, false, false)
  | none => (127, false, false)

/-- A value divided by tensor scale and block scale (R61). -/
def unscale (ts : XVal) (b : Nat) (v : XVal) : XVal :=
  match v, ts with
  | .fin s n d, .fin _ m e => (XVal.fin s (n * e) (d * m)).scale (127 - Int.ofNat b)
  | v, _ => v

/-! ### Statistics (R70 to R73) -/

/-- Count one delivered element: value before conversion, value stored, flags of its conversion (R71, R72). -/
def countElem (v q : XVal) (fl : Nat) (st : Stats) : Stats :=
  match v with
  | .fin s n d =>
    let diff := match q with
      | .fin t m e => addFin false t m e (!s) n d
      | z => z
    let dr := (finish 1 0 diff).1
    let sq (x : XVal) : Nat := match x with
      | .fin _ a b => (convert 1 0 false (.fin false (a * a) (b * b))).1
      | y => (convert 1 0 false y.abs).1
    { st with
      elements := st.elements + 1
      sse := st.sse ++ [sq dr], ssq := st.ssq ++ [sq v]
      amax := max st.amax (convert 2 3 false (.fin false n d)).1
      sat := satAdd (2 ^ 32 - 1) st.sat (b2n (bit fl 5)), ufz := satAdd (2 ^ 32 - 1) st.ufz (b2n (bit fl 8)) }
  | _ => { st with nonfinite := satAdd (2 ^ 32 - 1) st.nonfinite 1 }

/-- Count one block code that was written (R71). -/
def countBlock (b : Nat) (hi lo : Bool) (st : Stats) : Stats :=
  { st with blocks := satAdd (2 ^ 32 - 1) st.blocks 1, bexpMin := min st.bexpMin b, bexpMax := max st.bexpMax b
            clampHi := satAdd (2 ^ 32 - 1) st.clampHi (b2n hi), clampLo := satAdd (2 ^ 32 - 1) st.clampLo (b2n lo) }

/-- Terms added one by one to a running sum, each addition one binary64 addition, in an order that placement chooses: an open
value picks the term that comes next (R72; log entry 18). -/
def addInOrder (acc : XVal) (terms : List XVal) (s : State) : Nat → Nat × State
  | 0 => ((convert 1 0 false acc).1, s)
  | left + 1 =>
    let (x, s1) := takeFree 64 s
    let i := x.toNat % max 1 terms.length
    addInOrder (ieeeAdd 1 0 true acc (terms.getD i (.fin false 0 1))).1 (terms.eraseIdx i) s1 left

/-- The sum of non-negative binary64 terms in an order that placement chooses: where every order gives the exact sum, that
sum (R72; log entry 18). -/
def openSum (codes : List Nat) (s : State) : Nat × State :=
  let vs := (codes.map (decodeElem 1)).filter (fun x => !x.isZero)
  let big := vs.any (fun x => !x.isFin)
  let den := vs.foldl (fun m x => match x with
    | .fin _ _ d => max m d
    | _ => m) 1
  let ints := vs.map (fun x => match x with
    | .fin _ n d => n * (den / d)
    | _ => 0)
  let total := ints.foldl (· + ·) 0
  let unit := ints.foldl Nat.gcd 0
  if big then (infCode ⟨53, 11, 1023⟩ false, s)
  else if vs.length ≤ 2 ∨ total < 2 ^ 53 * unit then ((convert 1 0 false (.fin false total den)).1, s)
  else addInOrder (.fin false 0 1) vs s vs.length

/-- The 64 bytes of a statistics record (R71). -/
def statsBytes (t : Tensor) (complete : Bool) (st : Stats) (s : State) : List Byte × State :=
  let (sse, s1) := openSum st.sse s
  let (ssq, s2) := openSum st.ssq s1
  (leBytes 8 st.elements ++ leBytes 8 sse ++ leBytes 8 ssq ++ leBytes 4 st.amax ++ leBytes 4 st.sat ++
    leBytes 4 st.ufz ++ leBytes 4 st.nonfinite ++ leBytes 4 st.blocks ++ leBytes 4 st.clampHi ++
    leBytes 4 st.clampLo ++ leBytes 1 st.bexpMin ++ leBytes 1 st.bexpMax ++ leBytes 1 t.format ++
    leBytes 1 (b2n complete) ++ leBytes 4 t.stamp ++ leBytes 4 0, s2)

/-! ### Delivery (R63, R171, R175) -/

/-- What the store path makes of one value for a destination that is no T tensor: container bytes, stored value,
flags. -/
def storeVal (f arith : Nat) (v : XVal) : Nat × XVal × Nat :=
  let (c, fl) := convertA f arith v
  let c' := storeZero f arith c
  (toContainer f c', decodeElem f c', fl)

/-- Check that a list of writes can all be made, then make them. -/
def writeAll (w : Who) (l : List (Nat × Bool × List Byte)) (s : State) : Except Stop State :=
  match l.findSome? (fun x => if x.2.1 then checkV s w true (x.2.2.length / 64 + 2) x.1 x.2.2.length
                              else some (.fault 0x20 x.1)) with
  | some e => .error e
  | none => .ok (l.foldl (fun s x => storeV w (x.2.2.length / 64 + 2) x.1 x.2.2 s) s)

/-- The writes that put a run of element codes of one row into memory, from coordinates c on: packing units whole,
unused slots 0 (R31). -/
def codeWrites (t : Tensor) (c : List Nat) (codes : List Nat) : List (Nat × Bool × List Byte) :=
  let i0 := c.getD 0 0
  let k := unitElems t.format
  (List.range (ceilDiv codes.length k)).map (fun u =>
    let c' := (i0 + u * k) :: c.drop 1
    let (a, okay) := t.addrAt c'
    let part := (codes.drop (u * k)).take k
    let v := if t.format = 0x23 then part.getD 0 0 + 16 * part.getD 1 0
      else if t.format = 0x22 then (List.range 4).foldl (fun acc i => acc + part.getD i 0 * 2 ^ (6 * i)) 0
      else toContainer t.format (part.getD 0 0)
    (a, okay, leBytes (fmtBytes t.format) v))

/-- The writes of a block's scale byte with its line's tag; the bytes beyond the last block are 0xFF (R66, R67). -/
def scaleWrites (t : Tensor) (blk b : Nat) : List (Nat × Bool × List Byte) :=
  if t.scalePtr = 0 then []
  else
    let a := t.lineAddr blk
    let first := 56 * (blk / 56)
    let tail := t.blocks - first
    [(a + blk % 56, addrOk a, leBytes 1 b), (a + 56, addrOk a, leBytes 4 first ++ leBytes 4 t.stamp)] ++
      (if tail < 56 then [(a + tail, addrOk a, fill (56 - tail) 0xFF)] else [])

/-- Change the i-th statistics of an operation. -/
def updStats (tag i : Nat) (f : Stats → Stats) (s : State) : State :=
  updOp tag (fun o => { o with stats := tset (dflt {}) o.stats i (f (tget (dflt {}) o.stats i)) }) s

/-- The codes, stored values and flags of a block of a T tensor, with its code and clamps (R61, R62, R64). -/
def blockStore (t : Tensor) (vs : List XVal) : List (Nat × XVal × Nat) × Nat × Bool × Bool :=
  let ts := t.scaleVal
  let (b, hi, lo) := if t.scalePtr = 0 then (127, false, false) else blockCode t.format ts vs
  (vs.map (fun v =>
    let (c, fl) := convert t.format 0 false (unscale ts b v)
    (c, (scaleElem t b (decodeElem t.format c)).1, fl)), b, hi, lo)

/-- An operation that works in place keeps the bytes, by their virtual address, that a delivery is about to write over for the
first time (R173). -/
def keepOld (tag : Nat) (l : List (Nat × Bool × List Byte)) (s : State) : State :=
  match findOp s tag with
  | some o =>
    if o.inPlace then
      let keep (t : Table Byte) (a : Nat) : Table Byte := match tfind a t, readV s (whoOf o) a 1 with
        | none, .ok [b] => tinsert a b t
        | _, _ => t
      setOp s { o with old := l.foldl (fun t x => (List.range x.2.2.length).foldl (fun t i => keep t (x.1 + i)) t) o.old }
    else s
  | none => s

/-- The state as the sources of an operation are read from it: an operation that works in place reads each element as it was
before it wrote it (R173). -/
def Op.original (o : Op) (s : State) : State := o.old.foldl (fun s e => storeV (whoOf o) 1 e.1 [e.2] s) s

/-- Deliver a run of values of one row of the destination: one element of a plain format, or one whole block of a T
format (R63). Each value comes with the flags of its computation and the index of the term that raised INVALID; note
takes the flags of each element; write makes the writes. EXP_CLAMP of a clamped block goes to every element of it, and so
to both output blocks where it lies in two runs of 4,096 (DESIGN CHOICE, log entry 65). -/
def deliverBy (write : List (Nat × Bool × List Byte) → State → Except Stop State) (note : Nat → Nat → Nat → State → State)
    (tag arith statIx l : Nat) (t : Tensor) (vs : List (XVal × Nat × Nat)) (s : State) : Except Stop State :=
  let c := t.coords l
  let put (es : List (Nat × XVal × Nat)) (more : Nat) (s1 : State) : State :=
    ((vs.zip es).zipIdx).foldl (fun s x =>
      let ((v, fl, k), (_, q, fe)) := x.1
      note (l + x.2) (fl ||| fe ||| more) k (updStats tag statIx (countElem v q fe) s)) s1
  if isT t.format then
    let (es, b, hi, lo) := blockStore t (vs.map (·.1))
    let blk := t.block c
    match write (codeWrites t c (es.map (·.1)) ++ scaleWrites t blk b) s with
    | .error e => .error e
    | .ok s1 =>
      .ok (put es (if hi || lo then fEXPCLAMP else 0)
        (if t.scalePtr = 0 then s1 else updStats tag statIx (countBlock b hi lo) s1))
  else
    let es := vs.map (fun v => storeVal t.format arith v.1)
    match write (codeWrites t c (es.map (fun e => fromContainer t.format e.1))) s with
    | .error e => .error e
    | .ok s1 => .ok (put es 0 s1)

/-- Delivery into this device's memory. -/
def deliverWith (note : Nat → Nat → Nat → State → State) (tag : Nat) (w : Who) (arith statIx l : Nat) (t : Tensor)
    (vs : List (XVal × Nat × Nat)) (s : State) : Except Stop State :=
  deliverBy (fun ws s => writeAll w ws (keepOld tag ws s)) note tag arith statIx l t vs s

/-- As deliverWith, for the output blocks of 4,096 elements of an operation that is no matrix product (R54). -/
def deliver (tag : Nat) (w : Who) (arith statIx l : Nat) (t : Tensor) (vs : List (XVal × Nat × Nat)) (s : State) :
    Except Stop State :=
  deliverWith (fun l fl k => flagElem tag (t.runPos l) fl k) tag w arith statIx l t vs s

/-- How many elements one delivery takes at a linear index of a destination (R63). -/
def deliverLen (t : Tensor) (l : Nat) : Nat :=
  if isT t.format then min (32 - l % t.dim 0 % 32) (t.dim 0 - l % t.dim 0) else 1

/-- Compute the values of a run of destination elements. -/
def valuesOf (f : Nat → Except Stop (XVal × Nat × Nat)) : Nat → Nat → Except Stop (List (XVal × Nat × Nat))
  | 0, _ => .ok []
  | n + 1, l => match f l with
    | .error e => .error e
    | .ok v => (valuesOf f n (l + 1)).map (fun vs => v :: vs)

/-- Run an operation over its elements in increasing order from its cursor: each act delivers the run of elements
that it is given; then the cursor moves. A stop leaves the cursor where it is; the second part of a stop says whether
it was a write (R171, R246, R248). -/
def driveBy (tag total : Nat) (len : Nat → Nat) (act : Op → Nat → Nat → State → Except (Stop × Bool) State) :
    Nat → State → State
  | 0, s => s
  | fuel + 1, s =>
    match findOp s tag with
    | none => s
    | some o =>
      if total ≤ o.cursor then endOp tag { cursor := o.cursor } s
      else
        let n := len o.cursor
        match act o o.cursor n s with
        | .error e => stopOp tag e.1 e.2 s
        | .ok s1 => driveBy tag total len act fuel (updOp tag (fun o => { o with cursor := o.cursor + n }) s1)

/-- Compute a run of values from the sources as they were and deliver it. -/
def actVal (tag : Nat) (t : Tensor) (arith : Nat) (val : State → Op → Nat → Except Stop (XVal × Nat × Nat))
    (o : Op) (l n : Nat) (s : State) : Except (Stop × Bool) State :=
  match valuesOf (val (o.original s) o) n l with
  | .error e => .error (e, false)
  | .ok vs => (deliver tag (whoOf o) arith 0 l t vs s).mapError (fun e => (e, true))

/-- Run an operation over its destination: compute, deliver, move the cursor. -/
def drive (tag : Nat) (t : Tensor) (arith : Nat) (val : State → Op → Nat → Except Stop (XVal × Nat × Nat))
    (s : State) : State :=
  driveBy tag t.count (deliverLen t) (actVal tag t arith val) (t.count + 1) s

/-- End an operation that has had no effect with a status of 0x10 or above (R286): no statistics are written. -/
def refuseOp (tag status : Nat) (s : State) : State :=
  updOp tag (fun o => { o with started := false }) (endOp tag (stopWith status 0 0) s)

/-- The physical tile that a unit's accesses are charged to (R245): the first that an operation was given, else the lowest
that could be. -/
def Op.unitPhys (o : Op) (s : State) : Nat := (physOf s (o.offUnit s).2).getD 0

/-- The stack that holds the byte at an address, if an access finds it in one (R141). -/
def stackAt (s : State) (o : Op) (a : Nat) : Option Nat := match translate s (whoOf o) false a with
  | .phys q => (localOf s q).map (·.1)
  | _ => none

/-- Whether elements of a tensor, with their scale lines, lie within a stack. -/
def elemsWithin (s : State) (o : Op) (k : Nat) (t : Tensor) (ls : List Nat) : Bool :=
  ls.all (fun l =>
    let c := t.coords l
    let a := (t.addrAt c).1
    stackAt s o a = some k && stackAt s o (a + fmtBytes t.format - 1) = some k &&
      (!isT t.format || t.scalePtr = 0 || stackAt s o (t.scalePtr + 64 * (t.block c / 56)) = some k))

/-- The operations of R141 that the model runs as one part: CONVERT, ELEMWISE, REDUCE, OPTSTEP, and COPY with gather or
scatter. -/
def Op.onePart (o : Op) : Bool := decide (o.opc ∈ [0x02, 0x18, 0x19, 0x28]) || (o.opc = 0x01 && o.fld 48 1 ≠ 0)

/-- Whether the index list of a gather or scatter lies within a stack (R141, R277). -/
def indexWithin (s : State) (o : Op) (k : Nat) : Bool :=
  let form := o.fld 48 1
  let width := o.fld 49 1
  !decide (o.opc ∈ [0x01, 0x02]) || form = 0 ||
    (List.range (o.tensor (if form = 1 then 2 else 1)).count).all (fun n =>
      stackAt s o (o.fld 40 8 + n * width) = some k && stackAt s o (o.fld 40 8 + n * width + width - 1) = some k)

/-- The stack whose engines run an operation that leaves the choice to the Ringmaster: the one that holds every byte of
its operands, its index list and its destinations, in formats that the engines take (R141 to R143; log entry 71). -/
def wholeStack (s : State) (o : Op) : Option Nat :=
  let ts := o.recs.map (fun r => parseTensor r.2)
  if !o.onePart || !(ts.all (fun t => floeFmt t.format)) then none
  else match ts with
    | [] => none
    | t :: _ => (stackAt s o t.base).bind (fun k =>
        if floeServes s k && ts.all (fun t => elemsWithin s o k t (List.range t.count)) && indexWithin s o k then some k
        else none)

/-- Where an operation runs: the choice between Floe engines and tiles is made as it begins, and stands (R193). -/
def Op.placed (o : Op) (s : State) : Op :=
  if o.unit = 0 && o.onePart && !o.started then { o with onFloe := wholeStack s o } else o

/-- The units that carry an operation (R189). -/
def Op.workUnits (o : Op) (s : State) : List Nat := netUnit :: match o.onFloe with
  | some k => (List.range 4).map (floeUnit k)
  | none => [tileUnit (o.unitPhys s) 5]

/-- The lowest engine in service of a stack (R245). -/
def firstEngine (s : State) (k : Nat) : Nat :=
  ((List.range 4).find? (fun e => !decide (e ∈ (getFloe s k).retired))).getD 0

/-- What an operation's accesses are charged to: a physical tile, or the engine of its stack (R245). -/
def Op.unitIndex (o : Op) (s : State) : Nat := match o.onFloe with
  | some k => firstEngine s k
  | none => o.unitPhys s

/-- A part runs on the engines of a stack, or on a tile (R141, R245). -/
def Op.runsPart (o : Op) (s : State) (k : Option Nat) : Op :=
  let o1 := { o with onFloe := k }
  { o1 with phys := o1.unitIndex s }

/-- An operation as it begins or goes on: where it runs, the tile that its accesses are charged to, and its place in the order
in which operations began (R250). -/
def Op.begun (o : Op) (s : State) : Op :=
  { o.placed s with
    started := true, phys := (o.placed s).unitIndex s
    began := if o.started then o.began else 1 + s.ops.foldl (fun n x => max n x.began) 0 }

/-- An operation begins, or goes on, on its units; its state leaves the buffers (R144). -/
def beginOp (o : Op) (s : State) : State :=
  markWork ((o.placed s).workUnits s) (leaveBuffers o.tag (setOp s (o.begun s)))

/-- Whether an operation finds its units: one on Floe engines waits for a free engine, and the transfers of one on tiles wait
while the 16 slots of its tile are full (R144, R166). -/
def Op.slotFree (o : Op) (s : State) : Bool :=
  (o.placed s).floeStacks.all (fun k => floeFree s k o.tag) && ((o.placed s).onFloe.isSome || !decide (o.opc ∈ [0x01, 0x02, 0x03, 0x18, 0x19, 0x1A, 0x21, 0x28, 0x38]) ||
    decide ((getTile s ((o.placed s).unitPhys s)).xfers.length < 16))

/-- Begin, or go on with, an operation that is ready, passes a test and finds its units; anything else is unchanged. No
operation begins while a configuration is applied (R386). -/
def runWhen (tag : Nat) (p : Op → Bool) (f : Op → State → State) (s : State) : State :=
  match findOp s tag with
  | some o =>
    if o.phase = .ready && p o && (s.cfg.applying.isNone || o.started) && o.slotFree s then f (o.placed s) (beginOp o s) else s
  | none => s

/-- Begin, or go on with, an operation that is ready and has an opcode. -/
def runOp (tag : Nat) (codes : List Nat) (f : Op → State → State) (s : State) : State :=
  runWhen tag (fun o => decide (o.opc ∈ codes)) f s

end Sys2Proof.Machine
end

