-- ==== Sys2Proof/Machine/Helpers.lean ====
section
/-! DEFINITION. The comparison predicates and the transcendental helpers, which ELEMWISE, the vector engine and
ATTEND share (R44, R128, R136, R137). -/

namespace Sys2Proof.Machine

/-! ### Predicates (R44, R128) -/

/-- The predicate of a VCMP MODE on two values, and its flags: the signalling ones raise INVALID for any NaN. -/
def cmpPred (mode : Nat) (x y : XVal) : Bool × Nat :=
  let un := x.isNan || y.isNan
  let quiet := snanFlag [x, y]
  let loud := if un then fINVALID else 0
  match mode with
  | 0 => (!un && xeq x y, quiet)
  | 1 => (un || !xeq x y, quiet)
  | 2 => (!un && xlt x y, loud)
  | 3 => (!un && (xlt x y || xeq x y), loud)
  | 4 => (!un && xlt y x, loud)
  | 5 => (!un && (xlt y x || xeq x y), loud)
  | _ => (un, quiet)

/-! ### Reference values (R136) -/

/-- Cut a fraction to a multiple of 2^-p. -/
def cutFrac (p n d : Nat) : Nat := n * 2 ^ p / d

/-- 2 to the power 2^-i in units of 2^-128, for i = 1, 2, …: each is the square root of the one before. -/
def rootTwo : Nat → Nat
  | 0 => 2 ^ 129
  | i + 1 => isqrt (rootTwo i * 2 ^ 128)

/-- 2^f for f = m / 2^96 in [0, 1), in units of 2^-128: the product over the set bits of m. -/
def exp2Frac (m : Nat) : Nat :=
  (List.range 96).foldl (fun acc i => if bit m (95 - i) then acc * rootTwo (i + 1) / 2 ^ 128 else acc) (2 ^ 128)

/-- A fraction close to 2^x for a finite x. -/
def exp2Ref (neg : Bool) (n d : Nat) : Nat × Nat :=
  let whole : Int := if neg then -(Int.ofNat (ceilDiv n d)) else Int.ofNat (n / d)
  let rest := if neg then ceilDiv n d * d - n else n % d
  let (a, b) := pow2 (whole - 128)
  (exp2Frac (cutFrac 96 rest d) * a, b)

/-- The first bits of log2 of a mantissa in [1, 2) given in units of 2^-160: square, and note whether it passes 2. -/
def log2Bits : Nat → Nat → Nat → Nat
  | 0, _, acc => acc
  | k + 1, m, acc =>
    let q := m * m / 2 ^ 160
    if 2 ^ 161 ≤ q then log2Bits k (q / 2) (2 * acc + 1) else log2Bits k q (2 * acc)

/-- A signed fraction close to log2 of a positive fraction, to 60 bits after the point. -/
def log2Ref (n d : Nat) : XVal :=
  let e := floorLog2 n d
  let (a, b) := pow2 e
  let m := n * b * 2 ^ 160 / (d * a)
  let v : Int := e * 2 ^ 60 + Int.ofNat (log2Bits 60 m 0)
  .fin (decide (v < 0)) v.natAbs (2 ^ 60)

/-! ### The bound (R136; log entry 5) -/

/-- Whether two finite values differ by less than a positive fraction. -/
def nearer (x y : XVal) (bn bd : Nat) : Bool := match x, y with
  | .fin s n d, .fin t m e => match addFin false s n d (!t) m e with
    | .fin _ a b => magLt a b bn bd
    | _ => false
  | _, _ => false

/-- The unit in the last place of binary32 at an exact result. -/
def ulp32 (x : XVal) : Nat × Nat := match x with
  | .fin _ n d => if n = 0 then pow2 (-149) else pow2 (max (floorLog2 n d) (-126) - 23)
  | _ => (1, 1)

/-- What a helper returns for an operand whose exact result is close to y: its own answer where that keeps the bound,
else the nearest value. -/
def heldTo (h c : Nat) (y : XVal) (bn bd : Nat) : Nat :=
  let r := (Config.helper h (BitVec.ofNat 32 c)).toNat
  if nearer (decodeElem 2 r) y bn bd then r else (convert 2 0 false y).1

/-- UNDERFLOW for a subnormal result (R137). -/
def subFlag (code : Nat) : Nat := if bits code 23 8 = 0 then fUNDERFLOW else 0

/-- A helper's result code and flags: 0 VEXP2, 1 VLOG2, 2 VRCP, 3 VRSQRT (R136, R137). -/
def helper32 (h c : Nat) : Nat × Nat :=
  let x := decodeElem 2 c
  let enc (v : XVal) : Nat := (convert 2 0 false v).1
  match x with
  | .nan _ _ => (enc x.quiet, snanFlag [x])
  | .inf s => match h with
    | 0 => (if s then enc XVal.zero else enc (.inf false), 0)
    | 1 => if s then (enc XVal.dnan, fINVALID) else (enc (.inf false), 0)
    | 2 => (enc (.fin s 0 1), 0)
    | _ => if s then (enc XVal.dnan, fINVALID) else (enc XVal.zero, 0)
  | .fin s n d =>
    match h with
    | 0 =>
      if !s && decide (128 * d ≤ n) then (enc (.inf false), fOVERFLOW)
      else if s && decide (149 * d < n) then (enc XVal.zero, fUNDERFLOW)
      else if n % d = 0 then
        let (a, b) := pow2 (if s then -(Int.ofNat (n / d)) else Int.ofNat (n / d))
        let r := enc (.fin false a b)
        (r, subFlag r)
      else
        let (a, b) := exp2Ref s n d
        let y := XVal.fin false a b
        let r := heldTo h c y (2 * (ulp32 y).1) (ulp32 y).2
        (r, subFlag r)
    | 1 =>
      if n = 0 then (enc (.inf true), fDIVZERO)
      else if s then (enc XVal.dnan, fINVALID)
      else
        let e := floorLog2 n d
        let (a, b) := pow2 e
        if n * b = d * a then (enc (.fin (decide (e < 0)) e.natAbs 1), 0)
        else
          let y := log2Ref n d
          let bound := if e = 0 ∨ e = -1 then pow2 (-22) else (2 * (ulp32 y).1, (ulp32 y).2)
          let r := heldTo h c y bound.1 bound.2
          (r, if r % 2 ^ 31 = 0 then 0 else subFlag r)
    | 2 =>
      if n = 0 then (enc (.inf s), fDIVZERO)
      else if decide (d ≥ n * 2 ^ 128) then (enc (.inf s), fOVERFLOW)
      else
        let y := XVal.fin s d n
        let r := heldTo h c y (ulp32 y).1 (ulp32 y).2
        (r, subFlag r)
    | _ =>
      if n = 0 then (enc (.inf s), fDIVZERO)
      else if s then (enc XVal.dnan, fINVALID)
      else
        let (a, b) := sqrtFrac d n
        let y := XVal.fin false a b
        (heldTo h c y (ulp32 y).1 (ulp32 y).2, 0)

/-- A helper on an exact binary32 value. -/
def helperVal (h : Nat) (x : XVal) : XVal × Nat :=
  let (r, fl) := helper32 h (convert 2 0 false x).1
  (decodeElem 2 r, fl)

/-! ### Orders of combination (R33, R158, R279, R344) -/

/-- The order that combines n terms one after the other. -/
def seqOrder : Nat → List Nat
  | 0 => []
  | 1 => [1]
  | n + 1 => seqOrder n ++ [n + 1, 0]

/-- Run an order: 0 combines the two topmost partial results, i + 1 takes term i. -/
def runOrder {α : Type} (comb : α → α → α) (term : Nat → Option α) : List Nat → List α → Option α
  | [], [x] => some x
  | [], _ => none
  | 0 :: ts, y :: x :: st => runOrder comb term ts (comb x y :: st)
  | 0 :: _, _ => none
  | (i + 1) :: ts, st => match term i with
    | some x => runOrder comb term ts (x :: st)
    | none => none

/-- Whether an order takes each of n terms once. -/
def orderOk (n : Nat) (order : List Nat) : Bool :=
  decide (sortNat ((order.filter (· ≠ 0)).map (· - 1)) = List.range n) &&
    decide ((order.filter (· ≠ 0)).length = n)

/-- Combine terms in an order of placement's choice; an order that is none combines them in turn. -/
def combineBy {α : Type} (comb : α → α → α) (terms : List α) (order : List Nat) : Option α :=
  let go (o : List Nat) := runOrder comb (fun i => terms[i]?) o []
  if orderOk terms.length order then (match go order with
    | some x => some x
    | none => go (seqOrder terms.length)) else go (seqOrder terms.length)

end Sys2Proof.Machine
end

