-- ==== Sys2Proof/Machine/Moves.lean ====
section
/-! DEFINITION. Data movement and elementwise work: NOP, COPY, CONVERT, gather, scatter, FILL, ELEMWISE, REDUCE and
SCAN (R161, R170 to R176, R273, R276 to R279, R450). -/

namespace Sys2Proof.Machine

/-! ### Byte copies (R176) -/

/-- Whether a COPY, in any of its forms, is a byte copy: equal formats, and for a T format equal tensor scales and equal d0
(R176; log entry 20). -/
def byteCopy (o : Op) (a b : Tensor) : Bool :=
  o.opc = 1 && a.format = b.format && (!isT a.format || (a.tscale = b.tscale && a.dim 0 = b.dim 0))

/-- Read a run of element codes of one row. -/
def codesOf (s : State) (w : Who) (t : Tensor) : Nat → Nat → Except Stop (List Nat)
  | 0, _ => .ok []
  | n + 1, l => match loadCode s w t (t.coords l) with
    | .error e => .error e
    | .ok c => (codesOf s w t n (l + 1)).map (fun cs => c :: cs)

/-- Copy the container of source element i into destination element l. -/
def copyPlain (tag : Nat) (a b : Tensor) (o : Op) (i l : Nat) (s : State) : Except (Stop × Bool) State :=
  match readElem (o.original s) (whoOf o) (a.addrAt (a.coords i)) (fmtBytes a.format) with
  | .error e => .error (e, false)
  | .ok bs =>
    let at_ := b.addrAt (b.coords l)
    match writeAll (whoOf o) [(at_.1, at_.2, bs)] (keepOld tag [(at_.1, at_.2, bs)] s) with
    | .error e => .error (e, true)
    | .ok s1 =>
      let v := decodeElem a.format (codeIn a.format 0 bs)
      .ok (updStats tag 0 (countElem v v 0) s1)

/-- Deliver the codes of one T block with a B8 code. -/
def putBlock (tag : Nat) (a b : Tensor) (o : Op) (l sc : Nat) (cs : List Nat) (s : State) : Except (Stop × Bool) State :=
  let ws := codeWrites b (b.coords l) cs ++ scaleWrites b (b.block (b.coords l)) sc
  match writeAll (whoOf o) ws (keepOld tag ws s) with
  | .error e => .error (e, true)
  | .ok s1 =>
    let s2 := if b.scalePtr = 0 then s1 else updStats tag 0 (countBlock sc false false) s1
    .ok (cs.foldl (fun s c =>
      let v := (scaleElem a sc (decodeElem a.format c)).1
      updStats tag 0 (countElem v v 0) s) s2)

/-- Copy the codes of one T block and its B8 code. -/
def copyBlock (tag : Nat) (a b : Tensor) (o : Op) (l n : Nat) (s : State) : Except (Stop × Bool) State :=
  let s0 := o.original s
  match blockScale s0 (whoOf o) a (a.block (a.coords l)), codesOf s0 (whoOf o) a n l with
  | .ok sc, .ok cs => putBlock tag a b o l sc cs s
  | .error e, _ => .error (e, false)
  | _, .error e => .error (e, false)

/-- Deliver a run of a byte copy. -/
def actCopy (tag : Nat) (a b : Tensor) (o : Op) (l n : Nat) (s : State) : Except (Stop × Bool) State :=
  if isT a.format then copyBlock tag a b o l n s else copyPlain tag a b o l l s

/-! ### Plain forms and gather (R170, R277) -/

/-- The plain form: source element L goes to destination element L. -/
def plainOp (tag : Nat) (o : Op) (s : State) : State :=
  let a := o.tensor 1
  let b := o.tensor 2
  if byteCopy o a b then driveBy tag b.count (deliverLen b) (actCopy tag a b) (b.count + 1) s
  else drive tag b o.arith (fun s o l => (loadElem s (whoOf o) a (a.coords l)).map (fun x => (x.1, x.2, noK))) s

/-- Entry n of an index list (R276, R277). -/
def indexAt (s : State) (o : Op) (n : Nat) : Except Stop Nat :=
  let width := o.fld 49 1
  let (a, okay) := offsetAddr (o.fld 40 8) (Int.ofNat (n * width))
  (readElem s (whoOf o) (a, okay) width).map leNat

/-- An index below a count (R277). -/
def indexIn? (s : State) (o : Op) (n top : Nat) : Except Stop Nat :=
  match indexAt s o n with
  | .error e => .error e
  | .ok i => if i < top then .ok i else .error .shape

/-- The value that the gather form gives a destination element: source element idx[n] (R277). -/
def gatherVal (s : State) (o : Op) (l : Nat) : Except Stop (XVal × Nat × Nat) :=
  let a := o.tensor 1
  match indexIn? s o l a.count with
  | .error e => .error e
  | .ok i => (loadElem s (whoOf o) a (a.coords i)).map (fun x => (x.1, x.2, noK))

/-- The element codes with their B8 codes that a run of a gather takes. -/
def gatherCodes (s : State) (o : Op) : Nat → Nat → Except Stop (List (Nat × Nat))
  | 0, _ => .ok []
  | n + 1, l =>
    let a := o.tensor 1
    match indexIn? s o l a.count with
    | .error e => .error e
    | .ok i => match blockScale s (whoOf o) a (a.block (a.coords i)), loadCode s (whoOf o) a (a.coords i) with
      | .ok b, .ok c => (gatherCodes s o n (l + 1)).map (fun r => (c, b) :: r)
      | .error e, _ => .error e
      | _, .error e => .error e

/-- One destination block of a gather byte copy between T formats: codes and B8 code go unchanged where its elements come from
blocks of one B8 code; else no code fits them all and they are converted (R176; log entry 20). -/
def gatherBlock (tag : Nat) (o : Op) (l n : Nat) (s : State) : Except (Stop × Bool) State :=
  let b := o.tensor 2
  match gatherCodes (o.original s) o n l with
  | .error e => .error (e, false)
  | .ok cs => match cs with
    | [] => .ok s
    | (_, sc) :: _ =>
      if cs.all (fun x => x.2 = sc) then putBlock tag (o.tensor 1) b o l sc (cs.map (·.1)) s
      else actVal tag b o.arith gatherVal o l n s

/-- The gather form: destination element n takes source element idx[n] (R277). -/
def gatherOp (tag : Nat) (o : Op) (s : State) : State :=
  let a := o.tensor 1
  let b := o.tensor 2
  if byteCopy o a b then
    if isT b.format then driveBy tag b.count (deliverLen b) (gatherBlock tag) (b.count + 1) s
    else driveBy tag b.count (fun _ => 1) (fun o l _ s => match indexIn? s o l a.count with
      | .error e => .error (e, false)
      | .ok i => copyPlain tag a b o i l s) (b.count + 1) s
  else drive tag b o.arith gatherVal s

/-! ### Scatter (R161, R277) -/

/-- Whether the value of index position n is delivered before that of an earlier position m: m comes after all others
and n does not, or both do and m comes later among them (R161). -/
def deliveredFirst (late : List Nat) (n m : Nat) : Bool :=
  match indexIn late m, indexIn late n with
  | some _, none => true
  | some i, some j => decide (j < i)
  | none, _ => false

/-- Whether the destination of index position n holds the value of an earlier position that stays there. -/
def keepsEarlier (s : State) (o : Op) (late : List Nat) (n target : Nat) : Bool :=
  (List.range n).any (fun m => deliveredFirst late n m && (match indexAt s o m with
    | .ok i => decide (i = target)
    | .error _ => false))

/-- Deliver the value of one index position of a scatter. A value that another stands over is counted all the
same. Its bytes are a partial write by themselves (R227). -/
def actScatter (tag : Nat) (late : List Nat) (a b : Tensor) (o : Op) (n : Nat) (s : State) :
    Except (Stop × Bool) State :=
  match indexIn? s o n b.count with
  | .error e => .error (e, false)
  | .ok i =>
    let keep := keepsEarlier s o late n i
    let put (r : Except (Stop × Bool) State) : Except (Stop × Bool) State :=
      r.map (fun s1 => if keep then { s1 with dmem := s.dmem, hmem := s.hmem } else s1)
    let s := { s with fills := [] }
    if byteCopy o a b then put (copyPlain tag a b o n i s)
    else match loadElem (o.original s) (whoOf o) a (a.coords n) with
      | .error e => .error (e, false)
      | .ok x => put ((deliver tag (whoOf o) o.arith 0 i b [(x.1, x.2, noK)] s).mapError (fun e => (e, true)))

/-- The scatter form: source element n goes to destination element idx[n]. -/
def scatterOp (tag : Nat) (late : List Nat) (o : Op) (s : State) : State :=
  let a := o.tensor 1
  let b := o.tensor 2
  driveBy tag a.count (fun _ => 1) (fun o n _ s => actScatter tag late a b o n s) (a.count + 1) s

/-! ### FILL and ELEMWISE (R278) -/

/-- FILL converts VALUE once for each element. -/
def fillOp (tag : Nat) (o : Op) (s : State) : State :=
  drive tag (o.tensor 1) o.arith (fun _ o _ => .ok (decodeElem 1 (o.fld 32 8), 0, noK)) s

/-- A source element converted to a computation format (R278, R279). -/
def loadIn (cfmt : Nat) (s : State) (o : Op) (t : Tensor) (l : Nat) : Except Stop (XVal × Nat) :=
  (loadElem s (whoOf o) t (t.coords l)).map (fun x =>
    let (c, fl) := convertA cfmt o.arith x.1
    (decodeElem cfmt c, x.2 ||| fl))

/-- How many operands an EOP takes (R278). -/
def eopArity (eop : Nat) : Nat :=
  if eop = 4 then 3
  else if eop ∈ [0, 1, 2, 3, 6, 7] ∨ (0x10 ≤ eop ∧ eop ≤ 0x16) then 2
  else 1

/-- The result of an EOP in a computation format (R278). -/
def eopVal (eop f rnd : Nat) (a b c : XVal) : XVal × Nat :=
  if 0x10 ≤ eop ∧ eop ≤ 0x16 then
    let (p, fl) := cmpPred (eop - 0x10) a b
    (if p then XVal.one else XVal.zero, fl)
  else if 0x20 ≤ eop then helperVal (eop - 0x20) a
  else match eop with
    | 0 => ieeeAdd f rnd false a b
    | 1 => ieeeSub f rnd a b
    | 2 => ieeeMul f rnd a b
    | 3 => ieeeDiv f rnd a b
    | 4 => ieeeFma f rnd false a b c
    | 5 => ieeeSqrt f rnd a
    | 6 => ieeeMax false a b
    | 7 => ieeeMin false a b
    | 8 => (a.abs, 0)
    | _ => (a.negate, 0)

/-- One element of ELEMWISE: the operands in order, then the operation. -/
def elemVal (s : State) (o : Op) (l : Nat) : Except Stop (XVal × Nat × Nat) :=
  let eop := o.fld 56 1
  let f := o.fld 57 1
  let n := eopArity eop
  let ld (place : Nat) : Except Stop (XVal × Nat) :=
    if place ≤ n then loadIn f s o (o.tensor place) l else .ok (XVal.zero, 0)
  match ld 1, ld 2, ld 3 with
  | .ok a, .ok b, .ok c =>
    let (r, fl) := eopVal eop f (bits o.arith 0 3) a.1 b.1 c.1
    .ok (r, a.2 ||| b.2 ||| c.2 ||| fl, noK)
  | .error e, _, _ => .error e
  | _, .error e, _ => .error e
  | _, _, .error e => .error e

def elemwiseOp (tag : Nat) (o : Op) (s : State) : State := drive tag (o.tensor 4) o.arith elemVal s

/-! ### REDUCE and SCAN (R33, R34, R279) -/

/-- A partial result: value, flags, the lowest index it covers, and the index of its first INVALID. -/
abbrev Partial := XVal × Nat × Nat × Option Nat

/-- Combine two partial results: ROP 0 sum, 1 maximum, 2 minimum. The index of an INVALID is that of the first term of
the second operand (log entry 21). -/
def ropComb (rop f rnd : Nat) (x y : Partial) : Partial :=
  let (a, fa, ia, ka) := x
  let (b, fb, ib, kb) := y
  let (r, fl) := match rop with
    | 0 => ieeeAdd f rnd true a b
    | 1 => ieeeMax true a b
    | _ => ieeeMin true a b
  let k := match ka, kb with
    | some k, _ => some k
    | none, some k => some k
    | none, none => if bit fl 0 then some ib else none
  (r, fa ||| fb ||| fl, min ia ib, k)

/-- Whether two records describe the same elements in the same places. -/
def sameLayout (a b : Tensor) : Bool :=
  a.base = b.base && a.format = b.format && a.rank = b.rank && a.dims = b.dims && decide (a.strides = b.strides)

/-- The terms of one line along DIM, from index 0 up to a number of them, at the coordinates of a destination
element. -/
def lineTerms (s : State) (o : Op) (t : Tensor) (f dim : Nat) (c : List Nat) : Nat → Except Stop (List Partial)
  | 0 => .ok []
  | n + 1 => match lineTerms s o t f dim c n with
    | .error e => .error e
    | .ok ps => (loadIn f s o t (t.linear (c.set dim n))).map (fun x =>
        ps ++ [(x.1, x.2, n, if bit x.2 0 then some n else none)])

/-- The value that an exclusive scan gives the first element (R279). -/
def ropUnit (rop : Nat) : XVal := match rop with
  | 0 => XVal.zero
  | 1 => .inf true
  | _ => .inf false

/-- The combination of a number of terms along DIM. A NaN is the default NaN, of a single term too (R34). -/
def ropVal (s : State) (o : Op) (c : List Nat) (n : Nat) (order : List Nat) : Except Stop (XVal × Nat × Nat) :=
  let rop := o.fld 40 1
  let f := o.fld 42 1
  (lineTerms s o (o.tensor 1) f (o.fld 41 1) c n).map (fun ts =>
    match combineBy (ropComb rop f (bits o.arith 0 3)) ts order with
    | some (r, fl, _, k) => (if r.isNan then XVal.dnan else r, fl, k.getD noK)
    | none => (ropUnit rop, 0, noK))

/-- REDUCE combines every element along DIM. -/
def reduceOp (tag : Nat) (order : List Nat) (o : Op) (s : State) : State :=
  let a := o.tensor 1
  let b := o.tensor 2
  drive tag b o.arith (fun s o l => ropVal s o (b.coords l) (a.dim (o.fld 41 1)) order) s

/-- The value of SCAN at an element. -/
def scanVal (orders : List (List Nat)) (s : State) (o : Op) (l : Nat) : Except Stop (XVal × Nat × Nat) :=
  let c := (o.tensor 2).coords l
  let i := c.getD (o.fld 41 1) 0
  let n := if bit (o.fld 43 1) 0 then i else i + 1
  ropVal s o c n (orders.getD (n - 1) [])

/-- SCAN writes the running result along DIM, exclusive or inclusive. -/
def scanOp (tag : Nat) (orders : List (List Nat)) (o : Op) (s : State) : State :=
  drive tag (o.tensor 2) o.arith (scanVal orders) s

/-! ### The commands -/

/-- Whether an operation is a COPY or CONVERT of a form: 0 plain, 1 gather, 2 scatter (R276). -/
def inForm (codes : List Nat) (form : Nat) (o : Op) : Bool := decide (o.opc ∈ codes ∧ o.fld 48 1 = form)

/-- NOP (R273): it waits and arrives as the header says. -/
def execNop (op : Nat) (s : State) : Host.Outcome State Fault Refusal :=
  .next (runOp op [0x00] (fun _ s => endOp op {} s) s)

/-- COPY, plain form (R170, R176, R277). -/
def execCopy (op : Nat) (s : State) : Host.Outcome State Fault Refusal :=
  .next (runWhen op (inForm [0x01] 0) (plainOp op) s)

/-- CONVERT, plain form (R170, R174, R175, R277). -/
def execConvert (op : Nat) (s : State) : Host.Outcome State Fault Refusal :=
  .next (runWhen op (inForm [0x02] 0) (plainOp op) s)

/-- GATHER (R277). -/
def execGather (op : Nat) (s : State) : Host.Outcome State Fault Refusal :=
  .next (runWhen op (inForm [0x01, 0x02] 1) (gatherOp op) s)

/-- SCATTER (R161, R277). -/
def execScatter (op : Nat) (late : List Nat) (s : State) : Host.Outcome State Fault Refusal :=
  .next (runWhen op (inForm [0x01, 0x02] 2) (scatterOp op late) s)

/-- FILL (R278). -/
def execFill (op : Nat) (s : State) : Host.Outcome State Fault Refusal :=
  .next (runOp op [0x03] (fillOp op) s)

/-- ELEMWISE (R278). -/
def execElemwise (op : Nat) (s : State) : Host.Outcome State Fault Refusal :=
  .next (runOp op [0x18] (elemwiseOp op) s)

/-- REDUCE (R279). -/
def execReduce (op : Nat) (tree : List Nat) (s : State) : Host.Outcome State Fault Refusal :=
  .next (runOp op [0x19] (reduceOp op tree) s)

/-- SCAN (R279). -/
def execScan (op : Nat) (trees : List (List Nat)) (s : State) : Host.Outcome State Fault Refusal :=
  .next (runOp op [0x1A] (scanOp op trees) s)

end Sys2Proof.Machine
end

