-- ==== Sys2Proof/Machine/Tiles.lean ====
section
/-! DEFINITION. The physical tiles: their table, their logical numbers, and what every family does with them (R107,
R200, R201, R206, R424). -/

namespace Sys2Proof.Machine

/-- The tiles of an operation: those that placement names, as far as they serve and the pin allows; else the lowest
that it allows. -/
def chosenTiles (s : State) (g : Nat) (want : List Nat) : List Nat :=
  let okay := pinnedTiles s g
  let l := (want.filter (fun t => decide (t ∈ okay))).eraseDups
  if l.isEmpty then okay.take 1 else l

/-- The SRC code of the die of a physical tile (R399). -/
def tileSrc (p : Nat) : Nat := 0x10 + p / 72

def getPart (t : Tile) (q : Nat) : Partn := tget (dflt {}) t.parts q
def setPart (t : Tile) (q : Nat) (x : Partn) : Tile := { t with parts := tset (dflt {}) t.parts q x }

/-- Whether a step of a carousel runs for an operation. -/
def inRing (s : State) (tag : Nat) : Bool := s.place.rings.any (fun e => e.2.op = tag && !e.2.phases.isEmpty)

/-- An operation whose runs, blocks, block commands and phases have all ended is done, with the status of its first stop if
there was one (R96), at the cursor that it has reached (R248). -/
def finishRuns (tag : Nat) (s : State) : State :=
  match findOp s tag with
  | some o => if o.phase = .running && decide (o.blocksLeft = 0) && !opHasRuns s tag &&
      (!inRing s tag || decide (o.result.status ≠ 0)) then
      endOp tag { o.result with cursor := o.cursor } s else s
  | none => s

/-- A stop of an operation whose runs and block commands go on: where it cannot be resolved, the operation ends when those
already issued have ended, with the status of the first stop (R96). -/
def stopIssued (tag : Nat) (e : Stop) (write : Bool) (s : State) : State :=
  if ((findOp s tag).map (fun o => o.result.status)).getD 0 ≠ 0 then s
  else
    let s1 := stopOp tag e write s
    match findOp s1 tag with
    | some o => if o.phase = .done && opHasRuns s1 tag then updOp tag (fun o => { o with phase := .running }) s1 else s1
    | none => s1

/-! ### Program images (R110 to R112) -/

/-- The checked copy of an image that the Ringmaster holds. -/
def imageOf (s : State) (addr tag : Nat) : Option (List Byte) :=
  (s.images.find? (fun i => i.addr = addr && i.tag = tag)).map (fun i => i.bytes)

/-- Fields of an image's header (R110). -/
def imgLen (b : List Byte) : Nat := fieldAt b 6 2
def imgEntry (b : List Byte) : Nat := fieldAt b 8 2
def imgTagOf (b : List Byte) : Nat := fieldAt b 12 4
def imgNeed (b : List Byte) : Nat := fieldAt b 16 4

/-- An instruction; beyond the last a run ends as at HALT (R113). -/
def imgInstr (b : List Byte) (pc : Nat) : Nat := if pc < imgLen b then fieldAt b (64 + 8 * pc) 8 else 2 ^ 56

/-- The image that an operation names: IMAGE of TILEPROG, EPI_IMAGE of MATMUL and CONV (R280, R282). -/
def Op.imgAddr (o : Op) : Nat := if o.opc = 0x30 then o.fld 16 8 else o.fld 48 8

/-- Whether a tile has a run of an image, or a block that waits for one. -/
def imagePending (s : State) (t : Tile) (addr tag : Nat) : Bool :=
  ((t.run.kind = 1 || t.run.kind = 2) && t.run.imgAddr = addr && t.run.imgTag = tag) ||
    t.epi.any (fun b => match findOp s b.op with
      | some o => o.imgAddr = addr && imgTagOf o.image = tag
      | none => false)

/-- Room for an image of some length: four images and 2,048 instructions (R112). -/
def imageFits (l : List (Nat × Nat × Nat)) (len : Nat) : Bool :=
  decide (l.length < 4 ∧ l.foldl (fun n e => n + e.2.2) len ≤ 2048)

/-- Evict the least recently used images that have no run pending until there is room. -/
def evictImages (pending : Nat → Nat → Bool) (len : Nat) : Nat → List (Nat × Nat × Nat) → List (Nat × Nat × Nat)
  | 0, l => l
  | fuel + 1, l =>
    if imageFits l len then l
    else match l.find? (fun e => !pending e.1 e.2.1) with
      | some e => evictImages pending len fuel (l.filter (fun x => !decide (x = e)))
      | none => l

/-- Make an image resident in a tile, the most recently used last. -/
def loadImage (s : State) (addr tag : Nat) (t : Tile) : Tile :=
  match imageOf s addr tag with
  | none => t
  | some b =>
    let e := (addr, tag, imgLen b)
    if e ∈ t.images then { t with images := t.images.filter (fun x => !decide (x = e)) ++ [e] }
    else
      let l := evictImages (imagePending s t) (imgLen b) 5 t.images
      if imageFits l (imgLen b) then { t with images := l ++ [e] } else t

/-- Whether a tile holds an image. -/
def Tile.holds (t : Tile) (addr tag : Nat) : Bool := t.images.any (fun e => e.1 = addr && e.2.1 = tag)

/-- The Ringmaster releases the copies that no tile holds and of which no run is pending. -/
def releaseImages (s : State) : State :=
  { s with images := s.images.filter (fun i =>
      s.tiles.any (fun e => e.2.holds i.addr i.tag) ||
      s.ops.any (fun o => o.valid && o.phase != .done && o.imgAddr = i.addr && o.image != [] && imgTagOf o.image = i.tag) ||
      s.contexts.any (fun c => match c.run with
        | some r => r.imgAddr = i.addr && r.imgTag = i.tag
        | none => false)) }

end Sys2Proof.Machine
end

