-- ==== Sys2Proof/Machine/Sequencer.lean ====
section
/-! DEFINITION. The block sequencer's view of a matrix engine: the fields of a block command, partition modes, what a command
may hold, the commands that one output block takes, and how blocks are dealt to tiles (R80 to R84, R88, R93, R102, R103,
R197, R198). -/

namespace Sys2Proof.Machine

/-! ### Fields of a block command (R102) -/

/-- n bytes from byte i. -/
def cf (c i n : Nat) : Nat := bits c (8 * i) (8 * n)

def cmdOp (c : Nat) : Nat := cf c 0 1
def cmdPart (c : Nat) : Nat := bits c 8 2
def cmdBank (c : Nat) : Nat := bits c 10 1
def cmdFirst (c : Nat) : Bool := bit c 11
def cmdToBank (c : Nat) : Bool := bit c 12
def cmdMode (c : Nat) : Nat := bits c 13 2
def cmdWFmt (c : Nat) : Nat := cf c 2 1
def cmdXFmt (c : Nat) : Nat := cf c 3 1
def cmdOutFmt (c : Nat) : Nat := cf c 4 1
def cmdPass (c : Nat) : Nat := bits c 40 4
def cmdArith (c : Nat) : Nat := cf c 6 2
def cmdWAddr (c : Nat) : Nat := cf c 8 4
def cmdXAddr (c : Nat) : Nat := cf c 12 4
def cmdK (c : Nat) : Nat := cf c 16 2
def cmdRows (c : Nat) : Nat := cf c 18 1
def cmdDrain (c : Nat) : Nat := cf c 20 4
def cmdKBase (c : Nat) : Nat := cf c 28 4
def cmdBrow (c : Nat) : Nat := cf c 32 3
def cmdBcol (c : Nat) : Nat := cf c 35 3
def cmdBatch (c : Nat) : Nat := bits c 304 20

/-- A number from fields in order, each with its bytes. -/
def packCmd (l : List (Nat × Nat)) : Nat := l.foldr (fun x acc => x.1 % 2 ^ (8 * x.2) + 2 ^ (8 * x.2) * acc) 0

/-- DRAIN_ADDR from here on is a drain-stream number: the drain goes to memory (log entry 66). -/
def streamBase : Nat := 2 ^ 22

/-- Whether the drain of a command goes to memory. -/
def cmdToMem (c : Nat) : Bool := !cmdToBank c && decide (streamBase ≤ cmdDrain c)

/-! ### Partition modes (R93, R197) -/

/-- The partitions of a mode, and the rows, columns and first PE of one (R93). -/
def modeParts (m : Nat) : Nat := if m = 0 then 1 else if m = 1 then 2 else 4
def partRows (m : Nat) : Nat := if m = 0 then 128 else 64
def partCols (m : Nat) : Nat := if m = 2 then 16 else 32
def partRow0 (m q : Nat) : Nat := if m = 0 then 0 else if m = 1 then 64 * q else 64 * (q / 2)
def partCol0 (m q : Nat) : Nat := if m = 2 then 16 * (q % 2) else 0

/-- The mode for the rows and columns that a tile receives; blocks: a T destination has dimension 0 along the columns
(R197, R88). -/
def modeFor (rows cols : Nat) (blocks : Bool) : Nat :=
  if 64 < rows then 0 else if 16 < cols || blocks then 1 else 2

def Partn.bank (x : Partn) (b : Nat) : PeBank := if b = 0 then x.bankA else x.bankB
def Partn.setBank (x : Partn) (b : Nat) (y : PeBank) : Partn := if b = 0 then { x with bankA := y } else { x with bankB := y }

/-- Whether every bank of an array is free (R93). -/
def banksFree (t : Tile) : Bool := t.parts.all (fun e => e.2.bankA.st = 0 && e.2.bankB.st = 0)

/-- Whether a partition is idle: no bank in use, no command waiting, not running. -/
def Partn.idle (x : Partn) : Bool := x.bankA.st = 0 && x.bankB.st = 0 && x.held.isEmpty && x.st ≠ 1

/-- The lowest idle partition of a tile. -/
def idlePart (t : Tile) : Option Nat := (List.range (modeParts t.mode)).find? (fun q => (getPart t q).idle)

/-! ### What a command may hold (R80, R82, R84, R102, R103) -/

/-- Whether the engine splits a format: binary64 and binary32 (R82). -/
def isWide (f : Nat) : Bool := decide (f = 1 ∨ f = 2)

/-- Whether two operand formats may meet (R80). -/
def pairOk (a b : Nat) : Bool :=
  if isWide a || isWide b then a = b
  else (isT a || isW a || a = 3) && (isT b || isW b || b = 3)

/-- Lanes of a pair, and the pass schedule that its formats and FAST ask for (R80, R82). -/
def lanesOf (a b : Nat) : Nat :=
  if packed a && packed b then 8 else if isT a && isT b then 4 else 1
def passesOf (sched : Nat) : Nat := match sched with
  | 1 => 4 | 2 => 3 | 3 => 9 | 4 => 6 | _ => 1
def schedOf (f : Nat) (fast : Bool) : Nat :=
  if f = 2 then (if fast then 2 else 1) else if f = 1 then (if fast then 4 else 3) else 0

/-- Whether the fields that an ACC or ACC_DRAIN uses lie in their ranges (R84, R102). -/
def termsOk (c : Nat) : Bool :=
  let a := cmdWFmt c
  let b := cmdXFmt c
  pairOk a b && decide (cmdPass c = schedOf a (bit (cmdArith c) 5)) &&
    decide (ceilDiv (cmdK c) (lanesOf a b) * passesOf (cmdPass c) ≤ 4096)

/-- The bytes that a drained block takes in the vector bank (R115). -/
def blockSpace (wide : Bool) : Nat := if wide then 32768 else 16384

/-- Whether the fields that every command has lie in their ranges (R42, R82, R102). -/
def fieldsOk (m c : Nat) : Bool :=
  !bit c 15 && bits c 44 4 = 0 && bits c 324 4 = 0 && cf c 41 3 = 0 && cf c 56 8 = 0 && bits (cmdWAddr c) 22 10 = 0 &&
    decide (cmdPass c ≤ 4) && bits (cmdArith c) 6 10 = 0 && decide (bits (cmdArith c) 0 3 ≤ 4) &&
    decide (cmdPart c < modeParts m) && decide (1 ≤ cmdK c ∧ cmdK c ≤ 8192) &&
    decide (1 ≤ cmdRows c ∧ cmdRows c ≤ partRows m ∧ 1 ≤ cmdCols c ∧ cmdCols c ≤ partCols m)

/-- Whether a command can be executed: no reserved OP, no reserved field set, no field out of range; a block for the
vector bank lies within its 524,288 bytes (R102, R103, R122; log entry 25). -/
def cmdOk (m c : Nat) : Bool :=
  let op := cmdOp c
  decide (1 ≤ op ∧ op ≤ 5) && fieldsOk m c && (op ≠ 4 || cmdMode c ≠ 3) &&
    (!(op = 1 || op = 2) || termsOk c) &&
    (!(op = 2 || op = 3) || (fmtListed (cmdOutFmt c) && cmdOutFmt c ≠ 0x30 &&
      (!cmdToBank c || decide (cmdDrain c + blockSpace (cmdWFmt c = 1) ≤ 2 ^ 19))))

/-- The most terms that one command of a pair may stream: at most 4,096 lc (R84). -/
def maxTerms (a b sched : Nat) : Nat := min 8192 (4096 / passesOf sched * lanesOf a b)

/-! ### Dealing blocks to tiles (R198) -/

/-- The rate by which a tile's share counts: its measured rate; a tile that is not measured yet counts as nominal
(R198, R199; log entry 67). -/
def tileRate (s : State) (l : Nat) : Nat :=
  let r := match physOf s l with
    | some p => (getTile s p).rate
    | none => 0
  if r = 0 then 1200 else r

/-- Whole units dealt in proportion to some weights: the whole part of each share, and one more for the largest
remainders, the first of equal ones. -/
def dealShares (ws : List Nat) (n : Nat) : List Nat :=
  let total := ws.foldl (· + ·) 0
  let base := ws.map (fun w => n * w / total)
  let left := n - base.foldl (· + ·) 0
  let more := ((sortBy (fun (x : Nat × Nat) => total - n * x.1 % total) ws.zipIdx).take left).map (·.2)
  base.zipIdx.map (fun x => x.1 + b2n (decide (x.2 ∈ more)))

/-- The tiles of some whole units, dealt in turn as runs in proportion to the tiles' rates (R198). -/
def dealTo (s : State) (tiles : List Nat) (n : Nat) : List Nat :=
  (tiles.zip (dealShares (tiles.map (tileRate s)) n)).flatMap (fun x => List.replicate x.2 x.1)

end Sys2Proof.Machine
end

