-- ==== Sys2Proof/Machine/MatBlocks.lean ====
section
/-! DEFINITION. The output blocks of MATMUL and CONV: terms and sums, delivery, the tiles and modes that they run on, and the
block commands that they take (R76 to R88, R93, R94, R102, R104 to R106, R197, R198, R204 to R206, R248, R280, R281). -/

namespace Sys2Proof.Machine

/-! ### Geometry (R77, R106, R280, R281) -/

def Op.isConv (o : Op) : Bool := o.opc = 0x12
def Op.carousel (o : Op) : Bool := bit o.dflags 2
def Op.batchOk (o : Op) : Bool := bit o.dflags 3
def Op.epiImage (o : Op) : Nat := o.fld 48 8

/-- Bytes 96 + s, 99 + s, 102 + s and 105 + s of a CONV (R281). -/
def Op.stride (o : Op) (d : Nat) : Nat := o.fld (96 + d) 1
def Op.dil (o : Op) (d : Nat) : Nat := o.fld (99 + d) 1
def Op.padLo (o : Op) (d : Nat) : Nat := o.fld (102 + d) 1
def Op.padHi (o : Op) (d : Nat) : Nat := o.fld (105 + d) 1

/-- The row and column extents of the result as R106 counts them, and the number of batches: for CONV the rows are
Y's positions and batch. -/
def Op.rowsC (o : Op) : Nat :=
  let c := o.tensor 3
  if o.isConv then c.count / c.dim 0 else c.dim 1
def Op.colsC (o : Op) : Nat := (o.tensor 3).dim 0
def Op.batches (o : Op) : Nat :=
  let c := o.tensor 3
  if o.isConv then 1 else c.dim 2 * c.dim 3 * c.dim 4

/-- The linear index of a result element. -/
def Op.linC (o : Op) (m n b : Nat) : Nat := n + o.colsC * (m + o.rowsC * b)

/-- The length of the reduction (R280, R281): for CONV ci innermost, then the kernel in dimension order. -/
def Op.redLen (o : Op) : Nat :=
  let a := o.tensor 1
  let w := o.tensor 2
  if o.isConv then a.dim 0 * (w.count / (w.dim 0 * w.dim (w.rank - 1))) else a.dim 0

/-- Whether the second operand rides the array rows (R77; log entry 22). -/
def Op.trans (o : Op) : Bool := !o.carousel && decide (o.rowsC < o.colsC)

/-- The batch coordinates of MATMUL records. -/
def batchCoords (t : Tensor) (b : Nat) : List Nat := coordsOf [t.dim 2, t.dim 3, t.dim 4] b

/-- The positions along the spatial dimensions of a CONV of a kernel index κ and an output position o:
o × STRIDE − PAD_LO + κ × DIL; none where one lies outside X. -/
def convPos (o : Op) (x : Tensor) : List Nat → List Nat → Nat → Option (List Nat)
  | p :: ps, k :: ks, d =>
    let v : Int := Int.ofNat (p * o.stride d + k * o.dil d) - Int.ofNat (o.padLo d)
    if 0 ≤ v ∧ v < Int.ofNat (x.dim (d + 1)) then (convPos o x ps ks (d + 1)).map (fun l => v.toNat :: l) else none
  | _, _, _ => some []

/-- The coordinates of the two operands of term k of a result element; none: no term (R281). -/
def Op.termAt (o : Op) (m n b k : Nat) : Option (List Nat × List Nat) :=
  let x := o.tensor 1
  let w := o.tensor 2
  if o.isConv then
    let y := o.tensor 3
    let nsp := x.rank - 2
    let ci := k % x.dim 0
    let kap := coordsOf ((List.range nsp).map (fun d => w.dim (d + 1))) (k / x.dim 0)
    let pos := coordsOf ((List.range (nsp + 1)).map (fun d => y.dim (d + 1))) m
    (convPos o x (pos.take nsp) kap 0).map (fun xs => (ci :: (xs ++ [pos.getD nsp 0]), ci :: (kap ++ [n])))
  else some (k :: m :: batchCoords x b, n :: k :: batchCoords w b)

/-! ### Sums of products (R47 to R52, R79, R87) -/

/-- Code, value and flags of an operand element. -/
abbrev Operand := Nat × XVal × Nat

/-- An operand element from memory. -/
def operandAt (s : State) (w : Who) (t : Tensor) (c : List Nat) : Except Stop Operand :=
  match loadElem s w t c, loadCode s w t c with
  | .ok v, .ok code => .ok (code, v.1, v.2)
  | .error e, _ => .error e
  | _, .error e => .error e

/-- The format of s (R83, R87). -/
def sumFmt (f : Nat) : Nat := if f = 1 then 1 else 2

/-- One accumulation (R47, R50). -/
def macStep (f arith : Nat) (a b : Operand) (acc : XVal) : XVal × Nat :=
  if isWide f then sumStep f (bits arith 0 3) (bit arith 5) a.1 b.1 acc else accStep a.2.1 b.2.1 acc

/-- A running sum: its value, the flags of its steps, and the index of the first term whose step raised INVALID. -/
abbrev Running := XVal × Nat × Option Nat

def macTerm (f arith k : Nat) (a b : Operand) (r : Running) : Running :=
  let (v, fl) := macStep f arith a b r.1
  (v, r.2.1 ||| fl ||| a.2.2 ||| b.2.2, if r.2.2.isNone && bit fl 0 then some k else r.2.2)

/-- The sum of the terms lo, …, lo + n − 1 from +0, in increasing k. -/
def sliceSum (getA getB : Nat → Except Stop (Option Operand)) (f arith lo : Nat) : Nat → Except Stop Running
  | 0 => .ok (XVal.zero, 0, none)
  | n + 1 => match sliceSum getA getB f arith lo n with
    | .error e => .error e
    | .ok r => match getA (lo + n), getB (lo + n) with
      | .error e, _ => .error e
      | _, .error e => .error e
      | .ok (some a), .ok (some b) => .ok (macTerm f arith (lo + n) a b r)
      | _, _ => .ok r

/-- Add the partial sums of two groups of K-slices in the format of s (R87, R50). -/
def addPartial (f arith lo : Nat) (x y : Running) : Running :=
  let (v, fl) := if isWide f then ieeeAdd (sumFmt f) (bits arith 0 3) true x.1 y.1
    else let (v, fl) := ieeeAdd 2 0 true x.1 y.1
         (v, fl &&& (fINVALID + fOVERFLOW))
  (v, x.2.1 ||| y.2.1 ||| fl, match x.2.2, y.2.2 with
    | some k, some j => some (min k j)
    | some k, none => some k
    | none, some k => some k
    | none, none => if bit fl 0 then some lo else none)

/-- The partial sums of K-slices of some lengths from term lo on, each with its first term. -/
def sliceSums (getA getB : Nat → Except Stop (Option Operand)) (f arith : Nat) :
    List Nat → Nat → Except Stop (List (Nat × Running))
  | [], _ => .ok []
  | n :: ns, lo => match sliceSum getA getB f arith lo n with
    | .error e => .error e
    | .ok r => (sliceSums getA getB f arith ns (lo + n)).map (fun l => (lo, r) :: l)

/-- The sum over K-slices, their partial sums added in an order of placement's choice (R50, R87, R209). -/
def slicedSum (getA getB : Nat → Except Stop (Option Operand)) (f arith : Nat) (ns order : List Nat) : Except Stop Running :=
  (sliceSums getA getB f arith ns 0).map (fun l =>
    ((combineBy (fun x y => (x.1, addPartial f arith y.1 x.2 y.2)) l order).map (·.2)).getD (XVal.zero, 0, none))

/-- The K-slices of an operation: placement's, where their lengths add up to K, else one. -/
def Op.kSlices (o : Op) : List Nat :=
  if o.slices.all (· > 0) && decide (o.slices.foldl (· + ·) 0 = o.redLen) then o.slices else [o.redLen]

/-- Where the two operands of a product come from: memory, or a copy that stays in tile stores. -/
abbrev Sources := (List Nat → Except Stop Operand) × (List Nat → Except Stop Operand)

/-- One result element. -/
def Op.element (o : Op) (src : Sources) (m n b : Nat) : Except Stop Running :=
  let getA (k : Nat) : Except Stop (Option Operand) := match o.termAt m n b k with
    | some c => (src.1 c.1).map some
    | none => .ok none
  let getB (k : Nat) : Except Stop (Option Operand) := match o.termAt m n b k with
    | some c => (src.2 c.2).map some
    | none => .ok none
  slicedSum getA getB (o.tensor 1).format o.arith o.kSlices o.sumTree

/-- An element of a copy that was taken of a tensor. -/
def shardOperand (t : Tensor) (codes : List (Nat × Nat)) (i : Nat) : Operand :=
  let (code, b) := codes.getD i (0, 127)
  let (v, fl) := if isT t.format then scaleElem t b (decodeElem t.format code) else (decodeElem t.format code, 0)
  (code, v, fl)

/-- The record of the operand on the array rows, and of the one along the columns (R77). -/
def Op.rowRec (o : Op) : Nat := if o.trans then 2 else 1
def Op.colRec (o : Op) : Nat := if o.trans then 1 else 2

/-- The copy of the weights that stays resident for an operation of a sweep (R91). -/
def Op.residentCodes (o : Op) (s : State) : Option (List (Nat × Nat)) :=
  match o.resident, s.place.resident with
  | some i, some r => if r.id = i then some r.codes else none
  | _, _ => none

/-- The operands of an operation: both from memory, but for weights that stay resident. -/
def Op.sources (o : Op) (s : State) : Sources :=
  let a := o.tensor 1
  let b := o.tensor 2
  let fromA := operandAt (o.original s) (whoOf o) a
  let fromB := operandAt (o.original s) (whoOf o) b
  match o.residentCodes s with
  | none => (fromA, fromB)
  | some cs =>
    if o.trans then (fromA, fun c => .ok (shardOperand b cs (b.linear c)))
    else (fun c => .ok (shardOperand a cs (a.linear c)), fromB)

/-! ### Output blocks (R54, R76, R104 to R106) -/

/-- A block of the result: first row and rows, first column and columns, batch, and its block coordinates on the
array. -/
abbrev Blk := Nat × Nat × Nat × Nat × Nat × Nat × Nat

/-- Block i in increasing order of the result's rows, then columns, within each batch. -/
def Op.blk (o : Op) (i : Nat) : Blk :=
  let hm := if o.trans then 32 else 128
  let hn := if o.trans then 128 else 32
  let nn := ceilDiv o.colsC hn
  let nm := ceilDiv o.rowsC hm
  let b := i / (nm * nn)
  let mi := i / nn % nm
  let ni := i % nn
  (mi * hm, min hm (o.rowsC - mi * hm), ni * hn, min hn (o.colsC - ni * hn), b,
    if o.trans then ni else mi, if o.trans then mi else ni)

/-- The number of output blocks. -/
def Op.nBlocks (o : Op) : Nat :=
  ceilDiv o.colsC (if o.trans then 128 else 32) * ceilDiv o.rowsC (if o.trans then 32 else 128) * o.batches

/-- The values of a block, row by row of the result. -/
def Op.blockVals (o : Op) (src : Sources) (x : Blk) : Except Stop (List Running) :=
  let (m0, ml, n0, nl, b, _, _) := x
  let rec go : Nat → Nat → Except Stop (List Running)
    | 0, _ => .ok []
    | k + 1, e => match o.element src (m0 + e / nl) (n0 + e % nl) b with
      | .error st => .error st
      | .ok r => (go k (e + 1)).map (fun l => r :: l)
  go (ml * nl) 0

/-- The OR of the flags of some sums. -/
def flagsOf (vs : List Running) : Nat := vs.foldl (fun f v => f ||| v.2.1) 0

/-- A place in a tile's processing order: the command, k, row and column (R105). -/
def procOrder (n k r c : Nat) : Nat := ((n * 2 ^ 33 + k) * 128 + r % 128) * 32 + c % 32

/-- The candidate of a block that a tile computes at command n0, with its place in the tile's order: the INVALID earliest
by k, then row, then column of the array (R105, R106). names are the tiles of the ranges of K; of several tiles the
lowest-numbered one's stands (R57, R198). -/
def Op.blockCandidate (o : Op) (names : List Nat) (n0 : Nat) (x : Blk) (vs : List Running) : Option (Nat × Nat) :=
  let (m0, _, c0, nl, b, _, _) := x
  let starts := (List.range o.kSlices.length).map (fun j => (o.kSlices.take j).foldl (· + ·) 0)
  let nameAt (k : Nat) : Nat := names.getD ((starts.filter (fun lo => decide (lo ≤ k))).length - 1) (names.headD 0)
  let cands := vs.zipIdx.filterMap (fun v => match v.1.2.2 with
    | some k =>
      let m := m0 + v.2 / nl
      let n := c0 + v.2 % nl
      let r := if o.trans then n else m
      let c := if o.trans then m else n
      some (nameAt k, procOrder n0 k r c, offenderRec o.trans 0 (nameAt k) (r / 128) (c / 32) (r % 128 * 32 + c % 32) b k)
    | none => none)
  let unit := minOf (cands.map (·.1))
  (sortBy (·.1) ((cands.filter (fun c => decide (some c.1 = unit))).map (·.2))).head?

/-- The flags and candidate of a block that is delivered count (R104, R105). -/
def blockDone (tag key fl ord : Nat) (cand : Option Nat) (s : State) : State :=
  updOp tag (fun o => ({ o.addBlock key (fl ||| o.blockFl) with blockFl := 0, subKey := 0, subRun := 0 }).offer ord cand) s

/-- The pieces in which a block is delivered, in increasing linear order: offset in the block, linear index, length
(R63). -/
def Op.pieces (o : Op) (x : Blk) : List (Nat × Nat × Nat) :=
  let (m0, ml, n0, nl, b, _, _) := x
  let step := if isT (o.tensor 3).format then 32 else 1
  (List.range ml).flatMap (fun r => (List.range (ceilDiv nl step)).map (fun q =>
    (r * nl + q * step, o.linC (m0 + r) (n0 + q * step) b, min step (nl - q * step))))

/-- A run of delivered elements joins those that were delivered before: the runs rise, and no two touch. -/
def addSpan (l n : Nat) : List (Nat × Nat) → List (Nat × Nat)
  | [] => [(l, n)]
  | (a, k) :: r =>
    if l + n < a then (l, n) :: (a, k) :: r
    else if a + k < l then (a, k) :: addSpan l n r
    else addSpan (min l a) (max (l + n) (a + k) - min l a) r

/-- The lowest index that no run of delivered elements holds. -/
def firstGap (l : List (Nat × Nat)) : Nat := match l with
  | (0, n) :: _ => n
  | _ => 0

/-- Elements of the destination are delivered: the cursor is the lowest index that is not (R248). -/
def Op.deliveredAt (l n : Nat) (o : Op) : Op :=
  let spans := addSpan l n o.spans
  { o with spans, cursor := firstGap spans }

/-- Deliver the pieces of a block from the i-th on; the first that cannot be written stops it. -/
def deliverPieces (tag : Nat) (t : Tensor) (vs : List XVal) : List (Nat × Nat × Nat) → State → Option Stop × State
  | [], s => (none, s)
  | (off, l, n) :: ps, s =>
    match findOp s tag with
    | none => (none, s)
    | some o =>
      let vals := ((vs.drop off).take n).map (fun v => (v, 0, noK))
      let note (_ fl _ : Nat) (s : State) : State := updOp tag (fun o => { o with blockFl := o.blockFl ||| fl }) s
      match deliverWith note tag (whoOf o) o.arith 0 l t vals s with
      | .error e => (some e, s)
      | .ok s1 => deliverPieces tag t vs ps (updOp tag (fun o => { o with subRun := o.subRun + 1 }.deliveredAt l n) s1)

/-- Deliver some pieces of a block with a key, from where a stop left them. -/
def deliverPart (tag key : Nat) (ps : List (Nat × Nat × Nat)) (vs : List XVal) (s : State) : Option Stop × State :=
  match findOp s tag with
  | none => (none, s)
  | some o =>
    let o1 := if o.subKey = key + 1 then o else { o with subKey := key + 1, subRun := 0, blockFl := 0 }
    deliverPieces tag (o.tensor 3) vs (ps.drop o1.subRun) (setOp s o1)

/-- Deliver a block, from where a stop left it. -/
def deliverBlock (tag key : Nat) (x : Blk) (vs : List XVal) (s : State) : Option Stop × State :=
  match findOp s tag with
  | none => (none, s)
  | some o => deliverPart tag key (o.pieces x) vs s

/-- A block that is delivered in part only: the flags of the pieces delivered count (R56). -/
def partDone (tag key : Nat) (s : State) : State :=
  updOp tag (fun o => { o.addBlock key o.blockFl with blockFl := 0, subKey := 0, subRun := 0 }) s

/-! ### Tiles, modes and block commands of an operation (R84, R88, R93, R102, R197, R198) -/

/-- Whether a T destination has dimension 0 along the array columns (R88). -/
def Op.blocksAcross (o : Op) : Bool := isT (o.tensor 3).format && !o.trans

/-- The extents along the array rows and columns. -/
def Op.arrRows (o : Op) : Nat := if o.trans then o.colsC else o.rowsC
def Op.arrCols (o : Op) : Nat := if o.trans then o.rowsC else o.colsC

/-- Whether a tile can run blocks of an operation: its banks are free, so that its mode can be set, or a partition of its
present mode is idle and holds a block (R88, R93, R197). -/
def Op.runsOn (o : Op) (t : Tile) : Bool :=
  banksFree t && t.parts.all (fun e => e.2.st = 0) ||
    (idlePart t).isSome && decide (min 128 o.arrRows ≤ partRows t.mode ∧ min 32 o.arrCols ≤ partCols t.mode) &&
      !(o.blocksAcross && t.mode = 2)

/-- Whether a tile has partitions at work besides idle ones. -/
def Tile.shared (t : Tile) : Bool := !banksFree t && (idlePart t).isSome

/-- The tile with a logical number. -/
def tileAt (s : State) (l : Nat) : Tile := match physOf s l with
  | some p => getTile s p
  | none => {}

/-- The tiles that an operation is dealt to, of those that can run it, in the order of the Ringmaster's choice: placement's
names come first among equals. Under latency first the idle tiles come first, as many as it has output blocks; under
throughput first the free partitions of tiles at work are filled before another tile is opened (R197, R205, R206; log entry
67). -/
def spreadTiles (s : State) (o : Op) (want : List Nat) : List Nat :=
  let g := groupOf o.queue
  let okay := affineTiles s o ((pinnedTiles s g).filter (fun l => o.runsOn (tileAt s l)))
  let named := (want.filter (fun t => decide (t ∈ okay))).eraseDups
  let l := named ++ okay.filter (fun t => !decide (t ∈ named))
  let shared := l.filter (fun t => (tileAt s t).shared)
  let fresh := l.filter (fun t => !(tileAt s t).shared)
  if (getGroup s g).latencyFirst then (fresh ++ shared).take (max 1 o.nBlocks)
  else (shared ++ fresh).take (max 1 named.length)

/-- The tile that a unit of work goes to: slice j of block i, where the reduction is split into ranges of K, else the block
(R198). The first slice's tile adds the others' sums (R87). -/
def Op.tileOf (o : Op) (i j : Nat) : Nat := o.assign.getD (i * o.kSlices.length + j) (o.tiles.headD 0)
def Op.tileFor (o : Op) (i : Nat) : Nat := o.tileOf i 0

/-- The blocks that no tile has accepted yet are dealt, to the tiles that placement names by now, by their present rates
(R193, R198). Tiles that no longer serve, or that the pin does not name, are left out (R201, R206). -/
def Op.deal (o : Op) (s : State) (tiles : List Nat) : Op :=
  let okay := pinnedTiles s (groupOf o.queue)
  let kept := (if tiles.isEmpty then o.tiles else tiles).filter (fun t => decide (t ∈ okay))
  let l := if kept.isEmpty then spreadTiles s o [] else kept
  let n := o.kSlices.length
  { o with tiles := l, assign := o.assign.take (o.gen * n) ++ dealTo s l ((o.nBlocks - o.gen) * n) }

/-- The physical tile that runs slice j of block i, where its number names one and the tile can run it (R88, R197, R201). -/
def Op.physFor (o : Op) (i j : Nat) (s : State) : Option Nat :=
  (physOf s (o.tileOf i j)).filter (fun p => o.runsOn (getTile s p))

/-- The physical tiles of a block's slices in order; none: one of them cannot run it yet. -/
def Op.sliceTiles (o : Op) (i : Nat) (s : State) : Option (List Nat) :=
  (List.range o.kSlices.length).foldr (fun j r => match o.physFor i j s, r with
    | some p, some l => some (p :: l)
    | _, _ => none) (some [])

/-- Distinct extents of some ranges, summed. -/
def extentOf (l : List (Nat × Nat)) : Nat := l.eraseDups.foldl (fun n x => n + x.2) 0

/-- The mode that R197 gives a tile of an operation, from the blocks it receives. -/
def Op.modeOf (o : Op) (tile : Nat) : Nat :=
  let mine := ((List.range o.nBlocks).filter (fun i => o.gen ≤ i && (List.range o.kSlices.length).any (fun j => o.tileOf i j = tile))).map o.blk
  let alongM := extentOf (mine.map (fun x => (x.1, x.2.1)))
  let alongN := extentOf (mine.map (fun x => (x.2.2.1, x.2.2.2.1)))
  if o.trans then modeFor alongN alongM o.blocksAcross else modeFor alongM alongN o.blocksAcross

/-- Each tile of an operation whose banks are free takes its mode (R93, R197). -/
def setModes (o : Op) (s : State) : State :=
  o.tiles.foldl (fun s l => match physOf s l with
    | some p => updTile p (fun t =>
        if banksFree t && t.parts.all (fun e => e.2.st = 0) && t.mode ≠ o.modeOf l then
          { t with mode := o.modeOf l, parts := [] } else t) s
    | none => s) s

/-- The pass schedule of an operation (R82). -/
def Op.sched (o : Op) : Nat := schedOf (o.tensor o.rowRec).format (bit o.arith 5)

/-- The slices that block commands stream for a range of K, each of at most 4,096 lc: first term and terms (R84). -/
def Op.cutRange (o : Op) (lo n : Nat) : List (Nat × Nat) :=
  let most := maxTerms (o.tensor o.rowRec).format (o.tensor o.colRec).format o.sched
  (List.range (ceilDiv n most)).map (fun j => (lo + j * most, min most (n - j * most)))

/-- The first term and the length of range j of K. -/
def Op.kRange (o : Op) (j : Nat) : Nat × Nat :=
  ((o.kSlices.take j).foldl (· + ·) 0, o.kSlices.getD j 0)

/-- The commands of range j of K: first term and terms. -/
def Op.cmdSlices (o : Op) (j : Nat) : List (Nat × Nat) := o.cutRange (o.kRange j).1 (o.kRange j).2

/-- The last block command of range j of K of an output block, of some columns in all: it drains, a range that another tile
adds into the tile store in the format of s (R84, R87, R89, R102; log entry 66). -/
def Op.lastCmd (o : Op) (x : Blk) (cols part bank j : Nat) : Nat :=
  let (_, ml, _, nl, b, brow, bcol) := x
  let l := o.cmdSlices j
  let (k0, kn) := l.getLastD (0, 1)
  let row := o.tensor o.rowRec
  let col := o.tensor o.colRec
  let epi := decide (o.epiImage ≠ 0 ∧ j = 0)
  packCmd [(2, 1), (part + 4 * bank + 8 * b2n (decide (l.length ≤ 1)) + 16 * b2n epi, 1), (row.format, 1), (col.format, 1),
    (if epi || decide (j ≠ 0) then sumFmt row.format else (o.tensor 3).format, 1), (o.sched, 1), (o.arith, 2), (0, 4),
    (2 ^ 32 - 1, 4), (kn, 2), (if o.trans then nl else ml, 1), (cols, 1), (if epi || decide (j ≠ 0) then 0 else streamBase, 4),
    (o.tag, 4), (k0, 4), (brow, 3), (bcol, 3), (b % 2 ^ 20, 3), (0, 3), (row.tscale, 4), (col.tscale, 4),
    ((o.tensor 3).tscale, 4), (0, 8)]

/-- The partition of a tile that runs an operation's next block, and the bank it accumulates into: the one that it left
(R86, R87). -/
def nextBank (t : Tile) : Nat × Nat :=
  let q := (idlePart t).getD 0
  (q, if (getPart t q).cmd = 0 then 0 else 1 - (getPart t q).accBank)

/-- A tile runs the commands of range j of K of a block of some columns on a partition, into a bank: its sequencer has
accepted them, the partition shows the last, and its counters may move (R107, R189). -/
def noteBlock (p q b cols j : Nat) (o : Op) (x : Blk) (s : State) : State :=
  markWork [tileUnit p q] (commandFlits p (o.cmdSlices j).length (updTile p (fun t =>
    { setPart t q { getPart t q with cmd := o.lastCmd x cols q b j, accBank := b } with
      accepted := t.accepted + (o.cmdSlices j).length }) s))

/-- The tiles of the further ranges of K of a block run their commands; each drains its sums for the first's tile (R87,
R198). -/
def noteSlices (cols : Nat) (o : Op) (x : Blk) (ps : List Nat) (s : State) : State :=
  (ps.zipIdx.drop 1).foldl (fun s e =>
    let (q, b) := nextBank (getTile s e.1)
    noteBlock e.1 q b cols e.2 o x s) s

/-- The logical number that a tile is saved under. -/
def Tile.name (t : Tile) : Nat := t.logical.getD 0xFFFF

/-- The priority of the work with an operation tag. -/
def opPrio (s : State) (tag : Nat) : Nat := match findOp s tag with
  | some o => o.prio
  | none => 0

/-- The context of a partition that works for an operation, without a run (R94, R255). -/
def partContext (s : State) (p q tag : Nat) (x : Partn) : Context :=
  let t := getTile s p
  { kind := 0, prio := opPrio s tag, op := tag, tile := t.name, part := q, time := s.time, partn := some x, mode := t.mode
    refetch := t.copies }

/-- A partition stops: its context is saved, the block that it accumulates is discarded, and the commands that wait at it go
with the context (R94). -/
def stopPart (p q tag : Nat) (x : Partn) (s : State) : State :=
  let x1 := x.mapBanks (fun b => if b.st = 1 then {} else b)
  { updTile p (fun t => setPart t q { x1 with st := 2, held := [] }) s with
    contexts := s.contexts ++ [{ partContext s p q tag x with stopped := true }] }

/-- The commands of the block that a partition accumulates, from its first K-slice on (R94). -/
def Partn.redo (x : Partn) : List (Nat × List Byte) :=
  [x.bankA, x.bankB].flatMap (fun b => if b.st = 1 then b.slices else [])

/-- Whether a context holds nothing that a resumed partition would run again: its operation's own row computes the block. -/
def Context.blank (c : Context) : Bool :=
  c.run.isNone && (match c.partn with
    | some x => x.redo.isEmpty && x.held.isEmpty && x.bankA.st ≠ 2 && x.bankB.st ≠ 2
    | none => true)

/-- Whether a context was saved from a partition of a tile. -/
def Context.ofPart (c : Context) (t : Tile) (q : Nat) : Bool := c.kind = 0 && c.tile = t.name && c.part = q

/-- A stopped partition whose context holds nothing to run again for some operations is idle (R94, R107). -/
def settlePart (tags : List Nat) (p q : Nat) (s : State) : State :=
  let t := getTile s p
  let x := getPart t q
  if x.st ≠ 2 then s
  else
    let s1 := { s with contexts := s.contexts.filter (fun c =>
      !(c.ofPart t q && c.stopped && c.blank && decide (c.op ∈ tags))) }
    if s1.contexts.any (fun c => c.ofPart t q) then s1 else setTile s1 p (setPart t q { x with st := 0 })

/-- The partitions that an operation stopped go on with its own row (R94). -/
def releaseParts (tag : Nat) (s : State) : State :=
  s.tiles.foldl (fun s e => (List.range 4).foldl (fun s q => settlePart [tag] e.1 q s) s) s

/-- An operation leaves its partitions: what its banks hold and its contexts are given up, and a partition that was stopped or
running for it is idle (R94, R201). -/
def freeParts (tag : Nat) (s : State) : State :=
  let free (x : Partn) : Partn :=
    let y := x.mapBanks (PeBank.keepOwners (fun w => w.op ≠ tag))
    if x.st ≠ 0 ∧ cmdTag x.cmd = tag then { y with st := 0 } else y
  mapParts free { s with contexts := s.contexts.filter (fun c => !(c.kind = 0 && c.op = tag && c.run.isNone)) }

/-- The key of a block that an epilogue run delivers: its coordinates and its first row and column. -/
def blkKey (trans : Bool) (x : Blk) : Nat :=
  let (m0, _, n0, _, b, br, bc) := x
  let (r, c) := if trans then (n0, m0) else (m0, n0)
  2 ^ 96 + (((b * 2 ^ 24 + br) * 2 ^ 24 + bc) * 128 + r % 128) * 32 + c % 32

/-! ### What a block holds for its drain or its epilogue run (R89, R113 to R115) -/

/-- The code of a value in the format of s. -/
def sumCode (f : Nat) (v : XVal) : Nat := (convert (sumFmt f) 0 false v).1

/-- The values of a block in the order of the array, 32 lanes to a row. -/
def Op.arrayVals (o : Op) (x : Blk) (vs : List Running) (r c : Nat) : Nat :=
  let (_, ml, _, nl, _, _, _) := x
  let rows := if o.trans then nl else ml
  let cols := if o.trans then ml else nl
  if r < rows ∧ c < cols then
    match vs[if o.trans then c * nl + r else r * nl + c]? with
    | some v => sumCode (o.tensor 1).format v.1
    | none => 0
  else 0

/-- What an operation owns of an epilogue block, from a column on (R89, R91). -/
def Op.ownOf (o : Op) (x : Blk) (vs : List Running) (names : List Nat) (n off : Nat) : EpiOwn :=
  let (_, ml, _, nl, _, _, _) := x
  let cand := o.blockCandidate names n x vs
  { op := o.tag, off, cols := if o.trans then ml else nl, flags := flagsOf vs, cand := cand.map (·.2)
    ord := (cand.map (·.1)).getD (procOrder n (2 ^ 33 - 1) 0 0) }

/-- The value at an array row and column of a block that operations share. -/
def sharedVal (l : List (Op × Blk × List Running × EpiOwn)) (r c : Nat) : Nat :=
  match l.find? (fun w => decide (w.2.2.2.off ≤ c ∧ c < w.2.2.2.off + w.2.2.2.cols)) with
  | some w => w.1.arrayVals w.2.1 w.2.2.1 r (c - w.2.2.2.off)
  | none => 0

/-- A block for an epilogue run: its values in array order, 32 lanes to a row, from the columns of the operations that share
it (R89, R114, R115). -/
def epiBlock (x : Blk) (trans wide : Bool) (part : Nat) (l : List (Op × Blk × List Running × EpiOwn)) : EpiBlock :=
  let (m0, ml, n0, nl, b, brow, bcol) := x
  { op := (l.head?.map (fun w => w.1.tag)).getD 0, vals := some ((List.range 4096).map (fun e => sharedVal l (e / 32) (e % 32)))
    wide, part, brow, bcol, batch := b, row0 := if trans then n0 % 128 else m0 % 128, col0 := if trans then m0 % 32 else n0 % 32
    rows := if trans then nl else ml, cols := l.foldl (fun n w => n + w.2.2.2.cols) 0, own := l.map (fun w => w.2.2.2) }

/-- Queue an epilogue block on a tile. -/
def queueEpi (p : Nat) (b : EpiBlock) (s : State) : State :=
  b.own.foldl (fun s w => updOp w.op (fun o => { o with blocksLeft := o.blocksLeft + 1 }) s)
    (updTile p (fun y => { y with epi := y.epi ++ [b] }) s)

/-- The first row and column of a block on the array. -/
def Op.arrayAt (o : Op) (x : Blk) : Nat × Nat :=
  let (m0, _, n0, _, _, _, _) := x
  if o.trans then (n0 % 128, m0 % 32) else (m0 % 128, n0 % 32)

/-- A bank holds the sums of a block and drains (R87): its values by PE, and what each operation owns. -/
def closeBank (p q b key : Nat) (l : List (Op × Blk × List Running × EpiOwn)) (s : State) : State :=
  match l with
  | [] => s
  | (o, x, _, _) :: _ =>
    let t := getTile s p
    let (_, ml, _, nl, _, _, _) := x
    let rows := if o.trans then nl else ml
    let cols := l.foldl (fun n w => n + w.2.2.2.cols) 0
    let vals := (List.range rows).foldl (fun m r => (List.range cols).foldl (fun m c =>
      tset (dflt 0) m ((partRow0 t.mode q + r) * 32 + (partCol0 t.mode q + c)) (sharedVal l r c)) m) []
    let (r0, c0) := o.arrayAt x
    let s1 := noteBlock p q b cols 0 o x s
    let y := getPart (getTile s1 p) q
    setTile s1 p (setPart (getTile s1 p) q (y.setBank b
      { st := 2, wide := (o.tensor 1).format = 1, vals, cmd := y.cmd, closed := t.accepted, own := l.map (fun w => w.2.2.2)
        place := some (key, r0, c0) }))

end Sys2Proof.Machine
end

