-- ==== Sys2Proof/Machine/Banks.lean ====
section
/-! DEFINITION. Accumulator banks: the terms that a block command adds, its drain into the vector bank, the tile store or
memory, and the commands that wait for a bank (R76, R79, R83, R85 to R88, R92, R94, R104, R105). -/

namespace Sys2Proof.Machine

/-! ### Accumulation (R76, R79, R83, R104, R105) -/

/-- Bytes of an operand element in a tile store (log entry 26). -/
def storeBytes (f : Nat) : Nat := if packed f then 1 else fmtBytes f

/-- Operand element (i, k) of a block of n rows or columns of kl terms: containers first, then, for a T format, the B8
code of each element (log entry 26). -/
def blockOperand (f scale n kl : Nat) (bs : List Byte) (i k : Nat) : Operand :=
  let e := i * kl + k
  let sz := storeBytes f
  let code := fromContainer f (fieldAt bs (e * sz) sz)
  if isT f then
    let b := fieldAt bs (n * kl * sz + e) 1
    let (v, fl) := scaleElem { parseTensor [] with tscale := scale } b (decodeElem f code)
    (code, v, fl)
  else (code, decodeElem f code, 0)

/-- The bytes of such a block. -/
def blockBytes (f n kl : Nat) : Nat := n * kl * (storeBytes f + (if isT f then 1 else 0))

/-- The terms of one PE from the value in its bank. -/
def peTerms (c : Nat) (w x : List Byte) (r col : Nat) : Nat → Running → Running
  | 0, acc => acc
  | n + 1, acc =>
    let k := cmdK c - (n + 1)
    let a := blockOperand (cmdWFmt c) (cf c 44 4) (cmdRows c) (cmdK c) w r k
    let b := blockOperand (cmdXFmt c) (cf c 48 4) (cmdCols c) (cmdK c) x col k
    peTerms c w x r col n (macTerm (cmdWFmt c) (cmdArith c) k a b acc)

/-- Whether the operation with a tag has its second operand on the rows (R57). -/
def tagTrans (s : State) (tag : Nat) : Bool := match findOp s tag with
  | some o => o.trans
  | none => false

/-- A K-slice accumulated into a bank. An X_ADDR that is no address of the tile store and not 0xFFFF_FFFF wraps within the
store: the manual gives X_ADDR no range (DESIGN CHOICE, log entry 66). -/
def accBankOp (s : State) (t : Tile) (c : Nat) (feed : List Byte) (b : PeBank) : PeBank :=
  let b0 : PeBank := if cmdFirst c then { st := 1, wide := cmdWFmt c = 1, cmd := c, slices := [(c, feed)] }
    else { b with st := 1, cmd := c, slices := b.slices ++ [(c, feed)] }
  let f := if b0.wide then 1 else 2
  let w := Memory.readN t.store (cmdWAddr c) (blockBytes (cmdWFmt c) (cmdRows c) (cmdK c))
  let x := if cmdXAddr c = 2 ^ 32 - 1 then feed
    else Memory.readN t.store (cmdXAddr c % 2 ^ 22) (blockBytes (cmdXFmt c) (cmdCols c) (cmdK c))
  let r0 := partRow0 t.mode (cmdPart c)
  let c0 := partCol0 t.mode (cmdPart c)
  let pes := (List.range (cmdRows c)).flatMap (fun r => (List.range (cmdCols c)).map (fun q =>
    let key := (r0 + r) * 32 + (c0 + q)
    (key, peTerms c w x r q (cmdK c) (decodeElem f (tget (dflt 0) b0.vals key), 0, none))))
  let cands := pes.filterMap (fun p => p.2.2.2.map (fun k => (procOrder t.accepted (cmdKBase c + k) (p.1 / 32) p.1, k, p.1)))
  let first := (sortBy (·.1) cands).head?
  { b0 with
    vals := pes.foldl (fun m p => tset (dflt 0) m p.1 (sumCode (if b0.wide then 1 else 2) p.2.1)) b0.vals
    flags := pes.foldl (fun fl p => fl ||| p.2.2.1) b0.flags
    ord := if b0.cand.isSome then b0.ord else (first.map (·.1)).getD 0
    cand := match b0.cand with
      | some x => some x
      | none => first.map (fun v => offenderRec (tagTrans s (cmdTag c)) 0 t.name (cmdBrow c) (cmdBcol c) v.2.2
          (cmdBatch c) (cmdKBase c + v.2.1)) }

/-! ### Commands (R86, R87) -/

/-- Run a command of a partition whose bank is not draining. -/
def runCmd (p c : Nat) (feed : List Byte) (s : State) : State :=
  let t := getTile s p
  let q := cmdPart c
  let x := getPart t q
  let b := x.bank (cmdBank c)
  let put (y : Partn) : State := setTile s p { setPart t q { y with cmd := c } with accepted := t.accepted + 1 }
  match cmdOp c with
  | 1 => put ({ x with st := 1, accBank := cmdBank c }.setBank (cmdBank c) (accBankOp s t c feed b))
  | 2 => put ({ x with st := 0, accBank := cmdBank c }.setBank (cmdBank c)
           { accBankOp s t c feed b with st := 2, closed := t.accepted })
  | _ => if b.st = 1 then put ({ x with st := 0 }.setBank (cmdBank c) { b with st := 2, cmd := c, closed := t.accepted })
         else put x

/-- Run the commands that waited, up to the first whose bank still drains. -/
def runHeld (p q : Nat) : Nat → State → State
  | 0, s => s
  | fuel + 1, s =>
    let t := getTile s p
    let x := getPart t q
    match x.held with
    | [] => s
    | (c, feed) :: rest =>
      if (x.bank (cmdBank c)).st = 2 then s
      else runHeld p q fuel (runCmd p c feed (setTile s p (setPart t q { x with held := rest })))

/-! ### Drains (R85 to R88, R92, R104) -/

/-- The elements of a drained share: key and value. -/
def drained (t : Tile) (q c : Nat) (b : PeBank) : List (List (Nat × XVal)) :=
  let r0 := partRow0 t.mode q
  let c0 := partCol0 t.mode q
  (List.range (cmdRows c)).map (fun r => (List.range (cmdCols c)).map (fun k =>
    let key := (r0 + r) * 32 + (c0 + k)
    (key, decodeElem (if b.wide then 1 else 2) (tget (dflt 0) b.vals key))))

/-- The format that a drain into the vector bank or a cross-tile reduction keeps (R87). -/
def bankFmt (b : PeBank) : Nat := if b.wide then 1 else 2

/-- A drain into the vector bank keeps the format of s, and its block waits for an epilogue run; the block begins at the start
of its space, 32 elements to a row (R87, R113, R115). -/
def drainToBank (p q : Nat) (b : PeBank) (s : State) : State :=
  let t := getTile s p
  let c := b.cmd
  let f := bankFmt b
  let sz := fmtBytes f
  let mem := (drained t q c b).zipIdx.foldl (fun m r => r.1.zipIdx.foldl (fun m e =>
    Memory.writeN m (cmdDrain c + (r.2 * 32 + e.2) * sz) (leBytes sz (sumCode f e.1.2))) m) t.bank
  let own : EpiOwn := { op := cmdTag c, cols := cmdCols c, flags := b.flags, cand := b.cand
                        ord := if b.cand.isSome then b.ord else procOrder b.closed (2 ^ 33 - 1) 0 0 }
  let blk : EpiBlock := { op := cmdTag c, base := cmdDrain c, wide := b.wide, part := q, row0 := partRow0 t.mode q
                          col0 := partCol0 t.mode q, brow := cmdBrow c, bcol := cmdBcol c, batch := cmdBatch c
                          rows := cmdRows c, cols := cmdCols c, own := [own] }
  if ((findOp s (cmdTag c)).map (fun o => o.noRuns)).getD false then setTile s p { t with bank := mem }
  else updOp (cmdTag c) (fun o => { o with blocksLeft := o.blocksLeft + 1 })
    (setTile s p { t with bank := mem, epi := t.epi ++ [blk] })

/-- The destination of an operation as a drain sees it: its format, tensor scale and whether its scale is fixed (R64); a
command of an operation that is not known has a scale stream. -/
def drainDest (s : State) (c : Nat) : Tensor :=
  { parseTensor [] with format := cmdOutFmt c, tscale := cf c 52 4
                        scalePtr := match findOp s (cmdTag c) with
                          | some o => if o.opc = 0x10 ∨ o.opc = 0x12 then (o.tensor 3).scalePtr else 64
                          | none => 64 }

/-- The B8 blocks of a share: runs of 32 along dimension 0 of the result, which lies along the rows where the result is
transposed (R60, R63). -/
def dimRuns (trans : Bool) (l : List (List (Nat × XVal))) : List (List (Nat × XVal)) :=
  if trans then
    (List.range ((l.headD []).length)).flatMap (fun k =>
      (List.range (ceilDiv l.length 32)).map (fun j => ((l.drop (32 * j)).take 32).filterMap (fun r => r[k]?)))
  else l

/-- One run of a drain into a tile store: codes, B8 code if there is one, and flags (R61, R64, R87). -/
def drainRun (d : Tensor) (arith : Nat) (run : List (Nat × XVal)) : List (Nat × Nat) × Option Nat × Nat :=
  if isT d.format then
    let (es, b, hi, lo) := blockStore d (run.map (·.2))
    ((run.zip es).map (fun x => (x.1.1, x.2.1)), some b,
      es.foldl (fun fl e => fl ||| e.2.2) (if hi || lo then fEXPCLAMP else 0))
  else
    let es := run.map (fun e => storeVal d.format arith e.2)
    ((run.zip es).map (fun x => (x.1.1, x.2.1)), none, es.foldl (fun fl e => fl ||| e.2.2) 0)

/-- The runs of a drain into a tile store: a cross-tile reduction, whose output format is that of s, keeps s (R87; log
entry 66). -/
def storeRuns (s : State) (t : Tile) (q : Nat) (b : PeBank) : List (List (Nat × Nat) × Option Nat × Nat) :=
  let c := b.cmd
  let l := drained t q c b
  if cmdOutFmt c = bankFmt b then l.map (fun r => (r.map (fun e => (e.1, sumCode (bankFmt b) e.2)), none, 0))
  else (dimRuns (tagTrans s (cmdTag c)) l).map (drainRun (drainDest s c) (cmdArith c))

/-- Where a tile store holds the B8 code of a run, by the key of its first element: one code a row, or where the result is
transposed four a column (log entry 26). -/
def codePlace (trans : Bool) (key : Nat) : Nat := if trans then key % 32 * 4 + key / 1024 else key / 32

/-- The output block that a partition's share is (R54). -/
def shareKey (q c : Nat) : Nat := ((cmdBatch c * 2 ^ 24 + cmdBrow c) * 2 ^ 24 + cmdBcol c) * 4 + q

/-- A drain into the tile store delivers the block in its destination format: row-major, 32 elements to a row, then,
for a T format, the B8 codes of its runs (log entry 26). Its flags count for its operation. -/
def drainToStore (p q : Nat) (b : PeBank) (s : State) : State :=
  let t := getTile s p
  let c := b.cmd
  let sz := storeBytes (cmdOutFmt c)
  let runs := storeRuns s t q b
  let mem := runs.foldl (fun m r =>
    let m1 := r.1.foldl (fun m e => Memory.writeN m (cmdDrain c + e.1 * sz) (leBytes sz e.2)) m
    match r.2.1 with
    | some bc => Memory.writeN m1 (cmdDrain c + 4096 * sz +
        codePlace (tagTrans s (cmdTag c)) ((r.1.head?.map (·.1)).getD 0)) (leBytes 1 bc)
    | none => m1) t.store
  blockDone (cmdTag c) (shareKey q c) (runs.foldl (fun fl r => fl ||| r.2.2) b.flags) b.ord b.cand
    (setTile s p { t with store := mem })

/-- The share of the result that an operation owns of a bank: where the Ringmaster placed it in the block, else at the
partition's own rows and columns (R89, R93, R106). -/
def bankBlk (o : Op) (m q : Nat) (b : PeBank) (w : EpiOwn) : Blk :=
  let c := b.cmd
  let (r, k) := match b.place with
    | some x => x.2
    | none => (partRow0 m q, partCol0 m q)
  let r0 := cmdBrow c * 128 + r
  let c0 := cmdBcol c * 32 + k
  if o.trans then (c0, w.cols, r0, cmdRows c, cmdBatch c, cmdBrow c, cmdBcol c)
  else (r0, cmdRows c, c0, w.cols, cmdBatch c, cmdBrow c, cmdBcol c)

/-- The key of the output block of a bank's share (R54). -/
def blockKeyOf (q : Nat) (b : PeBank) : Nat := match b.place with
  | some x => x.1
  | none => shareKey q b.cmd

/-- Whether a share lies within the result of an operation. -/
def inResult (o : Op) (x : Blk) : Bool :=
  let (m0, ml, n0, nl, b, _, _) := x
  (o.opc = 0x10 || o.opc = 0x12) && decide (m0 + ml ≤ o.rowsC ∧ n0 + nl ≤ o.colsC ∧ b < o.batches)

/-- The values of a bank in an operation's columns, in the order of its result. -/
def ownVals (t : Tile) (q : Nat) (b : PeBank) (o : Op) (w : EpiOwn) : List XVal :=
  let vals := (drained t q b.cmd b).map (fun r => ((r.drop w.off).take w.cols).map (·.2))
  if o.trans then (List.range w.cols).flatMap (fun k => vals.filterMap (fun r => r[k]?)) else vals.flatten

/-- What a drain into memory does for one operation: its columns go to its result, piece by piece from where a fault left
them. What is left: its part, where a fault holds it; none, where it is delivered or given up (R89, R92, R102, R171). -/
def drainOwn (p q : Nat) (b : PeBank) (w : EpiOwn) (s : State) : Option EpiOwn × State :=
  match findOp s w.op with
  | none => (none, s)
  | some o =>
    let t := getTile s p
    let x := bankBlk o t.mode q b w
    let key := blockKeyOf q b
    let own (k r f : Nat) (s : State) : State := updOp o.tag (fun o => { o with subKey := k, subRun := r, blockFl := f }) s
    let back (s : State) : State := own o.subKey o.subRun o.blockFl s
    if !inResult o x || decide (o.phase = .done) then (none, s)
    else if o.phase = .suspended then (some w, s)
    else match deliverPieces o.tag (o.tensor 3) (ownVals t q b o w) ((o.pieces x).drop w.sent) (own (key + 1) w.sent w.sentFl s) with
      | (some e, s1) =>
        let o1 := (findOp s1 o.tag).getD o
        match e with
        | .wait _ _ => (some { w with sent := o1.subRun, sentFl := o1.blockFl, held := true }, stopIssued o.tag e true (back s1))
        | _ => (none, stopIssued o.tag e true (updOp o.tag (fun o => o.addBlock key o1.blockFl) (back s1)))
      | (none, s1) => (none, back (blockDone o.tag key w.flags w.ord w.cand s1))

/-- The bank of a partition that drains first: the one that closed first. -/
def drainingBank (x : Partn) : Option Nat :=
  if x.bankA.st = 2 ∧ x.bankB.st = 2 then some (if x.bankB.closed < x.bankA.closed then 1 else 0)
  else if x.bankA.st = 2 then some 0 else if x.bankB.st = 2 then some 1 else none

/-- Whether a block may use the tile's one path into the vector bank: partitions use it in the order their banks closed
(R85). -/
def firstToBank (t : Tile) (b : PeBank) : Bool :=
  t.parts.all (fun e => [e.2.bankA, e.2.bankB].all (fun y => !(y.st = 2 && cmdToBank y.cmd && decide (y.closed < b.closed))))

/-- Whether a drain into the vector bank of a tile runs (R124). -/
def bankBusy (t : Tile) : Bool :=
  t.parts.any (fun e => [e.2.bankA, e.2.bankB].any (fun y => y.st = 2 && cmdToBank y.cmd))

/-- A bank is free again: the commands that waited for it run, and its operations may have ended (R86, R96). -/
def freeBank (p q n : Nat) (tags : List Nat) (s : State) : State :=
  let x := getPart (getTile s p) q
  let s1 := setTile s p (setPart (getTile s p) q (x.setBank n {}))
  tags.foldl (fun s t => finishRuns t s) (runHeld p q (x.held.length + 1) (settlePart tags p q s1))

/-- A drain into memory: each operation's columns go to its own result. Where a fault holds some, the bank stays draining for
them, and the partition stops: the block in its other bank is discarded and its context saved. Where nothing is left the bank
is free (R92, R94, R96). -/
def drainMem (p q n : Nat) (s : State) : State :=
  let b := (getPart (getTile s p) q).bank n
  let (left, s1) := b.owners.foldl (fun (acc : List EpiOwn × State) w =>
    let (r, s') := drainOwn p q b w acc.2
    (acc.1 ++ r.toList, s')) ([], s)
  let tags := b.owners.map (fun w => w.op)
  let x := getPart (getTile s1 p) q
  match left.find? (fun w => w.held) with
  | some w =>
    let y := x.setBank n { b with own := left }
    let s2 := setTile s1 p (setPart (getTile s1 p) q y)
    tags.foldl (fun s t => finishRuns t s) (if y.st = 2 then s2 else stopPart p q w.op y s2)
  | none =>
    if left.isEmpty then freeBank p q n tags s1
    else setTile s1 p (setPart (getTile s1 p) q (x.setBank n { b with own := left }))

/-- A drain ends: the block is delivered and its bank is free (R86). -/
def drainEndOp (p q : Nat) (s : State) : State :=
  let t := getTile s p
  let x := getPart t q
  match drainingBank x with
  | none => s
  | some n =>
    let b := x.bank n
    if cmdToBank b.cmd then (if firstToBank t b then freeBank p q n [cmdTag b.cmd] (drainToBank p q b s) else s)
    else if cmdToMem b.cmd then drainMem p q n s
    else freeBank p q n [cmdTag b.cmd] (drainToStore p q b s)

/-- The drains of an operation into memory that a fault held go on (R92, R246). -/
def resumeDrains (tag : Nat) (s : State) : State :=
  s.tiles.foldl (fun s e => (List.range 4).foldl (fun s q => (List.range 2).foldl (fun s n =>
    let b := (getPart (getTile s e.1) q).bank n
    if b.st = 2 && cmdToMem b.cmd && b.serves tag then drainMem e.1 q n s else s) s) s) s

/-- Every drain of a tile that is under way finishes, those into the vector bank in the order in which their banks closed
(R85, R94): of eight banks at least one drains each time round. -/
def finishDrains (p : Nat) (s : State) : State :=
  (List.range 32).foldl (fun s i => drainEndOp p (i % 4) s) s

end Sys2Proof.Machine
end

