-- ==== Sys2Proof/Machine/Matmul.lean ====
section
/-! DEFINITION. MATMUL and CONV: the staging of row operands and multicast, the order of blocks, generation sweeps and the
carousel (R89 to R92, R94, R96, R113, R177 to R183, R197, R198, R205, R206, R280, R281). -/

namespace Sys2Proof.Machine

/-! ### Multicast and the staging of row operands (R167, R177 to R179) -/

/-- Operations that need the same row operand on several tiles fetch it once, along a tree from the lowest of them; the
others receive it. The tree takes the lowest group number that no standing tree has (R177, R320; log entry 23). -/
def growTree (tags tiles : List Nat) (s : State) : State :=
  let ms := sortNat tiles
  if ms.length < 2 ∨ s.place.trees.any (fun e => e.2.ops.any (fun t => decide (t ∈ tags))) then s
  else
    let group := ((List.range 128).find? (fun g => s.place.trees.all (fun e => e.2.group ≠ g))).getD 128
    let s := { s with noc := { s.noc with groups := if group < 128 then tset (dflt 0) s.noc.groups group (maskOf ms) else s.noc.groups } }
    { s with place := { s.place with
      trees := tinsert s.place.nextTree { root := ms.headD 0, members := ms.drop 1, ops := tags, group
                                          nodes := ms.map (fun l => (physOf s l).getD 0) } s.place.trees
      nextTree := s.place.nextTree + 1 } }

/-- n lines go along a tree: its nodes forward them once each, and every member receives them (R177, R320). -/
def sendTree (t : Tree) (n : Nat) (s : State) : State :=
  let root := t.nodes.headD 0
  (t.nodes.drop 1).foldl (fun s p => updTile p (fun x => { x with mcastRx := wrapAdd 48 x.mcastRx (64 * n) }) s)
    (passFlits 3 n (treeNodes s.variant root (t.nodes.drop 1)) s)

/-- A member that holds its tree is pruned, and fetches the rest by itself from the tree's cursor on (R178). -/
def multicastPruneOp (tree member : Nat) (s : State) : State :=
  match tfind tree s.place.trees with
  | none => s
  | some t =>
    if member ∈ t.members then
      let at_ := (physOf s member).getD 0
      let t1 := { t with members := t.members.filter (· ≠ member), pruned := t.pruned ++ [(member, t.cursor)]
                         nodes := t.nodes.take 1 ++ (t.nodes.drop 1).filter (· ≠ at_) }
      let s1 := { s with place := { s.place with trees := tinsert tree t1 s.place.trees } }
      match physOf s member with
      | some p => updTile p (fun x => { x with pruned := satAdd 0xFFFF x.pruned 1 }) s1
      | none => s1
    else s

/-- The elements of the row operand that a block needs, in linear order: its block row, with every k (R77, R280, R281). -/
def Op.rowElems (o : Op) (x : Blk) : List Nat :=
  let (m0, ml, n0, nl, b, _, _) := x
  let t := o.tensor o.rowRec
  let wanted := (List.range ((if o.trans then nl else ml) * o.redLen)).filterMap (fun e =>
    let r := e / o.redLen
    let k := e % o.redLen
    (o.termAt (if o.trans then m0 else m0 + r) (if o.trans then n0 + r else n0) b k).map (fun c =>
      t.linear (if o.trans then c.2 else c.1)))
  sortNat wanted.eraseDups

/-- The lines that hold some elements of a tensor, in the order of their first element. -/
def Tensor.lineList (t : Tensor) (es : List Nat) : List Nat := (es.map (fun l => (t.addrAt (t.coords l)).1 / 64)).eraseDups

/-- Read elements up to the first that cannot be read: how many could, and the stop. -/
def readUpTo (s : State) (w : Who) (t : Tensor) : List Nat → Nat → Nat × Option Stop
  | [], n => (n, none)
  | l :: ls, n => match operandAt s w t (t.coords l) with
    | .error e => (n, some e)
    | .ok _ => readUpTo s w t ls (n + 1)

/-- The containers, and behind them the B8 codes, of elements of a row operand as a tile store holds them (log entry
26). -/
def storeImage (s : State) (w : Who) (t : Tensor) (es : List Nat) : List Byte :=
  let codeAt (l : Nat) : Nat := match loadCode s w t (t.coords l) with
    | .ok c => c
    | .error _ => 0
  let scaleAt (l : Nat) : Nat := match blockScale s w t (t.block (t.coords l)) with
    | .ok b => b
    | .error _ => 0
  es.flatMap (fun l => leBytes (if packed t.format then 1 else fmtBytes t.format) (toContainer t.format (codeAt l))) ++
    (if isT t.format then es.flatMap (fun l => leBytes 1 (scaleAt l)) else [])

/-- The tree that fetches for an operation. -/
def treeOf (s : State) (tag : Nat) : Option (Nat × Tree) := s.place.trees.find? (fun e => decide (tag ∈ e.2.ops))

/-- The reads of the lines of a row operand by a tile's access engine pass the network (R314, R325). -/
def fetchLines (p : Nat) (w : Who) (lines : List Nat) (s : State) : State :=
  lines.foldl (fun s a => match translate s w false (64 * a) with
    | .phys d => lineFlits p d s
    | .host _ => readFlits p pcieNode s
    | _ => s) s

/-- The row operand of a block is staged in the tile store of its tile: the tree's root reads its lines once and every member
receives them; a tile outside the tree, or pruned from it, reads them by itself. A stop leaves the tree's cursor at the line
that cannot be read (R167, R177 to R179). -/
def fetchRow (tag i : Nat) (ps : List Nat) (s : State) : Option Stop × State :=
  match findOp s tag with
  | none => (none, s)
  | some o =>
    let x := o.blk i
    let p := ps.headD 0
    let t := o.tensor o.rowRec
    let w := whoOf o
    let es := o.rowElems x
    let rowKey := x.2.2.2.2.1 * 2 ^ 24 + x.2.2.2.2.2.1
    let (n, stop) := if (o.residentCodes s).isSome then (es.length, none) else readUpTo (o.original s) w t es 0
    let lines := t.lineList (es.take n)
    let s1 := match treeOf s tag with
      | some (k, tr) =>
        if p ∈ tr.nodes ∧ rowKey ∉ tr.rows then
          let tr1 := { tr with cursor := tr.base + lines.length
                               rows := if stop.isNone then tr.rows ++ [rowKey] else tr.rows
                               base := if stop.isNone then tr.base + lines.length else tr.base }
          sendTree tr (tr1.cursor - tr.cursor) (fetchLines (tr.nodes.headD 0) w (lines.drop (tr.cursor - tr.base))
            { s with place := { s.place with trees := tinsert k tr1 s.place.trees } })
        else if p ∈ tr.nodes then s
        else fetchLines p w lines s
      | none => fetchLines p w lines s
    let bs := storeImage (o.original s) w t (es.take n)
    (stop, updTile p (fun y => { y with
      store := Memory.writeN y.store 0 (bs.take (2 ^ 22))
      copies := if bs.isEmpty then y.copies else [(0, bs.length, (t.addrAt (t.coords (es.headD 0))).1, o.asid)] }) s1)

/-! ### The plain order of blocks -/

/-- The sums of a block are on their tile: they drain to the result, or the block waits for its epilogue run (R87, R113). The
tiles of further ranges of K have run their commands (R198). -/
def giveBlock (ps : List Nat) (key : Nat) (x : Blk) (l : List (Op × Blk × List Running × EpiOwn)) (s : State) : State :=
  match l with
  | [] => s
  | (o, _, _, _) :: _ =>
    let p := ps.headD 0
    let (q, b) := nextBank (getTile s p)
    let cols := l.foldl (fun n w => n + w.2.2.2.cols) 0
    let s1 := noteSlices cols o x ps s
    if o.epiImage ≠ 0 then
      noteBlock p q b cols 0 o x (queueEpi p (epiBlock x o.trans ((o.tensor 1).format = 1) q l) s1)
    else drainMem p q b (closeBank p q b key l s1)

/-- Work on a block with its key on the tiles of its ranges of K: compute it from its sources, then let it drain or wait for
its epilogue run. -/
def blockAct (key : Nat) (ps : List Nat) (x : Blk) (src : Sources) (o : Op) (s : State) : Option Stop × State :=
  match o.blockVals src x with
  | .error e => (some e, s)
  | .ok vs =>
    let w := o.ownOf x vs (ps.map (fun p => (getTile s p).name)) (getTile s (ps.headD 0)).accepted 0
    (none, giveBlock ps key x [(o, x, vs, w)] s)

/-- A partition stops at a block whose operands cannot be read: the block is discarded and the context saved, with the
command that ran (R94). -/
def stopAt (p : Nat) (o : Op) (x : Blk) (s : State) : State :=
  let t := getTile s p
  let (q, b) := nextBank t
  let cols := if o.trans then x.2.1 else x.2.2.2.1
  stopPart p q o.tag ({ getPart t q with cmd := o.lastCmd x cols q b 0, accBank := b, st := 1 }.setBank b { st := 1 }) s

/-- A block whose operands cannot be read stops its operation at its cursor, and the partitions that needed them (R94, R96,
R179, R248). -/
def stopBlock (tag : Nat) (ps : List Nat) (x : Blk) (e : Stop) (s : State) : State :=
  match findOp s tag with
  | none => s
  | some o => stopIssued tag e false (ps.foldl (fun s p => stopAt p o x s) s)

/-- Whether an operation still issues blocks: nothing has suspended or stopped it. -/
def issues (s : State) (tag : Nat) : Bool :=
  ((findOp s tag).map (fun o => (o.phase = .ready || o.phase = .running) && o.result.status = 0)).getD false

/-- The member tiles of an operation's tree that have blocks of its present block row to come, and the tile that met the
stop (R179). -/
def needing (s : State) (o : Op) (i p : Nat) : List Nat :=
  let row (x : Blk) : Nat × Nat := (x.2.2.2.2.1, x.2.2.2.2.2.1)
  let mine := (List.range (o.nBlocks - i)).filterMap (fun k =>
    if row (o.blk (i + k)) = row (o.blk i) then physOf s (o.tileFor (i + k)) else none)
  (p :: (if s.place.trees.any (fun e => o.tag ∈ e.2.ops) then mine else [])).eraseDups

/-- How many units of work that no tile has accepted stand in a tile's queue (R198). -/
def Op.queued (o : Op) (tile : Nat) : Nat := ((o.assign.drop (o.gen * o.kSlices.length)).filter (· = tile)).length

/-- The first n units of one tile's queue go to another's. -/
def moveUnits (a b : Nat) : Nat → List Nat → List Nat
  | _, [] => []
  | n, x :: xs => if x = a && decide (0 < n) then b :: moveUnits a b (n - 1) xs else x :: moveUnits a b n xs

/-- While a block waits for its tile, a tile whose queue is empty takes the surplus above two units of another tile's queue, the
first of them (R198; log entry 67). -/
def Op.moveSurplus (o : Op) (s : State) : Option Op :=
  match o.tiles.find? (fun t => (physOf s t).isSome && o.queued t = 0 && o.runsOn (tileAt s t)),
      o.tiles.find? (fun t => decide (2 < o.queued t)) with
  | some idle, some full =>
    let n := o.gen * o.kSlices.length
    some { o with assign := o.assign.take n ++ moveUnits full idle (o.queued full - 2) (o.assign.drop n) }
  | _, _ => none

/-- The tiles that still have units in their queues take their modes. -/
def queueModes (o : Op) (s : State) : State := setModes { o with tiles := o.tiles.filter (fun t => decide (0 < o.queued t)) } s

/-- Work through the blocks in order from the first that is not done; the number done stands in gen. A block whose tile
cannot run it leaves its operation to wait, where no other tile takes it over (R88, R197, R198). -/
def driveBlocks (tag : Nat) : Nat → State → State
  | 0, s => s
  | fuel + 1, s =>
    match findOp s tag with
    | none => s
    | some o =>
      let i := o.gen
      if !issues s tag then s
      else if o.nBlocks ≤ i then
        finishRuns tag (updOp tag (fun o => { o with phase := .running }) s)
      else match o.sliceTiles i s with
        | none => match o.moveSurplus s with
          | none => s
          | some o1 => driveBlocks tag fuel (queueModes o1 (setOp s o1))
        | some ps =>
          let p := ps.headD 0
          let o1 := { o with phys := p }
          let (st, s0) := fetchRow tag i ps (setOp s o1)
          match st with
          | some e => stopBlock tag (needing s0 o i p) (o.blk i) e s0
          | none => match blockAct i ps (o.blk i) (o1.sources s0) o1 s0 with
            | (some e, s1) => stopBlock tag [p] (o.blk i) e s1
            | (none, s1) => driveBlocks tag fuel (updOp tag (fun o => { o with gen := i + 1 }) s1)

/-- The access engines of the tiles that work on a matrix operation (R189). -/
def Op.tileUnits (o : Op) (s : State) : List Nat := o.tiles.flatMap (fun l => match physOf s l with
  | some p => [tileUnit p 5]
  | none => [])

/-- Run a matrix operation from its first block that is not done: the drains that a fault held go on first. -/
def runBlocks (tag : Nat) (s : State) : State :=
  let s0 := resumeDrains tag (releaseParts tag s)
  match findOp s0 tag with
  | some o => driveBlocks tag (2 * o.nBlocks + 2) (markWork (o.tileUnits s0) (setModes o s0))
  | none => s0

/-! ### Generation sweeps (R89 to R91, R205) -/

/-- Columns that a request brings (R89). -/
def Op.sweepCols (o : Op) : Nat := if o.trans then o.rowsC else o.colsC

/-- What identifies the weights of a sweep: the whole record of the operand on the array rows (R89). -/
def Op.weightRec (o : Op) : List Byte := ((o.recs.find? (fun r => r.1 = o.rowRec)).map (·.2)).getD []

/-- What requests of one sweep share: with the rest, the address space in which their records name the same bytes (R89). -/
def Op.sweepKey (o : Op) : List Byte :=
  leBytes 2 o.asid ++ leBytes 1 o.rowRec ++ o.weightRec ++ leBytes 1 (o.tensor o.colRec).format ++ leBytes 2 o.arith ++
    leBytes 1 (o.tensor 3).format ++ leBytes 8 o.epiImage ++
    (if o.epiImage = 0 then [] else (o.image.drop 12).take 4 ++ (o.desc.drop 64).take 32) ++ leBytes 1 o.prio

/-- The first element of the column operand that cannot be staged yet, and why (R89). -/
def Op.unstaged (o : Op) (s : State) : Option Stop :=
  let t := o.tensor o.colRec
  (List.range t.count).findSome? (fun l => match operandAt s (whoOf o) t (t.coords l) with
    | .error e => some e
    | .ok _ => none)

/-- The codes of a run of elements with their B8 codes. -/
def shardCodes (s : State) (w : Who) (t : Tensor) : List Nat → Except Stop (List (Nat × Nat))
  | [] => .ok []
  | l :: ls =>
    let c := t.coords l
    match (if isT t.format then blockScale s w t (t.block c) else .ok 127), loadCode s w t c with
    | .ok b, .ok code => (shardCodes s w t ls).map (fun r => (code, b) :: r)
    | .error e, _ => .error e
    | _, .error e => .error e

/-- The weights of a sweep: the copy that is resident, for at most four sweeps, or one that is fetched now (R91). A fetch
that stops leaves each request to meet the stop by itself. -/
def stageWeights (tags : List Nat) (o : Op) (s : State) : State :=
  let use (i : Nat) (s : State) : State := tags.foldl (fun s t => updOp t (fun o => { o with resident := some i }) s) s
  let put (r : Resident) : State := use r.id { s with place := { s.place with resident := some r } }
  let fetch : State :=
    let a := o.tensor o.rowRec
    match shardCodes s (whoOf o) a (List.range a.count) with
    | .error _ => s
    | .ok cs =>
      let id := match s.place.resident with
        | some r => r.id + 1
        | none => 0
      put { id, ident := o.weightRec ++ leBytes 2 o.asid, codes := cs, sweeps := 1 }
  match s.place.resident with
  | some r => if r.ident = o.weightRec ++ leBytes 2 o.asid ∧ r.sweeps < 4 then put { r with sweeps := r.sweeps + 1 } else fetch
  | none => fetch

/-- The sums of block i of each request of a sweep that is still issued, with the columns that it owns; a request that
cannot go on stops alone (R89, R96). -/
def sweepParts (ps : List Nat) (i : Nat) : List Nat → Nat → State → List (Op × Blk × List Running × EpiOwn) × State
  | [], _, s => ([], s)
  | tag :: tags, off, s =>
    match findOp s tag with
    | none => sweepParts ps i tags off s
    | some o =>
      let p := ps.headD 0
      if o.phase ≠ .ready then sweepParts ps i tags off s
      else match o.blockVals ({ o with phys := p }.sources s) (o.blk i) with
        | .error e => sweepParts ps i tags off (stopBlock tag [p] (o.blk i) e s)
        | .ok vs =>
          let w := o.ownOf (o.blk i) vs (ps.map (fun p => (getTile s p).name)) (getTile s p).accepted off
          let (l, s1) := sweepParts ps i tags (off + w.cols) (updOp tag (fun o => { o with gen := i + 1 }) s)
          ((o, o.blk i, vs, w) :: l, s1)

/-- The blocks of a sweep: one block command serves the columns of every request, and its drain sorts them by request; an
epilogue run sees the whole drained block (R89, R91, R92). A block whose tile cannot run it leaves the requests to wait. -/
def sweepBlocks (tags : List Nat) (o : Op) : List Nat → State → State
  | [], s => tags.foldl (fun s t => finishRuns t (updOp t (fun o =>
      if o.phase = .ready then { o with phase := .running } else o) s)) s
  | i :: is, s => match o.sliceTiles i s with
    | none => s
    | some ps =>
      let (st, s0) := fetchRow o.tag i ps s
      match st with
      | some e => tags.foldl (fun s t => stopBlock t [] (o.blk i) e s) (stopAt (ps.headD 0) o (o.blk i) s0)
      | none =>
        let (l, s1) := sweepParts ps i tags 0 s0
        sweepBlocks tags o is (giveBlock ps i (o.blk i) l s1)

/-- Issue a sweep: its requests run on one copy of the weights (R90, R91). -/
def issueSweep (id : Nat) (s : State) : State :=
  match tfind id s.place.sweeps with
  | none => s
  | some w =>
    let s1 := { s with place := { s.place with sweeps := terase id s.place.sweeps } }
    let tags := w.ops.filter (fun t => match findOp s1 t with
      | some o => o.phase = .waiting
      | none => false)
    let s2 := tags.foldl (fun s t => updOp t (fun o => { o with phase := .ready }) s) s1
    match tags.head?.bind (findOp s2) with
    | none => s2
    | some o =>
      let s3 := growTree tags (tags.flatMap (fun t => ((findOp s2 t).map (fun o => o.tiles)).getD [])).eraseDups
        (stageWeights tags o s2)
      sweepBlocks tags o (List.range o.nBlocks) (markWork (o.tileUnits s3) (setModes o s3))

/-- Open a sweep with a first request: with no time to wait it issues at once (R90). -/
def openSweep (o : Op) (limit : Nat) (s : State) : State :=
  let w : Sweep := { opened := s.time, limit, cols := o.sweepCols, ops := [o.tag], key := o.sweepKey }
  let id := s.place.nextSweep
  let s1 := { s with place := { s.place with sweeps := tinsert id w s.place.sweeps, nextSweep := id + 1 } }
  if 32 ≤ w.cols ∨ limit = 0 then issueSweep id s1 else s1

/-- A request arrives: it joins the open sweep of its terms, whatever PLC_FILL_TIMEOUT holds by now, or opens one
(R90). -/
def joinSweep (tag : Nat) (o : Op) (s : State) : State :=
  let limit := if (getGroup s (groupOf o.queue)).latencyFirst then 0 else s.place.fillTimeout
  if 32 < o.sweepCols then runBlocks tag (growTree [tag] o.tiles s)
  else match o.unstaged s with
    | some e => stopOp tag e false s
    | none =>
      let s1 := updOp tag (fun o => { o with phase := .waiting }) s
      match s1.place.sweeps.find? (fun e => e.2.key = o.sweepKey) with
      | some (id, w) =>
        if w.cols + o.sweepCols ≤ 32 then
          let s2 := { s1 with place := { s1.place with
            sweeps := tinsert id { w with cols := w.cols + o.sweepCols, ops := w.ops ++ [tag] } s1.place.sweeps } }
          if w.cols + o.sweepCols = 32 then issueSweep id s2 else s2
        else openSweep o limit (issueSweep id s1)
      | none => openSweep o limit s1

/-- PLC_FILL_TIMEOUT expires for a sweep (R90). -/
def sweepTimeoutOp (id : Nat) (s : State) : State :=
  match tfind id s.place.sweeps with
  | some w => issueSweep id (passTo (w.opened + w.limit * 1000) s)
  | none => s

/-! ### The carousel (R180 to R183) -/

/-- Bytes of the elements of a tensor (R30). -/
def Tensor.elemBytes (t : Tensor) : Nat :=
  ceilDiv (t.dim 0) (unitElems t.format) * fmtBytes t.format * (t.count / t.dim 0)

/-- The bounds of part j of n consecutive parts of a length. -/
def partLo (len n j : Nat) : Nat := j * len / n
def partLen (len n j : Nat) : Nat := partLo len n (j + 1) - partLo len n j

/-- The bounds of column group j of n: whole runs of 32 columns, so that no B8 block of a T destination is divided (R63,
R181). -/
def colLo (len n j : Nat) : Nat := min len (32 * partLo (ceilDiv len 32) n j)

/-- What a later carousel MATMUL must share with the resident weights: address, format, extents, tensor scale and
SCALE_STAMP (R183). -/
def weightId (raw : List Byte) : List Byte := raw.take 36 ++ (raw.drop 72).take 4

/-- Logical tiles that no ring of another group holds. -/
def freeForRing (s : State) (g : Nat) : List Nat :=
  (pinnedTiles s g).filter (fun t => s.place.rings.all (fun e => e.1 = g || !decide (t ∈ e.2.ring)))

/-- Whether n shards of a weight record each fit 1 MiB. -/
def shardsFit (a : Tensor) (n : Nat) : Bool :=
  decide (a.elemBytes ≤ n * 2 ^ 20) && decide (ceilDiv (a.dim 1) n * (a.elemBytes / a.dim 1) ≤ 2 ^ 20)

/-- The ring for a weight record: the tiles that placement names, where they serve and can run its blocks, else as few of the
lowest free ones as do, those of the affinity group's dies first (R88, R180, R204). -/
def chooseRing (s : State) (g : Nat) (o : Op) (want : List Nat) : Option (List Nat) :=
  let a := o.tensor 1
  let free := affineTiles s o ((freeForRing s g).filter (fun t => o.runsOn (tileAt s t)))
  let named := sortNat (want.filter (fun t => decide (t ∈ free)))
  if !named.isEmpty && shardsFit a named.length then some named
  else ((List.range free.length).find? (fun i => shardsFit a (i + 1))).map (fun i => free.take (i + 1))

/-- The elements of shard j of n, in linear order: its indices of M across all batch indices (R180). -/
def Tensor.shardElems (a : Tensor) (n j : Nat) : List Nat :=
  let lo := partLo (a.dim 1) n j
  let len := partLen (a.dim 1) n j
  (List.range (a.count / (a.dim 0 * a.dim 1))).flatMap (fun b =>
    (List.range (len * a.dim 0)).map (fun i => a.dim 0 * (lo + a.dim 1 * b) + i))

/-- The place of an element within shard j of n. -/
def Tensor.inShard (a : Tensor) (n j : Nat) (c : List Nat) : Nat :=
  let l := a.linear c
  let lo := partLo (a.dim 1) n j
  let len := partLen (a.dim 1) n j
  l % a.dim 0 + a.dim 0 * ((l / a.dim 0 % a.dim 1 - lo) + len * (l / (a.dim 0 * a.dim 1)))

/-- The shard that place p of a ring of n works on in phase f. -/
def shardIn (n p f : Nat) : Nat := (p + n * f - f) % n

/-- The codes of a shard in a tile's buffers. -/
def Tile.shard (t : Tile) (j : Nat) : Option (List (Nat × Nat)) := (t.shards.find? (fun x => x.1 = j)).map (·.2)

/-- The physical tile at a place of a ring. -/
def ringPhys (r : Carousel) (p : Nat) (s : State) : Nat := (physOf s (r.ring.getD p 0)).getD 0

/-- Load a shard from memory into the buffers of the tile at a place of a ring. -/
def loadShard (r : Carousel) (o : Op) (p j : Nat) (s : State) : Except Stop State :=
  (shardCodes s (whoOf o) (o.tensor 1) ((o.tensor 1).shardElems r.ring.length j)).map (fun cs =>
    updTile (ringPhys r p s) (fun t => { t with shards := (t.shards ++ [(j, cs)]).take 2 }) s)

/-- The place that a shard has reached in the step that runs: the last that has worked on it, else its own. -/
def shardPlace (r : Carousel) (j : Nat) : Nat :=
  let n := r.ring.length
  let c := ((List.range n).takeWhile (fun t => decide (t < r.phases.getD ((j + t) % n) 0))).length
  (j + (c - 1)) % n

/-- A shard that no tile of the ring holds any more is loaded again from memory, where it stood (R182, R183). -/
def reloadShards (r : Carousel) (o : Op) : List Nat → State → Except Stop State
  | [], s => .ok s
  | j :: js, s =>
    if (List.range r.ring.length).any (fun q => ((getTile s (ringPhys r q s)).shard j).isSome) then reloadShards r o js s
    else match loadShard r o (shardPlace r j) j s with
      | .error e => .error e
      | .ok s1 => reloadShards r o js s1

/-- The blocks of phase f at place p of a ring: the shard's rows times the tile's columns, in every batch, cut where the
array's 128 × 32 blocks end. -/
def Op.ringBlocks (o : Op) (n p f : Nat) : List Blk :=
  let j := shardIn n p f
  let m0 := partLo o.rowsC n j
  let m1 := partLo o.rowsC n (j + 1)
  let n0 := colLo o.colsC n p
  let n1 := colLo o.colsC n (p + 1)
  let cuts (lo hi step : Nat) : List (Nat × Nat) :=
    (List.range (ceilDiv hi step)).filterMap (fun i =>
      let a := max lo (i * step)
      let b := min hi ((i + 1) * step)
      if a < b then some (a, b - a) else none)
  (List.range o.batches).flatMap (fun b => (cuts m0 m1 128).flatMap (fun x => (cuts n0 n1 32).map (fun y =>
    (x.1, x.2, y.1, y.2, b, x.1 / 128, y.1 / 32))))

/-- Do the blocks of a phase at a place, from the first that is not done, while nothing stops the operation. -/
def phaseBlocks (tag key p j : Nat) (r : Carousel) : List Blk → Nat → State → State
  | [], _, s => s
  | x :: xs, i, s =>
    match findOp s tag with
    | none => s
    | some o =>
      if !issues s tag then s
      else if key + i ∈ o.blocksDone then phaseBlocks tag key p j r xs (i + 1) s
      else
        let a := o.tensor 1
        let o1 := { o with phys := p }
        let cs := ((getTile s p).shard j).getD []
        let src : Sources := (fun c => .ok (shardOperand a cs (a.inShard r.ring.length j c)), operandAt (o1.original s) (whoOf o1) (o.tensor 2))
        match blockAct (key + i) [p] x src o1 (setOp s o1) with
        | (some e, s1) => stopBlock tag [p] x e s1
        | (none, s1) => phaseBlocks tag key p j r xs (i + 1) (updOp tag (fun o => { o with blocksDone := o.blocksDone ++ [key + i] }) s1)

/-- Change a group's ring. -/
def setRing (g : Nat) (r : Carousel) (s : State) : State :=
  { s with place := { s.place with rings := tinsert g r s.place.rings } }

/-- A tile of a ring whose banks are free takes the mode of its shard rows and column group (R197). -/
def ringMode (r : Carousel) (p : Nat) (o : Op) (s : State) : State :=
  let n := r.ring.length
  let m := modeFor (ceilDiv o.rowsC n) (colLo o.colsC n (p + 1) - colLo o.colsC n p) o.blocksAcross
  updTile (ringPhys r p s) (fun t =>
    if banksFree t && t.parts.all (fun e => e.2.st = 0) && t.mode ≠ m then { t with mode := m, parts := [] } else t) s

/-- Place p of a ring does its next phase with the shard it holds; a shard of a retired tile is loaded again first (R181,
R182). A tile that cannot run its blocks leaves the phase to wait (R88). -/
def ringPhase (g p : Nat) (r : Carousel) (o : Op) (s : State) : State :=
  let n := r.ring.length
  let f := r.phases.getD p 0
  match reloadShards r o (List.range n) s with
  | .error e => stopIssued o.tag e false s
  | .ok s0 =>
    let s1 := ringMode r p o s0
    let key := (p * n + f) * 2 ^ 32
    let blocks := o.ringBlocks n p f
    if !o.runsOn (getTile s1 (ringPhys r p s1)) then s1
    else
      let s2 := phaseBlocks o.tag key (ringPhys r p s1) (shardIn n p f) r blocks 0 s1
      let done := ((findOp s2 o.tag).map (fun o => (List.range blocks.length).all (fun i => decide (key + i ∈ o.blocksDone)))).getD false
      if done then setRing g { r with phases := r.phases.set p (f + 1) } s2 else s2

/-- Whether every place of a ring has done every phase. -/
def ringDone (r : Carousel) : Bool := r.phases.all (fun f => decide (r.ring.length ≤ f))

/-- After the last phase each shard has gone on to its own tile again. -/
def shardsHome (r : Carousel) (s : State) : State :=
  let all := (List.range r.ring.length).flatMap (fun q => (getTile s (ringPhys r q s)).shards)
  (List.range r.ring.length).foldl (fun s q =>
    updTile (ringPhys r q s) (fun t => { t with shards := (all.filter (fun x => x.1 = q)).take 1 }) s) s

/-- The step ends when every shard has met every column group, and every epilogue run has ended. -/
def ringCheck (g tag : Nat) (s : State) : State :=
  match tfind g s.place.rings, findOp s tag with
  | some r, some o =>
    if (o.phase = .ready || o.phase = .running) && ringDone r then
      finishRuns tag (updOp tag (fun o => { o with phase := .running }) (setRing g { r with phases := [] } (shardsHome r s)))
    else if o.phase = .ready && r.phases.all (fun f => decide (0 < f)) then updOp tag (fun o => { o with phase := .running }) s
    else s
  | _, _ => s

/-- A place of a ring whose tile has retired without a spare takes a replacement tile that no ring holds, where there is one
(R182). -/
def mendRing (g : Nat) (o : Op) (s : State) : State :=
  match tfind g s.place.rings with
  | none => s
  | some r =>
    let free := affineTiles s o (freeForRing s g)
    let ring := r.ring.zipIdx.foldl (fun (l : List Nat) x =>
      if (physOf s x.1).isSome then l else match free.find? (fun t => !decide (t ∈ l)) with
        | some t => l.set x.2 t
        | none => l) r.ring
    setRing g { r with ring } s

/-- Whether every place of a ring has a tile; else the ring stands paused (R182). -/
def ringWhole (r : Carousel) (s : State) : Bool := r.ring.all (fun l => (physOf s l).isSome)

/-- Every place begins the step with its own shard. -/
def ringBegin (g tag : Nat) (s : State) : State :=
  let s := match findOp s tag with
    | some o => mendRing g o s
    | none => s
  match tfind g s.place.rings with
  | none => s
  | some r =>
    if !ringWhole r s then s
    else ringCheck g tag ((List.range r.ring.length).foldl (fun s p =>
      match tfind g s.place.rings, findOp s tag with
      | some r, some o =>
        if o.phase = .ready && decide (r.phases.getD p 0 = 0) then ringPhase g p r o s else s
      | _, _ => s) (setRing g { r with taken := false } (resumeDrains tag (releaseParts tag s))))

/-- The buffers of a ring's tiles are given up. -/
def dropShards (r : Carousel) (s : State) : State :=
  (List.range r.ring.length).foldl (fun s q => updTile (ringPhys r q s) (fun t => { t with shards := [] }) s) s

/-- Load each shard into its own tile. -/
def loadRing (r : Carousel) (o : Op) : List Nat → State → Except Stop State
  | [], s => .ok s
  | p :: ps, s => match loadShard r o p p s with
    | .error e => .error e
    | .ok s1 => loadRing r o ps s1

/-- Build a ring for the weights that an operation names, and begin its step. -/
def newRing (g tag : Nat) (ident : List Byte) (o : Op) (s : State) : State :=
  let s0 := match tfind g s.place.rings with
    | some r => dropShards r s
    | none => s
  match chooseRing s g o o.tiles with
  | none => refuseOp tag 0x12 s
  | some ring =>
    let r : Carousel := { record := ident, ring, phases := ring.map (fun _ => 0), op := tag }
    match loadRing r o (List.range ring.length) (dropShards r s0) with
    | .error e => stopOp tag e false s
    | .ok s1 => ringBegin g tag (setRing g r s1)

/-- A carousel MATMUL: find or build the ring, then begin the step, or go on with it (R180, R181, R183). -/
def carouselOp (tag : Nat) (o : Op) (s : State) : State :=
  let g := groupOf o.queue
  let ident := weightId (((o.recs.find? (fun r => r.1 = 1)).map (·.2)).getD [])
  match tfind g s.place.rings with
  | some r =>
    if r.op = tag && !r.phases.isEmpty then ringBegin g tag s
    else if !r.phases.isEmpty then s
    else if r.record = ident then ringBegin g tag (setRing g { r with op := tag, phases := r.ring.map (fun _ => 0) } s)
    else newRing g tag ident o s
  | none => newRing g tag ident o s

/-- A predecessor's shard arrives in the free buffer of a place, which begins its next phase (R181): the predecessor has
done the phase before, and the place has sent on the shard before its last. -/
def shardArriveOp (g p : Nat) (s : State) : State :=
  let s := match (tfind g s.place.rings).bind (fun r => findOp s r.op) with
    | some o => mendRing g o s
    | none => s
  match tfind g s.place.rings with
  | none => s
  | some r =>
    match findOp s r.op with
    | none => s
    | some o =>
      let n := r.ring.length
      let f := r.phases.getD p 0
      let from_ := ringPhys r ((p + n - 1) % n) s
      let here := getTile s (ringPhys r p s)
      let j := shardIn n p f
      if issues s o.tag && !r.taken && ringWhole r s && decide (p < r.phases.length ∧ 0 < f ∧ f < n ∧ f ≤ r.phases.getD ((p + n - 1) % n) 0 ∧
          f ≤ r.phases.getD ((p + 1) % n) 0 + 1 ∧ (here.shards.length < 2 ∨ (here.shard j).isSome)) then
        match reloadShards r o (List.range n) s with
        | .error e => stopIssued o.tag e false s
        | .ok s0 => ringCheck g o.tag (ringPhase g p r o (match (getTile s0 from_).shard j with
          | some cs => updTile (ringPhys r p s0) (fun t => { t with
                shards := if t.shards.any (fun x => x.1 = j) then t.shards else t.shards ++ [(j, cs)] })
              (updTile from_ (fun t => { t with shards := t.shards.filter (fun x => decide (x.1 ≠ j)) }) s0)
          | none => s0))
      else s

/-! ### The commands -/

/-- A matrix operation begins or goes on, on the tiles, with the K-slices and the order of their sums that placement
chooses. One for which no tile can be set to its mode waits. -/
def matrixOp (tag : Nat) (tiles slices order : List Nat) (o : Op) (s : State) : State :=
  let g := groupOf o.queue
  if (pinnedTiles s g).isEmpty then refuseOp tag 0x12 s
  else
    let first := o.gen = 0 && o.tiles.isEmpty
    let l := spreadTiles s o tiles
    let o0 : Op := if first then { o with tiles := l, slices, sumTree := order } else o
    let o1 : Op := { o0.deal s (if tiles.isEmpty then [] else l) with started := true }
    let s1 := setOp s o1
    if o1.carousel then carouselOp tag o1 s1
    else if first && l.isEmpty then updOp tag (fun o => { o with started := false }) s
    else if o1.batchOk && o1.gen = 0 then joinSweep tag o1 s1
    else runBlocks tag (growTree [tag] o1.tiles s1)

/-- MATMUL (R280). -/
def execMatmul (op : Nat) (tiles slices order : List Nat) (s : State) : Host.Outcome State Fault Refusal :=
  .next (runOp op [0x10] (matrixOp op tiles slices order) s)

/-- CONV (R281). -/
def execConv (op : Nat) (tiles slices order : List Nat) (s : State) : Host.Outcome State Fault Refusal :=
  .next (runOp op [0x12] (matrixOp op tiles slices order) s)

/-- SWEEP_TIMEOUT (R90). -/
def execSweepTimeout (sweep : Nat) (s : State) : Host.Outcome State Fault Refusal :=
  .next (sweepTimeoutOp sweep s)

/-- MULTICAST_PRUNE (R178). -/
def execMulticastPrune (tree member : Nat) (s : State) : Host.Outcome State Fault Refusal :=
  .next (multicastPruneOp tree member s)

/-- SHARD_ARRIVE (R181). -/
def execShardArrive (group pos : Nat) (s : State) : Host.Outcome State Fault Refusal :=
  .next (shardArriveOp group pos s)

end Sys2Proof.Machine
end

