-- ==== Sys2Proof/Machine/Contexts.lean ====
section
/-! DEFINITION. Pre-emption, saved contexts and the retirement of tiles (R94, R95, R100, R116, R182, R201,
R250 to R257). -/

namespace Sys2Proof.Machine

/-! ### Registers of a run (R108) -/

def VecRun.getV (r : VecRun) (i lane : Nat) : Nat := tget (dflt 0) r.v (64 * i + lane)
def VecRun.getAcc (r : VecRun) (i lane : Nat) : Nat := tget (dflt 0) r.acc (64 * i + lane)
def VecRun.getS (r : VecRun) (i : Nat) : Nat := tget (dflt 0) r.sreg i
def VecRun.getP (r : VecRun) (i : Nat) : Nat := if i = 0 then 2 ^ 64 - 1 else tget (dflt 0) r.preds i
def VecRun.ctr (r : VecRun) (i : Nat) : ArrCounter := tget (dflt {}) r.ctrs i

/-! ### The bytes of a context (R255 to R257) -/

/-- Bytes whose content the manual leaves to the unit (R257; log entry 2). -/
def openBytes (n : Nat) (s : State) : List Byte × State :=
  let (x, s1) := takeFree (8 * n) s
  (leBytes n x.toNat, s1)

/-- The PARTITION section: the command, mode and banks, the candidate, the cursor and the flags. -/
def partitionBytes (c : Context) (q : Partn) (s : State) : List Byte × State :=
  let acc := if q.accBank = 0 then q.bankA else q.bankB
  let (g1, s1) := openBytes 13 s
  let (g2, s2) := openBytes 1 s1
  let (g3, s3) := openBytes 148 s2
  let cur := leBytes 3 (bits q.cmd 256 24) ++ leBytes 3 (bits q.cmd 280 24) ++ leBytes 3 (bits q.cmd 304 20)
  let fl := match findOp s c.op with
    | some o => o.flags
    | none => 0
  (leBytes 64 q.cmd ++ leBytes 1 c.mode ++ leBytes 1 (q.bankA.st + 4 * q.bankB.st) ++ leBytes 1 q.accBank ++ g1 ++
    leBytes 16 (acc.cand.getD 0) ++ cur ++ g2 ++ leBytes 2 fl ++ g3, s3)

/-- A SLOT section of 256 bytes. -/
def slotBytes (x : Nat × Transfer) (s : State) : List Byte × State :=
  let t := parseTensor x.2.record
  let (g1, s1) := openBytes 2 s
  let (g2, s2) := openBytes 2 s1
  let (g3, s3) := openBytes 214 s2
  (leBytes 1 x.1 ++ leBytes 1 (b2n x.2.suspended) ++ g1 ++ (t.coords x.2.cursor).flatMap (leBytes 4) ++
    leBytes 6 x.2.cursor ++ g2 ++ leBytes 8 x.2.faultAddr ++ leBytes 2 0 ++ g3, s3)

/-- The VECTOR section of 16,384 bytes. -/
def vectorBytes (r : VecRun) (s : State) : List Byte × State :=
  let vs := (List.range 32).flatMap (fun i => (List.range 64).flatMap (fun l => leBytes 4 (r.getV i l)))
  let as := (List.range 4).flatMap (fun i => (List.range 64).flatMap (fun l =>
    leBytes 8 (toContainer 0x41 (r.getAcc i l))))
  let ss := (List.range 16).flatMap (fun i => leBytes 8 (r.getS i))
  let ps := (List.range 8).flatMap (fun i => leBytes 8 (r.getP i))
  let lv (i : Nat) : List Byte := match r.loops[i]? with
    | some x => leBytes 4 x.count ++ leBytes 4 x.start ++ leBytes 8 x.len
    | none => leBytes 16 0
  let cs := (List.range 8).flatMap (fun i =>
    let c := r.ctr i
    leBytes 8 c.count ++ leBytes 4 (wrapInt 32 c.release) ++ leBytes 4 c.winLen)
  let (g1, s1) := openBytes (0x2900 - 0x28E2) s
  let (g2, s2) := openBytes (0x4000 - 0x29A2) s1
  (vs ++ as ++ ss ++ ps ++ lv 0 ++ lv 1 ++ leBytes 2 r.pc ++ g1 ++ cs ++ leBytes 8 r.winBase ++ leBytes 8 r.winSize ++
    leBytes 8 r.imgAddr ++ leBytes 8 r.imgTag ++ leBytes 2 r.flags ++ g2, s2)

/-- The data sections that a context needs: type, bank address, bytes (R255). -/
def contextSections (c : Context) (s : State) : List (Nat × Nat × List Byte) × State :=
  let (a, s1) := match c.partn with
    | some q => let (b, s1) := partitionBytes c q s
                ([(1, 0, b)], s1)
    | none => ([], s)
  let (b, s2) := c.xfers.foldl (fun (acc : List (Nat × Nat × List Byte) × State) x =>
    let (bs, s') := slotBytes x acc.2
    (acc.1 ++ [(2, 0, bs)], s')) ([], s1)
  let (d, s3) := match c.run with
    | some r => let (v, s3) := vectorBytes r s2
                ([(4, 0, v), (5, r.winBase, c.window)], s3)
    | none => ([], s2)
  (a ++ b ++ d ++ c.stores.map (fun x => (6, x.1, x.2)), s3)

/-- An entry of the section table: type, offset, length, address (R256). -/
def tableEntryBytes (ty off len addr : Nat) : List Byte := leBytes 4 ty ++ leBytes 4 off ++ leBytes 4 len ++ leBytes 4 addr

/-- The table entries of the regions that are fetched again: each without data, followed by an entry of TYPE 0x00 that names
the device virtual address and the address space of the copied memory (R255, R256). -/
def refetchEntries (c : Context) : List Byte :=
  c.refetch.flatMap (fun r => tableEntryBytes 7 0 r.2.1 r.1 ++ leBytes 4 0 ++ leBytes 8 r.2.2.1 ++ leBytes 4 r.2.2.2)

/-- The length of a context. -/
def contextLen (c : Context) : Nat :=
  4096 + (if c.partn.isSome then 256 else 0) + 256 * c.xfers.length +
    (if c.run.isSome then 16384 + c.window.length else 0) + c.stores.foldl (fun n x => n + x.2.length) 0

/-- The bytes of a context: header, section table and sections (R255, R256). -/
def contextBytes (c : Context) (s : State) : List Byte × State :=
  let (secs, s1) := contextSections c s
  let (table, _) := secs.foldl (fun (acc : List Byte × Nat) x =>
    (acc.1 ++ tableEntryBytes x.1 acc.2 x.2.2.length x.2.1, acc.2 + x.2.2.length))
    (([] : List Byte), 4096)
  let head := leBytes 4 0x43580001 ++ leBytes 2 1 ++ leBytes 1 c.kind ++ leBytes 1 c.prio ++ leBytes 4 c.op ++
    leBytes 4 (contextLen c) ++ leBytes 2 c.tile ++ leBytes 1 c.part ++ leBytes 1 (secs.length + 2 * c.refetch.length) ++
    leBytes 8 c.time ++
    leBytes 4 1 ++ leBytes 32 0
  (padTo 4096 (head ++ table ++ refetchEntries c) ++ secs.flatMap (fun x => x.2.2), s1)

/-! ### Saving (R94, R116, R250, R251, R254) -/

/-- Memory that the Ringmaster keeps for the contexts of a die: 28 MiB on each stack in service (R255; log
entry 24). -/
def contextRoom (s : State) (die : Nat) : Nat :=
  ((List.range 8).filter (fun j => let k := getStack s (8 * die + j)
    k.present && !k.lost)).length * 28 * 2 ^ 20

/-- The die of the tile that a context was saved from. -/
def contextDie (s : State) (c : Context) : Nat := (physOf s c.tile).getD 0 / 72

/-- Whether a context can be kept. -/
def contextFits (s : State) (die : Nat) (c : Context) : Bool :=
  let used := (s.contexts.filter (fun x => contextDie s x = die)).foldl (fun n x => n + contextLen x) 0
  decide (used + contextLen c ≤ contextRoom s die)

/-- The operation whose work a partition holds: of its block command, or of the epilogue run that serves it. -/
def partRun (t : Tile) (q : Nat) : Bool :=
  t.run.kind = 1 && (match t.run.block with
    | some b => b.part = q
    | none => q = 0)
def partTag (t : Tile) (q : Nat) : Nat :=
  if (getPart t q).st ≠ 1 && partRun t q then t.run.op else cmdTag (getPart t q).cmd

/-- Whether a partition has work that a context can hold: it accumulates, an epilogue run serves it, or commands wait at it
(R100, R116, R255). -/
def partBusy (t : Tile) (q : Nat) : Bool := (getPart t q).st = 1 || partRun t q || !(getPart t q).held.isEmpty

/-- Whether a bank of a partition still drains. -/
def Partn.draining (x : Partn) : Bool := x.bankA.st = 2 || x.bankB.st = 2

/-- The tile-store regions that a waiting command reads, with their bytes (R255). -/
def storeRegions (t : Tile) (c : Nat) : List (Nat × List Byte) :=
  let w := (cmdWAddr c, blockBytes (cmdWFmt c) (cmdRows c) (cmdK c))
  let x := (cmdXAddr c % 2 ^ 22, blockBytes (cmdXFmt c) (cmdCols c) (cmdK c))
  let l := if cmdOp c = 1 ∨ cmdOp c = 2 then (if cmdXAddr c = 2 ^ 32 - 1 then [w] else [w, x]) else []
  l.map (fun r => (r.1, Memory.readN t.store r.1 r.2))

/-- Whether a region of the store copies memory (R255). -/
def Tile.copied (t : Tile) (a : Nat) : Bool := t.copies.any (fun r => decide (r.1 ≤ a ∧ a < r.1 + r.2.1))

/-- The slots of a tile that serve an operation's partitions, as a context keeps them (R251, R255). -/
def slotsFor (t : Tile) (tag : Nat) : Table Transfer :=
  (t.xfers.filter (fun e => decide (e.2.op = tag))).map (fun e => (e.1, { e.2 with arrived := [] }))

/-- The context of a partition with the epilogue run and the slots that serve it, and the tile without its work: the
accumulating block is discarded, and its commands run again when the context resumes (R94, R255). -/
def takePart (s : State) (p q : Nat) : Context × Tile :=
  let t := getTile s p
  let x := getPart t q
  let withRun := partRun t q
  let c : Context := { partContext s p q (partTag t q) x with
    run := if withRun then some t.run else none
    window := if withRun then Memory.readN t.bank t.run.winBase t.run.winSize else []
    stores := (((x.redo ++ x.held).flatMap (fun h => storeRegions t h.1)).filter (fun r => !t.copied r.1)).eraseDups
    xfers := slotsFor t (partTag t q) }
  let x1 := { x.mapBanks (fun b => if b.st = 1 then {} else b) with st := 2, held := [] }
  (c, let t1 := { setPart t q x1 with xfers := t.xfers.filter (fun e => decide (e.2.op ≠ partTag t q)) }
      if withRun then { t1 with run := { t1.run with kind := 0 } } else t1)

/-- The context of a stream run with its slots. -/
def takeStream (s : State) (p : Nat) : Context × Tile :=
  let t := getTile s p
  let c : Context := { kind := 1, prio := t.run.prio, op := t.run.op, tile := t.name, part := 0, time := s.time
                       run := some t.run, window := Memory.readN t.bank t.run.winBase t.run.winSize
                       xfers := slotsFor t t.run.op }
  (c, { t with run := { t.run with kind := 0 }, xfers := t.xfers.filter (fun e => decide (e.2.op ≠ t.run.op)) })

/-- Keep a context, if there is room; else nothing is pre-empted (R254). -/
def keepContext (p : Nat) (x : Context × Tile) (s : State) : State :=
  if contextFits s (p / 72) x.1 then setTile { s with contexts := s.contexts ++ [x.1] } p x.2
  else record 0x0603 0x05 [] s

/-- The group of the carousel ring that holds a logical tile. -/
def ringOf (s : State) (l : Nat) : Option Nat := (s.place.rings.find? (fun e => decide (l ∈ e.2.ring))).map (·.1)

/-- A ring gives up its tiles at a phase boundary, whole: its shards are dropped and loaded again when its operation goes on
(R182, R183). -/
def reclaimRing (g : Nat) (s : State) : State :=
  match tfind g s.place.rings with
  | some r =>
    let s1 := setRing g { r with taken := true } (dropShards r s)
    if r.phases.isEmpty then s1
    else updOp r.op (fun o => if o.phase = .running then { o with phase := .ready } else o) s1
  | none => s

/-! ### Restoring (R253, R254) -/

/-- The regions that copy memory are fetched again: the row operand of the block that the operation goes on with (R253,
R255). -/
def refetchStore (p : Nat) (c : Context) (s : State) : State :=
  match c.refetch, findOp s c.op with
  | [], _ => s
  | _, none => s
  | rs, some o =>
    if decide (o.opc = 0x10 ∨ o.opc = 0x12) && decide (o.gen < o.nBlocks) then
      updTile p (fun t => { t with
        store := Memory.writeN t.store 0 ((storeImage s (whoAt o p) (o.tensor o.rowRec) (o.rowElems (o.blk o.gen))).take (2 ^ 22))
        copies := rs }) s
    else s

/-- A restored bank: one that drains goes on draining; the discarded block's commands run again (R94). -/
def restoreBank (saved here : PeBank) : PeBank := if saved.st = 2 then saved else here

/-- Free slots of a tile take a context's transfers, which go on from their cursors; a fault that has resolved meanwhile no
longer holds one (R166, R251, R253). -/
def placeSlots (held : Bool) (l : Table Transfer) (t : Tile) : Tile :=
  (l.filter (fun e => e.2.window || held)).foldl (fun t e =>
    let k := if (tfind e.1 t.xfers).isNone then e.1
      else ((List.range 16).find? (fun k => (tfind k t.xfers).isNone)).getD 16
    { t with xfers := tinsert k { e.2 with suspended := e.2.suspended && held } t.xfers }) t

/-- Put a context's work onto a tile, if its units, its banks and as many slots are free there and its image finds room
(R112, R166, R253). -/
def placeContext (p : Nat) (c : Context) (s : State) : Option State :=
  let t := getTile s p
  let held := ((findOp s c.op).map (fun o => decide (o.phase = .suspended))).getD false
  let withRun (t : Tile) : Tile := placeSlots held c.xfers (match c.run with
    | some r => loadImage s r.imgAddr r.imgTag { t with run := r, bank := Memory.writeN t.bank r.winBase c.window }
    | none => t)
  let fits := decide (t.xfers.length + c.xfers.length ≤ 16) && (match c.run with
    | some r => !(t.run.kind = 1 || t.run.kind = 2) && (loadImage s r.imgAddr r.imgTag t).holds r.imgAddr r.imgTag
    | none => true)
  match c.partn with
  | some x =>
    let here := getPart t c.part
    if fits && t.mode = c.mode && here.st ≠ 1 && here.held.isEmpty && here.bankA.st ≠ 1 && here.bankB.st ≠ 1 &&
        !(x.bankA.st = 2 && here.bankA.st ≠ 0) && !(x.bankB.st = 2 && here.bankB.st ≠ 0) then
      let t0 := { t with store := c.stores.foldl (fun m r => Memory.writeN m r.1 r.2) t.store }
      let held := x.redo ++ x.held
      some (runHeld p c.part (held.length + 1) (refetchStore p c (setTile s p (withRun (setPart t0 c.part
        { cmd := x.cmd, accBank := x.accBank, st := 0, held
          bankA := restoreBank x.bankA here.bankA, bankB := restoreBank x.bankB here.bankB })))))
    else none
  | none => if fits then some (setTile s p (withRun t)) else none

/-- Once its context is released, the partition that it was saved from is idle. -/
def releasePart (c : Context) (s : State) : State :=
  match physOf s c.tile with
  | some p =>
    let t := getTile s p
    let x := getPart t c.part
    if c.kind = 0 ∧ x.st = 2 then setTile s p (setPart t c.part { x with st := 0 }) else s
  | none => s

/-- Whether the operation of a context waits for a fault of its own to resolve. -/
def Context.faulted (c : Context) (s : State) : Bool :=
  ((findOp s c.op).map (fun o => decide (o.phase = .suspended))).getD false

/-- Whether a context is the first to resume of its kind, among those whose fault is not still open: the highest priority,
then the oldest (R253). -/
def firstToResume (waits : Context → Bool) (l : List Context) (i : Nat) (c : Context) : Bool :=
  l.zipIdx.all (fun x => x.2 = i || x.1.kind != c.kind || waits x.1 || decide (x.1.prio < c.prio) ||
    (x.1.prio = c.prio && decide (i < x.2)))

/-- Pre-empted work resumes on a tile; a context that cannot be read ends its operation (R253, R254). -/
def resumeOp (i p : Nat) (readOk : Bool) (s : State) : State :=
  match s.contexts[i]? with
  | none => s
  | some c =>
    if !firstToResume (fun x => x.faulted s) s.contexts i c || c.faulted s then s
    else
      let s1 := releasePart c { s with contexts := s.contexts.eraseIdx i }
      if !readOk then
        match findOp s1 c.op with
        | some o => if o.phase = .done then s1 else endIssued c.op (stopWith 0x30 o.cursor 0) s1
        | none => s1
      else match placeContext p c s1 with
        | some s2 => s2
        | none => s

/-! ### Retirement (R100, R101, R182, R201, R424) -/

/-- The unused spares of a die, by physical index. -/
def sparesOf (s : State) (die : Nat) : List Nat :=
  (s.tiles.filter (fun e => e.1 / 72 = die && e.2.st = 3)).map (·.1)

/-- Save everything that runs on a tile whose drains have finished; the tile leaves service, so that its contexts are kept
whatever room there is (R94, R100, R201; log entry 24). -/
def evacuate (p : Nat) (s : State) : State :=
  let keep (x : Context × Tile) (s : State) : State := setTile { s with contexts := s.contexts ++ [x.1] } p x.2
  let s1 := (List.range 4).foldl (fun s q =>
    if partBusy (getTile s p) q || (getPart (getTile s p) q).draining then keep (takePart s p q) s else s) (finishDrains p s)
  if (getTile s1 p).run.kind = 2 then keep (takeStream s1 p) s1 else s1

/-- Resume on a tile, oldest first, the contexts saved under a logical number. -/
def resumeAll (l p : Nat) (s : State) : State :=
  s.contexts.foldl (fun s c => if c.tile = l then
    match placeContext p c { s with contexts := s.contexts.filter (fun x => !decide (x = c)) } with
    | some s2 => s2
    | none => s
    else s) s

/-- The Ice core counts a retirement. -/
def countRetired (p : Nat) (s : State) : State :=
  let l := s.ice.now
  { s with ice := { s.ice with now := { l with retiredMap := insertNat p l.retiredMap } } }

/-- TILE_RETIRED (R403): reason 0 slow, 1 check failed, 2 repairs exhausted, 3 sequencer fault. -/
def recordRetired (p l spare reason : Nat) (s : State) : State :=
  record 0x0203 (tileSrc p) (leBytes 2 p ++ leBytes 2 l ++ leBytes 2 spare ++ leBytes 1 reason) s

/-- Try the spares of a die in turn: one that fails its check pattern is retired too (R201). -/
def findSpare (ok : List Nat) : List Nat → State → Option Nat × State
  | [], s => (none, s)
  | x :: xs, s =>
    if x ∈ ok then (some x, updTile x (fun t => { t with check := 1 }) s)
    else
      let s1 := updTile x (fun t => { t with st := 2, check := 2 }) s
      findSpare ok xs (recordRetired x 0xFFFF 0xFFFF 1 (countRetired x s1))

/-- Members of trees that retire are pruned at once (R178). -/
def pruneTrees (l : Nat) (s : State) : State :=
  s.place.trees.foldl (fun s e => multicastPruneOp e.1 l s) s

/-- A queued block that stands in the vector bank takes its values along to another tile. -/
def carryBlock (t : Tile) (b : EpiBlock) : EpiBlock :=
  let sz := if b.wide then 8 else 4
  { b with vals := some (b.vals.getD ((List.range 4096).map (fun e => leNat (Memory.readN t.bank (b.base + e * sz) sz)))) }

/-- A queued block of a tile that has no spare goes to the lowest tile that may run its operation; where the pin leaves none, the
operation ends with RESOURCE_EXHAUSTED (R201, R206). -/
def blockElsewhere (b : EpiBlock) (s : State) : State :=
  match findOp s b.op with
  | none => s
  | some o => match (affineTiles s o (pinnedTiles s (groupOf o.queue))).head?.bind (physOf s) with
    | some p => updTile p (fun y => { y with epi := y.epi ++ [b] }) s
    | none => endIssued b.op (stopWith 0x12 o.cursor 0) s

/-- Retire a tile: its work is saved, a spare of its die takes its logical number and the work, and the Ice core counts
it (R201). -/
def retireTile (p reason : Nat) (spareOk : List Nat) (s : State) : State :=
  let t := getTile s p
  if t.st = 2 then s
  else match t.logical with
    | none => recordRetired p 0xFFFF 0xFFFF reason (countRetired p (updTile p (fun t => { t with st := 2 }) s))
    | some l =>
      let s1 := pruneTrees l (evacuate p s)
      let t1 := getTile s1 p
      let epi := t1.epi.map (carryBlock t1)
      let idle (t : Tile) : Tile := { t with
        st := 2, logical := none, epi := [], shards := [], parts := t.parts.map (fun e => (e.1, { e.2 with st := 0 })) }
      let s2 := updTile p idle s1
      let (sp, s3) := findSpare spareOk (sparesOf s2 (p / 72)) s2
      let s4 := match sp with
        | some x =>
          let led := s3.ice.now
          resumeAll l x (updTile x (fun y => { y with st := 0, logical := some l, epi := epi, mode := t.mode })
            { s3 with ice := { s3.ice with now := { led with sparesUsed := tadd led.sparesUsed (p / 72) 1 } } })
        | none => epi.foldl (fun s b => blockElsewhere b s) s3
      recordRetired p l (sp.getD 0xFFFF) reason (countRetired p s4)

/-! ### Reading a context (R257) -/

/-- The selection of DBG_CTX_CTRL: the n-th most recent context of a tile, partition and kind. -/
def selectContext (s : State) (sel : Nat) : Option Context :=
  let kind := bits sel 19 1
  let l := (s.contexts.filter (fun c => c.kind = kind && c.tile = bits sel 0 8 &&
    (kind = 1 || c.part = bits sel 8 2))).reverse
  l[bits sel 16 3]?

/-- A write of DBG_CTX_CTRL: GO copies the selected context into the buffer. -/
def contextCopyOp (v : Nat) (s : State) : State :=
  let p := s.place
  let s1 := { s with place := { p with ctxSel := setBits (bits v 0 20) 10 6 0, ctxDone := p.ctxDone && !bit v 29 } }
  if bit v 31 && !copyBusy s 2 then
    match selectContext s1 (bits v 0 20) with
    | none => { s1 with place := { s1.place with ctxDone := true, ctxNone := true } }
    | some c =>
      let (bs, s2) := contextBytes c s1
      runCopy { kind := 2, addr := s2.place.ctxAddr, bytes := bs } s2
  else s1

/-! ### The commands -/

/-- RESUME (R253). -/
def execResume (ctx tile : Nat) (ok : Bool) (s : State) : Host.Outcome State Fault Refusal :=
  .next (resumeOp ctx tile ok s)

/-- CONTEXT_COPY (R257). -/
def execContextCopy (value : W32) (s : State) : Host.Outcome State Fault Refusal :=
  .next (if s.st.ready then contextCopyOp value.toNat s else s)

end Sys2Proof.Machine
end

