-- ==== Sys2Proof/Machine/BlockCmd.lean ====
section
/-! DEFINITION. Block commands on one tile's matrix engine: accumulation, drains, partition modes, the check pattern and
repairs (R76 to R88, R93 to R104, R107). -/

namespace Sys2Proof.Machine

/-! ### Acceptance (R86, R103) -/

/-- A sequencer that cannot execute a command: SEQ_FAULT, and the tile is retired; the spares that pass
their check pattern come with the command (R103, R201). -/
def seqFault (p c : Nat) (spareOk : List Nat) (s : State) : State :=
  retireTile p 3 spareOk
    (record 0x0205 (tileSrc p) (leBytes 2 p ++ leBytes 6 0 ++ leBytes 64 c) s)

/-- Whether a tile takes block commands. -/
def tileServes (s : State) (p : Nat) : Bool := s.st.ready && decide (p < numPhys s.variant) && (getTile s p).st ≠ 2

/-- Whether a command would drain a quadrant into a T destination whose dimension 0 lies along the columns: the Ringmaster
runs no such operation on quadrants, so it has no effect (R63, R88; log entry 66). -/
def splitsBlock (s : State) (m c : Nat) : Bool :=
  m = 2 && (cmdOp c = 2 || cmdOp c = 3) && isT (cmdOutFmt c) && !cmdToBank c && !tagTrans s (cmdTag c)

/-- A block command of a kind reaches a tile; a command for a draining bank waits (R86, R103). -/
def blockCmd (p kind c : Nat) (feed : List Byte) (spareOk : List Nat) (s : State) : State :=
  let t := getTile s p
  if !tileServes s p then s
  else if !cmdOk t.mode c then
    (if 1 ≤ cmdOp c ∧ cmdOp c ≤ 5 ∧ cmdOp c ≠ kind then s else seqFault p c spareOk s)
  else if cmdOp c ≠ kind || splitsBlock s t.mode c then s
  else
    let x := getPart t (cmdPart c)
    let s := markWork [tileUnit p (cmdPart c)] s
    if (x.bank (cmdBank c)).st = 2 ∨ x.held ≠ [] then
      setTile s p (setPart t (cmdPart c) { x with held := x.held ++ [(c, feed)] })
    else runCmd p c feed s

/-! ### Partition modes and repairs (R93, R97 to R101) -/

/-- SET_MODE is accepted when every bank is free; one that arrives before is dropped (R93; DESIGN CHOICE, log entry 65). -/
def setModeOp (p c : Nat) (spareOk : List Nat) (s : State) : State :=
  let t := getTile s p
  if !tileServes s p then s
  else if !cmdOk t.mode c then
    (if 1 ≤ cmdOp c ∧ cmdOp c ≤ 5 ∧ cmdOp c ≠ 4 then s else seqFault p c spareOk s)
  else if cmdOp c ≠ 4 ∨ banksFree t = false then s
  else setTile s p { t with mode := cmdMode c, parts := [(0, { cmd := c })] }

/-- A blown field-fuse slot (R107). -/
def fuseSlot (kind index : Nat) : Nat := 0x8000 + kind * 0x2000 + index

/-- The repairs of a tile in the layout of field-fuse slots: the factory's, then the field's (R97). -/
def repairsOf (s : State) (p : Nat) : List Nat := tget (dflt []) s.fused.repairs p ++ (getTile s p).slots

/-- The indices of the repairs of a kind. -/
def slotsOf (l : List Nat) (kind : Nat) : List Nat := (l.filter (fun v => bits v 13 2 = kind)).map (fun v => v % 256)

/-- Whether a tile can take one more repair of a kind: 16 field slots, 4 spare rows, repairing or disabled, and 1 spare
column, factory and field together. With the spare rows exhausted a further column is not repaired either (R97, R101). -/
def canRepair (s : State) (p kind : Nat) : Bool :=
  let l := repairsOf s p
  decide ((getTile s p).slots.length < 16) &&
    decide ((slotsOf l 0).length + (slotsOf l 2).length < 4) && (kind ≠ 1 || (slotsOf l 1).isEmpty)

/-- The physical places, among n in all, that the repairs leave for logical rows or columns, in order (R98): repaired rows
and disabled spares are skipped. -/
def placesLeft (n : Nat) (bad : List Nat) : List Nat := (List.range n).filter (fun i => !decide (i ∈ bad))

/-- The physical row and column on which a logical one sits: the skew table (R98). -/
def rowAt (s : State) (p r : Nat) : Nat :=
  let l := repairsOf s p
  (placesLeft 132 (slotsOf l 0 ++ slotsOf l 2)).getD r r
def colAt (s : State) (p c : Nat) : Nat := (placesLeft 33 (slotsOf (repairsOf s p) 1)).getD c c

/-- The lc that repairs add to the arrival of a logical row and column at a PE (R99), and the most of any PE. A disabled spare
row that a shifted row skips adds its lc as a repaired row does: the manual speaks of repairs alone (DESIGN CHOICE, log
entry 61). -/
def peDelay (s : State) (p r c : Nat) : Nat := (rowAt s p r - r) + (colAt s p c - c)
def extraLat (s : State) (p : Nat) : Nat := peDelay s p 127 31

/-- Blow one slot for a fault; TILE_REPAIRED, and the Ice core counts it (R97). -/
def blowSlot (p kind index : Nat) (s : State) : State :=
  let t := getTile s p
  let l := s.ice.now
  record 0x0204 (tileSrc p) (leBytes 2 p ++ leBytes 1 t.slots.length ++ leBytes 1 kind ++ leBytes 1 index)
    { setTile s p { t with slots := t.slots ++ [fuseSlot kind index] } with
      ice := { s.ice with now := { l with fusesBlown := tadd l.fusesBlown (p / 72) 1 } } }

/-- Repair a tile's faults one by one; what cannot be repaired: reason 1 for a failed pattern, 2 for repairs
exhausted. -/
def repairAll (p : Nat) : List (Nat × Nat) → State → Option Nat × State
  | [], s => (none, s)
  | (kind, index) :: fs, s =>
    if 2 < kind then (some 1, s)
    else if canRepair s p kind then repairAll p fs (blowSlot p kind index s)
    else (some 2, s)

/-- The check pattern runs on a tile: its faults are repaired, or it is retired. Its work moves with its saved context
(R100, R101). -/
def checkTile (p : Nat) (faults : List (Nat × Nat)) (spareOk : List Nat) (s : State) : State :=
  if faults.isEmpty then updTile p (fun t => { t with check := 1 }) s
  else
    match repairAll p faults (evacuate p s) with
    | (none, s1) => updTile p (fun t => { t with check := 1 }) s1
    | (some r, s1) => retireTile p r spareOk (updTile p (fun t => { t with check := 2 }) s1)

/-- CHECK. -/
def checkOp (p c : Nat) (faults : List (Nat × Nat)) (spareOk : List Nat) (s : State) : State :=
  let t := getTile s p
  if !tileServes s p then s
  else if !cmdOk t.mode c then
    (if 1 ≤ cmdOp c ∧ cmdOp c ≤ 5 ∧ cmdOp c ≠ 5 then s else seqFault p c spareOk s)
  else if cmdOp c ≠ 5 then s
  else
    let x := getPart t (cmdPart c)
    checkTile p faults spareOk (setTile s p (setPart t (cmdPart c) { x with cmd := c }))

/-! ### The commands -/

/-- ACC (R102). -/
def execAcc (tile : Nat) (cmd : BitVec 512) (feed : List Byte) (spareOk : List Nat) (s : State) :
    Host.Outcome State Fault Refusal :=
  .next (blockCmd tile 1 cmd.toNat feed spareOk s)

/-- ACC_DRAIN (R87). -/
def execAccDrain (tile : Nat) (cmd : BitVec 512) (feed : List Byte) (spareOk : List Nat) (s : State) :
    Host.Outcome State Fault Refusal :=
  .next (blockCmd tile 2 cmd.toNat feed spareOk s)

/-- DRAIN (R102). -/
def execDrain (tile : Nat) (cmd : BitVec 512) (spareOk : List Nat) (s : State) : Host.Outcome State Fault Refusal :=
  .next (blockCmd tile 3 cmd.toNat [] spareOk s)

/-- SET_MODE (R93). -/
def execSetMode (tile : Nat) (cmd : BitVec 512) (spareOk : List Nat) (s : State) : Host.Outcome State Fault Refusal :=
  .next (setModeOp tile cmd.toNat spareOk s)

/-- CHECK (R100). -/
def execCheck (tile : Nat) (cmd : BitVec 512) (faults : List (Nat × Nat)) (spareOk : List Nat) (s : State) :
    Host.Outcome State Fault Refusal :=
  .next (checkOp tile cmd.toNat faults spareOk s)

/-- DRAIN_END (R86). -/
def execDrainEnd (tile part : Nat) (s : State) : Host.Outcome State Fault Refusal :=
  .next (drainEndOp tile part s)

end Sys2Proof.Machine
end

