-- ==== Sys2Proof/Machine/Placement.lean ====
section
/-! DEFINITION. Placement by the Ringmaster as software sees it: hints and pins, migration between the tiers, tile speeds
and the placement view (R193 to R209). -/

namespace Sys2Proof.Machine

/-! ### Moving regions (R203, R204) -/

/-- Whether a run is backed as asked. -/
def backedAs (s : State) (b : Backing) (r : PRange) : Bool := match b with
  | .onOne ks => r.kind = .backed && (match r.stack with
    | some k => decide (k ∈ ks)
    | none => false)
  | .inWindow n => r.kind = .backed && r.stack.isNone && (match windowOf s r.phys with
    | some w => w.1 = n
    | none => false)

/-- The bytes of a run move to the runs that replace it. -/
def moveRun (old : PRange) (new : List PRange) (s : State) : State :=
  let inside (c : Host.Cell) : Bool := decide (old.phys ≤ c.1 ∧ c.1 < old.phys + old.len)
  let cells := s.dmem.filter inside
  let rest := { s with dmem := s.dmem.filter (fun c => !inside c) }
  let target (va : Nat) : Option Nat :=
    (new.find? (fun r => decide (r.base ≤ va ∧ va < r.base + r.len))).map (fun r => r.at va)
  let s1 := zeroRuns new rest
  { s1 with dmem := cells.foldl (fun m c => match target (old.base + (c.1 - old.phys)) with
    | some a => Memory.write m a c.2
    | none => m) s1.dmem }

/-- Move one run of a range to a backing; none: there is no room. A RESERVED run is backed there; a run whose old copy
cannot be read stays (R203); a 1 GiB leaf is backed whole, and never moves (R236). -/
def moveTo (b : Backing) (r : PRange) (s : State) : Option State :=
  if backedAs s b r ∨ r.kind = .lost ∨ r.kind = .migrating ∨ r.kv = true then some s
  else if r.leaf = 30 then (if r.kind = .reserved then backRegion r.asid r.base false s else some s)
  else match backRun s b { r with kind := .reserved, phys := 0 } with
    | none => none
    | some rs =>
      if r.kind = .reserved then some (zeroRuns rs (putRuns r.asid r.base (r.base + r.len) rs s))
      else if !rangeWhole s r.phys r.len then some s
      else some (moveRun r rs (putRuns r.asid r.base (r.base + r.len) rs s))

/-- Move every run of a range, region by region; none: there is no room for one. -/
def moveRange (asid lo hi : Nat) (bs : State → Nat → List Backing) (s : State) : Option State :=
  let regions := ((runsIn s asid lo hi).flatMap (fun r =>
    (List.range (ceilDiv (r.base + r.len) (2 ^ 21) - r.base / 2 ^ 21)).map (fun i => (r.base / 2 ^ 21 + i) * 2 ^ 21)))
  (sortNat regions).foldl (fun acc va => acc.bind (fun s =>
    (runsIn s asid va (va + 2 ^ 21)).foldl (fun acc r => acc.bind (fun s =>
      (bs s va).findSome? (fun b => moveTo b r s))) (some s))) (some s)

/-! ### Hints and pins (R204 to R206) -/

def Op.hintBase (o : Op) : Nat := o.fld 24 8
def Op.hintLen (o : Op) : Nat := o.fld 32 8

/-- Record a hint for its range. -/
def addHint (o : Op) (kind arg : Nat) (s : State) : State :=
  let h : Hint := { asid := o.asid, base := o.hintBase, len := o.hintLen, kind, arg, stackSet := o.fld 20 4
                    window := o.fld 17 1, func := o.func }
  { s with place := { s.place with hints := s.place.hints ++ [h] } }

/-- Move the regions already backed that an advisory hint asks to move, where there is room (R204, R205). -/
def honour (o : Op) (s : State) : State :=
  let lo := o.hintBase
  let hi := lo + o.hintLen
  let backed := (runsIn s o.asid lo hi).filter (fun r => r.kind = .backed || r.kind = .tier2)
  backed.foldl (fun s r =>
    match (backingsFor s o.asid r.base false).head? with
    | some b => if r.pin then s else (moveTo b r s).getD s
    | none => s) s

/-- AFFINITY: the regions of one group share a stack set. -/
def affinityOp (tag : Nat) (o : Op) (s : State) : State := endOp tag {} (honour o (addHint o 1 (o.fld 18 2) s))

/-- KEEP_NEAR. -/
def keepNearOp (tag : Nat) (o : Op) (s : State) : State := endOp tag {} (honour o (addHint o 2 (o.fld 40 8) s))

/-- What a pin still has to do for a run: nothing where it lies as one of the backings asks, or anywhere in tier one
when neither stacks nor a window are named. -/
def pinSettled (s : State) (set win : Nat) (r : PRange) : Bool :=
  if set = 0 ∧ win = 0xFF then r.kind = .backed else (pinBackings s set win).any (fun b => backedAs s b r)

/-- The tier-one capacity present, and the pinned bytes of it (R206). -/
def tierOne (s : State) : Nat :=
  ((List.range (numStacks s.variant)).filter (fun k => (getStack s k).present && !(getStack s k).lost)).length *
    usableBytes
def pinnedBytes (s : State) : Nat := (s.pages.filter (fun r => r.pin)).foldl (fun n r => n + r.len) 0

/-- The first address of a range that no leaf maps. -/
def firstUnmapped (s : State) (asid : Nat) : Nat → Nat → Nat → Option Nat
  | 0, _, _ => none
  | fuel + 1, lo, hi =>
    if hi ≤ lo then none
    else match findPage s asid lo with
      | none => some lo
      | some p => firstUnmapped s asid fuel (p.base + p.len) hi

/-- The migrations of the pages of a range end well (R203). -/
def finishRange (asid lo hi : Nat) (s : State) : State :=
  (s.place.migrations.filter (fun m => m.asid = asid && decide (m.page * 2 ^ 21 < hi ∧ lo < (m.page + 1) * 2 ^ 21))).foldl
    (fun s m => wakeMigrated m.asid m.page (finishMigration m s)) s

/-- Why a range is still not backed as a pin requires: a leaf that is lost or cannot be read, or one that cannot lie there (R204;
log entry 28). -/
def pinFailure (s : State) (asid lo hi set win : Nat) : Option Nat :=
  ((runsIn s asid lo hi).find? (fun r => !pinSettled s set win r)).map (fun r =>
    if r.kind = .lost then (if r.cause then 0x31 else 0x30)
    else if rangeWhole s r.phys r.len then 0x12 else 0x30)

/-- PIN_DATA: once no page of it migrates, the range is backed as the pin requires and never demoted, or nothing changes
(R204, R206; log entry 28). -/
def pinDataOp (tag : Nat) (o : Op) (s : State) : State :=
  let lo := o.hintBase
  let hi := lo + o.hintLen
  let set := o.fld 20 4
  let win := o.fld 17 1
  match firstUnmapped s o.asid (s.pages.length + 1) lo hi with
  | some a => updOp tag (fun o => { o with started := false }) (stopOp tag (.fault 0x20 a) false s)
  | none =>
    let fresh := ((runsIn s o.asid lo hi).filter (fun r => !r.pin)).foldl (fun n r => n + r.len) 0
    if 7 * tierOne s < 8 * (pinnedBytes s + fresh) then refuseOp tag 0x12 s
    else
      let s0 := finishRange o.asid lo hi s
      let bs (s : State) (_ : Nat) : List Backing := pinBackings s set win
      let moved := ((runsIn s0 o.asid lo hi).filter (fun r => !pinSettled s0 set win r)).foldl
        (fun acc r => acc.bind (fun s => moveRange o.asid r.base (r.base + r.len) bs s)) (some s0)
      match moved.map (fun s1 => (s1, pinFailure s1 o.asid lo hi set win)) with
      | none => refuseOp tag 0x12 s
      | some (_, some st) => refuseOp tag st s
      | some (s1, none) =>
        endOp tag {} (addHint o 3 0 { s1 with
          pages := mapRange o.asid lo hi (fun r => [{ r with pin := true }]) s1.pages })

/-- UNPIN_DATA removes pins, affinity and keep-near relations from the range. -/
def unpinDataOp (tag : Nat) (o : Op) (s : State) : State :=
  let lo := o.hintBase
  let hi := lo + o.hintLen
  endOp tag {} (dropHints o.asid lo hi { s with
    pages := mapRange o.asid lo hi (fun r => [{ r with pin := false }]) s.pages })

/-- Change the group of an operation's queue, and end the operation. -/
def groupHint (tag : Nat) (f : Op → Group → Group) (o : Op) (s : State) : State :=
  let g := groupOf o.queue
  endOp tag {} (setGroup s g (f o (getGroup s g)))

/-- Whether an operation is a PLACE_HINT of a KIND. -/
def isHint (kind : Nat) (o : Op) : Bool := o.opc = 0x50 && o.fld 16 1 = kind

/-! ### Migration between the tiers (R202, R203) -/

/-- Fields of PLC_MIG_CTRL. -/
def migEnable (v : Nat) : Bool := bit v 63
def migMax (v : Nat) : Nat := bits v 32 16
def migEpochMs (v : Nat) : Nat := bits v 16 16
def migPromote (v : Nat) : Nat := bits v 8 8
def migDemote (v : Nat) : Nat := bits v 0 8

/-- A write of PLC_MIG_CTRL: it applies whole at the next epoch end, or is ignored whole. -/
def migCtrlOp (v : Nat) (s : State) : State :=
  if migPromote v ≤ migDemote v then record 0x0406 0x05 (leBytes 8 v) s
  else
    let v1 := setBits v 48 15 0
    let v2 := if migEpochMs v1 = 0 then setBits v1 16 16 1 else v1
    { s with place := { s.place with migNext := some v2 } }

/-- The sampled count of a physical 2 MiB page. -/
def pageCount (s : State) (a : Nat) : Nat := tget (dflt 0) s.place.counts (a / 2 ^ 21) / 256

/-- The physical 2 MiB page behind a virtual one, where every backed leaf of it is of a kind, whatever else the leaves permit, and
lies at its own place in that page, which nothing else uses (R202). -/
def pageBehind (s : State) (k : LeafKind) (p : PRange → Bool) (asid page : Nat) : Option Nat :=
  let lo := page * 2 ^ 21
  let runs := (runsIn s asid lo (lo + 2 ^ 21)).filter (fun r => r.kind ≠ .reserved)
  match runs with
  | [] => none
  | r :: _ =>
    let a := r.phys + lo - r.base
    let alone := s.pages.all (fun x => x.kind = .reserved || decide (x.phys + x.len ≤ a ∨ a + 2 ^ 21 ≤ x.phys) ||
      (x.asid = asid && decide (x.phys + lo = a + x.base)))
    if a % 2 ^ 21 = 0 && runs.all (fun r => r.kind = k && p r && decide (r.phys + lo = a + r.base)) && alone then some a else none

/-- The 2 MiB pages of a kind: address space, page number, physical address. -/
def wholePages (s : State) (k : LeafKind) (p : PRange → Bool) : List (Nat × Nat × Nat) :=
  ((s.pages.filter (fun r => r.kind = k && p r)).flatMap (fun r =>
    (List.range (ceilDiv (r.base + r.len) (2 ^ 21) - r.base / 2 ^ 21)).map (fun i => (r.asid, r.base / 2 ^ 21 + i)))).eraseDups.filterMap
    (fun x => (pageBehind s k p x.1 x.2).map (fun a => (x.1, x.2, a)))

/-- Whether a page holds a ring of a queue of its address space. -/
def holdsRing (s : State) (asid page : Nat) : Bool :=
  s.queues.any (fun e =>
    let q := e.2.entry
    bindAsid (getGroup s (groupOf e.1)).active.bind = asid && q.enable &&
      [(q.sqBase, 64 * 2 ^ q.sqLog2), (q.cqBase, 32 * 2 ^ q.cqLog2)].any (fun r =>
        !isHost r.1 && decide (r.1 < (page + 1) * 2 ^ 21 ∧ page * 2 ^ 21 < r.1 + r.2)))

/-- Pages that may be demoted, coldest first. -/
def coldPages (s : State) (demote : Nat) : List (Nat × Nat × Nat) :=
  let l := (wholePages s .backed (fun r => !r.pin && !r.kv && r.stack.isNone && r.leaf ≤ 21)).filter (fun x =>
    decide (pageCount s x.2.2 ≤ demote) && !holdsRing s x.1 x.2.1)
  sortBy (fun x => pageCount s x.2.2) l

/-- Second-tier pages to promote, hottest first. -/
def hotPages (s : State) (promote : Nat) : List (Nat × Nat × Nat) :=
  let l := (wholePages s .tier2 (fun _ => true)).filter (fun x => decide (promote ≤ pageCount s x.2.2) && (badLines s x.2.2).isEmpty)
  sortBy (fun x => 255 - pageCount s x.2.2) l

/-- Promote pages, hottest first, up to a number; a page that finds tier one full takes the place of the coldest. -/
def promote (demote : Nat) : List (Nat × Nat × Nat) → Nat → State → State
  | [], _, s => s
  | _, 0, s => s
  | (asid, page, a) :: hs, n + 1, s =>
    match (List.range 16).findSome? (fun w => placeInterleaved s w (2 ^ 21) (2 ^ 21)) with
    | some new => promote demote hs n (beginMigration { asid, page, old := a, new, toTier1 := true } s)
    | none =>
      match coldPages s demote, placeTier2 s (2 ^ 21) with
      | (casid, cpage, ca) :: _, some cnew =>
        let s1 := beginMigration { asid := casid, page := cpage, old := ca, new := cnew, toTier1 := false } s
        promote demote hs n (beginMigration { asid, page, old := a, new := ca, toTier1 := true } s1)
      | _, _ => s

/-- The end of an epoch (R202): the value in force acts, counts are halved, and a pending value applies. -/
def migrationEpochOp (s : State) : State :=
  let v := s.place.migCtrl
  let s1 := leaveBad (passTo (s.place.lastEpoch + migEpochMs v * 1000000) s)
  let s2 := if migEnable v then promote (migDemote v) (hotPages s1 (migPromote v)) (migMax v) s1 else s1
  let p := s2.place
  { s2 with place := { p with
    counts := (p.counts.map (fun e => (e.1, e.2 / 512 * 256))).filter (fun e => e.2 ≠ 0)
    lastEpoch := s2.time, migCtrl := p.migNext.getD p.migCtrl, migNext := none } }

/-- Whether the place that a migration moves to is still held by another page's old copy. -/
def placeHeld (s : State) (m : Migration) : Bool :=
  s.place.migrations.any (fun x => x.old = m.new && x != m)

/-- The copy of a migrating page ends (R203). -/
def migrationDoneOp (asid page : Nat) (readOk : Bool) (s : State) : State :=
  match s.place.migrations.find? (fun m => m.asid = asid && m.page = page) with
  | none => s
  | some m =>
    if placeHeld s m then s
    else if (readOk && m.readable s) || !(badLines s m.old).isEmpty then wakeMigrated asid page (installMigration m s) else cancelMigration m s

/-! ### Tile speeds (R199 to R201) -/

/-- The rates of the active tiles of a die, rising, given the latest samples. -/
def dieRates (s : State) (die : Nat) : List Nat :=
  sortBy id ((s.tiles.filter (fun e => e.1 / 72 = die && e.2.logical.isSome && decide (e.2.st ≤ 1))).map (fun e => e.2.rate))

/-- A rate as a share of its die median, in millionths. -/
def ratioOf (s : State) (p : Nat) : Nat :=
  let m := medianOf (dieRates s (p / 72))
  if m = 0 then 1000000 else (getTile s p).rate * 1000000 / m

/-- The sum of the last n ratios, if there are as many. -/
def lastSum (h : List Nat) (n : Nat) : Option Nat :=
  if n ≤ h.length then some ((h.take n).foldl (· + ·) 0) else none

/-- A tile's state after a sample (R200). -/
def judgeTile (p : Nat) (spareOk : List Nat) (s : State) : State :=
  let t := getTile s p
  let l := t.logical.getD 0xFFFF
  let rec10 (code mean : Nat) (s : State) : State :=
    record code (tileSrc p) (leBytes 2 p ++ leBytes 2 l ++ leBytes 2 (mean / 10000000)) s
  match lastSum t.hist 1000 with
  | some m1 =>
    if m1 < 600000000 then retireTile p 0 spareOk s
    else match lastSum t.hist 10000 with
      | some m10 =>
        if t.st = 0 ∧ m10 < 8500000000 then rec10 0x0201 m10 (setTile s p { t with st := 1 })
        else if t.st = 1 ∧ 9000000000 ≤ m10 then rec10 0x0202 m10 (setTile s p { t with st := 0 })
        else s
      | none => s
  | none => s

/-- Every 1 ms each tile's speed monitor is counted and its state judged (R199, R200). -/
def speedSampleOp (rates : List (Nat × Nat)) (spareOk : List Nat) (s : State) : State :=
  let s0 := passTo (s.place.lastSpeed + 1000000) s
  let known := rates.filter (fun r => decide (r.1 < numPhys s.variant) && (getTile s0 r.1).st ≠ 2)
  let s1 := known.foldl (fun s r => updTile r.1 (fun t => { t with rate := r.2 }) s)
    { s0 with place := { s0.place with lastSpeed := s0.time } }
  let live := (s1.tiles.filter (fun e => e.2.logical.isSome && decide (e.2.st ≤ 1))).map (·.1)
  let s2 := live.foldl (fun s p => updTile p (fun t => { t with hist := (ratioOf s1 p :: t.hist).take 10000 }) s) s1
  let all := sortBy id (live.map (fun p => (getTile s1 p).rate))
  let s3 := { s2 with pwr := { s2.pwr with minMlcs := min 0xFFFF (all.headD 0), medMlcs := min 0xFFFF (medianOf all) } }
  live.foldl (fun s p => judgeTile p spareOk s) s3

/-! ### The placement view (R207, R208) -/

/-- The record of a physical tile. -/
def tileRecord (s : State) (p : Nat) : List Byte :=
  let t := getTile s p
  let tags := (t.parts.filter (fun e => e.2.st ≠ 0)).map (fun e => cmdTag e.2.cmd) ++ t.epi.map (fun b => b.op) ++
    (if t.run.kind = 1 ∨ t.run.kind = 2 then [t.run.op] else []) ++
    (s.ops.filter (fun o => o.phase = .running && (match t.logical with
      | some l => decide (l ∈ o.tiles)
      | none => false))).map (fun o => o.tag)
  leBytes 2 p ++ leBytes 2 (t.logical.getD 0xFFFF) ++ leBytes 1 t.st ++ leBytes 1 t.mode ++ leBytes 2 t.rate ++
    leBytes 2 (ratioOf s p / 1000) ++ leBytes 2 (sortNat tags).length ++ leBytes 4 0

/-- Blocks of an operation that go to a logical tile, and those delivered: of a carousel step the blocks of its place in the
ring, and of an operation with epilogue runs those that its runs have delivered. -/
def opShare (s : State) (o : Op) (t : Nat) : Nat × Nat :=
  if o.opc ≠ 0x10 ∧ o.opc ≠ 0x12 then (1, b2n (o.phase = .done))
  else
    let blocks : List (Nat × Blk) := match s.place.rings.find? (fun e => e.2.op = o.tag) with
      | some (_, r) =>
        let n := r.ring.length
        let p := (indexIn r.ring t).getD n
        if n ≤ p then []
        else (List.range n).flatMap (fun f => (o.ringBlocks n p f).zipIdx.map (fun x => ((p * n + f) * 2 ^ 32 + x.2, x.1)))
      | none => ((List.range o.nBlocks).filter (fun i => o.tileFor i = t)).map (fun i => (i, o.blk i))
    let given (x : Nat × Blk) : Bool :=
      if o.epiImage ≠ 0 then decide (blkKey o.trans x.2 ∈ o.blocksDone)
      else if o.carousel then decide (x.1 ∈ o.blocksDone) else decide (x.1 < o.gen)
    (blocks.length, (blocks.filter given).length)

/-- The tiles that an operation is assigned. -/
def Op.assigned (s : State) (o : Op) : List Nat := match s.place.rings.find? (fun e => e.2.op = o.tag) with
  | some (_, r) => r.ring
  | none => o.tiles

/-- The partitions of a tile whose present or last block command is the operation's. -/
def partsUsed (s : State) (o : Op) (t : Nat) : Nat := match physOf s t with
  | some p => maskOf ((List.range 4).filter (fun q => let c := (getPart (getTile s p) q).cmd
      c ≠ 0 && cmdTag c = o.tag))
  | none => 0

/-- The records of an operation that has been issued and has not completed. -/
def opRecords (s : State) (queue slot : Nat) : List (List Byte) :=
  match s.ops.find? (fun o => o.queue = queue && o.slot = slot && o.started && o.phase != .done &&
      !(o.phase = .waiting && decide (o.opc ∈ [0x10, 0x12]))) with
  | none => []
  | some o => (sortNat (o.assigned s)).map (fun t =>
      let (a, d) := opShare s o t
      leBytes 2 t ++ leBytes 1 (partsUsed s o t) ++ leBytes 1 0 ++ leBytes 4 a ++ leBytes 4 d ++ leBytes 4 o.tag)

/-- The record of a virtual 2 MiB page. -/
def pageRecord (s : State) (asid va : Nat) : List Byte :=
  let p : Option PRange := findPage s asid va
  let kw : Nat × Nat := match p with
    | some r =>
      (match r.kind with
        | LeafKind.reserved | LeafKind.lost => (3, 0)
        | _ =>
          if tier2Base ≤ r.at va then (2, (r.at va - tier2Base) / 2 ^ 44)
          else match r.stack with
            | some k => (1, k)
            | none => (0, ((windowOf s (r.at va)).map (fun (x : Nat × WinCfg) => x.1)).getD 0))
    | none => (3, 0)
  let hints : List Hint := hintsAt s asid va
  let unmet : Bool := match p with
    | some r => !hints.isEmpty && (r.kind == LeafKind.backed || r.kind == LeafKind.tier2) &&
        (match (backingsFor s asid va false).head? with
          | some b => !backedAs s b r
          | none => false)
    | none => false
  let flags : Nat := match p with
    | some r => b2n r.pin + 2 * b2n (r.kind == LeafKind.migrating) + 4 * b2n r.kv + 8 * b2n unmet
    | none => 0
  let count : Nat := match p with
    | some r => if r.kind = LeafKind.reserved then 0 else pageCount s (r.at va)
    | none => 0
  let group : Nat := match hints.find? (fun h => h.kind = 1) with
    | some h => h.arg
    | none => 0
  leBytes 8 va ++ leBytes 1 kw.1 ++ leBytes 1 kw.2 ++ leBytes 1 flags ++ leBytes 1 count ++ leBytes 2 group ++
    leBytes 2 0

/-- The records of a snapshot, and whether some did not fit a number. -/
def viewRecords (s : State) (kind g sel room : Nat) : List (List Byte) × Bool :=
  match kind with
  | 1 => let l := (List.range (numPhys s.variant)).map (tileRecord s)
         (l.take room, decide (room < l.length))
  | 2 => let l := opRecords s (64 * g + bits sel 0 6) (bits sel 6 16)
         (l.take room, decide (room < l.length))
  | _ =>
    let first := sel / 2 ^ 21
    let n := min room (2 ^ 27 - first)
    let asid := bindAsid (getGroup s g).active.bind
    ((List.range n).map (fun i => pageRecord s asid ((first + i) * 2 ^ 21)), false)

/-- A write of PLC_VIEW_CTRL: GO takes a snapshot into the buffer. -/
def viewOp (v : Nat) (s : State) : State :=
  let p := s.place
  let kind := bits v 24 4
  let s1 := { s with place := { p with viewKind := kind, viewGroup := bits v 12 12
                                       viewDone := p.viewDone && !bit v 29 } }
  if bit v 31 && decide (1 ≤ kind ∧ kind ≤ 3) && !copyBusy s 1 then
    let (rs, trunc) := viewRecords s1 kind (bits v 12 12) p.viewSel ((p.viewLen - 64) / 16)
    let head := padTo 64 (leBytes 4 rs.length ++ leBytes 1 kind ++ leBytes 3 0 ++ leBytes 8 s1.time)
    let bs := (head ++ rs.flatten).take p.viewLen
    runCopy { kind := 1, addr := p.viewAddr, bytes := bs, trunc := trunc || decide (p.viewLen < 64) } s1
  else s1

/-! ### The commands -/

/-- AFFINITY (R204). -/
def execAffinity (op : Nat) (s : State) : Host.Outcome State Fault Refusal :=
  .next (runWhen op (isHint 1) (affinityOp op) s)

/-- KEEP_NEAR (R204). -/
def execKeepNear (op : Nat) (s : State) : Host.Outcome State Fault Refusal :=
  .next (runWhen op (isHint 2) (keepNearOp op) s)

/-- PIN_DATA (R204, R206). -/
def execPinData (op : Nat) (s : State) : Host.Outcome State Fault Refusal :=
  .next (runWhen op (isHint 3) (pinDataOp op) s)

/-- PIN_TILES (R204). -/
def execPinTiles (op : Nat) (s : State) : Host.Outcome State Fault Refusal :=
  .next (runWhen op (isHint 4) (groupHint op (fun o g => { g with tilePin := some (o.fld 64 32) })) s)

/-- PRIORITY_MODE (R204). -/
def execPriorityMode (op : Nat) (s : State) : Host.Outcome State Fault Refusal :=
  .next (runWhen op (isHint 5) (groupHint op (fun o g => { g with latencyFirst := o.fld 48 1 = 1 })) s)

/-- UNPIN_DATA (R204). -/
def execUnpinData (op : Nat) (s : State) : Host.Outcome State Fault Refusal :=
  .next (runWhen op (isHint 6) (unpinDataOp op) s)

/-- UNPIN_TILES (R204). -/
def execUnpinTiles (op : Nat) (s : State) : Host.Outcome State Fault Refusal :=
  .next (runWhen op (isHint 7) (groupHint op (fun _ g => { g with tilePin := none })) s)

/-- PLACEMENT_SNAPSHOT (R207). -/
def execPlacementSnapshot (value : W32) (s : State) : Host.Outcome State Fault Refusal :=
  .next (if s.st.ready then viewOp value.toNat s else s)

/-- MIG_CTRL_WRITE (R202). -/
def execMigCtrlWrite (value : W64) (s : State) : Host.Outcome State Fault Refusal :=
  .next (if s.st.ready then migCtrlOp value.toNat s else s)

/-- MIGRATION_EPOCH (R202). -/
def execMigrationEpoch (s : State) : Host.Outcome State Fault Refusal :=
  .next (if s.st.ready then migrationEpochOp s else s)

/-- MIGRATION_DONE (R203). -/
def execMigrationDone (asid page : Nat) (readOk : Bool) (s : State) : Host.Outcome State Fault Refusal :=
  .next (migrationDoneOp asid page readOk s)

/-- SPEED_SAMPLE (R199). -/
def execSpeedSample (rates : List (Nat × Nat)) (spareOk : List Nat) (s : State) : Host.Outcome State Fault Refusal :=
  .next (if s.st.ready then speedSampleOp rates spareOk s else s)

end Sys2Proof.Machine
end

