-- ==== Sys2Proof/Machine/Images.lean ====
section
/-! DEFINITION. Program images, the start of vector runs, and the transfers that fill their windows (R110 to R115, R127,
R166 to R174, R246, R282). -/

namespace Sys2Proof.Machine

/-! ### The start of a run (R113 to R115) -/

/-- S4 to S7: the descriptor's PARAMS (R114, R280, R282). -/
def Op.param (o : Op) (i : Nat) : Nat := o.fld (64 + 8 * i) 8

/-- A run at its first instruction: every register 0 but the scalars that R114 gives. -/
def startRun (o : Op) (kind base s1 s2 : Nat) : VecRun :=
  let sreg := [(1, s1), (2, s2), (3, if kind = 1 then base else imgNeed o.image), (0, base)] ++
    (List.range 4).map (fun i => (4 + i, o.param i))
  { kind, op := o.tag, prio := o.prio, imgAddr := o.imgAddr, imgTag := imgTagOf o.image, pc := imgEntry o.image
    sreg := sreg.foldl (fun t e => tset (dflt 0) t e.1 e.2) [], winBase := base, winSize := imgNeed o.image }

/-- The lowest window of the bank that holds no drained block which still waits (R115). -/
def grantBase (t : Tile) (need : Nat) : Option Nat :=
  let held := (t.epi.filter (fun b => b.vals.isNone)).map (fun b => (b.base, b.base + blockSpace b.wide))
  let free (a : Nat) : Bool := decide (a + need ≤ 2 ^ 19) && held.all (fun h => decide (a + need ≤ h.1 ∨ h.2 ≤ a))
  (0 :: held.map (fun h => ceilDiv h.2 256 * 256)).find? free

/-- The window of the run that a block waits for: it begins with the block, which stands in the bank already or is put
there; none while the bank has no room for it (R115, R122). -/
def EpiBlock.window (b : EpiBlock) (t : Tile) (need : Nat) : Option Nat := match b.vals with
  | none => if b.base + need ≤ 2 ^ 19 then some b.base else none
  | some _ => grantBase t need

/-- Whether the engine of a tile is free (R113). -/
def Tile.idleVx (t : Tile) : Bool := t.run.kind = 0 || t.run.kind = 3

/-- Start an epilogue run on the first block that waits, once its image is resident (R113). -/
def epilogueStart (p : Nat) (s : State) : State :=
  let t := getTile s p
  match t.epi with
  | [] => s
  | b :: rest =>
    match findOp s b.op with
    | none => s
    | some o =>
      match b.window t (imgNeed o.image) with
      | none => s
      | some base =>
      if t.idleVx && t.holds o.imgAddr (imgTagOf o.image) && o.phase != .done then
        let sz := if b.wide then 8 else 4
        let mem := match b.vals with
          | none => t.bank
          | some vs => Memory.writeN t.bank base (vs.flatMap (leBytes sz))
        let r := startRun o 1 base (b.brow % 2 ^ 24 + b.bcol % 2 ^ 24 * 2 ^ 24) (b.rows % 256 + b.cols % 256 * 256)
        markWork [tileUnit p 4] (setTile s p (loadImage s o.imgAddr (imgTagOf o.image)
          { t with epi := rest, bank := mem, run := { r with block := some { b with vals := none } } }))
      else s

/-! ### Parts (R282) -/

/-- The outermost dimension of extent above 1. -/
def Tensor.outerDim (t : Tensor) : Nat := (((List.range 5).reverse.find? (fun i => decide (1 < t.dim i))).getD 0)

/-- Elements below one index of a dimension. -/
def Tensor.inner (t : Tensor) (d : Nat) : Nat := (t.dims.take d).foldl (· * ·) 1

/-- The linear indices from which to which tile j of n works on a tensor: contiguous parts along that dimension, the
first ones one index longer. Along dimension 0 of a T format the parts are of whole B8 blocks (R63, R172; log entry 65). -/
def Tensor.part (t : Tensor) (j n : Nat) : Nat × Nat :=
  let d := t.outerDim
  let step := if d = 0 ∧ isT t.format then 32 else 1
  let len := ceilDiv (t.dim d) step
  let at_ (j : Nat) : Nat := min (t.dim d) ((j * (len / n) + min j (len % n)) * step)
  (at_ j * t.inner d, at_ (j + 1) * t.inner d)

/-! ### The ends of runs that do not halt (R56, R96, R115, R248) -/

/-- The flags of a stream run on a tile of a name, and its candidate, become those of an output block of its operation: at its
end all of them, else those that stood when it last delivered (R56, R138). -/
def runFlags (name : Nat) (r : VecRun) (whole : Bool) (s : State) : State :=
  let cand := (if whole then r.cand else r.sentCand).map (fun c => offenderRec false 0 name (c / 64) r.tileIx (c % 64) 0 noK)
  updOp r.op (fun o => (o.addBlock r.tileIx (if whole then r.flags else r.sentFl)).offer 0 cand) s

/-- The flags of the stream run that stands on a tile. -/
def streamFlags (p : Nat) (whole : Bool) (s : State) : State :=
  runFlags (getTile s p).name (getTile s p).run whole s

/-- An epilogue block without the columns of an operation; none where no other shares it (R89, R91). -/
def EpiBlock.without (tag : Nat) (b : EpiBlock) : Option EpiBlock :=
  match b.own.filter (fun w => decide (w.op ≠ tag)) with
  | [] => if b.op = tag ∨ !b.own.isEmpty then none else some b
  | w :: ws => some { b with op := w.op, own := w :: ws }

/-- An engine without the run of an operation; an epilogue run goes on for those that share its block. -/
def VecRun.without (tag : Nat) (r : VecRun) : VecRun :=
  if !r.serves tag then r
  else match r.block.bind (EpiBlock.without tag) with
    | some b => if r.kind = 1 then { r with op := b.op, block := some b } else { r with kind := 0 }
    | none => { r with kind := 0 }

/-- The runs, queued blocks, transfers and contexts of an operation end where they are; what its stream runs delivered counts,
in contexts too (R56). -/
def killRuns (tag : Nat) (s : State) : State :=
  let clear (t : Tile) : Tile :=
    { t with epi := t.epi.filterMap (EpiBlock.without tag), xfers := t.xfers.filter (fun x => decide (x.2.op ≠ tag))
             run := t.run.without tag }
  let s1 := s.tiles.foldl (fun s e =>
    updTile e.1 clear (if e.2.run.kind = 2 ∧ e.2.run.op = tag then streamFlags e.1 false s else s)) s
  let s2 := s1.contexts.foldl (fun s c => match c.run with
    | some r => if r.kind = 2 ∧ r.op = tag then runFlags c.tile r false s else s
    | none => s) s1
  updOp tag (fun o => { o with blocksLeft := 0 })
    { s2 with contexts := s2.contexts.filterMap (fun c => match c.run with
        | some r =>
          let r1 := r.without tag
          if r1.kind = 0 then none else some { c with op := if c.op = tag then r1.op else c.op, run := some r1 }
        | none => if c.op = tag then none else some c) }

/-- What stops the transfers or the store path of a stream operation on a tile, whose access engine the fault names: a fault
that may resolve suspends it, extents that disagree let its other runs end, and anything else ends it (R96, R245, R246, R248,
R282). -/
def streamStop (p tag : Nat) (e : Stop) (write : Bool) (s : State) : State :=
  let s1 := updOp tag (fun o => { o with phys := p }) s
  match e with
  | .wait _ _ => stopIssued tag e write s1
  | .shape => stopIssued tag e write s1
  | _ => stopIssued tag e write (killRuns tag s1)

/-- A slot whose transfer a fault suspends at an address as presented (R246, R257). -/
def Transfer.suspend (x : Transfer) (e : Stop) : Transfer := { x with suspended := true, arrived := [], faultAddr := e.addr }

/-! ### Transfers into a window (R127, R168, R171, R174) -/

/-- The lowest address of a tensor's elements, at a line. -/
def Tensor.lowLine (t : Tensor) : Nat :=
  let d := (List.range 5).foldl (fun (a : Int) i =>
    if t.stride i < 0 then a + Int.ofNat (t.dim i - 1) * t.stride i else a) 0
  (offsetAddr t.base d).1 / 64 * 64

/-- The lines that an element's container touches. -/
def Tensor.linesOf (t : Tensor) (l : Nat) : List Nat :=
  let a := (t.addrAt (t.coords l)).1
  let lo := t.lowLine
  sortNat [(a - lo) / 64, (a + fmtBytes t.format - 1 - lo) / 64]

/-- The container of an element among lines that have arrived. -/
def arrivedBytes (x : Transfer) (t : Tensor) (l : Nat) : Option (List Byte) :=
  let ls := (t.linesOf l).map (fun n => tfind n x.arrived)
  if ls.all (fun b => b.isSome) then
    let a := (t.addrAt (t.coords l)).1
    some (((ls.flatMap (fun b => b.getD [])).drop (a % 64)).take (fmtBytes t.format))
  else none

/-- The container that the window takes of an element, and the flags of its load (R174). -/
def windowElem (s : State) (o : Op) (x : Transfer) (t : Tensor) (l : Nat) (bs : List Byte) :
    Except Stop (List Byte × Nat) :=
  let c := t.coords l
  let code := codeIn t.format (c.getD 0 0) bs
  let out (v : XVal) (fl : Nat) : List Byte × Nat :=
    let (q, fe) := convertA x.fmt o.arith v
    (leBytes (fmtBytes x.fmt) (toContainer x.fmt q), fl ||| fe)
  if !(t.addrAt c).2 then .error (.fault 0x20 (t.addrAt c).1)
  else if isT t.format then
    (blockScale s (whoOf o) t (t.block c)).map (fun b =>
      let (v, fl) := scaleElem t b (decodeElem t.format code)
      out v fl)
  else .ok (out (decodeElem t.format code) (if t.format = 0x30 ∧ code = 0xFF then fNONFINITE else 0))

/-- The element of an epilogue run's block that a lane stands for: the lanes lie as the block lies in the bank, 32 to a row,
from the first row that the run has not emitted; a lane beside the block stands for an element of it (R115; log
entry 65). -/
def VecRun.elemOf (r : VecRun) (lane : Nat) : Nat × Nat := match r.block with
  | some b => ((r.emitted.length / 4 / max 1 b.cols + lane / 32) % max 1 b.rows, lane % 32 % max 1 b.cols)
  | none => (0, 0)

/-- Note the flags of one lane or element, and the first INVALID in program order: of the run, and of each column of an
epilogue block (R91, R138). -/
def VecRun.note (r : VecRun) (pc lane fl : Nat) : VecRun :=
  let e := r.elemOf lane
  { r with flags := r.flags ||| fl
           cand := if bit fl 0 && r.cand.isNone then some (pc * 64 + lane % 64) else r.cand
           colFl := if r.kind = 1 && fl != 0 then tset (dflt 0) r.colFl e.2 (tget (dflt 0) r.colFl e.2 ||| fl) else r.colFl
           colCand := if r.kind = 1 && bit fl 0 && r.colCand.all (fun c => c.1 != e.2) then r.colCand ++ [(e.2, e.1 * 32 + e.2)]
             else r.colCand }

/-- Put an element's bytes at the place of the ring that its count gives, and count them (R127). -/
def ringPut (t : Tile) (c : Nat) (bs : List Byte) : Tile :=
  let k := t.run.ctr c
  { t with bank := Memory.writeN t.bank (t.run.winBase + k.ringOff + k.count % k.winLen) bs
           run := { t.run with ctrs := tset (dflt {}) t.run.ctrs c { k with count := k.count + bs.length } } }

/-- Whether a ring takes n bytes more under its release mark (R127). -/
def ArrCounter.takes (k : ArrCounter) (n : Nat) : Bool :=
  decide (n ≤ k.winLen) && decide (Int.ofNat (k.count + n) ≤ k.release + Int.ofNat k.winLen)

/-- Deliver what has arrived, in linear order, as far as the release mark allows; a source that has delivered its last
element ends, and its slot is free. -/
def pumpSlot (p slot : Nat) : Nat → State → State
  | 0, s => s
  | fuel + 1, s =>
    let t := getTile s p
    match tfind slot t.xfers with
    | none => s
    | some x =>
      if !x.window then s
      else if x.last ≤ x.cursor then
        let k := t.run.ctr x.ctr
        setTile s p { t with xfers := terase slot t.xfers
                             run := { t.run with ctrs := tset (dflt {}) t.run.ctrs x.ctr { k with ended := true } } }
      else match findOp s x.op with
        | none => s
        | some o =>
          let src := parseTensor x.record
          if x.suspended || !(t.run.ctr x.ctr).takes (fmtBytes x.fmt) then s
          else match arrivedBytes x src x.cursor with
            | none => s
            | some bs => match windowElem s { o with phys := p } x src x.cursor bs with
              | .error e =>
                streamStop p x.op e false (setTile s p { t with xfers := tinsert slot (x.suspend e) t.xfers })
              | .ok (out, fl) =>
                let t1 := ringPut { t with run := t.run.note t.run.pc x.cursor fl } x.ctr out
                pumpSlot p slot fuel (setTile s p { t1 with
                  xfers := tinsert slot { x with cursor := x.cursor + 1 } t1.xfers })

/-- The stream of a queue port that a counter is bound to has ended: the counter is final and the port is free (R357,
R358). -/
def endRing (p c m : Nat) (ws : List PortWord) (s : State) : State :=
  let s1 := updTile p (fun t =>
    { t with run := { t.run with ctrs := tset (dflt {}) t.run.ctrs c { t.run.ctr c with ended := true } } }) s
  refill m (freePort m (setPort s1 m { getPort s1 m with chain := ws }))

/-- A counter bound to a queue port takes the bytes of its chain, as far as the release mark allows (R127, R357). -/
def pumpRing (p c : Nat) : Nat → State → State
  | 0, s => s
  | fuel + 1, s =>
    let t := getTile s p
    let k := t.run.ctr c
    if t.run.kind ≠ 2 ∨ k.bound ≠ 2 ∨ k.ended then s
    else
      let x := getPort s k.src
      match x.chain with
      | [] => s
      | w :: ws => match w.rest with
        | [] => if w.last then endRing p c k.src ws s
          else pumpRing p c fuel (refill k.src (setPort s k.src { x with chain := ws }))
        | b :: _ =>
          if k.takes 1 then
            pumpRing p c fuel (setPort (setTile s p (ringPut t c [b])) k.src
              { x with chain := { w with taken := w.taken + 1 } :: ws })
          else s

/-- Fill the rings that counters of a tile have at queue ports. -/
def pumpRings (p : Nat) (s : State) : State :=
  (getTile s p).run.ctrs.foldl (fun s e =>
    pumpRing p e.1 (9 * (getPort s e.2.src).chain.length + 10) s) s

/-- Elements of a transfer whose containers end in the line of its next one: what one grant delivers (R185). -/
def Transfer.inLine (x : Transfer) : Nat :=
  let t := parseTensor x.record
  let line (l : Nat) : Option Nat := (t.linesOf l).head?
  ((List.range (x.last - x.cursor)).takeWhile (fun i => line (x.cursor + i) = line x.cursor)).length

/-- Whether a slot can deliver: its next element has arrived and its destination has space, or its source has ended
(R127, R168). -/
def slotReady (t : Tile) (x : Transfer) : Bool :=
  x.window && (decide (x.last ≤ x.cursor) || (!x.suspended && (t.run.ctr x.ctr).takes (fmtBytes x.fmt) &&
    (arrivedBytes x (parseTensor x.record) x.cursor).isSome))

/-- The slots that claim a grant of a tile's access engine (R184, R185). -/
def slotClaims (t : Tile) : List Claim :=
  (t.xfers.filter (fun e => slotReady t e.2)).map (fun e => { prio := e.2.prio, group := e.2.group, weight := e.2.weight, id := e.1 })

/-- Deliver on the slots of a tile, line by line as its arbiter grants, as long as one is ready (R185). -/
def pumpSlots (p : Nat) : Nat → State → State
  | 0, s => s
  | fuel + 1, s =>
    let t := getTile s p
    match arbGrant (slotClaims t) t.arb with
    | none => s
    | some (slot, a) =>
      let n := ((tfind slot t.xfers).map (fun x => x.inLine + (if x.last ≤ x.cursor + x.inLine then 1 else 0))).getD 0
      pumpSlots p fuel (pumpSlot p slot n (setTile s p { t with arb := a }))

/-- Deliver on every slot of a tile, and from its queue ports. -/
def pumpTile (p : Nat) (s : State) : State :=
  pumpRings p (pumpSlots p ((getTile s p).xfers.foldl (fun n e => n + (e.2.last - e.2.cursor) + 1) 0) s)

/-- How many elements beyond its cursor a transfer reads ahead: what the release mark of its window allows (R127, R168). -/
def Transfer.ahead (x : Transfer) (k : ArrCounter) : Nat :=
  min (x.last - x.cursor) (min k.winLen (k.release + Int.ofNat k.winLen - Int.ofNat k.count).toNat / max 1 (fmtBytes x.fmt))

/-- The lines that a transfer has asked for and that have not arrived. -/
def Transfer.asked (x : Transfer) (k : ArrCounter) : List Nat :=
  if x.suspended || !x.window then []
  else
    let t := parseTensor x.record
    (sortNat ((List.range (x.ahead k)).flatMap (fun i => t.linesOf (x.cursor + i)))).filter (fun l => (tfind l x.arrived).isNone)

/-- The reads that a tile's access engine has outstanding: slot and line, at most 512 in all (R168). -/
def Tile.outstanding (t : Tile) : List (Nat × Nat) :=
  (t.xfers.flatMap (fun e => (e.2.asked (t.run.ctr e.2.ctr)).map (fun l => (e.1, l)))).take 512

/-- A line of a transfer returns, if it was asked for (R168, R171). An uncorrectable line of device memory is an uncorrectable
error (R225); a host read that ends in error is a fault that cannot be resolved (R244). The walk for the line records an entry
that is malformed (R234). -/
def readResponseOp (p slot line : Nat) (bad : Bool) (s : State) : State :=
  let t := getTile s p
  match tfind slot t.xfers with
  | none => s
  | some x =>
    match findOp s x.op with
    | none => s
    | some o =>
      let a := (parseTensor x.record).lowLine + 64 * line
      let s := if isHost a then s else walkEvent o.asid a 4 s
      if o.phase = .done || !decide ((slot, line) ∈ t.outstanding) then s
      else match bad, translate s (whoAt o p) false a with
      | true, .phys q => streamStop p x.op (.line (q / 64 * 64)) false (badRead q s)
      | true, .host _ => streamStop p x.op (.fault 0x20 a) false s
      | _, _ => match readV (o.original s) (whoAt o p) a 64 with
        | .error e =>
          streamStop p x.op e false (setTile s p { t with xfers := tinsert slot (x.suspend e) t.xfers })
        | .ok bs =>
          let s := match translate s (whoAt o p) false a with
            | .phys q => lineFlits p q (if tier2Base ≤ q then countAccess q s else s)
            | _ => readFlits p pcieNode s
          pumpTile p (setTile s p { t with
            xfers := tinsert slot { x with arrived := tinsert line bs x.arrived } t.xfers })

/-! ### Stream runs (R113, R114, R282) -/

/-- An arrival counter at the start of a run. -/
def bindCtr (b : Binding) : ArrCounter :=
  { bound := b.kind, src := if b.kind = 2 then b.source % 256 else b.source, ended := false, ringOff := b.ringOff, winLen := b.winLen }

/-- The stream run of tile j of n: window, scalars, counters and transfers. -/
def startStream (o : Op) (j n p : Nat) (s : State) : State :=
  let t := loadImage s o.imgAddr (imgTagOf o.image) (getTile s p)
  let r := startRun o 2 0 j n
  let ctrs := o.binds.foldl (fun c b => tset (dflt {}) c b.1 (bindCtr b.2)) []
  let xfers := (o.binds.filter (fun b => b.2.kind = 1)).foldl (fun (x : Table Transfer) b =>
    let raw := ((o.recs.find? (fun e => e.1 = 0x1600 + b.1)).map (·.2)).getD []
    let (lo, hi) := (parseTensor raw).part j n
    tinsert (freeSlot x b.1)
      { op := o.tag, prio := o.prio, group := groupOf o.queue
        weight := bindWeight (getGroup s (groupOf o.queue)).active.bind
        ctr := b.1, record := raw, fmt := b.2.fmt, first := lo, last := hi, cursor := lo } x) t.xfers
  pumpTile p (markWork [tileUnit p 4, tileUnit p 5] (setTile s p { t with run := { r with ctrs, tileIx := j }, xfers }))

/-- The logical tiles of a stream operation: as many as TILES says, those that placement names first; with TILES 0 those
that placement names, and one where a queue port is bound. Under latency first TILES 0 takes every tile whose engine is idle
(R205). -/
def streamTiles (s : State) (o : Op) (want : List Nat) : List Nat :=
  let all := pinnedTiles s (groupOf o.queue)
  let near := affineTiles s o all
  let okay := if o.fld 48 2 ≤ near.length then near else all
  let named := sortNat (want.filter (fun t => decide (t ∈ okay)))
  let n := o.fld 48 2
  if n = 0 && (getGroup s (groupOf o.queue)).latencyFirst && !o.binds.any (fun b => b.2.kind = 2) then
    named ++ okay.filter (fun t => !decide (t ∈ named) && (tileAt s t).idleVx)
  else if n ≠ 0 then (named ++ okay.filter (fun t => !decide (t ∈ named))).take n
  else if o.binds.any (fun b => b.2.kind = 2) ∨ named = [] then (named ++ okay).take 1
  else named

/-- The queue ports that a stream operation's counters are bound to. -/
def Op.ports (o : Op) : List Nat := (o.binds.filter (fun b => b.2.kind = 2)).map (fun b => b.2.source % 256)

/-- A stream operation begins once the engines of its tiles are free, its image fits there and
no one else holds its queue ports (R358); after a fault that has
resolved its transfers go on from their cursors (R113, R246). -/
def tileprogOp (tag : Nat) (want : List Nat) (o : Op) (s : State) : State :=
  if o.gen ≠ 0 then
    let s1 := updOp tag (fun o => { o with phase := .running }) s
    finishRuns tag (s1.tiles.foldl (fun s e =>
      if e.2.xfers.any (fun x => x.2.op = tag) then
        pumpTile e.1 (updTile e.1 (fun t => { t with
          xfers := (t.xfers.filter (fun x => x.2.window || decide (x.2.op ≠ tag))).map (fun x =>
            (x.1, if x.2.op = tag then { x.2 with suspended := false, faultAddr := 0 } else x.2)) }) s)
      else s) s1)
  else
    let l := streamTiles s o want
    if l = [] ∨ l.length < o.fld 48 2 then refuseOp tag 0x12 s
    else if o.ports.any (fun m => !portServes s m 1) then refuseOp tag 0x10 s
    else
      let ps := l.map (fun t => (physOf s t).getD t)
      let addr := o.imgAddr
      let itag := imgTagOf o.image
      let ports := o.ports
      if ps.all (fun p => (getTile s p).idleVx && (getTile s p).epi.isEmpty &&
          (loadImage s addr itag (getTile s p)).holds addr itag &&
          decide ((getTile s p).xfers.length + (o.binds.filter (fun b => b.2.kind = 1)).length ≤ 16)) && ports.all (portFree s o) then
        let o1 := { o with started := true, phase := .running, gen := 1, tiles := l }
        ps.zipIdx.foldl (fun s x => startStream o1 x.2 l.length x.1 s)
          (setOp (ports.foldl (fun s m => holdPort o m s) s) o1)
      else updOp tag (fun o => { o with started := false }) s

/-! ### The commands -/

/-- TILEPROG (R282). -/
def execTileprog (op : Nat) (tiles : List Nat) (s : State) : Host.Outcome State Fault Refusal :=
  .next (runOp op [0x30] (tileprogOp op tiles) s)

/-- READ_RESPONSE (R171). -/
def execReadResponse (tile slot line : Nat) (bad : Bool) (s : State) : Host.Outcome State Fault Refusal :=
  .next (readResponseOp tile slot line bad s)

/-- IMAGE_LOAD (R112). -/
def execImageLoad (tile : Nat) (addr : W64) (tag : Nat) (s : State) : Host.Outcome State Fault Refusal :=
  .next (releaseImages (updTile tile (loadImage s addr.toNat tag) s))

/-- EPILOGUE_RUN_START (R113). -/
def execEpilogueRunStart (tile : Nat) (s : State) : Host.Outcome State Fault Refusal :=
  .next (epilogueStart tile s)

end Sys2Proof.Machine
end

