-- ==== Sys2Proof/Machine/Vector.lean ====
section
/-! DEFINITION. The vector engine: issue, control flow, ring pointers and the window, emission, the end of runs, and the
control, scalar and bank instructions (R108 to R127, R130, R138, R139). -/

namespace Sys2Proof.Machine

/-! ### Instruction fields (R117) -/

def iOpc (i : Nat) : Nat := bits i 56 8
def iD (i : Nat) : Nat := bits i 47 5
def iA (i : Nat) : Nat := bits i 42 5
def iB (i : Nat) : Nat := bits i 37 5
def iC (i : Nat) : Nat := bits i 32 5
def iMode (i : Nat) : Nat := bits i 0 16
def iImm (i : Nat) : Int := sext 32 i
def iTarget (i : Nat) : Int := sext 16 i
def iStride (i : Nat) : Nat := bits i 20 12
def iOffset (i : Nat) : Int := sext 20 i

/-- The active lanes, rising (R109). -/
def lanesOfRun (r : VecRun) (i : Nat) : List Nat :=
  let m := r.getP (bits i 53 3)
  (List.range 64).filter (fun l => bit m l != bit i 52)

/-! ### Registers (R108) -/

def VecRun.setS (r : VecRun) (d v : Nat) : VecRun := { r with sreg := tset (dflt 0) r.sreg d (v % 2 ^ 64) }
def VecRun.setV (r : VecRun) (d lane v : Nat) : VecRun := { r with v := tset (dflt 0) r.v (64 * d + lane) (v % 2 ^ 32) }
def VecRun.setAcc (r : VecRun) (d lane v : Nat) : VecRun :=
  { r with acc := tset (dflt 0) r.acc (64 * d + lane) (v % 2 ^ 56) }
def VecRun.setP (r : VecRun) (d v : Nat) : VecRun :=
  if d = 0 then r else { r with preds := tset (dflt 0) r.preds d v }
def VecRun.setCtr (r : VecRun) (i : Nat) (c : ArrCounter) : VecRun := { r with ctrs := tset (dflt {}) r.ctrs i c }

/-! ### Ring pointers and the window (R115, R118) -/

def ringLen (p : Nat) : Nat := bits p 40 20
def ringBase (p : Nat) : Nat := bits p 20 20
def ringAddr (p : Nat) : Nat := bits p 0 20

/-- ring_step. -/
def ringStep (p : Nat) (d : Int) : Int :=
  if ringLen p = 0 then Int.ofNat (ringAddr p) + d
  else Int.ofNat (ringBase p) + (Int.ofNat (ringAddr p) - Int.ofNat (ringBase p) + d) % Int.ofNat (ringLen p)

/-- A pointer with a new ADDR. -/
def withAddr (p : Nat) (a : Int) : Nat := p / 2 ^ 20 * 2 ^ 20 + wrapInt 20 a

/-- Whether ADDR lies in the ring. -/
def ringOk (p : Nat) : Bool :=
  ringLen p = 0 || decide (ringBase p ≤ ringAddr p ∧ ringAddr p < ringBase p + ringLen p)

/-- The first address of n bytes that lies outside the window. -/
def outsideWin (r : VecRun) (a : Int) (n : Nat) : Option Int :=
  let lo := Int.ofNat r.winBase
  let hi := Int.ofNat (r.winBase + r.winSize)
  if a < lo then some a
  else if hi < a + Int.ofNat n then some (max a hi)
  else none

/-- A bank address as TLE_VX_FAULT holds it. -/
def faultAt (a : Int) : Nat := wrapInt 20 a

/-- The addresses of some lanes of one pointer, judged. -/
def laneAddrs (r : VecRun) (p : Nat) (step : Nat → Int) (ls : List Nat) : Except Nat (List (Nat × Nat)) :=
  if ls = [] then .ok []
  else if !ringOk p then .error (ringAddr p)
  else
    let l := ls.map (fun i => (i, ringStep p (step i)))
    match l.findSome? (fun x => outsideWin r x.2 4) with
    | some a => .error (faultAt a)
    | none => .ok (l.map (fun x => (x.1, x.2.toNat)))

/-- A word of the bank. -/
def bankWord (m : Memory) (a : Nat) : Nat := leNat (Memory.readN m a 4)

/-! ### Control flow (R113, R120) -/

/-- After the last instruction of a body the count falls; levels with the innermost first. -/
def bodyEnd (pc : Nat) : List LoopLevel → List LoopLevel × Nat
  | [] => ([], pc + 1)
  | l :: ls =>
    if pc + 1 ≠ l.start + l.len then (l :: ls, pc + 1)
    else if 1 < l.count then ({ l with count := l.count - 1 } :: ls, l.start)
    else bodyEnd pc ls

/-- On to the next instruction. -/
def VecRun.advance (r : VecRun) : VecRun :=
  let (ls, pc) := bodyEnd r.pc r.loops.reverse
  { r with loops := ls.reverse, pc }

/-- A taken branch ends the levels whose bodies do not hold its target. -/
def VecRun.branch (r : VecRun) (d : Int) : VecRun :=
  let pc := (Int.ofNat r.pc + d).toNat
  { r with pc, loops := (r.loops.reverse.dropWhile (fun l => !decide (l.start ≤ pc ∧ pc < l.start + l.len))).reverse }

/-! ### Emission (R126, R139, R248, R282) -/

/-- What stands when a stream run delivers counts if the run is stopped (R56). -/
def VecRun.delivers (r : VecRun) (n : Nat) : VecRun :=
  { r with emitted := r.emitted.drop n, delivered := r.delivered + n, sentFl := r.flags, sentCand := r.cand }

/-- The words that a stream run has ready become elements of its part of OUT; of a T format a whole block at a time, and a
block that stays short of words is not delivered (R63). True: everything that can be delivered is. -/
def drainStream (p : Nat) : Nat → State → Bool × State
  | 0, s => (true, s)
  | fuel + 1, s =>
    let t := getTile s p
    let r := t.run
    match findOp s r.op with
    | none => (true, s)
    | some o =>
      if o.fld 24 8 = 0 then
        (true, updOp o.tag (fun o => { o with cursor := o.cursor + r.emitted.length })
          (setTile s p { t with run := r.delivers r.emitted.length }))
      else
        let words := r.emitted.length / 4
        if words = 0 then (true, s)
        else
          let out := o.tensor 1
          let (lo, hi) := out.part r.tileIx o.tiles.length
          let l := lo + r.delivered / 4
          if hi ≤ l then
            (true, streamStop p o.tag .shape true (setTile s p { t with run := { r with emitted := [] } }))
          else
            let n := min (deliverLen out l) (hi - l)
            if words < n then (true, s)
            else
              let f := o.fld 50 1
              let vals := (List.range n).map (fun i =>
                (decodeElem f (fromContainer f (fieldAt r.emitted (4 * i) 4)), 0, noK))
              let note (k fl _ : Nat) (s : State) : State :=
                updTile p (fun t => { t with run := t.run.note t.run.emitPc (k - lo) fl }) s
              match deliverWith note o.tag (whoAt o p) o.arith 0 l out vals s with
              | .error e => (false, streamStop p o.tag e true s)
              | .ok s1 =>
                drainStream p fuel (updOp o.tag (fun o => { o with cursor := o.cursor + 4 * n })
                  (updTile p (fun t => { t with run := t.run.delivers (4 * n) }) s1))

/-- The engine of a tile is free again. -/
def freeVx (p kind : Nat) (s : State) : State :=
  updTile p (fun t => { t with run := { t.run with kind, emitted := [], loops := [] }
                               xfers := t.xfers.filter (fun x => decide (x.2.op ≠ t.run.op)) }) s

/-! ### The end of a run (R113, R138, R139) -/

/-- The block of the result that an operation owns of an epilogue block (R89, R93, R106). -/
def EpiBlock.share (b : EpiBlock) (o : Op) (w : EpiOwn) : Blk :=
  let r0 := b.brow * 128 + b.row0
  let c0 := b.bcol * 32 + b.col0
  if o.trans then (c0, w.cols, r0, b.rows, b.batch, b.brow, b.bcol) else (r0, b.rows, c0, w.cols, b.batch, b.brow, b.bcol)

/-- The values that an epilogue run emitted for an operation, row by row of its result. -/
def epiVals (o : Op) (b : EpiBlock) (w : EpiOwn) (r : VecRun) : List XVal :=
  let at_ (row col : Nat) : XVal := decodeElem 2 (fieldAt r.emitted (4 * (row * b.cols + w.off + col)) 4)
  if o.trans then (List.range w.cols).flatMap (fun c => (List.range b.rows).map (fun k => at_ k c))
  else (List.range b.rows).flatMap (fun k => (List.range w.cols).map (fun c => at_ k c))

/-- Of the pieces of an operation's share those whose elements a run has emitted all (R63, R115). -/
def emittedPieces (o : Op) (b : EpiBlock) (w : EpiOwn) (r : VecRun) : List (Nat × Nat × Nat) :=
  let x := b.share o w
  let nl := x.2.2.2.1
  let given (e : Nat) : Bool :=
    let (row, col) := if o.trans then (e % nl, e / nl) else (e / nl, e % nl)
    decide (4 * (row * b.cols + w.off + col + 1) ≤ r.emitted.length)
  (o.pieces x).filter (fun q => (List.range q.2.2).all (fun i => given (q.1 + i)))

/-- The flags of an epilogue run in the columns of an operation, and its first INVALID there (R91, R138). -/
def EpiOwn.runFlags (w : EpiOwn) (r : VecRun) : Nat :=
  (List.range w.cols).foldl (fun fl c => fl ||| tget (dflt 0) r.colFl (w.off + c)) 0
def EpiOwn.runCand (w : EpiOwn) (r : VecRun) : Option Nat :=
  (r.colCand.find? (fun c => decide (w.off ≤ c.1 ∧ c.1 < w.off + w.cols))).map (fun c => c.2 - w.off)

/-- A block of an operation is no longer awaited. -/
def oneLess (tag : Nat) (s : State) : State := updOp tag (fun o => { o with blocksLeft := o.blocksLeft - 1 }) s

/-- An epilogue run halts: what one operation owns of its block is delivered, if the run emitted as many elements as the
block has. True: the operation is done with the run; else its delivery waits (R89, R92, R138, R139). -/
def giveOwn (p : Nat) (b : EpiBlock) (r : VecRun) (w : EpiOwn) (s : State) : Bool × State :=
  match findOp s w.op with
  | none => (true, s)
  | some o =>
    let x := b.share o w
    let key := blkKey o.trans x
    if o.phase = .done then (true, s)
    else if o.subKey ≠ 0 ∧ (o.subKey ≠ key + 1 ∨ o.phase = .suspended) then (false, s)
    else if r.emitted.length ≠ 4 * (b.rows * b.cols) then
      (true, stopIssued o.tag .shape true (oneLess o.tag s))
    else match deliverBlock o.tag key x (epiVals o b w r) s with
      | (some (.wait k a), s1) =>
        (false, stopIssued o.tag (.wait k a) true s1)
      | (some e, s1) =>
        (true, stopIssued o.tag e true (oneLess o.tag (partDone o.tag key s1)))
      | (none, s1) =>
        let cand := match w.cand with
          | some c => some c
          | none => (w.runCand r).map (fun e => offenderRec o.trans 0 (getTile s p).name b.brow b.bcol
              (e + b.row0 * 32 + b.col0) b.batch noK)
        let s2 := updOp o.tag (fun o => { o with blocksDone := o.blocksDone ++ [key] })
          (blockDone o.tag key (w.flags ||| w.runFlags r) w.ord cand s1)
        (true, oneLess o.tag s2)

/-- An epilogue run halts: its engine is free once every operation that shares its block is done with it. -/
def endEpilogue (p : Nat) (s : State) : State :=
  let r := (getTile s p).run
  match r.block with
  | none => freeVx p 0 s
  | some b =>
    let (left, s1) := b.own.foldl (fun (acc : List EpiOwn × State) w =>
      let (d, s') := giveOwn p b r w acc.2
      (if d then acc.1 else acc.1 ++ [w], s')) ([], s)
    let s2 := match left with
      | [] => freeVx p 0 s1
      | w :: _ => updTile p (fun t => { t with run := { t.run with op := w.op, block := some { b with op := w.op, own := left } } }) s1
    b.own.foldl (fun s w => finishRuns w.op s) s2

/-- A stream run halts: what it emitted is delivered; bytes beyond the last whole word disagree (R282). -/
def endStream (p : Nat) (o : Op) (s : State) : State :=
  let r := (getTile s p).run
  match drainStream p (r.emitted.length + 1) s with
  | (false, s1) => s1
  | (true, s1) =>
    let rest := (getTile s1 p).run.emitted.length
    let s2 := freeVx p 0 (streamFlags p true s1)
    finishRuns o.tag (if rest % 4 = 0 then s2 else streamStop p o.tag .shape true s2)

/-- HALT. -/
def haltRun (p : Nat) (s : State) : State :=
  let r := (getTile s p).run
  match findOp s r.op with
  | none => s
  | some o => if r.kind = 1 then endEpilogue p s else endStream p o s

/-- An operation that an access outside the window stops: its other runs end, no more are made, and it completes with
ACCESS_DENIED when its block commands have ended. FAULT_ADDR is the bank address (R96, R115; log entry 65). -/
def stopDenied (a tag : Nat) (s : State) : State :=
  let s1 := killRuns tag s
  finishRuns tag (updOp tag (fun o => if o.phase = .done then o else { o with
    phase := .running, noRuns := true, result := if o.result.status = 0 then stopWith 0x21 o.cursor a else o.result }) s1)

/-- What an epilogue run that is stopped had emitted for one operation is delivered, in whole pieces. False: the delivery
waits (R56, R63, R115). -/
def faultOwn (b : EpiBlock) (r : VecRun) (w : EpiOwn) (s : State) : Bool × State :=
  match findOp s w.op with
  | none => (true, s)
  | some o =>
    let x := b.share o w
    let key := blkKey o.trans x
    let ps := emittedPieces o b w r
    if o.phase = .done ∨ key + 2 ^ 96 ∈ o.blocksDone then (true, s)
    else if o.subKey ≠ 0 ∧ (o.subKey ≠ key + 1 ∨ o.phase = .suspended) then (false, s)
    else match deliverPart o.tag key ps (epiVals o b w r) s with
      | (some (.wait k a), s1) =>
        (false, stopIssued o.tag (.wait k a) true s1)
      | (_, s1) =>
        (true, updOp o.tag (fun o => { o with blocksDone := o.blocksDone ++ [key + 2 ^ 96] })
          (partDone o.tag key s1))

/-- The operations that a run serves. -/
def VecRun.tags (r : VecRun) : List Nat := match r.block with
  | some b => if r.kind = 1 then b.own.map (fun w => w.op) else [r.op]
  | none => [r.op]

/-- What a run that is stopped had emitted is delivered. -/
def giveEmitted (p : Nat) (s : State) : Bool × State :=
  let r := (getTile s p).run
  match r.block with
  | some b =>
    if r.kind = 1 then b.own.foldl (fun (acc : Bool × State) w =>
      let (d, s') := faultOwn b r w acc.2
      (acc.1 && d, s')) (true, s)
    else drainStream p (r.emitted.length + 1) s
  | none => drainStream p (r.emitted.length + 1) s

/-- An access outside the window stops the run and its operation (R115). -/
def vxFaultOp (p a : Nat) (s : State) : State :=
  let r := (getTile s p).run
  match giveEmitted p s with
  | (false, s1) => s1
  | (true, s1) =>
    let s2 := if r.kind = 2 then streamFlags p false s1 else s1
    let s3 := record 0x0206 (tileSrc p) (leBytes 2 p ++ leBytes 2 r.pc ++ leBytes 4 a ++ leBytes 4 r.op) s2
    let s4 := freeVx p 3 (updTile p (fun t => { t with vxFault := some (r.pc, a) }) s3)
    r.tags.foldl (fun s tag => stopDenied a tag s) s4

/-! ### Issue (R113, R115, R121) -/

/-- The operation and the instruction that a tile's engine issues next. -/
def issued (s : State) (p : Nat) : Option (Op × Nat) :=
  let r := (getTile s p).run
  if r.kind = 1 ∨ r.kind = 2 then
    match findOp s r.op, imageOf s r.imgAddr r.imgTag with
    | some o, some b => if o.phase = .done then none else some (o, imgInstr b r.pc)
    | _, _ => none
  else none

/-- A run that is beyond its last instruction ends as at HALT (R113). -/
def settle (p : Nat) (s : State) : State :=
  let r := (getTile s p).run
  match imageOf s r.imgAddr r.imgTag with
  | some b => if imgLen b ≤ r.pc then haltRun p s else s
  | none => s

/-- Issue an instruction of an opcode: its effect on the run and the bank, or the bank address at which it stops the
run. -/
def vxWith (p opc : Nat) (f : Op → Nat → VecRun → Memory → Except Nat (VecRun × Memory)) (s : State) : State :=
  match issued s p with
  | none => s
  | some (o, i) =>
    if iOpc i ≠ opc then s
    else
      let t := getTile s p
      match f o i t.run t.bank with
      | .error a => vxFaultOp p a s
      | .ok (r, m) => settle p (setTile s p { t with run := r, bank := m })

/-- Issue an instruction that changes registers only, and go on to the next. -/
def vx (p opc : Nat) (f : Op → Nat → VecRun → VecRun) (s : State) : State :=
  vxWith p opc (fun o i r m => .ok ((f o i r).advance, m)) s

/-! ### Control instructions -/

/-- SWAIT: on when the count is reached, to TARGET when the source has ended first, else it waits (R119, R127). -/
def swaitOp (p : Nat) (s : State) : State :=
  vxWith p 0x05 (fun _ i r m =>
    let c := r.ctr (iC i % 8)
    .ok (if sext 64 (r.getS (iA i % 16)) ≤ Int.ofNat c.count then r.advance
      else if c.ended then r.branch (iTarget i) else r, m)) (pumpRings p s)

/-- VEMIT's bytes, or the bank address that stops it. A count of 0 hands over nothing and is not judged; a count above LEN
whose bytes all lie in the window names the ring's top, modulo 2^20 (R115, R119; DESIGN CHOICE, log entry 65). -/
def emitBytes (r : VecRun) (m : Memory) (p n : Nat) : Except Nat (List Byte) :=
  if n = 0 then .ok []
  else if !ringOk p then .error (ringAddr p)
  else
    let len := ringLen p
    let top := ringBase p + len
    let n1 := if len = 0 then n else min n (top - ringAddr p)
    let n2 := if len = 0 then 0 else min (n - n1) (len - n1)
    match outsideWin r (Int.ofNat (ringAddr p)) n1 with
    | some a => .error (faultAt a)
    | none =>
      match (if n2 = 0 then none else outsideWin r (Int.ofNat (ringBase p)) n2) with
      | some a => .error (faultAt a)
      | none =>
        if len ≠ 0 ∧ len < n then .error (top % 2 ^ 20)
        else .ok (Memory.readN m (ringAddr p) n1 ++ Memory.readN m (ringBase p) n2)

/-- VEMIT: the bytes go to the store path, a stream run's at once. -/
def vemitOp (p : Nat) (s : State) : State :=
  match issued s p with
  | none => s
  | some (_, i) =>
    if iOpc i ≠ 0x07 then s
    else
      let t := getTile s p
      match emitBytes t.run t.bank (t.run.getS (iA i % 16)) (t.run.getS (iB i % 16)) with
      | .error a => vxFaultOp p a s
      | .ok bs =>
        let r : VecRun := { t.run with emitted := t.run.emitted ++ bs, emitPc := t.run.pc }
        let s1 := setTile s p { t with run := r.advance }
        let s2 := if r.kind = 2 then (drainStream p (r.emitted.length + 1) s1).2 else s1
        settle p s2

/-- SREL: what the mark allows is delivered (R127). -/
def srelOp (p : Nat) (s : State) : State :=
  match issued s p with
  | none => s
  | some (_, i) =>
    if iOpc i ≠ 0x06 then s
    else settle p (pumpTile p (updTile p (fun t =>
      let c := t.run.ctr (iC i % 8)
      { t with run := (t.run.setCtr (iC i % 8) { c with release := sext 64 (t.run.getS (iA i % 16)) + iImm i }).advance }) s))

/-! ### The commands: control -/

/-- VX_NOP (R119). -/
def execVxNop (tile : Nat) (s : State) : Host.Outcome State Fault Refusal := .next (vx tile 0x00 (fun _ _ r => r) s)

/-- HALT (R113, R138). -/
def execHalt (tile : Nat) (s : State) : Host.Outcome State Fault Refusal :=
  .next (match issued s tile with
    | some (_, i) => if iOpc i = 0x01 then haltRun tile s else s
    | none => s)

/-- JMP (R119, R120). -/
def execJmp (tile : Nat) (s : State) : Host.Outcome State Fault Refusal :=
  .next (vxWith tile 0x02 (fun _ i r m => .ok (r.branch (iTarget i), m)) s)

/-- BNZ (R119). -/
def execBnz (tile : Nat) (s : State) : Host.Outcome State Fault Refusal :=
  .next (vxWith tile 0x03 (fun _ i r m =>
    let v := wrapInt 64 (Int.ofNat (r.getS (iA i % 16)) - 1)
    let r1 := r.setS (iA i % 16) v
    .ok (if v ≠ 0 then r1.branch (iTarget i) else r1.advance, m)) s)

/-- LOOP (R120). -/
def execLoop (tile : Nat) (s : State) : Host.Outcome State Fault Refusal :=
  .next (vxWith tile 0x04 (fun _ i r m =>
    .ok ({ r with pc := r.pc + 1
                  loops := r.loops ++ [{ count := bits i 16 16, start := r.pc + 1, len := bits i 0 11 }] }, m)) s)

/-- SWAIT (R119). -/
def execSwait (tile : Nat) (s : State) : Host.Outcome State Fault Refusal := .next (swaitOp tile s)

/-- SWAIT_RESUME (R119). -/
def execSwaitResume (tile : Nat) (s : State) : Host.Outcome State Fault Refusal := .next (swaitOp tile s)

/-- SREL (R119, R127). -/
def execSrel (tile : Nat) (s : State) : Host.Outcome State Fault Refusal := .next (srelOp tile s)

/-- VEMIT (R119). -/
def execVemit (tile : Nat) (s : State) : Host.Outcome State Fault Refusal := .next (vemitOp tile s)

/-! ### The commands: scalars -/

/-- SMOVI (R119). -/
def execSmovi (tile : Nat) (s : State) : Host.Outcome State Fault Refusal :=
  .next (vx tile 0x08 (fun _ i r => r.setS (iD i % 16) (wrapInt 64 (iImm i))) s)

/-- SMOVH (R119). -/
def execSmovh (tile : Nat) (s : State) : Host.Outcome State Fault Refusal :=
  .next (vx tile 0x09 (fun _ i r => r.setS (iD i % 16) (r.getS (iD i % 16) % 2 ^ 32 + bits i 0 32 * 2 ^ 32)) s)

/-- SADD: S0 as B is no second source (R119). -/
def execSadd (tile : Nat) (s : State) : Host.Outcome State Fault Refusal :=
  .next (vx tile 0x0A (fun _ i r =>
    let b := if iB i % 16 = 0 then 0 else r.getS (iB i % 16)
    r.setS (iD i % 16) (wrapInt 64 (Int.ofNat (r.getS (iA i % 16) + b) + iImm i))) s)

/-- RADV (R118). -/
def execRadv (tile : Nat) (s : State) : Host.Outcome State Fault Refusal :=
  .next (vx tile 0x0B (fun _ i r =>
    let p := r.getS (iA i % 16)
    r.setS (iD i % 16) (withAddr p (ringStep p (iImm i)))) s)

/-! ### The commands: the bank -/

/-- The distance of a lane in an M-format access (R118). -/
def laneStep (i lane : Nat) : Int := iOffset i + Int.ofNat (4 * iStride i * lane)

/-- Slots of the bank that an access to some addresses takes: the most words that one sub-bank serves (R122, R123). -/
def bankSlots (l : List Int) : Nat :=
  let ws := sortNat (l.map (fun a => a.toNat / 4))
  (List.range 64).foldl (fun n b => max n (ws.filter (fun w => w % 64 = b)).length) 0

/-- Whether the access of an M-format instruction needs two slots while a matrix drain into the tile's bank runs: then it
cannot issue (R124). -/
def memWaits (t : Tile) (i : Nat) (r : VecRun) : Bool :=
  bankBusy t && decide (1 < bankSlots ((lanesOfRun r i).map (fun l => ringStep (r.getS (iA i % 16)) (laneStep i l))))

/-- VLD (R119). -/
def execVld (tile : Nat) (s : State) : Host.Outcome State Fault Refusal :=
  .next (vxWith tile 0x10 (fun _ i r m =>
    if memWaits (getTile s tile) i r then .ok (r, m)
    else (laneAddrs r (r.getS (iA i % 16)) (laneStep i) (lanesOfRun r i)).map (fun l =>
      ((l.foldl (fun q x => q.setV (iD i) x.1 (bankWord m x.2)) r).advance, m))) s)

/-- VST: of lanes that name one word the highest stands (R119). -/
def execVst (tile : Nat) (s : State) : Host.Outcome State Fault Refusal :=
  .next (vxWith tile 0x11 (fun _ i r m =>
    if memWaits (getTile s tile) i r then .ok (r, m)
    else (laneAddrs r (r.getS (iA i % 16)) (laneStep i) (lanesOfRun r i)).map (fun l =>
      (r.advance, l.foldl (fun m x => Memory.writeN m x.2 (leBytes 4 (r.getV (iB i) x.1))) m))) s)

end Sys2Proof.Machine
end

