-- ==== Sys2Proof/Machine/VecOps.lean ====
section
/-! DEFINITION. The lane instructions of the vector engine: moves, binary32, paired W16, conversions, reductions, helpers,
fixed point and the filter tap (R119, R128 to R137). -/

namespace Sys2Proof.Machine

/-! ### Lanes (R109, R138) -/

/-- Write the active lanes of Vd, with the flags of each. -/
def mapLanes (r : VecRun) (i : Nat) (f : Nat → Nat × Nat) : VecRun :=
  (lanesOfRun r i).foldl (fun q l => (q.setV (iD i) l (f l).1).note r.pc l (f l).2) r

/-- The binary32 of a lane, and the code of a value. -/
def VecRun.f32 (r : VecRun) (reg lane : Nat) : XVal := decodeElem 2 (r.getV reg lane)
def code32 (v : XVal) : Nat := (convert 2 0 false v).1

/-- RND of the run (R42, R128). -/
def Op.rnd (o : Op) : Nat := bits o.arith 0 3

/-- A binary32 operation of one, two or three sources. -/
def f32Op (g : Nat → XVal → XVal → XVal → XVal × Nat) (o : Op) (i : Nat) (r : VecRun) : VecRun :=
  mapLanes r i (fun l =>
    let (v, fl) := g o.rnd (r.f32 (iA i) l) (r.f32 (iB i) l) (r.f32 (iC i) l)
    (code32 v, fl))

/-! ### Paired W16 (R129) -/

/-- The exact a × b + c; a product alone when c is none. -/
def exactFma (a b : XVal) (c : Option XVal) : XVal × Nat :=
  if a.isNan || b.isNan then (XVal.dnan, 0)
  else match exactMul a b with
    | none => (XVal.dnan, fINVALID)
    | some p =>
      match p, c with
      | p, none => (p, 0)
      | .fin s n d, some (.fin t m e) => (addFin false s n d t m e, 0)
      | .inf s, some (.inf t) => if s = t then (.inf s, 0) else (XVal.dnan, fINVALID)
      | _, some (.nan _ _) => (XVal.dnan, 0)
      | .inf s, _ => (.inf s, 0)
      | _, some x => (x, 0)

/-- One half of a lane. -/
def halfOf (v h : Nat) : XVal := decodeElem 0x11 (bits v (16 * h) 16)

/-- Two W16 halves, each rounded once. -/
def pairOp (g : XVal → XVal → XVal → XVal × Nat) (o : Op) (i : Nat) (r : VecRun) : VecRun :=
  mapLanes r i (fun l =>
    let half (h : Nat) : Nat × Nat :=
      let (v, fl) := g (halfOf (r.getV (iA i) l) h) (halfOf (r.getV (iB i) l) h) (halfOf (r.getV (iC i) l) h)
      let (c, fc) := convertA 0x11 o.arith v
      (c, fl ||| fc)
    ((half 0).1 + (half 1).1 * 2 ^ 16, (half 0).2 ||| (half 1).2))

/-! ### Conversion (R131) -/

/-- VCVT of one lane: source lane, old destination lane, selected half. -/
def cvtLane (arith src dst half a d : Nat) : Nat × Nat :=
  let put (c : Nat) : Nat := setBits d (16 * half) 16 c
  if src = 0x11 ∧ dst = 0x11 then (put (bits a (16 * half) 16), 0)
  else
    let code := if src = 0x11 then bits a (16 * half) 16 else if src = 0x03 then a % 2 ^ 16
      else if src = 0x40 then a % 2 ^ 24 else a
    let (c, fl) := convertA dst arith (decodeElem src code)
    (if dst = 0x11 then put c else toContainer dst c, fl)

/-! ### Reduction (R130) -/

/-- One level: slot i combines with the one half a length above; the results, and flags by slot. -/
def redLevel (comb : XVal → XVal → XVal × Nat) (l : List XVal) : List (XVal × Nat) :=
  let h := l.length / 2
  ((l.take h).zip (l.drop h)).map (fun x => comb x.1 x.2)

/-- Down to one value; each slot's flags go to the run. -/
def redTree (comb : XVal → XVal → XVal × Nat) : Nat → List XVal → VecRun → XVal × VecRun
  | 0, l, r => (l.headD XVal.zero, r)
  | n + 1, l, r =>
    let lv := redLevel comb l
    redTree comb n (lv.map (·.1)) (lv.zipIdx.foldl (fun q x => q.note r.pc x.2 x.1.2) r)

/-- VRED. -/
def vredOp (o : Op) (i : Nat) (r : VecRun) : VecRun :=
  let ls := lanesOfRun r i
  let (none_, comb) : XVal × (XVal → XVal → XVal × Nat) := match iMode i with
    | 0 => (.fin true 0 1, fun x y => ieeeAdd 2 o.rnd false x y)
    | 1 => (.inf true, fun x y => ieeeMax false x y)
    | _ => (.inf false, fun x y => ieeeMin false x y)
  let vals := (List.range 64).map (fun l => if l ∈ ls then r.f32 (iA i) l else none_)
  let (v, q) := redTree comb 6 vals r
  q.setS (iD i % 16) (code32 v)

/-! ### Fixed point (R132 to R135) -/

/-- The Q24 of a lane or word as an integer. -/
def q24 (v : Nat) : Int := sext 24 v

/-- Saturate to w bits: the code, and SAT. -/
def satTo (w : Nat) (x : Int) : Nat × Nat :=
  let top : Int := (2 : Int) ^ (w - 1)
  if top ≤ x then (2 ^ (w - 1) - 1, fSAT)
  else if x < -top then (2 ^ (w - 1), fSAT)
  else (wrapInt w x, 0)

/-- A Q24 result of two sources. -/
def qOp (g : Int → Int → Nat × Nat) (_ : Op) (i : Nat) (r : VecRun) : VecRun :=
  mapLanes r i (fun l =>
    let (c, fl) := g (q24 (r.getV (iA i) l)) (q24 (r.getV (iB i) l))
    (toContainer 0x40 c, fl))

/-- A value x × 2^-k rounded to a multiple of 2^-23, ties away from zero, and then saturated to Q24 (R132, R134). -/
def toQ24 (x : Int) (k : Nat) : Nat × Nat :=
  let q := (2 ^ 24 * x.natAbs + 2 ^ k) / 2 ^ (k + 1)
  let (c, fl) := satTo 24 (if x < 0 then -(Int.ofNat q) else Int.ofNat q)
  (c, if q = 0 ∧ x ≠ 0 then fUFZ else fl)

/-- The accumulator with a product added or subtracted (R133). -/
def macAcc (neg : Bool) (acc : Nat) (a b : Int) : Nat × Nat :=
  let p := 4 * (a * b)
  satTo 56 (if neg then sext 56 acc - p else sext 56 acc + p)

/-- Add or subtract a product in each active lane of an accumulator. -/
def accLanes (neg : Bool) (d i : Nat) (a b : Nat → Int) (r : VecRun) : VecRun :=
  (lanesOfRun r i).foldl (fun q l =>
    let (c, fl) := macAcc neg (r.getAcc d l) (a l) (b l)
    (q.setAcc d l c).note r.pc l fl) r

/-- QMAC and QMSU. -/
def qmacOp (neg : Bool) (_ : Op) (i : Nat) (r : VecRun) : VecRun :=
  accLanes neg (iD i % 4) i (fun l => q24 (r.getV (iA i) l)) (fun l => q24 (r.getV (iB i) l)) r

/-- AGET: the Q24 of ACC × 2^−n; with CLR the lanes that were read become 0 (R134). -/
def agetOp (_ : Op) (i : Nat) (r : VecRun) : VecRun :=
  let a := iA i % 4
  let r1 := mapLanes r i (fun l =>
    let (c, fl) := toQ24 (sext 56 (r.getAcc a l)) (48 + iMode i % 8)
    (toContainer 0x40 c, fl))
  if bit i 3 then (lanesOfRun r i).foldl (fun q l => q.setAcc a l 0) r1 else r1

/-- VTAP; while a matrix drain into the bank runs, it cannot issue (R124, R135). -/
def vtapOp (busy : Bool) (_ : Op) (i : Nat) (r : VecRun) (m : Memory) : Except Nat (VecRun × Memory) :=
  let a := iA i % 16
  let b := iB i % 16
  let one := bit i 20
  let ls := lanesOfRun r i
  if busy && !ls.isEmpty then .ok (r, m)
  else match laneAddrs r (r.getS a) (fun l => if one then 0 else Int.ofNat (4 * l)) ls with
  | .error x => .error x
  | .ok ca => match laneAddrs r (r.getS b) (fun l => Int.ofNat (4 * l)) ls with
    | .error x => .error x
    | .ok xa =>
      let word (t : List (Nat × Nat)) (l : Nat) : Int :=
        q24 (bankWord m (((t.find? (fun e => e.1 = l)).map (·.2)).getD 0))
      let r1 := accLanes (bit i 21) (iD i % 4) i (word ca) (word xa) r
      let r2 := r1.setS a (withAddr (r1.getS a) (ringStep (r1.getS a) (if one then 4 else 256)))
      let r3 := r2.setS b (withAddr (r2.getS b) (ringStep (r2.getS b) (iOffset i)))
      .ok (r3.advance, m)

/-! ### The commands: moves and binary32 -/

/-- VMOVS (R119). -/
def execVmovs (tile : Nat) (s : State) : Host.Outcome State Fault Refusal :=
  .next (vx tile 0x18 (fun _ i r => mapLanes r i (fun _ => (r.getS (iA i % 16), 0))) s)

/-- VPERM (R119). -/
def execVperm (tile : Nat) (s : State) : Host.Outcome State Fault Refusal :=
  .next (vx tile 0x19 (fun _ i r => mapLanes r i (fun l => (r.getV (iA i) ((l + i) % 64), 0))) s)

/-- VADD (R128). -/
def execVadd (tile : Nat) (s : State) : Host.Outcome State Fault Refusal :=
  .next (vx tile 0x20 (f32Op (fun rnd a b _ => ieeeAdd 2 rnd false a b)) s)

/-- VSUB (R128). -/
def execVsub (tile : Nat) (s : State) : Host.Outcome State Fault Refusal :=
  .next (vx tile 0x21 (f32Op (fun rnd a b _ => ieeeSub 2 rnd a b)) s)

/-- VMUL (R128). -/
def execVmul (tile : Nat) (s : State) : Host.Outcome State Fault Refusal :=
  .next (vx tile 0x22 (f32Op (fun rnd a b _ => ieeeMul 2 rnd a b)) s)

/-- VFMA (R128). -/
def execVfma (tile : Nat) (s : State) : Host.Outcome State Fault Refusal :=
  .next (vx tile 0x23 (f32Op (fun rnd a b c => ieeeFma 2 rnd false a b c)) s)

/-- VMAX (R44). -/
def execVmax (tile : Nat) (s : State) : Host.Outcome State Fault Refusal :=
  .next (vx tile 0x24 (f32Op (fun _ a b _ => ieeeMax false a b)) s)

/-- VMIN (R44). -/
def execVmin (tile : Nat) (s : State) : Host.Outcome State Fault Refusal :=
  .next (vx tile 0x25 (f32Op (fun _ a b _ => ieeeMin false a b)) s)

/-- VCMP (R128). -/
def execVcmp (tile : Nat) (s : State) : Host.Outcome State Fault Refusal :=
  .next (vx tile 0x26 (fun _ i r =>
    (lanesOfRun r i).foldl (fun q l =>
      let (b, fl) := cmpPred (iMode i) (r.f32 (iA i) l) (r.f32 (iB i) l)
      (q.setP (iD i % 8) (setBits (q.getP (iD i % 8)) l 1 (b2n b))).note r.pc l fl) r) s)

/-- VSEL (R119). -/
def execVsel (tile : Nat) (s : State) : Host.Outcome State Fault Refusal :=
  .next (vx tile 0x27 (fun _ i r => mapLanes r i (fun l =>
    (if bit (r.getP (iC i % 8)) l then r.getV (iA i) l else r.getV (iB i) l, 0))) s)

/-! ### The commands: W16, conversion, reduction, helpers -/

/-- VADDH (R129). -/
def execVaddh (tile : Nat) (s : State) : Host.Outcome State Fault Refusal :=
  .next (vx tile 0x28 (pairOp (fun a b _ => exactFma a XVal.one (some b))) s)

/-- VMULH (R129). -/
def execVmulh (tile : Nat) (s : State) : Host.Outcome State Fault Refusal :=
  .next (vx tile 0x29 (pairOp (fun a b _ => exactFma a b none)) s)

/-- VFMAH (R129). -/
def execVfmah (tile : Nat) (s : State) : Host.Outcome State Fault Refusal :=
  .next (vx tile 0x2A (pairOp (fun a b c => exactFma a b (some c))) s)

/-- VCVT (R131). -/
def execVcvt (tile : Nat) (s : State) : Host.Outcome State Fault Refusal :=
  .next (vx tile 0x2B (fun o i r => mapLanes r i (fun l =>
    cvtLane o.arith (bits i 8 8) (bits i 0 8) (iC i % 2) (r.getV (iA i) l) (r.getV (iD i) l))) s)

/-- VRED (R130). -/
def execVred (tile : Nat) (s : State) : Host.Outcome State Fault Refusal := .next (vx tile 0x2C vredOp s)

/-- A helper on one lane (R136, R137). -/
def helpOp (h : Nat) (_ : Op) (i : Nat) (r : VecRun) : VecRun :=
  mapLanes r i (fun l => helper32 h (r.getV (iA i) l))

/-- VEXP2 (R136). -/
def execVexp2 (tile : Nat) (s : State) : Host.Outcome State Fault Refusal := .next (vx tile 0x30 (helpOp 0) s)

/-- VLOG2 (R136). -/
def execVlog2 (tile : Nat) (s : State) : Host.Outcome State Fault Refusal := .next (vx tile 0x31 (helpOp 1) s)

/-- VRCP (R136). -/
def execVrcp (tile : Nat) (s : State) : Host.Outcome State Fault Refusal := .next (vx tile 0x32 (helpOp 2) s)

/-- VRSQRT (R136). -/
def execVrsqrt (tile : Nat) (s : State) : Host.Outcome State Fault Refusal := .next (vx tile 0x33 (helpOp 3) s)

/-! ### The commands: fixed point -/

/-- QADD (R132). -/
def execQadd (tile : Nat) (s : State) : Host.Outcome State Fault Refusal :=
  .next (vx tile 0x40 (qOp (fun a b => satTo 24 (a + b))) s)

/-- QSUB (R132). -/
def execQsub (tile : Nat) (s : State) : Host.Outcome State Fault Refusal :=
  .next (vx tile 0x41 (qOp (fun a b => satTo 24 (a - b))) s)

/-- QMUL (R132). -/
def execQmul (tile : Nat) (s : State) : Host.Outcome State Fault Refusal :=
  .next (vx tile 0x42 (qOp (fun a b => toQ24 (a * b) 46)) s)

/-- QMAC (R133). -/
def execQmac (tile : Nat) (s : State) : Host.Outcome State Fault Refusal := .next (vx tile 0x43 (qmacOp false) s)

/-- QMSU (R133). -/
def execQmsu (tile : Nat) (s : State) : Host.Outcome State Fault Refusal := .next (vx tile 0x44 (qmacOp true) s)

/-- ACLR (R119). -/
def execAclr (tile : Nat) (s : State) : Host.Outcome State Fault Refusal :=
  .next (vx tile 0x45 (fun _ i r => (lanesOfRun r i).foldl (fun q l => q.setAcc (iD i % 4) l 0) r) s)

/-- AGET (R134). -/
def execAget (tile : Nat) (s : State) : Host.Outcome State Fault Refusal := .next (vx tile 0x46 agetOp s)

/-- VTAP (R135). -/
def execVtap (tile : Nat) (s : State) : Host.Outcome State Fault Refusal :=
  .next (vxWith tile 0x47 (vtapOp (bankBusy (getTile s tile))) s)

end Sys2Proof.Machine
end

