-- ==== Sys2Proof/Machine/Floe.lean ====
section
/-! DEFINITION. Floe engines, KV sequences and pages, KV_APPEND and its truncate mode, page locks, and OPTSTEP (R141 to
R154, R162 to R165). -/

namespace Sys2Proof.Machine

/-! ### Engines (R4, R141 to R145, R165) -/

/-- Whether a part of an operation runs on a stack's engines: with UNIT 0b01 always, with UNIT 0b00 where the operand
elements that it reads lie in that stack too (R141, R143). -/
def floeRuns (s : State) (o : Op) (k : Nat) (reads : List (Tensor × List Nat)) : Bool :=
  o.unit ≠ 2 && floeServes s k && (o.unit = 1 || reads.all (fun x => elemsWithin s o k x.1 x.2))

/-- The engines of a stack that run parts between commands: the lowest in service, in the order of their parts. -/
def busyEngines (s : State) (k : Nat) : List Nat :=
  ((List.range 4).filter (fun e => !decide (e ∈ (getFloe s k).retired))).take (floeParts s k).length

/-- The part of an operation on a stack's engine begins again: what it has read is dropped. What other parts have delivered
stands, so that a part is what follows the cursor (R141, R145; log entry 71). -/
def restartPart (k e : Nat) (s : State) : State :=
  match (busyEngines s k).zip (floeParts s k) |>.find? (fun x => x.1 = e) with
  | some (_, tag) => updOp tag (fun o => { o with kvSeen := o.kvSeen.filter (fun x => !(x.floe && x.stack = k)) }) s
  | none => s

/-- An engine fails with a parity error: it is retired, and its part begins again on another, or on a tile (R145). -/
def floeParityOp (k e : Nat) (s : State) : State :=
  let x := getFloe s k
  if !floeServes s k || decide (4 ≤ e) || decide (e ∈ x.retired) then s
  else
    let l := s.ice.now
    let s1 := setFloe { restartPart k e s with ice := { s.ice with now := { l with floeRetired := tadd l.floeRetired k 1 } } } k
      { x with retired := insertNat e x.retired }
    let s2 := record 0x0301 (0x40 + k) (leBytes 1 e ++ leBytes 1 1) s1
    if floeServes s2 k then s2
    else setFloe { s2 with ops := s2.ops.map (fun o => { (if o.onFloe = some k then o.runsPart s2 none else o) with
        kvSeen := o.kvSeen.map (fun x => if x.stack = k then { x with floe := false } else x) }) } k
      { getFloe s2 k with buffer := [] }

/-! ### Sequence records and pages (R146 to R150) -/

def Op.sq (o : Op) (i n : Nat) : Nat := fieldAt o.seqRec i n
def Op.sqHeads (o : Op) : Nat := o.sq 14 2
def Op.sqDim (o : Op) : Nat := o.sq 16 2
def Op.sqFmt (o : Op) : Nat := o.sq 18 1
def Op.sqNP (o : Op) : Nat := ceilDiv (o.sq 8 4) 256

/-- The address of the entry of a page. -/
def Op.pte (o : Op) (layer head page : Nat) : Nat := o.sq 0 8 + 8 * ((layer * o.sqHeads + head) * o.sqNP + page)

/-- Element bytes, length of a set of scale lines, and where a page's regions begin (R148). -/
def Op.kvE (o : Op) : Nat := if o.sqFmt = 0x11 then 2 else 1
def Op.kvLs (o : Op) : Nat := if o.sqFmt = 0x11 then 0 else 64 * ceilDiv (8 * o.sqDim) 56
def Op.kvData (o : Op) (value : Bool) : Nat := 64 + (if value then 256 * o.sqDim * o.kvE else 0)
def Op.kvScales (o : Op) (value : Bool) : Nat := 64 + 512 * o.sqDim * o.kvE + (if value then o.kvLs else 0)
def Op.kvSize (o : Op) : Nat := 64 + 512 * o.sqDim * o.kvE + 2 * o.kvLs

/-- Keys or values as a tensor of one block, for R58 and R61. -/
def Op.kvTensor (o : Op) (value : Bool) : Tensor :=
  { parseTensor [] with format := o.sqFmt, scalePtr := if o.sqFmt = 0x11 then 0 else 64
                        tscale := o.sq (if value then 28 else 24) 4, stamp := o.sq 20 4 }

/-- The page behind an entry. -/
def kvAt (s : State) (asid entry : Nat) : Option KvPage := s.kv.find? (fun k => k.asid = asid && k.entry = entry)
def setKv (k : KvPage) (s : State) : State :=
  { s with kv := s.kv.map (fun x => if x.asid = k.asid && x.entry = k.entry then k else x) }

/-- The device address of a page: of its first byte. -/
def KvPage.addr (k : KvPage) : Nat := k.pieces.headD 0

/-- The physical address of a byte of a page. -/
def KvPage.at (k : KvPage) (off : Nat) : Nat := k.pieces.getD (off / k.leaf) 0 + off % k.leaf

/-- Read bytes of a page, line by line (R225). -/
def readPage (s : State) (k : KvPage) : Nat → Nat → Nat → Except Stop (List Byte)
  | 0, _, _ => .ok []
  | fuel + 1, off, n =>
    if n = 0 then .ok []
    else
      let m := min n (64 - off % 64)
      let a := k.at off
      if lineLost s a then .error (.line (a / 64 * 64))
      else (readPage s k fuel (off + m) (n - m)).map (fun l => Memory.readN s.dmem a m ++ l)

/-- Write bytes of a page. -/
def writePage (k : KvPage) : Nat → Nat → List Byte → State → State
  | 0, _, _, s => s
  | fuel + 1, off, bs, s =>
    if bs.isEmpty then s
    else
      let m := 64 - off % 64
      writePage k fuel (off + m) (bs.drop m) (writeLine (k.at off) (bs.take m) s)
def putPage (k : KvPage) (off : Nat) (bs : List Byte) (s : State) : State := writePage k (bs.length / 64 + 2) off bs s

/-- The stacks that may hold pages of a sequence, rising. -/
def Op.sqStacks (o : Op) (s : State) : List Nat :=
  let set := o.sq 32 4
  (List.range (numStacks s.variant)).filter (fun k => (getStack s k).present && (set = 0 || bit set k))

/-- The stacks to try for a page: R150's first, then those after it, the derated ones last. -/
def Op.pageStacks (o : Op) (s : State) (layer head page : Nat) : List Nat :=
  let l := o.sqStacks s
  let i := (page + layer * o.sqHeads + head) % l.length
  let r := l.drop i ++ l.take i
  r.filter (fun k => !(getStack s k).derated) ++ r.filter (fun k => (getStack s k).derated)

/-- Where the Ringmaster maps a KV page: the highest 2 MiB regions of the address space that are free, of those that end at its
top or where a run begins (R195, R235; log entry 15). -/
def kvVa (s : State) (asid n : Nat) : Option Nat :=
  let m := ceilDiv n (2 ^ 21) * 2 ^ 21
  let mine := s.pages.filter (fun p => p.asid = asid)
  let tops := 2 ^ 48 :: mine.map (fun p => p.base / 2 ^ 21 * 2 ^ 21)
  let free (top : Nat) : Bool := decide (m ≤ top) && mine.all (fun p => decide (p.base + p.len ≤ top - m ∨ top ≤ p.base))
  (tops.filter free).foldl (fun a top => some (max (a.getD 0) (top - m))) none

/-- Map the pieces of a KV page: leaves that software may neither read nor write (R152, R235; log entry 15). -/
def mapKv (k : KvPage) (s : State) : State :=
  match k.va with
  | some va => { s with pages := k.pieces.zipIdx.foldl (fun l x => insertPage
      { asid := k.asid, base := va + k.leaf * x.2, len := k.leaf, leaf := Nat.log2 k.leaf, kind := .backed, rd := false, wr := false
        kv := true, phys := x.1, stack := some k.stack } l) s.pages }
  | none => s

/-- Allocate a page with nothing written, and its entry (R150, R151, R154, R451). none: no free memory. -/
def allocPage (o : Op) (layer head page : Nat) (s : State) : Option (Option Stop × State) :=
  let size := ceilDiv o.kvSize 4096 * 4096
  let entry := o.pte layer head page
  match (o.pageStacks s layer head page).findSome? (fun k => (placeOnStack s k 12 size).map (fun r => (k, r))) with
  | none => none
  | some (st, (leaf, pieces)) =>
    let old := kvAt s o.asid entry
    let k : KvPage := { asid := o.asid, entry, seqId := o.sq 36 4, layer, head, page, stack := st, leaf, pieces
                        va := kvVa s o.asid (leaf * pieces.length), writer := some o.tag, waiting := (old.map (fun x => x.waiting)).getD [] }
    let hdr := leBytes 32 0 ++ leBytes 4 (256 * page) ++ leBytes 2 layer ++ leBytes 1 head ++ leBytes 1 0 ++
      leBytes 4 (o.sq 20 4) ++ leBytes 4 (o.sq 36 4) ++ leBytes 16 0
    match writeRM (whoOf o) entry (leBytes 8 (kvEntry true false st k.addr)) 2 s with
    | (some e, s1) => some (some e, s1)
    | (none, s1) =>
      let rest := s1.kv.filter (fun x => !(x.asid = k.asid && x.entry = k.entry))
      some (none, putPage k 0 hdr (mapKv k { s1 with kv := rest ++ [k] }))

/-! ### Page locks (R152) -/

/-- Whether an operation that holds or awaits a lock still does. -/
def lockLive (s : State) (tag : Nat) : Bool := match findOp s tag with
  | some o => o.phase != .done
  | none => false

/-- A page with the holders and requests that are left. -/
def KvPage.live (s : State) (k : KvPage) : KvPage :=
  { k with readers := k.readers.filter (lockLive s), waiting := k.waiting.filter (fun r => lockLive s r.1)
           writer := match k.writer with
             | some t => if lockLive s t then some t else none
             | none => none }

/-- Whether a page's holders leave room for a request. -/
def KvPage.admits (k : KvPage) (tag : Nat) (write : Bool) : Bool :=
  (k.writer.isNone || k.writer = some tag) && (!write || k.readers.all (· = tag))

/-- Give a lock. -/
def KvPage.give (k : KvPage) (tag : Nat) (write : Bool) : KvPage :=
  let k1 := { k with waiting := k.waiting.filter (fun r => decide (r.1 ≠ tag)) }
  if write then { k1 with writer := some tag } else { k1 with readers := insertNat tag k1.readers }

/-- Whether an operation holds a page's lock as it needs it. -/
def KvPage.holds (k : KvPage) (tag : Nat) (write : Bool) : Bool :=
  if write then k.writer = some tag else decide (tag ∈ k.readers)

/-- Ask for a lock: true when it is given; else the request waits its turn, and the stack counts it. -/
def askLock (k0 : KvPage) (tag : Nat) (write : Bool) (s : State) : Bool × State :=
  let k := k0.live s
  if k.holds tag write then (true, s)
  else if k.admits tag write && k.waiting.isEmpty then (true, setKv (k.give tag write) s)
  else
    let x := getFloe s k.stack
    let s1 := setKv { k with waiting := k.waiting ++ [(tag, write)] } s
    let s2 := if hasFloe s.variant then setFloe s1 k.stack { x with lockWait := satAdd 0xFFFF x.lockWait 1 } else s1
    (false, updOp tag (fun o => { o with phase := .waiting }) s2)

/-- Give a lock back. -/
def dropLock (asid entry tag : Nat) (s : State) : State :=
  match kvAt s asid entry with
  | some k => setKv { k with readers := k.readers.filter (· ≠ tag), writer := if k.writer = some tag then none else k.writer } s
  | none => s

/-- Give back every lock of an operation. -/
def dropLocks (tag : Nat) (s : State) : State :=
  { s with kv := s.kv.map (fun k => { k with
      readers := k.readers.filter (· ≠ tag), writer := if k.writer = some tag then none else k.writer }) }

/-- The first request that waits takes the lock once the holders leave room. -/
def lockGrantOp (page : Nat) (s : State) : State :=
  match s.kv.find? (fun k => k.addr = page && !(k.live s).waiting.isEmpty) with
  | none => s
  | some k0 =>
    let k := k0.live s
    match k.waiting with
    | (tag, write) :: _ =>
      if k.admits tag write then
        updOp tag (fun o => if o.phase = .waiting then { o with phase := .ready } else o) (setKv (k.give tag write) s)
      else s
    | [] => s

/-! ### KV_APPEND, write mode (R151) -/

def Op.kvPos (o : Op) : Nat := o.fld 48 4
def Op.kvCount (o : Op) : Nat := o.fld 52 4
def Op.kvLayer (o : Op) : Nat := o.fld 56 2

/-- Write one block of 32 elements of a slot with its scale code and line tag (R61, R66, R67, R148): element codes with
stored values and flags, the code, and its clamps. -/
def putKvBlock (k : KvPage) (o : Op) (value : Bool) (slot j : Nat) (codes : List Nat) (b : Nat) (s : State) : State :=
  let s1 := putPage k (o.kvData value + (slot * o.sqDim + 32 * j) * o.kvE) (codes.flatMap (leBytes o.kvE)) s
  if o.sqFmt = 0x11 then s1
  else
    let blk := j + o.sqDim / 32 * slot
    let line := o.kvScales value + 64 * (blk / 56)
    let first := 56 * (blk / 56)
    let left := 8 * o.sqDim - first
    let s2 := putPage k (line + 56) (leBytes 4 first ++ leBytes 4 (o.sq 20 4)) (putPage k (line + blk % 56) (leBytes 1 b) s1)
    if left < 56 then putPage k (line + left) (fill (56 - left) 0xFF) s2 else s2

/-- The values of one block of 32 elements of K or V, from a linear index. -/
def kvVals (s : State) (o : Op) (t : Tensor) (l : Nat) : Except Stop (List (XVal × Nat × Nat)) :=
  valuesOf (fun l => (loadElem s (whoOf o) t (t.coords l)).map (fun x => (x.1, x.2, noK))) 32 l

/-- Store a block of values: codes, stored values and flags, the code, and whether it was clamped above or below. -/
def kvStore (o : Op) (value : Bool) (vs : List XVal) : List (Nat × XVal × Nat) × Nat × Bool × Bool :=
  if o.sqFmt = 0x11 then
    (vs.map (fun v => let (c, q, fl) := storeVal 0x11 o.arith v
                      (fromContainer 0x11 c, q, fl)), 127, false, false)
  else blockStore (o.kvTensor value) vs

/-- Deliver a block: bytes, statistics, flags. The output blocks are the runs of K, then those of V. -/
def deliverKv (k : KvPage) (tag : Nat) (value : Bool) (slot j l : Nat) (vs : List (XVal × Nat × Nat)) (s : State) : State :=
  match findOp s tag with
  | none => s
  | some o =>
    let (es, b, hi, lo) := kvStore o value (vs.map (·.1))
    let s1 := putKvBlock k o value slot j (es.map (·.1)) b s
    let ix := b2n value
    let s2 := if o.sqFmt = 0x11 then s1 else updStats tag ix (countBlock b hi lo) s1
    let key0 := if value then ceilDiv (o.tensor 1).count 4096 else 0
    ((vs.zip es).zipIdx).foldl (fun s x =>
      let ((v, fl, _), (_, q, fe)) := x.1
      let f := fl ||| fe ||| (if hi || lo then fEXPCLAMP else 0)
      updOp tag (fun o =>
        (o.addBlock (key0 + (l + x.2) / 4096) f).offer 0 (if bit f 0 then some (o.offender1 s (l + x.2) noK) else none))
        (updStats tag ix (countElem v q fe) s)) s2

/-- The blocks of a page's positions: value or key, slot, block and linear index of its first element. -/
def kvWork (o : Op) (page head : Nat) : List (Bool × Nat × Nat × Nat) :=
  let lo := max o.kvPos (256 * page)
  let hi := min (o.kvPos + o.kvCount) (256 * page + 256)
  (List.range (hi - lo)).flatMap (fun i => [false, true].flatMap (fun v => (List.range (o.sqDim / 32)).map (fun j =>
    (v, lo + i - 256 * page, j, (o.tensor 1).linear [32 * j, head, lo + i - o.kvPos]))))

/-- Read all of it. -/
def kvRead (s : State) (o : Op) : List (Bool × Nat × Nat × Nat) →
    Except Stop (List ((Bool × Nat × Nat × Nat) × List (XVal × Nat × Nat)))
  | [] => .ok []
  | x :: xs => match kvVals s o (o.tensor (if x.1 then 2 else 1)) x.2.2.2 with
    | .error e => .error e
    | .ok vs => (kvRead s o xs).map (fun l => (x, vs) :: l)

/-- Set WRITTEN bits of a page in one write. -/
def setWritten (k : KvPage) (lo hi : Nat) (s : State) : State :=
  let cur := leNat (Memory.readN s.dmem (k.at 0) 32)
  putPage k 0 (leBytes 32 (cur ||| ((2 ^ (hi - lo) - 1) * 2 ^ lo))) s

/-- The part of an append on one page of one head: true when it is done. A LOST page is allocated anew under its lock
(R152, R154). -/
def appendPart (tag : Nat) (o : Op) (page head : Nat) (s : State) : Bool × State :=
  let entry := o.pte o.kvLayer head page
  let (mine, s) : Bool × State := match kvAt s o.asid entry with
    | some k => if k.lost then askLock k tag true s else (true, s)
    | none => (true, s)
  let have_ : Option (Option Stop × State) := match kvAt s o.asid entry with
    | some k => if k.lost then allocPage o o.kvLayer head page s else some (none, s)
    | none => allocPage o o.kvLayer head page s
  if !mine then (false, s)
  else match have_ with
  | none => (false, endOp tag (stopWith 0x12 o.cursor 0) s)
  | some (some e, s1) => (false, stopOp tag e true s1)
  | some (none, s1) =>
    match kvAt s1 o.asid entry with
    | none => (false, s1)
    | some k0 =>
      match askLock k0 tag true s1 with
      | (false, s2) => (false, s2)
      | (true, s2) =>
        let k := (kvAt s2 o.asid entry).getD k0
        let work := kvWork o page head
        let read (v : Bool) : Tensor × List Nat := (o.tensor (1 + b2n v), (work.filter (fun x => x.1 = v)).flatMap (fun x =>
          (List.range 32).map (fun i => x.2.2.2 + i)))
        let fits := floeRuns s2 o k.stack [read false, read true] && floeFmt (o.tensor 1).format && floeFmt (o.tensor 2).format
        let s3 := markWork (if fits then (List.range 4).map (floeUnit k.stack) else [])
          (updOp tag (fun o => o.runsPart s2 (if fits then some k.stack else none)) s2)
        if fits && !floeFree s2 k.stack tag then (false, s2)
        else if stackGone s3 k.addr then (false, stopOp tag (.line k.addr) true s3)
        else match kvRead s3 o work with
        | .error e => (false, stopOp tag e false s3)
        | .ok l =>
          let s4 := l.foldl (fun s x => deliverKv k tag x.1.1 x.1.2.1 x.1.2.2.1 x.1.2.2.2 x.2 s) s3
          let lo := max o.kvPos (256 * page) - 256 * page
          let hi := min (o.kvPos + o.kvCount) (256 * page + 256) - 256 * page
          (true, dropLock o.asid entry tag (setWritten k lo hi s4))

/-- Go through pages, and within a page through heads; the cursor is the lowest position not set everywhere. -/
def appendFrom (tag : Nat) : Nat → State → State
  | 0, s => s
  | fuel + 1, s =>
    match findOp s tag with
    | none => s
    | some o =>
      let h := o.sqHeads
      let page := o.kvPos / 256 + o.gen / h
      if o.kvPos + o.kvCount ≤ 256 * page then endOp tag {} s
      else
        let c := max o.kvPos (256 * page)
        match appendPart tag { o with cursor := c } page (o.gen % h) (updOp tag (fun o => { o with cursor := c }) s) with
        | (true, s1) => appendFrom tag fuel (updOp tag (fun o => { o with gen := o.gen + 1 }) s1)
        | (false, s1) => s1

/-- KV_APPEND in write mode. -/
def kvAppendOp (tag : Nat) (o : Op) (s : State) : State :=
  appendFrom tag (((o.kvCount + 255) / 256 + 1) * o.sqHeads + 1) s

/-! ### KV_APPEND, truncate mode (R153) -/

/-- The pages of a sequence that a truncation changes. -/
def truncPages (o : Op) (s : State) : List KvPage :=
  s.kv.filter (fun k => k.asid = o.asid && decide (o.sq 0 8 ≤ k.entry ∧ k.entry < o.sq 0 8 + 8 * (o.sq 12 2 * o.sqHeads * o.sqNP)) &&
    (o.kvLayer = 0xFFFF || k.layer = o.kvLayer) && decide (o.kvPos < 256 * k.page + 256))

/-- The operations that wait for a page that is freed go on without it. -/
def wakeWaiting (k : KvPage) (s : State) : State :=
  k.waiting.foldl (fun s r => updOp r.1 (fun o => if o.phase = .waiting then { o with phase := .ready } else o) s) s

/-- Truncate one page. -/
def truncPage (o : Op) (k : KvPage) (s : State) : Option Stop × State :=
  if o.kvPos ≤ 256 * k.page then
    match writeRM (whoOf o) k.entry (leBytes 8 0) 2 s with
    | (some e, s1) => (some e, s1)
    | (none, s1) => (none, wakeWaiting k { unmapKv k s1 with kv := s1.kv.filter (fun x => !(x.asid = k.asid && x.entry = k.entry)) })
  else if k.lost then (none, s)
  else if stackGone s k.addr then (some (.line k.addr), s)
  else
    let keep := o.kvPos - 256 * k.page
    let cur := leNat (Memory.readN s.dmem (k.at 0) 32)
    (none, putPage k 0 (leBytes 32 (cur % 2 ^ keep)) s)

/-- Page by page under each one's lock. -/
def truncAll (tag : Nat) (o : Op) : List KvPage → State → State
  | [], s => endOp tag {} s
  | k :: ks, s =>
    match askLock ((kvAt s k.asid k.entry).getD k) tag true s with
    | (false, s1) => s1
    | (true, s1) =>
      match truncPage o ((kvAt s1 k.asid k.entry).getD k) s1 with
      | (some e, s2) => stopOp tag e true s2
      | (none, s2) => truncAll tag o ks (dropLock k.asid k.entry tag s2)

/-! ### OPTSTEP (R162 to R164) -/

/-- A binary32 field as a value. -/
def Op.f32At (o : Op) (i : Nat) : XVal := decodeElem 2 (o.fld i 4)

/-- β^n in binary64 by square-and-multiply from the top bit, with the flags of its steps (log entry 31). -/
def powSteps (beta : XVal) (n : Nat) : Nat → XVal × Nat → XVal × Nat
  | 0, x => x
  | i + 1, x =>
    let (q, f) := ieeeMul 1 0 x.1 x.1
    let r := if bit n i then ieeeMul 1 0 q beta else (q, 0)
    powSteps beta n i (r.1, x.2 ||| f ||| r.2)

/-- c1 and c2, with their flags. -/
def biasOf (o : Op) (beta : XVal) : XVal × Nat :=
  if bit (o.fld 92 1) 0 then
    let n := o.fld 88 4
    let (p, f) := powSteps beta n (Nat.log2 n + 1) (XVal.one, 0)
    let (c, g) := match p with
      | .fin s a b => finish 2 o.rnd (addFin (o.rnd = 4) false 1 1 (!s) a b)
      | x => (x, 0)
    (c, f ||| g)
  else (XVal.one, 0)

/-- The new m, v and w of an element with the flags that each raises (R163). -/
def optElem (o : Op) (g m v w : XVal) : (XVal × Nat) × (XVal × Nat) × (XVal × Nat) :=
  let rnd := o.rnd
  let b1 := o.f32At 68
  let b2 := o.f32At 72
  let (b1c, p1) := ieeeSub 2 rnd XVal.one b1
  let (b2c, p2) := ieeeSub 2 rnd XVal.one b2
  let (c1, p3) := biasOf o b1
  let (c2, p4) := biasOf o b2
  let (gs, a1) := ieeeMul 2 rnd (o.f32At 84) g
  let (t, a2) := ieeeMul 2 rnd b1c gs
  let (m1, a3) := ieeeFma 2 rnd false b1 m t
  let (gg, e1) := ieeeMul 2 rnd gs gs
  let (t2, e2) := ieeeMul 2 rnd b2c gg
  let (v1, e3) := ieeeFma 2 rnd false b2 v t2
  let (x, w1) := ieeeDiv 2 rnd m1 c1
  let (y, w2) := ieeeDiv 2 rnd v1 c2
  let (r, w3) := ieeeSqrt 2 rnd y
  let (z, w4) := ieeeAdd 2 rnd false r (o.f32At 76)
  let (u, w5) := ieeeDiv 2 rnd x z
  let (dw, w6) := ieeeFma 2 rnd false (o.f32At 80) w u
  let (nw, w7) := ieeeFma 2 rnd false (o.f32At 64).negate dw w
  ((m1, a1 ||| a2 ||| a3), (v1, e1 ||| e2 ||| e3),
   (nw, p1 ||| p2 ||| p3 ||| p4 ||| w1 ||| w2 ||| w3 ||| w4 ||| w5 ||| w6 ||| w7))

/-- Elements and their new state for a run. -/
def optRun (s : State) (o : Op) : Nat → Nat →
    Except Stop (List (XVal × Nat × Nat) × List (XVal × Nat × Nat) × List (XVal × Nat × Nat))
  | 0, _ => .ok ([], [], [])
  | n + 1, l =>
    let ld (p : Nat) : Except Stop (XVal × Nat) := loadElem s (whoOf o) (o.tensor p) ((o.tensor p).coords l)
    match ld 4, ld 2, ld 3, ld 1 with
    | .ok g, .ok m, .ok v, .ok w =>
      let (nm, nv, nw) := optElem o g.1 m.1 v.1 w.1
      (optRun s o n (l + 1)).map (fun r =>
        ((nm.1, nm.2 ||| m.2, noK) :: r.1, (nv.1, nv.2 ||| v.2, noK) :: r.2.1, (nw.1, nw.2 ||| w.2 ||| g.2, noK) :: r.2.2))
    | .error e, _, _, _ => .error e
    | _, .error e, _, _ => .error e
    | _, _, .error e, _ => .error e
    | _, _, _, .error e => .error e

/-- The flags of an element of one of the state tensors: each has output blocks of its own. -/
def optNote (tag ix : Nat) (t : Tensor) (l fl k : Nat) (s : State) : State :=
  updOp tag (fun o =>
    (o.addBlock (4 * (t.runPos l / 4096) + ix) fl).offer 0 (if bit fl 0 then some (o.offender1 s (t.runPos l) k) else none)) s

/-- Deliver a run into one of the tensors. -/
def optPut (tag ix l : Nat) (o : Op) (t : Tensor) (vs : List (XVal × Nat × Nat)) (s : State) : Except Stop State :=
  deliverWith (optNote tag ix t) tag (whoOf o) o.arith ix l t vs s

/-- A run of elements: everything is delivered, or nothing. -/
def optAct (tag : Nat) (o : Op) (l n : Nat) (s : State) : Except (Stop × Bool) State :=
  match optRun s o n l with
  | .error e => .error (e, false)
  | .ok (ms, vs, ws) =>
    let r : Except Stop State := do
      let s1 ← optPut tag 0 l o (o.tensor 2) ms s
      let s2 ← optPut tag 1 l o (o.tensor 3) vs s1
      let s3 ← optPut tag 2 l o (o.tensor 1) ws s2
      match o.rec? 5 with
      | some wc => optPut tag 3 l o wc (ws.map (fun (x : XVal × Nat × Nat) => (x.1, 0, noK))) s3
      | none => .ok s3
    r.mapError (fun e => (e, true))

/-- OPTSTEP, in whole blocks where a state tensor has a T format. -/
def optstepOp (tag : Nat) (o : Op) (s : State) : State :=
  let ts := [o.tensor 2, o.tensor 3] ++ (match o.rec? 5 with
    | some wc => [wc]
    | none => [])
  let t := ((ts.find? (fun t => isT t.format)).getD (o.tensor 1))
  driveBy tag (o.tensor 1).count (deliverLen t) (optAct tag) ((o.tensor 1).count + 1) s

/-! ### The commands -/

/-- KV_APPEND in write mode (R151). -/
def execKvAppend (op : Nat) (s : State) : Host.Outcome State Fault Refusal :=
  .next (runWhen op (fun o => o.opc = 0x21 && o.fld 58 1 = 0) (kvAppendOp op) s)

/-- KV_APPEND in truncate mode (R153). -/
def execKvTruncate (op : Nat) (s : State) : Host.Outcome State Fault Refusal :=
  .next (runWhen op (fun o => o.opc = 0x21 && o.fld 58 1 = 1) (fun o s => truncAll op o (truncPages o s) s) s)

/-- OPTSTEP (R163). -/
def execOptstep (op : Nat) (s : State) : Host.Outcome State Fault Refusal :=
  .next (runOp op [0x28] (optstepOp op) s)

/-- PAGE_LOCK_GRANT (R152). -/
def execPageLockGrant (page : Nat) (s : State) : Host.Outcome State Fault Refusal := .next (lockGrantOp page s)

/-- FLOE_PARITY_ERROR (R145). -/
def execFloeParityError (stack engine : Nat) (s : State) : Host.Outcome State Fault Refusal :=
  .next (floeParityOp stack engine s)

end Sys2Proof.Machine
end

