-- ==== Sys2Proof/Machine/Attend.lean ====
section
/-! DEFINITION. ATTEND: used positions, partial triples, their combination and delivery (R155 to R160). -/

namespace Sys2Proof.Machine

/-! ### Fields (R155, R275) -/

def Op.atLayer (o : Op) : Nat := o.fld 68 2
def Op.atHead (o : Op) : Nat := o.fld 70 2
def Op.atQueries (o : Op) : Nat := (o.tensor 1).dim 1
def Op.atMask (o : Op) : Nat := o.fld 75 1
def Op.atFinal (o : Op) : Bool := bit (o.fld 76 1) 0

/-- The position of query i. -/
def Op.qpos (o : Op) (i : Nat) : Nat := o.fld 56 4 + i / o.fld 74 1

/-- Whether the masks let query i use position j (R156). -/
def Op.uses (o : Op) (i j : Nat) : Bool :=
  let q := o.qpos i
  let m := o.atMask
  (!bit m 0 || decide (j ≤ q)) && (!bit m 1 || decide (q < j + o.fld 60 4 ∧ j ≤ q)) &&
    (!bit m 2 || decide (j / 256 ∈ o.pageList))

/-- Whether some query can use some position of a page. -/
def Op.canUse (o : Op) (page : Nat) : Bool :=
  (List.range o.atQueries).any (fun i => (List.range 256).any (fun n => o.uses i (256 * page + n)))

/-- The pages of the head that exist and can be used, rising. -/
def attendPages (s : State) (o : Op) : List KvPage :=
  sortBy (fun k => k.page) (s.kv.filter (fun k => k.asid = o.asid && k.layer = o.atLayer && k.head = o.atHead &&
    k.entry = o.pte o.atLayer o.atHead k.page && o.canUse k.page))

/-! ### Reading keys and values (R58, R68, R148) -/

/-- The B8 code of a block of keys or values, after the check of its line. -/
def kvScale (s : State) (k : KvPage) (o : Op) (value : Bool) (blk : Nat) : Except Stop Nat :=
  let off := o.kvScales value + 64 * (blk / 56)
  match readPage s k 3 off 64 with
  | .error e => .error e
  | .ok l =>
    let want := 56 * (blk / 56)
    let first := fieldAt l 56 4
    let stamp := fieldAt l 60 4
    if first ≠ want ∨ (o.sq 20 4 ≠ 0 ∧ stamp ≠ o.sq 20 4) then
      .error (.skew (k.at off) want first (o.sq 20 4) stamp)
    else .ok (fieldAt l (blk % 56) 1)

/-- The 32 elements of block j of a slot, with the flags of decoding. -/
def kvBlock (s : State) (k : KvPage) (o : Op) (value : Bool) (slot j : Nat) : Except Stop (List XVal × Nat) :=
  let scale : Except Stop Nat :=
    if o.sqFmt = 0x11 then .ok 127 else kvScale s k o value (j + o.sqDim / 32 * slot)
  match scale with
  | .error e => .error e
  | .ok b =>
    (readPage s k 4 (o.kvData value + (slot * o.sqDim + 32 * j) * o.kvE) (32 * o.kvE)).map (fun bs =>
      let xs := (List.range 32).map (fun i =>
        let x := decodeElem o.sqFmt (fieldAt bs (i * o.kvE) o.kvE)
        if o.sqFmt = 0x11 then (x, 0) else scaleElem (o.kvTensor value) b x)
      (xs.map (·.1), xs.foldl (fun f x => f ||| x.2) 0))

/-- The key or value of a slot. -/
def kvVector (s : State) (k : KvPage) (o : Op) (value : Bool) (slot : Nat) : Nat → Except Stop (List XVal × Nat)
  | 0 => .ok ([], 0)
  | j + 1 => match kvVector s k o value slot j with
    | .error e => .error e
    | .ok v => (kvBlock s k o value slot j).map (fun b => (v.1 ++ b.1, v.2 ||| b.2))

/-- The written positions of a page that some query uses. -/
def pagePositions (s : State) (k : KvPage) (o : Op) : List Nat → Except Stop (List KvPos)
  | [] => .ok []
  | slot :: rest =>
    let j := 256 * k.page + slot
    if (List.range o.atQueries).any (fun i => o.uses i j) then
      match kvVector s k o false slot (o.sqDim / 32), kvVector s k o true slot (o.sqDim / 32) with
      | .ok a, .ok b => (pagePositions s k o rest).map (fun l =>
          { pos := j, key := a.1, value := b.1, flags := a.2 ||| b.2 } :: l)
      | .error e, _ => .error e
      | _, .error e => .error e
    else pagePositions s k o rest

/-- The positions of several pages, in increasing order. WRITTEN is read once (R152). -/
def partPositions (s : State) (o : Op) : List KvPage → Except Stop (List KvPos)
  | [] => .ok []
  | k :: ks =>
    match readPage s k 2 0 32 with
    | .error e => .error e
    | .ok w => match pagePositions s k o (setBitsOf 256 (leNat w)) with
      | .error e => .error e
      | .ok l => (partPositions s o ks).map (fun m => l ++ m)

/-! ### Triples (R157, R158) -/

/-- m, l, o and n. -/
abbrev Triple := XVal × XVal × List XVal × Nat

/-- A triple with the flags raised so far, and element and key position of the first INVALID. -/
abbrev Flagged := Triple × Nat × Option (Nat × Nat)

def emptyTriple (d : Nat) : Triple := (.inf true, XVal.zero, List.replicate d XVal.zero, 0)

/-- Whether a value is −∞. -/
def isNegInf : XVal → Bool
  | .inf s => s
  | _ => false

/-- Add the flags of a step. -/
def addFlag (elem k fl : Nat) (x : Nat × Option (Nat × Nat)) : Nat × Option (Nat × Nat) :=
  (x.1 ||| fl, if x.2.isNone && bit fl 0 then some (elem, k) else x.2)

/-- 2^(a − b) with the flags of both steps. -/
def exp2Diff (a b : XVal) : XVal × Nat :=
  let (d, f) := ieeeSub 2 0 a b
  let (e, g) := helperVal 0 d
  (e, f ||| g)

/-- w × v + a × o in each element. -/
def blendTerms (a w : XVal) (os vs : List XVal) (k : Nat) (x : Nat × Option (Nat × Nat)) :
    List XVal × (Nat × Option (Nat × Nat)) :=
  let r := (os.zip vs).map (fun e =>
    let (p, f) := ieeeMul 2 0 a e.1
    let (q, g) := ieeeFma 2 0 false w e.2 p
    (q, f ||| g))
  (r.map (·.1), r.zipIdx.foldl (fun y e => addFlag e.2 k e.1.2 y) x)

/-- One position joins a query's triple. -/
def attendStep (scale : XVal) (q : List XVal) (p : KvPos) (x : Flagged) : Flagged :=
  let j := p.pos
  let (dot, fd) := (q.zip p.key).foldl (fun (a : XVal × Nat) e =>
    let (v, f) := accStep e.1 e.2 a.1
    (v, a.2 ||| f)) (XVal.zero, 0)
  let (t, ft) := ieeeMul 2 0 scale dot
  let f0 := addFlag 0 j (fd ||| ft) (x.2.1 ||| p.flags, x.2.2)
  if isNegInf t then (x.1, f0)
  else
    let (m, l, o, n) := x.1
    let (mn, f1) := ieeeMax false m t
    let (a, f2) := if isNegInf m then (XVal.zero, 0) else exp2Diff m mn
    let (w, f3) := exp2Diff t mn
    let (l1, f4) := ieeeFma 2 0 false a l w
    let (o1, fo) := blendTerms a w o p.value j (addFlag 0 j (f1 ||| f2 ||| f3 ||| f4) f0)
    ((mn, l1, o1, n + 1), fo)

/-- combine. Its steps round to nearest, ties to even, whatever RND holds (DESIGN CHOICE, log entry 73). -/
def combineTriples (x y : Flagged) : Flagged :=
  let (m1, l1, o1, n1) := x.1
  let (m2, l2, o2, n2) := y.1
  let (m, f0) := ieeeMax false m1 m2
  let start := addFlag 0 noK f0 (x.2.1 ||| y.2.1, match x.2.2 with
    | some c => some c
    | none => y.2.2)
  if isNegInf m then ((.inf true, XVal.zero, o1.map (fun _ => XVal.zero), n1 + n2), start)
  else
    let (a1, f1) := exp2Diff m1 m
    let (a2, f2) := exp2Diff m2 m
    let (p, f3) := ieeeMul 2 0 a2 l2
    let (l, f4) := ieeeFma 2 0 false a1 l1 p
    let (o, fo) := blendTerms a2 a1 o2 o1 noK (addFlag 0 noK (f1 ||| f2 ||| f3 ||| f4) start)
    ((m, l, o, n1 + n2), fo)

/-! ### Parts (R141, R157) -/

/-- Query i of Q. -/
def queryRow (s : State) (o : Op) (i : Nat) : Except Stop (List XVal × Nat) :=
  (valuesOf (fun l => (loadElem s (whoOf o) (o.tensor 1) ((o.tensor 1).coords l)).map (fun x => (x.1, x.2, noK)))
    o.sqDim (o.sqDim * i)).map (fun l => (l.map (·.1), l.foldl (fun f x => f ||| x.2.1) 0))

/-- The first n queries. -/
def queryRows (s : State) (o : Op) : Nat → Except Stop (List (List XVal × Nat))
  | 0 => .ok []
  | n + 1 => match queryRows s o n with
    | .error e => .error e
    | .ok l => (queryRow s o n).map (fun r => l ++ [r])

/-- The triples of a part, query by query. -/
def partTriples (o : Op) (qs : List (List XVal × Nat)) (ps : List KvPos) : List Flagged :=
  qs.zipIdx.map (fun q => (ps.filter (fun p => o.uses q.2 p.pos)).foldl (fun x p => attendStep (o.f32At 64) q.1.1 p x)
    (emptyTriple o.sqDim, 0, none))

/-- Whether the part of a stack runs on its engines: its queries are read there too. -/
def attendFloe (s : State) (o : Op) (k : Nat) : Bool := floeRuns s o k [(o.tensor 1, List.range (o.tensor 1).count)]

/-- The positions that a stack's part has read, rising. -/
def partRead (o : Op) (k : Nat) : List KvPos :=
  (sortBy (fun x => x.entry) (o.kvSeen.filter (fun x => x.stack = k))).flatMap (fun x => x.rows)

/-- A first-offender record of ATTEND (R160). -/
def attendRec (unit : Nat × Nat) (query : Nat) (c : Nat × Nat) : Nat :=
  offenderRec false unit.1 unit.2 query 0 c.1 0 c.2

/-- The first candidate of some queries of one unit. -/
def firstCand (unit : Nat × Nat) (l : List Flagged) : Option Nat :=
  l.zipIdx.findSome? (fun x => x.1.2.2.map (fun c => attendRec unit x.2 c))

/-! ### Delivery (R158 to R160) -/

/-- The final element d and its flags: o / l, or +0 for a query that used no position. -/
def finalElem (o : Op) (x : Flagged) (d : Nat) : XVal × Nat :=
  let (_, l, os, n) := x.1
  if n = 0 then (XVal.zero, 0) else ieeeDiv 2 o.rnd (os.getD d XVal.zero) l

/-- LSE of a query. Its addition rounds to nearest, ties to even, whatever RND holds (DESIGN CHOICE, log entry 73). -/
def finalLse (x : Flagged) : XVal × Nat :=
  let (m, l, _, n) := x.1
  if n = 0 then (.inf true, 0)
  else
    let (g, f) := helperVal 1 l
    let (r, f2) := ieeeAdd 2 0 false m g
    (r, f ||| f2)

/-- Flags of a delivered element go to its query's block. -/
def attendNote (tag : Nat) (q : Nat → Nat) (l fl _k : Nat) (s : State) : State :=
  updOp tag (fun o => o.addBlock (q l) fl) s

/-- Deliver a record from a linear index on. -/
def attendDeliver (tag : Nat) (t : Tensor) (q : Nat → Nat) (val : Nat → XVal × Nat) : Nat → Nat → State → Except Stop State
  | 0, _, s => .ok s
  | fuel + 1, l, s =>
    if t.count ≤ l then .ok s
    else match findOp s tag with
      | none => .ok s
      | some o =>
        let n := deliverLen t l
        match deliverWith (attendNote tag q) tag (whoOf o) o.arith 0 l t
            ((List.range n).map (fun i => ((val (l + i)).1, (val (l + i)).2, noK))) s with
        | .error e => .error e
        | .ok s1 => attendDeliver tag t q val fuel (l + n) s1

/-- The bytes of a query's triple (R159). -/
def tripleBytes (d i : Nat) (x : Triple) : List Byte :=
  let (m, l, o, n) := x
  padTo (64 * ceilDiv (16 + 4 * d) 64) (leBytes 4 (code32 m) ++ leBytes 4 (code32 l) ++ leBytes 4 i ++ leBytes 4 n ++
    o.flatMap (fun v => leBytes 4 (code32 v)))

/-- Deliver OUT and LSE, or the triples. -/
def attendWrite (tag : Nat) (o : Op) (rs : List Flagged) (s : State) : Except Stop State :=
  let x (i : Nat) : Flagged := rs.getD i (emptyTriple o.sqDim, 0, none)
  if o.atFinal then
    let out := o.tensor 2
    match attendDeliver tag out (fun l => l / o.sqDim) (fun l => finalElem o (x (l / o.sqDim)) (l % o.sqDim))
        (out.count + 1) 0 s with
    | .error e => .error e
    | .ok s1 => match o.rec? 3 with
      | none => .ok s1
      | some lse => attendDeliver tag lse (fun l => l) (fun l => finalLse (x l)) (lse.count + 1) 0 s1
  else
    let size := 64 * ceilDiv (16 + 4 * o.sqDim) 64
    writeAll (whoOf o) ((List.range o.atQueries).map (fun i =>
      (o.fld 32 8 + i * size, addrOk (o.fld 32 8 + i * size), tripleBytes o.sqDim i (x i).1))) s

/-- The candidates of the final step of each query. -/
def finalCand (o : Op) (rs : List Flagged) (unit : Nat × Nat) : Option Nat :=
  if !o.atFinal then none
  else rs.zipIdx.findSome? (fun r =>
    match (List.range o.sqDim).find? (fun d => bit (finalElem o r.1 d).2 0) with
    | some d => some (attendRec unit r.2 (d, noK))
    | none => if (o.rec? 3).isSome && bit (finalLse r.1).2 0 then some (attendRec unit r.2 (0, noK)) else none)

/-- Every part is computed and combined, then everything is delivered or nothing is (R160). There is one part for each stack
that holds pages. -/
def attendRun (tag : Nat) (order : List Nat) (o : Op) (s : State) : State :=
  let stks := sortNat (o.kvSeen.map (fun x => x.stack))
  let onFloe (k : Nat) : Bool := o.kvSeen.any (fun x => x.floe && x.stack = k)
  let s := markWork ((stks.filter onFloe).flatMap (fun k => (List.range 4).map (floeUnit k))) s
  let tile := { o with onFloe := none }.offUnit s
  match queryRows s o o.atQueries with
  | .error e => stopOp tag e false s
  | .ok qs =>
      let parts := stks.map (fun st => (st, partTriples o qs (partRead o st)))
      let bare (i : Nat) : List Flagged := parts.map (fun p =>
        let x := p.2.getD i (emptyTriple o.sqDim, 0, none)
        (x.1, 0, none))
      let rs := (List.range o.atQueries).map (fun i =>
        (combineBy combineTriples (bare i) order).getD (emptyTriple o.sqDim, 0, none))
      match attendWrite tag o rs s with
      | .error e => stopOp tag e true s
      | .ok s1 =>
        let units := parts.map (fun p => (if onFloe p.1 then (1, p.1) else tile, p.2))
        let s2 := units.foldl (fun s u => updOp tag (fun o => o.offer 0 (firstCand u.1 u.2)) s) s1
        let s3 := [firstCand tile rs, finalCand o rs tile].foldl (fun s c =>
          updOp tag (fun o => o.offer 0 c) s) s2
        let s4 := (List.range o.atQueries).foldl (fun s i =>
          let fl := ((qs.getD i ([], 0)).2 ||| (rs.getD i (emptyTriple o.sqDim, 0, none)).2.1) |||
            parts.foldl (fun f p => f ||| (p.2.getD i (emptyTriple o.sqDim, 0, none)).2.1) 0
          updOp tag (fun o => o.addBlock i fl) s) s3
        endOp tag {} s4

/-- Read one page under its lock: WRITTEN once, and exactly the slots set then (R152). -/
def readKvPage (tag : Nat) (o : Op) (k : KvPage) (s : State) : Except Stop State :=
  (partPositions s o [k]).map (fun l =>
    let f := getFloe s k.stack
    let s1 := if hasFloe s.variant then setFloe s k.stack { f with pagesRead := wrapAdd 48 f.pagesRead 1 } else s
    dropLock k.asid k.entry tag (updOp tag (fun o => { o with kvSeen := o.kvSeen ++
      [{ entry := k.entry, stack := k.stack, floe := attendFloe s o k.stack, rows := l }] }) s1))

/-- Go through pages: the lock of each is asked for, held for that page's work and given back; the first that is not
given is awaited, and so is a free engine where the part runs on a stack's engines (R144, R152). -/
def attendPagesFrom (tag : Nat) (o : Op) : List KvPage → State → Bool × State
  | [], s => (true, s)
  | k :: ks, s =>
    if k.lost then (false, updOp tag (fun o => { o with started := false }) (endOp tag (stopWith 0x30 0 k.addr) s))
    else if attendFloe s o k.stack && !floeFree s k.stack tag then (false, s)
    else match askLock ((kvAt s k.asid k.entry).getD k) tag false s with
    | (false, s1) => (false, s1)
    | (true, s1) => match readKvPage tag o ((kvAt s1 k.asid k.entry).getD k) s1 with
      | .error e => (false, dropLocks tag (stopOp tag e false
          (updOp tag (fun x => x.runsPart s1 (if attendFloe s1 o k.stack then some k.stack else none)) s1)))
      | .ok s2 => attendPagesFrom tag o ks s2

/-- ATTEND: the pages that it has not read yet, in order, and then its result. -/
def attendOp (tag : Nat) (order : List Nat) (o : Op) (s : State) : State :=
  let left := (attendPages s o).filter (fun k => o.kvSeen.all (fun x => x.entry ≠ k.entry))
  match attendPagesFrom tag o left s with
  | (false, s1) => s1
  | (true, s1) => match findOp s1 tag with
    | some o1 => attendRun tag order o1 s1
    | none => s1

/-! ### The command -/

/-- ATTEND (R157). -/
def execAttend (op : Nat) (tree : List Nat) (s : State) : Host.Outcome State Fault Refusal :=
  .next (runOp op [0x20] (attendOp op tree) s)

end Sys2Proof.Machine
end

