-- ==== Sys2Proof/Machine/Preempt.lean ====
section
/-! DEFINITION. Pre-emption: the work that lacks a unit, the units that it could take, and which of them gives way (R144, R182,
R250, R251). -/

namespace Sys2Proof.Machine

/-! ### Units that run work -/

/-- A unit that runs work: a partition of a tile, the stream run of a tile, the ring that holds a tile, or a Floe engine of a
stack (R250). -/
inductive RunUnit where
  | part (p q : Nat)
  | stream (p : Nat)
  | ring (p g : Nat)
  | engine (k : Nat)
  deriving DecidableEq, Repr

/-- The ring that a tile works in, if there is one. -/
def ringAt (s : State) (p : Nat) : Option (Nat × Carousel) :=
  (getTile s p).logical.bind (fun l => s.place.rings.find? (fun e => decide (l ∈ e.2.ring)))

/-- The partitions of a tile that run work; those that work for the tile's ring are the ring's. -/
def partUnits (s : State) (p : Nat) : List (RunUnit × Nat) :=
  let t := getTile s p
  ((List.range 4).filter (partBusy t)).map (fun q => match ringAt s p with
    | some (g, r) => if r.op = partTag t q then (.ring p g, r.op) else (.part p q, partTag t q)
    | none => (.part p q, partTag t q))

/-- Every unit that runs work, with the operation that it runs for: of an idle ring the last that it ran for. -/
def runUnits (s : State) : List (RunUnit × Nat) :=
  s.tiles.flatMap (fun e =>
    partUnits s e.1 ++ (if e.2.run.kind = 2 then [(.stream e.1, e.2.run.op)] else []) ++
      (match ringAt s e.1 with
        | some (g, r) => [(.ring e.1 g, r.op)]
        | none => [])) ++
    s.floe.flatMap (fun e => (floeParts s e.1).map (fun tag => (.engine e.1, tag)))

/-- When the work of an operation began, in the order of beginnings. -/
def opBegan (s : State) (tag : Nat) : Nat := ((findOp s tag).map (fun o => o.began)).getD 0

/-! ### Work that lacks a unit -/

/-- The stacks whose engines an operation needs next: of ATTEND the stack of the first page that it has not read. -/
def Op.enginesNeeded (s : State) (o : Op) : List Nat :=
  if o.opc = 0x20 then
    (((attendPages s o).filter (fun k => o.kvSeen.all (fun x => x.entry ≠ k.entry))).take 1).filterMap (fun k =>
      if attendFloe s o k.stack then some k.stack else none)
  else (o.placed s).onFloe.toList

/-- Whether a ready operation finds no free unit (R250). -/
def Op.lacksUnit (s : State) (o : Op) : Bool :=
  o.phase = .ready &&
    if o.opc = 0x10 ∨ o.opc = 0x12 then
      if o.carousel then (chooseRing s (groupOf o.queue) o o.tiles).isNone
      else if o.tiles.isEmpty then (spreadTiles s o []).isEmpty else (o.sliceTiles o.gen s).isNone
    else if o.opc = 0x30 then
      o.gen = 0 && (streamTiles s o []).any (fun l => !(tileAt s l).idleVx || !(tileAt s l).epi.isEmpty)
    else (o.enginesNeeded s).any (fun k => !floeFree s k o.tag)

/-- Whether an operation could use a unit: matrix work a partition or a ring, a stream the engine of a tile, whatever runs on it,
and other work the engines of the stacks that it needs (R204, R206, R250). -/
def Op.couldUse (s : State) (o : Op) (u : RunUnit) : Bool :=
  let tiles := affineTiles s o (pinnedTiles s (groupOf o.queue))
  let mine (p : Nat) : Bool := match (getTile s p).logical with
    | some l => decide (l ∈ tiles)
    | none => false
  let matrix := o.opc = 0x10 || o.opc = 0x12
  match u with
  | .part p q => mine p && (matrix || (o.opc = 0x30 && partRun (getTile s p) q))
  | .stream p => mine p && o.opc = 0x30
  | .ring p _ => mine p && matrix
  | .engine k => decide (k ∈ o.enginesNeeded s)

/-- Whether a saved context that could go on finds no tile that takes it (R253). -/
def Context.lacksUnit (s : State) (c : Context) : Bool :=
  !c.faulted s && s.tiles.all (fun e => e.2.logical.isNone || (placeContext e.1 c s).isNone)

/-- Whether a context could use a unit. -/
def Context.couldUse (c : Context) (u : RunUnit) : Bool := match u with
  | .part .. => c.kind = 0
  | .ring .. => c.kind = 0
  | .stream _ => c.kind = 1
  | .engine _ => false

/-- The units that run work of a lower priority and that some ready work of a priority, which lacks a unit, could use (R250). -/
def victims (prio : Nat) (s : State) : List (RunUnit × Nat) :=
  (runUnits s).filter (fun u => decide (opPrio s u.2 < prio) &&
    (s.ops.any (fun o => o.prio = prio && o.lacksUnit s && o.couldUse s u.1) ||
      s.contexts.any (fun c => c.prio = prio && c.lacksUnit s && c.couldUse u.1)))

/-- Whether a unit is the one that gives way: no other victim has lower priority, and of equal priority none began later
(R250). -/
def givesWay (prio : Nat) (s : State) (u : RunUnit × Nat) : Bool :=
  decide (u ∈ victims prio s) && (victims prio s).all (fun v =>
    decide (opPrio s u.2 < opPrio s v.2 ∨ (opPrio s u.2 = opPrio s v.2 ∧ opBegan s v.2 ≤ opBegan s u.2)))

/-! ### Giving way -/

/-- A ring stops whole at a phase boundary: the partitions that work for it are saved, and its tiles are given up (R182). -/
def preemptRing (g : Nat) (s : State) : State :=
  match tfind g s.place.rings with
  | none => s
  | some r =>
    let units := r.ring.filterMap (physOf s)
    let s1 := units.foldl (fun s p => (List.range 4).foldl (fun s q =>
      if partBusy (getTile s p) q && partTag (getTile s p) q = r.op then keepContext p (takePart s p q) s else s) s) s
    reclaimRing g s1

/-- A part leaves its engine for the state buffer of its stack, while that has room (R144, R251). -/
def bufferOut (k tag : Nat) (s : State) : State :=
  let x := getFloe s k
  if x.buffer.length < 8 then setFloe s k { x with buffer := x.buffer ++ [tag] } else s

/-- The work of a unit gives way: its context is saved (R251, R254). -/
def giveWay (u : RunUnit × Nat) (s : State) : State := match u.1 with
  | .part p q => keepContext p (takePart s p q) s
  | .stream p => keepContext p (takeStream s p) s
  | .ring _ g => preemptRing g s
  | .engine k => bufferOut k u.2 s

/-- Ready work of a priority takes the unit that PREEMPT names, if that is the one to give way: a tile's stream run, its
partition, or the ring that it works in; from 288 on the engines of a stack (R250 to R254). -/
def preemptOp (p q : Nat) (stream : Bool) (prio : Nat) (s : State) : State :=
  let named (u : RunUnit) : Bool := match u with
    | .part a b => !stream && decide (a = p ∧ b = q)
    | .stream a => stream && decide (a = p)
    | .ring a _ => !stream && decide (a = p)
    | .engine k => decide (288 + k = p)
  match (runUnits s).find? (fun u => named u.1 && givesWay prio s u) with
  | some u => giveWay u s
  | none => s

/-- PREEMPT (R250). -/
def execPreempt (tile part : Nat) (stream : Bool) (prio : Nat) (s : State) : Host.Outcome State Fault Refusal :=
  .next (preemptOp tile part stream prio s)

end Sys2Proof.Machine
end

