-- ==== Sys2Proof/Machine/TrnCmds.lean ====
section
/-! DEFINITION. The operations on Turnstiles, their timeout, their registers, forced changes and the deadlock watchers
(R293, R295 to R311). -/

namespace Sys2Proof.Machine

/-! ### TRN_ARRIVE, TRN_WAIT, TRN_ARRIVE_WAIT, SIGNAL (R295 to R298, R303) -/

/-- The fields of the body (R295). -/
def Op.trn (o : Op) : Nat := o.fld 16 2
def Op.trnGen (o : Op) : Nat := o.fld 18 2
def Op.trnN (o : Op) : Nat := o.fld 20 2
def Op.curgen (o : Op) : Bool := bit (o.fld 22 1) 0
def Op.trnDev (o : Op) : Nat := o.fld 23 1
def Op.timeoutUs (o : Op) : Nat := o.fld 24 4

/-- The operation is at the Turnstile unit from now on. -/
def atTurnstile (tag : Nat) (s : State) : State :=
  turnstileFlit (updOp tag (fun o => { o with phase := .waiting, since := s.time }) s)

/-- TRN_ARRIVE: its arrivals count, at once or when their generation is current (R296); a group Turnstile is the
master's (R307). -/
def trnArriveOp (tag : Nat) (o : Op) (s : State) : State :=
  let s1 := atTurnstile tag s
  if isMirror s o.trn then sendTrnOp o 0 o.trn o.trnGen o.trnN o.curgen s1
  else letIn (arriveAt o.trn o.curgen { kind := 1, op := tag, gen := o.trnGen, n := o.trnN } s1)

/-- TRN_WAIT: it waits for a generation, on a member against its mirror (R298, R308). -/
def trnWaitOp (tag : Nat) (o : Op) (s : State) : State :=
  waitAt o.trn { kind := 0, op := tag, gen := o.trnGen } (atTurnstile tag s)

/-- TRN_ARRIVE_WAIT: it waits for the generation in which its last arrival counted (R298). -/
def trnArriveWaitOp (tag : Nat) (o : Op) (s : State) : State :=
  let s1 := atTurnstile tag s
  if isMirror s o.trn then sendTrnOp o 2 o.trn o.trnGen o.trnN o.curgen s1
  else letIn (arriveAt o.trn o.curgen { kind := 2, op := tag, gen := o.trnGen, n := o.trnN } s1)

/-- Whether a SIGNAL names this device (R303). -/
def namesSelf (s : State) (dev : Nat) : Bool := dev = 0xFF || (s.casc.formed && dev = s.casc.ownId)

/-- SIGNAL: a TRN_ARRIVE here, or an arrival carried to another member behind the fence of its channel (R303,
R304). -/
def signalOp (tag : Nat) (o : Op) (s : State) : State :=
  if namesSelf s o.trnDev then trnArriveOp tag o s
  else if !isMember s o.trnDev then refuseOp tag 0x11 s
  else
    let (f, s1) := takeFence o.queue o.trnDev (atTurnstile tag s)
    sendCasc o.trnDev (.signal o.queue o.func o.trn o.trnN o.trnGen o.curgen f)
      { s1 with casc := { s1.casc with sigOut := s1.casc.sigOut ++ [(chanKey o.queue o.trnDev, tag)] } }

/-- Where an operation waits at a Turnstile of this device: the Turnstile, the generation, and the time from which it waits or
the Turnstile has counted nothing. -/
def waitHere (s : State) (tag : Nat) : Option (Nat × Nat × Nat) :=
  let mine (w : Waiter) : Bool := w.op = tag && w.peer.isNone && liveWaiter s w
  let at_ (t : Nat) (w : Waiter) (time : Nat) : Nat × Nat × Nat := (t, w.gen, max time (getTrn s t).lastArrival)
  match s.trns.findSome? (fun e => (e.2.waiters.find? mine).map (fun w => at_ e.1 w w.time)) with
  | some x => some x
  | none => (s.trnHeld.find? (fun x => mine x.2)).map (fun x => at_ x.1 x.2 (((findOp s tag).map (fun o => o.since)).getD 0))

/-- Where an operation waits at a Turnstile of another device, that has not reported yet (R305, R307). -/
def waitAway (s : State) (o : Op) : Option (Nat × Nat × Nat) :=
  if o.phase = .waiting && (s.casc.sigOut.any (fun x => x.2 = o.tag) || s.casc.trnOut.any (fun x => x.2.2 = o.tag)) then
    some (o.trn, o.trnGen, o.since)
  else none

/-- Where an operation waits at a Turnstile (R310). -/
def waitPlace (s : State) (o : Op) : Option (Nat × Nat × Nat) := (waitHere s o.tag).orElse (fun _ => waitAway s o)

/-- The waiters of the Turnstile unit that meet a test withdraw: an arrival that has not counted never counts (R299). -/
def withdraw (test : Waiter → Bool) (s : State) : State :=
  { s with
    trns := s.trns.map (fun e => (e.1, { e.2 with waiters := e.2.waiters.filter (fun w => !test w) }))
    trnHeld := s.trnHeld.filter (fun x => !test x.2) }

/-- The operation of another device withdraws, and that device hears of it (R299, R305). Messages carry no TIMEOUT_US, so how this
device learns that it has passed is open: the command says so (log entry 49). -/
def peerTimeout (dev mark : Nat) (byOp : Bool) (s : State) : State :=
  let mine (w : Waiter) : Bool := (w.peer.map (fun p => p.dev = dev && p.byOp = byOp && p.mark = mark)).getD false
  match ((s.trns.flatMap (fun e => e.2.waiters)) ++ s.trnHeld.map (·.2)).find? mine with
  | some w => match w.peer with
    | some p => letIn (answerPeer p 0x51 (withdraw (fun x => decide (x = w)) s))
    | none => s
  | none => s

/-- TIMEOUT_US passes: the operation withdraws (R299). One that another device performs ends when that device reports
(R305). -/
def trnTimeoutOp (tag : Nat) (s : State) : State :=
  match findOp s tag with
  | none => s
  | some o =>
    if o.phase = .waiting && decide (0x48 ≤ o.opc ∧ o.opc ≤ 0x4B) && decide (o.timeoutUs ≠ 0) &&
        (waitHere s tag).isSome then
      letIn (endOp tag (stopWith 0x51 0 0) (passTo (o.since + o.timeoutUs * 1000) s))
    else s

/-- The master completes a generation, or moves GEN (R311): a member's mirror follows and releases its waiters (R308). -/
def groupGenOp (t gen : Nat) (s : State) : State :=
  let x := getTrn s t
  if !isMirror s t then s
  else
    let y := (gen + 1) % 2 ^ 16
    let go (w : Waiter) : Bool := genDone w.gen y && liveWaiter s w
    letIn ((x.waiters.filter go).foldl (fun s w => releaseWaiter w s)
      (setTrn s t { x with gen := y, lastArrival := s.time, waiters := x.waiters.filter (fun w => !go w) }))

/-! ### TRN_CFG (R293, R308, R309) -/

/-- Waiters registered, as TRN_STATE.WAITERS counts them: entries of the waiter table, waits and arrivals that name a
future generation alike (R301). -/
def waitersShown (s : State) (t : Nat) : Nat := (trnWaiters s t).length

/-- A Turnstile is idle while nothing has arrived and nobody waits. -/
def trnIdle (s : State) (t : Nat) : Bool := decide ((getTrn s t).arrived = 0) && decide (waitersShown s t = 0)

/-- A write of TRN_CFG. -/
def trnCfgOp (t v : Nat) (s : State) : State :=
  let x := getTrn s t
  if isMirror s t then s
  else if !trnIdle s t then setTrn s t { x with ignored := true }
  else setTrn s t { x with
    count := max 1 (bits v 0 16)
    width := if isGroupTrn s t then 0 else bits v 16 16
    owner := bits v 32 6
    remote := bit v 38 }

/-! ### Forced changes (R311) -/

/-- The event of a forced change. -/
def recordForce (t op v : Nat) (s : State) : State :=
  let x := getTrn s t
  record 0x0702 0x02 (leBytes 2 t ++ leBytes 1 op ++ leBytes 1 0 ++ leBytes 2 v ++ leBytes 2 x.gen ++
    leBytes 2 x.arrived) s

/-- What follows every forced change: arrivals whose generation is no longer future count, and held operations enter. -/
def afterForce (t : Nat) (s : State) : State := letIn (settleTrn t (getTrn s t).waiters.length s)

/-- Count a number of former arrivals again. -/
def recountMany (t : Nat) : Nat → State → State
  | 0, s => s
  | n + 1, s => recountMany t n (recount t s)

/-- SET_COUNT. -/
def setCountOp (t v : Nat) (s : State) : State :=
  if isMirror s t then s
  else
    let s1 := recordForce t 0 v s
    let x := getTrn s1 t
    afterForce t (recountMany t x.arrived (setTrn s1 t { x with count := max 1 (v % 2 ^ 16), arrived := 0 }))

/-- SET_GEN: waiters whose generation is completed by it are released whatever WIDTH says. -/
def setGenOp (t v : Nat) (s : State) : State :=
  if isMirror s t then s
  else
    let s1 := recordForce t 1 v s
    let x := getTrn s1 t
    let y := v % 2 ^ 16
    let go (w : Waiter) : Bool := (w.kind = 0 ∨ w.kind = 3) && genDone w.gen y && liveWaiter s1 w
    let s2 := (x.waiters.filter go).foldl (fun s w => releaseWaiter w s)
      (setTrn s1 t { x with gen := y, arrived := 0, waiters := x.waiters.filter (fun w => !go w) })
    let s3 := if isGroupTrn s t then
        (otherMembers s2).foldl (fun s d => sendCasc d (.trnRel t ((y + 2 ^ 16 - 1) % 2 ^ 16)) s) s2 else s2
    afterForce t s3

/-- COMPLETE: the current generation completes. -/
def completeGenOp (t v : Nat) (s : State) : State :=
  if isMirror s t then s else afterForce t (completeTrn t (recordForce t 2 v s))

/-! ### Deadlock watchers (R310) -/

def getWatcher (s : State) (w : Nat) : Watcher := tget (dflt {}) s.watchers w
def setWatcher (s : State) (w : Nat) (x : Watcher) : State := { s with watchers := tset (dflt {}) s.watchers w x }

/-- Whether an operation waits for a queue port that another holds, which the watchers see too (R358). -/
def waitsForPort (s : State) (o : Op) : Bool :=
  o.phase = .ready && !o.started && (List.range (numPorts s.variant)).any (fun m => o.namesPort m && !portFree s o m)

/-- The descriptors in flight of a queue that wait, with where. -/
def queueWaits (s : State) (q : Nat) : List (Nat × Nat × Nat) :=
  (s.ops.filter (fun o => o.queue = q)).filterMap (fun o =>
    match waitPlace s o with
    | some x => some x
    | none => if waitsForPort s o then some (0, 0, o.since) else none)

/-- A queue is blocked when its descriptors in flight all wait, or are gated behind those that do. -/
def queueBlocked (s : State) (q : Nat) : Bool :=
  !(queueWaits s q).isEmpty &&
    (s.ops.filter (fun o => o.queue = q)).all (fun o =>
      o.phase = .gated || (waitPlace s o).isSome || waitsForPort s o)

/-- A queue is empty when nothing of it is in flight or announced. -/
def queueEmpty (s : State) (q : Nat) : Bool := !inFlight s q && (getQueue s q).head = (getQueue s q).tail

/-- The enabled queues that a watcher watches. -/
def watchedQueues (s : State) (x : Watcher) : List Nat :=
  (s.queues.filter (fun e => e.2.entry.enable && bindEnable (getGroup s (groupOf e.1)).active.bind &&
    decide (x.firstGroup ≤ groupOf e.1 ∧ groupOf e.1 ≤ x.lastGroup))).map (·.1)

/-- The time from which the condition has held without a break: the last registration or arrival of the blocked queues, the last
descriptor to leave a queue of the set, or the last change of the watcher. -/
def blockedSince (s : State) (x : Watcher) (set stuck : List Nat) : Nat :=
  (stuck.flatMap (queueWaits s)).foldl (fun m w => max m w.2.2) (set.foldl (fun m q => max m (getQueue s q).lastEnd) x.since)

/-- A watcher fires once its condition has held for its interval. -/
def deadlockOp (w : Nat) (s : State) : State :=
  let x := getWatcher s w
  let qs := watchedQueues s x
  let stuck := qs.filter (queueBlocked s)
  match stuck with
  | [] => s
  | q :: _ =>
    if !x.enable || x.fired || !qs.all (fun q => queueEmpty s q || queueBlocked s q) then s
    else
      let s1 := passTo (blockedSince s x qs stuck + x.interval * 1000000) s
      let (t, g, _) := (queueWaits s q).headD (0, 0, 0)
      let st := q * 2 ^ 46 + t * 2 ^ 32 + g * 2 ^ 16 + min 0xFFFF stuck.length
      sendMsix 0 x.vector (record 0x0701 0x02 (leBytes 1 w ++ leBytes 7 0 ++ leBytes 8 st)
        (setWatcher s1 w { x with fired := true, status := st }))

/-! ### The commands -/

/-- TRN_ARRIVE (R296). -/
def execTrnArrive (op : Nat) (s : State) : Host.Outcome State Fault Refusal :=
  .next (runOp op [0x48] (trnArriveOp op) s)

/-- TRN_WAIT (R298). -/
def execTrnWait (op : Nat) (s : State) : Host.Outcome State Fault Refusal :=
  .next (runOp op [0x49] (trnWaitOp op) s)

/-- TRN_ARRIVE_WAIT (R298). -/
def execTrnArriveWait (op : Nat) (s : State) : Host.Outcome State Fault Refusal :=
  .next (runOp op [0x4A] (trnArriveWaitOp op) s)

/-- SIGNAL (R303, R304). -/
def execSignal (op : Nat) (s : State) : Host.Outcome State Fault Refusal :=
  .next (runOp op [0x4B] (signalOp op) s)

/-- TRN_TIMEOUT (R299). -/
def execTrnTimeout (op : Nat) (peer : Option (Nat × Bool × Nat)) (s : State) : Host.Outcome State Fault Refusal :=
  .next (match peer with
    | some (dev, byOp, mark) => peerTimeout dev mark byOp s
    | none => trnTimeoutOp op s)

/-- GROUP_GEN_BROADCAST (R308). -/
def execGroupGenBroadcast (trn gen : Nat) (s : State) : Host.Outcome State Fault Refusal :=
  .next (groupGenOp trn gen s)

/-- TRN_CFG_WRITE (R293). -/
def execTrnCfgWrite (trn : Nat) (value : W64) (s : State) : Host.Outcome State Fault Refusal :=
  .next (if s.st.ready then trnCfgOp trn value.toNat s else s)

/-- SET_COUNT (R311). -/
def execSetCount (trn value : Nat) (s : State) : Host.Outcome State Fault Refusal :=
  .next (if s.st.ready then setCountOp trn value s else s)

/-- SET_GEN (R311). -/
def execSetGen (trn value : Nat) (s : State) : Host.Outcome State Fault Refusal :=
  .next (if s.st.ready then setGenOp trn value s else s)

/-- COMPLETE (R311). -/
def execCompleteGen (trn value : Nat) (s : State) : Host.Outcome State Fault Refusal :=
  .next (if s.st.ready then completeGenOp trn value s else s)

/-- DEADLOCK_FIRE (R310). -/
def execDeadlockFire (watcher : Nat) (s : State) : Host.Outcome State Fault Refusal :=
  .next (deadlockOp watcher s)

end Sys2Proof.Machine
end

