-- ==== Sys2Proof/Machine/Links.lean ====
section
/-! DEFINITION. Cascade links and lanes, group formation, the eye scan, and failures of on-chip links (R322, R323,
R326 to R341, R346, R347). -/

namespace Sys2Proof.Machine

/-! ### Links that train and fail (R330, R337, R341) -/

/-- Add to a counter of a link in the ledger (R336, R412). -/
def ledgerLink (f : Ledger → Ledger) (s : State) : State := { s with ice := { s.ice with now := f s.ice.now } }

/-- Operations that await another device (R341). -/
def awaits (s : State) (dev : Nat) (o : Op) : Bool :=
  decide (o.phase = .waiting) &&
    ((o.opc = 0x40 && (if 0x10 ≤ o.fld 48 1 then decide (o.fld 51 1 = dev) else bit (o.fld 52 2) dev)) ||
      s.casc.sigOut.any (fun x => x.1 % 16 = dev && x.2 = o.tag) ||
      s.casc.trnOut.any (fun x => x.2.1 % 16 = dev && x.2.2 = o.tag))

/-- Waits of a member on group Turnstiles end with the path to the master (R309). -/
def groupWaits (s : State) (o : Op) : Bool :=
  let mine (w : Waiter) : Bool := w.op = o.tag && w.peer.isNone
  decide (o.phase = .waiting ∨ o.phase = .headWait) &&
    (s.trns.any (fun e => decide (3840 ≤ e.1) && e.2.waiters.any mine) || s.trnHeld.any (fun x => decide (3840 ≤ x.1) && mine x.2))

/-- Operations that meet a test end with LINK_ERROR at their cursors. -/
def endLinkError (test : Op → Bool) (s : State) : State :=
  (s.ops.filter test).foldl (fun s o => endOp o.tag (stopWith 0x31 o.cursor 0) s) s

/-- A device is no longer reached: what awaits it ends, its held signals are discarded, and its channels are forgotten
(R306, R341). -/
def losePath (dev : Nat) (s : State) : State :=
  let s1 := endLinkError (awaits s dev) s
  let c := s1.casc
  letIn { s1 with casc := { c with
    sigOut := c.sigOut.filter (fun x => x.1 % 16 != dev)
    trnOut := c.trnOut.filter (fun x => x.2.1 % 16 != dev)
    rxSignals := c.rxSignals.filter (fun x => x.1 % 16 != dev)
    rxHeld := c.rxHeld.filter (fun x => x.1 != dev)
    acks := c.acks.filter (fun x => x.1 != dev)
    rxBytes := c.rxBytes.filter (fun x => x.1 % 16 != dev || x.2 != 0)
    links := c.links.map (fun e => (e.1, { e.2 with txQueue := e.2.txQueue.filter (fun m => m.dev != dev) }))
    parts := c.parts.filter (fun x => x.dev != dev) } }

/-- This device leaves its group: everything remote ends, and its group Turnstiles are local again; a follower joins none again
before its device reset (R309, R339, R341). -/
def leaveGroup (s : State) : State :=
  let s1 := (otherMembers s).foldl (fun s d => losePath d s) s
  let s2 := if s1.casc.master then s1 else endLinkError (groupWaits s1) s1
  letIn { s2 with casc := { s2.casc with formed := false, left := !s2.casc.master, master := false, members := 0, txSeq := [], rxSeq := [], txBytes := [],
                                         rxBytes := [], reads := [] } }

/-- The members that a path still reaches after a link has failed (R341). -/
def keepReach (reach : Nat) (s : State) : State :=
  let lost := (otherMembers s).filter (fun d => !bit reach d)
  if !s.casc.formed || lost.isEmpty then s
  else if s.casc.master then
    let s1 := lost.foldl (fun s d => losePath d s) s
    { s1 with casc := { s1.casc with members := s1.casc.members &&& (reach ||| 2 ^ s1.casc.ownId) } }
  else if s.casc.masterId ∈ lost then leaveGroup s
  else lost.foldl (fun s d => losePath d s) s

/-- The packets that a failed link had not delivered go over the new paths to the members that are left; duplicates are discarded
there (R340, R341). -/
def rerouteLink (l : Nat) (x : CascLink) (s : State) : State :=
  let s1 := setLink s l { getLink s l with txBuf := [], txQueue := [] }
  (x.txBuf.filterMap (fun f => f.msg) ++ x.txQueue).foldl (fun s m =>
    if isMember s m.dev then queueMsg (linkTo s m.dev m.queue) m s else s) s1

/-- A scan of a lane that cannot go on ends, with what it has compared (R332). -/
def endScan (errors n : Nat) (s : State) : State :=
  { s with casc := { s.casc with
      eyeBusy := none, eyeDone := true, eyeResult := min (2 ^ 24 - 1) errors * 2 ^ 40 + n % 2 ^ 40 } }

/-- The scan of a lane that fails while its point is scanned: it had paused, so nothing had been compared (R332). -/
def scanLost (test : Nat → Bool) (s : State) : State := match s.casc.eyeBusy with
  | some (lane, _, _) => if test lane then endScan 0 0 s else s
  | none => s

/-- A link fails; REASON 0 a retrain failed twice in a row, 1 three retrains within 1 s, 2 no half can train (R337). -/
def failLink (l reason reach : Nat) (s : State) : State :=
  let x := getLink s l
  let s0 := scanLost (fun n => n / 8 = l)
    (setLink s l { x with up := false, failed := true, training := false, idle := false, width := 0 })
  let s1 := record 0x0902 (0x68 + l) (leBytes 1 reason)
    { s0 with casc := { s0.casc with wires := s0.casc.wires.filter (fun w => !w.uses s0.casc.ownId l) } }
  rerouteLink l x (keepReach reach (ledgerLink (fun g => { g with linkFailures := tadd g.linkFailures l 1 }) s1))

/-- Change the lanes of a link. -/
def mapLinkLanes (l : Nat) (f : CascLane → CascLane) (s : State) : State :=
  { s with casc := { s.casc with lanes := (List.range 8).foldl (fun t i =>
      tset (dflt {}) t (8 * l + i) (f (tget (dflt {}) t (8 * l + i)))) s.casc.lanes } }

/-- A retrain begins: it counts, its lanes are aligned anew, and a third one within 1 s fails the link (R330, R337). -/
def beginRetrain (l : Nat) (x : CascLink) (s : State) : State :=
  let times := (x.retrainTimes ++ [s.time]).filter (fun t => decide (s.time < t + 1000000000))
  let y := { x with up := false, training := true, idle := false, rxIdle := false, retrainTimes := times,
                    retrains := satAdd 0xFFFF x.retrains 1 }
  let s1 := ledgerLink (fun g => { g with linkRetrains := tadd g.linkRetrains l 1 })
    (mapLinkLanes l (fun n => { n with markerSeen := 0, skew := 0 }) (setLink s l y))
  if 3 ≤ times.length then failLink l 1 s.casc.members s1 else s1

/-- A lane fails: its link retrains on the half that does not hold it, and a scan of it ends (R332, R337). -/
def laneFailOp (n : Nat) (s : State) : State :=
  let l := n / 8
  let x := getLink s l
  if !x.up || !laneWorks x.width (n % 8) then s
  else
    let half := if n % 8 < 4 then 2 else 1
    beginRetrain l { x with badLane := some (n % 8) }
      (scanLost (fun m => m = n) (record 0x0901 (0x68 + l) (leBytes 1 (n % 8) ++ leBytes 1 half) s))

/-- The deepest skew between lanes that the receiver absorbs, in ps (R330). -/
def skewRoom : Nat := 30000

/-- Whether the receiver has aligned the lanes of a link at a width: on equal marker counts, and within its deskew buffer
(R330). -/
def aligned (s : State) (l width : Nat) : Bool :=
  let ls := ((List.range 8).filter (laneWorks width)).map (fun i => getLane s (8 * l + i))
  ls.all (fun n => n.skew ≤ skewRoom && ls.all (fun m => m.markerSeen = n.markerSeen))

/-- A link carries flits from now on: codewords and markers count from here (R327, R329), the flits that were not acknowledged go
again, and what waited is sent (R334, R337). -/
def linkUp (l width : Nat) (x : CascLink) (s : State) : State :=
  let s1 := mapLinkLanes l (fun n => { n with markersSent := 0, markerDue := s.time + firstMarker, codewords := 0, codewordBad := false })
    (setLink s l { x with up := true, training := false, failRow := 0, width := width, rxFlits := 0, idleSince := s.time })
  pumpLink l x.txQueue.length (resend l (scanLost (fun n => n / 8 = l && !laneWorks width (n % 8)) s1))

/-- A retrain ends (R337); one whose skew is too deep has failed (R330). -/
def retrainDoneOp (l outcome reach : Nat) (s : State) : State :=
  let x := getLink s l
  let width := if outcome = 0 then 1 else 2
  if !x.training then s
  else if outcome = 3 then failLink l 2 reach s
  else if outcome = 2 || !aligned s l width then
    if 1 ≤ x.failRow then failLink l 0 reach s else beginRetrain l { x with failRow := x.failRow + 1 } s
  else linkUp l width x s

/-- A link trains at full width, when its lanes are aligned; one that has failed returns only at a device reset (R330, R337,
R339). -/
def linkTrainedOp (l partner partnerLink : Nat) (s : State) : State :=
  let x := getLink s l
  if x.up || x.failed || x.training || numLinks s.variant ≤ l || !aligned s l 3 then s
  else linkUp l 3 { x with partner := partner % 16, partnerLink := partnerLink % 8 } s

/-! ### Markers (R329, R330) -/

/-- A marker block leaves, after 8,192 codewords: in idle a lane sends none, and the count goes on after it. -/
def markerSendOp (n : Nat) (s : State) : State :=
  let x := getLink s (n / 8)
  let y := getLane s n
  if !x.up || x.idle || !laneWorks x.width (n % 8) then s
  else
    let s1 := passTo y.markerDue s
    emit (.marker n y.markersSent (markerBlock n y.markersSent)) (setLane s1 n { y with
      markersSent := (y.markersSent + 1) % 2 ^ 32, markerDue := y.markerDue + markerPeriod })

/-- A marker arrives: the receiver re-measures the skew, and follows it; a link in idle holds its deskew (R330, R331). -/
def markerReceiveOp (n count skew : Nat) (s : State) : State :=
  let x := getLink s (n / 8)
  if x.failed || x.rxIdle then s else setLane s n { getLane s n with markerSeen := count, skew := skew }

/-! ### Electrical idle (R331) -/

/-- The transmit direction enters electrical idle 2 µs after it last had something to send, unless it owes an acknowledgement
(R334); IDLE_ENTER takes a place in its buffer. -/
def idleEnterOp (l : Nat) (s : State) : State :=
  let x := getLink s l
  if !x.up || x.idle || x.owed || !x.txQueue.isEmpty || decide (txRoom ≤ x.txBuf.length) then s
  else
    let s1 := sendFlit l 2 none (passTo (x.idleSince + 2000) s)
    setLink s1 l { getLink s1 l with idle := true }

/-- After 1 ms of continuous idle: NULL flits for 4 µs, then idle again. -/
def nullBurstOp (l : Nat) (s : State) : State :=
  let x := getLink s l
  if !x.idle then s
  else
    let s1 := emit (.linkCtl l 3 0) (passTo (x.idleSince + 1000000) s)
    let s2 := passTime 4000 s1
    setLink s2 l { x with idleSince := s2.time }

/-- The transmit direction leaves idle: what waited is sent, an acknowledgement that is owed among it, and the next marker follows
8,192 codewords later. -/
def idleExitOp (l : Nat) (s : State) : State :=
  let x := getLink s l
  if !x.idle then s
  else
    let s1 := emit (.linkCtl l 5 0) (mapLinkLanes l (fun n => { n with markerDue := s.time + firstMarker })
      (setLink s l { x with idle := false, idleSince := s.time, owed := false }))
    let s2 := if x.owed then emit (.linkCtl l (if x.naked then 1 else 0) ((x.rxNext + 4095) % 4096)) s1 else s1
    pumpLink l x.txQueue.length s2

/-! ### The receiver (R327, R328, R334) -/

/-- The payload bits of a codeword, and how many symbols of it can be corrected (R327). -/
def codewordBits : Nat := 5140
def codewordFix : Nat := 15

/-- The codewords of a lane that a flit has bytes in: of each flit a lane carries 32 bytes, or 64 at width 4 (R327). -/
def codewordsOf (width flit : Nat) : Nat × Nat :=
  let w := if width = 3 then 256 else 512
  (flit * w / codewordBits, (flit * w + w - 1) / codewordBits)

/-- What the decoder of a lane finds as a flit arrives: the codewords that begin with it are good, with some symbols corrected, or
cannot be corrected and are counted; a lane with 16 of those within 1 ms fails (R328, R336, R337). It answers whether the flit has a
byte in a codeword that could not be corrected. -/
def decodeLane (l i flit : Nat) (bad : Bool) (fixed : Nat) (s : State) : Bool × State :=
  let n := 8 * l + i
  let y := getLane s n
  let (first, last) := codewordsOf (getLink s l).width flit
  let fresh := last + 1 - y.codewords
  let spoilt := (decide (first < y.codewords) && y.codewordBad) || (decide (0 < fresh) && bad)
  if fresh = 0 then (spoilt, s)
  else if !bad then
    let k := min (codewordFix * fresh) fixed
    (spoilt, ledgerLink (fun g => if k = 0 then g else { g with linkCorr := tadd g.linkCorr l k })
      (setLane s n { y with codewords := last + 1, codewordBad := false, corr := wrapAdd 40 y.corr k }))
  else
    let times := (y.badTimes ++ List.replicate fresh s.time).filter (fun t => decide (s.time < t + 1000000))
    let s1 := ledgerLink (fun g => { g with linkUncorr := tadd g.linkUncorr l fresh })
      (setLane s n { y with codewords := last + 1, codewordBad := true, uncorr := satAdd (2 ^ 24 - 1) y.uncorr fresh, badTimes := times })
    (spoilt, if 16 ≤ times.length then laneFailOp n (setLane s1 n { getLane s1 n with badTimes := [] }) else s1)

/-- The lanes decode a flit: whether one of its bytes lay in an uncorrected codeword. -/
def decodeFlit (l flit : Nat) (bad : List Nat) (fixed : List (Nat × Nat)) (s : State) : Bool × State :=
  ((List.range 8).filter (laneWorks (getLink s l).width)).foldl (fun acc i =>
    let (b, s1) := decodeLane l i flit (decide (i ∈ bad)) (((fixed.find? (fun x => x.1 = i)).map (·.2)).getD 0) acc.2
    (acc.1 || b, s1)) (false, s)

/-- An acknowledgement, or with a NAK the last flit accepted, goes back; a direction in idle owes it until it leaves idle (R331,
R334). -/
def answerFlit (l : Nat) (nak : Bool) (s : State) : State :=
  let x := getLink s l
  if x.idle then setLink s l { x with owed := true }
  else emit (.linkCtl l (b2n nak) ((x.rxNext + 4095) % 4096)) (setLink s l { x with idleSince := s.time })

/-- The slots of a flit that hold messages, each with its line. -/
def flitSlots (flit : List Byte) : List (List Byte × List Byte) :=
  let h := fieldAt flit 0 8
  if bits h 0 4 ≠ 1 then []
  else ((List.range 3).filter (fun i => bit h (32 + i))).map (fun i =>
    ((flit.drop (200 + 16 * i)).take 16, if bit h (29 + i) then (flit.drop (8 + 64 * i)).take 64 else []))

/-- The messages of an accepted flit that are for another member go on over the next link of their path, each with its
line (R333, R335, R340). -/
def forwardFlit (flit : List Byte) (s : State) : State :=
  (flitSlots flit).foldl (fun s x =>
    let dev := fieldAt x.1 0 1 % 16
    if isMember s dev then queueMsg (linkTo s dev 0) { dev, queue := 0, slot := x.1, line := x.2 } s else s) s

/-- The scan of a lane whose traffic resumes goes on to its end (R332). -/
def scanResumes (l : Nat) (s : State) : State := match s.casc.eyeBusy with
  | some (lane, errors, n) => if lane / 8 = l then passTime (n / 112) (endScan errors n s) else s
  | none => s

/-- A flit arrives, and whether it is accepted (R334). A NULL flit carries no sequence number, and ends no idle (R331). -/
def flitOp (l : Nat) (flit : List Byte) (bad : List Nat) (fixed : List (Nat × Nat)) (s : State) : Bool × State :=
  let x0 := getLink s l
  if !x0.up then (false, s)
  else
    let h := fieldAt flit 0 8
    let (spoilt, s1) := decodeFlit l x0.rxFlits bad fixed (setLink s l { x0 with rxFlits := x0.rxFlits + 1 })
    let sound := !spoilt && flit.length = 256 && crc64 (flit.take 248) = fieldAt flit 248 8 && flitHeaderOk h
    let s2 := if sound then takeAck l h s1 else s1
    let x := getLink s2 l
    if sound && bits h 0 4 = 0 then (false, s2)
    else if sound && bits h 4 12 = x.rxNext then
      let due := (flitSlots flit).foldl (fun d y =>
        let b := fieldAt y.1 1 1
        d.modify (creditOf (b % 4) (bit b 2)) (· + 1)) x.creditDue
      let s3 := setLink s2 l { x with rxNext := (x.rxNext + 1) % 4096, naked := false, rxIdle := bits h 0 4 = 2, creditDue := due }
      (true, forwardFlit flit (answerFlit l false (if bits h 0 4 = 2 then s3 else scanResumes l s3)))
    else if x.naked then (false, s2)
    else (false, answerFlit l true (setLink s2 l { x with naked := true }))

/-! ### Eye scan (R332) -/

/-- A write of LAN_EYE_CTRL: with GO, the point is scanned; on a lane in electrical idle the scan pauses until traffic resumes. -/
def eyeScanOp (v errors compared : Nat) (s : State) : State :=
  let c := s.casc
  let lane := bits v 48 7
  let dwell := max 20 (min 31 (bits v 0 5))
  let n := min compared (2 ^ dwell)
  let c1 := { c with eyeLane := lane, eyeEye := bits v 46 2, eyePhase := bits v 32 8, eyeVolt := bits v 24 8,
                     eyeDwell := dwell, eyeDone := c.eyeDone && !bit v 61 }
  let s1 := { s with casc := c1 }
  let x := getLink s (lane / 8)
  if !bit v 63 || c.eyeBusy.isSome || bits v 46 2 = 3 || decide (8 * numLinks s.variant ≤ lane) then s1
  else if !x.up || !laneWorks x.width (lane % 8) then endScan 0 0 s1
  else if x.rxIdle then { s with casc := { c1 with eyeBusy := some (lane, errors, n) } }
  else passTime (n / 112) (endScan errors n s1)

/-! ### Formation (R338, R339) -/

/-- The role in use: from the straps, or from LAN_CASC_CFG with USE_REG; the reserved code is taken as standalone
(R338). -/
def roleInUse (s : State) : Nat :=
  let r := if s.casc.useReg then s.casc.role else s.st.strapRole
  if r = 3 then 0 else r
def identInUse (s : State) : Nat := if s.casc.useReg then s.casc.ident else s.st.strapId

/-- The neighbours of a device. -/
def neighbours (edges : List (Nat × Nat)) (a : Nat) : List Nat :=
  sortNat (edges.filterMap (fun e => if e.1 = a && e.2 != a then some e.2 else if e.2 = a && e.1 != a then some e.1 else none))

/-- Place devices on a grid of a width, row by row: each next to the one at its left and the one above. -/
def placeGrid (edges : List (Nat × Nat)) (ids : List Nat) (w : Nat) : Nat → List Nat → Bool
  | 0, _ => true
  | left + 1, done =>
    let k := done.length
    ids.any (fun d =>
      !decide (d ∈ done) &&
        (k % w = 0 || (match done[k - 1]? with
          | some e => decide (e ∈ neighbours edges d)
          | none => false)) &&
        (decide (k < w) || (match done[k - w]? with
          | some e => decide (e ∈ neighbours edges d)
          | none => false)) &&
        placeGrid edges ids w left (done ++ [d]))

/-- The number of pairs that are joined. -/
def pairCount (edges : List (Nat × Nat)) (ids : List Nat) : Nat :=
  (ids.map (fun a => (neighbours edges a).length)).foldl (· + ·) 0 / 2

/-- Whether an arrangement has the shape that TOPO requires: 0 any, 1 ring, 2 2D mesh up to 4 × 4, 3 full connection of
up to 8 devices, 5 on the ZQ9-H (R339). -/
def shapeOk (v : Variant) (topo : Nat) (ids : List Nat) (edges : List (Nat × Nat)) : Bool :=
  let n := ids.length
  match topo with
  | 0 => true
  | 1 => decide (2 ≤ n) && ids.all (fun a => decide ((neighbours edges a).length = min 2 (n - 1)))
  | 2 => (List.range 3).any (fun i => (List.range 3).any (fun j =>
      let a := i + 2
      let b := j + 2
      a * b = n && pairCount edges ids = a * (b - 1) + b * (a - 1) && placeGrid edges ids b n []))
  | _ => decide (n ≤ (if v = .half then 5 else 8)) &&
      ids.all (fun a => decide ((neighbours edges a).length = n - 1))

/-- The RESULT of a formation among this device and the devices that it reaches, in the order of R339; 0 succeeds. -/
def formResult (s : State) (peers : List (Nat × Nat × Nat)) (edges : List (Nat × Nat)) : Nat :=
  let all := (identInUse s, roleInUse s, s.cfg.running.proto) :: peers
  let masters := (all.filter (fun d => d.2.1 = 1)).length
  let ids := all.map (·.1)
  if masters = 0 then 1
  else if 2 ≤ masters then 2
  else if (sortNat ids).length < ids.length then 3
  else if !shapeOk s.variant s.casc.topo ids edges then 4
  else if !all.all (fun d => d.2.2 = s.cfg.running.proto) then 5
  else 0

/-- Formation: on success every member takes the group, and its mirrors the master's values; on a failure the master
records it (R308, R309, R339). -/
def formGroup (peers : List (Nat × Nat × Nat)) (wires : List Wiring) (mirrors : List Mirror) (s : State) :
    State :=
  let peers := peers.filter (fun d => d.2.1 = 1 ∨ d.2.1 = 2)
  let own := identInUse s
  let r := formResult s peers (wires.map (·.ends))
  let mask := maskOf (own :: peers.map (·.1))
  let isM := roleInUse s = 1
  if r = 0 then
    let boss := if isM then own else ((peers.find? (fun d => d.2.1 = 1)).map (·.1)).getD own
    let s1 := { s with casc := { s.casc with
      formed := true, master := isM, masterId := boss, ownId := own, members := mask, result := 0, wires } }
    if isM then
      { s1 with trns := s1.trns.map (fun e => if 3840 ≤ e.1 then (e.1, { e.2 with width := 0 }) else e) }
    else (mirrors.filter (fun m => decide (3840 ≤ m.trn))).foldl (fun s m => setTrn s m.trn { getTrn s m.trn with
          gen := m.gen % 2 ^ 16, count := max 1 (m.count % 2 ^ 16), owner := m.owner % 2 ^ 6
          remote := m.remote, arrived := m.arrived % 2 ^ 16 })
      { s1 with trns := s1.trns.map (fun e => if 3840 ≤ e.1 then (e.1, { e.2 with
          gen := 0, count := 1, width := 0, owner := 0, remote := false, arrived := 0 }) else e) }
  else
    let s1 := { s with casc := { s.casc with result := r } }
    if isM then record 0x0903 0x00 (leBytes 1 r ++ leBytes 1 0 ++ leBytes 2 mask) s1 else s1

/-- A write of LAN_CASC_CFG: GO forms a group when this device is a master in no group; the reserved role is reported (R338,
R347). -/
def cascCfgOp (v : Nat) (peers : List (Nat × Nat × Nat)) (wires : List Wiring) (s : State) : State :=
  let s1 := { s with casc := { s.casc with
    useReg := bit v 30, role := bits v 12 2, ident := bits v 8 4, topo := bits v 0 2 } }
  let s2 := if bit v 30 && bits v 12 2 = 3 then record 0x0904 0x00 [] s1 else s1
  if bit v 31 && !s2.casc.formed && decide (roleInUse s2 = 1) then formGroup peers wires [] s2 else s2

/-- The master forms a group again: a follower in none, which has left none since its device reset, joins it (R339). -/
def joinGroup (peers : List (Nat × Nat × Nat)) (wires : List Wiring) (mirrors : List Mirror)
    (s : State) : State :=
  if roleInUse s = 2 && !s.casc.formed && !s.casc.left then formGroup peers wires mirrors s else s

/-- A follower without a host serves the master (R346). -/
def followerOp (s : State) : State :=
  if roleInUse s = 2 && !s.link.up && s.st.ready then { s with casc := { s.casc with servesMaster := true } } else s

/-! ### The commands -/

/-- MARKER_SEND (R329). -/
def execMarkerSend (lane : Nat) (s : State) : Host.Outcome State Fault Refusal := .next (markerSendOp lane s)

/-- MARKER_RECEIVE (R330). -/
def execMarkerReceive (lane count skew : Nat) (s : State) : Host.Outcome State Fault Refusal :=
  .next (markerReceiveOp lane count skew s)

/-- IDLE_ENTER (R331). -/
def execIdleEnter (link : Nat) (s : State) : Host.Outcome State Fault Refusal := .next (idleEnterOp link s)

/-- IDLE_NULL_BURST (R331). -/
def execIdleNullBurst (link : Nat) (s : State) : Host.Outcome State Fault Refusal := .next (nullBurstOp link s)

/-- IDLE_EXIT (R331). -/
def execIdleExit (link : Nat) (s : State) : Host.Outcome State Fault Refusal := .next (idleExitOp link s)

/-- LANE_FAIL (R337). -/
def execLaneFail (lane : Nat) (s : State) : Host.Outcome State Fault Refusal := .next (laneFailOp lane s)

/-- CASC_LINK_TRAINED (R339). -/
def execCascLinkTrained (link partner partnerLink : Nat) (s : State) : Host.Outcome State Fault Refusal :=
  .next (linkTrainedOp link partner partnerLink s)

/-- CASCADE_FORM: GO on this device, or on the master whose group this device joins (R339, R347). -/
def execCascadeForm (value : W32) (peers : List (Nat × Nat × Nat)) (edges : List Wiring)
    (master : Option (List Mirror)) (s : State) : Host.Outcome State Fault Refusal :=
  .next (
    if !s.st.ready then s
    else match master with
      | some mirrors => joinGroup peers edges mirrors s
      | none => cascCfgOp value.toNat peers edges s)

/-- FOLLOWER_HOST_TIMEOUT (R346). -/
def execFollowerHostTimeout (s : State) : Host.Outcome State Fault Refusal := .next (followerOp s)

/-- EYE_SCAN (R332). -/
def execEyeScan (value : W64) (errors compared : Nat) (s : State) : Host.Outcome State Fault Refusal :=
  .next (if s.st.ready then eyeScanOp value.toNat errors compared s else s)

end Sys2Proof.Machine
end

