-- ==== Sys2Proof/Machine/Validate.lean ====
section
/-! DEFINITION. The checks of a descriptor and of the structures it names, in the order of the manual (R5, R13, R31, R42, R59,
R65, R80, R88, R110, R111, R117, R143 to R149, R155, R162, R169, R170, R173, R186, R231, R272 to R282, R292, R342, R359, R380,
R447, R448, R450). -/

namespace Sys2Proof.Machine

/-- A check reads memory, which may back pages, and passes or rejects. -/
abbrev Check (α : Type) := State → Except Reject α × State

/-- One check after another: the first that fails ends validation. -/
def Check.bind {α β : Type} (c : Check α) (f : α → Check β) : Check β := fun s =>
  match c s with
  | (.ok a, s1) => f a s1
  | (.error e, s1) => (.error e, s1)

/-- A check that passes. -/
def pass {α : Type} (a : α) : Check α := fun s => (.ok a, s)

/-- A check that rejects. -/
def reject {α : Type} (status detail : Nat) : Check α := fun s => (.error (.code status detail), s)

/-- Run checks in order. -/
def allOf : List (Check Unit) → Check Unit
  | [] => pass ()
  | c :: cs => c.bind (fun _ => allOf cs)

/-- DETAIL of an item: PLACE, OFFSET and ENTRY (R448). -/
def itemAt (place offset entry : Nat) : Nat := entry * 2 ^ 16 + place * 2 ^ 8 + offset

/-! ### Fields of a structure (R13, R448) -/

/-- A field: its offset, its length, and whether its value is allowed. -/
abbrev Field := Nat × Nat × Bool

/-- The first byte, in increasing offset, of a field whose value is not allowed or of a reserved byte that is not 0. -/
def firstBad (bs : List Byte) (fields : List Field) : Option Nat :=
  let reserved := (List.range bs.length).filter (fun i =>
    bs.getD i 0 ≠ 0 && !fields.any (fun f => decide (f.1 ≤ i ∧ i < f.1 + f.2.1)))
  minOf ((fields.filter (fun f => !f.2.2)).map (·.1) ++ reserved)

/-- Check the fields of a structure. -/
def checkFields (place entry : Nat) (bs : List Byte) (fields : List Field) : Check Unit :=
  match firstBad bs fields with
  | some i => reject 0x10 (itemAt place i entry)
  | none => pass ()

/-- The Ringmaster's copy engines read what validation reads (R245, R274). -/
def checkWho (o : Op) : Who := { asid := o.asid, func := o.func, pasid := o.pasid, prio := o.prio }

/-- Read a structure. -/
def readStruct (o : Op) (a n : Nat) : Check (List Byte) := fun s =>
  match readRM (checkWho o) a n (n / 2 ^ 21 + 3) s with
  | (.ok bs, s1) => (.ok bs, s1)
  | (.error e, s1) => (.error (.read e), s1)

/-! ### Header and body (R272 to R282, R295, R342, R359, R381, R385, R388) -/

/-- The address of a structure at a multiple of an alignment (R231, R275). -/
def alignedAddr (a n : Nat) : Bool := addrOk a && a % n = 0

/-- A field that holds the address of a record, a multiple of 64 (R275); a sequence record in host form is read there as any
other (DESIGN CHOICE, log entry 73). -/
def Op.recF (o : Op) (i : Nat) : Field := (i, 8, alignedAddr (o.fld i 8) 64)

/-- STATS_ADDR: a multiple of 64 (R70). -/
def Op.statsF (o : Op) (i : Nat) : Field := o.recF i

/-- A field of any value. -/
def freeF (i n : Nat) : Field := (i, n, true)

/-- The opcodes whose descriptors carry UNIT (R141), a COPY in its plain form apart (R272). -/
def Op.hasUnit (o : Op) : Bool :=
  decide (o.opc ∈ [0x02, 0x18, 0x19, 0x20, 0x21, 0x28]) || (o.opc = 0x01 && o.fld 48 1 ≠ 0)

/-- Whether a SIGNAL goes to another device (R303). -/
def signalsAway (s : State) (o : Op) : Bool :=
  o.opc = 0x4B && o.fld 23 1 ≠ 0xFF && !(s.casc.formed && o.fld 23 1 = s.casc.ownId)

/-- A Turnstile number of the header (R272). -/
def headTrnOk (t : Nat) : Bool := decide (t < 4096 ∨ t = 0xFFFF)

/-- The header (R42, R186, R272). -/
def headFields (s : State) (o : Op) : List Field :=
  let d := o.dflags
  let flagsOk := bits d 6 2 = 0 && (bits d 2 2 = 0 || (o.opc = 0x10 && bits d 2 2 ≠ 3)) &&
    (o.unit = 0 || (o.hasUnit && o.unit ≠ 3)) && !(o.overlap && signalsAway s o)
  [(0, 1, true), (1, 1, flagsOk), (2, 1, bits o.arith 0 3 ≤ 4 && bits o.arith 6 2 = 0),
   (4, 1, o.fld 4 1 < 8), (6, 2, true), (8, 2, headTrnOk o.waitTrn), (10, 2, true),
   (12, 2, headTrnOk o.doneTrn)]

/-- A computation format (R278). -/
def cfmtOk (f : Nat) : Bool := decide (f = 1 ∨ f = 2 ∨ f = 3)

/-- A format that streams, windows and VCVT know (R131, R282, R359). -/
def laneFmt (f : Nat) : Bool := decide (f = 0x02 ∨ f = 0x03 ∨ f = 0x11 ∨ f = 0x40)

/-- The EOP codes (R278). -/
def eopOk (e : Nat) : Bool := decide (e ≤ 9 ∨ (0x10 ≤ e ∧ e ≤ 0x16) ∨ (0x20 ≤ e ∧ e ≤ 0x23))

/-- Whether a binary32 field is finite and meets a test on its value. -/
def finF (o : Op) (i : Nat) (p : XVal → Bool) : Field :=
  let x := o.f32At i
  (i, 4, x.isFin && p x)

/-- A value in [0, 1) (R162). -/
def unitRange (x : XVal) : Bool := !(xlt x XVal.zero) && xlt x XVal.one

/-- The body of COPY and CONVERT (R276, R277). -/
def copyFields (o : Op) : List Field :=
  let form := o.fld 48 1
  let w := o.fld 49 1
  let a := o.fld 40 8
  [o.recF 16, o.recF 24, o.statsF 32, (40, 8, if form = 0 then a = 0 else addrOk a),
   (48, 1, form ≤ 2), (49, 1, if form = 0 then w = 0 else w = 4 || w = 8)]

/-- The body of ELEMWISE (R278): an unused operand's field is 0. -/
def elemFields (o : Op) : List Field :=
  let e := o.fld 56 1
  let n := if eopOk e then eopArity e else 3
  let src (i k : Nat) : Field := if k ≤ n then o.recF i else (i, 8, o.fld i 8 = 0)
  [o.recF 16, src 24 2, src 32 3, o.recF 40, o.statsF 48, (56, 1, eopOk e),
   (57, 1, cfmtOk (o.fld 57 1))]

/-- The body of ATTEND (R149, R155, R275): a field that the operation does not use is not judged. -/
def attendFields (o : Op) : List Field :=
  let m := o.fld 75 1
  [o.recF 16, o.recF 24, o.recF 32, (40, 8, !o.atFinal || alignedAddr (o.fld 40 8) 64),
   (48, 8, !bit m 2 || alignedAddr (o.fld 48 8) 4), (56, 4, o.fld 56 4 < 2 ^ 21),
   (60, 4, !bit m 1 || decide (1 ≤ o.fld 60 4 ∧ o.fld 60 4 ≤ 2 ^ 21)),
   finF o 64 (fun x => !x.isZero), (68, 2, true), (70, 2, true),
   (72, 2, !bit m 2 || decide (1 ≤ o.fld 72 2 ∧ o.fld 72 2 ≤ 8192)), (74, 1, 1 ≤ o.fld 74 1 && o.fld 74 1 ≤ 32), (75, 1, m < 8),
   (76, 1, o.fld 76 1 < 2)]

/-- The body of KV_APPEND (R149, R151, R275). In truncate mode, where R151 says only that COUNT is ignored, the K and V fields and
their records are neither judged nor read (DESIGN CHOICE, log entry 73). -/
def kvFields (o : Op) : List Field :=
  let trunc := o.fld 58 1 = 1
  let count := o.fld 52 4
  [o.recF 16, (24, 8, trunc || alignedAddr (o.fld 24 8) 64), (32, 8, trunc || alignedAddr (o.fld 32 8) 64), o.statsF 40,
   (48, 4, o.fld 48 4 < 2 ^ 21),
   (52, 4, trunc || decide (1 ≤ count ∧ count ≤ 65536)), (56, 2, true), (58, 1, o.fld 58 1 ≤ 1)]

/-- The body of OPTSTEP (R162, R275). -/
def optFields (o : Op) : List Field :=
  let notNeg (x : XVal) : Bool := !(xlt x XVal.zero)
  [o.recF 16, o.recF 24, o.recF 32, o.recF 40, o.recF 48, o.statsF 56, finF o 64 notNeg, finF o 68 unitRange,
   finF o 72 unitRange, finF o 76 (fun x => xlt XVal.zero x), finF o 80 notNeg, finF o 84 (fun _ => true),
   freeF 88 4, (92, 1, o.fld 92 1 < 2)]

/-- A range in the group's address space in whole 2 MiB (R204). -/
def hintRange (i : Nat) (o : Op) : Bool := !isHost (o.fld i 8) && alignedAddr (o.fld i 8) (2 ^ 21)

/-- The body of PLACE_HINT (R204, R275): a field that the KIND does not use is not judged. -/
def hintFields (o : Op) : List Field :=
  let k := o.fld 16 1
  let ranged := k = 1 || k = 2 || k = 3 || k = 6
  [(16, 1, decide (1 ≤ k ∧ k ≤ 7)), (17, 1, k ≠ 3 || o.fld 17 1 < 16 || o.fld 17 1 = 0xFF), (18, 2, k ≠ 1 || o.fld 18 2 ≠ 0),
   freeF 20 4, (24, 8, !ranged || hintRange 24 o), (32, 8, !ranged || o.fld 32 8 % 2 ^ 21 = 0), (40, 8, k ≠ 2 || addrOk (o.fld 40 8)),
   (48, 1, k ≠ 5 || o.fld 48 1 ≤ 1), freeF 64 32]

/-- The body of FABRIC (R359, R366). -/
def fabricFields (s : State) (o : Op) : List Field :=
  let k := o.fld 38 1
  let t := o.fld 36 2
  let f := bits (o.fld 39 1) 0 7
  let lane := k = 5 || k = 6
  [(16, 8, 2 < k || alignedAddr (o.fld 16 8) 64), o.statsF 24, freeF 32 4,
   (36, 2, if lane then t < 16 else t < 256 && (k = 0 || 6 < k || portServes s t (fabricDir k))), (38, 1, decide (1 ≤ k ∧ k ≤ 6)),
   (39, 1, f = 0 || laneFmt f), (40, 1, k ≠ 5 || (o.fld 40 1 < 32 && o.fld 40 1 % 4 ≠ 3))] ++
    (if k = 5 then [] else [freeF 41 7])

/-- The body of COLLECTIVE (R342): the devices it names are judged as units (R447). -/
def collFields (s : State) (o : Op) : List Field :=
  let k := o.fld 48 1
  let many := decide (k ≤ 3)
  let reduces := decide (k ≤ 1)
  [(16, 8, !(many || k = 0x10) || alignedAddr (o.fld 16 8) 64),
   (24, 8, if k = 0x10 || k = 0x12 then o.fld 24 8 = 0 else alignedAddr (o.fld 24 8) 64), o.statsF 32,
   (40, 8, !(k = 0x10 || k = 0x11) || alignedAddr (o.fld 40 8) 64), (48, 1, many || decide (0x10 ≤ k ∧ k ≤ 0x12)),
   (49, 1, !reduces || o.fld 49 1 ≤ 2), (50, 1, !reduces || cfmtOk (o.fld 50 1)), freeF 51 1,
   (52, 2, !many || !s.casc.formed || bit (o.fld 52 2) s.casc.ownId), freeF 54 4, freeF 58 4,
   (62, 2, !(k = 0x10 || k = 0x11) || o.fld 62 2 < 4096), freeF 64 8, freeF 72 2, (74, 1, o.fld 74 1 < 4)]

/-- The body of the Turnstile operations (R295). -/
def trnFields (o : Op) : List Field :=
  let dev := o.fld 23 1
  [(16, 2, o.fld 16 2 < 4096), freeF 18 2, (20, 2, if o.opc = 0x49 then o.fld 20 2 = 0 else o.fld 20 2 ≠ 0), (22, 1, o.fld 22 1 < 2),
   (23, 1, if o.opc = 0x4B then dev < 16 || dev = 0xFF else dev = 0), freeF 24 4]

/-- The body of TILEPROG (R282). -/
def tileFields (o : Op) : List Field :=
  [o.recF 16, o.recF 24, (32, 8, alignedAddr (o.fld 32 8) 128), o.statsF 40, freeF 48 2, (50, 1, o.fld 50 1 = 0x02 || o.fld 50 1 = 0x40),
   freeF 64 32]

/-- The body of an opcode; none: the opcode is not listed (R273). -/
def bodyFields (s : State) (o : Op) : Option (List Field) :=
  match o.opc with
  | 0x00 => some []
  | 0x01 => some (copyFields o)
  | 0x02 => some (copyFields o)
  | 0x03 => some [o.recF 16, o.statsF 24, freeF 32 8]
  | 0x10 => some [o.recF 16, o.recF 24, o.recF 32, o.statsF 40, o.recF 48, freeF 64 32]
  | 0x12 => some [o.recF 16, o.recF 24, o.recF 32, o.statsF 40, o.recF 48, freeF 64 32, freeF 96 12]
  | 0x18 => some (elemFields o)
  | 0x19 => some [o.recF 16, o.recF 24, o.statsF 32, (40, 1, o.fld 40 1 ≤ 2), (41, 1, o.fld 41 1 < 5), (42, 1, cfmtOk (o.fld 42 1))]
  | 0x1A => some [o.recF 16, o.recF 24, o.statsF 32, (40, 1, o.fld 40 1 ≤ 2), (41, 1, o.fld 41 1 < 5), (42, 1, cfmtOk (o.fld 42 1)),
                  (43, 1, o.fld 43 1 < 2)]
  | 0x20 => some (attendFields o)
  | 0x21 => some (kvFields o)
  | 0x28 => some (optFields o)
  | 0x30 => some (tileFields o)
  | 0x38 => some (fabricFields s o)
  | 0x40 => some (collFields s o)
  | 0x48 => some (trnFields o)
  | 0x49 => some (trnFields o)
  | 0x4A => some (trnFields o)
  | 0x4B => some (trnFields o)
  | 0x50 => some (hintFields o)
  | 0x60 => some [(16, 8, o.fld 32 1 ≠ 0 || addrOk (o.fld 16 8)), freeF 24 8, (32, 1, o.fld 32 1 ≤ 3)]
  | 0x61 => some [freeF 16 4, (20, 1, o.fld 20 1 < 8), freeF 24 4]
  | 0x62 => some [(16, 1, o.fld 16 1 ≤ 1)]
  | _ => none

/-- Header and body of a descriptor; an opcode that is not listed comes before everything else. -/
def checkDesc (o : Op) : Check Unit := fun s =>
  match bodyFields s o with
  | none => reject 0x10 0 s
  | some fs => checkFields 0 0 o.desc (headFields s o ++ fs) s

/-! ### Tensor records (R31, R59, R65, R169, R276, R450) -/

/-- The fields of a tensor record, under what its position accepts of formats and ranks. -/
def tensorFields (t : Tensor) (fmt rank : Nat → Bool) : List Field :=
  let ptr := t.scalePtr
  let e := bits t.tscale 23 8
  let strideOk (i : Nat) : Bool :=
    let x := t.stride i
    if t.rank ≤ i then x = 0
    else if packed t.format then (if i = 0 then x = 0 else x % Int.ofNat (fmtBytes t.format) = 0)
    else true
  [(0, 8, addrOk t.base), (8, 1, fmtListed t.format && fmt t.format), (9, 1, decide (1 ≤ t.rank ∧ t.rank ≤ 5) && rank t.rank), (12, 4, true)] ++
    (List.range 5).map (fun i => (16 + 4 * i, 4, t.dim i ≠ 0 && (decide (i < t.rank) || t.dim i = 1))) ++
    (List.range 5).map (fun i => (36 + 5 * i, 5, strideOk i)) ++
    [(64, 8, if isT t.format then alignedAddr ptr 64 else ptr = 0),
     (72, 4, if isT t.format then !bit t.tscale 31 && decide (1 ≤ e ∧ e ≤ 254) else t.tscale = 0x3F800000)]

/-- Check the bytes of a tensor record. -/
def checkTensor (place entry : Nat) (bs : List Byte) (fmt rank : Nat → Bool) : Check Unit :=
  checkFields place entry bs (tensorFields (parseTensor bs) fmt rank)

/-- Any format but B8, and any rank. -/
def noB8 (f : Nat) : Bool := decide (f ≠ 0x30)
def anyRank (_ : Nat) : Bool := true

/-- What a record position accepts: operands of the matrix engine, of KV_APPEND, of each OPTSTEP tensor (R80, R142, R151, R155,
R162, R277, R359, R450). First is the FORMAT of the record before it. -/
def fmtAccepts (o : Op) (place first f : Nat) : Bool :=
  match o.opc with
  | 0x01 => if place = 1 then true
            else (f ≠ 0x30 || first = 0x30) && !(o.fld 48 1 = 2 && isT f)
  | 0x02 => if place = 1 then true else noB8 f && !(o.fld 48 1 = 2 && isT f)
  | 0x10 => if place = 3 then noB8 f else isIeee f || isW f || isT f
  | 0x12 => if place = 3 then noB8 f else isIeee f || isW f || isT f
  | 0x20 => if place = 1 then decide (f ∈ [0x10, 0x11, 0x20, 0x21]) else if place = 3 then f = 0x02 else noB8 f
  | 0x21 => decide (f ∈ [0x02, 0x03, 0x10, 0x11, 0x20, 0x21])
  | 0x28 => match place with
    | 1 => decide (f = 0x10 ∨ f = 0x02)
    | 2 => decide (f = 0x21 ∨ f = 0x11)
    | 3 => decide (f = 0x21 ∨ f = 0x11)
    | _ => decide (f = 0x20 ∨ f = 0x21 ∨ f = 0x11)
  | 0x38 => noB8 f && !(isT f && bits (o.fld 39 1) 0 7 = 0)
  | _ => noB8 f

/-- The ranks that a record position accepts (R155, R281). -/
def rankAccepts (o : Op) (place r : Nat) : Bool :=
  match o.opc with
  | 0x12 => decide (3 ≤ r)
  | 0x20 => if place = 1 then r = 2 else if place = 3 then r = 1 else true
  | _ => true

/-- The record fields that a descriptor uses on this device: number and address, in order (R448). The remote record of PUT and
GET is read from the peer (R343). -/
def Op.recFields (o : Op) : List (Nat × Nat) :=
  let at_ (l : List (Nat × Nat)) : List (Nat × Nat) := l.map (fun x => (x.1, o.fld x.2 8))
  match o.opc with
  | 0x01 => at_ [(1, 16), (2, 24)]
  | 0x02 => at_ [(1, 16), (2, 24)]
  | 0x03 => at_ [(1, 16)]
  | 0x10 => at_ [(1, 16), (2, 24), (3, 32)]
  | 0x12 => at_ [(1, 16), (2, 24), (3, 32)]
  | 0x18 => at_ (((List.range (eopArity (o.fld 56 1))).map (fun i => (i + 1, 16 + 8 * i))) ++ [(4, 40)])
  | 0x19 => at_ [(1, 16), (2, 24)]
  | 0x1A => at_ [(1, 16), (2, 24)]
  | 0x20 => at_ ([(1, 24)] ++ (if o.atFinal then [(2, 32)] ++ (if o.fld 40 8 = 0 then [] else [(3, 40)]) else []))
  | 0x21 => if o.fld 58 1 = 1 then [] else at_ [(1, 24), (2, 32)]
  | 0x28 => at_ ([(1, 16), (2, 24), (3, 32), (4, 40)] ++ (if o.fld 48 8 = 0 then [] else [(5, 48)]))
  | 0x30 => if o.fld 24 8 = 0 then [] else at_ [(1, 24)]
  | 0x38 => if o.fld 38 1 ≤ 2 then at_ [(1, 16)] else []
  | 0x40 => match o.fld 48 1 with
    | 0x10 => at_ [(1, 16)]
    | 0x11 => at_ [(2, 24)]
    | 0x12 => []
    | _ => at_ [(1, 16), (2, 24)]
  | _ => []

/-- Read and check tensor records in the order of their numbers. -/
def checkRecords : List (Nat × Nat) → Op → Check Op
  | [], o => pass o
  | (place, a) :: rest, o =>
    (readStruct o a 128).bind (fun bs =>
      let first := (o.rec? (place - 1)).elim 0 (fun t => t.format)
      (checkTensor place 0 bs (fmtAccepts o place first) (rankAccepts o place)).bind (fun _ =>
        checkRecords rest { o with recs := o.recs ++ [(place, bs)] }))

/-! ### Sequence records (R146) -/

/-- A tensor scale of keys or values. -/
def kvScaleOk (fmt v : Nat) : Bool :=
  if fmt = 0x11 then v = 0x3F800000 else !bit v 31 && decide (1 ≤ bits v 23 8 ∧ bits v 23 8 ≤ 254)

/-- The fields of a sequence record. -/
def seqFields (bs : List Byte) : List Field :=
  let f (i n : Nat) : Nat := fieldAt bs i n
  let k := f 18 1
  [(0, 8, !isHost (f 0 8) && alignedAddr (f 0 8) 4096), (8, 4, decide (1 ≤ f 8 4 ∧ f 8 4 ≤ 2 ^ 21)), (12, 2, decide (1 ≤ f 12 2 ∧ f 12 2 ≤ 1024)),
   (14, 2, decide (1 ≤ f 14 2 ∧ f 14 2 ≤ 256)), (16, 2, decide (32 ≤ f 16 2 ∧ f 16 2 ≤ 256) && f 16 2 % 32 = 0),
   (18, 1, decide (k = 0x11 ∨ k = 0x20 ∨ k = 0x21)), freeF 20 4, (24, 4, kvScaleOk k (f 24 4)), (28, 4, kvScaleOk k (f 28 4)),
   freeF 32 4, freeF 36 4]

/-- Whether a descriptor names a sequence record. -/
def Op.hasSeq (o : Op) : Bool := o.opc = 0x20 || o.opc = 0x21

/-- Read and check the sequence record. -/
def checkSeq (o : Op) : Check Op :=
  if o.hasSeq then (readStruct o (o.fld 16 8) 64).bind (fun bs =>
    (checkFields 0x10 0 bs (seqFields bs)).bind (fun _ => pass { o with seqRec := bs }))
  else pass o

/-! ### Program images (R110, R111, R117, R119, R120) -/

/-- The fields of an image header. -/
def imageFields (bs : List Byte) : List Field :=
  [(0, 4, fieldAt bs 0 4 = 0x56580001), (4, 2, fieldAt bs 4 2 = 1), (6, 2, decide (1 ≤ imgLen bs ∧ imgLen bs ≤ 2048)),
   (8, 2, imgEntry bs < imgLen bs), freeF 12 4, (16, 4, imgNeed bs % 256 = 0 && imgNeed bs ≤ 524288)]

/-- The instruction format of an opcode and the sizes of its register fields D, A, B and C, 0 for one it does not use (R108,
R117, R119). Formats: 0 Z, 1 V, 2 M, 3 I, 4 B, 5 L, 6 T. -/
def opcodeShape (opc : Nat) : Option (Nat × Nat × Nat × Nat × Nat) :=
  match opc with
  | 0x00 => some (0, 0, 0, 0, 0)
  | 0x01 => some (0, 0, 0, 0, 0)
  | 0x02 => some (4, 0, 0, 0, 0)
  | 0x03 => some (4, 0, 16, 0, 0)
  | 0x04 => some (5, 0, 0, 0, 0)
  | 0x05 => some (4, 0, 16, 0, 8)
  | 0x06 => some (3, 0, 16, 0, 8)
  | 0x07 => some (0, 0, 16, 16, 0)
  | 0x08 => some (3, 16, 0, 0, 0)
  | 0x09 => some (3, 16, 0, 0, 0)
  | 0x0A => some (3, 16, 16, 16, 0)
  | 0x0B => some (3, 16, 16, 0, 0)
  | 0x10 => some (2, 32, 16, 0, 0)
  | 0x11 => some (2, 0, 16, 32, 0)
  | 0x18 => some (0, 32, 16, 0, 0)
  | 0x19 => some (3, 32, 32, 0, 0)
  | 0x20 => some (1, 32, 32, 32, 0)
  | 0x21 => some (1, 32, 32, 32, 0)
  | 0x22 => some (1, 32, 32, 32, 0)
  | 0x23 => some (1, 32, 32, 32, 32)
  | 0x24 => some (1, 32, 32, 32, 0)
  | 0x25 => some (1, 32, 32, 32, 0)
  | 0x26 => some (1, 8, 32, 32, 0)
  | 0x27 => some (1, 32, 32, 32, 8)
  | 0x28 => some (1, 32, 32, 32, 0)
  | 0x29 => some (1, 32, 32, 32, 0)
  | 0x2A => some (1, 32, 32, 32, 32)
  | 0x2B => some (1, 32, 32, 0, 2)
  | 0x2C => some (1, 16, 32, 0, 0)
  | 0x30 => some (1, 32, 32, 0, 0)
  | 0x31 => some (1, 32, 32, 0, 0)
  | 0x32 => some (1, 32, 32, 0, 0)
  | 0x33 => some (1, 32, 32, 0, 0)
  | 0x40 => some (1, 32, 32, 32, 0)
  | 0x41 => some (1, 32, 32, 32, 0)
  | 0x42 => some (1, 32, 32, 32, 0)
  | 0x43 => some (1, 4, 32, 32, 0)
  | 0x44 => some (1, 4, 32, 32, 0)
  | 0x45 => some (0, 4, 0, 0, 0)
  | 0x46 => some (1, 32, 4, 0, 0)
  | 0x47 => some (6, 4, 16, 16, 0)
  | _ => none

/-- The first byte of a number that is not 0, counted from a byte. -/
def firstByte (from_ n x : Nat) : List Nat :=
  (((List.range n).find? (fun i => bits x (8 * i) 8 ≠ 0)).map (· + from_)).toList

/-- The bytes of MODE that are wrong (R117, R128, R130, R131, R134). -/
def modeBad (i : Nat) : List Nat :=
  let m := iMode i
  match iOpc i with
  | 0x26 => if 6 < m then [0] else []
  | 0x2C => if 2 < m then [0] else []
  | 0x46 => firstByte 0 2 (m / 16 * 16)
  | 0x2B =>
    (if laneFmt (m / 256) then [] else [1]) ++ (if laneFmt (m % 256) then [] else [0]) ++
      (if m / 256 ≠ 0x11 && m % 256 ≠ 0x11 && bit (iC i) 0 then [4] else [])
  | _ => firstByte 0 2 m

/-- The bytes of an instruction that are wrong by themselves: its opcode, a register outside its file, a reserved field, a
count or a length of 0 (R111, R117). -/
def instrBad (i : Nat) : List Nat :=
  match opcodeShape (iOpc i) with
  | none => [7]
  | some (form, d, a, b, c) =>
    let outside (size r byte : Nat) : List Nat := if size ≠ 0 ∧ size ≤ r then [byte] else []
    let low := bits i 0 32
    outside d (iD i) 5 ++ outside a (iA i) 5 ++ outside b (iB i) 4 ++ outside c (iC i) 4 ++
      (match form with
        | 0 => firstByte 0 4 low
        | 1 => firstByte 2 2 (low / 2 ^ 16) ++ modeBad i
        | 4 => firstByte 2 2 (low / 2 ^ 16)
        | 5 => firstByte 1 1 (bits low 8 8 / 8 * 8) ++ (if bits low 16 16 = 0 then [2] else []) ++
            (if bits low 0 11 = 0 then [0] else [])
        | 6 => firstByte 2 2 (low / 2 ^ 22 * 64)
        | _ => [])

/-- The bodies of the LOOPs of an image: the LOOP, its first instruction and its last (R120). -/
def loopBodies (b : List Byte) : List (Nat × Nat × Nat) :=
  (List.range (imgLen b)).filterMap (fun i =>
    let w := imgInstr b i
    if iOpc w = 4 then some (i, i + 1, i + bits w 0 11) else none)

/-- The bytes of an instruction that are wrong by where it stands: a LOOP that leaves the image or its body or nests three
deep, byte 7; a branch that leaves the image or enters a body, byte 0 (R111, R120; the byte reported is a DESIGN CHOICE, log
entry 65). -/
def placeBad (b : List Byte) (loops : List (Nat × Nat × Nat)) (i : Nat) : List Nat :=
  let w := imgInstr b i
  let outer := loops.filter (fun l => decide (l.2.1 ≤ i ∧ i ≤ l.2.2))
  if iOpc w = 4 then
    let e := i + bits w 0 11
    if imgLen b ≤ e || 2 ≤ outer.length || outer.any (fun l => decide (l.2.2 < e)) then [7] else []
  else if iOpc w = 2 ∨ iOpc w = 3 ∨ iOpc w = 5 then
    let t := Int.ofNat i + iTarget w
    let into (l : Nat × Nat × Nat) : Bool :=
      decide (Int.ofNat l.2.1 ≤ t ∧ t ≤ Int.ofNat l.2.2) && !decide (l.2.1 ≤ i ∧ i ≤ l.2.2)
    if t < 0 || Int.ofNat (imgLen b) ≤ t || loops.any into then [0] else []
  else []

/-- The first instruction that fails, and its byte. -/
def firstInstr (b : List Byte) : Option (Nat × Nat) :=
  let loops := loopBodies b
  (List.range (imgLen b)).findSome? (fun i => (minOf (instrBad (imgInstr b i) ++ placeBad b loops i)).map (fun x => (i, x)))

/-- Whether a descriptor names an image. -/
def Op.hasImage (o : Op) : Bool := o.opc = 0x30 || ((o.opc = 0x10 || o.opc = 0x12) && o.fld 48 8 ≠ 0)

/-- Check an image, or take the copy that the Ringmaster holds (R111, R274). An address in host form is accepted and read there
(DESIGN CHOICE, log entry 65). -/
def checkImage (o : Op) : Check Op :=
  if !o.hasImage then pass o
  else
    let a := o.imgAddr
    (readStruct o a 64).bind (fun head s =>
      match imageOf s a (imgTagOf head) with
      | some b => pass { o with image := b } s
      | none =>
        (checkFields 0x11 0 head (imageFields head)).bind (fun _ =>
          (readStruct o (a + 64) (8 * imgLen head)).bind (fun code =>
            let b := head ++ code
            match firstInstr b with
            | some (i, x) => reject 0x10 (itemAt 0x15 x i)
            | none => fun s => pass { o with image := b } { s with
                images := s.images ++ [{ addr := a, tag := imgTagOf head, bytes := b }] })) s)

/-! ### Binding tables, page lists and page-table entries (R147, R155, R282) -/

/-- The fields of a binding-table entry. -/
def bindFields (s : State) (bs : List Byte) : List Field :=
  let k := fieldAt bs 15 1
  let src := fieldAt bs 0 8
  match k with
  | 0 => [freeF 0 16]
  | 1 => [(0, 8, alignedAddr src 64), (8, 3, fieldAt bs 8 3 % 4 = 0), (11, 3, fieldAt bs 11 3 % 4 = 0), (14, 1, laneFmt (fieldAt bs 14 1)), freeF 15 1]
  | 2 => [(0, 1, portServes s (src % 256) 1), (8, 3, fieldAt bs 8 3 % 4 = 0), (11, 3, fieldAt bs 11 3 % 4 = 0), (14, 1, fieldAt bs 14 1 = 0), freeF 15 1]
  | _ => [freeF 0 15, (15, 1, false)]

/-- Check the binding-table entries in order, each followed by the record that it names. -/
def checkBinds (raw : List Byte) : List Nat → Op → Check Op
  | [], o => pass o
  | n :: rest, o => fun s =>
    let bs := (raw.drop (16 * n)).take 16
    let k := fieldAt bs 15 1
    let x : Binding := { kind := k, source := fieldAt bs 0 8, ringOff := fieldAt bs 8 3, winLen := fieldAt bs 11 3, fmt := fieldAt bs 14 1 }
    (checkFields 0x12 n bs (bindFields s bs)).bind (fun _ =>
      if k = 0 then checkBinds raw rest o
      else if k = 2 then checkBinds raw rest { o with binds := o.binds ++ [(n, x)] }
      else (readStruct o x.source 128).bind (fun t =>
        (checkTensor 0x16 n t noB8 anyRank).bind (fun _ =>
          checkBinds raw rest { o with binds := o.binds ++ [(n, x)], recs := o.recs ++ [(0x1600 + n, t)] }))) s

/-- The binding table of TILEPROG. -/
def checkBindings (o : Op) : Check Op :=
  if o.opc = 0x30 && o.fld 32 8 ≠ 0 then (readStruct o (o.fld 32 8) 128).bind (fun raw => checkBinds raw (List.range 8) o)
  else pass o

/-- The page list of ATTEND: every page below NP. -/
def checkPageList (o : Op) : Check Op :=
  if o.opc = 0x20 && bit o.atMask 2 then
    (readStruct o (o.fld 48 8) (4 * o.fld 72 2)).bind (fun raw =>
      let l := (List.range (o.fld 72 2)).map (fun i => fieldAt raw (4 * i) 4)
      match l.findIdx? (fun p => decide (o.sqNP ≤ p)) with
      | some i => reject 0x10 (itemAt 0x14 0 i)
      | none => pass { o with pageList := l })
  else pass o

/-- The page-table entries that an operation can use: layer, head and the pages from one to below another (R147). Fields that
lie outside the sequence fail a later check, and their entries are not read. -/
def Op.entryRuns (o : Op) : List (Nat × Nat × List Nat) :=
  let layers := o.sq 12 2
  let pages (lo hi : Nat) : List Nat := (List.range (hi - lo)).map (· + lo)
  if o.opc = 0x21 then
    let trunc := o.fld 58 1 = 1
    let stop := o.kvPos + o.kvCount
    if decide (o.sq 8 4 ≤ o.kvPos) || (!trunc && decide (o.sq 8 4 < stop)) then []
    else
      let ls := if trunc && o.kvLayer = 0xFFFF then List.range layers else if o.kvLayer < layers then [o.kvLayer] else []
      let ps := pages (o.kvPos / 256) (if trunc then o.sqNP else (stop - 1) / 256 + 1)
      ls.flatMap (fun l => (List.range o.sqHeads).map (fun h => (l, h, ps)))
  else if o.opc = 0x20 && o.atLayer < layers && o.atHead < o.sqHeads then
    [(o.atLayer, o.atHead, (List.range o.sqNP).filter o.canUse)]
  else []

/-- Whether an entry is VALID with a CHECK that fails. -/
def entryBad (e : Nat) : Bool := bit e 63 && popCount 58 (e / 64) % 64 ≠ e % 64

/-- Check one page-table entry; a failing one is recorded (R147). -/
def checkEntry (o : Op) (l h p : Nat) : Check Unit :=
  (readStruct o (o.pte l h p) 8).bind (fun bs s =>
    if entryBad (leNat bs) then reject 0x10 (itemAt 0x13 0 ((l * o.sqHeads + h) * o.sqNP + p)) (record 0x0303 0x05 (leBytes 8 (o.pte l h p)) s)
    else pass () s)

/-- Check the page-table entries in increasing entry number. -/
def checkEntries (o : Op) : Check Unit :=
  allOf (o.entryRuns.flatMap (fun r => r.2.2.map (fun p => checkEntry o r.1 r.2.1 p)))

/-! ### Relations (R65, R80, R115, R143, R149, R155, R162, R169, R170, R173, R279, R281, R282) -/

/-- The bounding byte range of a tensor's elements. -/
def Tensor.span (t : Tensor) : Int × Int :=
  let k := if packed t.format then 1 else 0
  let unit := if packed t.format then ceilDiv (t.dim 0) (unitElems t.format) * fmtBytes t.format else fmtBytes t.format
  let ext (i : Nat) : Int := if i < k then 0 else (Int.ofNat (t.dim i) - 1) * t.stride i
  let lo := (List.range 5).foldl (fun (a : Int) i => if ext i < 0 then a + ext i else a) (Int.ofNat t.base)
  let hi := (List.range 5).foldl (fun (a : Int) i => if 0 < ext i then a + ext i else a) (Int.ofNat t.base)
  (lo, hi + Int.ofNat unit)

/-- Whether the bytes of an element of a box meet a range: extents and strides, outermost first, from a base. Only indices
whose elements can meet the range are tried. -/
def boxMeets (unit lo hi : Int) : List (Nat × Int) → Int → Bool
  | [], b => decide (b < hi ∧ lo < b + unit)
  | (d, s) :: ds, b =>
    let far (e : Nat × Int) : Int := (Int.ofNat e.1 - 1) * e.2
    let l := ds.foldl (fun a e => a + min 0 (far e)) 0
    let h := ds.foldl (fun a e => a + max 0 (far e)) unit
    let (i0, i1) : Nat × Nat :=
      if s = 0 then (0, min d 1)
      else if 0 < s then (((lo - b - h) / s).toNat, min d (((hi - b - l) / s).toNat + 1))
      else (((b + l - hi) / (-s)).toNat, min d (((b + h - lo) / (-s)).toNat + 1))
    (List.range (i1 - i0)).any (fun j => boxMeets unit lo hi ds (b + Int.ofNat (i0 + j) * s))

/-- Whether the elements of a tensor, and not what lies between them, meet a byte range (R65). -/
def Tensor.meets (t : Tensor) (r : Int × Int) : Bool :=
  let k := if packed t.format then 1 else 0
  let unit := if packed t.format then ceilDiv (t.dim 0) (unitElems t.format) * fmtBytes t.format else fmtBytes t.format
  boxMeets (Int.ofNat unit) r.1 r.2 ((((List.range 5).drop k).reverse).map (fun i => (t.dim i, t.stride i))) (Int.ofNat t.base)

/-- The byte range of its scale stream. -/
def Tensor.scaleSpan (t : Tensor) : Option (Int × Int) :=
  if isT t.format && t.scalePtr ≠ 0 then some (Int.ofNat t.scalePtr, Int.ofNat (t.scalePtr + 64 * ceilDiv t.blocks 56)) else none

/-- Whether two byte ranges overlap. -/
def spansMeet (a b : Int × Int) : Bool := decide (a.1 < b.2 ∧ b.1 < a.2)
def spanMeets (a : Int × Int) (b : Option (Int × Int)) : Bool := b.elim false (spansMeet a)
def scalesMeet (a b : Option (Int × Int)) : Bool := a.elim false (fun x => spanMeets x b)

/-- Relations within one record: the product of its extents, its blocks and its scale stream (R65, R170). -/
def recordRel (place entry : Nat) (t : Tensor) : List Nat :=
  (if 2 ^ 48 ≤ t.count then [itemAt place 16 entry] else []) ++
    (match t.scaleSpan with
      | some sp => if 2 ^ 32 ≤ t.blocks || (spansMeet sp t.span && t.meets sp) then [itemAt place 64 entry] else []
      | none => [])

/-- The destination check: dimensions of extent above 1 by absolute stride, equal ones by number; each must clear the one
before (R169). -/
def destRel (place : Nat) (t : Tensor) : List Nat :=
  let k := if packed t.format then 1 else 0
  let unit := if packed t.format then ceilDiv (t.dim 0) (unitElems t.format) * fmtBytes t.format else fmtBytes t.format
  let ds := sortBy (fun i => (t.stride i).natAbs) ((List.range 5).filter (fun i => decide (k ≤ i ∧ 1 < t.dim i)))
  let step (acc : Nat × Option Nat) (i : Nat) : Nat × Option Nat :=
    ((t.stride i).natAbs * t.dim i, match acc.2 with
      | some x => some x
      | none => if (t.stride i).natAbs < acc.1 then some i else none)
  match (ds.foldl step (unit, none)).2 with
  | some i => [itemAt place (36 + 5 * i) 0]
  | none => []

/-- A source and a destination overlap without being the same (R173). -/
def overlapRel (place : Nat) (a b : Tensor) : List Nat :=
  if sameLayout a b then []
  else if spansMeet a.span b.span then [itemAt place 0 0]
  else if spanMeets b.span a.scaleSpan || spanMeets a.span b.scaleSpan || scalesMeet a.scaleSpan b.scaleSpan then [itemAt place 64 0]
  else []

/-- The sources and the destinations of a descriptor, by record-field number. -/
def Op.sourceRecs (o : Op) : List Nat :=
  match o.opc with
  | 0x03 => []
  | 0x10 => [1, 2]
  | 0x12 => [1, 2]
  | 0x18 => (List.range (eopArity (o.fld 56 1))).map (· + 1)
  | 0x21 => [1, 2]
  | 0x28 => [1, 2, 3, 4]
  | 0x30 => o.binds.filterMap (fun b => if b.2.kind = 1 then some (0x1600 + b.1) else none)
  | 0x38 => if o.fld 38 1 = 2 then [1] else []
  | 0x40 => if o.fld 48 1 = 0x11 then [3] else [1]
  | _ => [1]
def Op.dests (o : Op) : List Nat :=
  match o.opc with
  | 0x03 => [1]
  | 0x10 => [3]
  | 0x12 => [3]
  | 0x18 => [4]
  | 0x20 => [2, 3]
  | 0x21 => []
  | 0x28 => [1, 2, 3, 5]
  | 0x30 => [1]
  | 0x38 => if o.fld 38 1 = 1 then [1] else []
  | 0x40 => if o.fld 48 1 = 0x10 then [3] else [2]
  | _ => [2]

/-- The place and entry of a record by its key. -/
def placeOf (key : Nat) : Nat × Nat := if 0x1600 ≤ key then (0x16, key - 0x1600) else (key, 0)

/-- The records of an operation with some numbers. -/
def Op.has (o : Op) (l : List Nat) : List (Nat × Tensor) := l.filterMap (fun k => (o.rec? k).map (fun t => (k, t)))

/-- Whether a record is remote: that of PUT and GET overlaps nothing here. -/
def Op.apart (o : Op) (k : Nat) : Bool := o.opc = 0x40 && k = 3

/-- Whether a destination has the very place of a source, so that the operation works in place (R173). -/
def Op.worksInPlace (o : Op) : Bool :=
  (o.has o.dests).any (fun d => (o.has o.sourceRecs).any (fun a =>
    a.1 ≠ d.1 && !o.apart a.1 && !o.apart d.1 && sameLayout a.2 d.2))

/-- Relations of the records. -/
def recordRels (o : Op) : List Nat :=
  let ds := o.has o.dests
  o.recs.flatMap (fun r => recordRel (placeOf r.1).1 (placeOf r.1).2 (parseTensor r.2)) ++
    ds.flatMap (fun d => destRel d.1 d.2) ++
    ds.flatMap (fun d => (o.has o.sourceRecs).flatMap (fun a =>
      if o.apart a.1 || o.apart d.1 || (o.opc = 0x28 && (a.1 = d.1 || d.1 = 5)) then [] else overlapRel d.1 a.2 d.2))

/-- A WC that overlaps another tensor of OPTSTEP, in any way (R162). -/
def optRel (o : Op) : List Nat :=
  match o.rec? 5 with
  | some c =>
    if o.opc = 0x28 && [1, 2, 3, 4].any (fun k => match o.rec? k with
        | some t => spansMeet c.span t.span || spanMeets c.span t.scaleSpan || spanMeets t.span c.scaleSpan ||
            scalesMeet c.scaleSpan t.scaleSpan
        | none => false)
    then [itemAt 0 48 0] else []
  | none => []

/-- The geometry bytes of CONV against the rank of X (R281). -/
def convRel (o : Op) : List Nat :=
  let used := (o.tensor 1).rank - 2
  (List.range 3).flatMap (fun i =>
    (if i < used then ([96, 99].filter (fun b => decide (o.fld (b + i) 1 = 0))).map (fun b => itemAt 0 (b + i) 0)
     else ([96, 99, 102, 105].filter (fun b => decide (o.fld (b + i) 1 ≠ 0))).map (fun b => itemAt 0 (b + i) 0)))

/-- The operands of the matrix engine: a pair that R80 lists, and an epilogue image whose window holds the block (R115). -/
def matrixRel (o : Op) : List Nat :=
  let a := (o.tensor 1).format
  (if pairOk a (o.tensor 2).format then [] else [itemAt 2 8 0]) ++
    (if o.image ≠ [] && decide (imgNeed o.image < blockSpace (a = 1)) then [itemAt 0x11 16 0] else [])

/-- Positions, layer and head against the sequence record (R149, R151, R155). -/
def seqRel (o : Op) : List Nat :=
  let top := o.sq 8 4
  let layers := o.sq 12 2
  if o.opc = 0x21 then
    let trunc := o.fld 58 1 = 1
    (if top ≤ o.kvPos then [itemAt 0 48 0] else []) ++
      (if !trunc && decide (top < o.kvPos + o.kvCount) then [itemAt 0 52 0] else []) ++
      (if decide (o.kvLayer < layers) || (trunc && o.kvLayer = 0xFFFF) then [] else [itemAt 0 56 0])
  else
    let last := o.qpos (o.atQueries - 1)
    (if top ≤ last ∨ 2 ^ 21 ≤ last then [itemAt 0 56 0] else []) ++
      (if o.atLayer < layers then [] else [itemAt 0 68 0]) ++ (if o.atHead < o.sqHeads then [] else [itemAt 0 70 0])

/-- The extents that R155 gives the records of ATTEND. -/
def attendRel (o : Op) : List Nat :=
  let d := o.sqDim
  let n := o.atQueries
  let dimBad (place : Nat) (want : List Nat) : List Nat := match o.rec? place with
    | some t => ((List.range 5).filter (fun i => decide (t.dim i ≠ want.getD i 1))).map (fun i => itemAt place (16 + 4 * i) 0)
    | none => []
  (if n ≤ 32 then [] else [itemAt 1 20 0]) ++ dimBad 1 [d, n] ++ dimBad 2 [d, n] ++ dimBad 3 [n]

/-- Formats outside R142 under UNIT 0b01, of destinations as of operands (R143; DESIGN CHOICE, log entry 73). -/
def unitRel (o : Op) : List Nat :=
  if o.unit = 1 then o.recs.filterMap (fun r => if floeFmt (parseTensor r.2).format then none else some (itemAt r.1 8 0)) else []

/-- The windows of bindings, and TILES beside a queue port (R282). -/
def bindRel (o : Op) : List Nat :=
  o.binds.filterMap (fun b => if imgNeed o.image < b.2.ringOff + b.2.winLen then some (itemAt 0x12 11 b.1) else none) ++
    (if o.binds.any (fun b => b.2.kind = 2) && decide (1 < o.fld 48 2) then [itemAt 0 48 0] else [])

/-- The checks that relate fields of a descriptor to one another: a WAIT_MASK without a Turnstile (R186), an index list out of step with its width (R277), the format of the helpers (R278), the range of
KV_APPEND (R149), and STEP 0 with BIAS (R162). -/
def fieldRel (o : Op) : List Nat :=
  let need (ok : Bool) (i : Nat) : List Nat := if ok then [] else [itemAt 0 i 0]
  need (o.waitTrn ≠ 0xFFFF || o.fld 4 1 = 0) 4 ++
    (match o.opc with
      | 0x01 => need (o.fld 40 8 % max 1 (o.fld 49 1) = 0) 40
      | 0x02 => need (o.fld 40 8 % max 1 (o.fld 49 1) = 0) 40
      | 0x18 => need (o.fld 56 1 < 0x20 || o.fld 57 1 = 2) 57
      | 0x21 => need (o.fld 58 1 = 1 || decide (o.fld 48 4 + o.fld 52 4 ≤ 2 ^ 21)) 52
      | 0x28 => need (!(bit (o.fld 92 1) 0) || o.fld 88 4 ≠ 0) 88
      | _ => [])

/-- The relations of an opcode. -/
def relations (o : Op) : List Nat :=
  fieldRel o ++ recordRels o ++ unitRel o ++
    (match o.opc with
      | 0x10 => matrixRel o
      | 0x12 => matrixRel o ++ convRel o
      | 0x19 => if (o.tensor 1).rank ≤ o.fld 41 1 then [itemAt 0 41 0] else []
      | 0x1A => if (o.tensor 1).rank ≤ o.fld 41 1 then [itemAt 0 41 0] else []
      | 0x20 => seqRel o ++ attendRel o
      | 0x21 => seqRel o
      | 0x28 => optRel o
      | 0x30 => bindRel o
      | _ => [])

/-- The place of an item in the order of the form step (R447). -/
def itemRank (d : Nat) : Nat :=
  let place := bits d 8 8
  let r := match place with
    | 0x10 => 7
    | 0x11 => 8
    | 0x15 => 9
    | 0x12 => 10
    | 0x16 => 10
    | 0x14 => 11
    | 0x13 => 12
    | p => p
  r * 2 ^ 56 + bits d 16 32 * 2 ^ 9 + (if place = 0x16 then 256 else 0) + bits d 0 8

/-- Reject by the failing item that comes first. -/
def checkItems (status : Nat) (items : List Nat) : Check Unit :=
  match (sortBy itemRank items).head? with
  | some d => reject status d
  | none => pass ()

/-! ### Shape (R170, R278 to R281, R151, R162) -/

/-- The first extent of a record that differs from what is wanted. -/
def shapeBad (o : Op) (place : Nat) (want : List Nat) : List Nat :=
  match (List.range 5).find? (fun i => decide ((o.tensor place).dim i ≠ want.getD i 1)) with
  | some i => [itemAt place (16 + 4 * i) 0]
  | none => []

/-- Records whose element counts must be equal. -/
def countBad (o : Op) (a b : Nat) : List Nat := if (o.tensor a).count = (o.tensor b).count then [] else [itemAt b 16 0]

/-- An output extent of CONV (R281). -/
def convOut (o : Op) (i : Nat) : Nat :=
  let x := Int.ofNat ((o.tensor 1).dim (i + 1) + o.fld (102 + i) 1 + o.fld (105 + i) 1)
  let k := Int.ofNat (o.fld (99 + i) 1) * (Int.ofNat ((o.tensor 2).dim (i + 1)) - 1)
  (Int.fdiv (x - k - 1) (Int.ofNat (o.fld (96 + i) 1)) + 1).toNat

/-- The extents of CONV. -/
def convShape (o : Op) : List Nat :=
  let x := o.tensor 1
  let w := o.tensor 2
  let y := o.tensor 3
  let r := x.rank
  if w.rank ≠ r then [itemAt 2 9 0]
  else if w.dim 0 ≠ x.dim 0 then [itemAt 2 16 0]
  else if y.rank ≠ r then [itemAt 3 9 0]
  else if y.dim 0 ≠ w.dim (r - 1) then [itemAt 3 16 0]
  else match (List.range (r - 2)).find? (fun i => decide (y.dim (i + 1) ≠ convOut o i)) with
    | some i => [itemAt 3 (20 + 4 * i) 0]
    | none => if y.dim (r - 1) ≠ x.dim (r - 1) then [itemAt 3 (16 + 4 * (r - 1)) 0] else []

/-- The extent checks that operations make at validation, in the order of the records. -/
def shapeItems (o : Op) : List Nat :=
  let a := o.tensor 1
  let b := o.tensor 2
  match o.opc with
  | 0x01 => if o.fld 48 1 = 0 then countBad o 1 2 else []
  | 0x02 => if o.fld 48 1 = 0 then countBad o 1 2 else []
  | 0x10 =>
    (if b.dim 1 ≠ a.dim 0 then [itemAt 2 20 0] else []) ++
      (((List.range 3).filter (fun i => decide (b.dim (i + 2) ≠ a.dim (i + 2)))).map (fun i => itemAt 2 (24 + 4 * i) 0)) ++
      shapeBad o 3 ([b.dim 0, a.dim 1] ++ a.dims.drop 2)
  | 0x12 => convShape o
  | 0x18 => (List.range (eopArity (o.fld 56 1))).flatMap (fun i => countBad o (i + 1) 4)
  | 0x19 => shapeBad o 2 (a.dims.set (o.fld 41 1) 1)
  | 0x1A => shapeBad o 2 a.dims
  | 0x21 =>
    if o.fld 58 1 = 1 then []
    else
      let want := [o.sqDim, o.sqHeads, o.kvCount]
      shapeBad o 1 want ++ (if a.rank ≠ 3 then [itemAt 1 9 0] else []) ++ shapeBad o 2 want ++
        (if b.rank ≠ 3 then [itemAt 2 9 0] else [])
  | 0x28 => ((o.recs.map (·.1)).filter (· ≠ 1)).flatMap (fun k => shapeBad o k a.dims)
  | _ => []

/-- Reject by the first extent that disagrees. -/
def checkShape (o : Op) : Check Unit :=
  match (shapeItems o).head? with
  | some d => reject 0x41 d
  | none => pass ()

/-! ### Presence and access (R5, R292, R303, R342, R380) -/

/-- Stacks of a set that are absent. -/
def absentStacks (s : State) (set : Nat) : Bool :=
  (setBitsOf 32 set).any (fun k => decide (numStacks s.variant ≤ k) || !(getStack s k).present)

/-- Whether every unit that a descriptor names is there. -/
def present (s : State) (o : Op) : Bool :=
  let k := o.fld 38 1
  let t := o.fld 36 2
  let c := o.fld 48 1
  let member (d : Nat) : Bool := d = s.casc.ownId || isMember s d
  !(o.unit = 1 && !hasFloe s.variant) && !(o.hasSeq && absentStacks s (o.sq 32 4)) &&
    (match o.opc with
      | 0x30 => o.binds.all (fun b => b.2.kind ≠ 2 || decide (b.2.source % 256 < numPorts s.variant))
      | 0x38 => if k = 5 || k = 6 then decide (t < numUserLanes s.variant) else decide (t < numPorts s.variant)
      | 0x40 => s.casc.formed &&
          (if 0x10 ≤ c then isMember s (o.fld 51 1)
           else (setBitsOf 16 (o.fld 52 2)).all member && (c ≠ 3 || bit (o.fld 52 2) (o.fld 51 1)))
      | 0x4B => !signalsAway s o || isMember s (o.fld 23 1)
      | 0x50 => match o.fld 16 1 with
        | 3 => !absentStacks s (o.fld 20 4)
        | 4 => (setBitsOf 256 (o.fld 64 32)).all (fun l => decide (l < numTiles s.variant))
        | _ => true
      | _ => true)

/-- The Turnstiles of this device that a descriptor names, in the order of the access step. A remote SIGNAL's is the other
device's. -/
def namedTrns (s : State) (o : Op) : List Nat :=
  ([o.waitTrn, o.doneTrn].filter (· ≠ 0xFFFF)) ++
    (if decide (0x48 ≤ o.opc ∧ o.opc ≤ 0x4B) && !signalsAway s o then [o.fld 16 2] else [])

/-- Whether its function may submit a descriptor. -/
def mayAccess (s : State) (o : Op) : Bool :=
  (!decide (0x60 ≤ o.opc ∧ o.opc ≤ 0x62) || o.func = 0) && (namedTrns s o).all (fun t => (getTrn s t).owner = o.func)

/-- A check of the state of the device. -/
def checkThat (status : Nat) (p : State → Bool) : Check Unit := fun s => if p s then pass () s else reject status 0 s

/-! ### Validation (R274, R447) -/

/-- The form step up to the relations. -/
def checkForm (o : Op) : Check Op :=
  (checkDesc o).bind (fun _ => (checkRecords o.recFields o).bind (fun o => (checkSeq o).bind (fun o => (checkImage o).bind (fun o =>
    (checkBindings o).bind (fun o => (checkPageList o).bind (fun o => (checkEntries o).bind (fun _ => pass o)))))))

/-- The four steps: the operation with its copies of what it names. -/
def validate (o : Op) : Check Op :=
  (checkForm { o with recs := [], seqRec := [], image := [], binds := [], pageList := [] }).bind (fun o =>
    (allOf [checkItems 0x10 (relations o), checkShape o, checkThat 0x11 (fun s => present s o), checkThat 0x21 (fun s => mayAccess s o)]).bind
      (fun _ => pass o))

/-- End or suspend a descriptor that fails validation: it has no effect (R245, R285). -/
def failCheck (tag : Nat) (o : Op) (e : Reject) (s : State) : State :=
  match e with
  | .code st d => endOp tag { status := st, detail := d } s
  | .read e =>
    match e with
    | .fault st a => endOp tag (stopWith st 0 a) (recordStop (checkWho o) e s)
    | .line a => endOp tag (stopWith 0x30 0 a) s
    | .wait x a =>
      startWait (checkWho o) false x a
        (updOp tag (fun o => { o with phase := .suspended, wait := some x, waitWrite := false, faultAddr := a }) s)
    | _ => endOp tag (stopWith 0x41 0 0) s

/-- A descriptor that ends at a check has placed no page, though reading what it names touched some; one whose reading waits
is validated again from the start, and touches them then (R5, R447). -/
def unplaced (s : State) (e : Reject) (s1 : State) : State :=
  let undone : State := { s1 with pages := s.pages, dmem := s.dmem, place := s.place }
  match e with
  | .code _ _ => undone
  | .read (.wait _ _) => undone
  | .read _ => s1

/-- The stack on whose Floe engines the Ringmaster runs an operation with UNIT 0b01: the first in service (R143). -/
def floeStack (s : State) (o : Op) : Option Nat :=
  if o.unit = 1 then (List.range (numStacks s.variant)).find? (floeServes s) else none

/-- Validate an operation; one that passes takes its place in the order of validation, and its header waits (R186, R358,
R447). -/
def validateOp (tag : Nat) (s : State) : State :=
  match findOp s tag with
  | none => s
  | some o =>
    match validate o s with
    | (.error e, s1) => failCheck tag o e (unplaced s e s1)
    | (.ok o1, s1) =>
      let o2 := { o1 with valid := true, inPlace := o1.worksInPlace, order := s1.nextOrder, onFloe := floeStack s1 o1, since := s1.time }
      headerWait o2 (setOp { s1 with nextOrder := s1.nextOrder + 1 } o2)

/-- Whether a descriptor waits for earlier ones of its queue (R186). -/
def isGated (l : List Op) (o : Op) : Bool :=
  !o.overlap && l.any (fun x => x.queue = o.queue && decide (x.tag < o.tag))

/-- Validate the descriptors of a queue that nothing gates any more, in order. -/
def advanceQueue (q : Nat) (s : State) : State :=
  (s.ops.filter (fun o => o.queue = q && o.phase = .gated)).foldl (fun s o =>
    match findOp s o.tag with
    | some x => if x.phase = .gated && !isGated s.ops x then validateOp o.tag s else s
    | none => s) s

end Sys2Proof.Machine
end

