-- ==== Sys2Proof/Machine/Collective.lean ====
section
/-! DEFINITION. Collectives among the members of a cascade group: submission, matching, the exchange, and how they end (R342,
R344, R345). -/

namespace Sys2Proof.Machine

/-! ### Fields (R342) -/

def Op.ckind (o : Op) : Nat := o.fld 48 1
def Op.rop (o : Op) : Nat := o.fld 49 1
def Op.cfmt (o : Op) : Nat := o.fld 50 1
def Op.peerDev (o : Op) : Nat := o.fld 51 1
def Op.memberMask (o : Op) : Nat := o.fld 52 2
def Op.collTag (o : Op) : Nat := o.fld 54 4
def Op.collUs (o : Op) : Nat := o.fld 58 4
def Op.isColl (o : Op) : Bool := o.opc = 0x40 && decide (o.ckind ≤ 3)

/-- The members of a collective in increasing ID order. -/
def Op.memberIds (o : Op) : List Nat := setBitsOf 16 o.memberMask

/-- ALL_REDUCE and REDUCE_SCATTER combine; the others move elements (R344). -/
def Op.reduces (o : Op) : Bool := decide (o.ckind ≤ 1)

/-! ### Parts submitted (R344) -/

/-- Marks in place of a part's format: extents that disagree on its member; a member whose part ended with an error. -/
def partShape : Nat := 0xFF
def partEnded : Nat := 0xFE

def CollPart.isOf (p : CollPart) (tag mask : Nat) : Bool := p.tag = tag && p.members = mask

/-- The oldest part of a member for a collective. -/
def partOf (s : State) (o : Op) (d : Nat) : Option CollPart :=
  s.casc.parts.find? (fun p => p.isOf o.collTag o.memberMask && p.dev = d)

/-- The parts of every member, when all have submitted. -/
def allParts (s : State) (o : Op) : Option (List CollPart) := o.memberIds.mapM (fun d => partOf s o d)

/-- Forget the parts of a collective. -/
def dropParts (tag mask : Nat) (s : State) : State :=
  { s with casc := { s.casc with parts := s.casc.parts.filter (fun p => !p.isOf tag mask) } }

/-- Members that have not submitted: what they submit later matches nothing (R345). -/
def markLate (o : Op) (s : State) : State :=
  let missing := o.memberIds.filter (fun d => (partOf s o d).isNone)
  { s with casc := { s.casc with late := s.casc.late ++ missing.map (fun d => (d, o.collTag, o.memberMask)) } }

/-- Take a mark that a member's submission is late. -/
def takeLate (d tag mask : Nat) (s : State) : Bool × State :=
  if (d, tag, mask) ∈ s.casc.late then (true, { s with casc := { s.casc with late := s.casc.late.erase (d, tag, mask) } })
  else (false, s)

/-! ### The elements that a member submits (R344) -/

/-- A source element converted to CFMT, with the flags of the conversion. -/
def reduceCode (s : State) (o : Op) (t : Tensor) (l : Nat) : Except Stop (W64 × Nat) :=
  (loadElem s (whoOf o) t (t.coords l)).map (fun x =>
    let (c, fl) := convertA o.cfmt o.arith x.1
    (BitVec.ofNat 64 c, x.2 ||| fl))

/-- A source element as it stands: its code, and for a T format its B8 code above it. -/
def moveCode (s : State) (o : Op) (t : Tensor) (l : Nat) : Except Stop (W64 × Nat) :=
  let c := t.coords l
  if isT t.format then
    match blockScale s (whoOf o) t (t.block c) with
    | .error e => .error e
    | .ok b => (loadCode s (whoOf o) t c).map (fun x => (BitVec.ofNat 64 (x + 256 * b), 0))
  else (loadCode s (whoOf o) t c).map (fun x => (BitVec.ofNat 64 x, 0))

/-- The elements from one index on. -/
def codesFrom (f : Nat → Except Stop (W64 × Nat)) : Nat → Nat → Except Stop (List (W64 × Nat))
  | 0, _ => .ok []
  | n + 1, l => match f l with
    | .error e => .error e
    | .ok x => (codesFrom f n (l + 1)).map (fun xs => x :: xs)

/-- The first word of a T part: d0 and tensor scale. -/
def partHead (t : Tensor) : List W64 := if isT t.format then [BitVec.ofNat 64 (t.dim 0 * 2 ^ 32 + t.tscale)] else []

/-- The part of the linear order of a count that goes to a member: where it begins and how long it is (R344). -/
def scatterPart (count m i : Nat) : Nat × Nat :=
  let q := count / m
  let r := count % m
  (i * q + min i r, q + (if i < r then 1 else 0))

/-- The place of this device among the members. -/
def ownPlace (s : State) (o : Op) : Nat := (indexIn o.memberIds s.casc.ownId).getD 0

/-- Whether the extents on this member agree with the table of R344, as far as it can tell. -/
def extentsAgree (s : State) (o : Op) : Bool :=
  let n := (o.tensor 1).count
  let d := (o.tensor 2).count
  let m := o.memberIds.length
  match o.ckind with
  | 0 => d = n
  | 1 => d = (scatterPart n m (ownPlace s o)).2
  | 2 => d = m * n
  | _ => s.casc.ownId ≠ o.peerDev || d = n

/-- What this member submits: its part, and the flags of its own conversions. A member that is not the root of a BROADCAST
submits the extent of its destination. -/
def ownPart (s : State) (o : Op) : Except Stop (CollPart × List Nat) :=
  let t := o.tensor 1
  let base : CollPart := { dev := s.casc.ownId, tag := o.collTag, members := o.memberMask, fmt := 0, count := t.count, codes := [] }
  if !extentsAgree s o then .ok ({ base with fmt := partShape }, [])
  else if o.ckind = 3 && s.casc.ownId ≠ o.peerDev then .ok ({ base with fmt := t.format, count := (o.tensor 2).count }, [])
  else if o.reduces then
    (codesFrom (reduceCode s o t) t.count 0).map (fun xs => ({ base with fmt := o.cfmt, codes := xs.map (·.1) }, xs.map (·.2)))
  else
    (codesFrom (moveCode s o t) t.count 0).map (fun xs => ({ base with fmt := t.format, codes := partHead t ++ xs.map (·.1) }, []))

/-- Send a collective message to the other members. -/
def tellMembers (o : Op) (kind count : Nat) (codes : List W64) (status : Nat) (s : State) : State :=
  (o.memberIds.filter (fun d => decide (d ≠ s.casc.ownId))).foldl (fun s d =>
    sendCasc d (.collective o.collTag o.memberMask kind count codes status) s) s

/-- A collective whose members have all submitted may proceed (R344). -/
def wakeColl (tag : Nat) (s : State) : State :=
  match findOp s tag with
  | some o => if o.isColl && o.phase = .waiting && o.gen = 1 && (allParts s o).isSome then
      updOp tag (fun o => { o with phase := .ready }) s else s
  | none => s

/-- Submit this member's part and wait for the others. One whose tag has timed out elsewhere matches nothing (R345). -/
def submitColl (tag : Nat) (o : Op) (s : State) : State :=
  match ownPart s o with
  | .error e => updOp tag (fun o => { o with started := false }) (stopOp tag e false s)
  | .ok (p, fls) =>
    let (isLate, s1) := takeLate s.casc.ownId o.collTag o.memberMask s
    let lines := fls.zipIdx.foldl (fun (t : Table (List Byte)) x => tset (dflt []) t x.2 (if x.1 = 0 then [] else leBytes 2 x.1)) []
    let s2 := updOp tag (fun o => { o with phase := .waiting, gen := if isLate then 3 else 1, since := s.time, lines := lines }) s1
    let s3 := tellMembers o (256 * p.fmt) p.count p.codes 0 s2
    if isLate then s3
    else wakeColl tag { s3 with casc := { s3.casc with parts := s3.casc.parts ++ [p] } }

/-! ### The exchange (R344, R345) -/

/-- Whether the counts of all parts agree. -/
def countsAgree (ps : List CollPart) : Bool :=
  ps.all (fun p => p.fmt ≠ partShape) && (match ps with
    | [] => true
    | p :: rest => rest.all (fun q => q.count = p.count))

/-- One element of ALL_REDUCE or REDUCE_SCATTER: ROP over the members' elements in the order of the steps. -/
def reduceAt (ps : List CollPart) (order : List Nat) (own : Nat) (o : Op) (l : Nat) : XVal × Nat × Nat :=
  let fl := leNat (tget (dflt []) o.lines l)
  let terms : List Partial := ps.zipIdx.map (fun x =>
    (decodeElem o.cfmt ((x.1.codes.getD l 0).toNat), if x.2 = own then fl else 0, x.2, none))
  match combineBy (ropComb o.rop o.cfmt (bits o.arith 0 3)) terms order with
  | some (r, f, _, _) => (r, f, noK)
  | none => (XVal.zero, 0, noK)

/-- The value of an element of a part that is moved, and its flags. -/
def movedVal (p : CollPart) (l : Nat) : XVal × Nat :=
  if isT p.fmt then
    let head := (p.codes.getD 0 0).toNat
    let x := (p.codes.getD (l + 1) 0).toNat
    scaleElem { parseTensor [] with tscale := head % 2 ^ 32 } (x / 256) (decodeElem p.fmt (x % 256))
  else (decodeElem p.fmt ((p.codes.getD l 0).toNat), 0)

/-- Whether elements of a part go into a destination unchanged (R176). -/
def movesWhole (p : CollPart) (t : Tensor) : Bool :=
  p.fmt = t.format && (!isT t.format || (p.codes.getD 0 0).toNat = t.dim 0 * 2 ^ 32 + t.tscale)

/-- The member's part that fills destination element l, and the element of it. -/
def moveSource (ps : List CollPart) (o : Op) (l : Nat) : Option (CollPart × Nat) :=
  if o.ckind = 3 then (ps.find? (fun p => p.dev = o.peerDev)).map (fun p => (p, l))
  else match ps with
    | [] => none
    | p :: _ => (ps[l / max 1 p.count]?).map (fun q => (q, l % max 1 p.count))

/-- Deliver n destination elements from l on, each from the part that fills it: unchanged where COPY would copy bytes, else
converted; a block that two parts fill is converted (R61, R176). -/
def moveRunOf (tag : Nat) (ps : List CollPart) (t : Tensor) (o : Op) (l n : Nat) (s : State) :
    Except (Stop × Bool) State :=
  let w := whoOf o
  let fail (r : Except Stop State) : Except (Stop × Bool) State := r.mapError (fun e => (e, true))
  let note (vs : List XVal) (s : State) : State := vs.foldl (fun s v => updStats tag 0 (countElem v v 0) s) s
  let from_ := (List.range n).filterMap (fun k => moveSource ps o (l + k))
  let vals := from_.map (fun x => movedVal x.1 x.2)
  match from_ with
  | [] => .ok s
  | (p, i) :: rest =>
    if !movesWhole p t || rest.any (fun x => x.1.dev ≠ p.dev) then
      fail (deliver tag w o.arith 0 l t (vals.map (fun v => (v.1, v.2, noK))) s)
    else if isT t.format then
      let xs := (List.range n).map (fun k => (p.codes.getD (i + k + 1) 0).toNat)
      let b := xs.headD 0 / 256
      fail ((writeAll w (codeWrites t (t.coords l) (xs.map (· % 256)) ++ scaleWrites t (t.block (t.coords l)) b) s).map (fun s1 =>
        note (vals.map (·.1)) (if t.scalePtr = 0 then s1 else updStats tag 0 (countBlock b false false) s1)))
    else
      let codes := (List.range n).map (fun k => (p.codes.getD (i + k) 0).toNat)
      fail ((writeAll w (codeWrites t (t.coords l) codes) s).map (note (vals.map (·.1))))

/-- Carry out a collective whose members have all submitted: counts that disagree end it on every member before any data
moves. -/
def exchange (tag : Nat) (order : List Nat) (ps : List CollPart) (o : Op) (s : State) : State :=
  let d := o.tensor 2
  if ps.any (fun p => p.fmt = partEnded) then refuseOp tag 0x50 s
  else if !countsAgree ps then refuseOp tag 0x41 s
  else if o.reduces then
    let from_ := if o.ckind = 1 then (scatterPart (o.tensor 1).count ps.length (ownPlace s o)).1 else 0
    drive tag d o.arith (fun s o l => .ok (reduceAt ps order (ownPlace s o) o (from_ + l))) s
  else
    driveBy tag d.count (deliverLen d) (fun o l n s => moveRunOf tag ps d o l n s) (d.count + 1) s

/-- A collective: it submits, and runs once every member has. -/
def collOp (tag : Nat) (order : List Nat) (o : Op) (s : State) : State :=
  if o.gen = 0 then submitColl tag o s
  else match allParts s o with
    | some ps => exchange tag order ps o s
    | none => s

/-! ### Messages and ends (R345) -/

/-- The operation of this device in a collective, while it has not ended. -/
def collHere (s : State) (tag mask : Nat) : Option Op :=
  s.ops.find? (fun o => o.isColl && o.valid && decide (o.phase ≠ .done) && decide (o.gen ≠ 0) && o.collTag = tag && o.memberMask = mask)

/-- A member has submitted. -/
def collSubmitted (dev tag mask fmt count : Nat) (codes : List W64) (s : State) : State :=
  let (isLate, s1) := takeLate dev tag mask s
  if isLate then s1
  else
    let s2 := { s1 with casc := { s1.casc with parts := s1.casc.parts ++ [{ dev, tag, members := mask, fmt, count, codes }] } }
    match collHere s2 tag mask with
    | some o => wakeColl o.tag s2
    | none => s2

/-- What another member's end makes of this member's operation. -/
def endedAs (status : Nat) (o : Op) : Result :=
  if o.cursor = 0 ∧ (status = 0x51 ∨ status = 0x41) then stopWith status 0 0 else stopWith 0x50 o.cursor 0

/-- A member has ended with an error status. A timeout ends the members that submitted, and what this device submits later
matches nothing; anything else aborts. -/
def collEnded (dev tag mask status : Nat) (s : State) : State :=
  match collHere s tag mask with
  | some o => updOp o.tag (fun o => { o with gen := 4, started := o.started && decide (o.cursor ≠ 0) }) (endOp o.tag (endedAs status o) s)
  | none =>
    if status = 0x51 then
      let s1 := dropParts tag mask s
      { s1 with casc := { s1.casc with late := s1.casc.late ++ [(s1.casc.ownId, tag, mask)] } }
    else
      let rest := s.casc.parts.filter (fun p => !(p.isOf tag mask && p.dev = dev))
      { s with casc := { s.casc with parts := rest ++ [{ dev, tag, members := mask, fmt := partEnded, count := status, codes := [] }] } }

/-- TIMEOUT_US passes before every member has submitted. -/
def collTimeoutOp (tag : Nat) (s : State) : State :=
  match findOp s tag with
  | none => s
  | some o =>
    if o.isColl && o.phase = .waiting && decide (o.gen = 1 ∨ o.gen = 3) && decide (o.collUs ≠ 0) && (allParts s o).isNone then
      refuseOp tag 0x51 (passTo (o.since + o.collUs * 1000) s)
    else s

/-- A collective leaves: its parts are forgotten; when it ends with an error, the other members are told, and members that have
not submitted are late. -/
def collLeave (o : Op) (s : State) : State :=
  if !o.isColl || !o.valid then s
  else if o.result.status < 0x10 then dropParts o.collTag o.memberMask s
  else
    let s1 := if o.gen = 3 then s else dropParts o.collTag o.memberMask (markLate o s)
    if o.gen = 3 || o.gen = 4 then s1 else tellMembers o 1 0 [] o.result.status s1

/-! ### The commands -/

/-- Whether an operation is a COLLECTIVE of a kind. -/
def isCkind (k : Nat) (o : Op) : Bool := o.opc = 0x40 && o.ckind = k

/-- ALL_REDUCE (R344). -/
def execAllReduce (op : Nat) (tree : List Nat) (s : State) : Host.Outcome State Fault Refusal :=
  .next (runWhen op (isCkind 0) (collOp op tree) s)

/-- REDUCE_SCATTER (R344). -/
def execReduceScatter (op : Nat) (tree : List Nat) (s : State) : Host.Outcome State Fault Refusal :=
  .next (runWhen op (isCkind 1) (collOp op tree) s)

/-- ALL_GATHER (R344). -/
def execAllGather (op : Nat) (s : State) : Host.Outcome State Fault Refusal :=
  .next (runWhen op (isCkind 2) (collOp op []) s)

/-- BROADCAST (R344). -/
def execBroadcast (op : Nat) (s : State) : Host.Outcome State Fault Refusal :=
  .next (runWhen op (isCkind 3) (collOp op []) s)

/-- COLLECTIVE_TIMEOUT (R345). -/
def execCollectiveTimeout (op : Nat) (s : State) : Host.Outcome State Fault Refusal :=
  .next (collTimeoutOp op s)

end Sys2Proof.Machine
end

