-- ==== Sys2Proof/Machine/Cascade.lean ====
section
/-! DEFINITION. Messages between the devices of a cascade group, fences and signals, and PUT, GET and DOORBELL (R303 to R308,
R335, R340, R343). -/

namespace Sys2Proof.Machine

/-! ### Signals and group operations in channel order (R304 to R308) -/

/-- Perform a signal, or an operation on a group Turnstile, of another device. -/
def performMsg (dev queue : Nat) (m : CascMsg) (s : State) : State :=
  match m with
  | .signal _ func t n gen curgen _ =>
    if n = 0 then s
    else
      let x := getTrn s t
      if isMirror s t || !x.remote || decide (x.owner ≠ func) then sendCasc dev (.signalDone 0x21 queue) s
      else letIn (arriveAt t curgen { kind := 1, peer := some { dev, byOp := false, mark := queue, queue }, gen, n } s)
  | .trnOp kind t gen n curgen wtag func _ =>
    let p : Option Peer := some { dev, byOp := true, mark := wtag, queue }
    if !isGroupTrn s t || isMirror s t || decide ((getTrn s t).owner ≠ func) then sendCasc dev (.trnDone wtag 0x21) s
    else if kind = 1 then letIn (waitAt t { kind := 0, peer := p, gen } s)
    else letIn (arriveAt t curgen { kind := if kind = 2 then 2 else 1, peer := p, gen, n } s)
  | _ => s

/-- The fence of a message. -/
def fenceOf : CascMsg → Nat
  | .signal _ _ _ _ _ _ f => f
  | _ => 0

/-- The counter of a channel after a signal has taken its fence: it is free when it reads 0 and no signal is held (R306). -/
def setCounter (k n : Nat) (s : State) : State :=
  let c := s.casc
  let t := if (tfind k c.rxBytes).isSome && c.rxSignals.any (fun x => x.1 = k) then tinsert k n c.rxBytes
    else tset (dflt 0) c.rxBytes k n
  { s with casc := { c with rxBytes := t } }

/-- Perform the held messages of a channel, oldest first, as far as their fences are met and those before them have taken effect:
each takes its fence from the counter. -/
def releaseChannel (dev queue : Nat) : Nat → State → State
  | 0, s => s
  | fuel + 1, s =>
    let k := chanKey queue dev
    match s.casc.rxSignals.find? (fun x => x.1 = k) with
    | none => s
    | some x =>
      let have_ := tget (dflt 0) s.casc.rxBytes k
      if fenceOf x.2 ≤ have_ && !channelWaits s dev queue then
        releaseChannel dev queue fuel (performMsg dev queue x.2 (setCounter k (have_ - fenceOf x.2)
          { s with casc := { s.casc with rxSignals := s.casc.rxSignals.erase x } }))
      else s

/-- A signal or a group operation arrives. -/
def holdMsg (dev queue : Nat) (m : CascMsg) (s : State) : State :=
  let s1 := { s with casc := { s.casc with rxSignals := s.casc.rxSignals ++ [(chanKey queue dev, m)] } }
  releaseChannel dev queue s1.casc.rxSignals.length s1

/-! ### Writes and reads that arrive (R335, R343) -/

/-- Who accesses memory for another device: the binding of the group that it names, through a cascade link (R245, R335). -/
def peerWho (s : State) (dev queue group : Nat) : Who :=
  let b := (getGroup s group).active.bind
  { asid := bindAsid b, func := bindFunc b, pasid := bindPasid b, unit := (0x68 + linkTo s dev queue) * 0x100 }

/-- The status of a stop as a peer reports it. -/
def peerStatus : Stop → Nat
  | .fault st _ => st
  | _ => 0x30

/-- Count the bytes of a channel that have been delivered (R304). -/
def countArrived (dev queue n : Nat) (s : State) : State :=
  let k := chanKey queue dev
  { s with casc := { s.casc with rxBytes := tset (dflt 0) s.casc.rxBytes k (tget (dflt 0) s.casc.rxBytes k + n) } }

/-- Whether a channel has a counter, or may take one of the 4,096 (R306). -/
def counterFree (s : State) (dev queue : Nat) : Bool :=
  (tfind (chanKey queue dev) s.casc.rxBytes).isSome || decide (s.casc.rxBytes.length < 4096)

/-- WRITE: its bytes go into memory, count on the channel, and are answered; none: it still waits. -/
def deliverWrite (dev queue addr group len off : Nat) (line : List Byte) (s : State) : Option State :=
  let a := addr / 64 * 64 + off
  let bs := (line.drop off).take len
  let w := peerWho s dev queue group
  if !counterFree s dev queue then none
  else match writeRM w a bs 3 s with
    | (none, s1) => some (sendCasc dev (.writeDone 0 1) (countArrived dev queue len
        (accessFlits (linkNode (linkTo s dev queue)) w true a { s1 with fills := [] })))
    | (some (.wait x b), s1) => match x with
      | .cxl => none
      | _ => some (sendCasc dev (.writeDone 0x20 1) (countArrived dev queue len (recordStop w (.fault 0x20 b) s1)))
    | (some e, s1) => some (sendCasc dev (.writeDone (peerStatus e) 1) (countArrived dev queue len (recordStop w e s1)))

/-- READ: the line goes back; none: it still waits. -/
def deliverRead (dev addr group len off rtag : Nat) (s : State) : Option State :=
  let a := addr / 64 * 64 + off
  let w := peerWho s dev 0 group
  match readRM w a len 3 s with
  | (.ok bs, s1) => some (sendCasc dev (.readData rtag 0 (padTo 64 (fill off 0 ++ bs)))
      (accessFlits (linkNode (linkTo s dev 0)) w false a s1))
  | (.error (.wait x b), s1) => match x with
    | .cxl => none
    | _ => some (sendCasc dev (.readData rtag 0x20 (fill 64 0)) (recordStop w (.fault 0x20 b) s1))
  | (.error e, s1) => some (sendCasc dev (.readData rtag (peerStatus e) (fill 64 0)) (recordStop w e s1))

/-- DOORBELL: judged as a doorbell write, when the queue's group is bound to the sender's function. -/
def deliverDoorbell (dev func queue value : Nat) (s : State) : State :=
  if bindFunc (getGroup s (groupOf queue)).active.bind ≠ func then sendCasc dev (.writeDone 0x21 1) s
  else sendCasc dev (.writeDone 0 1) (doorbellOp func queue 8 value s)

/-! ### Answers (R305, R335, R343) -/

/-- An operation that awaits another device ends by its report. -/
def endRemote (tag status : Nat) (s : State) : State :=
  match findOp s tag with
  | some o => if o.phase = .waiting then (if status = 0 then endOp tag {} s else refuseOp tag status s) else s
  | none => s

/-- SIGNAL_DONE: the oldest signal of the channel has taken effect. -/
def signalDoneOp (dev status queue : Nat) (s : State) : State :=
  match s.casc.sigOut.find? (fun x => x.1 = chanKey queue dev) with
  | none => s
  | some x => endRemote x.2 status { s with casc := { s.casc with sigOut := s.casc.sigOut.erase x } }

/-- TRN_DONE: the master has performed an operation on a group Turnstile. -/
def trnDoneOp (wtag status : Nat) (s : State) : State :=
  match s.casc.trnOut.find? (fun x => x.1 = wtag) with
  | none => s
  | some x => endRemote x.2.2 status { s with casc := { s.casc with trnOut := s.casc.trnOut.erase x } }

/-- The flags of a delivery of a PUT count when the peer has acknowledged its lines (R56). -/
def sentFlagsOf (o : Op) (elem : Nat) (s : State) : State :=
  updOp o.tag (fun o => { o with sentFlags := o.sentFlags.filter (fun f => f.1 ≠ elem) })
    ((o.sentFlags.filter (fun f => f.1 = elem)).foldl (fun s f => flagElem o.tag f.2.1 f.2.2.1 f.2.2.2 s) s)

/-- One acknowledged line of a PUT, or the answer to a DOORBELL. -/
def ackOne (dev status : Nat) (s : State) : State :=
  match s.casc.acks.find? (fun x => x.1 = dev) with
  | none => s
  | some x =>
    let s1 := { s with casc := { s.casc with acks := s.casc.acks.erase x } }
    match findOp s1 x.2 with
    | none => s1
    | some o =>
      let (elem, addr) := o.sent.headD (0, 0)
      let rest := o.sent.drop 1
      let s2 := updOp x.2 (fun o => { o with sent := rest }) s1
      let whole := status = 0 && !rest.any (fun e => e.1 = elem)
      let s2 := if whole && o.phase != .done then sentFlagsOf o elem s2 else s2
      if o.phase = .done then s2
      else if status ≠ 0 then endOp x.2 (stopWith status elem addr) s2
      else if rest.isEmpty && o.phase = .waiting then endOp x.2 { cursor := o.cursor } s2
      else s2

/-- WRITE_DONE acknowledges a number of lines, oldest first. -/
def writeDoneOp (dev status : Nat) : Nat → State → State
  | 0, s => s
  | n + 1, s => writeDoneOp dev status n (ackOne dev status s)

/-! ### GET: the lines of a remote record (R343) -/

/-- The lowest RTAG that no READ holds. -/
def freeRtag (s : State) : Option Nat := (List.range 4096).find? (fun r => (tfind r s.casc.reads).isNone)

/-- Ask for the lines that an operation still wants, while RTAGs are free. -/
def askLines (tag : Nat) : Nat → State → State
  | 0, s => s
  | fuel + 1, s =>
    match findOp s tag, freeRtag s with
    | some o, some r => match o.sent with
      | [] => s
      | (a, _) :: rest =>
        let s1 := updOp tag (fun o => { o with sent := rest }) { s with casc := { s.casc with reads := tinsert r (tag, a) s.casc.reads } }
        askLines tag fuel (sendCasc o.peerDev (.read a (o.fld 62 2) 64 0 r) s1)
    | _, _ => s

/-- Operations that want lines ask for them. -/
def askAll (s : State) : State :=
  (s.ops.filter (fun o => o.opc = 0x40 && o.ckind = 0x11 && o.phase = .waiting && !o.sent.isEmpty)).foldl
    (fun s o => askLines o.tag o.sent.length s) s

/-- READ_DATA: a line of a GET. With its last line the operation converts. -/
def readDataOp (rtag status : Nat) (line : List Byte) (s : State) : State :=
  match tfind rtag s.casc.reads with
  | none => s
  | some (tag, a) =>
    let s1 := { s with casc := { s.casc with reads := terase rtag s.casc.reads } }
    let s2 := match findOp s1 tag with
      | none => s1
      | some o =>
        if o.phase ≠ .waiting then s1
        else if status ≠ 0 then endOp tag (stopWith status 0 a) s1
        else
          let more := s1.casc.reads.any (fun e => e.2.1 = tag)
          updOp tag (fun o => { o with lines := tinsert a line o.lines, phase := if o.sent.isEmpty && !more then .ready else .waiting }) s1
    askAll s2

/-- The lines that a remote tensor's elements and scale stream touch. -/
def Tensor.allLines (t : Tensor) : List Nat :=
  let elems := (List.range t.count).flatMap (fun l =>
    let a := (t.addrAt (t.coords l)).1
    [a / 64 * 64, (a + fmtBytes t.format - 1) / 64 * 64])
  let scales := if isT t.format && t.scalePtr ≠ 0 then (List.range (ceilDiv t.blocks 56)).map (fun i => t.scalePtr + 64 * i) else []
  sortNat (elems ++ scales)

/-- A state in which addresses name the lines that have come from the peer: the load path reads the remote record there. -/
def remoteView (s : State) (o : Op) : State :=
  let page : PRange := { asid := o.asid, base := 0, len := 2 ^ 48, leaf := 12, kind := .tier2, rd := true, wr := false, phys := tier2Base }
  { s with pages := [page], cxl := [], dmem := o.lines.foldl (fun m e => Memory.writeN m (tier2Base + e.1) e.2) [] }

/-! ### PUT, GET and DOORBELL (R343) -/

/-- The remote record in device form (R335). -/
def remoteForm (t : Tensor) : List Nat :=
  (if isHost t.base then [itemAt 3 0 0] else []) ++ (if isT t.format && isHost t.scalePtr then [itemAt 3 64 0] else [])

/-- Check the record that the peer gives at validation (R31, R169, R170, R274, R343, R447). -/
def peerCheck (o : Op) (bs : List Byte) : Check Op :=
  (checkTensor 3 0 bs noB8 anyRank).bind (fun _ =>
    let o1 := { o with recs := o.recs ++ [(3, padTo 128 bs)] }
    let t := o1.tensor 3
    let dest := if o.ckind = 0x10 then destRel 3 t else []
    let other := if o.ckind = 0x10 then 1 else 2
    (checkItems 0x10 (remoteForm t ++ recordRel 3 0 t ++ dest)).bind (fun _ =>
      match (countBad o1 other 3).head? with
      | some d => reject 0x41 d
      | none => pass o1))

/-- The peer's answer at validation: its status, or its record, with which the operation goes on. -/
def withPeer (tag : Nat) (bs : List Byte) (status : Nat) (f : Op → State → State) (o : Op) (s : State) : State :=
  if o.gen ≠ 0 then f o s
  else if status ≠ 0 then refuseOp tag status s
  else match peerCheck o bs s with
    | (.error e, s1) => updOp tag (fun o => { o with started := false }) (failCheck tag o e s1)
    | (.ok o1, s1) =>
      let o2 := { o1 with gen := 1, started := true }
      f o2 (setOp s1 o2)

/-- The WRITE messages of one write: a line at a time. -/
def writeLines : Nat → Nat → List Byte → List (Nat × Nat × List Byte)
  | 0, _, _ => []
  | fuel + 1, a, bs =>
    if bs.isEmpty then []
    else
      let n := 64 - a % 64
      (a / 64 * 64, a % 64, bs.take n) :: writeLines fuel (a + n) (bs.drop n)

/-- Send the writes of a delivery to the peer: their bytes count on the channel, and each line awaits its answer (R304). -/
def sendWrites (o : Op) (elem : Nat) (ws : List (Nat × Bool × List Byte)) (s : State) : Except Stop State :=
  match ws.find? (fun w => !w.2.1) with
  | some w => .error (.fault 0x20 w.1)
  | none =>
    let msgs := ws.flatMap (fun w => writeLines (w.2.2.length / 64 + 2) w.1 w.2.2)
    .ok (msgs.foldl (fun s m =>
      let (a, off, bs) := m
      let s1 := countChannel o.queue o.peerDev o.func bs.length s
      let s2 := sendCasc o.peerDev (.write o.queue a (o.fld 62 2) bs.length off (padTo 64 (fill off 0 ++ bs))) s1
      updOp o.tag (fun o => { o with sent := o.sent ++ [(elem, a + off)] })
        { s2 with casc := { s2.casc with acks := s2.casc.acks ++ [(o.peerDev, o.tag)] } }) s)

/-- PUT delivers on this device's store path into the peer's memory, and then awaits the peer's answers. -/
def putLoop (tag : Nat) (o0 : Op) : Nat → State → State
  | 0, s => s
  | fuel + 1, s =>
    let a := o0.tensor 1
    let b := o0.tensor 3
    match findOp s tag with
    | none => s
    | some o =>
      if o.phase = .done then s
      else if b.count ≤ o.cursor then
        (if o.sent.isEmpty then endOp tag { cursor := o.cursor } s else updOp tag (fun o => { o with phase := .waiting, since := s.time }) s)
      else
        let n := deliverLen b o.cursor
        let val (l : Nat) : Except Stop (XVal × Nat × Nat) := (loadElem s (whoOf o) a (a.coords l)).map (fun x => (x.1, x.2, noK))
        match valuesOf val n o.cursor with
        | .error e => stopOp tag e false s
        | .ok vs =>
          match deliverBy (sendWrites o o.cursor) (fun l fl k => updOp tag (fun x =>
              { x with sentFlags := x.sentFlags ++ [(o.cursor, b.runPos l, fl, k)] })) tag o.arith 0 o.cursor b vs s with
          | .error e => stopOp tag e true s
          | .ok s1 => putLoop tag o0 fuel (updOp tag (fun o => { o with cursor := o.cursor + n }) s1)

/-- PUT: held back while a signal of its channel has not taken effect (R305). -/
def putOp (tag : Nat) (o : Op) (s : State) : State :=
  if channelHeld s o.queue o.peerDev then updOp tag (fun x => { x with started := decide (x.cursor ≠ 0) }) s
  else putLoop tag o ((o.tensor 3).count + 1) s

/-- GET: asks for the lines of the remote record, and converts when they have come. -/
def getOp (tag : Nat) (o : Op) (s : State) : State :=
  let a := o.tensor 3
  if o.gen = 1 then
    let ls := a.allLines
    askLines tag ls.length (updOp tag (fun o => { o with gen := 2, phase := .waiting, since := s.time, sent := ls.map (fun x => (x, 0)) }) s)
  else
    drive tag (o.tensor 2) o.arith (fun s o l => (loadElem (remoteView s o) (whoOf o) a (a.coords l)).map (fun x => (x.1, x.2, noK))) s

/-- DOORBELL: a doorbell write on the peer, whose answer it awaits. -/
def sendDoorbell (tag : Nat) (o : Op) (s : State) : State :=
  let s1 := updOp tag (fun o => { o with phase := .waiting, since := s.time, sent := [(0, 0)] }) s
  sendCasc o.peerDev (.doorbell o.func (o.fld 72 3) (o.fld 64 8)) { s1 with casc := { s1.casc with acks := s1.casc.acks ++ [(o.peerDev, tag)] } }

/-! ### Packets in order (R340) -/

/-- Deliver a message of another device; none: it waits, and what follows it waits too. -/
def deliverMsg (dev : Nat) (m : CascMsg) (s : State) : Option State :=
  match m with
  | .write queue addr group len off line => deliverWrite dev queue addr group len off line s
  | .read addr group len off rtag => deliverRead dev addr group len off rtag s
  | .readData rtag status line => some (readDataOp rtag status line s)
  | .writeDone status lines => some (writeDoneOp dev status lines s)
  | .signal queue _ _ _ _ _ _ => some (holdMsg dev queue m s)
  | .signalDone status queue => some (signalDoneOp dev status queue s)
  | .trnOp _ _ _ _ _ _ _ queue => some (holdMsg dev queue m s)
  | .trnRel trn gen => some (if dev = s.casc.masterId then groupGenOp trn gen s else s)
  | .trnDone wtag status => some (trnDoneOp wtag status s)
  | .doorbell func queue value => some (deliverDoorbell dev func queue value s)
  | .collective tag members kind count codes status =>
    some (if kind % 2 = 0 then collSubmitted dev tag members (kind / 256) count codes s else collEnded dev tag members status s)

/-- Deliver what is next of a device and network, as far as it has come. -/
def drainHeld (dev net : Nat) : Nat → State → State
  | 0, s => s
  | fuel + 1, s =>
    let k := seqKey dev net
    let want := tget (dflt 0) s.casc.rxSeq k
    match s.casc.rxHeld.find? (fun h => decide (h.1 = dev ∧ h.2.1 = net ∧ h.2.2.1 = want)) with
    | none => s
    | some h =>
      match deliverMsg dev h.2.2.2 s with
      | none => s
      | some s1 => drainHeld dev net fuel { s1 with casc := { s1.casc with
          rxHeld := s1.casc.rxHeld.erase h, rxSeq := tset (dflt 0) s1.casc.rxSeq k ((want + 1) % 2 ^ 16) } }

/-- Packets that waited for memory or for a counter are tried again, as long as some can be delivered. -/
def retryRounds : Nat → State → State
  | 0, s => s
  | n + 1, s =>
    let s1 := s.casc.rxHeld.foldl (fun s h => drainHeld h.1 h.2.1 s.casc.rxHeld.length s) s
    if s1.casc.rxHeld.length = s.casc.rxHeld.length then s1 else retryRounds n s1

/-- As retryRounds, until nothing more can be. -/
def retryHeld (s : State) : State := retryRounds s.casc.rxHeld.length s

/-- A packet arrives: one that was delivered already is discarded; one that is ahead of its turn is held. After a link of the
network has failed nothing more is taken (R323). -/
def receiveMsg (dev seq : Nat) (m : CascMsg) (s : State) : State :=
  let want := tget (dflt 0) s.casc.rxSeq (seqKey dev m.net)
  let known := s.casc.rxHeld.any (fun h => decide (h.1 = dev ∧ h.2.1 = m.net ∧ h.2.2.1 = seq))
  if !isMember s dev || bit s.noc.errLog 63 || known || decide (32768 ≤ (seq + 2 ^ 16 - want) % 2 ^ 16) then s
  else
    let s1 := { s with casc := { s.casc with rxHeld := s.casc.rxHeld ++ [(dev, m.net, seq, m)] } }
    retryHeld (drainHeld dev m.net s1.casc.rxHeld.length s1)

/-- FENCE_RELEASE: held messages whose fence is met are performed, and packets that waited for a counter go on (R304, R306). -/
def fenceReleaseOp (dev queue : Nat) (s : State) : State :=
  retryHeld (releaseChannel dev queue s.casc.rxSignals.length s)

/-! ### The commands -/

/-- PUT (R343). -/
def execPut (op : Nat) (peerRecord : List Byte) (status : Nat) (s : State) : Host.Outcome State Fault Refusal :=
  .next (runWhen op (isCkind 0x10) (withPeer op peerRecord status (putOp op)) s)

/-- GET (R343). -/
def execGet (op : Nat) (peerRecord : List Byte) (status : Nat) (s : State) : Host.Outcome State Fault Refusal :=
  .next (runWhen op (isCkind 0x11) (withPeer op peerRecord status (getOp op)) s)

/-- DOORBELL (R343). -/
def execDoorbellOp (op : Nat) (s : State) : Host.Outcome State Fault Refusal :=
  .next (runWhen op (isCkind 0x12) (sendDoorbell op) s)

/-- The messages of an accepted flit that are for this device, as far as their slots say all that they need, are delivered in their
packets' order (R333, R335, R340). -/
def deliverFlit (flit : List Byte) (s : State) : State :=
  (flitSlots flit).foldl (fun s x =>
    let d := fieldAt x.1 0 1
    match slotMsg x.1 x.2 with
    | some m => if s.casc.formed && d % 16 = s.casc.ownId then receiveMsg (d / 16) (fieldAt x.1 2 2) m s else s
    | none => s) s

/-- CASC_FLIT_RECEIVE (R334). -/
def execCascFlitReceive (link : Nat) (flit : List Byte) (bad : List Nat) (fixed : List (Nat × Nat)) (s : State) :
    Host.Outcome State Fault Refusal :=
  .next (
    let (ok, s1) := flitOp link flit bad fixed s
    if ok then deliverFlit flit s1 else s1)

/-- CASC_WRITE (R335). -/
def execCascWrite (dev seq queue addr group len off : Nat) (line : List Byte) (s : State) : Host.Outcome State Fault Refusal :=
  .next (receiveMsg dev seq (.write queue addr group len off line) s)

/-- CASC_READ (R335). -/
def execCascRead (dev seq addr group len off rtag : Nat) (s : State) : Host.Outcome State Fault Refusal :=
  .next (receiveMsg dev seq (.read addr group len off rtag) s)

/-- READ_DATA (R335). -/
def execReadData (dev seq rtag status : Nat) (line : List Byte) (s : State) : Host.Outcome State Fault Refusal :=
  .next (receiveMsg dev seq (.readData rtag status line) s)

/-- WRITE_DONE (R335). -/
def execWriteDone (dev seq status lines : Nat) (s : State) : Host.Outcome State Fault Refusal :=
  .next (receiveMsg dev seq (.writeDone status lines) s)

/-- CASC_SIGNAL (R304). -/
def execCascSignal (dev seq queue func trn n gen : Nat) (curgen : Bool) (fence : Nat) (s : State) :
    Host.Outcome State Fault Refusal :=
  .next (receiveMsg dev seq (.signal queue func trn n gen curgen fence) s)

/-- SIGNAL_DONE (R305). -/
def execSignalDone (dev seq status queue : Nat) (s : State) : Host.Outcome State Fault Refusal :=
  .next (receiveMsg dev seq (.signalDone status queue) s)

/-- TRN_OP (R307). -/
def execTrnOp (dev seq kind trn gen n : Nat) (curgen : Bool) (wtag func queue : Nat) (s : State) :
    Host.Outcome State Fault Refusal :=
  .next (receiveMsg dev seq (.trnOp kind trn gen n curgen wtag func queue) s)

/-- TRN_REL (R308). -/
def execTrnRel (dev seq trn gen : Nat) (s : State) : Host.Outcome State Fault Refusal :=
  .next (receiveMsg dev seq (.trnRel trn gen) s)

/-- TRN_DONE (R335). -/
def execTrnDone (dev seq wtag status : Nat) (s : State) : Host.Outcome State Fault Refusal :=
  .next (receiveMsg dev seq (.trnDone wtag status) s)

/-- CASC_DOORBELL (R343). -/
def execCascDoorbell (dev seq func queue : Nat) (value : W64) (s : State) : Host.Outcome State Fault Refusal :=
  .next (receiveMsg dev seq (.doorbell func queue value.toNat) s)

/-- COLLECTIVE_CONTROL (R344). -/
def execCollectiveControl (dev seq tag members kind count : Nat) (codes : List W64) (status : Nat) (s : State) :
    Host.Outcome State Fault Refusal :=
  .next (receiveMsg dev seq (.collective tag members kind count codes status) s)

/-- CXL_LINK_RETRAINED (R230). -/
def execCxlLinkRetrained (port width rate : Nat) (s : State) : Host.Outcome State Fault Refusal :=
  .next (retryHeld (cxlLinkRetrainedOp port width rate s))

/-- CXL_RETRAIN_TIMEOUT (R230). -/
def execCxlRetrainTimeout (port : Nat) (s : State) : Host.Outcome State Fault Refusal :=
  .next (retryHeld (cxlRetrainTimeoutOp port s))

/-- LINK_RETRAIN_DONE (R306, R337, R341). -/
def execLinkRetrainDone (link half reach : Nat) (s : State) : Host.Outcome State Fault Refusal :=
  .next (retryHeld (retrainDoneOp link half reach s))

/-- FENCE_RELEASE (R304). -/
def execFenceRelease (dev queue : Nat) (s : State) : Host.Outcome State Fault Refusal :=
  .next (fenceReleaseOp dev queue s)

end Sys2Proof.Machine
end

