-- ==== Sys2Proof/Machine/Fabric.lean ====
section
/-! DEFINITION. The logic cells of the Midway: what a cell computes, the wires that a design routes to it, and the columns of
the fast path (R349 to R351, R365, R369). -/

namespace Sys2Proof.Machine

/-! ### One cell (R349) -/

/-- An 8:1 multiplexer: the data input that three select inputs name; none where an input it needs is not settled. -/
def muxVal (v : Wire → Option Bool) (data sel : List Wire) : Option Bool :=
  (v (sel.getD 0 (.const false))).bind (fun s0 => (v (sel.getD 1 (.const false))).bind (fun s1 =>
    (v (sel.getD 2 (.const false))).bind (fun s2 =>
      v (data.getD (s0.toNat + 2 * s1.toNat + 4 * s2.toNat) (.const false)))))

/-- A 2:1 choice. -/
def pick (x yes no : Option Bool) : Option Bool := x.bind (fun b => if b then yes else no)

/-- The output of a cell: in function mode the carry multiplexer chooses between A and B, in carry mode the output is A. -/
def cellOut (v : Wire → Option Bool) (c : Cell) : Option Bool :=
  let ma := muxVal v c.a c.sa
  if c.carry then ma else pick (v c.x) (muxVal v c.b c.sb) ma

/-- The carry out of a cell in carry mode: the carry in where A is 1, else B. -/
def cellCarry (v : Wire → Option Bool) (c : Cell) : Option Bool :=
  if c.carry then pick (muxVal v c.a c.sa) (v c.cin) (muxVal v c.b c.sb) else none

/-! ### Wires (R349 to R351) -/

/-- Cells of the fabric; the cells of the fast-path columns are numbered on from there, 256 for each bank (log entry 70). -/
def numCells (v : Variant) : Nat := 640000 * numDies v
def fastCell (v : Variant) (b i : Nat) : Nat := numCells v + 256 * b + i

/-- Whether a bank's supply is present (R364). -/
def bankOn (s : State) (b : Nat) : Bool := decide (tget (dflt 0) s.mid.banks b ≠ 0)

/-- What a pin's input presents: 0 while its bank is without supply (R364). -/
def pinInput (s : State) (n : Nat) : Bool := (tget (dflt {}) s.mid.pins n).level && bankOn s (n / 24)

/-- The value of a wire at a cell: a constant, a latch's output, a pin, a wire from outside the cells, which is 1 if it
is among those listed, a cell's output, or the carry of the cell below. none: it does not settle, or may not be used. -/
def wireVal (s : State) (ones : List Nat) (may : Wire → Bool) : Nat → Nat → Wire → Option Bool
  | 0, _, _ => none
  | fuel + 1, n, w =>
    if !may w then none
    else match w with
      | .const b => some b
      | .latch k => some (tget (dflt (false, false)) s.mid.latches k).1
      | .pin k => some (pinInput s k)
      | .outside k => some (decide (k ∈ ones))
      | .cell k => cellOut (wireVal s ones may fuel k) (Config.cellDesign s.mid.frames k)
      | .chain => if n = 0 then none
          else cellCarry (wireVal s ones may fuel (n - 1)) (Config.cellDesign s.mid.frames (n - 1))

/-- A settled bit, or an open one (log entry 70). -/
def settled (b : Option Bool) (s : State) : Bool × State := match b with
  | some v => (v, s)
  | none => let (x, s1) := takeFree 1 s
            (decide (x.toNat = 1), s1)

/-! ### Pins and the fast path (R364, R365, R369) -/

def getPin (s : State) (n : Nat) : Pin := tget (dflt {}) s.mid.pins n
def setPin (s : State) (n : Nat) (x : Pin) : State :=
  { s with mid := { s.mid with pins := tset (dflt {}) s.mid.pins n x } }

/-- Whether a pin is one of its bank's fast-path pins, and the die of a pin. -/
def fastPin (n : Nat) : Bool := decide (n % 24 < 6)
def pinDie (n : Nat) : Nat := n / 48

/-- What the joined columns of a die reach: its own fast-path pins and column cells, constants, and latches. -/
def inColumn (v : Variant) (d : Nat) : Wire → Bool
  | .const _ | .latch _ | .chain => true
  | .pin k => fastPin k && pinDie k = d
  | .cell k => decide (fastCell v (2 * d) 0 ≤ k ∧ k < fastCell v (2 * d + 2) 0)
  | .outside _ => false

/-- An output of the fast path takes the level that its column gives it, or is released. -/
def settleFastPin (n : Nat) (s : State) : State :=
  match Config.fastDesign s.mid.frames n with
  | none => s
  | some (data, enable) =>
    let at_ (w : Wire) : Option Bool := wireVal s [] (inColumn s.variant (pinDie n)) 514 (fastCell s.variant (n / 24) 0) w
    let (en, s1) := settled (at_ enable) s
    let (v, s2) := settled (at_ data) s1
    let x := getPin s2 n
    let drive := if en then some v else none
    if x.drive = drive then s2
    else
      let s3 := setPin s2 n { x with drive }
      if en && bankOn s3 (n / 24) then emit (.pinEvent n v true) s3 else s3

/-- The fast path of a die settles: its paths are combinational and carry no handshake. -/
def settleFast (d : Nat) (s : State) : State :=
  if !s.mid.loaded then s
  else (List.range 12).foldl (fun s i => settleFastPin (48 * d + 24 * (i / 6) + i % 6) s) s

/-- As settleFast, on every die. -/
def settleAll (s : State) : State := (List.range (numDies s.variant)).foldl (fun s d => settleFast d s) s

/-- The four-phase protocol of a handshake latch: at REQ it captures its cell's output and raises ACK; when REQ has
fallen it lowers ACK (R350). -/
def latchOp (cell : Nat) (req : Bool) (ones : List Nat) (s : State) : State :=
  let (v, ack) := tget (dflt (false, false)) s.mid.latches cell
  let put (x : Bool × Bool) (s : State) : State :=
    emit (.latchAck cell x.2) { s with mid := { s.mid with latches := tset (dflt (false, false)) s.mid.latches cell x } }
  if !s.mid.loaded || decide (numCells s.variant ≤ cell) then s
  else if req && !ack then
    let (d, s1) := settled (wireVal s ones (fun _ => true) (numCells s.variant + 1) cell (.cell cell)) s
    settleAll (put (d, true) s1)
  else if !req && ack then put (v, false) s
  else s

end Sys2Proof.Machine
end

