-- ==== Sys2Proof/Machine/Midway.lean ====
section
/-! DEFINITION. The Midway: its streams, memory ports, user serial lanes, pins, pacers, memory blocks and latches, and how a
load clears it and starts its design (R348 to R371). -/

namespace Sys2Proof.Machine

/-! ### FABRIC (R359) -/

def Op.fkind (o : Op) : Nat := o.fld 38 1
def Op.target (o : Op) : Nat := o.fld 36 2
def Op.fopt (o : Op) : Nat := bits (o.fld 39 1) 0 7
def Op.lastWord (o : Op) : Bool := bit (o.fld 39 1) 7
def Op.fabricUs (o : Op) : Nat := o.fld 32 4
def Op.laneCfg (o : Op) : Nat := o.fld 40 8

/-- Begin, or go on with, a FABRIC of a kind: a load may have turned its port since it was validated (R359, R361). -/
def runFabric (tag kind : Nat) (f : Op → State → State) (s : State) : State :=
  runWhen tag (fun o => o.opc = 0x38 && o.fkind = kind)
    (fun o s => if decide (kind ≤ 4) && !portServes s o.target (fabricDir kind) then refuseOp tag 0x10 s else f o s) s

/-- The bytes of a port's elements: those of FOPT's format, or of RECORD's container for raw bytes (R360). -/
def Op.portElem (o : Op) (t : Tensor) : Nat := if o.fopt = 0 then fmtBytes t.format else fmtBytes o.fopt

/-- A FABRIC waits for its own event from now on. -/
def fabricWait (tag : Nat) (s : State) : State := updOp tag (fun o => { o with phase := .waiting, since := s.time }) s

/-- Take a port, or leave the operation as it was until the port is released (R358). -/
def withPort (tag : Nat) (o : Op) (go : State → State) (s : State) : State :=
  if portFree s o o.target then go (holdPort o o.target s)
  else updOp tag (fun o => { o with started := false }) s

/-! ### STREAM_IN (R360) -/

/-- Place raw containers in the record. -/
def placeRaw (tag : Nat) (o : Op) (t : Tensor) (bs : List Byte) (s : State) : Except Stop State :=
  let (a, okay) := t.addrAt (t.coords o.cursor)
  match writeAll (whoOf o) [(a, okay, bs)] s with
  | .error e => .error e
  | .ok s1 =>
    let v := decodeElem t.format (codeIn t.format 0 bs)
    .ok (updStats tag 0 (countElem v v 0) s1)

/-- Store the next n elements of a port's bytes into the record. -/
def placeElems (tag : Nat) (o : Op) (t : Tensor) (bs : List Byte) (n : Nat) (s : State) : Except Stop State :=
  if o.fopt = 0 then placeRaw tag o t bs s
  else
    let es := fmtBytes o.fopt
    deliver tag (whoOf o) o.arith 0 o.cursor t ((List.range n).map (fun i =>
      (decodeElem o.fopt (fromContainer o.fopt (fieldAt bs (es * i) es)), 0, noK))) s

/-- Move elements from a port's chain into the record until the record is full, the stream ends or no word is left. -/
def streamInLoop (tag : Nat) : Nat → State → State
  | 0, s => s
  | fuel + 1, s =>
    match findOp s tag with
    | none => s
    | some o =>
      let t := o.tensor 1
      let m := o.target
      let x := getPort s m
      let es := o.portElem t
      let (bs, ended) := chainBytes x.chain
      let have_ := bs.length / es
      let want := deliverLen t o.cursor
      if t.count ≤ o.cursor then
        refill m (putPort (endOp tag { cursor := o.cursor } s) m { x with chain := chainTidy x.chain, holder := none })
      else if want ≤ have_ then
        let n := want
        match placeElems tag o t (bs.take (n * es)) n s with
        | .error e => stopOp tag e true s
        | .ok s1 =>
          streamInLoop tag fuel (refill m (putPort (updOp tag (fun o => { o with cursor := o.cursor + n }) s1) m
            { x with chain := chainTake (n * es) x.chain }))
      else if ended then
        refill m (putPort (endOp tag (stopWith 0x41 o.cursor 0) s) m
          { x with chain := chainSkip x.chain, holder := none })
      else fabricWait tag s

/-- STREAM_IN takes the port's next stream. -/
def streamInOp (tag : Nat) (o : Op) (s : State) : State :=
  withPort tag o (streamInLoop tag ((o.tensor 1).count + 2)) s

/-! ### STREAM_OUT (R360) -/

/-- The bytes of n elements of the record in the port's format, and their flags. -/
def outBytes (s : State) (o : Op) (t : Tensor) : Nat → Nat → Except Stop (List Byte × List Nat)
  | 0, _ => .ok ([], [])
  | n + 1, l =>
    let one : Except Stop (List Byte × Nat) :=
      if o.fopt = 0 then (readElem s (whoOf o) (t.addrAt (t.coords l)) (fmtBytes t.format)).map (fun b => (b, 0))
      else (loadElem s (whoOf o) t (t.coords l)).map (fun x =>
        let (c, fl) := convertA o.fopt o.arith x.1
        (leBytes (fmtBytes o.fopt) (toContainer o.fopt c), x.2 ||| fl))
    match one with
    | .error e => .error e
    | .ok (b, fl) => (outBytes s o t n (l + 1)).map (fun r => (b ++ r.1, fl :: r.2))

/-- The word of some bytes; bytes of it that no element fills are open (log entry 33). -/
def packWord (bs : List Byte) (last : Bool) (s : State) : PortWord × State :=
  let k := bs.length
  let keep := if last then 2 ^ k - 1 else 0xFF
  if k = 8 then ({ data := BitVec.ofNat 64 (leNat bs), keep, last }, s)
  else
    let (x, s1) := takeFree 64 s
    ({ data := BitVec.ofNat 64 (leNat bs + x.toNat / 2 ^ (8 * k) * 2 ^ (8 * k)), keep, last }, s1)

/-- Push the record's elements, word by word, until the chain has accepted the last byte or is full. -/
def streamOutLoop (tag : Nat) : Nat → State → State
  | 0, s => s
  | fuel + 1, s =>
    match findOp s tag with
    | none => s
    | some o =>
      let t := o.tensor 1
      let m := o.target
      let x := getPort s m
      if t.count ≤ o.cursor then freePort m (endOp tag { cursor := o.cursor } s)
      else if x.full && !x.drop then fabricWait tag s
      else
        let n := min (8 / o.portElem t) (t.count - o.cursor)
        match outBytes s o t n o.cursor with
        | .error e => stopOp tag e false s
        | .ok (bs, fls) =>
          let (w, s1) := packWord bs (o.lastWord && decide (o.cursor + n = t.count)) s
          let s2 := fls.zipIdx.foldl (fun s f => flagElem tag (t.runPos (o.cursor + f.2)) f.1 noK s) s1
          streamOutLoop tag fuel (pushWord m w (updOp tag (fun o => { o with cursor := o.cursor + n }) s2))

/-- STREAM_OUT pushes the record into a sink port's chain. -/
def streamOutOp (tag : Nat) (o : Op) (s : State) : State :=
  withPort tag o (streamOutLoop tag ((o.tensor 1).count + 1)) s

/-! ### Memory ports (R362) -/

/-- BIND_MEM. -/
def bindMemOp (tag : Nat) (o : Op) (s : State) : State :=
  let m := o.target
  let x := getPort s m
  match x.bound with
  | some g => if g = groupOf o.queue then endOp tag {} s else refuseOp tag 0x21 s
  | none => endOp tag {} (setPort s m { x with
      bound := some (groupOf o.queue)
      bindWho := { asid := o.asid, func := o.func, pasid := o.pasid, prio := o.prio,
                   unit := (0x70 + m / 64) * 0x100 + m % 64 } })

/-- UNBIND: no later request finds the port bound, and it ends when those outstanding are answered (log entry 34). -/
def unbindOp (tag : Nat) (o : Op) (s : State) : State :=
  let m := o.target
  endUnbind m (fabricWait tag (setPort s m { getPort s m with bound := none }))

/-- A request at a memory port; a port holds 32 and takes no more until one is answered (R363). A request that crosses a
line is no request of the bundle and is not taken. -/
def memRequest (m : Nat) (r : PortReq) (s : State) : State :=
  let x := getPort s m
  if x.dir ≠ 3 ∨ r.len = 0 ∨ 64 < r.addr % 64 + r.len then s
  else if 32 ≤ x.reqs.length then emit (.queueWaits m) s
  else
    let s1 := setPort s m { x with reqs := x.reqs ++ [{ r with who := x.bound.map (fun _ => x.bindWho) }] }
    if x.reqs.isEmpty then retryPort m s1 else s1

/-! ### User serial lanes (R366, R367) -/

def getUserLane (s : State) (n : Nat) : UserLane := tget (dflt {}) s.mid.lanes n
def setUserLane (s : State) (n : Nat) (x : UserLane) : State :=
  { s with mid := { s.mid with lanes := tset (dflt {}) s.mid.lanes n x } }

/-- LANE_UP begins training, once no other LANE_UP trains the lane. -/
def laneUpOp (tag : Nat) (o : Op) (s : State) : State :=
  let n := o.target
  let x := getUserLane s n
  let busy : Bool := match x.training with
    | some t => match findOp s t with
      | some p => decide (p.phase ≠ .done)
      | none => false
    | none => false
  if busy then updOp tag (fun o => { o with started := false }) s
  else
    let c := o.laneCfg
    fabricWait tag (setUserLane s n { x with
      up := false, training := some tag, rate := bits c 0 2, code := bit c 2, loopback := bit c 3, regTaps := bit c 4
      taps := if bit c 4 then (x.pre, x.post) else Config.laneTaps s.mid.frames n })

/-- LANE_DOWN stops a lane. -/
def laneDownOp (tag : Nat) (o : Op) (s : State) : State :=
  endOp tag {} (setUserLane s o.target { getUserLane s o.target with up := false, training := none })

/-- A lane locks. -/
def laneLockOp (n : Nat) (s : State) : State :=
  let x := getUserLane s n
  match x.training with
  | some tag =>
    let s1 := setUserLane s n { x with up := true, training := none }
    match findOp s tag with
    | some o => if o.phase = .done then s else endOp tag {} s1
    | none => s
  | none => s

/-- The time of a FABRIC passes without a word, or without lock (R359, R360, R366). -/
def fabricTimeoutOp (tag : Nat) (s : State) : State :=
  match findOp s tag with
  | none => s
  | some o =>
    if o.opc ≠ 0x38 ∨ o.phase ≠ .waiting then s
    else if o.fkind = 5 then
      let us := if o.fabricUs = 0 then 100000 else o.fabricUs
      let s1 := passTo (o.since + us * 1000) s
      let x := getUserLane s1 o.target
      endOp tag (stopWith 0x31 0 0)
        (if x.training = some tag then setUserLane s1 o.target { x with training := none } else s1)
    else if o.fkind ≤ 2 ∧ o.fabricUs ≠ 0 then
      freePort o.target (endOp tag (stopWith 0x51 o.cursor 0) (passTo (o.since + o.fabricUs * 1000) s))
    else s

/-- A received word enters the FIFO of 64 words, from which the fabric has taken some. -/
def laneRxOp (n : Nat) (w : W64) (taken : Nat) (s : State) : State :=
  let x := getUserLane s n
  if !x.up then s
  else
    let q := x.rx.drop taken
    if q.length < 64 then setUserLane s n { x with rx := q ++ [w] }
    else
      let l := s.ice.now
      setUserLane { s with ice := { s.ice with now := { l with laneOver := tadd l.laneOver n 1 } } } n
        { x with rx := q, overrun := satAdd 0xFFFF x.overrun 1 }

/-- A lane sends the next word that the fabric has supplied, or a fill. -/
def laneTxOp (n : Nat) (ws : List W64) (s : State) : State :=
  let x := getUserLane s n
  if !x.up then s
  else match (x.tx ++ ws).take 64 with
    | w :: rest => emit (.laneWord n (some w)) (setUserLane s n { x with tx := rest })
    | [] =>
      let l := s.ice.now
      emit (.laneWord n (if x.code then none else some 0x5555555555555555))
        (setUserLane { s with ice := { s.ice with now := { l with laneUnder := tadd l.laneUnder n 1 } } } n
          { x with tx := [], underrun := satAdd 0xFFFF x.underrun 1 })

/-! ### Memory blocks and latches (R350, R352, R353) -/

/-- An access to a word of a RAM-mode block. -/
def ramOp (b : Nat) (write : Bool) (a : Nat) (d : BitVec 72) (s : State) : State :=
  let x := tget (dflt {}) s.mid.blocks b
  if !s.mid.loaded || decide (numBlocks s.variant ≤ b) || x.queue || decide (2 ^ (13 - x.shape) ≤ a) then s
  else if write then
    let v := BitVec.ofNat 72 (d.toNat % 2 ^ (9 * 2 ^ x.shape))
    let y : MidBlock := { x with words := tset (dflt 0) x.words a v }
    { s with mid := { s.mid with blocks := tset (dflt {}) s.mid.blocks b y } }
  else emit (.ramWord b (tget (dflt 0) x.words a)) s

/-! ### Pins and pacers (R364, R365, R368) -/

/-- A level change at a pin becomes a request event in the fabric; a fast-path pin reaches its column besides (R365, R369). -/
def pinChangeOp (n : Nat) (level : Bool) (s : State) : State :=
  let x := getPin s n
  let s1 := setPin s n { x with level }
  if numBanks s.variant * 24 ≤ n then s
  else if x.level != level && s.mid.loaded && bankOn s (n / 24) then
    let s2 := emit (.pinEvent n level false) s1
    if fastPin n then settleFast (pinDie n) s2 else s2
  else s1

/-- A bank's supply arrives or leaves: its outputs are driven again, and its inputs present 0 while it is absent. -/
def bankOp (b mv : Nat) (s : State) : State :=
  if numBanks s.variant ≤ b then s
  else
    let was := bankOn s b
    let s1 := { s with mid := { s.mid with banks := tset (dflt 0) s.mid.banks b mv } }
    if was = bankOn s1 b ∨ s.mid.loaded = false then s1
    else settleFast (b / 2) ((List.range 24).foldl (fun s i =>
      let n := 24 * b + i
      let x := getPin s n
      let s2 := match x.drive with
        | some v => if was then s else emit (.pinEvent n v true) s
        | none => s
      if x.level then emit (.pinEvent n (!was) false) s2 else s2) s1)

def getPacer (s : State) (n : Nat) : Pacer := tget (dflt {}) s.mid.pacers n
def setPacer (s : State) (n : Nat) (x : Pacer) : State :=
  { s with mid := { s.mid with pacers := tset (dflt {}) s.mid.pacers n x } }

/-- A pacer-timed pin takes the value prepared for it. -/
def drivePin (n : Nat) (v : Bool) (s : State) : State :=
  let s1 := setPin s n { getPin s n with drive := some v }
  if numBanks s.variant * 24 ≤ n then s
  else if bankOn s (n / 24) then emit (.pinEvent n v true) s1 else s1

/-- A pacer-timed cell samples its pin through the pin's arbiter (R365, R368). -/
def samplePin (n : Nat) (s : State) : State :=
  if numBanks s.variant * 24 ≤ n then s else emit (.pinEvent n ((getPin s n).level && bankOn s (n / 24)) false) s

/-- A tick raises REQ, or is counted as missed while the tick before is not acknowledged, and at it the pacer-timed pins
move and are sampled. -/
def pacerTickOp (n : Nat) (acked : Bool) (drive : List (Nat × Bool)) (sample : List Nat) (s : State) : State :=
  let x := getPacer s n
  if !x.running then s
  else
    let s1 := if x.waiting && !acked then setPacer s n { x with missed := satAdd (2 ^ 32 - 1) x.missed 1 }
      else emit (.pacerReq n) (setPacer s n { x with waiting := true })
    sample.foldl (fun s k => samplePin k s) (drive.foldl (fun s d => drivePin d.1 d.2 s) s1)

/-- Calibration against the module reference. -/
def pacerCalOp (n deviation : Nat) (s : State) : State :=
  let x := getPacer s n
  if x.running then setPacer s n { x with calOk := decide (deviation ≤ 100) } else s

/-! ### Queue chains from the fabric side (R354, R357) -/

/-- The operation that holds a port takes what has come: a tile's ring at once, a stream when its row runs it. -/
def afterPush (m : Nat) (s : State) : State :=
  s.tiles.foldl (fun s e => if e.2.run.kind = 2 && e.2.run.ctrs.any (fun c => c.2.bound = 2 && c.2.src = m)
    then pumpRings e.1 s else s) s

/-- The number of the queue that a block heads without a queue port: after those of the ports (R354). -/
def freeQueueOf (b : Nat) : Nat := 256 + b

/-- A word pushed into the chain of a queue. -/
def pushOp (m : Nat) (w : PortWord) (s : State) : State :=
  if (getPort s m).blocks = 0 then s else afterPush m (pushWord m w s)

/-- A word popped from it. -/
def popOp (m : Nat) (s : State) : State := if (getPort s m).blocks = 0 then s else popWordOp m s

/-- A word at a source port. -/
def portWordOp (m : Nat) (w : PortWord) (s : State) : State :=
  if (getPort s m).dir = 1 then pushOp m w s else s

/-! ### Loads (R361, R370) -/

/-- The end of a stream at a port for the operation that holds it: a source ends early, a sink is aborted, a ring's
counter is final. -/
def endStreamAt (m : Nat) (s : State) : State :=
  let close (r : VecRun) (tag : Nat) : VecRun :=
    if r.op = tag then { r with ctrs := r.ctrs.map (fun c =>
      (c.1, if c.2.bound = 2 && c.2.src = m then { c.2 with ended := true } else c.2)) } else r
  match portHolder s m with
  | none => s
  | some tag => match findOp s tag with
    | none => s
    | some o =>
      if o.opc = 0x38 then
        endOp tag (stopWith (if o.fkind = 1 then 0x41 else 0x50) o.cursor 0) s
      else { s with
        tiles := s.tiles.map (fun e => (e.1, { e.2 with run := close e.2.run tag }))
        contexts := s.contexts.map (fun c => { c with run := c.run.map (fun r => close r tag) }) }

/-- A load ends every stream and binding at every port (R361). -/
def endStreams (s : State) : State :=
  s.mid.ports.foldl (fun s e =>
    let s1 := endStreamAt e.1 s
    endUnbind e.1 (setPort s1 e.1 { getPort s1 e.1 with holder := none, bound := none, reqs := [] })) s

/-- The whole Midway is cleared (R370). Its counters and taps stay. -/
def clearMidway (s : State) : State :=
  let m := s.mid
  let s1 := { s with mid := { m with loaded := false, latches := [], blocks := [] } }
  let s2 := m.ports.foldl (fun s e => setPort s e.1 { dropped := if e.1 < 256 then e.2.dropped else 0 }) s1
  let s3 := m.pacers.foldl (fun s e => setPacer s e.1 { missed := e.2.missed }) s2
  let s4 := m.lanes.foldl (fun s e => setUserLane s e.1
    { overrun := e.2.overrun, underrun := e.2.underrun, post := e.2.post, pre := e.2.pre, taps := e.2.taps }) s3
  m.pins.foldl (fun s e => setPin s e.1 { level := e.2.level }) s4

/-- The design of the frames takes effect: outputs drive, pacers start and ports report their directions (R370). -/
def startDesign (version : Nat) (s : State) : State :=
  let f := s.mid.frames
  let v := s.variant
  let s1 := { s with mid := { s.mid with loaded := true, version } }
  let s2 := (List.range (numPorts v)).foldl (fun s m =>
    let (dir, drop, n, shape) := Config.portDesign f m
    let n' := min 32 n
    let (level, credits) := Config.queueDesign f m
    setPort s m { getPort s m with dir := dir % 4, drop, blocks := n', words := n' * 2 ^ (13 - shape % 4), level, credits }) s1
  let s3 := (List.range (numBlocks v)).foldl (fun s b =>
    let (queue, shape) := Config.blockDesign f b
    let s' := { s with mid := { s.mid with blocks := tset (dflt {}) s.mid.blocks b { queue, shape := shape % 4 } } }
    match Config.freeQueue f b with
    | some (drop, n) =>
      let (level, credits) := Config.queueDesign f (freeQueueOf b)
      setPort s' (freeQueueOf b) { getPort s' (freeQueueOf b) with
        drop, blocks := min 32 n, words := min 32 n * 2 ^ (13 - shape % 4), level, credits }
    | none => s') s2
  let s4 := (List.range (8 * numDies v)).foldl (fun s n => match Config.pacerDesign f n with
    | some k => setPacer s n { getPacer s n with running := true, freqKhz := max 1000 (min 800000 k) }
    | none => s) s3
  settleAll ((List.range (24 * numBanks v)).foldl (fun s n => match Config.pinDesign f n with
    | some d => drivePin n d s
    | none => s) s4)

/-- Bindings of a function end with its reset (R362). -/
def unbindFunc (func : Nat) (s : State) : State :=
  s.mid.ports.foldl (fun s e =>
    if e.2.bound.isSome && e.2.bindWho.func = func then setPort s e.1 { getPort s e.1 with bound := none } else s) s

/-! ### The commands -/

/-- STREAM_IN (R360). -/
def execStreamIn (op : Nat) (s : State) : Host.Outcome State Fault Refusal := .next (runFabric op 1 (streamInOp op) s)

/-- STREAM_OUT (R360). -/
def execStreamOut (op : Nat) (s : State) : Host.Outcome State Fault Refusal := .next (runFabric op 2 (streamOutOp op) s)

/-- BIND_MEM (R362). -/
def execBindMem (op : Nat) (s : State) : Host.Outcome State Fault Refusal := .next (runFabric op 3 (bindMemOp op) s)

/-- UNBIND (R362). -/
def execUnbind (op : Nat) (s : State) : Host.Outcome State Fault Refusal := .next (runFabric op 4 (unbindOp op) s)

/-- LANE_UP (R366). -/
def execLaneUp (op : Nat) (s : State) : Host.Outcome State Fault Refusal := .next (runFabric op 5 (laneUpOp op) s)

/-- LANE_DOWN (R366). -/
def execLaneDown (op : Nat) (s : State) : Host.Outcome State Fault Refusal := .next (runFabric op 6 (laneDownOp op) s)

/-- LANE_LOCK (R366). -/
def execLaneLock (lane : Nat) (s : State) : Host.Outcome State Fault Refusal := .next (laneLockOp lane s)

/-- FABRIC_TIMEOUT (R360, R366). -/
def execFabricTimeout (op : Nat) (s : State) : Host.Outcome State Fault Refusal := .next (fabricTimeoutOp op s)

/-- QUEUE_PUSH (R354). -/
def execQueuePush (port : Nat) (data : W64) (keep : Nat) (last : Bool) (s : State) : Host.Outcome State Fault Refusal :=
  .next (pushOp port { data, keep, last } s)

/-- QUEUE_POP (R354). -/
def execQueuePop (port : Nat) (s : State) : Host.Outcome State Fault Refusal := .next (popOp port s)

/-- RAM_ACCESS (R352, R353). -/
def execRamAccess (block : Nat) (write : Bool) (addr : Nat) (data : BitVec 72) (s : State) :
    Host.Outcome State Fault Refusal := .next (ramOp block write addr data s)

/-- PORT_WORD (R356, R357). -/
def execPortWord (port : Nat) (data : W64) (keep : Nat) (last : Bool) (s : State) : Host.Outcome State Fault Refusal :=
  .next (portWordOp port { data, keep, last } s)

/-- MEM_PORT_REQUEST (R363). -/
def execMemPortRequest (port : Nat) (addr : W64) (len : Nat) (write : Bool) (data : List Byte) (enables : W64)
    (s : State) : Host.Outcome State Fault Refusal :=
  .next (memRequest port { who := none, addr := addr.toNat, len, write, data, enables := enables.toNat } s)

/-- PIN_CHANGE (R365). -/
def execPinChange (pin : Nat) (level : Bool) (s : State) : Host.Outcome State Fault Refusal :=
  .next (pinChangeOp pin level s)

/-- BANK_SUPPLY_CHANGE (R364). -/
def execBankSupplyChange (bank millivolts : Nat) (s : State) : Host.Outcome State Fault Refusal :=
  .next (bankOp bank millivolts s)

/-- PACER_TICK (R368). -/
def execPacerTick (pacer : Nat) (acked : Bool) (drive : List (Nat × Bool)) (sample : List Nat) (s : State) :
    Host.Outcome State Fault Refusal := .next (pacerTickOp pacer acked drive sample s)

/-- PACER_CALIBRATE (R368). -/
def execPacerCalibrate (pacer deviation : Nat) (s : State) : Host.Outcome State Fault Refusal :=
  .next (pacerCalOp pacer deviation s)

/-- LANE_RX_WORD (R367). -/
def execLaneRxWord (lane : Nat) (word : W64) (taken : Nat) (s : State) : Host.Outcome State Fault Refusal :=
  .next (laneRxOp lane word taken s)

/-- LANE_TX_WORD (R367). -/
def execLaneTxWord (lane : Nat) (words : List W64) (s : State) : Host.Outcome State Fault Refusal :=
  .next (laneTxOp lane words s)

/-- LATCH_CAPTURE (R350). -/
def execLatchCapture (cell : Nat) (req : Bool) (ones : List Nat) (s : State) : Host.Outcome State Fault Refusal :=
  .next (latchOp cell req ones s)

end Sys2Proof.Machine
end

