-- ==== Sys2Proof/Machine/Queues.lean ====
section
/-! DEFINITION. Queues: the fetch of descriptors, the end of faults, statistics records and completion entries (R70 to R73,
R185 to R187, R245, R246, R268, R271, R283 to R287). -/

namespace Sys2Proof.Machine

/-! ### Fetch (R268, R273) -/

/-- Slots of a descriptor by its opcode (R273). -/
def slotsOfOpc (c : Nat) : Nat := if c ∈ [0x10, 0x12, 0x20, 0x28, 0x30, 0x38, 0x40, 0x50] then 2 else 1

/-- Who reads and writes a queue's rings: the host interface under its group's binding. -/
def ringWho (s : State) (q : Nat) : Who :=
  { bindWho (getGroup s (groupOf q)).active.bind with prio := (getQueue s q).entry.priority }

/-- Slots announced and not fetched. -/
def announced (x : Queue) : Nat := (x.tail + 2 ^ x.entry.sqLog2 - x.head) % 2 ^ x.entry.sqLog2

/-- The address of a slot. -/
def slotAddr (x : Queue) (i : Nat) : Nat := x.entry.sqBase + 64 * (i % 2 ^ x.entry.sqLog2)

/-- Whether a commit keeps a queue from fetching (R265): those that it affects, and all of its group while its table has not been
read (log entry 54). -/
def heldBack (s : State) (q : Nat) : Bool :=
  let g := getGroup s (groupOf q)
  g.snapshot.isSome && (g.tableWait.isSome || decide (q % 64 ∈ g.held))

/-- Whether the whole descriptor at the head is announced, as far as its first slot can be read. -/
def wholeAnnounced (s : State) (q : Nat) : Bool :=
  let x := getQueue s q
  let need := match readV s (ringWho s q) (slotAddr x x.head) 1 with
    | .ok bs => slotsOfOpc (fieldAt bs 0 1)
    | .error _ => 1
  decide (need ≤ announced x)

/-- Whether a queue has an announced descriptor and room for one more in flight (R258, R268, R271, R323). -/
def fetchable (s : State) (q : Nat) : Bool :=
  let x := getQueue s q
  let b := (getGroup s (groupOf q)).active.bind
  s.st.ready && !bit s.noc.errLog 63 && x.entry.enable && !x.stopped && x.waitAddr.isNone && bindEnable b &&
    !(getFunc s (bindFunc b)).d3hot && !heldBack s q && decide ((s.ops.filter (fun o => o.queue = q)).length < 256) &&
    decide (0 < announced x) && wholeAnnounced s q

/-- The queues that can fetch, each with its priority and its group's WEIGHT. -/
def fetchClaims (s : State) : List Claim :=
  ((s.queues.map (·.1)).filter (fetchable s)).map (fun q =>
    { prio := (getQueue s q).entry.priority, group := groupOf q, weight := bindWeight (getGroup s (groupOf q)).active.bind, id := q })

/-- One grant of the fetch arbiter (R185, R268). -/
def grant (s : State) : Option (Nat × Arbiter) := arbGrant (fetchClaims s) s.arb

/-- The status that an access would have given. -/
def stopStatus : Stop → Nat
  | .fault st _ => st
  | _ => 0x30

/-- A ring cannot be reached: it waits for what resolves, or the queue stops (R271). -/
def ringStop (q : Nat) (w : Who) (write : Bool) (e : Stop) (s : State) : State :=
  match e with
  | .wait k a => startWait w write k a (setQueue s q { getQueue s q with waitAddr := some a })
  | _ => stopQueue q (stopStatus e) e.addr (recordStop w e s)

/-- The bytes of the descriptor at the head of a queue. -/
def readDesc (q : Nat) (s : State) : Except Stop (List Byte) × State :=
  let x := getQueue s q
  let w := ringWho s q
  match readRM w (slotAddr x x.head) 64 3 s with
  | (.error e, s1) => (.error e, s1)
  | (.ok bs, s1) =>
    if slotsOfOpc (fieldAt bs 0 1) = 2 then
      match readRM w (slotAddr x (x.head + 1)) 64 3 s1 with
      | (.error e, s2) => (.error e, s2)
      | (.ok cs, s2) => (.ok (bs ++ cs), s2)
    else (.ok bs, s1)

/-- Fetch the descriptor at the head of a queue. -/
def fetchFrom (q : Nat) (s : State) : State :=
  match readDesc q s with
  | (.error e, s1) => ringStop q (ringWho s q) false e s1
  | (.ok desc, s1) =>
    let x := getQueue s1 q
    let b := (getGroup s1 (groupOf q)).active.bind
    let o : Op := { tag := s1.nextTag, queue := q, slot := x.head, desc, asid := bindAsid b, func := bindFunc b
                    pasid := bindPasid b, prio := x.entry.priority, since := s1.time }
    let s2 := setQueue { s1 with ops := s1.ops ++ [o], nextTag := s1.nextTag + 1 } q
      { x with head := (x.head + desc.length / 64) % 2 ^ x.entry.sqLog2 }
    advanceQueue q s2

/-- The host interface grants a queue. -/
def fetchOp (s : State) : State :=
  match grant s with
  | none => s
  | some (q, a) => fetchFrom q { s with arb := a }

/-! ### Faults that resolve (R203, R236, R245, R246) -/

/-- A suspended operation goes on. -/
def resumeOpAfter (tag : Nat) (s : State) : State :=
  match findOp s tag with
  | none => s
  | some o => advanceQueue o.queue (freeSlots (fun t => t = tag) (updOp tag (fun o => { wake o with since := s.time }) s))

/-- Whether the fault of an operation is the next that the Ringmaster resolves: none of its kind has a higher priority (R184,
R245). -/
def resolvesNext (o : Op) (s : State) : Bool :=
  !s.ops.any (fun x => x.phase = .suspended && x.wait = o.wait && decide (o.prio < x.prio))

/-- The fault of an operation resolves: a first touch is backed, a migration completes, and anything else goes on when its
access can be made. An operation that is to be validated again is. -/
def faultResolvedOp (tag : Nat) (s : State) : State :=
  match findOp s tag with
  | none => s
  | some o =>
    if o.phase = .suspended then
      match translate s (whoOf o) o.waitWrite o.faultAddr with
      | .wait .backing =>
        if !resolvesNext o s then s
        else match backRegion o.asid o.faultAddr (o.unit = 1) s with
        | some s1 => resumeOpAfter tag s1
        | none => stopOp tag (.fault 0x12 o.faultAddr) o.waitWrite s
      | .wait .migration =>
        if !resolvesNext o s then s
        else match migrationAt s o.asid o.faultAddr with
        | some m => resumeOpAfter tag (finishMigration m s)
        | none => s
      | .wait _ => s
      | _ => resumeOpAfter tag s
    else if o.phase = .gated then advanceQueue o.queue s
    else s

/-! ### The end of an operation (R56, R70 to R73, R187) -/

/-- STATS_ADDR of an operation; 0: none. -/
def Op.statsAddr (o : Op) : Nat :=
  let c := o.opc
  if c ∈ [0x01, 0x02, 0x19, 0x1A, 0x40] then o.fld 32 8
  else if c = 0x03 ∨ c = 0x38 then o.fld 24 8
  else if c ∈ [0x10, 0x12, 0x21, 0x30] then o.fld 40 8
  else if c = 0x18 then o.fld 48 8
  else if c = 0x28 then o.fld 56 8
  else 0

/-- Whether a descriptor uses a record field on this device. -/
def Op.hasRec (o : Op) (k : Nat) : Bool := o.recFields.any (fun x => x.1 == k)

/-- The destinations that statistics are gathered over, by the number of their record (R70, R151, R162). An operation with
no destination here (TILEPROG with OUT 0, STREAM_OUT, PUT, a collective's other member) writes no record, whatever its
STATS_ADDR: the manual does not say what such a record would hold (DESIGN CHOICE, log entry 18). -/
def Op.statsOver (o : Op) : List (Nat × Tensor) :=
  if o.opc = 0x28 then
    [(0, o.tensor 2), (1, o.tensor 3), (2, o.tensor 1)] ++ (if o.hasRec 5 then [(3, o.tensor 5)] else [])
  else if o.opc = 0x21 then [(0, o.kvTensor false), (1, o.kvTensor true)]
  else if o.opc = 0x40 ∧ o.fld 48 1 = 0x10 then []
  else match o.dests.head? with
    | some k => if o.hasRec k then [(0, o.tensor k)] else []
    | none => []

/-- Whether every element of a destination was delivered (R71). -/
def allDelivered (s : State) (o : Op) (t : Tensor) (st : Stats) : Bool :=
  decide (o.result.status < 0x10) &&
    (if o.opc = 0x30 then decide (t.count ≤ st.elements + st.nonfinite)
     else if o.opc ≤ 2 ∧ o.fld 48 1 = 2 then
       (List.range t.count).all (fun i => (List.range (o.tensor 1).count).any (fun n => match indexAt s o n with
         | .ok j => decide (j = i)
         | .error _ => false))
     else true)

/-- The destination's format and stamp that a record shows: open where the destination's record was never read (log entry
18). -/
def statsTensor (o : Op) (t : Tensor) (s : State) : Tensor × State :=
  if o.valid || decide (t ≠ parseTensor []) then (t, s)
  else
    let (f, s1) := takeFree 8 s
    let (m, s2) := takeFree 32 s1
    ({ t with format := f.toNat, stamp := m.toNat }, s2)

/-- Write the statistics records of an operation that are not written yet, each once (R73). -/
def writeStats (o : Op) : List (Nat × Tensor) → State → Option Stop × State
  | [], s => (none, s)
  | (i, t) :: rest, s =>
    let st := tget (dflt {}) o.stats i
    let (u, s0) := statsTensor o t s
    let (bs, s1) := statsBytes u (allDelivered s o t st) st s0
    match writeRM (whoOf o) (o.statsAddr + 64 * i) bs 3 s1 with
    | (none, s2) => writeStats o rest (updOp o.tag (fun o => { o with statsSent := o.statsSent + 1 }) s2)
    | (some e, s2) => (some e, s2)

/-- Whether an operation writes statistics: a descriptor that names a record, whatever its status but DESCRIPTOR_INVALID and
UNSUPPORTED (R73). One that ended before it was validated writes a record too, over no element, unless its STATS_ADDR would
have failed validation (R70; log entry 18). -/
def Op.gathers (o : Op) : Bool :=
  o.statsAddr != 0 && o.statsAddr % 64 == 0 && o.result.status != 0x10 && o.result.status != 0x11

/-- What an operation held is given back: runs, blocks, contexts, locks, trees, its place in a sweep and its step of a ring,
and its part of a collective. -/
def letGo (o : Op) (s : State) : State :=
  let s1 := freeParts o.tag (dropLocks o.tag (killRuns o.tag (collLeave o s)))
  let p := s1.place
  let sweeps := (p.sweeps.map (fun e => (e.1, { e.2 with ops := e.2.ops.filter (fun t => decide (t ≠ o.tag)) }))).filter
    (fun e => !e.2.ops.isEmpty)
  { s1 with place := { p with
      trees := (p.trees.map (fun e => (e.1, { e.2 with ops := e.2.ops.filter (fun t => decide (t ≠ o.tag)) }))).filter
        (fun e => !e.2.ops.isEmpty)
      sweeps := sweeps
      rings := p.rings.map (fun e => (e.1, if e.2.op = o.tag then { e.2 with op := 0, phases := [] } else e.2)) } }

/-- An operation is no longer in flight. -/
def dropOp (tag : Nat) (s : State) : State :=
  match findOp s tag with
  | none => s
  | some o =>
    let s1 := letGo o s
    releaseImages { s1 with ops := s1.ops.filter (fun x => decide (x.tag ≠ tag)) }

/-- The completion of an operation begins: what its runs delivered counts, and they end (R56). -/
def closeRuns (o : Op) (s : State) : State := if o.closing = 0 then killRuns o.tag s else s

/-- The statistics of an ended operation are written; a stop of that write ends an operation that had gone well (R73,
R245). -/
def closeStats (o : Op) (s : State) : State :=
  let mark (n : Nat) (s : State) : State := updOp o.tag (fun o => { o with closing := n }) s
  if !o.gathers then mark 2 s
  else match writeStats o (o.statsOver.drop o.statsSent) s with
    | (none, s1) => mark 2 { s1 with fills := [] }
    | (some (.wait k a), s1) =>
      startWait (whoOf o) true k a (updOp o.tag (fun o =>
        { o with closing := 1, phase := .suspended, wait := some k, waitWrite := true, faultAddr := a }) s1)
    | (some e, s1) =>
      mark 2 (if o.result.status < 0x10 then stopOp o.tag e true s1 else recordStop (whoOf o) e s1)

/-- DONE_TRN arrives, and the operation takes its place among the completions of its queue (R187, R283). The flags of a
block that was delivered in part count (R56). -/
def closeArrive (o : Op) (s : State) : State :=
  let s0 := if o.subKey = 0 then s else partDone o.tag (o.subKey - 1) s
  let s1 := { updOp o.tag (fun o => { o with closing := 3 + s.nextOrder }) s0 with nextOrder := s.nextOrder + 1 }
  if o.finalStatus < 0x10 then doneArrival o s1 else s1

/-! ### Completion entries (R271, R284, R285) -/

/-- The bytes of the primary entry. -/
def primaryEntry (o : Op) (head : Nat) (phase : Bool) : List Byte :=
  let st := o.finalStatus
  leBytes 16 o.offender ++ leBytes 4 o.flaggedBlocks ++ leBytes 2 o.flags ++ leBytes 1 st ++ leBytes 1 o.result.subcode ++
    leBytes 2 o.slot ++ leBytes 2 head ++ leBytes 2 (o.fld 6 2) ++
    leBytes 1 (o.queue % 64 + (if 0x10 ≤ st then 64 else 0)) ++ leBytes 1 (if phase then 128 else 0)

/-- The bytes of the continuation entry. -/
def contEntry (o : Op) (phase : Bool) : List Byte :=
  leBytes 8 (o.result.cursor % 2 ^ 48) ++ leBytes 8 o.result.faultAddr ++ leBytes 8 o.result.detail ++ leBytes 2 o.slot ++
    leBytes 4 0 ++ leBytes 1 (o.queue % 64 + 128) ++ leBytes 1 (if phase then 128 else 0)

/-- The operation leaves, and later descriptors of its queue may be validated. -/
def retireOp (o : Op) (s : State) : State :=
  advanceQueue o.queue (dropOp o.tag (setQueue s o.queue { getQueue s o.queue with lastEnd := s.time }))

/-- Write a completion at the tail of its ring, once enough entries are free; a ring whose write failed takes no more. -/
def writeEntries (o : Op) (s : State) : State :=
  let q := o.queue
  let x := getQueue s q
  let size := 2 ^ x.entry.cqLog2
  let need := if 0x10 ≤ o.finalStatus then 2 else 1
  let ahead := s.ops.any (fun y => y.queue = q && decide (3 ≤ y.closing ∧ y.closing < o.closing))
  if x.ringFailed then retireOp o s
  else if x.waitAddr.isSome ∨ ahead ∨ size - 1 - cqUsed x < need then s
  else
    let w := ringWho s q
    let at_ (i : Nat) : Nat := x.entry.cqBase + 32 * ((x.cqTail + i) % size)
    let phaseAt (i : Nat) : Bool := if x.cqTail + i < size then x.phase else !x.phase
    let fail (e : Stop) (s : State) : State := match e with
      | .wait _ _ => ringStop q w true e s
      | _ =>
        let s1 := ringStop q w true e s
        retireOp o (setQueue s1 q { getQueue s1 q with ringFailed := true })
    let r := if need = 2 then writeRM w (at_ 1) (contEntry o (phaseAt 1)) 3 s else (none, s)
    match r with
    | (some e, s1) => fail e s1
    | (none, s1) =>
      match writeRM w (at_ 0) (primaryEntry o x.head x.phase) 3 s1 with
      | (some e, s2) => fail e s2
      | (none, s2) =>
        let y := getQueue s2 q
        let s3 := setQueue { s2 with fills := [] } q { y with cqTail := (x.cqTail + need) % size, phase := phaseAt need }
        retireOp o (countIrq q (bit o.dflags 0) s3)

/-- Do the next part of an operation's end. -/
def atClosing (tag : Nat) (p : Nat → Bool) (f : Op → State → State) (s : State) : State :=
  match findOp s tag with
  | some o => if o.phase = .done && p o.closing then f o s else s
  | none => s

/-- The completion of an operation that has ended: statistics, arrival, entries, interrupt. -/
def completionOp (tag : Nat) (s : State) : State :=
  atClosing tag (fun n => decide (3 ≤ n)) writeEntries
    (atClosing tag (fun n => n = 2) closeArrive
      (atClosing tag (fun n => decide (n ≤ 1)) closeStats (atClosing tag (fun n => n = 0) closeRuns s)))

/-! ### The commands -/

/-- FETCH_DESCRIPTOR (R268). -/
def execFetchDescriptor (s : State) : Host.Outcome State Fault Refusal := .next (fetchOp s)

/-- COMPLETION_WRITE (R271, R283 to R285). -/
def execCompletionWrite (op : Nat) (s : State) : Host.Outcome State Fault Refusal := .next (completionOp op s)

/-- FAULT_RESOLVED (R246). -/
def execFaultResolved (op : Nat) (s : State) : Host.Outcome State Fault Refusal := .next (faultResolvedOp op s)

end Sys2Proof.Machine
end

