-- ==== Sys2Proof/Machine/Trips.lean ====
section
/-! DEFINITION. What ends all work: the thermal trip with the governor's sample, and the failure of an on-chip link (R22 to
R26, R322, R323). -/

namespace Sys2Proof.Machine

/-- Every operation in flight completes with ABORTED, as far as its completion can still be written (R26, R323). -/
def abortAll (s : State) : State :=
  (s.ops.map (·.tag)).foldl (fun s t => completionOp t s) (endAllOps 0x50 s)

/-- The thermal trip at 115 °C, in the order of R26; it begins the thermal hold (R420, R438). -/
def thermalTrip (sensor : Nat) (temp : Int) (s : State) : State :=
  let s1 := abortAll s
  let s2 := record 0x0103 0x01 (leBytes 2 sensor ++ leBytes 1 (wrapInt 8 temp) ++ leBytes 1 0) s1
  let l := s2.ice.now
  removeVcore { s2 with
    pwr := { s.pwr with thermN := false }
    st := { s2.st with thermalHold := true }
    ice := { s2.ice with now := { l with thermalTrips := l.thermalTrips + 1 } } }

/-- Limiting by heat begins above 105 °C, with its record, and ends when every sensor reads 103 °C or less; VCORE and issue
then return under the cap (R26). -/
def judgeHeat (s : State) : State :=
  let p := s.pwr
  match hottest p.temps with
  | none => s
  | some (k, c) =>
    if 105 < c ∧ p.thermalLimit = false then
      record 0x0102 0x01 (leBytes 2 k ++ leBytes 1 (wrapInt 8 c)) { s with pwr := { p with thermalLimit := true } }
    else if p.thermalLimit ∧ anyAbove p.temps 103 = false then
      { s with pwr := { p with thermalLimit := false, capStage := stageLeft p } }
    else s

/-- What the governor does at a sample of a draw while VCORE is on (R22 to R26). -/
def governorAct (watts : Nat) (s : State) : State :=
  match (hottest s.pwr.temps).filter (fun x => decide (115 ≤ x.2)) with
  | some (k, c) => thermalTrip k c s
  | none =>
    let s1 := judgeHeat s
    showStage { s1 with pwr := limitBoth watts s1.pwr }

/-- Every 100 µs the governor samples (R22). Input power counts into the running 10 ms window, with VCORE off too (R28). Heat
is judged with VCORE off as well, so limiting and its WARN record begin at a sample in standby too: the manual does not bind
them to VCORE (DESIGN CHOICE, log entry 14). -/
def governorSampleOp (watts millivolts : Nat) (temps : List (Nat × Int)) (s : State) : State :=
  if !s.st.standbyDone then s
  else
    let s1 := passTo (s.pwr.lastSample + 100000) s
    let p := s1.pwr
    let p1 := { p with
      lastSample := s1.time
      supplyMv := millivolts
      temps := temps.foldl (fun t (x : Nat × Int) => tinsert x.1 x.2 t) p.temps
      winSum := p.winSum + watts
      winCount := p.winCount + 1 }
    let p2 := { p1 with
      overCount := p1.overCount + (if effectiveCap p1 < watts then 1 else 0)
      overRun := if effectiveCap p1 < watts then p1.overRun + 1 else 0
      under5 := p1.under5 && decide (20 * watts ≤ 19 * effectiveCap p1) }
    let s2 := countThermalCycle { s1 with pwr := p2 }
    if p2.vcoreMv = 0 then showStage (judgeHeat s2) else governorAct watts s2

/-! ### On-chip links (R322, R323) -/

/-- A flit fails its check on a link between two neighbours, or between a router and its port: it is replayed, and
after 8 replays in a row the link has failed; NOC_ERR_LOG keeps the first failure (R312, R322, R323). -/
def flitCrcOp (source target net inject replay : Nat) (s : State) : State :=
  if !(decide (source = target) && isNode s.variant source || linked s.variant source target) || decide (4 ≤ net) then s
  else if replay < 8 then
    let k := 4 * source + net
    emit (.nocReplay source target net) { s with noc := { s.noc with
      replays := tset (dflt 0) s.noc.replays k (satAdd 0xFF (tget (dflt 0) s.noc.replays k) 1) } }
  else
    let log := 2 ^ 63 + net % 4 * 2 ^ 61 + b2n (crosses source target) * 2 ^ 60 + source % 512 * 2 ^ 40 +
      target % 512 * 2 ^ 31 + inject % 512
    let s1 := record 0x0801 0x06 (leBytes 8 log) (abortAll s)
    if bit s.noc.errLog 63 then s1 else { s1 with noc := { s1.noc with errLog := log } }

/-! ### The commands -/

/-- GOVERNOR_SAMPLE (R22 to R26). -/
def execGovernorSample (watts millivolts : Nat) (temps : List (Nat × Int)) (s : State) :
    Host.Outcome State Fault Refusal :=
  .next (governorSampleOp watts millivolts temps s)

/-- FLIT_CRC_FAIL (R322, R323). -/
def execFlitCrcFail (source target net inject replay : Nat) (s : State) :
    Host.Outcome State Fault Refusal :=
  .next (flitCrcOp source target net inject replay s)

end Sys2Proof.Machine
end

