-- ==== Sys2Proof/Machine/Streams.lean ====
section
/-! DEFINITION. Ororin streams: layout, keys and the checks of R382 in the order of their subcodes (R372 to R379, R382,
R383, R390). -/

namespace Sys2Proof.Machine

/-! ### Layout (R372 to R374) -/

/-- DETAIL: the offset of the failing item and its segment, 0xFFFF for the header or the signature block (R382). -/
def streamItem (off seg : Nat) : Nat := off % 2 ^ 48 + seg % 2 ^ 16 * 2 ^ 48
def headItem (off : Nat) : Nat := streamItem off 0xFFFF

/-- Fields of the header. -/
def strKind (b : List Byte) : Nat := fieldAt b 11 1
def strPartial (b : List Byte) : Bool := bit (fieldAt b 29 1) 0
def strRegions (b : List Byte) : Nat := fieldAt b 30 2
def strLen (b : List Byte) : Nat := fieldAt b 32 8
def strSegments (b : List Byte) : Nat := fieldAt b 40 4

/-- The largest stream (R372). -/
def strTop : Nat := 3 * 2 ^ 30

/-- A segment: its number, the offset of its header, PAYLOAD_LEN. -/
abbrev Seg := Nat × Nat × Nat

/-- Where the part after a segment begins. -/
def segNext (g : Seg) : Nat := ceilDiv (g.2.1 + 64 + g.2.2) 64 * 64

/-- The segments whose headers are there, up to the first that does not end within the bytes. -/
def segWalk (b : List Byte) : Nat → Nat → Nat → List Seg
  | 0, _, _ => []
  | n + 1, i, off =>
    if b.length < off + 64 then []
    else
      let g : Seg := (i, off, fieldAt b (off + 8) 8)
      if b.length < off + 64 + g.2.2 then [g] else g :: segWalk b n (i + 1) (segNext g)

def segsOf (b : List Byte) : List Seg := segWalk b (strSegments b) 0 1024

/-- Where the signature block begins, when every segment is there. -/
def sigAt (b : List Byte) : Nat := match (segsOf b).getLast? with
  | some g => segNext g
  | none => 1024

/-- Type, tag, ciphertext and associated data of a segment. -/
def segType (b : List Byte) (g : Seg) : Nat := fieldAt b g.2.1 1
def segTag (b : List Byte) (g : Seg) : List Byte := (b.drop (g.2.1 + 16)).take 16
def segText (b : List Byte) (g : Seg) : List Byte := (b.drop (g.2.1 + 64)).take g.2.2
def segAad (b : List Byte) (g : Seg) : List Byte := (b.drop g.2.1).take 16

/-- Whether a segment type is allowed (R374, R375). -/
def typeOk (b : List Byte) (t : Nat) : Bool :=
  if strKind b = 1 then t = 0x10 && !strPartial b
  else if strPartial b then t = 1 || t = 5
  else decide (1 ≤ t ∧ t ≤ 5)

/-! ### 0x02 FORMAT, 0x03 DEVICE, 0x04 TRUNCATED -/

/-- The header fields that the format fixes, in order, with whether each keeps it. -/
def headChecks (b : List Byte) : List (Nat × Bool) :=
  let n := strRegions b
  [(0, decide (fieldAt b 0 4 = 0x4E49524F)), (4, decide (fieldAt b 4 2 = 1)), (6, decide (fieldAt b 6 2 = 1024)),
   (11, decide (strKind b ≤ 1)), (29, decide (fieldAt b 29 1 ≤ 1)),
   (30, if strPartial b then decide (1 ≤ n ∧ n ≤ 64) else decide (n = 0)), (32, decide (strLen b ≤ strTop)),
   (40, if strKind b = 1 then decide (strSegments b = 1) else decide (1 ≤ strSegments b ∧ strSegments b ≤ 65535)),
   (44, zeros b 44 48), (88, zeros b 88 96), (104, zeros b 104 512)] ++
  (List.range 64).map (fun i => (512 + 8 * i,
    if i < n then zeros b (513 + 8 * i) (514 + 8 * i) && zeros b (518 + 8 * i) (520 + 8 * i)
    else zeros b (512 + 8 * i) (520 + 8 * i)))

/-- The fields of a segment header, and the padding behind its payload. -/
def segChecks (b : List Byte) (g : Seg) : List (Nat × Bool) :=
  let (i, off, len) := g
  [(off, typeOk b (segType b g)), (off + 1, zeros b (off + 1) (off + 4)), (off + 4, decide (fieldAt b (off + 4) 4 = i)),
   (off + 8, decide (1 ≤ len ∧ len ≤ 2 ^ 26)), (off + 32, zeros b (off + 32) (off + 64)),
   (off + 64 + len, zeros b (off + 64 + len) (segNext g))]

/-- The first of some checks that fails. -/
def firstFail (l : List (Nat × Bool)) : Option Nat := (l.find? (fun c => !c.2)).map (·.1)

/-- Whether every segment is there whole. -/
def allThere (b : List Byte) : Bool :=
  decide ((segsOf b).length = strSegments b) && (segsOf b).all (fun g => decide (g.2.1 + 64 + g.2.2 ≤ b.length))

/-- FORMAT: header, segments in order, signature block. A stream whose parts end before STREAM_LEN has a wrong length. -/
def formatBad (b : List Byte) : Option Nat :=
  if b.length < 1024 then none
  else match firstFail (headChecks b) with
    | some off => some (headItem off)
    | none =>
      match (segsOf b).findSome? (fun g => (firstFail (segChecks b g)).map (fun off => streamItem off g.1)) with
      | some d => some d
      | none =>
        if !allThere b then none
        else if sigAt b + 512 < strLen b then some (headItem 32)
        else if zeros b (sigAt b + 265) (sigAt b + 512) then none else some (headItem (sigAt b + 265))

/-- DEVICE. -/
def deviceBad (s : State) (b : List Byte) : Option Nat :=
  (firstFail [(8, decide (fieldAt b 8 2 = 0x9F00)), (10, decide (fieldAt b 10 1 = variantCode s.variant)),
    (12, decide (fieldAt b 12 4 = s.fused.family)), (16, decide (fieldAt b 16 8 = 0 ∨ fieldAt b 16 8 = s.fused.serial))]).map headItem

/-- TRUNCATED: the first part that does not end within the bytes. -/
def truncBad (b : List Byte) : Option Nat :=
  if b.length < 1024 then some (headItem 0)
  else match (segsOf b).find? (fun g => decide (b.length < g.2.1 + 64 + g.2.2)) with
    | some g => some (streamItem g.2.1 g.1)
    | none =>
      if (segsOf b).length < strSegments b then some (streamItem (sigAt b) (segsOf b).length)
      else if b.length < sigAt b + 512 then some (headItem (sigAt b))
      else none

/-! ### 0x05 KEY, 0x06 SIGNATURE, 0x07 TAG (R377 to R379, R390) -/

/-- Public key, r and s of a signature block. -/
def sigKey (b : List Byte) : List Byte := (b.drop (sigAt b)).take 133
def sigRs (b : List Byte) : List Byte := (b.drop (sigAt b + 133)).take 132

/-- KEY. -/
def keyBad (s : State) (b : List Byte) : Option Nat :=
  let h := Config.sha512 (sigKey b)
  if strKind b = 1 then (if h = Config.rootKeyHash then none else some (headItem (sigAt b)))
  else if !slotUsable s (fieldAt b 28 1) then some (headItem 28)
  else if h = (getSlot s (fieldAt b 28 1)).hash then none else some (headItem (sigAt b))

/-- The stream digest D. -/
def streamDigest (b : List Byte) : BitVec 512 := Config.sha512 (b.take 1024 ++ (segsOf b).flatMap (segTag b))

/-- SIGNATURE. -/
def signatureBad (b : List Byte) : Option Nat :=
  if Config.ecdsaVerify (sigKey b) (streamDigest b) (sigRs b) then none else some (headItem (sigAt b))

/-- Open the segments one after another under the chain of keys; or the segment whose tag fails. -/
def openSegs (b : List Byte) : List Byte → List Seg → Except Nat (List (Seg × List Byte))
  | _, [] => .ok []
  | key, g :: gs =>
    match Config.gcmOpen key ((b.drop 96).take 8 ++ leBytes 4 g.1) (segAad b g) (segText b g) (segTag b g) with
    | none => .error (streamItem g.2.1 g.1)
    | some p =>
      let next := (leBytes 64 (Config.hmacSha512 key (segTag b g ++ leBytes 4 (g.1 + 1))).toNat).take 32
      (openSegs b next gs).map (fun l => (g, p) :: l)

/-- TAG: the plaintexts. -/
def openStream (s : State) (b : List Byte) : Except Nat (List (Seg × List Byte)) :=
  let kek := if strKind b = 1 then Config.firmwareKek else (getSlot s (fieldAt b 28 1)).kek
  match Config.keyUnwrap kek ((b.drop 48).take 40) with
  | none => .error (headItem 48)
  | some k0 => openSegs b k0 (segsOf b)

/-! ### 0x08 CONTENT, 0x0C ROLLBACK, 0x09 REGION (R376, R383, R390) -/

/-- A frame or mask record: frame key, bits, and its item. -/
structure FrameRec where
  key : Nat
  bits : List Byte
  item : Nat
  deriving DecidableEq, Repr

/-- Frames are keyed by die, booth and frame. -/
def frameKey (die booth frame : Nat) : Nat := 40000 * die + 40 * booth + frame

/-- The records of a plaintext, or the item that is malformed. -/
def frameRecs (s : State) (g : Seg) : Nat → List Byte → Nat → Except Nat (List FrameRec)
  | 0, _, _ => .ok []
  | fuel + 1, p, off =>
    if p.isEmpty then .ok []
    else
      let item := streamItem off g.1
      let die := fieldAt p 0 1
      let frame := fieldAt p 1 1
      let booth := fieldAt p 2 2
      if p.length < 1288 ∨ numDies s.variant ≤ die ∨ 40 ≤ frame ∨ 1000 ≤ booth ∨ !zeros p 4 8 then .error item
      else (frameRecs s g fuel (p.drop 1288) (off + 1288)).map (fun l =>
        { key := frameKey die booth frame, bits := (p.drop 8).take 1280, item } :: l)

/-- The records of all segments of a type. -/
def recsOfType (s : State) (b : List Byte) (t : Nat) : List (Seg × List Byte) → Except Nat (List FrameRec)
  | [] => .ok []
  | (g, p) :: rest =>
    if segType b g = t then
      match frameRecs s g (p.length / 1288 + 1) p (g.2.1 + 64) with
      | .error e => .error e
      | .ok l => (recsOfType s b t rest).map (fun m => l ++ m)
    else recsOfType s b t rest

/-- CONTENT of one segment. -/
def contentBad (s : State) (b : List Byte) (x : Seg × List Byte) : Option Nat :=
  let t := segType b x.1
  let at_ := streamItem (x.1.2.1 + 64) x.1.1
  if t = 1 ∨ t = 5 then
    match frameRecs s x.1 (x.2.length / 1288 + 1) x.2 (x.1.2.1 + 64) with
    | .error e => some e
    | .ok _ => none
  else if t = 0x10 then (if x.2.length < 4 ∨ 63 < fieldAt x.2 0 4 then some at_ else none)
  else if Config.tivikTablesOk t x.2 then none else some at_

/-- Whether a frame lies within what a stream must hold: its regions, or every frame of every die (R383). -/
def inRegions (b : List Byte) (key : Nat) : Bool :=
  !strPartial b || (List.range (strRegions b)).any (fun i =>
    let r := (b.drop (512 + 8 * i)).take 8
    let booth := key % 40000 / 40
    decide (key / 40000 = fieldAt r 0 1) && decide (fieldAt r 2 2 ≤ booth ∧ booth ≤ fieldAt r 4 2))

/-- A record outside the regions, or one that names a frame again. -/
def strayRec (b : List Byte) : List Nat → List FrameRec → Option Nat
  | _, [] => none
  | seen, r :: rs => if !inRegions b r.key || decide (r.key ∈ seen) then some r.item else strayRec b (r.key :: seen) rs

/-- REGION: exactly one record for every frame, at most one mask record. A frame that no record names is the header's
failing item. -/
def regionBad (s : State) (b : List Byte) (fs ms : List FrameRec) : Option Nat :=
  match strayRec b [] fs with
  | some d => some d
  | none => match strayRec b [] ms with
    | some d => some d
    | none =>
      if (List.range (40000 * numDies s.variant)).all (fun k => !inRegions b k || fs.any (fun r => r.key = k)) then none
      else some (headItem 30)

/-! ### All checks (R382) -/

/-- A rejection: subcode, DETAIL, and the digest where it was computed. -/
structure Rejection where
  sub : Nat
  detail : Nat := 0
  digest : Option (BitVec 512) := none
  deriving DecidableEq, Repr

/-- The first of some checks that rejects. -/
def firstReject (l : List (Nat × Option Nat)) : Option (Nat × Nat) :=
  l.findSome? (fun c => c.2.map (fun d => (c.1, d)))

/-- The checks that need plaintext, once the signature has verified. -/
def checkPlain (s : State) (b : List Byte) : Except (Nat × Nat) CfgStream :=
  match openStream s b with
  | .error d => .error (7, d)
  | .ok l =>
    match l.findSome? (contentBad s b) with
    | some d => .error (8, d)
    | none =>
      let done : CfgStream := { bytes := b, firmware := strKind b = 1, partly := strPartial b, version := fieldAt b 24 4,
                                segs := l.map (fun x => (segType b x.1, x.2)), digest := streamDigest b }
      if strKind b = 1 then
        if (l.head?.map (fun x => fieldAt x.2 0 4)).getD 0 < s.cfg.fuseSvn then .error (0x0C, streamItem (1024 + 64) 0)
        else .ok done
      else match recsOfType s b 1 l, recsOfType s b 5 l with
        | .ok fs, .ok ms => match regionBad s b fs ms with
          | some d => .error (9, d)
          | none => .ok done
        | _, _ => .error (8, headItem 0)

/-- Check a copied stream in the order of the subcodes. -/
def checkStream (s : State) (b : List Byte) : Except Rejection CfgStream :=
  match firstReject [(2, formatBad b), (3, if b.length < 1024 then none else deviceBad s b), (4, truncBad b)] with
  | some (c, d) => .error { sub := c, detail := d }
  | none => match firstReject [(5, keyBad s b)] with
    | some (c, d) => .error { sub := c, detail := d }
    | none => match signatureBad b with
      | some d => .error { sub := 6, detail := d, digest := some (streamDigest b) }
      | none => match checkPlain s b with
        | .error (c, d) => .error { sub := c, detail := d, digest := some (streamDigest b) }
        | .ok x => .ok x

end Sys2Proof.Machine
end

