-- ==== Sys2Proof/Machine/ConfigLoad.lean ====
section
/-! DEFINITION. Configuration and security: CFG_LOAD, CFG_COMMIT, CFG_REVERT, taking effect, boot, scrubbing, keys
and attestation (R380 to R396). -/

namespace Sys2Proof.Machine

/-! ### Rejection (R382, R384) -/

/-- Record a rejection; the last subcode stands in CFG_STATUS. -/
def recordReject (boot : Bool) (r : Rejection) (s : State) : State :=
  let sev := if r.sub ∈ [5, 6, 7, 0x0C] then 6 else if boot then 4 else 3
  let dig := match r.digest with
    | some d => (leBytes 64 d.toNat).take 32
    | none => fill 32 0
  recordSev 0x0B01 sev 0x04 (leBytes 1 r.sub ++ leBytes 7 0 ++ leBytes 8 r.detail ++ dig)
    { s with cfg := { s.cfg with lastSub := r.sub } }

/-- End an operation with CFG_REJECTED. -/
def rejectCfg (tag : Nat) (r : Rejection) (addr : Nat) (s : State) : State :=
  endOp tag { status := 0x60, subcode := r.sub, detail := r.detail, faultAddr := addr } (recordReject false r s)

/-- Begin a CFG operation in the order of validation, one at a time; else it waits (R380). -/
def cfgTurn (tag : Nat) (o : Op) (f : State → State) (s : State) : State :=
  if s.ops.any (fun x => x.valid && decide (0x60 ≤ x.opc ∧ x.opc ≤ 0x62) && decide (x.order < o.order)) then
    updOp tag (fun o => { o with started := false }) s
  else f s

/-! ### CFG_LOAD (R381) -/

/-- Forget the staged stream and give its area back. -/
def unstage (s : State) : State := { s with cfg := { s.cfg with staged := none, stageArea := none } }

/-- Take the staging area from tier one, unless it is held. -/
def takeArea (s : State) : Option State :=
  if s.cfg.stageArea.isSome then some s
  else (placeInterleaved s 0 (2 ^ 33) (2 ^ 21)).map (fun a => { s with cfg := { s.cfg with stageArea := some a } })

/-- The stream in the slot area that holds a role; none: the area is empty. -/
def roleStream (s : State) (role : Nat) : Option CfgStream := tfind (s.cfg.roles.getD role 0) s.cfg.areas

/-- The item at an offset of a stream of which a number of bytes have been copied. -/
def copyItem (b : List Byte) (off : Nat) : Nat :=
  match (segsOf (b.take off)).reverse.find? (fun g => decide (g.2.1 ≤ off ∧ off < segNext g)) with
  | some g => streamItem off g.1
  | none => headItem off

/-- Copy the stream from memory: its header gives how much is wanted, at most what is there. -/
def copyMem (o : Op) (src len : Nat) (s : State) : Except Stop (List Byte) × State :=
  let w := checkWho o
  match readRM w src (min len 1024) 3 s with
  | (.error e, s1) => (.error e, s1)
  | (.ok h, s1) =>
    let n := min len (min (strLen h) strTop)
    if n ≤ 1024 then (.ok (h.take (if len < 1024 then len else max n 1024)), s1)
    else readRM w src n (touchFuel n) s1

/-- The staged copy passes or not. -/
def stageCopy (tag : Nat) (b : List Byte) (go : CfgStream → State → State) (s : State) : State :=
  match checkStream s b with
  | .error r => rejectCfg tag r 0 (unstage s)
  | .ok x => go x { s with cfg := { s.cfg with staged := some x, stageId := (s.cfg.stageId + 1) % 2 ^ 32 } }

/-- Load a stream from a flash role. -/
def loadFlash (tag role : Nat) (flashOk : Bool) (go : CfgStream → State → State) (s : State) : State :=
  match roleStream s role with
  | some x => if flashOk then stageCopy tag x.bytes go s else rejectCfg tag { sub := 1, detail := headItem 0 } 0 (unstage s)
  | none => rejectCfg tag { sub := 1, detail := headItem 0 } 0 (unstage s)

/-- CFG_LOAD. -/
def cfgLoadOp (tag : Nat) (flashOk : Bool) (o : Op) (s : State) : State :=
  match takeArea { s with cfg := { s.cfg with staged := none } } with
  | none => refuseOp tag 0x12 s
  | some s1 =>
    let done (_ : CfgStream) (s : State) : State := endOp tag {} s
    let source := o.fld 32 1
    if source ≠ 0 then loadFlash tag (source - 1) flashOk done s1
    else
      let src := o.fld 16 8
      match copyMem o src (o.fld 24 8) s1 with
      | (.ok b, s2) => stageCopy tag b done s2
      | (.error (.wait k a), s2) => stopOp tag (.wait k a) false s2
      | (.error e, s2) =>
        let a := e.addr
        let off := match e with
          | .fault _ _ => a - src
          | _ => 0
        let seen := match readV s2 (checkWho o) src (min off strTop) with
          | .ok b => b
          | .error _ => []
        rejectCfg tag { sub := 1, detail := copyItem (seen ++ fill 64 0) off } a (recordStop (checkWho o) e (unstage s2))

/-! ### CFG_COMMIT, CFG_REVERT and taking effect (R385 to R388, R390) -/

/-- A configuration begins to take effect: no operation starts from here (R386 step 1). -/
def beginApply (tag from_ : Nat) (s : State) : State :=
  updOp tag (fun o => { o with phase := .waiting, since := s.time })
    { s with cfg := { s.cfg with applying := some tag, applyFrom := from_, applySince := s.time } }

/-- The role map after a store: active, previous, golden, staging (R387). -/
def mapAfterStore (golden : Bool) (l : List Nat) : List Nat :=
  let (a, p, g, st) := (l.getD 0 0, l.getD 1 0, l.getD 2 0, l.getD 3 0)
  if golden then [a, p, st, g] else [st, a, g, p]

/-- Store the staged configuration stream (R387). -/
def storeConfig (x : CfgStream) (golden : Bool) (s : State) : State :=
  let area := s.cfg.roles.getD 3 0
  let s1 := countErase 6 (countErase area s)
  { s1 with cfg := { s1.cfg.putRoles (mapAfterStore golden s1.cfg.roles) with areas := tinsert area x s1.cfg.areas } }

/-- Store the staged firmware into the area that does not run (R390). -/
def storeFirmware (x : CfgStream) (s : State) : State :=
  let img := (x.segs.head?.map (·.2)).getD []
  let (build, proto) := Config.firmwareBuild img
  let fw : FwImage := { svn := fieldAt img 0 4, build, proto, image := img, order := s.cfg.fwStores }
  let area := 1 - s.cfg.fwArea
  let l := s.ice.now
  let s1 := countErase (4 + area) { s with ice := { s.ice with now := { l with fwStores := tadd l.fwStores area 1 } } }
  { s1 with cfg := { s1.cfg with fwStores := s1.cfg.fwStores + 1, fwA := if area = 0 then some fw else s1.cfg.fwA
                                 fwB := if area = 1 then some fw else s1.cfg.fwB } }

/-- The configuration of a stream takes effect: frames and maps, tables, microcode, defaults (R375, R386, R392). -/
def installStream (x : CfgStream) (role from_ : Nat) (s : State) : State :=
  let part (t : Nat) : Option (List Byte) := if x.segs.any (fun g => g.1 = t) then
      some ((x.segs.filter (fun g => g.1 = t)).flatMap (·.2)) else none
  let recs (t : Nat) : List FrameRec := (x.segs.filter (fun g => g.1 = t)).flatMap (fun g =>
    match frameRecs s (0, 0, 0) (g.2.length / 1288 + 1) g.2 0 with
    | .ok l => l
    | .error _ => [])
  let put (l : List FrameRec) (t : Table (List Byte)) : Table (List Byte) := l.foldl (fun t r => tinsert r.key r.bits t) t
  let fs := recs 1
  let s1 := clearMidway (endStreams s)
  let m := s1.mid
  let kept := if x.partly then m.masks.filter (fun e => !fs.any (fun r => r.key = e.1)) else []
  let s2 := { s1 with
    mid := { m with frames := put fs (if x.partly then m.frames else []), masks := put (recs 5) kept }
    cfg := { s1.cfg with
      seqTables := (part 2).getD s1.cfg.seqTables
      microcode := if hasFloe s.variant then (part 3).getD s1.cfg.microcode else s1.cfg.microcode
      defaults := (part 4).getD s1.cfg.defaults
      version := x.version, digest := x.digest, role := role, inEffect := true } }
  record 0x0B02 0x04 (leBytes 4 x.version ++ leBytes 1 from_ ++ leBytes 3 0 ++ (leBytes 64 x.digest.toNat).take 32)
    (startDesign x.version s2)

/-- A configuration was applied from a slot area (R412). -/
def countLoad (area : Nat) (s : State) : State :=
  let l := s.ice.now
  { s with ice := { s.ice with now := { l with cfgLoads := tadd l.cfgLoads area 1 } } }

/-- Whether a stream carries only Midway segments (R386). -/
def midwayOnly (x : CfgStream) : Bool := x.segs.all (fun g => g.1 = 1 || g.1 = 5)

/-- Whether operations other than one are in flight. -/
def othersRun (s : State) (tag : Nat) : Bool :=
  s.ops.any (fun o => decide (o.tag ≠ tag) && o.started && decide (o.phase ≠ .done))

/-- Flags of CFG_COMMIT. -/
def Op.cApply (o : Op) : Bool := bit (o.fld 20 1) 0
def Op.cStore (o : Op) : Bool := bit (o.fld 20 1) 1
def Op.cGolden (o : Op) : Bool := bit (o.fld 20 1) 2

/-- CFG_COMMIT. -/
def cfgCommitOp (tag : Nat) (flashOk : Bool) (o : Op) (s : State) : State :=
  match s.cfg.staged with
  | none => rejectCfg tag { sub := 0x0A } 0 s
  | some x =>
    let id := o.fld 16 4
    if id ≠ 0 ∧ id ≠ s.cfg.stageId then rejectCfg tag { sub := 0x0A } 0 s
    else if x.firmware then
      if o.cStore && flashOk then endOp tag {} (unstage (storeFirmware x s)) else rejectCfg tag { sub := 0x0B } 0 s
    else if (o.cStore && (x.partly || !flashOk)) || (o.cGolden && !s.cfg.golden) || o.fld 20 1 = 0 then
      rejectCfg tag { sub := 0x0B } 0 s
    else
      let s1 := if o.cStore then storeConfig x o.cGolden s else s
      if o.cApply then beginApply tag 4 s1
      else endOp tag {} (if o.cStore then unstage s1 else s1)

/-- CFG_REVERT loads a role as CFG_LOAD does and applies it. -/
def cfgRevertOp (tag : Nat) (flashOk : Bool) (o : Op) (s : State) : State :=
  let role := if o.fld 16 1 = 0 then 1 else 2
  if (roleStream s role).isNone then rejectCfg tag { sub := 0x0B } 0 s
  else match takeArea { s with cfg := { s.cfg with staged := none } } with
    | none => refuseOp tag 0x12 s
    | some s1 => loadFlash tag role flashOk (fun _ s => beginApply tag role s) s1

/-- What runs after a commit or a revert, and the role map. -/
def rolesAfter (o : Op) (from_ : Nat) (s : State) : Nat × State :=
  if from_ = 1 then
    let l := s.cfg.roles
    let s1 := countErase 6 (countLoad (l.getD 1 0) s)
    (0, { s1 with cfg := s1.cfg.putRoles [l.getD 1 0, l.getD 0 0, l.getD 2 0, l.getD 3 0] })
  else if from_ = 2 then (2, countLoad (s.cfg.roles.getD 2 0) s)
  else (if o.cStore then (if o.cGolden then 2 else 0) else 3, s)

/-- Steps 2 to 6: once nothing else runs, or at once for Midway segments alone. -/
def cfgApplyOp (s : State) : State :=
  match s.cfg.applying with
  | none => s
  | some tag =>
    match findOp s tag, s.cfg.staged with
    | some o, some x =>
      if !midwayOnly x && othersRun s tag then s
      else
        let (role, s1) := rolesAfter o s.cfg.applyFrom s
        let s2 := installStream x role s.cfg.applyFrom s1
        endOp tag {} (unstage { s2 with cfg := { s2.cfg with applying := none } })
    | _, _ => { s with cfg := { s.cfg with applying := none } }

/-- DRAIN_US expires: nothing is applied and the stream stays staged. -/
def cfgDrainOp (s : State) : State :=
  match s.cfg.applying with
  | none => s
  | some tag =>
    match findOp s tag with
    | some o =>
      let us := if o.opc = 0x61 then o.fld 24 4 else 0
      if us = 0 ∨ othersRun s tag = false then s
      else
        let s1 := passTo (s.cfg.applySince + us * 1000) s
        endOp tag (stopWith 0x51 0 0) { s1 with cfg := { s1.cfg with applying := none } }
    | none => { s with cfg := { s.cfg with applying := none } }

/-! ### Boot (R389, R391) -/

/-- The image that the boot ROM runs: its area and the image. -/
def chooseFirmware (s : State) : Option (Nat × FwImage) :=
  let okay (f : Option FwImage) : Option FwImage := f.filter (fun x => decide (s.cfg.fuseSvn ≤ x.svn))
  match okay s.cfg.fwA, okay s.cfg.fwB with
  | some a, some b => if b.svn < a.svn ∨ (b.svn = a.svn ∧ b.order < a.order) then some (0, a) else some (1, b)
  | some a, none => some (0, a)
  | none, some b => some (1, b)
  | none, none => none

/-- Try the roles in order; an empty area is passed over (log entry 35). -/
def bootRoles : List Nat → State → State
  | [], s => record 0x0B05 0x04 [] { s with cfg := { s.cfg with
      role := 3, inEffect := false, version := 0, digest := 0, seqTables := [], microcode := [], defaults := [] } }
  | r :: rs, s =>
    match roleStream s r with
    | none => bootRoles rs s
    | some x => match checkStream s x.bytes with
      | .error e => bootRoles rs (recordReject true e s)
      | .ok y =>
        let s1 := installStream y r r (countLoad (s.cfg.roles.getD r 0) s)
        { s1 with cfg := { s1.cfg with fallback := decide (r ≠ 0) } }

/-! ### Scrubbing (R392) -/

/-- Whether a configuration bit is essential. -/
def essentialBit (s : State) (key b : Nat) : Bool :=
  match tfind key s.mid.masks with
  | some m => bit (fieldAt m (b / 8) 1) (b % 8)
  | none => true

/-- One upset that a pass meets. -/
def upset (x : Nat × Nat × Nat × Nat) (s : State) : State :=
  let (kind, die, booth, fb) := x
  let frame := fb / 10240
  let key := frameKey die booth frame
  let where_ (k : Nat) : List Byte := leBytes 1 die ++ leBytes 1 frame ++ leBytes 2 booth ++ leBytes 1 k
  let c := s.cfg
  let more (n : Nat) : Nat := satAdd 0xFFFFFF n 1
  if kind = 1 then
    record 0x0B03 0x04 (where_ 1) { s with cfg := { c with uncorr := satAdd 0xFFFF c.uncorr 1 } }
  else if kind = 4 then record 0x0B04 0x04 (where_ 1) (record 0x0B03 0x04 (where_ 1) s)
  else if kind = 2 ∨ kind = 3 then
    record 0x0B03 0x04 (where_ kind) { s with cfg := { c with essential := more c.essential } }
  else if essentialBit s key (fb % 10240) then
    record 0x0B03 0x04 (where_ 0) { s with cfg := { c with essential := more c.essential } }
  else { s with cfg := { c with nonessential := more c.nonessential, rewrite := insertNat key c.rewrite } }

/-- A pass: the frames noted by the last one are rewritten at its start. The steps of R386 during which the scrubber pauses are one
command here. -/
def scrubOp (found : List (Nat × Nat × Nat × Nat)) (s : State) : State :=
  if !s.cfg.scrubOn || !s.st.ready then s
  else found.foldl (fun s x => upset x s) { s with cfg := { s.cfg with rewrite := [] } }

/-! ### Security (R391, R393 to R396) -/

/-- A write of SEC_CTRL. -/
def secCtrlOp (v : Nat) (s : State) : State :=
  let c := s.cfg
  let s1 := { s with cfg := { c with golden := bit v 30, provision := bit v 29 } }
  if bit v 31 && decide (c.fuseSvn < c.running.svn) then
    record 0x0C01 0x04 (leBytes 1 c.fuseSvn ++ leBytes 1 c.running.svn)
      { s1 with cfg := { s1.cfg with fuseSvn := c.running.svn } }
  else s1

/-- The bytes of a digest or a hash. -/
def digestBytes (d : BitVec 512) : List Byte := leBytes 64 d.toNat

/-- A measurement (R394; the encoding of 1, 4 and 5 is the model's, log entry 36). -/
def measurement (s : State) (i : Nat) : List Byte :=
  let c := s.cfg
  match i with
  | 1 => digestBytes (Config.sha512 (digestBytes Config.rootKeyHash ++
      (List.range 4).flatMap (fun k => digestBytes (getSlot s k).hash ++ leBytes 1 (b2n (getSlot s k).written + 2 * b2n (getSlot s k).revoked)) ++
      leBytes 1 c.fuseSvn))
  | 2 => digestBytes (Config.sha512 c.running.image)
  | 3 => digestBytes (if c.inEffect then c.digest else 0)
  | 4 => leBytes 1 c.role ++ leBytes 1 (b2n c.fallback) ++ leBytes 4 c.version
  | _ => leBytes 1 (b2n c.debugOpen)

/-- The SPDM requests that the responder supports: VERSION, CAPABILITIES, ALGORITHMS, DIGESTS, CERTIFICATE, CHALLENGE,
MEASUREMENTS, KEY_EXCHANGE, FINISH, HEARTBEAT, END_SESSION, vendor defined (R394; the codes are SPDM's). -/
def spdmSupported : List Nat := [0x84, 0xE1, 0xE3, 0x81, 0x82, 0x83, 0xE0, 0xE4, 0xE5, 0xE8, 0xEC, 0xFE]

/-- Answer an SPDM request: slot 0's chain, whole in DIGESTS and the portion asked for in CERTIFICATE, and the value of one
measurement (R393, R394); other answers' bodies are SPDM's and open here; an unsupported request, and a slot other than 0,
are answered with an error (log entry 70). -/
def spdmOp (code index : Nat) (body : List Byte) (s : State) : State :=
  if !s.st.standbyDone then s
  else if code = 0x81 then emit (.spdm 0x01 (digestBytes (Config.sha512 s.cfg.chain))) s
  else if code = 0x82 then
    if index = 0 then emit (.spdm 0x02 ((s.cfg.chain.drop (fieldAt body 0 2)).take (fieldAt body 2 2))) s
    else emit (.spdm 0x7F []) s
  else if code = 0xE0 ∧ 1 ≤ index ∧ index ≤ 5 then emit (.spdm 0x60 (measurement s index)) s
  else if code ∈ spdmSupported then
    let (x, s1) := takeFree 256 s
    emit (.spdm (code - 0x80) (leBytes 32 x.toNat)) s1
  else emit (.spdm 0x7F []) s

/-- IDE streams that a function has enabled. -/
def ideCount (s : State) (func : Nat) : Nat := (s.cfg.ide.filter (fun e => decide (e.1 / 256 = func))).length

/-- IDE_KM programs the key of a selective stream: 4 on the PF, 1 on each VF (R395). -/
def ideOp (func stream : Nat) (inSession good : Bool) (s : State) : State :=
  let k := 256 * func + stream
  let there := (tfind k s.cfg.ide).isSome
  let room := there || decide (ideCount s func < (if func = 0 then 4 else 1))
  if !s.st.standbyDone || !inSession then s
  else if good && room then { s with cfg := { s.cfg with ide := tinsert k 1 s.cfg.ide } }
  else record 0x0C04 0x04 (leBytes 1 stream ++ leBytes 1 func) { s with cfg := { s.cfg with ide := terase k s.cfg.ide } }

/-- Whether a provisioning request is accepted (R396). -/
def provisions (s : State) (inSession : Bool) : Bool := s.st.standbyDone && inSession && s.cfg.provision

/-- Change an owner key slot, with its SECURITY event. -/
def putSlot (act k : Nat) (x : KeySlot) (s : State) : State :=
  record 0x0C03 0x04 (leBytes 1 act ++ leBytes 1 k) { s with cfg := { s.cfg with slots := tset (dflt {}) s.cfg.slots k x } }

/-- A key slot is written once. -/
def writeSlotOp (k : Nat) (kek : BitVec 256) (hash : BitVec 512) (inSession : Bool) (s : State) : State :=
  if provisions s inSession && !(getSlot s k).written then
    putSlot 0 k { kek, hash, written := true, revoked := (getSlot s k).revoked } s
  else s

/-- A revocation cannot be undone. -/
def revokeSlotOp (k : Nat) (inSession : Bool) (s : State) : State :=
  if provisions s inSession then putSlot 1 k { getSlot s k with revoked := true } s else s

/-- Debug unlocking: a token signed with the root key over a device nonce. -/
def debugUnlockOp (key sig : List Byte) (inSession : Bool) (s : State) : State :=
  let (n, s1) := takeFree 256 s
  if provisions s inSession && decide (Config.sha512 key = Config.rootKeyHash) &&
      Config.ecdsaVerify key (Config.sha512 (leBytes 32 n.toNat)) sig then
    record 0x0C03 0x04 (leBytes 1 2 ++ leBytes 1 0) { s1 with cfg := { s1.cfg with debugOpen := true } }
  else s1

/-! ### The commands -/

/-- CFG_LOAD (R380, R381). -/
def execCfgLoad (op : Nat) (flashOk : Bool) (s : State) : Host.Outcome State Fault Refusal :=
  .next (runOp op [0x60] (fun o s => cfgTurn op o (cfgLoadOp op flashOk o) s) s)

/-- CFG_COMMIT (R380, R385). -/
def execCfgCommit (op : Nat) (flashOk : Bool) (s : State) : Host.Outcome State Fault Refusal :=
  .next (runOp op [0x61] (fun o s => cfgTurn op o (cfgCommitOp op flashOk o) s) s)

/-- CFG_APPLY (R386). -/
def execCfgApply (s : State) : Host.Outcome State Fault Refusal := .next (cfgApplyOp s)

/-- CFG_DRAIN_TIMEOUT (R386). -/
def execCfgDrainTimeout (s : State) : Host.Outcome State Fault Refusal := .next (cfgDrainOp s)

/-- CFG_REVERT (R380, R388). -/
def execCfgRevert (op : Nat) (flashOk : Bool) (s : State) : Host.Outcome State Fault Refusal :=
  .next (runOp op [0x62] (fun o s => cfgTurn op o (cfgRevertOp op flashOk o) s) s)

/-- ADVANCE_SVN (R391). -/
def execAdvanceSvn (value : W32) (s : State) : Host.Outcome State Fault Refusal :=
  .next (if s.st.standbyDone then secCtrlOp value.toNat s else s)

/-- SCRUB_PASS (R392). -/
def execScrubPass (found : List (Nat × Nat × Nat × Nat)) (s : State) : Host.Outcome State Fault Refusal :=
  .next (scrubOp found s)

/-- SPDM_REQUEST (R394). -/
def execSpdmRequest (code index : Nat) (body : List Byte) (s : State) : Host.Outcome State Fault Refusal :=
  .next (spdmOp code index body s)

/-- IDE_KM_KEY_PROGRAM (R395). -/
def execIdeKmKeyProgram (func stream : Nat) (inSession ok : Bool) (s : State) : Host.Outcome State Fault Refusal :=
  .next (ideOp func stream inSession ok s)

/-- WRITE_KEY_SLOT (R396). -/
def execWriteKeySlot (slot : Nat) (kek : BitVec 256) (hash : BitVec 512) (inSession : Bool) (s : State) :
    Host.Outcome State Fault Refusal := .next (writeSlotOp slot kek hash inSession s)

/-- REVOKE_SLOT (R396). -/
def execRevokeSlot (slot : Nat) (inSession : Bool) (s : State) : Host.Outcome State Fault Refusal :=
  .next (revokeSlotOp slot inSession s)

/-- DEBUG_UNLOCK (R396). -/
def execDebugUnlock (key sig : List Byte) (inSession : Bool) (s : State) : Host.Outcome State Fault Refusal :=
  .next (debugUnlockOp key sig inSession s)

end Sys2Proof.Machine
end

