-- ==== Sys2Proof/Machine/Startup.lean ====
section
/-! DEFINITION. Start-up and resets: power inputs, the two phases, device, host-interface and function-level resets (R267,
R290, R416 to R424, R432, R437, R438). -/

namespace Sys2Proof.Machine

/-! ### What stays (R401, R402, R411, R422, R437) -/

/-- What no reset and no loss of power takes: the commands that wait, what was sent, fuses, flash and the ledger's copies,
repairs to be made hard (R226), retired Floe engines (log entry 38), and the world outside. -/
def keptAlways (s : State) : State :=
  let softOnly (e : Nat × Stack) : Nat × Stack := (e.1, { softPending := e.2.softPending })
  let slotsOnly (e : Nat × Tile) : Nat × Tile := (e.1, { slots := e.2.slots })
  let retiredOnly (e : Nat × FloeUnit) : Nat × FloeUnit := (e.1, { retired := e.2.retired })
  let levelOnly (e : Nat × Pin) : Nat × Pin := (e.1, { level := e.2.level })
  let c := s.cfg
  { pending := s.pending, outbox := s.outbox, fresh := s.fresh, variant := s.variant, fused := s.fused
    mor := { flash := s.mor.flash, flashStart := s.mor.flashStart, flashEnd := s.mor.flashEnd }
    ice := { copy0 := s.ice.copy0, copy1 := s.ice.copy1 }
    pwr := { supplyMv := s.pwr.supplyMv, temps := s.pwr.temps }
    st := { supplyOk := s.st.supplyOk, perst := s.st.perst }
    resets := s.resets + 1
    hmem := s.hmem
    memStacks := (s.memStacks.map softOnly).filter (fun e => decide (e.2 ≠ {}))
    tiles := (s.tiles.map slotsOnly).filter (fun e => decide (e.2 ≠ {}))
    floe := (s.floe.map retiredOnly).filter (fun e => decide (e.2 ≠ {}))
    mid := { banks := s.mid.banks, pins := (s.mid.pins.map levelOnly).filter (fun e => decide (e.2 ≠ {})) }
    cfg := { areas := c.areas, dir0 := c.dir0, dir1 := c.dir1, fwA := c.fwA, fwB := c.fwB, fuseSvn := c.fuseSvn
             fwStores := c.fwStores, slots := c.slots } }

/-- A ledger without its time counters and what a commit sets (R411). -/
def timeless (l : Ledger) : Ledger :=
  { l with commitSeq := 0, lastCal := 0, poweredNs := 0, standbyNs := 0, thermalLimitNs := 0, doubleRefNs := [], linkUpNs := []
           laneUpNs := [] }

/-- Whatever the ledger counts beside time has been committed within 5 ms of its change (R411; log entry 75). -/
def settleLedger (s : State) : State :=
  if timeless s.ice.now = timeless (iceBest s.ice) then s else iceCommitOp s

/-- MOR_NONCE is random (R415). -/
def newNonce (s : State) : State :=
  let (n, s1) := takeFree 256 s
  { s1 with mor := { s1.mor with nonce := n } }

/-- LAN_CASC_CFG resets from the straps (R338, R347). -/
def fromStraps (s : State) : State :=
  { s with casc := { s.casc with role := s.st.strapRole, ident := s.st.strapId } }

/-- A device reset keeps Ringmaster time, the ring with the pending records appended, the Ice core as committed at the
reset, and the calendar; the straps stay sampled, VSER stays on, and a thermal hold stays (R406, R422, R441). -/
def deviceReset (s0 : State) : State :=
  let s := iceCommitOp (if s0.mor.frozen then unfreeze s0 else s0)
  let k := keptAlways s
  fromStraps (newNonce { k with
    time := s.time
    ice := { s.ice with coldSeen := s.ice.coldSeen }
    mor := { k.mor with nextSeq := s.mor.nextSeq, ring := s.mor.ring, toFlash := s.mor.toFlash }
    pwr := { k.pwr with thermN := s.pwr.thermN, lastSample := s.pwr.lastSample, lastWindow := s.pwr.lastWindow }
    st := { k.st with auxOn := s.st.auxOn, standbyDone := s.st.standbyDone, railsOn := s.st.railsOn
                      thermalHold := s.st.thermalHold, rmDie := s.st.rmDie, excluded := s.st.excluded
                      cause := s.st.cause, deviceResets := s.st.deviceResets
                      strapRole := s.st.strapRole, strapId := s.st.strapId }
    link := { training := s.st.railsOn && !s.st.perst } })

/-! ### The standby phase (R391, R400, R411, R416) -/

/-- The alias key of a firmware, which each boot derives and certifies (R393). -/
def bootAlias (x : FwImage) : List Byte := Config.aliasKey Config.identityKey (Config.sha512 x.image)

/-- Step 0x0002: the boot ROM runs the lowest die's Ringmaster pair that passes its self-test and is not excluded, and
chooses the firmware. Without a valid image, or a pair, nothing goes on (R391, R419, R422). -/
def startFirmware (pairs : List Nat) (s : State) : State :=
  let dead (s : State) : State := { s with st := { s.st with standbyDone := false }, link := {} }
  match (List.range (numDies s.variant)).find? (fun d => decide (d ∈ pairs) && !decide (d ∈ s.st.excluded)) with
  | none => dead s
  | some d =>
    match chooseFirmware s with
    | none => dead (record 0x0C02 0x04 [] s)
    | some (area, x) =>
      { s with
        st := { s.st with rmDie := d, step := 2, standbyDone := true }
        cfg := { s.cfg with fwArea := area, running := x, aliasKey := bootAlias x
                            chain := Config.identityChain s.fused.serial ++ Config.certify Config.identityKey (bootAlias x) } }

/-- Step 0x0003: the ledger and the flash log are read, and STANDBY_ON is written; a reserved role is reported (R338,
R414). -/
def standbyStep (s : State) : State :=
  let l := iceBest s.ice
  let n := l.standbyCycles + 1
  let s1 := { s with ice := { s.ice with now := { l with standbyCycles := n } }, st := { s.st with step := 3 } }
  let s2 := record 0x0E01 0x00 (leBytes 4 n ++ leBytes 4 0 ++ leBytes 8 l.lastCal) s1
  if s2.st.strapRole = 3 then record 0x0904 0x00 [] s2 else s2

/-- The auxiliary input is applied: everything is reset, time starts at 0, and records go on from the last one in
flash. -/
def standbyPhase (role ident : Nat) (pairs : List Nat) (s : State) : State :=
  let k := keptAlways s
  let next := match s.mor.flash.getLast? with
    | some r => (r.2.seq + 1) % 2 ^ 32
    | none => 0
  let s1 := startFirmware pairs (fromStraps (newNonce { k with
    mor := { k.mor with nextSeq := next }
    st := { k.st with auxOn := true, strapRole := role % 4, strapId := ident % 16 } }))
  if s1.st.standbyDone then standbyStep s1 else s1

/-! ### The main phase (R416, R419, R424) -/

/-- Start-up fails: VCORE and VMEM are removed; VSER stays (R419). -/
def failStartup (step code : Nat) (s : State) : State :=
  let s1 := if s.pwr.vcoreMv = 0 then s else removeVcore s
  record 0x0E02 0x00 (leBytes 2 step ++ leBytes 2 code)
    { s1 with st := { s1.st with failed := true, step := step, code := code } }

/-- Step 0x0010: VMEM, VSER and VCORE; the host link trains unless PERST# holds it (R417, R438). -/
def railsStep (s : State) : State :=
  { s with
    pwr := { s.pwr with vcoreMv := 720, pwrGood := true }
    st := { s.st with railsOn := true, step := 0x10 }
    link := if s.link.up then s.link else { s.link with training := !s.st.perst } }

/-- Fuse load and check pattern of a position, with field repairs; one that fails is retired. It has no logical number yet
(R97, R98, R100, R101). -/
def checkPosition (faults : List (Nat × Nat × Nat)) (p : Nat) (s : State) : State :=
  if p ∈ s.ice.now.retiredMap then updTile p (fun t => { t with st := 2 }) s
  else
    match repairAll p (faults.filterMap (fun f => if f.1 = p then some f.2 else none)) s with
    | (none, s1) => updTile p (fun t => { t with st := 3, check := 1 }) s1
    | (some r, s1) => recordRetired p 0xFFFF 0xFFFF r (countRetired p (updTile p (fun t => { t with st := 2, check := 2 }) s1))

/-- The active positions of a die: of those in service, the 64 of lowest index (R424). -/
def activeOfDie (s : State) (d : Nat) : List Nat :=
  (((List.range 72).map (fun i => 72 * d + i)).filter (fun p => (getTile s p).st ≠ 2)).take 64

/-- Step 0x0011: checks and repairs, then active tiles and logical numbers; spares in use stand in the ledger. -/
def tilesStep (faults : List (Nat × Nat × Nat)) (s : State) : State :=
  let s1 := (List.range (numPhys s.variant)).foldl (fun s p => checkPosition faults p s) s
  let act := (List.range (numDies s.variant)).flatMap (activeOfDie s1)
  let s2 := act.zipIdx.foldl (fun s x => updTile x.1 (fun t => { t with st := 0, logical := some x.2 }) s) s1
  let l := s2.ice.now
  let used (d : Nat) : Nat := max (tget (dflt 0) l.sparesUsed d) (act.filter (fun p => p / 72 = d && decide (64 ≤ p % 72))).length
  { s2 with
    ice := { s2.ice with now := { l with sparesUsed := (List.range (numDies s.variant)).foldl (fun t d => tset (dflt 0) t d (used d)) l.sparesUsed } }
    st := { s2.st with step := 0x11 } }

/-- Step 0x0013 for one stack: a stack lost before stays out; training; soft repairs made hard (R226, R227). -/
def trainStack (found : BootFindings) (k : Nat) (s : State) : State :=
  let soft := (getStack s k).softPending
  let l := s.ice.now
  let s1 := { s with ice := { s.ice with now := { l with hardRepairs := if soft = 0 then l.hardRepairs else tadd l.hardRepairs k soft } } }
  if k ∈ l.stackLost then setStack s1 k { lost := true }
  else if k ∈ found.stacksFail then
    let (pc, s2) := takeFree 8 s1
    record 0x0403 (0x20 + k) (leBytes 1 pc.toNat ++ leBytes 1 1) (setStack s2 k {})
  else setStack s1 k { present := true, trained := true, spareMin := ((tfind k found.spareRows).getD 1) }

/-- The stacks present and in service. -/
def stacksIn (s : State) : List Nat :=
  (List.range (numStacks s.variant)).filter (fun k => (getStack s k).present && !(getStack s k).lost)

/-- Step 0x0013. -/
def stacksStep (found : BootFindings) (s : State) : State :=
  let s1 := (List.range (numStacks s.variant)).foldl (fun s k => trainStack found k s) s
  { s1 with st := { s1.st with step := 0x13 } }

/-- Step 0x0014: a Floe engine that fails its test is retired (R145). -/
def floeStep (found : BootFindings) (s : State) : State :=
  found.floeFail.foldl (fun s f =>
    let x := getFloe s f.1
    if !hasFloe s.variant || !(getStack s f.1).present || decide (4 ≤ f.2) || decide (f.2 ∈ x.retired) then s
    else
      let l := s.ice.now
      record 0x0301 (0x40 + f.1) (leBytes 1 f.2 ++ leBytes 1 0)
        (setFloe { s with ice := { s.ice with now := { l with floeRetired := tadd l.floeRetired f.1 1 } } } f.1
          { x with retired := insertNat f.2 x.retired })) s

/-- Step 0x0016: CXLq_PERST_N is released; expanders are bound, at most 4 TiB on a port; other devices are left unbound (R228, R229,
R439). -/
def cxlStep (found : BootFindings) (s : State) : State :=
  let s1 := found.expanders.foldl (fun s e =>
    let (p, width, rate, gib) := e
    if p < numCxl s.variant then setCxl s p { up := true, width, rate, capGib := min 4096 gib } else s)
    { s with st := { s.st with cxlPerst := false } }
  found.strangers.foldl (fun s e =>
    if e.1 < numCxl s.variant then record 0x0404 (0x60 + e.1) (leBytes 1 e.2) s else s) s1

/-- A page of address space 0 is zeroed; a write that waits for the page's migration completes it first (R203, R227, R290). -/
def zeroPage (s : State) (va : Nat) : State :=
  match translate s bar2Who true va with
  | .phys a => zeroPhys a 4096 s
  | _ => (writeRM bar2Who va (List.replicate 4096 0) 3 s).2

/-- The bytes of the default queue's table entry (R290). -/
def defaultEntry : List Byte :=
  leBytes 8 0 ++ leBytes 8 0x40000 ++ leBytes 1 12 ++ leBytes 1 13 ++ leBytes 1 (4 + 2 ^ 7) ++ leBytes 1 1 ++ leBytes 8 0 ++
    leBytes 4 0

/-- Group 0 takes its reset values, and the default queue is prepared in address space 0 (R290). -/
def prepareDefault (s : State) : State :=
  let s1 := (List.range 64).foldl (fun s q => setQueue s q {}) (setGroup s 0 (groupReset 0))
  let s2 := match backRegion 0 0 false s1 with
    | some s2 => s2
    | none => s1
  let s3 := ((List.range 128).map (fun i => 4096 * i)).foldl zeroPage s2
  let s4 := (writeRM bar2Who 0x80000 defaultEntry 3 s3).2
  setQueue s4 0 { entry := parseEntry defaultEntry }

/-- Step 0x0017: address space 0, window 0 over the stacks present, and the default queue (R222, R233, R290, R427). -/
def spaceStep (s : State) : State :=
  let size := (windowReset s.variant 0).active.size
  let here := stacksIn s
  let c : WinCfg := { base := 0, size := here.length * usableBytes, map := maskOf here * 2 ^ 32 + 12 }
  let s1 := setWindow s 0 { active := c, shadow := c }
  prepareDefault { s1 with pages := insertPage { asid := 0, base := 0, len := size, leaf := 21, kind := .reserved
                                                 rd := true, wr := true } s1.pages }

/-- Step 0x0018: links train and the group forms, unless the device is standalone (R339). -/
def cascadeStep (found : BootFindings) (s : State) : State :=
  if roleInUse s = 0 then s
  else formGroup found.peers found.edges found.mirrors
    (found.cascLinks.foldl (fun s l => linkTrainedOp l.1 l.2.1 l.2.2 s) s)

/-- Step 0x0019: READY, and the capabilities are valid (R426). -/
def readyStep (s : State) : State :=
  { s with st := { s.st with ready := true, step := 0x19, tilesActive := (activeTiles s).length
                             capStacks := maskOf (stacksIn s)
                             capFloe := maskOf ((List.range (numStacks s.variant)).filter (floeServes s)) } }

/-- The main phase, in one step of the model (log entry 37). -/
def mainPhase (found : BootFindings) (s : State) : State :=
  if found.railFails then failStartup 0x10 1 { s with st := { s.st with railsOn := true } }
  else
    let s1 := tilesStep found.tileFaults (railsStep s)
    if (activeTiles s1).length < tilesMin s.variant then failStartup 0x11 2 s1
    else if !found.linksTrain then failStartup 0x12 3 s1
    else
      let s2 := stacksStep found s1
      if (stacksIn s2).isEmpty then failStartup 0x13 4 s2
      else readyStep (cascadeStep found (spaceStep (cxlStep found (bootRoles [0, 1, 2] (floeStep found s2)))))

/-- The main phase begins once the standby phase has ended, the supply is in range and no thermal hold is in force
(R416). -/
def mainIfDue (found : BootFindings) (s : State) : State :=
  if s.st.standbyDone && s.st.supplyOk && !s.st.thermalHold then mainPhase found s else s

/-! ### Function-level and host-interface resets (R206, R267, R293, R362, R421, R432) -/

/-- Hints and pins of a function end; pages that another pin covers stay pinned. -/
def endHints (func : Nat) (s : State) : State :=
  let mine := s.place.hints.filter (fun h => h.func = func)
  let rest := s.place.hints.filter (fun h => h.func != func)
  let s1 := { s with place := { s.place with hints := rest } }
  (mine.filter (fun h => h.kind = 3)).foldl (fun s h =>
    let f (r : PRange) : List PRange := [{ r with
      pin := r.leaf = 30 || rest.any (fun g => g.kind = 3 && g.asid = h.asid && decide (g.base ≤ r.base ∧ r.base < g.base + g.len)) }]
    { s with pages := mapRange h.asid h.base (h.base + h.len) f s.pages }) s1

/-- A group of a function that is reset: both copies of ENABLE become 0, and its pin and mode end. -/
def stopGroup (g : Nat) (s : State) : State :=
  let x := getGroup s g
  let off (c : GroupCfg) : GroupCfg := { c with bind := setBits c.bind 63 1 0 }
  setGroup s g { x with active := off x.active, shadow := off x.shadow, tilePin := none, latencyFirst := false }

/-- A function is reset: its descriptors end without entries, its messages are discarded, its groups are disabled, its
bindings, rings of resident weights and Turnstiles end; after a reset of the PF the default queue is prepared again. -/
def functionReset (func : Nat) (s : State) : State :=
  let mine (g : Nat) : Bool := bindFunc (getGroup s g).active.bind = func
  let tags := (s.ops.filter (fun o => mine (groupOf o.queue))).map (fun o => o.tag)
  let s1 := tags.foldl (fun s t => dropOp t s) s
  let s2 := (sortNat (0 :: s.groups.map (·.1))).foldl (fun s g => if mine g then stopGroup g s else s) s1
  let quiet (e : Nat × Queue) : Nat × Queue :=
    if mine (groupOf e.1) then (e.1, { e.2 with irqCount := 0, irqFirst := 0, waitAddr := none }) else e
  let fresh (e : Nat × Turnstile) : Nat × Turnstile := if e.2.owner = func then (e.1, { owner := func }) else e
  let s3 := unbindFunc func (endHints func { s2 with
    queues := s2.queues.map quiet
    trns := (s2.trns.map fresh).filter (fun e => decide (e.2 ≠ {}))
    ats := s2.ats.filter (fun e => e.func != func)
    pris := s2.pris.filter (fun e => e.func != func)
    place := { s2.place with rings := s2.place.rings.filter (fun e => !mine e.1) } })
  let s4 := letIn (setFunc s3 func { getFunc s3 func with pba := [] })
  if func = 0 && s4.st.ready then prepareDefault s4 else s4

/-- The host interface is reset: every function, configuration space, and the link trains again. -/
def hostReset (s : State) : State :=
  let s1 := (List.range 64).foldl (fun s f => functionReset f s) s
  { s1 with
    funcs := []
    link := { training := s.st.railsOn && s.st.standbyDone && !s.st.perst, retrains := satAdd 0xFFFF s.link.retrains 1 } }

/-! ### Device resets (R420 to R424) -/

/-- A request for a device reset. While a thermal hold is in force and a sensor reads above 85 °C it is ignored, but PERST#
resets the host interface; else it ends the hold. -/
def resetRequest (cause : Nat) (found : BootFindings) (s : State) : State :=
  if !s.st.auxOn then s
  else if s.st.thermalHold && anyAbove s.pwr.temps 85 then (if cause = 1 then hostReset s else s)
  else
    let s1 := deviceReset s
    mainIfDue found (startFirmware found.pairsPass { s1 with
      st := { s1.st with cause := cause, deviceResets := satAdd 0xFFFF s1.st.deviceResets 1, thermalHold := false }
      pwr := { s1.pwr with thermN := true } })

/-- The 48 V supply leaves its limits: every 48 V rail is removed, and the device behaves as at a device reset that leaves
CAUSE and DEVICE_RESETS (R437). -/
def supplyLost (s : State) : State :=
  if !s.st.auxOn || !s.st.railsOn then { s with st := { s.st with supplyOk := false } }
  else
    let s1 := startFirmware [s.st.rmDie] (deviceReset s)
    { s1 with st := { s1.st with supplyOk := false, railsOn := false }, link := {} }

/-! ### The commands -/

/-- STANDBY_POWER_ON (R416, R421). -/
def execStandbyPowerOn (role ident : Nat) (found : BootFindings) (s : State) : Host.Outcome State Fault Refusal :=
  .next (mainIfDue found (standbyPhase role ident found.pairsPass s))

/-- P12VAUX_LOSS (R411, R437): every rail goes, and standby state is lost; of the ledger, time counters alone. -/
def execP12vauxLoss (s : State) : Host.Outcome State Fault Refusal := .next (keptAlways (settleLedger s))

/-- P48V_IN_RANGE (R416, R437). -/
def execP48vInRange (found : BootFindings) (s : State) : Host.Outcome State Fault Refusal :=
  .next (
    let s1 := { s with st := { s.st with supplyOk := true } }
    if s.st.railsOn then s1 else mainIfDue found s1)

/-- P48V_BELOW_38V (R437). -/
def execP48vBelow38v (s : State) : Host.Outcome State Fault Refusal := .next (supplyLost s)

/-- P48V_ABOVE_62V (R437): as for a fall below 38 V. -/
def execP48vAbove62v (s : State) : Host.Outcome State Fault Refusal := .next (supplyLost s)

/-- PERST_ASSERT (R421). -/
def execPerstAssert (found : BootFindings) (s : State) : Host.Outcome State Fault Refusal :=
  .next (resetRequest 1 found { s with st := { s.st with perst := true } })

/-- PERST_DEASSERT (R417). -/
def execPerstDeassert (s : State) : Host.Outcome State Fault Refusal :=
  .next { s with
    st := { s.st with perst := false }
    link := if s.st.perst && s.st.railsOn && s.st.standbyDone then { s.link with training := true } else s.link }

/-- HOT_RESET (R421). -/
def execHotReset (s : State) : Host.Outcome State Fault Refusal := .next (if s.st.standbyDone then hostReset s else s)

/-- FUNCTION_LEVEL_RESET (R267). -/
def execFunctionLevelReset (func : Nat) (s : State) : Host.Outcome State Fault Refusal :=
  .next (if s.st.standbyDone && funcEnabled s func then functionReset func s else s)

/-- LOCK_STEP_MISMATCH (R422): the pair is excluded until the next standby power-on. -/
def execLockStepMismatch (found : BootFindings) (s : State) : Host.Outcome State Fault Refusal :=
  .next (
    if !s.st.standbyDone || (s.st.thermalHold && anyAbove s.pwr.temps 85) then s
    else resetRequest 4 found { s with st := { s.st with excluded := insertNat s.st.rmDie s.st.excluded } })

/-- RST_CTRL_DEVICE (R421): a request when KEY holds 0x5A17. -/
def execRstCtrlDevice (value : W32) (found : BootFindings) (s : State) : Host.Outcome State Fault Refusal :=
  .next (
    if s.st.standbyDone && bit value.toNat 31 && decide (bits value.toNat 0 16 = 0x5A17) then resetRequest 2 found s else s)

/-- RESET over the SMBus (R440). -/
def execSmbusReset (key : Nat) (pecOk : Bool) (found : BootFindings) (s : State) : Host.Outcome State Fault Refusal :=
  .next (
    if !s.st.standbyDone then s
    else if !pecOk then emit .smbusNack s
    else if key = 0x5A17 then resetRequest 3 found s else s)

end Sys2Proof.Machine
end

