-- ==== Sys2Proof/Machine/Registers.lean ====
section
/-! DEFINITION. BAR0: every register of the set-up map as 8-byte slots, its reads, read-clears and writes, and the reads of the
SMBus (R6, R13, R14, R28, R107, R140, R165, R192, R207, R237, R262, R293, R310, R325, R347, R371, R397, R412, R415, R418,
R425 to R434, R440). -/

namespace Sys2Proof.Machine

/-! ### Counters whose events stand below the model's steps -/

/-- Read a counter of w bits of a unit: where the unit has worked since the last read, or works now, an open amount is
added first; it wraps, or saturates (R189, R191; log entry 39). -/
def openCounter (key unit w : Nat) (sat now : Bool) (s : State) : Nat × State :=
  let old := tget (dflt 0) s.counters key
  let done := tget (dflt 0) s.works unit
  if !now && done = tget (dflt 0) s.worksSeen key then (old, s)
  else
    let (x, s1) := takeFree w s
    let v := if sat then satAdd (2 ^ w - 1) old x.toNat else wrapAdd w old x.toNat
    (v, { s1 with counters := tset (dflt 0) s1.counters key v, worksSeen := tset (dflt 0) s1.worksSeen key done })

/-! ### Identity, resets, power (R28, R425, R426, Resets) -/

/-- The capability registers, which read 0 until READY (R426). -/
def capSlot (s : State) (off : Nat) : Nat :=
  let v := s.variant
  if !s.st.ready then 0
  else match off with
    | 0x1000 => (2 ^ numDies v - 1) * 2 ^ 56 + tilesMin v * 2 ^ 32 + s.st.tilesActive * 2 ^ 16 + numTiles v
    | 0x1008 => s.st.capFloe * 2 ^ 32 + s.st.capStacks
    | 0x1010 => (2 ^ numUserLanes v - 1) * 2 ^ 48 + (2 ^ numBanks v - 1) * 2 ^ 40 + (2 ^ numLinks v - 1) * 2 ^ 32 +
        (2 ^ numCxl v - 1) * 2 ^ 28
    | 0x1018 => numBlocks v * 2 ^ 32 + 640 * numDies v * 2 ^ 16 + numPorts v
    | _ => 0

/-- ID_ and CAP_. -/
def idSlot (s : State) (off : Nat) : Nat := match off with
  | 0 => s.fused.vendor % 2 ^ 16 * 2 ^ 48 + deviceId s * 2 ^ 32 + variantCode s.variant * 2 ^ 24 +
      s.fused.stepping % 256 * 2 ^ 16
  | 8 => s.fused.family % 2 ^ 32
  | 0x10 => s.fused.serial % 2 ^ 64
  | 0x18 => s.cfg.running.proto % 256 * 2 ^ 32 + s.cfg.running.build % 2 ^ 32
  | _ => capSlot s off

/-- RST_ and AGR_. -/
def rstSlot (s : State) (off : Nat) : Nat :=
  let r := s.st
  match off with
  | 0x10008 => b2n r.ready * 2 ^ 63 + b2n r.failed * 2 ^ 62 + b2n r.thermalHold * 2 ^ 61 + r.rmDie % 4 * 2 ^ 59 +
      r.cause % 16 * 2 ^ 52 + r.step % 2 ^ 16 * 2 ^ 32 + r.code % 2 ^ 16 * 2 ^ 16 + r.deviceResets
  | 0x10100 => b2n r.agrValid * 2 ^ 63 + r.agrKind * 2 ^ 56 + r.agrIndex * 2 ^ 44 + r.agrResult * 2 ^ 32 + r.agrRejects
  | _ => 0

/-- PWR_. -/
def pwrSlot (s : State) (off : Nat) : Nat :=
  let p := s.pwr
  match off with
  | 0x20000 => p.capW + (b2n p.floorDefault * 2 + b2n p.boostEn) * 2 ^ 32
  | 0x20008 => p.stage * 2 ^ 26 + b2n (decide (720 < p.vcoreMv)) * 2 ^ 25 +
      b2n (decide (0 < p.vcoreMv ∧ p.vcoreMv < 720)) * 2 ^ 24 + min 0xFFF p.inputW * 2 ^ 12 + p.vcoreMv +
      (p.minMlcs * 2 ^ 16 + p.medMlcs) * 2 ^ 32
  | 0x20010 => p.limitNs
  | _ => 0

/-! ### Queue groups, address spaces, host interface (R237, R242, R258 to R271, R288) -/

/-- Bits of the queues of a group that meet a test. -/
def queueBits (g : Nat) (p : Nat → Bool) : Nat :=
  maskOf ((List.range 64).filter (fun i => p (64 * g + i)))

/-- The registers of a queue group. -/
def qgpSlot (s : State) (g rel : Nat) : Nat :=
  let x := getGroup s g
  match rel with
  | 0 => x.active.bind
  | 8 => x.active.qtable
  | 0x10 => x.active.ctrl + x.result * 2 ^ 32
  | 0x18 => x.modTime * 2 ^ 32 + x.modCount
  | 0x20 => queueBits g (fun q => (getQueue s q).stopped)
  | 0x28 => queueBits g (inFlight s)
  | _ => 0

/-- The address-space command registers of a group; ROOT follows the active ASID (R232). -/
def mmuSlot (s : State) (g rel : Nat) : Nat :=
  let x := getGroup s g
  match rel with
  | 0 => x.mmuBase
  | 8 => x.mmuLen
  | 0x10 => b2n x.mmuBusy * 2 ^ 30 + x.mmuStatus * 2 ^ 16 + x.mmuSize * 2 ^ 6 + b2n x.mmuWr * 32 + b2n x.mmuRd * 16 + x.mmuOp
  | 0x18 => tableAddr s (bindAsid x.active.bind) 3 0 + 1
  | _ => 0

/-- A slot of the MSI-X table of a function: address, or data with the mask bit (R288). -/
def msixSlot (s : State) (f rel : Nat) : Nat :=
  let (a, d, m) := tget (dflt (0, 0, true)) (getFunc s f).entries (rel / 16)
  if rel % 16 = 0 then a % 2 ^ 64 else d % 2 ^ 32 + b2n m * 2 ^ 32

/-- A slot of its pending-bit array. -/
def pbaSlot (s : State) (f rel : Nat) : Nat :=
  maskOf (((getFunc s f).pba.filter (fun v => decide (v / 64 = rel / 8))).map (· % 64))

/-- HIF_LINK. -/
def hifLink (l : HostLink) : Nat :=
  b2n l.up * 2 ^ 31 + b2n l.flit * 2 ^ 30 + b2n l.noFlit * 2 ^ 29 + l.width % 8 * 2 ^ 26 + l.rate % 8 * 2 ^ 23 + l.retrains

/-- The block 0x0004_0000 to 0x000F_FFFF. -/
def hifSlot (s : State) (off : Nat) : Nat :=
  if off < 0x80000 then qgpSlot s ((off - 0x40000) / 0x40) (off % 0x40)
  else if off < 0xA0000 then mmuSlot s ((off - 0x80000) / 0x20) (off % 0x20)
  else if off = 0xA0000 then s.priTimeout
  else if off = 0xB0000 then hifLink s.link
  else if off = 0xB0008 then s.dropped.reason * 2 ^ 50 + s.dropped.queue * 2 ^ 32 + s.dropped.count
  else if 0xC0000 ≤ off ∧ off < 0xC8000 then msixSlot s 0 (off - 0xC0000)
  else if 0xC8000 ≤ off ∧ off < 0xC8100 then pbaSlot s 0 (off - 0xC8000)
  else 0

/-! ### Memory and CXL (R214, R221, R224 to R228) -/

/-- The registers of one stack. -/
def stackSlot (s : State) (k rel : Nat) : Nat :=
  let x := getStack s k
  match rel with
  | 0 => b2n x.present * 2 ^ 63 + b2n x.trained * 2 ^ 62 + b2n x.doubleRef * 2 ^ 61 + b2n x.derated * 2 ^ 60 +
      b2n x.lost * 2 ^ 59 + wrapInt 8 x.tempC * 2 ^ 48 + x.retrains % 2 ^ 32
  | 0x10 => x.targets.getD 0 0 + x.targets.getD 1 0 * 2 ^ 32
  | 0x18 => x.targets.getD 2 0 + x.targets.getD 3 0 * 2 ^ 32
  | 0x20 => x.targets.getD 4 0 + x.targets.getD 5 0 * 2 ^ 32
  | 0x40 => x.ue * 2 ^ 48 + x.ceCtrl * 2 ^ 24 + x.ceOde
  | 0x48 => b2n x.tableFull * 2 ^ 63 + min 1024 x.frames.length * 2 ^ 40 + min 0xFF x.spareMin * 2 ^ 32 +
      min 0xFFFF x.softPending * 2 ^ 16 + x.repairFailed
  | 0x50 => x.patrolH * 2 ^ 8 + x.rowThresh
  | _ => 0

/-- The registers of an interleave window. -/
def winSlot (w : Window) (rel : Nat) : Nat := match rel with
  | 0 => w.active.base
  | 8 => w.active.size
  | 0x10 => w.active.map
  | 0x18 => w.result
  | _ => 0

/-- The MEM_ block. -/
def memSlot (s : State) (off : Nat) : Nat :=
  let k := (off - 0x100000) / 0x8000
  let rel := off % 0x8000
  if numStacks s.variant ≤ k then 0
  else if rel < 0x4000 then stackSlot s k rel
  else if k ≠ 0 then 0
  else if rel = 0x4000 then maskOf (stacksIn s) * 2 ^ 32 + 73664
  else if 0x4100 ≤ rel ∧ rel < 0x4500 then winSlot (getWindow s ((rel - 0x4100) / 0x40)) (rel % 0x40)
  else 0

/-- The CXL_ block. -/
def cxlSlot (s : State) (off : Nat) : Nat :=
  let q := (off - 0x200000) / 0x1000
  let c := getCxl s q
  if off % 0x1000 ≠ 0 ∨ numCxl s.variant ≤ q then 0
  else
    b2n c.up * 2 ^ 63 + b2n c.failed * 2 ^ 62 + (if c.up then c.width % 8 * 2 ^ 59 + c.rate % 8 * 2 ^ 56 else 0) +
      c.capGib % 2 ^ 13 * 2 ^ 32 + pagesUsed s q % 2 ^ 32

/-! ### Network and Turnstiles (R293, R310, R313, R325) -/

/-- NOC_QP_NODE of a queue port. -/
def portNodeReg (s : State) (m : Nat) : Nat :=
  if numPorts s.variant ≤ m then 0
  else 2 ^ 15 + portNode s.variant m

/-- The members of a multicast group, its root among them (R177, R320). -/
def mcastBits (s : State) (n : Nat) : Nat := tget (dflt 0) s.noc.groups n

/-- The NOC_ block but for what NOC_NODE_CNT counts in flits and lc. -/
def nocSlot (s : State) (off : Nat) : Nat :=
  let rel := off - 0x240000
  if rel < 0x8000 then
    let p := rel / 0x40
    if p < numPhys s.variant ∧ rel % 0x10 = 8 then
      tget (dflt 0) s.noc.replays (4 * p + rel % 0x40 / 0x10) * 2 ^ 56
    else 0
  else if rel = 0x8000 then s.noc.errLog
  else if 0x9000 ≤ rel ∧ rel < 0xA000 then bits (mcastBits s ((rel - 0x9000) / 0x20)) (rel % 0x20 * 8) 64
  else if 0xA000 ≤ rel ∧ rel < 0xA200 then
    let m := (rel - 0xA000) / 2
    (List.range 4).foldl (fun n i => n + portNodeReg s (m + i) * 2 ^ (16 * i)) 0
  else 0

/-- TRN_STATE. -/
def trnState (s : State) (t : Nat) : Nat :=
  let x := getTrn s t
  b2n x.ignored * 2 ^ 63 + b2n (isGroupTrn s t && s.casc.master) * 2 ^ 62 + b2n (isMirror s t) * 2 ^ 61 +
    min 0xFFFF (waitersShown s t) * 2 ^ 32 + x.arrived * 2 ^ 16 + x.gen

/-- TRN_DL_CTRL. -/
def watcherReg (x : Watcher) : Nat :=
  b2n x.enable * 2 ^ 63 + b2n x.fired * 2 ^ 62 + x.vector * 2 ^ 48 + x.interval * 2 ^ 32 + x.lastGroup * 2 ^ 16 + x.firstGroup

/-- TRN_CFG. -/
def trnCfgReg (x : Turnstile) : Nat := b2n x.remote * 2 ^ 38 + x.owner * 2 ^ 32 + x.width * 2 ^ 16 + x.count

/-- The TRN_ block. -/
def trnSlot (s : State) (off : Nat) : Nat :=
  if off < 0x2A0000 then
    let t := (off - 0x280000) / 0x20
    match off % 0x20 with
    | 0 => trnCfgReg (getTrn s t)
    | 8 => trnState s t
    | 0x10 => (getTrn s t).total % 2 ^ 64
    | _ => 0
  else if off < 0x2A0080 then
    let x := getWatcher s ((off - 0x2A0000) / 0x20)
    match off % 0x20 with
    | 0 => watcherReg x
    | 8 => x.status
    | _ => 0
  else 0

/-! ### Tile windows and Floe units (R99, R107, R140, R165, R192) -/

/-- TLE_MX_STATE. -/
def mxState (t : Tile) : Nat :=
  let q (p : Nat) : Nat := if p < modeParts t.mode then (getPart t p).st else 3
  let f (g : Nat → Nat) : Nat := (List.range 4).foldl (fun n p => n + g p) 0
  t.mode * 2 ^ 30 + t.check * 2 ^ 28 + f (fun p => q p * 2 ^ (2 * p + 16)) + f (fun p => (getPart t p).accBank * 2 ^ (8 + p)) +
    f (fun p => b2n (drainingBank (getPart t p)).isSome * 2 ^ (4 + p))

/-- TLE_SKEW_MAP: the repairs in force and the latency that they add (R97 to R99). -/
def skewMap (s : State) (p : Nat) : Nat :=
  let l := repairsOf s p
  let rows := sortNat (slotsOf l 0)
  let col := (slotsOf l 1).head?
  let row (i : Nat) : Nat := rows.getD i 0xFF
  rows.length * 2 ^ 58 + b2n col.isSome * 2 ^ 57 + col.getD 0 * 2 ^ 51 + extraLat s p * 2 ^ 48 + row 3 * 2 ^ 24 +
    row 2 * 2 ^ 16 + row 1 * 2 ^ 8 + row 0

/-- TLE_VX_STATE. -/
def vxState (t : Tile) : Nat :=
  let n := t.images.length
  let free := 2048 - t.images.foldl (fun n e => n + e.2.2) 0
  t.run.kind * 2 ^ 62 + (n - 1) * 2 ^ 60 + b2n (decide (0 < n)) * 2 ^ 59 +
    (if t.run.kind = 0 then 0 else t.run.op % 2 ^ 16) * 2 ^ 32 + t.run.pc % 2 ^ 11 * 2 ^ 16 + (free - 1)

/-- TLE_AE_STATE but for OUTSTANDING. -/
def aeState (t : Tile) : Nat :=
  maskOf ((t.xfers.filter (fun x => x.2.suspended)).map (·.1)) * 2 ^ 32 + maskOf (t.xfers.map (·.1)) * 2 ^ 16

/-- The registers of a tile window that hold state. -/
def tileSlot (t : Tile) (rel : Nat) : Nat :=
  if 0x240 ≤ rel ∧ rel < 0x340 then
    let p := (rel - 0x240) / 0x40
    if p < modeParts t.mode then bits (getPart t p).cmd (rel % 0x40 * 8) 64 else 0
  else match rel with
    | 0x200 => mxState t
    | 0x340 => vxState t
    | 0x350 => match t.vxFault with
      | some (pc, a) => 2 ^ 63 + pc % 2 ^ 11 * 2 ^ 32 + a % 2 ^ 20
      | none => 0
    | 0x410 => t.pruned * 2 ^ 48 + t.mcastRx
    | _ => if 0x210 ≤ rel ∧ rel < 0x230 then
        (List.range 4).foldl (fun n j => n + t.slots.getD (4 * ((rel - 0x210) / 8) + j) 0 * 2 ^ (16 * j)) 0
      else 0

/-- Whether a place of a tile window is a stall counter. -/
def isStall (rel : Nat) : Bool := decide (0x500 ≤ rel ∧ rel < 0x680)

/-- The stall causes that a unit never counts: SCALE_LATE and WEIGHT_LATE of a vector engine, WEIGHT_LATE and TURNSTILE_WAIT of
an access engine (R189). -/
def neverStalls (rel : Nat) : Bool :=
  decide ((0x600 ≤ rel ∧ rel < 0x640 ∧ (rel - 0x600) / 8 ∈ [1, 2]) ∨ (0x640 ≤ rel ∧ rel < 0x680 ∧ (rel - 0x640) / 8 ∈ [2, 4]))

/-- The unit of a tile that a counter of its window belongs to (R191, R192): 0 to 3 a partition, 4 the vector engine, 5
the access engine. -/
def counterUnit (rel : Nat) : Nat :=
  if rel < 0x500 then (if rel = 0x348 then 4 else 5) else if rel < 0x600 then (rel - 0x500) / 0x40 else if rel < 0x640 then 4 else 5

/-- Whether a unit of a tile holds accepted work (R189); a partition that the mode does not have holds none, and a stopped one
counts nothing (R191). -/
def Tile.works (t : Tile) (u : Nat) : Bool :=
  if u < 4 then decide (u < modeParts t.mode) && (getPart t u).st ≠ 2 &&
    ((getPart t u).st = 1 || !(getPart t u).held.isEmpty || (getPart t u).bankA.st ≠ 0 || (getPart t u).bankB.st ≠ 0)
  else if u = 4 then t.run.kind ≠ 0
  else !t.xfers.isEmpty

/-- A read of a tile window. -/
def tileRead (off : Nat) (s : State) : Nat × State :=
  let p := (off - 0x300000) / 0x1000
  let rel := off % 0x1000
  let u := counterUnit rel
  let now := (getTile s p).works u
  if numPhys s.variant ≤ p then (0, s)
  else
    let t := getTile s p
    if rel = 0x348 then
      let (a, s1) := openCounter (2 * off + 1) (tileUnit p u) 16 true now s
      let (b, s2) := openCounter (2 * off) (tileUnit p u) 48 false now s1
      (a * 2 ^ 48 + b, s2)
    else if rel = 0x400 then (aeState t + t.outstanding.length, s)
    else if neverStalls rel then (tget (dflt 0) s.counters (2 * off), s)
    else if rel = 0x408 ∨ isStall rel then openCounter (2 * off) (tileUnit p u) 48 false now s
    else if rel = 0x208 then (skewMap s p, s)
    else (tileSlot t rel, s)

/-- A read of the FLO_ block: of the parts those are seen that stand between two commands, on an engine or in the state buffer
(R144, R165; log entry 71). KV_PAGES counts a LOST page too (DESIGN CHOICE, log entry 73). -/
def floRead (off : Nat) (s : State) : Nat × State :=
  let k := (off - 0x480000) / 0x400
  let rel := off % 0x400
  if !hasFloe s.variant || decide (numStacks s.variant ≤ k) then (0, s)
  else
    let x := getFloe s k
    if rel = 0 then
      let kvp := (s.kv.filter (fun p => p.stack = k)).length
      (b2n (floeServes s k) * 2 ^ 63 + b2n (getStack s k).derated * 2 ^ 62 + maskOf (busyEngines s k) * 2 ^ 52 +
        maskOf x.retired * 2 ^ 48 + x.buffer.length * 2 ^ 40 + kvp % 2 ^ 32, s)
    else if 0x10 ≤ rel ∧ rel < 0x30 then openCounter (2 * off) (floeUnit k ((rel - 0x10) / 8)) 48 false false s
    else if rel = 0x30 then (x.lockWait * 2 ^ 48 + x.pagesRead, s)
    else (0, s)

/-- A read of the NOC_ block. NOC_NODE_CNT counts the flits whose paths the model follows, and an open amount of others: every
message between units passes the network, reads of registers among them (R325; log entry 39). -/
def nocRead (off : Nat) (s : State) : Nat × State :=
  let p := (off - 0x240000) / 0x40
  if off < 0x248000 ∧ p < numPhys s.variant then
    let (b, s1) := openCounter (2 * off) netUnit 48 false true s
    let seen := if off % 0x10 = 0 then tget (dflt 0) s.noc.flits (4 * p + off % 0x40 / 0x10) else 0
    (nocSlot s off + wrapAdd 48 seen b, s1)
  else (nocSlot s off, s)

/-! ### Midway, cascade, configuration (R347, R371, R397) -/

/-- MID_QP_STATUS. -/
def portStatusReg (s : State) (m : Nat) : Nat :=
  let x := getPort s m
  let held := (portHolder s m).isSome
  let g := if held then x.holderGroup else x.bound.getD 0
  b2n held * 2 ^ 63 + b2n x.bound.isSome * 2 ^ 62 + g % 2 ^ 12 * 2 ^ 50 + min 0xFFFF x.chain.length * 2 ^ 32 + x.dropped

/-- MID_LANE_STATUS. -/
def laneStatus (x : UserLane) : Nat :=
  b2n x.up * 2 ^ 63 + b2n x.training.isSome * 2 ^ 62 + x.rate % 4 * 2 ^ 60 + b2n x.code * 2 ^ 59 + x.overrun * 2 ^ 16 + x.underrun

/-- The MID_ block. -/
def midSlot (s : State) (off : Nat) : Nat :=
  let rel := off - 0x500000
  let v := s.variant
  if rel = 0 then b2n s.mid.loaded * 2 ^ 63 + s.mid.version % 2 ^ 32
  else if rel < 0x1000 then 0
  else if rel < 0x2000 then
    let m := (rel - 0x1000) / 0x10
    let x := getPort s m
    if numPorts v ≤ m then 0
    else if rel % 0x10 = 0 then 2 ^ 31 + x.dir * 2 ^ 28 + b2n x.drop * 2 ^ 27 + x.blocks * 2 ^ 16
    else portStatusReg s m
  else if rel < 0x3000 then
    let n := (rel - 0x2000) / 0x10
    let x := getPacer s n
    if 8 * numDies v ≤ n ∨ rel % 0x10 ≠ 0 then 0
    else b2n x.running * 2 ^ 63 + b2n x.calOk * 2 ^ 62 + x.freqKhz * 2 ^ 32 + x.missed
  else if rel < 0x4000 then
    let n := (rel - 0x3000) / 0x20
    let x := getUserLane s n
    if numUserLanes v ≤ n then 0
    else match rel % 0x20 with
      | 0 => laneStatus x
      | 8 => x.post * 2 ^ 8 + x.pre
      | _ => 0
  else if rel < 0x5000 then
    let b := (rel - 0x4000) / 0x10
    if numBanks v ≤ b ∨ rel % 0x10 ≠ 0 then 0
    else b2n (bankOn s b) * 2 ^ 31 + tget (dflt 0) s.mid.banks b % 2 ^ 12 * 2 ^ 16
  else 0

/-- LAN_LINK_STATUS. -/
def linkStatus (x : CascLink) : Nat :=
  b2n x.up * 2 ^ 63 + b2n x.idle * 2 ^ 62 + b2n x.failed * 2 ^ 61 + x.partner * 2 ^ 57 + x.partnerLink * 2 ^ 54 +
    x.width * 2 ^ 52 + x.retrains * 2 ^ 32 + x.replays

/-- LAN_EYE_CTRL. -/
def eyeReg (c : Cascade) : Nat :=
  b2n c.eyeBusy.isSome * 2 ^ 62 + b2n c.eyeDone * 2 ^ 61 + c.eyeLane * 2 ^ 48 + c.eyeEye * 2 ^ 46 + c.eyePhase * 2 ^ 32 + c.eyeVolt * 2 ^ 24 + c.eyeDwell

/-- LAN_CASC_CFG. -/
def cascCfgReg (c : Cascade) : Nat := b2n c.useReg * 2 ^ 30 + c.role * 2 ^ 12 + c.ident * 2 ^ 8 + c.topo

/-- The LAN_ block. -/
def lanSlot (s : State) (off : Nat) : Nat :=
  let rel := off - 0x580000
  let c := s.casc
  if rel = 0 then cascCfgReg c
  else if rel = 8 then
    b2n c.formed * 2 ^ 63 + b2n c.master * 2 ^ 62 + c.masterId * 2 ^ 58 + c.ownId * 2 ^ 54 + c.members * 2 ^ 32 + c.result * 2 ^ 24
  else if 0x100 ≤ rel ∧ rel < 0x300 then
    (if rel % 0x40 = 0 ∧ (rel - 0x100) / 0x40 < numLinks s.variant then linkStatus (getLink s ((rel - 0x100) / 0x40)) else 0)
  else if 0x1000 ≤ rel ∧ rel < 0x1200 then
    let n := (rel - 0x1000) / 8
    if n < 8 * numLinks s.variant then (getLane s n).uncorr * 2 ^ 40 + (getLane s n).corr else 0
  else if rel = 0x2000 then eyeReg c
  else if rel = 0x2008 then c.eyeResult
  else 0

/-- The CFG_ and SEC_ block. The root key hash is fused. -/
def cfgSlot (s : State) (off : Nat) : Nat :=
  let c := s.cfg
  let rel := off - 0x600000
  if 0x10 ≤ rel ∧ rel < 0x50 then
    let a := c.roles.getD ((rel - 0x10) / 0x10) 0
    if rel % 0x10 ≠ 0 then 0
    else match tfind a c.areas with
      | some x => 2 ^ 63 + a * 2 ^ 32 + x.version % 2 ^ 32
      | none => a * 2 ^ 32
  else match rel with
    | 0 =>
      let busy := s.ops.any (fun o => decide (0x60 ≤ o.opc ∧ o.opc ≤ 0x62) && o.started && o.phase != .done)
      b2n busy * 2 ^ 63 + b2n c.fallback * 2 ^ 62 + c.role % 4 * 2 ^ 60 + c.lastSub * 2 ^ 48 + c.version % 2 ^ 32
    | 8 => (match c.staged with
        | some x => 2 ^ 63 + b2n x.firmware * 2 ^ 62 + b2n x.partly * 2 ^ 61
        | none => 0) + c.stageId
    | 0x50 => b2n c.scrubOn * 2 ^ 31 + c.passMs
    | 0x58 => c.uncorr * 2 ^ 48 + c.essential * 2 ^ 24 + c.nonessential
    | 0x1000 =>
      let some_ (p : KeySlot → Bool) : Nat := maskOf ((List.range 4).filter (fun k => p (getSlot s k)))
      2 ^ 63 + b2n c.debugOpen * 2 ^ 62 + c.running.svn % 64 * 2 ^ 56 + c.fuseSvn % 64 * 2 ^ 50 + c.fwArea % 2 * 2 ^ 49 +
        some_ (fun k => k.written) * 2 ^ 44 + some_ (fun k => k.revoked) * 2 ^ 40 + c.ide.length % 256 * 2 ^ 32
    | 0x1008 => b2n c.golden * 2 ^ 30 + b2n c.provision * 2 ^ 29
    | _ => 0

/-! ### Moraine, Ice core, placement, debugger (R207, R257, R412, R415) -/

/-- Fields of the Moraine's copy and clear controls. -/
def morCopyReg (s : State) : Nat :=
  let m := s.mor
  b2n (copyBusy s 0) * 2 ^ 30 + b2n m.copyDone * 2 ^ 29 + b2n m.copyTrunc * 2 ^ 28 + b2n m.copySource * 2 ^ 27 + b2n m.copyFault * 2 ^ 26 + m.copyMinSev
def morClearReg (s : State) : Nat :=
  let m := s.mor
  b2n (copyBusy s 3) * 2 ^ 62 + b2n m.clearDone * 2 ^ 61 + m.clearResult * 2 ^ 48 + m.clearOffset

/-- MOR_CTRL and MOR_RATE, which the ZQ9-H has not. -/
def morCtrlReg (m : Moraine) : Nat := b2n m.frozen * 2 ^ 31 + m.vector * 2 ^ 4 + m.irqSev
def morRateReg (v : Variant) (m : Moraine) : Nat := if v = .half then 0 else m.rate * 2 ^ 16 + m.burst

/-- The MOR_ block. -/
def morSlot (s : State) (off : Nat) : Nat :=
  let m := s.mor
  match off - 0x680000 with
  | 0 => b2n m.frozen * 2 ^ 63 + m.pending.length * 2 ^ 32 + m.nextSeq
  | 8 => morCtrlReg m + morRateReg s.variant m * 2 ^ 32
  | 0x10 => m.copyAddr
  | 0x18 => m.copyLen + morCopyReg s * 2 ^ 32
  | 0x20 => m.copyFrom
  | 0x28 => m.lastCode * 2 ^ 48 + m.pendLost * 2 ^ 32 + m.dropped
  | 0x40 => bits m.nonce.toNat 0 64
  | 0x48 => bits m.nonce.toNat 64 64
  | 0x50 => bits m.nonce.toNat 128 64
  | 0x58 => bits m.nonce.toNat 192 64
  | 0x60 => morClearReg s
  | _ => 0

/-- One bit, and the bytes, of the CRC-32 of IEEE 802.3. -/
def crc32Bit (c : Nat) : Nat := if c % 2 = 1 then c / 2 ^^^ 0xEDB88320 else c / 2
def crc32 (bs : List Byte) : Nat :=
  (bs.foldl (fun c b => (List.range 8).foldl (fun c _ => crc32Bit c) (c ^^^ b.toNat)) 0xFFFFFFFF) ^^^ 0xFFFFFFFF

/-- A counter in n bytes saturates. -/
def satBytes (n x : Nat) : List Byte := leBytes n (min (2 ^ (8 * n) - 1) x)

/-- Whole seconds. -/
def secs (ns : Nat) : Nat := ns / 1000000000

/-- The ledger's bytes before its CRC (R412). -/
def ledgerBody (s : State) : List Byte :=
  let l := s.ice.now
  let at_ (t : Table Nat) (i : Nat) : Nat := tget (dflt 0) t i
  let die (d : Nat) : List Byte :=
    satBytes 2 (l.retiredMap.filter (fun p => p / 72 = d)).length ++ satBytes 1 (at_ l.sparesUsed d) ++ leBytes 1 0 ++
      satBytes 2 (at_ l.fusesBlown d) ++ leBytes 2 0
  let stack (k : Nat) : List Byte :=
    satBytes 2 (at_ l.hardRepairs k) ++ satBytes 2 (at_ l.framesRetired k) ++ leBytes 1 (min 15 (at_ l.floeRetired k)) ++
      leBytes 1 (b2n (decide (k ∈ l.stackLost))) ++ leBytes 2 0
  let link (i : Nat) : List Byte :=
    satBytes 8 (secs (at_ l.linkUpNs i)) ++ satBytes 8 (at_ l.linkCorr i) ++ satBytes 8 (at_ l.linkUncorr i) ++
      satBytes 4 (at_ l.linkRetrains i) ++ satBytes 4 (at_ l.linkFailures i)
  let lane (i : Nat) : List Byte :=
    satBytes 8 (secs (at_ l.laneUpNs i)) ++ satBytes 4 (at_ l.laneOver i) ++ satBytes 4 (at_ l.laneUnder i)
  let head := leBytes 4 0x49430001 ++ leBytes 2 1 ++ leBytes 2 2048 ++ leBytes 8 l.commitSeq ++ leBytes 8 s.fused.serial ++
    leBytes 8 l.firstCal ++ leBytes 8 l.lastCal ++ satBytes 8 (secs l.poweredNs) ++ satBytes 8 (secs l.standbyNs) ++
    satBytes 4 l.standbyCycles ++ satBytes 4 l.thermalCycles ++ satBytes 8 (secs l.thermalLimitNs) ++
    satBytes 4 l.thermalTrips ++ leBytes 4 0 ++ (List.range 4).flatMap (fun i => satBytes 4 (at_ l.cfgLoads i)) ++
    (List.range 2).flatMap (fun i => satBytes 4 (at_ l.fwStores i)) ++ leBytes 8 0 ++
    (List.range 9).flatMap (fun i => satBytes 4 (at_ l.flashErases i)) ++ fill 12 0 ++ (List.range 4).flatMap die ++
    leBytes 40 (maskOf l.retiredMap) ++ fill 24 0
  head ++ (List.range 32).flatMap (fun k => satBytes 8 (secs (at_ l.doubleRefNs k))) ++ (List.range 32).flatMap stack ++
    (List.range 8).flatMap link ++ (List.range 16).flatMap lane ++ satBytes 4 l.downshifts ++ fill 760 0

/-- The ledger. -/
def ledgerBytes (s : State) : List Byte :=
  let b := ledgerBody s
  b ++ leBytes 4 (crc32 b)

/-- The ICE_ block. -/
def iceSlot (s : State) (off : Nat) : Nat :=
  let i := s.ice
  let rel := off - 0x6C0000
  if 0x1000 ≤ rel ∧ rel < 0x1800 then fieldAt (ledgerBytes s) (rel - 0x1000) 8
  else match rel with
    | 0 => b2n i.copy0.isSome * 2 ^ 63 + b2n i.copy1.isSome * 2 ^ 62 + b2n i.calValid * 2 ^ 61 +
        (iceBest i).commitSeq % 2 ^ 32
    | 8 => calNow s
    | 0x10 => i.refT
    | 0x18 => i.refC
    | _ => 0

/-- PLC_VIEW_CTRL and DBG_CTX_CTRL. -/
def viewReg (s : State) : Nat :=
  let p := s.place
  b2n (copyBusy s 1) * 2 ^ 30 + b2n p.viewDone * 2 ^ 29 + b2n p.viewTrunc * 2 ^ 28 + p.viewKind * 2 ^ 24 + p.viewGroup * 2 ^ 12
def ctxReg (s : State) : Nat :=
  let p := s.place
  b2n (copyBusy s 2) * 2 ^ 30 + b2n p.ctxDone * 2 ^ 29 + b2n p.ctxNone * 2 ^ 28 + p.ctxSel

/-- The PLC_ and DBG_ blocks. -/
def plcSlot (s : State) (off : Nat) : Nat :=
  let p := s.place
  match off with
  | 0x700000 => p.viewAddr
  | 0x700008 => p.viewLen + viewReg s * 2 ^ 32
  | 0x700010 => p.viewSel
  | 0x700020 => p.migCtrl
  | 0x700028 => p.promoted % 2 ^ 32 * 2 ^ 32 + p.demoted % 2 ^ 32
  | 0x700040 => p.fillTimeout
  | 0x800100 => p.ctxAddr
  | 0x800108 => ctxReg s
  | _ => 0

/-! ### Reads (R14, R260, R418, R429, R433, R434) -/

/-- The shadow view: only members of agreement groups are seen there. -/
def shadowSlot (s : State) (off : Nat) : Nat :=
  if 0x40000 ≤ off ∧ off < 0x80000 then
    let c := (getGroup s ((off - 0x40000) / 0x40)).shadow
    match off % 0x40 with
    | 0 => c.bind
    | 8 => c.qtable
    | 0x10 => c.ctrl
    | _ => 0
  else if 0x104100 ≤ off ∧ off < 0x104500 then
    let c := (getWindow s ((off - 0x104100) / 0x40)).shadow
    match off % 0x40 with
    | 0 => c.base
    | 8 => c.size
    | 0x10 => c.map
    | _ => 0
  else 0

/-- Whether a block acts before READY. -/
def actsEarly (off : Nat) : Bool := decide (off < 0x40000 ∨ (0x600000 ≤ off ∧ off < 0x700000))

/-- The 8 bytes at a multiple of 8 in the PF's BAR0. -/
def slotRead (off : Nat) (s : State) : Nat × State :=
  if !s.st.ready && !actsEarly off then (0, s)
  else if off < 0x10000 then (idSlot s off, s)
  else if off < 0x20000 then (rstSlot s off, s)
  else if off < 0x40000 then (pwrSlot s off, s)
  else if off < 0x100000 then (hifSlot s off, s)
  else if off < 0x200000 then (memSlot s off, s)
  else if off < 0x240000 then (cxlSlot s off, s)
  else if off < 0x280000 then nocRead off s
  else if off < 0x300000 then (trnSlot s off, s)
  else if off < 0x480000 then tileRead off s
  else if off < 0x500000 then floRead off s
  else if off < 0x580000 then (midSlot s off, s)
  else if off < 0x600000 then (lanSlot s off, s)
  else if off < 0x680000 then (cfgSlot s off, s)
  else if off < 0x6C0000 then (morSlot s off, s)
  else if off < 0x700000 then (iceSlot s off, s)
  else if off < 0x1000000 then (plcSlot s off, s)
  else if 0x2000000 ≤ off ∧ off < 0x4000000 then (shadowSlot s (off - 0x2000000), s)
  else (0, s)

/-- The 8 bytes in a VF's BAR0: ID_, CAP_ and its MSI-X structures (R260). -/
def vfSlot (s : State) (f off : Nat) : Nat :=
  if off < 0x10000 then idSlot s off
  else if off < 0x18000 then msixSlot s f (off - 0x10000)
  else if off < 0x18100 then pbaSlot s f (off - 0x18000)
  else 0

/-- Clear the bits of a number that a mask covers. -/
def clearMask (x mask : Nat) : Nat := x ^^^ (x &&& mask)

/-- A read clears the RC bits that it covers (R14). -/
def slotClear (off mask : Nat) (s : State) : State :=
  let lo := mask % 2 ^ 32
  if !s.st.ready && !actsEarly off then s
  else if off = 0x20010 then { s with pwr := { s.pwr with limitNs := clearMask s.pwr.limitNs mask } }
  else if off = 0x10100 then { s with st := { s.st with agrRejects := clearMask s.st.agrRejects lo } }
  else if off = 0xB0008 then { s with dropped := { s.dropped with count := clearMask s.dropped.count lo } }
  else if 0x501000 ≤ off ∧ off < 0x502000 ∧ off % 0x10 = 8 then
    let m := (off - 0x501000) / 0x10
    setPort s m { getPort s m with dropped := clearMask (getPort s m).dropped lo }
  else if 0x502000 ≤ off ∧ off < 0x503000 ∧ off % 0x10 = 0 then
    let n := (off - 0x502000) / 0x10
    setPacer s n { getPacer s n with missed := clearMask (getPacer s n).missed lo }
  else if off = 0x680028 then
    { s with mor := { s.mor with dropped := clearMask s.mor.dropped lo, pendLost := clearMask s.mor.pendLost (bits mask 32 16) } }
  else s

/-- Whether an access is naturally aligned and of 4 or 8 bytes (R434). -/
def accessOk (off size : Nat) : Bool := (size = 4 && off % 4 = 0) || (size = 8 && off % 8 = 0)

/-- The bits of a slot that an access covers. -/
def accessMask (off size : Nat) : Nat :=
  if size = 8 then 2 ^ 64 - 1 else if off % 8 = 0 then 2 ^ 32 - 1 else (2 ^ 32 - 1) * 2 ^ 32

/-- A read of BAR0: the value, and the state after the bits it covers are cleared. -/
def bar0Read (f off size : Nat) (s : State) : Nat × State :=
  if !accessOk off size then (0, s)
  else
    let slot := off / 8 * 8
    let part (x : Nat) : Nat := bits x (8 * (off % 8)) (8 * size)
    if f ≠ 0 then (part (vfSlot s f slot), s)
    else
      let (v, s1) := slotRead slot s
      (part v, slotClear slot (accessMask off size) s1)

/-! ### Writes (R14, R429, R430, R433, R434) -/

/-- The bits of a register after a write: the covered ones of a set of writable bits are taken from the value. -/
def mergeBits (old v mask rw : Nat) : Nat := clearMask old (mask &&& rw) ||| (v &&& (mask &&& rw))

/-- The bits of a field of n bits at bit lo. -/
def fieldMask (lo n : Nat) : Nat := (2 ^ n - 1) * 2 ^ lo

/-- Writable bits. -/
def rwBind : Nat := fieldMask 56 8 + fieldMask 32 20 + fieldMask 16 12 + fieldMask 0 8
def rwMap : Nat := fieldMask 32 32 + fieldMask 16 11 + fieldMask 0 5

/-- Writes of a queue group: members set their shadow; GO, COUNT and TIME, and ABORT act (R262, R263, R266). -/
def qgpWrite (g rel mask v : Nat) (s : State) : State :=
  let x := getGroup s g
  let c := x.shadow
  match rel with
  | 0 => setGroup s g { x with shadow := { c with bind := mergeBits c.bind v mask rwBind } }
  | 8 => setGroup s g { x with shadow := { c with qtable := mergeBits c.qtable v mask (2 ^ 64 - 1) } }
  | 0x10 =>
    let s1 := setGroup s g { x with shadow := { c with ctrl := mergeBits c.ctrl v mask (fieldMask 0 7) } }
    if bit (v &&& mask) 63 then qgpCommitOp g s1 else s1
  | 0x18 =>
    let w := mergeBits (x.modTime * 2 ^ 32 + x.modCount) v mask (fieldMask 32 16 + fieldMask 0 16)
    setGroup s g { x with modTime := bits w 32 16, modCount := bits w 0 16 }
  | 0x30 => (setBitsOf 64 (v &&& mask)).foldl (fun s i => abortQueue (64 * g + i) s) s
  | _ => s

/-- Writes of the address-space command registers (R237). -/
def mmuWrite (g rel mask v : Nat) (s : State) : State :=
  let x := getGroup s g
  match rel with
  | 0 => setGroup s g { x with mmuBase := mergeBits x.mmuBase v mask (fieldMask 12 36) }
  | 8 => setGroup s g { x with mmuLen := mergeBits x.mmuLen v mask (fieldMask 12 36) }
  | 0x10 =>
    if mask % 2 = 0 then s
    else
      let x1 := { x with mmuSize := bits v 6 2, mmuWr := bit v 5, mmuRd := bit v 4, mmuOp := bits v 0 4 }
      if bit v 31 && !x.mmuBusy then mmuCommand g (bits v 0 4) (bits v 6 2) (bit v 4) (bit v 5) s else setGroup s g x1
  | _ => s

/-- Writes of a function's MSI-X table; a vector that is unmasked sends what is pending (R288). -/
def msixWrite (f rel mask v : Nat) (s : State) : State :=
  let x := getFunc s f
  let k := rel / 16
  let (a, d, m) := tget (dflt (0, 0, true)) x.entries k
  let e : Nat × Nat × Bool :=
    if rel % 16 = 0 then (mergeBits a v mask (2 ^ 64 - 1), d, m)
    else (a, mergeBits d v mask (2 ^ 32 - 1), if bit mask 32 then bit v 32 else m)
  let s1 := setFunc s f { x with entries := tset (dflt (0, 0, true)) x.entries k e }
  if m && !e.2.2 then sendPending f s1 else s1

/-- Writes of the block 0x0004_0000 to 0x000F_FFFF. -/
def hifWrite (off mask v : Nat) (s : State) : State :=
  if off < 0x80000 then qgpWrite ((off - 0x40000) / 0x40) (off % 0x40) mask v s
  else if off < 0xA0000 then mmuWrite ((off - 0x80000) / 0x20) (off % 0x20) mask v s
  else if off = 0xA0000 then (if mask % 2 = 0 then s else { s with priTimeout := max 1 (bits v 0 16) })
  else if 0xC0000 ≤ off ∧ off < 0xC8000 then msixWrite 0 (off - 0xC0000) mask v s
  else s

/-- Writes of the MEM_ block: targets, repair policy, and the windows' shadow and GO. -/
def memWrite (off mask v : Nat) (s : State) : State :=
  let k := (off - 0x100000) / 0x8000
  let rel := off % 0x8000
  let x := getStack s k
  let lo := bit mask 0
  let hi := bit mask 32
  let put (i : Nat) (l : List Nat) : List Nat :=
    let l1 := if lo then l.set i (max 1 (bits v 0 16)) else l
    if hi then l1.set (i + 1) (max 1 (bits v 32 16)) else l1
  if numStacks s.variant ≤ k then s
  else if rel = 0x10 then setStack s k { x with targets := put 0 x.targets }
  else if rel = 0x18 then setStack s k { x with targets := put 2 x.targets }
  else if rel = 0x20 then setStack s k { x with targets := put 4 x.targets }
  else if rel = 0x50 then
    (if lo then setStack s k { x with patrolH := max 1 (bits v 8 8), rowThresh := max 1 (bits v 0 4) } else s)
  else if k = 0 ∧ 0x4100 ≤ rel ∧ rel < 0x4500 then
    let n := (rel - 0x4100) / 0x40
    let w := getWindow s n
    let c := w.shadow
    match rel % 0x40 with
    | 0 => setWindow s n { w with shadow := { c with base := mergeBits c.base v mask (fieldMask 30 18) } }
    | 8 => setWindow s n { w with shadow := { c with size := mergeBits c.size v mask (fieldMask 26 22) } }
    | 0x10 => setWindow s n { w with shadow := { c with map := mergeBits c.map v mask rwMap } }
    | 0x18 => if lo && bit v 31 then iwinCommitOp n s else s
    | _ => s
  else s

/-- A write of TRN_DL_CTRL. The condition counts anew from a write that enables, clears FIRED or changes the set
(R310). -/
def watcherWrite (w mask v : Nat) (s : State) : State :=
  let x := getWatcher s w
  let r := mergeBits (clearMask (watcherReg x) (2 ^ 62)) v mask (fieldMask 63 1 + fieldMask 48 11 + fieldMask 32 16 +
    fieldMask 16 12 + fieldMask 0 12)
  let fired := x.fired && !bit (v &&& mask) 62
  let y : Watcher := { x with
    enable := bit r 63, fired := fired, vector := bits r 48 11, interval := max 1 (min 60000 (bits r 32 16))
    lastGroup := bits r 16 12, firstGroup := bits r 0 12 }
  let anew := (y.enable && !x.enable) || (x.fired && !fired) || decide (y.lastGroup ≠ x.lastGroup ∨ y.firstGroup ≠ x.firstGroup)
  setWatcher s w (if anew then { y with since := s.time } else y)

/-- Writes of the TRN_ block. -/
def trnWrite (off mask v : Nat) (s : State) : State :=
  if off < 0x2A0000 then
    let t := (off - 0x280000) / 0x20
    let x := getTrn s t
    match off % 0x20 with
    | 0 => trnCfgOp t (mergeBits (trnCfgReg x) v mask (2 ^ 64 - 1)) s
    | 8 => if bit (v &&& mask) 63 then setTrn s t { x with ignored := false } else s
    | _ => s
  else if off < 0x2A0080 ∧ off % 0x20 = 0 then watcherWrite ((off - 0x2A0000) / 0x20) mask v s
  else s

/-- Writes of the LAN_ block: GO forms a group or scans an eye, as CASCADE_FORM and EYE_SCAN do (log entry 40). -/
def lanWrite (off mask v : Nat) (found : BootFindings) (eye : Nat × Nat) (s : State) : State :=
  if off = 0x580000 ∧ mask % 2 = 1 then cascCfgOp (v % 2 ^ 32) found.peers found.edges s
  else if off = 0x582000 then
    eyeScanOp (mergeBits (clearMask (eyeReg s.casc) (2 ^ 61)) v mask (2 ^ 64 - 1)) eye.1 eye.2 s
  else s

/-- Writes of the CFG_, SEC_, MOR_ and ICE_ blocks. -/
def secWrite (off mask v : Nat) (s : State) : State :=
  let lo := bit mask 0
  let hi := bit mask 32
  let m := s.mor
  match off with
  | 0x600050 => if lo then
      { s with cfg := { s.cfg with scrubOn := bit v 31, passMs := max 10 (min 1000 (bits v 0 16)) } } else s
  | 0x601008 => if lo then secCtrlOp (v % 2 ^ 32) s else s
  | 0x680008 =>
    let s1 := if lo then morCtrlWrite (v % 2 ^ 32) s else s
    if hi && s.variant != .half then
      let m1 := s1.mor
      { s1 with mor := { m1 with
        buckets := m1.buckets.map (fun e => (e.1, bucketAt m1 s1.time e.2))
        newBucket := bucketAt m1 s1.time m1.newBucket
        rate := max 1 (bits v 48 16), burst := max 1 (bits v 32 8) } }
    else s1
  | 0x680010 => { s with mor := { m with copyAddr := mergeBits m.copyAddr v mask (fieldMask 6 42) } }
  | 0x680018 =>
    let s1 := if lo then { s with mor := { m with copyLen := v % 2 ^ 32 } } else s
    if hi then morCopyCtrlWrite (bits v 32 32) s1 else s1
  | 0x680020 => if lo then { s with mor := { m with copyFrom := v % 2 ^ 32 } } else s
  | 0x680060 => moraineClearOp (mergeBits m.clearOffset v mask (2 ^ 64 - 1)) s
  | 0x6C0020 => iceCalSetOp (v &&& mask) s
  | _ => s

/-- Writes of the PLC_ and DBG_ blocks. -/
def plcWrite (off mask v : Nat) (s : State) : State :=
  let p := s.place
  let lo := bit mask 0
  let hi := bit mask 32
  match off with
  | 0x700000 => { s with place := { p with viewAddr := mergeBits p.viewAddr v mask (fieldMask 6 42) } }
  | 0x700008 =>
    let s1 := if lo then { s with place := { p with viewLen := v % 2 ^ 32 } } else s
    if hi then viewOp (bits v 32 32) s1 else s1
  | 0x700010 => { s with place := { p with viewSel := mergeBits p.viewSel v mask (2 ^ 64 - 1) } }
  | 0x700020 => migCtrlOp (mergeBits (p.migNext.getD p.migCtrl) v mask (2 ^ 64 - 1)) s
  | 0x700040 => if lo then { s with place := { p with fillTimeout := bits v 0 16 } } else s
  | 0x800100 => { s with place := { p with ctxAddr := mergeBits p.ctxAddr v mask (fieldMask 6 42) } }
  | 0x800108 => if lo then contextCopyOp (v % 2 ^ 32) s else s
  | 0x800200 =>
    let w := v &&& mask
    if !bit w 63 then s
    else match bits w 56 2 with
      | 0 => setCountOp (bits w 32 12) (bits w 0 16) s
      | 1 => setGenOp (bits w 32 12) (bits w 0 16) s
      | 2 => completeGenOp (bits w 32 12) (bits w 0 16) s
      | _ => s
  | _ => s

/-- A write of the covered bits of a slot of the PF's BAR0 (R14). RST_CTRL.DEVICE requests a device reset, as RST_CTRL_DEVICE
does (R421; log entry 40). -/
def slotWrite (off mask v : Nat) (found : BootFindings) (eye : Nat × Nat) (s : State) : State :=
  if !s.st.ready && !actsEarly off then s
  else if off = 0x10000 then
    (if bit mask 0 && bit v 31 && decide (bits v 0 16 = 0x5A17) then resetRequest 2 found s else s)
  else if off = 0x10100 then
    (if bit (v &&& mask) 63 then { s with st := { s.st with agrValid := false } } else s)
  else if off = 0x20000 then
    let s1 := if bit mask 0 then applyCap (v % 2 ^ 32) 0 s else s
    if bit mask 32 then showStage { s1 with pwr := { setFloor (bit v 33) s1.pwr with boostEn := bit v 32 } } else s1
  else if off < 0x40000 then s
  else if off < 0x100000 then hifWrite off mask v s
  else if off < 0x200000 then memWrite off mask v s
  else if off < 0x280000 then s
  else if off < 0x300000 then trnWrite off mask v s
  else if off < 0x500000 then s
  else if off < 0x580000 then
    let n := (off - 0x503000) / 0x20
    if 0x503000 ≤ off ∧ off < 0x504000 ∧ off % 0x20 = 8 ∧ n < numUserLanes s.variant ∧ mask % 2 = 1 then
      setUserLane s n { getUserLane s n with post := bits v 8 5, pre := bits v 0 4 }
    else s
  else if off < 0x600000 then lanWrite off mask v found eye s
  else if off < 0x700000 then secWrite off mask v s
  else plcWrite off mask v s

/-- A write to BAR0. -/
def bar0Write (f off size v : Nat) (found : BootFindings) (eye : Nat × Nat) (s : State) : State :=
  let slot := off / 8 * 8
  let w := v % 2 ^ (8 * size) * 2 ^ (8 * (off % 8))
  if !accessOk off size || decide (0x1000000 ≤ off) then s
  else if f ≠ 0 then
    (if 0x10000 ≤ slot ∧ slot < 0x18000 then msixWrite f (slot - 0x10000) (accessMask off size) w s else s)
  else slotWrite slot (accessMask off size) w found eye s

/-! ### The SMBus (R440) -/

/-- Whether a read over the SMBus reaches an offset. -/
def smbusReach (off : Nat) : Bool :=
  decide (off < 0x40000 ∨ (0x680000 ≤ off ∧ off < 0x700000) ∨ (0xB0000 ≤ off ∧ off < 0xB0004))

/-- A read of some bytes; a failing PEC is NACKed. -/
def smbusReadOp (off size : Nat) (pecOk : Bool) (s : State) : State :=
  if !s.st.standbyDone then s
  else if !pecOk then emit .smbusNack s
  else if smbusReach off then
    let (v, s1) := bar0Read 0 off size s
    emit (.smbus (leBytes size v)) s1
  else emit (.smbus (leBytes size 0)) s

/-! ### The commands -/

/-- READ32 (R440). -/
def execRead32 (offset : Nat) (pecOk : Bool) (s : State) : Host.Outcome State Fault Refusal :=
  .next (smbusReadOp offset 4 pecOk s)

/-- READ64 (R440). -/
def execRead64 (offset : Nat) (pecOk : Bool) (s : State) : Host.Outcome State Fault Refusal :=
  .next (smbusReadOp offset 8 pecOk s)

/-- REGISTER_WRITE (R14). -/
def execRegisterWrite (func offset size : Nat) (value : W64) (found : BootFindings) (eye : Nat × Nat) (s : State) :
    Host.Outcome State Fault Refusal :=
  .next (if s.st.standbyDone && funcEnabled s func then bar0Write func offset size value.toNat found eye s else s)

/-- REGISTER_READ_CLEAR (R14). -/
def execRegisterReadClear (func offset size : Nat) (s : State) : Host.Outcome State Fault Refusal :=
  .next (
    if s.st.standbyDone && funcEnabled s func then
      let (v, s1) := bar0Read func offset size s
      emit (.bar0 func offset size v) s1
    else s)

end Sys2Proof.Machine
end

