-- ==== Sys2Proof/Machine/Dispatch.lean ====
section
/-! DEFINITION. One arm per command: a direct call of its meaning. -/

namespace Sys2Proof.Machine

/-- The effect of a command on everything but the queue of waiting commands. -/
def exec (i : Instr) (s : State) : Host.Outcome State Fault Refusal :=
  match i with
  | .standbyPowerOn role ident found => Sys2Proof.Machine.execStandbyPowerOn role ident found s
  | .p12vauxLoss => Sys2Proof.Machine.execP12vauxLoss s
  | .p48vInRange found => Sys2Proof.Machine.execP48vInRange found s
  | .p48vBelow38v => Sys2Proof.Machine.execP48vBelow38v s
  | .p48vAbove62v => Sys2Proof.Machine.execP48vAbove62v s
  | .perstAssert found => Sys2Proof.Machine.execPerstAssert found s
  | .perstDeassert => Sys2Proof.Machine.execPerstDeassert s
  | .hotReset => Sys2Proof.Machine.execHotReset s
  | .functionLevelReset func => Sys2Proof.Machine.execFunctionLevelReset func s
  | .lockStepMismatch found => Sys2Proof.Machine.execLockStepMismatch found s
  | .rstCtrlDevice value found => Sys2Proof.Machine.execRstCtrlDevice value found s
  | .read32 offset pecOk => Sys2Proof.Machine.execRead32 offset pecOk s
  | .read64 offset pecOk => Sys2Proof.Machine.execRead64 offset pecOk s
  | .setCap watts pecOk => Sys2Proof.Machine.execSetCap watts pecOk s
  | .smbusReset key pecOk found => Sys2Proof.Machine.execSmbusReset key pecOk found s
  | .pwrCapWrite value => Sys2Proof.Machine.execPwrCapWrite value s
  | .governorSample watts millivolts temps => Sys2Proof.Machine.execGovernorSample watts millivolts temps s
  | .governorWindowEnd => Sys2Proof.Machine.execGovernorWindowEnd s
  | .thermalComparatorTrip sensor temp => Sys2Proof.Machine.execThermalComparatorTrip sensor temp s
  | .registerWrite func offset size value found eye => Sys2Proof.Machine.execRegisterWrite func offset size value found eye s
  | .registerReadClear func offset size => Sys2Proof.Machine.execRegisterReadClear func offset size s
  | .bar2Read offset len => Sys2Proof.Machine.execBar2Read offset len s
  | .bar2Write offset data => Sys2Proof.Machine.execBar2Write offset data s
  | .submissionDoorbell func queue size value => Sys2Proof.Machine.execSubmissionDoorbell func queue size value s
  | .completionHeadDoorbell func queue size value => Sys2Proof.Machine.execCompletionHeadDoorbell func queue size value s
  | .fetchDescriptor => Sys2Proof.Machine.execFetchDescriptor s
  | .completionWrite op => Sys2Proof.Machine.execCompletionWrite op s
  | .interruptTimer queue => Sys2Proof.Machine.execInterruptTimer queue s
  | .vectorUnmask func vector => Sys2Proof.Machine.execVectorUnmask func vector s
  | .qgpCommit group => Sys2Proof.Machine.execQgpCommit group s
  | .qgpApply group => Sys2Proof.Machine.execQgpApply group s
  | .qgpAbort group queues => Sys2Proof.Machine.execQgpAbort group queues s
  | .reserve group size rd wr => Sys2Proof.Machine.execReserve group size rd wr s
  | .release group size => Sys2Proof.Machine.execRelease group size s
  | .unmap group size => Sys2Proof.Machine.execUnmap group size s
  | .protect group size rd wr => Sys2Proof.Machine.execProtect group size rd wr s
  | .mmuCmdDone group => Sys2Proof.Machine.execMmuCmdDone group s
  | .iwinCommit window => Sys2Proof.Machine.execIwinCommit window s
  | .iwinApply window => Sys2Proof.Machine.execIwinApply window s
  | .nop op => Sys2Proof.Machine.execNop op s
  | .copy op => Sys2Proof.Machine.execCopy op s
  | .convert op => Sys2Proof.Machine.execConvert op s
  | .gather op => Sys2Proof.Machine.execGather op s
  | .scatter op late => Sys2Proof.Machine.execScatter op late s
  | .fill op => Sys2Proof.Machine.execFill op s
  | .elemwise op => Sys2Proof.Machine.execElemwise op s
  | .reduce op tree => Sys2Proof.Machine.execReduce op tree s
  | .scan op trees => Sys2Proof.Machine.execScan op trees s
  | .matmul op tiles slices order => Sys2Proof.Machine.execMatmul op tiles slices order s
  | .conv op tiles slices order => Sys2Proof.Machine.execConv op tiles slices order s
  | .attend op tree => Sys2Proof.Machine.execAttend op tree s
  | .kvAppend op => Sys2Proof.Machine.execKvAppend op s
  | .kvTruncate op => Sys2Proof.Machine.execKvTruncate op s
  | .optstep op => Sys2Proof.Machine.execOptstep op s
  | .tileprog op tiles => Sys2Proof.Machine.execTileprog op tiles s
  | .streamIn op => Sys2Proof.Machine.execStreamIn op s
  | .streamOut op => Sys2Proof.Machine.execStreamOut op s
  | .bindMem op => Sys2Proof.Machine.execBindMem op s
  | .unbind op => Sys2Proof.Machine.execUnbind op s
  | .laneUp op => Sys2Proof.Machine.execLaneUp op s
  | .laneDown op => Sys2Proof.Machine.execLaneDown op s
  | .laneLock lane => Sys2Proof.Machine.execLaneLock lane s
  | .fabricTimeout op => Sys2Proof.Machine.execFabricTimeout op s
  | .allReduce op tree => Sys2Proof.Machine.execAllReduce op tree s
  | .reduceScatter op tree => Sys2Proof.Machine.execReduceScatter op tree s
  | .allGather op => Sys2Proof.Machine.execAllGather op s
  | .broadcast op => Sys2Proof.Machine.execBroadcast op s
  | .put op peerRecord status => Sys2Proof.Machine.execPut op peerRecord status s
  | .get op peerRecord status => Sys2Proof.Machine.execGet op peerRecord status s
  | .doorbellOp op => Sys2Proof.Machine.execDoorbellOp op s
  | .collectiveTimeout op => Sys2Proof.Machine.execCollectiveTimeout op s
  | .trnArrive op => Sys2Proof.Machine.execTrnArrive op s
  | .trnWait op => Sys2Proof.Machine.execTrnWait op s
  | .trnArriveWait op => Sys2Proof.Machine.execTrnArriveWait op s
  | .signal op => Sys2Proof.Machine.execSignal op s
  | .trnTimeout op peer => Sys2Proof.Machine.execTrnTimeout op peer s
  | .fenceRelease dev queue => Sys2Proof.Machine.execFenceRelease dev queue s
  | .groupGenBroadcast trn gen => Sys2Proof.Machine.execGroupGenBroadcast trn gen s
  | .trnCfgWrite trn value => Sys2Proof.Machine.execTrnCfgWrite trn value s
  | .setCount trn value => Sys2Proof.Machine.execSetCount trn value s
  | .setGen trn value => Sys2Proof.Machine.execSetGen trn value s
  | .completeGen trn value => Sys2Proof.Machine.execCompleteGen trn value s
  | .deadlockFire watcher => Sys2Proof.Machine.execDeadlockFire watcher s
  | .affinity op => Sys2Proof.Machine.execAffinity op s
  | .keepNear op => Sys2Proof.Machine.execKeepNear op s
  | .pinData op => Sys2Proof.Machine.execPinData op s
  | .pinTiles op => Sys2Proof.Machine.execPinTiles op s
  | .priorityMode op => Sys2Proof.Machine.execPriorityMode op s
  | .unpinData op => Sys2Proof.Machine.execUnpinData op s
  | .unpinTiles op => Sys2Proof.Machine.execUnpinTiles op s
  | .cfgLoad op flashOk => Sys2Proof.Machine.execCfgLoad op flashOk s
  | .cfgCommit op flashOk => Sys2Proof.Machine.execCfgCommit op flashOk s
  | .cfgApply => Sys2Proof.Machine.execCfgApply s
  | .cfgDrainTimeout => Sys2Proof.Machine.execCfgDrainTimeout s
  | .cfgRevert op flashOk => Sys2Proof.Machine.execCfgRevert op flashOk s
  | .advanceSvn value => Sys2Proof.Machine.execAdvanceSvn value s
  | .scrubPass found => Sys2Proof.Machine.execScrubPass found s
  | .spdmRequest code index body => Sys2Proof.Machine.execSpdmRequest code index body s
  | .ideKmKeyProgram func stream inSession ok => Sys2Proof.Machine.execIdeKmKeyProgram func stream inSession ok s
  | .writeKeySlot slot kek hash inSession => Sys2Proof.Machine.execWriteKeySlot slot kek hash inSession s
  | .revokeSlot slot inSession => Sys2Proof.Machine.execRevokeSlot slot inSession s
  | .debugUnlock key sig inSession => Sys2Proof.Machine.execDebugUnlock key sig inSession s
  | .placementSnapshot value => Sys2Proof.Machine.execPlacementSnapshot value s
  | .contextCopy value => Sys2Proof.Machine.execContextCopy value s
  | .migCtrlWrite value => Sys2Proof.Machine.execMigCtrlWrite value s
  | .migrationEpoch => Sys2Proof.Machine.execMigrationEpoch s
  | .migrationDone asid page readOk => Sys2Proof.Machine.execMigrationDone asid page readOk s
  | .speedSample rates spareOk => Sys2Proof.Machine.execSpeedSample rates spareOk s
  | .sweepTimeout sweep => Sys2Proof.Machine.execSweepTimeout sweep s
  | .acc tile cmd feed spareOk => Sys2Proof.Machine.execAcc tile cmd feed spareOk s
  | .accDrain tile cmd feed spareOk => Sys2Proof.Machine.execAccDrain tile cmd feed spareOk s
  | .drain tile cmd spareOk => Sys2Proof.Machine.execDrain tile cmd spareOk s
  | .setMode tile cmd spareOk => Sys2Proof.Machine.execSetMode tile cmd spareOk s
  | .check tile cmd faults spareOk => Sys2Proof.Machine.execCheck tile cmd faults spareOk s
  | .drainEnd tile part => Sys2Proof.Machine.execDrainEnd tile part s
  | .multicastPrune tree member => Sys2Proof.Machine.execMulticastPrune tree member s
  | .shardArrive group pos => Sys2Proof.Machine.execShardArrive group pos s
  | .readResponse tile slot line bad => Sys2Proof.Machine.execReadResponse tile slot line bad s
  | .faultResolved op => Sys2Proof.Machine.execFaultResolved op s
  | .priResponse func pasid page code rd wr => Sys2Proof.Machine.execPriResponse func pasid page code rd wr s
  | .priTimeout func pasid page => Sys2Proof.Machine.execPriTimeout func pasid page s
  | .atsInvalidate func pasid page count itag => Sys2Proof.Machine.execAtsInvalidate func pasid page count itag s
  | .preempt tile part stream prio => Sys2Proof.Machine.execPreempt tile part stream prio s
  | .resume ctx tile ok => Sys2Proof.Machine.execResume ctx tile ok s
  | .imageLoad tile addr tag => Sys2Proof.Machine.execImageLoad tile addr tag s
  | .epilogueRunStart tile => Sys2Proof.Machine.execEpilogueRunStart tile s
  | .swaitResume tile => Sys2Proof.Machine.execSwaitResume tile s
  | .vxNop tile => Sys2Proof.Machine.execVxNop tile s
  | .halt tile => Sys2Proof.Machine.execHalt tile s
  | .jmp tile => Sys2Proof.Machine.execJmp tile s
  | .bnz tile => Sys2Proof.Machine.execBnz tile s
  | .loop tile => Sys2Proof.Machine.execLoop tile s
  | .swait tile => Sys2Proof.Machine.execSwait tile s
  | .srel tile => Sys2Proof.Machine.execSrel tile s
  | .vemit tile => Sys2Proof.Machine.execVemit tile s
  | .smovi tile => Sys2Proof.Machine.execSmovi tile s
  | .smovh tile => Sys2Proof.Machine.execSmovh tile s
  | .sadd tile => Sys2Proof.Machine.execSadd tile s
  | .radv tile => Sys2Proof.Machine.execRadv tile s
  | .vld tile => Sys2Proof.Machine.execVld tile s
  | .vst tile => Sys2Proof.Machine.execVst tile s
  | .vmovs tile => Sys2Proof.Machine.execVmovs tile s
  | .vperm tile => Sys2Proof.Machine.execVperm tile s
  | .vadd tile => Sys2Proof.Machine.execVadd tile s
  | .vsub tile => Sys2Proof.Machine.execVsub tile s
  | .vmul tile => Sys2Proof.Machine.execVmul tile s
  | .vfma tile => Sys2Proof.Machine.execVfma tile s
  | .vmax tile => Sys2Proof.Machine.execVmax tile s
  | .vmin tile => Sys2Proof.Machine.execVmin tile s
  | .vcmp tile => Sys2Proof.Machine.execVcmp tile s
  | .vsel tile => Sys2Proof.Machine.execVsel tile s
  | .vaddh tile => Sys2Proof.Machine.execVaddh tile s
  | .vmulh tile => Sys2Proof.Machine.execVmulh tile s
  | .vfmah tile => Sys2Proof.Machine.execVfmah tile s
  | .vcvt tile => Sys2Proof.Machine.execVcvt tile s
  | .vred tile => Sys2Proof.Machine.execVred tile s
  | .vexp2 tile => Sys2Proof.Machine.execVexp2 tile s
  | .vlog2 tile => Sys2Proof.Machine.execVlog2 tile s
  | .vrcp tile => Sys2Proof.Machine.execVrcp tile s
  | .vrsqrt tile => Sys2Proof.Machine.execVrsqrt tile s
  | .qadd tile => Sys2Proof.Machine.execQadd tile s
  | .qsub tile => Sys2Proof.Machine.execQsub tile s
  | .qmul tile => Sys2Proof.Machine.execQmul tile s
  | .qmac tile => Sys2Proof.Machine.execQmac tile s
  | .qmsu tile => Sys2Proof.Machine.execQmsu tile s
  | .aclr tile => Sys2Proof.Machine.execAclr tile s
  | .aget tile => Sys2Proof.Machine.execAget tile s
  | .vtap tile => Sys2Proof.Machine.execVtap tile s
  | .pageLockGrant page => Sys2Proof.Machine.execPageLockGrant page s
  | .floeParityError stack engine => Sys2Proof.Machine.execFloeParityError stack engine s
  | .memRequest origin addr write data enables close op => Sys2Proof.Machine.execMemRequest origin addr write data enables close op s
  | .issueSlot stack busy bad parity => Sys2Proof.Machine.execIssueSlot stack busy bad parity s
  | .refresh stack pc bank => Sys2Proof.Machine.execRefresh stack pc bank s
  | .tempRead stack temp => Sys2Proof.Machine.execTempRead stack temp s
  | .retrain stack pc ok => Sys2Proof.Machine.execRetrain stack pc ok s
  | .rowIdleClose stack pc bank => Sys2Proof.Machine.execRowIdleClose stack pc bank s
  | .patrol stack odeCount found => Sys2Proof.Machine.execPatrol stack odeCount found s
  | .rowRepair stack pc bank row spares badLines => Sys2Proof.Machine.execRowRepair stack pc bank row spares badLines s
  | .cxlLinkDown port => Sys2Proof.Machine.execCxlLinkDown port s
  | .cxlRetrainTimeout port => Sys2Proof.Machine.execCxlRetrainTimeout port s
  | .hostLaneFail width => Sys2Proof.Machine.execHostLaneFail width s
  | .hostLinkLoss => Sys2Proof.Machine.execHostLinkLoss s
  | .flitCrcFail source target net inject replay => Sys2Proof.Machine.execFlitCrcFail source target net inject replay s
  | .cascFlitReceive link flit bad fixed => Sys2Proof.Machine.execCascFlitReceive link flit bad fixed s
  | .cascWrite dev seq queue addr group len off line => Sys2Proof.Machine.execCascWrite dev seq queue addr group len off line s
  | .cascRead dev seq addr group len off rtag => Sys2Proof.Machine.execCascRead dev seq addr group len off rtag s
  | .readData dev seq rtag status line => Sys2Proof.Machine.execReadData dev seq rtag status line s
  | .writeDone dev seq status lines => Sys2Proof.Machine.execWriteDone dev seq status lines s
  | .cascSignal dev seq queue func trn n gen curgen fence => Sys2Proof.Machine.execCascSignal dev seq queue func trn n gen curgen fence s
  | .signalDone dev seq status queue => Sys2Proof.Machine.execSignalDone dev seq status queue s
  | .trnOp dev seq kind trn gen n curgen wtag func queue => Sys2Proof.Machine.execTrnOp dev seq kind trn gen n curgen wtag func queue s
  | .trnRel dev seq trn gen => Sys2Proof.Machine.execTrnRel dev seq trn gen s
  | .trnDone dev seq wtag status => Sys2Proof.Machine.execTrnDone dev seq wtag status s
  | .cascDoorbell dev seq func queue value => Sys2Proof.Machine.execCascDoorbell dev seq func queue value s
  | .markerSend lane => Sys2Proof.Machine.execMarkerSend lane s
  | .idleEnter link => Sys2Proof.Machine.execIdleEnter link s
  | .idleNullBurst link => Sys2Proof.Machine.execIdleNullBurst link s
  | .idleExit link => Sys2Proof.Machine.execIdleExit link s
  | .laneFail lane => Sys2Proof.Machine.execLaneFail lane s
  | .linkRetrainDone link half reach => Sys2Proof.Machine.execLinkRetrainDone link half reach s
  | .cascadeForm value peers edges master => Sys2Proof.Machine.execCascadeForm value peers edges master s
  | .followerHostTimeout => Sys2Proof.Machine.execFollowerHostTimeout s
  | .eyeScan value errors compared => Sys2Proof.Machine.execEyeScan value errors compared s
  | .queuePush port data keep last => Sys2Proof.Machine.execQueuePush port data keep last s
  | .queuePop port => Sys2Proof.Machine.execQueuePop port s
  | .ramAccess block write addr data => Sys2Proof.Machine.execRamAccess block write addr data s
  | .portWord port data keep last => Sys2Proof.Machine.execPortWord port data keep last s
  | .memPortRequest port addr len write data enables => Sys2Proof.Machine.execMemPortRequest port addr len write data enables s
  | .pinChange pin level => Sys2Proof.Machine.execPinChange pin level s
  | .bankSupplyChange bank millivolts => Sys2Proof.Machine.execBankSupplyChange bank millivolts s
  | .pacerTick pacer acked drive sample => Sys2Proof.Machine.execPacerTick pacer acked drive sample s
  | .pacerCalibrate pacer deviation => Sys2Proof.Machine.execPacerCalibrate pacer deviation s
  | .laneRxWord lane word taken => Sys2Proof.Machine.execLaneRxWord lane word taken s
  | .laneTxWord lane words => Sys2Proof.Machine.execLaneTxWord lane words s
  | .flashLogWrite => Sys2Proof.Machine.execFlashLogWrite s
  | .freeze value => Sys2Proof.Machine.execFreeze value s
  | .moraineCopy value => Sys2Proof.Machine.execMoraineCopy value s
  | .moraineClear value => Sys2Proof.Machine.execMoraineClear value s
  | .iceCommit => Sys2Proof.Machine.execIceCommit s
  | .iceCalSet value => Sys2Proof.Machine.execIceCalSet value s
  | .configurationRequest func item write value => Sys2Proof.Machine.execConfigurationRequest func item write value s
  | .translationCompletion func pasid page rd wr untranslated => Sys2Proof.Machine.execTranslationCompletion func pasid page rd wr untranslated s
  | .cxlLinkRetrained port width rate => Sys2Proof.Machine.execCxlLinkRetrained port width rate s
  | .hostLinkUp width rate flit => Sys2Proof.Machine.execHostLinkUp width rate flit s
  | .cascLinkTrained link partner partnerLink => Sys2Proof.Machine.execCascLinkTrained link partner partnerLink s
  | .markerReceive lane count skew => Sys2Proof.Machine.execMarkerReceive lane count skew s
  | .collectiveControl dev seq tag members kind count codes status => Sys2Proof.Machine.execCollectiveControl dev seq tag members kind count codes status s
  | .moraineInterruptTimer => Sys2Proof.Machine.execMoraineInterruptTimer s
  | .latchCapture cell req ones => Sys2Proof.Machine.execLatchCapture cell req ones s

end Sys2Proof.Machine
end

