-- ==== Sys2Proof/Safety.lean ====
section
/-! DEFINITION. What a safe state is (both memories in their canonical form), what every command keeps, and how a
start-up ends. -/

namespace Sys2Proof.Machine

/-- The memory of the stacks and the second tier, and what the device has written to host memory, are in their
canonical form. -/
def State.memWf (s : State) : Bool := Memory.wf s.dmem && tsorted s.hmem

/-- The parts of a state that `Keeps` speaks of. -/
structure Kernel where
  variant : Variant
  fused : Fused
  pending : List Instr
  outbox : List Out
  fresh : Nat
  dmem : Memory
  hmem : Table Byte

def State.kernel (s : State) : Kernel := ⟨s.variant, s.fused, s.pending, s.outbox, s.fresh, s.dmem, s.hmem⟩

/-- What every command keeps, from a state to a later one: the part and its fuses are the same (R1, R425), the
waiting commands stand as they are, no message that has left is taken back, no open value is taken twice, and
memories in canonical form stay so. -/
def Kernel.Keeps (a b : Kernel) : Prop :=
  b.variant = a.variant ∧ b.fused = a.fused ∧ b.pending = a.pending ∧ a.outbox <+: b.outbox ∧ a.fresh ≤ b.fresh ∧
    (Memory.wf a.dmem = true → Memory.wf b.dmem = true) ∧ (tsorted a.hmem = true → tsorted b.hmem = true)

def Keeps (s t : State) : Prop := s.kernel.Keeps t.kernel

/-- How the main phase ends: READY at step 0x0019, or at the step that fails, with its code and VCORE removed (R416, R419,
R426). -/
def StartUpEnded (found : BootFindings) (t : State) : Prop :=
  (t.st.ready = true ∧ t.st.step = 0x19 ∧ found.railFails = false ∧ found.linksTrain = true) ∨
    (t.st.failed = true ∧ t.pwr.vcoreMv = 0 ∧
      ((t.st.step = 0x10 ∧ t.st.code = 1 ∧ found.railFails = true) ∨ (t.st.step = 0x11 ∧ t.st.code = 2) ∨
        (t.st.step = 0x12 ∧ t.st.code = 3 ∧ found.linksTrain = false) ∨ (t.st.step = 0x13 ∧ t.st.code = 4)))

end Sys2Proof.Machine
end

