-- ==== Sys2Proof/Certificates/Slice0/Obligations.lean ====
section
/-! DEFINITION. The statements for the provers. A clause that names a state t says what the command answers and what
t holds; a clause that ends in `{ s with … }` says in addition that nothing else changes. -/

section

open Sys2Proof Sys2Proof.Machine

/-! ### The block as a whole -/

/-- A step with a command at the front of the queue is exec of that command on the state with the queue's rest. -/
def Obligations.StepRunsFrontCommand : Prop :=
  ∀ (s : State) (c : Instr) (rest : List Instr), s.pending = c :: rest → step s = exec c { s with pending := rest }

/-- With no command waiting a step is a tick of Ringmaster time: 1 ns while the auxiliary input is present, and nothing
at all before (the tick is the model's own: log entry 9). -/
def Obligations.IdleStepIsATick : Prop :=
  (∀ s : State, s.pending = [] → s.st.auxOn = false → step s = .next s) ∧
  ∀ s : State, s.pending = [] → s.st.auxOn = true →
    ∃ t, step s = .next t ∧ t.time = s.time + 1 ∧ t.pending = [] ∧ t.outbox = s.outbox ∧ t.ops = s.ops ∧
      t.queues = s.queues ∧ t.groups = s.groups ∧ t.pages = s.pages ∧ t.tiles = s.tiles ∧ t.trns = s.trns ∧
      t.casc = s.casc ∧ t.mid = s.mid ∧ t.cfg = s.cfg ∧ t.mor = s.mor ∧ t.place = s.place ∧
      t.memStacks = s.memStacks ∧ t.dmem = s.dmem ∧ t.hmem = s.hmem

/-- The machine at reset: no power input is applied, no command waits and no message has left, time stands at 0, no queue
is enabled and no operation is in flight, every Turnstile has COUNT 1 in generation 0 with nobody waiting, no link is up and
no design is loaded, and both memories are in canonical form (R10, R267, R293, R416). -/
def Obligations.ResetState : Prop :=
  State.reset.st.auxOn = false ∧ State.reset.st.ready = false ∧ State.reset.pending = [] ∧ State.reset.outbox = [] ∧
  State.reset.time = 0 ∧ State.reset.ops = [] ∧ (∀ q, (getQueue State.reset q).entry.enable = false) ∧
  (∀ t, (getTrn State.reset t).count = 1 ∧ (getTrn State.reset t).gen = 0 ∧ (getTrn State.reset t).arrived = 0 ∧
    (getTrn State.reset t).waiters = []) ∧
  State.reset.link.up = false ∧ (∀ l, (getLink State.reset l).up = false) ∧ State.reset.mid.loaded = false ∧
  State.reset.cfg.staged = none ∧ State.reset.memWf = true

/-- Every command of the queue answers a next state: the block never stops. -/
def Obligations.EveryStepGoesOn : Prop := ∀ s : State, ∃ t, step s = .next t

/-- Every step keeps both memories in canonical form, in every state that has them so. -/
def Obligations.StepKeepsMemoryForm : Prop :=
  ∀ s t : State, s.memWf = true → step s = .next t → t.memWf = true

/-- Whatever the command: the variant and the fuses stay, the commands that wait stay, no message that has left is taken
back or changed, and no open value is taken a second time. -/
def Obligations.StepKeepsPartAndMessages : Prop :=
  ∀ s t : State, step s = .next t →
    t.variant = s.variant ∧ t.fused = s.fused ∧ t.pending = s.pending.tail ∧ s.outbox <+: t.outbox ∧ s.fresh ≤ t.fresh

/-- Commands that store nothing (a flit that is replayed among them, but not its eighth failure, which ends all work; a cascade flit
without a message; the release of a fence, and the end of a retrain, while no packet is held): whatever they do, in every state, every byte of device memory and of host memory reads as before, and so do the address maps and the
interleave windows (frames). -/
def Obligations.CommandsThatStoreNothing : Prop :=
  ∀ (c : Instr) (s t : State), exec c s = .next t →
    (match c with
      | .trnArrive _ | .trnWait _ | .trnArriveWait _ | .signal _ | .trnTimeout _ _ | .trnCfgWrite _ _ | .setCount _ _
      | .setGen _ _ | .completeGen _ _ | .groupGenBroadcast _ _ | .deadlockFire _
      | .markerSend _ | .markerReceive _ _ _
      | .idleEnter _ | .idleNullBurst _ | .idleExit _ | .laneFail _
      | .cascLinkTrained _ _ _ | .cascadeForm _ _ _ _ | .followerHostTimeout | .eyeScan _ _ _
      | .bindMem _ | .laneUp _ | .laneDown _ | .laneLock _ | .fabricTimeout _
      | .ramAccess _ _ _ _ | .pinChange _ _ | .bankSupplyChange _ _ | .pacerTick _ _ _ _ | .pacerCalibrate _ _
      | .laneRxWord _ _ _ | .laneTxWord _ _ | .latchCapture _ _ _ | .submissionDoorbell _ _ _ _
      | .completionHeadDoorbell _ _ _ _ | .vectorUnmask _ _ | .interruptTimer _ | .nop _ | .freeze _ | .iceCommit
      | .iceCalSet _ | .advanceSvn _ | .spdmRequest _ _ _ | .ideKmKeyProgram _ _ _ _ | .writeKeySlot _ _ _ _
      | .revokeSlot _ _ | .debugUnlock _ _ _ | .doorbellOp _ => true
      | .flitCrcFail _ _ _ _ replay => decide (replay < 8)
      | .cascFlitReceive _ flit _ _ => (flitSlots flit).isEmpty
      | .fenceRelease _ _ | .linkRetrainDone _ _ _ => s.casc.rxHeld.isEmpty
      | _ => false) = true →
    (∀ a, t.dmem.read a = s.dmem.read a) ∧ t.hmem = s.hmem ∧
      t.pages = s.pages ∧ t.windows = s.windows

/-! ### Bytes and addresses -/

/-- The interleaving mapping gives two addresses of a window with a power-of-two grain and a rising set of stacks the same
stack, pseudo-channel and byte only if they are equal (R219, R220). -/
def Obligations.WindowMapIsOneToOne : Prop :=
  ∀ (w : WinCfg) (a b : Nat), winStacks w ≠ [] → w.base ≤ a → w.base ≤ b → winMap w a = winMap w b → a = b

/-- A number of n bytes written little-endian reads back modulo 256 to the n (R12), and takes n bytes. A run of bytes
written to memory reads back, and every byte outside the run is as before. What a physical write leaves: only memory, the
bytes gathered for lost lines and the remap tables of the stacks can change. -/
def Obligations.BytesAndMemory : Prop :=
  (∀ n x : Nat, (leBytes n x).length = n ∧ leNat (leBytes n x) = x % 256 ^ n) ∧
  (∀ (m : Memory) (a : Nat) (bs : List Byte),
    (m.writeN a bs).readN a bs.length = bs ∧ ∀ c, c < a ∨ a + bs.length ≤ c → (m.writeN a bs).read c = m.read c) ∧
  (∀ (n a : Nat) (bs : List Byte) (s : State), ∃ m f k,
    writePhys n a bs s = { s with dmem := m, fills := f, memStacks := k } ∧
      ∀ c, c < a ∨ a + bs.length ≤ c → m.read c = s.dmem.read c)

/-- The codes of T4 decode as the table of R38 lists them, and no value is ever stored as the code 0b1000 (R37, R38). -/
def Obligations.T4Codes : Prop :=
  (∀ c < 16, ∃ n d, decodeElem 0x23 c = .fin (decide (8 < c)) n d ∧ 0 < d ∧
    2 * n = [0, 1, 2, 3, 4, 6, 8, 12].getD (c % 8) 0 * d) ∧
  ∀ (arith : Nat) (v : XVal), (storeVal 0x23 arith v).1 ≠ 8

/-! ### Power and resets (chapters 01, 18, 19) -/

/-- The auxiliary input: STANDBY_POWER_ON starts time at 0, samples the straps and leaves no operation. Without a Ringmaster pair
and a firmware image that the boot ROM can run nothing more happens; with them the standby phase ends and the cycle is counted,
and with the 48 V supply in its limits the main phase runs: it ends READY at step 0x0019, or failed with the step, its code and
VCORE removed. Where the main phase does not run, no queue, mapping or byte of device memory is left. P12VAUX_LOSS removes the
rails, the operations, the queues, device memory and the ring, and leaves what flash and fuses hold; of the ledger, time counters
alone are lost (R411, R416, R419, R421, R437). The 48 V supply: entering its limits is noted while the rails are on, and begins
the main phase when the standby phase has ended and no thermal hold is in force; leaving them, below 38 V or above 62 V, removes
the rails and the work in flight, and leaves CAUSE, DEVICE_RESETS and time (R416, R437). -/
def Obligations.PowerInputs : Prop :=
  ((∀ (s : State) (role ident : Nat) (found : BootFindings), ∃ t,
    exec (.standbyPowerOn role ident found) s = .next t ∧ t.st.auxOn = true ∧ t.time = 0 ∧ t.ops = [] ∧
      t.st.strapRole = role % 4 ∧ t.st.strapId = ident % 16 ∧ t.casc.role = role % 4 ∧ t.casc.ident = ident % 16 ∧
      ((∃ d ∈ found.pairsPass, d < numDies s.variant) ∧ chooseFirmware s ≠ none →
        t.st.standbyDone = true ∧ t.ice.now.standbyCycles = (iceBest s.ice).standbyCycles + 1 ∧
        (s.st.supplyOk = true → StartUpEnded found t)) ∧
      (¬((∃ d ∈ found.pairsPass, d < numDies s.variant) ∧ chooseFirmware s ≠ none) → t.st.standbyDone = false) ∧
      (t.st.standbyDone = false ∨ s.st.supplyOk = false →
        t.st.ready = false ∧ t.st.railsOn = false ∧ t.queues = [] ∧ t.pages = [] ∧ t.dmem = [])) ∧
  (∀ s : State, ∃ t, exec .p12vauxLoss s = .next t ∧ t.st.auxOn = false ∧ t.st.standbyDone = false ∧
    t.st.railsOn = false ∧ t.st.ready = false ∧ t.pwr.vcoreMv = 0 ∧ t.ops = [] ∧ t.queues = [] ∧ t.dmem = [] ∧
    t.mor.ring = [] ∧ t.mor.flash = s.mor.flash ∧ t.cfg.areas = s.cfg.areas ∧ t.cfg.roles = s.cfg.roles ∧
    t.cfg.slots = s.cfg.slots ∧ t.cfg.fwA = s.cfg.fwA ∧ t.cfg.fwB = s.cfg.fwB ∧ t.cfg.fuseSvn = s.cfg.fuseSvn ∧
    t.fused = s.fused ∧
    ((iceBest s.ice).commitSeq ≤ s.ice.now.commitSeq → timeless (iceBest t.ice) = timeless s.ice.now))) ∧
  ((∀ (s : State) (found : BootFindings), s.st.railsOn = true →
    exec (.p48vInRange found) s = .next { s with st := { s.st with supplyOk := true } }) ∧
  (∀ (s : State) (found : BootFindings), s.st.railsOn = false → s.st.standbyDone = true → s.st.thermalHold = false →
    ∃ t, exec (.p48vInRange found) s = .next t ∧ t.st.supplyOk = true ∧ t.time = s.time ∧ StartUpEnded found t) ∧
  (∀ (c : Instr) (s : State), c = .p48vBelow38v ∨ c = .p48vAbove62v → s.st.auxOn = true → s.st.railsOn = true →
    ∃ t, exec c s = .next t ∧ t.st.supplyOk = false ∧ t.st.railsOn = false ∧ t.st.ready = false ∧
      t.pwr.vcoreMv = 0 ∧ t.pwr.pwrGood = false ∧ t.ops = [] ∧ t.queues = [] ∧ t.dmem = [] ∧ t.link = {} ∧
      t.st.cause = s.st.cause ∧ t.st.deviceResets = s.st.deviceResets ∧ t.time = s.time))

/-- A device reset, requested by PERST#, by RST_CTRL.DEVICE, over the SMBus or by a lock-step mismatch: the cause is stored
and the resets are counted, a thermal hold ends, no operation is left, and time goes on; PERST# stays asserted, and a pair that
mismatched stays excluded. With a pair that may run and a firmware image, and the 48 V supply in its limits, the main phase
follows and ends READY or failed; where it does not follow, queues, mappings, Turnstiles and device memory are as after reset
(R419 to R422). While a thermal hold is in force and a sensor reads above 85 °C, a request of the register or of the SMBus
changes nothing (R420); nor does one without its key (R421, R440). -/
def Obligations.DeviceResets : Prop :=
  ∀ (s : State) (found : BootFindings), s.st.auxOn = true → s.st.standbyDone = true →
    ((s.st.thermalHold = true → anyAbove s.pwr.temps 85 = false) →
    ∀ (c : Instr) (cause : Nat) (out : List Nat) (runs : Bool),
      (c = .perstAssert found ∧ cause = 1) ∨
      (∃ v : W32, c = .rstCtrlDevice v found ∧ bit v.toNat 31 = true ∧ bits v.toNat 0 16 = 0x5A17 ∧ cause = 2) ∨
      (c = .smbusReset 0x5A17 true found ∧ cause = 3) ∨ (c = .lockStepMismatch found ∧ cause = 4) →
      out = (if cause = 4 then insertNat s.st.rmDie s.st.excluded else s.st.excluded) →
      runs = ((List.range (numDies s.variant)).any (fun d => decide (d ∈ found.pairsPass) && !decide (d ∈ out)) &&
        (chooseFirmware s).isSome) →
    ∃ t, exec c s = .next t ∧ t.st.cause = cause ∧ t.st.deviceResets = min 0xFFFF (s.st.deviceResets + 1) ∧
      t.st.thermalHold = false ∧ t.time = s.time ∧ t.ops = [] ∧ t.resets = s.resets + 1 ∧ t.st.excluded = out ∧
      (cause = 1 → t.st.perst = true) ∧ t.st.standbyDone = runs ∧
      (runs = true → s.st.supplyOk = true → StartUpEnded found t) ∧
      (runs = false ∨ s.st.supplyOk = false →
        t.st.ready = false ∧ t.queues = [] ∧ t.pages = [] ∧ t.trns = [] ∧ t.dmem = [])) ∧
    (s.st.thermalHold = true → anyAbove s.pwr.temps 85 = true → ∀ v : W32,
      exec (.rstCtrlDevice v found) s = .next s ∧ exec (.smbusReset 0x5A17 true found) s = .next s) ∧
    (∀ v : W32, bits v.toNat 0 16 ≠ 0x5A17 → exec (.rstCtrlDevice v found) s = .next s) ∧
    ∀ key, key ≠ 0x5A17 → exec (.smbusReset key true found) s = .next s

/-- Resets of the host interface: the release of PERST# lets the link train; HOT_RESET leaves every function as after reset,
and the link down, training while PERST# is released, with its retraining counted; FUNCTION_LEVEL_RESET of an enabled
function drops its translations and page requests, and no other function's (R267, R417, R421). -/
def Obligations.HostInterfaceResets : Prop :=
  (∀ s : State, s.st.perst = true → s.st.railsOn = true → s.st.standbyDone = true →
    exec .perstDeassert s =
      .next { s with st := { s.st with perst := false }, link := { s.link with training := true } }) ∧
  (∀ s : State, s.st.standbyDone = true → ∃ t, exec .hotReset s = .next t ∧ t.funcs = [] ∧
    t.link = { training := s.st.railsOn && !s.st.perst, retrains := min 0xFFFF (s.link.retrains + 1) }) ∧
  (∀ (s : State) (f : Nat), s.st.standbyDone = true → funcEnabled s f = true → ∃ t,
    exec (.functionLevelReset f) s = .next t ∧ t.ats = s.ats.filter (fun e => e.func != f) ∧
      t.pris = s.pris.filter (fun e => e.func != f))

/-- The cap: a write through BAR0 and SET_CAP with a good PEC store it between 800 W and 2,400 W and record CAP_CHANGED with
0 or 1 for the path; SET_CAP with a failing PEC is answered by a NACK and changes nothing (R27, R440). The governor: a
sample takes the input voltage and the sensors, and counts its power into the running window; one that finds a sensor at
115 °C or more while VCORE is on removes VCORE and begins the thermal hold; the end of a window takes the mean, empties the
window and brings the stored cap into force; the thermal comparator removes VCORE, completes nothing and begins the thermal
hold (R22, R26 to R28, R420). -/
def Obligations.PowerCapAndGovernor : Prop :=
  ((∀ (s : State) (v : W32), s.st.standbyDone = true →
    exec (.pwrCapWrite v) s =
      .next (record 0x0101 0x01 (leBytes 2 (max 800 (min 2400 v.toNat)) ++ leBytes 1 0)
        { s with pwr := { s.pwr with capW := max 800 (min 2400 v.toNat) } })) ∧
  (∀ (s : State) (w : Nat), s.st.standbyDone = true →
    exec (.setCap w true) s =
      .next (record 0x0101 0x01 (leBytes 2 (max 800 (min 2400 w)) ++ leBytes 1 1)
        { s with pwr := { s.pwr with capW := max 800 (min 2400 w) } }) ∧
    exec (.setCap w false) s = .next { s with outbox := s.outbox ++ [.smbusNack] })) ∧
  ((∀ (s : State) (w mv : Nat) (ts : List (Nat × Int)), s.st.standbyDone = true → ∃ t,
    exec (.governorSample w mv ts) s = .next t ∧ t.pwr.supplyMv = mv ∧
      t.pwr.temps = ts.foldl (fun l x => tinsert x.1 x.2 l) s.pwr.temps ∧
      t.pwr.winSum = s.pwr.winSum + w ∧ t.pwr.winCount = s.pwr.winCount + 1 ∧
      (s.pwr.vcoreMv ≠ 0 → (∃ x ∈ hottest t.pwr.temps, 115 ≤ x.2) →
        t.pwr.vcoreMv = 0 ∧ t.pwr.thermN = false ∧ t.st.thermalHold = true ∧ t.st.ready = false)) ∧
  (∀ s : State, s.st.standbyDone = true → ∃ t, exec .governorWindowEnd s = .next t ∧
    t.pwr.capInForce = s.pwr.capW ∧ t.pwr.winSum = 0 ∧ t.pwr.winCount = 0 ∧
    t.pwr.inputW = if s.pwr.winCount = 0 then 0 else s.pwr.winSum / s.pwr.winCount) ∧
  (∀ (s : State) (k : Nat) (c : Int), s.pwr.vcoreMv ≠ 0 → ∃ t, exec (.thermalComparatorTrip k c) s = .next t ∧
    t.pwr.vcoreMv = 0 ∧ t.pwr.thermN = false ∧ t.st.thermalHold = true ∧ t.st.ready = false ∧ t.ops = [] ∧
    t.ice.now.thermalTrips = s.ice.now.thermalTrips + 1 ∧ t.queues = s.queues ∧ t.dmem = s.dmem ∧ t.hmem = s.hmem))

/-! ### Moraine and Ice core (chapter 17) -/

/-- The ring after records are appended takes at most 16 MiB, keeps the newest record, and is a tail of what it was with the
record (R401). -/
def Obligations.RingKeepsNewest : Prop :=
  ∀ (v : Variant) (ring : List MorRec) (r : MorRec), recLen v r ≤ 16 * 2 ^ 20 →
    ringBytes v (ringAppend v ring r) ≤ 16 * 2 ^ 20 ∧ (ringAppend v ring r).getLast? = some r ∧
      ringAppend v ring r <:+ ring ++ [r]

/-- FLASH_LOG_WRITE stores the oldest record that waits behind the others when the log has room; FREEZE with bit 31 freezes
the ring, and without it a ring that loses nothing takes the pending records; in both the interrupt's severity and vector
are stored (R402, R406, R409). MORAINE_COPY with GO: a buffer below 64 bytes is answered DONE and TRUNC with nothing copied;
else the header and the selected records are written to the buffer, and DONE, TRUNC and FAULT say how it ended, or the copy
waits, BUSY, where a write's fault may still resolve (R407).
MORAINE_CLEAR with GO and a token that can be read: a new nonce is taken, RESULT is what the token's checks give; a token
that fails clears nothing and is recorded, one that passes clears what its scope names and is recorded (R408). -/
def Obligations.MoraineCommands : Prop :=
  ((∀ (s : State) (r : MorRec) (rs : List MorRec), s.st.auxOn = true → s.mor.toFlash = r :: rs →
    s.mor.flashEnd + recLen s.variant r ≤ s.mor.flashStart + flashSize →
    exec .flashLogWrite s = .next { s with mor := { s.mor with
      toFlash := rs, flash := s.mor.flash ++ [(s.mor.flashEnd, r)]
      flashEnd := s.mor.flashEnd + recLen s.variant r } }) ∧
  (∀ (s : State) (v : W32), s.st.standbyDone = true → bit v.toNat 31 = true →
    exec (.freeze v) s = .next { s with mor := { s.mor with
      irqSev := bits v.toNat 0 4, vector := bits v.toNat 4 11, frozen := true } }) ∧
  (∀ (s : State) (v : W32), s.st.standbyDone = true → bit v.toNat 31 = false → s.mor.frozen = true →
    s.mor.lostNow = 0 →
    exec (.freeze v) s = .next { s with mor := { s.mor with
      irqSev := bits v.toNat 0 4, vector := bits v.toNat 4 11, frozen := false, pending := [],
      ring := s.mor.pending.foldl (ringAppend s.variant) s.mor.ring } })) ∧
  ((∀ (s : State) (v : W32), s.st.standbyDone = true → bit v.toNat 31 = true → s.mor.copyLen < 64 →
    copyBusy s 0 = false → exec (.moraineCopy v) s = .next { s with mor := { s.mor with
      copySource := bit v.toNat 27, copyMinSev := bits v.toNat 0 4, copyDone := true, copyTrunc := true,
      copyFault := false } }) ∧
  (∀ (s u : State) (v : W32) (bs : List Byte) (more : Bool), s.st.standbyDone = true → bit v.toNat 31 = true →
    64 ≤ s.mor.copyLen → copyBusy s 0 = false →
    u = { s with mor := { s.mor with copySource := bit v.toNat 27, copyMinSev := bits v.toNat 0 4,
                                     copyDone := s.mor.copyDone && !bit v.toNat 29 } } →
    copyBytes u = (bs, more) →
    match copyOut (copyWho 0x0700) (bs.length / 64 + 2) s.mor.copyAddr bs u with
      | (none, s1) => exec (.moraineCopy v) s = .next { s1 with mor := { s1.mor with
          copyDone := true, copyTrunc := more, copyFault := false } }
      | (some (.wait k a, addr, rest), s1) => exec (.moraineCopy v) s =
          .next (startWait (copyWho 0x0700) true k a { s1 with
            copies := s1.copies ++ [{ kind := 0, addr, bytes := rest, trunc := more }] })
      | (some (e, _, _), s1) => ∃ t, exec (.moraineCopy v) s = .next t ∧ t.mor.copyDone = true ∧
          t.mor.copyTrunc = more ∧ t.mor.copyFault = true ∧ t.dmem = s1.dmem)) ∧
  (∀ (s u s1 : State) (v : W64) (b : List Byte), s.st.standbyDone = true → bit v.toNat 63 = true →
    u = { s with mor := { s.mor with clearOffset := bits v.toNat 6 42 * 64,
                                     clearDone := s.mor.clearDone && !bit v.toNat 61 } } →
    inBar2 u (bits v.toNat 6 42 * 64) 304 = true → copyBusy s 3 = false →
    readRM (copyWho 0x0700) (bits v.toNat 6 42 * 64) 304 3 u = (.ok b, s1) →
    ∃ t, exec (.moraineClear v) s = .next t ∧
      ((judgeToken s1 b).1 ≠ 0 → t = record 0x0D02 0x07 (leBytes 1 (judgeToken s1 b).1) { s1 with
        fresh := s1.fresh + 1
        mor := { s1.mor with nonce := Config.freeBits 256 s1.fresh, clearDone := true
                             clearResult := (judgeToken s1 b).1 } }) ∧
      ((judgeToken s1 b).1 = 0 → bit (fieldAt b 265 1) 1 = false → t = record 0x0D01 0x07
        (leBytes 1 (fieldAt b 265 1) ++ leBytes 1 (judgeToken s1 b).2 ++ leBytes 2 0 ++
          leBytes 4 ((s1.mor.nextSeq + 2 ^ 32 - 1) % 2 ^ 32)) { s1 with
        fresh := s1.fresh + 1
        mor := { s1.mor with nonce := Config.freeBits 256 s1.fresh, clearDone := true, clearResult := 0
                             ring := if bit (fieldAt b 265 1) 0 then [] else s1.mor.ring } }))

/-- ICE_COMMIT writes the ledger, with the next COMMIT_SEQ and the calendar, into one of its two copies and leaves the
other; ICE_CAL_SET takes the calendar's new reference and records it; the Moraine's interrupt timer sends what was held
back and begins the next millisecond (R409, R411, R414). -/
def Obligations.IceCommands : Prop :=
  (∀ s : State, s.st.standbyDone = true → ∃ l a b,
    exec .iceCommit s = .next { s with ice := { s.ice with now := l, lastCommit := s.time, copy0 := a, copy1 := b } } ∧
      l = { s.ice.now with commitSeq := s.ice.now.commitSeq + 1, lastCal := calNow s } ∧
      ((a = some l ∧ b = s.ice.copy1) ∨ (a = s.ice.copy0 ∧ b = some l))) ∧
  (∀ (s : State) (v : W64), s.st.standbyDone = true →
    exec (.iceCalSet v) s =
      .next (record 0x0E03 0x00 (leBytes 8 (calNow s) ++ leBytes 8 v.toNat) { s with ice := { s.ice with
        calValid := true, refT := s.time, refC := v.toNat
        now := { s.ice.now with firstCal := if s.ice.now.firstCal = 0 then v.toNat else s.ice.now.firstCal } } })) ∧
  (∀ (s : State) (t0 : Nat), s.st.auxOn = true → s.mor.irqHeld = true → s.mor.lastIrq = some t0 →
    ∃ t, exec .moraineInterruptTimer s = .next t ∧ t.time = max s.time (t0 + 1000000) ∧
      t.mor = { s.mor with irqHeld := false, lastIrq := some t.time } ∧ t.ops = s.ops ∧ t.queues = s.queues)

/-! ### Memory (chapter 09) -/

/-- MEM_REQUEST on a stack in service whose queue has room: the request stands last, with its origin's port and the line's
bytes in the order of acceptance; a write merges the enabled bytes into the line, and one of all 64 makes a lost line whole; a
queue that is full refuses, and the request stays in its port's ingress buffer; a stack out of service answers with an error (R211,
R213, R214, R223, R227, R319). A request to the second tier is served by its port while the link is up: a read is answered with the
line, and a write merges its bytes; while the link retrains the request waits (R214, R229, R230). After a link of the network has
failed nothing is taken (R323). -/
def Obligations.MemoryRequests : Prop :=
  ∀ (s : State) (origin : Origin) (addr port a : Nat) (data : List Byte) (e : W64) (close : Bool) (op : Option Nat),
    port = portOf origin → a = addr / 64 * 64 →
    (bit s.noc.errLog 63 = true → ∀ w, exec (.memRequest origin addr w data e close op) s = .next s) ∧
    (bit s.noc.errLog 63 = false →
    (∀ k pc off, a < tier2Base → localOf s a = some (k, pc, off) → (getStack s k).lost = false →
      (getStack s k).present = true →
      (((getStack s k).reqs.filter (fun r => r.write = false)).length < 256 →
        exec (.memRequest origin addr false data e close op) s = .next (setStack (countAccess a s) k { getStack s k with
          reqs := (getStack s k).reqs ++ [{ port, addr := a, write := false, data := s.dmem.readN a 64, enables := e.toNat
                                            time := s.time, target := (getStack s k).targets.getD port 1, close
                                            lost := lineLost s a, op }] })) ∧
      (((getStack s k).reqs.filter (fun r => r.write = true)).length < 128 → ∀ v,
        v = takeWrite a (mergeLine (s.dmem.readN a 64) data e.toNat) e.toNat (countAccess a s) → ∃ b,
        exec (.memRequest origin addr true data e close op) s = .next (setStack v k { getStack v k with
          reqs := (getStack v k).reqs ++ [{ port, addr := a, write := true
                                            data := mergeLine (s.dmem.readN a 64) data e.toNat, enables := e.toNat
                                            time := s.time, target := (getStack s k).targets.getD port 1, close
                                            lost := lineLost s a, op }]
          burst := b }) ∧ v.dmem = s.dmem.writeN a (mergeLine (s.dmem.readN a 64) data e.toNat) ∧
        (e.toNat = 2 ^ 64 - 1 → lineLost v a = false)) ∧
      ∀ w, (if w then 128 else 256) ≤ ((getStack s k).reqs.filter (fun r => r.write = w)).length →
        exec (.memRequest origin addr w data e close op) s = .next { setStack s k { getStack s k with
            ingress := (getStack s k).ingress ++ [{ port, addr := a, write := w, data, enables := e.toNat, close, op }] } with
          outbox := s.outbox ++ [.memRefused port a] }) ∧
    (∀ k pc off w, a < tier2Base → localOf s a = some (k, pc, off) → (getStack s k).lost = true → op = none →
      exec (.memRequest origin addr w data e close op) s = .next { s with outbox := s.outbox ++ [.memLine port a [] true] }) ∧
    (tier2Base ≤ a → (getCxl s ((a - tier2Base) / 2 ^ 44)).up = true →
      (lineLost s a = false → exec (.memRequest origin addr false data e close op) s =
        .next { countAccess a s with outbox := s.outbox ++ [.memLine port a (s.dmem.readN a 64) false] }) ∧
      exec (.memRequest origin addr true data e close op) s = .next (snoop a
        { countAccess a s with dmem := s.dmem.writeN a (mergeLine (s.dmem.readN a 64) data e.toNat) })) ∧
    (∀ p w, tier2Base ≤ a → p = (a - tier2Base) / 2 ^ 44 → (getCxl s p).up = false → (getCxl s p).downSince ≠ none →
      exec (.memRequest origin addr w data e close op) s = .next (setCxl s p { getCxl s p with
        ingress := (getCxl s p).ingress ++ [{ port, addr := a, write := w, data, enables := e.toNat, close, op }] })))

/-- ISSUE_SLOT with one request at a stack, whose bank is not busy: the request leaves the queue; a read of a whole line
without bad symbols is answered with its bytes, one that the code corrects likewise with the correction counted, a lost line
with an error, and one whose code detects an error is an uncorrectable line; a write of all 64 bytes answers nothing; then the
requests that the full controller had held back enter it; a second parity error in a row on the command takes the stack out of
service (R210, R212, R213, R223 to R225, R227, R319). -/
def Obligations.IssueSlot : Prop :=
  ∀ (s : State) (k pc off bad : Nat) (busy : List (Nat × Nat)) (r : MemReq),
    (getStack s k).reqs = [r] → (getStack s k).banks = [] → localOf s r.addr = some (k, pc, off) →
    (pc, bankOf off) ∉ busy → r.op = none → r.addr < tier2Base →
    ∃ (b : Bool) (bk : Table Bank) (u : State), u = setStack s k { getStack s k with burst := b, reqs := [], banks := bk } ∧
      (r.write = false → r.lost = false → lineLost s r.addr = false → ∀ parity, parity < 2 →
        (bad = 0 → exec (.issueSlot k busy bad parity) s =
          .next (retryIngress k { u with outbox := s.outbox ++ [.memLine r.port r.addr r.data false] })) ∧
        (bad = 1 → exec (.issueSlot k busy bad parity) s =
          .next (retryIngress k (emit (.memLine r.port r.addr r.data false) (correctedLine k pc off u)))) ∧
        (bad = 2 → exec (.issueSlot k busy bad parity) s =
          .next (retryIngress k (emit (.memLine r.port r.addr [] true) (uncorrectableKv r.addr 0 u))))) ∧
      (r.write = false → r.lost = true ∨ lineLost s r.addr = true → exec (.issueSlot k busy bad 0) s =
        .next (retryIngress k { u with outbox := s.outbox ++ [.memLine r.port r.addr [] true] })) ∧
      (r.write = true → (getStack s k).burst = true → r.enables = 2 ^ 64 - 1 →
        exec (.issueSlot k busy bad 0) s = .next (retryIngress k u)) ∧
      (r.write = false → (getStack s k).ingress = [] → ∃ t, exec (.issueSlot k busy bad 2) s = .next t ∧ (getStack t k).lost = true ∧
        (getStack t k).present = false ∧ k ∈ t.ice.now.stackLost)

/-- Upkeep of a stack in training: a refresh closes the row of a bank without urgent requests; a reading above 85 °C doubles
the refresh rate and derates, one of 80 °C or less ends both, one between leaves them; a row kept open closes after 200 ns
without a request for it (R196, R215, R216, R218). Retraining of a pseudo-channel counts; a failure is remembered, and a
second in a row takes the stack out of service with a record (R217, R227). -/
def Obligations.StackUpkeepAndRetraining : Prop :=
  ((∀ (s : State) (k pc bank : Nat), (getStack s k).trained = true → bankUrgent s k pc bank = false →
    exec (.refresh k pc bank) s = .next (setStack s k { getStack s k with
      banks := tset (dflt {}) (getStack s k).banks (bankKey pc bank)
        { tget (dflt {}) (getStack s k).banks (bankKey pc bank) with openRow := none, postponed := 0 } })) ∧
  (∀ (s : State) (k : Nat) (t : Int) (hot : Bool), (getStack s k).trained = true →
    (hot = if 85 < t then true else if t ≤ 80 then false else (getStack s k).doubleRef) →
    (getStack s k).derated = (getStack s k).doubleRef →
    ∃ temps, exec (.tempRead k t) s = .next { setStack s k { getStack s k with
      tempC := t, doubleRef := hot, derated := hot } with pwr := { s.pwr with temps := temps } }) ∧
  (∀ (s : State) (k pc bank row : Nat) (b : Bank), b = tget (dflt {}) (getStack s k).banks (bankKey pc bank) →
    b.openRow = some row → (getStack s k).reqs = [] →
    exec (.rowIdleClose k pc bank) s = .next (setStack (passTo (b.lastUse + 200) s) k { getStack s k with
      banks := tset (dflt {}) (getStack s k).banks (bankKey pc bank) { b with openRow := none } }))) ∧
  ((∀ (s : State) (k pc : Nat), (getStack s k).present = true →
    exec (.retrain k pc true) s = .next (setStack s k { getStack s k with
      retrains := ((getStack s k).retrains + 1) % 2 ^ 32
      retrainFailed := (getStack s k).retrainFailed.filter (· ≠ pc) })) ∧
  (∀ (s : State) (k pc : Nat), (getStack s k).present = true → pc ∉ (getStack s k).retrainFailed →
    exec (.retrain k pc false) s = .next (setStack s k { getStack s k with
      retrains := ((getStack s k).retrains + 1) % 2 ^ 32
      retrainFailed := insertNat pc (getStack s k).retrainFailed })) ∧
  (∀ (s : State) (k pc : Nat), (getStack s k).present = true → pc ∈ (getStack s k).retrainFailed →
    exec (.retrain k pc false) s =
      .next (loseStack k pc 0 (setStack s k { getStack s k with
        retrains := ((getStack s k).retrains + 1) % 2 ^ 32 }))))

/-- PATROL adds the on-die count, treats each line found in order, and ends the period of the row counts; ROW_REPAIR of a row
that is due treats its bad lines, and takes a spare row, or counts a failure when none is left (R224, R226). -/
def Obligations.PatrolAndRepair : Prop :=
  (∀ (s u : State) (k n : Nat) (found : List (Nat × Nat × Nat)), (getStack s k).present = true →
    u = found.foldl (fun u f => foundLine k f.1 f.2.1 f.2.2 1 u)
      (setStack s k { getStack s k with ceOde := min 0xFFFFFF ((getStack s k).ceOde + n) }) →
    exec (.patrol k n found) s = .next (setStack u k { getStack u k with rowCounts := [] })) ∧
  (∀ (s u : State) (k pc bank row spares : Nat) (bad : List Nat), rowKey pc bank row ∈ (getStack s k).repairDue →
    u = bad.foldl (fun u l => foundLine k pc l 2 1 u) (setStack s k { getStack s k with
      repairDue := (getStack s k).repairDue.filter (· ≠ rowKey pc bank row)
      rowCounts := terase (rowKey pc bank row) (getStack s k).rowCounts }) →
    exec (.rowRepair k pc bank row spares bad) s = .next (setStack u k
      (if spares = 0 then { getStack u k with repairFailed := min 0xFFFF ((getStack u k).repairFailed + 1) }
       else { getStack u k with
        softPending := min 0xFFFF ((getStack u k).softPending + 1)
        softRows := insertNat (rowKey pc bank row) (getStack u k).softRows
        spareMin := min (getStack u k).spareMin (spares - 1)
        banks := tset (dflt {}) (getStack u k).banks (bankKey pc bank)
          { tget (dflt {}) (getStack u k).banks (bankKey pc bank) with openRow := none } })))

/-- A window's commit takes a snapshot of the shadow registers that pass the checks, and RESULT reads 0xFF until it is
applied; a shadow that fails leaves the window, and its code stands in RESULT and AGR_STATUS; applying makes a snapshot that
still passes active (R221, R222, R430, R431). A CXL link that goes down begins a wait of 10 ms; back within it, the operations that
waited on its pages go on; after it the port is out of service, its pages are lost, and those operations end with LINK_ERROR
(R230). -/
def Obligations.WindowsAndCxlLinks : Prop :=
  ((∀ (s : State) (n : Nat), s.st.ready = true → (getWindow s n).result ≠ 0xFF →
    windowCheck s n (getWindow s n).shadow = 0 →
    exec (.iwinCommit n) s = .next (setWindow s n { getWindow s n with
      result := 0xFF, snapshot := some (getWindow s n).shadow })) ∧
  (∀ (s : State) (n : Nat), s.st.ready = true → (getWindow s n).result ≠ 0xFF →
    windowCheck s n (getWindow s n).shadow ≠ 0 →
    exec (.iwinCommit n) s = .next { setWindow s n { getWindow s n with
        result := windowCheck s n (getWindow s n).shadow } with
      st := { s.st with agrValid := true, agrKind := 1, agrIndex := n
                        agrResult := windowCheck s n (getWindow s n).shadow
                        agrRejects := min (2 ^ 32 - 1) (s.st.agrRejects + 1) } }) ∧
  (∀ (s : State) (n : Nat) (c : WinCfg), (getWindow s n).snapshot = some c → windowCheck s n c = 0 →
    exec (.iwinApply n) s = .next (setWindow s n { getWindow s n with active := c, snapshot := none, result := 0 }))) ∧
  ((∀ (s : State) (p : Nat), (getCxl s p).up = true →
    exec (.cxlLinkDown p) s = .next (setCxl s p { getCxl s p with
      up := false, width := 0, rate := 0, downSince := some s.time })) ∧
  (∀ (s : State) (p w r t0 : Nat), (getCxl s p).downSince = some t0 → s.time ≤ t0 + 10000000 →
    exec (.cxlLinkRetrained p w r) s = .next (retryHeld (retryDevice (offerCxl p (setCxl (wakeOps (waitsOnPort s p) s) p
      { getCxl s p with up := true, width := w, rate := r, downSince := none }))))) ∧
  (∀ (s u v x : State) (p t0 : Nat), (getCxl s p).downSince = some t0 → u = passTo (t0 + 10000000) s →
    v = (u.place.migrations.filter (fun m => decide (tier2Base ≤ m.new ∧ (m.new - tier2Base) / 2 ^ 44 = p))).foldl
      (fun s m => cancelMigration m s) u →
    x = (u.ops.filter (waitsOnPort u p)).foldl (fun s o => stopOp o.tag (.fault 0x31 (o.faultAddr / 2 ^ 21 * 2 ^ 21)) false s)
      { v with pages := v.pages.map (fun r => if onPort p r then { r with kind := .lost, cause := true } else r) } →
    exec (.cxlRetrainTimeout p) s = .next (retryHeld (retryDevice (record 0x0405 (0x60 + p) (leBytes 4 (pagesUsed u p))
      (offerCxl p (setCxl x p { getCxl s p with failed := true, downSince := none })))))))

/-! ### Host interface (chapter 11) -/

/-- A doorbell of the queue's function, of 8 bytes, with its reserved bits 0, of an enabled queue that is not stopped and
whose EPOCH it names, takes effect: KIND 0 stores the tail, KIND 1 the completion head when it does not pass entries that
are written; one that does not is dropped, and the drop is counted with its reason and queue (R270). -/
def Obligations.Doorbells : Prop :=
  (∀ (s : State) (func q : Nat) (v : W64), s.st.standbyDone = true → s.st.ready = true →
    bindFunc (getGroup s (groupOf q)).active.bind = func → bindEnable (getGroup s (groupOf q)).active.bind = true →
    (getFunc s func).d3hot = false → (getQueue s q).entry.enable = true → (getQueue s q).stopped = false →
    bits v.toNat 48 15 = 0 → bits v.toNat 32 16 = (getQueue s q).entry.epoch →
    (bit v.toNat 63 = false → bits v.toNat 0 32 < 2 ^ (getQueue s q).entry.sqLog2 →
      exec (.submissionDoorbell func q 8 v) s =
        .next (setQueue s q { getQueue s q with tail := bits v.toNat 0 32 })) ∧
    (bit v.toNat 63 = true → bits v.toNat 0 32 < 2 ^ (getQueue s q).entry.cqLog2 →
      (bits v.toNat 0 32 + 2 ^ (getQueue s q).entry.cqLog2 - (getQueue s q).cqHead) %
        2 ^ (getQueue s q).entry.cqLog2 ≤ cqUsed (getQueue s q) →
      exec (.completionHeadDoorbell func q 8 v) s =
        .next (setQueue s q { getQueue s q with cqHead := bits v.toNat 0 32 }))) ∧
  (∀ (c : Instr) (s : State) (func q size why : Nat) (v : W64), s.st.standbyDone = true →
    c = .submissionDoorbell func q size v ∨ c = .completionHeadDoorbell func q size v →
    (size ≠ 8 ∧ why = 3) ∨
    (size = 8 ∧ bits v.toNat 48 15 = 0 ∧ bindFunc (getGroup s (groupOf q)).active.bind ≠ func ∧ why = 2) ∨
    (size = 8 ∧ bits v.toNat 48 15 = 0 ∧ bindFunc (getGroup s (groupOf q)).active.bind = func ∧
      (getQueue s q).entry.enable = false ∧ why = 1) ∨
    (size = 8 ∧ bits v.toNat 48 15 = 0 ∧ bindFunc (getGroup s (groupOf q)).active.bind = func ∧ s.st.ready = true ∧
      bindEnable (getGroup s (groupOf q)).active.bind = true ∧ (getFunc s func).d3hot = false ∧
      (getQueue s q).entry.enable = true ∧ (getQueue s q).stopped = false ∧
      bits v.toNat 32 16 ≠ (getQueue s q).entry.epoch ∧ why = 0) →
    exec c s = .next { s with dropped := { reason := why, queue := q, count := min (2 ^ 32 - 1) (s.dropped.count + 1) } })

/-- A queue-group commit whose shadow is well formed and whose table can be read with every entry good stands as submitted:
RESULT reads 0xFF, and the affected queues are held; a table with a bad entry is rejected with 4, one that cannot be read with 3,
a shadow that is not well formed with 1, and AGR_STATUS shows it; while the table's read may still succeed the whole group is held; once no held queue has a descriptor in flight the group and its queues take the new
registers and entries; QGP_ABORT ends a queue's descriptors with ABORTED at their cursors and stops it (R263 to R266,
R431). -/
def Obligations.QueueGroupCommits : Prop :=
  (∀ (s s1 : State) (g n : Nat) (bs : List Byte) (c : GroupCfg), s.st.ready = true → (getGroup s g).result ≠ 0xFF →
    c = (getGroup s g).shadow → n = bits c.ctrl 0 7 → bindWeight c.bind ≠ 0 → n ≤ 64 → c.qtable % 4096 = 0 →
    addrOk c.qtable = true → (bindFunc c.bind = 0 ∨ bindFunc c.bind ≤ (getFunc s 0).numVfs) →
    readRM (bindWho c.bind) c.qtable (32 * n) 3 s = (.ok bs, s1) →
    ((∀ i < n, entryOk (getQueue s1 (64 * g + i)).entry ((bs.drop (32 * i)).take 32) = true) → ∃ es held,
      exec (.qgpCommit g) s = .next (setGroup s1 g { getGroup s1 g with
        result := 0xFF, snapshot := some c, tableWait := none, newEntries := es, held := held }) ∧
      es = (List.range n).map (fun i => (i, parseEntry ((bs.drop (32 * i)).take 32))) ∧
      (c.bind ≠ (getGroup s1 g).active.bind → held = List.range 64)) ∧
    ((∃ i < n, entryOk (getQueue s1 (64 * g + i)).entry ((bs.drop (32 * i)).take 32) = false) →
      exec (.qgpCommit g) s = .next { setGroup s1 g { getGroup s1 g with
          result := 4, snapshot := none, tableWait := none, held := [] } with
        st := { s1.st with agrValid := true, agrKind := 2, agrIndex := g, agrResult := 4
                           agrRejects := min (2 ^ 32 - 1) (s1.st.agrRejects + 1) } })) ∧
  (∀ (s s1 : State) (g n : Nat) (e : Stop) (c : GroupCfg), s.st.ready = true → (getGroup s g).result ≠ 0xFF →
    c = (getGroup s g).shadow → n = bits c.ctrl 0 7 → bindWeight c.bind ≠ 0 → n ≤ 64 → c.qtable % 4096 = 0 →
    addrOk c.qtable = true → (bindFunc c.bind = 0 ∨ bindFunc c.bind ≤ (getFunc s 0).numVfs) →
    readRM (bindWho c.bind) c.qtable (32 * n) 3 s = (.error e, s1) → ∃ t, exec (.qgpCommit g) s = .next t ∧
      (∀ k a, e = .wait k a → (getGroup t g).result = 0xFF ∧ (getGroup t g).snapshot = some c ∧
        (getGroup t g).tableWait = some a ∧ ∀ q, groupOf q = g → fetchable t q = false) ∧
      ((∀ k a, e ≠ .wait k a) → (getGroup t g).result = 3 ∧ (getGroup t g).snapshot = none ∧
        (getGroup t g).active = (getGroup s1 g).active)) ∧
  (∀ (s : State) (g : Nat), s.st.ready = true → (getGroup s g).result ≠ 0xFF →
    (bindWeight (getGroup s g).shadow.bind = 0 ∨ (getGroup s g).shadow.qtable % 4096 ≠ 0) →
    exec (.qgpCommit g) s = .next { setGroup s g { getGroup s g with
        result := 1, snapshot := none, tableWait := none, held := [] } with
      st := { s.st with agrValid := true, agrKind := 2, agrIndex := g, agrResult := 1
                        agrRejects := min (2 ^ 32 - 1) (s.st.agrRejects + 1) } }) ∧
  (∀ (s : State) (g : Nat) (c : GroupCfg), (getGroup s g).snapshot = some c → (getGroup s g).tableWait = none →
    (∀ i ∈ (getGroup s g).held, ∀ o ∈ s.ops, o.queue ≠ 64 * g + i) → ∃ t,
      exec (.qgpApply g) s = .next t ∧ (∃ qs ws, t = { s with queues := qs, groups := t.groups, watchers := ws }) ∧
      t.groups = (setGroup s g { getGroup s g with
        active := c, result := 0, snapshot := none, newEntries := [], held := [] }).groups ∧
      ∀ q, q / 64 ≠ g → getQueue t q = getQueue s q) ∧
  (∀ (s : State) (g i : Nat) (m : W64), s.st.ready = true → setBitsOf 64 m.toNat = [i] →
    (∀ o ∈ s.ops, o.queue ≠ 64 * g + i) →
    exec (.qgpAbort g m) s =
      .next (letIn (setQueue s (64 * g + i) { getQueue s (64 * g + i) with stopped := true }))) ∧
  ∀ (s : State) (g i : Nat) (m : W64) (o : Op), s.st.ready = true → setBitsOf 64 m.toNat = [i] →
    s.ops = [o] → o.queue = 64 * g + i → o.phase ≠ .done → s.trnHeld = [] → ∃ t,
    exec (.qgpAbort g m) s = .next t ∧ t.ops = [{ o with
      phase := .done, result := { status := 0x50, cursor := o.cursor }, closing := if o.closing = 1 then 2 else o.closing }] ∧
      (getQueue t (64 * g + i)).stopped = true ∧ t.dmem = s.dmem ∧ t.hmem = s.hmem ∧ t.trns = s.trns

/-- Traffic of the host: a read of BAR2 that can be made answers its bytes, a write that can be made writes them, one whose fault
may still resolve waits, and one beyond BAR2 is ignored; before READY a read gets Completer Abort, which AER notes; the interrupt timer of a queue sends its message; an unmasked vector sends its pending message; a
configuration read answers, with the device identifier of the variant among its items, ATS switched off drops the function's translations, and D3hot is entered (R1, R258, R260, R261,
R288, R289). -/
def Obligations.HostTraffic : Prop :=
  (∀ (s s1 : State) (offset len : Nat) (bs : List Byte), s.st.standbyDone = true → s.st.ready = true →
    offset + len ≤ 2 ^ (getFunc s 0).bar2Log2 → s.bar2Waits = [] →
    readRM bar2Who offset len (2 * (len / 2 ^ 21 + 2)) s = (.ok bs, s1) → ∃ m,
    exec (.bar2Read offset len) s = .next { s1 with outbox := s1.outbox ++ [.bar2 bs], noc := m }) ∧
  (∀ (s : State) (offset len : Nat), s.st.standbyDone = true → s.st.ready = false →
    offset + len ≤ 2 ^ (getFunc s 0).bar2Log2 →
    exec (.bar2Read offset len) s = .next { setFunc s 0 { getFunc s 0 with aer := (getFunc s 0).aer ||| 2 ^ 15 } with
      outbox := s.outbox ++ [.completerAbort] }) ∧
  (∀ (s s1 : State) (offset : Nat) (data : List Byte), s.st.ready = true →
    offset + data.length ≤ 2 ^ (getFunc s 0).bar2Log2 → s.bar2Waits = [] →
    writeRM bar2Who offset data (2 * (data.length / 2 ^ 21 + 2)) s = (none, s1) → ∃ m,
    exec (.bar2Write offset data) s = .next { s1 with fills := [], noc := m }) ∧
  (∀ (s s1 : State) (offset len a : Nat) (k : Wait), s.st.standbyDone = true → s.st.ready = true →
    offset + len ≤ 2 ^ (getFunc s 0).bar2Log2 → s.bar2Waits = [] →
    readRM bar2Who offset len (2 * (len / 2 ^ 21 + 2)) s = (.error (.wait k a), s1) → ∃ t,
    exec (.bar2Read offset len) s = .next t ∧ t.bar2Waits = s1.bar2Waits ++ [(offset, len, none)] ∧ t.dmem = s1.dmem) ∧
  (∀ (s : State) (offset : Nat) (data : List Byte), 2 ^ (getFunc s 0).bar2Log2 < offset + data.length →
    exec (.bar2Write offset data) s = .next s ∧ exec (.bar2Read offset data.length) s = .next s) ∧
  (∀ (s u : State) (q : Nat), (getQueue s q).irqCount ≠ 0 → (getQueue s q).irqTime ≠ 0 →
    (getQueue s q).entry.irqEn = true →
    u = passTo ((getQueue s q).irqFirst + (getQueue s q).irqTime * 1000) s → ∃ func vec,
    exec (.interruptTimer q) s = .next (sendMsix func vec (setQueue u q { getQueue s q with
      irqCount := 0, irqFirst := 0 })) ∧
      func = bindFunc (getGroup s (groupOf q)).active.bind ∧ vec = (getQueue s q).entry.vector) ∧
  (∀ (s : State) (f v a d : Nat) (m : Bool), (getFunc s f).pba = [v] → (getFunc s f).msixEnable = true →
    (getFunc s f).msixMask = false → tget (dflt (0, 0, true)) (getFunc s f).entries v = (a, d, m) → ∃ fs,
    exec (.vectorUnmask f v) s = .next { s with funcs := fs, outbox := s.outbox ++ [.msix f v a d] }) ∧
  (∀ (s : State) (f item : Nat) (v : Nat), s.st.standbyDone = true → (f = 0 ∨ f ≤ (getFunc s 0).numVfs) →
    exec (.configurationRequest f item false v) s =
      .next { s with outbox := s.outbox ++ [.config f item (configValue s f item)] } ∧
    configValue s f 8 = 0x9F00 + variantCode s.variant ∧
    exec (.configurationRequest f 2 true 0) s =
      .next (setFunc { s with ats := s.ats.filter (fun e => !(e.func = f)) } f { getFunc s f with atsEnable := false }) ∧
    exec (.configurationRequest f 6 true 3) s = .next (setFunc s f { getFunc s f with d3hot := true }))

/-- The host link: a lane failure retrains it narrower, counts, and is recorded; in L0 with flits it is up with the width
its lanes allow, and the accesses that waited for it go on; past the host's completion timeout the transfers that wait on
the host end with LINK_ERROR and the page address, the queues whose rings wait on it stop, and a commit whose table waits on it
is rejected (R258, R259, R263, R271, R285). -/
def Obligations.HostLinkStates : Prop :=
  (∀ (s : State) (width code : Nat), s.link.up = true → code = (if width = 4 then 2 else 1) →
    exec (.hostLaneFail width) s = .next (record 0x0601 0x03 (leBytes 1 code) { s with
      link := { s.link with up := false, training := true, widthLimit := min code s.link.widthLimit
                            retrains := min 0xFFFF (s.link.retrains + 1) }
      ice := { s.ice with now := { s.ice.now with downshifts := s.ice.now.downshifts + 1 } } })) ∧
  (∀ (s : State) (width rate : Nat), s.link.training = true →
    exec (.hostLinkUp width rate false) s = .next { s with link := { s.link with noFlit := true, training := false } } ∧
    (s.mid.ports = [] → ∃ ts, exec (.hostLinkUp width rate true) s = .next { s with
      link := { s.link with up := true, flit := true, noFlit := false, training := false, rate := rate
                            width := min width s.link.widthLimit }
      tiles := ts
      ops := s.ops.map (fun o => if o.phase = .suspended ∧ o.wait = some .link then
        { o with phase := if o.closing ≠ 0 then .done else if o.valid then .ready else .gated, wait := none } else o)
      queues := s.queues.map (fun e => match e.2.waitAddr with
        | some a => if isHost a then (e.1, { e.2 with waitAddr := none }) else e
        | none => e) })) ∧
  (∀ (s : State) (q a : Nat) (x : Queue), s.queues = [(q, x)] → x.waitAddr = some a → isHost a = true →
    s.mid.ports = [] → s.ops = [] → (∀ e ∈ s.groups, e.2.tableWait = none) →
    exec .hostLinkLoss s = .next (record 0x0602 0x03 (leBytes 4 q ++ leBytes 1 0x31 ++ leBytes 3 0 ++ leBytes 8 a) { s with
      link := { s.link with up := false, flit := false, width := 0, rate := 0, training := true }
      pris := []
      queues := [(q, { x with stopped := true, waitAddr := none, ringFailed := x.ringFailed || ringWrite x })] })) ∧
  (∀ (s : State) (o : Op), s.ops = [o] → o.phase = .suspended → isHost o.faultAddr = true → o.opc ≠ 0x10 → o.opc ≠ 0x12 →
    o.result.status = 0 → s.queues = [] → s.mid.ports = [] → (∀ e ∈ s.groups, e.2.tableWait = none) → ∃ t,
    exec .hostLinkLoss s = .next t ∧ t.link.up = false ∧ t.link.training = true ∧ t.pris = [] ∧ t.dmem = s.dmem ∧
      t.hmem = s.hmem ∧ t.ops = [{ o with
        phase := .done, closing := if o.closing = 1 then 2 else o.closing
        result := { status := 0x31, cursor := o.cursor, faultAddr := o.faultAddr / 4096 * 4096 } }]) ∧
  ∀ (s : State) (g a : Nat) (x : Group) (c : GroupCfg), s.groups = [(g, x)] → x.snapshot = some c → x.tableWait = some a →
    isHost a = true → s.ops = [] → s.queues = [] → s.mid.ports = [] → ∃ t, exec .hostLinkLoss s = .next t ∧
      t.groups = [(g, { x with result := 3, snapshot := none, tableWait := none, held := [] })] ∧ t.st.agrResult = 3 ∧
      t.st.agrIndex = g

/-! ### Address spaces and host translations (chapter 10) -/

/-- An address-space command whose range passes the checks is in force at once and runs until MMU_CMD_DONE: RESERVE maps
the range RESERVED with its leaf size and permissions, UNMAP leaves no leaf and no hint of it, RELEASE makes its leaves
RESERVED, PROTECT gives them RD and WR; one that fails a check changes only the command's own registers, with STATUS the
code (R237 to R239). -/
def Obligations.AddressSpaceCommands : Prop :=
  (∀ (s : State) (g size asid lo hi : Nat) (rd wr : Bool) (x : Group), s.st.ready = true → x = getGroup s g →
    x.mmuBusy = false → asid = bindAsid x.active.bind → lo = x.mmuBase → hi = x.mmuBase + x.mmuLen →
    (mmuStatusOf asid x.mmuBase x.mmuLen (leafOfSize size) 1 rd wr s = 0 →
      exec (.reserve g size rd wr) s = .next { setGroup s g { x with
          mmuSize := size, mmuRd := rd, mmuWr := wr, mmuOp := 1, mmuBusy := true, mmuStatus := 0xFF } with
        pages := insertPage { asid, base := lo, len := hi - lo, leaf := leafOfSize size, kind := .reserved, rd, wr }
          s.pages }) ∧
    (mmuStatusOf asid x.mmuBase x.mmuLen (leafOfSize size) 3 x.mmuRd x.mmuWr s = 0 → ∃ t,
      exec (.unmap g size) s = .next t ∧
        getGroup t g = { x with mmuSize := size, mmuOp := 3, mmuBusy := true, mmuStatus := 0xFF } ∧
        (∀ p ∈ t.pages, p.asid = asid → p.base + p.len ≤ lo ∨ hi ≤ p.base) ∧
        (∀ h ∈ t.place.hints, h.asid = asid → h.base + h.len ≤ lo ∨ hi ≤ h.base) ∧ t.dmem = s.dmem) ∧
    (mmuStatusOf asid x.mmuBase x.mmuLen (leafOfSize size) 2 x.mmuRd x.mmuWr s = 0 → ∃ t,
      exec (.release g size) s = .next t ∧
        getGroup t g = { x with mmuSize := size, mmuOp := 2, mmuBusy := true, mmuStatus := 0xFF } ∧
        (∀ p ∈ t.pages, p.asid = asid → lo < p.base + p.len → p.base < hi → p.kind = .reserved) ∧
        t.dmem = s.dmem) ∧
    (mmuStatusOf asid x.mmuBase x.mmuLen (leafOfSize size) 4 rd wr s = 0 → ∃ t,
      exec (.protect g size rd wr) s = .next t ∧
        getGroup t g = { x with
          mmuSize := size, mmuRd := rd, mmuWr := wr, mmuOp := 4, mmuBusy := true, mmuStatus := 0xFF } ∧
        (∀ p ∈ t.pages, p.asid = asid → lo < p.base + p.len → p.base < hi → p.rd = rd ∧ p.wr = wr) ∧
        t.dmem = s.dmem)) ∧
  (∀ (s : State) (g size code : Nat) (rd wr : Bool), s.st.ready = true → (getGroup s g).mmuBusy = false →
    code = mmuStatusOf (bindAsid (getGroup s g).active.bind) (getGroup s g).mmuBase (getGroup s g).mmuLen
      (leafOfSize size) 1 rd wr s → code ≠ 0 →
    exec (.reserve g size rd wr) s = .next (setGroup s g { getGroup s g with
      mmuSize := size, mmuRd := rd, mmuWr := wr, mmuOp := 1, mmuStatus := code })) ∧
  (∀ (s : State) (g : Nat), (getGroup s g).mmuBusy = true →
    exec (.mmuCmdDone g) s = .next (setGroup s g { getGroup s g with mmuBusy := false, mmuStatus := 0 }) ∧
    (s.st.ready = true → ∀ size rd wr, exec (.reserve g size rd wr) s = .next (setGroup s g { getGroup s g with
      mmuSize := size, mmuRd := rd, mmuWr := wr, mmuOp := 1 }))) ∧
  (∀ (s : State) (asid lo len leaf op : Nat) (rd wr : Bool), mmuStatusOf asid lo len leaf op rd wr s = 0 ↔
    mmuCheck s asid lo len leaf op = 0 ∧ tablesNeeded (mmuEffect asid lo len leaf op rd wr s).pages ≤ tableRoom s) ∧
  ∀ (s : State) (asid lo len leaf op : Nat), mmuCheck s asid lo len leaf op = 0 ↔
    (lo % 2 ^ leaf = 0 ∧ len % 2 ^ leaf = 0 ∧ len ≠ 0 ∧ lo + len ≤ 2 ^ 48 ∧ 1 ≤ op ∧ op ≤ 4 ∧
      (op = 1 → mappedBytes s asid lo (lo + len) = 0) ∧ (op = 2 ∨ op = 4 → mappedBytes s asid lo (lo + len) = len))

/-- Host translations: an invalidation drops the translations of its range and is answered, a completion is kept by every die
whose units wait for it, and the accesses that wait on the page try again; the answer to a page request, Success with the permission it
asked for, does the same, Invalid Request ends the transfers that wait on the page with TRANSLATION_FAULT at their
cursors, and so does the timeout (R240 to R243). -/
def Obligations.HostTranslations : Prop :=
  (∀ (s : State) (f p page n tag : Nat), exec (.atsInvalidate f p page n tag) s = .next { s with
    ats := s.ats.filter (fun e => !(e.func = f && e.pasid = p && decide (page ≤ e.page ∧ e.page < page + n)))
    outbox := s.outbox ++ [.atsDone f tag] }) ∧
  (∀ (s : State) (f p page : Nat) (rd wr un : Bool), (getFunc s f).atsEnable = true →
    queuesOnHost s f p page = [] → s.mid.ports = [] → ∃ t,
    exec (.translationCompletion f p page rd wr un) s = .next t ∧
      (∀ d, d ∈ diesOnHost s f p page ∨ (diesOnHost s f p page = [] ∧ d = s.st.rmDie) →
        atsFind t d f p page = some { die := d, func := f, pasid := p, page, rd, wr, untranslated := un }) ∧
      t.dmem = s.dmem ∧ t.hmem = s.hmem ∧ t.outbox = s.outbox ∧
      t.ops = s.ops.map (fun o => if waitsOnHost f p page o then
        { o with phase := if o.closing ≠ 0 then .done else if o.valid then .ready else .gated, wait := none } else o)) ∧
  (∀ (s : State) (r : PriReq) (rd wr : Bool), s.pris = [r] → r.sent = true →
    (∀ o ∈ s.ops, waitsOnHost r.func r.pasid r.page o = true → (if o.waitWrite then wr else rd) = true) →
    queuesOnHost s r.func r.pasid r.page = [] → s.mid.ports = [] → (∀ e ∈ s.groups, e.2.tableWait = none) → ∃ t,
    exec (.priResponse r.func r.pasid r.page 0 rd wr) s = .next t ∧ t.pris = [] ∧
      t.outbox = s.outbox ++ [.atsRequest r.func r.pasid r.page r.wr] ∧ t.dmem = s.dmem ∧ t.hmem = s.hmem ∧
      (∀ d ∈ diesOnHost s r.func r.pasid r.page, atsFind t d r.func r.pasid r.page =
        some { die := d, func := r.func, pasid := r.pasid, page := r.page, rd, wr }) ∧
      t.ops = s.ops.map (fun o => if waitsOnHost r.func r.pasid r.page o then
        { o with phase := if o.closing ≠ 0 then .done else if o.valid then .ready else .gated, wait := none } else o)) ∧
  (∀ (c : Instr) (s : State) (r : PriReq) (o : Op) (rd wr : Bool), s.pris = [r] → r.sent = true → s.ops = [o] →
    waitsOnHost r.func r.pasid r.page o = true → s.queues = [] → s.mid.ports = [] →
    (∀ e ∈ s.groups, e.2.tableWait = none) → o.opc ≠ 0x10 → o.opc ≠ 0x12 → o.result.status = 0 →
    c = .priResponse r.func r.pasid r.page 1 rd wr ∨ c = .priTimeout r.func r.pasid r.page → ∃ t,
    exec c s = .next t ∧ t.pris = [] ∧ t.dmem = s.dmem ∧ t.hmem = s.hmem ∧
      (c = .priTimeout r.func r.pasid r.page → s.st.auxOn = true → t.time = max s.time r.deadline) ∧
      t.ops = [{ o with
        phase := .done, closing := if o.closing = 1 then 2 else o.closing
        result := { status := 0x20, cursor := o.cursor, faultAddr := o.faultAddr } }]) ∧
  (∀ (s : State) (r : PriReq) (rd wr : Bool), s.pris = [r] → r.sent = true → s.ops = [] → s.queues = [] →
    s.mid.ports = [] → (∀ e ∈ s.groups, e.2.tableWait = none) →
    exec (.priResponse r.func r.pasid r.page 0xF rd wr) s = .next { setFunc s r.func { getFunc s r.func with
      priStopped := true } with pris := [] })

/-! ### Queues and completions (chapters 08 and 11) -/

/-- A grant of the fetch arbiter goes to a queue that can fetch, at the highest level that is ready, or at a lower one that
has waited for 63 grants; every other level then waits for one grant more (R185, R268). FETCH_DESCRIPTOR takes the granted
queue's descriptor, of one slot or two, from its ring: it is in flight with the group's binding and the queue's priority,
the head moves past it, and the queue's descriptors are validated as far as nothing gates them; with nothing to fetch
nothing changes; a ring that cannot be read stops its queue and is recorded (R186, R268, R271). -/
def Obligations.GrantsAndFetches : Prop :=
  (∀ (s : State) (q l : Nat) (a : Arbiter), grant s = some (q, a) → l = (getQueue s q).entry.priority →
    fetchable s q = true ∧
    (∀ p, fetchable s p = true → l < (getQueue s p).entry.priority → (getQueue s p).entry.priority < 8 →
      p ∈ s.queues.map (·.1) → 63 ≤ tget (dflt 0) s.arb.waited l) ∧
    ∀ i, i < 8 → i ≠ l → tget (dflt 0) a.waited i = tget (dflt 0) s.arb.waited i + 1) ∧
  ((∀ (s s1 : State) (q b : Nat) (a : Arbiter) (x : Queue) (desc : List Byte), grant s = some (q, a) →
    readDesc q { s with arb := a } = (.ok desc, s1) → x = getQueue s1 q →
    b = (getGroup s1 (groupOf q)).active.bind →
    exec .fetchDescriptor s = .next (advanceQueue q { setQueue s1 q { x with
        head := (x.head + desc.length / 64) % 2 ^ x.entry.sqLog2 } with
      ops := s1.ops ++ [{ tag := s1.nextTag, queue := q, slot := x.head, desc, asid := bindAsid b, func := bindFunc b
                          pasid := bindPasid b, prio := x.entry.priority, since := s1.time }]
      nextTag := s1.nextTag + 1 })) ∧
  (∀ s : State, grant s = none → exec .fetchDescriptor s = .next s) ∧
  (∀ (s s1 : State) (q st addr : Nat) (a : Arbiter) (w : Who), grant s = some (q, a) →
    readDesc q { s with arb := a } = (.error (.fault st addr), s1) → w = ringWho { s with arb := a } q →
    exec .fetchDescriptor s = .next (record 0x0602 0x03 (leBytes 4 q ++ leBytes 1 st ++ leBytes 3 0 ++ leBytes 8 addr)
      (setQueue (recordFault w addr s1) q { getQueue (recordFault w addr s1) q with
        stopped := true, waitAddr := none }))))

/-- The primary completion entry is 32 bytes and carries each field where the layout puts it (R284); the continuation entry
likewise (R285). -/
def Obligations.CompletionLayout : Prop :=
  (∀ (o : Op) (head : Nat) (p : Bool), (primaryEntry o head p).length = 32 ∧
    fieldAt (primaryEntry o head p) 0 16 = o.offender % 2 ^ 128 ∧
    fieldAt (primaryEntry o head p) 16 4 = o.flaggedBlocks % 2 ^ 32 ∧
    fieldAt (primaryEntry o head p) 20 2 = o.flags % 2 ^ 16 ∧
    fieldAt (primaryEntry o head p) 22 1 = o.finalStatus % 2 ^ 8 ∧
    fieldAt (primaryEntry o head p) 23 1 = o.result.subcode % 2 ^ 8 ∧
    fieldAt (primaryEntry o head p) 24 2 = o.slot % 2 ^ 16 ∧
    fieldAt (primaryEntry o head p) 26 2 = head % 2 ^ 16 ∧
    fieldAt (primaryEntry o head p) 28 2 = o.fld 6 2 ∧
    fieldAt (primaryEntry o head p) 30 1 = o.queue % 64 + (if 0x10 ≤ o.finalStatus then 64 else 0) ∧
    fieldAt (primaryEntry o head p) 31 1 = if p then 128 else 0) ∧
  ∀ (o : Op) (p : Bool), (contEntry o p).length = 32 ∧
    fieldAt (contEntry o p) 0 8 = o.result.cursor % 2 ^ 48 ∧
    fieldAt (contEntry o p) 8 8 = o.result.faultAddr % 2 ^ 64 ∧
    fieldAt (contEntry o p) 16 8 = o.result.detail % 2 ^ 64 ∧
    fieldAt (contEntry o p) 24 2 = o.slot % 2 ^ 16 ∧ fieldAt (contEntry o p) 26 4 = 0 ∧
    fieldAt (contEntry o p) 30 1 = o.queue % 64 + 128 ∧ fieldAt (contEntry o p) 31 1 = if p then 128 else 0

/-- COMPLETION_WRITE of an operation that has ended ends its runs; one with no block delivered in part that gathers no
statistics and names no DONE_TRN then takes the next place among its queue's completions; at its place, with room in the ring, its entry is written at
the tail with the ring's phase, the tail moves with the phase, the interrupt counts, and the operation leaves; with an
error status two entries are written, the continuation first; a full ring holds it (R271, R283 to R285, R289). -/
def Obligations.CompletesInOrder : Prop :=
  (∀ (s u : State) (tag : Nat) (o x : Op), findOp s tag = some o → o.tag = tag → o.phase = .done → o.closing = 0 →
    u = killRuns tag s → findOp u tag = some x → x.tag = tag → x.phase = .done → x.closing = 0 → x.gathers = false →
    x.doneTrn = 0xFFFF → x.subKey = 0 →
    exec (.completionWrite tag) s = exec (.completionWrite tag) { u with
      ops := u.ops.map (fun x => if x.tag = tag then { x with closing := 3 + u.nextOrder } else x)
      nextOrder := u.nextOrder + 1 }) ∧
  (∀ (s : State) (tag q : Nat) (o : Op) (x : Queue), findOp s tag = some o → o.phase = .done → 3 ≤ o.closing →
    q = o.queue → x = getQueue s q → x.ringFailed = false → x.waitAddr = none →
    (∀ y ∈ s.ops, y.queue = q → y.closing < 3 ∨ o.closing ≤ y.closing) →
    (∀ s2, o.finalStatus < 0x10 → 1 ≤ 2 ^ x.entry.cqLog2 - 1 - cqUsed x →
      writeRM (ringWho s q) (x.entry.cqBase + 32 * (x.cqTail % 2 ^ x.entry.cqLog2)) (primaryEntry o x.head x.phase) 3 s =
        (none, s2) →
      exec (.completionWrite tag) s = .next (retireOp o (countIrq q (bit o.dflags 0)
        (setQueue { s2 with fills := [] } q { getQueue s2 q with
          cqTail := (x.cqTail + 1) % 2 ^ x.entry.cqLog2
          phase := if x.cqTail + 1 < 2 ^ x.entry.cqLog2 then x.phase else !x.phase })))) ∧
    (∀ s1 s2, 0x10 ≤ o.finalStatus → 2 ≤ 2 ^ x.entry.cqLog2 - 1 - cqUsed x →
      writeRM (ringWho s q) (x.entry.cqBase + 32 * ((x.cqTail + 1) % 2 ^ x.entry.cqLog2))
        (contEntry o (if x.cqTail + 1 < 2 ^ x.entry.cqLog2 then x.phase else !x.phase)) 3 s = (none, s1) →
      writeRM (ringWho s q) (x.entry.cqBase + 32 * (x.cqTail % 2 ^ x.entry.cqLog2)) (primaryEntry o x.head x.phase) 3 s1 =
        (none, s2) →
      exec (.completionWrite tag) s = .next (retireOp o (countIrq q (bit o.dflags 0)
        (setQueue { s2 with fills := [] } q { getQueue s2 q with
          cqTail := (x.cqTail + 2) % 2 ^ x.entry.cqLog2
          phase := if x.cqTail + 2 < 2 ^ x.entry.cqLog2 then x.phase else !x.phase })))) ∧
    (2 ^ x.entry.cqLog2 - 1 - cqUsed x = 0 → exec (.completionWrite tag) s = .next s))

/-- FAULT_RESOLVED: an operation that waits at the first touch of a region goes on once the region is backed, and ends with
RESOURCE_EXHAUSTED at its cursor when no memory is free; one that waits on a migrating page goes on once the page has moved; one
whose access can be made now goes on; one that waits for the host, or for one of higher priority that waits for the same, is
unchanged (R203, R236, R245, R246). -/
def Obligations.FaultsResolve : Prop :=
  ∀ (s : State) (tag : Nat) (o : Op), findOp s tag = some o → o.phase = .suspended → resolvesNext o s = true →
    (∀ s1, translate s (whoOf o) o.waitWrite o.faultAddr = .wait .backing →
      backRegion o.asid o.faultAddr (o.unit = 1) s = some s1 → s1.ops = s.ops →
      exec (.faultResolved tag) s = .next (advanceQueue o.queue (freeSlots (fun t => t = tag)
        (updOp tag (fun x => { wake x with since := s1.time }) s1)))) ∧
    (translate s (whoOf o) o.waitWrite o.faultAddr = .wait .backing →
      backRegion o.asid o.faultAddr (o.unit = 1) s = none →
      exec (.faultResolved tag) s = .next (stopOp tag (.fault 0x12 o.faultAddr) o.waitWrite s) ∧
      (o.opc ≠ 0x10 → o.opc ≠ 0x12 → o.result.status = 0 → ∃ y, findOp (stopOp tag (.fault 0x12 o.faultAddr) o.waitWrite s) tag =
        some y ∧ y.phase = .done ∧ y.result = { status := 0x12, cursor := o.cursor, faultAddr := o.faultAddr })) ∧
    (∀ m, translate s (whoOf o) o.waitWrite o.faultAddr = .wait .migration → migrationAt s o.asid o.faultAddr = some m →
      exec (.faultResolved tag) s =
        .next (advanceQueue o.queue (freeSlots (fun t => t = tag)
          (updOp tag (fun x => { wake x with since := (finishMigration m s).time }) (finishMigration m s))))) ∧
    (∀ p, translate s (whoOf o) o.waitWrite o.faultAddr = .phys p →
      exec (.faultResolved tag) s =
        .next (advanceQueue o.queue (freeSlots (fun t => t = tag) (updOp tag (fun x => { wake x with since := s.time }) s)))) ∧
    (translate s (whoOf o) o.waitWrite o.faultAddr = .wait .link → exec (.faultResolved tag) s = .next s) ∧
    ∀ x ∈ s.ops, x.phase = .suspended → x.wait = some .backing → x.prio < o.prio → o.wait = some .backing →
      findOp s x.tag = some x → translate s (whoOf x) x.waitWrite x.faultAddr = .wait .backing →
      exec (.faultResolved x.tag) s = .next s

/-! ### Element operations (chapters 07 and 11) -/

/-- COPY, CONVERT, their gather and scatter forms, FILL, ELEMWISE, REDUCE and SCAN go through their destination, or the
scatter's source, in increasing order of the cursor, one run after the other: when every run from the cursor on is
delivered, the operation ends with status 0 and the cursor behind the last element; when a run cannot be delivered, the
operation stops there with every earlier run delivered (R170, R171, R246, R248, R276 to R279). -/
def Obligations.ElementOpsRunToTheEnd : Prop :=
  ∀ (c : Instr) (s : State) (tag n total : Nat) (o x : Op) (a b : Tensor) (len : Nat → Nat)
    (act : Op → Nat → Nat → State → Except (Stop × Bool) State) (st : Nat → State),
    findOp s tag = some o → o.phase = .ready → s.cfg.applying = none → o.slotFree s = true → a = o.tensor 1 → n ≤ total →
    (((c = .copy tag ∧ o.opc = 1) ∨ (c = .convert tag ∧ o.opc = 2)) ∧ o.fld 48 1 = 0 ∧ b = o.tensor 2 ∧
        total = b.count ∧ len = deliverLen b ∧ ((byteCopy o a b = true ∧ act = actCopy tag a b) ∨
          (byteCopy o a b = false ∧ act = actVal tag b o.arith (fun s o l =>
            (loadElem s (whoOf o) a (a.coords l)).map (fun x => (x.1, x.2, noK)))))) ∨
      (c = .gather tag ∧ (o.opc = 1 ∨ o.opc = 2) ∧ o.fld 48 1 = 1 ∧ b = o.tensor 2 ∧ total = b.count ∧
        ((byteCopy o a b = true ∧ isT b.format = false ∧ len = (fun _ => 1) ∧
          act = fun o l _ s => match indexIn? s o l a.count with
          | .error e => .error (e, false)
          | .ok i => copyPlain tag a b o i l s) ∨
         (byteCopy o a b = true ∧ isT b.format = true ∧ len = deliverLen b ∧ act = gatherBlock tag) ∨
         (byteCopy o a b = false ∧ len = deliverLen b ∧ act = actVal tag b o.arith gatherVal))) ∨
      (∃ late, c = .scatter tag late ∧ (o.opc = 1 ∨ o.opc = 2) ∧ o.fld 48 1 = 2 ∧ b = o.tensor 2 ∧ total = a.count ∧
        len = (fun _ => 1) ∧ act = fun o n _ s => actScatter tag late a b o n s) ∨
      (c = .fill tag ∧ o.opc = 3 ∧ b = o.tensor 1 ∧ total = b.count ∧ len = deliverLen b ∧
        act = actVal tag b o.arith (fun _ o _ => .ok (decodeElem 1 (o.fld 32 8), 0, noK))) ∨
      (c = .elemwise tag ∧ o.opc = 0x18 ∧ b = o.tensor 4 ∧ total = b.count ∧ len = deliverLen b ∧
        act = actVal tag b o.arith elemVal) ∨
      (∃ order, c = .reduce tag order ∧ o.opc = 0x19 ∧ b = o.tensor 2 ∧ total = b.count ∧ len = deliverLen b ∧
        act = actVal tag b o.arith (fun s o l => ropVal s o (b.coords l) (a.dim (o.fld 41 1)) order)) ∨
      (∃ orders, c = .scan tag orders ∧ o.opc = 0x1A ∧ b = o.tensor 2 ∧ total = b.count ∧ len = deliverLen b ∧
        act = actVal tag b o.arith (scanVal orders)) →
    st 0 = beginOp o s →
    (∀ i < n, ∃ y u, findOp (st i) tag = some y ∧ y.cursor < total ∧ act y y.cursor (len y.cursor) (st i) = .ok u ∧
      st (i + 1) = updOp tag (fun z => { z with cursor := z.cursor + len y.cursor }) u) →
    findOp (st n) tag = some x →
    (total ≤ x.cursor → exec c s = .next (endOp tag { cursor := x.cursor } (st n))) ∧
    (∀ e w, x.cursor < total → act x x.cursor (len x.cursor) (st n) = .error (e, w) →
      exec c s = .next (stopOp tag e w (st n)))

/-- An operation of one plain element stores the value converted to the destination's format, and ends with status 0, the
cursor 1 and the flags of the computation and of the conversion: the value is FILL's VALUE, the source element of CONVERT
(at the index of its list for the gather form), or what the EOP of ELEMWISE or the combination of REDUCE and SCAN gives
(R35, R53, R175, R277 to R279). NOP ends at once with status 0; no operation begins before it is ready, while a
configuration is being applied, or while its units or the slots of its tile's access engine are taken (R144, R166, R273, R386). -/
def Obligations.ElementResultsAndStarts : Prop :=
  (∀ (c : Instr) (s u s1 : State) (tag k fl : Nat) (o o0 o1 : Op) (b : Tensor) (v : XVal) (ws : List (Nat × Bool × List Byte)),
    findOp s tag = some o → o.phase = .ready → s.cfg.applying = none → o.slotFree s = true → o.cursor = 0 →
    o.old = [] → b.count = 1 →
    isT b.format = false → u = beginOp o s → o0 = o.begun s →
    (c = .fill tag ∧ o.opc = 3 ∧ b = o.tensor 1 ∧ v = decodeElem 1 (o.fld 32 8) ∧ fl = 0 ∧ k = noK) ∨
      (c = .convert tag ∧ o.opc = 2 ∧ o.fld 48 1 = 0 ∧ b = o.tensor 2 ∧ k = noK ∧
        loadElem u (whoOf o0) (o.tensor 1) ((o.tensor 1).coords 0) = .ok (v, fl)) ∨
      (c = .gather tag ∧ o.opc = 2 ∧ o.fld 48 1 = 1 ∧ b = o.tensor 2 ∧ k = noK ∧
        ∃ i, indexAt u o0 0 = .ok i ∧ i < (o.tensor 1).count ∧
          loadElem u (whoOf o0) (o.tensor 1) ((o.tensor 1).coords i) = .ok (v, fl)) ∨
      (c = .elemwise tag ∧ o.opc = 0x18 ∧ b = o.tensor 4 ∧ elemVal u o0 0 = .ok (v, fl, k)) ∨
      (∃ order, c = .reduce tag order ∧ o.opc = 0x19 ∧ b = o.tensor 2 ∧
        ropVal u o0 (b.coords 0) ((o.tensor 1).dim (o.fld 41 1)) order = .ok (v, fl, k)) ∨
      (∃ orders, c = .scan tag orders ∧ o.opc = 0x1A ∧ b = o.tensor 2 ∧ o.fld 43 1 = 0 ∧
        (b.coords 0).getD (o.fld 41 1) 0 = 0 ∧
        ropVal u o0 (b.coords 0) 1 (orders.getD 0 []) = .ok (v, fl, k)) →
    ws = codeWrites b (b.coords 0) [fromContainer b.format (storeVal b.format o.arith v).1] →
    writeAll (whoOf o0) ws (keepOld tag ws u) = .ok s1 →
    findOp s1 tag = some o1 → o1.flags = o.flags → o1.cursor = 0 →
    ∃ t o', exec c s = .next t ∧ t.dmem = s1.dmem ∧ t.hmem = s1.hmem ∧ findOp t tag = some o' ∧ o'.phase = .done ∧
      o'.result = { cursor := 1 } ∧ o'.flags = o.flags ||| (fl ||| (storeVal b.format o.arith v).2.2)) ∧
  ((∀ (s : State) (tag : Nat) (o : Op), findOp s tag = some o → o.phase = .ready → o.opc = 0 → s.cfg.applying = none →
    o.slotFree s = true →
    ∃ w x ts fs, exec (.nop tag) s = .next { s with
        works := w, fills := [], tiles := ts, floe := fs, ops := s.ops.map (fun y => if y.tag = tag then x else y) } ∧
      x = { o.begun s with phase := .done, result := {}, closing := if o.closing = 1 then 2 else o.closing }) ∧
  ∀ (c : Instr) (s : State) (tag : Nat) (tree : List Nat) (trees : List (List Nat)),
    c ∈ [.nop tag, .copy tag, .convert tag, .gather tag, .scatter tag tree, .fill tag, .elemwise tag, .reduce tag tree,
      .scan tag trees] →
    (∀ o, findOp s tag = some o → o.phase ≠ .ready ∨ (s.cfg.applying.isSome = true ∧ o.started = false) ∨
      o.slotFree s = false) →
    exec c s = .next s)

/-! ### Matrix work (chapters 04 and 08) -/

/-- The sum of a result element takes its terms in increasing k from +0, each with the accumulation of its format; K-slices
of one length are one slice, and the values of a block are the elements of its rows and columns (R47, R79, R87). MATMUL and
CONV outside a ring work through their output blocks in order: when every block is delivered, or queued for its
epilogue run, the operation ends with its runs; a block whose operands cannot be read, or that cannot be delivered, stops it at
its cursor; where no tile can run it, or its next block, it waits; with no tile that its group may use it ends with RESOURCE_EXHAUSTED and
no effect (R54, R76, R93, R104, R106, R197, R206, R248). -/
def Obligations.MatrixBlocks : Prop :=
  ((∀ (a b : List Operand) (z : Operand) (getA getB : Nat → Except Stop (Option Operand)) (f arith lo n : Nat),
    (∀ k < n, getA (lo + k) = .ok (some (a.getD k z)) ∧ getB (lo + k) = .ok (some (b.getD k z))) →
    sliceSum getA getB f arith lo n = .ok ((List.range n).foldl
      (fun r k => macTerm f arith (lo + k) (a.getD k z) (b.getD k z) r) (XVal.zero, 0, none))) ∧
  (∀ (getA getB : Nat → Except Stop (Option Operand)) (f arith n : Nat) (order : List Nat),
    slicedSum getA getB f arith [n] order = sliceSum getA getB f arith 0 n) ∧
  (∀ (o : Op) (src : Sources) (m0 ml n0 nl b r c : Nat) (vs : List Running),
    o.blockVals src (m0, ml, n0, nl, b, r, c) = .ok vs → vs.length = ml * nl ∧
      ∀ e < ml * nl, ∃ v, vs[e]? = some v ∧ o.element src (m0 + e / nl) (n0 + e % nl) b = .ok v)) ∧
  (∀ (c : Instr) (s u : State) (tag : Nat) (tiles slices order l : List Nat) (o : Op),
    findOp s tag = some o → o.phase = .ready → s.cfg.applying = none → u = beginOp o s →
    (c = .matmul tag tiles slices order ∧ o.opc = 0x10) ∨ (c = .conv tag tiles slices order ∧ o.opc = 0x12) →
    o.slotFree s = true → l = spreadTiles u (o.placed s) tiles →
    (pinnedTiles u (groupOf o.queue) = [] → exec c s = .next (refuseOp tag 0x12 u)) ∧
    (pinnedTiles u (groupOf o.queue) ≠ [] → o.gen = 0 → o.tiles = [] → o.carousel = false → l = [] →
      exec c s = .next (updOp tag (fun o => { o with started := false }) u)) ∧
    (pinnedTiles u (groupOf o.queue) ≠ [] → o.gen = 0 → o.tiles = [] → o.carousel = false → o.batchOk = false →
      l ≠ [] → ∀ (o1 o2 x : Op) (v : State) (n : Nat) (st : Nat → State),
      o1 = { Op.deal { o.placed s with tiles := l, slices := slices, sumTree := order } u (if tiles.isEmpty then [] else l)
        with started := true } →
      v = resumeDrains tag (releaseParts tag (growTree [tag] o1.tiles (setOp u o1))) → findOp v tag = some o2 →
      st 0 = markWork (o2.tileUnits v) (setModes o2 v) → n ≤ o2.nBlocks →
      (∀ i < n, ∃ y ps w0 w, findOp (st i) tag = some y ∧ issues (st i) tag = true ∧ y.gen = i ∧ i < y.nBlocks ∧
        y.sliceTiles i (st i) = some ps ∧ fetchRow tag i ps (setOp (st i) { y with phys := ps.headD 0 }) = (none, w0) ∧
        blockAct i ps (y.blk i) ({ y with phys := ps.headD 0 }.sources w0) { y with phys := ps.headD 0 } w0 = (none, w) ∧
        st (i + 1) = updOp tag (fun z => { z with gen := i + 1 }) w) →
      findOp (st n) tag = some x → x.gen = n → issues (st n) tag = true →
      (x.nBlocks ≤ n →
        exec c s = .next (finishRuns tag (updOp tag (fun z => { z with phase := .running }) (st n)))) ∧
      (n < x.nBlocks → x.sliceTiles n (st n) = none → exec c s = .next (st n)) ∧
      (∀ e ps w, n < x.nBlocks → x.sliceTiles n (st n) = some ps →
        fetchRow tag n ps (setOp (st n) { x with phys := ps.headD 0 }) = (some e, w) →
        exec c s = .next (stopBlock tag (needing w { x with phys := ps.headD 0 } n (ps.headD 0)) (x.blk n) e w)) ∧
      (∀ e ps w0 w, n < x.nBlocks → x.sliceTiles n (st n) = some ps →
        fetchRow tag n ps (setOp (st n) { x with phys := ps.headD 0 }) = (none, w0) →
        blockAct n ps (x.blk n) ({ x with phys := ps.headD 0 }.sources w0) { x with phys := ps.headD 0 } w0 =
          (some e, w) →
        exec c s = .next (stopBlock tag [ps.headD 0] (x.blk n) e w))))

/-- SWEEP_TIMEOUT issues the sweep: its weights are staged and its request runs; MULTICAST_PRUNE takes a member off its tree,
which goes on for it alone from the tree's cursor, and counts it; SHARD_ARRIVE moves a shard from its place's predecessor,
which has done the phase before, and lets the place do its next phase with it (R90, R91, R178, R181). -/
def Obligations.SweepsTreesAndRings : Prop :=
  (∀ (s u v : State) (id tag n : Nat) (w : Sweep) (o y : Op) (st : Nat → State),
    tfind id s.place.sweeps = some w → w.ops = [tag] →
    u = { passTo (w.opened + w.limit * 1000) s with
      place := { s.place with sweeps := terase id s.place.sweeps } } →
    findOp s tag = some o → o.phase = .waiting → y = { o with phase := .ready } → n = y.nBlocks →
    v = growTree [tag] o.tiles.eraseDups (stageWeights [tag] y (updOp tag (fun o => { o with phase := .ready }) u)) →
    st 0 = markWork (y.tileUnits v) (setModes y v) →
    (∀ i < n, ∃ ps w0 w1 l, y.sliceTiles i (st i) = some ps ∧ fetchRow y.tag i ps (st i) = (none, w0) ∧
      sweepParts ps i [tag] 0 w0 = (l, w1) ∧ st (i + 1) = giveBlock ps i (y.blk i) l w1) →
    exec (.sweepTimeout id) s = .next (finishRuns tag (updOp tag
      (fun o => if o.phase = .ready then { o with phase := .running } else o) (st n)))) ∧
  (∀ (s u : State) (id m p : Nat) (t : Tree), tfind id s.place.trees = some t → m ∈ t.members →
    physOf s m = some p →
    u = { s with place := { s.place with trees := tinsert id { t with
      members := t.members.filter (· ≠ m), pruned := t.pruned ++ [(m, t.cursor)]
      nodes := t.nodes.take 1 ++ (t.nodes.drop 1).filter (· ≠ p) } s.place.trees } } →
    exec (.multicastPrune id m) s =
      .next (setTile u p { getTile s p with pruned := min 0xFFFF ((getTile s p).pruned + 1) })) ∧
  (∀ (s v u s1 : State) (g p f n j a b key : Nat) (r r0 : Carousel) (o : Op) (cs : List (Nat × Nat)) (blocks : List Blk),
    tfind g s.place.rings = some r0 → findOp s r0.op = some o → v = mendRing g o s → tfind g v.place.rings = some r →
    r.op = r0.op → issues v o.tag = true → r.taken = false → ringWhole r v = true →
    n = r.ring.length → f = r.phases.getD p 0 → p < r.phases.length → 0 < f → f < n →
    f ≤ r.phases.getD ((p + n - 1) % n) 0 → f ≤ r.phases.getD ((p + 1) % n) 0 + 1 →
    j = shardIn n p f → a = ringPhys r ((p + n - 1) % n) v → b = ringPhys r p v → (getTile v b).shards.length < 2 →
    (getTile v b).shards.any (fun x => x.1 = j) = false →
    (getTile v a).shard j = some cs → reloadShards r o (List.range n) v = .ok v →
    u = updTile b (fun t => { t with shards := t.shards ++ [(j, cs)] })
      (updTile a (fun t => { t with shards := t.shards.filter (fun x => decide (x.1 ≠ j)) }) v) →
    reloadShards r o (List.range n) u = .ok u → blocks = o.ringBlocks n p f → key = (p * n + f) * 2 ^ 32 →
    o.runsOn (getTile (ringMode r p o u) (ringPhys r p (ringMode r p o u))) = true →
    phaseBlocks o.tag key (ringPhys r p (ringMode r p o u)) j r blocks 0 (ringMode r p o u) = s1 →
    (∃ y, findOp s1 o.tag = some y ∧ ∀ i < blocks.length, key + i ∈ y.blocksDone) →
    exec (.shardArrive g p) s =
      .next (ringCheck g o.tag (setRing g { r with phases := r.phases.set p (f + 1) } s1)))

/-- Block commands on a tile that serves: ACC accumulates its K-slice into a bank and leaves the partition running,
ACC_DRAIN and DRAIN close the bank, which drains; a command for a bank that drains waits; SET_MODE with every bank free
sets the mode with one idle partition, and is dropped with a bank in use (the drop is the model's choice: log entry 65); a
check pattern without faults passes; the end of a drain, into the vector bank where it is first there, into the tile store
or into memory, frees the bank; a command that cannot be executed retires its tile with SEQ_FAULT (R85 to R88, R93, R100 to
R104). -/
def Obligations.BlockCommands : Prop :=
  (∀ (s u : State) (p q b : Nat) (w : BitVec 512) (feed : List Byte) (ok : List Nat) (t : Tile) (x : Partn), tileServes s p = true →
    t = getTile s p → cmdOk t.mode w.toNat = true → splitsBlock s t.mode w.toNat = false → q = cmdPart w.toNat →
    b = cmdBank w.toNat → x = getPart t q → u = markWork [tileUnit p q] s →
    (x.held = [] → (x.bank b).st ≠ 2 →
      (cmdOp w.toNat = 1 → exec (.acc p w feed ok) s = .next (setTile u p { setPart t q
        { Partn.setBank { x with st := 1, accBank := b } b (accBankOp u t w.toNat feed (x.bank b)) with
          cmd := w.toNat } with accepted := t.accepted + 1 })) ∧
      (cmdOp w.toNat = 2 → exec (.accDrain p w feed ok) s = .next (setTile u p { setPart t q
        { Partn.setBank { x with st := 0, accBank := b } b { accBankOp u t w.toNat feed (x.bank b) with
            st := 2, closed := t.accepted } with cmd := w.toNat } with accepted := t.accepted + 1 })) ∧
      (cmdOp w.toNat = 3 → (x.bank b).st = 1 → exec (.drain p w ok) s = .next (setTile u p { setPart t q
        { Partn.setBank { x with st := 0 } b { x.bank b with st := 2, cmd := w.toNat, closed := t.accepted } with
          cmd := w.toNat } with accepted := t.accepted + 1 }))) ∧
    ((x.bank b).st = 2 → cmdOp w.toNat = 1 →
      exec (.acc p w feed ok) s = .next (setTile u p (setPart t q { x with held := x.held ++ [(w.toNat, feed)] })))) ∧
  (∀ (s : State) (p : Nat) (w : BitVec 512) (ok : List Nat) (t : Tile), tileServes s p = true → t = getTile s p →
    cmdOk t.mode w.toNat = true → cmdOp w.toNat = 4 →
    (banksFree t = true → exec (.setMode p w ok) s =
      .next (setTile s p { t with mode := cmdMode w.toNat, parts := [(0, { cmd := w.toNat })] })) ∧
    (banksFree t = false → exec (.setMode p w ok) s = .next s)) ∧
  (∀ (s : State) (p q : Nat) (w : BitVec 512) (spares : List Nat) (t : Tile), tileServes s p = true →
    t = getTile s p → cmdOk t.mode w.toNat = true → cmdOp w.toNat = 5 → q = cmdPart w.toNat → ∃ u,
    u = setTile s p (setPart t q { getPart t q with cmd := w.toNat }) ∧
      exec (.check p w [] spares) s = .next (setTile u p { getTile u p with check := 1 })) ∧
  (∀ (s u : State) (p q tag : Nat) (t : Tile) (x : Partn) (b : PeBank), t = getTile s p → x = getPart t q →
    x.held = [] → x.bankA = b → b.st = 2 → x.bankB.st ≠ 2 →
    (cmdToBank b.cmd = true ∧ firstToBank t b = true ∧ tag = cmdTag b.cmd ∧ u = drainToBank p q b s) ∨
      (cmdToBank b.cmd = false ∧ cmdToMem b.cmd = false ∧ tag = cmdTag b.cmd ∧ u = drainToStore p q b s) ∨
      (cmdToBank b.cmd = false ∧ cmdToMem b.cmd = true ∧ ∃ w, b.owners = [w] ∧ tag = w.op ∧
        drainOwn p q b w s = (none, u)) →
    (getPart (getTile u p) q).held = [] → (getPart (getTile u p) q).st ≠ 2 →
    exec (.drainEnd p q) s = .next (finishRuns tag (setTile u p (setPart (getTile u p) q
      { getPart (getTile u p) q with bankA := {} })))) ∧
  ∀ (s : State) (p : Nat) (w : BitVec 512) (feed : List Byte) (ok : List Nat), tileServes s p = true →
    cmdOp w.toNat = 0 ∨ 5 < cmdOp w.toNat →
    exec (.acc p w feed ok) s = .next (retireTile p 3 ok
      (record 0x0205 (0x10 + p / 72) (leBytes 2 p ++ leBytes 6 0 ++ leBytes 64 w.toNat) s))

/-- Pre-emption of the unit that gives way saves a stream run with its window as a context, and its engine is idle; it saves a
partition's work as a context, and the partition is stopped; it puts a part of a Floe engine into its stack's state buffer; a
context that finds no room is recorded and nothing is pre-empted; where no unit gives way nothing changes; the first context of
its kind to resume whose fault is not open gives its run and window back to an engine that is idle and has room for its image,
else it waits; one that cannot be read ends its operation with DATA_ERROR; CONTEXT_COPY with GO and nothing selected
answers NONE, and else writes the context's bytes to the buffer (R250 to R257). -/
def Obligations.SavedContexts : Prop :=
  (∀ (s : State) (p q prio tag : Nat) (x : Context × Tile), p < 288 → givesWay prio s (.stream p, tag) = true →
    x = takeStream s p →
    (contextFits s (p / 72) x.1 = true → exec (.preempt p q true prio) s =
      .next (setTile { s with contexts := s.contexts ++ [x.1] } p { getTile s p with
        run := { (getTile s p).run with kind := 0 }
        xfers := (getTile s p).xfers.filter (fun e => decide (e.2.op ≠ (getTile s p).run.op)) })) ∧
    (contextFits s (p / 72) x.1 = false → exec (.preempt p q true prio) s = .next (record 0x0603 0x05 [] s)) ∧
    x.1.run = some (getTile s p).run ∧ x.1.op = (getTile s p).run.op ∧
    x.1.window = Memory.readN (getTile s p).bank (getTile s p).run.winBase (getTile s p).run.winSize) ∧
  (∀ (s : State) (p q prio tag : Nat) (x : Context × Tile), p < 288 → ringAt s p = none →
    givesWay prio s (.part p q, tag) = true → x = takePart s p q →
    (contextFits s (p / 72) x.1 = true →
      exec (.preempt p q false prio) s = .next (setTile { s with contexts := s.contexts ++ [x.1] } p x.2)) ∧
    (contextFits s (p / 72) x.1 = false → exec (.preempt p q false prio) s = .next (record 0x0603 0x05 [] s)) ∧
    x.1.kind = 0 ∧ x.1.op = partTag (getTile s p) q ∧ x.1.partn = some (getPart (getTile s p) q) ∧
    (getPart x.2 q).st = 2 ∧ (getPart x.2 q).held = [] ∧ x.2.store = (getTile s p).store) ∧
  (∀ (s : State) (k q prio tag : Nat) (stream : Bool), numPhys s.variant ≤ 288 →
    (∀ u ∈ runUnits s, ∀ p, u.1 = .stream p ∨ (∃ q g, u.1 = .part p q ∨ u.1 = .ring p g) → p < 288) →
    givesWay prio s (.engine k, tag) = true → (getFloe s k).buffer.length < 8 → ∃ tag' ∈ floeParts s k,
    exec (.preempt (288 + k) q stream prio) s =
      .next (setFloe s k { getFloe s k with buffer := (getFloe s k).buffer ++ [tag'] })) ∧
  (∀ (s : State) (p q prio : Nat) (stream : Bool), (∀ u ∈ runUnits s, givesWay prio s u = false) →
    exec (.preempt p q stream prio) s = .next s) ∧
  (∀ (s : State) (i p : Nat) (c : Context) (r : VecRun) (t : Tile), s.contexts[i]? = some c →
    firstToResume (fun x => x.faulted s) s.contexts i c = true → c.faulted s = false → c.kind = 1 → c.partn = none → c.run = some r → t = getTile s p →
    t.run.kind = 0 → physOf s c.tile = none → t.xfers.length + c.xfers.length ≤ 16 → ∃ u y,
    u = { s with contexts := s.contexts.eraseIdx i } ∧
      y = loadImage u r.imgAddr r.imgTag { t with run := r, bank := Memory.writeN t.bank r.winBase c.window } ∧
      ((loadImage u r.imgAddr r.imgTag t).holds r.imgAddr r.imgTag = true →
        exec (.resume i p true) s = .next (setTile u p (placeSlots false c.xfers y))) ∧
      ((loadImage u r.imgAddr r.imgTag t).holds r.imgAddr r.imgTag = false →
        exec (.resume i p true) s = .next s)) ∧
  (∀ (s : State) (i p : Nat) (c : Context) (o : Op), s.contexts[i]? = some c →
    firstToResume (fun x => x.faulted s) s.contexts i c = true → c.faulted s = false → physOf s c.tile = none → findOp s c.op = some o → o.phase ≠ .done →
    exec (.resume i p false) s =
      .next (endIssued c.op { status := 0x30, cursor := o.cursor } { s with contexts := s.contexts.eraseIdx i })) ∧
  (∀ (s : State) (v : W32), s.st.ready = true → bit v.toNat 31 = true → s.contexts = [] → copyBusy s 2 = false → ∃ p,
    exec (.contextCopy v) s = .next { s with place := p } ∧ p.ctxDone = true ∧ p.ctxNone = true) ∧
  (∀ (s u s1 s2 : State) (v : W32) (c : Context) (bs : List Byte), s.st.ready = true → bit v.toNat 31 = true →
    copyBusy s 2 = false → selectContext s (bits v.toNat 0 20) = some c →
    u = { s with place := { s.place with
      ctxSel := setBits (bits v.toNat 0 20) 10 6 0, ctxDone := s.place.ctxDone && !bit v.toNat 29 } } →
    contextBytes c u = (bs, s1) →
    copyOut (copyWho 0x0500) (bs.length / 64 + 2) s1.place.ctxAddr bs s1 = (none, s2) →
    exec (.contextCopy v) s = .next { s2 with place := { s2.place with ctxDone := true, ctxNone := false } })

/-! ### Placement (chapter 08) -/

/-- A PLACE_HINT that is ready: AFFINITY and KEEP_NEAR of a range without backed regions are recorded; PIN_DATA of mapped
leaves that lie as it asks, within seven eighths of tier one and with no page migrating, pins every leaf of the range, and
beyond seven eighths ends with RESOURCE_EXHAUSTED and no effect, as it ends with TRANSLATION_FAULT at an address that is not mapped; UNPIN_DATA leaves no pin and
no hint in the range; PIN_TILES, UNPIN_TILES and PRIORITY_MODE change the queue's group (R204 to R206). -/
def Obligations.PlacementHints : Prop :=
  ∀ (s u : State) (tag g lo hi : Nat) (o : Op), findOp s tag = some o → o.tag = tag → o.phase = .ready →
    s.cfg.applying = none → o.opc = 0x50 → o.slotFree s = true → u = beginOp o s → g = groupOf o.queue →
    lo = o.hintBase → hi = lo + o.hintLen →
    (∀ c kind arg, (c = .affinity tag ∧ o.fld 16 1 = 1 ∧ kind = 1 ∧ arg = o.fld 18 2) ∨
        (c = .keepNear tag ∧ o.fld 16 1 = 2 ∧ kind = 2 ∧ arg = o.fld 40 8) →
      (∀ r ∈ runsIn s o.asid lo hi, r.kind ≠ .backed ∧ r.kind ≠ .tier2) →
      exec c s = .next (endOp tag {} { u with place := { s.place with hints := s.place.hints ++
        [{ asid := o.asid, base := lo, len := o.hintLen, kind, arg, stackSet := o.fld 20 4, window := o.fld 17 1
           func := o.func }] } })) ∧
    (o.fld 16 1 = 3 → ∀ fresh, firstUnmapped s o.asid (s.pages.length + 1) lo hi = none →
      fresh = ((runsIn s o.asid lo hi).filter (fun r => !r.pin)).foldl (fun n r => n + r.len) 0 →
      (8 * (pinnedBytes s + fresh) ≤ 7 * tierOne s → s.place.migrations = [] →
        (∀ r ∈ runsIn s o.asid lo hi, pinSettled s (o.fld 20 4) (o.fld 17 1) r = true) → ∃ t,
        exec (.pinData tag) s = .next t ∧ t.dmem = s.dmem ∧
          (∀ p ∈ t.pages, p.asid = o.asid → lo < p.base + p.len → p.base < hi → p.pin = true) ∧
          t.place.hints.length = s.place.hints.length + 1) ∧
      (7 * tierOne s < 8 * (pinnedBytes s + fresh) → exec (.pinData tag) s = .next (refuseOp tag 0x12 u))) ∧
    (o.fld 16 1 = 3 → o.result.status = 0 → ∀ a, firstUnmapped s o.asid (s.pages.length + 1) lo hi = some a → ∃ t o',
      exec (.pinData tag) s = .next t ∧ t.pages = s.pages ∧ findOp t tag = some o' ∧ o'.phase = .done ∧
        o'.started = false ∧ o'.result = { status := 0x20, cursor := o.cursor, faultAddr := a }) ∧
    (o.fld 16 1 = 6 → ∃ t, exec (.unpinData tag) s = .next t ∧
      (∀ p ∈ t.pages, p.asid = o.asid → lo < p.base + p.len → p.base < hi → p.pin = false) ∧
      (∀ h ∈ t.place.hints, h.asid = o.asid → h.base + h.len ≤ lo ∨ hi ≤ h.base) ∧ t.dmem = s.dmem) ∧
    (o.fld 16 1 = 4 → exec (.pinTiles tag) s =
      .next (endOp tag {} (setGroup u g { getGroup s g with tilePin := some (o.fld 64 32) }))) ∧
    (o.fld 16 1 = 7 → exec (.unpinTiles tag) s =
      .next (endOp tag {} (setGroup u g { getGroup s g with tilePin := none }))) ∧
    (o.fld 16 1 = 5 → exec (.priorityMode tag) s =
      .next (endOp tag {} (setGroup u g { getGroup s g with latencyFirst := decide (o.fld 48 1 = 1) })))

/-- Migration: a write of PLC_MIG_CTRL whose PROMOTE is not above its DEMOTE is recorded and ignored whole, any other waits
for the epoch's end; at that end with migration off or no page hot enough the pending value comes into force and the counts
are halved; the only migration, of a page without poisoned lines, ends with the page's bytes at the new place, or, when the old copy
cannot be read, where it was; a snapshot with GO writes its header and records, cut at the buffer's length, and is DONE (R202,
R203, R207). SPEED_SAMPLE, 1 ms after the last, on one
tile in service: its rate is stored, its ratio to the median, which is one, joins its history, and both figures of the
device are its rate; a tile whose last 1,000 ratios have a mean below 0.6 is retired, one whose last 10,000 have a mean
below 0.85 is slow, and one at 0.9 or above is not (R199 to R201). -/
def Obligations.MigrationSpeedsAndView : Prop :=
  ((∀ (s : State) (v : W64), s.st.ready = true →
    (bits v.toNat 8 8 ≤ bits v.toNat 0 8 → exec (.migCtrlWrite v) s = .next (record 0x0406 0x05 (leBytes 8 v.toNat) s)) ∧
    (bits v.toNat 0 8 < bits v.toNat 8 8 → ∃ p, exec (.migCtrlWrite v) s = .next { s with place := p } ∧
      (bits v.toNat 48 15 = 0 → bits v.toNat 16 16 ≠ 0 → p = { s.place with migNext := some v.toNat }))) ∧
  (∀ (s u : State), s.st.ready = true → 
    u = leaveBad (passTo (s.place.lastEpoch + bits s.place.migCtrl 16 16 * 1000000) s) →
    (bit s.place.migCtrl 63 = false ∨ hotPages u (bits s.place.migCtrl 8 8) = []) →
    exec .migrationEpoch s = .next { u with place := { u.place with
      counts := (u.place.counts.map (fun e => (e.1, e.2 / 512 * 256))).filter (fun e => e.2 ≠ 0)
      lastEpoch := u.time, migCtrl := u.place.migNext.getD u.place.migCtrl, migNext := none } }) ∧
  (∀ (s : State) (m : Migration) (readOk : Bool), s.place.migrations = [m] → badLines s m.old = [] → ∃ t,
    exec (.migrationDone m.asid m.page readOk) s = .next t ∧ t.place.migrations = [] ∧
      (readOk = true → m.readable s = true → s.dmem.wf = true → ∀ i < 2 ^ 21, t.dmem.read (m.new + i) = s.dmem.read (m.old + i)) ∧
      (readOk = false → t.dmem = s.dmem)) ∧
  (∀ (s u s1 : State) (v : W32) (k : Nat) (rs : List (List Byte)) (tr : Bool) (bs : List Byte), s.st.ready = true →
    bit v.toNat 31 = true → k = bits v.toNat 24 4 → 1 ≤ k → k ≤ 3 → copyBusy s 1 = false →
    u = { s with place := { s.place with
      viewKind := k, viewGroup := bits v.toNat 12 12, viewDone := s.place.viewDone && !bit v.toNat 29 } } →
    viewRecords u k (bits v.toNat 12 12) s.place.viewSel ((s.place.viewLen - 64) / 16) = (rs, tr) →
    bs = (padTo 64 (leBytes 4 rs.length ++ leBytes 1 k ++ leBytes 3 0 ++ leBytes 8 s.time) ++ rs.flatten).take s.place.viewLen →
    copyOut (copyWho 0x0500) (bs.length / 64 + 2) s.place.viewAddr bs u = (none, s1) →
    exec (.placementSnapshot v) s = .next { s1 with place := { s1.place with
      viewDone := true, viewTrunc := tr || decide (s.place.viewLen < 64) } })) ∧
  ((∀ (s : State) (p l r : Nat) (x : Tile) (sp : List Nat), s.st.ready = true → s.tiles = [(p, x)] → x.logical = some l →
    x.st = 0 → p < numPhys s.variant → r ≠ 0 → x.hist.length < 999 → ∃ t, exec (.speedSample [(p, r)] sp) s = .next t ∧
      t.tiles = [(p, { x with rate := r, hist := 1000000 :: x.hist })] ∧ t.pwr.minMlcs = min 0xFFFF r ∧
      t.pwr.medMlcs = min 0xFFFF r ∧ t.place.lastSpeed = t.time ∧
      (s.st.auxOn = true → t.time = max s.time (s.place.lastSpeed + 1000000)) ∧ t.dmem = s.dmem ∧ t.ops = s.ops) ∧
  ∀ (s : State) (p m m10 : Nat) (sp : List Nat), lastSum (getTile s p).hist 1000 = some m →
    (m < 600000000 → judgeTile p sp s = retireTile p 0 sp s) ∧
    (600000000 ≤ m → lastSum (getTile s p).hist 10000 = some m10 →
      ((getTile s p).st = 0 → m10 < 8500000000 → (getTile (judgeTile p sp s) p).st = 1) ∧
      ((getTile s p).st = 1 → 9000000000 ≤ m10 → (getTile (judgeTile p sp s) p).st = 0) ∧
      ((getTile s p).st = 0 → 8500000000 ≤ m10 → judgeTile p sp s = s)))

/-! ### The vector engine (chapter 05) -/

/-- The control and scalar instructions and the reduction change the run as their rules say and nothing else, and the engine
goes on to the next instruction, or to the target of a branch that is taken (R118 to R120, R127, R130). -/
def Obligations.VectorControl : Prop :=
  ∀ (c : Instr) (s : State) (p i n : Nat) (o : Op) (t : Tile) (r x : VecRun) (b : List Byte),
    issued s p = some (o, i) → t = getTile s p → r = t.run → imageOf s r.imgAddr r.imgTag = some b →
    (c = .vxNop p ∧ iOpc i = 0x00 ∧ x = r.advance) ∨
      (c = .jmp p ∧ iOpc i = 0x02 ∧ x = r.branch (sext 16 i)) ∨
      (c = .bnz p ∧ iOpc i = 0x03 ∧ n = wrapInt 64 (Int.ofNat (r.getS (iA i % 16)) - 1) ∧
        x = if n ≠ 0 then (r.setS (iA i % 16) n).branch (sext 16 i) else (r.setS (iA i % 16) n).advance) ∨
      (c = .loop p ∧ iOpc i = 0x04 ∧ x = { r with
        pc := r.pc + 1, loops := r.loops ++ [{ count := bits i 16 16, start := r.pc + 1, len := bits i 0 11 }] }) ∨
      ((c = .swait p ∨ c = .swaitResume p) ∧ iOpc i = 0x05 ∧ pumpRings p s = s ∧
        ((sext 64 (r.getS (iA i % 16)) ≤ Int.ofNat (r.ctr (iC i % 8)).count ∧ x = r.advance) ∨
         (Int.ofNat (r.ctr (iC i % 8)).count < sext 64 (r.getS (iA i % 16)) ∧ (r.ctr (iC i % 8)).ended = true ∧
          x = r.branch (sext 16 i)) ∨
         (Int.ofNat (r.ctr (iC i % 8)).count < sext 64 (r.getS (iA i % 16)) ∧ (r.ctr (iC i % 8)).ended = false ∧
          x = r))) ∨
      (c = .srel p ∧ iOpc i = 0x06 ∧ x = (r.setCtr (iC i % 8) { r.ctr (iC i % 8) with
          release := sext 64 (r.getS (iA i % 16)) + sext 32 i }).advance ∧
        pumpTile p (setTile s p { t with run := x }) = setTile s p { t with run := x }) ∨
      (c = .smovi p ∧ iOpc i = 0x08 ∧ x = (r.setS (iD i % 16) (wrapInt 64 (sext 32 i))).advance) ∨
      (c = .smovh p ∧ iOpc i = 0x09 ∧
        x = (r.setS (iD i % 16) (r.getS (iD i % 16) % 2 ^ 32 + bits i 0 32 * 2 ^ 32)).advance) ∨
      (c = .sadd p ∧ iOpc i = 0x0A ∧ n = (if iB i % 16 = 0 then 0 else r.getS (iB i % 16)) ∧
        x = (r.setS (iD i % 16) (wrapInt 64 (Int.ofNat (r.getS (iA i % 16) + n) + sext 32 i))).advance) ∨
      (c = .radv p ∧ iOpc i = 0x0B ∧ x = (r.setS (iD i % 16) (withAddr (r.getS (iA i % 16))
        (ringStep (r.getS (iA i % 16)) (sext 32 i)))).advance) ∨
      (c = .vred p ∧ iOpc i = 0x2C ∧ x = (vredOp o i r).advance) →
    x.imgAddr = r.imgAddr → x.imgTag = r.imgTag → x.pc < imgLen b →
    exec c s = .next (setTile s p { t with run := x })

/-- A lane instruction writes the active lanes of its destination with its function of the same lanes of its sources, adds
their flags to the run, and leaves every other lane and register, the bank and the rest of the device as they were (R44,
R109, R119, R128, R129, R131, R132, R136 to R138). -/
def Obligations.VectorLanes : Prop :=
  ∀ (c : Instr) (s : State) (p i : Nat) (o : Op) (t : Tile) (r : VecRun) (b : List Byte) (g : Nat → Nat × Nat),
    issued s p = some (o, i) → t = getTile s p → r = t.run → imageOf s r.imgAddr r.imgTag = some b →
    r.advance.pc < imgLen b →
    (c = .vmovs p ∧ iOpc i = 0x18 ∧ g = fun _ => (r.getS (iA i % 16), 0)) ∨
      (c = .vperm p ∧ iOpc i = 0x19 ∧ g = fun l => (r.getV (iA i) ((l + i) % 64), 0)) ∨
      (∃ h, ((c = .vadd p ∧ iOpc i = 0x20 ∧ h = fun x y _ => ieeeAdd 2 o.rnd false x y) ∨
          (c = .vsub p ∧ iOpc i = 0x21 ∧ h = fun x y _ => ieeeSub 2 o.rnd x y) ∨
          (c = .vmul p ∧ iOpc i = 0x22 ∧ h = fun x y _ => ieeeMul 2 o.rnd x y) ∨
          (c = .vfma p ∧ iOpc i = 0x23 ∧ h = fun x y z => ieeeFma 2 o.rnd false x y z) ∨
          (c = .vmax p ∧ iOpc i = 0x24 ∧ h = fun x y _ => ieeeMax false x y) ∨
          (c = .vmin p ∧ iOpc i = 0x25 ∧ h = fun x y _ => ieeeMin false x y)) ∧
        g = fun l => ((convert 2 0 false (h (r.f32 (iA i) l) (r.f32 (iB i) l) (r.f32 (iC i) l)).1).1,
          (h (r.f32 (iA i) l) (r.f32 (iB i) l) (r.f32 (iC i) l)).2)) ∨
      (c = .vsel p ∧ iOpc i = 0x27 ∧
        g = fun l => (if bit (r.getP (iC i % 8)) l then r.getV (iA i) l else r.getV (iB i) l, 0)) ∨
      (∃ (h : XVal → XVal → XVal → XVal × Nat) (q : Nat → Nat → Nat × Nat),
        ((c = .vaddh p ∧ iOpc i = 0x28 ∧ h = fun x y _ => exactFma x XVal.one (some y)) ∨
          (c = .vmulh p ∧ iOpc i = 0x29 ∧ h = fun x y _ => exactFma x y none) ∨
          (c = .vfmah p ∧ iOpc i = 0x2A ∧ h = fun x y z => exactFma x y (some z))) ∧
        q = (fun l k =>
          ((convertA 0x11 o.arith (h (halfOf (r.getV (iA i) l) k) (halfOf (r.getV (iB i) l) k)
            (halfOf (r.getV (iC i) l) k)).1).1,
           (h (halfOf (r.getV (iA i) l) k) (halfOf (r.getV (iB i) l) k) (halfOf (r.getV (iC i) l) k)).2 |||
           (convertA 0x11 o.arith (h (halfOf (r.getV (iA i) l) k) (halfOf (r.getV (iB i) l) k)
            (halfOf (r.getV (iC i) l) k)).1).2)) ∧
        g = fun l => ((q l 0).1 + (q l 1).1 * 2 ^ 16, (q l 0).2 ||| (q l 1).2)) ∨
      (c = .vcvt p ∧ iOpc i = 0x2B ∧
        g = fun l => cvtLane o.arith (bits i 8 8) (bits i 0 8) (iC i % 2) (r.getV (iA i) l) (r.getV (iD i) l)) ∨
      (∃ k, ((c = .vexp2 p ∧ iOpc i = 0x30 ∧ k = 0) ∨ (c = .vlog2 p ∧ iOpc i = 0x31 ∧ k = 1) ∨
          (c = .vrcp p ∧ iOpc i = 0x32 ∧ k = 2) ∨ (c = .vrsqrt p ∧ iOpc i = 0x33 ∧ k = 3)) ∧
        g = fun l => helper32 k (r.getV (iA i) l)) ∨
      (∃ h : Int → Int → Nat × Nat, ((c = .qadd p ∧ iOpc i = 0x40 ∧ h = fun x y => satTo 24 (x + y)) ∨
          (c = .qsub p ∧ iOpc i = 0x41 ∧ h = fun x y => satTo 24 (x - y)) ∨
          (c = .qmul p ∧ iOpc i = 0x42 ∧ h = fun x y => toQ24 (x * y) 46)) ∧
        g = fun l => (toContainer 0x40 (h (sext 24 (r.getV (iA i) l)) (sext 24 (r.getV (iB i) l))).1,
          (h (sext 24 (r.getV (iA i) l)) (sext 24 (r.getV (iB i) l))).2)) →
    ∃ x, exec c s = .next (setTile s p { t with run := x }) ∧
      (∀ l < 64, x.getV (iD i) l = if l ∈ lanesOfRun r i then (g l).1 % 2 ^ 32 else r.getV (iD i) l) ∧
      (∀ d l, l < 64 → d ≠ iD i → x.getV d l = r.getV d l) ∧
      x.flags = (lanesOfRun r i).foldl (fun f l => f ||| (g l).2) r.flags ∧
      x.acc = r.acc ∧ x.sreg = r.sreg ∧ x.preds = r.preds ∧ x.ctrs = r.ctrs ∧ x.pc = r.advance.pc ∧
      x.loops = r.advance.loops

/-- The instructions on predicates, accumulators and the bank: VCMP writes the active lanes' bits of its predicate, P0
excepted; QMAC and QMSU add or subtract exact products in their accumulator, saturated; ACLR clears; AGET reads, and clears
with CLR; VLD and VST move words between the bank and lanes, in a window and ring that hold them all; VTAP multiplies
coefficients and samples into its accumulator and moves both pointers; these wait while a drain into the bank leaves too few
slots; VEMIT of an epilogue run adds bytes to what the run emitted; an address outside the window stops the run (R115, R118,
R119, R124, R126, R128, R133 to R135). -/
def Obligations.VectorBank : Prop :=
  ∀ (s : State) (p i : Nat) (o : Op) (t : Tile) (r : VecRun) (b : List Byte),
    issued s p = some (o, i) → t = getTile s p → r = t.run → imageOf s r.imgAddr r.imgTag = some b →
    r.advance.pc < imgLen b →
    (iOpc i = 0x26 → ∃ x, exec (.vcmp p) s = .next (setTile s p { t with run := x }) ∧ x.v = r.v ∧ x.acc = r.acc ∧
      (∀ d, d < 8 → d ≠ iD i % 8 → x.getP d = r.getP d) ∧ x.getP 0 = 2 ^ 64 - 1 ∧
      (iD i % 8 ≠ 0 → ∀ l < 64, bit (x.getP (iD i % 8)) l = if l ∈ lanesOfRun r i then
        (cmpPred (iMode i) (r.f32 (iA i) l) (r.f32 (iB i) l)).1 else bit (r.getP (iD i % 8)) l)) ∧
    (∀ c neg, (c = .qmac p ∧ iOpc i = 0x43 ∧ neg = false) ∨ (c = .qmsu p ∧ iOpc i = 0x44 ∧ neg = true) → ∃ x,
      exec c s = .next (setTile s p { t with run := x }) ∧ x.v = r.v ∧ x.sreg = r.sreg ∧
      (∀ l < 64, x.getAcc (iD i % 4) l = if l ∈ lanesOfRun r i then
        (macAcc neg (r.getAcc (iD i % 4) l) (sext 24 (r.getV (iA i) l)) (sext 24 (r.getV (iB i) l))).1 % 2 ^ 56
        else r.getAcc (iD i % 4) l) ∧
      ∀ d l, l < 64 → d ≠ iD i % 4 → x.getAcc d l = r.getAcc d l) ∧
    (iOpc i = 0x45 → ∃ x, exec (.aclr p) s = .next (setTile s p { t with run := x }) ∧ x.v = r.v ∧
      (∀ l < 64, x.getAcc (iD i % 4) l = if l ∈ lanesOfRun r i then 0 else r.getAcc (iD i % 4) l) ∧
      ∀ d l, l < 64 → d ≠ iD i % 4 → x.getAcc d l = r.getAcc d l) ∧
    (iOpc i = 0x46 → ∃ x, exec (.aget p) s = .next (setTile s p { t with run := x }) ∧
      (∀ l < 64, x.getV (iD i) l = if l ∈ lanesOfRun r i then
        toContainer 0x40 (toQ24 (sext 56 (r.getAcc (iA i % 4) l)) (48 + iMode i % 8)).1 % 2 ^ 32
        else r.getV (iD i) l) ∧
      ∀ d l, l < 64 → x.getAcc d l = if bit i 3 ∧ d = iA i % 4 ∧ l ∈ lanesOfRun r i then 0 else r.getAcc d l) ∧
    (∀ c, (c = .vld p ∧ iOpc i = 0x10 ∧ memWaits t i r = true) ∨ (c = .vst p ∧ iOpc i = 0x11 ∧ memWaits t i r = true) ∨
        (c = .vtap p ∧ iOpc i = 0x47 ∧ bankBusy t = true ∧ lanesOfRun r i ≠ []) → r.pc < imgLen b →
      exec c s = .next (setTile s p t)) ∧
    (∀ l, memWaits t i r = false →
      laneAddrs r (r.getS (iA i % 16)) (fun q => sext 20 i + Int.ofNat (4 * bits i 20 12 * q)) (lanesOfRun r i) = .ok l →
      (iOpc i = 0x10 → exec (.vld p) s = .next (setTile s p { t with
        run := (l.foldl (fun q x => q.setV (iD i) x.1 (bankWord t.bank x.2)) r).advance })) ∧
      (iOpc i = 0x11 → exec (.vst p) s = .next (setTile s p { t with
        run := r.advance
        bank := l.foldl (fun m x => Memory.writeN m x.2 (leBytes 4 (r.getV (iB i) x.1))) t.bank }))) ∧
    (∀ a c, memWaits t i r = false → laneAddrs r (r.getS (iA i % 16)) (fun q => sext 20 i + Int.ofNat (4 * bits i 20 12 * q)) (lanesOfRun r i) =
        .error a → (c = .vld p ∧ iOpc i = 0x10) ∨ (c = .vst p ∧ iOpc i = 0x11) →
      exec c s = .next (vxFaultOp p a s)) ∧
    (∀ ca xa, iOpc i = 0x47 → bankBusy t = false → iA i % 16 ≠ iB i % 16 →
      laneAddrs r (r.getS (iA i % 16)) (fun l => if bit i 20 then 0 else Int.ofNat (4 * l)) (lanesOfRun r i) = .ok ca →
      laneAddrs r (r.getS (iB i % 16)) (fun l => Int.ofNat (4 * l)) (lanesOfRun r i) = .ok xa → ∃ x,
      exec (.vtap p) s = .next (setTile s p { t with run := x }) ∧ x.v = r.v ∧
      x.getS (iA i % 16) = withAddr (r.getS (iA i % 16))
        (ringStep (r.getS (iA i % 16)) (if bit i 20 then 4 else 256)) % 2 ^ 64 ∧
      x.getS (iB i % 16) = withAddr (r.getS (iB i % 16)) (ringStep (r.getS (iB i % 16)) (sext 20 i)) % 2 ^ 64 ∧
      ∀ d l, l < 64 → d ≠ iD i % 4 → x.getAcc d l = r.getAcc d l) ∧
    (∀ bs, iOpc i = 0x07 → r.kind = 1 → emitBytes r t.bank (r.getS (iA i % 16)) (r.getS (iB i % 16)) = .ok bs →
      exec (.vemit p) s = .next (setTile s p { t with run :=
        ({ r with emitted := r.emitted ++ bs, emitPc := r.pc } : VecRun).advance }))

/-- The start and the end of runs: IMAGE_LOAD makes a checked image resident; an epilogue run starts on the first waiting
block, whose values stand in the bank and whose window fits it, with every register 0 but the scalars that R114 gives, at
the image's entry; a TILEPROG without bindings whose one tile is free begins a stream run there; a line that a transfer
asked for is kept when it returns, and the tile's slots deliver, and one that is uncorrectable, or a host read that ends in error,
stops the stream; HALT of an epilogue run that emitted its block's elements
delivers the block of the one operation that owns it (R112 to R115, R139, R171, R225, R244, R282). -/
def Obligations.VectorRuns : Prop :=
  (∀ (s : State) (p tag : Nat) (addr : W64),
    exec (.imageLoad p addr tag) s = .next (releaseImages (setTile s p (loadImage s addr.toNat tag (getTile s p))))) ∧
  (∀ (s : State) (addr tag : Nat) (b : List Byte) (t : Tile), imageOf s addr tag = some b → t.images = [] →
    imgLen b ≤ 2048 → loadImage s addr tag t = { t with images := [(addr, tag, imgLen b)] }) ∧
  (∀ (s : State) (p : Nat) (t : Tile) (b : EpiBlock) (rest : List EpiBlock) (o : Op), t = getTile s p →
    t.epi = b :: rest → findOp s b.op = some o → t.idleVx = true → b.vals = none → b.base + imgNeed o.image ≤ 2 ^ 19 →
    t.holds o.imgAddr (imgTagOf o.image) = true → o.phase ≠ .done → ∃ u x w,
    exec (.epilogueRunStart p) s = .next { setTile s p u with works := w } ∧ u.run = x ∧ u.epi = rest ∧ u.bank = t.bank ∧
      u.store = t.store ∧ x.kind = 1 ∧ x.op = o.tag ∧ x.pc = imgEntry o.image ∧ x.v = [] ∧ x.acc = [] ∧ x.preds = [] ∧
      x.flags = 0 ∧ x.emitted = [] ∧ x.block = some b ∧ x.winBase = b.base ∧ x.winSize = imgNeed o.image ∧
      x.getS 0 = b.base ∧ x.getS 1 = b.brow % 2 ^ 24 + b.bcol % 2 ^ 24 * 2 ^ 24 ∧
      x.getS 2 = b.rows % 256 + b.cols % 256 * 256 ∧ x.getS 3 = b.base ∧ ∀ k < 4, x.getS (4 + k) = o.param k) ∧
  (∀ (s : State) (tag l p : Nat) (tiles : List Nat) (o : Op) (b : List Byte), findOp s tag = some o → o.phase = .ready →
    s.cfg.applying = none → o.slotFree s = true → o.opc = 0x30 → o.gen = 0 → o.binds = [] →
    streamTiles (beginOp o s) o tiles = [l] → o.fld 48 2 ≤ 1 →
    physOf s l = some p → (getTile s p).run.kind = 0 → (getTile s p).epi = [] → (getTile s p).xfers = [] →
    imageOf s o.imgAddr (imgTagOf o.image) = some b → (o.imgAddr, imgTagOf o.image, imgLen b) ∈ (getTile s p).images →
    ∃ t, exec (.tileprog tag tiles) s = .next t ∧
      (getTile t p).run.kind = 2 ∧ (getTile t p).run.op = o.tag ∧ (getTile t p).run.pc = imgEntry o.image ∧
      (getTile t p).run.winBase = 0 ∧ (getTile t p).run.winSize = imgNeed o.image ∧ t.dmem = s.dmem ∧
      ∀ q, q ≠ p → getTile t q = getTile s q) ∧
  (∀ (s u : State) (p slot line a q : Nat) (t : Tile) (x : Transfer) (o : Op) (bs : List Byte), t = getTile s p →
    tfind slot t.xfers = some x → findOp s x.op = some o → o.phase ≠ .done → (slot, line) ∈ t.outstanding →
    a = (parseTensor x.record).lowLine + 64 * line → u = (if isHost a then s else walkEvent o.asid a 4 s) →
    (readV (o.original u) (whoAt o p) a 64 = .ok bs → translate u (whoAt o p) false a = .phys q → q < tier2Base →
      exec (.readResponse p slot line false) s = .next (pumpTile p (setTile (lineFlits p q u) p { t with
        xfers := tinsert slot { x with arrived := tinsert line bs x.arrived } t.xfers }))) ∧
    (∀ h, translate u (whoAt o p) false a = .host h →
      exec (.readResponse p slot line true) s = .next (streamStop p x.op (.fault 0x20 a) false u)) ∧
    (translate u (whoAt o p) false a = .phys q →
      exec (.readResponse p slot line true) s = .next (streamStop p x.op (.line (q / 64 * 64)) false (badRead q u)))) ∧
  (∀ (s s1 : State) (p i key : Nat) (o z : Op) (t : Tile) (b : EpiBlock) (w : EpiOwn) (x : Blk), t = getTile s p →
    issued s p = some (z, i) → iOpc i = 0x01 → t.run.kind = 1 → t.run.block = some b → b.own = [w] →
    findOp s w.op = some o → o.phase ≠ .done → o.subKey = 0 → t.run.emitted.length = 4 * (b.rows * b.cols) →
    x = b.share o w → key = blkKey o.trans x → deliverBlock o.tag key x (epiVals o b w t.run) s = (none, s1) → ∃ u,
    u = blockDone o.tag key (w.flags ||| w.runFlags t.run) w.ord (match w.cand with
          | some c => some c
          | none => (w.runCand t.run).map (fun e => offenderRec o.trans 0 t.name b.brow b.bcol
              (e + b.row0 * 32 + b.col0) b.batch noK)) s1 ∧
      exec (.halt p) s = .next (finishRuns w.op (freeVx p 0 (oneLess o.tag (updOp o.tag
        (fun o => { o with blocksDone := o.blocksDone ++ [key] }) u)))))

/-! ### Attention, KV pages and optimiser steps (chapter 06) -/

/-- KV_APPEND works page by page and head by head: when every part is written, it ends with status 0; a part that cannot be
written, or whose page is locked, leaves it there. Its truncate mode ends at once where no page is concerned, and else page
by page under each one's lock; a page wholly above the position is freed with its entry 0 (R151 to R153). Page locks and
engines: the request at the head of a page's queue takes the lock once the holders leave room, and its operation goes on; a
parity error retires the engine with a record and a count, its part begins again, and with the last one of its stack the stack's
parts move off it (R145, R152). -/
def Obligations.KvPagesLocksAndEngines : Prop :=
  ((∀ (s : State) (tag n : Nat) (o x : Op) (st : Nat → State), findOp s tag = some o → o.phase = .ready →
    s.cfg.applying = none → o.slotFree s = true → o.opc = 0x21 → o.fld 58 1 = 0 → n ≤ ((o.kvCount + 255) / 256 + 1) * o.sqHeads →
    st 0 = beginOp o s →
    (∀ i < n, ∃ y u page c, findOp (st i) tag = some y ∧ page = y.kvPos / 256 + y.gen / y.sqHeads ∧
      256 * page < y.kvPos + y.kvCount ∧ c = max y.kvPos (256 * page) ∧
      appendPart tag { y with cursor := c } page (y.gen % y.sqHeads) (updOp tag (fun z => { z with cursor := c }) (st i)) =
        (true, u) ∧ st (i + 1) = updOp tag (fun z => { z with gen := z.gen + 1 }) u) →
    findOp (st n) tag = some x →
    (x.kvPos + x.kvCount ≤ 256 * (x.kvPos / 256 + x.gen / x.sqHeads) →
      exec (.kvAppend tag) s = .next (endOp tag {} (st n))) ∧
    (∀ u page c, page = x.kvPos / 256 + x.gen / x.sqHeads → 256 * page < x.kvPos + x.kvCount →
      c = max x.kvPos (256 * page) →
      appendPart tag { x with cursor := c } page (x.gen % x.sqHeads) (updOp tag (fun z => { z with cursor := c }) (st n)) =
        (false, u) → exec (.kvAppend tag) s = .next u)) ∧
  (∀ (s u : State) (tag : Nat) (o : Op), findOp s tag = some o → o.phase = .ready → s.cfg.applying = none →
    o.slotFree s = true → o.opc = 0x21 → o.fld 58 1 = 1 → u = beginOp o s →
    (truncPages o u = [] → exec (.kvTruncate tag) s = .next (endOp tag {} u)) ∧
    (∀ k s1 s2, truncPages o u = [k] → askLock ((kvAt u k.asid k.entry).getD k) tag true u = (true, s1) →
      truncPage o ((kvAt s1 k.asid k.entry).getD k) s1 = (none, s2) →
      exec (.kvTruncate tag) s = .next (endOp tag {} (dropLock k.asid k.entry tag s2)))) ∧
  (∀ (s s1 : State) (o : Op) (k : KvPage), o.kvPos ≤ 256 * k.page →
    writeRM (whoOf o) k.entry [0, 0, 0, 0, 0, 0, 0, 0] 2 s = (none, s1) → ∃ t,
      truncPage o k s = (none, t) ∧ kvAt t k.asid k.entry = none ∧ t.dmem = s1.dmem)) ∧
  ((∀ (s : State) (tag : Nat) (write : Bool) (o : Op) (k : KvPage) (rest : List (Nat × Bool)), s.kv = [k] →
    s.ops = [o] → o.tag = tag → o.phase = .waiting → k.waiting = (tag, write) :: rest →
    (∀ r ∈ rest, r.1 = tag) → k.readers = [] → k.writer = none →
    exec (.pageLockGrant k.addr) s = .next { s with
      ops := [{ o with phase := .ready }]
      kv := [{ k with waiting := [], readers := if write then [] else [tag]
                      writer := if write then some tag else none }] }) ∧
  (∀ (s : State) (k e : Nat) (x : FloeUnit), floeServes s k = true → x = getFloe s k → e < 4 → e ∉ x.retired → ∃ u,
    u = record 0x0301 (0x40 + k) (leBytes 1 e ++ leBytes 1 1) (setFloe { restartPart k e s with
      ice := { s.ice with now := { s.ice.now with floeRetired := tadd s.ice.now.floeRetired k 1 } } } k
        { x with retired := insertNat e x.retired }) ∧
    ((insertNat e x.retired).length < 4 → exec (.floeParityError k e) s = .next u) ∧
    (4 ≤ (insertNat e x.retired).length → ∃ t, exec (.floeParityError k e) s = .next t ∧ (∀ o ∈ t.ops, o.onFloe ≠ some k) ∧
      t.ops.length = s.ops.length ∧ (getFloe t k).buffer = [] ∧ t.dmem = s.dmem ∧ t.kv = s.kv)) ∧
  (∀ (s : State) (k e : Nat), floeServes s k = false ∨ 4 ≤ e ∨ e ∈ (getFloe s k).retired →
    exec (.floeParityError k e) s = .next s))

/-- ATTEND reads its pages one after another, each under its lock: a lost page ends it with DATA_ERROR, the page's address
and no effect, and a page whose lock is not given, or whose stack has no free engine for its part, leaves it there; with every page read, and queries and results that can be
read and written, it ends with status 0 and its results in memory; a query that used no position has +0 in every element and
−∞ as its LSE (R152, R154, R157 to R160). OPTSTEP goes through its elements in whole runs: when every run is delivered into
all its tensors it ends with status 0 and the cursor behind the last element; at the first run that cannot be it stops
(R162, R163, R171). -/
def Obligations.AttentionAndOptimiserSteps : Prop :=
  ((∀ (s u : State) (tag n : Nat) (order : List Nat) (o z : Op) (left : List KvPage) (st : Nat → State),
    findOp s tag = some o → o.phase = .ready → s.cfg.applying = none → o.slotFree s = true → o.opc = 0x20 →
    z = o.placed s → u = beginOp o s →
    left = (attendPages u z).filter (fun k => z.kvSeen.all (fun x => x.entry ≠ k.entry)) → n ≤ left.length → st 0 = u →
    (∀ i < n, ∀ k, left[i]? = some k → k.lost = false ∧
      (attendFloe (st i) z k.stack = true → floeFree (st i) k.stack tag = true) ∧ ∃ s1,
      askLock ((kvAt (st i) k.asid k.entry).getD k) tag false (st i) = (true, s1) ∧
      readKvPage tag z ((kvAt s1 k.asid k.entry).getD k) s1 = .ok (st (i + 1))) →
    (∀ k, left[n]? = some k → k.lost = true → exec (.attend tag order) s =
      .next (updOp tag (fun o => { o with started := false })
        (endOp tag { status := 0x30, faultAddr := k.addr } (st n)))) ∧
    (∀ k, left[n]? = some k → k.lost = false → attendFloe (st n) z k.stack = true → floeFree (st n) k.stack tag = false →
      exec (.attend tag order) s = .next (st n)) ∧
    (∀ k s1, left[n]? = some k → k.lost = false →
      (attendFloe (st n) z k.stack = true → floeFree (st n) k.stack tag = true) →
      askLock ((kvAt (st n) k.asid k.entry).getD k) tag false (st n) = (false, s1) →
      exec (.attend tag order) s = .next s1) ∧
    (∀ o1 stks s1 s2 qs rs, n = left.length → findOp (st n) tag = some o1 →
      stks = sortNat (o1.kvSeen.map (fun x => x.stack)) →
      s1 = markWork ((stks.filter (fun k => o1.kvSeen.any (fun x => x.floe && x.stack = k))).flatMap (fun k => (List.range 4).map (floeUnit k))) (st n) →
      queryRows s1 o1 o1.atQueries = .ok qs →
      rs = (List.range o1.atQueries).map (fun i => (combineBy combineTriples (stks.map (fun k =>
        (((partTriples o1 qs (partRead o1 k)).getD i (emptyTriple o1.sqDim, 0, none)).1, 0, none))) order).getD
          (emptyTriple o1.sqDim, 0, none)) →
      attendWrite tag o1 rs s1 = .ok s2 → (∃ y, findOp s2 tag = some y) → ∃ t y,
      exec (.attend tag order) s = .next t ∧ t.dmem = s2.dmem ∧ t.hmem = s2.hmem ∧ findOp t tag = some y ∧
        y.phase = .done ∧ y.result = {})) ∧
  ∀ (o : Op) (d k fl : Nat) (c : Option (Nat × Nat)),
    finalElem o (emptyTriple d, fl, c) k = (.fin false 0 1, 0) ∧ finalLse (emptyTriple d, fl, c) = (.inf true, 0)) ∧
  (∀ (s : State) (tag n total : Nat) (o x : Op) (len : Nat → Nat) (st : Nat → State), findOp s tag = some o →
    o.phase = .ready → s.cfg.applying = none → o.slotFree s = true → o.opc = 0x28 → total = (o.tensor 1).count →
    len = deliverLen ((([o.tensor 2, o.tensor 3] ++ (o.rec? 5).toList).find? (fun t => isT t.format)).getD (o.tensor 1)) →
    n ≤ total →
    st 0 = beginOp o s →
    (∀ i < n, ∃ y u, findOp (st i) tag = some y ∧ y.cursor < total ∧
      optAct tag y y.cursor (len y.cursor) (st i) = .ok u ∧
      st (i + 1) = updOp tag (fun z => { z with cursor := z.cursor + len y.cursor }) u) →
    findOp (st n) tag = some x →
    (total ≤ x.cursor → exec (.optstep tag) s = .next (endOp tag { cursor := x.cursor } (st n))) ∧
    (∀ e w, x.cursor < total → optAct tag x x.cursor (len x.cursor) (st n) = .error (e, w) →
      exec (.optstep tag) s = .next (stopOp tag e w (st n))))

/-! ### Turnstiles (chapter 12) -/

/-- Operations of the queue on a Turnstile of this device with nobody waiting: one arrival below COUNT counts and ends, the
arrival that fills COUNT completes the generation, which moves to the next with ARRIVED 0; a wait on a completed
generation ends at once, and one on the current generation is registered; a SIGNAL that names this device is an arrival,
and one that names another member goes there behind the fence of its channel; TIMEOUT_US ends a wait with TIMEOUT,
and the operation of another device that waits here is answered with it (R291 to R299, R303 to R305; the command's word for the
peer's time is the model's choice: log entry 49). -/
def Obligations.TurnstileOperations : Prop :=
  (∀ (c : Instr) (s : State) (tag t : Nat) (o : Op) (x : Turnstile), s.ops = [o] → o.tag = tag → o.phase = .ready →
    s.cfg.applying = none → o.slotFree s = true → t = o.trn → x = getTrn s t → x.waiters = [] → s.trnHeld = [] → s.casc.formed = false →
    o.trnN = 1 → (o.curgen = true ∨ o.trnGen = x.gen) → x.gen < 2 ^ 16 →
    (c = .trnArrive tag ∧ o.opc = 0x48) ∨ (c = .signal tag ∧ o.opc = 0x4B ∧ o.trnDev = 0xFF) → ∃ ts w m ti fl,
    exec c s = .next { s with
      trns := ts, works := w, noc := m, tiles := ti, floe := fl, fills := []
      ops := [{ o.begun s with phase := .done, result := {}, since := s.time, closing := if o.closing = 1 then 2 else o.closing }] } ∧
    tget (dflt {}) ts t = { x with
      arrived := if x.arrived + 1 < x.count then x.arrived + 1 else 0
      gen := if x.arrived + 1 < x.count then x.gen else (x.gen + 1) % 2 ^ 16
      total := (x.total + 1) % 2 ^ 64, lastArrival := s.time } ∧
    ∀ k, k ≠ t → tget (dflt {}) ts k = getTrn s k) ∧
  (∀ (s : State) (tag t : Nat) (o : Op) (x : Turnstile), s.ops = [o] → o.tag = tag → o.phase = .ready →
    s.cfg.applying = none → o.slotFree s = true → t = o.trn → x = getTrn s t → o.opc = 0x49 →
    (genDone o.trnGen x.gen = true → ∃ w m ti fl, exec (.trnWait tag) s = .next { s with
      fills := [], works := w, noc := m, tiles := ti, floe := fl, ops := [{ o.begun s with phase := .done, result := {}, since := s.time, closing := if o.closing = 1 then 2 else o.closing }] }) ∧
    (genDone o.trnGen x.gen = false → s.trns = [] → s.trnHeld = [] → ∃ w m fl, exec (.trnWait tag) s = .next { setTrn s t { x with
        waiters := [{ kind := 0, op := tag, gen := o.trnGen, time := s.time }] } with
      works := w, noc := m, floe := fl, ops := [{ o.begun s with phase := .waiting, since := s.time }] })) ∧
  (∀ (s : State) (tag t : Nat) (o : Op) (x : Turnstile), s.ops = [o] → o.tag = tag → o.phase = .ready →
    s.cfg.applying = none → o.slotFree s = true → t = o.trn → x = getTrn s t → x.waiters = [] → s.trnHeld = [] → s.casc.formed = false →
    o.opc = 0x4A → o.trnN = 1 → o.curgen = true → x.count ≤ x.arrived + 1 → x.gen < 2 ^ 16 → ∃ ts w m ti fl,
    exec (.trnArriveWait tag) s = .next { s with
      trns := ts, works := w, noc := m, tiles := ti, floe := fl, fills := []
      ops := [{ o.begun s with phase := .done, result := {}, since := s.time, closing := if o.closing = 1 then 2 else o.closing }] } ∧
    tget (dflt {}) ts t = { x with
      arrived := 0, gen := (x.gen + 1) % 2 ^ 16, total := (x.total + 1) % 2 ^ 64, lastArrival := s.time } ∧
    ∀ k, k ≠ t → tget (dflt {}) ts k = getTrn s k) ∧
  (∀ (s u : State) (tag f : Nat) (o : Op), findOp s tag = some o → o.phase = .ready → s.cfg.applying = none →
    o.slotFree s = true → o.opc = 0x4B → o.trnDev ≠ 0xFF → isMember s o.trnDev = true → f = unsignalled s o.queue o.trnDev →
    u = atTurnstile tag (beginOp o s) →
    exec (.signal tag) s = .next (sendCasc o.trnDev (.signal o.queue o.func o.trn o.trnN o.trnGen o.curgen f) { u with
      casc := { s.casc with
        txBytes := terase (chanKey o.queue o.trnDev) s.casc.txBytes
        sigOut := s.casc.sigOut ++ [(chanKey o.queue o.trnDev, tag)] } })) ∧
  (∀ (s u : State) (tag : Nat) (o : Op) (w : Nat × Nat × Nat), findOp s tag = some o → o.phase = .waiting →
    0x48 ≤ o.opc → o.opc ≤ 0x4B → o.timeoutUs ≠ 0 → waitHere s tag = some w →
    u = passTo (o.since + o.timeoutUs * 1000) s →
    exec (.trnTimeout tag none) s = .next (letIn (endOp tag { status := 0x51 } u))) ∧
  ∀ (s : State) (tag t : Nat) (x : Turnstile) (w : Waiter) (p : Peer), s.trns = [(t, x)] → x.waiters = [w] → s.trnHeld = [] →
    w.peer = some p → exec (.trnTimeout tag (some (p.dev, p.byOp, p.mark))) s =
      .next (answerPeer p 0x51 { s with trns := [(t, { x with waiters := [] })] })

/-- The registers and forced changes of a Turnstile: TRN_CFG of an idle one takes COUNT, at least 1, WIDTH and OWNER, and is
ignored and noted at one that is not idle; SET_COUNT, SET_GEN and COMPLETE record what they found, and with nobody waiting
and nothing arrived set COUNT, the generation, or complete the current one; a member's mirror follows the master's
broadcast; a watcher whose queue has waited for its interval fires once, with a record and its vector (R293, R308, R310, R311). -/
def Obligations.TurnstileRegisters : Prop :=
  (∀ (s : State) (t : Nat) (v : W64), s.st.ready = true → isMirror s t = false →
    (trnIdle s t = true → exec (.trnCfgWrite t v) s = .next (setTrn s t { getTrn s t with
      count := max 1 (bits v.toNat 0 16)
      width := if isGroupTrn s t then 0 else bits v.toNat 16 16
      owner := bits v.toNat 32 6, remote := bit v.toNat 38 })) ∧
    (trnIdle s t = false → exec (.trnCfgWrite t v) s = .next (setTrn s t { getTrn s t with ignored := true }))) ∧
  (∀ (s : State) (t v : Nat) (x : Turnstile), s.st.ready = true → x = getTrn s t → x.waiters = [] → x.arrived = 0 →
    s.trnHeld = [] → s.casc.formed = false → x.gen < 2 ^ 16 →
    ∀ p, p = (fun op : Nat => record 0x0702 0x02 (leBytes 2 t ++ leBytes 1 op ++ leBytes 1 0 ++ leBytes 2 v ++
        leBytes 2 x.gen ++ leBytes 2 0) s) →
      exec (.setCount t v) s = .next (setTrn (p 0) t { x with count := max 1 (v % 2 ^ 16) }) ∧
      exec (.setGen t v) s = .next (setTrn (p 1) t { x with gen := v % 2 ^ 16 }) ∧
      exec (.completeGen t v) s = .next (setTrn (p 2) t { x with gen := (x.gen + 1) % 2 ^ 16 })) ∧
  (∀ (s : State) (t gen : Nat) (x : Turnstile), isMirror s t = true → x = getTrn s t → x.waiters = [] →
    s.trnHeld = [] →
    exec (.groupGenBroadcast t gen) s = .next (setTrn s t { x with gen := (gen + 1) % 2 ^ 16, lastArrival := s.time })) ∧
  (∀ (s u : State) (w q t g z st : Nat) (x : Watcher), x = getWatcher s w → x.enable = true → x.fired = false →
    watchedQueues s x = [q] → queueBlocked s q = true → queueWaits s q = [(t, g, z)] →
    u = passTo (max (max x.since (getQueue s q).lastEnd) z + x.interval * 1000000) s →
    st = q * 2 ^ 46 + t * 2 ^ 32 + g * 2 ^ 16 + 1 →
    exec (.deadlockFire w) s = .next (sendMsix 0 x.vector (record 0x0701 0x02
      (leBytes 1 w ++ leBytes 7 0 ++ leBytes 8 st) (setWatcher u w { x with fired := true, status := st }))))

/-! ### Links (chapters 13 and 14) -/

/-- Cascade links: a lane that fails moves its link to the half that does not hold it, with a record, and a third retrain within
1 s fails the link; a retrain ends on one half whose lanes are aligned, and begins again, or fails the link, where no training
comes or the skew is too deep; a link that fails over which no path is left ends what awaits the members that are lost
with LINK_ERROR; a link whose lanes are aligned trains at full width; an on-chip flit that fails its check is replayed, and one
that has been replayed 8 times ends every operation (R322, R323, R330, R337, R339, R341). What passes on a link that is up: markers
count up with their time and are measured, but in idle; a side with nothing to send goes idle, bursts NULL flits after 1 ms, and
leaves idle; a sound flit in turn that brings nothing for another device is acknowledged and takes the next number, and one that is
corrupted asks once for a replay; an eye scan of a working lane gives its counts after the dwell, and pauses in idle (R329 to
R334). -/
def Obligations.CascadeLinks : Prop :=
  ((∀ (s : State) (n l half : Nat) (x : CascLink) (recent : List Nat), l = n / 8 → x = getLink s l → x.up = true →
    laneWorks x.width (n % 8) = true → recent = x.retrainTimes.filter (fun t => decide (s.time < t + 1000000000)) →
    half = (if n % 8 < 4 then 2 else 1) →
    (recent.length < 2 → ∃ t, exec (.laneFail n) s = .next t ∧ getLink t l = { x with
        up := false, training := true, idle := false, rxIdle := false, badLane := some (n % 8)
        retrainTimes := recent ++ [s.time], retrains := min 0xFFFF (x.retrains + 1) } ∧
      t.ice.now = { s.ice.now with linkRetrains := tadd s.ice.now.linkRetrains l 1 } ∧
      t.mor = (record 0x0901 (0x68 + l) (leBytes 1 (n % 8) ++ leBytes 1 half) s).mor ∧
      (∀ e, s.casc.eyeBusy = some (n, e) → t.casc.eyeBusy = none ∧ t.casc.eyeDone = true) ∧
      ∀ i < 8, getLane t (8 * l + i) = { getLane s (8 * l + i) with markerSeen := 0, skew := 0 }) ∧
    (2 ≤ recent.length → s.casc.formed = false → ∃ t, exec (.laneFail n) s = .next t ∧
      (getLink t l).up = false ∧ (getLink t l).failed = true ∧ (getLink t l).width = 0 ∧
      t.ice.now.linkFailures = tadd s.ice.now.linkFailures l 1)) ∧
  (∀ (s : State) (l half reach : Nat) (x : CascLink), x = getLink s l → x.training = true → s.casc.rxHeld = [] →
    s.casc.eyeBusy = none →
    (half < 2 → aligned s l (half + 1) = true → x.txQueue = [] → ∃ t, exec (.linkRetrainDone l half reach) s = .next t ∧
      getLink t l = { x with
        up := true, training := false, failRow := 0, width := half + 1, rxFlits := 0, idleSince := s.time } ∧
      t.outbox = s.outbox ++ x.txBuf.map (fun f => .flit l f.bytes) ∧
      ∀ i < 8, getLane t (8 * l + i) = { getLane s (8 * l + i) with
        markersSent := 0, markerDue := s.time + 198949, codewords := 0, codewordBad := false }) ∧
    (∀ recent, recent = x.retrainTimes.filter (fun t => decide (s.time < t + 1000000000)) → recent.length < 2 →
      half = 2 ∨ (half < 2 ∧ aligned s l (half + 1) = false) → x.failRow = 0 →
      ∃ t, exec (.linkRetrainDone l half reach) s = .next t ∧ getLink t l = { x with
        up := false, idle := false, rxIdle := false, failRow := 1
        retrainTimes := recent ++ [s.time], retrains := min 0xFFFF (x.retrains + 1) }) ∧
    (half = 3 ∨ (1 ≤ x.failRow ∧ (half = 2 ∨ (half < 2 ∧ aligned s l (half + 1) = false))) → s.casc.formed = false →
      ∃ t, exec (.linkRetrainDone l half reach) s = .next t ∧ getLink t l = { x with
        up := false, failed := true, training := false, idle := false, width := 0, txBuf := [], txQueue := [] } ∧
      t.casc.wires = s.casc.wires.filter (fun w => !w.uses s.casc.ownId l) ∧
      t.mor = (record 0x0902 (0x68 + l) (leBytes 1 (if half = 3 then 2 else 0)) s).mor ∧
      t.ice.now = { s.ice.now with linkFailures := tadd s.ice.now.linkFailures l 1 })) ∧
  (∀ (s : State) (l d reach : Nat) (o : Op), (getLink s l).training = true → s.casc.formed = true →
    s.casc.master = true → s.casc.rxHeld = [] → otherMembers s = [d] → bit reach d = false → s.ops = [o] →
    awaits s d o = true → s.trnHeld = [] → ∃ t, exec (.linkRetrainDone l 3 reach) s = .next t ∧
      t.ops = [{ o with
        phase := .done, result := { status := 0x31, cursor := o.cursor }
        closing := if o.closing = 1 then 2 else o.closing }] ∧
      t.casc.members = s.casc.members &&& (reach ||| 2 ^ s.casc.ownId)) ∧
  (∀ (s : State) (l p pl : Nat) (x : CascLink), x = getLink s l → x.up = false → x.failed = false →
    x.training = false → l < numLinks s.variant → p < 16 → pl < 8 →
    (aligned s l 3 = true → x.txQueue = [] → ∃ t, exec (.cascLinkTrained l p pl) s = .next t ∧ getLink t l = { x with
      up := true, partner := p, partnerLink := pl, width := 3, failRow := 0, rxFlits := 0, idleSince := s.time }) ∧
    (aligned s l 3 = false → exec (.cascLinkTrained l p pl) s = .next s)) ∧
  (∀ (s : State) (src dst net inject replay : Nat), net < 4 →
    (src = dst ∧ isNode s.variant src = true) ∨ linked s.variant src dst = true →
    (replay < 8 → exec (.flitCrcFail src dst net inject replay) s = .next { s with
      outbox := s.outbox ++ [.nocReplay src dst net]
      noc := { s.noc with
        replays := tset (dflt 0) s.noc.replays (4 * src + net)
          (min 0xFF (tget (dflt 0) s.noc.replays (4 * src + net) + 1)) } }) ∧
    (8 ≤ replay → ∃ u log, u = record 0x0801 0x06 (leBytes 8 log) (abortAll s) ∧
      exec (.flitCrcFail src dst net inject replay) s =
        .next (if bit s.noc.errLog 63 then u else { u with noc := { u.noc with errLog := log } }) ∧
      log = 2 ^ 63 + net % 4 * 2 ^ 61 + b2n (crosses src dst) * 2 ^ 60 + src % 512 * 2 ^ 40 + dst % 512 * 2 ^ 31 + inject % 512))) ∧
  ((∀ (s u : State) (n : Nat) (x : CascLink) (y : CascLane), x = getLink s (n / 8) → y = getLane s n → x.up = true →
    laneWorks x.width (n % 8) = true → u = passTo y.markerDue s →
    (x.idle = false → exec (.markerSend n) s = .next { setLane u n { y with
        markersSent := (y.markersSent + 1) % 2 ^ 32, markerDue := y.markerDue + 198973 } with
      outbox := u.outbox ++ [.marker n y.markersSent (markerBlock n y.markersSent)] } ∧
      (markerBlock n y.markersSent).length = 680) ∧
    (x.idle = true → exec (.markerSend n) s = .next s)) ∧
  (∀ (s : State) (n count skew : Nat) (x : CascLink), x = getLink s (n / 8) →
    (x.failed = false → x.rxIdle = false → exec (.markerReceive n count skew) s =
      .next (setLane s n { getLane s n with markerSeen := count, skew := skew })) ∧
    (x.failed = true ∨ x.rxIdle = true → exec (.markerReceive n count skew) s = .next s)) ∧
  (∀ (s u : State) (l : Nat) (x : CascLink) (bs : List Byte), x = getLink s l → x.up = true → x.idle = false →
    (x.owed = false → x.txQueue = [] → x.txBuf.length < 1024 → u = passTo (x.idleSince + 2000) s →
      bs = flitBytes x 2 none → bs.length = 256 ∧ crc64 (bs.take 248) = fieldAt bs 248 8 ∧
      ∃ t, exec (.idleEnter l) s = .next t ∧ getLink t l = { x with
        idle := true, idleSince := u.time, txNext := (x.txNext + 1) % 4096
        txBuf := x.txBuf ++ [{ seq := x.txNext, bytes := bs, msg := none }]
        creditDue := x.creditDue.map (fun n => n - min 15 n) } ∧
      t = { u with casc := { s.casc with links := t.casc.links }, outbox := u.outbox ++ [.flit l bs] }) ∧
    (x.owed = true ∨ x.txQueue ≠ [] → exec (.idleEnter l) s = .next s)) ∧
  (∀ (s u v : State) (l : Nat) (x : CascLink), x = getLink s l → x.idle = true → u = passTo (x.idleSince + 1000000) s →
    v = passTime 4000 { u with outbox := u.outbox ++ [.linkCtl l 3 0] } →
    exec (.idleNullBurst l) s = .next (setLink v l { x with idleSince := v.time }) ∧
    (x.txQueue = [] → ∃ t, exec (.idleExit l) s = .next t ∧
      getLink t l = { x with idle := false, idleSince := s.time, owed := false } ∧
      t.outbox = s.outbox ++ [.linkCtl l 5 0] ++
        (if x.owed then [.linkCtl l (if x.naked then 1 else 0) ((x.rxNext + 4095) % 4096)] else []) ∧
      ∀ i < 8, getLane t (8 * l + i) = { getLane s (8 * l + i) with markerDue := s.time + 198949 })) ∧
  (∀ (s : State) (l h : Nat) (flit : List Byte) (x : CascLink) (left : List TxFlit), x = getLink s l → x.up = true →
    x.idle = false → x.txQueue = [] → s.casc.eyeBusy = none → (∀ i < 8, (getLane s (8 * l + i)).codewordBad = false) →
    flit.length = 256 → h = fieldAt flit 0 8 → crc64 (flit.take 248) = fieldAt flit 248 8 → flitHeaderOk h = true →
    flitSlots flit = [] → bits h 0 4 ≠ 0 → bits h 4 12 = x.rxNext → left = dropAcked (bits h 16 12) x.txBuf →
    ∃ t, exec (.cascFlitReceive l flit [] []) s = .next t ∧ getLink t l = { x with
      rxFlits := x.rxFlits + 1, acked := bits h 16 12, txBuf := left
      credits := (List.range 4).map (fun i => x.credits.getD i 0 + bits h (48 + 4 * i) 4)
      replays := if bit h 28 then min (2 ^ 32 - 1) (x.replays + 1) else x.replays
      rxNext := (x.rxNext + 1) % 4096, naked := false, rxIdle := decide (bits h 0 4 = 2), idleSince := s.time } ∧
    t = { s with
      casc := { s.casc with links := t.casc.links, lanes := t.casc.lanes }
      outbox := s.outbox ++ (if bit h 28 then left.map (fun f => .flit l f.bytes) else []) ++ [.linkCtl l 0 x.rxNext] }) ∧
  (∀ (s : State) (l : Nat) (flit : List Byte) (x : CascLink), x = getLink s l → x.up = true → x.idle = false →
    crc64 (flit.take 248) ≠ fieldAt flit 248 8 → x.naked = false →
    ∃ t, exec (.cascFlitReceive l flit [] []) s = .next t ∧
      getLink t l = { x with rxFlits := x.rxFlits + 1, naked := true, idleSince := s.time } ∧
      t.outbox = s.outbox ++ [.linkCtl l 1 ((x.rxNext + 4095) % 4096)]) ∧
  (∀ (s : State) (v : W64) (errors compared lane dwell n : Nat), s.st.ready = true → bit v.toNat 63 = true →
    bits v.toNat 46 2 ≠ 3 → lane = bits v.toNat 48 7 → lane < 8 * numLinks s.variant → s.casc.eyeBusy = none →
    (getLink s (lane / 8)).up = true → laneWorks (getLink s (lane / 8)).width (lane % 8) = true →
    dwell = max 20 (min 31 (bits v.toNat 0 5)) → n = min compared (2 ^ dwell) →
    ((getLink s (lane / 8)).rxIdle = false →
      exec (.eyeScan v errors compared) s = .next (passTime (n / 112) { s with casc := { s.casc with
        eyeLane := lane, eyeEye := bits v.toNat 46 2, eyePhase := bits v.toNat 32 8, eyeVolt := bits v.toNat 24 8
        eyeDwell := dwell, eyeDone := true, eyeResult := min (2 ^ 24 - 1) errors * 2 ^ 40 + n % 2 ^ 40 } })) ∧
    ((getLink s (lane / 8)).rxIdle = true →
      exec (.eyeScan v errors compared) s = .next { s with casc := { s.casc with
        eyeLane := lane, eyeEye := bits v.toNat 46 2, eyePhase := bits v.toNat 32 8, eyeVolt := bits v.toNat 24 8
        eyeDwell := dwell, eyeDone := s.casc.eyeDone && !bit v.toNat 61, eyeBusy := some (lane, errors, n) } })))

/-- Formation: GO at a master in no group checks, in this order, that there is one master, that identifiers are unique,
that the arrangement has the shape of TOPO and that every protocol version is the same; a group that passes stands with
every device of the cascade as a member, one that does not gives RESULT its code and is recorded; the reserved role is recorded; a
follower that has left no group since its device reset joins the master's group with the master's values in its mirrors; a
follower without a host serves the master (R308, R309, R338, R339, R346, R347). -/
def Obligations.GroupFormation : Prop :=
  (∀ (s : State) (v : W32) (peers : List (Nat × Nat × Nat)) (edges : List Wiring) (ids : List Nat) (own : Nat)
    (all : List (Nat × Nat × Nat)), s.st.ready = true → s.casc.formed = false → bit v.toNat 31 = true →
    bit v.toNat 30 = true → bits v.toNat 12 2 = 1 → (∀ p ∈ peers, p.2.1 = 1 ∨ p.2.1 = 2) → own = bits v.toNat 8 4 →
    all = (own, 1, s.cfg.running.proto) :: peers → ids = all.map (·.1) → ∃ r t,
    exec (.cascadeForm v peers edges none) s = .next t ∧ t.casc.result = r ∧ t.casc.useReg = true ∧ t.casc.role = 1 ∧
    t.casc.ident = own ∧ t.casc.topo = bits v.toNat 0 2 ∧
    r = (if 2 ≤ (all.filter (fun d => d.2.1 = 1)).length then 2
      else if (sortNat ids).length < ids.length then 3
      else if shapeOk s.variant (bits v.toNat 0 2) ids (edges.map (fun w => w.ends)) = false then 4
      else if ∃ p ∈ peers, p.2.2 ≠ s.cfg.running.proto then 5 else 0) ∧
    (r = 0 → t.casc.formed = true ∧ t.casc.master = true ∧ t.casc.members = maskOf ids ∧ t.casc.ownId = own ∧
      t.casc.wires = edges ∧ t.outbox = s.outbox ∧ t.mor = s.mor) ∧
    (r ≠ 0 → t.casc.formed = false ∧ t = record 0x0903 0x00 (leBytes 1 r ++ leBytes 1 0 ++ leBytes 2 (maskOf ids))
      { s with casc := t.casc })) ∧
  (∀ (s : State) (v : W32) (peers : List (Nat × Nat × Nat)) (edges : List Wiring), s.st.ready = true →
    bit v.toNat 30 = true → bits v.toNat 12 2 = 3 → ∃ t, exec (.cascadeForm v peers edges none) s = .next t ∧
    t = record 0x0904 0x00 [] { s with casc := { s.casc with
      useReg := true, role := 3, ident := bits v.toNat 8 4, topo := bits v.toNat 0 2 } }) ∧
  (∀ (s : State) (v : W32) (peers : List (Nat × Nat × Nat)) (edges : List Wiring) (m : Mirror), s.st.ready = true →
    roleInUse s = 2 → s.casc.formed = false → (∀ p ∈ peers, p.2.1 = 1 ∨ p.2.1 = 2) →
    (s.casc.left = false → formResult s peers (edges.map (fun w => w.ends)) = 0 → 3840 ≤ m.trn → ∃ t,
      exec (.cascadeForm v peers edges (some [m])) s = .next t ∧ t.casc.formed = true ∧ t.casc.master = false ∧
      t.casc.ownId = identInUse s ∧ t.casc.members = maskOf (identInUse s :: peers.map (·.1)) ∧
      (∀ p, peers.find? (fun d => decide (d.2.1 = 1)) = some p → t.casc.masterId = p.1) ∧
      (getTrn t m.trn).gen = m.gen % 2 ^ 16 ∧ (getTrn t m.trn).count = max 1 (m.count % 2 ^ 16) ∧
      (getTrn t m.trn).owner = m.owner % 2 ^ 6 ∧ (getTrn t m.trn).remote = m.remote ∧
      (getTrn t m.trn).arrived = m.arrived % 2 ^ 16) ∧
    (s.casc.left = true → exec (.cascadeForm v peers edges (some [m])) s = .next s)) ∧
  (∀ (s : State), roleInUse s = 2 → s.link.up = false → s.st.ready = true →
    exec .followerHostTimeout s = .next { s with casc := { s.casc with servesMaster := true } })

/-! ### The cascade group (chapters 12 and 14) -/

/-- Messages of a member are taken in the order of their sequence numbers on their network: one that was delivered already,
or comes from no member, or after a link of the network has failed, is discarded; one ahead of its turn is held; the one in turn is
delivered and the next number is awaited, and it is held while it cannot be delivered (R323, R340). -/
def Obligations.MessagesInOrder : Prop :=
  ∀ (c : Instr) (s s0 : State) (dev seq want : Nat) (m : CascMsg),
    (∃ q a g n off line, c = .cascWrite dev seq q a g n off line ∧ m = .write q a g n off line) ∨
      (∃ a g n off r, c = .cascRead dev seq a g n off r ∧ m = .read a g n off r) ∨
      (∃ r x line, c = .readData dev seq r x line ∧ m = .readData r x line) ∨
      (∃ x n, c = .writeDone dev seq x n ∧ m = .writeDone x n) ∨
      (∃ q f t n g cg z, c = .cascSignal dev seq q f t n g cg z ∧ m = .signal q f t n g cg z) ∨
      (∃ x q, c = .signalDone dev seq x q ∧ m = .signalDone x q) ∨
      (∃ k t g n cg w f q, c = .trnOp dev seq k t g n cg w f q ∧ m = .trnOp k t g n cg w f q) ∨
      (∃ t g, c = .trnRel dev seq t g ∧ m = .trnRel t g) ∨
      (∃ w x, c = .trnDone dev seq w x ∧ m = .trnDone w x) ∨
      (∃ f q v, c = .cascDoorbell dev seq f q v ∧ m = .doorbell f q v.toNat) ∨
      (∃ t ms k n cs x, c = .collectiveControl dev seq t ms k n cs x ∧ m = .collective t ms k n cs x) →
    want = tget (dflt 0) s.casc.rxSeq (seqKey dev m.net) → s.casc.rxHeld = [] →
    s0 = { s with casc := { s.casc with rxHeld := [(dev, m.net, seq, m)] } } →
    ((isMember s dev = false ∨ bit s.noc.errLog 63 = true ∨ 32768 ≤ (seq + 2 ^ 16 - want) % 2 ^ 16) →
      exec c s = .next s) ∧
    (isMember s dev = true → bit s.noc.errLog 63 = false → (seq + 2 ^ 16 - want) % 2 ^ 16 < 32768 → seq ≠ want →
      exec c s = .next s0) ∧
    (isMember s dev = true → bit s.noc.errLog 63 = false → seq = want → seq < 2 ^ 16 →
      (deliverMsg dev m s0 = none → exec c s = .next s0) ∧
      ∀ u, deliverMsg dev m s0 = some u → u.casc.rxHeld = s0.casc.rxHeld → exec c s = .next { u with
        casc := { u.casc with
          rxHeld := [], rxSeq := tset (dflt 0) u.casc.rxSeq (seqKey dev m.net) ((seq + 1) % 2 ^ 16) } })

/-- What a message in its turn does: a WRITE that its group may make goes into memory, counts on its channel and is answered; a
READ is answered with its bytes, or with the status of its stop; a READ_DATA with the last line of a GET lets it go on; a
WRITE_DONE ends a PUT whose last line it acknowledges, and so do SIGNAL_DONE and TRN_DONE for what they answer; a SIGNAL whose fence
is met is an arrival, and is answered, and one whose fence is not met is held until it is; a group operation counts at the
master; a TRN_REL of the master moves a mirror; a doorbell is judged as a doorbell write (R304 to R308, R335, R343). -/
def Obligations.MessagesTakeEffect : Prop :=
  ∀ (s s0 : State) (dev seq : Nat) (m : CascMsg) (fin : State → State), isMember s dev = true →
    bit s.noc.errLog 63 = false → s.casc.rxHeld = [] →
    seq < 2 ^ 16 → seq = tget (dflt 0) s.casc.rxSeq (seqKey dev m.net) → s.trnHeld = [] →
    s0 = { s with casc := { s.casc with rxHeld := [(dev, m.net, seq, m)] } } →
    fin = (fun u => { u with casc := { u.casc with
      rxHeld := [], rxSeq := tset (dflt 0) u.casc.rxSeq (seqKey dev m.net) ((seq + 1) % 2 ^ 16) } }) →
    (∀ q a g n off line s1, m = .write q a g n off line → counterFree s dev q = true →
      writeRM (peerWho s dev q g) (a / 64 * 64 + off) ((line.drop off).take n) 3 s0 = (none, s1) →
      exec (.cascWrite dev seq q a g n off line) s =
        .next (fin (sendCasc dev (.writeDone 0 1) (countArrived dev q n (accessFlits (linkNode (linkTo s dev q))
          (peerWho s dev q g) true (a / 64 * 64 + off) { s1 with fills := [] }))))) ∧
    (∀ a g n off r s1, m = .read a g n off r →
      (∀ bs, readRM (peerWho s dev 0 g) (a / 64 * 64 + off) n 3 s0 = (.ok bs, s1) →
        exec (.cascRead dev seq a g n off r) s = .next (fin (sendCasc dev (.readData r 0 (padTo 64 (fill off 0 ++ bs)))
          (accessFlits (linkNode (linkTo s dev 0)) (peerWho s dev 0 g) false (a / 64 * 64 + off) s1)))) ∧
      ∀ st b, readRM (peerWho s dev 0 g) (a / 64 * 64 + off) n 3 s0 = (.error (.fault st b), s1) →
        exec (.cascRead dev seq a g n off r) s = .next (fin (sendCasc dev (.readData r st (fill 64 0))
          (recordStop (peerWho s dev 0 g) (.fault st b) s1)))) ∧
    (∀ r line tag a o, m = .readData r 0 line → s.casc.reads = [(r, (tag, a))] → s.ops = [o] → o.tag = tag →
      o.phase = .waiting → o.sent = [] → exec (.readData dev seq r 0 line) s = .next (fin { s0 with
        ops := [{ o with lines := tinsert a line o.lines, phase := .ready }], casc := { s0.casc with reads := [] } })) ∧
    (∀ o e a st, m = .writeDone st 1 → s.casc.acks = [(dev, o.tag)] → s.ops = [o] → o.phase = .waiting → o.sent = [(e, a)] →
      (∀ f ∈ o.sentFlags, f.1 ≠ e) → ∃ ts fu, exec (.writeDone dev seq st 1) s = .next (fin { s0 with
        casc := { s0.casc with acks := [] }, fills := [], tiles := ts, floe := fu
        ops := [{ o with sent := [], phase := .done
                         result := if st = 0 then { cursor := o.cursor } else stopWith st e a
                         closing := if o.closing = 1 then 2 else o.closing }] })) ∧
    (∀ o q, s.ops = [o] → o.phase = .waiting →
      (m = .signalDone 0 q → s.casc.sigOut = [(chanKey q dev, o.tag)] →
        ∃ ts fu, exec (.signalDone dev seq 0 q) s = .next (fin { s0 with
          casc := { s0.casc with sigOut := [] }, fills := [], tiles := ts, floe := fu
          ops := [{ o with phase := .done, result := {}, closing := if o.closing = 1 then 2 else o.closing }] })) ∧
      ∀ w k, m = .trnDone w 0 → s.casc.trnOut = [(w, k, o.tag)] →
        ∃ ts fu, exec (.trnDone dev seq w 0) s = .next (fin { s0 with
          casc := { s0.casc with trnOut := [] }, fills := [], tiles := ts, floe := fu
          ops := [{ o with phase := .done, result := {}, closing := if o.closing = 1 then 2 else o.closing }] })) ∧
    (∀ q f t g z x, m = .signal q f t 1 g true z → s.casc.rxSignals = [] → channelWaits s dev q = false → x = getTrn s t →
      (z ≤ tget (dflt 0) s.casc.rxBytes (chanKey q dev) → isMirror s t = false → x.remote = true → x.owner = f →
        x.waiters = [] → x.arrived + 1 < x.count → ∃ ts, exec (.cascSignal dev seq q f t 1 g true z) s =
        .next (fin (sendCasc dev (.signalDone 0 q) { s0 with
          trns := ts
          casc := { s0.casc with
            rxBytes := tset (dflt 0) s.casc.rxBytes (chanKey q dev) (tget (dflt 0) s.casc.rxBytes (chanKey q dev) - z) } })) ∧
        tget (dflt {}) ts t = { x with arrived := x.arrived + 1, total := (x.total + 1) % 2 ^ 64, lastArrival := s.time }) ∧
      (tget (dflt 0) s.casc.rxBytes (chanKey q dev) < z → exec (.cascSignal dev seq q f t 1 g true z) s =
        .next (fin { s0 with casc := { s0.casc with rxSignals := [(chanKey q dev, m)] } }))) ∧
    (∀ q f t g w x, m = .trnOp 0 t g 1 true w f q → s.casc.rxSignals = [] → channelWaits s dev q = false →
      x = getTrn s t → s.casc.master = true →
      3840 ≤ t → x.owner = f → x.waiters = [] → x.arrived + 1 < x.count → ∃ ts rb,
      exec (.trnOp dev seq 0 t g 1 true w f q) s = .next (fin (sendCasc dev (.trnDone w 0) { s0 with
        trns := ts, casc := { s0.casc with rxBytes := rb } })) ∧
      tget (dflt {}) ts t = { x with arrived := x.arrived + 1, total := (x.total + 1) % 2 ^ 64, lastArrival := s.time }) ∧
    (∀ t g x, m = .trnRel t g → dev = s.casc.masterId → isMirror s t = true → x = getTrn s t → x.waiters = [] →
      exec (.trnRel dev seq t g) s = .next (fin (setTrn s0 t { x with gen := (g + 1) % 2 ^ 16, lastArrival := s.time }))) ∧
    ∀ f q v, m = .doorbell f q v.toNat →
      (bindFunc (getGroup s (groupOf q)).active.bind = f → exec (.cascDoorbell dev seq f q v) s =
        .next (fin (sendCasc dev (.writeDone 0 1) (doorbellOp f q 8 v.toNat s0)))) ∧
      (bindFunc (getGroup s (groupOf q)).active.bind ≠ f → exec (.cascDoorbell dev seq f q v) s =
        .next (fin (sendCasc dev (.writeDone 0x21 1) s0)))

/-- PUT, GET and DOORBELL: the peer's refusal ends PUT and GET with its status; a PUT of one element sends its bytes and
awaits their answers; a GET asks for the lines of the remote record; DOORBELL is sent and awaits its answer; a held signal
whose fence is met by then takes effect at FENCE_RELEASE (R304, R343). -/
def Obligations.RemoteOperations : Prop :=
  (∀ (c : Instr) (s : State) (tag st : Nat) (rec : List Byte) (o : Op), findOp s tag = some o → o.phase = .ready →
    s.cfg.applying = none → o.slotFree s = true → o.opc = 0x40 → o.gen = 0 → st ≠ 0 →
    (c = .put tag rec st ∧ o.ckind = 0x10) ∨ (c = .get tag rec st ∧ o.ckind = 0x11) →
    exec c s = .next (refuseOp tag st (beginOp o s))) ∧
  (∀ (s u s1 : State) (tag st : Nat) (rec : List Byte) (o y z : Op) (vs : List (XVal × Nat × Nat)), findOp s tag = some o →
    o.phase = .ready → s.cfg.applying = none → o.slotFree s = true → o.opc = 0x40 → o.ckind = 0x10 → o.gen = 1 → o.cursor = 0 →
    (o.tensor 3).count = 1 → channelHeld s o.queue o.peerDev = false →
    u = beginOp o s → z = o.begun s →
    (loadElem u (whoOf z) (o.tensor 1) ((o.tensor 1).coords 0)).map (fun x => [(x.1, x.2, noK)]) = .ok vs →
    deliverBy (sendWrites z 0) (fun l fl k => updOp tag (fun x =>
        { x with sentFlags := x.sentFlags ++ [(0, (o.tensor 3).runPos l, fl, k)] })) tag o.arith 0 0 (o.tensor 3) vs u =
      .ok s1 →
    findOp s1 tag = some y → y.phase = .ready → y.cursor = 0 → y.sent ≠ [] → deliverLen (o.tensor 3) 0 = 1 →
    exec (.put tag rec st) s = .next { s1 with ops := s1.ops.map (fun x => if x.tag = tag then
      { x with cursor := x.cursor + 1, phase := .waiting, since := s1.time } else x) }) ∧
  (∀ (s : State) (tag st a r : Nat) (rec : List Byte) (o : Op), s.ops = [o] → o.tag = tag → o.phase = .ready →
    s.cfg.applying = none → o.slotFree s = true → o.opc = 0x40 → o.ckind = 0x11 → o.gen = 1 → (o.tensor 3).allLines = [a] →
    freeRtag s = some r → ∃ w fu, exec (.get tag rec st) s = .next (sendCasc o.peerDev (.read a (o.fld 62 2) 64 0 r) { s with
      works := w, floe := fu, ops := [{ o.begun s with gen := 2, phase := .waiting, since := s.time, sent := [] }]
      casc := { s.casc with reads := tinsert r (tag, a) s.casc.reads } })) ∧
  (∀ (s : State) (tag : Nat) (o : Op), s.ops = [o] → o.tag = tag → o.phase = .ready → s.cfg.applying = none →
    o.slotFree s = true → o.opc = 0x40 → o.ckind = 0x12 → ∃ w fu,
    exec (.doorbellOp tag) s = .next (sendCasc o.peerDev (.doorbell o.func (o.fld 72 3) (o.fld 64 8)) { s with
      works := w, floe := fu, ops := [{ o.begun s with phase := .waiting, since := s.time, sent := [(0, 0)] }]
      casc := { s.casc with acks := s.casc.acks ++ [(o.peerDev, tag)] } })) ∧
  ∀ (s : State) (dev q : Nat) (m : CascMsg), dev < 16 → s.casc.rxSignals = [(chanKey q dev, m)] → s.casc.rxHeld = [] →
    (fenceOf m ≤ tget (dflt 0) s.casc.rxBytes (chanKey q dev) → channelWaits s dev q = false → exec (.fenceRelease dev q) s =
      .next (performMsg dev q m { s with casc := { s.casc with
        rxSignals := []
        rxBytes := tset (dflt 0) s.casc.rxBytes (chanKey q dev)
          (tget (dflt 0) s.casc.rxBytes (chanKey q dev) - fenceOf m) } })) ∧
    (tget (dflt 0) s.casc.rxBytes (chanKey q dev) < fenceOf m ∨ channelWaits s dev q = true →
      exec (.fenceRelease dev q) s = .next s)

/-- Collectives: a member submits its part, tells the others and waits; when every member has submitted and their counts
agree, the operation goes through its destination in increasing order, each element the combination of the members'
elements, or the element that its member sent, and ends with status 0 behind the last; counts that disagree end it with
DESCRIPTOR_INVALID before any data moves, and a member that has ended ends it with ABORTED; TIMEOUT_US ends one that some
member has not joined with TIMEOUT; a part that comes before this device's own is kept (R342, R344, R345). -/
def Obligations.Collectives : Prop :=
  (∀ (c : Instr) (s u s1 : State) (tag n : Nat) (order : List Nat) (o x : Op) (ps : List CollPart) (b : Tensor)
    (act : Op → Nat → Nat → State → Except (Stop × Bool) State) (st : Nat → State),
    findOp s tag = some o → o.phase = .ready → s.cfg.applying = none → o.slotFree s = true → o.opc = 0x40 →
    u = beginOp o s → b = o.tensor 2 →
    (c = .allReduce tag order ∧ o.ckind = 0 ∧ act = actVal tag b o.arith
        (fun s o l => .ok (reduceAt ps order (ownPlace s o) o (0 + l)))) ∨
      (c = .reduceScatter tag order ∧ o.ckind = 1 ∧ act = actVal tag b o.arith (fun s x l => .ok (reduceAt ps order (ownPlace s x) x
        ((scatterPart (o.tensor 1).count ps.length (ownPlace u o)).1 + l)))) ∨
      (((c = .allGather tag ∧ o.ckind = 2) ∨ (c = .broadcast tag ∧ o.ckind = 3)) ∧ act = moveRunOf tag ps b) →
    (∀ (p : CollPart) (fls : List Nat) (d : Nat), o.gen = 0 → ownPart u o = .ok (p, fls) → (∀ x ∈ fls, x = 0) →
      d ∈ o.memberIds → d ≠ s.casc.ownId → p.dev = s.casc.ownId → partOf s o d = none →
      (s.casc.ownId, o.collTag, o.memberMask) ∉ s.casc.late →
      s1 = tellMembers o (256 * p.fmt) p.count p.codes 0 (updOp tag (fun o => { o with
        phase := .waiting, gen := 1, since := s.time
        lines := fls.zipIdx.foldl (fun (t : Table (List Byte)) x => tset (dflt []) t x.2 []) [] }) u) →
      exec c s = .next { s1 with casc := { s1.casc with parts := s.casc.parts ++ [p] } }) ∧
    (o.gen ≠ 0 → allParts s o = some ps →
      ((∃ p ∈ ps, p.fmt = partEnded) → exec c s = .next (refuseOp tag 0x50 u)) ∧
      ((∀ p ∈ ps, p.fmt ≠ partEnded) → countsAgree ps = false → exec c s = .next (refuseOp tag 0x41 u)) ∧
      ((∀ p ∈ ps, p.fmt ≠ partEnded) → countsAgree ps = true → n ≤ b.count → st 0 = u →
        (∀ i < n, ∃ y v, findOp (st i) tag = some y ∧ y.cursor < b.count ∧
          act y y.cursor (deliverLen b y.cursor) (st i) = .ok v ∧
          st (i + 1) = updOp tag (fun z => { z with cursor := z.cursor + deliverLen b y.cursor }) v) →
        findOp (st n) tag = some x → b.count ≤ x.cursor → exec c s = .next (endOp tag { cursor := x.cursor } (st n))))) ∧
  (∀ (s : State) (tag : Nat) (o : Op), findOp s tag = some o → o.isColl = true → o.phase = .waiting → o.gen = 1 →
    o.collUs ≠ 0 → allParts s o = none →
    exec (.collectiveTimeout tag) s = .next (refuseOp tag 0x51 (passTo (o.since + o.collUs * 1000) s))) ∧
  ∀ (s : State) (dev seq t ms k n : Nat) (cs : List W64), isMember s dev = true → bit s.noc.errLog 63 = false →
    s.casc.rxHeld = [] → seq < 2 ^ 16 → seq = tget (dflt 0) s.casc.rxSeq (seqKey dev (CascMsg.collective t ms k n cs 0).net) → k % 2 = 0 →
    (dev, t, ms) ∉ s.casc.late → s.ops = [] →
    exec (.collectiveControl dev seq t ms k n cs 0) s = .next { s with casc := { s.casc with
      parts := s.casc.parts ++ [{ dev, tag := t, members := ms, fmt := k / 256, count := n, codes := cs }]
      rxSeq := tset (dflt 0) s.casc.rxSeq (seqKey dev (CascMsg.collective t ms k n cs 0).net) ((seq + 1) % 2 ^ 16) } }

/-! ### The Midway (chapter 15) -/

/-- FABRIC: a STREAM_IN of one element takes its bytes from the port's chain, stores the converted value and frees the port, and a
STREAM_OUT of one element pushes its word; BIND_MEM binds a port to its group, and is denied while another group has it;
UNBIND of a port with nothing outstanding ends; a port that is not in use the way round that is asked is refused; LANE_UP trains a lane until it locks, LANE_DOWN stops it; without lock in
its time LANE_UP ends with LINK_ERROR, and a stream that waits past its time with TIMEOUT at its cursor (R358 to R362, R366). -/
def Obligations.FabricOperations : Prop :=
  ∀ (s u : State) (tag m : Nat) (o z : Op) (x : MidPort), s.ops = [o] → o.tag = tag → o.opc = 0x38 → m = o.target →
    x = getPort s m → u = beginOp o s → z = o.begun s →
    (∀ c, (c = .streamIn tag ∧ o.fkind = 1) ∨ (c = .streamOut tag ∧ o.fkind = 2) ∨ (c = .bindMem tag ∧ o.fkind = 3) ∨
      (c = .unbind tag ∧ o.fkind = 4) → o.phase = .ready → s.cfg.applying = none → o.slotFree s = true →
      portServes s m (fabricDir o.fkind) = false → exec c s = .next (refuseOp tag 0x10 u)) ∧
    (o.phase = .ready → s.cfg.applying = none → o.slotFree s = true → (o.fkind ≤ 4 → portServes s m (fabricDir o.fkind) = true) →
      (∀ (s1 : State) (y : Op) (bs : List Byte) (e : Bool), o.fkind = 1 → portFree u o m = true → x.pushing = [] →
        (o.tensor 1).count = 1 → isT (o.tensor 1).format = false → o.cursor = 0 → o.fopt ≠ 0 →
        chainBytes x.chain = (bs, e) → 0 < fmtBytes o.fopt → fmtBytes o.fopt ≤ bs.length →
        deliver tag (whoOf z) o.arith 0 0 (o.tensor 1) [(decodeElem o.fopt (fromContainer o.fopt
          (fieldAt (bs.take (fmtBytes o.fopt)) 0 (fmtBytes o.fopt))), 0, noK)] (holdPort o m u) = .ok s1 →
        s1.ops = [y] → y.tag = tag → y.cursor = 0 → ∃ t, exec (.streamIn tag) s = .next t ∧
        t.ops = [{ y with
          cursor := 1, phase := .done, result := { cursor := 1 }, closing := if y.closing = 1 then 2 else y.closing }] ∧
        t.dmem = s1.dmem ∧ t.hmem = s1.hmem ∧
        getPort t m = { x with
          chain := chainTidy (chainTake (fmtBytes o.fopt) x.chain), holder := none, holderGroup := groupOf o.queue }) ∧
      (∀ (s1 : State) (bs : List Byte) (fl : Nat) (w : PortWord), o.fkind = 2 → portFree u o m = true → x.full = false →
        x.popping = false → (o.tensor 1).count = 1 → o.cursor = 0 → 0 < o.portElem (o.tensor 1) →
        o.portElem (o.tensor 1) ≤ 8 → outBytes (holdPort o m u) z (o.tensor 1) 1 0 = .ok (bs, [fl]) →
        packWord bs o.lastWord (holdPort o m u) = (w, s1) → ∃ t y, exec (.streamOut tag) s = .next t ∧
        t.ops = [y] ∧ y.phase = .done ∧ y.result = { cursor := 1 } ∧ y.flags = o.flags ||| fl ∧ t.fresh = s1.fresh ∧
        getPort t m = { x with chain := x.chain ++ [w], holder := none, holderGroup := groupOf o.queue }) ∧
      (o.fkind = 3 →
        (x.bound = none → ∃ w ts fu, exec (.bindMem tag) s = .next { setPort s m { x with
            bound := some (groupOf o.queue)
            bindWho := { asid := o.asid, func := o.func, pasid := o.pasid, prio := o.prio
                         unit := (0x70 + m / 64) * 0x100 + m % 64 } } with
          ops := [{ z with phase := .done, result := {}, closing := if o.closing = 1 then 2 else o.closing }]
          fills := [], works := w, tiles := ts, floe := fu }) ∧
        ∀ g, x.bound = some g → g ≠ groupOf o.queue → exec (.bindMem tag) s = .next (refuseOp tag 0x21 u)) ∧
      (o.fkind = 4 → x.reqs = [] → ∃ w ts fu, exec (.unbind tag) s = .next { setPort s m { x with bound := none } with
        ops := [{ z with
          phase := .done, since := s.time, result := {}, closing := if o.closing = 1 then 2 else o.closing }]
        fills := [], works := w, tiles := ts, floe := fu }) ∧
      (o.fkind = 5 → (getUserLane s m).training = none → ∃ w fu,
        exec (.laneUp tag) s = .next { setUserLane s m { getUserLane s m with
            up := false, training := some tag, rate := bits o.laneCfg 0 2, code := bit o.laneCfg 2
            loopback := bit o.laneCfg 3, regTaps := bit o.laneCfg 4
            taps := if bit o.laneCfg 4 then ((getUserLane s m).pre, (getUserLane s m).post)
              else Config.laneTaps s.mid.frames m } with
          ops := [{ z with phase := .waiting, since := s.time }], works := w, floe := fu }) ∧
      (o.fkind = 6 → ∃ w ts fu, exec (.laneDown tag) s = .next { setUserLane s m { getUserLane s m with
          up := false, training := none } with
        ops := [{ z with phase := .done, result := {}, closing := if o.closing = 1 then 2 else o.closing }]
        fills := [], works := w, tiles := ts, floe := fu })) ∧
    (o.phase = .waiting → o.fkind = 5 → (getUserLane s m).training = some tag →
      (∃ ts fu, exec (.laneLock m) s = .next { setUserLane s m { getUserLane s m with up := true, training := none } with
        ops := [{ o with phase := .done, result := {}, closing := if o.closing = 1 then 2 else o.closing }]
        fills := [], tiles := ts, floe := fu }) ∧ ∃ v,
      exec (.fabricTimeout tag) s = .next (endOp tag { status := 0x31 } (setUserLane v m { getUserLane s m with
        training := none })) ∧
      v = passTo (o.since + (if o.fabricUs = 0 then 100000 else o.fabricUs) * 1000) s) ∧
    (o.phase = .waiting → o.fkind = 1 ∨ o.fkind = 2 → o.fabricUs ≠ 0 →
      exec (.fabricTimeout tag) s = .next (freePort m (endOp tag { status := 0x51, cursor := o.cursor }
        (passTo (o.since + o.fabricUs * 1000) s))))

/-- Queue chains, memory ports, memory blocks and latches: a push stores a word behind the others, and on a full chain is
discarded and counted under DROP or waits under BLOCK; a pop takes the oldest word, and waits on an empty chain; the level, full
and empty outputs follow the chain; a request that asks for nothing, or crosses a line, is not taken, one at
an unbound memory port is answered with ACCESS_DENIED, one that can be made with its bytes; a block of RAM mode keeps the
word written in its shape and reads it; a latch takes its cell's settled output at a request and acknowledges; the output and the
carry of a cell come from its multiplexers (R349, R350, R352 to R357, R363). -/
def Obligations.QueuesMemoryAndLatches : Prop :=
  (∀ (c : Instr) (s : State) (m k : Nat) (d : W64) (l : Bool) (x : MidPort), x = getPort s m → x.blocks ≠ 0 →
    (c = .queuePush m d k l ∨ (c = .portWord m d k l ∧ x.dir = 1)) → portHolder s m = none →
    (∀ e ∈ s.tiles, e.2.run.kind ≠ 2) →
    (x.full = false → x.popping = false →
      ∀ y : MidPort, y = { x with chain := x.chain ++ [{ data := d, keep := k, last := l }] } →
        exec c s = .next { setPort s m y with outbox := s.outbox ++ outputsMoved m x y }) ∧
    (x.full = true → x.drop = true →
      exec c s = .next (setPort s m { x with dropped := min (2 ^ 32 - 1) (x.dropped + 1) })) ∧
    (x.full = true → x.drop = false → x.pushing.length < max 1 x.credits →
      exec c s = .next { setPort s m { x with pushing := x.pushing ++ [{ data := d, keep := k, last := l }] } with
        outbox := s.outbox ++ [.queueWaits m] })) ∧
  (∀ (s : State) (m : Nat) (x : MidPort), x = getPort s m → x.blocks ≠ 0 → portHolder s m = none →
    (∀ w ws (y : MidPort), x.chain = w :: ws → x.pushing = [] → y = { x with chain := ws, popping := false } →
      exec (.queuePop m) s = .next { setPort s m y with
        outbox := s.outbox ++ outputsMoved m x y ++ [.popWord m w.data w.keep w.last] }) ∧
    (x.chain = [] → exec (.queuePop m) s = .next { setPort s m { x with popping := true } with
      outbox := s.outbox ++ [.queueWaits m] })) ∧
  (∀ (m i : Nat) (x y : MidPort) (b : Bool), Out.queueOut m i b ∈ outputsMoved m x y ↔
    x.outputs[i]? ≠ some b ∧ ((i = 0 ∧ b = decide (0 < y.level ∧ y.level ≤ y.chain.length)) ∨
      (i = 1 ∧ b = decide (y.words ≤ y.chain.length)) ∨ (i = 2 ∧ b = decide (y.chain = [])))) ∧
  (∀ (s : State) (m n : Nat) (a en : W64) (wr : Bool) (data : List Byte), n = 0 ∨ 64 < a.toNat % 64 + n →
    exec (.memPortRequest m a n wr data en) s = .next s) ∧
  (∀ (s s1 : State) (m n : Nat) (a en : W64) (wr : Bool) (data bs : List Byte) (x : MidPort) (r : PortReq),
    x = getPort s m → x.dir = 3 → x.reqs = [] → 0 < n → a.toNat % 64 + n ≤ 64 → s.ops = [] →
    r = { who := x.bound.map (fun _ => x.bindWho), addr := a.toNat, len := n, write := wr, data, enables := en.toNat } →
    (x.bound = none → ∃ t, exec (.memPortRequest m a n wr data en) s = .next t ∧ getPort t m = x ∧
      t.outbox = s.outbox ++ [.portResponse m 0x21 []] ∧ t.dmem = s.dmem) ∧
    (x.bound ≠ none → portAccess x.bindWho r (setPort s m { x with reqs := [r] }) = (.ok bs, s1) → s1.ops = [] → ∃ u,
      u = portFlits m x.bindWho r s1 ∧
      exec (.memPortRequest m a n wr data en) s = .next { setPort u m { getPort u m with reqs := [] } with
        outbox := u.outbox ++ [.portResponse m 0 bs] })) ∧
  (∀ (s : State) (b a : Nat) (d : BitVec 72) (x : MidBlock), s.mid.loaded = true → b < numBlocks s.variant →
    x = tget (dflt {}) s.mid.blocks b → x.queue = false → a < 2 ^ (13 - x.shape) →
    exec (.ramAccess b true a d) s = .next { s with mid := { s.mid with
      blocks := tset (dflt {}) s.mid.blocks b
        { x with words := tset (dflt 0) x.words a (BitVec.ofNat 72 (d.toNat % 2 ^ (9 * 2 ^ x.shape))) } } } ∧
    exec (.ramAccess b false a d) s = .next { s with
      outbox := s.outbox ++ [.ramWord b (tget (dflt 0) x.words a)] }) ∧
  (∀ (s : State) (cell : Nat) (d v : Bool) (ones : List Nat), s.mid.loaded = true → cell < numCells s.variant →
    (tget (dflt (false, false)) s.mid.latches cell = (v, false) → ∀ s1,
      settled (wireVal s ones (fun _ => true) (numCells s.variant + 1) cell (.cell cell)) s = (d, s1) →
      exec (.latchCapture cell true ones) s = .next (settleAll { s1 with
        mid := { s1.mid with latches := tset (dflt (false, false)) s1.mid.latches cell (d, true) }
        outbox := s1.outbox ++ [.latchAck cell true] })) ∧
    (tget (dflt (false, false)) s.mid.latches cell = (v, true) → exec (.latchCapture cell false ones) s = .next { s with
      mid := { s.mid with latches := tset (dflt (false, false)) s.mid.latches cell (v, false) }
      outbox := s.outbox ++ [.latchAck cell false] })) ∧
  (∀ (v : Wire → Option Bool) (c : Cell) (a b x : Bool), muxVal v c.a c.sa = some a → muxVal v c.b c.sb = some b →
    (c.carry = false → v c.x = some x → cellOut v c = some (if x then b else a) ∧ cellCarry v c = none) ∧
    (c.carry = true → v c.cin = some x → cellOut v c = some a ∧ cellCarry v c = some (if a then x else b))) ∧
  ∀ (v : Wire → Option Bool) (d0 d1 d2 d3 d4 d5 d6 d7 i0 i1 i2 : Wire) (b0 b1 b2 : Bool), v i0 = some b0 → v i1 = some b1 →
    v i2 = some b2 → muxVal v [d0, d1, d2, d3, d4, d5, d6, d7] [i0, i1, i2] =
      v (if b2 then (if b1 then (if b0 then d7 else d6) else (if b0 then d5 else d4))
        else if b1 then (if b0 then d3 else d2) else (if b0 then d1 else d0))

/-- Pins, banks, pacers and user lanes: a level change at a pin of a supplied bank is an event of a loaded fabric, and at a
fast-path pin settles its die's columns; a supply that arrives drives its bank's outputs again, and one that goes makes its
high inputs low; a tick raises REQ, or counts as missed while the one before is not acknowledged, drives its pins and samples
them; calibration passes within 100 ppm; a received word enters the FIFO of 64 words, or is lost and counted; a lane that
is up sends the fabric's next word, or a fill that it counts (R364, R365, R367 to R369). -/
def Obligations.PinsPacersAndLanes : Prop :=
  (∀ (s : State) (n : Nat) (level : Bool) (x : Pin), x = getPin s n → n < numBanks s.variant * 24 →
    (x.level ≠ level → s.mid.loaded = true → bankOn s (n / 24) = true →
      ∀ u, u = { setPin s n { x with level } with outbox := s.outbox ++ [.pinEvent n level false] } →
      exec (.pinChange n level) s = .next (if n % 24 < 6 then settleFast (n / 48) u else u)) ∧
    (x.level = level ∨ s.mid.loaded = false ∨ bankOn s (n / 24) = false →
      exec (.pinChange n level) s = .next (setPin s n { x with level }))) ∧
  (∀ (s u : State) (b mv : Nat), b < numBanks s.variant →
    u = { s with mid := { s.mid with banks := tset (dflt 0) s.mid.banks b mv } } →
    (s.mid.loaded = false ∨ (bankOn s b = true ↔ mv ≠ 0) → exec (.bankSupplyChange b mv) s = .next u) ∧
    (s.mid.loaded = true → bankOn s b = false → mv ≠ 0 → ∃ os,
      exec (.bankSupplyChange b mv) s = .next (settleFast (b / 2) { u with outbox := s.outbox ++ os }) ∧
      ∀ i v, i < 24 → (getPin s (24 * b + i)).drive = some v → Out.pinEvent (24 * b + i) v true ∈ os) ∧
    (s.mid.loaded = true → bankOn s b = true → mv = 0 → ∃ os,
      exec (.bankSupplyChange b mv) s = .next (settleFast (b / 2) { u with outbox := s.outbox ++ os }) ∧
      ∀ i, i < 24 → (getPin s (24 * b + i)).level = true → Out.pinEvent (24 * b + i) false false ∈ os)) ∧
  (∀ (s u : State) (p : Nat) (acked : Bool) (x : Pacer), x = getPacer s p → x.running = true →
    u = (if x.waiting = true ∧ acked = false then setPacer s p { x with missed := min (2 ^ 32 - 1) (x.missed + 1) }
      else { setPacer s p { x with waiting := true } with outbox := s.outbox ++ [.pacerReq p] }) →
    exec (.pacerTick p acked [] []) s = .next u ∧
    ∀ n v, n < numBanks s.variant * 24 → bankOn s (n / 24) = true →
      exec (.pacerTick p acked [(n, v)] []) s = .next { setPin u n { getPin u n with drive := some v } with
        outbox := u.outbox ++ [.pinEvent n v true] } ∧
      exec (.pacerTick p acked [] [n]) s = .next { u with outbox := u.outbox ++ [.pinEvent n (getPin s n).level false] }) ∧
  (∀ (s : State) (p dev : Nat), (getPacer s p).running = true →
    exec (.pacerCalibrate p dev) s = .next (setPacer s p { getPacer s p with calOk := decide (dev ≤ 100) })) ∧
  ∀ (s : State) (n : Nat) (x : UserLane), x = getUserLane s n → x.up = true →
    (∀ w taken, (x.rx.length - taken < 64 → exec (.laneRxWord n w taken) s =
        .next (setUserLane s n { x with rx := x.rx.drop taken ++ [w] })) ∧
      (64 ≤ x.rx.length - taken → exec (.laneRxWord n w taken) s =
        .next { setUserLane s n { x with rx := x.rx.drop taken, overrun := min 0xFFFF (x.overrun + 1) } with
          ice := { s.ice with now := { s.ice.now with laneOver := tadd s.ice.now.laneOver n 1 } } })) ∧
    ∀ ws : List W64, (∀ w rest, (x.tx ++ ws).take 64 = w :: rest → exec (.laneTxWord n ws) s =
        .next { setUserLane s n { x with tx := rest } with outbox := s.outbox ++ [.laneWord n (some w)] }) ∧
      (x.tx = [] → ws = [] → exec (.laneTxWord n ws) s = .next { setUserLane s n { x with
          tx := [], underrun := min 0xFFFF (x.underrun + 1) } with
        ice := { s.ice with now := { s.ice.now with laneUnder := tadd s.ice.now.laneUnder n 1 } }
        outbox := s.outbox ++ [.laneWord n (if x.code then none else some 0x5555555555555555)] })

/-! ### Configuration and security (chapter 16) -/

/-- Configuration streams: CFG_LOAD of a stream that passes its checks stages it under a new STAGE_ID, one that fails is
rejected with nothing staged; CFG_COMMIT begins to apply or stores what is staged, and is STALE when nothing is or another
STAGE_ID is meant; once nothing else runs a configuration takes effect; past DRAIN_US nothing is applied and the commit ends
with TIMEOUT; CFG_REVERT loads the previous role and begins to apply it (R381, R382, R385 to R388). -/
def Obligations.ConfigurationStreams : Prop :=
  (∀ (s u : State) (tag : Nat) (o : Op), s.ops = [o] → o.tag = tag → o.phase = .ready → s.cfg.applying = none →
    o.slotFree s = true → u = beginOp o s →
    (∀ (s1 s2 : State) (b : List Byte), o.opc = 0x60 → o.fld 32 1 = 0 →
      takeArea { u with cfg := { s.cfg with staged := none } } = some s1 →
      copyMem o (o.fld 16 8) (o.fld 24 8) s1 = (.ok b, s2) →
      (∀ x, checkStream s2 b = .ok x → exec (.cfgLoad tag true) s = .next (endOp tag {} { s2 with
        cfg := { s2.cfg with staged := some x, stageId := (s2.cfg.stageId + 1) % 2 ^ 32 } })) ∧
      ∀ r, checkStream s2 b = .error r → exec (.cfgLoad tag true) s = .next (rejectCfg tag r 0 (unstage s2))) ∧
    (∀ (x : CfgStream), o.opc = 0x61 → s.cfg.staged = some x → (o.fld 16 4 = 0 ∨ o.fld 16 4 = s.cfg.stageId) →
      x.firmware = false → o.cGolden = false →
      (o.cApply = true → o.cStore = false → ∃ w fu, exec (.cfgCommit tag true) s = .next { s with
        works := w, floe := fu, ops := [{ o.begun s with phase := .waiting, since := s.time }]
        cfg := { s.cfg with applying := some tag, applyFrom := 4, applySince := s.time } }) ∧
      (o.cApply = false → o.cStore = true → x.partly = false → ∃ t, exec (.cfgCommit tag true) s = .next t ∧
        t.ops = [{ o.begun s with
          phase := .done, result := {}, closing := if o.closing = 1 then 2 else o.closing }] ∧
        t.cfg.staged = none ∧ t.cfg.roles =
          [s.cfg.roles.getD 3 0, s.cfg.roles.getD 0 0, s.cfg.roles.getD 2 0, s.cfg.roles.getD 1 0] ∧
        tfind (s.cfg.roles.getD 3 0) t.cfg.areas = some x)) ∧
    (o.opc = 0x61 → (s.cfg.staged = none ∨ (o.fld 16 4 ≠ 0 ∧ o.fld 16 4 ≠ s.cfg.stageId)) →
      exec (.cfgCommit tag true) s = .next (rejectCfg tag { sub := 0x0A } 0 u)) ∧
    (∀ (s1 : State) (x y : CfgStream), o.opc = 0x62 → o.fld 16 1 = 0 → roleStream s 1 = some x →
      takeArea { u with cfg := { s.cfg with staged := none } } = some s1 → roleStream s1 1 = some x →
      checkStream s1 x.bytes = .ok y →
      exec (.cfgRevert tag true) s = .next { s1 with
        ops := s1.ops.map (fun z => if z.tag = tag then { z with phase := .waiting, since := s1.time } else z)
        cfg := { s1.cfg with
          staged := some y, stageId := (s1.cfg.stageId + 1) % 2 ^ 32
          applying := some tag, applyFrom := 1, applySince := s1.time } })) ∧
  (∀ (s : State) (tag : Nat) (o : Op) (x : CfgStream), s.cfg.applying = some tag → findOp s tag = some o →
    s.cfg.staged = some x → (midwayOnly x = true ∨ othersRun s tag = false) → s.cfg.applyFrom = 4 →
    ∃ t y, exec .cfgApply s = .next t ∧ findOp t tag = some y ∧ y.phase = .done ∧ y.result = {} ∧
      t.cfg.applying = none ∧ t.cfg.staged = none ∧ t.cfg.version = x.version ∧ t.cfg.digest = x.digest ∧
      t.cfg.role = (if o.cStore = true then (if o.cGolden = true then 2 else 0) else 3) ∧ t.cfg.inEffect = true ∧
      t.mid.loaded = true ∧ t.mid.version = x.version) ∧
  ∀ (s u : State) (tag us : Nat) (o : Op), s.cfg.applying = some tag → findOp s tag = some o → o.opc = 0x61 →
    us = o.fld 24 4 → us ≠ 0 → othersRun s tag = true → u = passTo (s.cfg.applySince + us * 1000) s →
    exec .cfgDrainTimeout s = .next (endOp tag { status := 0x51 } { u with cfg := { u.cfg with applying := none } })

/-- Security: ADVANCE_SVN raises the fuse to the running firmware's number, with a record, and never lowers it; a scrub pass
forgets the frames noted for rewriting and records an essential upset or notes a nonessential one; a measurement is answered
with its value, DIGESTS and CERTIFICATE of slot 0 from its chain, an unsupported request with an error; IDE_KM programs a key inside a secured session; a key slot is written
once, and a revocation stays; a token that verifies opens debug (R391, R392, R394 to R396). -/
def Obligations.Security : Prop :=
  (∀ (s : State) (v : W32), s.st.standbyDone = true →
    (bit v.toNat 31 = true → s.cfg.fuseSvn < s.cfg.running.svn → exec (.advanceSvn v) s = .next (record 0x0C01 0x04
      (leBytes 1 s.cfg.fuseSvn ++ leBytes 1 s.cfg.running.svn) { s with cfg := { s.cfg with
        golden := bit v.toNat 30, provision := bit v.toNat 29, fuseSvn := s.cfg.running.svn } })) ∧
    (bit v.toNat 31 = false ∨ s.cfg.running.svn ≤ s.cfg.fuseSvn → exec (.advanceSvn v) s = .next { s with
      cfg := { s.cfg with golden := bit v.toNat 30, provision := bit v.toNat 29 } })) ∧
  (∀ (s u : State), s.cfg.scrubOn = true → s.cfg.applying = none → s.st.ready = true →
    u = { s with cfg := { s.cfg with rewrite := [] } } →
    exec (.scrubPass []) s = .next u ∧
    ∀ die booth fb key, key = frameKey die booth (fb / 10240) →
      (essentialBit s key (fb % 10240) = true → exec (.scrubPass [(0, die, booth, fb)]) s = .next (record 0x0B03 0x04
        (leBytes 1 die ++ leBytes 1 (fb / 10240) ++ leBytes 2 booth ++ leBytes 1 0)
        { u with cfg := { u.cfg with essential := min 0xFFFFFF (s.cfg.essential + 1) } })) ∧
      (essentialBit s key (fb % 10240) = false → exec (.scrubPass [(0, die, booth, fb)]) s = .next { u with
        cfg := { u.cfg with nonessential := min 0xFFFFFF (s.cfg.nonessential + 1), rewrite := [key] } })) ∧
  (∀ (s : State) (code index : Nat) (body : List Byte), s.st.standbyDone = true →
    (code = 0xE0 → 1 ≤ index → index ≤ 5 → exec (.spdmRequest code index body) s = .next { s with
      outbox := s.outbox ++ [.spdm 0x60 (measurement s index)] }) ∧
    (code ∉ spdmSupported → exec (.spdmRequest code index body) s = .next { s with
      outbox := s.outbox ++ [.spdm 0x7F []] }) ∧
    (code = 0x81 → exec (.spdmRequest code index body) s = .next { s with
      outbox := s.outbox ++ [.spdm 0x01 (leBytes 64 (Config.sha512 s.cfg.chain).toNat)] }) ∧
    (code = 0x82 → index = 0 → exec (.spdmRequest code index body) s = .next { s with
      outbox := s.outbox ++ [.spdm 0x02 ((s.cfg.chain.drop (fieldAt body 0 2)).take (fieldAt body 2 2))] }) ∧
    (code = 0x82 → index ≠ 0 → exec (.spdmRequest code index body) s = .next { s with
      outbox := s.outbox ++ [.spdm 0x7F []] }) ∧
    (code ∈ spdmSupported → code ∉ [0x81, 0x82, 0xE0] → ∃ answer, exec (.spdmRequest code index body) s = .next { s with
      fresh := s.fresh + 1, outbox := s.outbox ++ [.spdm (code - 0x80) answer] })) ∧
  (∀ (s : State) (f n : Nat) (ok : Bool), s.st.standbyDone = true → exec (.ideKmKeyProgram f n false ok) s = .next s ∧
    (ok = true → (tfind (256 * f + n) s.cfg.ide).isSome = true ∨ ideCount s f < (if f = 0 then 4 else 1) →
      exec (.ideKmKeyProgram f n true ok) s = .next { s with cfg := { s.cfg with
        ide := tinsert (256 * f + n) 1 s.cfg.ide } }) ∧
    (ok = false → exec (.ideKmKeyProgram f n true ok) s = .next (record 0x0C04 0x04 (leBytes 1 n ++ leBytes 1 f)
      { s with cfg := { s.cfg with ide := terase (256 * f + n) s.cfg.ide } }))) ∧
  (∀ (s : State) (k : Nat) (kek : BitVec 256) (hash : BitVec 512), s.st.standbyDone = true → s.cfg.provision = true →
    ((getSlot s k).written = false → exec (.writeKeySlot k kek hash true) s = .next (record 0x0C03 0x04 (leBytes 1 0 ++ leBytes 1 k)
      { s with cfg := { s.cfg with
        slots := tset (dflt {}) s.cfg.slots k { kek, hash, written := true, revoked := (getSlot s k).revoked } } })) ∧
    ((getSlot s k).written = true → exec (.writeKeySlot k kek hash true) s = .next s) ∧
    exec (.revokeSlot k true) s = .next (record 0x0C03 0x04 (leBytes 1 1 ++ leBytes 1 k) { s with
      cfg := { s.cfg with slots := tset (dflt {}) s.cfg.slots k { getSlot s k with revoked := true } } })) ∧
  ∀ (s : State) (key sig : List Byte) (n : BitVec 256), s.st.standbyDone = true → s.cfg.provision = true →
    n = (takeFree 256 s).1 →
    (Config.sha512 key = Config.rootKeyHash → Config.ecdsaVerify key (Config.sha512 (leBytes 32 n.toNat)) sig = true →
      exec (.debugUnlock key sig true) s = .next (record 0x0C03 0x04 (leBytes 1 2 ++ leBytes 1 0) { s with
        fresh := s.fresh + 1, cfg := { s.cfg with debugOpen := true } })) ∧
    (Config.sha512 key ≠ Config.rootKeyHash →
      exec (.debugUnlock key sig true) s = .next { s with fresh := s.fresh + 1 })

/-! ### Registers (chapters 00, 18, 20) -/

/-- Reads of registers: the SMBus answers an offset that it reaches with its bytes and any other with zeros, and NACKs a
failing PEC without an effect; an enabled function's read answers its value and clears the RC bits that it covers and no
others; of the dropped doorbells, the count (R14, R270, R434, R440). Writes of registers: one that is not naturally aligned
or not of 4 or 8 bytes is ignored, and so is one of a read-only block; RST_CTRL.DEVICE with its key requests a device reset; a write of a queue group's QTABLE sets its shadow and
one of 4 bytes only its half; MMU_BASE takes the bits of its field; a 1 written to IGNORED of a Turnstile clears it; a VF's
write reaches only its MSI-X table (R14, R237, R260, R262, R293, R434). -/
def Obligations.Registers : Prop :=
  ((∀ (c : Nat → Bool → Instr) (s : State) (off size : Nat), s.st.standbyDone = true →
    (c = Instr.read32 ∧ size = 4) ∨ (c = Instr.read64 ∧ size = 8) →
    exec (c off false) s = .next { s with outbox := s.outbox ++ [.smbusNack] } ∧
    (smbusReach off = false → exec (c off true) s = .next { s with outbox := s.outbox ++ [.smbus (fill size 0)] }) ∧
    (smbusReach off = true → ∃ v t, bar0Read 0 off size s = (v, t) ∧
      exec (c off true) s = .next { t with outbox := t.outbox ++ [.smbus (leBytes size v)] })) ∧
  (∀ (s : State) (f off size v : Nat) (t : State), s.st.standbyDone = true → (f = 0 ∨ f ≤ (getFunc s 0).numVfs) →
    bar0Read f off size s = (v, t) →
    exec (.registerReadClear f off size) s = .next { t with outbox := t.outbox ++ [.bar0 f off size v] }) ∧
  (∀ (s : State), s.st.standbyDone = true → s.st.ready = true → s.dropped.count < 2 ^ 32 →
    exec (.registerReadClear 0 0xB0008 4) s = .next { s with
      dropped := { s.dropped with count := 0 }, outbox := s.outbox ++ [.bar0 0 0xB0008 4 s.dropped.count] } ∧
    ∃ v, exec (.registerReadClear 0 0xB000C 4) s = .next { s with outbox := s.outbox ++ [.bar0 0 0xB000C 4 v] }) ∧
  ∀ (s : State) (f off size : Nat), s.st.standbyDone = true → (f = 0 ∨ f ≤ (getFunc s 0).numVfs) →
    accessOk off size = false → exec (.registerReadClear f off size) s = .next { s with
      outbox := s.outbox ++ [.bar0 f off size 0] }) ∧
  ((∀ (s : State) (v : W64) (found : BootFindings) (eye : Nat × Nat), s.st.standbyDone = true → s.st.ready = true →
    bit v.toNat 31 = true → bits v.toNat 0 16 = 0x5A17 →
    exec (.registerWrite 0 0x10000 4 v found eye) s = .next (resetRequest 2 found s)) ∧
  (∀ (s : State) (f off size : Nat) (v : W64) (found : BootFindings) (eye : Nat × Nat), s.st.standbyDone = true → (f = 0 ∨ f ≤ (getFunc s 0).numVfs) →
    (accessOk off size = false ∨ (f = 0 ∧ off < 0x10000) ∨ (f = 0 ∧ 0x20008 ≤ off ∧ off < 0x40000) ∨
      (f = 0 ∧ 0x200000 ≤ off ∧ off < 0x280000) ∨ (f = 0 ∧ 0x300000 ≤ off ∧ off < 0x500000) ∨
      (f ≠ 0 ∧ (off < 0x10000 ∨ 0x18000 ≤ off))) →
    exec (.registerWrite f off size v found eye) s = .next s) ∧
  (∀ (s : State) (g : Nat) (v : W64) (x : Group) (found : BootFindings) (eye : Nat × Nat), s.st.standbyDone = true → s.st.ready = true → g < 4096 →
    x = getGroup s g → x.shadow.qtable < 2 ^ 64 →
    exec (.registerWrite 0 (0x40000 + 0x40 * g + 8) 8 v found eye) s = .next (setGroup s g { x with
      shadow := { x.shadow with qtable := v.toNat } }) ∧
    exec (.registerWrite 0 (0x40000 + 0x40 * g + 12) 4 v found eye) s = .next (setGroup s g { x with
      shadow := { x.shadow with qtable := v.toNat % 2 ^ 32 * 2 ^ 32 + x.shadow.qtable % 2 ^ 32 } })) ∧
  (∀ (s : State) (g : Nat) (v : W64) (x : Group) (found : BootFindings) (eye : Nat × Nat), s.st.standbyDone = true → s.st.ready = true → g < 4096 →
    x = getGroup s g → x.mmuBase < 2 ^ 48 → x.mmuBase % 4096 = 0 →
    exec (.registerWrite 0 (0x80000 + 0x20 * g) 8 v found eye) s = .next (setGroup s g { x with
      mmuBase := bits v.toNat 12 36 * 4096 })) ∧
  ∀ (s : State) (t : Nat) (found : BootFindings) (eye : Nat × Nat), s.st.standbyDone = true → s.st.ready = true → t < 4096 →
    exec (.registerWrite 0 (0x280000 + 0x20 * t + 8) 8 (2 ^ 63) found eye) s =
      .next (setTrn s t { getTrn s t with ignored := false }) ∧
    exec (.registerWrite 0 (0x280000 + 0x20 * t + 8) 8 0 found eye) s = .next s)

end
end

