-- ==== Sys2Proof/Laws/Bits.lean ====
section
/-! SUPPORT. Laws of byte lists: lengths, little-endian values, fields of joined lists, and the range of a CRC. -/

namespace Sys2Proof.Machine

@[simp] theorem leBytes_length (n x : Nat) : (leBytes n x).length = n := by
  induction n generalizing x with
  | zero => rfl
  | succ n ih => simp [leBytes, ih]

@[simp] theorem fill_length (n : Nat) (b : Byte) : (fill n b).length = n := by simp [fill]

@[simp] theorem padTo_length (n : Nat) (bs : List Byte) : (padTo n bs).length = n := by
  simp only [padTo, List.length_take, List.length_append, fill_length]
  omega

theorem leNat_leBytes (n x : Nat) : leNat (leBytes n x) = x % 256 ^ n := by
  induction n generalizing x with
  | zero => simp [leBytes, leNat, Nat.mod_one]
  | succ n ih =>
    have e : x % (256 * 256 ^ n) = x % 256 + 256 * (x / 256 % 256 ^ n) := Nat.mod_mul
    have p : 256 ^ (n + 1) = 256 * 256 ^ n := Nat.pow_succ'
    rw [leBytes, leNat, ih, BitVec.toNat_ofNat, p, e]

theorem leNat_lt (bs : List Byte) : leNat bs < 256 ^ bs.length := by
  induction bs with
  | nil => simp [leNat]
  | cons b bs ih =>
    have := b.isLt
    simp only [leNat, List.length_cons, Nat.pow_succ]
    omega

/-- A field that lies within the first of two joined lists. -/
theorem fieldAt_append_left (a b : List Byte) (i n : Nat) (h : i + n ≤ a.length) :
    fieldAt (a ++ b) i n = fieldAt a i n := by
  simp only [fieldAt]
  rw [List.drop_append_of_le_length (by omega), List.take_append_of_le_length (by simp; omega)]

/-- A field that lies behind the first of two joined lists. -/
theorem fieldAt_append_right (a b : List Byte) (i n : Nat) (h : a.length ≤ i) :
    fieldAt (a ++ b) i n = fieldAt b (i - a.length) n := by
  simp only [fieldAt]
  rw [List.drop_append, List.drop_eq_nil_of_le h, List.nil_append]

/-- A whole field written little-endian reads as the number, cut to its width. -/
theorem fieldAt_leBytes (n x : Nat) : fieldAt (leBytes n x) 0 n = x % 256 ^ n := by
  simp [fieldAt, List.take_of_length_le, leNat_leBytes]

theorem crc64Bit_lt (c : Nat) (b : Bool) : crc64Bit c b < 2 ^ 64 := by
  simp only [crc64Bit]
  have : (2 * c) % 2 ^ 64 < 2 ^ 64 := Nat.mod_lt _ (by decide)
  split
  · exact Nat.xor_lt_two_pow this (by decide)
  · exact this

theorem crc64_lt (bs : List Byte) : crc64 bs < 2 ^ 64 := by
  have inner : ∀ (l : List Nat) (f : Nat → Bool) (c : Nat), c < 2 ^ 64 →
      l.foldl (fun c i => crc64Bit c (f i)) c < 2 ^ 64 := by
    intro l f
    induction l with
    | nil => intro c h; exact h
    | cons x xs ih => intro c _; exact ih _ (crc64Bit_lt _ _)
  have outer : ∀ (l : List Byte) (c : Nat), c < 2 ^ 64 →
      l.foldl (fun c b => (List.range 8).foldl (fun c i => crc64Bit c (b.getLsbD (7 - i))) c) c < 2 ^ 64 := by
    intro l
    induction l with
    | nil => intro c h; exact h
    | cons x xs ih => intro c h; exact ih _ (inner _ _ _ h)
  exact outer bs 0 (by decide)

end Sys2Proof.Machine
end

