-- ==== Sys2Proof/Laws/State.lean ====
section
/-! SUPPORT. What each named update of the state leaves: one lemma for each field, so that no proof unfolds an
update. -/

namespace Sys2Proof.Machine

@[simp] theorem setGroup_pending (s : State) (g : Nat) (x : Group) : (setGroup s g x).pending = s.pending := rfl
@[simp] theorem setGroup_outbox (s : State) (g : Nat) (x : Group) : (setGroup s g x).outbox = s.outbox := rfl
@[simp] theorem setGroup_time (s : State) (g : Nat) (x : Group) : (setGroup s g x).time = s.time := rfl
@[simp] theorem setGroup_fresh (s : State) (g : Nat) (x : Group) : (setGroup s g x).fresh = s.fresh := rfl
@[simp] theorem setGroup_variant (s : State) (g : Nat) (x : Group) : (setGroup s g x).variant = s.variant := rfl
@[simp] theorem setGroup_fused (s : State) (g : Nat) (x : Group) : (setGroup s g x).fused = s.fused := rfl
@[simp] theorem setGroup_mor (s : State) (g : Nat) (x : Group) : (setGroup s g x).mor = s.mor := rfl
@[simp] theorem setGroup_ice (s : State) (g : Nat) (x : Group) : (setGroup s g x).ice = s.ice := rfl
@[simp] theorem setGroup_pwr (s : State) (g : Nat) (x : Group) : (setGroup s g x).pwr = s.pwr := rfl
@[simp] theorem setGroup_st (s : State) (g : Nat) (x : Group) : (setGroup s g x).st = s.st := rfl
@[simp] theorem setGroup_funcs (s : State) (g : Nat) (x : Group) : (setGroup s g x).funcs = s.funcs := rfl
@[simp] theorem setGroup_link (s : State) (g : Nat) (x : Group) : (setGroup s g x).link = s.link := rfl
@[simp] theorem setGroup_dropped (s : State) (g : Nat) (x : Group) : (setGroup s g x).dropped = s.dropped := rfl
@[simp] theorem setGroup_queues (s : State) (g : Nat) (x : Group) : (setGroup s g x).queues = s.queues := rfl
@[simp] theorem setGroup_arb (s : State) (g : Nat) (x : Group) : (setGroup s g x).arb = s.arb := rfl
@[simp] theorem setGroup_ops (s : State) (g : Nat) (x : Group) : (setGroup s g x).ops = s.ops := rfl
@[simp] theorem setGroup_nextTag (s : State) (g : Nat) (x : Group) : (setGroup s g x).nextTag = s.nextTag := rfl
@[simp] theorem setGroup_pages (s : State) (g : Nat) (x : Group) : (setGroup s g x).pages = s.pages := rfl
@[simp] theorem setGroup_resets (s : State) (g : Nat) (x : Group) : (setGroup s g x).resets = s.resets := rfl
@[simp] theorem setGroup_place (s : State) (g : Nat) (x : Group) : (setGroup s g x).place = s.place := rfl
@[simp] theorem setGroup_dmem (s : State) (g : Nat) (x : Group) : (setGroup s g x).dmem = s.dmem := rfl
@[simp] theorem setGroup_hmem (s : State) (g : Nat) (x : Group) : (setGroup s g x).hmem = s.hmem := rfl
@[simp] theorem setGroup_fills (s : State) (g : Nat) (x : Group) : (setGroup s g x).fills = s.fills := rfl
@[simp] theorem setGroup_memStacks (s : State) (g : Nat) (x : Group) : (setGroup s g x).memStacks = s.memStacks := rfl
@[simp] theorem setGroup_windows (s : State) (g : Nat) (x : Group) : (setGroup s g x).windows = s.windows := rfl
@[simp] theorem setGroup_cxl (s : State) (g : Nat) (x : Group) : (setGroup s g x).cxl = s.cxl := rfl
@[simp] theorem setGroup_kv (s : State) (g : Nat) (x : Group) : (setGroup s g x).kv = s.kv := rfl
@[simp] theorem setGroup_ats (s : State) (g : Nat) (x : Group) : (setGroup s g x).ats = s.ats := rfl
@[simp] theorem setGroup_pris (s : State) (g : Nat) (x : Group) : (setGroup s g x).pris = s.pris := rfl
@[simp] theorem setGroup_bar2Waits (s : State) (g : Nat) (x : Group) : (setGroup s g x).bar2Waits = s.bar2Waits := rfl
@[simp] theorem setGroup_copies (s : State) (g : Nat) (x : Group) : (setGroup s g x).copies = s.copies := rfl
@[simp] theorem setGroup_priTimeout (s : State) (g : Nat) (x : Group) : (setGroup s g x).priTimeout = s.priTimeout := rfl
@[simp] theorem setGroup_tiles (s : State) (g : Nat) (x : Group) : (setGroup s g x).tiles = s.tiles := rfl
@[simp] theorem setGroup_images (s : State) (g : Nat) (x : Group) : (setGroup s g x).images = s.images := rfl
@[simp] theorem setGroup_contexts (s : State) (g : Nat) (x : Group) : (setGroup s g x).contexts = s.contexts := rfl
@[simp] theorem setGroup_floe (s : State) (g : Nat) (x : Group) : (setGroup s g x).floe = s.floe := rfl
@[simp] theorem setGroup_trns (s : State) (g : Nat) (x : Group) : (setGroup s g x).trns = s.trns := rfl
@[simp] theorem setGroup_trnHeld (s : State) (g : Nat) (x : Group) : (setGroup s g x).trnHeld = s.trnHeld := rfl
@[simp] theorem setGroup_watchers (s : State) (g : Nat) (x : Group) : (setGroup s g x).watchers = s.watchers := rfl
@[simp] theorem setGroup_noc (s : State) (g : Nat) (x : Group) : (setGroup s g x).noc = s.noc := rfl
@[simp] theorem setGroup_casc (s : State) (g : Nat) (x : Group) : (setGroup s g x).casc = s.casc := rfl
@[simp] theorem setGroup_mid (s : State) (g : Nat) (x : Group) : (setGroup s g x).mid = s.mid := rfl
@[simp] theorem setGroup_cfg (s : State) (g : Nat) (x : Group) : (setGroup s g x).cfg = s.cfg := rfl
@[simp] theorem setGroup_nextOrder (s : State) (g : Nat) (x : Group) : (setGroup s g x).nextOrder = s.nextOrder := rfl
@[simp] theorem setGroup_counters (s : State) (g : Nat) (x : Group) : (setGroup s g x).counters = s.counters := rfl
@[simp] theorem setGroup_works (s : State) (g : Nat) (x : Group) : (setGroup s g x).works = s.works := rfl
@[simp] theorem setGroup_worksSeen (s : State) (g : Nat) (x : Group) : (setGroup s g x).worksSeen = s.worksSeen := rfl

@[simp] theorem setQueue_pending (s : State) (q : Nat) (x : Queue) : (setQueue s q x).pending = s.pending := rfl
@[simp] theorem setQueue_outbox (s : State) (q : Nat) (x : Queue) : (setQueue s q x).outbox = s.outbox := rfl
@[simp] theorem setQueue_time (s : State) (q : Nat) (x : Queue) : (setQueue s q x).time = s.time := rfl
@[simp] theorem setQueue_fresh (s : State) (q : Nat) (x : Queue) : (setQueue s q x).fresh = s.fresh := rfl
@[simp] theorem setQueue_variant (s : State) (q : Nat) (x : Queue) : (setQueue s q x).variant = s.variant := rfl
@[simp] theorem setQueue_fused (s : State) (q : Nat) (x : Queue) : (setQueue s q x).fused = s.fused := rfl
@[simp] theorem setQueue_mor (s : State) (q : Nat) (x : Queue) : (setQueue s q x).mor = s.mor := rfl
@[simp] theorem setQueue_ice (s : State) (q : Nat) (x : Queue) : (setQueue s q x).ice = s.ice := rfl
@[simp] theorem setQueue_pwr (s : State) (q : Nat) (x : Queue) : (setQueue s q x).pwr = s.pwr := rfl
@[simp] theorem setQueue_st (s : State) (q : Nat) (x : Queue) : (setQueue s q x).st = s.st := rfl
@[simp] theorem setQueue_funcs (s : State) (q : Nat) (x : Queue) : (setQueue s q x).funcs = s.funcs := rfl
@[simp] theorem setQueue_link (s : State) (q : Nat) (x : Queue) : (setQueue s q x).link = s.link := rfl
@[simp] theorem setQueue_dropped (s : State) (q : Nat) (x : Queue) : (setQueue s q x).dropped = s.dropped := rfl
@[simp] theorem setQueue_groups (s : State) (q : Nat) (x : Queue) : (setQueue s q x).groups = s.groups := rfl
@[simp] theorem setQueue_arb (s : State) (q : Nat) (x : Queue) : (setQueue s q x).arb = s.arb := rfl
@[simp] theorem setQueue_ops (s : State) (q : Nat) (x : Queue) : (setQueue s q x).ops = s.ops := rfl
@[simp] theorem setQueue_nextTag (s : State) (q : Nat) (x : Queue) : (setQueue s q x).nextTag = s.nextTag := rfl
@[simp] theorem setQueue_pages (s : State) (q : Nat) (x : Queue) : (setQueue s q x).pages = s.pages := rfl
@[simp] theorem setQueue_resets (s : State) (q : Nat) (x : Queue) : (setQueue s q x).resets = s.resets := rfl
@[simp] theorem setQueue_place (s : State) (q : Nat) (x : Queue) : (setQueue s q x).place = s.place := rfl
@[simp] theorem setQueue_dmem (s : State) (q : Nat) (x : Queue) : (setQueue s q x).dmem = s.dmem := rfl
@[simp] theorem setQueue_hmem (s : State) (q : Nat) (x : Queue) : (setQueue s q x).hmem = s.hmem := rfl
@[simp] theorem setQueue_fills (s : State) (q : Nat) (x : Queue) : (setQueue s q x).fills = s.fills := rfl
@[simp] theorem setQueue_memStacks (s : State) (q : Nat) (x : Queue) : (setQueue s q x).memStacks = s.memStacks := rfl
@[simp] theorem setQueue_windows (s : State) (q : Nat) (x : Queue) : (setQueue s q x).windows = s.windows := rfl
@[simp] theorem setQueue_cxl (s : State) (q : Nat) (x : Queue) : (setQueue s q x).cxl = s.cxl := rfl
@[simp] theorem setQueue_kv (s : State) (q : Nat) (x : Queue) : (setQueue s q x).kv = s.kv := rfl
@[simp] theorem setQueue_ats (s : State) (q : Nat) (x : Queue) : (setQueue s q x).ats = s.ats := rfl
@[simp] theorem setQueue_pris (s : State) (q : Nat) (x : Queue) : (setQueue s q x).pris = s.pris := rfl
@[simp] theorem setQueue_bar2Waits (s : State) (q : Nat) (x : Queue) : (setQueue s q x).bar2Waits = s.bar2Waits := rfl
@[simp] theorem setQueue_copies (s : State) (q : Nat) (x : Queue) : (setQueue s q x).copies = s.copies := rfl
@[simp] theorem setQueue_priTimeout (s : State) (q : Nat) (x : Queue) : (setQueue s q x).priTimeout = s.priTimeout := rfl
@[simp] theorem setQueue_tiles (s : State) (q : Nat) (x : Queue) : (setQueue s q x).tiles = s.tiles := rfl
@[simp] theorem setQueue_images (s : State) (q : Nat) (x : Queue) : (setQueue s q x).images = s.images := rfl
@[simp] theorem setQueue_contexts (s : State) (q : Nat) (x : Queue) : (setQueue s q x).contexts = s.contexts := rfl
@[simp] theorem setQueue_floe (s : State) (q : Nat) (x : Queue) : (setQueue s q x).floe = s.floe := rfl
@[simp] theorem setQueue_trns (s : State) (q : Nat) (x : Queue) : (setQueue s q x).trns = s.trns := rfl
@[simp] theorem setQueue_trnHeld (s : State) (q : Nat) (x : Queue) : (setQueue s q x).trnHeld = s.trnHeld := rfl
@[simp] theorem setQueue_watchers (s : State) (q : Nat) (x : Queue) : (setQueue s q x).watchers = s.watchers := rfl
@[simp] theorem setQueue_noc (s : State) (q : Nat) (x : Queue) : (setQueue s q x).noc = s.noc := rfl
@[simp] theorem setQueue_casc (s : State) (q : Nat) (x : Queue) : (setQueue s q x).casc = s.casc := rfl
@[simp] theorem setQueue_mid (s : State) (q : Nat) (x : Queue) : (setQueue s q x).mid = s.mid := rfl
@[simp] theorem setQueue_cfg (s : State) (q : Nat) (x : Queue) : (setQueue s q x).cfg = s.cfg := rfl
@[simp] theorem setQueue_nextOrder (s : State) (q : Nat) (x : Queue) : (setQueue s q x).nextOrder = s.nextOrder := rfl
@[simp] theorem setQueue_counters (s : State) (q : Nat) (x : Queue) : (setQueue s q x).counters = s.counters := rfl
@[simp] theorem setQueue_works (s : State) (q : Nat) (x : Queue) : (setQueue s q x).works = s.works := rfl
@[simp] theorem setQueue_worksSeen (s : State) (q : Nat) (x : Queue) : (setQueue s q x).worksSeen = s.worksSeen := rfl

@[simp] theorem setFunc_pending (s : State) (f : Nat) (x : PciFunc) : (setFunc s f x).pending = s.pending := rfl
@[simp] theorem setFunc_outbox (s : State) (f : Nat) (x : PciFunc) : (setFunc s f x).outbox = s.outbox := rfl
@[simp] theorem setFunc_time (s : State) (f : Nat) (x : PciFunc) : (setFunc s f x).time = s.time := rfl
@[simp] theorem setFunc_fresh (s : State) (f : Nat) (x : PciFunc) : (setFunc s f x).fresh = s.fresh := rfl
@[simp] theorem setFunc_variant (s : State) (f : Nat) (x : PciFunc) : (setFunc s f x).variant = s.variant := rfl
@[simp] theorem setFunc_fused (s : State) (f : Nat) (x : PciFunc) : (setFunc s f x).fused = s.fused := rfl
@[simp] theorem setFunc_mor (s : State) (f : Nat) (x : PciFunc) : (setFunc s f x).mor = s.mor := rfl
@[simp] theorem setFunc_ice (s : State) (f : Nat) (x : PciFunc) : (setFunc s f x).ice = s.ice := rfl
@[simp] theorem setFunc_pwr (s : State) (f : Nat) (x : PciFunc) : (setFunc s f x).pwr = s.pwr := rfl
@[simp] theorem setFunc_st (s : State) (f : Nat) (x : PciFunc) : (setFunc s f x).st = s.st := rfl
@[simp] theorem setFunc_link (s : State) (f : Nat) (x : PciFunc) : (setFunc s f x).link = s.link := rfl
@[simp] theorem setFunc_dropped (s : State) (f : Nat) (x : PciFunc) : (setFunc s f x).dropped = s.dropped := rfl
@[simp] theorem setFunc_groups (s : State) (f : Nat) (x : PciFunc) : (setFunc s f x).groups = s.groups := rfl
@[simp] theorem setFunc_queues (s : State) (f : Nat) (x : PciFunc) : (setFunc s f x).queues = s.queues := rfl
@[simp] theorem setFunc_arb (s : State) (f : Nat) (x : PciFunc) : (setFunc s f x).arb = s.arb := rfl
@[simp] theorem setFunc_ops (s : State) (f : Nat) (x : PciFunc) : (setFunc s f x).ops = s.ops := rfl
@[simp] theorem setFunc_nextTag (s : State) (f : Nat) (x : PciFunc) : (setFunc s f x).nextTag = s.nextTag := rfl
@[simp] theorem setFunc_pages (s : State) (f : Nat) (x : PciFunc) : (setFunc s f x).pages = s.pages := rfl
@[simp] theorem setFunc_resets (s : State) (f : Nat) (x : PciFunc) : (setFunc s f x).resets = s.resets := rfl
@[simp] theorem setFunc_place (s : State) (f : Nat) (x : PciFunc) : (setFunc s f x).place = s.place := rfl
@[simp] theorem setFunc_dmem (s : State) (f : Nat) (x : PciFunc) : (setFunc s f x).dmem = s.dmem := rfl
@[simp] theorem setFunc_hmem (s : State) (f : Nat) (x : PciFunc) : (setFunc s f x).hmem = s.hmem := rfl
@[simp] theorem setFunc_fills (s : State) (f : Nat) (x : PciFunc) : (setFunc s f x).fills = s.fills := rfl
@[simp] theorem setFunc_memStacks (s : State) (f : Nat) (x : PciFunc) : (setFunc s f x).memStacks = s.memStacks := rfl
@[simp] theorem setFunc_windows (s : State) (f : Nat) (x : PciFunc) : (setFunc s f x).windows = s.windows := rfl
@[simp] theorem setFunc_cxl (s : State) (f : Nat) (x : PciFunc) : (setFunc s f x).cxl = s.cxl := rfl
@[simp] theorem setFunc_kv (s : State) (f : Nat) (x : PciFunc) : (setFunc s f x).kv = s.kv := rfl
@[simp] theorem setFunc_ats (s : State) (f : Nat) (x : PciFunc) : (setFunc s f x).ats = s.ats := rfl
@[simp] theorem setFunc_pris (s : State) (f : Nat) (x : PciFunc) : (setFunc s f x).pris = s.pris := rfl
@[simp] theorem setFunc_bar2Waits (s : State) (f : Nat) (x : PciFunc) : (setFunc s f x).bar2Waits = s.bar2Waits := rfl
@[simp] theorem setFunc_copies (s : State) (f : Nat) (x : PciFunc) : (setFunc s f x).copies = s.copies := rfl
@[simp] theorem setFunc_priTimeout (s : State) (f : Nat) (x : PciFunc) : (setFunc s f x).priTimeout = s.priTimeout := rfl
@[simp] theorem setFunc_tiles (s : State) (f : Nat) (x : PciFunc) : (setFunc s f x).tiles = s.tiles := rfl
@[simp] theorem setFunc_images (s : State) (f : Nat) (x : PciFunc) : (setFunc s f x).images = s.images := rfl
@[simp] theorem setFunc_contexts (s : State) (f : Nat) (x : PciFunc) : (setFunc s f x).contexts = s.contexts := rfl
@[simp] theorem setFunc_floe (s : State) (f : Nat) (x : PciFunc) : (setFunc s f x).floe = s.floe := rfl
@[simp] theorem setFunc_trns (s : State) (f : Nat) (x : PciFunc) : (setFunc s f x).trns = s.trns := rfl
@[simp] theorem setFunc_trnHeld (s : State) (f : Nat) (x : PciFunc) : (setFunc s f x).trnHeld = s.trnHeld := rfl
@[simp] theorem setFunc_watchers (s : State) (f : Nat) (x : PciFunc) : (setFunc s f x).watchers = s.watchers := rfl
@[simp] theorem setFunc_noc (s : State) (f : Nat) (x : PciFunc) : (setFunc s f x).noc = s.noc := rfl
@[simp] theorem setFunc_casc (s : State) (f : Nat) (x : PciFunc) : (setFunc s f x).casc = s.casc := rfl
@[simp] theorem setFunc_mid (s : State) (f : Nat) (x : PciFunc) : (setFunc s f x).mid = s.mid := rfl
@[simp] theorem setFunc_cfg (s : State) (f : Nat) (x : PciFunc) : (setFunc s f x).cfg = s.cfg := rfl
@[simp] theorem setFunc_nextOrder (s : State) (f : Nat) (x : PciFunc) : (setFunc s f x).nextOrder = s.nextOrder := rfl
@[simp] theorem setFunc_counters (s : State) (f : Nat) (x : PciFunc) : (setFunc s f x).counters = s.counters := rfl
@[simp] theorem setFunc_works (s : State) (f : Nat) (x : PciFunc) : (setFunc s f x).works = s.works := rfl
@[simp] theorem setFunc_worksSeen (s : State) (f : Nat) (x : PciFunc) : (setFunc s f x).worksSeen = s.worksSeen := rfl

@[simp] theorem setStack_pending (s : State) (k : Nat) (x : Stack) : (setStack s k x).pending = s.pending := rfl
@[simp] theorem setStack_outbox (s : State) (k : Nat) (x : Stack) : (setStack s k x).outbox = s.outbox := rfl
@[simp] theorem setStack_time (s : State) (k : Nat) (x : Stack) : (setStack s k x).time = s.time := rfl
@[simp] theorem setStack_fresh (s : State) (k : Nat) (x : Stack) : (setStack s k x).fresh = s.fresh := rfl
@[simp] theorem setStack_variant (s : State) (k : Nat) (x : Stack) : (setStack s k x).variant = s.variant := rfl
@[simp] theorem setStack_fused (s : State) (k : Nat) (x : Stack) : (setStack s k x).fused = s.fused := rfl
@[simp] theorem setStack_mor (s : State) (k : Nat) (x : Stack) : (setStack s k x).mor = s.mor := rfl
@[simp] theorem setStack_ice (s : State) (k : Nat) (x : Stack) : (setStack s k x).ice = s.ice := rfl
@[simp] theorem setStack_pwr (s : State) (k : Nat) (x : Stack) : (setStack s k x).pwr = s.pwr := rfl
@[simp] theorem setStack_st (s : State) (k : Nat) (x : Stack) : (setStack s k x).st = s.st := rfl
@[simp] theorem setStack_funcs (s : State) (k : Nat) (x : Stack) : (setStack s k x).funcs = s.funcs := rfl
@[simp] theorem setStack_link (s : State) (k : Nat) (x : Stack) : (setStack s k x).link = s.link := rfl
@[simp] theorem setStack_dropped (s : State) (k : Nat) (x : Stack) : (setStack s k x).dropped = s.dropped := rfl
@[simp] theorem setStack_groups (s : State) (k : Nat) (x : Stack) : (setStack s k x).groups = s.groups := rfl
@[simp] theorem setStack_queues (s : State) (k : Nat) (x : Stack) : (setStack s k x).queues = s.queues := rfl
@[simp] theorem setStack_arb (s : State) (k : Nat) (x : Stack) : (setStack s k x).arb = s.arb := rfl
@[simp] theorem setStack_ops (s : State) (k : Nat) (x : Stack) : (setStack s k x).ops = s.ops := rfl
@[simp] theorem setStack_nextTag (s : State) (k : Nat) (x : Stack) : (setStack s k x).nextTag = s.nextTag := rfl
@[simp] theorem setStack_pages (s : State) (k : Nat) (x : Stack) : (setStack s k x).pages = s.pages := rfl
@[simp] theorem setStack_resets (s : State) (k : Nat) (x : Stack) : (setStack s k x).resets = s.resets := rfl
@[simp] theorem setStack_place (s : State) (k : Nat) (x : Stack) : (setStack s k x).place = s.place := rfl
@[simp] theorem setStack_dmem (s : State) (k : Nat) (x : Stack) : (setStack s k x).dmem = s.dmem := rfl
@[simp] theorem setStack_hmem (s : State) (k : Nat) (x : Stack) : (setStack s k x).hmem = s.hmem := rfl
@[simp] theorem setStack_fills (s : State) (k : Nat) (x : Stack) : (setStack s k x).fills = s.fills := rfl
@[simp] theorem setStack_windows (s : State) (k : Nat) (x : Stack) : (setStack s k x).windows = s.windows := rfl
@[simp] theorem setStack_cxl (s : State) (k : Nat) (x : Stack) : (setStack s k x).cxl = s.cxl := rfl
@[simp] theorem setStack_kv (s : State) (k : Nat) (x : Stack) : (setStack s k x).kv = s.kv := rfl
@[simp] theorem setStack_ats (s : State) (k : Nat) (x : Stack) : (setStack s k x).ats = s.ats := rfl
@[simp] theorem setStack_pris (s : State) (k : Nat) (x : Stack) : (setStack s k x).pris = s.pris := rfl
@[simp] theorem setStack_bar2Waits (s : State) (k : Nat) (x : Stack) : (setStack s k x).bar2Waits = s.bar2Waits := rfl
@[simp] theorem setStack_copies (s : State) (k : Nat) (x : Stack) : (setStack s k x).copies = s.copies := rfl
@[simp] theorem setStack_priTimeout (s : State) (k : Nat) (x : Stack) : (setStack s k x).priTimeout = s.priTimeout := rfl
@[simp] theorem setStack_tiles (s : State) (k : Nat) (x : Stack) : (setStack s k x).tiles = s.tiles := rfl
@[simp] theorem setStack_images (s : State) (k : Nat) (x : Stack) : (setStack s k x).images = s.images := rfl
@[simp] theorem setStack_contexts (s : State) (k : Nat) (x : Stack) : (setStack s k x).contexts = s.contexts := rfl
@[simp] theorem setStack_floe (s : State) (k : Nat) (x : Stack) : (setStack s k x).floe = s.floe := rfl
@[simp] theorem setStack_trns (s : State) (k : Nat) (x : Stack) : (setStack s k x).trns = s.trns := rfl
@[simp] theorem setStack_trnHeld (s : State) (k : Nat) (x : Stack) : (setStack s k x).trnHeld = s.trnHeld := rfl
@[simp] theorem setStack_watchers (s : State) (k : Nat) (x : Stack) : (setStack s k x).watchers = s.watchers := rfl
@[simp] theorem setStack_noc (s : State) (k : Nat) (x : Stack) : (setStack s k x).noc = s.noc := rfl
@[simp] theorem setStack_casc (s : State) (k : Nat) (x : Stack) : (setStack s k x).casc = s.casc := rfl
@[simp] theorem setStack_mid (s : State) (k : Nat) (x : Stack) : (setStack s k x).mid = s.mid := rfl
@[simp] theorem setStack_cfg (s : State) (k : Nat) (x : Stack) : (setStack s k x).cfg = s.cfg := rfl
@[simp] theorem setStack_nextOrder (s : State) (k : Nat) (x : Stack) : (setStack s k x).nextOrder = s.nextOrder := rfl
@[simp] theorem setStack_counters (s : State) (k : Nat) (x : Stack) : (setStack s k x).counters = s.counters := rfl
@[simp] theorem setStack_works (s : State) (k : Nat) (x : Stack) : (setStack s k x).works = s.works := rfl
@[simp] theorem setStack_worksSeen (s : State) (k : Nat) (x : Stack) : (setStack s k x).worksSeen = s.worksSeen := rfl

@[simp] theorem setWindow_pending (s : State) (n : Nat) (x : Window) : (setWindow s n x).pending = s.pending := rfl
@[simp] theorem setWindow_outbox (s : State) (n : Nat) (x : Window) : (setWindow s n x).outbox = s.outbox := rfl
@[simp] theorem setWindow_time (s : State) (n : Nat) (x : Window) : (setWindow s n x).time = s.time := rfl
@[simp] theorem setWindow_fresh (s : State) (n : Nat) (x : Window) : (setWindow s n x).fresh = s.fresh := rfl
@[simp] theorem setWindow_variant (s : State) (n : Nat) (x : Window) : (setWindow s n x).variant = s.variant := rfl
@[simp] theorem setWindow_fused (s : State) (n : Nat) (x : Window) : (setWindow s n x).fused = s.fused := rfl
@[simp] theorem setWindow_mor (s : State) (n : Nat) (x : Window) : (setWindow s n x).mor = s.mor := rfl
@[simp] theorem setWindow_ice (s : State) (n : Nat) (x : Window) : (setWindow s n x).ice = s.ice := rfl
@[simp] theorem setWindow_pwr (s : State) (n : Nat) (x : Window) : (setWindow s n x).pwr = s.pwr := rfl
@[simp] theorem setWindow_st (s : State) (n : Nat) (x : Window) : (setWindow s n x).st = s.st := rfl
@[simp] theorem setWindow_funcs (s : State) (n : Nat) (x : Window) : (setWindow s n x).funcs = s.funcs := rfl
@[simp] theorem setWindow_link (s : State) (n : Nat) (x : Window) : (setWindow s n x).link = s.link := rfl
@[simp] theorem setWindow_dropped (s : State) (n : Nat) (x : Window) : (setWindow s n x).dropped = s.dropped := rfl
@[simp] theorem setWindow_groups (s : State) (n : Nat) (x : Window) : (setWindow s n x).groups = s.groups := rfl
@[simp] theorem setWindow_queues (s : State) (n : Nat) (x : Window) : (setWindow s n x).queues = s.queues := rfl
@[simp] theorem setWindow_arb (s : State) (n : Nat) (x : Window) : (setWindow s n x).arb = s.arb := rfl
@[simp] theorem setWindow_ops (s : State) (n : Nat) (x : Window) : (setWindow s n x).ops = s.ops := rfl
@[simp] theorem setWindow_nextTag (s : State) (n : Nat) (x : Window) : (setWindow s n x).nextTag = s.nextTag := rfl
@[simp] theorem setWindow_pages (s : State) (n : Nat) (x : Window) : (setWindow s n x).pages = s.pages := rfl
@[simp] theorem setWindow_resets (s : State) (n : Nat) (x : Window) : (setWindow s n x).resets = s.resets := rfl
@[simp] theorem setWindow_place (s : State) (n : Nat) (x : Window) : (setWindow s n x).place = s.place := rfl
@[simp] theorem setWindow_dmem (s : State) (n : Nat) (x : Window) : (setWindow s n x).dmem = s.dmem := rfl
@[simp] theorem setWindow_hmem (s : State) (n : Nat) (x : Window) : (setWindow s n x).hmem = s.hmem := rfl
@[simp] theorem setWindow_fills (s : State) (n : Nat) (x : Window) : (setWindow s n x).fills = s.fills := rfl
@[simp] theorem setWindow_memStacks (s : State) (n : Nat) (x : Window) : (setWindow s n x).memStacks = s.memStacks := rfl
@[simp] theorem setWindow_cxl (s : State) (n : Nat) (x : Window) : (setWindow s n x).cxl = s.cxl := rfl
@[simp] theorem setWindow_kv (s : State) (n : Nat) (x : Window) : (setWindow s n x).kv = s.kv := rfl
@[simp] theorem setWindow_ats (s : State) (n : Nat) (x : Window) : (setWindow s n x).ats = s.ats := rfl
@[simp] theorem setWindow_pris (s : State) (n : Nat) (x : Window) : (setWindow s n x).pris = s.pris := rfl
@[simp] theorem setWindow_bar2Waits (s : State) (n : Nat) (x : Window) : (setWindow s n x).bar2Waits = s.bar2Waits := rfl
@[simp] theorem setWindow_copies (s : State) (n : Nat) (x : Window) : (setWindow s n x).copies = s.copies := rfl
@[simp] theorem setWindow_priTimeout (s : State) (n : Nat) (x : Window) : (setWindow s n x).priTimeout = s.priTimeout := rfl
@[simp] theorem setWindow_tiles (s : State) (n : Nat) (x : Window) : (setWindow s n x).tiles = s.tiles := rfl
@[simp] theorem setWindow_images (s : State) (n : Nat) (x : Window) : (setWindow s n x).images = s.images := rfl
@[simp] theorem setWindow_contexts (s : State) (n : Nat) (x : Window) : (setWindow s n x).contexts = s.contexts := rfl
@[simp] theorem setWindow_floe (s : State) (n : Nat) (x : Window) : (setWindow s n x).floe = s.floe := rfl
@[simp] theorem setWindow_trns (s : State) (n : Nat) (x : Window) : (setWindow s n x).trns = s.trns := rfl
@[simp] theorem setWindow_trnHeld (s : State) (n : Nat) (x : Window) : (setWindow s n x).trnHeld = s.trnHeld := rfl
@[simp] theorem setWindow_watchers (s : State) (n : Nat) (x : Window) : (setWindow s n x).watchers = s.watchers := rfl
@[simp] theorem setWindow_noc (s : State) (n : Nat) (x : Window) : (setWindow s n x).noc = s.noc := rfl
@[simp] theorem setWindow_casc (s : State) (n : Nat) (x : Window) : (setWindow s n x).casc = s.casc := rfl
@[simp] theorem setWindow_mid (s : State) (n : Nat) (x : Window) : (setWindow s n x).mid = s.mid := rfl
@[simp] theorem setWindow_cfg (s : State) (n : Nat) (x : Window) : (setWindow s n x).cfg = s.cfg := rfl
@[simp] theorem setWindow_nextOrder (s : State) (n : Nat) (x : Window) : (setWindow s n x).nextOrder = s.nextOrder := rfl
@[simp] theorem setWindow_counters (s : State) (n : Nat) (x : Window) : (setWindow s n x).counters = s.counters := rfl
@[simp] theorem setWindow_works (s : State) (n : Nat) (x : Window) : (setWindow s n x).works = s.works := rfl
@[simp] theorem setWindow_worksSeen (s : State) (n : Nat) (x : Window) : (setWindow s n x).worksSeen = s.worksSeen := rfl

@[simp] theorem setCxl_pending (s : State) (p : Nat) (x : CxlPort) : (setCxl s p x).pending = s.pending := rfl
@[simp] theorem setCxl_outbox (s : State) (p : Nat) (x : CxlPort) : (setCxl s p x).outbox = s.outbox := rfl
@[simp] theorem setCxl_time (s : State) (p : Nat) (x : CxlPort) : (setCxl s p x).time = s.time := rfl
@[simp] theorem setCxl_fresh (s : State) (p : Nat) (x : CxlPort) : (setCxl s p x).fresh = s.fresh := rfl
@[simp] theorem setCxl_variant (s : State) (p : Nat) (x : CxlPort) : (setCxl s p x).variant = s.variant := rfl
@[simp] theorem setCxl_fused (s : State) (p : Nat) (x : CxlPort) : (setCxl s p x).fused = s.fused := rfl
@[simp] theorem setCxl_mor (s : State) (p : Nat) (x : CxlPort) : (setCxl s p x).mor = s.mor := rfl
@[simp] theorem setCxl_ice (s : State) (p : Nat) (x : CxlPort) : (setCxl s p x).ice = s.ice := rfl
@[simp] theorem setCxl_pwr (s : State) (p : Nat) (x : CxlPort) : (setCxl s p x).pwr = s.pwr := rfl
@[simp] theorem setCxl_st (s : State) (p : Nat) (x : CxlPort) : (setCxl s p x).st = s.st := rfl
@[simp] theorem setCxl_funcs (s : State) (p : Nat) (x : CxlPort) : (setCxl s p x).funcs = s.funcs := rfl
@[simp] theorem setCxl_link (s : State) (p : Nat) (x : CxlPort) : (setCxl s p x).link = s.link := rfl
@[simp] theorem setCxl_dropped (s : State) (p : Nat) (x : CxlPort) : (setCxl s p x).dropped = s.dropped := rfl
@[simp] theorem setCxl_groups (s : State) (p : Nat) (x : CxlPort) : (setCxl s p x).groups = s.groups := rfl
@[simp] theorem setCxl_queues (s : State) (p : Nat) (x : CxlPort) : (setCxl s p x).queues = s.queues := rfl
@[simp] theorem setCxl_arb (s : State) (p : Nat) (x : CxlPort) : (setCxl s p x).arb = s.arb := rfl
@[simp] theorem setCxl_ops (s : State) (p : Nat) (x : CxlPort) : (setCxl s p x).ops = s.ops := rfl
@[simp] theorem setCxl_nextTag (s : State) (p : Nat) (x : CxlPort) : (setCxl s p x).nextTag = s.nextTag := rfl
@[simp] theorem setCxl_pages (s : State) (p : Nat) (x : CxlPort) : (setCxl s p x).pages = s.pages := rfl
@[simp] theorem setCxl_resets (s : State) (p : Nat) (x : CxlPort) : (setCxl s p x).resets = s.resets := rfl
@[simp] theorem setCxl_place (s : State) (p : Nat) (x : CxlPort) : (setCxl s p x).place = s.place := rfl
@[simp] theorem setCxl_dmem (s : State) (p : Nat) (x : CxlPort) : (setCxl s p x).dmem = s.dmem := rfl
@[simp] theorem setCxl_hmem (s : State) (p : Nat) (x : CxlPort) : (setCxl s p x).hmem = s.hmem := rfl
@[simp] theorem setCxl_fills (s : State) (p : Nat) (x : CxlPort) : (setCxl s p x).fills = s.fills := rfl
@[simp] theorem setCxl_memStacks (s : State) (p : Nat) (x : CxlPort) : (setCxl s p x).memStacks = s.memStacks := rfl
@[simp] theorem setCxl_windows (s : State) (p : Nat) (x : CxlPort) : (setCxl s p x).windows = s.windows := rfl
@[simp] theorem setCxl_kv (s : State) (p : Nat) (x : CxlPort) : (setCxl s p x).kv = s.kv := rfl
@[simp] theorem setCxl_ats (s : State) (p : Nat) (x : CxlPort) : (setCxl s p x).ats = s.ats := rfl
@[simp] theorem setCxl_pris (s : State) (p : Nat) (x : CxlPort) : (setCxl s p x).pris = s.pris := rfl
@[simp] theorem setCxl_bar2Waits (s : State) (p : Nat) (x : CxlPort) : (setCxl s p x).bar2Waits = s.bar2Waits := rfl
@[simp] theorem setCxl_copies (s : State) (p : Nat) (x : CxlPort) : (setCxl s p x).copies = s.copies := rfl
@[simp] theorem setCxl_priTimeout (s : State) (p : Nat) (x : CxlPort) : (setCxl s p x).priTimeout = s.priTimeout := rfl
@[simp] theorem setCxl_tiles (s : State) (p : Nat) (x : CxlPort) : (setCxl s p x).tiles = s.tiles := rfl
@[simp] theorem setCxl_images (s : State) (p : Nat) (x : CxlPort) : (setCxl s p x).images = s.images := rfl
@[simp] theorem setCxl_contexts (s : State) (p : Nat) (x : CxlPort) : (setCxl s p x).contexts = s.contexts := rfl
@[simp] theorem setCxl_floe (s : State) (p : Nat) (x : CxlPort) : (setCxl s p x).floe = s.floe := rfl
@[simp] theorem setCxl_trns (s : State) (p : Nat) (x : CxlPort) : (setCxl s p x).trns = s.trns := rfl
@[simp] theorem setCxl_trnHeld (s : State) (p : Nat) (x : CxlPort) : (setCxl s p x).trnHeld = s.trnHeld := rfl
@[simp] theorem setCxl_watchers (s : State) (p : Nat) (x : CxlPort) : (setCxl s p x).watchers = s.watchers := rfl
@[simp] theorem setCxl_noc (s : State) (p : Nat) (x : CxlPort) : (setCxl s p x).noc = s.noc := rfl
@[simp] theorem setCxl_casc (s : State) (p : Nat) (x : CxlPort) : (setCxl s p x).casc = s.casc := rfl
@[simp] theorem setCxl_mid (s : State) (p : Nat) (x : CxlPort) : (setCxl s p x).mid = s.mid := rfl
@[simp] theorem setCxl_cfg (s : State) (p : Nat) (x : CxlPort) : (setCxl s p x).cfg = s.cfg := rfl
@[simp] theorem setCxl_nextOrder (s : State) (p : Nat) (x : CxlPort) : (setCxl s p x).nextOrder = s.nextOrder := rfl
@[simp] theorem setCxl_counters (s : State) (p : Nat) (x : CxlPort) : (setCxl s p x).counters = s.counters := rfl
@[simp] theorem setCxl_works (s : State) (p : Nat) (x : CxlPort) : (setCxl s p x).works = s.works := rfl
@[simp] theorem setCxl_worksSeen (s : State) (p : Nat) (x : CxlPort) : (setCxl s p x).worksSeen = s.worksSeen := rfl

@[simp] theorem setOp_pending (s : State) (o : Op) : (setOp s o).pending = s.pending := rfl
@[simp] theorem setOp_outbox (s : State) (o : Op) : (setOp s o).outbox = s.outbox := rfl
@[simp] theorem setOp_time (s : State) (o : Op) : (setOp s o).time = s.time := rfl
@[simp] theorem setOp_fresh (s : State) (o : Op) : (setOp s o).fresh = s.fresh := rfl
@[simp] theorem setOp_variant (s : State) (o : Op) : (setOp s o).variant = s.variant := rfl
@[simp] theorem setOp_fused (s : State) (o : Op) : (setOp s o).fused = s.fused := rfl
@[simp] theorem setOp_mor (s : State) (o : Op) : (setOp s o).mor = s.mor := rfl
@[simp] theorem setOp_ice (s : State) (o : Op) : (setOp s o).ice = s.ice := rfl
@[simp] theorem setOp_pwr (s : State) (o : Op) : (setOp s o).pwr = s.pwr := rfl
@[simp] theorem setOp_st (s : State) (o : Op) : (setOp s o).st = s.st := rfl
@[simp] theorem setOp_funcs (s : State) (o : Op) : (setOp s o).funcs = s.funcs := rfl
@[simp] theorem setOp_link (s : State) (o : Op) : (setOp s o).link = s.link := rfl
@[simp] theorem setOp_dropped (s : State) (o : Op) : (setOp s o).dropped = s.dropped := rfl
@[simp] theorem setOp_groups (s : State) (o : Op) : (setOp s o).groups = s.groups := rfl
@[simp] theorem setOp_queues (s : State) (o : Op) : (setOp s o).queues = s.queues := rfl
@[simp] theorem setOp_arb (s : State) (o : Op) : (setOp s o).arb = s.arb := rfl
@[simp] theorem setOp_nextTag (s : State) (o : Op) : (setOp s o).nextTag = s.nextTag := rfl
@[simp] theorem setOp_pages (s : State) (o : Op) : (setOp s o).pages = s.pages := rfl
@[simp] theorem setOp_resets (s : State) (o : Op) : (setOp s o).resets = s.resets := rfl
@[simp] theorem setOp_place (s : State) (o : Op) : (setOp s o).place = s.place := rfl
@[simp] theorem setOp_dmem (s : State) (o : Op) : (setOp s o).dmem = s.dmem := rfl
@[simp] theorem setOp_hmem (s : State) (o : Op) : (setOp s o).hmem = s.hmem := rfl
@[simp] theorem setOp_fills (s : State) (o : Op) : (setOp s o).fills = s.fills := rfl
@[simp] theorem setOp_memStacks (s : State) (o : Op) : (setOp s o).memStacks = s.memStacks := rfl
@[simp] theorem setOp_windows (s : State) (o : Op) : (setOp s o).windows = s.windows := rfl
@[simp] theorem setOp_cxl (s : State) (o : Op) : (setOp s o).cxl = s.cxl := rfl
@[simp] theorem setOp_kv (s : State) (o : Op) : (setOp s o).kv = s.kv := rfl
@[simp] theorem setOp_ats (s : State) (o : Op) : (setOp s o).ats = s.ats := rfl
@[simp] theorem setOp_pris (s : State) (o : Op) : (setOp s o).pris = s.pris := rfl
@[simp] theorem setOp_bar2Waits (s : State) (o : Op) : (setOp s o).bar2Waits = s.bar2Waits := rfl
@[simp] theorem setOp_copies (s : State) (o : Op) : (setOp s o).copies = s.copies := rfl
@[simp] theorem setOp_priTimeout (s : State) (o : Op) : (setOp s o).priTimeout = s.priTimeout := rfl
@[simp] theorem setOp_tiles (s : State) (o : Op) : (setOp s o).tiles = s.tiles := rfl
@[simp] theorem setOp_images (s : State) (o : Op) : (setOp s o).images = s.images := rfl
@[simp] theorem setOp_contexts (s : State) (o : Op) : (setOp s o).contexts = s.contexts := rfl
@[simp] theorem setOp_floe (s : State) (o : Op) : (setOp s o).floe = s.floe := rfl
@[simp] theorem setOp_trns (s : State) (o : Op) : (setOp s o).trns = s.trns := rfl
@[simp] theorem setOp_trnHeld (s : State) (o : Op) : (setOp s o).trnHeld = s.trnHeld := rfl
@[simp] theorem setOp_watchers (s : State) (o : Op) : (setOp s o).watchers = s.watchers := rfl
@[simp] theorem setOp_noc (s : State) (o : Op) : (setOp s o).noc = s.noc := rfl
@[simp] theorem setOp_casc (s : State) (o : Op) : (setOp s o).casc = s.casc := rfl
@[simp] theorem setOp_mid (s : State) (o : Op) : (setOp s o).mid = s.mid := rfl
@[simp] theorem setOp_cfg (s : State) (o : Op) : (setOp s o).cfg = s.cfg := rfl
@[simp] theorem setOp_nextOrder (s : State) (o : Op) : (setOp s o).nextOrder = s.nextOrder := rfl
@[simp] theorem setOp_counters (s : State) (o : Op) : (setOp s o).counters = s.counters := rfl
@[simp] theorem setOp_works (s : State) (o : Op) : (setOp s o).works = s.works := rfl
@[simp] theorem setOp_worksSeen (s : State) (o : Op) : (setOp s o).worksSeen = s.worksSeen := rfl

@[simp] theorem updOp_pending (tag : Nat) (f : Op → Op) (s : State) : (updOp tag f s).pending = s.pending := rfl
@[simp] theorem updOp_outbox (tag : Nat) (f : Op → Op) (s : State) : (updOp tag f s).outbox = s.outbox := rfl
@[simp] theorem updOp_time (tag : Nat) (f : Op → Op) (s : State) : (updOp tag f s).time = s.time := rfl
@[simp] theorem updOp_fresh (tag : Nat) (f : Op → Op) (s : State) : (updOp tag f s).fresh = s.fresh := rfl
@[simp] theorem updOp_variant (tag : Nat) (f : Op → Op) (s : State) : (updOp tag f s).variant = s.variant := rfl
@[simp] theorem updOp_fused (tag : Nat) (f : Op → Op) (s : State) : (updOp tag f s).fused = s.fused := rfl
@[simp] theorem updOp_mor (tag : Nat) (f : Op → Op) (s : State) : (updOp tag f s).mor = s.mor := rfl
@[simp] theorem updOp_ice (tag : Nat) (f : Op → Op) (s : State) : (updOp tag f s).ice = s.ice := rfl
@[simp] theorem updOp_pwr (tag : Nat) (f : Op → Op) (s : State) : (updOp tag f s).pwr = s.pwr := rfl
@[simp] theorem updOp_st (tag : Nat) (f : Op → Op) (s : State) : (updOp tag f s).st = s.st := rfl
@[simp] theorem updOp_funcs (tag : Nat) (f : Op → Op) (s : State) : (updOp tag f s).funcs = s.funcs := rfl
@[simp] theorem updOp_link (tag : Nat) (f : Op → Op) (s : State) : (updOp tag f s).link = s.link := rfl
@[simp] theorem updOp_dropped (tag : Nat) (f : Op → Op) (s : State) : (updOp tag f s).dropped = s.dropped := rfl
@[simp] theorem updOp_groups (tag : Nat) (f : Op → Op) (s : State) : (updOp tag f s).groups = s.groups := rfl
@[simp] theorem updOp_queues (tag : Nat) (f : Op → Op) (s : State) : (updOp tag f s).queues = s.queues := rfl
@[simp] theorem updOp_arb (tag : Nat) (f : Op → Op) (s : State) : (updOp tag f s).arb = s.arb := rfl
@[simp] theorem updOp_nextTag (tag : Nat) (f : Op → Op) (s : State) : (updOp tag f s).nextTag = s.nextTag := rfl
@[simp] theorem updOp_pages (tag : Nat) (f : Op → Op) (s : State) : (updOp tag f s).pages = s.pages := rfl
@[simp] theorem updOp_resets (tag : Nat) (f : Op → Op) (s : State) : (updOp tag f s).resets = s.resets := rfl
@[simp] theorem updOp_place (tag : Nat) (f : Op → Op) (s : State) : (updOp tag f s).place = s.place := rfl
@[simp] theorem updOp_dmem (tag : Nat) (f : Op → Op) (s : State) : (updOp tag f s).dmem = s.dmem := rfl
@[simp] theorem updOp_hmem (tag : Nat) (f : Op → Op) (s : State) : (updOp tag f s).hmem = s.hmem := rfl
@[simp] theorem updOp_fills (tag : Nat) (f : Op → Op) (s : State) : (updOp tag f s).fills = s.fills := rfl
@[simp] theorem updOp_memStacks (tag : Nat) (f : Op → Op) (s : State) : (updOp tag f s).memStacks = s.memStacks := rfl
@[simp] theorem updOp_windows (tag : Nat) (f : Op → Op) (s : State) : (updOp tag f s).windows = s.windows := rfl
@[simp] theorem updOp_cxl (tag : Nat) (f : Op → Op) (s : State) : (updOp tag f s).cxl = s.cxl := rfl
@[simp] theorem updOp_kv (tag : Nat) (f : Op → Op) (s : State) : (updOp tag f s).kv = s.kv := rfl
@[simp] theorem updOp_ats (tag : Nat) (f : Op → Op) (s : State) : (updOp tag f s).ats = s.ats := rfl
@[simp] theorem updOp_pris (tag : Nat) (f : Op → Op) (s : State) : (updOp tag f s).pris = s.pris := rfl
@[simp] theorem updOp_bar2Waits (tag : Nat) (f : Op → Op) (s : State) : (updOp tag f s).bar2Waits = s.bar2Waits := rfl
@[simp] theorem updOp_copies (tag : Nat) (f : Op → Op) (s : State) : (updOp tag f s).copies = s.copies := rfl
@[simp] theorem updOp_priTimeout (tag : Nat) (f : Op → Op) (s : State) : (updOp tag f s).priTimeout = s.priTimeout := rfl
@[simp] theorem updOp_tiles (tag : Nat) (f : Op → Op) (s : State) : (updOp tag f s).tiles = s.tiles := rfl
@[simp] theorem updOp_images (tag : Nat) (f : Op → Op) (s : State) : (updOp tag f s).images = s.images := rfl
@[simp] theorem updOp_contexts (tag : Nat) (f : Op → Op) (s : State) : (updOp tag f s).contexts = s.contexts := rfl
@[simp] theorem updOp_floe (tag : Nat) (f : Op → Op) (s : State) : (updOp tag f s).floe = s.floe := rfl
@[simp] theorem updOp_trns (tag : Nat) (f : Op → Op) (s : State) : (updOp tag f s).trns = s.trns := rfl
@[simp] theorem updOp_trnHeld (tag : Nat) (f : Op → Op) (s : State) : (updOp tag f s).trnHeld = s.trnHeld := rfl
@[simp] theorem updOp_watchers (tag : Nat) (f : Op → Op) (s : State) : (updOp tag f s).watchers = s.watchers := rfl
@[simp] theorem updOp_noc (tag : Nat) (f : Op → Op) (s : State) : (updOp tag f s).noc = s.noc := rfl
@[simp] theorem updOp_casc (tag : Nat) (f : Op → Op) (s : State) : (updOp tag f s).casc = s.casc := rfl
@[simp] theorem updOp_mid (tag : Nat) (f : Op → Op) (s : State) : (updOp tag f s).mid = s.mid := rfl
@[simp] theorem updOp_cfg (tag : Nat) (f : Op → Op) (s : State) : (updOp tag f s).cfg = s.cfg := rfl
@[simp] theorem updOp_nextOrder (tag : Nat) (f : Op → Op) (s : State) : (updOp tag f s).nextOrder = s.nextOrder := rfl
@[simp] theorem updOp_counters (tag : Nat) (f : Op → Op) (s : State) : (updOp tag f s).counters = s.counters := rfl
@[simp] theorem updOp_works (tag : Nat) (f : Op → Op) (s : State) : (updOp tag f s).works = s.works := rfl
@[simp] theorem updOp_worksSeen (tag : Nat) (f : Op → Op) (s : State) : (updOp tag f s).worksSeen = s.worksSeen := rfl

@[simp] theorem endOp_pending (tag : Nat) (r : Result) (s : State) : (endOp tag r s).pending = s.pending := rfl
@[simp] theorem endOp_outbox (tag : Nat) (r : Result) (s : State) : (endOp tag r s).outbox = s.outbox := rfl
@[simp] theorem endOp_time (tag : Nat) (r : Result) (s : State) : (endOp tag r s).time = s.time := rfl
@[simp] theorem endOp_fresh (tag : Nat) (r : Result) (s : State) : (endOp tag r s).fresh = s.fresh := rfl
@[simp] theorem endOp_variant (tag : Nat) (r : Result) (s : State) : (endOp tag r s).variant = s.variant := rfl
@[simp] theorem endOp_fused (tag : Nat) (r : Result) (s : State) : (endOp tag r s).fused = s.fused := rfl
@[simp] theorem endOp_mor (tag : Nat) (r : Result) (s : State) : (endOp tag r s).mor = s.mor := rfl
@[simp] theorem endOp_ice (tag : Nat) (r : Result) (s : State) : (endOp tag r s).ice = s.ice := rfl
@[simp] theorem endOp_pwr (tag : Nat) (r : Result) (s : State) : (endOp tag r s).pwr = s.pwr := rfl
@[simp] theorem endOp_st (tag : Nat) (r : Result) (s : State) : (endOp tag r s).st = s.st := rfl
@[simp] theorem endOp_funcs (tag : Nat) (r : Result) (s : State) : (endOp tag r s).funcs = s.funcs := rfl
@[simp] theorem endOp_link (tag : Nat) (r : Result) (s : State) : (endOp tag r s).link = s.link := rfl
@[simp] theorem endOp_dropped (tag : Nat) (r : Result) (s : State) : (endOp tag r s).dropped = s.dropped := rfl
@[simp] theorem endOp_groups (tag : Nat) (r : Result) (s : State) : (endOp tag r s).groups = s.groups := rfl
@[simp] theorem endOp_queues (tag : Nat) (r : Result) (s : State) : (endOp tag r s).queues = s.queues := rfl
@[simp] theorem endOp_arb (tag : Nat) (r : Result) (s : State) : (endOp tag r s).arb = s.arb := rfl
@[simp] theorem endOp_nextTag (tag : Nat) (r : Result) (s : State) : (endOp tag r s).nextTag = s.nextTag := rfl
@[simp] theorem endOp_pages (tag : Nat) (r : Result) (s : State) : (endOp tag r s).pages = s.pages := rfl
@[simp] theorem endOp_resets (tag : Nat) (r : Result) (s : State) : (endOp tag r s).resets = s.resets := rfl
@[simp] theorem endOp_place (tag : Nat) (r : Result) (s : State) : (endOp tag r s).place = s.place := rfl
@[simp] theorem endOp_dmem (tag : Nat) (r : Result) (s : State) : (endOp tag r s).dmem = s.dmem := rfl
@[simp] theorem endOp_hmem (tag : Nat) (r : Result) (s : State) : (endOp tag r s).hmem = s.hmem := rfl
@[simp] theorem endOp_memStacks (tag : Nat) (r : Result) (s : State) : (endOp tag r s).memStacks = s.memStacks := rfl
@[simp] theorem endOp_windows (tag : Nat) (r : Result) (s : State) : (endOp tag r s).windows = s.windows := rfl
@[simp] theorem endOp_cxl (tag : Nat) (r : Result) (s : State) : (endOp tag r s).cxl = s.cxl := rfl
@[simp] theorem endOp_kv (tag : Nat) (r : Result) (s : State) : (endOp tag r s).kv = s.kv := rfl
@[simp] theorem endOp_ats (tag : Nat) (r : Result) (s : State) : (endOp tag r s).ats = s.ats := rfl
@[simp] theorem endOp_pris (tag : Nat) (r : Result) (s : State) : (endOp tag r s).pris = s.pris := rfl
@[simp] theorem endOp_bar2Waits (tag : Nat) (r : Result) (s : State) : (endOp tag r s).bar2Waits = s.bar2Waits := rfl
@[simp] theorem endOp_copies (tag : Nat) (r : Result) (s : State) : (endOp tag r s).copies = s.copies := rfl
@[simp] theorem endOp_priTimeout (tag : Nat) (r : Result) (s : State) : (endOp tag r s).priTimeout = s.priTimeout := rfl
@[simp] theorem endOp_images (tag : Nat) (r : Result) (s : State) : (endOp tag r s).images = s.images := rfl
@[simp] theorem endOp_contexts (tag : Nat) (r : Result) (s : State) : (endOp tag r s).contexts = s.contexts := rfl
@[simp] theorem endOp_trns (tag : Nat) (r : Result) (s : State) : (endOp tag r s).trns = s.trns := rfl
@[simp] theorem endOp_trnHeld (tag : Nat) (r : Result) (s : State) : (endOp tag r s).trnHeld = s.trnHeld := rfl
@[simp] theorem endOp_watchers (tag : Nat) (r : Result) (s : State) : (endOp tag r s).watchers = s.watchers := rfl
@[simp] theorem endOp_noc (tag : Nat) (r : Result) (s : State) : (endOp tag r s).noc = s.noc := rfl
@[simp] theorem endOp_casc (tag : Nat) (r : Result) (s : State) : (endOp tag r s).casc = s.casc := rfl
@[simp] theorem endOp_mid (tag : Nat) (r : Result) (s : State) : (endOp tag r s).mid = s.mid := rfl
@[simp] theorem endOp_cfg (tag : Nat) (r : Result) (s : State) : (endOp tag r s).cfg = s.cfg := rfl
@[simp] theorem endOp_nextOrder (tag : Nat) (r : Result) (s : State) : (endOp tag r s).nextOrder = s.nextOrder := rfl
@[simp] theorem endOp_counters (tag : Nat) (r : Result) (s : State) : (endOp tag r s).counters = s.counters := rfl
@[simp] theorem endOp_works (tag : Nat) (r : Result) (s : State) : (endOp tag r s).works = s.works := rfl
@[simp] theorem endOp_worksSeen (tag : Nat) (r : Result) (s : State) : (endOp tag r s).worksSeen = s.worksSeen := rfl

@[simp] theorem leaveBuffers_pending (tag : Nat) (s : State) : (leaveBuffers tag s).pending = s.pending := rfl
@[simp] theorem leaveBuffers_outbox (tag : Nat) (s : State) : (leaveBuffers tag s).outbox = s.outbox := rfl
@[simp] theorem leaveBuffers_time (tag : Nat) (s : State) : (leaveBuffers tag s).time = s.time := rfl
@[simp] theorem leaveBuffers_fresh (tag : Nat) (s : State) : (leaveBuffers tag s).fresh = s.fresh := rfl
@[simp] theorem leaveBuffers_variant (tag : Nat) (s : State) : (leaveBuffers tag s).variant = s.variant := rfl
@[simp] theorem leaveBuffers_fused (tag : Nat) (s : State) : (leaveBuffers tag s).fused = s.fused := rfl
@[simp] theorem leaveBuffers_mor (tag : Nat) (s : State) : (leaveBuffers tag s).mor = s.mor := rfl
@[simp] theorem leaveBuffers_ice (tag : Nat) (s : State) : (leaveBuffers tag s).ice = s.ice := rfl
@[simp] theorem leaveBuffers_pwr (tag : Nat) (s : State) : (leaveBuffers tag s).pwr = s.pwr := rfl
@[simp] theorem leaveBuffers_st (tag : Nat) (s : State) : (leaveBuffers tag s).st = s.st := rfl
@[simp] theorem leaveBuffers_funcs (tag : Nat) (s : State) : (leaveBuffers tag s).funcs = s.funcs := rfl
@[simp] theorem leaveBuffers_link (tag : Nat) (s : State) : (leaveBuffers tag s).link = s.link := rfl
@[simp] theorem leaveBuffers_dropped (tag : Nat) (s : State) : (leaveBuffers tag s).dropped = s.dropped := rfl
@[simp] theorem leaveBuffers_groups (tag : Nat) (s : State) : (leaveBuffers tag s).groups = s.groups := rfl
@[simp] theorem leaveBuffers_queues (tag : Nat) (s : State) : (leaveBuffers tag s).queues = s.queues := rfl
@[simp] theorem leaveBuffers_arb (tag : Nat) (s : State) : (leaveBuffers tag s).arb = s.arb := rfl
@[simp] theorem leaveBuffers_ops (tag : Nat) (s : State) : (leaveBuffers tag s).ops = s.ops := rfl
@[simp] theorem leaveBuffers_nextTag (tag : Nat) (s : State) : (leaveBuffers tag s).nextTag = s.nextTag := rfl
@[simp] theorem leaveBuffers_pages (tag : Nat) (s : State) : (leaveBuffers tag s).pages = s.pages := rfl
@[simp] theorem leaveBuffers_resets (tag : Nat) (s : State) : (leaveBuffers tag s).resets = s.resets := rfl
@[simp] theorem leaveBuffers_place (tag : Nat) (s : State) : (leaveBuffers tag s).place = s.place := rfl
@[simp] theorem leaveBuffers_dmem (tag : Nat) (s : State) : (leaveBuffers tag s).dmem = s.dmem := rfl
@[simp] theorem leaveBuffers_hmem (tag : Nat) (s : State) : (leaveBuffers tag s).hmem = s.hmem := rfl
@[simp] theorem leaveBuffers_fills (tag : Nat) (s : State) : (leaveBuffers tag s).fills = s.fills := rfl
@[simp] theorem leaveBuffers_memStacks (tag : Nat) (s : State) : (leaveBuffers tag s).memStacks = s.memStacks := rfl
@[simp] theorem leaveBuffers_windows (tag : Nat) (s : State) : (leaveBuffers tag s).windows = s.windows := rfl
@[simp] theorem leaveBuffers_cxl (tag : Nat) (s : State) : (leaveBuffers tag s).cxl = s.cxl := rfl
@[simp] theorem leaveBuffers_kv (tag : Nat) (s : State) : (leaveBuffers tag s).kv = s.kv := rfl
@[simp] theorem leaveBuffers_ats (tag : Nat) (s : State) : (leaveBuffers tag s).ats = s.ats := rfl
@[simp] theorem leaveBuffers_pris (tag : Nat) (s : State) : (leaveBuffers tag s).pris = s.pris := rfl
@[simp] theorem leaveBuffers_bar2Waits (tag : Nat) (s : State) : (leaveBuffers tag s).bar2Waits = s.bar2Waits := rfl
@[simp] theorem leaveBuffers_copies (tag : Nat) (s : State) : (leaveBuffers tag s).copies = s.copies := rfl
@[simp] theorem leaveBuffers_priTimeout (tag : Nat) (s : State) : (leaveBuffers tag s).priTimeout = s.priTimeout := rfl
@[simp] theorem leaveBuffers_tiles (tag : Nat) (s : State) : (leaveBuffers tag s).tiles = s.tiles := rfl
@[simp] theorem leaveBuffers_images (tag : Nat) (s : State) : (leaveBuffers tag s).images = s.images := rfl
@[simp] theorem leaveBuffers_contexts (tag : Nat) (s : State) : (leaveBuffers tag s).contexts = s.contexts := rfl
@[simp] theorem leaveBuffers_trns (tag : Nat) (s : State) : (leaveBuffers tag s).trns = s.trns := rfl
@[simp] theorem leaveBuffers_trnHeld (tag : Nat) (s : State) : (leaveBuffers tag s).trnHeld = s.trnHeld := rfl
@[simp] theorem leaveBuffers_watchers (tag : Nat) (s : State) : (leaveBuffers tag s).watchers = s.watchers := rfl
@[simp] theorem leaveBuffers_noc (tag : Nat) (s : State) : (leaveBuffers tag s).noc = s.noc := rfl
@[simp] theorem leaveBuffers_casc (tag : Nat) (s : State) : (leaveBuffers tag s).casc = s.casc := rfl
@[simp] theorem leaveBuffers_mid (tag : Nat) (s : State) : (leaveBuffers tag s).mid = s.mid := rfl
@[simp] theorem leaveBuffers_cfg (tag : Nat) (s : State) : (leaveBuffers tag s).cfg = s.cfg := rfl
@[simp] theorem leaveBuffers_nextOrder (tag : Nat) (s : State) : (leaveBuffers tag s).nextOrder = s.nextOrder := rfl
@[simp] theorem leaveBuffers_counters (tag : Nat) (s : State) : (leaveBuffers tag s).counters = s.counters := rfl
@[simp] theorem leaveBuffers_works (tag : Nat) (s : State) : (leaveBuffers tag s).works = s.works := rfl
@[simp] theorem leaveBuffers_worksSeen (tag : Nat) (s : State) : (leaveBuffers tag s).worksSeen = s.worksSeen := rfl

@[simp] theorem freeSlots_pending (p : Nat → Bool) (s : State) : (freeSlots p s).pending = s.pending := rfl
@[simp] theorem freeSlots_outbox (p : Nat → Bool) (s : State) : (freeSlots p s).outbox = s.outbox := rfl
@[simp] theorem freeSlots_time (p : Nat → Bool) (s : State) : (freeSlots p s).time = s.time := rfl
@[simp] theorem freeSlots_fresh (p : Nat → Bool) (s : State) : (freeSlots p s).fresh = s.fresh := rfl
@[simp] theorem freeSlots_variant (p : Nat → Bool) (s : State) : (freeSlots p s).variant = s.variant := rfl
@[simp] theorem freeSlots_fused (p : Nat → Bool) (s : State) : (freeSlots p s).fused = s.fused := rfl
@[simp] theorem freeSlots_mor (p : Nat → Bool) (s : State) : (freeSlots p s).mor = s.mor := rfl
@[simp] theorem freeSlots_ice (p : Nat → Bool) (s : State) : (freeSlots p s).ice = s.ice := rfl
@[simp] theorem freeSlots_pwr (p : Nat → Bool) (s : State) : (freeSlots p s).pwr = s.pwr := rfl
@[simp] theorem freeSlots_st (p : Nat → Bool) (s : State) : (freeSlots p s).st = s.st := rfl
@[simp] theorem freeSlots_funcs (p : Nat → Bool) (s : State) : (freeSlots p s).funcs = s.funcs := rfl
@[simp] theorem freeSlots_link (p : Nat → Bool) (s : State) : (freeSlots p s).link = s.link := rfl
@[simp] theorem freeSlots_dropped (p : Nat → Bool) (s : State) : (freeSlots p s).dropped = s.dropped := rfl
@[simp] theorem freeSlots_groups (p : Nat → Bool) (s : State) : (freeSlots p s).groups = s.groups := rfl
@[simp] theorem freeSlots_queues (p : Nat → Bool) (s : State) : (freeSlots p s).queues = s.queues := rfl
@[simp] theorem freeSlots_arb (p : Nat → Bool) (s : State) : (freeSlots p s).arb = s.arb := rfl
@[simp] theorem freeSlots_ops (p : Nat → Bool) (s : State) : (freeSlots p s).ops = s.ops := rfl
@[simp] theorem freeSlots_nextTag (p : Nat → Bool) (s : State) : (freeSlots p s).nextTag = s.nextTag := rfl
@[simp] theorem freeSlots_pages (p : Nat → Bool) (s : State) : (freeSlots p s).pages = s.pages := rfl
@[simp] theorem freeSlots_resets (p : Nat → Bool) (s : State) : (freeSlots p s).resets = s.resets := rfl
@[simp] theorem freeSlots_place (p : Nat → Bool) (s : State) : (freeSlots p s).place = s.place := rfl
@[simp] theorem freeSlots_dmem (p : Nat → Bool) (s : State) : (freeSlots p s).dmem = s.dmem := rfl
@[simp] theorem freeSlots_hmem (p : Nat → Bool) (s : State) : (freeSlots p s).hmem = s.hmem := rfl
@[simp] theorem freeSlots_fills (p : Nat → Bool) (s : State) : (freeSlots p s).fills = s.fills := rfl
@[simp] theorem freeSlots_memStacks (p : Nat → Bool) (s : State) : (freeSlots p s).memStacks = s.memStacks := rfl
@[simp] theorem freeSlots_windows (p : Nat → Bool) (s : State) : (freeSlots p s).windows = s.windows := rfl
@[simp] theorem freeSlots_cxl (p : Nat → Bool) (s : State) : (freeSlots p s).cxl = s.cxl := rfl
@[simp] theorem freeSlots_kv (p : Nat → Bool) (s : State) : (freeSlots p s).kv = s.kv := rfl
@[simp] theorem freeSlots_ats (p : Nat → Bool) (s : State) : (freeSlots p s).ats = s.ats := rfl
@[simp] theorem freeSlots_pris (p : Nat → Bool) (s : State) : (freeSlots p s).pris = s.pris := rfl
@[simp] theorem freeSlots_bar2Waits (p : Nat → Bool) (s : State) : (freeSlots p s).bar2Waits = s.bar2Waits := rfl
@[simp] theorem freeSlots_copies (p : Nat → Bool) (s : State) : (freeSlots p s).copies = s.copies := rfl
@[simp] theorem freeSlots_priTimeout (p : Nat → Bool) (s : State) : (freeSlots p s).priTimeout = s.priTimeout := rfl
@[simp] theorem freeSlots_images (p : Nat → Bool) (s : State) : (freeSlots p s).images = s.images := rfl
@[simp] theorem freeSlots_contexts (p : Nat → Bool) (s : State) : (freeSlots p s).contexts = s.contexts := rfl
@[simp] theorem freeSlots_floe (p : Nat → Bool) (s : State) : (freeSlots p s).floe = s.floe := rfl
@[simp] theorem freeSlots_trns (p : Nat → Bool) (s : State) : (freeSlots p s).trns = s.trns := rfl
@[simp] theorem freeSlots_trnHeld (p : Nat → Bool) (s : State) : (freeSlots p s).trnHeld = s.trnHeld := rfl
@[simp] theorem freeSlots_watchers (p : Nat → Bool) (s : State) : (freeSlots p s).watchers = s.watchers := rfl
@[simp] theorem freeSlots_noc (p : Nat → Bool) (s : State) : (freeSlots p s).noc = s.noc := rfl
@[simp] theorem freeSlots_casc (p : Nat → Bool) (s : State) : (freeSlots p s).casc = s.casc := rfl
@[simp] theorem freeSlots_mid (p : Nat → Bool) (s : State) : (freeSlots p s).mid = s.mid := rfl
@[simp] theorem freeSlots_cfg (p : Nat → Bool) (s : State) : (freeSlots p s).cfg = s.cfg := rfl
@[simp] theorem freeSlots_nextOrder (p : Nat → Bool) (s : State) : (freeSlots p s).nextOrder = s.nextOrder := rfl
@[simp] theorem freeSlots_counters (p : Nat → Bool) (s : State) : (freeSlots p s).counters = s.counters := rfl
@[simp] theorem freeSlots_works (p : Nat → Bool) (s : State) : (freeSlots p s).works = s.works := rfl
@[simp] theorem freeSlots_worksSeen (p : Nat → Bool) (s : State) : (freeSlots p s).worksSeen = s.worksSeen := rfl

@[simp] theorem putPort_pending (s : State) (m : Nat) (x : MidPort) : (putPort s m x).pending = s.pending := rfl
@[simp] theorem putPort_time (s : State) (m : Nat) (x : MidPort) : (putPort s m x).time = s.time := rfl
@[simp] theorem putPort_fresh (s : State) (m : Nat) (x : MidPort) : (putPort s m x).fresh = s.fresh := rfl
@[simp] theorem putPort_variant (s : State) (m : Nat) (x : MidPort) : (putPort s m x).variant = s.variant := rfl
@[simp] theorem putPort_fused (s : State) (m : Nat) (x : MidPort) : (putPort s m x).fused = s.fused := rfl
@[simp] theorem putPort_mor (s : State) (m : Nat) (x : MidPort) : (putPort s m x).mor = s.mor := rfl
@[simp] theorem putPort_ice (s : State) (m : Nat) (x : MidPort) : (putPort s m x).ice = s.ice := rfl
@[simp] theorem putPort_pwr (s : State) (m : Nat) (x : MidPort) : (putPort s m x).pwr = s.pwr := rfl
@[simp] theorem putPort_st (s : State) (m : Nat) (x : MidPort) : (putPort s m x).st = s.st := rfl
@[simp] theorem putPort_funcs (s : State) (m : Nat) (x : MidPort) : (putPort s m x).funcs = s.funcs := rfl
@[simp] theorem putPort_link (s : State) (m : Nat) (x : MidPort) : (putPort s m x).link = s.link := rfl
@[simp] theorem putPort_dropped (s : State) (m : Nat) (x : MidPort) : (putPort s m x).dropped = s.dropped := rfl
@[simp] theorem putPort_groups (s : State) (m : Nat) (x : MidPort) : (putPort s m x).groups = s.groups := rfl
@[simp] theorem putPort_queues (s : State) (m : Nat) (x : MidPort) : (putPort s m x).queues = s.queues := rfl
@[simp] theorem putPort_arb (s : State) (m : Nat) (x : MidPort) : (putPort s m x).arb = s.arb := rfl
@[simp] theorem putPort_ops (s : State) (m : Nat) (x : MidPort) : (putPort s m x).ops = s.ops := rfl
@[simp] theorem putPort_nextTag (s : State) (m : Nat) (x : MidPort) : (putPort s m x).nextTag = s.nextTag := rfl
@[simp] theorem putPort_pages (s : State) (m : Nat) (x : MidPort) : (putPort s m x).pages = s.pages := rfl
@[simp] theorem putPort_resets (s : State) (m : Nat) (x : MidPort) : (putPort s m x).resets = s.resets := rfl
@[simp] theorem putPort_place (s : State) (m : Nat) (x : MidPort) : (putPort s m x).place = s.place := rfl
@[simp] theorem putPort_dmem (s : State) (m : Nat) (x : MidPort) : (putPort s m x).dmem = s.dmem := rfl
@[simp] theorem putPort_hmem (s : State) (m : Nat) (x : MidPort) : (putPort s m x).hmem = s.hmem := rfl
@[simp] theorem putPort_fills (s : State) (m : Nat) (x : MidPort) : (putPort s m x).fills = s.fills := rfl
@[simp] theorem putPort_memStacks (s : State) (m : Nat) (x : MidPort) : (putPort s m x).memStacks = s.memStacks := rfl
@[simp] theorem putPort_windows (s : State) (m : Nat) (x : MidPort) : (putPort s m x).windows = s.windows := rfl
@[simp] theorem putPort_cxl (s : State) (m : Nat) (x : MidPort) : (putPort s m x).cxl = s.cxl := rfl
@[simp] theorem putPort_kv (s : State) (m : Nat) (x : MidPort) : (putPort s m x).kv = s.kv := rfl
@[simp] theorem putPort_ats (s : State) (m : Nat) (x : MidPort) : (putPort s m x).ats = s.ats := rfl
@[simp] theorem putPort_pris (s : State) (m : Nat) (x : MidPort) : (putPort s m x).pris = s.pris := rfl
@[simp] theorem putPort_bar2Waits (s : State) (m : Nat) (x : MidPort) : (putPort s m x).bar2Waits = s.bar2Waits := rfl
@[simp] theorem putPort_copies (s : State) (m : Nat) (x : MidPort) : (putPort s m x).copies = s.copies := rfl
@[simp] theorem putPort_priTimeout (s : State) (m : Nat) (x : MidPort) : (putPort s m x).priTimeout = s.priTimeout := rfl
@[simp] theorem putPort_tiles (s : State) (m : Nat) (x : MidPort) : (putPort s m x).tiles = s.tiles := rfl
@[simp] theorem putPort_images (s : State) (m : Nat) (x : MidPort) : (putPort s m x).images = s.images := rfl
@[simp] theorem putPort_contexts (s : State) (m : Nat) (x : MidPort) : (putPort s m x).contexts = s.contexts := rfl
@[simp] theorem putPort_floe (s : State) (m : Nat) (x : MidPort) : (putPort s m x).floe = s.floe := rfl
@[simp] theorem putPort_trns (s : State) (m : Nat) (x : MidPort) : (putPort s m x).trns = s.trns := rfl
@[simp] theorem putPort_trnHeld (s : State) (m : Nat) (x : MidPort) : (putPort s m x).trnHeld = s.trnHeld := rfl
@[simp] theorem putPort_watchers (s : State) (m : Nat) (x : MidPort) : (putPort s m x).watchers = s.watchers := rfl
@[simp] theorem putPort_noc (s : State) (m : Nat) (x : MidPort) : (putPort s m x).noc = s.noc := rfl
@[simp] theorem putPort_casc (s : State) (m : Nat) (x : MidPort) : (putPort s m x).casc = s.casc := rfl
@[simp] theorem putPort_cfg (s : State) (m : Nat) (x : MidPort) : (putPort s m x).cfg = s.cfg := rfl
@[simp] theorem putPort_nextOrder (s : State) (m : Nat) (x : MidPort) : (putPort s m x).nextOrder = s.nextOrder := rfl
@[simp] theorem putPort_counters (s : State) (m : Nat) (x : MidPort) : (putPort s m x).counters = s.counters := rfl
@[simp] theorem putPort_works (s : State) (m : Nat) (x : MidPort) : (putPort s m x).works = s.works := rfl
@[simp] theorem putPort_worksSeen (s : State) (m : Nat) (x : MidPort) : (putPort s m x).worksSeen = s.worksSeen := rfl

@[simp] theorem emit_pending (o : Out) (s : State) : (emit o s).pending = s.pending := rfl
@[simp] theorem emit_time (o : Out) (s : State) : (emit o s).time = s.time := rfl
@[simp] theorem emit_fresh (o : Out) (s : State) : (emit o s).fresh = s.fresh := rfl
@[simp] theorem emit_variant (o : Out) (s : State) : (emit o s).variant = s.variant := rfl
@[simp] theorem emit_fused (o : Out) (s : State) : (emit o s).fused = s.fused := rfl
@[simp] theorem emit_mor (o : Out) (s : State) : (emit o s).mor = s.mor := rfl
@[simp] theorem emit_ice (o : Out) (s : State) : (emit o s).ice = s.ice := rfl
@[simp] theorem emit_pwr (o : Out) (s : State) : (emit o s).pwr = s.pwr := rfl
@[simp] theorem emit_st (o : Out) (s : State) : (emit o s).st = s.st := rfl
@[simp] theorem emit_funcs (o : Out) (s : State) : (emit o s).funcs = s.funcs := rfl
@[simp] theorem emit_link (o : Out) (s : State) : (emit o s).link = s.link := rfl
@[simp] theorem emit_dropped (o : Out) (s : State) : (emit o s).dropped = s.dropped := rfl
@[simp] theorem emit_groups (o : Out) (s : State) : (emit o s).groups = s.groups := rfl
@[simp] theorem emit_queues (o : Out) (s : State) : (emit o s).queues = s.queues := rfl
@[simp] theorem emit_arb (o : Out) (s : State) : (emit o s).arb = s.arb := rfl
@[simp] theorem emit_ops (o : Out) (s : State) : (emit o s).ops = s.ops := rfl
@[simp] theorem emit_nextTag (o : Out) (s : State) : (emit o s).nextTag = s.nextTag := rfl
@[simp] theorem emit_pages (o : Out) (s : State) : (emit o s).pages = s.pages := rfl
@[simp] theorem emit_resets (o : Out) (s : State) : (emit o s).resets = s.resets := rfl
@[simp] theorem emit_place (o : Out) (s : State) : (emit o s).place = s.place := rfl
@[simp] theorem emit_dmem (o : Out) (s : State) : (emit o s).dmem = s.dmem := rfl
@[simp] theorem emit_hmem (o : Out) (s : State) : (emit o s).hmem = s.hmem := rfl
@[simp] theorem emit_fills (o : Out) (s : State) : (emit o s).fills = s.fills := rfl
@[simp] theorem emit_memStacks (o : Out) (s : State) : (emit o s).memStacks = s.memStacks := rfl
@[simp] theorem emit_windows (o : Out) (s : State) : (emit o s).windows = s.windows := rfl
@[simp] theorem emit_cxl (o : Out) (s : State) : (emit o s).cxl = s.cxl := rfl
@[simp] theorem emit_kv (o : Out) (s : State) : (emit o s).kv = s.kv := rfl
@[simp] theorem emit_ats (o : Out) (s : State) : (emit o s).ats = s.ats := rfl
@[simp] theorem emit_pris (o : Out) (s : State) : (emit o s).pris = s.pris := rfl
@[simp] theorem emit_bar2Waits (o : Out) (s : State) : (emit o s).bar2Waits = s.bar2Waits := rfl
@[simp] theorem emit_copies (o : Out) (s : State) : (emit o s).copies = s.copies := rfl
@[simp] theorem emit_priTimeout (o : Out) (s : State) : (emit o s).priTimeout = s.priTimeout := rfl
@[simp] theorem emit_tiles (o : Out) (s : State) : (emit o s).tiles = s.tiles := rfl
@[simp] theorem emit_images (o : Out) (s : State) : (emit o s).images = s.images := rfl
@[simp] theorem emit_contexts (o : Out) (s : State) : (emit o s).contexts = s.contexts := rfl
@[simp] theorem emit_floe (o : Out) (s : State) : (emit o s).floe = s.floe := rfl
@[simp] theorem emit_trns (o : Out) (s : State) : (emit o s).trns = s.trns := rfl
@[simp] theorem emit_trnHeld (o : Out) (s : State) : (emit o s).trnHeld = s.trnHeld := rfl
@[simp] theorem emit_watchers (o : Out) (s : State) : (emit o s).watchers = s.watchers := rfl
@[simp] theorem emit_noc (o : Out) (s : State) : (emit o s).noc = s.noc := rfl
@[simp] theorem emit_casc (o : Out) (s : State) : (emit o s).casc = s.casc := rfl
@[simp] theorem emit_mid (o : Out) (s : State) : (emit o s).mid = s.mid := rfl
@[simp] theorem emit_cfg (o : Out) (s : State) : (emit o s).cfg = s.cfg := rfl
@[simp] theorem emit_nextOrder (o : Out) (s : State) : (emit o s).nextOrder = s.nextOrder := rfl
@[simp] theorem emit_counters (o : Out) (s : State) : (emit o s).counters = s.counters := rfl
@[simp] theorem emit_works (o : Out) (s : State) : (emit o s).works = s.works := rfl
@[simp] theorem emit_worksSeen (o : Out) (s : State) : (emit o s).worksSeen = s.worksSeen := rfl

@[simp] theorem takeFree_pending (w : Nat) (s : State) : (takeFree w s).2.pending = s.pending := rfl
@[simp] theorem takeFree_outbox (w : Nat) (s : State) : (takeFree w s).2.outbox = s.outbox := rfl
@[simp] theorem takeFree_time (w : Nat) (s : State) : (takeFree w s).2.time = s.time := rfl
@[simp] theorem takeFree_variant (w : Nat) (s : State) : (takeFree w s).2.variant = s.variant := rfl
@[simp] theorem takeFree_fused (w : Nat) (s : State) : (takeFree w s).2.fused = s.fused := rfl
@[simp] theorem takeFree_mor (w : Nat) (s : State) : (takeFree w s).2.mor = s.mor := rfl
@[simp] theorem takeFree_ice (w : Nat) (s : State) : (takeFree w s).2.ice = s.ice := rfl
@[simp] theorem takeFree_pwr (w : Nat) (s : State) : (takeFree w s).2.pwr = s.pwr := rfl
@[simp] theorem takeFree_st (w : Nat) (s : State) : (takeFree w s).2.st = s.st := rfl
@[simp] theorem takeFree_funcs (w : Nat) (s : State) : (takeFree w s).2.funcs = s.funcs := rfl
@[simp] theorem takeFree_link (w : Nat) (s : State) : (takeFree w s).2.link = s.link := rfl
@[simp] theorem takeFree_dropped (w : Nat) (s : State) : (takeFree w s).2.dropped = s.dropped := rfl
@[simp] theorem takeFree_groups (w : Nat) (s : State) : (takeFree w s).2.groups = s.groups := rfl
@[simp] theorem takeFree_queues (w : Nat) (s : State) : (takeFree w s).2.queues = s.queues := rfl
@[simp] theorem takeFree_arb (w : Nat) (s : State) : (takeFree w s).2.arb = s.arb := rfl
@[simp] theorem takeFree_ops (w : Nat) (s : State) : (takeFree w s).2.ops = s.ops := rfl
@[simp] theorem takeFree_nextTag (w : Nat) (s : State) : (takeFree w s).2.nextTag = s.nextTag := rfl
@[simp] theorem takeFree_pages (w : Nat) (s : State) : (takeFree w s).2.pages = s.pages := rfl
@[simp] theorem takeFree_resets (w : Nat) (s : State) : (takeFree w s).2.resets = s.resets := rfl
@[simp] theorem takeFree_place (w : Nat) (s : State) : (takeFree w s).2.place = s.place := rfl
@[simp] theorem takeFree_dmem (w : Nat) (s : State) : (takeFree w s).2.dmem = s.dmem := rfl
@[simp] theorem takeFree_hmem (w : Nat) (s : State) : (takeFree w s).2.hmem = s.hmem := rfl
@[simp] theorem takeFree_fills (w : Nat) (s : State) : (takeFree w s).2.fills = s.fills := rfl
@[simp] theorem takeFree_memStacks (w : Nat) (s : State) : (takeFree w s).2.memStacks = s.memStacks := rfl
@[simp] theorem takeFree_windows (w : Nat) (s : State) : (takeFree w s).2.windows = s.windows := rfl
@[simp] theorem takeFree_cxl (w : Nat) (s : State) : (takeFree w s).2.cxl = s.cxl := rfl
@[simp] theorem takeFree_kv (w : Nat) (s : State) : (takeFree w s).2.kv = s.kv := rfl
@[simp] theorem takeFree_ats (w : Nat) (s : State) : (takeFree w s).2.ats = s.ats := rfl
@[simp] theorem takeFree_pris (w : Nat) (s : State) : (takeFree w s).2.pris = s.pris := rfl
@[simp] theorem takeFree_bar2Waits (w : Nat) (s : State) : (takeFree w s).2.bar2Waits = s.bar2Waits := rfl
@[simp] theorem takeFree_copies (w : Nat) (s : State) : (takeFree w s).2.copies = s.copies := rfl
@[simp] theorem takeFree_priTimeout (w : Nat) (s : State) : (takeFree w s).2.priTimeout = s.priTimeout := rfl
@[simp] theorem takeFree_tiles (w : Nat) (s : State) : (takeFree w s).2.tiles = s.tiles := rfl
@[simp] theorem takeFree_images (w : Nat) (s : State) : (takeFree w s).2.images = s.images := rfl
@[simp] theorem takeFree_contexts (w : Nat) (s : State) : (takeFree w s).2.contexts = s.contexts := rfl
@[simp] theorem takeFree_floe (w : Nat) (s : State) : (takeFree w s).2.floe = s.floe := rfl
@[simp] theorem takeFree_trns (w : Nat) (s : State) : (takeFree w s).2.trns = s.trns := rfl
@[simp] theorem takeFree_trnHeld (w : Nat) (s : State) : (takeFree w s).2.trnHeld = s.trnHeld := rfl
@[simp] theorem takeFree_watchers (w : Nat) (s : State) : (takeFree w s).2.watchers = s.watchers := rfl
@[simp] theorem takeFree_noc (w : Nat) (s : State) : (takeFree w s).2.noc = s.noc := rfl
@[simp] theorem takeFree_casc (w : Nat) (s : State) : (takeFree w s).2.casc = s.casc := rfl
@[simp] theorem takeFree_mid (w : Nat) (s : State) : (takeFree w s).2.mid = s.mid := rfl
@[simp] theorem takeFree_cfg (w : Nat) (s : State) : (takeFree w s).2.cfg = s.cfg := rfl
@[simp] theorem takeFree_nextOrder (w : Nat) (s : State) : (takeFree w s).2.nextOrder = s.nextOrder := rfl
@[simp] theorem takeFree_counters (w : Nat) (s : State) : (takeFree w s).2.counters = s.counters := rfl
@[simp] theorem takeFree_works (w : Nat) (s : State) : (takeFree w s).2.works = s.works := rfl
@[simp] theorem takeFree_worksSeen (w : Nat) (s : State) : (takeFree w s).2.worksSeen = s.worksSeen := rfl

@[simp] theorem setTrn_pending (s : State) (t : Nat) (x : Turnstile) : (setTrn s t x).pending = s.pending := rfl
@[simp] theorem setTrn_outbox (s : State) (t : Nat) (x : Turnstile) : (setTrn s t x).outbox = s.outbox := rfl
@[simp] theorem setTrn_time (s : State) (t : Nat) (x : Turnstile) : (setTrn s t x).time = s.time := rfl
@[simp] theorem setTrn_fresh (s : State) (t : Nat) (x : Turnstile) : (setTrn s t x).fresh = s.fresh := rfl
@[simp] theorem setTrn_variant (s : State) (t : Nat) (x : Turnstile) : (setTrn s t x).variant = s.variant := rfl
@[simp] theorem setTrn_fused (s : State) (t : Nat) (x : Turnstile) : (setTrn s t x).fused = s.fused := rfl
@[simp] theorem setTrn_mor (s : State) (t : Nat) (x : Turnstile) : (setTrn s t x).mor = s.mor := rfl
@[simp] theorem setTrn_ice (s : State) (t : Nat) (x : Turnstile) : (setTrn s t x).ice = s.ice := rfl
@[simp] theorem setTrn_pwr (s : State) (t : Nat) (x : Turnstile) : (setTrn s t x).pwr = s.pwr := rfl
@[simp] theorem setTrn_st (s : State) (t : Nat) (x : Turnstile) : (setTrn s t x).st = s.st := rfl
@[simp] theorem setTrn_funcs (s : State) (t : Nat) (x : Turnstile) : (setTrn s t x).funcs = s.funcs := rfl
@[simp] theorem setTrn_link (s : State) (t : Nat) (x : Turnstile) : (setTrn s t x).link = s.link := rfl
@[simp] theorem setTrn_dropped (s : State) (t : Nat) (x : Turnstile) : (setTrn s t x).dropped = s.dropped := rfl
@[simp] theorem setTrn_groups (s : State) (t : Nat) (x : Turnstile) : (setTrn s t x).groups = s.groups := rfl
@[simp] theorem setTrn_queues (s : State) (t : Nat) (x : Turnstile) : (setTrn s t x).queues = s.queues := rfl
@[simp] theorem setTrn_arb (s : State) (t : Nat) (x : Turnstile) : (setTrn s t x).arb = s.arb := rfl
@[simp] theorem setTrn_ops (s : State) (t : Nat) (x : Turnstile) : (setTrn s t x).ops = s.ops := rfl
@[simp] theorem setTrn_nextTag (s : State) (t : Nat) (x : Turnstile) : (setTrn s t x).nextTag = s.nextTag := rfl
@[simp] theorem setTrn_pages (s : State) (t : Nat) (x : Turnstile) : (setTrn s t x).pages = s.pages := rfl
@[simp] theorem setTrn_resets (s : State) (t : Nat) (x : Turnstile) : (setTrn s t x).resets = s.resets := rfl
@[simp] theorem setTrn_place (s : State) (t : Nat) (x : Turnstile) : (setTrn s t x).place = s.place := rfl
@[simp] theorem setTrn_dmem (s : State) (t : Nat) (x : Turnstile) : (setTrn s t x).dmem = s.dmem := rfl
@[simp] theorem setTrn_hmem (s : State) (t : Nat) (x : Turnstile) : (setTrn s t x).hmem = s.hmem := rfl
@[simp] theorem setTrn_fills (s : State) (t : Nat) (x : Turnstile) : (setTrn s t x).fills = s.fills := rfl
@[simp] theorem setTrn_memStacks (s : State) (t : Nat) (x : Turnstile) : (setTrn s t x).memStacks = s.memStacks := rfl
@[simp] theorem setTrn_windows (s : State) (t : Nat) (x : Turnstile) : (setTrn s t x).windows = s.windows := rfl
@[simp] theorem setTrn_cxl (s : State) (t : Nat) (x : Turnstile) : (setTrn s t x).cxl = s.cxl := rfl
@[simp] theorem setTrn_kv (s : State) (t : Nat) (x : Turnstile) : (setTrn s t x).kv = s.kv := rfl
@[simp] theorem setTrn_ats (s : State) (t : Nat) (x : Turnstile) : (setTrn s t x).ats = s.ats := rfl
@[simp] theorem setTrn_pris (s : State) (t : Nat) (x : Turnstile) : (setTrn s t x).pris = s.pris := rfl
@[simp] theorem setTrn_bar2Waits (s : State) (t : Nat) (x : Turnstile) : (setTrn s t x).bar2Waits = s.bar2Waits := rfl
@[simp] theorem setTrn_copies (s : State) (t : Nat) (x : Turnstile) : (setTrn s t x).copies = s.copies := rfl
@[simp] theorem setTrn_priTimeout (s : State) (t : Nat) (x : Turnstile) : (setTrn s t x).priTimeout = s.priTimeout := rfl
@[simp] theorem setTrn_tiles (s : State) (t : Nat) (x : Turnstile) : (setTrn s t x).tiles = s.tiles := rfl
@[simp] theorem setTrn_images (s : State) (t : Nat) (x : Turnstile) : (setTrn s t x).images = s.images := rfl
@[simp] theorem setTrn_contexts (s : State) (t : Nat) (x : Turnstile) : (setTrn s t x).contexts = s.contexts := rfl
@[simp] theorem setTrn_floe (s : State) (t : Nat) (x : Turnstile) : (setTrn s t x).floe = s.floe := rfl
@[simp] theorem setTrn_trnHeld (s : State) (t : Nat) (x : Turnstile) : (setTrn s t x).trnHeld = s.trnHeld := rfl
@[simp] theorem setTrn_watchers (s : State) (t : Nat) (x : Turnstile) : (setTrn s t x).watchers = s.watchers := rfl
@[simp] theorem setTrn_noc (s : State) (t : Nat) (x : Turnstile) : (setTrn s t x).noc = s.noc := rfl
@[simp] theorem setTrn_casc (s : State) (t : Nat) (x : Turnstile) : (setTrn s t x).casc = s.casc := rfl
@[simp] theorem setTrn_mid (s : State) (t : Nat) (x : Turnstile) : (setTrn s t x).mid = s.mid := rfl
@[simp] theorem setTrn_cfg (s : State) (t : Nat) (x : Turnstile) : (setTrn s t x).cfg = s.cfg := rfl
@[simp] theorem setTrn_nextOrder (s : State) (t : Nat) (x : Turnstile) : (setTrn s t x).nextOrder = s.nextOrder := rfl
@[simp] theorem setTrn_counters (s : State) (t : Nat) (x : Turnstile) : (setTrn s t x).counters = s.counters := rfl
@[simp] theorem setTrn_works (s : State) (t : Nat) (x : Turnstile) : (setTrn s t x).works = s.works := rfl
@[simp] theorem setTrn_worksSeen (s : State) (t : Nat) (x : Turnstile) : (setTrn s t x).worksSeen = s.worksSeen := rfl

@[simp] theorem setPort_pending (s : State) (m : Nat) (x : MidPort) : (setPort s m x).pending = s.pending := rfl
@[simp] theorem setPort_outbox (s : State) (m : Nat) (x : MidPort) : (setPort s m x).outbox = s.outbox := rfl
@[simp] theorem setPort_time (s : State) (m : Nat) (x : MidPort) : (setPort s m x).time = s.time := rfl
@[simp] theorem setPort_fresh (s : State) (m : Nat) (x : MidPort) : (setPort s m x).fresh = s.fresh := rfl
@[simp] theorem setPort_variant (s : State) (m : Nat) (x : MidPort) : (setPort s m x).variant = s.variant := rfl
@[simp] theorem setPort_fused (s : State) (m : Nat) (x : MidPort) : (setPort s m x).fused = s.fused := rfl
@[simp] theorem setPort_mor (s : State) (m : Nat) (x : MidPort) : (setPort s m x).mor = s.mor := rfl
@[simp] theorem setPort_ice (s : State) (m : Nat) (x : MidPort) : (setPort s m x).ice = s.ice := rfl
@[simp] theorem setPort_pwr (s : State) (m : Nat) (x : MidPort) : (setPort s m x).pwr = s.pwr := rfl
@[simp] theorem setPort_st (s : State) (m : Nat) (x : MidPort) : (setPort s m x).st = s.st := rfl
@[simp] theorem setPort_funcs (s : State) (m : Nat) (x : MidPort) : (setPort s m x).funcs = s.funcs := rfl
@[simp] theorem setPort_link (s : State) (m : Nat) (x : MidPort) : (setPort s m x).link = s.link := rfl
@[simp] theorem setPort_dropped (s : State) (m : Nat) (x : MidPort) : (setPort s m x).dropped = s.dropped := rfl
@[simp] theorem setPort_groups (s : State) (m : Nat) (x : MidPort) : (setPort s m x).groups = s.groups := rfl
@[simp] theorem setPort_queues (s : State) (m : Nat) (x : MidPort) : (setPort s m x).queues = s.queues := rfl
@[simp] theorem setPort_arb (s : State) (m : Nat) (x : MidPort) : (setPort s m x).arb = s.arb := rfl
@[simp] theorem setPort_ops (s : State) (m : Nat) (x : MidPort) : (setPort s m x).ops = s.ops := rfl
@[simp] theorem setPort_nextTag (s : State) (m : Nat) (x : MidPort) : (setPort s m x).nextTag = s.nextTag := rfl
@[simp] theorem setPort_pages (s : State) (m : Nat) (x : MidPort) : (setPort s m x).pages = s.pages := rfl
@[simp] theorem setPort_resets (s : State) (m : Nat) (x : MidPort) : (setPort s m x).resets = s.resets := rfl
@[simp] theorem setPort_place (s : State) (m : Nat) (x : MidPort) : (setPort s m x).place = s.place := rfl
@[simp] theorem setPort_dmem (s : State) (m : Nat) (x : MidPort) : (setPort s m x).dmem = s.dmem := rfl
@[simp] theorem setPort_hmem (s : State) (m : Nat) (x : MidPort) : (setPort s m x).hmem = s.hmem := rfl
@[simp] theorem setPort_fills (s : State) (m : Nat) (x : MidPort) : (setPort s m x).fills = s.fills := rfl
@[simp] theorem setPort_memStacks (s : State) (m : Nat) (x : MidPort) : (setPort s m x).memStacks = s.memStacks := rfl
@[simp] theorem setPort_windows (s : State) (m : Nat) (x : MidPort) : (setPort s m x).windows = s.windows := rfl
@[simp] theorem setPort_cxl (s : State) (m : Nat) (x : MidPort) : (setPort s m x).cxl = s.cxl := rfl
@[simp] theorem setPort_kv (s : State) (m : Nat) (x : MidPort) : (setPort s m x).kv = s.kv := rfl
@[simp] theorem setPort_ats (s : State) (m : Nat) (x : MidPort) : (setPort s m x).ats = s.ats := rfl
@[simp] theorem setPort_pris (s : State) (m : Nat) (x : MidPort) : (setPort s m x).pris = s.pris := rfl
@[simp] theorem setPort_bar2Waits (s : State) (m : Nat) (x : MidPort) : (setPort s m x).bar2Waits = s.bar2Waits := rfl
@[simp] theorem setPort_copies (s : State) (m : Nat) (x : MidPort) : (setPort s m x).copies = s.copies := rfl
@[simp] theorem setPort_priTimeout (s : State) (m : Nat) (x : MidPort) : (setPort s m x).priTimeout = s.priTimeout := rfl
@[simp] theorem setPort_tiles (s : State) (m : Nat) (x : MidPort) : (setPort s m x).tiles = s.tiles := rfl
@[simp] theorem setPort_images (s : State) (m : Nat) (x : MidPort) : (setPort s m x).images = s.images := rfl
@[simp] theorem setPort_contexts (s : State) (m : Nat) (x : MidPort) : (setPort s m x).contexts = s.contexts := rfl
@[simp] theorem setPort_floe (s : State) (m : Nat) (x : MidPort) : (setPort s m x).floe = s.floe := rfl
@[simp] theorem setPort_trns (s : State) (m : Nat) (x : MidPort) : (setPort s m x).trns = s.trns := rfl
@[simp] theorem setPort_trnHeld (s : State) (m : Nat) (x : MidPort) : (setPort s m x).trnHeld = s.trnHeld := rfl
@[simp] theorem setPort_watchers (s : State) (m : Nat) (x : MidPort) : (setPort s m x).watchers = s.watchers := rfl
@[simp] theorem setPort_noc (s : State) (m : Nat) (x : MidPort) : (setPort s m x).noc = s.noc := rfl
@[simp] theorem setPort_casc (s : State) (m : Nat) (x : MidPort) : (setPort s m x).casc = s.casc := rfl
@[simp] theorem setPort_cfg (s : State) (m : Nat) (x : MidPort) : (setPort s m x).cfg = s.cfg := rfl
@[simp] theorem setPort_nextOrder (s : State) (m : Nat) (x : MidPort) : (setPort s m x).nextOrder = s.nextOrder := rfl
@[simp] theorem setPort_counters (s : State) (m : Nat) (x : MidPort) : (setPort s m x).counters = s.counters := rfl
@[simp] theorem setPort_works (s : State) (m : Nat) (x : MidPort) : (setPort s m x).works = s.works := rfl
@[simp] theorem setPort_worksSeen (s : State) (m : Nat) (x : MidPort) : (setPort s m x).worksSeen = s.worksSeen := rfl

@[simp] theorem setTile_pending (s : State) (p : Nat) (x : Tile) : (setTile s p x).pending = s.pending := rfl
@[simp] theorem setTile_outbox (s : State) (p : Nat) (x : Tile) : (setTile s p x).outbox = s.outbox := rfl
@[simp] theorem setTile_time (s : State) (p : Nat) (x : Tile) : (setTile s p x).time = s.time := rfl
@[simp] theorem setTile_fresh (s : State) (p : Nat) (x : Tile) : (setTile s p x).fresh = s.fresh := rfl
@[simp] theorem setTile_variant (s : State) (p : Nat) (x : Tile) : (setTile s p x).variant = s.variant := rfl
@[simp] theorem setTile_fused (s : State) (p : Nat) (x : Tile) : (setTile s p x).fused = s.fused := rfl
@[simp] theorem setTile_mor (s : State) (p : Nat) (x : Tile) : (setTile s p x).mor = s.mor := rfl
@[simp] theorem setTile_ice (s : State) (p : Nat) (x : Tile) : (setTile s p x).ice = s.ice := rfl
@[simp] theorem setTile_pwr (s : State) (p : Nat) (x : Tile) : (setTile s p x).pwr = s.pwr := rfl
@[simp] theorem setTile_st (s : State) (p : Nat) (x : Tile) : (setTile s p x).st = s.st := rfl
@[simp] theorem setTile_funcs (s : State) (p : Nat) (x : Tile) : (setTile s p x).funcs = s.funcs := rfl
@[simp] theorem setTile_link (s : State) (p : Nat) (x : Tile) : (setTile s p x).link = s.link := rfl
@[simp] theorem setTile_dropped (s : State) (p : Nat) (x : Tile) : (setTile s p x).dropped = s.dropped := rfl
@[simp] theorem setTile_groups (s : State) (p : Nat) (x : Tile) : (setTile s p x).groups = s.groups := rfl
@[simp] theorem setTile_queues (s : State) (p : Nat) (x : Tile) : (setTile s p x).queues = s.queues := rfl
@[simp] theorem setTile_arb (s : State) (p : Nat) (x : Tile) : (setTile s p x).arb = s.arb := rfl
@[simp] theorem setTile_ops (s : State) (p : Nat) (x : Tile) : (setTile s p x).ops = s.ops := rfl
@[simp] theorem setTile_nextTag (s : State) (p : Nat) (x : Tile) : (setTile s p x).nextTag = s.nextTag := rfl
@[simp] theorem setTile_pages (s : State) (p : Nat) (x : Tile) : (setTile s p x).pages = s.pages := rfl
@[simp] theorem setTile_resets (s : State) (p : Nat) (x : Tile) : (setTile s p x).resets = s.resets := rfl
@[simp] theorem setTile_place (s : State) (p : Nat) (x : Tile) : (setTile s p x).place = s.place := rfl
@[simp] theorem setTile_dmem (s : State) (p : Nat) (x : Tile) : (setTile s p x).dmem = s.dmem := rfl
@[simp] theorem setTile_hmem (s : State) (p : Nat) (x : Tile) : (setTile s p x).hmem = s.hmem := rfl
@[simp] theorem setTile_fills (s : State) (p : Nat) (x : Tile) : (setTile s p x).fills = s.fills := rfl
@[simp] theorem setTile_memStacks (s : State) (p : Nat) (x : Tile) : (setTile s p x).memStacks = s.memStacks := rfl
@[simp] theorem setTile_windows (s : State) (p : Nat) (x : Tile) : (setTile s p x).windows = s.windows := rfl
@[simp] theorem setTile_cxl (s : State) (p : Nat) (x : Tile) : (setTile s p x).cxl = s.cxl := rfl
@[simp] theorem setTile_kv (s : State) (p : Nat) (x : Tile) : (setTile s p x).kv = s.kv := rfl
@[simp] theorem setTile_ats (s : State) (p : Nat) (x : Tile) : (setTile s p x).ats = s.ats := rfl
@[simp] theorem setTile_pris (s : State) (p : Nat) (x : Tile) : (setTile s p x).pris = s.pris := rfl
@[simp] theorem setTile_bar2Waits (s : State) (p : Nat) (x : Tile) : (setTile s p x).bar2Waits = s.bar2Waits := rfl
@[simp] theorem setTile_copies (s : State) (p : Nat) (x : Tile) : (setTile s p x).copies = s.copies := rfl
@[simp] theorem setTile_priTimeout (s : State) (p : Nat) (x : Tile) : (setTile s p x).priTimeout = s.priTimeout := rfl
@[simp] theorem setTile_images (s : State) (p : Nat) (x : Tile) : (setTile s p x).images = s.images := rfl
@[simp] theorem setTile_contexts (s : State) (p : Nat) (x : Tile) : (setTile s p x).contexts = s.contexts := rfl
@[simp] theorem setTile_floe (s : State) (p : Nat) (x : Tile) : (setTile s p x).floe = s.floe := rfl
@[simp] theorem setTile_trns (s : State) (p : Nat) (x : Tile) : (setTile s p x).trns = s.trns := rfl
@[simp] theorem setTile_trnHeld (s : State) (p : Nat) (x : Tile) : (setTile s p x).trnHeld = s.trnHeld := rfl
@[simp] theorem setTile_watchers (s : State) (p : Nat) (x : Tile) : (setTile s p x).watchers = s.watchers := rfl
@[simp] theorem setTile_noc (s : State) (p : Nat) (x : Tile) : (setTile s p x).noc = s.noc := rfl
@[simp] theorem setTile_casc (s : State) (p : Nat) (x : Tile) : (setTile s p x).casc = s.casc := rfl
@[simp] theorem setTile_mid (s : State) (p : Nat) (x : Tile) : (setTile s p x).mid = s.mid := rfl
@[simp] theorem setTile_cfg (s : State) (p : Nat) (x : Tile) : (setTile s p x).cfg = s.cfg := rfl
@[simp] theorem setTile_nextOrder (s : State) (p : Nat) (x : Tile) : (setTile s p x).nextOrder = s.nextOrder := rfl
@[simp] theorem setTile_counters (s : State) (p : Nat) (x : Tile) : (setTile s p x).counters = s.counters := rfl
@[simp] theorem setTile_works (s : State) (p : Nat) (x : Tile) : (setTile s p x).works = s.works := rfl
@[simp] theorem setTile_worksSeen (s : State) (p : Nat) (x : Tile) : (setTile s p x).worksSeen = s.worksSeen := rfl

@[simp] theorem updTile_pending (p : Nat) (f : Tile → Tile) (s : State) : (updTile p f s).pending = s.pending := rfl
@[simp] theorem updTile_outbox (p : Nat) (f : Tile → Tile) (s : State) : (updTile p f s).outbox = s.outbox := rfl
@[simp] theorem updTile_time (p : Nat) (f : Tile → Tile) (s : State) : (updTile p f s).time = s.time := rfl
@[simp] theorem updTile_fresh (p : Nat) (f : Tile → Tile) (s : State) : (updTile p f s).fresh = s.fresh := rfl
@[simp] theorem updTile_variant (p : Nat) (f : Tile → Tile) (s : State) : (updTile p f s).variant = s.variant := rfl
@[simp] theorem updTile_fused (p : Nat) (f : Tile → Tile) (s : State) : (updTile p f s).fused = s.fused := rfl
@[simp] theorem updTile_mor (p : Nat) (f : Tile → Tile) (s : State) : (updTile p f s).mor = s.mor := rfl
@[simp] theorem updTile_ice (p : Nat) (f : Tile → Tile) (s : State) : (updTile p f s).ice = s.ice := rfl
@[simp] theorem updTile_pwr (p : Nat) (f : Tile → Tile) (s : State) : (updTile p f s).pwr = s.pwr := rfl
@[simp] theorem updTile_st (p : Nat) (f : Tile → Tile) (s : State) : (updTile p f s).st = s.st := rfl
@[simp] theorem updTile_funcs (p : Nat) (f : Tile → Tile) (s : State) : (updTile p f s).funcs = s.funcs := rfl
@[simp] theorem updTile_link (p : Nat) (f : Tile → Tile) (s : State) : (updTile p f s).link = s.link := rfl
@[simp] theorem updTile_dropped (p : Nat) (f : Tile → Tile) (s : State) : (updTile p f s).dropped = s.dropped := rfl
@[simp] theorem updTile_groups (p : Nat) (f : Tile → Tile) (s : State) : (updTile p f s).groups = s.groups := rfl
@[simp] theorem updTile_queues (p : Nat) (f : Tile → Tile) (s : State) : (updTile p f s).queues = s.queues := rfl
@[simp] theorem updTile_arb (p : Nat) (f : Tile → Tile) (s : State) : (updTile p f s).arb = s.arb := rfl
@[simp] theorem updTile_ops (p : Nat) (f : Tile → Tile) (s : State) : (updTile p f s).ops = s.ops := rfl
@[simp] theorem updTile_nextTag (p : Nat) (f : Tile → Tile) (s : State) : (updTile p f s).nextTag = s.nextTag := rfl
@[simp] theorem updTile_pages (p : Nat) (f : Tile → Tile) (s : State) : (updTile p f s).pages = s.pages := rfl
@[simp] theorem updTile_resets (p : Nat) (f : Tile → Tile) (s : State) : (updTile p f s).resets = s.resets := rfl
@[simp] theorem updTile_place (p : Nat) (f : Tile → Tile) (s : State) : (updTile p f s).place = s.place := rfl
@[simp] theorem updTile_dmem (p : Nat) (f : Tile → Tile) (s : State) : (updTile p f s).dmem = s.dmem := rfl
@[simp] theorem updTile_hmem (p : Nat) (f : Tile → Tile) (s : State) : (updTile p f s).hmem = s.hmem := rfl
@[simp] theorem updTile_fills (p : Nat) (f : Tile → Tile) (s : State) : (updTile p f s).fills = s.fills := rfl
@[simp] theorem updTile_memStacks (p : Nat) (f : Tile → Tile) (s : State) : (updTile p f s).memStacks = s.memStacks := rfl
@[simp] theorem updTile_windows (p : Nat) (f : Tile → Tile) (s : State) : (updTile p f s).windows = s.windows := rfl
@[simp] theorem updTile_cxl (p : Nat) (f : Tile → Tile) (s : State) : (updTile p f s).cxl = s.cxl := rfl
@[simp] theorem updTile_kv (p : Nat) (f : Tile → Tile) (s : State) : (updTile p f s).kv = s.kv := rfl
@[simp] theorem updTile_ats (p : Nat) (f : Tile → Tile) (s : State) : (updTile p f s).ats = s.ats := rfl
@[simp] theorem updTile_pris (p : Nat) (f : Tile → Tile) (s : State) : (updTile p f s).pris = s.pris := rfl
@[simp] theorem updTile_bar2Waits (p : Nat) (f : Tile → Tile) (s : State) : (updTile p f s).bar2Waits = s.bar2Waits := rfl
@[simp] theorem updTile_copies (p : Nat) (f : Tile → Tile) (s : State) : (updTile p f s).copies = s.copies := rfl
@[simp] theorem updTile_priTimeout (p : Nat) (f : Tile → Tile) (s : State) : (updTile p f s).priTimeout = s.priTimeout := rfl
@[simp] theorem updTile_images (p : Nat) (f : Tile → Tile) (s : State) : (updTile p f s).images = s.images := rfl
@[simp] theorem updTile_contexts (p : Nat) (f : Tile → Tile) (s : State) : (updTile p f s).contexts = s.contexts := rfl
@[simp] theorem updTile_floe (p : Nat) (f : Tile → Tile) (s : State) : (updTile p f s).floe = s.floe := rfl
@[simp] theorem updTile_trns (p : Nat) (f : Tile → Tile) (s : State) : (updTile p f s).trns = s.trns := rfl
@[simp] theorem updTile_trnHeld (p : Nat) (f : Tile → Tile) (s : State) : (updTile p f s).trnHeld = s.trnHeld := rfl
@[simp] theorem updTile_watchers (p : Nat) (f : Tile → Tile) (s : State) : (updTile p f s).watchers = s.watchers := rfl
@[simp] theorem updTile_noc (p : Nat) (f : Tile → Tile) (s : State) : (updTile p f s).noc = s.noc := rfl
@[simp] theorem updTile_casc (p : Nat) (f : Tile → Tile) (s : State) : (updTile p f s).casc = s.casc := rfl
@[simp] theorem updTile_mid (p : Nat) (f : Tile → Tile) (s : State) : (updTile p f s).mid = s.mid := rfl
@[simp] theorem updTile_cfg (p : Nat) (f : Tile → Tile) (s : State) : (updTile p f s).cfg = s.cfg := rfl
@[simp] theorem updTile_nextOrder (p : Nat) (f : Tile → Tile) (s : State) : (updTile p f s).nextOrder = s.nextOrder := rfl
@[simp] theorem updTile_counters (p : Nat) (f : Tile → Tile) (s : State) : (updTile p f s).counters = s.counters := rfl
@[simp] theorem updTile_works (p : Nat) (f : Tile → Tile) (s : State) : (updTile p f s).works = s.works := rfl
@[simp] theorem updTile_worksSeen (p : Nat) (f : Tile → Tile) (s : State) : (updTile p f s).worksSeen = s.worksSeen := rfl

@[simp] theorem setLink_pending (s : State) (l : Nat) (x : CascLink) : (setLink s l x).pending = s.pending := rfl
@[simp] theorem setLink_outbox (s : State) (l : Nat) (x : CascLink) : (setLink s l x).outbox = s.outbox := rfl
@[simp] theorem setLink_time (s : State) (l : Nat) (x : CascLink) : (setLink s l x).time = s.time := rfl
@[simp] theorem setLink_fresh (s : State) (l : Nat) (x : CascLink) : (setLink s l x).fresh = s.fresh := rfl
@[simp] theorem setLink_variant (s : State) (l : Nat) (x : CascLink) : (setLink s l x).variant = s.variant := rfl
@[simp] theorem setLink_fused (s : State) (l : Nat) (x : CascLink) : (setLink s l x).fused = s.fused := rfl
@[simp] theorem setLink_mor (s : State) (l : Nat) (x : CascLink) : (setLink s l x).mor = s.mor := rfl
@[simp] theorem setLink_ice (s : State) (l : Nat) (x : CascLink) : (setLink s l x).ice = s.ice := rfl
@[simp] theorem setLink_pwr (s : State) (l : Nat) (x : CascLink) : (setLink s l x).pwr = s.pwr := rfl
@[simp] theorem setLink_st (s : State) (l : Nat) (x : CascLink) : (setLink s l x).st = s.st := rfl
@[simp] theorem setLink_funcs (s : State) (l : Nat) (x : CascLink) : (setLink s l x).funcs = s.funcs := rfl
@[simp] theorem setLink_link (s : State) (l : Nat) (x : CascLink) : (setLink s l x).link = s.link := rfl
@[simp] theorem setLink_dropped (s : State) (l : Nat) (x : CascLink) : (setLink s l x).dropped = s.dropped := rfl
@[simp] theorem setLink_groups (s : State) (l : Nat) (x : CascLink) : (setLink s l x).groups = s.groups := rfl
@[simp] theorem setLink_queues (s : State) (l : Nat) (x : CascLink) : (setLink s l x).queues = s.queues := rfl
@[simp] theorem setLink_arb (s : State) (l : Nat) (x : CascLink) : (setLink s l x).arb = s.arb := rfl
@[simp] theorem setLink_ops (s : State) (l : Nat) (x : CascLink) : (setLink s l x).ops = s.ops := rfl
@[simp] theorem setLink_nextTag (s : State) (l : Nat) (x : CascLink) : (setLink s l x).nextTag = s.nextTag := rfl
@[simp] theorem setLink_pages (s : State) (l : Nat) (x : CascLink) : (setLink s l x).pages = s.pages := rfl
@[simp] theorem setLink_resets (s : State) (l : Nat) (x : CascLink) : (setLink s l x).resets = s.resets := rfl
@[simp] theorem setLink_place (s : State) (l : Nat) (x : CascLink) : (setLink s l x).place = s.place := rfl
@[simp] theorem setLink_dmem (s : State) (l : Nat) (x : CascLink) : (setLink s l x).dmem = s.dmem := rfl
@[simp] theorem setLink_hmem (s : State) (l : Nat) (x : CascLink) : (setLink s l x).hmem = s.hmem := rfl
@[simp] theorem setLink_fills (s : State) (l : Nat) (x : CascLink) : (setLink s l x).fills = s.fills := rfl
@[simp] theorem setLink_memStacks (s : State) (l : Nat) (x : CascLink) : (setLink s l x).memStacks = s.memStacks := rfl
@[simp] theorem setLink_windows (s : State) (l : Nat) (x : CascLink) : (setLink s l x).windows = s.windows := rfl
@[simp] theorem setLink_cxl (s : State) (l : Nat) (x : CascLink) : (setLink s l x).cxl = s.cxl := rfl
@[simp] theorem setLink_kv (s : State) (l : Nat) (x : CascLink) : (setLink s l x).kv = s.kv := rfl
@[simp] theorem setLink_ats (s : State) (l : Nat) (x : CascLink) : (setLink s l x).ats = s.ats := rfl
@[simp] theorem setLink_pris (s : State) (l : Nat) (x : CascLink) : (setLink s l x).pris = s.pris := rfl
@[simp] theorem setLink_bar2Waits (s : State) (l : Nat) (x : CascLink) : (setLink s l x).bar2Waits = s.bar2Waits := rfl
@[simp] theorem setLink_copies (s : State) (l : Nat) (x : CascLink) : (setLink s l x).copies = s.copies := rfl
@[simp] theorem setLink_priTimeout (s : State) (l : Nat) (x : CascLink) : (setLink s l x).priTimeout = s.priTimeout := rfl
@[simp] theorem setLink_tiles (s : State) (l : Nat) (x : CascLink) : (setLink s l x).tiles = s.tiles := rfl
@[simp] theorem setLink_images (s : State) (l : Nat) (x : CascLink) : (setLink s l x).images = s.images := rfl
@[simp] theorem setLink_contexts (s : State) (l : Nat) (x : CascLink) : (setLink s l x).contexts = s.contexts := rfl
@[simp] theorem setLink_floe (s : State) (l : Nat) (x : CascLink) : (setLink s l x).floe = s.floe := rfl
@[simp] theorem setLink_trns (s : State) (l : Nat) (x : CascLink) : (setLink s l x).trns = s.trns := rfl
@[simp] theorem setLink_trnHeld (s : State) (l : Nat) (x : CascLink) : (setLink s l x).trnHeld = s.trnHeld := rfl
@[simp] theorem setLink_watchers (s : State) (l : Nat) (x : CascLink) : (setLink s l x).watchers = s.watchers := rfl
@[simp] theorem setLink_noc (s : State) (l : Nat) (x : CascLink) : (setLink s l x).noc = s.noc := rfl
@[simp] theorem setLink_mid (s : State) (l : Nat) (x : CascLink) : (setLink s l x).mid = s.mid := rfl
@[simp] theorem setLink_cfg (s : State) (l : Nat) (x : CascLink) : (setLink s l x).cfg = s.cfg := rfl
@[simp] theorem setLink_nextOrder (s : State) (l : Nat) (x : CascLink) : (setLink s l x).nextOrder = s.nextOrder := rfl
@[simp] theorem setLink_counters (s : State) (l : Nat) (x : CascLink) : (setLink s l x).counters = s.counters := rfl
@[simp] theorem setLink_works (s : State) (l : Nat) (x : CascLink) : (setLink s l x).works = s.works := rfl
@[simp] theorem setLink_worksSeen (s : State) (l : Nat) (x : CascLink) : (setLink s l x).worksSeen = s.worksSeen := rfl

@[simp] theorem setLane_pending (s : State) (n : Nat) (x : CascLane) : (setLane s n x).pending = s.pending := rfl
@[simp] theorem setLane_outbox (s : State) (n : Nat) (x : CascLane) : (setLane s n x).outbox = s.outbox := rfl
@[simp] theorem setLane_time (s : State) (n : Nat) (x : CascLane) : (setLane s n x).time = s.time := rfl
@[simp] theorem setLane_fresh (s : State) (n : Nat) (x : CascLane) : (setLane s n x).fresh = s.fresh := rfl
@[simp] theorem setLane_variant (s : State) (n : Nat) (x : CascLane) : (setLane s n x).variant = s.variant := rfl
@[simp] theorem setLane_fused (s : State) (n : Nat) (x : CascLane) : (setLane s n x).fused = s.fused := rfl
@[simp] theorem setLane_mor (s : State) (n : Nat) (x : CascLane) : (setLane s n x).mor = s.mor := rfl
@[simp] theorem setLane_ice (s : State) (n : Nat) (x : CascLane) : (setLane s n x).ice = s.ice := rfl
@[simp] theorem setLane_pwr (s : State) (n : Nat) (x : CascLane) : (setLane s n x).pwr = s.pwr := rfl
@[simp] theorem setLane_st (s : State) (n : Nat) (x : CascLane) : (setLane s n x).st = s.st := rfl
@[simp] theorem setLane_funcs (s : State) (n : Nat) (x : CascLane) : (setLane s n x).funcs = s.funcs := rfl
@[simp] theorem setLane_link (s : State) (n : Nat) (x : CascLane) : (setLane s n x).link = s.link := rfl
@[simp] theorem setLane_dropped (s : State) (n : Nat) (x : CascLane) : (setLane s n x).dropped = s.dropped := rfl
@[simp] theorem setLane_groups (s : State) (n : Nat) (x : CascLane) : (setLane s n x).groups = s.groups := rfl
@[simp] theorem setLane_queues (s : State) (n : Nat) (x : CascLane) : (setLane s n x).queues = s.queues := rfl
@[simp] theorem setLane_arb (s : State) (n : Nat) (x : CascLane) : (setLane s n x).arb = s.arb := rfl
@[simp] theorem setLane_ops (s : State) (n : Nat) (x : CascLane) : (setLane s n x).ops = s.ops := rfl
@[simp] theorem setLane_nextTag (s : State) (n : Nat) (x : CascLane) : (setLane s n x).nextTag = s.nextTag := rfl
@[simp] theorem setLane_pages (s : State) (n : Nat) (x : CascLane) : (setLane s n x).pages = s.pages := rfl
@[simp] theorem setLane_resets (s : State) (n : Nat) (x : CascLane) : (setLane s n x).resets = s.resets := rfl
@[simp] theorem setLane_place (s : State) (n : Nat) (x : CascLane) : (setLane s n x).place = s.place := rfl
@[simp] theorem setLane_dmem (s : State) (n : Nat) (x : CascLane) : (setLane s n x).dmem = s.dmem := rfl
@[simp] theorem setLane_hmem (s : State) (n : Nat) (x : CascLane) : (setLane s n x).hmem = s.hmem := rfl
@[simp] theorem setLane_fills (s : State) (n : Nat) (x : CascLane) : (setLane s n x).fills = s.fills := rfl
@[simp] theorem setLane_memStacks (s : State) (n : Nat) (x : CascLane) : (setLane s n x).memStacks = s.memStacks := rfl
@[simp] theorem setLane_windows (s : State) (n : Nat) (x : CascLane) : (setLane s n x).windows = s.windows := rfl
@[simp] theorem setLane_cxl (s : State) (n : Nat) (x : CascLane) : (setLane s n x).cxl = s.cxl := rfl
@[simp] theorem setLane_kv (s : State) (n : Nat) (x : CascLane) : (setLane s n x).kv = s.kv := rfl
@[simp] theorem setLane_ats (s : State) (n : Nat) (x : CascLane) : (setLane s n x).ats = s.ats := rfl
@[simp] theorem setLane_pris (s : State) (n : Nat) (x : CascLane) : (setLane s n x).pris = s.pris := rfl
@[simp] theorem setLane_bar2Waits (s : State) (n : Nat) (x : CascLane) : (setLane s n x).bar2Waits = s.bar2Waits := rfl
@[simp] theorem setLane_copies (s : State) (n : Nat) (x : CascLane) : (setLane s n x).copies = s.copies := rfl
@[simp] theorem setLane_priTimeout (s : State) (n : Nat) (x : CascLane) : (setLane s n x).priTimeout = s.priTimeout := rfl
@[simp] theorem setLane_tiles (s : State) (n : Nat) (x : CascLane) : (setLane s n x).tiles = s.tiles := rfl
@[simp] theorem setLane_images (s : State) (n : Nat) (x : CascLane) : (setLane s n x).images = s.images := rfl
@[simp] theorem setLane_contexts (s : State) (n : Nat) (x : CascLane) : (setLane s n x).contexts = s.contexts := rfl
@[simp] theorem setLane_floe (s : State) (n : Nat) (x : CascLane) : (setLane s n x).floe = s.floe := rfl
@[simp] theorem setLane_trns (s : State) (n : Nat) (x : CascLane) : (setLane s n x).trns = s.trns := rfl
@[simp] theorem setLane_trnHeld (s : State) (n : Nat) (x : CascLane) : (setLane s n x).trnHeld = s.trnHeld := rfl
@[simp] theorem setLane_watchers (s : State) (n : Nat) (x : CascLane) : (setLane s n x).watchers = s.watchers := rfl
@[simp] theorem setLane_noc (s : State) (n : Nat) (x : CascLane) : (setLane s n x).noc = s.noc := rfl
@[simp] theorem setLane_mid (s : State) (n : Nat) (x : CascLane) : (setLane s n x).mid = s.mid := rfl
@[simp] theorem setLane_cfg (s : State) (n : Nat) (x : CascLane) : (setLane s n x).cfg = s.cfg := rfl
@[simp] theorem setLane_nextOrder (s : State) (n : Nat) (x : CascLane) : (setLane s n x).nextOrder = s.nextOrder := rfl
@[simp] theorem setLane_counters (s : State) (n : Nat) (x : CascLane) : (setLane s n x).counters = s.counters := rfl
@[simp] theorem setLane_works (s : State) (n : Nat) (x : CascLane) : (setLane s n x).works = s.works := rfl
@[simp] theorem setLane_worksSeen (s : State) (n : Nat) (x : CascLane) : (setLane s n x).worksSeen = s.worksSeen := rfl

@[simp] theorem setUserLane_pending (s : State) (n : Nat) (x : UserLane) : (setUserLane s n x).pending = s.pending := rfl
@[simp] theorem setUserLane_outbox (s : State) (n : Nat) (x : UserLane) : (setUserLane s n x).outbox = s.outbox := rfl
@[simp] theorem setUserLane_time (s : State) (n : Nat) (x : UserLane) : (setUserLane s n x).time = s.time := rfl
@[simp] theorem setUserLane_fresh (s : State) (n : Nat) (x : UserLane) : (setUserLane s n x).fresh = s.fresh := rfl
@[simp] theorem setUserLane_variant (s : State) (n : Nat) (x : UserLane) : (setUserLane s n x).variant = s.variant := rfl
@[simp] theorem setUserLane_fused (s : State) (n : Nat) (x : UserLane) : (setUserLane s n x).fused = s.fused := rfl
@[simp] theorem setUserLane_mor (s : State) (n : Nat) (x : UserLane) : (setUserLane s n x).mor = s.mor := rfl
@[simp] theorem setUserLane_ice (s : State) (n : Nat) (x : UserLane) : (setUserLane s n x).ice = s.ice := rfl
@[simp] theorem setUserLane_pwr (s : State) (n : Nat) (x : UserLane) : (setUserLane s n x).pwr = s.pwr := rfl
@[simp] theorem setUserLane_st (s : State) (n : Nat) (x : UserLane) : (setUserLane s n x).st = s.st := rfl
@[simp] theorem setUserLane_funcs (s : State) (n : Nat) (x : UserLane) : (setUserLane s n x).funcs = s.funcs := rfl
@[simp] theorem setUserLane_link (s : State) (n : Nat) (x : UserLane) : (setUserLane s n x).link = s.link := rfl
@[simp] theorem setUserLane_dropped (s : State) (n : Nat) (x : UserLane) : (setUserLane s n x).dropped = s.dropped := rfl
@[simp] theorem setUserLane_groups (s : State) (n : Nat) (x : UserLane) : (setUserLane s n x).groups = s.groups := rfl
@[simp] theorem setUserLane_queues (s : State) (n : Nat) (x : UserLane) : (setUserLane s n x).queues = s.queues := rfl
@[simp] theorem setUserLane_arb (s : State) (n : Nat) (x : UserLane) : (setUserLane s n x).arb = s.arb := rfl
@[simp] theorem setUserLane_ops (s : State) (n : Nat) (x : UserLane) : (setUserLane s n x).ops = s.ops := rfl
@[simp] theorem setUserLane_nextTag (s : State) (n : Nat) (x : UserLane) : (setUserLane s n x).nextTag = s.nextTag := rfl
@[simp] theorem setUserLane_pages (s : State) (n : Nat) (x : UserLane) : (setUserLane s n x).pages = s.pages := rfl
@[simp] theorem setUserLane_resets (s : State) (n : Nat) (x : UserLane) : (setUserLane s n x).resets = s.resets := rfl
@[simp] theorem setUserLane_place (s : State) (n : Nat) (x : UserLane) : (setUserLane s n x).place = s.place := rfl
@[simp] theorem setUserLane_dmem (s : State) (n : Nat) (x : UserLane) : (setUserLane s n x).dmem = s.dmem := rfl
@[simp] theorem setUserLane_hmem (s : State) (n : Nat) (x : UserLane) : (setUserLane s n x).hmem = s.hmem := rfl
@[simp] theorem setUserLane_fills (s : State) (n : Nat) (x : UserLane) : (setUserLane s n x).fills = s.fills := rfl
@[simp] theorem setUserLane_memStacks (s : State) (n : Nat) (x : UserLane) : (setUserLane s n x).memStacks = s.memStacks := rfl
@[simp] theorem setUserLane_windows (s : State) (n : Nat) (x : UserLane) : (setUserLane s n x).windows = s.windows := rfl
@[simp] theorem setUserLane_cxl (s : State) (n : Nat) (x : UserLane) : (setUserLane s n x).cxl = s.cxl := rfl
@[simp] theorem setUserLane_kv (s : State) (n : Nat) (x : UserLane) : (setUserLane s n x).kv = s.kv := rfl
@[simp] theorem setUserLane_ats (s : State) (n : Nat) (x : UserLane) : (setUserLane s n x).ats = s.ats := rfl
@[simp] theorem setUserLane_pris (s : State) (n : Nat) (x : UserLane) : (setUserLane s n x).pris = s.pris := rfl
@[simp] theorem setUserLane_bar2Waits (s : State) (n : Nat) (x : UserLane) : (setUserLane s n x).bar2Waits = s.bar2Waits := rfl
@[simp] theorem setUserLane_copies (s : State) (n : Nat) (x : UserLane) : (setUserLane s n x).copies = s.copies := rfl
@[simp] theorem setUserLane_priTimeout (s : State) (n : Nat) (x : UserLane) : (setUserLane s n x).priTimeout = s.priTimeout := rfl
@[simp] theorem setUserLane_tiles (s : State) (n : Nat) (x : UserLane) : (setUserLane s n x).tiles = s.tiles := rfl
@[simp] theorem setUserLane_images (s : State) (n : Nat) (x : UserLane) : (setUserLane s n x).images = s.images := rfl
@[simp] theorem setUserLane_contexts (s : State) (n : Nat) (x : UserLane) : (setUserLane s n x).contexts = s.contexts := rfl
@[simp] theorem setUserLane_floe (s : State) (n : Nat) (x : UserLane) : (setUserLane s n x).floe = s.floe := rfl
@[simp] theorem setUserLane_trns (s : State) (n : Nat) (x : UserLane) : (setUserLane s n x).trns = s.trns := rfl
@[simp] theorem setUserLane_trnHeld (s : State) (n : Nat) (x : UserLane) : (setUserLane s n x).trnHeld = s.trnHeld := rfl
@[simp] theorem setUserLane_watchers (s : State) (n : Nat) (x : UserLane) : (setUserLane s n x).watchers = s.watchers := rfl
@[simp] theorem setUserLane_noc (s : State) (n : Nat) (x : UserLane) : (setUserLane s n x).noc = s.noc := rfl
@[simp] theorem setUserLane_casc (s : State) (n : Nat) (x : UserLane) : (setUserLane s n x).casc = s.casc := rfl
@[simp] theorem setUserLane_cfg (s : State) (n : Nat) (x : UserLane) : (setUserLane s n x).cfg = s.cfg := rfl
@[simp] theorem setUserLane_nextOrder (s : State) (n : Nat) (x : UserLane) : (setUserLane s n x).nextOrder = s.nextOrder := rfl
@[simp] theorem setUserLane_counters (s : State) (n : Nat) (x : UserLane) : (setUserLane s n x).counters = s.counters := rfl
@[simp] theorem setUserLane_works (s : State) (n : Nat) (x : UserLane) : (setUserLane s n x).works = s.works := rfl
@[simp] theorem setUserLane_worksSeen (s : State) (n : Nat) (x : UserLane) : (setUserLane s n x).worksSeen = s.worksSeen := rfl

@[simp] theorem setPin_pending (s : State) (n : Nat) (x : Pin) : (setPin s n x).pending = s.pending := rfl
@[simp] theorem setPin_outbox (s : State) (n : Nat) (x : Pin) : (setPin s n x).outbox = s.outbox := rfl
@[simp] theorem setPin_time (s : State) (n : Nat) (x : Pin) : (setPin s n x).time = s.time := rfl
@[simp] theorem setPin_fresh (s : State) (n : Nat) (x : Pin) : (setPin s n x).fresh = s.fresh := rfl
@[simp] theorem setPin_variant (s : State) (n : Nat) (x : Pin) : (setPin s n x).variant = s.variant := rfl
@[simp] theorem setPin_fused (s : State) (n : Nat) (x : Pin) : (setPin s n x).fused = s.fused := rfl
@[simp] theorem setPin_mor (s : State) (n : Nat) (x : Pin) : (setPin s n x).mor = s.mor := rfl
@[simp] theorem setPin_ice (s : State) (n : Nat) (x : Pin) : (setPin s n x).ice = s.ice := rfl
@[simp] theorem setPin_pwr (s : State) (n : Nat) (x : Pin) : (setPin s n x).pwr = s.pwr := rfl
@[simp] theorem setPin_st (s : State) (n : Nat) (x : Pin) : (setPin s n x).st = s.st := rfl
@[simp] theorem setPin_funcs (s : State) (n : Nat) (x : Pin) : (setPin s n x).funcs = s.funcs := rfl
@[simp] theorem setPin_link (s : State) (n : Nat) (x : Pin) : (setPin s n x).link = s.link := rfl
@[simp] theorem setPin_dropped (s : State) (n : Nat) (x : Pin) : (setPin s n x).dropped = s.dropped := rfl
@[simp] theorem setPin_groups (s : State) (n : Nat) (x : Pin) : (setPin s n x).groups = s.groups := rfl
@[simp] theorem setPin_queues (s : State) (n : Nat) (x : Pin) : (setPin s n x).queues = s.queues := rfl
@[simp] theorem setPin_arb (s : State) (n : Nat) (x : Pin) : (setPin s n x).arb = s.arb := rfl
@[simp] theorem setPin_ops (s : State) (n : Nat) (x : Pin) : (setPin s n x).ops = s.ops := rfl
@[simp] theorem setPin_nextTag (s : State) (n : Nat) (x : Pin) : (setPin s n x).nextTag = s.nextTag := rfl
@[simp] theorem setPin_pages (s : State) (n : Nat) (x : Pin) : (setPin s n x).pages = s.pages := rfl
@[simp] theorem setPin_resets (s : State) (n : Nat) (x : Pin) : (setPin s n x).resets = s.resets := rfl
@[simp] theorem setPin_place (s : State) (n : Nat) (x : Pin) : (setPin s n x).place = s.place := rfl
@[simp] theorem setPin_dmem (s : State) (n : Nat) (x : Pin) : (setPin s n x).dmem = s.dmem := rfl
@[simp] theorem setPin_hmem (s : State) (n : Nat) (x : Pin) : (setPin s n x).hmem = s.hmem := rfl
@[simp] theorem setPin_fills (s : State) (n : Nat) (x : Pin) : (setPin s n x).fills = s.fills := rfl
@[simp] theorem setPin_memStacks (s : State) (n : Nat) (x : Pin) : (setPin s n x).memStacks = s.memStacks := rfl
@[simp] theorem setPin_windows (s : State) (n : Nat) (x : Pin) : (setPin s n x).windows = s.windows := rfl
@[simp] theorem setPin_cxl (s : State) (n : Nat) (x : Pin) : (setPin s n x).cxl = s.cxl := rfl
@[simp] theorem setPin_kv (s : State) (n : Nat) (x : Pin) : (setPin s n x).kv = s.kv := rfl
@[simp] theorem setPin_ats (s : State) (n : Nat) (x : Pin) : (setPin s n x).ats = s.ats := rfl
@[simp] theorem setPin_pris (s : State) (n : Nat) (x : Pin) : (setPin s n x).pris = s.pris := rfl
@[simp] theorem setPin_bar2Waits (s : State) (n : Nat) (x : Pin) : (setPin s n x).bar2Waits = s.bar2Waits := rfl
@[simp] theorem setPin_copies (s : State) (n : Nat) (x : Pin) : (setPin s n x).copies = s.copies := rfl
@[simp] theorem setPin_priTimeout (s : State) (n : Nat) (x : Pin) : (setPin s n x).priTimeout = s.priTimeout := rfl
@[simp] theorem setPin_tiles (s : State) (n : Nat) (x : Pin) : (setPin s n x).tiles = s.tiles := rfl
@[simp] theorem setPin_images (s : State) (n : Nat) (x : Pin) : (setPin s n x).images = s.images := rfl
@[simp] theorem setPin_contexts (s : State) (n : Nat) (x : Pin) : (setPin s n x).contexts = s.contexts := rfl
@[simp] theorem setPin_floe (s : State) (n : Nat) (x : Pin) : (setPin s n x).floe = s.floe := rfl
@[simp] theorem setPin_trns (s : State) (n : Nat) (x : Pin) : (setPin s n x).trns = s.trns := rfl
@[simp] theorem setPin_trnHeld (s : State) (n : Nat) (x : Pin) : (setPin s n x).trnHeld = s.trnHeld := rfl
@[simp] theorem setPin_watchers (s : State) (n : Nat) (x : Pin) : (setPin s n x).watchers = s.watchers := rfl
@[simp] theorem setPin_noc (s : State) (n : Nat) (x : Pin) : (setPin s n x).noc = s.noc := rfl
@[simp] theorem setPin_casc (s : State) (n : Nat) (x : Pin) : (setPin s n x).casc = s.casc := rfl
@[simp] theorem setPin_cfg (s : State) (n : Nat) (x : Pin) : (setPin s n x).cfg = s.cfg := rfl
@[simp] theorem setPin_nextOrder (s : State) (n : Nat) (x : Pin) : (setPin s n x).nextOrder = s.nextOrder := rfl
@[simp] theorem setPin_counters (s : State) (n : Nat) (x : Pin) : (setPin s n x).counters = s.counters := rfl
@[simp] theorem setPin_works (s : State) (n : Nat) (x : Pin) : (setPin s n x).works = s.works := rfl
@[simp] theorem setPin_worksSeen (s : State) (n : Nat) (x : Pin) : (setPin s n x).worksSeen = s.worksSeen := rfl

@[simp] theorem setPacer_pending (s : State) (n : Nat) (x : Pacer) : (setPacer s n x).pending = s.pending := rfl
@[simp] theorem setPacer_outbox (s : State) (n : Nat) (x : Pacer) : (setPacer s n x).outbox = s.outbox := rfl
@[simp] theorem setPacer_time (s : State) (n : Nat) (x : Pacer) : (setPacer s n x).time = s.time := rfl
@[simp] theorem setPacer_fresh (s : State) (n : Nat) (x : Pacer) : (setPacer s n x).fresh = s.fresh := rfl
@[simp] theorem setPacer_variant (s : State) (n : Nat) (x : Pacer) : (setPacer s n x).variant = s.variant := rfl
@[simp] theorem setPacer_fused (s : State) (n : Nat) (x : Pacer) : (setPacer s n x).fused = s.fused := rfl
@[simp] theorem setPacer_mor (s : State) (n : Nat) (x : Pacer) : (setPacer s n x).mor = s.mor := rfl
@[simp] theorem setPacer_ice (s : State) (n : Nat) (x : Pacer) : (setPacer s n x).ice = s.ice := rfl
@[simp] theorem setPacer_pwr (s : State) (n : Nat) (x : Pacer) : (setPacer s n x).pwr = s.pwr := rfl
@[simp] theorem setPacer_st (s : State) (n : Nat) (x : Pacer) : (setPacer s n x).st = s.st := rfl
@[simp] theorem setPacer_funcs (s : State) (n : Nat) (x : Pacer) : (setPacer s n x).funcs = s.funcs := rfl
@[simp] theorem setPacer_link (s : State) (n : Nat) (x : Pacer) : (setPacer s n x).link = s.link := rfl
@[simp] theorem setPacer_dropped (s : State) (n : Nat) (x : Pacer) : (setPacer s n x).dropped = s.dropped := rfl
@[simp] theorem setPacer_groups (s : State) (n : Nat) (x : Pacer) : (setPacer s n x).groups = s.groups := rfl
@[simp] theorem setPacer_queues (s : State) (n : Nat) (x : Pacer) : (setPacer s n x).queues = s.queues := rfl
@[simp] theorem setPacer_arb (s : State) (n : Nat) (x : Pacer) : (setPacer s n x).arb = s.arb := rfl
@[simp] theorem setPacer_ops (s : State) (n : Nat) (x : Pacer) : (setPacer s n x).ops = s.ops := rfl
@[simp] theorem setPacer_nextTag (s : State) (n : Nat) (x : Pacer) : (setPacer s n x).nextTag = s.nextTag := rfl
@[simp] theorem setPacer_pages (s : State) (n : Nat) (x : Pacer) : (setPacer s n x).pages = s.pages := rfl
@[simp] theorem setPacer_resets (s : State) (n : Nat) (x : Pacer) : (setPacer s n x).resets = s.resets := rfl
@[simp] theorem setPacer_place (s : State) (n : Nat) (x : Pacer) : (setPacer s n x).place = s.place := rfl
@[simp] theorem setPacer_dmem (s : State) (n : Nat) (x : Pacer) : (setPacer s n x).dmem = s.dmem := rfl
@[simp] theorem setPacer_hmem (s : State) (n : Nat) (x : Pacer) : (setPacer s n x).hmem = s.hmem := rfl
@[simp] theorem setPacer_fills (s : State) (n : Nat) (x : Pacer) : (setPacer s n x).fills = s.fills := rfl
@[simp] theorem setPacer_memStacks (s : State) (n : Nat) (x : Pacer) : (setPacer s n x).memStacks = s.memStacks := rfl
@[simp] theorem setPacer_windows (s : State) (n : Nat) (x : Pacer) : (setPacer s n x).windows = s.windows := rfl
@[simp] theorem setPacer_cxl (s : State) (n : Nat) (x : Pacer) : (setPacer s n x).cxl = s.cxl := rfl
@[simp] theorem setPacer_kv (s : State) (n : Nat) (x : Pacer) : (setPacer s n x).kv = s.kv := rfl
@[simp] theorem setPacer_ats (s : State) (n : Nat) (x : Pacer) : (setPacer s n x).ats = s.ats := rfl
@[simp] theorem setPacer_pris (s : State) (n : Nat) (x : Pacer) : (setPacer s n x).pris = s.pris := rfl
@[simp] theorem setPacer_bar2Waits (s : State) (n : Nat) (x : Pacer) : (setPacer s n x).bar2Waits = s.bar2Waits := rfl
@[simp] theorem setPacer_copies (s : State) (n : Nat) (x : Pacer) : (setPacer s n x).copies = s.copies := rfl
@[simp] theorem setPacer_priTimeout (s : State) (n : Nat) (x : Pacer) : (setPacer s n x).priTimeout = s.priTimeout := rfl
@[simp] theorem setPacer_tiles (s : State) (n : Nat) (x : Pacer) : (setPacer s n x).tiles = s.tiles := rfl
@[simp] theorem setPacer_images (s : State) (n : Nat) (x : Pacer) : (setPacer s n x).images = s.images := rfl
@[simp] theorem setPacer_contexts (s : State) (n : Nat) (x : Pacer) : (setPacer s n x).contexts = s.contexts := rfl
@[simp] theorem setPacer_floe (s : State) (n : Nat) (x : Pacer) : (setPacer s n x).floe = s.floe := rfl
@[simp] theorem setPacer_trns (s : State) (n : Nat) (x : Pacer) : (setPacer s n x).trns = s.trns := rfl
@[simp] theorem setPacer_trnHeld (s : State) (n : Nat) (x : Pacer) : (setPacer s n x).trnHeld = s.trnHeld := rfl
@[simp] theorem setPacer_watchers (s : State) (n : Nat) (x : Pacer) : (setPacer s n x).watchers = s.watchers := rfl
@[simp] theorem setPacer_noc (s : State) (n : Nat) (x : Pacer) : (setPacer s n x).noc = s.noc := rfl
@[simp] theorem setPacer_casc (s : State) (n : Nat) (x : Pacer) : (setPacer s n x).casc = s.casc := rfl
@[simp] theorem setPacer_cfg (s : State) (n : Nat) (x : Pacer) : (setPacer s n x).cfg = s.cfg := rfl
@[simp] theorem setPacer_nextOrder (s : State) (n : Nat) (x : Pacer) : (setPacer s n x).nextOrder = s.nextOrder := rfl
@[simp] theorem setPacer_counters (s : State) (n : Nat) (x : Pacer) : (setPacer s n x).counters = s.counters := rfl
@[simp] theorem setPacer_works (s : State) (n : Nat) (x : Pacer) : (setPacer s n x).works = s.works := rfl
@[simp] theorem setPacer_worksSeen (s : State) (n : Nat) (x : Pacer) : (setPacer s n x).worksSeen = s.worksSeen := rfl

@[simp] theorem setWatcher_pending (s : State) (w : Nat) (x : Watcher) : (setWatcher s w x).pending = s.pending := rfl
@[simp] theorem setWatcher_outbox (s : State) (w : Nat) (x : Watcher) : (setWatcher s w x).outbox = s.outbox := rfl
@[simp] theorem setWatcher_time (s : State) (w : Nat) (x : Watcher) : (setWatcher s w x).time = s.time := rfl
@[simp] theorem setWatcher_fresh (s : State) (w : Nat) (x : Watcher) : (setWatcher s w x).fresh = s.fresh := rfl
@[simp] theorem setWatcher_variant (s : State) (w : Nat) (x : Watcher) : (setWatcher s w x).variant = s.variant := rfl
@[simp] theorem setWatcher_fused (s : State) (w : Nat) (x : Watcher) : (setWatcher s w x).fused = s.fused := rfl
@[simp] theorem setWatcher_mor (s : State) (w : Nat) (x : Watcher) : (setWatcher s w x).mor = s.mor := rfl
@[simp] theorem setWatcher_ice (s : State) (w : Nat) (x : Watcher) : (setWatcher s w x).ice = s.ice := rfl
@[simp] theorem setWatcher_pwr (s : State) (w : Nat) (x : Watcher) : (setWatcher s w x).pwr = s.pwr := rfl
@[simp] theorem setWatcher_st (s : State) (w : Nat) (x : Watcher) : (setWatcher s w x).st = s.st := rfl
@[simp] theorem setWatcher_funcs (s : State) (w : Nat) (x : Watcher) : (setWatcher s w x).funcs = s.funcs := rfl
@[simp] theorem setWatcher_link (s : State) (w : Nat) (x : Watcher) : (setWatcher s w x).link = s.link := rfl
@[simp] theorem setWatcher_dropped (s : State) (w : Nat) (x : Watcher) : (setWatcher s w x).dropped = s.dropped := rfl
@[simp] theorem setWatcher_groups (s : State) (w : Nat) (x : Watcher) : (setWatcher s w x).groups = s.groups := rfl
@[simp] theorem setWatcher_queues (s : State) (w : Nat) (x : Watcher) : (setWatcher s w x).queues = s.queues := rfl
@[simp] theorem setWatcher_arb (s : State) (w : Nat) (x : Watcher) : (setWatcher s w x).arb = s.arb := rfl
@[simp] theorem setWatcher_ops (s : State) (w : Nat) (x : Watcher) : (setWatcher s w x).ops = s.ops := rfl
@[simp] theorem setWatcher_nextTag (s : State) (w : Nat) (x : Watcher) : (setWatcher s w x).nextTag = s.nextTag := rfl
@[simp] theorem setWatcher_pages (s : State) (w : Nat) (x : Watcher) : (setWatcher s w x).pages = s.pages := rfl
@[simp] theorem setWatcher_resets (s : State) (w : Nat) (x : Watcher) : (setWatcher s w x).resets = s.resets := rfl
@[simp] theorem setWatcher_place (s : State) (w : Nat) (x : Watcher) : (setWatcher s w x).place = s.place := rfl
@[simp] theorem setWatcher_dmem (s : State) (w : Nat) (x : Watcher) : (setWatcher s w x).dmem = s.dmem := rfl
@[simp] theorem setWatcher_hmem (s : State) (w : Nat) (x : Watcher) : (setWatcher s w x).hmem = s.hmem := rfl
@[simp] theorem setWatcher_fills (s : State) (w : Nat) (x : Watcher) : (setWatcher s w x).fills = s.fills := rfl
@[simp] theorem setWatcher_memStacks (s : State) (w : Nat) (x : Watcher) : (setWatcher s w x).memStacks = s.memStacks := rfl
@[simp] theorem setWatcher_windows (s : State) (w : Nat) (x : Watcher) : (setWatcher s w x).windows = s.windows := rfl
@[simp] theorem setWatcher_cxl (s : State) (w : Nat) (x : Watcher) : (setWatcher s w x).cxl = s.cxl := rfl
@[simp] theorem setWatcher_kv (s : State) (w : Nat) (x : Watcher) : (setWatcher s w x).kv = s.kv := rfl
@[simp] theorem setWatcher_ats (s : State) (w : Nat) (x : Watcher) : (setWatcher s w x).ats = s.ats := rfl
@[simp] theorem setWatcher_pris (s : State) (w : Nat) (x : Watcher) : (setWatcher s w x).pris = s.pris := rfl
@[simp] theorem setWatcher_bar2Waits (s : State) (w : Nat) (x : Watcher) : (setWatcher s w x).bar2Waits = s.bar2Waits := rfl
@[simp] theorem setWatcher_copies (s : State) (w : Nat) (x : Watcher) : (setWatcher s w x).copies = s.copies := rfl
@[simp] theorem setWatcher_priTimeout (s : State) (w : Nat) (x : Watcher) : (setWatcher s w x).priTimeout = s.priTimeout := rfl
@[simp] theorem setWatcher_tiles (s : State) (w : Nat) (x : Watcher) : (setWatcher s w x).tiles = s.tiles := rfl
@[simp] theorem setWatcher_images (s : State) (w : Nat) (x : Watcher) : (setWatcher s w x).images = s.images := rfl
@[simp] theorem setWatcher_contexts (s : State) (w : Nat) (x : Watcher) : (setWatcher s w x).contexts = s.contexts := rfl
@[simp] theorem setWatcher_floe (s : State) (w : Nat) (x : Watcher) : (setWatcher s w x).floe = s.floe := rfl
@[simp] theorem setWatcher_trns (s : State) (w : Nat) (x : Watcher) : (setWatcher s w x).trns = s.trns := rfl
@[simp] theorem setWatcher_trnHeld (s : State) (w : Nat) (x : Watcher) : (setWatcher s w x).trnHeld = s.trnHeld := rfl
@[simp] theorem setWatcher_noc (s : State) (w : Nat) (x : Watcher) : (setWatcher s w x).noc = s.noc := rfl
@[simp] theorem setWatcher_casc (s : State) (w : Nat) (x : Watcher) : (setWatcher s w x).casc = s.casc := rfl
@[simp] theorem setWatcher_mid (s : State) (w : Nat) (x : Watcher) : (setWatcher s w x).mid = s.mid := rfl
@[simp] theorem setWatcher_cfg (s : State) (w : Nat) (x : Watcher) : (setWatcher s w x).cfg = s.cfg := rfl
@[simp] theorem setWatcher_nextOrder (s : State) (w : Nat) (x : Watcher) : (setWatcher s w x).nextOrder = s.nextOrder := rfl
@[simp] theorem setWatcher_counters (s : State) (w : Nat) (x : Watcher) : (setWatcher s w x).counters = s.counters := rfl
@[simp] theorem setWatcher_works (s : State) (w : Nat) (x : Watcher) : (setWatcher s w x).works = s.works := rfl
@[simp] theorem setWatcher_worksSeen (s : State) (w : Nat) (x : Watcher) : (setWatcher s w x).worksSeen = s.worksSeen := rfl

@[simp] theorem markWork_pending (us : List Nat) (s : State) : (markWork us s).pending = s.pending := rfl
@[simp] theorem markWork_outbox (us : List Nat) (s : State) : (markWork us s).outbox = s.outbox := rfl
@[simp] theorem markWork_time (us : List Nat) (s : State) : (markWork us s).time = s.time := rfl
@[simp] theorem markWork_fresh (us : List Nat) (s : State) : (markWork us s).fresh = s.fresh := rfl
@[simp] theorem markWork_variant (us : List Nat) (s : State) : (markWork us s).variant = s.variant := rfl
@[simp] theorem markWork_fused (us : List Nat) (s : State) : (markWork us s).fused = s.fused := rfl
@[simp] theorem markWork_mor (us : List Nat) (s : State) : (markWork us s).mor = s.mor := rfl
@[simp] theorem markWork_ice (us : List Nat) (s : State) : (markWork us s).ice = s.ice := rfl
@[simp] theorem markWork_pwr (us : List Nat) (s : State) : (markWork us s).pwr = s.pwr := rfl
@[simp] theorem markWork_st (us : List Nat) (s : State) : (markWork us s).st = s.st := rfl
@[simp] theorem markWork_funcs (us : List Nat) (s : State) : (markWork us s).funcs = s.funcs := rfl
@[simp] theorem markWork_link (us : List Nat) (s : State) : (markWork us s).link = s.link := rfl
@[simp] theorem markWork_dropped (us : List Nat) (s : State) : (markWork us s).dropped = s.dropped := rfl
@[simp] theorem markWork_groups (us : List Nat) (s : State) : (markWork us s).groups = s.groups := rfl
@[simp] theorem markWork_queues (us : List Nat) (s : State) : (markWork us s).queues = s.queues := rfl
@[simp] theorem markWork_arb (us : List Nat) (s : State) : (markWork us s).arb = s.arb := rfl
@[simp] theorem markWork_ops (us : List Nat) (s : State) : (markWork us s).ops = s.ops := rfl
@[simp] theorem markWork_nextTag (us : List Nat) (s : State) : (markWork us s).nextTag = s.nextTag := rfl
@[simp] theorem markWork_pages (us : List Nat) (s : State) : (markWork us s).pages = s.pages := rfl
@[simp] theorem markWork_resets (us : List Nat) (s : State) : (markWork us s).resets = s.resets := rfl
@[simp] theorem markWork_place (us : List Nat) (s : State) : (markWork us s).place = s.place := rfl
@[simp] theorem markWork_dmem (us : List Nat) (s : State) : (markWork us s).dmem = s.dmem := rfl
@[simp] theorem markWork_hmem (us : List Nat) (s : State) : (markWork us s).hmem = s.hmem := rfl
@[simp] theorem markWork_fills (us : List Nat) (s : State) : (markWork us s).fills = s.fills := rfl
@[simp] theorem markWork_memStacks (us : List Nat) (s : State) : (markWork us s).memStacks = s.memStacks := rfl
@[simp] theorem markWork_windows (us : List Nat) (s : State) : (markWork us s).windows = s.windows := rfl
@[simp] theorem markWork_cxl (us : List Nat) (s : State) : (markWork us s).cxl = s.cxl := rfl
@[simp] theorem markWork_kv (us : List Nat) (s : State) : (markWork us s).kv = s.kv := rfl
@[simp] theorem markWork_ats (us : List Nat) (s : State) : (markWork us s).ats = s.ats := rfl
@[simp] theorem markWork_pris (us : List Nat) (s : State) : (markWork us s).pris = s.pris := rfl
@[simp] theorem markWork_bar2Waits (us : List Nat) (s : State) : (markWork us s).bar2Waits = s.bar2Waits := rfl
@[simp] theorem markWork_copies (us : List Nat) (s : State) : (markWork us s).copies = s.copies := rfl
@[simp] theorem markWork_priTimeout (us : List Nat) (s : State) : (markWork us s).priTimeout = s.priTimeout := rfl
@[simp] theorem markWork_tiles (us : List Nat) (s : State) : (markWork us s).tiles = s.tiles := rfl
@[simp] theorem markWork_images (us : List Nat) (s : State) : (markWork us s).images = s.images := rfl
@[simp] theorem markWork_contexts (us : List Nat) (s : State) : (markWork us s).contexts = s.contexts := rfl
@[simp] theorem markWork_floe (us : List Nat) (s : State) : (markWork us s).floe = s.floe := rfl
@[simp] theorem markWork_trns (us : List Nat) (s : State) : (markWork us s).trns = s.trns := rfl
@[simp] theorem markWork_trnHeld (us : List Nat) (s : State) : (markWork us s).trnHeld = s.trnHeld := rfl
@[simp] theorem markWork_watchers (us : List Nat) (s : State) : (markWork us s).watchers = s.watchers := rfl
@[simp] theorem markWork_noc (us : List Nat) (s : State) : (markWork us s).noc = s.noc := rfl
@[simp] theorem markWork_casc (us : List Nat) (s : State) : (markWork us s).casc = s.casc := rfl
@[simp] theorem markWork_mid (us : List Nat) (s : State) : (markWork us s).mid = s.mid := rfl
@[simp] theorem markWork_cfg (us : List Nat) (s : State) : (markWork us s).cfg = s.cfg := rfl
@[simp] theorem markWork_nextOrder (us : List Nat) (s : State) : (markWork us s).nextOrder = s.nextOrder := rfl
@[simp] theorem markWork_counters (us : List Nat) (s : State) : (markWork us s).counters = s.counters := rfl
@[simp] theorem markWork_worksSeen (us : List Nat) (s : State) : (markWork us s).worksSeen = s.worksSeen := rfl

@[simp] theorem beginOp_pending (o : Op) (s : State) : (beginOp o s).pending = s.pending := rfl
@[simp] theorem beginOp_outbox (o : Op) (s : State) : (beginOp o s).outbox = s.outbox := rfl
@[simp] theorem beginOp_time (o : Op) (s : State) : (beginOp o s).time = s.time := rfl
@[simp] theorem beginOp_fresh (o : Op) (s : State) : (beginOp o s).fresh = s.fresh := rfl
@[simp] theorem beginOp_variant (o : Op) (s : State) : (beginOp o s).variant = s.variant := rfl
@[simp] theorem beginOp_fused (o : Op) (s : State) : (beginOp o s).fused = s.fused := rfl
@[simp] theorem beginOp_mor (o : Op) (s : State) : (beginOp o s).mor = s.mor := rfl
@[simp] theorem beginOp_ice (o : Op) (s : State) : (beginOp o s).ice = s.ice := rfl
@[simp] theorem beginOp_pwr (o : Op) (s : State) : (beginOp o s).pwr = s.pwr := rfl
@[simp] theorem beginOp_st (o : Op) (s : State) : (beginOp o s).st = s.st := rfl
@[simp] theorem beginOp_funcs (o : Op) (s : State) : (beginOp o s).funcs = s.funcs := rfl
@[simp] theorem beginOp_link (o : Op) (s : State) : (beginOp o s).link = s.link := rfl
@[simp] theorem beginOp_dropped (o : Op) (s : State) : (beginOp o s).dropped = s.dropped := rfl
@[simp] theorem beginOp_groups (o : Op) (s : State) : (beginOp o s).groups = s.groups := rfl
@[simp] theorem beginOp_queues (o : Op) (s : State) : (beginOp o s).queues = s.queues := rfl
@[simp] theorem beginOp_arb (o : Op) (s : State) : (beginOp o s).arb = s.arb := rfl
@[simp] theorem beginOp_nextTag (o : Op) (s : State) : (beginOp o s).nextTag = s.nextTag := rfl
@[simp] theorem beginOp_pages (o : Op) (s : State) : (beginOp o s).pages = s.pages := rfl
@[simp] theorem beginOp_resets (o : Op) (s : State) : (beginOp o s).resets = s.resets := rfl
@[simp] theorem beginOp_place (o : Op) (s : State) : (beginOp o s).place = s.place := rfl
@[simp] theorem beginOp_dmem (o : Op) (s : State) : (beginOp o s).dmem = s.dmem := rfl
@[simp] theorem beginOp_hmem (o : Op) (s : State) : (beginOp o s).hmem = s.hmem := rfl
@[simp] theorem beginOp_fills (o : Op) (s : State) : (beginOp o s).fills = s.fills := rfl
@[simp] theorem beginOp_memStacks (o : Op) (s : State) : (beginOp o s).memStacks = s.memStacks := rfl
@[simp] theorem beginOp_windows (o : Op) (s : State) : (beginOp o s).windows = s.windows := rfl
@[simp] theorem beginOp_cxl (o : Op) (s : State) : (beginOp o s).cxl = s.cxl := rfl
@[simp] theorem beginOp_kv (o : Op) (s : State) : (beginOp o s).kv = s.kv := rfl
@[simp] theorem beginOp_ats (o : Op) (s : State) : (beginOp o s).ats = s.ats := rfl
@[simp] theorem beginOp_pris (o : Op) (s : State) : (beginOp o s).pris = s.pris := rfl
@[simp] theorem beginOp_bar2Waits (o : Op) (s : State) : (beginOp o s).bar2Waits = s.bar2Waits := rfl
@[simp] theorem beginOp_copies (o : Op) (s : State) : (beginOp o s).copies = s.copies := rfl
@[simp] theorem beginOp_priTimeout (o : Op) (s : State) : (beginOp o s).priTimeout = s.priTimeout := rfl
@[simp] theorem beginOp_tiles (o : Op) (s : State) : (beginOp o s).tiles = s.tiles := rfl
@[simp] theorem beginOp_images (o : Op) (s : State) : (beginOp o s).images = s.images := rfl
@[simp] theorem beginOp_contexts (o : Op) (s : State) : (beginOp o s).contexts = s.contexts := rfl
@[simp] theorem beginOp_trns (o : Op) (s : State) : (beginOp o s).trns = s.trns := rfl
@[simp] theorem beginOp_trnHeld (o : Op) (s : State) : (beginOp o s).trnHeld = s.trnHeld := rfl
@[simp] theorem beginOp_watchers (o : Op) (s : State) : (beginOp o s).watchers = s.watchers := rfl
@[simp] theorem beginOp_noc (o : Op) (s : State) : (beginOp o s).noc = s.noc := rfl
@[simp] theorem beginOp_casc (o : Op) (s : State) : (beginOp o s).casc = s.casc := rfl
@[simp] theorem beginOp_mid (o : Op) (s : State) : (beginOp o s).mid = s.mid := rfl
@[simp] theorem beginOp_cfg (o : Op) (s : State) : (beginOp o s).cfg = s.cfg := rfl
@[simp] theorem beginOp_nextOrder (o : Op) (s : State) : (beginOp o s).nextOrder = s.nextOrder := rfl
@[simp] theorem beginOp_counters (o : Op) (s : State) : (beginOp o s).counters = s.counters := rfl
@[simp] theorem beginOp_worksSeen (o : Op) (s : State) : (beginOp o s).worksSeen = s.worksSeen := rfl

@[simp] theorem zeroPhys_pending (a n : Nat) (s : State) : (zeroPhys a n s).pending = s.pending := rfl
@[simp] theorem zeroPhys_outbox (a n : Nat) (s : State) : (zeroPhys a n s).outbox = s.outbox := rfl
@[simp] theorem zeroPhys_time (a n : Nat) (s : State) : (zeroPhys a n s).time = s.time := rfl
@[simp] theorem zeroPhys_fresh (a n : Nat) (s : State) : (zeroPhys a n s).fresh = s.fresh := rfl
@[simp] theorem zeroPhys_variant (a n : Nat) (s : State) : (zeroPhys a n s).variant = s.variant := rfl
@[simp] theorem zeroPhys_fused (a n : Nat) (s : State) : (zeroPhys a n s).fused = s.fused := rfl
@[simp] theorem zeroPhys_mor (a n : Nat) (s : State) : (zeroPhys a n s).mor = s.mor := rfl
@[simp] theorem zeroPhys_ice (a n : Nat) (s : State) : (zeroPhys a n s).ice = s.ice := rfl
@[simp] theorem zeroPhys_pwr (a n : Nat) (s : State) : (zeroPhys a n s).pwr = s.pwr := rfl
@[simp] theorem zeroPhys_st (a n : Nat) (s : State) : (zeroPhys a n s).st = s.st := rfl
@[simp] theorem zeroPhys_funcs (a n : Nat) (s : State) : (zeroPhys a n s).funcs = s.funcs := rfl
@[simp] theorem zeroPhys_link (a n : Nat) (s : State) : (zeroPhys a n s).link = s.link := rfl
@[simp] theorem zeroPhys_dropped (a n : Nat) (s : State) : (zeroPhys a n s).dropped = s.dropped := rfl
@[simp] theorem zeroPhys_groups (a n : Nat) (s : State) : (zeroPhys a n s).groups = s.groups := rfl
@[simp] theorem zeroPhys_queues (a n : Nat) (s : State) : (zeroPhys a n s).queues = s.queues := rfl
@[simp] theorem zeroPhys_arb (a n : Nat) (s : State) : (zeroPhys a n s).arb = s.arb := rfl
@[simp] theorem zeroPhys_ops (a n : Nat) (s : State) : (zeroPhys a n s).ops = s.ops := rfl
@[simp] theorem zeroPhys_nextTag (a n : Nat) (s : State) : (zeroPhys a n s).nextTag = s.nextTag := rfl
@[simp] theorem zeroPhys_pages (a n : Nat) (s : State) : (zeroPhys a n s).pages = s.pages := rfl
@[simp] theorem zeroPhys_resets (a n : Nat) (s : State) : (zeroPhys a n s).resets = s.resets := rfl
@[simp] theorem zeroPhys_place (a n : Nat) (s : State) : (zeroPhys a n s).place = s.place := rfl
@[simp] theorem zeroPhys_hmem (a n : Nat) (s : State) : (zeroPhys a n s).hmem = s.hmem := rfl
@[simp] theorem zeroPhys_fills (a n : Nat) (s : State) : (zeroPhys a n s).fills = s.fills := rfl
@[simp] theorem zeroPhys_windows (a n : Nat) (s : State) : (zeroPhys a n s).windows = s.windows := rfl
@[simp] theorem zeroPhys_cxl (a n : Nat) (s : State) : (zeroPhys a n s).cxl = s.cxl := rfl
@[simp] theorem zeroPhys_kv (a n : Nat) (s : State) : (zeroPhys a n s).kv = s.kv := rfl
@[simp] theorem zeroPhys_ats (a n : Nat) (s : State) : (zeroPhys a n s).ats = s.ats := rfl
@[simp] theorem zeroPhys_pris (a n : Nat) (s : State) : (zeroPhys a n s).pris = s.pris := rfl
@[simp] theorem zeroPhys_bar2Waits (a n : Nat) (s : State) : (zeroPhys a n s).bar2Waits = s.bar2Waits := rfl
@[simp] theorem zeroPhys_copies (a n : Nat) (s : State) : (zeroPhys a n s).copies = s.copies := rfl
@[simp] theorem zeroPhys_priTimeout (a n : Nat) (s : State) : (zeroPhys a n s).priTimeout = s.priTimeout := rfl
@[simp] theorem zeroPhys_tiles (a n : Nat) (s : State) : (zeroPhys a n s).tiles = s.tiles := rfl
@[simp] theorem zeroPhys_images (a n : Nat) (s : State) : (zeroPhys a n s).images = s.images := rfl
@[simp] theorem zeroPhys_contexts (a n : Nat) (s : State) : (zeroPhys a n s).contexts = s.contexts := rfl
@[simp] theorem zeroPhys_floe (a n : Nat) (s : State) : (zeroPhys a n s).floe = s.floe := rfl
@[simp] theorem zeroPhys_trns (a n : Nat) (s : State) : (zeroPhys a n s).trns = s.trns := rfl
@[simp] theorem zeroPhys_trnHeld (a n : Nat) (s : State) : (zeroPhys a n s).trnHeld = s.trnHeld := rfl
@[simp] theorem zeroPhys_watchers (a n : Nat) (s : State) : (zeroPhys a n s).watchers = s.watchers := rfl
@[simp] theorem zeroPhys_casc (a n : Nat) (s : State) : (zeroPhys a n s).casc = s.casc := rfl
@[simp] theorem zeroPhys_mid (a n : Nat) (s : State) : (zeroPhys a n s).mid = s.mid := rfl
@[simp] theorem zeroPhys_cfg (a n : Nat) (s : State) : (zeroPhys a n s).cfg = s.cfg := rfl
@[simp] theorem zeroPhys_nextOrder (a n : Nat) (s : State) : (zeroPhys a n s).nextOrder = s.nextOrder := rfl
@[simp] theorem zeroPhys_counters (a n : Nat) (s : State) : (zeroPhys a n s).counters = s.counters := rfl
@[simp] theorem zeroPhys_works (a n : Nat) (s : State) : (zeroPhys a n s).works = s.works := rfl
@[simp] theorem zeroPhys_worksSeen (a n : Nat) (s : State) : (zeroPhys a n s).worksSeen = s.worksSeen := rfl

/-! What they write. -/

@[simp] theorem emit_outbox (o : Out) (s : State) : (emit o s).outbox = s.outbox ++ [o] := rfl
@[simp] theorem putPort_mid (s : State) (m : Nat) (x : MidPort) : (putPort s m x).mid = (setPort s m x).mid := rfl
@[simp] theorem takeFree_fresh (w : Nat) (s : State) : (takeFree w s).2.fresh = s.fresh + 1 := rfl
@[simp] theorem takeFree_value (w : Nat) (s : State) : (takeFree w s).1 = Config.freeBits w s.fresh := rfl
@[simp] theorem endOp_fills (tag : Nat) (r : Result) (s : State) : (endOp tag r s).fills = [] := rfl

end Sys2Proof.Machine
end

