-- ==== Sys2Proof/Laws/Frames.lean ====
section
/-! SUPPORT. What the shared operations leave: each says once which fields it can change. -/

namespace Sys2Proof.Machine

theorem sendMsix_frame (func vec : Nat) (s : State) :
    ∃ x0 x1, sendMsix func vec s = { s with funcs := x0, outbox := x1 } := by
  unfold sendMsix
  dsimp only
  split
  · exact ⟨s.funcs, _, rfl⟩
  · exact ⟨_, s.outbox, rfl⟩

@[simp] theorem sendMsix_pending (func vec : Nat) (s : State) : (sendMsix func vec s).pending = s.pending := by
  obtain ⟨_, _, h⟩ := sendMsix_frame func vec s; rw [h]
@[simp] theorem sendMsix_time (func vec : Nat) (s : State) : (sendMsix func vec s).time = s.time := by
  obtain ⟨_, _, h⟩ := sendMsix_frame func vec s; rw [h]
@[simp] theorem sendMsix_fresh (func vec : Nat) (s : State) : (sendMsix func vec s).fresh = s.fresh := by
  obtain ⟨_, _, h⟩ := sendMsix_frame func vec s; rw [h]
@[simp] theorem sendMsix_variant (func vec : Nat) (s : State) : (sendMsix func vec s).variant = s.variant := by
  obtain ⟨_, _, h⟩ := sendMsix_frame func vec s; rw [h]
@[simp] theorem sendMsix_fused (func vec : Nat) (s : State) : (sendMsix func vec s).fused = s.fused := by
  obtain ⟨_, _, h⟩ := sendMsix_frame func vec s; rw [h]
@[simp] theorem sendMsix_mor (func vec : Nat) (s : State) : (sendMsix func vec s).mor = s.mor := by
  obtain ⟨_, _, h⟩ := sendMsix_frame func vec s; rw [h]
@[simp] theorem sendMsix_ice (func vec : Nat) (s : State) : (sendMsix func vec s).ice = s.ice := by
  obtain ⟨_, _, h⟩ := sendMsix_frame func vec s; rw [h]
@[simp] theorem sendMsix_pwr (func vec : Nat) (s : State) : (sendMsix func vec s).pwr = s.pwr := by
  obtain ⟨_, _, h⟩ := sendMsix_frame func vec s; rw [h]
@[simp] theorem sendMsix_st (func vec : Nat) (s : State) : (sendMsix func vec s).st = s.st := by
  obtain ⟨_, _, h⟩ := sendMsix_frame func vec s; rw [h]
@[simp] theorem sendMsix_link (func vec : Nat) (s : State) : (sendMsix func vec s).link = s.link := by
  obtain ⟨_, _, h⟩ := sendMsix_frame func vec s; rw [h]
@[simp] theorem sendMsix_dropped (func vec : Nat) (s : State) : (sendMsix func vec s).dropped = s.dropped := by
  obtain ⟨_, _, h⟩ := sendMsix_frame func vec s; rw [h]
@[simp] theorem sendMsix_groups (func vec : Nat) (s : State) : (sendMsix func vec s).groups = s.groups := by
  obtain ⟨_, _, h⟩ := sendMsix_frame func vec s; rw [h]
@[simp] theorem sendMsix_queues (func vec : Nat) (s : State) : (sendMsix func vec s).queues = s.queues := by
  obtain ⟨_, _, h⟩ := sendMsix_frame func vec s; rw [h]
@[simp] theorem sendMsix_arb (func vec : Nat) (s : State) : (sendMsix func vec s).arb = s.arb := by
  obtain ⟨_, _, h⟩ := sendMsix_frame func vec s; rw [h]
@[simp] theorem sendMsix_ops (func vec : Nat) (s : State) : (sendMsix func vec s).ops = s.ops := by
  obtain ⟨_, _, h⟩ := sendMsix_frame func vec s; rw [h]
@[simp] theorem sendMsix_nextTag (func vec : Nat) (s : State) : (sendMsix func vec s).nextTag = s.nextTag := by
  obtain ⟨_, _, h⟩ := sendMsix_frame func vec s; rw [h]
@[simp] theorem sendMsix_pages (func vec : Nat) (s : State) : (sendMsix func vec s).pages = s.pages := by
  obtain ⟨_, _, h⟩ := sendMsix_frame func vec s; rw [h]
@[simp] theorem sendMsix_resets (func vec : Nat) (s : State) : (sendMsix func vec s).resets = s.resets := by
  obtain ⟨_, _, h⟩ := sendMsix_frame func vec s; rw [h]
@[simp] theorem sendMsix_place (func vec : Nat) (s : State) : (sendMsix func vec s).place = s.place := by
  obtain ⟨_, _, h⟩ := sendMsix_frame func vec s; rw [h]
@[simp] theorem sendMsix_dmem (func vec : Nat) (s : State) : (sendMsix func vec s).dmem = s.dmem := by
  obtain ⟨_, _, h⟩ := sendMsix_frame func vec s; rw [h]
@[simp] theorem sendMsix_hmem (func vec : Nat) (s : State) : (sendMsix func vec s).hmem = s.hmem := by
  obtain ⟨_, _, h⟩ := sendMsix_frame func vec s; rw [h]
@[simp] theorem sendMsix_fills (func vec : Nat) (s : State) : (sendMsix func vec s).fills = s.fills := by
  obtain ⟨_, _, h⟩ := sendMsix_frame func vec s; rw [h]
@[simp] theorem sendMsix_memStacks (func vec : Nat) (s : State) : (sendMsix func vec s).memStacks = s.memStacks := by
  obtain ⟨_, _, h⟩ := sendMsix_frame func vec s; rw [h]
@[simp] theorem sendMsix_windows (func vec : Nat) (s : State) : (sendMsix func vec s).windows = s.windows := by
  obtain ⟨_, _, h⟩ := sendMsix_frame func vec s; rw [h]
@[simp] theorem sendMsix_cxl (func vec : Nat) (s : State) : (sendMsix func vec s).cxl = s.cxl := by
  obtain ⟨_, _, h⟩ := sendMsix_frame func vec s; rw [h]
@[simp] theorem sendMsix_kv (func vec : Nat) (s : State) : (sendMsix func vec s).kv = s.kv := by
  obtain ⟨_, _, h⟩ := sendMsix_frame func vec s; rw [h]
@[simp] theorem sendMsix_ats (func vec : Nat) (s : State) : (sendMsix func vec s).ats = s.ats := by
  obtain ⟨_, _, h⟩ := sendMsix_frame func vec s; rw [h]
@[simp] theorem sendMsix_pris (func vec : Nat) (s : State) : (sendMsix func vec s).pris = s.pris := by
  obtain ⟨_, _, h⟩ := sendMsix_frame func vec s; rw [h]
@[simp] theorem sendMsix_bar2Waits (func vec : Nat) (s : State) : (sendMsix func vec s).bar2Waits = s.bar2Waits := by
  obtain ⟨_, _, h⟩ := sendMsix_frame func vec s; rw [h]
@[simp] theorem sendMsix_copies (func vec : Nat) (s : State) : (sendMsix func vec s).copies = s.copies := by
  obtain ⟨_, _, h⟩ := sendMsix_frame func vec s; rw [h]
@[simp] theorem sendMsix_priTimeout (func vec : Nat) (s : State) : (sendMsix func vec s).priTimeout = s.priTimeout := by
  obtain ⟨_, _, h⟩ := sendMsix_frame func vec s; rw [h]
@[simp] theorem sendMsix_tiles (func vec : Nat) (s : State) : (sendMsix func vec s).tiles = s.tiles := by
  obtain ⟨_, _, h⟩ := sendMsix_frame func vec s; rw [h]
@[simp] theorem sendMsix_images (func vec : Nat) (s : State) : (sendMsix func vec s).images = s.images := by
  obtain ⟨_, _, h⟩ := sendMsix_frame func vec s; rw [h]
@[simp] theorem sendMsix_contexts (func vec : Nat) (s : State) : (sendMsix func vec s).contexts = s.contexts := by
  obtain ⟨_, _, h⟩ := sendMsix_frame func vec s; rw [h]
@[simp] theorem sendMsix_floe (func vec : Nat) (s : State) : (sendMsix func vec s).floe = s.floe := by
  obtain ⟨_, _, h⟩ := sendMsix_frame func vec s; rw [h]
@[simp] theorem sendMsix_trns (func vec : Nat) (s : State) : (sendMsix func vec s).trns = s.trns := by
  obtain ⟨_, _, h⟩ := sendMsix_frame func vec s; rw [h]
@[simp] theorem sendMsix_trnHeld (func vec : Nat) (s : State) : (sendMsix func vec s).trnHeld = s.trnHeld := by
  obtain ⟨_, _, h⟩ := sendMsix_frame func vec s; rw [h]
@[simp] theorem sendMsix_watchers (func vec : Nat) (s : State) : (sendMsix func vec s).watchers = s.watchers := by
  obtain ⟨_, _, h⟩ := sendMsix_frame func vec s; rw [h]
@[simp] theorem sendMsix_noc (func vec : Nat) (s : State) : (sendMsix func vec s).noc = s.noc := by
  obtain ⟨_, _, h⟩ := sendMsix_frame func vec s; rw [h]
@[simp] theorem sendMsix_casc (func vec : Nat) (s : State) : (sendMsix func vec s).casc = s.casc := by
  obtain ⟨_, _, h⟩ := sendMsix_frame func vec s; rw [h]
@[simp] theorem sendMsix_mid (func vec : Nat) (s : State) : (sendMsix func vec s).mid = s.mid := by
  obtain ⟨_, _, h⟩ := sendMsix_frame func vec s; rw [h]
@[simp] theorem sendMsix_cfg (func vec : Nat) (s : State) : (sendMsix func vec s).cfg = s.cfg := by
  obtain ⟨_, _, h⟩ := sendMsix_frame func vec s; rw [h]
@[simp] theorem sendMsix_nextOrder (func vec : Nat) (s : State) : (sendMsix func vec s).nextOrder = s.nextOrder := by
  obtain ⟨_, _, h⟩ := sendMsix_frame func vec s; rw [h]
@[simp] theorem sendMsix_counters (func vec : Nat) (s : State) : (sendMsix func vec s).counters = s.counters := by
  obtain ⟨_, _, h⟩ := sendMsix_frame func vec s; rw [h]
@[simp] theorem sendMsix_works (func vec : Nat) (s : State) : (sendMsix func vec s).works = s.works := by
  obtain ⟨_, _, h⟩ := sendMsix_frame func vec s; rw [h]
@[simp] theorem sendMsix_worksSeen (func vec : Nat) (s : State) : (sendMsix func vec s).worksSeen = s.worksSeen := by
  obtain ⟨_, _, h⟩ := sendMsix_frame func vec s; rw [h]

theorem sendPending_frame (func : Nat) (s : State) :
    ∃ x0 x1, sendPending func s = { s with funcs := x0, outbox := x1 } := by
  unfold sendPending
  dsimp only
  suffices h : ∀ (l : List Nat) (u : State), (∃ x0 x1, u = { s with funcs := x0, outbox := x1 }) →
      ∃ x0 x1, l.foldl (fun s v => sendMsix func v s) u = { s with funcs := x0, outbox := x1 } from
    h _ _ ⟨_, s.outbox, rfl⟩
  intro l
  induction l with
  | nil => exact fun _ h => h
  | cons v l ih =>
    rintro _ ⟨x0, x1, rfl⟩
    obtain ⟨y0, y1, h⟩ := sendMsix_frame func v { s with funcs := x0, outbox := x1 }
    exact ih _ ⟨y0, y1, h⟩

@[simp] theorem sendPending_pending (func : Nat) (s : State) : (sendPending func s).pending = s.pending := by
  obtain ⟨_, _, h⟩ := sendPending_frame func s; rw [h]
@[simp] theorem sendPending_time (func : Nat) (s : State) : (sendPending func s).time = s.time := by
  obtain ⟨_, _, h⟩ := sendPending_frame func s; rw [h]
@[simp] theorem sendPending_fresh (func : Nat) (s : State) : (sendPending func s).fresh = s.fresh := by
  obtain ⟨_, _, h⟩ := sendPending_frame func s; rw [h]
@[simp] theorem sendPending_variant (func : Nat) (s : State) : (sendPending func s).variant = s.variant := by
  obtain ⟨_, _, h⟩ := sendPending_frame func s; rw [h]
@[simp] theorem sendPending_fused (func : Nat) (s : State) : (sendPending func s).fused = s.fused := by
  obtain ⟨_, _, h⟩ := sendPending_frame func s; rw [h]
@[simp] theorem sendPending_mor (func : Nat) (s : State) : (sendPending func s).mor = s.mor := by
  obtain ⟨_, _, h⟩ := sendPending_frame func s; rw [h]
@[simp] theorem sendPending_ice (func : Nat) (s : State) : (sendPending func s).ice = s.ice := by
  obtain ⟨_, _, h⟩ := sendPending_frame func s; rw [h]
@[simp] theorem sendPending_pwr (func : Nat) (s : State) : (sendPending func s).pwr = s.pwr := by
  obtain ⟨_, _, h⟩ := sendPending_frame func s; rw [h]
@[simp] theorem sendPending_st (func : Nat) (s : State) : (sendPending func s).st = s.st := by
  obtain ⟨_, _, h⟩ := sendPending_frame func s; rw [h]
@[simp] theorem sendPending_link (func : Nat) (s : State) : (sendPending func s).link = s.link := by
  obtain ⟨_, _, h⟩ := sendPending_frame func s; rw [h]
@[simp] theorem sendPending_dropped (func : Nat) (s : State) : (sendPending func s).dropped = s.dropped := by
  obtain ⟨_, _, h⟩ := sendPending_frame func s; rw [h]
@[simp] theorem sendPending_groups (func : Nat) (s : State) : (sendPending func s).groups = s.groups := by
  obtain ⟨_, _, h⟩ := sendPending_frame func s; rw [h]
@[simp] theorem sendPending_queues (func : Nat) (s : State) : (sendPending func s).queues = s.queues := by
  obtain ⟨_, _, h⟩ := sendPending_frame func s; rw [h]
@[simp] theorem sendPending_arb (func : Nat) (s : State) : (sendPending func s).arb = s.arb := by
  obtain ⟨_, _, h⟩ := sendPending_frame func s; rw [h]
@[simp] theorem sendPending_ops (func : Nat) (s : State) : (sendPending func s).ops = s.ops := by
  obtain ⟨_, _, h⟩ := sendPending_frame func s; rw [h]
@[simp] theorem sendPending_nextTag (func : Nat) (s : State) : (sendPending func s).nextTag = s.nextTag := by
  obtain ⟨_, _, h⟩ := sendPending_frame func s; rw [h]
@[simp] theorem sendPending_pages (func : Nat) (s : State) : (sendPending func s).pages = s.pages := by
  obtain ⟨_, _, h⟩ := sendPending_frame func s; rw [h]
@[simp] theorem sendPending_resets (func : Nat) (s : State) : (sendPending func s).resets = s.resets := by
  obtain ⟨_, _, h⟩ := sendPending_frame func s; rw [h]
@[simp] theorem sendPending_place (func : Nat) (s : State) : (sendPending func s).place = s.place := by
  obtain ⟨_, _, h⟩ := sendPending_frame func s; rw [h]
@[simp] theorem sendPending_dmem (func : Nat) (s : State) : (sendPending func s).dmem = s.dmem := by
  obtain ⟨_, _, h⟩ := sendPending_frame func s; rw [h]
@[simp] theorem sendPending_hmem (func : Nat) (s : State) : (sendPending func s).hmem = s.hmem := by
  obtain ⟨_, _, h⟩ := sendPending_frame func s; rw [h]
@[simp] theorem sendPending_fills (func : Nat) (s : State) : (sendPending func s).fills = s.fills := by
  obtain ⟨_, _, h⟩ := sendPending_frame func s; rw [h]
@[simp] theorem sendPending_memStacks (func : Nat) (s : State) : (sendPending func s).memStacks = s.memStacks := by
  obtain ⟨_, _, h⟩ := sendPending_frame func s; rw [h]
@[simp] theorem sendPending_windows (func : Nat) (s : State) : (sendPending func s).windows = s.windows := by
  obtain ⟨_, _, h⟩ := sendPending_frame func s; rw [h]
@[simp] theorem sendPending_cxl (func : Nat) (s : State) : (sendPending func s).cxl = s.cxl := by
  obtain ⟨_, _, h⟩ := sendPending_frame func s; rw [h]
@[simp] theorem sendPending_kv (func : Nat) (s : State) : (sendPending func s).kv = s.kv := by
  obtain ⟨_, _, h⟩ := sendPending_frame func s; rw [h]
@[simp] theorem sendPending_ats (func : Nat) (s : State) : (sendPending func s).ats = s.ats := by
  obtain ⟨_, _, h⟩ := sendPending_frame func s; rw [h]
@[simp] theorem sendPending_pris (func : Nat) (s : State) : (sendPending func s).pris = s.pris := by
  obtain ⟨_, _, h⟩ := sendPending_frame func s; rw [h]
@[simp] theorem sendPending_bar2Waits (func : Nat) (s : State) : (sendPending func s).bar2Waits = s.bar2Waits := by
  obtain ⟨_, _, h⟩ := sendPending_frame func s; rw [h]
@[simp] theorem sendPending_copies (func : Nat) (s : State) : (sendPending func s).copies = s.copies := by
  obtain ⟨_, _, h⟩ := sendPending_frame func s; rw [h]
@[simp] theorem sendPending_priTimeout (func : Nat) (s : State) : (sendPending func s).priTimeout = s.priTimeout := by
  obtain ⟨_, _, h⟩ := sendPending_frame func s; rw [h]
@[simp] theorem sendPending_tiles (func : Nat) (s : State) : (sendPending func s).tiles = s.tiles := by
  obtain ⟨_, _, h⟩ := sendPending_frame func s; rw [h]
@[simp] theorem sendPending_images (func : Nat) (s : State) : (sendPending func s).images = s.images := by
  obtain ⟨_, _, h⟩ := sendPending_frame func s; rw [h]
@[simp] theorem sendPending_contexts (func : Nat) (s : State) : (sendPending func s).contexts = s.contexts := by
  obtain ⟨_, _, h⟩ := sendPending_frame func s; rw [h]
@[simp] theorem sendPending_floe (func : Nat) (s : State) : (sendPending func s).floe = s.floe := by
  obtain ⟨_, _, h⟩ := sendPending_frame func s; rw [h]
@[simp] theorem sendPending_trns (func : Nat) (s : State) : (sendPending func s).trns = s.trns := by
  obtain ⟨_, _, h⟩ := sendPending_frame func s; rw [h]
@[simp] theorem sendPending_trnHeld (func : Nat) (s : State) : (sendPending func s).trnHeld = s.trnHeld := by
  obtain ⟨_, _, h⟩ := sendPending_frame func s; rw [h]
@[simp] theorem sendPending_watchers (func : Nat) (s : State) : (sendPending func s).watchers = s.watchers := by
  obtain ⟨_, _, h⟩ := sendPending_frame func s; rw [h]
@[simp] theorem sendPending_noc (func : Nat) (s : State) : (sendPending func s).noc = s.noc := by
  obtain ⟨_, _, h⟩ := sendPending_frame func s; rw [h]
@[simp] theorem sendPending_casc (func : Nat) (s : State) : (sendPending func s).casc = s.casc := by
  obtain ⟨_, _, h⟩ := sendPending_frame func s; rw [h]
@[simp] theorem sendPending_mid (func : Nat) (s : State) : (sendPending func s).mid = s.mid := by
  obtain ⟨_, _, h⟩ := sendPending_frame func s; rw [h]
@[simp] theorem sendPending_cfg (func : Nat) (s : State) : (sendPending func s).cfg = s.cfg := by
  obtain ⟨_, _, h⟩ := sendPending_frame func s; rw [h]
@[simp] theorem sendPending_nextOrder (func : Nat) (s : State) : (sendPending func s).nextOrder = s.nextOrder := by
  obtain ⟨_, _, h⟩ := sendPending_frame func s; rw [h]
@[simp] theorem sendPending_counters (func : Nat) (s : State) : (sendPending func s).counters = s.counters := by
  obtain ⟨_, _, h⟩ := sendPending_frame func s; rw [h]
@[simp] theorem sendPending_works (func : Nat) (s : State) : (sendPending func s).works = s.works := by
  obtain ⟨_, _, h⟩ := sendPending_frame func s; rw [h]
@[simp] theorem sendPending_worksSeen (func : Nat) (s : State) : (sendPending func s).worksSeen = s.worksSeen := by
  obtain ⟨_, _, h⟩ := sendPending_frame func s; rw [h]

theorem morIrq_frame (sev : Nat) (s : State) :
    ∃ x0 x1 x2, morIrq sev s = { s with mor := x0, funcs := x1, outbox := x2 } := by
  unfold morIrq
  repeat' split
  · obtain ⟨y0, y1, h⟩ := sendMsix_frame 0 s.mor.vector { s with mor := { s.mor with lastIrq := some s.time } }
    exact ⟨_, y0, y1, h⟩
  · exact ⟨_, s.funcs, s.outbox, rfl⟩
  · obtain ⟨y0, y1, h⟩ := sendMsix_frame 0 s.mor.vector { s with mor := { s.mor with lastIrq := some s.time } }
    exact ⟨_, y0, y1, h⟩
  · exact ⟨s.mor, s.funcs, s.outbox, rfl⟩

@[simp] theorem morIrq_pending (sev : Nat) (s : State) : (morIrq sev s).pending = s.pending := by
  obtain ⟨_, _, _, h⟩ := morIrq_frame sev s; rw [h]
@[simp] theorem morIrq_time (sev : Nat) (s : State) : (morIrq sev s).time = s.time := by
  obtain ⟨_, _, _, h⟩ := morIrq_frame sev s; rw [h]
@[simp] theorem morIrq_fresh (sev : Nat) (s : State) : (morIrq sev s).fresh = s.fresh := by
  obtain ⟨_, _, _, h⟩ := morIrq_frame sev s; rw [h]
@[simp] theorem morIrq_variant (sev : Nat) (s : State) : (morIrq sev s).variant = s.variant := by
  obtain ⟨_, _, _, h⟩ := morIrq_frame sev s; rw [h]
@[simp] theorem morIrq_fused (sev : Nat) (s : State) : (morIrq sev s).fused = s.fused := by
  obtain ⟨_, _, _, h⟩ := morIrq_frame sev s; rw [h]
@[simp] theorem morIrq_ice (sev : Nat) (s : State) : (morIrq sev s).ice = s.ice := by
  obtain ⟨_, _, _, h⟩ := morIrq_frame sev s; rw [h]
@[simp] theorem morIrq_pwr (sev : Nat) (s : State) : (morIrq sev s).pwr = s.pwr := by
  obtain ⟨_, _, _, h⟩ := morIrq_frame sev s; rw [h]
@[simp] theorem morIrq_st (sev : Nat) (s : State) : (morIrq sev s).st = s.st := by
  obtain ⟨_, _, _, h⟩ := morIrq_frame sev s; rw [h]
@[simp] theorem morIrq_link (sev : Nat) (s : State) : (morIrq sev s).link = s.link := by
  obtain ⟨_, _, _, h⟩ := morIrq_frame sev s; rw [h]
@[simp] theorem morIrq_dropped (sev : Nat) (s : State) : (morIrq sev s).dropped = s.dropped := by
  obtain ⟨_, _, _, h⟩ := morIrq_frame sev s; rw [h]
@[simp] theorem morIrq_groups (sev : Nat) (s : State) : (morIrq sev s).groups = s.groups := by
  obtain ⟨_, _, _, h⟩ := morIrq_frame sev s; rw [h]
@[simp] theorem morIrq_queues (sev : Nat) (s : State) : (morIrq sev s).queues = s.queues := by
  obtain ⟨_, _, _, h⟩ := morIrq_frame sev s; rw [h]
@[simp] theorem morIrq_arb (sev : Nat) (s : State) : (morIrq sev s).arb = s.arb := by
  obtain ⟨_, _, _, h⟩ := morIrq_frame sev s; rw [h]
@[simp] theorem morIrq_ops (sev : Nat) (s : State) : (morIrq sev s).ops = s.ops := by
  obtain ⟨_, _, _, h⟩ := morIrq_frame sev s; rw [h]
@[simp] theorem morIrq_nextTag (sev : Nat) (s : State) : (morIrq sev s).nextTag = s.nextTag := by
  obtain ⟨_, _, _, h⟩ := morIrq_frame sev s; rw [h]
@[simp] theorem morIrq_pages (sev : Nat) (s : State) : (morIrq sev s).pages = s.pages := by
  obtain ⟨_, _, _, h⟩ := morIrq_frame sev s; rw [h]
@[simp] theorem morIrq_resets (sev : Nat) (s : State) : (morIrq sev s).resets = s.resets := by
  obtain ⟨_, _, _, h⟩ := morIrq_frame sev s; rw [h]
@[simp] theorem morIrq_place (sev : Nat) (s : State) : (morIrq sev s).place = s.place := by
  obtain ⟨_, _, _, h⟩ := morIrq_frame sev s; rw [h]
@[simp] theorem morIrq_dmem (sev : Nat) (s : State) : (morIrq sev s).dmem = s.dmem := by
  obtain ⟨_, _, _, h⟩ := morIrq_frame sev s; rw [h]
@[simp] theorem morIrq_hmem (sev : Nat) (s : State) : (morIrq sev s).hmem = s.hmem := by
  obtain ⟨_, _, _, h⟩ := morIrq_frame sev s; rw [h]
@[simp] theorem morIrq_fills (sev : Nat) (s : State) : (morIrq sev s).fills = s.fills := by
  obtain ⟨_, _, _, h⟩ := morIrq_frame sev s; rw [h]
@[simp] theorem morIrq_memStacks (sev : Nat) (s : State) : (morIrq sev s).memStacks = s.memStacks := by
  obtain ⟨_, _, _, h⟩ := morIrq_frame sev s; rw [h]
@[simp] theorem morIrq_windows (sev : Nat) (s : State) : (morIrq sev s).windows = s.windows := by
  obtain ⟨_, _, _, h⟩ := morIrq_frame sev s; rw [h]
@[simp] theorem morIrq_cxl (sev : Nat) (s : State) : (morIrq sev s).cxl = s.cxl := by
  obtain ⟨_, _, _, h⟩ := morIrq_frame sev s; rw [h]
@[simp] theorem morIrq_kv (sev : Nat) (s : State) : (morIrq sev s).kv = s.kv := by
  obtain ⟨_, _, _, h⟩ := morIrq_frame sev s; rw [h]
@[simp] theorem morIrq_ats (sev : Nat) (s : State) : (morIrq sev s).ats = s.ats := by
  obtain ⟨_, _, _, h⟩ := morIrq_frame sev s; rw [h]
@[simp] theorem morIrq_pris (sev : Nat) (s : State) : (morIrq sev s).pris = s.pris := by
  obtain ⟨_, _, _, h⟩ := morIrq_frame sev s; rw [h]
@[simp] theorem morIrq_bar2Waits (sev : Nat) (s : State) : (morIrq sev s).bar2Waits = s.bar2Waits := by
  obtain ⟨_, _, _, h⟩ := morIrq_frame sev s; rw [h]
@[simp] theorem morIrq_copies (sev : Nat) (s : State) : (morIrq sev s).copies = s.copies := by
  obtain ⟨_, _, _, h⟩ := morIrq_frame sev s; rw [h]
@[simp] theorem morIrq_priTimeout (sev : Nat) (s : State) : (morIrq sev s).priTimeout = s.priTimeout := by
  obtain ⟨_, _, _, h⟩ := morIrq_frame sev s; rw [h]
@[simp] theorem morIrq_tiles (sev : Nat) (s : State) : (morIrq sev s).tiles = s.tiles := by
  obtain ⟨_, _, _, h⟩ := morIrq_frame sev s; rw [h]
@[simp] theorem morIrq_images (sev : Nat) (s : State) : (morIrq sev s).images = s.images := by
  obtain ⟨_, _, _, h⟩ := morIrq_frame sev s; rw [h]
@[simp] theorem morIrq_contexts (sev : Nat) (s : State) : (morIrq sev s).contexts = s.contexts := by
  obtain ⟨_, _, _, h⟩ := morIrq_frame sev s; rw [h]
@[simp] theorem morIrq_floe (sev : Nat) (s : State) : (morIrq sev s).floe = s.floe := by
  obtain ⟨_, _, _, h⟩ := morIrq_frame sev s; rw [h]
@[simp] theorem morIrq_trns (sev : Nat) (s : State) : (morIrq sev s).trns = s.trns := by
  obtain ⟨_, _, _, h⟩ := morIrq_frame sev s; rw [h]
@[simp] theorem morIrq_trnHeld (sev : Nat) (s : State) : (morIrq sev s).trnHeld = s.trnHeld := by
  obtain ⟨_, _, _, h⟩ := morIrq_frame sev s; rw [h]
@[simp] theorem morIrq_watchers (sev : Nat) (s : State) : (morIrq sev s).watchers = s.watchers := by
  obtain ⟨_, _, _, h⟩ := morIrq_frame sev s; rw [h]
@[simp] theorem morIrq_noc (sev : Nat) (s : State) : (morIrq sev s).noc = s.noc := by
  obtain ⟨_, _, _, h⟩ := morIrq_frame sev s; rw [h]
@[simp] theorem morIrq_casc (sev : Nat) (s : State) : (morIrq sev s).casc = s.casc := by
  obtain ⟨_, _, _, h⟩ := morIrq_frame sev s; rw [h]
@[simp] theorem morIrq_mid (sev : Nat) (s : State) : (morIrq sev s).mid = s.mid := by
  obtain ⟨_, _, _, h⟩ := morIrq_frame sev s; rw [h]
@[simp] theorem morIrq_cfg (sev : Nat) (s : State) : (morIrq sev s).cfg = s.cfg := by
  obtain ⟨_, _, _, h⟩ := morIrq_frame sev s; rw [h]
@[simp] theorem morIrq_nextOrder (sev : Nat) (s : State) : (morIrq sev s).nextOrder = s.nextOrder := by
  obtain ⟨_, _, _, h⟩ := morIrq_frame sev s; rw [h]
@[simp] theorem morIrq_counters (sev : Nat) (s : State) : (morIrq sev s).counters = s.counters := by
  obtain ⟨_, _, _, h⟩ := morIrq_frame sev s; rw [h]
@[simp] theorem morIrq_works (sev : Nat) (s : State) : (morIrq sev s).works = s.works := by
  obtain ⟨_, _, _, h⟩ := morIrq_frame sev s; rw [h]
@[simp] theorem morIrq_worksSeen (sev : Nat) (s : State) : (morIrq sev s).worksSeen = s.worksSeen := by
  obtain ⟨_, _, _, h⟩ := morIrq_frame sev s; rw [h]

theorem createRec_frame (code sev src : Nat) (payload : List Byte) (s : State) :
    ∃ x0 x1 x2, createRec code sev src payload s = { s with mor := x0, funcs := x1, outbox := x2 } := by
  unfold createRec
  extract_lets m r m1 m2
  obtain ⟨x0, x1, x2, h⟩ := morIrq_frame sev { s with mor := m2 }
  exact ⟨x0, x1, x2, h⟩

@[simp] theorem createRec_pending (code sev src : Nat) (payload : List Byte) (s : State) : (createRec code sev src payload s).pending = s.pending := by
  obtain ⟨_, _, _, h⟩ := createRec_frame code sev src payload s; rw [h]
@[simp] theorem createRec_time (code sev src : Nat) (payload : List Byte) (s : State) : (createRec code sev src payload s).time = s.time := by
  obtain ⟨_, _, _, h⟩ := createRec_frame code sev src payload s; rw [h]
@[simp] theorem createRec_fresh (code sev src : Nat) (payload : List Byte) (s : State) : (createRec code sev src payload s).fresh = s.fresh := by
  obtain ⟨_, _, _, h⟩ := createRec_frame code sev src payload s; rw [h]
@[simp] theorem createRec_variant (code sev src : Nat) (payload : List Byte) (s : State) : (createRec code sev src payload s).variant = s.variant := by
  obtain ⟨_, _, _, h⟩ := createRec_frame code sev src payload s; rw [h]
@[simp] theorem createRec_fused (code sev src : Nat) (payload : List Byte) (s : State) : (createRec code sev src payload s).fused = s.fused := by
  obtain ⟨_, _, _, h⟩ := createRec_frame code sev src payload s; rw [h]
@[simp] theorem createRec_ice (code sev src : Nat) (payload : List Byte) (s : State) : (createRec code sev src payload s).ice = s.ice := by
  obtain ⟨_, _, _, h⟩ := createRec_frame code sev src payload s; rw [h]
@[simp] theorem createRec_pwr (code sev src : Nat) (payload : List Byte) (s : State) : (createRec code sev src payload s).pwr = s.pwr := by
  obtain ⟨_, _, _, h⟩ := createRec_frame code sev src payload s; rw [h]
@[simp] theorem createRec_st (code sev src : Nat) (payload : List Byte) (s : State) : (createRec code sev src payload s).st = s.st := by
  obtain ⟨_, _, _, h⟩ := createRec_frame code sev src payload s; rw [h]
@[simp] theorem createRec_link (code sev src : Nat) (payload : List Byte) (s : State) : (createRec code sev src payload s).link = s.link := by
  obtain ⟨_, _, _, h⟩ := createRec_frame code sev src payload s; rw [h]
@[simp] theorem createRec_dropped (code sev src : Nat) (payload : List Byte) (s : State) : (createRec code sev src payload s).dropped = s.dropped := by
  obtain ⟨_, _, _, h⟩ := createRec_frame code sev src payload s; rw [h]
@[simp] theorem createRec_groups (code sev src : Nat) (payload : List Byte) (s : State) : (createRec code sev src payload s).groups = s.groups := by
  obtain ⟨_, _, _, h⟩ := createRec_frame code sev src payload s; rw [h]
@[simp] theorem createRec_queues (code sev src : Nat) (payload : List Byte) (s : State) : (createRec code sev src payload s).queues = s.queues := by
  obtain ⟨_, _, _, h⟩ := createRec_frame code sev src payload s; rw [h]
@[simp] theorem createRec_arb (code sev src : Nat) (payload : List Byte) (s : State) : (createRec code sev src payload s).arb = s.arb := by
  obtain ⟨_, _, _, h⟩ := createRec_frame code sev src payload s; rw [h]
@[simp] theorem createRec_ops (code sev src : Nat) (payload : List Byte) (s : State) : (createRec code sev src payload s).ops = s.ops := by
  obtain ⟨_, _, _, h⟩ := createRec_frame code sev src payload s; rw [h]
@[simp] theorem createRec_nextTag (code sev src : Nat) (payload : List Byte) (s : State) : (createRec code sev src payload s).nextTag = s.nextTag := by
  obtain ⟨_, _, _, h⟩ := createRec_frame code sev src payload s; rw [h]
@[simp] theorem createRec_pages (code sev src : Nat) (payload : List Byte) (s : State) : (createRec code sev src payload s).pages = s.pages := by
  obtain ⟨_, _, _, h⟩ := createRec_frame code sev src payload s; rw [h]
@[simp] theorem createRec_resets (code sev src : Nat) (payload : List Byte) (s : State) : (createRec code sev src payload s).resets = s.resets := by
  obtain ⟨_, _, _, h⟩ := createRec_frame code sev src payload s; rw [h]
@[simp] theorem createRec_place (code sev src : Nat) (payload : List Byte) (s : State) : (createRec code sev src payload s).place = s.place := by
  obtain ⟨_, _, _, h⟩ := createRec_frame code sev src payload s; rw [h]
@[simp] theorem createRec_dmem (code sev src : Nat) (payload : List Byte) (s : State) : (createRec code sev src payload s).dmem = s.dmem := by
  obtain ⟨_, _, _, h⟩ := createRec_frame code sev src payload s; rw [h]
@[simp] theorem createRec_hmem (code sev src : Nat) (payload : List Byte) (s : State) : (createRec code sev src payload s).hmem = s.hmem := by
  obtain ⟨_, _, _, h⟩ := createRec_frame code sev src payload s; rw [h]
@[simp] theorem createRec_fills (code sev src : Nat) (payload : List Byte) (s : State) : (createRec code sev src payload s).fills = s.fills := by
  obtain ⟨_, _, _, h⟩ := createRec_frame code sev src payload s; rw [h]
@[simp] theorem createRec_memStacks (code sev src : Nat) (payload : List Byte) (s : State) : (createRec code sev src payload s).memStacks = s.memStacks := by
  obtain ⟨_, _, _, h⟩ := createRec_frame code sev src payload s; rw [h]
@[simp] theorem createRec_windows (code sev src : Nat) (payload : List Byte) (s : State) : (createRec code sev src payload s).windows = s.windows := by
  obtain ⟨_, _, _, h⟩ := createRec_frame code sev src payload s; rw [h]
@[simp] theorem createRec_cxl (code sev src : Nat) (payload : List Byte) (s : State) : (createRec code sev src payload s).cxl = s.cxl := by
  obtain ⟨_, _, _, h⟩ := createRec_frame code sev src payload s; rw [h]
@[simp] theorem createRec_kv (code sev src : Nat) (payload : List Byte) (s : State) : (createRec code sev src payload s).kv = s.kv := by
  obtain ⟨_, _, _, h⟩ := createRec_frame code sev src payload s; rw [h]
@[simp] theorem createRec_ats (code sev src : Nat) (payload : List Byte) (s : State) : (createRec code sev src payload s).ats = s.ats := by
  obtain ⟨_, _, _, h⟩ := createRec_frame code sev src payload s; rw [h]
@[simp] theorem createRec_pris (code sev src : Nat) (payload : List Byte) (s : State) : (createRec code sev src payload s).pris = s.pris := by
  obtain ⟨_, _, _, h⟩ := createRec_frame code sev src payload s; rw [h]
@[simp] theorem createRec_bar2Waits (code sev src : Nat) (payload : List Byte) (s : State) : (createRec code sev src payload s).bar2Waits = s.bar2Waits := by
  obtain ⟨_, _, _, h⟩ := createRec_frame code sev src payload s; rw [h]
@[simp] theorem createRec_copies (code sev src : Nat) (payload : List Byte) (s : State) : (createRec code sev src payload s).copies = s.copies := by
  obtain ⟨_, _, _, h⟩ := createRec_frame code sev src payload s; rw [h]
@[simp] theorem createRec_priTimeout (code sev src : Nat) (payload : List Byte) (s : State) : (createRec code sev src payload s).priTimeout = s.priTimeout := by
  obtain ⟨_, _, _, h⟩ := createRec_frame code sev src payload s; rw [h]
@[simp] theorem createRec_tiles (code sev src : Nat) (payload : List Byte) (s : State) : (createRec code sev src payload s).tiles = s.tiles := by
  obtain ⟨_, _, _, h⟩ := createRec_frame code sev src payload s; rw [h]
@[simp] theorem createRec_images (code sev src : Nat) (payload : List Byte) (s : State) : (createRec code sev src payload s).images = s.images := by
  obtain ⟨_, _, _, h⟩ := createRec_frame code sev src payload s; rw [h]
@[simp] theorem createRec_contexts (code sev src : Nat) (payload : List Byte) (s : State) : (createRec code sev src payload s).contexts = s.contexts := by
  obtain ⟨_, _, _, h⟩ := createRec_frame code sev src payload s; rw [h]
@[simp] theorem createRec_floe (code sev src : Nat) (payload : List Byte) (s : State) : (createRec code sev src payload s).floe = s.floe := by
  obtain ⟨_, _, _, h⟩ := createRec_frame code sev src payload s; rw [h]
@[simp] theorem createRec_trns (code sev src : Nat) (payload : List Byte) (s : State) : (createRec code sev src payload s).trns = s.trns := by
  obtain ⟨_, _, _, h⟩ := createRec_frame code sev src payload s; rw [h]
@[simp] theorem createRec_trnHeld (code sev src : Nat) (payload : List Byte) (s : State) : (createRec code sev src payload s).trnHeld = s.trnHeld := by
  obtain ⟨_, _, _, h⟩ := createRec_frame code sev src payload s; rw [h]
@[simp] theorem createRec_watchers (code sev src : Nat) (payload : List Byte) (s : State) : (createRec code sev src payload s).watchers = s.watchers := by
  obtain ⟨_, _, _, h⟩ := createRec_frame code sev src payload s; rw [h]
@[simp] theorem createRec_noc (code sev src : Nat) (payload : List Byte) (s : State) : (createRec code sev src payload s).noc = s.noc := by
  obtain ⟨_, _, _, h⟩ := createRec_frame code sev src payload s; rw [h]
@[simp] theorem createRec_casc (code sev src : Nat) (payload : List Byte) (s : State) : (createRec code sev src payload s).casc = s.casc := by
  obtain ⟨_, _, _, h⟩ := createRec_frame code sev src payload s; rw [h]
@[simp] theorem createRec_mid (code sev src : Nat) (payload : List Byte) (s : State) : (createRec code sev src payload s).mid = s.mid := by
  obtain ⟨_, _, _, h⟩ := createRec_frame code sev src payload s; rw [h]
@[simp] theorem createRec_cfg (code sev src : Nat) (payload : List Byte) (s : State) : (createRec code sev src payload s).cfg = s.cfg := by
  obtain ⟨_, _, _, h⟩ := createRec_frame code sev src payload s; rw [h]
@[simp] theorem createRec_nextOrder (code sev src : Nat) (payload : List Byte) (s : State) : (createRec code sev src payload s).nextOrder = s.nextOrder := by
  obtain ⟨_, _, _, h⟩ := createRec_frame code sev src payload s; rw [h]
@[simp] theorem createRec_counters (code sev src : Nat) (payload : List Byte) (s : State) : (createRec code sev src payload s).counters = s.counters := by
  obtain ⟨_, _, _, h⟩ := createRec_frame code sev src payload s; rw [h]
@[simp] theorem createRec_works (code sev src : Nat) (payload : List Byte) (s : State) : (createRec code sev src payload s).works = s.works := by
  obtain ⟨_, _, _, h⟩ := createRec_frame code sev src payload s; rw [h]
@[simp] theorem createRec_worksSeen (code sev src : Nat) (payload : List Byte) (s : State) : (createRec code sev src payload s).worksSeen = s.worksSeen := by
  obtain ⟨_, _, _, h⟩ := createRec_frame code sev src payload s; rw [h]

theorem recordSev_frame (code sev src : Nat) (payload : List Byte) (s : State) :
    ∃ x0 x1 x2, recordSev code sev src payload s = { s with mor := x0, funcs := x1, outbox := x2 } := by
  have h2 (c v r : Nat) (p : List Byte) (u : State) (hu : ∃ x0 x1 x2, u = { s with mor := x0, funcs := x1, outbox := x2 }) :
      ∃ x0 x1 x2, createRec c v r p u = { s with mor := x0, funcs := x1, outbox := x2 } := by
    obtain ⟨x0, x1, x2, rfl⟩ := hu
    obtain ⟨y0, y1, y2, h⟩ := createRec_frame c v r p { s with mor := x0, funcs := x1, outbox := x2 }
    exact ⟨y0, y1, y2, h⟩
  unfold recordSev
  dsimp only
  repeat' with_reducible split
  all_goals first
    | exact ⟨_, s.funcs, s.outbox, rfl⟩
    | exact h2 _ _ _ _ _ ⟨_, s.funcs, s.outbox, rfl⟩
    | exact h2 _ _ _ _ _ (h2 _ _ _ _ _ ⟨_, s.funcs, s.outbox, rfl⟩)

@[simp] theorem recordSev_pending (code sev src : Nat) (payload : List Byte) (s : State) : (recordSev code sev src payload s).pending = s.pending := by
  obtain ⟨_, _, _, h⟩ := recordSev_frame code sev src payload s; rw [h]
@[simp] theorem recordSev_time (code sev src : Nat) (payload : List Byte) (s : State) : (recordSev code sev src payload s).time = s.time := by
  obtain ⟨_, _, _, h⟩ := recordSev_frame code sev src payload s; rw [h]
@[simp] theorem recordSev_fresh (code sev src : Nat) (payload : List Byte) (s : State) : (recordSev code sev src payload s).fresh = s.fresh := by
  obtain ⟨_, _, _, h⟩ := recordSev_frame code sev src payload s; rw [h]
@[simp] theorem recordSev_variant (code sev src : Nat) (payload : List Byte) (s : State) : (recordSev code sev src payload s).variant = s.variant := by
  obtain ⟨_, _, _, h⟩ := recordSev_frame code sev src payload s; rw [h]
@[simp] theorem recordSev_fused (code sev src : Nat) (payload : List Byte) (s : State) : (recordSev code sev src payload s).fused = s.fused := by
  obtain ⟨_, _, _, h⟩ := recordSev_frame code sev src payload s; rw [h]
@[simp] theorem recordSev_ice (code sev src : Nat) (payload : List Byte) (s : State) : (recordSev code sev src payload s).ice = s.ice := by
  obtain ⟨_, _, _, h⟩ := recordSev_frame code sev src payload s; rw [h]
@[simp] theorem recordSev_pwr (code sev src : Nat) (payload : List Byte) (s : State) : (recordSev code sev src payload s).pwr = s.pwr := by
  obtain ⟨_, _, _, h⟩ := recordSev_frame code sev src payload s; rw [h]
@[simp] theorem recordSev_st (code sev src : Nat) (payload : List Byte) (s : State) : (recordSev code sev src payload s).st = s.st := by
  obtain ⟨_, _, _, h⟩ := recordSev_frame code sev src payload s; rw [h]
@[simp] theorem recordSev_link (code sev src : Nat) (payload : List Byte) (s : State) : (recordSev code sev src payload s).link = s.link := by
  obtain ⟨_, _, _, h⟩ := recordSev_frame code sev src payload s; rw [h]
@[simp] theorem recordSev_dropped (code sev src : Nat) (payload : List Byte) (s : State) : (recordSev code sev src payload s).dropped = s.dropped := by
  obtain ⟨_, _, _, h⟩ := recordSev_frame code sev src payload s; rw [h]
@[simp] theorem recordSev_groups (code sev src : Nat) (payload : List Byte) (s : State) : (recordSev code sev src payload s).groups = s.groups := by
  obtain ⟨_, _, _, h⟩ := recordSev_frame code sev src payload s; rw [h]
@[simp] theorem recordSev_queues (code sev src : Nat) (payload : List Byte) (s : State) : (recordSev code sev src payload s).queues = s.queues := by
  obtain ⟨_, _, _, h⟩ := recordSev_frame code sev src payload s; rw [h]
@[simp] theorem recordSev_arb (code sev src : Nat) (payload : List Byte) (s : State) : (recordSev code sev src payload s).arb = s.arb := by
  obtain ⟨_, _, _, h⟩ := recordSev_frame code sev src payload s; rw [h]
@[simp] theorem recordSev_ops (code sev src : Nat) (payload : List Byte) (s : State) : (recordSev code sev src payload s).ops = s.ops := by
  obtain ⟨_, _, _, h⟩ := recordSev_frame code sev src payload s; rw [h]
@[simp] theorem recordSev_nextTag (code sev src : Nat) (payload : List Byte) (s : State) : (recordSev code sev src payload s).nextTag = s.nextTag := by
  obtain ⟨_, _, _, h⟩ := recordSev_frame code sev src payload s; rw [h]
@[simp] theorem recordSev_pages (code sev src : Nat) (payload : List Byte) (s : State) : (recordSev code sev src payload s).pages = s.pages := by
  obtain ⟨_, _, _, h⟩ := recordSev_frame code sev src payload s; rw [h]
@[simp] theorem recordSev_resets (code sev src : Nat) (payload : List Byte) (s : State) : (recordSev code sev src payload s).resets = s.resets := by
  obtain ⟨_, _, _, h⟩ := recordSev_frame code sev src payload s; rw [h]
@[simp] theorem recordSev_place (code sev src : Nat) (payload : List Byte) (s : State) : (recordSev code sev src payload s).place = s.place := by
  obtain ⟨_, _, _, h⟩ := recordSev_frame code sev src payload s; rw [h]
@[simp] theorem recordSev_dmem (code sev src : Nat) (payload : List Byte) (s : State) : (recordSev code sev src payload s).dmem = s.dmem := by
  obtain ⟨_, _, _, h⟩ := recordSev_frame code sev src payload s; rw [h]
@[simp] theorem recordSev_hmem (code sev src : Nat) (payload : List Byte) (s : State) : (recordSev code sev src payload s).hmem = s.hmem := by
  obtain ⟨_, _, _, h⟩ := recordSev_frame code sev src payload s; rw [h]
@[simp] theorem recordSev_fills (code sev src : Nat) (payload : List Byte) (s : State) : (recordSev code sev src payload s).fills = s.fills := by
  obtain ⟨_, _, _, h⟩ := recordSev_frame code sev src payload s; rw [h]
@[simp] theorem recordSev_memStacks (code sev src : Nat) (payload : List Byte) (s : State) : (recordSev code sev src payload s).memStacks = s.memStacks := by
  obtain ⟨_, _, _, h⟩ := recordSev_frame code sev src payload s; rw [h]
@[simp] theorem recordSev_windows (code sev src : Nat) (payload : List Byte) (s : State) : (recordSev code sev src payload s).windows = s.windows := by
  obtain ⟨_, _, _, h⟩ := recordSev_frame code sev src payload s; rw [h]
@[simp] theorem recordSev_cxl (code sev src : Nat) (payload : List Byte) (s : State) : (recordSev code sev src payload s).cxl = s.cxl := by
  obtain ⟨_, _, _, h⟩ := recordSev_frame code sev src payload s; rw [h]
@[simp] theorem recordSev_kv (code sev src : Nat) (payload : List Byte) (s : State) : (recordSev code sev src payload s).kv = s.kv := by
  obtain ⟨_, _, _, h⟩ := recordSev_frame code sev src payload s; rw [h]
@[simp] theorem recordSev_ats (code sev src : Nat) (payload : List Byte) (s : State) : (recordSev code sev src payload s).ats = s.ats := by
  obtain ⟨_, _, _, h⟩ := recordSev_frame code sev src payload s; rw [h]
@[simp] theorem recordSev_pris (code sev src : Nat) (payload : List Byte) (s : State) : (recordSev code sev src payload s).pris = s.pris := by
  obtain ⟨_, _, _, h⟩ := recordSev_frame code sev src payload s; rw [h]
@[simp] theorem recordSev_bar2Waits (code sev src : Nat) (payload : List Byte) (s : State) : (recordSev code sev src payload s).bar2Waits = s.bar2Waits := by
  obtain ⟨_, _, _, h⟩ := recordSev_frame code sev src payload s; rw [h]
@[simp] theorem recordSev_copies (code sev src : Nat) (payload : List Byte) (s : State) : (recordSev code sev src payload s).copies = s.copies := by
  obtain ⟨_, _, _, h⟩ := recordSev_frame code sev src payload s; rw [h]
@[simp] theorem recordSev_priTimeout (code sev src : Nat) (payload : List Byte) (s : State) : (recordSev code sev src payload s).priTimeout = s.priTimeout := by
  obtain ⟨_, _, _, h⟩ := recordSev_frame code sev src payload s; rw [h]
@[simp] theorem recordSev_tiles (code sev src : Nat) (payload : List Byte) (s : State) : (recordSev code sev src payload s).tiles = s.tiles := by
  obtain ⟨_, _, _, h⟩ := recordSev_frame code sev src payload s; rw [h]
@[simp] theorem recordSev_images (code sev src : Nat) (payload : List Byte) (s : State) : (recordSev code sev src payload s).images = s.images := by
  obtain ⟨_, _, _, h⟩ := recordSev_frame code sev src payload s; rw [h]
@[simp] theorem recordSev_contexts (code sev src : Nat) (payload : List Byte) (s : State) : (recordSev code sev src payload s).contexts = s.contexts := by
  obtain ⟨_, _, _, h⟩ := recordSev_frame code sev src payload s; rw [h]
@[simp] theorem recordSev_floe (code sev src : Nat) (payload : List Byte) (s : State) : (recordSev code sev src payload s).floe = s.floe := by
  obtain ⟨_, _, _, h⟩ := recordSev_frame code sev src payload s; rw [h]
@[simp] theorem recordSev_trns (code sev src : Nat) (payload : List Byte) (s : State) : (recordSev code sev src payload s).trns = s.trns := by
  obtain ⟨_, _, _, h⟩ := recordSev_frame code sev src payload s; rw [h]
@[simp] theorem recordSev_trnHeld (code sev src : Nat) (payload : List Byte) (s : State) : (recordSev code sev src payload s).trnHeld = s.trnHeld := by
  obtain ⟨_, _, _, h⟩ := recordSev_frame code sev src payload s; rw [h]
@[simp] theorem recordSev_watchers (code sev src : Nat) (payload : List Byte) (s : State) : (recordSev code sev src payload s).watchers = s.watchers := by
  obtain ⟨_, _, _, h⟩ := recordSev_frame code sev src payload s; rw [h]
@[simp] theorem recordSev_noc (code sev src : Nat) (payload : List Byte) (s : State) : (recordSev code sev src payload s).noc = s.noc := by
  obtain ⟨_, _, _, h⟩ := recordSev_frame code sev src payload s; rw [h]
@[simp] theorem recordSev_casc (code sev src : Nat) (payload : List Byte) (s : State) : (recordSev code sev src payload s).casc = s.casc := by
  obtain ⟨_, _, _, h⟩ := recordSev_frame code sev src payload s; rw [h]
@[simp] theorem recordSev_mid (code sev src : Nat) (payload : List Byte) (s : State) : (recordSev code sev src payload s).mid = s.mid := by
  obtain ⟨_, _, _, h⟩ := recordSev_frame code sev src payload s; rw [h]
@[simp] theorem recordSev_cfg (code sev src : Nat) (payload : List Byte) (s : State) : (recordSev code sev src payload s).cfg = s.cfg := by
  obtain ⟨_, _, _, h⟩ := recordSev_frame code sev src payload s; rw [h]
@[simp] theorem recordSev_nextOrder (code sev src : Nat) (payload : List Byte) (s : State) : (recordSev code sev src payload s).nextOrder = s.nextOrder := by
  obtain ⟨_, _, _, h⟩ := recordSev_frame code sev src payload s; rw [h]
@[simp] theorem recordSev_counters (code sev src : Nat) (payload : List Byte) (s : State) : (recordSev code sev src payload s).counters = s.counters := by
  obtain ⟨_, _, _, h⟩ := recordSev_frame code sev src payload s; rw [h]
@[simp] theorem recordSev_works (code sev src : Nat) (payload : List Byte) (s : State) : (recordSev code sev src payload s).works = s.works := by
  obtain ⟨_, _, _, h⟩ := recordSev_frame code sev src payload s; rw [h]
@[simp] theorem recordSev_worksSeen (code sev src : Nat) (payload : List Byte) (s : State) : (recordSev code sev src payload s).worksSeen = s.worksSeen := by
  obtain ⟨_, _, _, h⟩ := recordSev_frame code sev src payload s; rw [h]

theorem record_frame (code src : Nat) (payload : List Byte) (s : State) :
    ∃ x0 x1 x2, record code src payload s = { s with mor := x0, funcs := x1, outbox := x2 } := by
  exact recordSev_frame _ _ _ _ _

@[simp] theorem record_pending (code src : Nat) (payload : List Byte) (s : State) : (record code src payload s).pending = s.pending := by
  obtain ⟨_, _, _, h⟩ := record_frame code src payload s; rw [h]
@[simp] theorem record_time (code src : Nat) (payload : List Byte) (s : State) : (record code src payload s).time = s.time := by
  obtain ⟨_, _, _, h⟩ := record_frame code src payload s; rw [h]
@[simp] theorem record_fresh (code src : Nat) (payload : List Byte) (s : State) : (record code src payload s).fresh = s.fresh := by
  obtain ⟨_, _, _, h⟩ := record_frame code src payload s; rw [h]
@[simp] theorem record_variant (code src : Nat) (payload : List Byte) (s : State) : (record code src payload s).variant = s.variant := by
  obtain ⟨_, _, _, h⟩ := record_frame code src payload s; rw [h]
@[simp] theorem record_fused (code src : Nat) (payload : List Byte) (s : State) : (record code src payload s).fused = s.fused := by
  obtain ⟨_, _, _, h⟩ := record_frame code src payload s; rw [h]
@[simp] theorem record_ice (code src : Nat) (payload : List Byte) (s : State) : (record code src payload s).ice = s.ice := by
  obtain ⟨_, _, _, h⟩ := record_frame code src payload s; rw [h]
@[simp] theorem record_pwr (code src : Nat) (payload : List Byte) (s : State) : (record code src payload s).pwr = s.pwr := by
  obtain ⟨_, _, _, h⟩ := record_frame code src payload s; rw [h]
@[simp] theorem record_st (code src : Nat) (payload : List Byte) (s : State) : (record code src payload s).st = s.st := by
  obtain ⟨_, _, _, h⟩ := record_frame code src payload s; rw [h]
@[simp] theorem record_link (code src : Nat) (payload : List Byte) (s : State) : (record code src payload s).link = s.link := by
  obtain ⟨_, _, _, h⟩ := record_frame code src payload s; rw [h]
@[simp] theorem record_dropped (code src : Nat) (payload : List Byte) (s : State) : (record code src payload s).dropped = s.dropped := by
  obtain ⟨_, _, _, h⟩ := record_frame code src payload s; rw [h]
@[simp] theorem record_groups (code src : Nat) (payload : List Byte) (s : State) : (record code src payload s).groups = s.groups := by
  obtain ⟨_, _, _, h⟩ := record_frame code src payload s; rw [h]
@[simp] theorem record_queues (code src : Nat) (payload : List Byte) (s : State) : (record code src payload s).queues = s.queues := by
  obtain ⟨_, _, _, h⟩ := record_frame code src payload s; rw [h]
@[simp] theorem record_arb (code src : Nat) (payload : List Byte) (s : State) : (record code src payload s).arb = s.arb := by
  obtain ⟨_, _, _, h⟩ := record_frame code src payload s; rw [h]
@[simp] theorem record_ops (code src : Nat) (payload : List Byte) (s : State) : (record code src payload s).ops = s.ops := by
  obtain ⟨_, _, _, h⟩ := record_frame code src payload s; rw [h]
@[simp] theorem record_nextTag (code src : Nat) (payload : List Byte) (s : State) : (record code src payload s).nextTag = s.nextTag := by
  obtain ⟨_, _, _, h⟩ := record_frame code src payload s; rw [h]
@[simp] theorem record_pages (code src : Nat) (payload : List Byte) (s : State) : (record code src payload s).pages = s.pages := by
  obtain ⟨_, _, _, h⟩ := record_frame code src payload s; rw [h]
@[simp] theorem record_resets (code src : Nat) (payload : List Byte) (s : State) : (record code src payload s).resets = s.resets := by
  obtain ⟨_, _, _, h⟩ := record_frame code src payload s; rw [h]
@[simp] theorem record_place (code src : Nat) (payload : List Byte) (s : State) : (record code src payload s).place = s.place := by
  obtain ⟨_, _, _, h⟩ := record_frame code src payload s; rw [h]
@[simp] theorem record_dmem (code src : Nat) (payload : List Byte) (s : State) : (record code src payload s).dmem = s.dmem := by
  obtain ⟨_, _, _, h⟩ := record_frame code src payload s; rw [h]
@[simp] theorem record_hmem (code src : Nat) (payload : List Byte) (s : State) : (record code src payload s).hmem = s.hmem := by
  obtain ⟨_, _, _, h⟩ := record_frame code src payload s; rw [h]
@[simp] theorem record_fills (code src : Nat) (payload : List Byte) (s : State) : (record code src payload s).fills = s.fills := by
  obtain ⟨_, _, _, h⟩ := record_frame code src payload s; rw [h]
@[simp] theorem record_memStacks (code src : Nat) (payload : List Byte) (s : State) : (record code src payload s).memStacks = s.memStacks := by
  obtain ⟨_, _, _, h⟩ := record_frame code src payload s; rw [h]
@[simp] theorem record_windows (code src : Nat) (payload : List Byte) (s : State) : (record code src payload s).windows = s.windows := by
  obtain ⟨_, _, _, h⟩ := record_frame code src payload s; rw [h]
@[simp] theorem record_cxl (code src : Nat) (payload : List Byte) (s : State) : (record code src payload s).cxl = s.cxl := by
  obtain ⟨_, _, _, h⟩ := record_frame code src payload s; rw [h]
@[simp] theorem record_kv (code src : Nat) (payload : List Byte) (s : State) : (record code src payload s).kv = s.kv := by
  obtain ⟨_, _, _, h⟩ := record_frame code src payload s; rw [h]
@[simp] theorem record_ats (code src : Nat) (payload : List Byte) (s : State) : (record code src payload s).ats = s.ats := by
  obtain ⟨_, _, _, h⟩ := record_frame code src payload s; rw [h]
@[simp] theorem record_pris (code src : Nat) (payload : List Byte) (s : State) : (record code src payload s).pris = s.pris := by
  obtain ⟨_, _, _, h⟩ := record_frame code src payload s; rw [h]
@[simp] theorem record_bar2Waits (code src : Nat) (payload : List Byte) (s : State) : (record code src payload s).bar2Waits = s.bar2Waits := by
  obtain ⟨_, _, _, h⟩ := record_frame code src payload s; rw [h]
@[simp] theorem record_copies (code src : Nat) (payload : List Byte) (s : State) : (record code src payload s).copies = s.copies := by
  obtain ⟨_, _, _, h⟩ := record_frame code src payload s; rw [h]
@[simp] theorem record_priTimeout (code src : Nat) (payload : List Byte) (s : State) : (record code src payload s).priTimeout = s.priTimeout := by
  obtain ⟨_, _, _, h⟩ := record_frame code src payload s; rw [h]
@[simp] theorem record_tiles (code src : Nat) (payload : List Byte) (s : State) : (record code src payload s).tiles = s.tiles := by
  obtain ⟨_, _, _, h⟩ := record_frame code src payload s; rw [h]
@[simp] theorem record_images (code src : Nat) (payload : List Byte) (s : State) : (record code src payload s).images = s.images := by
  obtain ⟨_, _, _, h⟩ := record_frame code src payload s; rw [h]
@[simp] theorem record_contexts (code src : Nat) (payload : List Byte) (s : State) : (record code src payload s).contexts = s.contexts := by
  obtain ⟨_, _, _, h⟩ := record_frame code src payload s; rw [h]
@[simp] theorem record_floe (code src : Nat) (payload : List Byte) (s : State) : (record code src payload s).floe = s.floe := by
  obtain ⟨_, _, _, h⟩ := record_frame code src payload s; rw [h]
@[simp] theorem record_trns (code src : Nat) (payload : List Byte) (s : State) : (record code src payload s).trns = s.trns := by
  obtain ⟨_, _, _, h⟩ := record_frame code src payload s; rw [h]
@[simp] theorem record_trnHeld (code src : Nat) (payload : List Byte) (s : State) : (record code src payload s).trnHeld = s.trnHeld := by
  obtain ⟨_, _, _, h⟩ := record_frame code src payload s; rw [h]
@[simp] theorem record_watchers (code src : Nat) (payload : List Byte) (s : State) : (record code src payload s).watchers = s.watchers := by
  obtain ⟨_, _, _, h⟩ := record_frame code src payload s; rw [h]
@[simp] theorem record_noc (code src : Nat) (payload : List Byte) (s : State) : (record code src payload s).noc = s.noc := by
  obtain ⟨_, _, _, h⟩ := record_frame code src payload s; rw [h]
@[simp] theorem record_casc (code src : Nat) (payload : List Byte) (s : State) : (record code src payload s).casc = s.casc := by
  obtain ⟨_, _, _, h⟩ := record_frame code src payload s; rw [h]
@[simp] theorem record_mid (code src : Nat) (payload : List Byte) (s : State) : (record code src payload s).mid = s.mid := by
  obtain ⟨_, _, _, h⟩ := record_frame code src payload s; rw [h]
@[simp] theorem record_cfg (code src : Nat) (payload : List Byte) (s : State) : (record code src payload s).cfg = s.cfg := by
  obtain ⟨_, _, _, h⟩ := record_frame code src payload s; rw [h]
@[simp] theorem record_nextOrder (code src : Nat) (payload : List Byte) (s : State) : (record code src payload s).nextOrder = s.nextOrder := by
  obtain ⟨_, _, _, h⟩ := record_frame code src payload s; rw [h]
@[simp] theorem record_counters (code src : Nat) (payload : List Byte) (s : State) : (record code src payload s).counters = s.counters := by
  obtain ⟨_, _, _, h⟩ := record_frame code src payload s; rw [h]
@[simp] theorem record_works (code src : Nat) (payload : List Byte) (s : State) : (record code src payload s).works = s.works := by
  obtain ⟨_, _, _, h⟩ := record_frame code src payload s; rw [h]
@[simp] theorem record_worksSeen (code src : Nat) (payload : List Byte) (s : State) : (record code src payload s).worksSeen = s.worksSeen := by
  obtain ⟨_, _, _, h⟩ := record_frame code src payload s; rw [h]

theorem unfreeze_frame (s : State) :
    ∃ x0 x1 x2, unfreeze s = { s with mor := x0, funcs := x1, outbox := x2 } := by
  unfold unfreeze
  dsimp only
  split
  · exact ⟨_, s.funcs, s.outbox, rfl⟩
  · exact record_frame 0x0D04 0x07 _ { s with mor := _ }

@[simp] theorem unfreeze_pending (s : State) : (unfreeze s).pending = s.pending := by
  obtain ⟨_, _, _, h⟩ := unfreeze_frame s; rw [h]
@[simp] theorem unfreeze_time (s : State) : (unfreeze s).time = s.time := by
  obtain ⟨_, _, _, h⟩ := unfreeze_frame s; rw [h]
@[simp] theorem unfreeze_fresh (s : State) : (unfreeze s).fresh = s.fresh := by
  obtain ⟨_, _, _, h⟩ := unfreeze_frame s; rw [h]
@[simp] theorem unfreeze_variant (s : State) : (unfreeze s).variant = s.variant := by
  obtain ⟨_, _, _, h⟩ := unfreeze_frame s; rw [h]
@[simp] theorem unfreeze_fused (s : State) : (unfreeze s).fused = s.fused := by
  obtain ⟨_, _, _, h⟩ := unfreeze_frame s; rw [h]
@[simp] theorem unfreeze_ice (s : State) : (unfreeze s).ice = s.ice := by
  obtain ⟨_, _, _, h⟩ := unfreeze_frame s; rw [h]
@[simp] theorem unfreeze_pwr (s : State) : (unfreeze s).pwr = s.pwr := by
  obtain ⟨_, _, _, h⟩ := unfreeze_frame s; rw [h]
@[simp] theorem unfreeze_st (s : State) : (unfreeze s).st = s.st := by
  obtain ⟨_, _, _, h⟩ := unfreeze_frame s; rw [h]
@[simp] theorem unfreeze_link (s : State) : (unfreeze s).link = s.link := by
  obtain ⟨_, _, _, h⟩ := unfreeze_frame s; rw [h]
@[simp] theorem unfreeze_dropped (s : State) : (unfreeze s).dropped = s.dropped := by
  obtain ⟨_, _, _, h⟩ := unfreeze_frame s; rw [h]
@[simp] theorem unfreeze_groups (s : State) : (unfreeze s).groups = s.groups := by
  obtain ⟨_, _, _, h⟩ := unfreeze_frame s; rw [h]
@[simp] theorem unfreeze_queues (s : State) : (unfreeze s).queues = s.queues := by
  obtain ⟨_, _, _, h⟩ := unfreeze_frame s; rw [h]
@[simp] theorem unfreeze_arb (s : State) : (unfreeze s).arb = s.arb := by
  obtain ⟨_, _, _, h⟩ := unfreeze_frame s; rw [h]
@[simp] theorem unfreeze_ops (s : State) : (unfreeze s).ops = s.ops := by
  obtain ⟨_, _, _, h⟩ := unfreeze_frame s; rw [h]
@[simp] theorem unfreeze_nextTag (s : State) : (unfreeze s).nextTag = s.nextTag := by
  obtain ⟨_, _, _, h⟩ := unfreeze_frame s; rw [h]
@[simp] theorem unfreeze_pages (s : State) : (unfreeze s).pages = s.pages := by
  obtain ⟨_, _, _, h⟩ := unfreeze_frame s; rw [h]
@[simp] theorem unfreeze_resets (s : State) : (unfreeze s).resets = s.resets := by
  obtain ⟨_, _, _, h⟩ := unfreeze_frame s; rw [h]
@[simp] theorem unfreeze_place (s : State) : (unfreeze s).place = s.place := by
  obtain ⟨_, _, _, h⟩ := unfreeze_frame s; rw [h]
@[simp] theorem unfreeze_dmem (s : State) : (unfreeze s).dmem = s.dmem := by
  obtain ⟨_, _, _, h⟩ := unfreeze_frame s; rw [h]
@[simp] theorem unfreeze_hmem (s : State) : (unfreeze s).hmem = s.hmem := by
  obtain ⟨_, _, _, h⟩ := unfreeze_frame s; rw [h]
@[simp] theorem unfreeze_fills (s : State) : (unfreeze s).fills = s.fills := by
  obtain ⟨_, _, _, h⟩ := unfreeze_frame s; rw [h]
@[simp] theorem unfreeze_memStacks (s : State) : (unfreeze s).memStacks = s.memStacks := by
  obtain ⟨_, _, _, h⟩ := unfreeze_frame s; rw [h]
@[simp] theorem unfreeze_windows (s : State) : (unfreeze s).windows = s.windows := by
  obtain ⟨_, _, _, h⟩ := unfreeze_frame s; rw [h]
@[simp] theorem unfreeze_cxl (s : State) : (unfreeze s).cxl = s.cxl := by
  obtain ⟨_, _, _, h⟩ := unfreeze_frame s; rw [h]
@[simp] theorem unfreeze_kv (s : State) : (unfreeze s).kv = s.kv := by
  obtain ⟨_, _, _, h⟩ := unfreeze_frame s; rw [h]
@[simp] theorem unfreeze_ats (s : State) : (unfreeze s).ats = s.ats := by
  obtain ⟨_, _, _, h⟩ := unfreeze_frame s; rw [h]
@[simp] theorem unfreeze_pris (s : State) : (unfreeze s).pris = s.pris := by
  obtain ⟨_, _, _, h⟩ := unfreeze_frame s; rw [h]
@[simp] theorem unfreeze_bar2Waits (s : State) : (unfreeze s).bar2Waits = s.bar2Waits := by
  obtain ⟨_, _, _, h⟩ := unfreeze_frame s; rw [h]
@[simp] theorem unfreeze_copies (s : State) : (unfreeze s).copies = s.copies := by
  obtain ⟨_, _, _, h⟩ := unfreeze_frame s; rw [h]
@[simp] theorem unfreeze_priTimeout (s : State) : (unfreeze s).priTimeout = s.priTimeout := by
  obtain ⟨_, _, _, h⟩ := unfreeze_frame s; rw [h]
@[simp] theorem unfreeze_tiles (s : State) : (unfreeze s).tiles = s.tiles := by
  obtain ⟨_, _, _, h⟩ := unfreeze_frame s; rw [h]
@[simp] theorem unfreeze_images (s : State) : (unfreeze s).images = s.images := by
  obtain ⟨_, _, _, h⟩ := unfreeze_frame s; rw [h]
@[simp] theorem unfreeze_contexts (s : State) : (unfreeze s).contexts = s.contexts := by
  obtain ⟨_, _, _, h⟩ := unfreeze_frame s; rw [h]
@[simp] theorem unfreeze_floe (s : State) : (unfreeze s).floe = s.floe := by
  obtain ⟨_, _, _, h⟩ := unfreeze_frame s; rw [h]
@[simp] theorem unfreeze_trns (s : State) : (unfreeze s).trns = s.trns := by
  obtain ⟨_, _, _, h⟩ := unfreeze_frame s; rw [h]
@[simp] theorem unfreeze_trnHeld (s : State) : (unfreeze s).trnHeld = s.trnHeld := by
  obtain ⟨_, _, _, h⟩ := unfreeze_frame s; rw [h]
@[simp] theorem unfreeze_watchers (s : State) : (unfreeze s).watchers = s.watchers := by
  obtain ⟨_, _, _, h⟩ := unfreeze_frame s; rw [h]
@[simp] theorem unfreeze_noc (s : State) : (unfreeze s).noc = s.noc := by
  obtain ⟨_, _, _, h⟩ := unfreeze_frame s; rw [h]
@[simp] theorem unfreeze_casc (s : State) : (unfreeze s).casc = s.casc := by
  obtain ⟨_, _, _, h⟩ := unfreeze_frame s; rw [h]
@[simp] theorem unfreeze_mid (s : State) : (unfreeze s).mid = s.mid := by
  obtain ⟨_, _, _, h⟩ := unfreeze_frame s; rw [h]
@[simp] theorem unfreeze_cfg (s : State) : (unfreeze s).cfg = s.cfg := by
  obtain ⟨_, _, _, h⟩ := unfreeze_frame s; rw [h]
@[simp] theorem unfreeze_nextOrder (s : State) : (unfreeze s).nextOrder = s.nextOrder := by
  obtain ⟨_, _, _, h⟩ := unfreeze_frame s; rw [h]
@[simp] theorem unfreeze_counters (s : State) : (unfreeze s).counters = s.counters := by
  obtain ⟨_, _, _, h⟩ := unfreeze_frame s; rw [h]
@[simp] theorem unfreeze_works (s : State) : (unfreeze s).works = s.works := by
  obtain ⟨_, _, _, h⟩ := unfreeze_frame s; rw [h]
@[simp] theorem unfreeze_worksSeen (s : State) : (unfreeze s).worksSeen = s.worksSeen := by
  obtain ⟨_, _, _, h⟩ := unfreeze_frame s; rw [h]

theorem passTime_frame (dt : Nat) (s : State) :
    ∃ x0 x1 x2, passTime dt s = { s with time := x0, ice := x1, pwr := x2 } := by
  unfold passTime
  split
  · exact ⟨_, _, _, rfl⟩
  · exact ⟨s.time, s.ice, s.pwr, rfl⟩

@[simp] theorem passTime_pending (dt : Nat) (s : State) : (passTime dt s).pending = s.pending := by
  obtain ⟨_, _, _, h⟩ := passTime_frame dt s; rw [h]
@[simp] theorem passTime_outbox (dt : Nat) (s : State) : (passTime dt s).outbox = s.outbox := by
  obtain ⟨_, _, _, h⟩ := passTime_frame dt s; rw [h]
@[simp] theorem passTime_fresh (dt : Nat) (s : State) : (passTime dt s).fresh = s.fresh := by
  obtain ⟨_, _, _, h⟩ := passTime_frame dt s; rw [h]
@[simp] theorem passTime_variant (dt : Nat) (s : State) : (passTime dt s).variant = s.variant := by
  obtain ⟨_, _, _, h⟩ := passTime_frame dt s; rw [h]
@[simp] theorem passTime_fused (dt : Nat) (s : State) : (passTime dt s).fused = s.fused := by
  obtain ⟨_, _, _, h⟩ := passTime_frame dt s; rw [h]
@[simp] theorem passTime_mor (dt : Nat) (s : State) : (passTime dt s).mor = s.mor := by
  obtain ⟨_, _, _, h⟩ := passTime_frame dt s; rw [h]
@[simp] theorem passTime_st (dt : Nat) (s : State) : (passTime dt s).st = s.st := by
  obtain ⟨_, _, _, h⟩ := passTime_frame dt s; rw [h]
@[simp] theorem passTime_funcs (dt : Nat) (s : State) : (passTime dt s).funcs = s.funcs := by
  obtain ⟨_, _, _, h⟩ := passTime_frame dt s; rw [h]
@[simp] theorem passTime_link (dt : Nat) (s : State) : (passTime dt s).link = s.link := by
  obtain ⟨_, _, _, h⟩ := passTime_frame dt s; rw [h]
@[simp] theorem passTime_dropped (dt : Nat) (s : State) : (passTime dt s).dropped = s.dropped := by
  obtain ⟨_, _, _, h⟩ := passTime_frame dt s; rw [h]
@[simp] theorem passTime_groups (dt : Nat) (s : State) : (passTime dt s).groups = s.groups := by
  obtain ⟨_, _, _, h⟩ := passTime_frame dt s; rw [h]
@[simp] theorem passTime_queues (dt : Nat) (s : State) : (passTime dt s).queues = s.queues := by
  obtain ⟨_, _, _, h⟩ := passTime_frame dt s; rw [h]
@[simp] theorem passTime_arb (dt : Nat) (s : State) : (passTime dt s).arb = s.arb := by
  obtain ⟨_, _, _, h⟩ := passTime_frame dt s; rw [h]
@[simp] theorem passTime_ops (dt : Nat) (s : State) : (passTime dt s).ops = s.ops := by
  obtain ⟨_, _, _, h⟩ := passTime_frame dt s; rw [h]
@[simp] theorem passTime_nextTag (dt : Nat) (s : State) : (passTime dt s).nextTag = s.nextTag := by
  obtain ⟨_, _, _, h⟩ := passTime_frame dt s; rw [h]
@[simp] theorem passTime_pages (dt : Nat) (s : State) : (passTime dt s).pages = s.pages := by
  obtain ⟨_, _, _, h⟩ := passTime_frame dt s; rw [h]
@[simp] theorem passTime_resets (dt : Nat) (s : State) : (passTime dt s).resets = s.resets := by
  obtain ⟨_, _, _, h⟩ := passTime_frame dt s; rw [h]
@[simp] theorem passTime_place (dt : Nat) (s : State) : (passTime dt s).place = s.place := by
  obtain ⟨_, _, _, h⟩ := passTime_frame dt s; rw [h]
@[simp] theorem passTime_dmem (dt : Nat) (s : State) : (passTime dt s).dmem = s.dmem := by
  obtain ⟨_, _, _, h⟩ := passTime_frame dt s; rw [h]
@[simp] theorem passTime_hmem (dt : Nat) (s : State) : (passTime dt s).hmem = s.hmem := by
  obtain ⟨_, _, _, h⟩ := passTime_frame dt s; rw [h]
@[simp] theorem passTime_fills (dt : Nat) (s : State) : (passTime dt s).fills = s.fills := by
  obtain ⟨_, _, _, h⟩ := passTime_frame dt s; rw [h]
@[simp] theorem passTime_memStacks (dt : Nat) (s : State) : (passTime dt s).memStacks = s.memStacks := by
  obtain ⟨_, _, _, h⟩ := passTime_frame dt s; rw [h]
@[simp] theorem passTime_windows (dt : Nat) (s : State) : (passTime dt s).windows = s.windows := by
  obtain ⟨_, _, _, h⟩ := passTime_frame dt s; rw [h]
@[simp] theorem passTime_cxl (dt : Nat) (s : State) : (passTime dt s).cxl = s.cxl := by
  obtain ⟨_, _, _, h⟩ := passTime_frame dt s; rw [h]
@[simp] theorem passTime_kv (dt : Nat) (s : State) : (passTime dt s).kv = s.kv := by
  obtain ⟨_, _, _, h⟩ := passTime_frame dt s; rw [h]
@[simp] theorem passTime_ats (dt : Nat) (s : State) : (passTime dt s).ats = s.ats := by
  obtain ⟨_, _, _, h⟩ := passTime_frame dt s; rw [h]
@[simp] theorem passTime_pris (dt : Nat) (s : State) : (passTime dt s).pris = s.pris := by
  obtain ⟨_, _, _, h⟩ := passTime_frame dt s; rw [h]
@[simp] theorem passTime_bar2Waits (dt : Nat) (s : State) : (passTime dt s).bar2Waits = s.bar2Waits := by
  obtain ⟨_, _, _, h⟩ := passTime_frame dt s; rw [h]
@[simp] theorem passTime_copies (dt : Nat) (s : State) : (passTime dt s).copies = s.copies := by
  obtain ⟨_, _, _, h⟩ := passTime_frame dt s; rw [h]
@[simp] theorem passTime_priTimeout (dt : Nat) (s : State) : (passTime dt s).priTimeout = s.priTimeout := by
  obtain ⟨_, _, _, h⟩ := passTime_frame dt s; rw [h]
@[simp] theorem passTime_tiles (dt : Nat) (s : State) : (passTime dt s).tiles = s.tiles := by
  obtain ⟨_, _, _, h⟩ := passTime_frame dt s; rw [h]
@[simp] theorem passTime_images (dt : Nat) (s : State) : (passTime dt s).images = s.images := by
  obtain ⟨_, _, _, h⟩ := passTime_frame dt s; rw [h]
@[simp] theorem passTime_contexts (dt : Nat) (s : State) : (passTime dt s).contexts = s.contexts := by
  obtain ⟨_, _, _, h⟩ := passTime_frame dt s; rw [h]
@[simp] theorem passTime_floe (dt : Nat) (s : State) : (passTime dt s).floe = s.floe := by
  obtain ⟨_, _, _, h⟩ := passTime_frame dt s; rw [h]
@[simp] theorem passTime_trns (dt : Nat) (s : State) : (passTime dt s).trns = s.trns := by
  obtain ⟨_, _, _, h⟩ := passTime_frame dt s; rw [h]
@[simp] theorem passTime_trnHeld (dt : Nat) (s : State) : (passTime dt s).trnHeld = s.trnHeld := by
  obtain ⟨_, _, _, h⟩ := passTime_frame dt s; rw [h]
@[simp] theorem passTime_watchers (dt : Nat) (s : State) : (passTime dt s).watchers = s.watchers := by
  obtain ⟨_, _, _, h⟩ := passTime_frame dt s; rw [h]
@[simp] theorem passTime_noc (dt : Nat) (s : State) : (passTime dt s).noc = s.noc := by
  obtain ⟨_, _, _, h⟩ := passTime_frame dt s; rw [h]
@[simp] theorem passTime_casc (dt : Nat) (s : State) : (passTime dt s).casc = s.casc := by
  obtain ⟨_, _, _, h⟩ := passTime_frame dt s; rw [h]
@[simp] theorem passTime_mid (dt : Nat) (s : State) : (passTime dt s).mid = s.mid := by
  obtain ⟨_, _, _, h⟩ := passTime_frame dt s; rw [h]
@[simp] theorem passTime_cfg (dt : Nat) (s : State) : (passTime dt s).cfg = s.cfg := by
  obtain ⟨_, _, _, h⟩ := passTime_frame dt s; rw [h]
@[simp] theorem passTime_nextOrder (dt : Nat) (s : State) : (passTime dt s).nextOrder = s.nextOrder := by
  obtain ⟨_, _, _, h⟩ := passTime_frame dt s; rw [h]
@[simp] theorem passTime_counters (dt : Nat) (s : State) : (passTime dt s).counters = s.counters := by
  obtain ⟨_, _, _, h⟩ := passTime_frame dt s; rw [h]
@[simp] theorem passTime_works (dt : Nat) (s : State) : (passTime dt s).works = s.works := by
  obtain ⟨_, _, _, h⟩ := passTime_frame dt s; rw [h]
@[simp] theorem passTime_worksSeen (dt : Nat) (s : State) : (passTime dt s).worksSeen = s.worksSeen := by
  obtain ⟨_, _, _, h⟩ := passTime_frame dt s; rw [h]

theorem passTo_frame (t : Nat) (s : State) :
    ∃ x0 x1 x2, passTo t s = { s with time := x0, ice := x1, pwr := x2 } := by
  exact passTime_frame _ _

@[simp] theorem passTo_pending (t : Nat) (s : State) : (passTo t s).pending = s.pending := by
  obtain ⟨_, _, _, h⟩ := passTo_frame t s; rw [h]
@[simp] theorem passTo_outbox (t : Nat) (s : State) : (passTo t s).outbox = s.outbox := by
  obtain ⟨_, _, _, h⟩ := passTo_frame t s; rw [h]
@[simp] theorem passTo_fresh (t : Nat) (s : State) : (passTo t s).fresh = s.fresh := by
  obtain ⟨_, _, _, h⟩ := passTo_frame t s; rw [h]
@[simp] theorem passTo_variant (t : Nat) (s : State) : (passTo t s).variant = s.variant := by
  obtain ⟨_, _, _, h⟩ := passTo_frame t s; rw [h]
@[simp] theorem passTo_fused (t : Nat) (s : State) : (passTo t s).fused = s.fused := by
  obtain ⟨_, _, _, h⟩ := passTo_frame t s; rw [h]
@[simp] theorem passTo_mor (t : Nat) (s : State) : (passTo t s).mor = s.mor := by
  obtain ⟨_, _, _, h⟩ := passTo_frame t s; rw [h]
@[simp] theorem passTo_st (t : Nat) (s : State) : (passTo t s).st = s.st := by
  obtain ⟨_, _, _, h⟩ := passTo_frame t s; rw [h]
@[simp] theorem passTo_funcs (t : Nat) (s : State) : (passTo t s).funcs = s.funcs := by
  obtain ⟨_, _, _, h⟩ := passTo_frame t s; rw [h]
@[simp] theorem passTo_link (t : Nat) (s : State) : (passTo t s).link = s.link := by
  obtain ⟨_, _, _, h⟩ := passTo_frame t s; rw [h]
@[simp] theorem passTo_dropped (t : Nat) (s : State) : (passTo t s).dropped = s.dropped := by
  obtain ⟨_, _, _, h⟩ := passTo_frame t s; rw [h]
@[simp] theorem passTo_groups (t : Nat) (s : State) : (passTo t s).groups = s.groups := by
  obtain ⟨_, _, _, h⟩ := passTo_frame t s; rw [h]
@[simp] theorem passTo_queues (t : Nat) (s : State) : (passTo t s).queues = s.queues := by
  obtain ⟨_, _, _, h⟩ := passTo_frame t s; rw [h]
@[simp] theorem passTo_arb (t : Nat) (s : State) : (passTo t s).arb = s.arb := by
  obtain ⟨_, _, _, h⟩ := passTo_frame t s; rw [h]
@[simp] theorem passTo_ops (t : Nat) (s : State) : (passTo t s).ops = s.ops := by
  obtain ⟨_, _, _, h⟩ := passTo_frame t s; rw [h]
@[simp] theorem passTo_nextTag (t : Nat) (s : State) : (passTo t s).nextTag = s.nextTag := by
  obtain ⟨_, _, _, h⟩ := passTo_frame t s; rw [h]
@[simp] theorem passTo_pages (t : Nat) (s : State) : (passTo t s).pages = s.pages := by
  obtain ⟨_, _, _, h⟩ := passTo_frame t s; rw [h]
@[simp] theorem passTo_resets (t : Nat) (s : State) : (passTo t s).resets = s.resets := by
  obtain ⟨_, _, _, h⟩ := passTo_frame t s; rw [h]
@[simp] theorem passTo_place (t : Nat) (s : State) : (passTo t s).place = s.place := by
  obtain ⟨_, _, _, h⟩ := passTo_frame t s; rw [h]
@[simp] theorem passTo_dmem (t : Nat) (s : State) : (passTo t s).dmem = s.dmem := by
  obtain ⟨_, _, _, h⟩ := passTo_frame t s; rw [h]
@[simp] theorem passTo_hmem (t : Nat) (s : State) : (passTo t s).hmem = s.hmem := by
  obtain ⟨_, _, _, h⟩ := passTo_frame t s; rw [h]
@[simp] theorem passTo_fills (t : Nat) (s : State) : (passTo t s).fills = s.fills := by
  obtain ⟨_, _, _, h⟩ := passTo_frame t s; rw [h]
@[simp] theorem passTo_memStacks (t : Nat) (s : State) : (passTo t s).memStacks = s.memStacks := by
  obtain ⟨_, _, _, h⟩ := passTo_frame t s; rw [h]
@[simp] theorem passTo_windows (t : Nat) (s : State) : (passTo t s).windows = s.windows := by
  obtain ⟨_, _, _, h⟩ := passTo_frame t s; rw [h]
@[simp] theorem passTo_cxl (t : Nat) (s : State) : (passTo t s).cxl = s.cxl := by
  obtain ⟨_, _, _, h⟩ := passTo_frame t s; rw [h]
@[simp] theorem passTo_kv (t : Nat) (s : State) : (passTo t s).kv = s.kv := by
  obtain ⟨_, _, _, h⟩ := passTo_frame t s; rw [h]
@[simp] theorem passTo_ats (t : Nat) (s : State) : (passTo t s).ats = s.ats := by
  obtain ⟨_, _, _, h⟩ := passTo_frame t s; rw [h]
@[simp] theorem passTo_pris (t : Nat) (s : State) : (passTo t s).pris = s.pris := by
  obtain ⟨_, _, _, h⟩ := passTo_frame t s; rw [h]
@[simp] theorem passTo_bar2Waits (t : Nat) (s : State) : (passTo t s).bar2Waits = s.bar2Waits := by
  obtain ⟨_, _, _, h⟩ := passTo_frame t s; rw [h]
@[simp] theorem passTo_copies (t : Nat) (s : State) : (passTo t s).copies = s.copies := by
  obtain ⟨_, _, _, h⟩ := passTo_frame t s; rw [h]
@[simp] theorem passTo_priTimeout (t : Nat) (s : State) : (passTo t s).priTimeout = s.priTimeout := by
  obtain ⟨_, _, _, h⟩ := passTo_frame t s; rw [h]
@[simp] theorem passTo_tiles (t : Nat) (s : State) : (passTo t s).tiles = s.tiles := by
  obtain ⟨_, _, _, h⟩ := passTo_frame t s; rw [h]
@[simp] theorem passTo_images (t : Nat) (s : State) : (passTo t s).images = s.images := by
  obtain ⟨_, _, _, h⟩ := passTo_frame t s; rw [h]
@[simp] theorem passTo_contexts (t : Nat) (s : State) : (passTo t s).contexts = s.contexts := by
  obtain ⟨_, _, _, h⟩ := passTo_frame t s; rw [h]
@[simp] theorem passTo_floe (t : Nat) (s : State) : (passTo t s).floe = s.floe := by
  obtain ⟨_, _, _, h⟩ := passTo_frame t s; rw [h]
@[simp] theorem passTo_trns (t : Nat) (s : State) : (passTo t s).trns = s.trns := by
  obtain ⟨_, _, _, h⟩ := passTo_frame t s; rw [h]
@[simp] theorem passTo_trnHeld (t : Nat) (s : State) : (passTo t s).trnHeld = s.trnHeld := by
  obtain ⟨_, _, _, h⟩ := passTo_frame t s; rw [h]
@[simp] theorem passTo_watchers (t : Nat) (s : State) : (passTo t s).watchers = s.watchers := by
  obtain ⟨_, _, _, h⟩ := passTo_frame t s; rw [h]
@[simp] theorem passTo_noc (t : Nat) (s : State) : (passTo t s).noc = s.noc := by
  obtain ⟨_, _, _, h⟩ := passTo_frame t s; rw [h]
@[simp] theorem passTo_casc (t : Nat) (s : State) : (passTo t s).casc = s.casc := by
  obtain ⟨_, _, _, h⟩ := passTo_frame t s; rw [h]
@[simp] theorem passTo_mid (t : Nat) (s : State) : (passTo t s).mid = s.mid := by
  obtain ⟨_, _, _, h⟩ := passTo_frame t s; rw [h]
@[simp] theorem passTo_cfg (t : Nat) (s : State) : (passTo t s).cfg = s.cfg := by
  obtain ⟨_, _, _, h⟩ := passTo_frame t s; rw [h]
@[simp] theorem passTo_nextOrder (t : Nat) (s : State) : (passTo t s).nextOrder = s.nextOrder := by
  obtain ⟨_, _, _, h⟩ := passTo_frame t s; rw [h]
@[simp] theorem passTo_counters (t : Nat) (s : State) : (passTo t s).counters = s.counters := by
  obtain ⟨_, _, _, h⟩ := passTo_frame t s; rw [h]
@[simp] theorem passTo_works (t : Nat) (s : State) : (passTo t s).works = s.works := by
  obtain ⟨_, _, _, h⟩ := passTo_frame t s; rw [h]
@[simp] theorem passTo_worksSeen (t : Nat) (s : State) : (passTo t s).worksSeen = s.worksSeen := by
  obtain ⟨_, _, _, h⟩ := passTo_frame t s; rw [h]

theorem iceCommitOp_frame (s : State) :
    ∃ x0, iceCommitOp s = { s with ice := x0 } := by
  exact ⟨_, rfl⟩

@[simp] theorem iceCommitOp_pending (s : State) : (iceCommitOp s).pending = s.pending := by
  obtain ⟨_, h⟩ := iceCommitOp_frame s; rw [h]
@[simp] theorem iceCommitOp_outbox (s : State) : (iceCommitOp s).outbox = s.outbox := by
  obtain ⟨_, h⟩ := iceCommitOp_frame s; rw [h]
@[simp] theorem iceCommitOp_time (s : State) : (iceCommitOp s).time = s.time := by
  obtain ⟨_, h⟩ := iceCommitOp_frame s; rw [h]
@[simp] theorem iceCommitOp_fresh (s : State) : (iceCommitOp s).fresh = s.fresh := by
  obtain ⟨_, h⟩ := iceCommitOp_frame s; rw [h]
@[simp] theorem iceCommitOp_variant (s : State) : (iceCommitOp s).variant = s.variant := by
  obtain ⟨_, h⟩ := iceCommitOp_frame s; rw [h]
@[simp] theorem iceCommitOp_fused (s : State) : (iceCommitOp s).fused = s.fused := by
  obtain ⟨_, h⟩ := iceCommitOp_frame s; rw [h]
@[simp] theorem iceCommitOp_mor (s : State) : (iceCommitOp s).mor = s.mor := by
  obtain ⟨_, h⟩ := iceCommitOp_frame s; rw [h]
@[simp] theorem iceCommitOp_pwr (s : State) : (iceCommitOp s).pwr = s.pwr := by
  obtain ⟨_, h⟩ := iceCommitOp_frame s; rw [h]
@[simp] theorem iceCommitOp_st (s : State) : (iceCommitOp s).st = s.st := by
  obtain ⟨_, h⟩ := iceCommitOp_frame s; rw [h]
@[simp] theorem iceCommitOp_funcs (s : State) : (iceCommitOp s).funcs = s.funcs := by
  obtain ⟨_, h⟩ := iceCommitOp_frame s; rw [h]
@[simp] theorem iceCommitOp_link (s : State) : (iceCommitOp s).link = s.link := by
  obtain ⟨_, h⟩ := iceCommitOp_frame s; rw [h]
@[simp] theorem iceCommitOp_dropped (s : State) : (iceCommitOp s).dropped = s.dropped := by
  obtain ⟨_, h⟩ := iceCommitOp_frame s; rw [h]
@[simp] theorem iceCommitOp_groups (s : State) : (iceCommitOp s).groups = s.groups := by
  obtain ⟨_, h⟩ := iceCommitOp_frame s; rw [h]
@[simp] theorem iceCommitOp_queues (s : State) : (iceCommitOp s).queues = s.queues := by
  obtain ⟨_, h⟩ := iceCommitOp_frame s; rw [h]
@[simp] theorem iceCommitOp_arb (s : State) : (iceCommitOp s).arb = s.arb := by
  obtain ⟨_, h⟩ := iceCommitOp_frame s; rw [h]
@[simp] theorem iceCommitOp_ops (s : State) : (iceCommitOp s).ops = s.ops := by
  obtain ⟨_, h⟩ := iceCommitOp_frame s; rw [h]
@[simp] theorem iceCommitOp_nextTag (s : State) : (iceCommitOp s).nextTag = s.nextTag := by
  obtain ⟨_, h⟩ := iceCommitOp_frame s; rw [h]
@[simp] theorem iceCommitOp_pages (s : State) : (iceCommitOp s).pages = s.pages := by
  obtain ⟨_, h⟩ := iceCommitOp_frame s; rw [h]
@[simp] theorem iceCommitOp_resets (s : State) : (iceCommitOp s).resets = s.resets := by
  obtain ⟨_, h⟩ := iceCommitOp_frame s; rw [h]
@[simp] theorem iceCommitOp_place (s : State) : (iceCommitOp s).place = s.place := by
  obtain ⟨_, h⟩ := iceCommitOp_frame s; rw [h]
@[simp] theorem iceCommitOp_dmem (s : State) : (iceCommitOp s).dmem = s.dmem := by
  obtain ⟨_, h⟩ := iceCommitOp_frame s; rw [h]
@[simp] theorem iceCommitOp_hmem (s : State) : (iceCommitOp s).hmem = s.hmem := by
  obtain ⟨_, h⟩ := iceCommitOp_frame s; rw [h]
@[simp] theorem iceCommitOp_fills (s : State) : (iceCommitOp s).fills = s.fills := by
  obtain ⟨_, h⟩ := iceCommitOp_frame s; rw [h]
@[simp] theorem iceCommitOp_memStacks (s : State) : (iceCommitOp s).memStacks = s.memStacks := by
  obtain ⟨_, h⟩ := iceCommitOp_frame s; rw [h]
@[simp] theorem iceCommitOp_windows (s : State) : (iceCommitOp s).windows = s.windows := by
  obtain ⟨_, h⟩ := iceCommitOp_frame s; rw [h]
@[simp] theorem iceCommitOp_cxl (s : State) : (iceCommitOp s).cxl = s.cxl := by
  obtain ⟨_, h⟩ := iceCommitOp_frame s; rw [h]
@[simp] theorem iceCommitOp_kv (s : State) : (iceCommitOp s).kv = s.kv := by
  obtain ⟨_, h⟩ := iceCommitOp_frame s; rw [h]
@[simp] theorem iceCommitOp_ats (s : State) : (iceCommitOp s).ats = s.ats := by
  obtain ⟨_, h⟩ := iceCommitOp_frame s; rw [h]
@[simp] theorem iceCommitOp_pris (s : State) : (iceCommitOp s).pris = s.pris := by
  obtain ⟨_, h⟩ := iceCommitOp_frame s; rw [h]
@[simp] theorem iceCommitOp_bar2Waits (s : State) : (iceCommitOp s).bar2Waits = s.bar2Waits := by
  obtain ⟨_, h⟩ := iceCommitOp_frame s; rw [h]
@[simp] theorem iceCommitOp_copies (s : State) : (iceCommitOp s).copies = s.copies := by
  obtain ⟨_, h⟩ := iceCommitOp_frame s; rw [h]
@[simp] theorem iceCommitOp_priTimeout (s : State) : (iceCommitOp s).priTimeout = s.priTimeout := by
  obtain ⟨_, h⟩ := iceCommitOp_frame s; rw [h]
@[simp] theorem iceCommitOp_tiles (s : State) : (iceCommitOp s).tiles = s.tiles := by
  obtain ⟨_, h⟩ := iceCommitOp_frame s; rw [h]
@[simp] theorem iceCommitOp_images (s : State) : (iceCommitOp s).images = s.images := by
  obtain ⟨_, h⟩ := iceCommitOp_frame s; rw [h]
@[simp] theorem iceCommitOp_contexts (s : State) : (iceCommitOp s).contexts = s.contexts := by
  obtain ⟨_, h⟩ := iceCommitOp_frame s; rw [h]
@[simp] theorem iceCommitOp_floe (s : State) : (iceCommitOp s).floe = s.floe := by
  obtain ⟨_, h⟩ := iceCommitOp_frame s; rw [h]
@[simp] theorem iceCommitOp_trns (s : State) : (iceCommitOp s).trns = s.trns := by
  obtain ⟨_, h⟩ := iceCommitOp_frame s; rw [h]
@[simp] theorem iceCommitOp_trnHeld (s : State) : (iceCommitOp s).trnHeld = s.trnHeld := by
  obtain ⟨_, h⟩ := iceCommitOp_frame s; rw [h]
@[simp] theorem iceCommitOp_watchers (s : State) : (iceCommitOp s).watchers = s.watchers := by
  obtain ⟨_, h⟩ := iceCommitOp_frame s; rw [h]
@[simp] theorem iceCommitOp_noc (s : State) : (iceCommitOp s).noc = s.noc := by
  obtain ⟨_, h⟩ := iceCommitOp_frame s; rw [h]
@[simp] theorem iceCommitOp_casc (s : State) : (iceCommitOp s).casc = s.casc := by
  obtain ⟨_, h⟩ := iceCommitOp_frame s; rw [h]
@[simp] theorem iceCommitOp_mid (s : State) : (iceCommitOp s).mid = s.mid := by
  obtain ⟨_, h⟩ := iceCommitOp_frame s; rw [h]
@[simp] theorem iceCommitOp_cfg (s : State) : (iceCommitOp s).cfg = s.cfg := by
  obtain ⟨_, h⟩ := iceCommitOp_frame s; rw [h]
@[simp] theorem iceCommitOp_nextOrder (s : State) : (iceCommitOp s).nextOrder = s.nextOrder := by
  obtain ⟨_, h⟩ := iceCommitOp_frame s; rw [h]
@[simp] theorem iceCommitOp_counters (s : State) : (iceCommitOp s).counters = s.counters := by
  obtain ⟨_, h⟩ := iceCommitOp_frame s; rw [h]
@[simp] theorem iceCommitOp_works (s : State) : (iceCommitOp s).works = s.works := by
  obtain ⟨_, h⟩ := iceCommitOp_frame s; rw [h]
@[simp] theorem iceCommitOp_worksSeen (s : State) : (iceCommitOp s).worksSeen = s.worksSeen := by
  obtain ⟨_, h⟩ := iceCommitOp_frame s; rw [h]

theorem clearLost_frame (s : State) (a : Nat) :
    ∃ x0, clearLost s a = { s with memStacks := x0 } := by
  unfold clearLost
  dsimp only
  repeat' split
  · exact ⟨s.memStacks, rfl⟩
  · exact ⟨_, rfl⟩
  · exact ⟨s.memStacks, rfl⟩
  · exact ⟨s.memStacks, rfl⟩

@[simp] theorem clearLost_pending (s : State) (a : Nat) : (clearLost s a).pending = s.pending := by
  obtain ⟨_, h⟩ := clearLost_frame s a; rw [h]
@[simp] theorem clearLost_outbox (s : State) (a : Nat) : (clearLost s a).outbox = s.outbox := by
  obtain ⟨_, h⟩ := clearLost_frame s a; rw [h]
@[simp] theorem clearLost_time (s : State) (a : Nat) : (clearLost s a).time = s.time := by
  obtain ⟨_, h⟩ := clearLost_frame s a; rw [h]
@[simp] theorem clearLost_fresh (s : State) (a : Nat) : (clearLost s a).fresh = s.fresh := by
  obtain ⟨_, h⟩ := clearLost_frame s a; rw [h]
@[simp] theorem clearLost_variant (s : State) (a : Nat) : (clearLost s a).variant = s.variant := by
  obtain ⟨_, h⟩ := clearLost_frame s a; rw [h]
@[simp] theorem clearLost_fused (s : State) (a : Nat) : (clearLost s a).fused = s.fused := by
  obtain ⟨_, h⟩ := clearLost_frame s a; rw [h]
@[simp] theorem clearLost_mor (s : State) (a : Nat) : (clearLost s a).mor = s.mor := by
  obtain ⟨_, h⟩ := clearLost_frame s a; rw [h]
@[simp] theorem clearLost_ice (s : State) (a : Nat) : (clearLost s a).ice = s.ice := by
  obtain ⟨_, h⟩ := clearLost_frame s a; rw [h]
@[simp] theorem clearLost_pwr (s : State) (a : Nat) : (clearLost s a).pwr = s.pwr := by
  obtain ⟨_, h⟩ := clearLost_frame s a; rw [h]
@[simp] theorem clearLost_st (s : State) (a : Nat) : (clearLost s a).st = s.st := by
  obtain ⟨_, h⟩ := clearLost_frame s a; rw [h]
@[simp] theorem clearLost_funcs (s : State) (a : Nat) : (clearLost s a).funcs = s.funcs := by
  obtain ⟨_, h⟩ := clearLost_frame s a; rw [h]
@[simp] theorem clearLost_link (s : State) (a : Nat) : (clearLost s a).link = s.link := by
  obtain ⟨_, h⟩ := clearLost_frame s a; rw [h]
@[simp] theorem clearLost_dropped (s : State) (a : Nat) : (clearLost s a).dropped = s.dropped := by
  obtain ⟨_, h⟩ := clearLost_frame s a; rw [h]
@[simp] theorem clearLost_groups (s : State) (a : Nat) : (clearLost s a).groups = s.groups := by
  obtain ⟨_, h⟩ := clearLost_frame s a; rw [h]
@[simp] theorem clearLost_queues (s : State) (a : Nat) : (clearLost s a).queues = s.queues := by
  obtain ⟨_, h⟩ := clearLost_frame s a; rw [h]
@[simp] theorem clearLost_arb (s : State) (a : Nat) : (clearLost s a).arb = s.arb := by
  obtain ⟨_, h⟩ := clearLost_frame s a; rw [h]
@[simp] theorem clearLost_ops (s : State) (a : Nat) : (clearLost s a).ops = s.ops := by
  obtain ⟨_, h⟩ := clearLost_frame s a; rw [h]
@[simp] theorem clearLost_nextTag (s : State) (a : Nat) : (clearLost s a).nextTag = s.nextTag := by
  obtain ⟨_, h⟩ := clearLost_frame s a; rw [h]
@[simp] theorem clearLost_pages (s : State) (a : Nat) : (clearLost s a).pages = s.pages := by
  obtain ⟨_, h⟩ := clearLost_frame s a; rw [h]
@[simp] theorem clearLost_resets (s : State) (a : Nat) : (clearLost s a).resets = s.resets := by
  obtain ⟨_, h⟩ := clearLost_frame s a; rw [h]
@[simp] theorem clearLost_place (s : State) (a : Nat) : (clearLost s a).place = s.place := by
  obtain ⟨_, h⟩ := clearLost_frame s a; rw [h]
@[simp] theorem clearLost_dmem (s : State) (a : Nat) : (clearLost s a).dmem = s.dmem := by
  obtain ⟨_, h⟩ := clearLost_frame s a; rw [h]
@[simp] theorem clearLost_hmem (s : State) (a : Nat) : (clearLost s a).hmem = s.hmem := by
  obtain ⟨_, h⟩ := clearLost_frame s a; rw [h]
@[simp] theorem clearLost_fills (s : State) (a : Nat) : (clearLost s a).fills = s.fills := by
  obtain ⟨_, h⟩ := clearLost_frame s a; rw [h]
@[simp] theorem clearLost_windows (s : State) (a : Nat) : (clearLost s a).windows = s.windows := by
  obtain ⟨_, h⟩ := clearLost_frame s a; rw [h]
@[simp] theorem clearLost_cxl (s : State) (a : Nat) : (clearLost s a).cxl = s.cxl := by
  obtain ⟨_, h⟩ := clearLost_frame s a; rw [h]
@[simp] theorem clearLost_kv (s : State) (a : Nat) : (clearLost s a).kv = s.kv := by
  obtain ⟨_, h⟩ := clearLost_frame s a; rw [h]
@[simp] theorem clearLost_ats (s : State) (a : Nat) : (clearLost s a).ats = s.ats := by
  obtain ⟨_, h⟩ := clearLost_frame s a; rw [h]
@[simp] theorem clearLost_pris (s : State) (a : Nat) : (clearLost s a).pris = s.pris := by
  obtain ⟨_, h⟩ := clearLost_frame s a; rw [h]
@[simp] theorem clearLost_bar2Waits (s : State) (a : Nat) : (clearLost s a).bar2Waits = s.bar2Waits := by
  obtain ⟨_, h⟩ := clearLost_frame s a; rw [h]
@[simp] theorem clearLost_copies (s : State) (a : Nat) : (clearLost s a).copies = s.copies := by
  obtain ⟨_, h⟩ := clearLost_frame s a; rw [h]
@[simp] theorem clearLost_priTimeout (s : State) (a : Nat) : (clearLost s a).priTimeout = s.priTimeout := by
  obtain ⟨_, h⟩ := clearLost_frame s a; rw [h]
@[simp] theorem clearLost_tiles (s : State) (a : Nat) : (clearLost s a).tiles = s.tiles := by
  obtain ⟨_, h⟩ := clearLost_frame s a; rw [h]
@[simp] theorem clearLost_images (s : State) (a : Nat) : (clearLost s a).images = s.images := by
  obtain ⟨_, h⟩ := clearLost_frame s a; rw [h]
@[simp] theorem clearLost_contexts (s : State) (a : Nat) : (clearLost s a).contexts = s.contexts := by
  obtain ⟨_, h⟩ := clearLost_frame s a; rw [h]
@[simp] theorem clearLost_floe (s : State) (a : Nat) : (clearLost s a).floe = s.floe := by
  obtain ⟨_, h⟩ := clearLost_frame s a; rw [h]
@[simp] theorem clearLost_trns (s : State) (a : Nat) : (clearLost s a).trns = s.trns := by
  obtain ⟨_, h⟩ := clearLost_frame s a; rw [h]
@[simp] theorem clearLost_trnHeld (s : State) (a : Nat) : (clearLost s a).trnHeld = s.trnHeld := by
  obtain ⟨_, h⟩ := clearLost_frame s a; rw [h]
@[simp] theorem clearLost_watchers (s : State) (a : Nat) : (clearLost s a).watchers = s.watchers := by
  obtain ⟨_, h⟩ := clearLost_frame s a; rw [h]
@[simp] theorem clearLost_noc (s : State) (a : Nat) : (clearLost s a).noc = s.noc := by
  obtain ⟨_, h⟩ := clearLost_frame s a; rw [h]
@[simp] theorem clearLost_casc (s : State) (a : Nat) : (clearLost s a).casc = s.casc := by
  obtain ⟨_, h⟩ := clearLost_frame s a; rw [h]
@[simp] theorem clearLost_mid (s : State) (a : Nat) : (clearLost s a).mid = s.mid := by
  obtain ⟨_, h⟩ := clearLost_frame s a; rw [h]
@[simp] theorem clearLost_cfg (s : State) (a : Nat) : (clearLost s a).cfg = s.cfg := by
  obtain ⟨_, h⟩ := clearLost_frame s a; rw [h]
@[simp] theorem clearLost_nextOrder (s : State) (a : Nat) : (clearLost s a).nextOrder = s.nextOrder := by
  obtain ⟨_, h⟩ := clearLost_frame s a; rw [h]
@[simp] theorem clearLost_counters (s : State) (a : Nat) : (clearLost s a).counters = s.counters := by
  obtain ⟨_, h⟩ := clearLost_frame s a; rw [h]
@[simp] theorem clearLost_works (s : State) (a : Nat) : (clearLost s a).works = s.works := by
  obtain ⟨_, h⟩ := clearLost_frame s a; rw [h]
@[simp] theorem clearLost_worksSeen (s : State) (a : Nat) : (clearLost s a).worksSeen = s.worksSeen := by
  obtain ⟨_, h⟩ := clearLost_frame s a; rw [h]

theorem snoop_frame (a : Nat) (s : State) :
    ∃ x0, snoop a s = { s with noc := x0 } := by
  unfold snoop
  split
  · exact ⟨s.noc, rfl⟩
  · exact ⟨_, rfl⟩

@[simp] theorem snoop_pending (a : Nat) (s : State) : (snoop a s).pending = s.pending := by
  obtain ⟨_, h⟩ := snoop_frame a s; rw [h]
@[simp] theorem snoop_outbox (a : Nat) (s : State) : (snoop a s).outbox = s.outbox := by
  obtain ⟨_, h⟩ := snoop_frame a s; rw [h]
@[simp] theorem snoop_time (a : Nat) (s : State) : (snoop a s).time = s.time := by
  obtain ⟨_, h⟩ := snoop_frame a s; rw [h]
@[simp] theorem snoop_fresh (a : Nat) (s : State) : (snoop a s).fresh = s.fresh := by
  obtain ⟨_, h⟩ := snoop_frame a s; rw [h]
@[simp] theorem snoop_variant (a : Nat) (s : State) : (snoop a s).variant = s.variant := by
  obtain ⟨_, h⟩ := snoop_frame a s; rw [h]
@[simp] theorem snoop_fused (a : Nat) (s : State) : (snoop a s).fused = s.fused := by
  obtain ⟨_, h⟩ := snoop_frame a s; rw [h]
@[simp] theorem snoop_mor (a : Nat) (s : State) : (snoop a s).mor = s.mor := by
  obtain ⟨_, h⟩ := snoop_frame a s; rw [h]
@[simp] theorem snoop_ice (a : Nat) (s : State) : (snoop a s).ice = s.ice := by
  obtain ⟨_, h⟩ := snoop_frame a s; rw [h]
@[simp] theorem snoop_pwr (a : Nat) (s : State) : (snoop a s).pwr = s.pwr := by
  obtain ⟨_, h⟩ := snoop_frame a s; rw [h]
@[simp] theorem snoop_st (a : Nat) (s : State) : (snoop a s).st = s.st := by
  obtain ⟨_, h⟩ := snoop_frame a s; rw [h]
@[simp] theorem snoop_funcs (a : Nat) (s : State) : (snoop a s).funcs = s.funcs := by
  obtain ⟨_, h⟩ := snoop_frame a s; rw [h]
@[simp] theorem snoop_link (a : Nat) (s : State) : (snoop a s).link = s.link := by
  obtain ⟨_, h⟩ := snoop_frame a s; rw [h]
@[simp] theorem snoop_dropped (a : Nat) (s : State) : (snoop a s).dropped = s.dropped := by
  obtain ⟨_, h⟩ := snoop_frame a s; rw [h]
@[simp] theorem snoop_groups (a : Nat) (s : State) : (snoop a s).groups = s.groups := by
  obtain ⟨_, h⟩ := snoop_frame a s; rw [h]
@[simp] theorem snoop_queues (a : Nat) (s : State) : (snoop a s).queues = s.queues := by
  obtain ⟨_, h⟩ := snoop_frame a s; rw [h]
@[simp] theorem snoop_arb (a : Nat) (s : State) : (snoop a s).arb = s.arb := by
  obtain ⟨_, h⟩ := snoop_frame a s; rw [h]
@[simp] theorem snoop_ops (a : Nat) (s : State) : (snoop a s).ops = s.ops := by
  obtain ⟨_, h⟩ := snoop_frame a s; rw [h]
@[simp] theorem snoop_nextTag (a : Nat) (s : State) : (snoop a s).nextTag = s.nextTag := by
  obtain ⟨_, h⟩ := snoop_frame a s; rw [h]
@[simp] theorem snoop_pages (a : Nat) (s : State) : (snoop a s).pages = s.pages := by
  obtain ⟨_, h⟩ := snoop_frame a s; rw [h]
@[simp] theorem snoop_resets (a : Nat) (s : State) : (snoop a s).resets = s.resets := by
  obtain ⟨_, h⟩ := snoop_frame a s; rw [h]
@[simp] theorem snoop_place (a : Nat) (s : State) : (snoop a s).place = s.place := by
  obtain ⟨_, h⟩ := snoop_frame a s; rw [h]
@[simp] theorem snoop_dmem (a : Nat) (s : State) : (snoop a s).dmem = s.dmem := by
  obtain ⟨_, h⟩ := snoop_frame a s; rw [h]
@[simp] theorem snoop_hmem (a : Nat) (s : State) : (snoop a s).hmem = s.hmem := by
  obtain ⟨_, h⟩ := snoop_frame a s; rw [h]
@[simp] theorem snoop_fills (a : Nat) (s : State) : (snoop a s).fills = s.fills := by
  obtain ⟨_, h⟩ := snoop_frame a s; rw [h]
@[simp] theorem snoop_memStacks (a : Nat) (s : State) : (snoop a s).memStacks = s.memStacks := by
  obtain ⟨_, h⟩ := snoop_frame a s; rw [h]
@[simp] theorem snoop_windows (a : Nat) (s : State) : (snoop a s).windows = s.windows := by
  obtain ⟨_, h⟩ := snoop_frame a s; rw [h]
@[simp] theorem snoop_cxl (a : Nat) (s : State) : (snoop a s).cxl = s.cxl := by
  obtain ⟨_, h⟩ := snoop_frame a s; rw [h]
@[simp] theorem snoop_kv (a : Nat) (s : State) : (snoop a s).kv = s.kv := by
  obtain ⟨_, h⟩ := snoop_frame a s; rw [h]
@[simp] theorem snoop_ats (a : Nat) (s : State) : (snoop a s).ats = s.ats := by
  obtain ⟨_, h⟩ := snoop_frame a s; rw [h]
@[simp] theorem snoop_pris (a : Nat) (s : State) : (snoop a s).pris = s.pris := by
  obtain ⟨_, h⟩ := snoop_frame a s; rw [h]
@[simp] theorem snoop_bar2Waits (a : Nat) (s : State) : (snoop a s).bar2Waits = s.bar2Waits := by
  obtain ⟨_, h⟩ := snoop_frame a s; rw [h]
@[simp] theorem snoop_copies (a : Nat) (s : State) : (snoop a s).copies = s.copies := by
  obtain ⟨_, h⟩ := snoop_frame a s; rw [h]
@[simp] theorem snoop_priTimeout (a : Nat) (s : State) : (snoop a s).priTimeout = s.priTimeout := by
  obtain ⟨_, h⟩ := snoop_frame a s; rw [h]
@[simp] theorem snoop_tiles (a : Nat) (s : State) : (snoop a s).tiles = s.tiles := by
  obtain ⟨_, h⟩ := snoop_frame a s; rw [h]
@[simp] theorem snoop_images (a : Nat) (s : State) : (snoop a s).images = s.images := by
  obtain ⟨_, h⟩ := snoop_frame a s; rw [h]
@[simp] theorem snoop_contexts (a : Nat) (s : State) : (snoop a s).contexts = s.contexts := by
  obtain ⟨_, h⟩ := snoop_frame a s; rw [h]
@[simp] theorem snoop_floe (a : Nat) (s : State) : (snoop a s).floe = s.floe := by
  obtain ⟨_, h⟩ := snoop_frame a s; rw [h]
@[simp] theorem snoop_trns (a : Nat) (s : State) : (snoop a s).trns = s.trns := by
  obtain ⟨_, h⟩ := snoop_frame a s; rw [h]
@[simp] theorem snoop_trnHeld (a : Nat) (s : State) : (snoop a s).trnHeld = s.trnHeld := by
  obtain ⟨_, h⟩ := snoop_frame a s; rw [h]
@[simp] theorem snoop_watchers (a : Nat) (s : State) : (snoop a s).watchers = s.watchers := by
  obtain ⟨_, h⟩ := snoop_frame a s; rw [h]
@[simp] theorem snoop_casc (a : Nat) (s : State) : (snoop a s).casc = s.casc := by
  obtain ⟨_, h⟩ := snoop_frame a s; rw [h]
@[simp] theorem snoop_mid (a : Nat) (s : State) : (snoop a s).mid = s.mid := by
  obtain ⟨_, h⟩ := snoop_frame a s; rw [h]
@[simp] theorem snoop_cfg (a : Nat) (s : State) : (snoop a s).cfg = s.cfg := by
  obtain ⟨_, h⟩ := snoop_frame a s; rw [h]
@[simp] theorem snoop_nextOrder (a : Nat) (s : State) : (snoop a s).nextOrder = s.nextOrder := by
  obtain ⟨_, h⟩ := snoop_frame a s; rw [h]
@[simp] theorem snoop_counters (a : Nat) (s : State) : (snoop a s).counters = s.counters := by
  obtain ⟨_, h⟩ := snoop_frame a s; rw [h]
@[simp] theorem snoop_works (a : Nat) (s : State) : (snoop a s).works = s.works := by
  obtain ⟨_, h⟩ := snoop_frame a s; rw [h]
@[simp] theorem snoop_worksSeen (a : Nat) (s : State) : (snoop a s).worksSeen = s.worksSeen := by
  obtain ⟨_, h⟩ := snoop_frame a s; rw [h]

theorem writeLine_frame (a : Nat) (bs : List Byte) (s : State) :
    ∃ x0 x1 x2 x3, writeLine a bs s = { s with dmem := x0, fills := x1, memStacks := x2, noc := x3 } := by
  unfold writeLine
  obtain ⟨y, hy⟩ := snoop_frame a { s with dmem := Memory.writeN s.dmem a bs }
  rw [hy]
  dsimp only
  repeat' split
  · obtain ⟨x, h⟩ := clearLost_frame { s with
        dmem := Memory.writeN s.dmem a bs, noc := y, fills := terase (a / 64) s.fills } a
    exact ⟨_, _, x, y, h⟩
  · exact ⟨_, _, s.memStacks, y, rfl⟩
  · exact ⟨_, s.fills, s.memStacks, y, rfl⟩

@[simp] theorem writeLine_pending (a : Nat) (bs : List Byte) (s : State) : (writeLine a bs s).pending = s.pending := by
  obtain ⟨_, _, _, _, h⟩ := writeLine_frame a bs s; rw [h]
@[simp] theorem writeLine_outbox (a : Nat) (bs : List Byte) (s : State) : (writeLine a bs s).outbox = s.outbox := by
  obtain ⟨_, _, _, _, h⟩ := writeLine_frame a bs s; rw [h]
@[simp] theorem writeLine_time (a : Nat) (bs : List Byte) (s : State) : (writeLine a bs s).time = s.time := by
  obtain ⟨_, _, _, _, h⟩ := writeLine_frame a bs s; rw [h]
@[simp] theorem writeLine_fresh (a : Nat) (bs : List Byte) (s : State) : (writeLine a bs s).fresh = s.fresh := by
  obtain ⟨_, _, _, _, h⟩ := writeLine_frame a bs s; rw [h]
@[simp] theorem writeLine_variant (a : Nat) (bs : List Byte) (s : State) : (writeLine a bs s).variant = s.variant := by
  obtain ⟨_, _, _, _, h⟩ := writeLine_frame a bs s; rw [h]
@[simp] theorem writeLine_fused (a : Nat) (bs : List Byte) (s : State) : (writeLine a bs s).fused = s.fused := by
  obtain ⟨_, _, _, _, h⟩ := writeLine_frame a bs s; rw [h]
@[simp] theorem writeLine_mor (a : Nat) (bs : List Byte) (s : State) : (writeLine a bs s).mor = s.mor := by
  obtain ⟨_, _, _, _, h⟩ := writeLine_frame a bs s; rw [h]
@[simp] theorem writeLine_ice (a : Nat) (bs : List Byte) (s : State) : (writeLine a bs s).ice = s.ice := by
  obtain ⟨_, _, _, _, h⟩ := writeLine_frame a bs s; rw [h]
@[simp] theorem writeLine_pwr (a : Nat) (bs : List Byte) (s : State) : (writeLine a bs s).pwr = s.pwr := by
  obtain ⟨_, _, _, _, h⟩ := writeLine_frame a bs s; rw [h]
@[simp] theorem writeLine_st (a : Nat) (bs : List Byte) (s : State) : (writeLine a bs s).st = s.st := by
  obtain ⟨_, _, _, _, h⟩ := writeLine_frame a bs s; rw [h]
@[simp] theorem writeLine_funcs (a : Nat) (bs : List Byte) (s : State) : (writeLine a bs s).funcs = s.funcs := by
  obtain ⟨_, _, _, _, h⟩ := writeLine_frame a bs s; rw [h]
@[simp] theorem writeLine_link (a : Nat) (bs : List Byte) (s : State) : (writeLine a bs s).link = s.link := by
  obtain ⟨_, _, _, _, h⟩ := writeLine_frame a bs s; rw [h]
@[simp] theorem writeLine_dropped (a : Nat) (bs : List Byte) (s : State) : (writeLine a bs s).dropped = s.dropped := by
  obtain ⟨_, _, _, _, h⟩ := writeLine_frame a bs s; rw [h]
@[simp] theorem writeLine_groups (a : Nat) (bs : List Byte) (s : State) : (writeLine a bs s).groups = s.groups := by
  obtain ⟨_, _, _, _, h⟩ := writeLine_frame a bs s; rw [h]
@[simp] theorem writeLine_queues (a : Nat) (bs : List Byte) (s : State) : (writeLine a bs s).queues = s.queues := by
  obtain ⟨_, _, _, _, h⟩ := writeLine_frame a bs s; rw [h]
@[simp] theorem writeLine_arb (a : Nat) (bs : List Byte) (s : State) : (writeLine a bs s).arb = s.arb := by
  obtain ⟨_, _, _, _, h⟩ := writeLine_frame a bs s; rw [h]
@[simp] theorem writeLine_ops (a : Nat) (bs : List Byte) (s : State) : (writeLine a bs s).ops = s.ops := by
  obtain ⟨_, _, _, _, h⟩ := writeLine_frame a bs s; rw [h]
@[simp] theorem writeLine_nextTag (a : Nat) (bs : List Byte) (s : State) : (writeLine a bs s).nextTag = s.nextTag := by
  obtain ⟨_, _, _, _, h⟩ := writeLine_frame a bs s; rw [h]
@[simp] theorem writeLine_pages (a : Nat) (bs : List Byte) (s : State) : (writeLine a bs s).pages = s.pages := by
  obtain ⟨_, _, _, _, h⟩ := writeLine_frame a bs s; rw [h]
@[simp] theorem writeLine_resets (a : Nat) (bs : List Byte) (s : State) : (writeLine a bs s).resets = s.resets := by
  obtain ⟨_, _, _, _, h⟩ := writeLine_frame a bs s; rw [h]
@[simp] theorem writeLine_place (a : Nat) (bs : List Byte) (s : State) : (writeLine a bs s).place = s.place := by
  obtain ⟨_, _, _, _, h⟩ := writeLine_frame a bs s; rw [h]
@[simp] theorem writeLine_hmem (a : Nat) (bs : List Byte) (s : State) : (writeLine a bs s).hmem = s.hmem := by
  obtain ⟨_, _, _, _, h⟩ := writeLine_frame a bs s; rw [h]
@[simp] theorem writeLine_windows (a : Nat) (bs : List Byte) (s : State) : (writeLine a bs s).windows = s.windows := by
  obtain ⟨_, _, _, _, h⟩ := writeLine_frame a bs s; rw [h]
@[simp] theorem writeLine_cxl (a : Nat) (bs : List Byte) (s : State) : (writeLine a bs s).cxl = s.cxl := by
  obtain ⟨_, _, _, _, h⟩ := writeLine_frame a bs s; rw [h]
@[simp] theorem writeLine_kv (a : Nat) (bs : List Byte) (s : State) : (writeLine a bs s).kv = s.kv := by
  obtain ⟨_, _, _, _, h⟩ := writeLine_frame a bs s; rw [h]
@[simp] theorem writeLine_ats (a : Nat) (bs : List Byte) (s : State) : (writeLine a bs s).ats = s.ats := by
  obtain ⟨_, _, _, _, h⟩ := writeLine_frame a bs s; rw [h]
@[simp] theorem writeLine_pris (a : Nat) (bs : List Byte) (s : State) : (writeLine a bs s).pris = s.pris := by
  obtain ⟨_, _, _, _, h⟩ := writeLine_frame a bs s; rw [h]
@[simp] theorem writeLine_bar2Waits (a : Nat) (bs : List Byte) (s : State) : (writeLine a bs s).bar2Waits = s.bar2Waits := by
  obtain ⟨_, _, _, _, h⟩ := writeLine_frame a bs s; rw [h]
@[simp] theorem writeLine_copies (a : Nat) (bs : List Byte) (s : State) : (writeLine a bs s).copies = s.copies := by
  obtain ⟨_, _, _, _, h⟩ := writeLine_frame a bs s; rw [h]
@[simp] theorem writeLine_priTimeout (a : Nat) (bs : List Byte) (s : State) : (writeLine a bs s).priTimeout = s.priTimeout := by
  obtain ⟨_, _, _, _, h⟩ := writeLine_frame a bs s; rw [h]
@[simp] theorem writeLine_tiles (a : Nat) (bs : List Byte) (s : State) : (writeLine a bs s).tiles = s.tiles := by
  obtain ⟨_, _, _, _, h⟩ := writeLine_frame a bs s; rw [h]
@[simp] theorem writeLine_images (a : Nat) (bs : List Byte) (s : State) : (writeLine a bs s).images = s.images := by
  obtain ⟨_, _, _, _, h⟩ := writeLine_frame a bs s; rw [h]
@[simp] theorem writeLine_contexts (a : Nat) (bs : List Byte) (s : State) : (writeLine a bs s).contexts = s.contexts := by
  obtain ⟨_, _, _, _, h⟩ := writeLine_frame a bs s; rw [h]
@[simp] theorem writeLine_floe (a : Nat) (bs : List Byte) (s : State) : (writeLine a bs s).floe = s.floe := by
  obtain ⟨_, _, _, _, h⟩ := writeLine_frame a bs s; rw [h]
@[simp] theorem writeLine_trns (a : Nat) (bs : List Byte) (s : State) : (writeLine a bs s).trns = s.trns := by
  obtain ⟨_, _, _, _, h⟩ := writeLine_frame a bs s; rw [h]
@[simp] theorem writeLine_trnHeld (a : Nat) (bs : List Byte) (s : State) : (writeLine a bs s).trnHeld = s.trnHeld := by
  obtain ⟨_, _, _, _, h⟩ := writeLine_frame a bs s; rw [h]
@[simp] theorem writeLine_watchers (a : Nat) (bs : List Byte) (s : State) : (writeLine a bs s).watchers = s.watchers := by
  obtain ⟨_, _, _, _, h⟩ := writeLine_frame a bs s; rw [h]
@[simp] theorem writeLine_casc (a : Nat) (bs : List Byte) (s : State) : (writeLine a bs s).casc = s.casc := by
  obtain ⟨_, _, _, _, h⟩ := writeLine_frame a bs s; rw [h]
@[simp] theorem writeLine_mid (a : Nat) (bs : List Byte) (s : State) : (writeLine a bs s).mid = s.mid := by
  obtain ⟨_, _, _, _, h⟩ := writeLine_frame a bs s; rw [h]
@[simp] theorem writeLine_cfg (a : Nat) (bs : List Byte) (s : State) : (writeLine a bs s).cfg = s.cfg := by
  obtain ⟨_, _, _, _, h⟩ := writeLine_frame a bs s; rw [h]
@[simp] theorem writeLine_nextOrder (a : Nat) (bs : List Byte) (s : State) : (writeLine a bs s).nextOrder = s.nextOrder := by
  obtain ⟨_, _, _, _, h⟩ := writeLine_frame a bs s; rw [h]
@[simp] theorem writeLine_counters (a : Nat) (bs : List Byte) (s : State) : (writeLine a bs s).counters = s.counters := by
  obtain ⟨_, _, _, _, h⟩ := writeLine_frame a bs s; rw [h]
@[simp] theorem writeLine_works (a : Nat) (bs : List Byte) (s : State) : (writeLine a bs s).works = s.works := by
  obtain ⟨_, _, _, _, h⟩ := writeLine_frame a bs s; rw [h]
@[simp] theorem writeLine_worksSeen (a : Nat) (bs : List Byte) (s : State) : (writeLine a bs s).worksSeen = s.worksSeen := by
  obtain ⟨_, _, _, _, h⟩ := writeLine_frame a bs s; rw [h]

theorem writePhys_frame (n a : Nat) (bs : List Byte) (s : State) :
    ∃ x0 x1 x2 x3, writePhys n a bs s = { s with dmem := x0, fills := x1, memStacks := x2, noc := x3 } := by
  induction n generalizing a bs s with
  | zero => exact ⟨s.dmem, s.fills, s.memStacks, s.noc, rfl⟩
  | succ n ih =>
    rw [writePhys]
    split
    · exact ⟨s.dmem, s.fills, s.memStacks, s.noc, rfl⟩
    · obtain ⟨x0, x1, x2, x3, h⟩ := writeLine_frame a (bs.take (64 - a % 64)) s
      simp only [h]
      exact ih _ _ { s with dmem := x0, fills := x1, memStacks := x2, noc := x3 }

@[simp] theorem writePhys_pending (n a : Nat) (bs : List Byte) (s : State) : (writePhys n a bs s).pending = s.pending := by
  obtain ⟨_, _, _, _, h⟩ := writePhys_frame n a bs s; rw [h]
@[simp] theorem writePhys_outbox (n a : Nat) (bs : List Byte) (s : State) : (writePhys n a bs s).outbox = s.outbox := by
  obtain ⟨_, _, _, _, h⟩ := writePhys_frame n a bs s; rw [h]
@[simp] theorem writePhys_time (n a : Nat) (bs : List Byte) (s : State) : (writePhys n a bs s).time = s.time := by
  obtain ⟨_, _, _, _, h⟩ := writePhys_frame n a bs s; rw [h]
@[simp] theorem writePhys_fresh (n a : Nat) (bs : List Byte) (s : State) : (writePhys n a bs s).fresh = s.fresh := by
  obtain ⟨_, _, _, _, h⟩ := writePhys_frame n a bs s; rw [h]
@[simp] theorem writePhys_variant (n a : Nat) (bs : List Byte) (s : State) : (writePhys n a bs s).variant = s.variant := by
  obtain ⟨_, _, _, _, h⟩ := writePhys_frame n a bs s; rw [h]
@[simp] theorem writePhys_fused (n a : Nat) (bs : List Byte) (s : State) : (writePhys n a bs s).fused = s.fused := by
  obtain ⟨_, _, _, _, h⟩ := writePhys_frame n a bs s; rw [h]
@[simp] theorem writePhys_mor (n a : Nat) (bs : List Byte) (s : State) : (writePhys n a bs s).mor = s.mor := by
  obtain ⟨_, _, _, _, h⟩ := writePhys_frame n a bs s; rw [h]
@[simp] theorem writePhys_ice (n a : Nat) (bs : List Byte) (s : State) : (writePhys n a bs s).ice = s.ice := by
  obtain ⟨_, _, _, _, h⟩ := writePhys_frame n a bs s; rw [h]
@[simp] theorem writePhys_pwr (n a : Nat) (bs : List Byte) (s : State) : (writePhys n a bs s).pwr = s.pwr := by
  obtain ⟨_, _, _, _, h⟩ := writePhys_frame n a bs s; rw [h]
@[simp] theorem writePhys_st (n a : Nat) (bs : List Byte) (s : State) : (writePhys n a bs s).st = s.st := by
  obtain ⟨_, _, _, _, h⟩ := writePhys_frame n a bs s; rw [h]
@[simp] theorem writePhys_funcs (n a : Nat) (bs : List Byte) (s : State) : (writePhys n a bs s).funcs = s.funcs := by
  obtain ⟨_, _, _, _, h⟩ := writePhys_frame n a bs s; rw [h]
@[simp] theorem writePhys_link (n a : Nat) (bs : List Byte) (s : State) : (writePhys n a bs s).link = s.link := by
  obtain ⟨_, _, _, _, h⟩ := writePhys_frame n a bs s; rw [h]
@[simp] theorem writePhys_dropped (n a : Nat) (bs : List Byte) (s : State) : (writePhys n a bs s).dropped = s.dropped := by
  obtain ⟨_, _, _, _, h⟩ := writePhys_frame n a bs s; rw [h]
@[simp] theorem writePhys_groups (n a : Nat) (bs : List Byte) (s : State) : (writePhys n a bs s).groups = s.groups := by
  obtain ⟨_, _, _, _, h⟩ := writePhys_frame n a bs s; rw [h]
@[simp] theorem writePhys_queues (n a : Nat) (bs : List Byte) (s : State) : (writePhys n a bs s).queues = s.queues := by
  obtain ⟨_, _, _, _, h⟩ := writePhys_frame n a bs s; rw [h]
@[simp] theorem writePhys_arb (n a : Nat) (bs : List Byte) (s : State) : (writePhys n a bs s).arb = s.arb := by
  obtain ⟨_, _, _, _, h⟩ := writePhys_frame n a bs s; rw [h]
@[simp] theorem writePhys_ops (n a : Nat) (bs : List Byte) (s : State) : (writePhys n a bs s).ops = s.ops := by
  obtain ⟨_, _, _, _, h⟩ := writePhys_frame n a bs s; rw [h]
@[simp] theorem writePhys_nextTag (n a : Nat) (bs : List Byte) (s : State) : (writePhys n a bs s).nextTag = s.nextTag := by
  obtain ⟨_, _, _, _, h⟩ := writePhys_frame n a bs s; rw [h]
@[simp] theorem writePhys_pages (n a : Nat) (bs : List Byte) (s : State) : (writePhys n a bs s).pages = s.pages := by
  obtain ⟨_, _, _, _, h⟩ := writePhys_frame n a bs s; rw [h]
@[simp] theorem writePhys_resets (n a : Nat) (bs : List Byte) (s : State) : (writePhys n a bs s).resets = s.resets := by
  obtain ⟨_, _, _, _, h⟩ := writePhys_frame n a bs s; rw [h]
@[simp] theorem writePhys_place (n a : Nat) (bs : List Byte) (s : State) : (writePhys n a bs s).place = s.place := by
  obtain ⟨_, _, _, _, h⟩ := writePhys_frame n a bs s; rw [h]
@[simp] theorem writePhys_hmem (n a : Nat) (bs : List Byte) (s : State) : (writePhys n a bs s).hmem = s.hmem := by
  obtain ⟨_, _, _, _, h⟩ := writePhys_frame n a bs s; rw [h]
@[simp] theorem writePhys_windows (n a : Nat) (bs : List Byte) (s : State) : (writePhys n a bs s).windows = s.windows := by
  obtain ⟨_, _, _, _, h⟩ := writePhys_frame n a bs s; rw [h]
@[simp] theorem writePhys_cxl (n a : Nat) (bs : List Byte) (s : State) : (writePhys n a bs s).cxl = s.cxl := by
  obtain ⟨_, _, _, _, h⟩ := writePhys_frame n a bs s; rw [h]
@[simp] theorem writePhys_kv (n a : Nat) (bs : List Byte) (s : State) : (writePhys n a bs s).kv = s.kv := by
  obtain ⟨_, _, _, _, h⟩ := writePhys_frame n a bs s; rw [h]
@[simp] theorem writePhys_ats (n a : Nat) (bs : List Byte) (s : State) : (writePhys n a bs s).ats = s.ats := by
  obtain ⟨_, _, _, _, h⟩ := writePhys_frame n a bs s; rw [h]
@[simp] theorem writePhys_pris (n a : Nat) (bs : List Byte) (s : State) : (writePhys n a bs s).pris = s.pris := by
  obtain ⟨_, _, _, _, h⟩ := writePhys_frame n a bs s; rw [h]
@[simp] theorem writePhys_bar2Waits (n a : Nat) (bs : List Byte) (s : State) : (writePhys n a bs s).bar2Waits = s.bar2Waits := by
  obtain ⟨_, _, _, _, h⟩ := writePhys_frame n a bs s; rw [h]
@[simp] theorem writePhys_copies (n a : Nat) (bs : List Byte) (s : State) : (writePhys n a bs s).copies = s.copies := by
  obtain ⟨_, _, _, _, h⟩ := writePhys_frame n a bs s; rw [h]
@[simp] theorem writePhys_priTimeout (n a : Nat) (bs : List Byte) (s : State) : (writePhys n a bs s).priTimeout = s.priTimeout := by
  obtain ⟨_, _, _, _, h⟩ := writePhys_frame n a bs s; rw [h]
@[simp] theorem writePhys_tiles (n a : Nat) (bs : List Byte) (s : State) : (writePhys n a bs s).tiles = s.tiles := by
  obtain ⟨_, _, _, _, h⟩ := writePhys_frame n a bs s; rw [h]
@[simp] theorem writePhys_images (n a : Nat) (bs : List Byte) (s : State) : (writePhys n a bs s).images = s.images := by
  obtain ⟨_, _, _, _, h⟩ := writePhys_frame n a bs s; rw [h]
@[simp] theorem writePhys_contexts (n a : Nat) (bs : List Byte) (s : State) : (writePhys n a bs s).contexts = s.contexts := by
  obtain ⟨_, _, _, _, h⟩ := writePhys_frame n a bs s; rw [h]
@[simp] theorem writePhys_floe (n a : Nat) (bs : List Byte) (s : State) : (writePhys n a bs s).floe = s.floe := by
  obtain ⟨_, _, _, _, h⟩ := writePhys_frame n a bs s; rw [h]
@[simp] theorem writePhys_trns (n a : Nat) (bs : List Byte) (s : State) : (writePhys n a bs s).trns = s.trns := by
  obtain ⟨_, _, _, _, h⟩ := writePhys_frame n a bs s; rw [h]
@[simp] theorem writePhys_trnHeld (n a : Nat) (bs : List Byte) (s : State) : (writePhys n a bs s).trnHeld = s.trnHeld := by
  obtain ⟨_, _, _, _, h⟩ := writePhys_frame n a bs s; rw [h]
@[simp] theorem writePhys_watchers (n a : Nat) (bs : List Byte) (s : State) : (writePhys n a bs s).watchers = s.watchers := by
  obtain ⟨_, _, _, _, h⟩ := writePhys_frame n a bs s; rw [h]
@[simp] theorem writePhys_casc (n a : Nat) (bs : List Byte) (s : State) : (writePhys n a bs s).casc = s.casc := by
  obtain ⟨_, _, _, _, h⟩ := writePhys_frame n a bs s; rw [h]
@[simp] theorem writePhys_mid (n a : Nat) (bs : List Byte) (s : State) : (writePhys n a bs s).mid = s.mid := by
  obtain ⟨_, _, _, _, h⟩ := writePhys_frame n a bs s; rw [h]
@[simp] theorem writePhys_cfg (n a : Nat) (bs : List Byte) (s : State) : (writePhys n a bs s).cfg = s.cfg := by
  obtain ⟨_, _, _, _, h⟩ := writePhys_frame n a bs s; rw [h]
@[simp] theorem writePhys_nextOrder (n a : Nat) (bs : List Byte) (s : State) : (writePhys n a bs s).nextOrder = s.nextOrder := by
  obtain ⟨_, _, _, _, h⟩ := writePhys_frame n a bs s; rw [h]
@[simp] theorem writePhys_counters (n a : Nat) (bs : List Byte) (s : State) : (writePhys n a bs s).counters = s.counters := by
  obtain ⟨_, _, _, _, h⟩ := writePhys_frame n a bs s; rw [h]
@[simp] theorem writePhys_works (n a : Nat) (bs : List Byte) (s : State) : (writePhys n a bs s).works = s.works := by
  obtain ⟨_, _, _, _, h⟩ := writePhys_frame n a bs s; rw [h]
@[simp] theorem writePhys_worksSeen (n a : Nat) (bs : List Byte) (s : State) : (writePhys n a bs s).worksSeen = s.worksSeen := by
  obtain ⟨_, _, _, _, h⟩ := writePhys_frame n a bs s; rw [h]

theorem retireLine_frame (k pc off : Nat) (s : State) :
    ∃ x0 x1 x2 x3 x4, retireLine k pc off s = { s with mor := x0, funcs := x1, outbox := x2, ice := x3, memStacks := x4 } := by
  unfold retireLine
  dsimp only
  repeat' split
  · exact ⟨s.mor, s.funcs, s.outbox, s.ice, _, rfl⟩
  · obtain ⟨x0, x1, x2, h⟩ := record_frame 0x0402 (0x20 + k) [] (setStack (setStack { s with ice := _ } k _) k _)
    exact ⟨x0, x1, x2, _, _, h⟩
  · exact ⟨s.mor, s.funcs, s.outbox, _, _, rfl⟩
  · exact ⟨s.mor, s.funcs, s.outbox, s.ice, s.memStacks, rfl⟩

@[simp] theorem retireLine_pending (k pc off : Nat) (s : State) : (retireLine k pc off s).pending = s.pending := by
  obtain ⟨_, _, _, _, _, h⟩ := retireLine_frame k pc off s; rw [h]
@[simp] theorem retireLine_time (k pc off : Nat) (s : State) : (retireLine k pc off s).time = s.time := by
  obtain ⟨_, _, _, _, _, h⟩ := retireLine_frame k pc off s; rw [h]
@[simp] theorem retireLine_fresh (k pc off : Nat) (s : State) : (retireLine k pc off s).fresh = s.fresh := by
  obtain ⟨_, _, _, _, _, h⟩ := retireLine_frame k pc off s; rw [h]
@[simp] theorem retireLine_variant (k pc off : Nat) (s : State) : (retireLine k pc off s).variant = s.variant := by
  obtain ⟨_, _, _, _, _, h⟩ := retireLine_frame k pc off s; rw [h]
@[simp] theorem retireLine_fused (k pc off : Nat) (s : State) : (retireLine k pc off s).fused = s.fused := by
  obtain ⟨_, _, _, _, _, h⟩ := retireLine_frame k pc off s; rw [h]
@[simp] theorem retireLine_pwr (k pc off : Nat) (s : State) : (retireLine k pc off s).pwr = s.pwr := by
  obtain ⟨_, _, _, _, _, h⟩ := retireLine_frame k pc off s; rw [h]
@[simp] theorem retireLine_st (k pc off : Nat) (s : State) : (retireLine k pc off s).st = s.st := by
  obtain ⟨_, _, _, _, _, h⟩ := retireLine_frame k pc off s; rw [h]
@[simp] theorem retireLine_link (k pc off : Nat) (s : State) : (retireLine k pc off s).link = s.link := by
  obtain ⟨_, _, _, _, _, h⟩ := retireLine_frame k pc off s; rw [h]
@[simp] theorem retireLine_dropped (k pc off : Nat) (s : State) : (retireLine k pc off s).dropped = s.dropped := by
  obtain ⟨_, _, _, _, _, h⟩ := retireLine_frame k pc off s; rw [h]
@[simp] theorem retireLine_groups (k pc off : Nat) (s : State) : (retireLine k pc off s).groups = s.groups := by
  obtain ⟨_, _, _, _, _, h⟩ := retireLine_frame k pc off s; rw [h]
@[simp] theorem retireLine_queues (k pc off : Nat) (s : State) : (retireLine k pc off s).queues = s.queues := by
  obtain ⟨_, _, _, _, _, h⟩ := retireLine_frame k pc off s; rw [h]
@[simp] theorem retireLine_arb (k pc off : Nat) (s : State) : (retireLine k pc off s).arb = s.arb := by
  obtain ⟨_, _, _, _, _, h⟩ := retireLine_frame k pc off s; rw [h]
@[simp] theorem retireLine_ops (k pc off : Nat) (s : State) : (retireLine k pc off s).ops = s.ops := by
  obtain ⟨_, _, _, _, _, h⟩ := retireLine_frame k pc off s; rw [h]
@[simp] theorem retireLine_nextTag (k pc off : Nat) (s : State) : (retireLine k pc off s).nextTag = s.nextTag := by
  obtain ⟨_, _, _, _, _, h⟩ := retireLine_frame k pc off s; rw [h]
@[simp] theorem retireLine_pages (k pc off : Nat) (s : State) : (retireLine k pc off s).pages = s.pages := by
  obtain ⟨_, _, _, _, _, h⟩ := retireLine_frame k pc off s; rw [h]
@[simp] theorem retireLine_resets (k pc off : Nat) (s : State) : (retireLine k pc off s).resets = s.resets := by
  obtain ⟨_, _, _, _, _, h⟩ := retireLine_frame k pc off s; rw [h]
@[simp] theorem retireLine_place (k pc off : Nat) (s : State) : (retireLine k pc off s).place = s.place := by
  obtain ⟨_, _, _, _, _, h⟩ := retireLine_frame k pc off s; rw [h]
@[simp] theorem retireLine_dmem (k pc off : Nat) (s : State) : (retireLine k pc off s).dmem = s.dmem := by
  obtain ⟨_, _, _, _, _, h⟩ := retireLine_frame k pc off s; rw [h]
@[simp] theorem retireLine_hmem (k pc off : Nat) (s : State) : (retireLine k pc off s).hmem = s.hmem := by
  obtain ⟨_, _, _, _, _, h⟩ := retireLine_frame k pc off s; rw [h]
@[simp] theorem retireLine_fills (k pc off : Nat) (s : State) : (retireLine k pc off s).fills = s.fills := by
  obtain ⟨_, _, _, _, _, h⟩ := retireLine_frame k pc off s; rw [h]
@[simp] theorem retireLine_windows (k pc off : Nat) (s : State) : (retireLine k pc off s).windows = s.windows := by
  obtain ⟨_, _, _, _, _, h⟩ := retireLine_frame k pc off s; rw [h]
@[simp] theorem retireLine_cxl (k pc off : Nat) (s : State) : (retireLine k pc off s).cxl = s.cxl := by
  obtain ⟨_, _, _, _, _, h⟩ := retireLine_frame k pc off s; rw [h]
@[simp] theorem retireLine_kv (k pc off : Nat) (s : State) : (retireLine k pc off s).kv = s.kv := by
  obtain ⟨_, _, _, _, _, h⟩ := retireLine_frame k pc off s; rw [h]
@[simp] theorem retireLine_ats (k pc off : Nat) (s : State) : (retireLine k pc off s).ats = s.ats := by
  obtain ⟨_, _, _, _, _, h⟩ := retireLine_frame k pc off s; rw [h]
@[simp] theorem retireLine_pris (k pc off : Nat) (s : State) : (retireLine k pc off s).pris = s.pris := by
  obtain ⟨_, _, _, _, _, h⟩ := retireLine_frame k pc off s; rw [h]
@[simp] theorem retireLine_bar2Waits (k pc off : Nat) (s : State) : (retireLine k pc off s).bar2Waits = s.bar2Waits := by
  obtain ⟨_, _, _, _, _, h⟩ := retireLine_frame k pc off s; rw [h]
@[simp] theorem retireLine_copies (k pc off : Nat) (s : State) : (retireLine k pc off s).copies = s.copies := by
  obtain ⟨_, _, _, _, _, h⟩ := retireLine_frame k pc off s; rw [h]
@[simp] theorem retireLine_priTimeout (k pc off : Nat) (s : State) : (retireLine k pc off s).priTimeout = s.priTimeout := by
  obtain ⟨_, _, _, _, _, h⟩ := retireLine_frame k pc off s; rw [h]
@[simp] theorem retireLine_tiles (k pc off : Nat) (s : State) : (retireLine k pc off s).tiles = s.tiles := by
  obtain ⟨_, _, _, _, _, h⟩ := retireLine_frame k pc off s; rw [h]
@[simp] theorem retireLine_images (k pc off : Nat) (s : State) : (retireLine k pc off s).images = s.images := by
  obtain ⟨_, _, _, _, _, h⟩ := retireLine_frame k pc off s; rw [h]
@[simp] theorem retireLine_contexts (k pc off : Nat) (s : State) : (retireLine k pc off s).contexts = s.contexts := by
  obtain ⟨_, _, _, _, _, h⟩ := retireLine_frame k pc off s; rw [h]
@[simp] theorem retireLine_floe (k pc off : Nat) (s : State) : (retireLine k pc off s).floe = s.floe := by
  obtain ⟨_, _, _, _, _, h⟩ := retireLine_frame k pc off s; rw [h]
@[simp] theorem retireLine_trns (k pc off : Nat) (s : State) : (retireLine k pc off s).trns = s.trns := by
  obtain ⟨_, _, _, _, _, h⟩ := retireLine_frame k pc off s; rw [h]
@[simp] theorem retireLine_trnHeld (k pc off : Nat) (s : State) : (retireLine k pc off s).trnHeld = s.trnHeld := by
  obtain ⟨_, _, _, _, _, h⟩ := retireLine_frame k pc off s; rw [h]
@[simp] theorem retireLine_watchers (k pc off : Nat) (s : State) : (retireLine k pc off s).watchers = s.watchers := by
  obtain ⟨_, _, _, _, _, h⟩ := retireLine_frame k pc off s; rw [h]
@[simp] theorem retireLine_noc (k pc off : Nat) (s : State) : (retireLine k pc off s).noc = s.noc := by
  obtain ⟨_, _, _, _, _, h⟩ := retireLine_frame k pc off s; rw [h]
@[simp] theorem retireLine_casc (k pc off : Nat) (s : State) : (retireLine k pc off s).casc = s.casc := by
  obtain ⟨_, _, _, _, _, h⟩ := retireLine_frame k pc off s; rw [h]
@[simp] theorem retireLine_mid (k pc off : Nat) (s : State) : (retireLine k pc off s).mid = s.mid := by
  obtain ⟨_, _, _, _, _, h⟩ := retireLine_frame k pc off s; rw [h]
@[simp] theorem retireLine_cfg (k pc off : Nat) (s : State) : (retireLine k pc off s).cfg = s.cfg := by
  obtain ⟨_, _, _, _, _, h⟩ := retireLine_frame k pc off s; rw [h]
@[simp] theorem retireLine_nextOrder (k pc off : Nat) (s : State) : (retireLine k pc off s).nextOrder = s.nextOrder := by
  obtain ⟨_, _, _, _, _, h⟩ := retireLine_frame k pc off s; rw [h]
@[simp] theorem retireLine_counters (k pc off : Nat) (s : State) : (retireLine k pc off s).counters = s.counters := by
  obtain ⟨_, _, _, _, _, h⟩ := retireLine_frame k pc off s; rw [h]
@[simp] theorem retireLine_works (k pc off : Nat) (s : State) : (retireLine k pc off s).works = s.works := by
  obtain ⟨_, _, _, _, _, h⟩ := retireLine_frame k pc off s; rw [h]
@[simp] theorem retireLine_worksSeen (k pc off : Nat) (s : State) : (retireLine k pc off s).worksSeen = s.worksSeen := by
  obtain ⟨_, _, _, _, _, h⟩ := retireLine_frame k pc off s; rw [h]

theorem uncorrectableAt_frame (k pc off a by_ : Nat) (s : State) :
    ∃ x0 x1 x2 x3 x4, uncorrectableAt k pc off a by_ s = { s with mor := x0, funcs := x1, outbox := x2, ice := x3, memStacks := x4 } := by
  unfold uncorrectableAt
  extract_lets s1 st
  obtain ⟨x0, x1, x2, h⟩ := record_frame 0x0401 (0x20 + k) _ s
  have h1 : s1 = { s with mor := x0, funcs := x1, outbox := x2 } := h
  clear_value s1
  subst h1
  exact retireLine_frame _ _ _ (setStack { s with mor := x0, funcs := x1, outbox := x2 } _ _)

@[simp] theorem uncorrectableAt_pending (k pc off a by_ : Nat) (s : State) : (uncorrectableAt k pc off a by_ s).pending = s.pending := by
  obtain ⟨_, _, _, _, _, h⟩ := uncorrectableAt_frame k pc off a by_ s; rw [h]
@[simp] theorem uncorrectableAt_time (k pc off a by_ : Nat) (s : State) : (uncorrectableAt k pc off a by_ s).time = s.time := by
  obtain ⟨_, _, _, _, _, h⟩ := uncorrectableAt_frame k pc off a by_ s; rw [h]
@[simp] theorem uncorrectableAt_fresh (k pc off a by_ : Nat) (s : State) : (uncorrectableAt k pc off a by_ s).fresh = s.fresh := by
  obtain ⟨_, _, _, _, _, h⟩ := uncorrectableAt_frame k pc off a by_ s; rw [h]
@[simp] theorem uncorrectableAt_variant (k pc off a by_ : Nat) (s : State) : (uncorrectableAt k pc off a by_ s).variant = s.variant := by
  obtain ⟨_, _, _, _, _, h⟩ := uncorrectableAt_frame k pc off a by_ s; rw [h]
@[simp] theorem uncorrectableAt_fused (k pc off a by_ : Nat) (s : State) : (uncorrectableAt k pc off a by_ s).fused = s.fused := by
  obtain ⟨_, _, _, _, _, h⟩ := uncorrectableAt_frame k pc off a by_ s; rw [h]
@[simp] theorem uncorrectableAt_pwr (k pc off a by_ : Nat) (s : State) : (uncorrectableAt k pc off a by_ s).pwr = s.pwr := by
  obtain ⟨_, _, _, _, _, h⟩ := uncorrectableAt_frame k pc off a by_ s; rw [h]
@[simp] theorem uncorrectableAt_st (k pc off a by_ : Nat) (s : State) : (uncorrectableAt k pc off a by_ s).st = s.st := by
  obtain ⟨_, _, _, _, _, h⟩ := uncorrectableAt_frame k pc off a by_ s; rw [h]
@[simp] theorem uncorrectableAt_link (k pc off a by_ : Nat) (s : State) : (uncorrectableAt k pc off a by_ s).link = s.link := by
  obtain ⟨_, _, _, _, _, h⟩ := uncorrectableAt_frame k pc off a by_ s; rw [h]
@[simp] theorem uncorrectableAt_dropped (k pc off a by_ : Nat) (s : State) : (uncorrectableAt k pc off a by_ s).dropped = s.dropped := by
  obtain ⟨_, _, _, _, _, h⟩ := uncorrectableAt_frame k pc off a by_ s; rw [h]
@[simp] theorem uncorrectableAt_groups (k pc off a by_ : Nat) (s : State) : (uncorrectableAt k pc off a by_ s).groups = s.groups := by
  obtain ⟨_, _, _, _, _, h⟩ := uncorrectableAt_frame k pc off a by_ s; rw [h]
@[simp] theorem uncorrectableAt_queues (k pc off a by_ : Nat) (s : State) : (uncorrectableAt k pc off a by_ s).queues = s.queues := by
  obtain ⟨_, _, _, _, _, h⟩ := uncorrectableAt_frame k pc off a by_ s; rw [h]
@[simp] theorem uncorrectableAt_arb (k pc off a by_ : Nat) (s : State) : (uncorrectableAt k pc off a by_ s).arb = s.arb := by
  obtain ⟨_, _, _, _, _, h⟩ := uncorrectableAt_frame k pc off a by_ s; rw [h]
@[simp] theorem uncorrectableAt_ops (k pc off a by_ : Nat) (s : State) : (uncorrectableAt k pc off a by_ s).ops = s.ops := by
  obtain ⟨_, _, _, _, _, h⟩ := uncorrectableAt_frame k pc off a by_ s; rw [h]
@[simp] theorem uncorrectableAt_nextTag (k pc off a by_ : Nat) (s : State) : (uncorrectableAt k pc off a by_ s).nextTag = s.nextTag := by
  obtain ⟨_, _, _, _, _, h⟩ := uncorrectableAt_frame k pc off a by_ s; rw [h]
@[simp] theorem uncorrectableAt_pages (k pc off a by_ : Nat) (s : State) : (uncorrectableAt k pc off a by_ s).pages = s.pages := by
  obtain ⟨_, _, _, _, _, h⟩ := uncorrectableAt_frame k pc off a by_ s; rw [h]
@[simp] theorem uncorrectableAt_resets (k pc off a by_ : Nat) (s : State) : (uncorrectableAt k pc off a by_ s).resets = s.resets := by
  obtain ⟨_, _, _, _, _, h⟩ := uncorrectableAt_frame k pc off a by_ s; rw [h]
@[simp] theorem uncorrectableAt_place (k pc off a by_ : Nat) (s : State) : (uncorrectableAt k pc off a by_ s).place = s.place := by
  obtain ⟨_, _, _, _, _, h⟩ := uncorrectableAt_frame k pc off a by_ s; rw [h]
@[simp] theorem uncorrectableAt_dmem (k pc off a by_ : Nat) (s : State) : (uncorrectableAt k pc off a by_ s).dmem = s.dmem := by
  obtain ⟨_, _, _, _, _, h⟩ := uncorrectableAt_frame k pc off a by_ s; rw [h]
@[simp] theorem uncorrectableAt_hmem (k pc off a by_ : Nat) (s : State) : (uncorrectableAt k pc off a by_ s).hmem = s.hmem := by
  obtain ⟨_, _, _, _, _, h⟩ := uncorrectableAt_frame k pc off a by_ s; rw [h]
@[simp] theorem uncorrectableAt_fills (k pc off a by_ : Nat) (s : State) : (uncorrectableAt k pc off a by_ s).fills = s.fills := by
  obtain ⟨_, _, _, _, _, h⟩ := uncorrectableAt_frame k pc off a by_ s; rw [h]
@[simp] theorem uncorrectableAt_windows (k pc off a by_ : Nat) (s : State) : (uncorrectableAt k pc off a by_ s).windows = s.windows := by
  obtain ⟨_, _, _, _, _, h⟩ := uncorrectableAt_frame k pc off a by_ s; rw [h]
@[simp] theorem uncorrectableAt_cxl (k pc off a by_ : Nat) (s : State) : (uncorrectableAt k pc off a by_ s).cxl = s.cxl := by
  obtain ⟨_, _, _, _, _, h⟩ := uncorrectableAt_frame k pc off a by_ s; rw [h]
@[simp] theorem uncorrectableAt_kv (k pc off a by_ : Nat) (s : State) : (uncorrectableAt k pc off a by_ s).kv = s.kv := by
  obtain ⟨_, _, _, _, _, h⟩ := uncorrectableAt_frame k pc off a by_ s; rw [h]
@[simp] theorem uncorrectableAt_ats (k pc off a by_ : Nat) (s : State) : (uncorrectableAt k pc off a by_ s).ats = s.ats := by
  obtain ⟨_, _, _, _, _, h⟩ := uncorrectableAt_frame k pc off a by_ s; rw [h]
@[simp] theorem uncorrectableAt_pris (k pc off a by_ : Nat) (s : State) : (uncorrectableAt k pc off a by_ s).pris = s.pris := by
  obtain ⟨_, _, _, _, _, h⟩ := uncorrectableAt_frame k pc off a by_ s; rw [h]
@[simp] theorem uncorrectableAt_bar2Waits (k pc off a by_ : Nat) (s : State) : (uncorrectableAt k pc off a by_ s).bar2Waits = s.bar2Waits := by
  obtain ⟨_, _, _, _, _, h⟩ := uncorrectableAt_frame k pc off a by_ s; rw [h]
@[simp] theorem uncorrectableAt_copies (k pc off a by_ : Nat) (s : State) : (uncorrectableAt k pc off a by_ s).copies = s.copies := by
  obtain ⟨_, _, _, _, _, h⟩ := uncorrectableAt_frame k pc off a by_ s; rw [h]
@[simp] theorem uncorrectableAt_priTimeout (k pc off a by_ : Nat) (s : State) : (uncorrectableAt k pc off a by_ s).priTimeout = s.priTimeout := by
  obtain ⟨_, _, _, _, _, h⟩ := uncorrectableAt_frame k pc off a by_ s; rw [h]
@[simp] theorem uncorrectableAt_tiles (k pc off a by_ : Nat) (s : State) : (uncorrectableAt k pc off a by_ s).tiles = s.tiles := by
  obtain ⟨_, _, _, _, _, h⟩ := uncorrectableAt_frame k pc off a by_ s; rw [h]
@[simp] theorem uncorrectableAt_images (k pc off a by_ : Nat) (s : State) : (uncorrectableAt k pc off a by_ s).images = s.images := by
  obtain ⟨_, _, _, _, _, h⟩ := uncorrectableAt_frame k pc off a by_ s; rw [h]
@[simp] theorem uncorrectableAt_contexts (k pc off a by_ : Nat) (s : State) : (uncorrectableAt k pc off a by_ s).contexts = s.contexts := by
  obtain ⟨_, _, _, _, _, h⟩ := uncorrectableAt_frame k pc off a by_ s; rw [h]
@[simp] theorem uncorrectableAt_floe (k pc off a by_ : Nat) (s : State) : (uncorrectableAt k pc off a by_ s).floe = s.floe := by
  obtain ⟨_, _, _, _, _, h⟩ := uncorrectableAt_frame k pc off a by_ s; rw [h]
@[simp] theorem uncorrectableAt_trns (k pc off a by_ : Nat) (s : State) : (uncorrectableAt k pc off a by_ s).trns = s.trns := by
  obtain ⟨_, _, _, _, _, h⟩ := uncorrectableAt_frame k pc off a by_ s; rw [h]
@[simp] theorem uncorrectableAt_trnHeld (k pc off a by_ : Nat) (s : State) : (uncorrectableAt k pc off a by_ s).trnHeld = s.trnHeld := by
  obtain ⟨_, _, _, _, _, h⟩ := uncorrectableAt_frame k pc off a by_ s; rw [h]
@[simp] theorem uncorrectableAt_watchers (k pc off a by_ : Nat) (s : State) : (uncorrectableAt k pc off a by_ s).watchers = s.watchers := by
  obtain ⟨_, _, _, _, _, h⟩ := uncorrectableAt_frame k pc off a by_ s; rw [h]
@[simp] theorem uncorrectableAt_noc (k pc off a by_ : Nat) (s : State) : (uncorrectableAt k pc off a by_ s).noc = s.noc := by
  obtain ⟨_, _, _, _, _, h⟩ := uncorrectableAt_frame k pc off a by_ s; rw [h]
@[simp] theorem uncorrectableAt_casc (k pc off a by_ : Nat) (s : State) : (uncorrectableAt k pc off a by_ s).casc = s.casc := by
  obtain ⟨_, _, _, _, _, h⟩ := uncorrectableAt_frame k pc off a by_ s; rw [h]
@[simp] theorem uncorrectableAt_mid (k pc off a by_ : Nat) (s : State) : (uncorrectableAt k pc off a by_ s).mid = s.mid := by
  obtain ⟨_, _, _, _, _, h⟩ := uncorrectableAt_frame k pc off a by_ s; rw [h]
@[simp] theorem uncorrectableAt_cfg (k pc off a by_ : Nat) (s : State) : (uncorrectableAt k pc off a by_ s).cfg = s.cfg := by
  obtain ⟨_, _, _, _, _, h⟩ := uncorrectableAt_frame k pc off a by_ s; rw [h]
@[simp] theorem uncorrectableAt_nextOrder (k pc off a by_ : Nat) (s : State) : (uncorrectableAt k pc off a by_ s).nextOrder = s.nextOrder := by
  obtain ⟨_, _, _, _, _, h⟩ := uncorrectableAt_frame k pc off a by_ s; rw [h]
@[simp] theorem uncorrectableAt_counters (k pc off a by_ : Nat) (s : State) : (uncorrectableAt k pc off a by_ s).counters = s.counters := by
  obtain ⟨_, _, _, _, _, h⟩ := uncorrectableAt_frame k pc off a by_ s; rw [h]
@[simp] theorem uncorrectableAt_works (k pc off a by_ : Nat) (s : State) : (uncorrectableAt k pc off a by_ s).works = s.works := by
  obtain ⟨_, _, _, _, _, h⟩ := uncorrectableAt_frame k pc off a by_ s; rw [h]
@[simp] theorem uncorrectableAt_worksSeen (k pc off a by_ : Nat) (s : State) : (uncorrectableAt k pc off a by_ s).worksSeen = s.worksSeen := by
  obtain ⟨_, _, _, _, _, h⟩ := uncorrectableAt_frame k pc off a by_ s; rw [h]

theorem uncorrectable_frame (a by_ : Nat) (s : State) :
    ∃ x0 x1 x2 x3 x4, uncorrectable a by_ s = { s with mor := x0, funcs := x1, outbox := x2, ice := x3, memStacks := x4 } := by
  unfold uncorrectable
  split
  · exact uncorrectableAt_frame _ _ _ _ _ _
  · exact ⟨s.mor, s.funcs, s.outbox, s.ice, s.memStacks, rfl⟩

@[simp] theorem uncorrectable_pending (a by_ : Nat) (s : State) : (uncorrectable a by_ s).pending = s.pending := by
  obtain ⟨_, _, _, _, _, h⟩ := uncorrectable_frame a by_ s; rw [h]
@[simp] theorem uncorrectable_time (a by_ : Nat) (s : State) : (uncorrectable a by_ s).time = s.time := by
  obtain ⟨_, _, _, _, _, h⟩ := uncorrectable_frame a by_ s; rw [h]
@[simp] theorem uncorrectable_fresh (a by_ : Nat) (s : State) : (uncorrectable a by_ s).fresh = s.fresh := by
  obtain ⟨_, _, _, _, _, h⟩ := uncorrectable_frame a by_ s; rw [h]
@[simp] theorem uncorrectable_variant (a by_ : Nat) (s : State) : (uncorrectable a by_ s).variant = s.variant := by
  obtain ⟨_, _, _, _, _, h⟩ := uncorrectable_frame a by_ s; rw [h]
@[simp] theorem uncorrectable_fused (a by_ : Nat) (s : State) : (uncorrectable a by_ s).fused = s.fused := by
  obtain ⟨_, _, _, _, _, h⟩ := uncorrectable_frame a by_ s; rw [h]
@[simp] theorem uncorrectable_pwr (a by_ : Nat) (s : State) : (uncorrectable a by_ s).pwr = s.pwr := by
  obtain ⟨_, _, _, _, _, h⟩ := uncorrectable_frame a by_ s; rw [h]
@[simp] theorem uncorrectable_st (a by_ : Nat) (s : State) : (uncorrectable a by_ s).st = s.st := by
  obtain ⟨_, _, _, _, _, h⟩ := uncorrectable_frame a by_ s; rw [h]
@[simp] theorem uncorrectable_link (a by_ : Nat) (s : State) : (uncorrectable a by_ s).link = s.link := by
  obtain ⟨_, _, _, _, _, h⟩ := uncorrectable_frame a by_ s; rw [h]
@[simp] theorem uncorrectable_dropped (a by_ : Nat) (s : State) : (uncorrectable a by_ s).dropped = s.dropped := by
  obtain ⟨_, _, _, _, _, h⟩ := uncorrectable_frame a by_ s; rw [h]
@[simp] theorem uncorrectable_groups (a by_ : Nat) (s : State) : (uncorrectable a by_ s).groups = s.groups := by
  obtain ⟨_, _, _, _, _, h⟩ := uncorrectable_frame a by_ s; rw [h]
@[simp] theorem uncorrectable_queues (a by_ : Nat) (s : State) : (uncorrectable a by_ s).queues = s.queues := by
  obtain ⟨_, _, _, _, _, h⟩ := uncorrectable_frame a by_ s; rw [h]
@[simp] theorem uncorrectable_arb (a by_ : Nat) (s : State) : (uncorrectable a by_ s).arb = s.arb := by
  obtain ⟨_, _, _, _, _, h⟩ := uncorrectable_frame a by_ s; rw [h]
@[simp] theorem uncorrectable_ops (a by_ : Nat) (s : State) : (uncorrectable a by_ s).ops = s.ops := by
  obtain ⟨_, _, _, _, _, h⟩ := uncorrectable_frame a by_ s; rw [h]
@[simp] theorem uncorrectable_nextTag (a by_ : Nat) (s : State) : (uncorrectable a by_ s).nextTag = s.nextTag := by
  obtain ⟨_, _, _, _, _, h⟩ := uncorrectable_frame a by_ s; rw [h]
@[simp] theorem uncorrectable_pages (a by_ : Nat) (s : State) : (uncorrectable a by_ s).pages = s.pages := by
  obtain ⟨_, _, _, _, _, h⟩ := uncorrectable_frame a by_ s; rw [h]
@[simp] theorem uncorrectable_resets (a by_ : Nat) (s : State) : (uncorrectable a by_ s).resets = s.resets := by
  obtain ⟨_, _, _, _, _, h⟩ := uncorrectable_frame a by_ s; rw [h]
@[simp] theorem uncorrectable_place (a by_ : Nat) (s : State) : (uncorrectable a by_ s).place = s.place := by
  obtain ⟨_, _, _, _, _, h⟩ := uncorrectable_frame a by_ s; rw [h]
@[simp] theorem uncorrectable_dmem (a by_ : Nat) (s : State) : (uncorrectable a by_ s).dmem = s.dmem := by
  obtain ⟨_, _, _, _, _, h⟩ := uncorrectable_frame a by_ s; rw [h]
@[simp] theorem uncorrectable_hmem (a by_ : Nat) (s : State) : (uncorrectable a by_ s).hmem = s.hmem := by
  obtain ⟨_, _, _, _, _, h⟩ := uncorrectable_frame a by_ s; rw [h]
@[simp] theorem uncorrectable_fills (a by_ : Nat) (s : State) : (uncorrectable a by_ s).fills = s.fills := by
  obtain ⟨_, _, _, _, _, h⟩ := uncorrectable_frame a by_ s; rw [h]
@[simp] theorem uncorrectable_windows (a by_ : Nat) (s : State) : (uncorrectable a by_ s).windows = s.windows := by
  obtain ⟨_, _, _, _, _, h⟩ := uncorrectable_frame a by_ s; rw [h]
@[simp] theorem uncorrectable_cxl (a by_ : Nat) (s : State) : (uncorrectable a by_ s).cxl = s.cxl := by
  obtain ⟨_, _, _, _, _, h⟩ := uncorrectable_frame a by_ s; rw [h]
@[simp] theorem uncorrectable_kv (a by_ : Nat) (s : State) : (uncorrectable a by_ s).kv = s.kv := by
  obtain ⟨_, _, _, _, _, h⟩ := uncorrectable_frame a by_ s; rw [h]
@[simp] theorem uncorrectable_ats (a by_ : Nat) (s : State) : (uncorrectable a by_ s).ats = s.ats := by
  obtain ⟨_, _, _, _, _, h⟩ := uncorrectable_frame a by_ s; rw [h]
@[simp] theorem uncorrectable_pris (a by_ : Nat) (s : State) : (uncorrectable a by_ s).pris = s.pris := by
  obtain ⟨_, _, _, _, _, h⟩ := uncorrectable_frame a by_ s; rw [h]
@[simp] theorem uncorrectable_bar2Waits (a by_ : Nat) (s : State) : (uncorrectable a by_ s).bar2Waits = s.bar2Waits := by
  obtain ⟨_, _, _, _, _, h⟩ := uncorrectable_frame a by_ s; rw [h]
@[simp] theorem uncorrectable_copies (a by_ : Nat) (s : State) : (uncorrectable a by_ s).copies = s.copies := by
  obtain ⟨_, _, _, _, _, h⟩ := uncorrectable_frame a by_ s; rw [h]
@[simp] theorem uncorrectable_priTimeout (a by_ : Nat) (s : State) : (uncorrectable a by_ s).priTimeout = s.priTimeout := by
  obtain ⟨_, _, _, _, _, h⟩ := uncorrectable_frame a by_ s; rw [h]
@[simp] theorem uncorrectable_tiles (a by_ : Nat) (s : State) : (uncorrectable a by_ s).tiles = s.tiles := by
  obtain ⟨_, _, _, _, _, h⟩ := uncorrectable_frame a by_ s; rw [h]
@[simp] theorem uncorrectable_images (a by_ : Nat) (s : State) : (uncorrectable a by_ s).images = s.images := by
  obtain ⟨_, _, _, _, _, h⟩ := uncorrectable_frame a by_ s; rw [h]
@[simp] theorem uncorrectable_contexts (a by_ : Nat) (s : State) : (uncorrectable a by_ s).contexts = s.contexts := by
  obtain ⟨_, _, _, _, _, h⟩ := uncorrectable_frame a by_ s; rw [h]
@[simp] theorem uncorrectable_floe (a by_ : Nat) (s : State) : (uncorrectable a by_ s).floe = s.floe := by
  obtain ⟨_, _, _, _, _, h⟩ := uncorrectable_frame a by_ s; rw [h]
@[simp] theorem uncorrectable_trns (a by_ : Nat) (s : State) : (uncorrectable a by_ s).trns = s.trns := by
  obtain ⟨_, _, _, _, _, h⟩ := uncorrectable_frame a by_ s; rw [h]
@[simp] theorem uncorrectable_trnHeld (a by_ : Nat) (s : State) : (uncorrectable a by_ s).trnHeld = s.trnHeld := by
  obtain ⟨_, _, _, _, _, h⟩ := uncorrectable_frame a by_ s; rw [h]
@[simp] theorem uncorrectable_watchers (a by_ : Nat) (s : State) : (uncorrectable a by_ s).watchers = s.watchers := by
  obtain ⟨_, _, _, _, _, h⟩ := uncorrectable_frame a by_ s; rw [h]
@[simp] theorem uncorrectable_noc (a by_ : Nat) (s : State) : (uncorrectable a by_ s).noc = s.noc := by
  obtain ⟨_, _, _, _, _, h⟩ := uncorrectable_frame a by_ s; rw [h]
@[simp] theorem uncorrectable_casc (a by_ : Nat) (s : State) : (uncorrectable a by_ s).casc = s.casc := by
  obtain ⟨_, _, _, _, _, h⟩ := uncorrectable_frame a by_ s; rw [h]
@[simp] theorem uncorrectable_mid (a by_ : Nat) (s : State) : (uncorrectable a by_ s).mid = s.mid := by
  obtain ⟨_, _, _, _, _, h⟩ := uncorrectable_frame a by_ s; rw [h]
@[simp] theorem uncorrectable_cfg (a by_ : Nat) (s : State) : (uncorrectable a by_ s).cfg = s.cfg := by
  obtain ⟨_, _, _, _, _, h⟩ := uncorrectable_frame a by_ s; rw [h]
@[simp] theorem uncorrectable_nextOrder (a by_ : Nat) (s : State) : (uncorrectable a by_ s).nextOrder = s.nextOrder := by
  obtain ⟨_, _, _, _, _, h⟩ := uncorrectable_frame a by_ s; rw [h]
@[simp] theorem uncorrectable_counters (a by_ : Nat) (s : State) : (uncorrectable a by_ s).counters = s.counters := by
  obtain ⟨_, _, _, _, _, h⟩ := uncorrectable_frame a by_ s; rw [h]
@[simp] theorem uncorrectable_works (a by_ : Nat) (s : State) : (uncorrectable a by_ s).works = s.works := by
  obtain ⟨_, _, _, _, _, h⟩ := uncorrectable_frame a by_ s; rw [h]
@[simp] theorem uncorrectable_worksSeen (a by_ : Nat) (s : State) : (uncorrectable a by_ s).worksSeen = s.worksSeen := by
  obtain ⟨_, _, _, _, _, h⟩ := uncorrectable_frame a by_ s; rw [h]

end Sys2Proof.Machine
end

