-- ==== Sys2Proof/Laws/Memory.lean ====
section
/-! SUPPORT. Tables and memories: a read after a write, and every operation keeps the canonical form. -/

namespace Sys2Proof.Machine

variable {α : Type}

/-- Every key of a table is above a number. -/
def tabove (n : Nat) (t : Table α) : Prop := ∀ e ∈ t, n < e.1

theorem tsorted_cons {e : Nat × α} {t : Table α} : tsorted (e :: t) = true ↔ tabove e.1 t ∧ tsorted t = true := by
  induction t generalizing e with
  | nil => simp [tsorted, tabove]
  | cons f t ih =>
    simp only [tsorted, Bool.and_eq_true, decide_eq_true_eq]
    constructor
    · rintro ⟨h, hs⟩
      refine ⟨?_, hs⟩
      intro g hg
      rcases List.mem_cons.1 hg with rfl | hg
      · exact h
      · exact Nat.lt_trans h ((ih.1 hs).1 g hg)
    · rintro ⟨h, hs⟩
      exact ⟨h f List.mem_cons_self, hs⟩

theorem tsorted_tail {e : Nat × α} {t : Table α} (h : tsorted (e :: t) = true) : tsorted t = true := (tsorted_cons.1 h).2

theorem tfind_none_of_tabove {k n : Nat} {t : Table α} (h : tabove n t) (hk : k ≤ n) : tfind k t = none := by
  induction t with
  | nil => rfl
  | cons e t ih =>
    obtain ⟨k', v⟩ := e
    have h1 : n < k' := h (k', v) List.mem_cons_self
    have h2 : k ≠ k' := by omega
    simp [tfind, h2, ih (fun g hg => h g (List.mem_cons_of_mem _ hg))]

theorem mem_tinsert {k : Nat} {v : α} {t : Table α} {e : Nat × α} (h : e ∈ tinsert k v t) : e = (k, v) ∨ e ∈ t := by
  induction t with
  | nil => simpa [tinsert] using h
  | cons f t ih =>
    obtain ⟨k', v'⟩ := f
    simp only [tinsert] at h
    split at h
    · rcases List.mem_cons.1 h with h | h
      · exact .inl h
      · exact .inr h
    · split at h
      · rcases List.mem_cons.1 h with h | h
        · exact .inl h
        · exact .inr (List.mem_cons_of_mem _ h)
      · rcases List.mem_cons.1 h with h | h
        · exact .inr (h ▸ List.mem_cons_self)
        · rcases ih h with h | h
          · exact .inl h
          · exact .inr (List.mem_cons_of_mem _ h)

theorem mem_terase {k : Nat} {t : Table α} {e : Nat × α} (h : e ∈ terase k t) : e ∈ t := by
  induction t with
  | nil => simp [terase] at h
  | cons f t ih =>
    obtain ⟨k', v'⟩ := f
    simp only [terase] at h
    split at h
    · exact List.mem_cons_of_mem _ (ih h)
    · rcases List.mem_cons.1 h with h | h
      · exact h ▸ List.mem_cons_self
      · exact List.mem_cons_of_mem _ (ih h)

/-- Inserting keeps the keys rising. -/
theorem tsorted_tinsert {k : Nat} {v : α} {t : Table α} (h : tsorted t = true) : tsorted (tinsert k v t) = true := by
  induction t with
  | nil => rfl
  | cons f t ih =>
    obtain ⟨k', v'⟩ := f
    obtain ⟨ha, ht⟩ := tsorted_cons.1 h
    simp only [tinsert]
    split
    · rename_i hk
      refine tsorted_cons.2 ⟨?_, h⟩
      intro g hg
      rcases List.mem_cons.1 hg with rfl | hg
      · exact hk
      · exact Nat.lt_trans hk (ha g hg)
    · split
      · rename_i hk
        exact tsorted_cons.2 ⟨fun g hg => by have := ha g hg; simp only at this ⊢; omega, ht⟩
      · refine tsorted_cons.2 ⟨?_, ih ht⟩
        intro g hg
        rcases mem_tinsert hg with rfl | hg
        · simp only; omega
        · exact ha g hg

/-- Dropping an entry keeps the keys rising. -/
theorem tsorted_terase {k : Nat} {t : Table α} (h : tsorted t = true) : tsorted (terase k t) = true := by
  induction t with
  | nil => rfl
  | cons f t ih =>
    obtain ⟨k', v'⟩ := f
    obtain ⟨ha, ht⟩ := tsorted_cons.1 h
    simp only [terase]
    split
    · exact ih ht
    · exact tsorted_cons.2 ⟨fun g hg => ha g (mem_terase hg), ih ht⟩

/-- Keeping some entries keeps the keys rising. -/
theorem tsorted_filter {p : Nat × α → Bool} {t : Table α} (h : tsorted t = true) : tsorted (t.filter p) = true := by
  induction t with
  | nil => rfl
  | cons f t ih =>
    obtain ⟨ha, ht⟩ := tsorted_cons.1 h
    simp only [List.filter]
    split
    · exact tsorted_cons.2 ⟨fun g hg => ha g ((List.mem_filter.1 hg).1), ih ht⟩
    · exact ih ht

@[simp] theorem tfind_tinsert_same {k : Nat} {v : α} {t : Table α} : tfind k (tinsert k v t) = some v := by
  induction t with
  | nil => simp [tinsert, tfind]
  | cons f t ih =>
    obtain ⟨k', v'⟩ := f
    simp only [tinsert]
    split
    · simp [tfind]
    · split
      · simp [tfind]
      · simp [tfind, *]

theorem tfind_tinsert_ne {k j : Nat} {v : α} {t : Table α} (h : j ≠ k) : tfind j (tinsert k v t) = tfind j t := by
  induction t with
  | nil => simp [tinsert, tfind, h]
  | cons f t ih =>
    obtain ⟨k', v'⟩ := f
    simp only [tinsert]
    split
    · simp [tfind, h]
    · split
      · rename_i hk; subst hk; simp [tfind, h]
      · simp only [tfind, ih]

@[simp] theorem tfind_terase_same {k : Nat} {t : Table α} : tfind k (terase k t) = none := by
  induction t with
  | nil => rfl
  | cons f t ih =>
    obtain ⟨k', v'⟩ := f
    simp only [terase]
    split
    · exact ih
    · rename_i hk; simp [tfind, hk, ih]

theorem tfind_terase_ne {k j : Nat} {t : Table α} (h : j ≠ k) : tfind j (terase k t) = tfind j t := by
  induction t with
  | nil => rfl
  | cons f t ih =>
    obtain ⟨k', v'⟩ := f
    simp only [terase]
    split
    · rename_i hk; subst hk; simp [tfind, h, ih]
    · simp only [tfind, ih]

/-- Reading the key just written gives the value written. -/
@[simp] theorem tget_tset_same [DecidableEq α] {d : Nat → α} {t : Table α} {k : Nat} {v : α} :
    tget d (tset d t k v) k = v := by
  unfold tset
  split
  · rename_i hv; simp [tget, hv]
  · simp [tget]

/-- Writing one key leaves what every other key reads. -/
theorem tget_tset_ne [DecidableEq α] {d : Nat → α} {t : Table α} {k j : Nat} {v : α} (h : j ≠ k) :
    tget d (tset d t k v) j = tget d t j := by
  unfold tset
  split <;> simp [tget, tfind_terase_ne h, tfind_tinsert_ne h]

theorem tcanon_iff [DecidableEq α] {d : Nat → α} {t : Table α} :
    tcanon d t = true ↔ tsorted t = true ∧ ∀ e ∈ t, e.2 ≠ d e.1 := by
  simp [tcanon, List.all_eq_true]

/-- Writing keeps the canonical form. -/
theorem tcanon_tset [DecidableEq α] {d : Nat → α} {t : Table α} {k : Nat} {v : α} (h : tcanon d t = true) :
    tcanon d (tset d t k v) = true := by
  obtain ⟨hs, hd⟩ := tcanon_iff.1 h
  unfold tset
  split
  · exact tcanon_iff.2 ⟨tsorted_terase hs, fun e he => hd e (mem_terase he)⟩
  · rename_i hv
    refine tcanon_iff.2 ⟨tsorted_tinsert hs, fun e he => ?_⟩
    rcases mem_tinsert he with rfl | he
    · exact hv
    · exact hd e he

/-- Keeping some entries keeps the canonical form. -/
theorem tcanon_filter [DecidableEq α] {d : Nat → α} {p : Nat × α → Bool} {t : Table α} (h : tcanon d t = true) :
    tcanon d (t.filter p) = true := by
  obtain ⟨hs, hd⟩ := tcanon_iff.1 h
  exact tcanon_iff.2 ⟨tsorted_filter hs, fun e he => hd e ((List.mem_filter.1 he).1)⟩

/-- Changing a table entry by entry keeps its keys rising. -/
theorem tsorted_foldl {β : Type} (f : Table α → β → Table α) (hf : ∀ m x, tsorted m = true → tsorted (f m x) = true)
    (l : List β) {m : Table α} (h : tsorted m = true) : tsorted (l.foldl f m) = true := by
  induction l generalizing m with
  | nil => exact h
  | cons x l ih => exact ih (hf m x h)

/-! ### Memories -/

@[simp] theorem Memory.wf_nil : Memory.wf [] = true := rfl

theorem Memory.wf_write {m : Memory} (a : Nat) (b : Byte) (h : m.wf = true) : (m.write a b).wf = true := tcanon_tset h

theorem Memory.wf_writeN (bs : List Byte) {m : Memory} (a : Nat) (h : m.wf = true) : (m.writeN a bs).wf = true := by
  induction bs generalizing m a with
  | nil => exact h
  | cons b bs ih => exact ih (a + 1) (Memory.wf_write a b h)

theorem Memory.wf_filter {m : Memory} (p : Host.Cell → Bool) (h : m.wf = true) : Memory.wf (m.filter p) = true :=
  tcanon_filter h

/-- Writing a list of cells one after the other keeps the canonical form. -/
theorem Memory.wf_foldl {β : Type} (f : Memory → β → Memory) (hf : ∀ m x, m.wf = true → (f m x).wf = true) (l : List β)
    {m : Memory} (h : m.wf = true) : (l.foldl f m).wf = true := by
  induction l generalizing m with
  | nil => exact h
  | cons x l ih => exact ih (hf m x h)

@[simp] theorem Memory.read_write_same {m : Memory} {a : Nat} {b : Byte} : (m.write a b).read a = b := tget_tset_same

theorem Memory.read_write_ne {m : Memory} {a c : Nat} {b : Byte} (h : c ≠ a) : (m.write a b).read c = m.read c :=
  tget_tset_ne h

/-- A run of writes leaves every byte outside the run. -/
theorem Memory.read_writeN_out (bs : List Byte) {m : Memory} {a c : Nat} (h : c < a ∨ a + bs.length ≤ c) :
    (m.writeN a bs).read c = m.read c := by
  induction bs generalizing m a with
  | nil => rfl
  | cons b bs ih =>
    simp only [List.length_cons] at h
    rw [Memory.writeN, ih (by omega), Memory.read_write_ne (by omega)]

end Sys2Proof.Machine
end

