-- ==== Sys2Proof/Laws/Keeps.lean ====
section
/-! SUPPORT. Keeps as a preorder, and how it passes through updates, folds and matches. -/

namespace Sys2Proof.Machine

theorem Keeps.refl (s : State) : Keeps s s :=
  ⟨rfl, rfl, rfl, List.prefix_refl _, Nat.le_refl _, id, id⟩

theorem Keeps.trans {s t u : State} (h : Keeps s t) (k : Keeps t u) : Keeps s u := by
  obtain ⟨h1, h2, h3, h4, h5, h6, h7⟩ := h
  obtain ⟨k1, k2, k3, k4, k5, k6, k7⟩ := k
  exact ⟨k1.trans h1, k2.trans h2, k3.trans h3, h4.trans k4, Nat.le_trans h5 k5, fun h => k6 (h6 h), fun h => k7 (h7 h)⟩

/-- An update of other fields keeps. -/
theorem Keeps.of_kernel {s t u : State} (h : Keeps s t) (e : u.kernel = t.kernel) : Keeps s u := by
  unfold Keeps at *; rw [e]; exact h

theorem keeps_iff {s t : State} : Keeps s t ↔ s.kernel.Keeps t.kernel := Iff.rfl

/-- The kernel of a state given field by field. -/
theorem kernel_eta (s : State) : Kernel.mk s.variant s.fused s.pending s.outbox s.fresh s.dmem s.hmem = s.kernel := rfl

/-- A state given by all its fields. -/
theorem keeps_mk (s : State) (pending : List Instr) (outbox : List Out) (time : Nat) (fresh : Nat) (variant :
      Variant) (fused : Fused) (mor : Moraine) (ice : Ice) (pwr : Power) (st : Startup) (funcs : Table PciFunc)
      (link : HostLink) (dropped : Dropped) (groups : Table Group) (queues : Table Queue) (arb : Arbiter) (ops :
      List Op) (nextTag : Nat) (pages : List PRange) (resets : Nat) (place : Placement) (dmem : Memory) (hmem :
      Table Byte) (fills : Table Nat) (memStacks : Table Stack) (windows : Table Window) (cxl : Table CxlPort) (kv :
      List KvPage) (ats : List AtsEntry) (pris : List PriReq) (bar2Waits : List (Nat × Nat × Option (List Byte))) (copies :
      List CopyWait) (priTimeout : Nat) (tiles : Table Tile) (images : List Image) (contexts : List Context) (floe : Table FloeUnit) (trns : Table Turnstile) (trnHeld : List (Nat ×
      Waiter)) (watchers : Table Watcher) (noc : Noc) (casc : Cascade) (mid : Midway) (cfg : CfgState) (nextOrder :
      Nat) (counters : Table Nat) (works : Table Nat) (worksSeen : Table Nat) :
    Keeps s (State.mk pending outbox time fresh variant fused mor ice pwr st funcs link dropped groups queues
      arb ops nextTag pages resets place dmem hmem fills memStacks windows cxl kv ats pris bar2Waits copies priTimeout
      tiles images contexts floe trns trnHeld watchers noc casc mid cfg nextOrder counters works
      worksSeen) ↔
      s.kernel.Keeps ⟨variant, fused, pending, outbox, fresh, dmem, hmem⟩ := Iff.rfl

/-- A fold of steps that each keep. -/
theorem Keeps.foldl {β : Type} {f : State → β → State} {s : State} (hf : ∀ t x, Keeps s t → Keeps s (f t x)) (l : List β)
    {t : State} (h : Keeps s t) : Keeps s (l.foldl f t) := by
  induction l generalizing t with
  | nil => exact h
  | cons x l ih => exact ih (hf t x h)


/-- A state that may be absent keeps if it is there. -/
def KeepsO (s : State) (r : Option State) : Prop := ∀ t, r = some t → Keeps s t

theorem KeepsO.none {s : State} : KeepsO s none := fun _ e => by cases e
theorem KeepsO.some {s t : State} (h : Keeps s t) : KeepsO s (some t) := fun _ e => by cases e; exact h
theorem KeepsO.map {α : Type} {s : State} {o : Option α} {f : α → State} (h : ∀ a, Keeps s (f a)) :
    KeepsO s (o.map f) := by
  intro t e
  cases o with
  | none => cases e
  | some a => cases e; exact h a
theorem KeepsO.bind {s : State} {o : Option State} {f : State → Option State} (ho : KeepsO s o)
    (h : ∀ t, Keeps s t → KeepsO s (f t)) : KeepsO s (o.bind f) := by
  intro t e
  cases o with
  | none => cases e
  | some a => exact h a (ho a rfl) t e
theorem KeepsO.bind' {α : Type} {s : State} {o : Option α} {f : α → Option State}
    (h : ∀ t, KeepsO s (f t)) : KeepsO s (o.bind f) := by
  intro t e
  cases o with
  | none => cases e
  | some a => exact h a t e
theorem KeepsO.foldl {β : Type} {f : Option State → β → Option State} {s : State}
    (hf : ∀ o x, KeepsO s o → KeepsO s (f o x)) (l : List β) {o : Option State} (h : KeepsO s o) :
    KeepsO s (l.foldl f o) := by
  induction l generalizing o with
  | nil => exact h
  | cons x l ih => exact ih (hf o x h)

/-- A state that an error may stand in for keeps if it is there. -/
def KeepsE {ε : Type} (s : State) (r : Except ε State) : Prop := ∀ t, r = .ok t → Keeps s t

theorem KeepsE.error {ε : Type} {s : State} {e : ε} : KeepsE s (.error e) := fun _ e => by cases e
theorem KeepsE.ok {ε : Type} {s t : State} (h : Keeps s t) : KeepsE (ε := ε) s (.ok t) := fun _ e => by cases e; exact h
theorem KeepsE.mapError {ε ε' : Type} {s : State} {r : Except ε State} {f : ε → ε'} (h : KeepsE s r) :
    KeepsE s (r.mapError f) := by
  intro t e
  cases r with
  | error a => cases e
  | ok a => cases e; exact h _ rfl
theorem KeepsE.map {ε : Type} {s : State} {r : Except ε State} {f : State → State} (h : KeepsE s r)
    (hf : ∀ t, Keeps s t → Keeps s (f t)) : KeepsE s (r.map f) := by
  intro t e
  cases r with
  | error a => cases e
  | ok a => cases e; exact hf _ (h _ rfl)
theorem KeepsE.map' {ε α : Type} {s : State} {r : Except ε α} {f : α → State} (hf : ∀ a, Keeps s (f a)) :
    KeepsE s (r.map f) := by
  intro t e
  cases r with
  | error a => cases e
  | ok a => cases e; exact hf _
theorem KeepsE.bind {ε : Type} {s : State} {r : Except ε State} {f : State → Except ε State} (h : KeepsE s r)
    (hf : ∀ t, Keeps s t → KeepsE s (f t)) : KeepsE s (r.bind f) := by
  intro t e
  cases r with
  | error a => cases e
  | ok a => exact hf _ (h _ rfl) t e
theorem KeepsE.bind' {ε α : Type} {s : State} {r : Except ε α} {f : α → Except ε State}
    (hf : ∀ t, KeepsE s (f t)) : KeepsE s (r.bind f) := by
  intro t e
  cases r with
  | error a => cases e
  | ok a => exact hf _ t e
theorem KeepsE.foldl {ε β : Type} {f : Except ε State → β → Except ε State} {s : State}
    (hf : ∀ o x, KeepsE s o → KeepsE s (f o x)) (l : List β) {o : Except ε State} (h : KeepsE s o) :
    KeepsE s (l.foldl f o) := by
  induction l generalizing o with
  | nil => exact h
  | cons x l ih => exact ih (hf o x h)

/-- Either branch keeps. -/
theorem Keeps.ite {c : Prop} [Decidable c] {s t u : State} (h : Keeps s t) (k : Keeps s u) :
    Keeps s (if c then t else u) := by split <;> assumption
theorem Keeps.ite_snd {α : Type} {c : Prop} [Decidable c] {s : State} {t u : α × State} (h : Keeps s t.2)
    (k : Keeps s u.2) : Keeps s (if c then t else u).2 := by split <;> assumption

/-- A fold over a pair whose second part is the state. -/
theorem Keeps.foldl_snd {α β : Type} {f : α × State → β → α × State} {s : State}
    (hf : ∀ p x, Keeps s p.2 → Keeps s (f p x).2) (l : List β) {p : α × State} (h : Keeps s p.2) :
    Keeps s (l.foldl f p).2 := by
  induction l generalizing p with
  | nil => exact h
  | cons x l ih => exact ih (hf p x h)

/-- An update of the memories that keeps their form. -/
theorem Keeps.of_mem {s t u : State} (h : Keeps s t) (e : u.kernel = { t.kernel with dmem := u.dmem, hmem := u.hmem })
    (hd : Memory.wf t.dmem = true → Memory.wf u.dmem = true) (hh : tsorted t.hmem = true → tsorted u.hmem = true) :
    Keeps s u := by
  obtain ⟨h1, h2, h3, h4, h5, h6, h7⟩ := h
  unfold Keeps
  rw [e]
  exact ⟨h1, h2, h3, h4, h5, fun h => hd (h6 h), fun h => hh (h7 h)⟩

/-- The bytes of the stacks change to another canonical memory. -/
theorem keeps_dmem {s0 s : State} (m : Memory) (hm : Memory.wf s.dmem = true → Memory.wf m = true) (h : Keeps s0 s) :
    s0.kernel.Keeps ⟨s.variant, s.fused, s.pending, s.outbox, s.fresh, m, s.hmem⟩ :=
  h.of_mem (u := { s with dmem := m }) rfl hm id

theorem keeps_writeN {s0 s : State} (a : Nat) (bs : List Byte) (h : Keeps s0 s) :
    s0.kernel.Keeps ⟨s.variant, s.fused, s.pending, s.outbox, s.fresh, s.dmem.writeN a bs, s.hmem⟩ :=
  keeps_dmem _ (Memory.wf_writeN bs a) h

theorem keeps_filter {s0 s : State} (p : Host.Cell → Bool) (h : Keeps s0 s) :
    s0.kernel.Keeps ⟨s.variant, s.fused, s.pending, s.outbox, s.fresh, s.dmem.filter p, s.hmem⟩ :=
  keeps_dmem _ (Memory.wf_filter p) h

/-- The bytes of host memory change to another table with rising keys. -/
theorem keeps_hmem {s0 s : State} (m : Table Byte) (hm : tsorted s.hmem = true → tsorted m = true) (h : Keeps s0 s) :
    s0.kernel.Keeps ⟨s.variant, s.fused, s.pending, s.outbox, s.fresh, s.dmem, m⟩ :=
  h.of_mem (u := { s with hmem := m }) rfl id hm

/-- The memories go back to what they were in an earlier state. -/
theorem keeps_back {s0 s u : State} (h : Keeps s0 s) (k : Keeps s0 u) :
    s0.kernel.Keeps ⟨u.variant, u.fused, u.pending, u.outbox, u.fresh, s.dmem, s.hmem⟩ :=
  ⟨k.1, k.2.1, k.2.2.1, k.2.2.2.1, k.2.2.2.2.1, h.2.2.2.2.2.1, h.2.2.2.2.2.2⟩

theorem KeepsO.findSome {β : Type} {f : β → Option State} {s : State} (l : List β) (hf : ∀ x, KeepsO s (f x)) :
    KeepsO s (l.findSome? f) := by
  intro t e
  obtain ⟨x, -, hx⟩ := List.exists_of_findSome?_eq_some e
  exact hf x t hx

theorem KeepsO.getD {s t : State} {o : Option State} (h : KeepsO s o) (ht : Keeps s t) : Keeps s (o.getD t) := by
  cases o with
  | none => exact ht
  | some a => exact h a rfl

/-- A result that a match has named. -/
theorem KeepsO.use {s t : State} {r : Option State} (e : r = Option.some t) (h : KeepsO s r) : Keeps s t := h t e
theorem KeepsE.use {ε : Type} {s t : State} {r : Except ε State} (e : r = Except.ok t) (h : KeepsE s r) : Keeps s t := h t e
theorem Keeps.use {α : Type} {s t : State} {a : α} {r : α × State} (e : r = (a, t)) (h : Keeps s r.2) : Keeps s t := by
  rw [e] at h; exact h

/-- A state with something beside it that may be absent. -/
def KeepsP {α : Type} (s : State) (r : Option (α × State)) : Prop := ∀ a t, r = some (a, t) → Keeps s t

theorem KeepsP.none {α : Type} {s : State} : KeepsP (α := α) s none := fun _ _ e => by cases e
theorem KeepsP.some {α : Type} {s t : State} {a : α} (h : Keeps s t) : KeepsP s (some (a, t)) :=
  fun _ _ e => by cases e; exact h
theorem KeepsP.use {α : Type} {s t : State} {a : α} {r : Option (α × State)} (e : r = Option.some (a, t))
    (h : KeepsP s r) : Keeps s t := h a t e

end Sys2Proof.Machine
end

