-- ==== Sys2Proof/Laws/KeepsOps.lean ====
section
/-! SUPPORT. What the shared operations of Machine/Ops.lean keep. -/

set_option linter.unusedSimpArgs false
set_option maxRecDepth 4000

namespace Sys2Proof.Machine

theorem keeps_setGroup {sz s : State} (g : Nat) (x : Group) (hk : Keeps sz s) :
    Keeps sz (setGroup s g x) := hk

theorem keeps_setTile {sz s : State} (p : Nat) (x : Tile) (hk : Keeps sz s) :
    Keeps sz (setTile s p x) := hk

theorem keeps_updTile {sz s : State} (p : Nat) (f : Tile → Tile)
    (hk : Keeps sz s) : Keeps sz (updTile p f s) := by
  unfold updTile
  repeat' first
    | with_reducible assumption | (simp only [↓keeps_mk, kernel_eta, ← keeps_iff])
    | (with_reducible apply keeps_setTile) | split | dsimp only | intro _

theorem keeps_setFloe {sz s : State} (k : Nat) (x : FloeUnit) (hk : Keeps sz s) :
    Keeps sz (setFloe s k x) := hk

theorem keeps_setQueue {sz s : State} (q : Nat) (x : Queue) (hk : Keeps sz s) :
    Keeps sz (setQueue s q x) := hk

theorem keeps_setFunc {sz s : State} (f : Nat) (x : PciFunc) (hk : Keeps sz s) :
    Keeps sz (setFunc s f x) := hk

theorem keeps_setStack {sz s : State} (k : Nat) (x : Stack) (hk : Keeps sz s) :
    Keeps sz (setStack s k x) := hk

theorem keeps_setWindow {sz s : State} (n : Nat) (x : Window) (hk : Keeps sz s) :
    Keeps sz (setWindow s n x) := hk

theorem keeps_setCxl {sz s : State} (p : Nat) (x : CxlPort) (hk : Keeps sz s) :
    Keeps sz (setCxl s p x) := hk

theorem keeps_takeFree {s0 s : State} (w : Nat) (h : Keeps s0 s) : Keeps s0 (takeFree w s).2 :=
  h.trans ⟨rfl, rfl, rfl, List.prefix_refl _, Nat.le_succ _, id, id⟩

theorem keeps_emit {s0 s : State} (o : Out) (h : Keeps s0 s) : Keeps s0 (emit o s) :=
  h.trans ⟨rfl, rfl, rfl, List.prefix_append _ _, Nat.le_refl _, id, id⟩

theorem keeps_account {sz s : State} (dt : Nat)
    (hk : Keeps sz s) : Keeps sz (account dt s) := by
  unfold account
  repeat' first
    | with_reducible assumption | (simp only [↓keeps_mk, kernel_eta, ← keeps_iff])
    | (with_reducible refine Keeps.foldl (fun _ _ _ => ?_) _ ?_) | split | dsimp only | intro _

theorem keeps_passTime {sz s : State} (dt : Nat)
    (hk : Keeps sz s) : Keeps sz (passTime dt s) := by
  unfold passTime
  repeat' first
    | with_reducible assumption | (simp only [↓keeps_mk, kernel_eta, ← keeps_iff])
    | (with_reducible apply keeps_account) | split | dsimp only | intro _

theorem keeps_passTo {sz s : State} (t : Nat)
    (hk : Keeps sz s) : Keeps sz (passTo t s) := by
  unfold passTo
  repeat' first
    | with_reducible assumption | (simp only [↓keeps_mk, kernel_eta, ← keeps_iff])
    | (with_reducible apply keeps_passTime) | split | dsimp only | intro _

theorem keeps_sendMsix {sz s : State} (func vec : Nat)
    (hk : Keeps sz s) : Keeps sz (sendMsix func vec s) := by
  unfold sendMsix
  repeat' first
    | with_reducible assumption | (simp only [↓keeps_mk, kernel_eta, ← keeps_iff])
    | (with_reducible apply keeps_setFunc) | (with_reducible apply keeps_emit) | split | dsimp only | intro _

theorem keeps_sendPending {sz s : State} (func : Nat)
    (hk : Keeps sz s) : Keeps sz (sendPending func s) := by
  unfold sendPending
  repeat' first
    | with_reducible assumption | (simp only [↓keeps_mk, kernel_eta, ← keeps_iff])
    | (with_reducible apply keeps_setFunc) | (with_reducible apply keeps_sendMsix)
    | (with_reducible refine Keeps.foldl (fun _ _ _ => ?_) _ ?_) | split | dsimp only | intro _

theorem keeps_morIrq {sz s : State} (sev : Nat)
    (hk : Keeps sz s) : Keeps sz (morIrq sev s) := by
  unfold morIrq
  repeat' first
    | with_reducible assumption | (simp only [↓keeps_mk, kernel_eta, ← keeps_iff])
    | (with_reducible apply keeps_sendMsix) | split | dsimp only | intro _

theorem keeps_createRec {sz s : State} (code sev src : Nat) (payload : List Byte)
    (hk : Keeps sz s) : Keeps sz (createRec code sev src payload s) := by
  unfold createRec
  repeat' first
    | with_reducible assumption | (simp only [↓keeps_mk, kernel_eta, ← keeps_iff])
    | (with_reducible apply keeps_morIrq) | split | dsimp only | intro _

theorem keeps_recordSev {sz s : State} (code sev src : Nat) (payload : List Byte)
    (hk : Keeps sz s) : Keeps sz (recordSev code sev src payload s) := by
  unfold recordSev
  repeat' first
    | with_reducible assumption | (simp only [↓keeps_mk, kernel_eta, ← keeps_iff])
    | (with_reducible apply keeps_createRec) | split | dsimp only | intro _

theorem keeps_record {sz s : State} (code src : Nat) (payload : List Byte)
    (hk : Keeps sz s) : Keeps sz (record code src payload s) := by
  unfold record
  repeat' first
    | with_reducible assumption | (simp only [↓keeps_mk, kernel_eta, ← keeps_iff])
    | (with_reducible apply keeps_recordSev) | split | dsimp only | intro _

theorem keeps_unfreeze {sz s : State}
    (hk : Keeps sz s) : Keeps sz (unfreeze s) := by
  unfold unfreeze
  repeat' first
    | with_reducible assumption | (simp only [↓keeps_mk, kernel_eta, ← keeps_iff])
    | (with_reducible apply keeps_record) | (with_reducible refine Keeps.foldl (fun _ _ _ => ?_) _ ?_) | split
    | dsimp only | intro _

theorem keeps_countErase {sz s : State} (i : Nat) (hk : Keeps sz s) :
    Keeps sz (countErase i s) := hk

theorem keeps_iceCommitOp {sz s : State}
    (hk : Keeps sz s) : Keeps sz (iceCommitOp s) := by
  unfold iceCommitOp
  repeat' first
    | with_reducible assumption | (simp only [↓keeps_mk, kernel_eta, ← keeps_iff]) | split | dsimp only | intro _

theorem keeps_clearLost {sz s : State} (a : Nat)
    (hk : Keeps sz s) : Keeps sz (clearLost s a) := by
  unfold clearLost
  repeat' first
    | with_reducible assumption | (simp only [↓keeps_mk, kernel_eta, ← keeps_iff])
    | (with_reducible apply keeps_setStack) | split | dsimp only | intro _

theorem keeps_snoop {sz s : State} (a : Nat)
    (hk : Keeps sz s) : Keeps sz (snoop a s) := by
  unfold snoop
  repeat' first
    | with_reducible assumption | (simp only [↓keeps_mk, kernel_eta, ← keeps_iff]) | split | dsimp only | intro _

theorem keeps_writeLine {sz s : State} (a : Nat) (bs : List Byte)
    (hk : Keeps sz s) : Keeps sz (writeLine a bs s) := by
  unfold writeLine
  repeat' first
    | with_reducible assumption | (with_reducible apply keeps_writeN)
    | (simp only [↓keeps_mk, kernel_eta, ← keeps_iff]) | (with_reducible apply keeps_clearLost)
    | (with_reducible apply keeps_snoop) | (with_reducible apply keeps_writeN) | split | dsimp only | intro _

theorem keeps_writePhys {sz x3 : State} (x0 x1 : Nat) (x2 : List Byte)
    (hk : Keeps sz x3) : Keeps sz (writePhys x0 x1 x2 x3) := by
  induction x0 generalizing x1 x2 x3 with
  | zero => exact hk
  | succ _ ih =>
    unfold writePhys
    repeat' first
      | with_reducible assumption | (with_reducible apply ih) | (simp only [↓keeps_mk, kernel_eta, ← keeps_iff])
      | (with_reducible apply keeps_writeLine) | split | dsimp only | intro _

theorem keeps_wholeLines {sz s : State} (a n : Nat) (hk : Keeps sz s) :
    Keeps sz (wholeLines a n s) := hk

theorem keeps_zeroPhys {s0 s : State} (a n : Nat) (h : Keeps s0 s) : Keeps s0 (zeroPhys a n s) :=
  keeps_filter _ h

theorem keeps_retireLine {sz s : State} (k pc off : Nat)
    (hk : Keeps sz s) : Keeps sz (retireLine k pc off s) := by
  unfold retireLine
  repeat' first
    | with_reducible assumption | (simp only [↓keeps_mk, kernel_eta, ← keeps_iff])
    | (with_reducible apply keeps_setStack) | (with_reducible apply keeps_record) | split | dsimp only | intro _

theorem keeps_uncorrectableAt {sz s : State} (k pc off a by_ : Nat)
    (hk : Keeps sz s) : Keeps sz (uncorrectableAt k pc off a by_ s) := by
  unfold uncorrectableAt
  repeat' first
    | with_reducible assumption | (simp only [↓keeps_mk, kernel_eta, ← keeps_iff])
    | (with_reducible apply keeps_setStack) | (with_reducible apply keeps_record)
    | (with_reducible apply keeps_retireLine) | split | dsimp only | intro _

theorem keeps_uncorrectable {sz s : State} (a by_ : Nat)
    (hk : Keeps sz s) : Keeps sz (uncorrectable a by_ s) := by
  unfold uncorrectable
  repeat' first
    | with_reducible assumption | (simp only [↓keeps_mk, kernel_eta, ← keeps_iff])
    | (with_reducible apply keeps_uncorrectableAt) | split | dsimp only | intro _

theorem keeps_countAccess {sz s : State} (a : Nat)
    (hk : Keeps sz s) : Keeps sz (countAccess a s) := by
  unfold countAccess
  repeat' first
    | with_reducible assumption | (simp only [↓keeps_mk, kernel_eta, ← keeps_iff]) | split | dsimp only | intro _

theorem keeps_setOp {sz s : State} (o : Op) (hk : Keeps sz s) :
    Keeps sz (setOp s o) := hk

theorem keeps_updOp {sz s : State} (tag : Nat) (f : Op → Op) (hk : Keeps sz s) :
    Keeps sz (updOp tag f s) := hk

theorem keeps_freeSlots {sz s : State} (p : Nat → Bool) (hk : Keeps sz s) :
    Keeps sz (freeSlots p s) := hk

theorem keeps_leaveBuffers {sz s : State} (tag : Nat) (hk : Keeps sz s) :
    Keeps sz (leaveBuffers tag s) := hk

theorem keeps_endOp {sz s : State} (tag : Nat) (r : Result)
    (hk : Keeps sz s) : Keeps sz (endOp tag r s) := by
  unfold endOp
  repeat' first
    | with_reducible assumption | (simp only [↓keeps_mk, kernel_eta, ← keeps_iff])
    | (with_reducible apply keeps_updOp) | (with_reducible apply keeps_freeSlots)
    | (with_reducible apply keeps_leaveBuffers) | split | dsimp only | intro _

end Sys2Proof.Machine
end

