-- ==== Sys2Proof/Laws/KeepsNetwork.lean ====
section
/-! SUPPORT. What the shared operations of Machine/Network.lean keep. -/

set_option linter.unusedSimpArgs false
set_option maxRecDepth 4000

namespace Sys2Proof.Machine

theorem keeps_passFlits {sz s : State} (net n : Nat) (nodes : List Nat) (hk : Keeps sz s) :
    Keeps sz (passFlits net n nodes s) := hk

theorem keeps_cacheLine {sz s : State} (at_ a : Nat)
    (hk : Keeps sz s) : Keeps sz (cacheLine at_ a s) := by
  unfold cacheLine
  repeat' first
    | with_reducible assumption | (simp only [↓keeps_mk, kernel_eta, ← keeps_iff]) | split | dsimp only | intro _

theorem keeps_readFlits {sz s : State} (at_ home : Nat)
    (hk : Keeps sz s) : Keeps sz (readFlits at_ home s) := by
  unfold readFlits
  repeat' first
    | with_reducible assumption | (simp only [↓keeps_mk, kernel_eta, ← keeps_iff])
    | (with_reducible apply keeps_passFlits) | split | dsimp only | intro _

theorem keeps_writeFlits {sz s : State} (at_ home : Nat)
    (hk : Keeps sz s) : Keeps sz (writeFlits at_ home s) := by
  unfold writeFlits
  repeat' first
    | with_reducible assumption | (simp only [↓keeps_mk, kernel_eta, ← keeps_iff])
    | (with_reducible apply keeps_passFlits) | split | dsimp only | intro _

theorem keeps_lineFlits {sz s : State} (at_ a : Nat)
    (hk : Keeps sz s) : Keeps sz (lineFlits at_ a s) := by
  unfold lineFlits
  repeat' first
    | with_reducible assumption | (simp only [↓keeps_mk, kernel_eta, ← keeps_iff])
    | (with_reducible apply keeps_cacheLine) | (with_reducible apply keeps_readFlits) | split | dsimp only
    | intro _

theorem keeps_commandFlits {sz s : State} (p n : Nat)
    (hk : Keeps sz s) : Keeps sz (commandFlits p n s) := by
  unfold commandFlits
  repeat' first
    | with_reducible assumption | (simp only [↓keeps_mk, kernel_eta, ← keeps_iff])
    | (with_reducible apply keeps_passFlits) | split | dsimp only | intro _

theorem keeps_turnstileFlit {sz s : State}
    (hk : Keeps sz s) : Keeps sz (turnstileFlit s) := by
  unfold turnstileFlit
  repeat' first
    | with_reducible assumption | (simp only [↓keeps_mk, kernel_eta, ← keeps_iff])
    | (with_reducible apply keeps_passFlits) | split | dsimp only | intro _

theorem keeps_markWork {sz s : State} (us : List Nat) (hk : Keeps sz s) :
    Keeps sz (markWork us s) := hk

end Sys2Proof.Machine
end

