-- ==== Sys2Proof/Laws/KeepsTranslate.lean ====
section
/-! SUPPORT. What the shared operations of Machine/Translate.lean keep. -/

set_option linter.unusedSimpArgs false
set_option maxRecDepth 4000

namespace Sys2Proof.Machine

theorem keeps_walkEvent {sz x1 : State} (asid va x0 : Nat)
    (hk : Keeps sz x1) : Keeps sz (walkEvent asid va x0 x1) := by
  induction x0 generalizing x1 with
  | zero => exact hk
  | succ _ ih =>
    unfold walkEvent
    repeat' first
      | with_reducible assumption | (with_reducible apply ih) | (simp only [↓keeps_mk, kernel_eta, ← keeps_iff])
      | (with_reducible apply keeps_record) | split | dsimp only | intro _

theorem keeps_putRuns {sz s : State} (asid lo hi : Nat) (rs : List PRange)
    (hk : Keeps sz s) : Keeps sz (putRuns asid lo hi rs s) := by
  unfold putRuns
  repeat' first
    | with_reducible assumption | (simp only [↓keeps_mk, kernel_eta, ← keeps_iff])
    | (with_reducible refine Keeps.foldl (fun _ _ _ => ?_) _ ?_) | split | dsimp only | intro _

theorem keeps_zeroRuns {sz s : State} (rs : List PRange)
    (hk : Keeps sz s) : Keeps sz (zeroRuns rs s) := by
  unfold zeroRuns
  repeat' first
    | with_reducible assumption | (simp only [↓keeps_mk, kernel_eta, ← keeps_iff])
    | (with_reducible apply keeps_zeroPhys) | (with_reducible refine Keeps.foldl (fun _ _ _ => ?_) _ ?_) | split
    | dsimp only | intro _

theorem keeps_backOne {sz s : State} (bs : List Backing) (p : PRange)
    (hk : Keeps sz s) : KeepsO sz (backOne bs p s) := by
  unfold backOne
  repeat' first
    | with_reducible assumption | (simp only [↓keeps_mk, kernel_eta, ← keeps_iff])
    | (with_reducible apply keeps_putRuns) | (with_reducible apply keeps_zeroRuns)
    | (with_reducible exact KeepsO.none) | (with_reducible refine KeepsO.some ?_)
    | (with_reducible refine KeepsO.map (fun _ => ?_)) | (with_reducible refine KeepsO.findSome _ (fun _ => ?_))
    | split | dsimp only | intro _

theorem keeps_backRegion {sz s : State} (asid va : Nat) (one : Bool)
    (hk : Keeps sz s) : KeepsO sz (backRegion asid va one s) := by
  unfold backRegion
  repeat' first
    | with_reducible assumption | (simp only [↓keeps_mk, kernel_eta, ← keeps_iff])
    | (with_reducible apply keeps_putRuns) | (with_reducible apply keeps_zeroRuns)
    | (with_reducible apply keeps_backOne) | (refine KeepsO.use (by assumption) ?_)
    | (with_reducible refine Keeps.foldl (fun _ _ _ => ?_) _ ?_) | (with_reducible exact KeepsO.none)
    | (with_reducible refine KeepsO.some ?_) | (with_reducible refine KeepsO.map (fun _ => ?_))
    | (with_reducible refine KeepsO.foldl (fun _ _ _ => ?_) _ ?_)
    | (with_reducible refine KeepsO.bind ?_ (fun _ _ => ?_)) | split | dsimp only | intro _

theorem keeps_storeV {sz x3 : State} (w : Who) (x0 x1 : Nat) (x2 : List Byte)
    (hk : Keeps sz x3) : Keeps sz (storeV w x0 x1 x2 x3) := by
  induction x0 generalizing x1 x2 x3 with
  | zero => exact hk
  | succ _ ih =>
    unfold storeV
    repeat' first
      | with_reducible assumption | (with_reducible apply ih)
      | (refine keeps_hmem _ (fun hm => tsorted_foldl _ (fun _ _ h => tsorted_tinsert h) _ hm) ?_)
      | (simp only [↓keeps_mk, kernel_eta, ← keeps_iff]) | (with_reducible apply keeps_writeLine)
      | (with_reducible refine Keeps.foldl (fun _ _ _ => ?_) _ ?_) | split | dsimp only | intro _

theorem keeps_writeV {sz s : State} (w : Who) (addr : Nat) (bs : List Byte)
    (hk : Keeps sz s) : KeepsE sz (writeV w addr bs s) := by
  unfold writeV
  repeat' first
    | with_reducible assumption | (simp only [↓keeps_mk, kernel_eta, ← keeps_iff])
    | (with_reducible apply keeps_storeV) | (with_reducible exact KeepsE.error)
    | (with_reducible refine KeepsE.ok ?_) | (with_reducible refine KeepsE.mapError ?_)
    | (with_reducible refine KeepsE.map ?_ (fun _ _ => ?_)) | split | dsimp only | intro _

theorem keeps_recordFault {sz s : State} (w : Who) (addr : Nat)
    (hk : Keeps sz s) : Keeps sz (recordFault w addr s) := by
  unfold recordFault
  repeat' first
    | with_reducible assumption | (simp only [↓keeps_mk, kernel_eta, ← keeps_iff])
    | (with_reducible apply keeps_record) | split | dsimp only | intro _

theorem keeps_recordStop {sz s : State} (w : Who) (e : Stop)
    (hk : Keeps sz s) : Keeps sz (recordStop w e s) := by
  unfold recordStop
  repeat' first
    | with_reducible assumption | (simp only [↓keeps_mk, kernel_eta, ← keeps_iff])
    | (with_reducible apply keeps_recordFault) | split | dsimp only | intro _

theorem keeps_startWait {sz s : State} (w : Who) (write : Bool) (x : Wait) (addr : Nat)
    (hk : Keeps sz s) : Keeps sz (startWait w write x addr s) := by
  unfold startWait
  repeat' first
    | with_reducible assumption | (simp only [↓keeps_mk, kernel_eta, ← keeps_iff])
    | (with_reducible apply keeps_emit) | split | dsimp only | intro _

theorem keeps_movePhys {sz s : State} (old new n : Nat)
    (hk : Keeps sz s) : Keeps sz (movePhys old new n s) := by
  unfold movePhys
  repeat' first
    | with_reducible assumption
    | (refine keeps_dmem _ (fun hm => Memory.wf_foldl _ (fun _ _ h => Memory.wf_write _ _ h) _ (Memory.wf_filter _ hm)) ?_)
    | (simp only [↓keeps_mk, kernel_eta, ← keeps_iff]) | (with_reducible apply keeps_filter)
    | (with_reducible refine Keeps.foldl (fun _ _ _ => ?_) _ ?_) | split | dsimp only | intro _

theorem keeps_wakeOps {sz s : State} (p : Op → Bool)
    (hk : Keeps sz s) : Keeps sz (wakeOps p s) := by
  unfold wakeOps
  repeat' first
    | with_reducible assumption | (simp only [↓keeps_mk, kernel_eta, ← keeps_iff])
    | (with_reducible apply keeps_freeSlots) | split | dsimp only | intro _

theorem keeps_wakeMigrated {sz s : State} (asid page : Nat)
    (hk : Keeps sz s) : Keeps sz (wakeMigrated asid page s) := by
  unfold wakeMigrated
  repeat' first
    | with_reducible assumption | (simp only [↓keeps_mk, kernel_eta, ← keeps_iff])
    | (with_reducible apply keeps_wakeOps) | split | dsimp only | intro _

theorem keeps_beginMigration {sz s : State} (m : Migration)
    (hk : Keeps sz s) : Keeps sz (beginMigration m s) := by
  unfold beginMigration
  repeat' first
    | with_reducible assumption | (simp only [↓keeps_mk, kernel_eta, ← keeps_iff]) | split | dsimp only | intro _

theorem keeps_endMigration {sz s : State} (m : Migration)
    (hk : Keeps sz s) : Keeps sz (endMigration m s) := by
  unfold endMigration
  repeat' first
    | with_reducible assumption | (simp only [↓keeps_mk, kernel_eta, ← keeps_iff])
    | (with_reducible apply keeps_wakeMigrated) | split | dsimp only | intro _

theorem keeps_cancelMigration {sz s : State} (m : Migration)
    (hk : Keeps sz s) : Keeps sz (cancelMigration m s) := by
  unfold cancelMigration
  repeat' first
    | with_reducible assumption | (simp only [↓keeps_mk, kernel_eta, ← keeps_iff])
    | (with_reducible apply keeps_endMigration) | (with_reducible refine Keeps.foldl (fun _ _ _ => ?_) _ ?_)
    | split | dsimp only | intro _

theorem keeps_unreadLines {sz s : State} (m : Migration)
    (hk : Keeps sz s) : Keeps sz (unreadLines m s) := by
  unfold unreadLines
  repeat' first
    | with_reducible assumption | (simp only [↓keeps_mk, kernel_eta, ← keeps_iff])
    | (with_reducible apply keeps_takeFree) | (refine Keeps.use (by assumption) ?_)
    | (with_reducible apply keeps_writeN) | (with_reducible refine Keeps.foldl (fun _ _ _ => ?_) _ ?_) | split
    | dsimp only | intro _

theorem keeps_installMigration {sz s : State} (m : Migration)
    (hk : Keeps sz s) : Keeps sz (installMigration m s) := by
  unfold installMigration
  repeat' first
    | with_reducible assumption | (simp only [↓keeps_mk, kernel_eta, ← keeps_iff])
    | (with_reducible apply keeps_wholeLines) | (with_reducible apply keeps_movePhys)
    | (with_reducible apply keeps_unreadLines) | split | dsimp only | intro _

theorem keeps_finishMigration {sz s : State} (m : Migration)
    (hk : Keeps sz s) : Keeps sz (finishMigration m s) := by
  unfold finishMigration
  repeat' first
    | with_reducible assumption | (simp only [↓keeps_mk, kernel_eta, ← keeps_iff])
    | (with_reducible apply keeps_cancelMigration) | (with_reducible apply keeps_installMigration)
    | (with_reducible refine Keeps.foldl (fun _ _ _ => ?_) _ ?_) | split | dsimp only | intro _

theorem keeps_resolveTouch {sz s : State} (w : Who) (e : Stop)
    (hk : Keeps sz s) : KeepsE sz (resolveTouch w e s) := by
  unfold resolveTouch
  repeat' first
    | with_reducible assumption | (simp only [↓keeps_mk, kernel_eta, ← keeps_iff])
    | (with_reducible apply keeps_backRegion) | (with_reducible apply keeps_finishMigration)
    | (refine KeepsO.use (by assumption) ?_) | (with_reducible exact KeepsO.none)
    | (with_reducible refine KeepsO.some ?_) | (with_reducible refine KeepsO.map (fun _ => ?_))
    | (with_reducible exact KeepsE.error) | (with_reducible refine KeepsE.ok ?_)
    | (with_reducible refine KeepsE.mapError ?_) | (with_reducible refine KeepsE.map ?_ (fun _ _ => ?_)) | split
    | dsimp only | intro _

theorem keeps_readRM {sz x1 : State} (w : Who) (addr n x0 : Nat)
    (hk : Keeps sz x1) : Keeps sz (readRM w addr n x0 x1).2 := by
  induction x0 generalizing x1 with
  | zero =>
    unfold readRM
    repeat' first
      | with_reducible assumption | (simp only [↓keeps_mk, kernel_eta, ← keeps_iff])
      | (with_reducible apply keeps_resolveTouch) | (refine KeepsE.use (by assumption) ?_)
      | (with_reducible exact KeepsE.error) | (with_reducible refine KeepsE.ok ?_)
      | (with_reducible refine KeepsE.mapError ?_) | (with_reducible refine KeepsE.map ?_ (fun _ _ => ?_)) | split
      | dsimp only | intro _
  | succ _ ih =>
    unfold readRM
    repeat' first
      | with_reducible assumption | (with_reducible apply ih) | (simp only [↓keeps_mk, kernel_eta, ← keeps_iff])
      | (with_reducible apply keeps_resolveTouch) | (refine KeepsE.use (by assumption) ?_)
      | (with_reducible exact KeepsE.error) | (with_reducible refine KeepsE.ok ?_)
      | (with_reducible refine KeepsE.mapError ?_) | (with_reducible refine KeepsE.map ?_ (fun _ _ => ?_)) | split
      | dsimp only | intro _

theorem keeps_writeRM {sz x1 : State} (w : Who) (addr : Nat) (bs : List Byte) (x0 : Nat)
    (hk : Keeps sz x1) : Keeps sz (writeRM w addr bs x0 x1).2 := by
  induction x0 generalizing x1 with
  | zero =>
    unfold writeRM
    repeat' first
      | with_reducible assumption | (simp only [↓keeps_mk, kernel_eta, ← keeps_iff])
      | (with_reducible apply keeps_writeV) | (with_reducible apply keeps_resolveTouch)
      | (refine KeepsE.use (by assumption) ?_) | (with_reducible exact KeepsE.error)
      | (with_reducible refine KeepsE.ok ?_) | (with_reducible refine KeepsE.mapError ?_)
      | (with_reducible refine KeepsE.map ?_ (fun _ _ => ?_)) | split | dsimp only | intro _
  | succ _ ih =>
    unfold writeRM
    repeat' first
      | with_reducible assumption | (with_reducible apply ih) | (simp only [↓keeps_mk, kernel_eta, ← keeps_iff])
      | (with_reducible apply keeps_writeV) | (with_reducible apply keeps_resolveTouch)
      | (refine KeepsE.use (by assumption) ?_) | (with_reducible exact KeepsE.error)
      | (with_reducible refine KeepsE.ok ?_) | (with_reducible refine KeepsE.mapError ?_)
      | (with_reducible refine KeepsE.map ?_ (fun _ _ => ?_)) | split | dsimp only | intro _

theorem keeps_accessFlits {sz s : State} (at_ : Nat) (w : Who) (write : Bool) (addr : Nat)
    (hk : Keeps sz s) : Keeps sz (accessFlits at_ w write addr s) := by
  unfold accessFlits
  repeat' first
    | with_reducible assumption | (simp only [↓keeps_mk, kernel_eta, ← keeps_iff])
    | (with_reducible apply keeps_readFlits) | (with_reducible apply keeps_writeFlits)
    | (with_reducible apply keeps_lineFlits) | split | dsimp only | intro _

theorem keeps_unmapKv {sz s : State} (k : KvPage)
    (hk : Keeps sz s) : Keeps sz (unmapKv k s) := by
  unfold unmapKv
  repeat' first
    | with_reducible assumption | (simp only [↓keeps_mk, kernel_eta, ← keeps_iff]) | split | dsimp only | intro _

theorem keeps_kvRetire {sz s : State} (a : Nat)
    (hk : Keeps sz s) : Keeps sz (kvRetire a s) := by
  unfold kvRetire
  repeat' first
    | with_reducible assumption | (simp only [↓keeps_mk, kernel_eta, ← keeps_iff])
    | (with_reducible apply keeps_record) | (with_reducible apply keeps_writeRM)
    | (with_reducible apply keeps_unmapKv) | (refine Keeps.use (by assumption) ?_) | split | dsimp only | intro _

theorem keeps_uncorrectableKv {sz s : State} (a by_ : Nat)
    (hk : Keeps sz s) : Keeps sz (uncorrectableKv a by_ s) := by
  unfold uncorrectableKv
  repeat' first
    | with_reducible assumption | (simp only [↓keeps_mk, kernel_eta, ← keeps_iff])
    | (with_reducible apply keeps_setStack) | (with_reducible apply keeps_clearLost)
    | (with_reducible apply keeps_uncorrectable) | (with_reducible apply keeps_kvRetire) | split | dsimp only
    | intro _

theorem keeps_leaveBad {sz s : State}
    (hk : Keeps sz s) : Keeps sz (leaveBad s) := by
  unfold leaveBad
  repeat' first
    | with_reducible assumption | (simp only [↓keeps_mk, kernel_eta, ← keeps_iff])
    | (with_reducible apply keeps_beginMigration) | (with_reducible refine Keeps.foldl (fun _ _ _ => ?_) _ ?_)
    | split | dsimp only | intro _

theorem keeps_poison {sz s : State} (a : Nat)
    (hk : Keeps sz s) : Keeps sz (poison a s) := by
  unfold poison
  repeat' first
    | with_reducible assumption | (simp only [↓keeps_mk, kernel_eta, ← keeps_iff])
    | (with_reducible apply keeps_setCxl) | (with_reducible apply keeps_takeFree)
    | (with_reducible apply keeps_record) | (with_reducible apply keeps_leaveBad)
    | (refine Keeps.use (by assumption) ?_) | split | dsimp only | intro _

theorem keeps_badRead {sz s : State} (a : Nat)
    (hk : Keeps sz s) : Keeps sz (badRead a s) := by
  unfold badRead
  repeat' first
    | with_reducible assumption | (simp only [↓keeps_mk, kernel_eta, ← keeps_iff])
    | (with_reducible apply keeps_uncorrectableKv) | (with_reducible apply keeps_poison) | split | dsimp only
    | intro _

end Sys2Proof.Machine
end

