-- ==== Sys2Proof/Laws/KeepsLinkLayer.lean ====
section
/-! SUPPORT. What the shared operations of Machine/LinkLayer.lean keep. -/

set_option linter.unusedSimpArgs false
set_option maxRecDepth 4000

namespace Sys2Proof.Machine

theorem keeps_setLink {sz s : State} (l : Nat) (x : CascLink) (hk : Keeps sz s) :
    Keeps sz (setLink s l x) := hk

theorem keeps_setLane {sz s : State} (n : Nat) (x : CascLane) (hk : Keeps sz s) :
    Keeps sz (setLane s n x) := hk

theorem keeps_msgSlot {sz s : State} (src dst seq : Nat) (m : CascMsg)
    (hk : Keeps sz s) : Keeps sz (msgSlot src dst seq m s).2 := by
  unfold msgSlot
  repeat' first
    | with_reducible assumption | (simp only [↓keeps_mk, kernel_eta, ← keeps_iff])
    | (with_reducible apply keeps_takeFree) | (refine Keeps.use (by assumption) ?_) | split | dsimp only | intro _

theorem keeps_sendFlit {sz s : State} (l ftype : Nat) (m : Option TxMsg)
    (hk : Keeps sz s) : Keeps sz (sendFlit l ftype m s) := by
  unfold sendFlit
  repeat' first
    | with_reducible assumption | (simp only [↓keeps_mk, kernel_eta, ← keeps_iff])
    | (with_reducible apply keeps_emit) | (with_reducible apply keeps_setLink) | split | dsimp only | intro _

theorem keeps_pumpLink {sz x1 : State} (l x0 : Nat)
    (hk : Keeps sz x1) : Keeps sz (pumpLink l x0 x1) := by
  induction x0 generalizing x1 with
  | zero => exact hk
  | succ _ ih =>
    unfold pumpLink
    repeat' first
      | with_reducible assumption | (with_reducible apply ih) | (simp only [↓keeps_mk, kernel_eta, ← keeps_iff])
      | (with_reducible apply keeps_setLink) | (with_reducible apply keeps_sendFlit) | split | dsimp only
      | intro _

theorem keeps_queueMsg {sz s : State} (l : Nat) (m : TxMsg)
    (hk : Keeps sz s) : Keeps sz (queueMsg l m s) := by
  unfold queueMsg
  repeat' first
    | with_reducible assumption | (simp only [↓keeps_mk, kernel_eta, ← keeps_iff])
    | (with_reducible apply keeps_setLink) | (with_reducible apply keeps_pumpLink) | split | dsimp only | intro _

theorem keeps_resend {sz s : State} (l : Nat)
    (hk : Keeps sz s) : Keeps sz (resend l s) := by
  unfold resend
  repeat' first
    | with_reducible assumption | (simp only [↓keeps_mk, kernel_eta, ← keeps_iff])
    | (with_reducible apply keeps_emit) | (with_reducible refine Keeps.foldl (fun _ _ _ => ?_) _ ?_) | split
    | dsimp only | intro _

theorem keeps_takeAck {sz s : State} (l h : Nat)
    (hk : Keeps sz s) : Keeps sz (takeAck l h s) := by
  unfold takeAck
  repeat' first
    | with_reducible assumption | (simp only [↓keeps_mk, kernel_eta, ← keeps_iff])
    | (with_reducible apply keeps_setLink) | (with_reducible apply keeps_pumpLink)
    | (with_reducible apply keeps_resend) | split | dsimp only | intro _

end Sys2Proof.Machine
end

