-- ==== Sys2Proof/Laws/KeepsTurnstiles.lean ====
section
/-! SUPPORT. What the shared operations of Machine/Turnstiles.lean keep. -/

set_option linter.unusedSimpArgs false
set_option maxRecDepth 4000

namespace Sys2Proof.Machine

theorem keeps_sendCasc {sz s : State} (dev : Nat) (m : CascMsg)
    (hk : Keeps sz s) : Keeps sz (sendCasc dev m s) := by
  unfold sendCasc
  repeat' first
    | with_reducible assumption | (simp only [↓keeps_mk, kernel_eta, ← keeps_iff])
    | (with_reducible apply keeps_emit) | (with_reducible apply keeps_msgSlot)
    | (with_reducible apply keeps_queueMsg) | (refine Keeps.use (by assumption) ?_) | split | dsimp only | intro _

theorem keeps_takeFence {sz s : State} (queue dev : Nat)
    (hk : Keeps sz s) : Keeps sz (takeFence queue dev s).2 := by
  unfold takeFence
  repeat' first
    | with_reducible assumption | (simp only [↓keeps_mk, kernel_eta, ← keeps_iff]) | split | dsimp only | intro _

theorem keeps_sendFence {sz s : State} (queue dev func : Nat)
    (hk : Keeps sz s) : Keeps sz (sendFence queue dev func s) := by
  unfold sendFence
  repeat' first
    | with_reducible assumption | (simp only [↓keeps_mk, kernel_eta, ← keeps_iff])
    | (with_reducible apply keeps_sendCasc) | (with_reducible apply keeps_takeFence)
    | (refine Keeps.use (by assumption) ?_) | split | dsimp only | intro _

theorem keeps_countChannel {sz s : State} (queue dev func n : Nat)
    (hk : Keeps sz s) : Keeps sz (countChannel queue dev func n s) := by
  unfold countChannel
  repeat' first
    | with_reducible assumption | (simp only [↓keeps_mk, kernel_eta, ← keeps_iff])
    | (with_reducible apply keeps_sendFence) | split | dsimp only | intro _

theorem keeps_setTrn {sz s : State} (t : Nat) (x : Turnstile) (hk : Keeps sz s) :
    Keeps sz (setTrn s t x) := hk

theorem keeps_answerPeer {sz s : State} (p : Peer) (status : Nat)
    (hk : Keeps sz s) : Keeps sz (answerPeer p status s) := by
  unfold answerPeer
  repeat' first
    | with_reducible assumption | (simp only [↓keeps_mk, kernel_eta, ← keeps_iff])
    | (with_reducible apply keeps_sendCasc) | split | dsimp only | intro _

theorem keeps_releaseWaiter {sz s : State} (w : Waiter)
    (hk : Keeps sz s) : Keeps sz (releaseWaiter w s) := by
  unfold releaseWaiter
  repeat' first
    | with_reducible assumption | (simp only [↓keeps_mk, kernel_eta, ← keeps_iff])
    | (with_reducible apply keeps_updOp) | (with_reducible apply keeps_endOp)
    | (with_reducible apply keeps_answerPeer) | split | dsimp only | intro _

theorem keeps_completeTrn {sz s : State} (t : Nat)
    (hk : Keeps sz s) : Keeps sz (completeTrn t s) := by
  unfold completeTrn
  repeat' first
    | with_reducible assumption | (simp only [↓keeps_mk, kernel_eta, ← keeps_iff])
    | (with_reducible apply keeps_sendCasc) | (with_reducible apply keeps_setTrn)
    | (with_reducible apply keeps_releaseWaiter) | (with_reducible refine Keeps.foldl (fun _ _ _ => ?_) _ ?_)
    | split | dsimp only | intro _

theorem keeps_recount {sz s : State} (t : Nat)
    (hk : Keeps sz s) : Keeps sz (recount t s) := by
  unfold recount
  repeat' first
    | with_reducible assumption | (simp only [↓keeps_mk, kernel_eta, ← keeps_iff])
    | (with_reducible apply keeps_setTrn) | (with_reducible apply keeps_completeTrn) | split | dsimp only
    | intro _

theorem keeps_arriveOne {sz s : State} (t : Nat)
    (hk : Keeps sz s) : Keeps sz (arriveOne t s) := by
  unfold arriveOne
  repeat' first
    | with_reducible assumption | (simp only [↓keeps_mk, kernel_eta, ← keeps_iff])
    | (with_reducible apply keeps_setTrn) | (with_reducible apply keeps_recount) | split | dsimp only | intro _

theorem keeps_arriveMany {sz x1 : State} (t x0 : Nat)
    (hk : Keeps sz x1) : Keeps sz (arriveMany t x0 x1).2 := by
  induction x0 generalizing x1 with
  | zero =>
    unfold arriveMany
    repeat' first
      | with_reducible assumption | (rename_i e; cases e; exact ih (keeps_arriveOne _ (by assumption)))
      | (simp only [↓keeps_mk, kernel_eta, ← keeps_iff]) | (with_reducible apply keeps_arriveOne) | split
      | dsimp only | intro _
  | succ _ ih =>
    unfold arriveMany
    repeat' first
      | with_reducible assumption | (with_reducible apply ih)
      | (rename_i e; cases e; exact ih (keeps_arriveOne _ (by assumption)))
      | (simp only [↓keeps_mk, kernel_eta, ← keeps_iff]) | (with_reducible apply keeps_arriveOne) | split
      | dsimp only | intro _

theorem keeps_enterWaiter {sz s : State} (t : Nat) (w : Waiter)
    (hk : Keeps sz s) : Keeps sz (enterWaiter t w s) := by
  unfold enterWaiter
  repeat' first
    | with_reducible assumption | (simp only [↓keeps_mk, kernel_eta, ← keeps_iff])
    | (with_reducible apply keeps_record) | (with_reducible apply keeps_setTrn) | split | dsimp only | intro _

theorem keeps_registerWaiter {sz s : State} (t : Nat) (w : Waiter)
    (hk : Keeps sz s) : Keeps sz (registerWaiter t w s) := by
  unfold registerWaiter
  repeat' first
    | with_reducible assumption | (simp only [↓keeps_mk, kernel_eta, ← keeps_iff])
    | (with_reducible apply keeps_enterWaiter) | split | dsimp only | intro _

theorem keeps_waitAt {sz s : State} (t : Nat) (w : Waiter)
    (hk : Keeps sz s) : Keeps sz (waitAt t w s) := by
  unfold waitAt
  repeat' first
    | with_reducible assumption | (simp only [↓keeps_mk, kernel_eta, ← keeps_iff])
    | (with_reducible apply keeps_releaseWaiter) | (with_reducible apply keeps_registerWaiter) | split
    | dsimp only | intro _

theorem keeps_countFor {sz s : State} (t : Nat) (w : Waiter)
    (hk : Keeps sz s) : Keeps sz (countFor t w s) := by
  unfold countFor
  repeat' first
    | with_reducible assumption | (simp only [↓keeps_mk, kernel_eta, ← keeps_iff])
    | (with_reducible apply keeps_releaseWaiter) | (with_reducible apply keeps_arriveMany)
    | (with_reducible apply keeps_waitAt) | (refine Keeps.use (by assumption) ?_) | split | dsimp only | intro _

theorem keeps_settleTrn {sz x1 : State} (t x0 : Nat)
    (hk : Keeps sz x1) : Keeps sz (settleTrn t x0 x1) := by
  induction x0 generalizing x1 with
  | zero => exact hk
  | succ _ ih =>
    unfold settleTrn
    repeat' first
      | with_reducible assumption | (with_reducible apply ih) | (simp only [↓keeps_mk, kernel_eta, ← keeps_iff])
      | (with_reducible apply keeps_setTrn) | (with_reducible apply keeps_countFor) | split | dsimp only | intro _

theorem keeps_arriveAt {sz s : State} (t : Nat) (curgen : Bool) (w : Waiter)
    (hk : Keeps sz s) : Keeps sz (arriveAt t curgen w s) := by
  unfold arriveAt
  repeat' first
    | with_reducible assumption | (simp only [↓keeps_mk, kernel_eta, ← keeps_iff])
    | (with_reducible apply keeps_registerWaiter) | (with_reducible apply keeps_countFor)
    | (with_reducible apply keeps_settleTrn) | split | dsimp only | intro _

theorem keeps_admitHeld {sz x1 : State} (x0 : Nat)
    (hk : Keeps sz x1) : Keeps sz (admitHeld x0 x1) := by
  induction x0 generalizing x1 with
  | zero => exact hk
  | succ _ ih =>
    unfold admitHeld
    repeat' first
      | with_reducible assumption | (with_reducible apply ih) | (simp only [↓keeps_mk, kernel_eta, ← keeps_iff])
      | (with_reducible apply keeps_releaseWaiter) | (with_reducible apply keeps_enterWaiter)
      | (with_reducible apply keeps_countFor) | (with_reducible apply keeps_settleTrn) | split | dsimp only
      | intro _

theorem keeps_letIn {sz s : State}
    (hk : Keeps sz s) : Keeps sz (letIn s) := by
  unfold letIn
  repeat' first
    | with_reducible assumption | (simp only [↓keeps_mk, kernel_eta, ← keeps_iff])
    | (with_reducible apply keeps_admitHeld) | split | dsimp only | intro _

theorem keeps_sendTrnOp {sz s : State} (o : Op) (kind t gen n : Nat) (curgen : Bool)
    (hk : Keeps sz s) : Keeps sz (sendTrnOp o kind t gen n curgen s) := by
  unfold sendTrnOp
  repeat' first
    | with_reducible assumption | (simp only [↓keeps_mk, kernel_eta, ← keeps_iff])
    | (with_reducible apply keeps_sendCasc) | (with_reducible apply keeps_sendFence) | split | dsimp only
    | intro _

theorem keeps_doneArrival {sz s : State} (o : Op)
    (hk : Keeps sz s) : Keeps sz (doneArrival o s) := by
  unfold doneArrival
  repeat' first
    | with_reducible assumption | (simp only [↓keeps_mk, kernel_eta, ← keeps_iff])
    | (with_reducible apply keeps_arriveOne) | (with_reducible apply keeps_settleTrn)
    | (with_reducible apply keeps_letIn) | (with_reducible apply keeps_sendTrnOp) | split | dsimp only | intro _

theorem keeps_headerWait {sz s : State} (o : Op)
    (hk : Keeps sz s) : Keeps sz (headerWait o s) := by
  unfold headerWait
  repeat' first
    | with_reducible assumption | (simp only [↓keeps_mk, kernel_eta, ← keeps_iff])
    | (with_reducible apply keeps_updOp) | (with_reducible apply keeps_waitAt) | split | dsimp only | intro _

end Sys2Proof.Machine
end

