-- ==== Sys2Proof/Laws/KeepsPorts.lean ====
section
/-! SUPPORT. What the shared operations of Machine/Ports.lean keep. -/

set_option linter.unusedSimpArgs false
set_option maxRecDepth 4000

namespace Sys2Proof.Machine

theorem keeps_setPort {sz s : State} (m : Nat) (x : MidPort) (hk : Keeps sz s) :
    Keeps sz (setPort s m x) := hk

theorem keeps_putPort {s0 s : State} (m : Nat) (x : MidPort) (hk : Keeps s0 s) : Keeps s0 (putPort s m x) :=
  (keeps_setPort m x hk).trans ⟨rfl, rfl, rfl, List.prefix_append _ _, Nat.le_refl _, id, id⟩

theorem keeps_holdPort {sz s : State} (o : Op) (m : Nat)
    (hk : Keeps sz s) : Keeps sz (holdPort o m s) := by
  unfold holdPort
  repeat' first
    | with_reducible assumption | (simp only [↓keeps_mk, kernel_eta, ← keeps_iff])
    | (with_reducible apply keeps_setPort) | split | dsimp only | intro _

theorem keeps_freePort {sz s : State} (m : Nat)
    (hk : Keeps sz s) : Keeps sz (freePort m s) := by
  unfold freePort
  repeat' first
    | with_reducible assumption | (simp only [↓keeps_mk, kernel_eta, ← keeps_iff])
    | (with_reducible apply keeps_setPort) | split | dsimp only | intro _

theorem keeps_wakeHolder {sz s : State} (m : Nat)
    (hk : Keeps sz s) : Keeps sz (wakeHolder m s) := by
  unfold wakeHolder
  repeat' first
    | with_reducible assumption | (simp only [↓keeps_mk, kernel_eta, ← keeps_iff])
    | (with_reducible apply keeps_updOp) | split | dsimp only | intro _

theorem keeps_popHead {sz s : State} (m : Nat)
    (hk : Keeps sz s) : Keeps sz (popHead m s) := by
  unfold popHead
  repeat' first
    | with_reducible assumption | (simp only [↓keeps_mk, kernel_eta, ← keeps_iff])
    | (with_reducible apply keeps_emit) | (with_reducible apply keeps_putPort)
    | (with_reducible apply keeps_wakeHolder) | split | dsimp only | intro _

theorem keeps_storeWord {sz s : State} (m : Nat) (w : PortWord)
    (hk : Keeps sz s) : Keeps sz (storeWord m w s) := by
  unfold storeWord
  repeat' first
    | with_reducible assumption | (simp only [↓keeps_mk, kernel_eta, ← keeps_iff])
    | (with_reducible apply keeps_putPort) | (with_reducible apply keeps_popHead) | split | dsimp only | intro _

theorem keeps_pushWord {sz s : State} (m : Nat) (w : PortWord)
    (hk : Keeps sz s) : Keeps sz (pushWord m w s) := by
  unfold pushWord
  repeat' first
    | with_reducible assumption | (simp only [↓keeps_mk, kernel_eta, ← keeps_iff])
    | (with_reducible apply keeps_emit) | (with_reducible apply keeps_setPort)
    | (with_reducible apply keeps_wakeHolder) | (with_reducible apply keeps_storeWord) | split | dsimp only
    | intro _

theorem keeps_popWordOp {sz s : State} (m : Nat)
    (hk : Keeps sz s) : Keeps sz (popWordOp m s) := by
  unfold popWordOp
  repeat' first
    | with_reducible assumption | (simp only [↓keeps_mk, kernel_eta, ← keeps_iff])
    | (with_reducible apply keeps_emit) | (with_reducible apply keeps_setPort)
    | (with_reducible apply keeps_popHead) | split | dsimp only | intro _

theorem keeps_refill {sz s : State} (m : Nat)
    (hk : Keeps sz s) : Keeps sz (refill m s) := by
  unfold refill
  repeat' first
    | with_reducible assumption | (simp only [↓keeps_mk, kernel_eta, ← keeps_iff])
    | (with_reducible apply keeps_putPort) | split | dsimp only | intro _

theorem keeps_portStore {sz x1 : State} (w : Who) (r : PortReq) (x0 : List Nat)
    (hk : Keeps sz x1) : Keeps sz (portStore w r x0 x1).2 := by
  induction x0 generalizing x1 with
  | nil =>
    unfold portStore
    repeat' first
      | with_reducible assumption | (simp only [↓keeps_mk, kernel_eta, ← keeps_iff])
      | (with_reducible apply keeps_writeRM) | (refine Keeps.use (by assumption) ?_) | split | dsimp only
      | intro _
  | cons _ _ ih =>
    unfold portStore
    repeat' first
      | with_reducible assumption | (with_reducible apply ih) | (simp only [↓keeps_mk, kernel_eta, ← keeps_iff])
      | (with_reducible apply keeps_writeRM) | (refine Keeps.use (by assumption) ?_) | split | dsimp only
      | intro _

theorem keeps_portFlits {sz s : State} (m : Nat) (w : Who) (r : PortReq)
    (hk : Keeps sz s) : Keeps sz (portFlits m w r s) := by
  unfold portFlits
  repeat' first
    | with_reducible assumption | (simp only [↓keeps_mk, kernel_eta, ← keeps_iff])
    | (with_reducible apply keeps_accessFlits) | split | dsimp only | intro _

theorem keeps_portAccess {sz s : State} (w : Who) (r : PortReq)
    (hk : Keeps sz s) : Keeps sz (portAccess w r s).2 := by
  unfold portAccess
  repeat' first
    | with_reducible assumption | (simp only [↓keeps_mk, kernel_eta, ← keeps_iff])
    | (with_reducible apply keeps_readRM) | (with_reducible apply keeps_portStore)
    | (refine Keeps.use (by assumption) ?_) | split | dsimp only | intro _

theorem keeps_portFail {sz s : State} (m : Nat) (r : PortReq) (w : Who) (e : Stop)
    (hk : Keeps sz s) : Keeps sz (portFail m r w e s) := by
  unfold portFail
  repeat' first
    | with_reducible assumption | (simp only [↓keeps_mk, kernel_eta, ← keeps_iff])
    | (with_reducible apply keeps_emit) | (with_reducible apply keeps_record)
    | (with_reducible apply keeps_recordStop) | split | dsimp only | intro _

theorem keeps_pumpPort {sz x1 : State} (m x0 : Nat)
    (hk : Keeps sz x1) : Keeps sz (pumpPort m x0 x1) := by
  induction x0 generalizing x1 with
  | zero => exact hk
  | succ _ ih =>
    unfold pumpPort
    repeat' first
      | with_reducible assumption | (with_reducible apply ih) | (simp only [↓keeps_mk, kernel_eta, ← keeps_iff])
      | (with_reducible apply keeps_emit) | (with_reducible apply keeps_startWait)
      | (with_reducible apply keeps_setPort) | (with_reducible apply keeps_portFlits)
      | (with_reducible apply keeps_portAccess) | (with_reducible apply keeps_portFail)
      | (refine Keeps.use (by assumption) ?_) | split | dsimp only | intro _

theorem keeps_endUnbind {sz s : State} (m : Nat)
    (hk : Keeps sz s) : Keeps sz (endUnbind m s) := by
  unfold endUnbind
  repeat' first
    | with_reducible assumption | (simp only [↓keeps_mk, kernel_eta, ← keeps_iff])
    | (with_reducible apply keeps_endOp) | (with_reducible refine Keeps.foldl (fun _ _ _ => ?_) _ ?_) | split
    | dsimp only | intro _

theorem keeps_retryPort {sz s : State} (m : Nat)
    (hk : Keeps sz s) : Keeps sz (retryPort m s) := by
  unfold retryPort
  repeat' first
    | with_reducible assumption | (simp only [↓keeps_mk, kernel_eta, ← keeps_iff])
    | (with_reducible apply keeps_pumpPort) | (with_reducible apply keeps_endUnbind) | split | dsimp only
    | intro _

theorem keeps_retryPorts {sz s : State}
    (hk : Keeps sz s) : Keeps sz (retryPorts s) := by
  unfold retryPorts
  repeat' first
    | with_reducible assumption | (simp only [↓keeps_mk, kernel_eta, ← keeps_iff])
    | (with_reducible apply keeps_retryPort) | (with_reducible refine Keeps.foldl (fun _ _ _ => ?_) _ ?_) | split
    | dsimp only | intro _

theorem keeps_failPorts {sz s : State} (test : PortReq → Who → Bool) (status : Nat)
    (hk : Keeps sz s) : Keeps sz (failPorts test status s) := by
  unfold failPorts
  repeat' first
    | with_reducible assumption | (simp only [↓keeps_mk, kernel_eta, ← keeps_iff])
    | (with_reducible apply keeps_setPort) | (with_reducible apply keeps_portFail)
    | (with_reducible apply keeps_retryPort) | (with_reducible refine Keeps.foldl (fun _ _ _ => ?_) _ ?_) | split
    | dsimp only | intro _

end Sys2Proof.Machine
end

