-- ==== Sys2Proof/Laws/KeepsGovernor.lean ====
section
/-! SUPPORT. What the shared operations of Machine/Governor.lean keep. -/

set_option linter.unusedSimpArgs false
set_option maxRecDepth 4000

namespace Sys2Proof.Machine

theorem keeps_applyCap {sz s : State} (watts via : Nat)
    (hk : Keeps sz s) : Keeps sz (applyCap watts via s) := by
  unfold applyCap
  repeat' first
    | with_reducible assumption | (simp only [↓keeps_mk, kernel_eta, ← keeps_iff])
    | (with_reducible apply keeps_record) | split | dsimp only | intro _

theorem keeps_showStage {sz s : State} (hk : Keeps sz s) :
    Keeps sz (showStage s) := hk

theorem keeps_countThermalCycle {sz s : State}
    (hk : Keeps sz s) : Keeps sz (countThermalCycle s) := by
  unfold countThermalCycle
  repeat' first
    | with_reducible assumption | (simp only [↓keeps_mk, kernel_eta, ← keeps_iff]) | split | dsimp only | intro _

theorem keeps_endAllOps {sz s : State} (status : Nat) (hk : Keeps sz s) :
    Keeps sz (endAllOps status s) := hk

theorem keeps_removeVcore {sz s : State}
    (hk : Keeps sz s) : Keeps sz (removeVcore s) := by
  unfold removeVcore
  repeat' first
    | with_reducible assumption | (simp only [↓keeps_mk, kernel_eta, ← keeps_iff])
    | (with_reducible apply keeps_iceCommitOp) | split | dsimp only | intro _

theorem keeps_governorWindowEndOp {sz s : State}
    (hk : Keeps sz s) : Keeps sz (governorWindowEndOp s) := by
  unfold governorWindowEndOp
  repeat' first
    | with_reducible assumption | (simp only [↓keeps_mk, kernel_eta, ← keeps_iff])
    | (with_reducible apply keeps_passTo) | (with_reducible apply keeps_showStage) | split | dsimp only | intro _

end Sys2Proof.Machine
end

