-- ==== Sys2Proof/Laws/KeepsMoraineCmds.lean ====
section
/-! SUPPORT. What the shared operations of Machine/MoraineCmds.lean keep. -/

set_option linter.unusedSimpArgs false
set_option maxRecDepth 4000

namespace Sys2Proof.Machine

theorem keeps_flashMakeRoom {sz x2 : State} (x0 x1 : Nat)
    (hk : Keeps sz x2) : Keeps sz (flashMakeRoom x0 x1 x2) := by
  induction x0 generalizing x1 x2 with
  | zero => exact hk
  | succ _ ih =>
    unfold flashMakeRoom
    repeat' first
      | with_reducible assumption | (with_reducible apply ih) | (simp only [↓keeps_mk, kernel_eta, ← keeps_iff])
      | (with_reducible apply keeps_countErase) | split | dsimp only | intro _

theorem keeps_flashAppend {sz s : State} (r : MorRec)
    (hk : Keeps sz s) : Keeps sz (flashAppend r s) := by
  unfold flashAppend
  repeat' first
    | with_reducible assumption | (simp only [↓keeps_mk, kernel_eta, ← keeps_iff])
    | (with_reducible apply keeps_flashMakeRoom) | split | dsimp only | intro _

theorem keeps_flashClear {sz s : State}
    (hk : Keeps sz s) : Keeps sz (flashClear s) := by
  unfold flashClear
  repeat' first
    | with_reducible assumption | (simp only [↓keeps_mk, kernel_eta, ← keeps_iff]) | split | dsimp only | intro _

theorem keeps_copyOut {sz x3 : State} (w : Who) (x0 x1 : Nat) (x2 : List Byte)
    (hk : Keeps sz x3) : Keeps sz (copyOut w x0 x1 x2 x3).2 := by
  induction x0 generalizing x1 x2 x3 with
  | zero =>
    unfold copyOut
    repeat' first
      | with_reducible assumption | (simp only [↓keeps_mk, kernel_eta, ← keeps_iff])
      | (with_reducible apply keeps_writeRM) | (refine Keeps.use (by assumption) ?_) | split | dsimp only
      | intro _
  | succ _ ih =>
    unfold copyOut
    repeat' first
      | with_reducible assumption | (with_reducible apply ih) | (simp only [↓keeps_mk, kernel_eta, ← keeps_iff])
      | (with_reducible apply keeps_writeRM) | (refine Keeps.use (by assumption) ?_) | split | dsimp only
      | intro _

theorem keeps_copyEnds {sz s : State} (x : CopyWait) (fault : Bool)
    (hk : Keeps sz s) : Keeps sz (copyEnds x fault s) := by
  unfold copyEnds
  repeat' first
    | with_reducible assumption | (simp only [↓keeps_mk, kernel_eta, ← keeps_iff]) | split | dsimp only | intro _

theorem keeps_runCopy {sz s : State} (x : CopyWait)
    (hk : Keeps sz s) : Keeps sz (runCopy x s) := by
  unfold runCopy
  repeat' first
    | with_reducible assumption | (simp only [↓keeps_mk, kernel_eta, ← keeps_iff])
    | (with_reducible apply keeps_recordStop) | (with_reducible apply keeps_startWait)
    | (with_reducible apply keeps_copyOut) | (with_reducible apply keeps_copyEnds)
    | (refine Keeps.use (by assumption) ?_) | split | dsimp only | intro _

theorem keeps_moraineCopyOp {sz s : State}
    (hk : Keeps sz s) : Keeps sz (moraineCopyOp s) := by
  unfold moraineCopyOp
  repeat' first
    | with_reducible assumption | (simp only [↓keeps_mk, kernel_eta, ← keeps_iff])
    | (with_reducible apply keeps_runCopy) | split | dsimp only | intro _

theorem keeps_morCtrlWrite {sz s : State} (v : Nat)
    (hk : Keeps sz s) : Keeps sz (morCtrlWrite v s) := by
  unfold morCtrlWrite
  repeat' first
    | with_reducible assumption | (simp only [↓keeps_mk, kernel_eta, ← keeps_iff])
    | (with_reducible apply keeps_unfreeze) | split | dsimp only | intro _

theorem keeps_morCopyCtrlWrite {sz s : State} (v : Nat)
    (hk : Keeps sz s) : Keeps sz (morCopyCtrlWrite v s) := by
  unfold morCopyCtrlWrite
  repeat' first
    | with_reducible assumption | (simp only [↓keeps_mk, kernel_eta, ← keeps_iff])
    | (with_reducible apply keeps_moraineCopyOp) | split | dsimp only | intro _

theorem keeps_clearWith {sz s1 : State} (t : List Byte)
    (hk : Keeps sz s1) : Keeps sz (clearWith t s1) := by
  unfold clearWith
  repeat' first
    | with_reducible assumption | (simp only [↓keeps_mk, kernel_eta, ← keeps_iff])
    | (with_reducible apply keeps_takeFree) | (with_reducible apply keeps_record)
    | (with_reducible apply keeps_flashClear) | (refine Keeps.use (by assumption) ?_) | split | dsimp only
    | intro _

theorem keeps_readToken {sz s : State} (off : Nat)
    (hk : Keeps sz s) : Keeps sz (readToken off s) := by
  unfold readToken
  repeat' first
    | with_reducible assumption | (simp only [↓keeps_mk, kernel_eta, ← keeps_iff])
    | (with_reducible apply keeps_recordStop) | (with_reducible apply keeps_startWait)
    | (with_reducible apply keeps_readRM) | (with_reducible apply keeps_clearWith)
    | (refine Keeps.use (by assumption) ?_) | split | dsimp only | intro _

theorem keeps_moraineClearOp {sz s : State} (v : Nat)
    (hk : Keeps sz s) : Keeps sz (moraineClearOp v s) := by
  unfold moraineClearOp
  repeat' first
    | with_reducible assumption | (simp only [↓keeps_mk, kernel_eta, ← keeps_iff])
    | (with_reducible apply keeps_readToken) | split | dsimp only | intro _

theorem keeps_retryCopies {sz s : State}
    (hk : Keeps sz s) : Keeps sz (retryCopies s) := by
  unfold retryCopies
  repeat' first
    | with_reducible assumption | (simp only [↓keeps_mk, kernel_eta, ← keeps_iff])
    | (with_reducible apply keeps_runCopy) | (with_reducible apply keeps_readToken)
    | (with_reducible refine Keeps.foldl (fun _ _ _ => ?_) _ ?_) | split | dsimp only | intro _

theorem keeps_iceCalSetOp {sz s : State} (v : Nat)
    (hk : Keeps sz s) : Keeps sz (iceCalSetOp v s) := by
  unfold iceCalSetOp
  repeat' first
    | with_reducible assumption | (simp only [↓keeps_mk, kernel_eta, ← keeps_iff])
    | (with_reducible apply keeps_record) | split | dsimp only | intro _

end Sys2Proof.Machine
end

