-- ==== Sys2Proof/Laws/KeepsMemCtl.lean ====
section
/-! SUPPORT. What the shared operations of Machine/MemCtl.lean keep. -/

set_option linter.unusedSimpArgs false
set_option maxRecDepth 4000

namespace Sys2Proof.Machine

theorem keeps_dataError {sz s : State} (op : Option Nat) (a : Nat)
    (hk : Keeps sz s) : Keeps sz (dataError op a s) := by
  unfold dataError
  repeat' first
    | with_reducible assumption | (simp only [↓keeps_mk, kernel_eta, ← keeps_iff])
    | (with_reducible apply keeps_endOp) | split | dsimp only | intro _

theorem keeps_takeWrite {sz s : State} (a : Nat) (new : List Byte) (enables : Nat)
    (hk : Keeps sz s) : Keeps sz (takeWrite a new enables s) := by
  unfold takeWrite
  repeat' first
    | with_reducible assumption | (simp only [↓keeps_mk, kernel_eta, ← keeps_iff])
    | (with_reducible apply keeps_clearLost) | (with_reducible apply keeps_snoop)
    | (with_reducible apply keeps_writeN) | split | dsimp only | intro _

theorem keeps_cxlRequest {sz s : State} (c : MemCall)
    (hk : Keeps sz s) : Keeps sz (cxlRequest c s) := by
  unfold cxlRequest
  repeat' first
    | with_reducible assumption | (simp only [↓keeps_mk, kernel_eta, ← keeps_iff])
    | (with_reducible apply keeps_setCxl) | (with_reducible apply keeps_emit)
    | (with_reducible apply keeps_countAccess) | (with_reducible apply keeps_dataError)
    | (with_reducible apply keeps_takeWrite) | split | dsimp only | intro _

theorem keeps_offerCxl {sz s : State} (p : Nat)
    (hk : Keeps sz s) : Keeps sz (offerCxl p s) := by
  unfold offerCxl
  repeat' first
    | with_reducible assumption | (simp only [↓keeps_mk, kernel_eta, ← keeps_iff])
    | (with_reducible apply keeps_setCxl) | (with_reducible apply keeps_cxlRequest)
    | (with_reducible refine Keeps.foldl (fun _ _ _ => ?_) _ ?_) | split | dsimp only | intro _

theorem keeps_acceptReq {sz s : State} (k : Nat) (c : MemCall)
    (hk : Keeps sz s) : Keeps sz (acceptReq k c s) := by
  unfold acceptReq
  repeat' first
    | with_reducible assumption | (simp only [↓keeps_mk, kernel_eta, ← keeps_iff])
    | (with_reducible apply keeps_setStack) | (with_reducible apply keeps_countAccess)
    | (with_reducible apply keeps_takeWrite) | split | dsimp only | intro _

theorem keeps_offerReq {sz s : State} (again : Bool) (k : Nat) (c : MemCall)
    (hk : Keeps sz s) : Keeps sz (offerReq again k c s) := by
  unfold offerReq
  repeat' first
    | with_reducible assumption | (simp only [↓keeps_mk, kernel_eta, ← keeps_iff])
    | (with_reducible apply keeps_setStack) | (with_reducible apply keeps_emit)
    | (with_reducible apply keeps_dataError) | (with_reducible apply keeps_acceptReq) | split | dsimp only
    | intro _

theorem keeps_retryIngress {sz s : State} (k : Nat)
    (hk : Keeps sz s) : Keeps sz (retryIngress k s) := by
  unfold retryIngress
  repeat' first
    | with_reducible assumption | (simp only [↓keeps_mk, kernel_eta, ← keeps_iff])
    | (with_reducible apply keeps_setStack) | (with_reducible apply keeps_offerReq)
    | (with_reducible refine Keeps.foldl (fun _ _ _ => ?_) _ ?_) | split | dsimp only | intro _

theorem keeps_memRequestOp {sz s : State} (port addr : Nat) (write : Bool) (data : List Byte) (enables : Nat)
    (close : Bool) (op : Option Nat)
    (hk : Keeps sz s) : Keeps sz (memRequestOp port addr write data enables close op s) := by
  unfold memRequestOp
  repeat' first
    | with_reducible assumption | (simp only [↓keeps_mk, kernel_eta, ← keeps_iff])
    | (with_reducible apply keeps_cxlRequest) | (with_reducible apply keeps_offerReq) | split | dsimp only
    | intro _

theorem keeps_correctedLine {sz s : State} (k pc off : Nat)
    (hk : Keeps sz s) : Keeps sz (correctedLine k pc off s) := by
  unfold correctedLine
  repeat' first
    | with_reducible assumption | (simp only [↓keeps_mk, kernel_eta, ← keeps_iff])
    | (with_reducible apply keeps_setStack) | split | dsimp only | intro _

theorem keeps_readDone {sz s : State} (r : MemReq) (k pc off bad : Nat)
    (hk : Keeps sz s) : Keeps sz (readDone r k pc off bad s) := by
  unfold readDone
  repeat' first
    | with_reducible assumption | (simp only [↓keeps_mk, kernel_eta, ← keeps_iff])
    | (with_reducible apply keeps_takeFree) | (with_reducible apply keeps_emit)
    | (with_reducible apply keeps_uncorrectableKv) | (with_reducible apply keeps_dataError)
    | (with_reducible apply keeps_correctedLine) | (refine Keeps.use (by assumption) ?_) | split | dsimp only
    | intro _

theorem keeps_writeDone {sz s : State} (r : MemReq) (later : List MemReq) (k pc off bad : Nat)
    (hk : Keeps sz s) : Keeps sz (writeDone r later k pc off bad s) := by
  unfold writeDone
  repeat' first
    | with_reducible assumption | (simp only [↓keeps_mk, kernel_eta, ← keeps_iff])
    | (with_reducible apply keeps_takeFree) | (with_reducible apply keeps_uncorrectableKv)
    | (with_reducible apply keeps_dataError) | (with_reducible apply keeps_correctedLine)
    | (refine Keeps.use (by assumption) ?_) | (with_reducible apply keeps_writeN)
    | (with_reducible refine Keeps.foldl (fun _ _ _ => ?_) _ ?_) | split | dsimp only | intro _

theorem keeps_loseStack {sz s : State} (k pc reason : Nat)
    (hk : Keeps sz s) : Keeps sz (loseStack k pc reason s) := by
  unfold loseStack
  repeat' first
    | with_reducible assumption | (simp only [↓keeps_mk, kernel_eta, ← keeps_iff])
    | (with_reducible apply keeps_setStack) | (with_reducible apply keeps_record) | split | dsimp only | intro _

theorem keeps_issueSlotOp {sz s : State} (k : Nat) (busy : List (Nat × Nat)) (bad parity : Nat)
    (hk : Keeps sz s) : Keeps sz (issueSlotOp k busy bad parity s) := by
  unfold issueSlotOp
  repeat' first
    | with_reducible assumption | (simp only [↓keeps_mk, kernel_eta, ← keeps_iff])
    | (with_reducible apply keeps_setStack) | (with_reducible apply keeps_emit)
    | (with_reducible apply keeps_retryIngress) | (with_reducible apply keeps_readDone)
    | (with_reducible apply keeps_writeDone) | (with_reducible apply keeps_loseStack) | split | dsimp only
    | intro _

theorem keeps_refreshOp {sz s : State} (k pc bank : Nat)
    (hk : Keeps sz s) : Keeps sz (refreshOp k pc bank s) := by
  unfold refreshOp
  repeat' first
    | with_reducible assumption | (simp only [↓keeps_mk, kernel_eta, ← keeps_iff])
    | (with_reducible apply keeps_setStack) | split | dsimp only | intro _

theorem keeps_tempReadOp {sz s : State} (k : Nat) (t : Int)
    (hk : Keeps sz s) : Keeps sz (tempReadOp k t s) := by
  unfold tempReadOp
  repeat' first
    | with_reducible assumption | (simp only [↓keeps_mk, kernel_eta, ← keeps_iff])
    | (with_reducible apply keeps_setStack) | split | dsimp only | intro _

theorem keeps_retrainOp {sz s : State} (k pc : Nat) (good : Bool)
    (hk : Keeps sz s) : Keeps sz (retrainOp k pc good s) := by
  unfold retrainOp
  repeat' first
    | with_reducible assumption | (simp only [↓keeps_mk, kernel_eta, ← keeps_iff])
    | (with_reducible apply keeps_setStack) | (with_reducible apply keeps_loseStack) | split | dsimp only
    | intro _

theorem keeps_rowIdleCloseOp {sz s : State} (k pc bank : Nat)
    (hk : Keeps sz s) : Keeps sz (rowIdleCloseOp k pc bank s) := by
  unfold rowIdleCloseOp
  repeat' first
    | with_reducible assumption | (simp only [↓keeps_mk, kernel_eta, ← keeps_iff])
    | (with_reducible apply keeps_setStack) | (with_reducible apply keeps_passTo) | split | dsimp only | intro _

theorem keeps_foundLine {sz s : State} (k pc line bad by_ : Nat)
    (hk : Keeps sz s) : Keeps sz (foundLine k pc line bad by_ s) := by
  unfold foundLine
  repeat' first
    | with_reducible assumption | (simp only [↓keeps_mk, kernel_eta, ← keeps_iff])
    | (with_reducible apply keeps_takeFree) | (with_reducible apply keeps_uncorrectableAt)
    | (with_reducible apply keeps_uncorrectableKv) | (with_reducible apply keeps_correctedLine)
    | (refine Keeps.use (by assumption) ?_) | split | dsimp only | intro _

theorem keeps_patrolOp {sz s : State} (k odeCount : Nat) (found : List (Nat × Nat × Nat))
    (hk : Keeps sz s) : Keeps sz (patrolOp k odeCount found s) := by
  unfold patrolOp
  repeat' first
    | with_reducible assumption | (simp only [↓keeps_mk, kernel_eta, ← keeps_iff])
    | (with_reducible apply keeps_setStack) | (with_reducible apply keeps_foundLine)
    | (with_reducible refine Keeps.foldl (fun _ _ _ => ?_) _ ?_) | split | dsimp only | intro _

theorem keeps_rowRepairOp {sz s : State} (k pc bank row spares : Nat) (badLines : List Nat)
    (hk : Keeps sz s) : Keeps sz (rowRepairOp k pc bank row spares badLines s) := by
  unfold rowRepairOp
  repeat' first
    | with_reducible assumption | (simp only [↓keeps_mk, kernel_eta, ← keeps_iff])
    | (with_reducible apply keeps_setStack) | (with_reducible apply keeps_foundLine)
    | (with_reducible refine Keeps.foldl (fun _ _ _ => ?_) _ ?_) | split | dsimp only | intro _

theorem keeps_agrReject {sz s : State} (kind index result : Nat) (hk : Keeps sz s) :
    Keeps sz (agrReject kind index result s) := hk

theorem keeps_iwinCommitOp {sz s : State} (n : Nat)
    (hk : Keeps sz s) : Keeps sz (iwinCommitOp n s) := by
  unfold iwinCommitOp
  repeat' first
    | with_reducible assumption | (simp only [↓keeps_mk, kernel_eta, ← keeps_iff])
    | (with_reducible apply keeps_setWindow) | (with_reducible apply keeps_agrReject) | split | dsimp only
    | intro _

theorem keeps_iwinApplyOp {sz s : State} (n : Nat)
    (hk : Keeps sz s) : Keeps sz (iwinApplyOp n s) := by
  unfold iwinApplyOp
  repeat' first
    | with_reducible assumption | (simp only [↓keeps_mk, kernel_eta, ← keeps_iff])
    | (with_reducible apply keeps_setWindow) | (with_reducible apply keeps_agrReject) | split | dsimp only
    | intro _

theorem keeps_cxlLinkDownOp {sz s : State} (p : Nat)
    (hk : Keeps sz s) : Keeps sz (cxlLinkDownOp p s) := by
  unfold cxlLinkDownOp
  repeat' first
    | with_reducible assumption | (simp only [↓keeps_mk, kernel_eta, ← keeps_iff])
    | (with_reducible apply keeps_setCxl) | split | dsimp only | intro _

end Sys2Proof.Machine
end

