-- ==== Sys2Proof/Laws/KeepsMmu.lean ====
section
/-! SUPPORT. What the shared operations of Machine/Mmu.lean keep. -/

set_option linter.unusedSimpArgs false
set_option maxRecDepth 4000

namespace Sys2Proof.Machine

theorem keeps_splitAt {sz s : State} (asid a leaf : Nat)
    (hk : Keeps sz s) : Keeps sz (splitAt asid a leaf s) := by
  unfold splitAt
  repeat' first
    | with_reducible assumption | (simp only [↓keeps_mk, kernel_eta, ← keeps_iff]) | split | dsimp only | intro _

theorem keeps_dropHints {sz s : State} (asid lo hi : Nat) (hk : Keeps sz s) :
    Keeps sz (dropHints asid lo hi s) := hk

theorem keeps_cancelRange {sz s : State} (asid lo hi : Nat)
    (hk : Keeps sz s) : Keeps sz (cancelRange asid lo hi s) := by
  unfold cancelRange
  repeat' first
    | with_reducible assumption | (simp only [↓keeps_mk, kernel_eta, ← keeps_iff])
    | (with_reducible apply keeps_cancelMigration) | (with_reducible refine Keeps.foldl (fun _ _ _ => ?_) _ ?_)
    | split | dsimp only | intro _

theorem keeps_mmuEffect {sz s : State} (asid base len leaf op : Nat) (rd wr : Bool)
    (hk : Keeps sz s) : Keeps sz (mmuEffect asid base len leaf op rd wr s) := by
  unfold mmuEffect
  repeat' first
    | with_reducible assumption | (simp only [↓keeps_mk, kernel_eta, ← keeps_iff])
    | (with_reducible apply keeps_splitAt) | (with_reducible apply keeps_dropHints)
    | (with_reducible apply keeps_cancelRange) | split | dsimp only | intro _

theorem keeps_mmuCommand {sz s : State} (g op size : Nat) (rd wr : Bool)
    (hk : Keeps sz s) : Keeps sz (mmuCommand g op size rd wr s) := by
  unfold mmuCommand
  repeat' first
    | with_reducible assumption | (simp only [↓keeps_mk, kernel_eta, ← keeps_iff])
    | (with_reducible apply keeps_setGroup) | (with_reducible apply keeps_mmuEffect) | split | dsimp only
    | intro _

theorem keeps_mmuDone {sz s : State} (g : Nat)
    (hk : Keeps sz s) : Keeps sz (mmuDone g s) := by
  unfold mmuDone
  repeat' first
    | with_reducible assumption | (simp only [↓keeps_mk, kernel_eta, ← keeps_iff])
    | (with_reducible apply keeps_setGroup) | split | dsimp only | intro _

theorem keeps_mapParts {sz s : State} (f : Partn → Partn) (hk : Keeps sz s) :
    Keeps sz (mapParts f s) := hk

theorem keeps_dropHeld {sz s : State} (tag : Nat)
    (hk : Keeps sz s) : Keeps sz (dropHeld tag s) := by
  unfold dropHeld
  repeat' first
    | with_reducible assumption | (simp only [↓keeps_mk, kernel_eta, ← keeps_iff])
    | (with_reducible apply keeps_mapParts) | split | dsimp only | intro _

theorem keeps_endIssued {sz s : State} (tag : Nat) (r : Result)
    (hk : Keeps sz s) : Keeps sz (endIssued tag r s) := by
  unfold endIssued
  repeat' first
    | with_reducible assumption | (simp only [↓keeps_mk, kernel_eta, ← keeps_iff])
    | (with_reducible apply keeps_updOp) | (with_reducible apply keeps_endOp)
    | (with_reducible apply keeps_dropHeld) | split | dsimp only | intro _

theorem keeps_holdSlot {sz s : State} (o : Op) (a : Nat)
    (hk : Keeps sz s) : Keeps sz (holdSlot o a s) := by
  unfold holdSlot
  repeat' first
    | with_reducible assumption | (simp only [↓keeps_mk, kernel_eta, ← keeps_iff])
    | (with_reducible apply keeps_setTile) | (with_reducible apply keeps_record) | split | dsimp only | intro _

theorem keeps_bufferPart {sz s : State} (o : Op)
    (hk : Keeps sz s) : Keeps sz (bufferPart o s) := by
  unfold bufferPart
  repeat' first
    | with_reducible assumption | (simp only [↓keeps_mk, kernel_eta, ← keeps_iff])
    | (with_reducible apply keeps_setFloe) | split | dsimp only | intro _

theorem keeps_stopOp {sz s : State} (tag : Nat) (e : Stop) (write : Bool)
    (hk : Keeps sz s) : Keeps sz (stopOp tag e write s) := by
  unfold stopOp
  repeat' first
    | with_reducible assumption | (simp only [↓keeps_mk, kernel_eta, ← keeps_iff])
    | (with_reducible apply keeps_record) | (with_reducible apply keeps_updOp)
    | (with_reducible apply keeps_recordStop) | (with_reducible apply keeps_startWait)
    | (with_reducible apply keeps_endIssued) | (with_reducible apply keeps_holdSlot)
    | (with_reducible apply keeps_bufferPart) | split | dsimp only | intro _

theorem keeps_stopQueue {sz s : State} (q status addr : Nat)
    (hk : Keeps sz s) : Keeps sz (stopQueue q status addr s) := by
  unfold stopQueue
  repeat' first
    | with_reducible assumption | (simp only [↓keeps_mk, kernel_eta, ← keeps_iff])
    | (with_reducible apply keeps_setQueue) | (with_reducible apply keeps_record) | split | dsimp only | intro _

theorem keeps_rejectCommit {sz s : State} (g code : Nat)
    (hk : Keeps sz s) : Keeps sz (rejectCommit g code s) := by
  unfold rejectCommit
  repeat' first
    | with_reducible assumption | (simp only [↓keeps_mk, kernel_eta, ← keeps_iff])
    | (with_reducible apply keeps_setGroup) | (with_reducible apply keeps_agrReject) | split | dsimp only
    | intro _

theorem keeps_refuseTables {sz s : State} (test : Who → Nat → Bool)
    (hk : Keeps sz s) : Keeps sz (refuseTables test s) := by
  unfold refuseTables
  repeat' first
    | with_reducible assumption | (simp only [↓keeps_mk, kernel_eta, ← keeps_iff])
    | (with_reducible apply keeps_recordFault) | (with_reducible apply keeps_rejectCommit)
    | (with_reducible refine Keeps.foldl (fun _ _ _ => ?_) _ ?_) | split | dsimp only | intro _

theorem keeps_refuseHostPage {sz s : State} (func pasid page : Nat) (rd wr : Bool)
    (hk : Keeps sz s) : Keeps sz (refuseHostPage func pasid page rd wr s) := by
  unfold refuseHostPage
  repeat' first
    | with_reducible assumption | (simp only [↓keeps_mk, kernel_eta, ← keeps_iff])
    | (with_reducible apply keeps_failPorts) | (with_reducible apply keeps_stopOp)
    | (with_reducible apply keeps_stopQueue) | (with_reducible apply keeps_refuseTables)
    | (with_reducible refine Keeps.foldl (fun _ _ _ => ?_) _ ?_) | split | dsimp only | intro _

theorem keeps_failHostPage {sz s : State} (func pasid page : Nat)
    (hk : Keeps sz s) : Keeps sz (failHostPage func pasid page s) := by
  unfold failHostPage
  repeat' first
    | with_reducible assumption | (simp only [↓keeps_mk, kernel_eta, ← keeps_iff])
    | (with_reducible apply keeps_refuseHostPage) | split | dsimp only | intro _

theorem keeps_sendHeldPri {sz s : State} (func : Nat)
    (hk : Keeps sz s) : Keeps sz (sendHeldPri func s) := by
  unfold sendHeldPri
  repeat' first
    | with_reducible assumption | (simp only [↓keeps_mk, kernel_eta, ← keeps_iff])
    | (with_reducible apply keeps_emit) | split | dsimp only | intro _

theorem keeps_atsPut {sz s : State} (e : AtsEntry)
    (hk : Keeps sz s) : Keeps sz (atsPut e s) := by
  unfold atsPut
  repeat' first
    | with_reducible assumption | (simp only [↓keeps_mk, kernel_eta, ← keeps_iff]) | split | dsimp only | intro _

theorem keeps_atsArrive {sz s : State} (e : AtsEntry)
    (hk : Keeps sz s) : Keeps sz (atsArrive e s) := by
  unfold atsArrive
  repeat' first
    | with_reducible assumption | (simp only [↓keeps_mk, kernel_eta, ← keeps_iff])
    | (with_reducible apply keeps_atsPut) | (with_reducible refine Keeps.foldl (fun _ _ _ => ?_) _ ?_) | split
    | dsimp only | intro _

theorem keeps_retryHostPage {sz s : State} (func pasid page : Nat)
    (hk : Keeps sz s) : Keeps sz (retryHostPage func pasid page s) := by
  unfold retryHostPage
  repeat' first
    | with_reducible assumption | (simp only [↓keeps_mk, kernel_eta, ← keeps_iff])
    | (with_reducible apply keeps_setQueue) | (with_reducible apply keeps_wakeOps)
    | (with_reducible apply keeps_retryPorts) | (with_reducible refine Keeps.foldl (fun _ _ _ => ?_) _ ?_) | split
    | dsimp only | intro _

theorem keeps_priAnswer {sz s : State} (func pasid page code : Nat) (rd wr : Bool)
    (hk : Keeps sz s) : Keeps sz (priAnswer func pasid page code rd wr s) := by
  unfold priAnswer
  repeat' first
    | with_reducible assumption | (simp only [↓keeps_mk, kernel_eta, ← keeps_iff])
    | (with_reducible apply keeps_setFunc) | (with_reducible apply keeps_emit)
    | (with_reducible apply keeps_refuseHostPage) | (with_reducible apply keeps_failHostPage)
    | (with_reducible apply keeps_sendHeldPri) | (with_reducible apply keeps_atsArrive)
    | (with_reducible apply keeps_retryHostPage) | (with_reducible refine Keeps.foldl (fun _ _ _ => ?_) _ ?_)
    | split | dsimp only | intro _

theorem keeps_priExpire {sz s : State} (func pasid page : Nat)
    (hk : Keeps sz s) : Keeps sz (priExpire func pasid page s) := by
  unfold priExpire
  repeat' first
    | with_reducible assumption | (simp only [↓keeps_mk, kernel_eta, ← keeps_iff])
    | (with_reducible apply keeps_passTo) | (with_reducible apply keeps_failHostPage)
    | (with_reducible apply keeps_sendHeldPri) | split | dsimp only | intro _

theorem keeps_bar2Fault {sz s : State} (write : Bool) (offset : Nat) (e : Stop)
    (hk : Keeps sz s) : Keeps sz (bar2Fault write offset e s) := by
  unfold bar2Fault
  repeat' first
    | with_reducible assumption | (simp only [↓keeps_mk, kernel_eta, ← keeps_iff])
    | (with_reducible apply keeps_record) | (with_reducible apply keeps_recordStop) | split | dsimp only | intro _

theorem keeps_completerAbort {sz s : State}
    (hk : Keeps sz s) : Keeps sz (completerAbort s) := by
  unfold completerAbort
  repeat' first
    | with_reducible assumption | (simp only [↓keeps_mk, kernel_eta, ← keeps_iff])
    | (with_reducible apply keeps_setFunc) | (with_reducible apply keeps_emit) | split | dsimp only | intro _

theorem keeps_bar2Access {sz s : State} (offset len : Nat) (data : Option (List Byte))
    (hk : Keeps sz s) : Keeps sz (bar2Access offset len data s) := by
  unfold bar2Access
  repeat' first
    | with_reducible assumption | (simp only [↓keeps_mk, kernel_eta, ← keeps_iff])
    | (with_reducible apply keeps_emit) | (with_reducible apply keeps_startWait)
    | (with_reducible apply keeps_readRM) | (with_reducible apply keeps_writeRM)
    | (with_reducible apply keeps_accessFlits) | (with_reducible apply keeps_bar2Fault)
    | (with_reducible apply keeps_completerAbort) | (refine Keeps.use (by assumption) ?_) | split | dsimp only
    | intro _

theorem keeps_retryBar2 {sz s : State}
    (hk : Keeps sz s) : Keeps sz (retryBar2 s) := by
  unfold retryBar2
  repeat' first
    | with_reducible assumption | (simp only [↓keeps_mk, kernel_eta, ← keeps_iff])
    | (with_reducible apply keeps_bar2Access) | (with_reducible refine Keeps.foldl (fun _ _ _ => ?_) _ ?_) | split
    | dsimp only | intro _

theorem keeps_bar2ReadOp {sz s : State} (offset len : Nat)
    (hk : Keeps sz s) : Keeps sz (bar2ReadOp offset len s) := by
  unfold bar2ReadOp
  repeat' first
    | with_reducible assumption | (simp only [↓keeps_mk, kernel_eta, ← keeps_iff])
    | (with_reducible apply keeps_completerAbort) | (with_reducible apply keeps_bar2Access) | split | dsimp only
    | intro _

theorem keeps_bar2WriteOp {sz s : State} (offset : Nat) (data : List Byte)
    (hk : Keeps sz s) : Keeps sz (bar2WriteOp offset data s) := by
  unfold bar2WriteOp
  repeat' first
    | with_reducible assumption | (simp only [↓keeps_mk, kernel_eta, ← keeps_iff])
    | (with_reducible apply keeps_bar2Access) | split | dsimp only | intro _

theorem keeps_retryDeviceRings {sz s : State} (hk : Keeps sz s) :
    Keeps sz (retryDeviceRings s) := hk

theorem keeps_retryDevice {sz s : State}
    (hk : Keeps sz s) : Keeps sz (retryDevice s) := by
  unfold retryDevice
  repeat' first
    | with_reducible assumption | (simp only [↓keeps_mk, kernel_eta, ← keeps_iff])
    | (with_reducible apply keeps_retryPorts) | (with_reducible apply keeps_retryCopies)
    | (with_reducible apply keeps_retryBar2) | (with_reducible apply keeps_retryDeviceRings) | split | dsimp only
    | intro _

theorem keeps_cxlLinkRetrainedOp {sz s : State} (p width rate : Nat)
    (hk : Keeps sz s) : Keeps sz (cxlLinkRetrainedOp p width rate s) := by
  unfold cxlLinkRetrainedOp
  repeat' first
    | with_reducible assumption | (simp only [↓keeps_mk, kernel_eta, ← keeps_iff])
    | (with_reducible apply keeps_setCxl) | (with_reducible apply keeps_wakeOps)
    | (with_reducible apply keeps_offerCxl) | (with_reducible apply keeps_retryDevice) | split | dsimp only
    | intro _

theorem keeps_cxlRetrainTimeoutOp {sz s : State} (p : Nat)
    (hk : Keeps sz s) : Keeps sz (cxlRetrainTimeoutOp p s) := by
  unfold cxlRetrainTimeoutOp
  repeat' first
    | with_reducible assumption | (simp only [↓keeps_mk, kernel_eta, ← keeps_iff])
    | (with_reducible apply keeps_setCxl) | (with_reducible apply keeps_passTo)
    | (with_reducible apply keeps_record) | (with_reducible apply keeps_cancelMigration)
    | (with_reducible apply keeps_offerCxl) | (with_reducible apply keeps_stopOp)
    | (with_reducible apply keeps_retryDevice) | (with_reducible refine Keeps.foldl (fun _ _ _ => ?_) _ ?_)
    | split | dsimp only | intro _

end Sys2Proof.Machine
end

