-- ==== Sys2Proof/Laws/KeepsHostIf.lean ====
section
/-! SUPPORT. What the shared operations of Machine/HostIf.lean keep. -/

set_option linter.unusedSimpArgs false
set_option maxRecDepth 4000

namespace Sys2Proof.Machine

theorem keeps_dropDoorbell {sz s : State} (q reason : Nat) (hk : Keeps sz s) :
    Keeps sz (dropDoorbell q reason s) := hk

theorem keeps_doorbellOp {sz s : State} (func q size v : Nat)
    (hk : Keeps sz s) : Keeps sz (doorbellOp func q size v s) := by
  unfold doorbellOp
  repeat' first
    | with_reducible assumption | (simp only [↓keeps_mk, kernel_eta, ← keeps_iff])
    | (with_reducible apply keeps_setQueue) | (with_reducible apply keeps_dropDoorbell) | split | dsimp only
    | intro _

theorem keeps_checkTable {sz s : State} (g : Nat) (c : GroupCfg)
    (hk : Keeps sz s) : Keeps sz (checkTable g c s) := by
  unfold checkTable
  repeat' first
    | with_reducible assumption | (simp only [↓keeps_mk, kernel_eta, ← keeps_iff])
    | (with_reducible apply keeps_setGroup) | (with_reducible apply keeps_recordStop)
    | (with_reducible apply keeps_startWait) | (with_reducible apply keeps_readRM)
    | (with_reducible apply keeps_rejectCommit) | (refine Keeps.use (by assumption) ?_) | split | dsimp only
    | intro _

theorem keeps_qgpCommitOp {sz s : State} (g : Nat)
    (hk : Keeps sz s) : Keeps sz (qgpCommitOp g s) := by
  unfold qgpCommitOp
  repeat' first
    | with_reducible assumption | (simp only [↓keeps_mk, kernel_eta, ← keeps_iff])
    | (with_reducible apply keeps_rejectCommit) | (with_reducible apply keeps_checkTable) | split | dsimp only
    | intro _

theorem keeps_applyEntry {sz s : State} (q : Nat) (e : QEntry)
    (hk : Keeps sz s) : Keeps sz (applyEntry q e s) := by
  unfold applyEntry
  repeat' first
    | with_reducible assumption | (simp only [↓keeps_mk, kernel_eta, ← keeps_iff])
    | (with_reducible apply keeps_setQueue) | split | dsimp only | intro _

theorem keeps_restartWatchers {sz s : State} (g : Nat) (busy : Bool)
    (hk : Keeps sz s) : Keeps sz (restartWatchers g busy s) := by
  unfold restartWatchers
  repeat' first
    | with_reducible assumption | (simp only [↓keeps_mk, kernel_eta, ← keeps_iff]) | split | dsimp only | intro _

theorem keeps_qgpApplyOp {sz s : State} (g : Nat)
    (hk : Keeps sz s) : Keeps sz (qgpApplyOp g s) := by
  unfold qgpApplyOp
  repeat' first
    | with_reducible assumption | (simp only [↓keeps_mk, kernel_eta, ← keeps_iff])
    | (with_reducible apply keeps_setGroup) | (with_reducible apply keeps_setQueue)
    | (with_reducible apply keeps_checkTable) | (with_reducible apply keeps_applyEntry)
    | (with_reducible apply keeps_restartWatchers) | (with_reducible refine Keeps.foldl (fun _ _ _ => ?_) _ ?_)
    | split | dsimp only | intro _

theorem keeps_abortQueue {sz s : State} (q : Nat)
    (hk : Keeps sz s) : Keeps sz (abortQueue q s) := by
  unfold abortQueue
  repeat' first
    | with_reducible assumption | (simp only [↓keeps_mk, kernel_eta, ← keeps_iff])
    | (with_reducible apply keeps_setQueue) | (with_reducible apply keeps_endOp)
    | (with_reducible apply keeps_letIn) | (with_reducible refine Keeps.foldl (fun _ _ _ => ?_) _ ?_) | split
    | dsimp only | intro _

theorem keeps_sendQueueIrq {sz s : State} (q : Nat)
    (hk : Keeps sz s) : Keeps sz (sendQueueIrq q s) := by
  unfold sendQueueIrq
  repeat' first
    | with_reducible assumption | (simp only [↓keeps_mk, kernel_eta, ← keeps_iff])
    | (with_reducible apply keeps_setQueue) | (with_reducible apply keeps_sendMsix) | split | dsimp only | intro _

theorem keeps_countIrq {sz s : State} (q : Nat) (irqBit : Bool)
    (hk : Keeps sz s) : Keeps sz (countIrq q irqBit s) := by
  unfold countIrq
  repeat' first
    | with_reducible assumption | (simp only [↓keeps_mk, kernel_eta, ← keeps_iff])
    | (with_reducible apply keeps_setQueue) | (with_reducible apply keeps_sendQueueIrq) | split | dsimp only
    | intro _

theorem keeps_configWrite {sz s : State} (func item v : Nat)
    (hk : Keeps sz s) : Keeps sz (configWrite func item v s) := by
  unfold configWrite
  repeat' first
    | with_reducible assumption | (simp only [↓keeps_mk, kernel_eta, ← keeps_iff])
    | (with_reducible apply keeps_setFunc) | (with_reducible apply keeps_sendPending)
    | (with_reducible apply keeps_sendHeldPri) | split | dsimp only | intro _

theorem keeps_hostLaneFailOp {sz s : State} (width : Nat)
    (hk : Keeps sz s) : Keeps sz (hostLaneFailOp width s) := by
  unfold hostLaneFailOp
  repeat' first
    | with_reducible assumption | (simp only [↓keeps_mk, kernel_eta, ← keeps_iff])
    | (with_reducible apply keeps_record) | split | dsimp only | intro _

theorem keeps_hostLinkUpOp {sz s : State} (width rate : Nat) (flit : Bool)
    (hk : Keeps sz s) : Keeps sz (hostLinkUpOp width rate flit s) := by
  unfold hostLinkUpOp
  repeat' first
    | with_reducible assumption | (simp only [↓keeps_mk, kernel_eta, ← keeps_iff])
    | (with_reducible apply keeps_wakeOps) | (with_reducible apply keeps_retryPorts) | split | dsimp only
    | intro _

theorem keeps_hostLinkLossOp {sz s : State}
    (hk : Keeps sz s) : Keeps sz (hostLinkLossOp s) := by
  unfold hostLinkLossOp
  repeat' first
    | with_reducible assumption | (simp only [↓keeps_mk, kernel_eta, ← keeps_iff])
    | (with_reducible apply keeps_failPorts) | (with_reducible apply keeps_endIssued)
    | (with_reducible apply keeps_stopQueue) | (with_reducible apply keeps_refuseTables)
    | (with_reducible refine Keeps.foldl (fun _ _ _ => ?_) _ ?_) | split | dsimp only | intro _

end Sys2Proof.Machine
end

