-- ==== Sys2Proof/Laws/KeepsFlags.lean ====
section
/-! SUPPORT. What the shared operations of Machine/Flags.lean keep. -/

set_option linter.unusedSimpArgs false
set_option maxRecDepth 4000

namespace Sys2Proof.Machine

theorem keeps_flagElem {sz s : State} (tag pos fl k : Nat)
    (hk : Keeps sz s) : Keeps sz (flagElem tag pos fl k s) := by
  unfold flagElem
  repeat' first
    | with_reducible assumption | (simp only [↓keeps_mk, kernel_eta, ← keeps_iff])
    | (with_reducible apply keeps_updOp) | split | dsimp only | intro _

end Sys2Proof.Machine
end

