-- ==== Sys2Proof/Laws/KeepsOperands.lean ====
section
/-! SUPPORT. What the shared operations of Machine/Operands.lean keep. -/

set_option linter.unusedSimpArgs false
set_option maxRecDepth 4000

namespace Sys2Proof.Machine

theorem keeps_addInOrder {sz s : State} (acc : XVal) (terms : List XVal) (x0 : Nat)
    (hk : Keeps sz s) : Keeps sz (addInOrder acc terms s x0).2 := by
  induction x0 generalizing acc terms s with
  | zero =>
    unfold addInOrder
    repeat' first
      | with_reducible assumption | (simp only [↓keeps_mk, kernel_eta, ← keeps_iff])
      | (with_reducible apply keeps_takeFree) | (refine Keeps.use (by assumption) ?_) | split | dsimp only
      | intro _
  | succ _ ih =>
    unfold addInOrder
    repeat' first
      | with_reducible assumption | (with_reducible apply ih) | (simp only [↓keeps_mk, kernel_eta, ← keeps_iff])
      | (with_reducible apply keeps_takeFree) | (refine Keeps.use (by assumption) ?_) | split | dsimp only
      | intro _

theorem keeps_openSum {sz s : State} (codes : List Nat)
    (hk : Keeps sz s) : Keeps sz (openSum codes s).2 := by
  unfold openSum
  repeat' first
    | with_reducible assumption | (simp only [↓keeps_mk, kernel_eta, ← keeps_iff])
    | (with_reducible apply keeps_addInOrder) | (refine Keeps.use (by assumption) ?_)
    | (with_reducible refine Keeps.foldl (fun _ _ _ => ?_) _ ?_)
    | (with_reducible refine Keeps.foldl_snd (fun _ _ _ => ?_) _ ?_) | split | dsimp only | intro _

theorem keeps_statsBytes {sz s : State} (t : Tensor) (complete : Bool) (st : Stats)
    (hk : Keeps sz s) : Keeps sz (statsBytes t complete st s).2 := by
  unfold statsBytes
  repeat' first
    | with_reducible assumption | (simp only [↓keeps_mk, kernel_eta, ← keeps_iff])
    | (with_reducible apply keeps_openSum) | (refine Keeps.use (by assumption) ?_) | split | dsimp only | intro _

theorem keeps_writeAll {sz s : State} (w : Who) (l : List (Nat × Bool × List Byte))
    (hk : Keeps sz s) : KeepsE sz (writeAll w l s) := by
  unfold writeAll
  repeat' first
    | with_reducible assumption | (simp only [↓keeps_mk, kernel_eta, ← keeps_iff])
    | (with_reducible apply keeps_storeV) | (with_reducible refine Keeps.foldl (fun _ _ _ => ?_) _ ?_)
    | (with_reducible exact KeepsE.error) | (with_reducible refine KeepsE.ok ?_)
    | (with_reducible refine KeepsE.mapError ?_) | (with_reducible refine KeepsE.map ?_ (fun _ _ => ?_)) | split
    | dsimp only | intro _

theorem keeps_updStats {sz s : State} (tag i : Nat) (f : Stats → Stats)
    (hk : Keeps sz s) : Keeps sz (updStats tag i f s) := by
  unfold updStats
  repeat' first
    | with_reducible assumption | (simp only [↓keeps_mk, kernel_eta, ← keeps_iff])
    | (with_reducible apply keeps_updOp) | split | dsimp only | intro _

theorem keeps_keepOld {sz s : State} (tag : Nat) (l : List (Nat × Bool × List Byte))
    (hk : Keeps sz s) : Keeps sz (keepOld tag l s) := by
  unfold keepOld
  repeat' first
    | with_reducible assumption | (simp only [↓keeps_mk, kernel_eta, ← keeps_iff])
    | (with_reducible apply keeps_setOp) | (with_reducible refine Keeps.foldl (fun _ _ _ => ?_) _ ?_) | split
    | dsimp only | intro _

theorem keeps_Op.original {sz s : State} (o : Op)
    (hk : Keeps sz s) : Keeps sz (Op.original o s) := by
  unfold Op.original
  repeat' first
    | with_reducible assumption | (simp only [↓keeps_mk, kernel_eta, ← keeps_iff])
    | (with_reducible apply keeps_storeV) | (with_reducible refine Keeps.foldl (fun _ _ _ => ?_) _ ?_) | split
    | dsimp only | intro _

theorem keeps_deliverBy {sz s : State} (write : List (Nat × Bool × List Byte) → State → Except Stop State)
    (note : Nat → Nat → Nat → State → State) (tag arith statIx l : Nat) (t : Tensor) (vs : List (XVal × Nat × Nat))
    (hwrite : ∀ y0 y1, Keeps sz y1 → KeepsE sz (write y0 y1))
    (hnote : ∀ y0 y1 y2 y3, Keeps sz y3 → Keeps sz (note y0 y1 y2 y3)) (hk : Keeps sz s) : KeepsE sz
    (deliverBy write note tag arith statIx l t vs s) := by
  unfold deliverBy
  repeat' first
    | with_reducible assumption | (with_reducible apply hwrite) | (refine (hwrite _ _ ?_) _ (by assumption))
    | (with_reducible apply hnote) | (simp only [↓keeps_mk, kernel_eta, ← keeps_iff])
    | (with_reducible apply keeps_updStats) | (with_reducible refine Keeps.foldl (fun _ _ _ => ?_) _ ?_)
    | (with_reducible exact KeepsE.error) | (with_reducible refine KeepsE.ok ?_)
    | (with_reducible refine KeepsE.mapError ?_) | (with_reducible refine KeepsE.map ?_ (fun _ _ => ?_)) | split
    | dsimp only | intro _

theorem keeps_deliverWith {sz s : State} (note : Nat → Nat → Nat → State → State) (tag : Nat) (w : Who)
    (arith statIx l : Nat) (t : Tensor) (vs : List (XVal × Nat × Nat))
    (hnote : ∀ y0 y1 y2 y3, Keeps sz y3 → Keeps sz (note y0 y1 y2 y3)) (hk : Keeps sz s) : KeepsE sz
    (deliverWith note tag w arith statIx l t vs s) := by
  unfold deliverWith
  repeat' first
    | with_reducible assumption | (with_reducible apply hnote) | (simp only [↓keeps_mk, kernel_eta, ← keeps_iff])
    | (with_reducible apply keeps_writeAll) | (with_reducible apply keeps_keepOld)
    | (with_reducible apply keeps_deliverBy) | (refine KeepsE.use (by assumption) ?_)
    | (with_reducible exact KeepsE.error) | (with_reducible refine KeepsE.ok ?_)
    | (with_reducible refine KeepsE.mapError ?_) | (with_reducible refine KeepsE.map ?_ (fun _ _ => ?_)) | split
    | dsimp only | intro _

theorem keeps_deliver {sz s : State} (tag : Nat) (w : Who) (arith statIx l : Nat) (t : Tensor)
    (vs : List (XVal × Nat × Nat))
    (hk : Keeps sz s) : KeepsE sz (deliver tag w arith statIx l t vs s) := by
  unfold deliver
  repeat' first
    | with_reducible assumption | (simp only [↓keeps_mk, kernel_eta, ← keeps_iff])
    | (with_reducible apply keeps_flagElem) | (with_reducible apply keeps_deliverWith)
    | (refine KeepsE.use (by assumption) ?_) | (with_reducible exact KeepsE.error)
    | (with_reducible refine KeepsE.ok ?_) | (with_reducible refine KeepsE.mapError ?_)
    | (with_reducible refine KeepsE.map ?_ (fun _ _ => ?_)) | split | dsimp only | intro _

theorem keeps_driveBy {sz x1 : State} (tag total : Nat) (len : Nat → Nat)
    (act : Op → Nat → Nat → State → Except (Stop × Bool) State) (x0 : Nat)
    (hact : ∀ y0 y1 y2 y3, Keeps sz y3 → KeepsE sz (act y0 y1 y2 y3)) (hk : Keeps sz x1) : Keeps sz
    (driveBy tag total len act x0 x1) := by
  induction x0 generalizing x1 with
  | zero => exact hk
  | succ _ ih =>
    unfold driveBy
    repeat' first
      | with_reducible assumption | (with_reducible apply ih) | (with_reducible apply hact)
      | (refine (hact _ _ _ _ ?_) _ (by assumption)) | (simp only [↓keeps_mk, kernel_eta, ← keeps_iff])
      | (with_reducible apply keeps_updOp) | (with_reducible apply keeps_endOp)
      | (with_reducible apply keeps_stopOp) | (with_reducible exact KeepsE.error)
      | (with_reducible refine KeepsE.ok ?_) | (with_reducible refine KeepsE.mapError ?_)
      | (with_reducible refine KeepsE.map ?_ (fun _ _ => ?_)) | split | dsimp only | intro _

theorem keeps_actVal {sz s : State} (tag : Nat) (t : Tensor) (arith : Nat)
    (val : State → Op → Nat → Except Stop (XVal × Nat × Nat)) (o : Op) (l n : Nat)
    (hk : Keeps sz s) : KeepsE sz (actVal tag t arith val o l n s) := by
  unfold actVal
  repeat' first
    | with_reducible assumption | (simp only [↓keeps_mk, kernel_eta, ← keeps_iff])
    | (with_reducible apply keeps_deliver) | (refine KeepsE.use (by assumption) ?_)
    | (with_reducible exact KeepsE.error) | (with_reducible refine KeepsE.ok ?_)
    | (with_reducible refine KeepsE.mapError ?_) | (with_reducible refine KeepsE.map ?_ (fun _ _ => ?_)) | split
    | dsimp only | intro _

theorem keeps_drive {sz s : State} (tag : Nat) (t : Tensor) (arith : Nat)
    (val : State → Op → Nat → Except Stop (XVal × Nat × Nat))
    (hk : Keeps sz s) : Keeps sz (drive tag t arith val s) := by
  unfold drive
  repeat' first
    | with_reducible assumption | (simp only [↓keeps_mk, kernel_eta, ← keeps_iff])
    | (with_reducible apply keeps_driveBy) | (with_reducible apply keeps_actVal)
    | (refine KeepsE.use (by assumption) ?_) | (with_reducible exact KeepsE.error)
    | (with_reducible refine KeepsE.ok ?_) | (with_reducible refine KeepsE.mapError ?_)
    | (with_reducible refine KeepsE.map ?_ (fun _ _ => ?_)) | split | dsimp only | intro _

theorem keeps_refuseOp {sz s : State} (tag status : Nat)
    (hk : Keeps sz s) : Keeps sz (refuseOp tag status s) := by
  unfold refuseOp
  repeat' first
    | with_reducible assumption | (simp only [↓keeps_mk, kernel_eta, ← keeps_iff])
    | (with_reducible apply keeps_updOp) | (with_reducible apply keeps_endOp) | split | dsimp only | intro _

theorem keeps_beginOp {sz s : State} (o : Op)
    (hk : Keeps sz s) : Keeps sz (beginOp o s) := by
  unfold beginOp
  repeat' first
    | with_reducible assumption | (simp only [↓keeps_mk, kernel_eta, ← keeps_iff])
    | (with_reducible apply keeps_setOp) | (with_reducible apply keeps_leaveBuffers)
    | (with_reducible apply keeps_markWork) | split | dsimp only | intro _

theorem keeps_runWhen {sz s : State} (tag : Nat) (p : Op → Bool) (f : Op → State → State)
    (hf : ∀ y0 y1, Keeps sz y1 → Keeps sz (f y0 y1)) (hk : Keeps sz s) : Keeps sz (runWhen tag p f s) := by
  unfold runWhen
  repeat' first
    | with_reducible assumption | (with_reducible apply hf) | (simp only [↓keeps_mk, kernel_eta, ← keeps_iff])
    | (with_reducible apply keeps_beginOp) | split | dsimp only | intro _

theorem keeps_runOp {sz s : State} (tag : Nat) (codes : List Nat) (f : Op → State → State)
    (hf : ∀ y0 y1, Keeps sz y1 → Keeps sz (f y0 y1)) (hk : Keeps sz s) : Keeps sz (runOp tag codes f s) := by
  unfold runOp
  repeat' first
    | with_reducible assumption | (with_reducible apply hf) | (simp only [↓keeps_mk, kernel_eta, ← keeps_iff])
    | (with_reducible apply keeps_runWhen) | split | dsimp only | intro _

end Sys2Proof.Machine
end

