-- ==== Sys2Proof/Laws/KeepsMoves.lean ====
section
/-! SUPPORT. What the shared operations of Machine/Moves.lean keep. -/

set_option linter.unusedSimpArgs false
set_option maxRecDepth 4000

namespace Sys2Proof.Machine

theorem keeps_copyPlain {sz s : State} (tag : Nat) (a b : Tensor) (o : Op) (i l : Nat)
    (hk : Keeps sz s) : KeepsE sz (copyPlain tag a b o i l s) := by
  unfold copyPlain
  repeat' first
    | with_reducible assumption | (simp only [↓keeps_mk, kernel_eta, ← keeps_iff])
    | (with_reducible apply keeps_writeAll) | (with_reducible apply keeps_updStats)
    | (with_reducible apply keeps_keepOld) | (refine KeepsE.use (by assumption) ?_)
    | (with_reducible exact KeepsE.error) | (with_reducible refine KeepsE.ok ?_)
    | (with_reducible refine KeepsE.mapError ?_) | (with_reducible refine KeepsE.map ?_ (fun _ _ => ?_)) | split
    | dsimp only | intro _

theorem keeps_putBlock {sz s : State} (tag : Nat) (a b : Tensor) (o : Op) (l sc : Nat) (cs : List Nat)
    (hk : Keeps sz s) : KeepsE sz (putBlock tag a b o l sc cs s) := by
  unfold putBlock
  repeat' first
    | with_reducible assumption | (simp only [↓keeps_mk, kernel_eta, ← keeps_iff])
    | (with_reducible apply keeps_writeAll) | (with_reducible apply keeps_updStats)
    | (with_reducible apply keeps_keepOld) | (refine KeepsE.use (by assumption) ?_)
    | (with_reducible refine Keeps.foldl (fun _ _ _ => ?_) _ ?_) | (with_reducible exact KeepsE.error)
    | (with_reducible refine KeepsE.ok ?_) | (with_reducible refine KeepsE.mapError ?_)
    | (with_reducible refine KeepsE.map ?_ (fun _ _ => ?_)) | split | dsimp only | intro _

theorem keeps_copyBlock {sz s : State} (tag : Nat) (a b : Tensor) (o : Op) (l n : Nat)
    (hk : Keeps sz s) : KeepsE sz (copyBlock tag a b o l n s) := by
  unfold copyBlock
  repeat' first
    | with_reducible assumption | (simp only [↓keeps_mk, kernel_eta, ← keeps_iff])
    | (with_reducible apply keeps_putBlock) | (refine KeepsE.use (by assumption) ?_)
    | (with_reducible exact KeepsE.error) | (with_reducible refine KeepsE.ok ?_)
    | (with_reducible refine KeepsE.mapError ?_) | (with_reducible refine KeepsE.map ?_ (fun _ _ => ?_)) | split
    | dsimp only | intro _

theorem keeps_actCopy {sz s : State} (tag : Nat) (a b : Tensor) (o : Op) (l n : Nat)
    (hk : Keeps sz s) : KeepsE sz (actCopy tag a b o l n s) := by
  unfold actCopy
  repeat' first
    | with_reducible assumption | (simp only [↓keeps_mk, kernel_eta, ← keeps_iff])
    | (with_reducible apply keeps_copyPlain) | (with_reducible apply keeps_copyBlock)
    | (refine KeepsE.use (by assumption) ?_) | (with_reducible exact KeepsE.error)
    | (with_reducible refine KeepsE.ok ?_) | (with_reducible refine KeepsE.mapError ?_)
    | (with_reducible refine KeepsE.map ?_ (fun _ _ => ?_)) | split | dsimp only | intro _

theorem keeps_plainOp {sz s : State} (tag : Nat) (o : Op)
    (hk : Keeps sz s) : Keeps sz (plainOp tag o s) := by
  unfold plainOp
  repeat' first
    | with_reducible assumption | (simp only [↓keeps_mk, kernel_eta, ← keeps_iff])
    | (with_reducible apply keeps_driveBy) | (with_reducible apply keeps_drive)
    | (with_reducible apply keeps_actCopy) | (refine KeepsE.use (by assumption) ?_)
    | (with_reducible exact KeepsE.error) | (with_reducible refine KeepsE.ok ?_)
    | (with_reducible refine KeepsE.mapError ?_) | (with_reducible refine KeepsE.map ?_ (fun _ _ => ?_)) | split
    | dsimp only | intro _

theorem keeps_gatherBlock {sz s : State} (tag : Nat) (o : Op) (l n : Nat)
    (hk : Keeps sz s) : KeepsE sz (gatherBlock tag o l n s) := by
  unfold gatherBlock
  repeat' first
    | with_reducible assumption | (simp only [↓keeps_mk, kernel_eta, ← keeps_iff])
    | (with_reducible apply keeps_actVal) | (with_reducible apply keeps_putBlock)
    | (refine KeepsE.use (by assumption) ?_) | (with_reducible exact KeepsE.error)
    | (with_reducible refine KeepsE.ok ?_) | (with_reducible refine KeepsE.mapError ?_)
    | (with_reducible refine KeepsE.map ?_ (fun _ _ => ?_)) | split | dsimp only | intro _

theorem keeps_gatherOp {sz s : State} (tag : Nat) (o : Op)
    (hk : Keeps sz s) : Keeps sz (gatherOp tag o s) := by
  unfold gatherOp
  repeat' first
    | with_reducible assumption | (simp only [↓keeps_mk, kernel_eta, ← keeps_iff])
    | (with_reducible apply keeps_driveBy) | (with_reducible apply keeps_drive)
    | (with_reducible apply keeps_copyPlain) | (with_reducible apply keeps_gatherBlock)
    | (refine KeepsE.use (by assumption) ?_) | (with_reducible exact KeepsE.error)
    | (with_reducible refine KeepsE.ok ?_) | (with_reducible refine KeepsE.mapError ?_)
    | (with_reducible refine KeepsE.map ?_ (fun _ _ => ?_)) | split | dsimp only | intro _

theorem keeps_actScatter {sz s : State} (tag : Nat) (late : List Nat) (a b : Tensor) (o : Op) (n : Nat)
    (hk : Keeps sz s) : KeepsE sz (actScatter tag late a b o n s) := by
  unfold actScatter
  repeat' first
    | with_reducible assumption | (exact keeps_back hk (by assumption))
    | (simp only [↓keeps_mk, kernel_eta, ← keeps_iff]) | (with_reducible apply keeps_deliver)
    | (with_reducible apply keeps_copyPlain) | (refine KeepsE.use (by assumption) ?_)
    | (with_reducible exact KeepsE.error) | (with_reducible refine KeepsE.ok ?_)
    | (with_reducible refine KeepsE.mapError ?_) | (with_reducible refine KeepsE.map ?_ (fun _ _ => ?_)) | split
    | dsimp only | intro _

theorem keeps_scatterOp {sz s : State} (tag : Nat) (late : List Nat) (o : Op)
    (hk : Keeps sz s) : Keeps sz (scatterOp tag late o s) := by
  unfold scatterOp
  repeat' first
    | with_reducible assumption | (simp only [↓keeps_mk, kernel_eta, ← keeps_iff])
    | (with_reducible apply keeps_driveBy) | (with_reducible apply keeps_actScatter)
    | (refine KeepsE.use (by assumption) ?_) | (with_reducible exact KeepsE.error)
    | (with_reducible refine KeepsE.ok ?_) | (with_reducible refine KeepsE.mapError ?_)
    | (with_reducible refine KeepsE.map ?_ (fun _ _ => ?_)) | split | dsimp only | intro _

theorem keeps_fillOp {sz s : State} (tag : Nat) (o : Op)
    (hk : Keeps sz s) : Keeps sz (fillOp tag o s) := by
  unfold fillOp
  repeat' first
    | with_reducible assumption | (simp only [↓keeps_mk, kernel_eta, ← keeps_iff])
    | (with_reducible apply keeps_drive) | split | dsimp only | intro _

theorem keeps_elemwiseOp {sz s : State} (tag : Nat) (o : Op)
    (hk : Keeps sz s) : Keeps sz (elemwiseOp tag o s) := by
  unfold elemwiseOp
  repeat' first
    | with_reducible assumption | (simp only [↓keeps_mk, kernel_eta, ← keeps_iff])
    | (with_reducible apply keeps_drive) | split | dsimp only | intro _

theorem keeps_reduceOp {sz s : State} (tag : Nat) (order : List Nat) (o : Op)
    (hk : Keeps sz s) : Keeps sz (reduceOp tag order o s) := by
  unfold reduceOp
  repeat' first
    | with_reducible assumption | (simp only [↓keeps_mk, kernel_eta, ← keeps_iff])
    | (with_reducible apply keeps_drive) | split | dsimp only | intro _

theorem keeps_scanOp {sz s : State} (tag : Nat) (orders : List (List Nat)) (o : Op)
    (hk : Keeps sz s) : Keeps sz (scanOp tag orders o s) := by
  unfold scanOp
  repeat' first
    | with_reducible assumption | (simp only [↓keeps_mk, kernel_eta, ← keeps_iff])
    | (with_reducible apply keeps_drive) | split | dsimp only | intro _

end Sys2Proof.Machine
end

