-- ==== Sys2Proof/Laws/KeepsTiles.lean ====
section
/-! SUPPORT. What the shared operations of Machine/Tiles.lean keep. -/

set_option linter.unusedSimpArgs false
set_option maxRecDepth 4000

namespace Sys2Proof.Machine

theorem keeps_finishRuns {sz s : State} (tag : Nat)
    (hk : Keeps sz s) : Keeps sz (finishRuns tag s) := by
  unfold finishRuns
  repeat' first
    | with_reducible assumption | (simp only [↓keeps_mk, kernel_eta, ← keeps_iff])
    | (with_reducible apply keeps_endOp) | split | dsimp only | intro _

theorem keeps_stopIssued {sz s : State} (tag : Nat) (e : Stop) (write : Bool)
    (hk : Keeps sz s) : Keeps sz (stopIssued tag e write s) := by
  unfold stopIssued
  repeat' first
    | with_reducible assumption | (simp only [↓keeps_mk, kernel_eta, ← keeps_iff])
    | (with_reducible apply keeps_updOp) | (with_reducible apply keeps_stopOp) | split | dsimp only | intro _

theorem keeps_releaseImages {sz s : State} (hk : Keeps sz s) :
    Keeps sz (releaseImages s) := hk

end Sys2Proof.Machine
end

