-- ==== Sys2Proof/Laws/KeepsMatBlocks.lean ====
section
/-! SUPPORT. What the shared operations of Machine/MatBlocks.lean keep. -/

set_option linter.unusedSimpArgs false
set_option maxRecDepth 4000

namespace Sys2Proof.Machine

theorem keeps_blockDone {sz s : State} (tag key fl ord : Nat) (cand : Option Nat)
    (hk : Keeps sz s) : Keeps sz (blockDone tag key fl ord cand s) := by
  unfold blockDone
  repeat' first
    | with_reducible assumption | (simp only [↓keeps_mk, kernel_eta, ← keeps_iff])
    | (with_reducible apply keeps_updOp) | split | dsimp only | intro _

theorem keeps_deliverPieces {sz x1 : State} (tag : Nat) (t : Tensor) (vs : List XVal) (x0 : List (Nat × Nat × Nat))
    (hk : Keeps sz x1) : Keeps sz (deliverPieces tag t vs x0 x1).2 := by
  induction x0 generalizing x1 with
  | nil =>
    unfold deliverPieces
    repeat' first
      | with_reducible assumption | (simp only [↓keeps_mk, kernel_eta, ← keeps_iff])
      | (with_reducible apply keeps_updOp) | (with_reducible apply keeps_deliverWith)
      | (refine KeepsE.use (by assumption) ?_) | (with_reducible exact KeepsE.error)
      | (with_reducible refine KeepsE.ok ?_) | (with_reducible refine KeepsE.mapError ?_)
      | (with_reducible refine KeepsE.map ?_ (fun _ _ => ?_)) | split | dsimp only | intro _
  | cons _ _ ih =>
    unfold deliverPieces
    repeat' first
      | with_reducible assumption | (with_reducible apply ih) | (simp only [↓keeps_mk, kernel_eta, ← keeps_iff])
      | (with_reducible apply keeps_updOp) | (with_reducible apply keeps_deliverWith)
      | (refine KeepsE.use (by assumption) ?_) | (with_reducible exact KeepsE.error)
      | (with_reducible refine KeepsE.ok ?_) | (with_reducible refine KeepsE.mapError ?_)
      | (with_reducible refine KeepsE.map ?_ (fun _ _ => ?_)) | split | dsimp only | intro _

theorem keeps_deliverPart {sz s : State} (tag key : Nat) (ps : List (Nat × Nat × Nat)) (vs : List XVal)
    (hk : Keeps sz s) : Keeps sz (deliverPart tag key ps vs s).2 := by
  unfold deliverPart
  repeat' first
    | with_reducible assumption | (simp only [↓keeps_mk, kernel_eta, ← keeps_iff])
    | (with_reducible apply keeps_setOp) | (with_reducible apply keeps_deliverPieces)
    | (refine Keeps.use (by assumption) ?_) | split | dsimp only | intro _

theorem keeps_deliverBlock {sz s : State} (tag key : Nat) (x : Blk) (vs : List XVal)
    (hk : Keeps sz s) : Keeps sz (deliverBlock tag key x vs s).2 := by
  unfold deliverBlock
  repeat' first
    | with_reducible assumption | (simp only [↓keeps_mk, kernel_eta, ← keeps_iff])
    | (with_reducible apply keeps_deliverPart) | (refine Keeps.use (by assumption) ?_) | split | dsimp only
    | intro _

theorem keeps_partDone {sz s : State} (tag key : Nat)
    (hk : Keeps sz s) : Keeps sz (partDone tag key s) := by
  unfold partDone
  repeat' first
    | with_reducible assumption | (simp only [↓keeps_mk, kernel_eta, ← keeps_iff])
    | (with_reducible apply keeps_updOp) | split | dsimp only | intro _

theorem keeps_setModes {sz s : State} (o : Op)
    (hk : Keeps sz s) : Keeps sz (setModes o s) := by
  unfold setModes
  repeat' first
    | with_reducible assumption | (simp only [↓keeps_mk, kernel_eta, ← keeps_iff])
    | (with_reducible apply keeps_updTile) | (with_reducible refine Keeps.foldl (fun _ _ _ => ?_) _ ?_) | split
    | dsimp only | intro _

theorem keeps_noteBlock {sz s : State} (p q b cols j : Nat) (o : Op) (x : Blk)
    (hk : Keeps sz s) : Keeps sz (noteBlock p q b cols j o x s) := by
  unfold noteBlock
  repeat' first
    | with_reducible assumption | (simp only [↓keeps_mk, kernel_eta, ← keeps_iff])
    | (with_reducible apply keeps_updTile) | (with_reducible apply keeps_commandFlits)
    | (with_reducible apply keeps_markWork) | split | dsimp only | intro _

theorem keeps_noteSlices {sz s : State} (cols : Nat) (o : Op) (x : Blk) (ps : List Nat)
    (hk : Keeps sz s) : Keeps sz (noteSlices cols o x ps s) := by
  unfold noteSlices
  repeat' first
    | with_reducible assumption | (simp only [↓keeps_mk, kernel_eta, ← keeps_iff])
    | (with_reducible apply keeps_noteBlock) | (with_reducible refine Keeps.foldl (fun _ _ _ => ?_) _ ?_) | split
    | dsimp only | intro _

theorem keeps_stopPart {sz s : State} (p q tag : Nat) (x : Partn)
    (hk : Keeps sz s) : Keeps sz (stopPart p q tag x s) := by
  unfold stopPart
  repeat' first
    | with_reducible assumption | (simp only [↓keeps_mk, kernel_eta, ← keeps_iff])
    | (with_reducible apply keeps_updTile) | split | dsimp only | intro _

theorem keeps_settlePart {sz s : State} (tags : List Nat) (p q : Nat)
    (hk : Keeps sz s) : Keeps sz (settlePart tags p q s) := by
  unfold settlePart
  repeat' first
    | with_reducible assumption | (simp only [↓keeps_mk, kernel_eta, ← keeps_iff])
    | (with_reducible apply keeps_setTile) | split | dsimp only | intro _

theorem keeps_releaseParts {sz s : State} (tag : Nat)
    (hk : Keeps sz s) : Keeps sz (releaseParts tag s) := by
  unfold releaseParts
  repeat' first
    | with_reducible assumption | (simp only [↓keeps_mk, kernel_eta, ← keeps_iff])
    | (with_reducible apply keeps_settlePart) | (with_reducible refine Keeps.foldl (fun _ _ _ => ?_) _ ?_) | split
    | dsimp only | intro _

theorem keeps_freeParts {sz s : State} (tag : Nat)
    (hk : Keeps sz s) : Keeps sz (freeParts tag s) := by
  unfold freeParts
  repeat' first
    | with_reducible assumption | (simp only [↓keeps_mk, kernel_eta, ← keeps_iff])
    | (with_reducible apply keeps_mapParts) | split | dsimp only | intro _

theorem keeps_queueEpi {sz s : State} (p : Nat) (b : EpiBlock)
    (hk : Keeps sz s) : Keeps sz (queueEpi p b s) := by
  unfold queueEpi
  repeat' first
    | with_reducible assumption | (simp only [↓keeps_mk, kernel_eta, ← keeps_iff])
    | (with_reducible apply keeps_updTile) | (with_reducible apply keeps_updOp)
    | (with_reducible refine Keeps.foldl (fun _ _ _ => ?_) _ ?_) | split | dsimp only | intro _

theorem keeps_closeBank {sz s : State} (p q b key : Nat) (l : List (Op × Blk × List Running × EpiOwn))
    (hk : Keeps sz s) : Keeps sz (closeBank p q b key l s) := by
  unfold closeBank
  repeat' first
    | with_reducible assumption | (simp only [↓keeps_mk, kernel_eta, ← keeps_iff])
    | (with_reducible apply keeps_setTile) | (with_reducible apply keeps_noteBlock)
    | (with_reducible refine Keeps.foldl (fun _ _ _ => ?_) _ ?_) | split | dsimp only | intro _

end Sys2Proof.Machine
end

