-- ==== Sys2Proof/Laws/KeepsBanks.lean ====
section
/-! SUPPORT. What the shared operations of Machine/Banks.lean keep. -/

set_option linter.unusedSimpArgs false
set_option maxRecDepth 4000

namespace Sys2Proof.Machine

theorem keeps_runCmd {sz s : State} (p c : Nat) (feed : List Byte)
    (hk : Keeps sz s) : Keeps sz (runCmd p c feed s) := by
  unfold runCmd
  repeat' first
    | with_reducible assumption | (simp only [↓keeps_mk, kernel_eta, ← keeps_iff])
    | (with_reducible apply keeps_setTile) | split | dsimp only | intro _

theorem keeps_runHeld {sz x1 : State} (p q x0 : Nat)
    (hk : Keeps sz x1) : Keeps sz (runHeld p q x0 x1) := by
  induction x0 generalizing x1 with
  | zero => exact hk
  | succ _ ih =>
    unfold runHeld
    repeat' first
      | with_reducible assumption | (with_reducible apply ih) | (simp only [↓keeps_mk, kernel_eta, ← keeps_iff])
      | (with_reducible apply keeps_setTile) | (with_reducible apply keeps_runCmd) | split | dsimp only | intro _

theorem keeps_drainToBank {sz s : State} (p q : Nat) (b : PeBank)
    (hk : Keeps sz s) : Keeps sz (drainToBank p q b s) := by
  unfold drainToBank
  repeat' first
    | with_reducible assumption | (simp only [↓keeps_mk, kernel_eta, ← keeps_iff])
    | (with_reducible apply keeps_setTile) | (with_reducible apply keeps_updOp)
    | (with_reducible apply keeps_writeN) | (with_reducible refine Keeps.foldl (fun _ _ _ => ?_) _ ?_) | split
    | dsimp only | intro _

theorem keeps_drainToStore {sz s : State} (p q : Nat) (b : PeBank)
    (hk : Keeps sz s) : Keeps sz (drainToStore p q b s) := by
  unfold drainToStore
  repeat' first
    | with_reducible assumption | (simp only [↓keeps_mk, kernel_eta, ← keeps_iff])
    | (with_reducible apply keeps_setTile) | (with_reducible apply keeps_blockDone)
    | (with_reducible apply keeps_writeN) | (with_reducible refine Keeps.foldl (fun _ _ _ => ?_) _ ?_) | split
    | dsimp only | intro _

theorem keeps_drainOwn {sz s : State} (p q : Nat) (b : PeBank) (w : EpiOwn)
    (hk : Keeps sz s) : Keeps sz (drainOwn p q b w s).2 := by
  unfold drainOwn
  repeat' first
    | with_reducible assumption | (simp only [↓keeps_mk, kernel_eta, ← keeps_iff])
    | (with_reducible apply keeps_updOp) | (with_reducible apply keeps_stopIssued)
    | (with_reducible apply keeps_blockDone) | (with_reducible apply keeps_deliverPieces)
    | (refine Keeps.use (by assumption) ?_) | split | dsimp only | intro _

theorem keeps_freeBank {sz s : State} (p q n : Nat) (tags : List Nat)
    (hk : Keeps sz s) : Keeps sz (freeBank p q n tags s) := by
  unfold freeBank
  repeat' first
    | with_reducible assumption | (simp only [↓keeps_mk, kernel_eta, ← keeps_iff])
    | (with_reducible apply keeps_setTile) | (with_reducible apply keeps_finishRuns)
    | (with_reducible apply keeps_settlePart) | (with_reducible apply keeps_runHeld)
    | (with_reducible refine Keeps.foldl (fun _ _ _ => ?_) _ ?_) | split | dsimp only | intro _

theorem keeps_drainMem {sz s : State} (p q n : Nat)
    (hk : Keeps sz s) : Keeps sz (drainMem p q n s) := by
  unfold drainMem
  repeat' first
    | with_reducible assumption | (simp only [↓keeps_mk, kernel_eta, ← keeps_iff])
    | (with_reducible apply keeps_setTile) | (with_reducible apply keeps_finishRuns)
    | (with_reducible apply keeps_stopPart) | (with_reducible apply keeps_drainOwn)
    | (with_reducible apply keeps_freeBank) | (refine Keeps.use (by assumption) ?_)
    | (with_reducible refine Keeps.foldl (fun _ _ _ => ?_) _ ?_)
    | (with_reducible refine Keeps.foldl_snd (fun _ _ _ => ?_) _ ?_) | split | dsimp only | intro _

theorem keeps_drainEndOp {sz s : State} (p q : Nat)
    (hk : Keeps sz s) : Keeps sz (drainEndOp p q s) := by
  unfold drainEndOp
  repeat' first
    | with_reducible assumption | (simp only [↓keeps_mk, kernel_eta, ← keeps_iff])
    | (with_reducible apply keeps_drainToBank) | (with_reducible apply keeps_drainToStore)
    | (with_reducible apply keeps_freeBank) | (with_reducible apply keeps_drainMem) | split | dsimp only | intro _

theorem keeps_resumeDrains {sz s : State} (tag : Nat)
    (hk : Keeps sz s) : Keeps sz (resumeDrains tag s) := by
  unfold resumeDrains
  repeat' first
    | with_reducible assumption | (simp only [↓keeps_mk, kernel_eta, ← keeps_iff])
    | (with_reducible apply keeps_drainMem) | (with_reducible refine Keeps.foldl (fun _ _ _ => ?_) _ ?_) | split
    | dsimp only | intro _

theorem keeps_finishDrains {sz s : State} (p : Nat)
    (hk : Keeps sz s) : Keeps sz (finishDrains p s) := by
  unfold finishDrains
  repeat' first
    | with_reducible assumption | (simp only [↓keeps_mk, kernel_eta, ← keeps_iff])
    | (with_reducible apply keeps_drainEndOp) | (with_reducible refine Keeps.foldl (fun _ _ _ => ?_) _ ?_) | split
    | dsimp only | intro _

end Sys2Proof.Machine
end

