-- ==== Sys2Proof/Laws/KeepsMatmul.lean ====
section
/-! SUPPORT. What the shared operations of Machine/Matmul.lean keep. -/

set_option linter.unusedSimpArgs false
set_option maxRecDepth 4000

namespace Sys2Proof.Machine

theorem keeps_growTree {sz s : State} (tags tiles : List Nat)
    (hk : Keeps sz s) : Keeps sz (growTree tags tiles s) := by
  unfold growTree
  repeat' first
    | with_reducible assumption | (simp only [↓keeps_mk, kernel_eta, ← keeps_iff]) | split | dsimp only | intro _

theorem keeps_sendTree {sz s : State} (t : Tree) (n : Nat)
    (hk : Keeps sz s) : Keeps sz (sendTree t n s) := by
  unfold sendTree
  repeat' first
    | with_reducible assumption | (simp only [↓keeps_mk, kernel_eta, ← keeps_iff])
    | (with_reducible apply keeps_updTile) | (with_reducible apply keeps_passFlits)
    | (with_reducible refine Keeps.foldl (fun _ _ _ => ?_) _ ?_) | split | dsimp only | intro _

theorem keeps_multicastPruneOp {sz s : State} (tree member : Nat)
    (hk : Keeps sz s) : Keeps sz (multicastPruneOp tree member s) := by
  unfold multicastPruneOp
  repeat' first
    | with_reducible assumption | (simp only [↓keeps_mk, kernel_eta, ← keeps_iff])
    | (with_reducible apply keeps_updTile) | split | dsimp only | intro _

theorem keeps_fetchLines {sz s : State} (p : Nat) (w : Who) (lines : List Nat)
    (hk : Keeps sz s) : Keeps sz (fetchLines p w lines s) := by
  unfold fetchLines
  repeat' first
    | with_reducible assumption | (simp only [↓keeps_mk, kernel_eta, ← keeps_iff])
    | (with_reducible apply keeps_readFlits) | (with_reducible apply keeps_lineFlits)
    | (with_reducible refine Keeps.foldl (fun _ _ _ => ?_) _ ?_) | split | dsimp only | intro _

theorem keeps_fetchRow {sz s : State} (tag i : Nat) (ps : List Nat)
    (hk : Keeps sz s) : Keeps sz (fetchRow tag i ps s).2 := by
  unfold fetchRow
  repeat' first
    | with_reducible assumption | (simp only [↓keeps_mk, kernel_eta, ← keeps_iff])
    | (with_reducible apply keeps_updTile) | (with_reducible apply keeps_sendTree)
    | (with_reducible apply keeps_fetchLines) | (with_reducible apply keeps_writeN) | split | dsimp only | intro _

theorem keeps_giveBlock {sz s : State} (ps : List Nat) (key : Nat) (x : Blk)
    (l : List (Op × Blk × List Running × EpiOwn))
    (hk : Keeps sz s) : Keeps sz (giveBlock ps key x l s) := by
  unfold giveBlock
  repeat' first
    | with_reducible assumption | (simp only [↓keeps_mk, kernel_eta, ← keeps_iff])
    | (with_reducible apply keeps_noteBlock) | (with_reducible apply keeps_noteSlices)
    | (with_reducible apply keeps_queueEpi) | (with_reducible apply keeps_closeBank)
    | (with_reducible apply keeps_drainMem) | (with_reducible refine Keeps.foldl (fun _ _ _ => ?_) _ ?_) | split
    | dsimp only | intro _

theorem keeps_blockAct {sz s : State} (key : Nat) (ps : List Nat) (x : Blk) (src : Sources) (o : Op)
    (hk : Keeps sz s) : Keeps sz (blockAct key ps x src o s).2 := by
  unfold blockAct
  repeat' first
    | with_reducible assumption | (simp only [↓keeps_mk, kernel_eta, ← keeps_iff])
    | (with_reducible apply keeps_giveBlock) | split | dsimp only | intro _

theorem keeps_stopAt {sz s : State} (p : Nat) (o : Op) (x : Blk)
    (hk : Keeps sz s) : Keeps sz (stopAt p o x s) := by
  unfold stopAt
  repeat' first
    | with_reducible assumption | (simp only [↓keeps_mk, kernel_eta, ← keeps_iff])
    | (with_reducible apply keeps_stopPart) | split | dsimp only | intro _

theorem keeps_stopBlock {sz s : State} (tag : Nat) (ps : List Nat) (x : Blk) (e : Stop)
    (hk : Keeps sz s) : Keeps sz (stopBlock tag ps x e s) := by
  unfold stopBlock
  repeat' first
    | with_reducible assumption | (simp only [↓keeps_mk, kernel_eta, ← keeps_iff])
    | (with_reducible apply keeps_stopIssued) | (with_reducible apply keeps_stopAt)
    | (with_reducible refine Keeps.foldl (fun _ _ _ => ?_) _ ?_) | split | dsimp only | intro _

theorem keeps_queueModes {sz s : State} (o : Op)
    (hk : Keeps sz s) : Keeps sz (queueModes o s) := keeps_setModes _ hk

theorem keeps_driveBlocks {sz x1 : State} (tag x0 : Nat)
    (hk : Keeps sz x1) : Keeps sz (driveBlocks tag x0 x1) := by
  induction x0 generalizing x1 with
  | zero => exact hk
  | succ _ ih =>
    unfold driveBlocks
    repeat' first
      | with_reducible assumption | (with_reducible apply ih) | (simp only [↓keeps_mk, kernel_eta, ← keeps_iff])
      | (with_reducible apply keeps_setOp) | (with_reducible apply keeps_updOp)
      | (with_reducible apply keeps_finishRuns) | (with_reducible apply keeps_fetchRow)
      | (with_reducible apply keeps_blockAct) | (with_reducible apply keeps_stopBlock)
      | (with_reducible apply keeps_queueModes) | (refine Keeps.use (by assumption) ?_) | split | dsimp only | intro _

theorem keeps_runBlocks {sz s : State} (tag : Nat)
    (hk : Keeps sz s) : Keeps sz (runBlocks tag s) := by
  unfold runBlocks
  repeat' first
    | with_reducible assumption | (simp only [↓keeps_mk, kernel_eta, ← keeps_iff])
    | (with_reducible apply keeps_markWork) | (with_reducible apply keeps_setModes)
    | (with_reducible apply keeps_releaseParts) | (with_reducible apply keeps_resumeDrains)
    | (with_reducible apply keeps_driveBlocks) | split | dsimp only | intro _

theorem keeps_stageWeights {sz s : State} (tags : List Nat) (o : Op)
    (hk : Keeps sz s) : Keeps sz (stageWeights tags o s) := by
  unfold stageWeights
  repeat' first
    | with_reducible assumption | (simp only [↓keeps_mk, kernel_eta, ← keeps_iff])
    | (with_reducible apply keeps_updOp) | (with_reducible refine Keeps.foldl (fun _ _ _ => ?_) _ ?_) | split
    | dsimp only | intro _

theorem keeps_sweepParts {sz x2 : State} (ps : List Nat) (i : Nat) (x0 : List Nat) (x1 : Nat)
    (hk : Keeps sz x2) : Keeps sz (sweepParts ps i x0 x1 x2).2 := by
  induction x0 generalizing x1 x2 with
  | nil =>
    unfold sweepParts
    repeat' first
      | with_reducible assumption | (simp only [↓keeps_mk, kernel_eta, ← keeps_iff])
      | (with_reducible apply keeps_updOp) | (with_reducible apply keeps_stopBlock) | split | dsimp only | intro _
  | cons _ _ ih =>
    unfold sweepParts
    repeat' first
      | with_reducible assumption | (with_reducible apply ih) | (simp only [↓keeps_mk, kernel_eta, ← keeps_iff])
      | (with_reducible apply keeps_updOp) | (with_reducible apply keeps_stopBlock) | split | dsimp only | intro _

theorem keeps_sweepBlocks {sz x1 : State} (tags : List Nat) (o : Op) (x0 : List Nat)
    (hk : Keeps sz x1) : Keeps sz (sweepBlocks tags o x0 x1) := by
  induction x0 generalizing x1 with
  | nil =>
    unfold sweepBlocks
    repeat' first
      | with_reducible assumption | (simp only [↓keeps_mk, kernel_eta, ← keeps_iff])
      | (with_reducible apply keeps_updOp) | (with_reducible apply keeps_finishRuns)
      | (with_reducible apply keeps_fetchRow) | (with_reducible apply keeps_giveBlock)
      | (with_reducible apply keeps_stopAt) | (with_reducible apply keeps_stopBlock)
      | (with_reducible apply keeps_sweepParts) | (refine Keeps.use (by assumption) ?_)
      | (with_reducible refine Keeps.foldl (fun _ _ _ => ?_) _ ?_) | split | dsimp only | intro _
  | cons _ _ ih =>
    unfold sweepBlocks
    repeat' first
      | with_reducible assumption | (with_reducible apply ih) | (simp only [↓keeps_mk, kernel_eta, ← keeps_iff])
      | (with_reducible apply keeps_updOp) | (with_reducible apply keeps_finishRuns)
      | (with_reducible apply keeps_fetchRow) | (with_reducible apply keeps_giveBlock)
      | (with_reducible apply keeps_stopAt) | (with_reducible apply keeps_stopBlock)
      | (with_reducible apply keeps_sweepParts) | (refine Keeps.use (by assumption) ?_)
      | (with_reducible refine Keeps.foldl (fun _ _ _ => ?_) _ ?_) | split | dsimp only | intro _

theorem keeps_issueSweep {sz s : State} (id : Nat)
    (hk : Keeps sz s) : Keeps sz (issueSweep id s) := by
  unfold issueSweep
  repeat' first
    | with_reducible assumption | (simp only [↓keeps_mk, kernel_eta, ← keeps_iff])
    | (with_reducible apply keeps_updOp) | (with_reducible apply keeps_markWork)
    | (with_reducible apply keeps_setModes) | (with_reducible apply keeps_growTree)
    | (with_reducible apply keeps_stageWeights) | (with_reducible apply keeps_sweepBlocks)
    | (with_reducible refine Keeps.foldl (fun _ _ _ => ?_) _ ?_) | split | dsimp only | intro _

theorem keeps_openSweep {sz s : State} (o : Op) (limit : Nat)
    (hk : Keeps sz s) : Keeps sz (openSweep o limit s) := by
  unfold openSweep
  repeat' first
    | with_reducible assumption | (simp only [↓keeps_mk, kernel_eta, ← keeps_iff])
    | (with_reducible apply keeps_issueSweep) | split | dsimp only | intro _

theorem keeps_joinSweep {sz s : State} (tag : Nat) (o : Op)
    (hk : Keeps sz s) : Keeps sz (joinSweep tag o s) := by
  unfold joinSweep
  repeat' first
    | with_reducible assumption | (simp only [↓keeps_mk, kernel_eta, ← keeps_iff])
    | (with_reducible apply keeps_updOp) | (with_reducible apply keeps_stopOp)
    | (with_reducible apply keeps_growTree) | (with_reducible apply keeps_runBlocks)
    | (with_reducible apply keeps_issueSweep) | (with_reducible apply keeps_openSweep) | split | dsimp only
    | intro _

theorem keeps_sweepTimeoutOp {sz s : State} (id : Nat)
    (hk : Keeps sz s) : Keeps sz (sweepTimeoutOp id s) := by
  unfold sweepTimeoutOp
  repeat' first
    | with_reducible assumption | (simp only [↓keeps_mk, kernel_eta, ← keeps_iff])
    | (with_reducible apply keeps_passTo) | (with_reducible apply keeps_issueSweep) | split | dsimp only | intro _

theorem keeps_loadShard {sz s : State} (r : Carousel) (o : Op) (p j : Nat)
    (hk : Keeps sz s) : KeepsE sz (loadShard r o p j s) := by
  unfold loadShard
  repeat' first
    | with_reducible assumption | (with_reducible refine KeepsE.map' (fun _ => ?_))
    | (simp only [↓keeps_mk, kernel_eta, ← keeps_iff]) | (with_reducible apply keeps_updTile)
    | (with_reducible exact KeepsE.error) | (with_reducible refine KeepsE.ok ?_)
    | (with_reducible refine KeepsE.mapError ?_) | (with_reducible refine KeepsE.map ?_ (fun _ _ => ?_)) | split
    | dsimp only | intro _

theorem keeps_reloadShards {sz x1 : State} (r : Carousel) (o : Op) (x0 : List Nat)
    (hk : Keeps sz x1) : KeepsE sz (reloadShards r o x0 x1) := by
  induction x0 generalizing x1 with
  | nil =>
    unfold reloadShards
    repeat' first
      | with_reducible assumption | (simp only [↓keeps_mk, kernel_eta, ← keeps_iff])
      | (with_reducible apply keeps_loadShard) | (refine KeepsE.use (by assumption) ?_)
      | (with_reducible exact KeepsE.error) | (with_reducible refine KeepsE.ok ?_)
      | (with_reducible refine KeepsE.mapError ?_) | (with_reducible refine KeepsE.map ?_ (fun _ _ => ?_)) | split
      | dsimp only | intro _
  | cons _ _ ih =>
    unfold reloadShards
    repeat' first
      | with_reducible assumption | (with_reducible apply ih) | (simp only [↓keeps_mk, kernel_eta, ← keeps_iff])
      | (with_reducible apply keeps_loadShard) | (refine KeepsE.use (by assumption) ?_)
      | (with_reducible exact KeepsE.error) | (with_reducible refine KeepsE.ok ?_)
      | (with_reducible refine KeepsE.mapError ?_) | (with_reducible refine KeepsE.map ?_ (fun _ _ => ?_)) | split
      | dsimp only | intro _

theorem keeps_phaseBlocks {sz x2 : State} (tag key p j : Nat) (r : Carousel) (x0 : List Blk) (x1 : Nat)
    (hk : Keeps sz x2) : Keeps sz (phaseBlocks tag key p j r x0 x1 x2) := by
  induction x0 generalizing x1 x2 with
  | nil => exact hk
  | cons _ _ ih =>
    unfold phaseBlocks
    repeat' first
      | with_reducible assumption | (with_reducible apply ih) | (simp only [↓keeps_mk, kernel_eta, ← keeps_iff])
      | (with_reducible apply keeps_setOp) | (with_reducible apply keeps_updOp)
      | (with_reducible apply keeps_blockAct) | (with_reducible apply keeps_stopBlock)
      | (refine Keeps.use (by assumption) ?_) | split | dsimp only | intro _

theorem keeps_setRing {sz s : State} (g : Nat) (r : Carousel) (hk : Keeps sz s) :
    Keeps sz (setRing g r s) := hk

theorem keeps_ringMode {sz s : State} (r : Carousel) (p : Nat) (o : Op)
    (hk : Keeps sz s) : Keeps sz (ringMode r p o s) := by
  unfold ringMode
  repeat' first
    | with_reducible assumption | (simp only [↓keeps_mk, kernel_eta, ← keeps_iff])
    | (with_reducible apply keeps_updTile) | split | dsimp only | intro _

theorem keeps_ringPhase {sz s : State} (g p : Nat) (r : Carousel) (o : Op)
    (hk : Keeps sz s) : Keeps sz (ringPhase g p r o s) := by
  unfold ringPhase
  repeat' first
    | with_reducible assumption | (simp only [↓keeps_mk, kernel_eta, ← keeps_iff])
    | (with_reducible apply keeps_stopIssued) | (with_reducible apply keeps_reloadShards)
    | (with_reducible apply keeps_phaseBlocks) | (with_reducible apply keeps_setRing)
    | (with_reducible apply keeps_ringMode) | (refine KeepsE.use (by assumption) ?_)
    | (with_reducible exact KeepsE.error) | (with_reducible refine KeepsE.ok ?_)
    | (with_reducible refine KeepsE.mapError ?_) | (with_reducible refine KeepsE.map ?_ (fun _ _ => ?_)) | split
    | dsimp only | intro _

theorem keeps_shardsHome {sz s : State} (r : Carousel)
    (hk : Keeps sz s) : Keeps sz (shardsHome r s) := by
  unfold shardsHome
  repeat' first
    | with_reducible assumption | (simp only [↓keeps_mk, kernel_eta, ← keeps_iff])
    | (with_reducible apply keeps_updTile) | (with_reducible refine Keeps.foldl (fun _ _ _ => ?_) _ ?_) | split
    | dsimp only | intro _

theorem keeps_ringCheck {sz s : State} (g tag : Nat)
    (hk : Keeps sz s) : Keeps sz (ringCheck g tag s) := by
  unfold ringCheck
  repeat' first
    | with_reducible assumption | (simp only [↓keeps_mk, kernel_eta, ← keeps_iff])
    | (with_reducible apply keeps_updOp) | (with_reducible apply keeps_finishRuns)
    | (with_reducible apply keeps_setRing) | (with_reducible apply keeps_shardsHome) | split | dsimp only
    | intro _

theorem keeps_mendRing {sz s : State} (g : Nat) (o : Op)
    (hk : Keeps sz s) : Keeps sz (mendRing g o s) := by
  unfold mendRing
  repeat' first
    | with_reducible assumption | (simp only [↓keeps_mk, kernel_eta, ← keeps_iff])
    | (with_reducible apply keeps_setRing) | (with_reducible refine Keeps.foldl (fun _ _ _ => ?_) _ ?_) | split
    | dsimp only | intro _

theorem keeps_ringBegin {sz s : State} (g tag : Nat)
    (hk : Keeps sz s) : Keeps sz (ringBegin g tag s) := by
  unfold ringBegin
  repeat' first
    | with_reducible assumption | (simp only [↓keeps_mk, kernel_eta, ← keeps_iff])
    | (with_reducible apply keeps_releaseParts) | (with_reducible apply keeps_resumeDrains)
    | (with_reducible apply keeps_setRing) | (with_reducible apply keeps_ringPhase)
    | (with_reducible apply keeps_ringCheck) | (with_reducible apply keeps_mendRing)
    | (with_reducible refine Keeps.foldl (fun _ _ _ => ?_) _ ?_) | split | dsimp only | intro _

theorem keeps_dropShards {sz s : State} (r : Carousel)
    (hk : Keeps sz s) : Keeps sz (dropShards r s) := by
  unfold dropShards
  repeat' first
    | with_reducible assumption | (simp only [↓keeps_mk, kernel_eta, ← keeps_iff])
    | (with_reducible apply keeps_updTile) | (with_reducible refine Keeps.foldl (fun _ _ _ => ?_) _ ?_) | split
    | dsimp only | intro _

theorem keeps_loadRing {sz x1 : State} (r : Carousel) (o : Op) (x0 : List Nat)
    (hk : Keeps sz x1) : KeepsE sz (loadRing r o x0 x1) := by
  induction x0 generalizing x1 with
  | nil =>
    unfold loadRing
    repeat' first
      | with_reducible assumption | (simp only [↓keeps_mk, kernel_eta, ← keeps_iff])
      | (with_reducible apply keeps_loadShard) | (refine KeepsE.use (by assumption) ?_)
      | (with_reducible exact KeepsE.error) | (with_reducible refine KeepsE.ok ?_)
      | (with_reducible refine KeepsE.mapError ?_) | (with_reducible refine KeepsE.map ?_ (fun _ _ => ?_)) | split
      | dsimp only | intro _
  | cons _ _ ih =>
    unfold loadRing
    repeat' first
      | with_reducible assumption | (with_reducible apply ih) | (simp only [↓keeps_mk, kernel_eta, ← keeps_iff])
      | (with_reducible apply keeps_loadShard) | (refine KeepsE.use (by assumption) ?_)
      | (with_reducible exact KeepsE.error) | (with_reducible refine KeepsE.ok ?_)
      | (with_reducible refine KeepsE.mapError ?_) | (with_reducible refine KeepsE.map ?_ (fun _ _ => ?_)) | split
      | dsimp only | intro _

theorem keeps_newRing {sz s : State} (g tag : Nat) (ident : List Byte) (o : Op)
    (hk : Keeps sz s) : Keeps sz (newRing g tag ident o s) := by
  unfold newRing
  repeat' first
    | with_reducible assumption | (simp only [↓keeps_mk, kernel_eta, ← keeps_iff])
    | (with_reducible apply keeps_record) | (with_reducible apply keeps_stopOp)
    | (with_reducible apply keeps_refuseOp) | (with_reducible apply keeps_setRing)
    | (with_reducible apply keeps_ringBegin) | (with_reducible apply keeps_dropShards)
    | (with_reducible apply keeps_loadRing) | (refine KeepsE.use (by assumption) ?_)
    | (with_reducible exact KeepsE.error) | (with_reducible refine KeepsE.ok ?_)
    | (with_reducible refine KeepsE.mapError ?_) | (with_reducible refine KeepsE.map ?_ (fun _ _ => ?_)) | split
    | dsimp only | intro _

theorem keeps_carouselOp {sz s : State} (tag : Nat) (o : Op)
    (hk : Keeps sz s) : Keeps sz (carouselOp tag o s) := by
  unfold carouselOp
  repeat' first
    | with_reducible assumption | (simp only [↓keeps_mk, kernel_eta, ← keeps_iff])
    | (with_reducible apply keeps_setRing) | (with_reducible apply keeps_ringBegin)
    | (with_reducible apply keeps_newRing) | split | dsimp only | intro _

theorem keeps_shardArriveOp {sz s : State} (g p : Nat)
    (hk : Keeps sz s) : Keeps sz (shardArriveOp g p s) := by
  unfold shardArriveOp
  repeat' first
    | with_reducible assumption | (simp only [↓keeps_mk, kernel_eta, ← keeps_iff])
    | (with_reducible apply keeps_updTile) | (with_reducible apply keeps_stopIssued)
    | (with_reducible apply keeps_reloadShards) | (with_reducible apply keeps_ringPhase)
    | (with_reducible apply keeps_ringCheck) | (with_reducible apply keeps_mendRing)
    | (refine KeepsE.use (by assumption) ?_) | (with_reducible exact KeepsE.error)
    | (with_reducible refine KeepsE.ok ?_) | (with_reducible refine KeepsE.mapError ?_)
    | (with_reducible refine KeepsE.map ?_ (fun _ _ => ?_)) | split | dsimp only | intro _

theorem keeps_matrixOp {sz s : State} (tag : Nat) (tiles slices order : List Nat) (o : Op)
    (hk : Keeps sz s) : Keeps sz (matrixOp tag tiles slices order o s) := by
  unfold matrixOp
  repeat' first
    | with_reducible assumption | (simp only [↓keeps_mk, kernel_eta, ← keeps_iff])
    | (with_reducible apply keeps_setOp) | (with_reducible apply keeps_updOp)
    | (with_reducible apply keeps_refuseOp) | (with_reducible apply keeps_growTree)
    | (with_reducible apply keeps_runBlocks) | (with_reducible apply keeps_joinSweep)
    | (with_reducible apply keeps_carouselOp) | split | dsimp only | intro _

end Sys2Proof.Machine
end

