-- ==== Sys2Proof/Laws/KeepsContexts.lean ====
section
/-! SUPPORT. What the shared operations of Machine/Contexts.lean keep. -/

set_option linter.unusedSimpArgs false
set_option maxRecDepth 4000

namespace Sys2Proof.Machine

theorem keeps_openBytes {sz s : State} (n : Nat)
    (hk : Keeps sz s) : Keeps sz (openBytes n s).2 := by
  unfold openBytes
  repeat' first
    | with_reducible assumption | (simp only [↓keeps_mk, kernel_eta, ← keeps_iff])
    | (with_reducible apply keeps_takeFree) | (refine Keeps.use (by assumption) ?_) | split | dsimp only | intro _

theorem keeps_partitionBytes {sz s : State} (c : Context) (q : Partn)
    (hk : Keeps sz s) : Keeps sz (partitionBytes c q s).2 := by
  unfold partitionBytes
  repeat' first
    | with_reducible assumption | (simp only [↓keeps_mk, kernel_eta, ← keeps_iff])
    | (with_reducible apply keeps_openBytes) | (refine Keeps.use (by assumption) ?_) | split | dsimp only
    | intro _

theorem keeps_slotBytes {sz s : State} (x : Nat × Transfer)
    (hk : Keeps sz s) : Keeps sz (slotBytes x s).2 := by
  unfold slotBytes
  repeat' first
    | with_reducible assumption | (simp only [↓keeps_mk, kernel_eta, ← keeps_iff])
    | (with_reducible apply keeps_openBytes) | (refine Keeps.use (by assumption) ?_) | split | dsimp only
    | intro _

theorem keeps_vectorBytes {sz s : State} (r : VecRun)
    (hk : Keeps sz s) : Keeps sz (vectorBytes r s).2 := by
  unfold vectorBytes
  repeat' first
    | with_reducible assumption | (simp only [↓keeps_mk, kernel_eta, ← keeps_iff])
    | (with_reducible apply keeps_openBytes) | (refine Keeps.use (by assumption) ?_) | split | dsimp only
    | intro _

theorem keeps_contextSections {sz s : State} (c : Context)
    (hk : Keeps sz s) : Keeps sz (contextSections c s).2 := by
  unfold contextSections
  repeat' first
    | with_reducible assumption | (simp only [↓keeps_mk, kernel_eta, ← keeps_iff])
    | (with_reducible apply keeps_partitionBytes) | (with_reducible apply keeps_slotBytes)
    | (with_reducible apply keeps_vectorBytes) | (refine Keeps.use (by assumption) ?_)
    | (with_reducible refine Keeps.foldl (fun _ _ _ => ?_) _ ?_)
    | (with_reducible refine Keeps.foldl_snd (fun _ _ _ => ?_) _ ?_) | split | dsimp only | intro _

theorem keeps_contextBytes {sz s : State} (c : Context)
    (hk : Keeps sz s) : Keeps sz (contextBytes c s).2 := by
  unfold contextBytes
  repeat' first
    | with_reducible assumption | (simp only [↓keeps_mk, kernel_eta, ← keeps_iff])
    | (with_reducible apply keeps_contextSections) | (refine Keeps.use (by assumption) ?_)
    | (with_reducible refine Keeps.foldl (fun _ _ _ => ?_) _ ?_)
    | (with_reducible refine Keeps.foldl_snd (fun _ _ _ => ?_) _ ?_) | split | dsimp only | intro _

theorem keeps_keepContext {sz s : State} (p : Nat) (x : Context × Tile)
    (hk : Keeps sz s) : Keeps sz (keepContext p x s) := by
  unfold keepContext
  repeat' first
    | with_reducible assumption | (simp only [↓keeps_mk, kernel_eta, ← keeps_iff])
    | (with_reducible apply keeps_setTile) | (with_reducible apply keeps_record) | split | dsimp only | intro _

theorem keeps_reclaimRing {sz s : State} (g : Nat)
    (hk : Keeps sz s) : Keeps sz (reclaimRing g s) := by
  unfold reclaimRing
  repeat' first
    | with_reducible assumption | (simp only [↓keeps_mk, kernel_eta, ← keeps_iff])
    | (with_reducible apply keeps_updOp) | (with_reducible apply keeps_setRing)
    | (with_reducible apply keeps_dropShards) | split | dsimp only | intro _

theorem keeps_refetchStore {sz s : State} (p : Nat) (c : Context)
    (hk : Keeps sz s) : Keeps sz (refetchStore p c s) := by
  unfold refetchStore
  repeat' first
    | with_reducible assumption | (simp only [↓keeps_mk, kernel_eta, ← keeps_iff])
    | (with_reducible apply keeps_updTile) | (with_reducible apply keeps_writeN) | split | dsimp only | intro _

theorem keeps_placeContext {sz s : State} (p : Nat) (c : Context)
    (hk : Keeps sz s) : KeepsO sz (placeContext p c s) := by
  unfold placeContext
  repeat' first
    | with_reducible assumption | (simp only [↓keeps_mk, kernel_eta, ← keeps_iff])
    | (with_reducible apply keeps_setTile) | (with_reducible apply keeps_runHeld)
    | (with_reducible apply keeps_refetchStore) | (with_reducible apply keeps_writeN)
    | (with_reducible refine Keeps.foldl (fun _ _ _ => ?_) _ ?_) | (with_reducible exact KeepsO.none)
    | (with_reducible refine KeepsO.some ?_) | (with_reducible refine KeepsO.map (fun _ => ?_))
    | (with_reducible refine KeepsO.foldl (fun _ _ _ => ?_) _ ?_) | (with_reducible refine KeepsO.getD ?_ ?_)
    | split | dsimp only | intro _

theorem keeps_releasePart {sz s : State} (c : Context)
    (hk : Keeps sz s) : Keeps sz (releasePart c s) := by
  unfold releasePart
  repeat' first
    | with_reducible assumption | (simp only [↓keeps_mk, kernel_eta, ← keeps_iff])
    | (with_reducible apply keeps_setTile) | split | dsimp only | intro _

theorem keeps_resumeOp {sz s : State} (i p : Nat) (readOk : Bool)
    (hk : Keeps sz s) : Keeps sz (resumeOp i p readOk s) := by
  unfold resumeOp
  repeat' first
    | with_reducible assumption | (simp only [↓keeps_mk, kernel_eta, ← keeps_iff])
    | (with_reducible apply keeps_endIssued) | (with_reducible apply keeps_placeContext)
    | (with_reducible apply keeps_releasePart) | (refine KeepsO.use (by assumption) ?_)
    | (with_reducible exact KeepsO.none) | (with_reducible refine KeepsO.some ?_)
    | (with_reducible refine KeepsO.map (fun _ => ?_)) | split | dsimp only | intro _

theorem keeps_evacuate {sz s : State} (p : Nat)
    (hk : Keeps sz s) : Keeps sz (evacuate p s) := by
  unfold evacuate
  repeat' first
    | with_reducible assumption | (simp only [↓keeps_mk, kernel_eta, ← keeps_iff])
    | (with_reducible apply keeps_setTile) | (with_reducible apply keeps_finishDrains)
    | (with_reducible refine Keeps.foldl (fun _ _ _ => ?_) _ ?_) | split | dsimp only | intro _

theorem keeps_resumeAll {sz s : State} (l p : Nat)
    (hk : Keeps sz s) : Keeps sz (resumeAll l p s) := by
  unfold resumeAll
  repeat' first
    | with_reducible assumption | (simp only [↓keeps_mk, kernel_eta, ← keeps_iff])
    | (with_reducible apply keeps_placeContext) | (refine KeepsO.use (by assumption) ?_)
    | (with_reducible refine Keeps.foldl (fun _ _ _ => ?_) _ ?_) | (with_reducible exact KeepsO.none)
    | (with_reducible refine KeepsO.some ?_) | (with_reducible refine KeepsO.map (fun _ => ?_))
    | (with_reducible refine KeepsO.foldl (fun _ _ _ => ?_) _ ?_) | split | dsimp only | intro _

theorem keeps_countRetired {sz s : State} (p : Nat)
    (hk : Keeps sz s) : Keeps sz (countRetired p s) := by
  unfold countRetired
  repeat' first
    | with_reducible assumption | (simp only [↓keeps_mk, kernel_eta, ← keeps_iff]) | split | dsimp only | intro _

theorem keeps_recordRetired {sz s : State} (p l spare reason : Nat)
    (hk : Keeps sz s) : Keeps sz (recordRetired p l spare reason s) := by
  unfold recordRetired
  repeat' first
    | with_reducible assumption | (simp only [↓keeps_mk, kernel_eta, ← keeps_iff])
    | (with_reducible apply keeps_record) | split | dsimp only | intro _

theorem keeps_findSpare {sz x1 : State} (ok x0 : List Nat)
    (hk : Keeps sz x1) : Keeps sz (findSpare ok x0 x1).2 := by
  induction x0 generalizing x1 with
  | nil =>
    unfold findSpare
    repeat' first
      | with_reducible assumption | (simp only [↓keeps_mk, kernel_eta, ← keeps_iff])
      | (with_reducible apply keeps_updTile) | (with_reducible apply keeps_countRetired)
      | (with_reducible apply keeps_recordRetired) | split | dsimp only | intro _
  | cons _ _ ih =>
    unfold findSpare
    repeat' first
      | with_reducible assumption | (with_reducible apply ih) | (simp only [↓keeps_mk, kernel_eta, ← keeps_iff])
      | (with_reducible apply keeps_updTile) | (with_reducible apply keeps_countRetired)
      | (with_reducible apply keeps_recordRetired) | split | dsimp only | intro _

theorem keeps_pruneTrees {sz s : State} (l : Nat)
    (hk : Keeps sz s) : Keeps sz (pruneTrees l s) := by
  unfold pruneTrees
  repeat' first
    | with_reducible assumption | (simp only [↓keeps_mk, kernel_eta, ← keeps_iff])
    | (with_reducible apply keeps_multicastPruneOp) | (with_reducible refine Keeps.foldl (fun _ _ _ => ?_) _ ?_)
    | split | dsimp only | intro _

theorem keeps_blockElsewhere {sz s : State} (b : EpiBlock)
    (hk : Keeps sz s) : Keeps sz (blockElsewhere b s) := by
  unfold blockElsewhere
  repeat' first
    | with_reducible assumption | (simp only [↓keeps_mk, kernel_eta, ← keeps_iff])
    | (with_reducible apply keeps_updTile) | (with_reducible apply keeps_endIssued) | split | dsimp only | intro _

theorem keeps_retireTile {s0 s : State} (p reason : Nat) (spareOk : List Nat) (hk : Keeps s0 s) :
    Keeps s0 (retireTile p reason spareOk s) := by
  unfold retireTile
  extract_lets t idle
  split
  · exact hk
  split
  · exact keeps_recordRetired _ _ _ _ (keeps_countRetired _ (keeps_updTile _ _ hk))
  extract_lets s1 t1 epi s2
  have h2 : Keeps s0 s2 := keeps_updTile _ _ (keeps_pruneTrees _ (keeps_evacuate _ hk))
  clear_value s2 epi idle t
  split
  rename_i sp s3 hf
  have h3 : Keeps s0 s3 := Keeps.use hf (keeps_findSpare _ _ h2)
  refine keeps_recordRetired _ _ _ _ (keeps_countRetired _ ?_)
  split
  · exact keeps_resumeAll _ _ (keeps_updTile _ _ h3)
  · refine Keeps.foldl (fun _ _ h => ?_) _ h3
    exact keeps_blockElsewhere _ h

theorem keeps_contextCopyOp {sz s : State} (v : Nat)
    (hk : Keeps sz s) : Keeps sz (contextCopyOp v s) := by
  unfold contextCopyOp
  repeat' first
    | with_reducible assumption | (simp only [↓keeps_mk, kernel_eta, ← keeps_iff])
    | (with_reducible apply keeps_runCopy) | (with_reducible apply keeps_contextBytes)
    | (refine Keeps.use (by assumption) ?_) | split | dsimp only | intro _

end Sys2Proof.Machine
end

