-- ==== Sys2Proof/Laws/KeepsBlockCmd.lean ====
section
/-! SUPPORT. What the shared operations of Machine/BlockCmd.lean keep. -/

set_option linter.unusedSimpArgs false
set_option maxRecDepth 4000

namespace Sys2Proof.Machine

theorem keeps_seqFault {sz s : State} (p c : Nat) (spareOk : List Nat)
    (hk : Keeps sz s) : Keeps sz (seqFault p c spareOk s) := by
  unfold seqFault
  repeat' first
    | with_reducible assumption | (simp only [↓keeps_mk, kernel_eta, ← keeps_iff])
    | (with_reducible apply keeps_record) | (with_reducible apply keeps_retireTile) | split | dsimp only | intro _

theorem keeps_blockCmd {sz s : State} (p kind c : Nat) (feed : List Byte) (spareOk : List Nat)
    (hk : Keeps sz s) : Keeps sz (blockCmd p kind c feed spareOk s) := by
  unfold blockCmd
  repeat' first
    | with_reducible assumption | (simp only [↓keeps_mk, kernel_eta, ← keeps_iff])
    | (with_reducible apply keeps_setTile) | (with_reducible apply keeps_markWork)
    | (with_reducible apply keeps_runCmd) | (with_reducible apply keeps_seqFault) | split | dsimp only | intro _

theorem keeps_setModeOp {sz s : State} (p c : Nat) (spareOk : List Nat)
    (hk : Keeps sz s) : Keeps sz (setModeOp p c spareOk s) := by
  unfold setModeOp
  repeat' first
    | with_reducible assumption | (simp only [↓keeps_mk, kernel_eta, ← keeps_iff])
    | (with_reducible apply keeps_setTile) | (with_reducible apply keeps_seqFault) | split | dsimp only | intro _

theorem keeps_blowSlot {sz s : State} (p kind index : Nat)
    (hk : Keeps sz s) : Keeps sz (blowSlot p kind index s) := by
  unfold blowSlot
  repeat' first
    | with_reducible assumption | (simp only [↓keeps_mk, kernel_eta, ← keeps_iff])
    | (with_reducible apply keeps_setTile) | (with_reducible apply keeps_record) | split | dsimp only | intro _

theorem keeps_repairAll {sz x1 : State} (p : Nat) (x0 : List (Nat × Nat))
    (hk : Keeps sz x1) : Keeps sz (repairAll p x0 x1).2 := by
  induction x0 generalizing x1 with
  | nil =>
    unfold repairAll
    repeat' first
      | with_reducible assumption | (simp only [↓keeps_mk, kernel_eta, ← keeps_iff])
      | (with_reducible apply keeps_blowSlot) | split | dsimp only | intro _
  | cons _ _ ih =>
    unfold repairAll
    repeat' first
      | with_reducible assumption | (with_reducible apply ih) | (simp only [↓keeps_mk, kernel_eta, ← keeps_iff])
      | (with_reducible apply keeps_blowSlot) | split | dsimp only | intro _

theorem keeps_checkTile {sz s : State} (p : Nat) (faults : List (Nat × Nat)) (spareOk : List Nat)
    (hk : Keeps sz s) : Keeps sz (checkTile p faults spareOk s) := by
  unfold checkTile
  repeat' first
    | with_reducible assumption | (simp only [↓keeps_mk, kernel_eta, ← keeps_iff])
    | (with_reducible apply keeps_updTile) | (with_reducible apply keeps_evacuate)
    | (with_reducible apply keeps_retireTile) | (with_reducible apply keeps_repairAll)
    | (refine Keeps.use (by assumption) ?_) | split | dsimp only | intro _

theorem keeps_checkOp {sz s : State} (p c : Nat) (faults : List (Nat × Nat)) (spareOk : List Nat)
    (hk : Keeps sz s) : Keeps sz (checkOp p c faults spareOk s) := by
  unfold checkOp
  repeat' first
    | with_reducible assumption | (simp only [↓keeps_mk, kernel_eta, ← keeps_iff])
    | (with_reducible apply keeps_setTile) | (with_reducible apply keeps_seqFault)
    | (with_reducible apply keeps_checkTile) | split | dsimp only | intro _

end Sys2Proof.Machine
end

