-- ==== Sys2Proof/Laws/KeepsPlacement.lean ====
section
/-! SUPPORT. What the shared operations of Machine/Placement.lean keep. -/

set_option linter.unusedSimpArgs false
set_option maxRecDepth 4000

namespace Sys2Proof.Machine

/-- A state that is answered with something that depends on it. -/
theorem KeepsO.useMap {α : Type} {s t : State} {o : Option State} {f : State → α} {a : α}
    (e : o.map (fun u => (u, f u)) = Option.some (t, a)) (h : KeepsO s o) : Keeps s t := by
  cases o with
  | none => cases e
  | some u => cases e; exact h _ rfl

theorem keeps_moveRun {sz s : State} (old : PRange) (new : List PRange)
    (hk : Keeps sz s) : Keeps sz (moveRun old new s) := by
  unfold moveRun
  repeat' first
    | with_reducible assumption | (refine keeps_dmem _ (fun hm => Memory.wf_foldl _ ?_ _ hm) ?_)
    | (exact Memory.wf_write _ _ (by assumption)) | (simp only [↓keeps_mk, kernel_eta, ← keeps_iff])
    | (with_reducible apply keeps_zeroRuns) | (with_reducible apply keeps_filter)
    | (with_reducible refine Keeps.foldl (fun _ _ _ => ?_) _ ?_) | split | dsimp only | intro _

theorem keeps_moveTo {sz s : State} (b : Backing) (r : PRange)
    (hk : Keeps sz s) : KeepsO sz (moveTo b r s) := by
  unfold moveTo
  repeat' first
    | with_reducible assumption | (simp only [↓keeps_mk, kernel_eta, ← keeps_iff])
    | (with_reducible apply keeps_putRuns) | (with_reducible apply keeps_zeroRuns)
    | (with_reducible apply keeps_backRegion) | (with_reducible apply keeps_moveRun)
    | (refine KeepsO.use (by assumption) ?_) | (with_reducible exact KeepsO.none)
    | (with_reducible refine KeepsO.some ?_) | (with_reducible refine KeepsO.map (fun _ => ?_)) | split
    | dsimp only | intro _

theorem keeps_moveRange {sz s : State} (asid lo hi : Nat) (bs : State → Nat → List Backing)
    (hk : Keeps sz s) : KeepsO sz (moveRange asid lo hi bs s) := by
  unfold moveRange
  repeat' first
    | with_reducible assumption | (simp only [↓keeps_mk, kernel_eta, ← keeps_iff])
    | (with_reducible apply keeps_moveTo) | (refine KeepsO.use (by assumption) ?_)
    | (with_reducible refine Keeps.foldl (fun _ _ _ => ?_) _ ?_) | (with_reducible exact KeepsO.none)
    | (with_reducible refine KeepsO.some ?_) | (with_reducible refine KeepsO.map (fun _ => ?_))
    | (with_reducible refine KeepsO.foldl (fun _ _ _ => ?_) _ ?_)
    | (with_reducible refine KeepsO.bind ?_ (fun _ _ => ?_))
    | (with_reducible refine KeepsO.findSome _ (fun _ => ?_)) | split | dsimp only | intro _

theorem keeps_addHint {sz s : State} (o : Op) (kind arg : Nat)
    (hk : Keeps sz s) : Keeps sz (addHint o kind arg s) := by
  unfold addHint
  repeat' first
    | with_reducible assumption | (simp only [↓keeps_mk, kernel_eta, ← keeps_iff]) | split | dsimp only | intro _

theorem keeps_honour {sz s : State} (o : Op)
    (hk : Keeps sz s) : Keeps sz (honour o s) := by
  unfold honour
  repeat' first
    | with_reducible assumption | (simp only [↓keeps_mk, kernel_eta, ← keeps_iff])
    | (with_reducible apply keeps_moveTo) | (refine KeepsO.use (by assumption) ?_)
    | (with_reducible refine Keeps.foldl (fun _ _ _ => ?_) _ ?_) | (with_reducible exact KeepsO.none)
    | (with_reducible refine KeepsO.some ?_) | (with_reducible refine KeepsO.map (fun _ => ?_))
    | (with_reducible refine KeepsO.foldl (fun _ _ _ => ?_) _ ?_) | (with_reducible refine KeepsO.getD ?_ ?_)
    | split | dsimp only | intro _

theorem keeps_affinityOp {sz s : State} (tag : Nat) (o : Op)
    (hk : Keeps sz s) : Keeps sz (affinityOp tag o s) := by
  unfold affinityOp
  repeat' first
    | with_reducible assumption | (simp only [↓keeps_mk, kernel_eta, ← keeps_iff])
    | (with_reducible apply keeps_endOp) | (with_reducible apply keeps_addHint)
    | (with_reducible apply keeps_honour) | split | dsimp only | intro _

theorem keeps_keepNearOp {sz s : State} (tag : Nat) (o : Op)
    (hk : Keeps sz s) : Keeps sz (keepNearOp tag o s) := by
  unfold keepNearOp
  repeat' first
    | with_reducible assumption | (simp only [↓keeps_mk, kernel_eta, ← keeps_iff])
    | (with_reducible apply keeps_endOp) | (with_reducible apply keeps_addHint)
    | (with_reducible apply keeps_honour) | split | dsimp only | intro _

theorem keeps_finishRange {sz s : State} (asid lo hi : Nat)
    (hk : Keeps sz s) : Keeps sz (finishRange asid lo hi s) := by
  unfold finishRange
  repeat' first
    | with_reducible assumption | (simp only [↓keeps_mk, kernel_eta, ← keeps_iff])
    | (with_reducible apply keeps_wakeMigrated) | (with_reducible apply keeps_finishMigration)
    | (with_reducible refine Keeps.foldl (fun _ _ _ => ?_) _ ?_) | split | dsimp only | intro _

theorem keeps_pinDataOp {sz s : State} (tag : Nat) (o : Op)
    (hk : Keeps sz s) : Keeps sz (pinDataOp tag o s) := by
  unfold pinDataOp
  repeat' first
    | with_reducible assumption | (with_reducible refine KeepsO.useMap (by assumption) ?_)
    | (simp only [↓keeps_mk, kernel_eta, ← keeps_iff]) | (with_reducible apply keeps_updOp)
    | (with_reducible apply keeps_endOp) | (with_reducible apply keeps_stopOp)
    | (with_reducible apply keeps_refuseOp) | (with_reducible apply keeps_moveRange)
    | (with_reducible apply keeps_addHint) | (with_reducible apply keeps_finishRange)
    | (refine KeepsO.use (by assumption) ?_) | (with_reducible refine Keeps.foldl (fun _ _ _ => ?_) _ ?_)
    | (with_reducible exact KeepsO.none) | (with_reducible refine KeepsO.some ?_)
    | (with_reducible refine KeepsO.map (fun _ => ?_))
    | (with_reducible refine KeepsO.foldl (fun _ _ _ => ?_) _ ?_)
    | (with_reducible refine KeepsO.bind ?_ (fun _ _ => ?_)) | split | dsimp only | intro _

theorem keeps_unpinDataOp {sz s : State} (tag : Nat) (o : Op)
    (hk : Keeps sz s) : Keeps sz (unpinDataOp tag o s) := by
  unfold unpinDataOp
  repeat' first
    | with_reducible assumption | (simp only [↓keeps_mk, kernel_eta, ← keeps_iff])
    | (with_reducible apply keeps_endOp) | (with_reducible apply keeps_dropHints) | split | dsimp only | intro _

theorem keeps_groupHint {sz s : State} (tag : Nat) (f : Op → Group → Group) (o : Op)
    (hk : Keeps sz s) : Keeps sz (groupHint tag f o s) := by
  unfold groupHint
  repeat' first
    | with_reducible assumption | (simp only [↓keeps_mk, kernel_eta, ← keeps_iff])
    | (with_reducible apply keeps_setGroup) | (with_reducible apply keeps_endOp) | split | dsimp only | intro _

theorem keeps_migCtrlOp {sz s : State} (v : Nat)
    (hk : Keeps sz s) : Keeps sz (migCtrlOp v s) := by
  unfold migCtrlOp
  repeat' first
    | with_reducible assumption | (simp only [↓keeps_mk, kernel_eta, ← keeps_iff])
    | (with_reducible apply keeps_record) | split | dsimp only | intro _

theorem keeps_promote {s0 s : State} (demote : Nat) (l : List (Nat × Nat × Nat)) (n : Nat) (hk : Keeps s0 s) :
    Keeps s0 (promote demote l n s) := by
  induction l generalizing n s with
  | nil => cases n <;> exact hk
  | cons e l ih =>
    obtain ⟨asid, page, a⟩ := e
    cases n with
    | zero => exact hk
    | succ n =>
      rw [promote]
      repeat' first
        | with_reducible assumption | (with_reducible apply ih) | (with_reducible apply keeps_beginMigration)
        | split | dsimp only

theorem keeps_migrationEpochOp {sz s : State}
    (hk : Keeps sz s) : Keeps sz (migrationEpochOp s) := by
  unfold migrationEpochOp
  repeat' first
    | with_reducible assumption | (simp only [↓keeps_mk, kernel_eta, ← keeps_iff])
    | (with_reducible apply keeps_passTo) | (with_reducible apply keeps_leaveBad)
    | (with_reducible apply keeps_promote) | split | dsimp only | intro _

theorem keeps_migrationDoneOp {sz s : State} (asid page : Nat) (readOk : Bool)
    (hk : Keeps sz s) : Keeps sz (migrationDoneOp asid page readOk s) := by
  unfold migrationDoneOp
  repeat' first
    | with_reducible assumption | (simp only [↓keeps_mk, kernel_eta, ← keeps_iff])
    | (with_reducible apply keeps_wakeMigrated) | (with_reducible apply keeps_cancelMigration)
    | (with_reducible apply keeps_installMigration) | split | dsimp only | intro _

theorem keeps_judgeTile {sz s : State} (p : Nat) (spareOk : List Nat)
    (hk : Keeps sz s) : Keeps sz (judgeTile p spareOk s) := by
  unfold judgeTile
  repeat' first
    | with_reducible assumption | (simp only [↓keeps_mk, kernel_eta, ← keeps_iff])
    | (with_reducible apply keeps_setTile) | (with_reducible apply keeps_record)
    | (with_reducible apply keeps_retireTile) | split | dsimp only | intro _

theorem keeps_speedSampleOp {sz s : State} (rates : List (Nat × Nat)) (spareOk : List Nat)
    (hk : Keeps sz s) : Keeps sz (speedSampleOp rates spareOk s) := by
  unfold speedSampleOp
  repeat' first
    | with_reducible assumption | (simp only [↓keeps_mk, kernel_eta, ← keeps_iff])
    | (with_reducible apply keeps_updTile) | (with_reducible apply keeps_passTo)
    | (with_reducible apply keeps_judgeTile) | (with_reducible refine Keeps.foldl (fun _ _ _ => ?_) _ ?_) | split
    | dsimp only | intro _

theorem keeps_viewOp {sz s : State} (v : Nat)
    (hk : Keeps sz s) : Keeps sz (viewOp v s) := by
  unfold viewOp
  repeat' first
    | with_reducible assumption | (simp only [↓keeps_mk, kernel_eta, ← keeps_iff])
    | (with_reducible apply keeps_runCopy) | split | dsimp only | intro _

end Sys2Proof.Machine
end

