-- ==== Sys2Proof/Laws/KeepsImages.lean ====
section
/-! SUPPORT. What the shared operations of Machine/Images.lean keep. -/

set_option linter.unusedSimpArgs false
set_option maxRecDepth 4000

namespace Sys2Proof.Machine

theorem keeps_epilogueStart {sz s : State} (p : Nat)
    (hk : Keeps sz s) : Keeps sz (epilogueStart p s) := by
  unfold epilogueStart
  repeat' first
    | with_reducible assumption | (simp only [↓keeps_mk, kernel_eta, ← keeps_iff])
    | (with_reducible apply keeps_setTile) | (with_reducible apply keeps_markWork)
    | (with_reducible apply keeps_writeN) | split | dsimp only | intro _

theorem keeps_runFlags {sz s : State} (name : Nat) (r : VecRun) (whole : Bool)
    (hk : Keeps sz s) : Keeps sz (runFlags name r whole s) := by
  unfold runFlags
  repeat' first
    | with_reducible assumption | (simp only [↓keeps_mk, kernel_eta, ← keeps_iff])
    | (with_reducible apply keeps_updOp) | split | dsimp only | intro _

theorem keeps_streamFlags {sz s : State} (p : Nat) (whole : Bool)
    (hk : Keeps sz s) : Keeps sz (streamFlags p whole s) := by
  unfold streamFlags
  repeat' first
    | with_reducible assumption | (simp only [↓keeps_mk, kernel_eta, ← keeps_iff])
    | (with_reducible apply keeps_runFlags) | split | dsimp only | intro _

theorem keeps_killRuns {sz s : State} (tag : Nat)
    (hk : Keeps sz s) : Keeps sz (killRuns tag s) := by
  unfold killRuns
  repeat' first
    | with_reducible assumption | (simp only [↓keeps_mk, kernel_eta, ← keeps_iff])
    | (with_reducible apply keeps_updTile) | (with_reducible apply keeps_updOp)
    | (with_reducible apply keeps_runFlags) | (with_reducible apply keeps_streamFlags)
    | (with_reducible refine Keeps.foldl (fun _ _ _ => ?_) _ ?_) | split | dsimp only | intro _

theorem keeps_streamStop {sz s : State} (p tag : Nat) (e : Stop) (write : Bool)
    (hk : Keeps sz s) : Keeps sz (streamStop p tag e write s) := by
  unfold streamStop
  repeat' first
    | with_reducible assumption | (simp only [↓keeps_mk, kernel_eta, ← keeps_iff])
    | (with_reducible apply keeps_updOp) | (with_reducible apply keeps_stopIssued)
    | (with_reducible apply keeps_killRuns) | split | dsimp only | intro _

theorem keeps_pumpSlot {sz x1 : State} (p slot x0 : Nat)
    (hk : Keeps sz x1) : Keeps sz (pumpSlot p slot x0 x1) := by
  induction x0 generalizing x1 with
  | zero => exact hk
  | succ _ ih =>
    unfold pumpSlot
    repeat' first
      | with_reducible assumption | (with_reducible apply ih) | (simp only [↓keeps_mk, kernel_eta, ← keeps_iff])
      | (with_reducible apply keeps_setTile) | (with_reducible apply keeps_streamStop) | split | dsimp only
      | intro _

theorem keeps_endRing {sz s : State} (p c m : Nat) (ws : List PortWord)
    (hk : Keeps sz s) : Keeps sz (endRing p c m ws s) := by
  unfold endRing
  repeat' first
    | with_reducible assumption | (simp only [↓keeps_mk, kernel_eta, ← keeps_iff])
    | (with_reducible apply keeps_updTile) | (with_reducible apply keeps_setPort)
    | (with_reducible apply keeps_freePort) | (with_reducible apply keeps_refill) | split | dsimp only | intro _

theorem keeps_pumpRing {sz x1 : State} (p c x0 : Nat)
    (hk : Keeps sz x1) : Keeps sz (pumpRing p c x0 x1) := by
  induction x0 generalizing x1 with
  | zero => exact hk
  | succ _ ih =>
    unfold pumpRing
    repeat' first
      | with_reducible assumption | (with_reducible apply ih) | (simp only [↓keeps_mk, kernel_eta, ← keeps_iff])
      | (with_reducible apply keeps_setTile) | (with_reducible apply keeps_setPort)
      | (with_reducible apply keeps_refill) | (with_reducible apply keeps_endRing) | split | dsimp only | intro _

theorem keeps_pumpRings {sz s : State} (p : Nat)
    (hk : Keeps sz s) : Keeps sz (pumpRings p s) := by
  unfold pumpRings
  repeat' first
    | with_reducible assumption | (simp only [↓keeps_mk, kernel_eta, ← keeps_iff])
    | (with_reducible apply keeps_pumpRing) | (with_reducible refine Keeps.foldl (fun _ _ _ => ?_) _ ?_) | split
    | dsimp only | intro _

theorem keeps_pumpSlots {sz x1 : State} (p x0 : Nat)
    (hk : Keeps sz x1) : Keeps sz (pumpSlots p x0 x1) := by
  induction x0 generalizing x1 with
  | zero => exact hk
  | succ _ ih =>
    unfold pumpSlots
    repeat' first
      | with_reducible assumption | (with_reducible apply ih) | (simp only [↓keeps_mk, kernel_eta, ← keeps_iff])
      | (with_reducible apply keeps_setTile) | (with_reducible apply keeps_pumpSlot) | split | dsimp only
      | intro _

theorem keeps_pumpTile {sz s : State} (p : Nat)
    (hk : Keeps sz s) : Keeps sz (pumpTile p s) := by
  unfold pumpTile
  repeat' first
    | with_reducible assumption | (simp only [↓keeps_mk, kernel_eta, ← keeps_iff])
    | (with_reducible apply keeps_pumpRings) | (with_reducible apply keeps_pumpSlots)
    | (with_reducible refine Keeps.foldl (fun _ _ _ => ?_) _ ?_) | split | dsimp only | intro _

theorem keeps_readResponseOp {sz s : State} (p slot line : Nat) (bad : Bool)
    (hk : Keeps sz s) : Keeps sz (readResponseOp p slot line bad s) := by
  unfold readResponseOp
  repeat' first
    | with_reducible assumption | (simp only [↓keeps_mk, kernel_eta, ← keeps_iff])
    | (with_reducible apply keeps_setTile) | (with_reducible apply keeps_countAccess)
    | (with_reducible apply keeps_readFlits) | (with_reducible apply keeps_lineFlits)
    | (with_reducible apply keeps_walkEvent) | (with_reducible apply keeps_badRead)
    | (with_reducible apply keeps_streamStop) | (with_reducible apply keeps_pumpTile) | split | dsimp only
    | intro _

theorem keeps_startStream {sz s : State} (o : Op) (j n p : Nat)
    (hk : Keeps sz s) : Keeps sz (startStream o j n p s) := by
  unfold startStream
  repeat' first
    | with_reducible assumption | (simp only [↓keeps_mk, kernel_eta, ← keeps_iff])
    | (with_reducible apply keeps_setTile) | (with_reducible apply keeps_record)
    | (with_reducible apply keeps_markWork) | (with_reducible apply keeps_pumpTile)
    | (with_reducible refine Keeps.foldl (fun _ _ _ => ?_) _ ?_) | split | dsimp only | intro _

theorem keeps_tileprogOp {sz s : State} (tag : Nat) (want : List Nat) (o : Op)
    (hk : Keeps sz s) : Keeps sz (tileprogOp tag want o s) := by
  unfold tileprogOp
  repeat' first
    | with_reducible assumption | (simp only [↓keeps_mk, kernel_eta, ← keeps_iff])
    | (with_reducible apply keeps_updTile) | (with_reducible apply keeps_setOp)
    | (with_reducible apply keeps_updOp) | (with_reducible apply keeps_holdPort)
    | (with_reducible apply keeps_refuseOp) | (with_reducible apply keeps_finishRuns)
    | (with_reducible apply keeps_pumpTile) | (with_reducible apply keeps_startStream)
    | (with_reducible refine Keeps.foldl (fun _ _ _ => ?_) _ ?_) | split | dsimp only | intro _

end Sys2Proof.Machine
end

