-- ==== Sys2Proof/Laws/KeepsVector.lean ====
section
/-! SUPPORT. What the shared operations of Machine/Vector.lean keep. -/

set_option linter.unusedSimpArgs false
set_option maxRecDepth 4000

namespace Sys2Proof.Machine

theorem keeps_drainStream {sz x1 : State} (p x0 : Nat)
    (hk : Keeps sz x1) : Keeps sz (drainStream p x0 x1).2 := by
  induction x0 generalizing x1 with
  | zero =>
    unfold drainStream
    repeat' first
      | with_reducible assumption | (simp only [↓keeps_mk, kernel_eta, ← keeps_iff])
      | (with_reducible apply keeps_setTile) | (with_reducible apply keeps_updTile)
      | (with_reducible apply keeps_updOp) | (with_reducible apply keeps_deliverWith)
      | (with_reducible apply keeps_streamStop) | (refine KeepsE.use (by assumption) ?_)
      | (with_reducible exact KeepsE.error) | (with_reducible refine KeepsE.ok ?_)
      | (with_reducible refine KeepsE.mapError ?_) | (with_reducible refine KeepsE.map ?_ (fun _ _ => ?_)) | split
      | dsimp only | intro _
  | succ _ ih =>
    unfold drainStream
    repeat' first
      | with_reducible assumption | (with_reducible apply ih) | (simp only [↓keeps_mk, kernel_eta, ← keeps_iff])
      | (with_reducible apply keeps_setTile) | (with_reducible apply keeps_updTile)
      | (with_reducible apply keeps_updOp) | (with_reducible apply keeps_deliverWith)
      | (with_reducible apply keeps_streamStop) | (refine KeepsE.use (by assumption) ?_)
      | (with_reducible exact KeepsE.error) | (with_reducible refine KeepsE.ok ?_)
      | (with_reducible refine KeepsE.mapError ?_) | (with_reducible refine KeepsE.map ?_ (fun _ _ => ?_)) | split
      | dsimp only | intro _

theorem keeps_freeVx {sz s : State} (p kind : Nat)
    (hk : Keeps sz s) : Keeps sz (freeVx p kind s) := by
  unfold freeVx
  repeat' first
    | with_reducible assumption | (simp only [↓keeps_mk, kernel_eta, ← keeps_iff])
    | (with_reducible apply keeps_updTile) | split | dsimp only | intro _

theorem keeps_oneLess {sz s : State} (tag : Nat)
    (hk : Keeps sz s) : Keeps sz (oneLess tag s) := by
  unfold oneLess
  repeat' first
    | with_reducible assumption | (simp only [↓keeps_mk, kernel_eta, ← keeps_iff])
    | (with_reducible apply keeps_updOp) | split | dsimp only | intro _

theorem keeps_giveOwn {sz s : State} (p : Nat) (b : EpiBlock) (r : VecRun) (w : EpiOwn)
    (hk : Keeps sz s) : Keeps sz (giveOwn p b r w s).2 := by
  unfold giveOwn
  repeat' first
    | with_reducible assumption | (simp only [↓keeps_mk, kernel_eta, ← keeps_iff])
    | (with_reducible apply keeps_updOp) | (with_reducible apply keeps_stopIssued)
    | (with_reducible apply keeps_blockDone) | (with_reducible apply keeps_deliverBlock)
    | (with_reducible apply keeps_partDone) | (with_reducible apply keeps_oneLess)
    | (refine Keeps.use (by assumption) ?_) | split | dsimp only | intro _

theorem keeps_endEpilogue {sz s : State} (p : Nat)
    (hk : Keeps sz s) : Keeps sz (endEpilogue p s) := by
  unfold endEpilogue
  repeat' first
    | with_reducible assumption | (with_reducible refine Keeps.foldl_snd (fun _ _ _ => ?_) _ ?_)
    | (simp only [↓keeps_mk, kernel_eta, ← keeps_iff]) | (with_reducible apply keeps_updTile)
    | (with_reducible apply keeps_finishRuns) | (with_reducible apply keeps_freeVx)
    | (with_reducible apply keeps_giveOwn) | (refine Keeps.use (by assumption) ?_)
    | (with_reducible refine Keeps.foldl (fun _ _ _ => ?_) _ ?_) | split | dsimp only | intro _

theorem keeps_endStream {sz s : State} (p : Nat) (o : Op)
    (hk : Keeps sz s) : Keeps sz (endStream p o s) := by
  unfold endStream
  repeat' first
    | with_reducible assumption | (simp only [↓keeps_mk, kernel_eta, ← keeps_iff])
    | (with_reducible apply keeps_finishRuns) | (with_reducible apply keeps_streamFlags)
    | (with_reducible apply keeps_streamStop) | (with_reducible apply keeps_drainStream)
    | (with_reducible apply keeps_freeVx) | (refine Keeps.use (by assumption) ?_) | split | dsimp only | intro _

theorem keeps_haltRun {sz s : State} (p : Nat)
    (hk : Keeps sz s) : Keeps sz (haltRun p s) := by
  unfold haltRun
  repeat' first
    | with_reducible assumption | (simp only [↓keeps_mk, kernel_eta, ← keeps_iff])
    | (with_reducible apply keeps_endEpilogue) | (with_reducible apply keeps_endStream) | split | dsimp only
    | intro _

theorem keeps_stopDenied {sz s : State} (a tag : Nat)
    (hk : Keeps sz s) : Keeps sz (stopDenied a tag s) := by
  unfold stopDenied
  repeat' first
    | with_reducible assumption | (simp only [↓keeps_mk, kernel_eta, ← keeps_iff])
    | (with_reducible apply keeps_updOp) | (with_reducible apply keeps_finishRuns)
    | (with_reducible apply keeps_killRuns) | split | dsimp only | intro _

theorem keeps_faultOwn {sz s : State} (b : EpiBlock) (r : VecRun) (w : EpiOwn)
    (hk : Keeps sz s) : Keeps sz (faultOwn b r w s).2 := by
  unfold faultOwn
  repeat' first
    | with_reducible assumption | (simp only [↓keeps_mk, kernel_eta, ← keeps_iff])
    | (with_reducible apply keeps_updOp) | (with_reducible apply keeps_stopIssued)
    | (with_reducible apply keeps_deliverPart) | (with_reducible apply keeps_partDone)
    | (refine Keeps.use (by assumption) ?_) | split | dsimp only | intro _

theorem keeps_giveEmitted {sz s : State} (p : Nat)
    (hk : Keeps sz s) : Keeps sz (giveEmitted p s).2 := by
  unfold giveEmitted
  repeat' first
    | with_reducible assumption | (with_reducible refine Keeps.foldl_snd (fun _ _ _ => ?_) _ ?_)
    | (simp only [↓keeps_mk, kernel_eta, ← keeps_iff]) | (with_reducible apply keeps_drainStream)
    | (with_reducible apply keeps_faultOwn) | (refine Keeps.use (by assumption) ?_)
    | (with_reducible refine Keeps.foldl (fun _ _ _ => ?_) _ ?_)
    | (with_reducible refine Keeps.foldl_snd (fun _ _ _ => ?_) _ ?_) | split | dsimp only | intro _

theorem keeps_vxFaultOp {sz s : State} (p a : Nat)
    (hk : Keeps sz s) : Keeps sz (vxFaultOp p a s) := by
  unfold vxFaultOp
  repeat' first
    | with_reducible assumption | (simp only [↓keeps_mk, kernel_eta, ← keeps_iff])
    | (with_reducible apply keeps_updTile) | (with_reducible apply keeps_record)
    | (with_reducible apply keeps_streamFlags) | (with_reducible apply keeps_freeVx)
    | (with_reducible apply keeps_stopDenied) | (with_reducible apply keeps_giveEmitted)
    | (refine Keeps.use (by assumption) ?_) | (with_reducible refine Keeps.foldl (fun _ _ _ => ?_) _ ?_) | split
    | dsimp only | intro _

theorem keeps_settle {sz s : State} (p : Nat)
    (hk : Keeps sz s) : Keeps sz (settle p s) := by
  unfold settle
  repeat' first
    | with_reducible assumption | (simp only [↓keeps_mk, kernel_eta, ← keeps_iff])
    | (with_reducible apply keeps_haltRun) | split | dsimp only | intro _

theorem keeps_vxWith {sz s : State} (p opc : Nat) (f : Op → Nat → VecRun → Memory → Except Nat (VecRun × Memory))
    (hk : Keeps sz s) : Keeps sz (vxWith p opc f s) := by
  unfold vxWith
  repeat' first
    | with_reducible assumption | (simp only [↓keeps_mk, kernel_eta, ← keeps_iff])
    | (with_reducible apply keeps_setTile) | (with_reducible apply keeps_vxFaultOp)
    | (with_reducible apply keeps_settle) | split | dsimp only | intro _

theorem keeps_vx {sz s : State} (p opc : Nat) (f : Op → Nat → VecRun → VecRun)
    (hk : Keeps sz s) : Keeps sz (vx p opc f s) := by
  unfold vx
  repeat' first
    | with_reducible assumption | (simp only [↓keeps_mk, kernel_eta, ← keeps_iff])
    | (with_reducible apply keeps_vxWith) | split | dsimp only | intro _

theorem keeps_swaitOp {sz s : State} (p : Nat)
    (hk : Keeps sz s) : Keeps sz (swaitOp p s) := by
  unfold swaitOp
  repeat' first
    | with_reducible assumption | (simp only [↓keeps_mk, kernel_eta, ← keeps_iff])
    | (with_reducible apply keeps_pumpRings) | (with_reducible apply keeps_vxWith) | split | dsimp only | intro _

theorem keeps_vemitOp {sz s : State} (p : Nat)
    (hk : Keeps sz s) : Keeps sz (vemitOp p s) := by
  unfold vemitOp
  repeat' first
    | with_reducible assumption | (simp only [↓keeps_mk, kernel_eta, ← keeps_iff])
    | (with_reducible apply keeps_setTile) | (with_reducible apply keeps_drainStream)
    | (with_reducible apply keeps_vxFaultOp) | (with_reducible apply keeps_settle)
    | (refine Keeps.use (by assumption) ?_) | split | dsimp only | intro _

theorem keeps_srelOp {sz s : State} (p : Nat)
    (hk : Keeps sz s) : Keeps sz (srelOp p s) := by
  unfold srelOp
  repeat' first
    | with_reducible assumption | (simp only [↓keeps_mk, kernel_eta, ← keeps_iff])
    | (with_reducible apply keeps_updTile) | (with_reducible apply keeps_pumpTile)
    | (with_reducible apply keeps_settle) | split | dsimp only | intro _

end Sys2Proof.Machine
end

