-- ==== Sys2Proof/Laws/KeepsFloe.lean ====
section
/-! SUPPORT. What the shared operations of Machine/Floe.lean keep. -/

set_option linter.unusedSimpArgs false
set_option maxRecDepth 4000

namespace Sys2Proof.Machine

theorem keeps_restartPart {sz s : State} (k e : Nat)
    (hk : Keeps sz s) : Keeps sz (restartPart k e s) := by
  unfold restartPart
  repeat' first
    | with_reducible assumption | (simp only [↓keeps_mk, kernel_eta, ← keeps_iff])
    | (with_reducible apply keeps_updOp) | split | dsimp only | intro _

theorem keeps_floeParityOp {sz s : State} (k e : Nat)
    (hk : Keeps sz s) : Keeps sz (floeParityOp k e s) := by
  unfold floeParityOp
  repeat' first
    | with_reducible assumption | (simp only [↓keeps_mk, kernel_eta, ← keeps_iff])
    | (with_reducible apply keeps_setFloe) | (with_reducible apply keeps_record)
    | (with_reducible apply keeps_restartPart) | split | dsimp only | intro _

theorem keeps_setKv {sz s : State} (k : KvPage) (hk : Keeps sz s) :
    Keeps sz (setKv k s) := hk

theorem keeps_writePage {sz x3 : State} (k : KvPage) (x0 x1 : Nat) (x2 : List Byte)
    (hk : Keeps sz x3) : Keeps sz (writePage k x0 x1 x2 x3) := by
  induction x0 generalizing x1 x2 x3 with
  | zero => exact hk
  | succ _ ih =>
    unfold writePage
    repeat' first
      | with_reducible assumption | (with_reducible apply ih) | (simp only [↓keeps_mk, kernel_eta, ← keeps_iff])
      | (with_reducible apply keeps_writeLine) | split | dsimp only | intro _

theorem keeps_putPage {sz s : State} (k : KvPage) (off : Nat) (bs : List Byte)
    (hk : Keeps sz s) : Keeps sz (putPage k off bs s) := by
  unfold putPage
  repeat' first
    | with_reducible assumption | (simp only [↓keeps_mk, kernel_eta, ← keeps_iff])
    | (with_reducible apply keeps_writePage) | split | dsimp only | intro _

theorem keeps_mapKv {sz s : State} (k : KvPage)
    (hk : Keeps sz s) : Keeps sz (mapKv k s) := by
  unfold mapKv
  repeat' first
    | with_reducible assumption | (simp only [↓keeps_mk, kernel_eta, ← keeps_iff])
    | (with_reducible refine Keeps.foldl (fun _ _ _ => ?_) _ ?_) | split | dsimp only | intro _

theorem keeps_allocPage {s0 s : State} (o : Op) (layer head page : Nat) (hk : Keeps s0 s) :
    KeepsP s0 (allocPage o layer head page s) := by
  unfold allocPage
  repeat' first
    | with_reducible assumption | (with_reducible apply keeps_writeRM) | (with_reducible apply keeps_putPage)
    | (with_reducible apply keeps_mapKv)
    | (simp only [↓keeps_mk, kernel_eta, ← keeps_iff]) | (with_reducible exact KeepsP.none)
    | (with_reducible refine KeepsP.some ?_) | (refine Keeps.use (by assumption) ?_) | split | dsimp only

theorem keeps_askLock {sz s : State} (k0 : KvPage) (tag : Nat) (write : Bool)
    (hk : Keeps sz s) : Keeps sz (askLock k0 tag write s).2 := by
  unfold askLock
  repeat' first
    | with_reducible assumption | (simp only [↓keeps_mk, kernel_eta, ← keeps_iff])
    | (with_reducible apply keeps_setFloe) | (with_reducible apply keeps_updOp)
    | (with_reducible apply keeps_setKv) | split | dsimp only | intro _

theorem keeps_dropLock {sz s : State} (asid entry tag : Nat)
    (hk : Keeps sz s) : Keeps sz (dropLock asid entry tag s) := by
  unfold dropLock
  repeat' first
    | with_reducible assumption | (simp only [↓keeps_mk, kernel_eta, ← keeps_iff])
    | (with_reducible apply keeps_setKv) | split | dsimp only | intro _

theorem keeps_dropLocks {sz s : State} (tag : Nat) (hk : Keeps sz s) :
    Keeps sz (dropLocks tag s) := hk

theorem keeps_lockGrantOp {sz s : State} (page : Nat)
    (hk : Keeps sz s) : Keeps sz (lockGrantOp page s) := by
  unfold lockGrantOp
  repeat' first
    | with_reducible assumption | (simp only [↓keeps_mk, kernel_eta, ← keeps_iff])
    | (with_reducible apply keeps_updOp) | (with_reducible apply keeps_setKv) | split | dsimp only | intro _

theorem keeps_putKvBlock {sz s : State} (k : KvPage) (o : Op) (value : Bool) (slot j : Nat) (codes : List Nat)
    (b : Nat)
    (hk : Keeps sz s) : Keeps sz (putKvBlock k o value slot j codes b s) := by
  unfold putKvBlock
  repeat' first
    | with_reducible assumption | (simp only [↓keeps_mk, kernel_eta, ← keeps_iff])
    | (with_reducible apply keeps_putPage) | split | dsimp only | intro _

theorem keeps_deliverKv {sz s : State} (k : KvPage) (tag : Nat) (value : Bool) (slot j l : Nat)
    (vs : List (XVal × Nat × Nat))
    (hk : Keeps sz s) : Keeps sz (deliverKv k tag value slot j l vs s) := by
  unfold deliverKv
  repeat' first
    | with_reducible assumption | (simp only [↓keeps_mk, kernel_eta, ← keeps_iff])
    | (with_reducible apply keeps_updOp) | (with_reducible apply keeps_updStats)
    | (with_reducible apply keeps_putKvBlock) | (with_reducible refine Keeps.foldl (fun _ _ _ => ?_) _ ?_) | split
    | dsimp only | intro _

theorem keeps_setWritten {sz s : State} (k : KvPage) (lo hi : Nat)
    (hk : Keeps sz s) : Keeps sz (setWritten k lo hi s) := by
  unfold setWritten
  repeat' first
    | with_reducible assumption | (simp only [↓keeps_mk, kernel_eta, ← keeps_iff])
    | (with_reducible apply keeps_putPage) | split | dsimp only | intro _

theorem keeps_appendPart {sz s : State} (tag : Nat) (o : Op) (page head : Nat)
    (hk : Keeps sz s) : Keeps sz (appendPart tag o page head s).2 := by
  unfold appendPart
  repeat' first
    | with_reducible assumption | (refine KeepsP.use (by assumption) ?_) | (with_reducible apply keeps_allocPage)
    | (with_reducible exact KeepsP.none) | (with_reducible refine KeepsP.some ?_)
    | (simp only [↓keeps_mk, kernel_eta, ← keeps_iff]) | (with_reducible apply keeps_updOp)
    | (with_reducible apply keeps_endOp) | (with_reducible apply keeps_markWork)
    | (with_reducible apply keeps_stopOp) | (with_reducible apply keeps_allocPage)
    | (with_reducible apply keeps_askLock) | (with_reducible apply keeps_dropLock)
    | (with_reducible apply keeps_deliverKv) | (with_reducible apply keeps_setWritten)
    | (refine Keeps.use (by assumption) ?_) | (with_reducible refine Keeps.foldl (fun _ _ _ => ?_) _ ?_)
    | (with_reducible refine Keeps.foldl_snd (fun _ _ _ => ?_) _ ?_) | split | dsimp only | intro _

theorem keeps_appendFrom {sz x1 : State} (tag x0 : Nat)
    (hk : Keeps sz x1) : Keeps sz (appendFrom tag x0 x1) := by
  induction x0 generalizing x1 with
  | zero => exact hk
  | succ _ ih =>
    unfold appendFrom
    repeat' first
      | with_reducible assumption | (with_reducible apply ih) | (simp only [↓keeps_mk, kernel_eta, ← keeps_iff])
      | (with_reducible apply keeps_updOp) | (with_reducible apply keeps_endOp)
      | (with_reducible apply keeps_appendPart) | (refine Keeps.use (by assumption) ?_) | split | dsimp only
      | intro _

theorem keeps_kvAppendOp {sz s : State} (tag : Nat) (o : Op)
    (hk : Keeps sz s) : Keeps sz (kvAppendOp tag o s) := by
  unfold kvAppendOp
  repeat' first
    | with_reducible assumption | (simp only [↓keeps_mk, kernel_eta, ← keeps_iff])
    | (with_reducible apply keeps_appendFrom) | split | dsimp only | intro _

theorem keeps_wakeWaiting {sz s : State} (k : KvPage)
    (hk : Keeps sz s) : Keeps sz (wakeWaiting k s) := by
  unfold wakeWaiting
  repeat' first
    | with_reducible assumption | (simp only [↓keeps_mk, kernel_eta, ← keeps_iff])
    | (with_reducible apply keeps_updOp) | (with_reducible refine Keeps.foldl (fun _ _ _ => ?_) _ ?_) | split
    | dsimp only | intro _

theorem keeps_truncPage {sz s : State} (o : Op) (k : KvPage)
    (hk : Keeps sz s) : Keeps sz (truncPage o k s).2 := by
  unfold truncPage
  repeat' first
    | with_reducible assumption | (simp only [↓keeps_mk, kernel_eta, ← keeps_iff])
    | (with_reducible apply keeps_writeRM) | (with_reducible apply keeps_unmapKv)
    | (with_reducible apply keeps_putPage) | (with_reducible apply keeps_wakeWaiting)
    | (refine Keeps.use (by assumption) ?_) | split | dsimp only | intro _

theorem keeps_truncAll {sz x1 : State} (tag : Nat) (o : Op) (x0 : List KvPage)
    (hk : Keeps sz x1) : Keeps sz (truncAll tag o x0 x1) := by
  induction x0 generalizing x1 with
  | nil => exact hk
  | cons _ _ ih =>
    unfold truncAll
    repeat' first
      | with_reducible assumption | (with_reducible apply ih) | (simp only [↓keeps_mk, kernel_eta, ← keeps_iff])
      | (with_reducible apply keeps_endOp) | (with_reducible apply keeps_stopOp)
      | (with_reducible apply keeps_askLock) | (with_reducible apply keeps_dropLock)
      | (with_reducible apply keeps_truncPage) | (refine Keeps.use (by assumption) ?_) | split | dsimp only
      | intro _

theorem keeps_optNote {sz s : State} (tag ix : Nat) (t : Tensor) (l fl k : Nat)
    (hk : Keeps sz s) : Keeps sz (optNote tag ix t l fl k s) := by
  unfold optNote
  repeat' first
    | with_reducible assumption | (simp only [↓keeps_mk, kernel_eta, ← keeps_iff])
    | (with_reducible apply keeps_updOp) | split | dsimp only | intro _

theorem keeps_optPut {sz s : State} (tag ix l : Nat) (o : Op) (t : Tensor) (vs : List (XVal × Nat × Nat))
    (hk : Keeps sz s) : KeepsE sz (optPut tag ix l o t vs s) := by
  unfold optPut
  repeat' first
    | with_reducible assumption | (simp only [↓keeps_mk, kernel_eta, ← keeps_iff])
    | (with_reducible apply keeps_deliverWith) | (with_reducible apply keeps_optNote)
    | (refine KeepsE.use (by assumption) ?_) | (with_reducible exact KeepsE.error)
    | (with_reducible refine KeepsE.ok ?_) | (with_reducible refine KeepsE.mapError ?_)
    | (with_reducible refine KeepsE.map ?_ (fun _ _ => ?_)) | split | dsimp only | intro _

theorem keeps_optAct {s0 s : State} (tag : Nat) (o : Op) (l n : Nat) (hk : Keeps s0 s) :
    KeepsE s0 (optAct tag o l n s) := by
  unfold optAct
  split
  · exact KeepsE.error
  · refine KeepsE.mapError (KeepsE.bind (keeps_optPut _ _ _ _ _ _ hk) fun s1 h1 =>
      KeepsE.bind (keeps_optPut _ _ _ _ _ _ h1) fun s2 h2 => KeepsE.bind (keeps_optPut _ _ _ _ _ _ h2) fun s3 h3 => ?_)
    split
    · exact keeps_optPut _ _ _ _ _ _ h3
    · exact KeepsE.ok h3

theorem keeps_optstepOp {sz s : State} (tag : Nat) (o : Op)
    (hk : Keeps sz s) : Keeps sz (optstepOp tag o s) := by
  unfold optstepOp
  repeat' first
    | with_reducible assumption | (simp only [↓keeps_mk, kernel_eta, ← keeps_iff])
    | (with_reducible apply keeps_driveBy) | (with_reducible apply keeps_optAct)
    | (refine KeepsE.use (by assumption) ?_) | (with_reducible exact KeepsE.error)
    | (with_reducible refine KeepsE.ok ?_) | (with_reducible refine KeepsE.mapError ?_)
    | (with_reducible refine KeepsE.map ?_ (fun _ _ => ?_)) | split | dsimp only | intro _

end Sys2Proof.Machine
end

