-- ==== Sys2Proof/Laws/KeepsAttend.lean ====
section
/-! SUPPORT. What the shared operations of Machine/Attend.lean keep. -/

set_option linter.unusedSimpArgs false
set_option maxRecDepth 4000

namespace Sys2Proof.Machine

theorem keeps_attendNote {sz s : State} (tag : Nat) (q : Nat → Nat) (l fl _k : Nat)
    (hk : Keeps sz s) : Keeps sz (attendNote tag q l fl _k s) := by
  unfold attendNote
  repeat' first
    | with_reducible assumption | (simp only [↓keeps_mk, kernel_eta, ← keeps_iff])
    | (with_reducible apply keeps_updOp) | split | dsimp only | intro _

theorem keeps_attendDeliver {sz x2 : State} (tag : Nat) (t : Tensor) (q : Nat → Nat) (val : Nat → XVal × Nat)
    (x0 x1 : Nat)
    (hk : Keeps sz x2) : KeepsE sz (attendDeliver tag t q val x0 x1 x2) := by
  induction x0 generalizing x1 x2 with
  | zero =>
    unfold attendDeliver
    repeat' first
      | with_reducible assumption | (simp only [↓keeps_mk, kernel_eta, ← keeps_iff])
      | (with_reducible apply keeps_deliverWith) | (with_reducible apply keeps_attendNote)
      | (refine KeepsE.use (by assumption) ?_) | (with_reducible exact KeepsE.error)
      | (with_reducible refine KeepsE.ok ?_) | (with_reducible refine KeepsE.mapError ?_)
      | (with_reducible refine KeepsE.map ?_ (fun _ _ => ?_)) | split | dsimp only | intro _
  | succ _ ih =>
    unfold attendDeliver
    repeat' first
      | with_reducible assumption | (with_reducible apply ih) | (simp only [↓keeps_mk, kernel_eta, ← keeps_iff])
      | (with_reducible apply keeps_deliverWith) | (with_reducible apply keeps_attendNote)
      | (refine KeepsE.use (by assumption) ?_) | (with_reducible exact KeepsE.error)
      | (with_reducible refine KeepsE.ok ?_) | (with_reducible refine KeepsE.mapError ?_)
      | (with_reducible refine KeepsE.map ?_ (fun _ _ => ?_)) | split | dsimp only | intro _

theorem keeps_attendWrite {sz s : State} (tag : Nat) (o : Op) (rs : List Flagged)
    (hk : Keeps sz s) : KeepsE sz (attendWrite tag o rs s) := by
  unfold attendWrite
  repeat' first
    | with_reducible assumption | (simp only [↓keeps_mk, kernel_eta, ← keeps_iff])
    | (with_reducible apply keeps_writeAll) | (with_reducible apply keeps_attendDeliver)
    | (refine KeepsE.use (by assumption) ?_) | (with_reducible exact KeepsE.error)
    | (with_reducible refine KeepsE.ok ?_) | (with_reducible refine KeepsE.mapError ?_)
    | (with_reducible refine KeepsE.map ?_ (fun _ _ => ?_)) | split | dsimp only | intro _

theorem keeps_attendRun {sz s : State} (tag : Nat) (order : List Nat) (o : Op)
    (hk : Keeps sz s) : Keeps sz (attendRun tag order o s) := by
  unfold attendRun
  repeat' first
    | with_reducible assumption | (simp only [↓keeps_mk, kernel_eta, ← keeps_iff])
    | (with_reducible apply keeps_updOp) | (with_reducible apply keeps_endOp)
    | (with_reducible apply keeps_markWork) | (with_reducible apply keeps_stopOp)
    | (with_reducible apply keeps_attendWrite) | (refine KeepsE.use (by assumption) ?_)
    | (with_reducible refine Keeps.foldl (fun _ _ _ => ?_) _ ?_) | (with_reducible exact KeepsE.error)
    | (with_reducible refine KeepsE.ok ?_) | (with_reducible refine KeepsE.mapError ?_)
    | (with_reducible refine KeepsE.map ?_ (fun _ _ => ?_)) | split | dsimp only | intro _

theorem keeps_readKvPage {sz s : State} (tag : Nat) (o : Op) (k : KvPage)
    (hk : Keeps sz s) : KeepsE sz (readKvPage tag o k s) := by
  unfold readKvPage
  repeat' first
    | with_reducible assumption | (with_reducible refine KeepsE.map' (fun _ => ?_))
    | (simp only [↓keeps_mk, kernel_eta, ← keeps_iff]) | (with_reducible apply keeps_setFloe)
    | (with_reducible apply keeps_updOp) | (with_reducible apply keeps_dropLock)
    | (with_reducible exact KeepsE.error) | (with_reducible refine KeepsE.ok ?_)
    | (with_reducible refine KeepsE.mapError ?_) | (with_reducible refine KeepsE.map ?_ (fun _ _ => ?_)) | split
    | dsimp only | intro _

theorem keeps_attendPagesFrom {sz x1 : State} (tag : Nat) (o : Op) (x0 : List KvPage)
    (hk : Keeps sz x1) : Keeps sz (attendPagesFrom tag o x0 x1).2 := by
  induction x0 generalizing x1 with
  | nil =>
    unfold attendPagesFrom
    repeat' first
      | with_reducible assumption | (simp only [↓keeps_mk, kernel_eta, ← keeps_iff])
      | (with_reducible apply keeps_updOp) | (with_reducible apply keeps_endOp)
      | (with_reducible apply keeps_stopOp) | (with_reducible apply keeps_askLock)
      | (with_reducible apply keeps_dropLocks) | (with_reducible apply keeps_readKvPage)
      | (refine Keeps.use (by assumption) ?_) | (refine KeepsE.use (by assumption) ?_)
      | (with_reducible exact KeepsE.error) | (with_reducible refine KeepsE.ok ?_)
      | (with_reducible refine KeepsE.mapError ?_) | (with_reducible refine KeepsE.map ?_ (fun _ _ => ?_)) | split
      | dsimp only | intro _
  | cons _ _ ih =>
    unfold attendPagesFrom
    repeat' first
      | with_reducible assumption | (with_reducible apply ih) | (simp only [↓keeps_mk, kernel_eta, ← keeps_iff])
      | (with_reducible apply keeps_updOp) | (with_reducible apply keeps_endOp)
      | (with_reducible apply keeps_stopOp) | (with_reducible apply keeps_askLock)
      | (with_reducible apply keeps_dropLocks) | (with_reducible apply keeps_readKvPage)
      | (refine Keeps.use (by assumption) ?_) | (refine KeepsE.use (by assumption) ?_)
      | (with_reducible exact KeepsE.error) | (with_reducible refine KeepsE.ok ?_)
      | (with_reducible refine KeepsE.mapError ?_) | (with_reducible refine KeepsE.map ?_ (fun _ _ => ?_)) | split
      | dsimp only | intro _

theorem keeps_attendOp {sz s : State} (tag : Nat) (order : List Nat) (o : Op)
    (hk : Keeps sz s) : Keeps sz (attendOp tag order o s) := by
  unfold attendOp
  repeat' first
    | with_reducible assumption | (simp only [↓keeps_mk, kernel_eta, ← keeps_iff])
    | (with_reducible apply keeps_attendRun) | (with_reducible apply keeps_attendPagesFrom)
    | (refine Keeps.use (by assumption) ?_) | split | dsimp only | intro _

end Sys2Proof.Machine
end

