-- ==== Sys2Proof/Laws/KeepsPreempt.lean ====
section
/-! SUPPORT. What the shared operations of Machine/Preempt.lean keep. -/

set_option linter.unusedSimpArgs false
set_option maxRecDepth 4000

namespace Sys2Proof.Machine

theorem keeps_preemptRing {sz s : State} (g : Nat)
    (hk : Keeps sz s) : Keeps sz (preemptRing g s) := by
  unfold preemptRing
  repeat' first
    | with_reducible assumption | (simp only [↓keeps_mk, kernel_eta, ← keeps_iff])
    | (with_reducible apply keeps_keepContext) | (with_reducible apply keeps_reclaimRing)
    | (with_reducible refine Keeps.foldl (fun _ _ _ => ?_) _ ?_) | split | dsimp only | intro _

theorem keeps_bufferOut {sz s : State} (k tag : Nat)
    (hk : Keeps sz s) : Keeps sz (bufferOut k tag s) := by
  unfold bufferOut
  repeat' first
    | with_reducible assumption | (simp only [↓keeps_mk, kernel_eta, ← keeps_iff])
    | (with_reducible apply keeps_setFloe) | split | dsimp only | intro _

theorem keeps_giveWay {sz s : State} (u : RunUnit × Nat)
    (hk : Keeps sz s) : Keeps sz (giveWay u s) := by
  unfold giveWay
  repeat' first
    | with_reducible assumption | (simp only [↓keeps_mk, kernel_eta, ← keeps_iff])
    | (with_reducible apply keeps_keepContext) | (with_reducible apply keeps_preemptRing)
    | (with_reducible apply keeps_bufferOut) | split | dsimp only | intro _

theorem keeps_preemptOp {sz s : State} (p q : Nat) (stream : Bool) (prio : Nat)
    (hk : Keeps sz s) : Keeps sz (preemptOp p q stream prio s) := by
  unfold preemptOp
  repeat' first
    | with_reducible assumption | (simp only [↓keeps_mk, kernel_eta, ← keeps_iff])
    | (with_reducible apply keeps_giveWay) | split | dsimp only | intro _

end Sys2Proof.Machine
end

