-- ==== Sys2Proof/Laws/KeepsTrnCmds.lean ====
section
/-! SUPPORT. What the shared operations of Machine/TrnCmds.lean keep. -/

set_option linter.unusedSimpArgs false
set_option maxRecDepth 4000

namespace Sys2Proof.Machine

theorem keeps_atTurnstile {sz s : State} (tag : Nat)
    (hk : Keeps sz s) : Keeps sz (atTurnstile tag s) := by
  unfold atTurnstile
  repeat' first
    | with_reducible assumption | (simp only [↓keeps_mk, kernel_eta, ← keeps_iff])
    | (with_reducible apply keeps_updOp) | (with_reducible apply keeps_turnstileFlit) | split | dsimp only
    | intro _

theorem keeps_trnArriveOp {sz s : State} (tag : Nat) (o : Op)
    (hk : Keeps sz s) : Keeps sz (trnArriveOp tag o s) := by
  unfold trnArriveOp
  repeat' first
    | with_reducible assumption | (simp only [↓keeps_mk, kernel_eta, ← keeps_iff])
    | (with_reducible apply keeps_arriveAt) | (with_reducible apply keeps_letIn)
    | (with_reducible apply keeps_sendTrnOp) | (with_reducible apply keeps_atTurnstile) | split | dsimp only
    | intro _

theorem keeps_trnWaitOp {sz s : State} (tag : Nat) (o : Op)
    (hk : Keeps sz s) : Keeps sz (trnWaitOp tag o s) := by
  unfold trnWaitOp
  repeat' first
    | with_reducible assumption | (simp only [↓keeps_mk, kernel_eta, ← keeps_iff])
    | (with_reducible apply keeps_waitAt) | (with_reducible apply keeps_atTurnstile) | split | dsimp only
    | intro _

theorem keeps_trnArriveWaitOp {sz s : State} (tag : Nat) (o : Op)
    (hk : Keeps sz s) : Keeps sz (trnArriveWaitOp tag o s) := by
  unfold trnArriveWaitOp
  repeat' first
    | with_reducible assumption | (simp only [↓keeps_mk, kernel_eta, ← keeps_iff])
    | (with_reducible apply keeps_arriveAt) | (with_reducible apply keeps_letIn)
    | (with_reducible apply keeps_sendTrnOp) | (with_reducible apply keeps_atTurnstile) | split | dsimp only
    | intro _

theorem keeps_signalOp {sz s : State} (tag : Nat) (o : Op)
    (hk : Keeps sz s) : Keeps sz (signalOp tag o s) := by
  unfold signalOp
  repeat' first
    | with_reducible assumption | (simp only [↓keeps_mk, kernel_eta, ← keeps_iff])
    | (with_reducible apply keeps_sendCasc) | (with_reducible apply keeps_takeFence)
    | (with_reducible apply keeps_refuseOp) | (with_reducible apply keeps_atTurnstile)
    | (with_reducible apply keeps_trnArriveOp) | (refine Keeps.use (by assumption) ?_) | split | dsimp only
    | intro _

theorem keeps_withdraw {sz s : State} (test : Waiter → Bool) (hk : Keeps sz s) :
    Keeps sz (withdraw test s) := hk

theorem keeps_peerTimeout {sz s : State} (dev mark : Nat) (byOp : Bool)
    (hk : Keeps sz s) : Keeps sz (peerTimeout dev mark byOp s) := by
  unfold peerTimeout
  repeat' first
    | with_reducible assumption | (simp only [↓keeps_mk, kernel_eta, ← keeps_iff])
    | (with_reducible apply keeps_answerPeer) | (with_reducible apply keeps_letIn)
    | (with_reducible apply keeps_withdraw) | split | dsimp only | intro _

theorem keeps_trnTimeoutOp {sz s : State} (tag : Nat)
    (hk : Keeps sz s) : Keeps sz (trnTimeoutOp tag s) := by
  unfold trnTimeoutOp
  repeat' first
    | with_reducible assumption | (simp only [↓keeps_mk, kernel_eta, ← keeps_iff])
    | (with_reducible apply keeps_passTo) | (with_reducible apply keeps_endOp)
    | (with_reducible apply keeps_letIn) | split | dsimp only | intro _

theorem keeps_groupGenOp {sz s : State} (t gen : Nat)
    (hk : Keeps sz s) : Keeps sz (groupGenOp t gen s) := by
  unfold groupGenOp
  repeat' first
    | with_reducible assumption | (simp only [↓keeps_mk, kernel_eta, ← keeps_iff])
    | (with_reducible apply keeps_setTrn) | (with_reducible apply keeps_releaseWaiter)
    | (with_reducible apply keeps_letIn) | (with_reducible refine Keeps.foldl (fun _ _ _ => ?_) _ ?_) | split
    | dsimp only | intro _

theorem keeps_trnCfgOp {sz s : State} (t v : Nat)
    (hk : Keeps sz s) : Keeps sz (trnCfgOp t v s) := by
  unfold trnCfgOp
  repeat' first
    | with_reducible assumption | (simp only [↓keeps_mk, kernel_eta, ← keeps_iff])
    | (with_reducible apply keeps_setTrn) | split | dsimp only | intro _

theorem keeps_recordForce {sz s : State} (t op v : Nat)
    (hk : Keeps sz s) : Keeps sz (recordForce t op v s) := by
  unfold recordForce
  repeat' first
    | with_reducible assumption | (simp only [↓keeps_mk, kernel_eta, ← keeps_iff])
    | (with_reducible apply keeps_record) | split | dsimp only | intro _

theorem keeps_afterForce {sz s : State} (t : Nat)
    (hk : Keeps sz s) : Keeps sz (afterForce t s) := by
  unfold afterForce
  repeat' first
    | with_reducible assumption | (simp only [↓keeps_mk, kernel_eta, ← keeps_iff])
    | (with_reducible apply keeps_settleTrn) | (with_reducible apply keeps_letIn) | split | dsimp only | intro _

theorem keeps_recountMany {sz x1 : State} (t x0 : Nat)
    (hk : Keeps sz x1) : Keeps sz (recountMany t x0 x1) := by
  induction x0 generalizing x1 with
  | zero => exact hk
  | succ _ ih =>
    unfold recountMany
    repeat' first
      | with_reducible assumption | (with_reducible apply ih) | (simp only [↓keeps_mk, kernel_eta, ← keeps_iff])
      | (with_reducible apply keeps_recount) | split | dsimp only | intro _

theorem keeps_setCountOp {sz s : State} (t v : Nat)
    (hk : Keeps sz s) : Keeps sz (setCountOp t v s) := by
  unfold setCountOp
  repeat' first
    | with_reducible assumption | (simp only [↓keeps_mk, kernel_eta, ← keeps_iff])
    | (with_reducible apply keeps_setTrn) | (with_reducible apply keeps_recordForce)
    | (with_reducible apply keeps_afterForce) | (with_reducible apply keeps_recountMany) | split | dsimp only
    | intro _

theorem keeps_setGenOp {sz s : State} (t v : Nat)
    (hk : Keeps sz s) : Keeps sz (setGenOp t v s) := by
  unfold setGenOp
  repeat' first
    | with_reducible assumption | (simp only [↓keeps_mk, kernel_eta, ← keeps_iff])
    | (with_reducible apply keeps_sendCasc) | (with_reducible apply keeps_setTrn)
    | (with_reducible apply keeps_releaseWaiter) | (with_reducible apply keeps_recordForce)
    | (with_reducible apply keeps_afterForce) | (with_reducible refine Keeps.foldl (fun _ _ _ => ?_) _ ?_) | split
    | dsimp only | intro _

theorem keeps_completeGenOp {sz s : State} (t v : Nat)
    (hk : Keeps sz s) : Keeps sz (completeGenOp t v s) := by
  unfold completeGenOp
  repeat' first
    | with_reducible assumption | (simp only [↓keeps_mk, kernel_eta, ← keeps_iff])
    | (with_reducible apply keeps_completeTrn) | (with_reducible apply keeps_recordForce)
    | (with_reducible apply keeps_afterForce) | split | dsimp only | intro _

theorem keeps_setWatcher {sz s : State} (w : Nat) (x : Watcher) (hk : Keeps sz s) :
    Keeps sz (setWatcher s w x) := hk

theorem keeps_deadlockOp {sz s : State} (w : Nat)
    (hk : Keeps sz s) : Keeps sz (deadlockOp w s) := by
  unfold deadlockOp
  repeat' first
    | with_reducible assumption | (simp only [↓keeps_mk, kernel_eta, ← keeps_iff])
    | (with_reducible apply keeps_passTo) | (with_reducible apply keeps_sendMsix)
    | (with_reducible apply keeps_record) | (with_reducible apply keeps_setWatcher) | split | dsimp only | intro _

end Sys2Proof.Machine
end

