-- ==== Sys2Proof/Laws/KeepsLinks.lean ====
section
/-! SUPPORT. What the shared operations of Machine/Links.lean keep. -/

set_option linter.unusedSimpArgs false
set_option maxRecDepth 4000

namespace Sys2Proof.Machine

theorem keeps_ledgerLink {sz s : State} (f : Ledger → Ledger) (hk : Keeps sz s) :
    Keeps sz (ledgerLink f s) := hk

theorem keeps_endLinkError {sz s : State} (test : Op → Bool)
    (hk : Keeps sz s) : Keeps sz (endLinkError test s) := by
  unfold endLinkError
  repeat' first
    | with_reducible assumption | (simp only [↓keeps_mk, kernel_eta, ← keeps_iff])
    | (with_reducible apply keeps_endOp) | (with_reducible refine Keeps.foldl (fun _ _ _ => ?_) _ ?_) | split
    | dsimp only | intro _

theorem keeps_losePath {sz s : State} (dev : Nat)
    (hk : Keeps sz s) : Keeps sz (losePath dev s) := by
  unfold losePath
  repeat' first
    | with_reducible assumption | (simp only [↓keeps_mk, kernel_eta, ← keeps_iff])
    | (with_reducible apply keeps_letIn) | (with_reducible apply keeps_endLinkError) | split | dsimp only
    | intro _

theorem keeps_leaveGroup {sz s : State}
    (hk : Keeps sz s) : Keeps sz (leaveGroup s) := by
  unfold leaveGroup
  repeat' first
    | with_reducible assumption | (simp only [↓keeps_mk, kernel_eta, ← keeps_iff])
    | (with_reducible apply keeps_letIn) | (with_reducible apply keeps_endLinkError)
    | (with_reducible apply keeps_losePath) | (with_reducible refine Keeps.foldl (fun _ _ _ => ?_) _ ?_) | split
    | dsimp only | intro _

theorem keeps_keepReach {sz s : State} (reach : Nat)
    (hk : Keeps sz s) : Keeps sz (keepReach reach s) := by
  unfold keepReach
  repeat' first
    | with_reducible assumption | (simp only [↓keeps_mk, kernel_eta, ← keeps_iff])
    | (with_reducible apply keeps_losePath) | (with_reducible apply keeps_leaveGroup)
    | (with_reducible refine Keeps.foldl (fun _ _ _ => ?_) _ ?_) | split | dsimp only | intro _

theorem keeps_rerouteLink {sz s : State} (l : Nat) (x : CascLink)
    (hk : Keeps sz s) : Keeps sz (rerouteLink l x s) := by
  unfold rerouteLink
  repeat' first
    | with_reducible assumption | (simp only [↓keeps_mk, kernel_eta, ← keeps_iff])
    | (with_reducible apply keeps_setLink) | (with_reducible apply keeps_queueMsg)
    | (with_reducible refine Keeps.foldl (fun _ _ _ => ?_) _ ?_) | split | dsimp only | intro _

theorem keeps_endScan {sz s : State} (errors n : Nat) (hk : Keeps sz s) :
    Keeps sz (endScan errors n s) := hk

theorem keeps_scanLost {sz s : State} (test : Nat → Bool)
    (hk : Keeps sz s) : Keeps sz (scanLost test s) := by
  unfold scanLost
  repeat' first
    | with_reducible assumption | (simp only [↓keeps_mk, kernel_eta, ← keeps_iff])
    | (with_reducible apply keeps_endScan) | split | dsimp only | intro _

theorem keeps_failLink {sz s : State} (l reason reach : Nat)
    (hk : Keeps sz s) : Keeps sz (failLink l reason reach s) := by
  unfold failLink
  repeat' first
    | with_reducible assumption | (simp only [↓keeps_mk, kernel_eta, ← keeps_iff])
    | (with_reducible apply keeps_record) | (with_reducible apply keeps_setLink)
    | (with_reducible apply keeps_ledgerLink) | (with_reducible apply keeps_keepReach)
    | (with_reducible apply keeps_rerouteLink) | (with_reducible apply keeps_scanLost) | split | dsimp only
    | intro _

theorem keeps_mapLinkLanes {sz s : State} (l : Nat) (f : CascLane → CascLane) (hk : Keeps sz s) :
    Keeps sz (mapLinkLanes l f s) := hk

theorem keeps_beginRetrain {sz s : State} (l : Nat) (x : CascLink)
    (hk : Keeps sz s) : Keeps sz (beginRetrain l x s) := by
  unfold beginRetrain
  repeat' first
    | with_reducible assumption | (simp only [↓keeps_mk, kernel_eta, ← keeps_iff])
    | (with_reducible apply keeps_setLink) | (with_reducible apply keeps_ledgerLink)
    | (with_reducible apply keeps_failLink) | (with_reducible apply keeps_mapLinkLanes) | split | dsimp only
    | intro _

theorem keeps_laneFailOp {sz s : State} (n : Nat)
    (hk : Keeps sz s) : Keeps sz (laneFailOp n s) := by
  unfold laneFailOp
  repeat' first
    | with_reducible assumption | (simp only [↓keeps_mk, kernel_eta, ← keeps_iff])
    | (with_reducible apply keeps_record) | (with_reducible apply keeps_scanLost)
    | (with_reducible apply keeps_beginRetrain) | split | dsimp only | intro _

theorem keeps_linkUp {sz s : State} (l width : Nat) (x : CascLink)
    (hk : Keeps sz s) : Keeps sz (linkUp l width x s) := by
  unfold linkUp
  repeat' first
    | with_reducible assumption | (simp only [↓keeps_mk, kernel_eta, ← keeps_iff])
    | (with_reducible apply keeps_setLink) | (with_reducible apply keeps_pumpLink)
    | (with_reducible apply keeps_resend) | (with_reducible apply keeps_scanLost)
    | (with_reducible apply keeps_mapLinkLanes) | split | dsimp only | intro _

theorem keeps_retrainDoneOp {sz s : State} (l outcome reach : Nat)
    (hk : Keeps sz s) : Keeps sz (retrainDoneOp l outcome reach s) := by
  unfold retrainDoneOp
  repeat' first
    | with_reducible assumption | (simp only [↓keeps_mk, kernel_eta, ← keeps_iff])
    | (with_reducible apply keeps_failLink) | (with_reducible apply keeps_beginRetrain)
    | (with_reducible apply keeps_linkUp) | split | dsimp only | intro _

theorem keeps_linkTrainedOp {sz s : State} (l partner partnerLink : Nat)
    (hk : Keeps sz s) : Keeps sz (linkTrainedOp l partner partnerLink s) := by
  unfold linkTrainedOp
  repeat' first
    | with_reducible assumption | (simp only [↓keeps_mk, kernel_eta, ← keeps_iff])
    | (with_reducible apply keeps_linkUp) | split | dsimp only | intro _

theorem keeps_markerSendOp {sz s : State} (n : Nat)
    (hk : Keeps sz s) : Keeps sz (markerSendOp n s) := by
  unfold markerSendOp
  repeat' first
    | with_reducible assumption | (simp only [↓keeps_mk, kernel_eta, ← keeps_iff])
    | (with_reducible apply keeps_emit) | (with_reducible apply keeps_passTo)
    | (with_reducible apply keeps_setLane) | split | dsimp only | intro _

theorem keeps_markerReceiveOp {sz s : State} (n count skew : Nat)
    (hk : Keeps sz s) : Keeps sz (markerReceiveOp n count skew s) := by
  unfold markerReceiveOp
  repeat' first
    | with_reducible assumption | (simp only [↓keeps_mk, kernel_eta, ← keeps_iff])
    | (with_reducible apply keeps_setLane) | split | dsimp only | intro _

theorem keeps_idleEnterOp {sz s : State} (l : Nat)
    (hk : Keeps sz s) : Keeps sz (idleEnterOp l s) := by
  unfold idleEnterOp
  repeat' first
    | with_reducible assumption | (simp only [↓keeps_mk, kernel_eta, ← keeps_iff])
    | (with_reducible apply keeps_passTo) | (with_reducible apply keeps_setLink)
    | (with_reducible apply keeps_sendFlit) | split | dsimp only | intro _

theorem keeps_nullBurstOp {sz s : State} (l : Nat)
    (hk : Keeps sz s) : Keeps sz (nullBurstOp l s) := by
  unfold nullBurstOp
  repeat' first
    | with_reducible assumption | (simp only [↓keeps_mk, kernel_eta, ← keeps_iff])
    | (with_reducible apply keeps_emit) | (with_reducible apply keeps_passTime)
    | (with_reducible apply keeps_passTo) | (with_reducible apply keeps_setLink) | split | dsimp only | intro _

theorem keeps_idleExitOp {sz s : State} (l : Nat)
    (hk : Keeps sz s) : Keeps sz (idleExitOp l s) := by
  unfold idleExitOp
  repeat' first
    | with_reducible assumption | (simp only [↓keeps_mk, kernel_eta, ← keeps_iff])
    | (with_reducible apply keeps_emit) | (with_reducible apply keeps_setLink)
    | (with_reducible apply keeps_pumpLink) | (with_reducible apply keeps_mapLinkLanes) | split | dsimp only
    | intro _

theorem keeps_decodeLane {sz s : State} (l i flit : Nat) (bad : Bool) (fixed : Nat)
    (hk : Keeps sz s) : Keeps sz (decodeLane l i flit bad fixed s).2 := by
  unfold decodeLane
  repeat' first
    | with_reducible assumption | (simp only [↓keeps_mk, kernel_eta, ← keeps_iff])
    | (with_reducible apply keeps_setLane) | (with_reducible apply keeps_ledgerLink)
    | (with_reducible apply keeps_laneFailOp) | split | dsimp only | intro _

theorem keeps_decodeFlit {sz s : State} (l flit : Nat) (bad : List Nat) (fixed : List (Nat × Nat))
    (hk : Keeps sz s) : Keeps sz (decodeFlit l flit bad fixed s).2 := by
  unfold decodeFlit
  repeat' first
    | with_reducible assumption | (simp only [↓keeps_mk, kernel_eta, ← keeps_iff])
    | (with_reducible apply keeps_decodeLane) | (refine Keeps.use (by assumption) ?_)
    | (with_reducible refine Keeps.foldl (fun _ _ _ => ?_) _ ?_)
    | (with_reducible refine Keeps.foldl_snd (fun _ _ _ => ?_) _ ?_) | split | dsimp only | intro _

theorem keeps_answerFlit {sz s : State} (l : Nat) (nak : Bool)
    (hk : Keeps sz s) : Keeps sz (answerFlit l nak s) := by
  unfold answerFlit
  repeat' first
    | with_reducible assumption | (simp only [↓keeps_mk, kernel_eta, ← keeps_iff])
    | (with_reducible apply keeps_emit) | (with_reducible apply keeps_setLink) | split | dsimp only | intro _

theorem keeps_forwardFlit {sz s : State} (flit : List Byte)
    (hk : Keeps sz s) : Keeps sz (forwardFlit flit s) := by
  unfold forwardFlit
  repeat' first
    | with_reducible assumption | (simp only [↓keeps_mk, kernel_eta, ← keeps_iff])
    | (with_reducible apply keeps_queueMsg) | (with_reducible refine Keeps.foldl (fun _ _ _ => ?_) _ ?_) | split
    | dsimp only | intro _

theorem keeps_scanResumes {sz s : State} (l : Nat)
    (hk : Keeps sz s) : Keeps sz (scanResumes l s) := by
  unfold scanResumes
  repeat' first
    | with_reducible assumption | (simp only [↓keeps_mk, kernel_eta, ← keeps_iff])
    | (with_reducible apply keeps_passTime) | (with_reducible apply keeps_endScan) | split | dsimp only | intro _

theorem keeps_flitOp {sz s : State} (l : Nat) (flit : List Byte) (bad : List Nat) (fixed : List (Nat × Nat))
    (hk : Keeps sz s) : Keeps sz (flitOp l flit bad fixed s).2 := by
  unfold flitOp
  repeat' first
    | with_reducible assumption | (simp only [↓keeps_mk, kernel_eta, ← keeps_iff])
    | (with_reducible apply keeps_setLink) | (with_reducible apply keeps_takeAck)
    | (with_reducible apply keeps_decodeFlit) | (with_reducible apply keeps_answerFlit)
    | (with_reducible apply keeps_forwardFlit) | (with_reducible apply keeps_scanResumes)
    | (refine Keeps.use (by assumption) ?_) | (with_reducible refine Keeps.foldl (fun _ _ _ => ?_) _ ?_)
    | (with_reducible refine Keeps.foldl_snd (fun _ _ _ => ?_) _ ?_) | split | dsimp only | intro _

theorem keeps_eyeScanOp {sz s : State} (v errors compared : Nat)
    (hk : Keeps sz s) : Keeps sz (eyeScanOp v errors compared s) := by
  unfold eyeScanOp
  repeat' first
    | with_reducible assumption | (simp only [↓keeps_mk, kernel_eta, ← keeps_iff])
    | (with_reducible apply keeps_passTime) | (with_reducible apply keeps_endScan) | split | dsimp only | intro _

theorem keeps_formGroup {sz s : State} (peers : List (Nat × Nat × Nat)) (wires : List Wiring) (mirrors : List Mirror)
    (hk : Keeps sz s) : Keeps sz (formGroup peers wires mirrors s) := by
  unfold formGroup
  repeat' first
    | with_reducible assumption | (simp only [↓keeps_mk, kernel_eta, ← keeps_iff])
    | (with_reducible apply keeps_record) | (with_reducible apply keeps_setTrn)
    | (with_reducible refine Keeps.foldl (fun _ _ _ => ?_) _ ?_) | split | dsimp only | intro _

theorem keeps_cascCfgOp {sz s : State} (v : Nat) (peers : List (Nat × Nat × Nat)) (wires : List Wiring)
    (hk : Keeps sz s) : Keeps sz (cascCfgOp v peers wires s) := by
  unfold cascCfgOp
  repeat' first
    | with_reducible assumption | (simp only [↓keeps_mk, kernel_eta, ← keeps_iff])
    | (with_reducible apply keeps_record) | (with_reducible apply keeps_formGroup) | split | dsimp only | intro _

theorem keeps_joinGroup {sz s : State} (peers : List (Nat × Nat × Nat)) (wires : List Wiring) (mirrors : List Mirror)
    (hk : Keeps sz s) : Keeps sz (joinGroup peers wires mirrors s) := by
  unfold joinGroup
  repeat' first
    | with_reducible assumption | (simp only [↓keeps_mk, kernel_eta, ← keeps_iff])
    | (with_reducible apply keeps_formGroup) | split | dsimp only | intro _

theorem keeps_followerOp {sz s : State}
    (hk : Keeps sz s) : Keeps sz (followerOp s) := by
  unfold followerOp
  repeat' first
    | with_reducible assumption | (simp only [↓keeps_mk, kernel_eta, ← keeps_iff]) | split | dsimp only | intro _

end Sys2Proof.Machine
end

