-- ==== Sys2Proof/Laws/KeepsValidate.lean ====
section
/-! SUPPORT. What the shared operations of Machine/Validate.lean keep. -/

set_option linter.unusedSimpArgs false
set_option maxRecDepth 4000

namespace Sys2Proof.Machine

/-- A check keeps, whatever it answers. -/
def KeepsC {α : Type} (c : Check α) : Prop := ∀ s0 s, Keeps s0 s → Keeps s0 (c s).2

theorem KeepsC.pass {α : Type} (a : α) : KeepsC (pass a) := fun _ _ h => h
theorem KeepsC.reject {α : Type} (status detail : Nat) : KeepsC (reject (α := α) status detail) := fun _ _ h => h
theorem KeepsC.bind {α β : Type} {c : Check α} {f : α → Check β} (hc : KeepsC c) (hf : ∀ a, KeepsC (f a)) :
    KeepsC (c.bind f) := by
  intro s0 s h
  unfold Check.bind
  split
  · exact hf _ _ _ (Keeps.use (by assumption) (hc _ _ h))
  · exact Keeps.use (by assumption) (hc _ _ h)
theorem KeepsC.allOf {l : List (Check Unit)} (h : ∀ c ∈ l, KeepsC c) : KeepsC (allOf l) := by
  induction l with
  | nil => exact KeepsC.pass _
  | cons c l ih =>
    exact KeepsC.bind (h c List.mem_cons_self) (fun _ => ih (fun d hd => h d (List.mem_cons_of_mem _ hd)))

theorem keeps_checkFields (place entry : Nat) (bs : List Byte) (fields : List Field) :
    KeepsC (checkFields place entry bs fields) := by
  unfold checkFields
  split
  · exact KeepsC.reject _ _
  · exact KeepsC.pass _

theorem keeps_readStruct (o : Op) (a n : Nat) : KeepsC (readStruct o a n) := by
  intro s0 s h
  unfold readStruct
  split <;> exact Keeps.use (by assumption) (keeps_readRM _ _ _ _ h)

theorem keeps_checkDesc (o : Op) : KeepsC (checkDesc o) := by
  intro s0 s h
  unfold checkDesc
  split
  · exact h
  · exact keeps_checkFields _ _ _ _ _ _ h

theorem keeps_checkTensor (place entry : Nat) (bs : List Byte) (fmt rank : Nat → Bool) :
    KeepsC (checkTensor place entry bs fmt rank) := keeps_checkFields _ _ _ _

theorem keeps_checkRecords (l : List (Nat × Nat)) (o : Op) : KeepsC (checkRecords l o) := by
  induction l generalizing o with
  | nil => exact KeepsC.pass _
  | cons e l ih =>
    exact KeepsC.bind (keeps_readStruct _ _ _) (fun _ => KeepsC.bind (keeps_checkTensor _ _ _ _ _) (fun _ => ih _))

theorem keeps_checkSeq (o : Op) : KeepsC (checkSeq o) := by
  unfold checkSeq
  split
  · exact KeepsC.bind (keeps_readStruct _ _ _) (fun _ => KeepsC.bind (keeps_checkFields _ _ _ _) (fun _ => KeepsC.pass _))
  · exact KeepsC.pass _

theorem keeps_checkImage (o : Op) : KeepsC (checkImage o) := by
  unfold checkImage
  split
  · exact KeepsC.pass _
  refine KeepsC.bind (keeps_readStruct _ _ _) (fun head s0 s h => ?_)
  split
  · exact h
  refine KeepsC.bind (keeps_checkFields _ _ _ _) (fun _ => KeepsC.bind (keeps_readStruct _ _ _) (fun code => ?_)) _ _ h
  try dsimp only
  split
  · exact KeepsC.reject _ _
  · exact fun _ _ h => h

theorem keeps_checkBinds (raw : List Byte) (l : List Nat) (o : Op) : KeepsC (checkBinds raw l o) := by
  induction l generalizing o with
  | nil => exact KeepsC.pass _
  | cons n l ih =>
    intro s0 s h
    refine KeepsC.bind (keeps_checkFields _ _ _ _) (fun _ => ?_) _ _ h
    split
    · exact ih _
    · split
      · exact ih _
      · exact KeepsC.bind (keeps_readStruct _ _ _) (fun _ => KeepsC.bind (keeps_checkTensor _ _ _ _ _) (fun _ => ih _))

theorem keeps_checkBindings (o : Op) : KeepsC (checkBindings o) := by
  unfold checkBindings
  split
  · exact KeepsC.bind (keeps_readStruct _ _ _) (fun _ => keeps_checkBinds _ _ _)
  · exact KeepsC.pass _

theorem keeps_checkPageList (o : Op) : KeepsC (checkPageList o) := by
  unfold checkPageList
  split
  · refine KeepsC.bind (keeps_readStruct _ _ _) (fun _ => ?_)
    dsimp only
    split
    · exact KeepsC.reject _ _
    · exact KeepsC.pass _
  · exact KeepsC.pass _

theorem keeps_checkEntry (o : Op) (l h p : Nat) : KeepsC (checkEntry o l h p) := by
  refine KeepsC.bind (keeps_readStruct _ _ _) (fun bs s0 s hk => ?_)
  split
  · exact keeps_record _ _ _ hk
  · exact hk

theorem keeps_checkEntries (o : Op) : KeepsC (checkEntries o) := by
  refine KeepsC.allOf (fun c hc => ?_)
  obtain ⟨r, -, hc⟩ := List.mem_flatMap.1 hc
  obtain ⟨p, -, rfl⟩ := List.mem_map.1 hc
  exact keeps_checkEntry _ _ _ _

theorem keeps_checkItems (status : Nat) (items : List Nat) : KeepsC (checkItems status items) := by
  unfold checkItems
  split
  · exact KeepsC.reject _ _
  · exact KeepsC.pass _

theorem keeps_checkShape (o : Op) : KeepsC (checkShape o) := by
  unfold checkShape
  split
  · exact KeepsC.reject _ _
  · exact KeepsC.pass _

theorem keeps_checkThat (status : Nat) (p : State → Bool) : KeepsC (checkThat status p) := by
  intro s0 s h
  unfold checkThat
  split <;> exact h

theorem keeps_checkForm (o : Op) : KeepsC (checkForm o) :=
  KeepsC.bind (keeps_checkDesc _) fun _ => KeepsC.bind (keeps_checkRecords _ _) fun _ =>
    KeepsC.bind (keeps_checkSeq _) fun _ => KeepsC.bind (keeps_checkImage _) fun _ =>
      KeepsC.bind (keeps_checkBindings _) fun _ => KeepsC.bind (keeps_checkPageList _) fun _ =>
        KeepsC.bind (keeps_checkEntries _) fun _ => KeepsC.pass _

theorem keeps_validate (o : Op) : KeepsC (validate o) := by
  refine KeepsC.bind (keeps_checkForm _) fun _ => KeepsC.bind (KeepsC.allOf fun c hc => ?_) fun _ => KeepsC.pass _
  simp only [List.mem_cons, List.not_mem_nil, or_false] at hc
  obtain rfl | rfl | rfl | rfl := hc
  · exact keeps_checkItems _ _
  · exact keeps_checkShape _
  · exact keeps_checkThat _ _
  · exact keeps_checkThat _ _

theorem keeps_failCheck {sz s : State} (tag : Nat) (o : Op) (e : Reject)
    (hk : Keeps sz s) : Keeps sz (failCheck tag o e s) := by
  unfold failCheck
  repeat' first
    | with_reducible assumption | (simp only [↓keeps_mk, kernel_eta, ← keeps_iff])
    | (with_reducible apply keeps_updOp) | (with_reducible apply keeps_endOp)
    | (with_reducible apply keeps_recordStop) | (with_reducible apply keeps_startWait) | split | dsimp only
    | intro _

theorem keeps_unplaced {s0 s s1 : State} (e : Reject) (hk : Keeps s0 s) (h1 : Keeps s0 s1) :
    Keeps s0 (unplaced s e s1) := by
  have back (x y z) : Keeps s0 { s1 with pages := x, place := y, memStacks := z, dmem := s.dmem } := by
    obtain ⟨a1, a2, a3, a4, a5, a6, a7⟩ := h1
    exact ⟨a1, a2, a3, a4, a5, hk.2.2.2.2.2.1, a7⟩
  unfold unplaced
  dsimp only
  repeat' split
  all_goals first | exact h1 | exact back _ _ _ | skip

theorem keeps_validateOp {sz s : State} (tag : Nat)
    (hk : Keeps sz s) : Keeps sz (validateOp tag s) := by
  unfold validateOp
  repeat' first
    | with_reducible assumption | (refine Keeps.use (by assumption) (keeps_validate _ _ _ ?_))
    | (simp only [↓keeps_mk, kernel_eta, ← keeps_iff]) | (with_reducible apply keeps_setOp)
    | (with_reducible apply keeps_headerWait) | (with_reducible apply keeps_failCheck)
    | (with_reducible apply keeps_unplaced) | split | dsimp only | intro _

theorem keeps_advanceQueue {sz s : State} (q : Nat)
    (hk : Keeps sz s) : Keeps sz (advanceQueue q s) := by
  unfold advanceQueue
  repeat' first
    | with_reducible assumption | (simp only [↓keeps_mk, kernel_eta, ← keeps_iff])
    | (with_reducible apply keeps_validateOp) | (with_reducible refine Keeps.foldl (fun _ _ _ => ?_) _ ?_) | split
    | dsimp only | intro _

end Sys2Proof.Machine
end

