-- ==== Sys2Proof/Laws/KeepsCollective.lean ====
section
/-! SUPPORT. What the shared operations of Machine/Collective.lean keep. -/

set_option linter.unusedSimpArgs false
set_option maxRecDepth 4000

namespace Sys2Proof.Machine

theorem keeps_dropParts {sz s : State} (tag mask : Nat) (hk : Keeps sz s) :
    Keeps sz (dropParts tag mask s) := hk

theorem keeps_markLate {sz s : State} (o : Op)
    (hk : Keeps sz s) : Keeps sz (markLate o s) := by
  unfold markLate
  repeat' first
    | with_reducible assumption | (simp only [↓keeps_mk, kernel_eta, ← keeps_iff]) | split | dsimp only | intro _

theorem keeps_takeLate {sz s : State} (d tag mask : Nat)
    (hk : Keeps sz s) : Keeps sz (takeLate d tag mask s).2 := by
  unfold takeLate
  repeat' first
    | with_reducible assumption | (simp only [↓keeps_mk, kernel_eta, ← keeps_iff]) | split | dsimp only | intro _

theorem keeps_tellMembers {sz s : State} (o : Op) (kind count : Nat) (codes : List W64) (status : Nat)
    (hk : Keeps sz s) : Keeps sz (tellMembers o kind count codes status s) := by
  unfold tellMembers
  repeat' first
    | with_reducible assumption | (simp only [↓keeps_mk, kernel_eta, ← keeps_iff])
    | (with_reducible apply keeps_sendCasc) | (with_reducible refine Keeps.foldl (fun _ _ _ => ?_) _ ?_) | split
    | dsimp only | intro _

theorem keeps_wakeColl {sz s : State} (tag : Nat)
    (hk : Keeps sz s) : Keeps sz (wakeColl tag s) := by
  unfold wakeColl
  repeat' first
    | with_reducible assumption | (simp only [↓keeps_mk, kernel_eta, ← keeps_iff])
    | (with_reducible apply keeps_updOp) | split | dsimp only | intro _

theorem keeps_submitColl {sz s : State} (tag : Nat) (o : Op)
    (hk : Keeps sz s) : Keeps sz (submitColl tag o s) := by
  unfold submitColl
  repeat' first
    | with_reducible assumption | (simp only [↓keeps_mk, kernel_eta, ← keeps_iff])
    | (with_reducible apply keeps_updOp) | (with_reducible apply keeps_stopOp)
    | (with_reducible apply keeps_takeLate) | (with_reducible apply keeps_tellMembers)
    | (with_reducible apply keeps_wakeColl) | (refine Keeps.use (by assumption) ?_)
    | (with_reducible refine Keeps.foldl (fun _ _ _ => ?_) _ ?_) | split | dsimp only | intro _

theorem keeps_moveRunOf {sz s : State} (tag : Nat) (ps : List CollPart) (t : Tensor) (o : Op) (l n : Nat)
    (hk : Keeps sz s) : KeepsE sz (moveRunOf tag ps t o l n s) := by
  unfold moveRunOf
  repeat' first
    | with_reducible assumption | (simp only [↓keeps_mk, kernel_eta, ← keeps_iff])
    | (with_reducible apply keeps_writeAll) | (with_reducible apply keeps_updStats)
    | (with_reducible apply keeps_deliver) | (refine KeepsE.use (by assumption) ?_)
    | (with_reducible refine Keeps.foldl (fun _ _ _ => ?_) _ ?_) | (with_reducible exact KeepsE.error)
    | (with_reducible refine KeepsE.ok ?_) | (with_reducible refine KeepsE.mapError ?_)
    | (with_reducible refine KeepsE.map ?_ (fun _ _ => ?_)) | split | dsimp only | intro _

theorem keeps_exchange {sz s : State} (tag : Nat) (order : List Nat) (ps : List CollPart) (o : Op)
    (hk : Keeps sz s) : Keeps sz (exchange tag order ps o s) := by
  unfold exchange
  repeat' first
    | with_reducible assumption | (simp only [↓keeps_mk, kernel_eta, ← keeps_iff])
    | (with_reducible apply keeps_driveBy) | (with_reducible apply keeps_drive)
    | (with_reducible apply keeps_refuseOp) | (with_reducible apply keeps_moveRunOf)
    | (refine KeepsE.use (by assumption) ?_) | (with_reducible exact KeepsE.error)
    | (with_reducible refine KeepsE.ok ?_) | (with_reducible refine KeepsE.mapError ?_)
    | (with_reducible refine KeepsE.map ?_ (fun _ _ => ?_)) | split | dsimp only | intro _

theorem keeps_collOp {sz s : State} (tag : Nat) (order : List Nat) (o : Op)
    (hk : Keeps sz s) : Keeps sz (collOp tag order o s) := by
  unfold collOp
  repeat' first
    | with_reducible assumption | (simp only [↓keeps_mk, kernel_eta, ← keeps_iff])
    | (with_reducible apply keeps_submitColl) | (with_reducible apply keeps_exchange) | split | dsimp only
    | intro _

theorem keeps_collSubmitted {sz s : State} (dev tag mask fmt count : Nat) (codes : List W64)
    (hk : Keeps sz s) : Keeps sz (collSubmitted dev tag mask fmt count codes s) := by
  unfold collSubmitted
  repeat' first
    | with_reducible assumption | (simp only [↓keeps_mk, kernel_eta, ← keeps_iff])
    | (with_reducible apply keeps_takeLate) | (with_reducible apply keeps_wakeColl)
    | (refine Keeps.use (by assumption) ?_) | split | dsimp only | intro _

theorem keeps_collEnded {sz s : State} (dev tag mask status : Nat)
    (hk : Keeps sz s) : Keeps sz (collEnded dev tag mask status s) := by
  unfold collEnded
  repeat' first
    | with_reducible assumption | (simp only [↓keeps_mk, kernel_eta, ← keeps_iff])
    | (with_reducible apply keeps_updOp) | (with_reducible apply keeps_endOp)
    | (with_reducible apply keeps_dropParts) | split | dsimp only | intro _

theorem keeps_collTimeoutOp {sz s : State} (tag : Nat)
    (hk : Keeps sz s) : Keeps sz (collTimeoutOp tag s) := by
  unfold collTimeoutOp
  repeat' first
    | with_reducible assumption | (simp only [↓keeps_mk, kernel_eta, ← keeps_iff])
    | (with_reducible apply keeps_passTo) | (with_reducible apply keeps_refuseOp) | split | dsimp only | intro _

theorem keeps_collLeave {sz s : State} (o : Op)
    (hk : Keeps sz s) : Keeps sz (collLeave o s) := by
  unfold collLeave
  repeat' first
    | with_reducible assumption | (simp only [↓keeps_mk, kernel_eta, ← keeps_iff])
    | (with_reducible apply keeps_dropParts) | (with_reducible apply keeps_markLate)
    | (with_reducible apply keeps_tellMembers) | split | dsimp only | intro _

end Sys2Proof.Machine
end

