-- ==== Sys2Proof/Laws/KeepsCascade.lean ====
section
/-! SUPPORT. What the shared operations of Machine/Cascade.lean keep. -/

set_option linter.unusedSimpArgs false
set_option maxRecDepth 4000

namespace Sys2Proof.Machine

theorem keeps_peerCheck (o : Op) (bs : List Byte) : KeepsC (peerCheck o bs) := by
  refine KeepsC.bind (keeps_checkTensor _ _ _ _ _) fun _ => KeepsC.bind (keeps_checkItems _ _) fun _ => ?_
  try dsimp only
  split
  · exact KeepsC.reject _ _
  · exact KeepsC.pass _

theorem keeps_performMsg {sz s : State} (dev queue : Nat) (m : CascMsg)
    (hk : Keeps sz s) : Keeps sz (performMsg dev queue m s) := by
  unfold performMsg
  repeat' first
    | with_reducible assumption | (simp only [↓keeps_mk, kernel_eta, ← keeps_iff])
    | (with_reducible apply keeps_sendCasc) | (with_reducible apply keeps_waitAt)
    | (with_reducible apply keeps_arriveAt) | (with_reducible apply keeps_letIn) | split | dsimp only | intro _

theorem keeps_setCounter {sz s : State} (k n : Nat)
    (hk : Keeps sz s) : Keeps sz (setCounter k n s) := by
  unfold setCounter
  repeat' first
    | with_reducible assumption | (simp only [↓keeps_mk, kernel_eta, ← keeps_iff]) | split | dsimp only | intro _

theorem keeps_releaseChannel {sz x1 : State} (dev queue x0 : Nat)
    (hk : Keeps sz x1) : Keeps sz (releaseChannel dev queue x0 x1) := by
  induction x0 generalizing x1 with
  | zero => exact hk
  | succ _ ih =>
    unfold releaseChannel
    repeat' first
      | with_reducible assumption | (with_reducible apply ih) | (simp only [↓keeps_mk, kernel_eta, ← keeps_iff])
      | (with_reducible apply keeps_performMsg) | (with_reducible apply keeps_setCounter) | split | dsimp only
      | intro _

theorem keeps_holdMsg {sz s : State} (dev queue : Nat) (m : CascMsg)
    (hk : Keeps sz s) : Keeps sz (holdMsg dev queue m s) := by
  unfold holdMsg
  repeat' first
    | with_reducible assumption | (simp only [↓keeps_mk, kernel_eta, ← keeps_iff])
    | (with_reducible apply keeps_releaseChannel) | split | dsimp only | intro _

theorem keeps_countArrived {sz s : State} (dev queue n : Nat)
    (hk : Keeps sz s) : Keeps sz (countArrived dev queue n s) := by
  unfold countArrived
  repeat' first
    | with_reducible assumption | (simp only [↓keeps_mk, kernel_eta, ← keeps_iff]) | split | dsimp only | intro _

theorem keeps_deliverWrite {sz s : State} (dev queue addr group len off : Nat) (line : List Byte)
    (hk : Keeps sz s) : KeepsO sz (deliverWrite dev queue addr group len off line s) := by
  unfold deliverWrite
  repeat' first
    | with_reducible assumption | (simp only [↓keeps_mk, kernel_eta, ← keeps_iff])
    | (with_reducible apply keeps_recordStop) | (with_reducible apply keeps_writeRM)
    | (with_reducible apply keeps_accessFlits) | (with_reducible apply keeps_sendCasc)
    | (with_reducible apply keeps_writeDone) | (with_reducible apply keeps_countArrived)
    | (refine Keeps.use (by assumption) ?_) | (with_reducible exact KeepsO.none)
    | (with_reducible refine KeepsO.some ?_) | (with_reducible refine KeepsO.map (fun _ => ?_)) | split
    | dsimp only | intro _

theorem keeps_deliverRead {sz s : State} (dev addr group len off rtag : Nat)
    (hk : Keeps sz s) : KeepsO sz (deliverRead dev addr group len off rtag s) := by
  unfold deliverRead
  repeat' first
    | with_reducible assumption | (simp only [↓keeps_mk, kernel_eta, ← keeps_iff])
    | (with_reducible apply keeps_recordStop) | (with_reducible apply keeps_readRM)
    | (with_reducible apply keeps_accessFlits) | (with_reducible apply keeps_sendCasc)
    | (refine Keeps.use (by assumption) ?_) | (with_reducible exact KeepsO.none)
    | (with_reducible refine KeepsO.some ?_) | (with_reducible refine KeepsO.map (fun _ => ?_)) | split
    | dsimp only | intro _

theorem keeps_deliverDoorbell {sz s : State} (dev func queue value : Nat)
    (hk : Keeps sz s) : Keeps sz (deliverDoorbell dev func queue value s) := by
  unfold deliverDoorbell
  repeat' first
    | with_reducible assumption | (simp only [↓keeps_mk, kernel_eta, ← keeps_iff])
    | (with_reducible apply keeps_sendCasc) | (with_reducible apply keeps_writeDone)
    | (with_reducible apply keeps_doorbellOp) | split | dsimp only | intro _

theorem keeps_endRemote {sz s : State} (tag status : Nat)
    (hk : Keeps sz s) : Keeps sz (endRemote tag status s) := by
  unfold endRemote
  repeat' first
    | with_reducible assumption | (simp only [↓keeps_mk, kernel_eta, ← keeps_iff])
    | (with_reducible apply keeps_endOp) | (with_reducible apply keeps_refuseOp) | split | dsimp only | intro _

theorem keeps_signalDoneOp {sz s : State} (dev status queue : Nat)
    (hk : Keeps sz s) : Keeps sz (signalDoneOp dev status queue s) := by
  unfold signalDoneOp
  repeat' first
    | with_reducible assumption | (simp only [↓keeps_mk, kernel_eta, ← keeps_iff])
    | (with_reducible apply keeps_endRemote) | split | dsimp only | intro _

theorem keeps_trnDoneOp {sz s : State} (wtag status : Nat)
    (hk : Keeps sz s) : Keeps sz (trnDoneOp wtag status s) := by
  unfold trnDoneOp
  repeat' first
    | with_reducible assumption | (simp only [↓keeps_mk, kernel_eta, ← keeps_iff])
    | (with_reducible apply keeps_endRemote) | split | dsimp only | intro _

theorem keeps_sentFlagsOf {sz s : State} (o : Op) (elem : Nat)
    (hk : Keeps sz s) : Keeps sz (sentFlagsOf o elem s) := by
  unfold sentFlagsOf
  repeat' first
    | with_reducible assumption | (simp only [↓keeps_mk, kernel_eta, ← keeps_iff])
    | (with_reducible apply keeps_updOp) | (with_reducible apply keeps_flagElem)
    | (with_reducible refine Keeps.foldl (fun _ _ _ => ?_) _ ?_) | split | dsimp only | intro _

theorem keeps_ackOne {sz s : State} (dev status : Nat)
    (hk : Keeps sz s) : Keeps sz (ackOne dev status s) := by
  unfold ackOne
  repeat' first
    | with_reducible assumption | (simp only [↓keeps_mk, kernel_eta, ← keeps_iff])
    | (with_reducible apply keeps_updOp) | (with_reducible apply keeps_endOp)
    | (with_reducible apply keeps_sentFlagsOf) | split | dsimp only | intro _

theorem keeps_writeDoneOp {sz x1 : State} (dev status x0 : Nat)
    (hk : Keeps sz x1) : Keeps sz (writeDoneOp dev status x0 x1) := by
  induction x0 generalizing x1 with
  | zero => exact hk
  | succ _ ih =>
    unfold writeDoneOp
    repeat' first
      | with_reducible assumption | (with_reducible apply ih) | (simp only [↓keeps_mk, kernel_eta, ← keeps_iff])
      | (with_reducible apply keeps_ackOne) | split | dsimp only | intro _

theorem keeps_askLines {sz x1 : State} (tag x0 : Nat)
    (hk : Keeps sz x1) : Keeps sz (askLines tag x0 x1) := by
  induction x0 generalizing x1 with
  | zero => exact hk
  | succ _ ih =>
    unfold askLines
    repeat' first
      | with_reducible assumption | (with_reducible apply ih) | (simp only [↓keeps_mk, kernel_eta, ← keeps_iff])
      | (with_reducible apply keeps_updOp) | (with_reducible apply keeps_sendCasc) | split | dsimp only | intro _

theorem keeps_askAll {sz s : State}
    (hk : Keeps sz s) : Keeps sz (askAll s) := by
  unfold askAll
  repeat' first
    | with_reducible assumption | (simp only [↓keeps_mk, kernel_eta, ← keeps_iff])
    | (with_reducible apply keeps_askLines) | (with_reducible refine Keeps.foldl (fun _ _ _ => ?_) _ ?_) | split
    | dsimp only | intro _

theorem keeps_readDataOp {sz s : State} (rtag status : Nat) (line : List Byte)
    (hk : Keeps sz s) : Keeps sz (readDataOp rtag status line s) := by
  unfold readDataOp
  repeat' first
    | with_reducible assumption | (simp only [↓keeps_mk, kernel_eta, ← keeps_iff])
    | (with_reducible apply keeps_updOp) | (with_reducible apply keeps_endOp)
    | (with_reducible apply keeps_askAll) | split | dsimp only | intro _

theorem keeps_remoteView {s0 s : State} (o : Op) (hk : Keeps s0 s) : Keeps s0 (remoteView s o) :=
  hk.of_mem (u := remoteView s o) rfl
    (fun _ => by
      have h : Memory.wf [] = true := rfl
      exact Memory.wf_foldl (fun m (e : Nat × List Byte) => Memory.writeN m (tier2Base + e.1) e.2)
        (fun m e h => Memory.wf_writeN _ _ h) o.lines h) id

theorem keeps_withPeer {sz s : State} (tag : Nat) (bs : List Byte) (status : Nat) (f : Op → State → State) (o : Op)
    (hf : ∀ y0 y1, Keeps sz y1 → Keeps sz (f y0 y1)) (hk : Keeps sz s) : Keeps sz (withPeer tag bs status f o s) := by
  unfold withPeer
  repeat' first
    | with_reducible assumption | (refine Keeps.use (by assumption) (keeps_peerCheck _ _ _ _ ?_))
    | (with_reducible apply hf) | (simp only [↓keeps_mk, kernel_eta, ← keeps_iff])
    | (with_reducible apply keeps_setOp) | (with_reducible apply keeps_updOp)
    | (with_reducible apply keeps_refuseOp) | (with_reducible apply keeps_failCheck) | split | dsimp only
    | intro _

theorem keeps_sendWrites {sz s : State} (o : Op) (elem : Nat) (ws : List (Nat × Bool × List Byte))
    (hk : Keeps sz s) : KeepsE sz (sendWrites o elem ws s) := by
  unfold sendWrites
  repeat' first
    | with_reducible assumption | (simp only [↓keeps_mk, kernel_eta, ← keeps_iff])
    | (with_reducible apply keeps_updOp) | (with_reducible apply keeps_sendCasc)
    | (with_reducible apply keeps_countChannel) | (with_reducible refine Keeps.foldl (fun _ _ _ => ?_) _ ?_)
    | (with_reducible exact KeepsE.error) | (with_reducible refine KeepsE.ok ?_)
    | (with_reducible refine KeepsE.mapError ?_) | (with_reducible refine KeepsE.map ?_ (fun _ _ => ?_)) | split
    | dsimp only | intro _

theorem keeps_putLoop {sz x1 : State} (tag : Nat) (o0 : Op) (x0 : Nat)
    (hk : Keeps sz x1) : Keeps sz (putLoop tag o0 x0 x1) := by
  induction x0 generalizing x1 with
  | zero => exact hk
  | succ _ ih =>
    unfold putLoop
    repeat' first
      | with_reducible assumption | (with_reducible apply ih) | (simp only [↓keeps_mk, kernel_eta, ← keeps_iff])
      | (with_reducible apply keeps_updOp) | (with_reducible apply keeps_endOp)
      | (with_reducible apply keeps_stopOp) | (with_reducible apply keeps_deliverBy)
      | (with_reducible apply keeps_sendWrites) | (refine KeepsE.use (by assumption) ?_)
      | (with_reducible exact KeepsE.error) | (with_reducible refine KeepsE.ok ?_)
      | (with_reducible refine KeepsE.mapError ?_) | (with_reducible refine KeepsE.map ?_ (fun _ _ => ?_)) | split
      | dsimp only | intro _

theorem keeps_putOp {sz s : State} (tag : Nat) (o : Op)
    (hk : Keeps sz s) : Keeps sz (putOp tag o s) := by
  unfold putOp
  repeat' first
    | with_reducible assumption | (simp only [↓keeps_mk, kernel_eta, ← keeps_iff])
    | (with_reducible apply keeps_updOp) | (with_reducible apply keeps_putLoop) | split | dsimp only | intro _

theorem keeps_getOp {sz s : State} (tag : Nat) (o : Op)
    (hk : Keeps sz s) : Keeps sz (getOp tag o s) := by
  unfold getOp
  repeat' first
    | with_reducible assumption | (simp only [↓keeps_mk, kernel_eta, ← keeps_iff])
    | (with_reducible apply keeps_updOp) | (with_reducible apply keeps_drive)
    | (with_reducible apply keeps_askLines) | (with_reducible apply keeps_remoteView) | split | dsimp only
    | intro _

theorem keeps_sendDoorbell {sz s : State} (tag : Nat) (o : Op)
    (hk : Keeps sz s) : Keeps sz (sendDoorbell tag o s) := by
  unfold sendDoorbell
  repeat' first
    | with_reducible assumption | (simp only [↓keeps_mk, kernel_eta, ← keeps_iff])
    | (with_reducible apply keeps_updOp) | (with_reducible apply keeps_sendCasc) | split | dsimp only | intro _

theorem keeps_deliverMsg {sz s : State} (dev : Nat) (m : CascMsg)
    (hk : Keeps sz s) : KeepsO sz (deliverMsg dev m s) := by
  unfold deliverMsg
  repeat' first
    | with_reducible assumption | (simp only [↓keeps_mk, kernel_eta, ← keeps_iff])
    | (with_reducible apply keeps_writeDone) | (with_reducible apply keeps_groupGenOp)
    | (with_reducible apply keeps_collSubmitted) | (with_reducible apply keeps_collEnded)
    | (with_reducible apply keeps_holdMsg) | (with_reducible apply keeps_deliverWrite)
    | (with_reducible apply keeps_deliverRead) | (with_reducible apply keeps_deliverDoorbell)
    | (with_reducible apply keeps_signalDoneOp) | (with_reducible apply keeps_trnDoneOp)
    | (with_reducible apply keeps_writeDoneOp) | (with_reducible apply keeps_readDataOp)
    | (refine KeepsO.use (by assumption) ?_) | (with_reducible exact KeepsO.none)
    | (with_reducible refine KeepsO.some ?_) | (with_reducible refine KeepsO.map (fun _ => ?_)) | split
    | dsimp only | intro _

theorem keeps_drainHeld {sz x1 : State} (dev net x0 : Nat)
    (hk : Keeps sz x1) : Keeps sz (drainHeld dev net x0 x1) := by
  induction x0 generalizing x1 with
  | zero => exact hk
  | succ _ ih =>
    unfold drainHeld
    repeat' first
      | with_reducible assumption | (with_reducible apply ih) | (simp only [↓keeps_mk, kernel_eta, ← keeps_iff])
      | (with_reducible apply keeps_deliverMsg) | (refine KeepsO.use (by assumption) ?_)
      | (with_reducible exact KeepsO.none) | (with_reducible refine KeepsO.some ?_)
      | (with_reducible refine KeepsO.map (fun _ => ?_)) | split | dsimp only | intro _

theorem keeps_retryRounds {sz x1 : State} (x0 : Nat)
    (hk : Keeps sz x1) : Keeps sz (retryRounds x0 x1) := by
  induction x0 generalizing x1 with
  | zero => exact hk
  | succ _ ih =>
    unfold retryRounds
    repeat' first
      | with_reducible assumption | (with_reducible apply ih) | (simp only [↓keeps_mk, kernel_eta, ← keeps_iff])
      | (with_reducible apply keeps_drainHeld) | (with_reducible refine Keeps.foldl (fun _ _ _ => ?_) _ ?_)
      | split | dsimp only | intro _

theorem keeps_retryHeld {sz s : State}
    (hk : Keeps sz s) : Keeps sz (retryHeld s) := by
  unfold retryHeld
  repeat' first
    | with_reducible assumption | (simp only [↓keeps_mk, kernel_eta, ← keeps_iff])
    | (with_reducible apply keeps_retryRounds) | split | dsimp only | intro _

theorem keeps_receiveMsg {sz s : State} (dev seq : Nat) (m : CascMsg)
    (hk : Keeps sz s) : Keeps sz (receiveMsg dev seq m s) := by
  unfold receiveMsg
  repeat' first
    | with_reducible assumption | (simp only [↓keeps_mk, kernel_eta, ← keeps_iff])
    | (with_reducible apply keeps_drainHeld) | (with_reducible apply keeps_retryHeld) | split | dsimp only
    | intro _

theorem keeps_fenceReleaseOp {sz s : State} (dev queue : Nat)
    (hk : Keeps sz s) : Keeps sz (fenceReleaseOp dev queue s) := by
  unfold fenceReleaseOp
  repeat' first
    | with_reducible assumption | (simp only [↓keeps_mk, kernel_eta, ← keeps_iff])
    | (with_reducible apply keeps_releaseChannel) | (with_reducible apply keeps_retryHeld) | split | dsimp only
    | intro _

theorem keeps_deliverFlit {sz s : State} (flit : List Byte)
    (hk : Keeps sz s) : Keeps sz (deliverFlit flit s) := by
  unfold deliverFlit
  repeat' first
    | with_reducible assumption | (simp only [↓keeps_mk, kernel_eta, ← keeps_iff])
    | (with_reducible apply keeps_receiveMsg) | (with_reducible refine Keeps.foldl (fun _ _ _ => ?_) _ ?_) | split
    | dsimp only | intro _

end Sys2Proof.Machine
end

