-- ==== Sys2Proof/Laws/KeepsFabric.lean ====
section
/-! SUPPORT. What the shared operations of Machine/Fabric.lean keep. -/

set_option linter.unusedSimpArgs false
set_option maxRecDepth 4000

namespace Sys2Proof.Machine

theorem keeps_settled {sz s : State} (b : Option Bool)
    (hk : Keeps sz s) : Keeps sz (settled b s).2 := by
  unfold settled
  repeat' first
    | with_reducible assumption | (simp only [↓keeps_mk, kernel_eta, ← keeps_iff])
    | (with_reducible apply keeps_takeFree) | (refine Keeps.use (by assumption) ?_) | split | dsimp only | intro _

theorem keeps_setPin {sz s : State} (n : Nat) (x : Pin) (hk : Keeps sz s) :
    Keeps sz (setPin s n x) := hk

theorem keeps_settleFastPin {sz s : State} (n : Nat)
    (hk : Keeps sz s) : Keeps sz (settleFastPin n s) := by
  unfold settleFastPin
  repeat' first
    | with_reducible assumption | (simp only [↓keeps_mk, kernel_eta, ← keeps_iff])
    | (with_reducible apply keeps_emit) | (with_reducible apply keeps_drive)
    | (with_reducible apply keeps_settled) | (with_reducible apply keeps_setPin)
    | (refine Keeps.use (by assumption) ?_) | split | dsimp only | intro _

theorem keeps_settleFast {sz s : State} (d : Nat)
    (hk : Keeps sz s) : Keeps sz (settleFast d s) := by
  unfold settleFast
  repeat' first
    | with_reducible assumption | (simp only [↓keeps_mk, kernel_eta, ← keeps_iff])
    | (with_reducible apply keeps_settleFastPin) | (with_reducible refine Keeps.foldl (fun _ _ _ => ?_) _ ?_)
    | split | dsimp only | intro _

theorem keeps_settleAll {sz s : State}
    (hk : Keeps sz s) : Keeps sz (settleAll s) := by
  unfold settleAll
  repeat' first
    | with_reducible assumption | (simp only [↓keeps_mk, kernel_eta, ← keeps_iff])
    | (with_reducible apply keeps_settleFast) | (with_reducible refine Keeps.foldl (fun _ _ _ => ?_) _ ?_) | split
    | dsimp only | intro _

theorem keeps_latchOp {sz s : State} (cell : Nat) (req : Bool) (ones : List Nat)
    (hk : Keeps sz s) : Keeps sz (latchOp cell req ones s) := by
  unfold latchOp
  repeat' first
    | with_reducible assumption | (simp only [↓keeps_mk, kernel_eta, ← keeps_iff])
    | (with_reducible apply keeps_emit) | (with_reducible apply keeps_settled)
    | (with_reducible apply keeps_settleAll) | (refine Keeps.use (by assumption) ?_) | split | dsimp only
    | intro _

end Sys2Proof.Machine
end

