-- ==== Sys2Proof/Laws/KeepsMidway.lean ====
section
/-! SUPPORT. What the shared operations of Machine/Midway.lean keep. -/

set_option linter.unusedSimpArgs false
set_option maxRecDepth 4000

namespace Sys2Proof.Machine

theorem keeps_runFabric {sz s : State} (tag kind : Nat) (f : Op → State → State)
    (hf : ∀ y0 y1, Keeps sz y1 → Keeps sz (f y0 y1)) (hk : Keeps sz s) : Keeps sz (runFabric tag kind f s) := by
  unfold runFabric
  repeat' first
    | with_reducible assumption | (with_reducible apply hf) | (simp only [↓keeps_mk, kernel_eta, ← keeps_iff])
    | (with_reducible apply keeps_refuseOp) | (with_reducible apply keeps_runWhen) | split | dsimp only | intro _

theorem keeps_fabricWait {sz s : State} (tag : Nat)
    (hk : Keeps sz s) : Keeps sz (fabricWait tag s) := by
  unfold fabricWait
  repeat' first
    | with_reducible assumption | (simp only [↓keeps_mk, kernel_eta, ← keeps_iff])
    | (with_reducible apply keeps_updOp) | split | dsimp only | intro _

theorem keeps_withPort {sz s : State} (tag : Nat) (o : Op) (go : State → State)
    (hgo : ∀ y0, Keeps sz y0 → Keeps sz (go y0)) (hk : Keeps sz s) : Keeps sz (withPort tag o go s) := by
  unfold withPort
  repeat' first
    | with_reducible assumption | (with_reducible apply hgo) | (simp only [↓keeps_mk, kernel_eta, ← keeps_iff])
    | (with_reducible apply keeps_updOp) | (with_reducible apply keeps_holdPort) | split | dsimp only | intro _

theorem keeps_placeRaw {sz s : State} (tag : Nat) (o : Op) (t : Tensor) (bs : List Byte)
    (hk : Keeps sz s) : KeepsE sz (placeRaw tag o t bs s) := by
  unfold placeRaw
  repeat' first
    | with_reducible assumption | (simp only [↓keeps_mk, kernel_eta, ← keeps_iff])
    | (with_reducible apply keeps_writeAll) | (with_reducible apply keeps_updStats)
    | (refine KeepsE.use (by assumption) ?_) | (with_reducible exact KeepsE.error)
    | (with_reducible refine KeepsE.ok ?_) | (with_reducible refine KeepsE.mapError ?_)
    | (with_reducible refine KeepsE.map ?_ (fun _ _ => ?_)) | split | dsimp only | intro _

theorem keeps_placeElems {sz s : State} (tag : Nat) (o : Op) (t : Tensor) (bs : List Byte) (n : Nat)
    (hk : Keeps sz s) : KeepsE sz (placeElems tag o t bs n s) := by
  unfold placeElems
  repeat' first
    | with_reducible assumption | (simp only [↓keeps_mk, kernel_eta, ← keeps_iff])
    | (with_reducible apply keeps_deliver) | (with_reducible apply keeps_placeRaw)
    | (refine KeepsE.use (by assumption) ?_) | (with_reducible exact KeepsE.error)
    | (with_reducible refine KeepsE.ok ?_) | (with_reducible refine KeepsE.mapError ?_)
    | (with_reducible refine KeepsE.map ?_ (fun _ _ => ?_)) | split | dsimp only | intro _

theorem keeps_streamInLoop {sz x1 : State} (tag x0 : Nat)
    (hk : Keeps sz x1) : Keeps sz (streamInLoop tag x0 x1) := by
  induction x0 generalizing x1 with
  | zero => exact hk
  | succ _ ih =>
    unfold streamInLoop
    repeat' first
      | with_reducible assumption | (with_reducible apply ih) | (simp only [↓keeps_mk, kernel_eta, ← keeps_iff])
      | (with_reducible apply keeps_updOp) | (with_reducible apply keeps_endOp)
      | (with_reducible apply keeps_putPort) | (with_reducible apply keeps_refill)
      | (with_reducible apply keeps_stopOp) | (with_reducible apply keeps_fabricWait)
      | (with_reducible apply keeps_placeElems) | (refine KeepsE.use (by assumption) ?_)
      | (with_reducible exact KeepsE.error) | (with_reducible refine KeepsE.ok ?_)
      | (with_reducible refine KeepsE.mapError ?_) | (with_reducible refine KeepsE.map ?_ (fun _ _ => ?_)) | split
      | dsimp only | intro _

theorem keeps_streamInOp {sz s : State} (tag : Nat) (o : Op)
    (hk : Keeps sz s) : Keeps sz (streamInOp tag o s) := by
  unfold streamInOp
  repeat' first
    | with_reducible assumption | (simp only [↓keeps_mk, kernel_eta, ← keeps_iff])
    | (with_reducible apply keeps_withPort) | (with_reducible apply keeps_streamInLoop) | split | dsimp only
    | intro _

theorem keeps_packWord {sz s : State} (bs : List Byte) (last : Bool)
    (hk : Keeps sz s) : Keeps sz (packWord bs last s).2 := by
  unfold packWord
  repeat' first
    | with_reducible assumption | (simp only [↓keeps_mk, kernel_eta, ← keeps_iff])
    | (with_reducible apply keeps_takeFree) | (refine Keeps.use (by assumption) ?_) | split | dsimp only | intro _

theorem keeps_streamOutLoop {sz x1 : State} (tag x0 : Nat)
    (hk : Keeps sz x1) : Keeps sz (streamOutLoop tag x0 x1) := by
  induction x0 generalizing x1 with
  | zero => exact hk
  | succ _ ih =>
    unfold streamOutLoop
    repeat' first
      | with_reducible assumption | (with_reducible apply ih) | (simp only [↓keeps_mk, kernel_eta, ← keeps_iff])
      | (with_reducible apply keeps_updOp) | (with_reducible apply keeps_endOp)
      | (with_reducible apply keeps_freePort) | (with_reducible apply keeps_pushWord)
      | (with_reducible apply keeps_stopOp) | (with_reducible apply keeps_flagElem)
      | (with_reducible apply keeps_fabricWait) | (with_reducible apply keeps_packWord)
      | (refine Keeps.use (by assumption) ?_) | (with_reducible refine Keeps.foldl (fun _ _ _ => ?_) _ ?_) | split
      | dsimp only | intro _

theorem keeps_streamOutOp {sz s : State} (tag : Nat) (o : Op)
    (hk : Keeps sz s) : Keeps sz (streamOutOp tag o s) := by
  unfold streamOutOp
  repeat' first
    | with_reducible assumption | (simp only [↓keeps_mk, kernel_eta, ← keeps_iff])
    | (with_reducible apply keeps_withPort) | (with_reducible apply keeps_streamOutLoop) | split | dsimp only
    | intro _

theorem keeps_bindMemOp {sz s : State} (tag : Nat) (o : Op)
    (hk : Keeps sz s) : Keeps sz (bindMemOp tag o s) := by
  unfold bindMemOp
  repeat' first
    | with_reducible assumption | (simp only [↓keeps_mk, kernel_eta, ← keeps_iff])
    | (with_reducible apply keeps_endOp) | (with_reducible apply keeps_setPort)
    | (with_reducible apply keeps_refuseOp) | split | dsimp only | intro _

theorem keeps_unbindOp {sz s : State} (tag : Nat) (o : Op)
    (hk : Keeps sz s) : Keeps sz (unbindOp tag o s) := by
  unfold unbindOp
  repeat' first
    | with_reducible assumption | (simp only [↓keeps_mk, kernel_eta, ← keeps_iff])
    | (with_reducible apply keeps_setPort) | (with_reducible apply keeps_endUnbind)
    | (with_reducible apply keeps_fabricWait) | split | dsimp only | intro _

theorem keeps_memRequest {sz s : State} (m : Nat) (r : PortReq)
    (hk : Keeps sz s) : Keeps sz (memRequest m r s) := by
  unfold memRequest
  repeat' first
    | with_reducible assumption | (simp only [↓keeps_mk, kernel_eta, ← keeps_iff])
    | (with_reducible apply keeps_emit) | (with_reducible apply keeps_setPort)
    | (with_reducible apply keeps_retryPort) | split | dsimp only | intro _

theorem keeps_setUserLane {sz s : State} (n : Nat) (x : UserLane) (hk : Keeps sz s) :
    Keeps sz (setUserLane s n x) := hk

theorem keeps_laneUpOp {sz s : State} (tag : Nat) (o : Op)
    (hk : Keeps sz s) : Keeps sz (laneUpOp tag o s) := by
  unfold laneUpOp
  repeat' first
    | with_reducible assumption | (simp only [↓keeps_mk, kernel_eta, ← keeps_iff])
    | (with_reducible apply keeps_updOp) | (with_reducible apply keeps_fabricWait)
    | (with_reducible apply keeps_setUserLane) | split | dsimp only | intro _

theorem keeps_laneDownOp {sz s : State} (tag : Nat) (o : Op)
    (hk : Keeps sz s) : Keeps sz (laneDownOp tag o s) := by
  unfold laneDownOp
  repeat' first
    | with_reducible assumption | (simp only [↓keeps_mk, kernel_eta, ← keeps_iff])
    | (with_reducible apply keeps_endOp) | (with_reducible apply keeps_setUserLane) | split | dsimp only | intro _

theorem keeps_laneLockOp {sz s : State} (n : Nat)
    (hk : Keeps sz s) : Keeps sz (laneLockOp n s) := by
  unfold laneLockOp
  repeat' first
    | with_reducible assumption | (simp only [↓keeps_mk, kernel_eta, ← keeps_iff])
    | (with_reducible apply keeps_endOp) | (with_reducible apply keeps_setUserLane) | split | dsimp only | intro _

theorem keeps_fabricTimeoutOp {sz s : State} (tag : Nat)
    (hk : Keeps sz s) : Keeps sz (fabricTimeoutOp tag s) := by
  unfold fabricTimeoutOp
  repeat' first
    | with_reducible assumption | (simp only [↓keeps_mk, kernel_eta, ← keeps_iff])
    | (with_reducible apply keeps_passTo) | (with_reducible apply keeps_endOp)
    | (with_reducible apply keeps_freePort) | (with_reducible apply keeps_setUserLane) | split | dsimp only
    | intro _

theorem keeps_laneRxOp {sz s : State} (n : Nat) (w : W64) (taken : Nat)
    (hk : Keeps sz s) : Keeps sz (laneRxOp n w taken s) := by
  unfold laneRxOp
  repeat' first
    | with_reducible assumption | (simp only [↓keeps_mk, kernel_eta, ← keeps_iff])
    | (with_reducible apply keeps_setUserLane) | split | dsimp only | intro _

theorem keeps_laneTxOp {sz s : State} (n : Nat) (ws : List W64)
    (hk : Keeps sz s) : Keeps sz (laneTxOp n ws s) := by
  unfold laneTxOp
  repeat' first
    | with_reducible assumption | (simp only [↓keeps_mk, kernel_eta, ← keeps_iff])
    | (with_reducible apply keeps_emit) | (with_reducible apply keeps_setUserLane) | split | dsimp only | intro _

theorem keeps_ramOp {sz s : State} (b : Nat) (write : Bool) (a : Nat) (d : BitVec 72)
    (hk : Keeps sz s) : Keeps sz (ramOp b write a d s) := by
  unfold ramOp
  repeat' first
    | with_reducible assumption | (simp only [↓keeps_mk, kernel_eta, ← keeps_iff])
    | (with_reducible apply keeps_emit) | split | dsimp only | intro _

theorem keeps_pinChangeOp {sz s : State} (n : Nat) (level : Bool)
    (hk : Keeps sz s) : Keeps sz (pinChangeOp n level s) := by
  unfold pinChangeOp
  repeat' first
    | with_reducible assumption | (simp only [↓keeps_mk, kernel_eta, ← keeps_iff])
    | (with_reducible apply keeps_emit) | (with_reducible apply keeps_setPin)
    | (with_reducible apply keeps_settleFast) | split | dsimp only | intro _

theorem keeps_bankOp {sz s : State} (b mv : Nat)
    (hk : Keeps sz s) : Keeps sz (bankOp b mv s) := by
  unfold bankOp
  repeat' first
    | with_reducible assumption | (simp only [↓keeps_mk, kernel_eta, ← keeps_iff])
    | (with_reducible apply keeps_emit) | (with_reducible apply keeps_settleFast)
    | (with_reducible refine Keeps.foldl (fun _ _ _ => ?_) _ ?_) | split | dsimp only | intro _

theorem keeps_setPacer {sz s : State} (n : Nat) (x : Pacer) (hk : Keeps sz s) :
    Keeps sz (setPacer s n x) := hk

theorem keeps_drivePin {sz s : State} (n : Nat) (v : Bool)
    (hk : Keeps sz s) : Keeps sz (drivePin n v s) := by
  unfold drivePin
  repeat' first
    | with_reducible assumption | (simp only [↓keeps_mk, kernel_eta, ← keeps_iff])
    | (with_reducible apply keeps_emit) | (with_reducible apply keeps_drive) | (with_reducible apply keeps_setPin)
    | split | dsimp only | intro _

theorem keeps_samplePin {sz s : State} (n : Nat)
    (hk : Keeps sz s) : Keeps sz (samplePin n s) := by
  unfold samplePin
  repeat' first
    | with_reducible assumption | (simp only [↓keeps_mk, kernel_eta, ← keeps_iff])
    | (with_reducible apply keeps_emit) | split | dsimp only | intro _

theorem keeps_pacerTickOp {sz s : State} (n : Nat) (acked : Bool) (drive : List (Nat × Bool)) (sample : List Nat)
    (hk : Keeps sz s) : Keeps sz (pacerTickOp n acked drive sample s) := by
  unfold pacerTickOp
  repeat' first
    | with_reducible assumption | (simp only [↓keeps_mk, kernel_eta, ← keeps_iff])
    | (with_reducible apply keeps_emit) | (with_reducible apply keeps_setPacer)
    | (with_reducible apply keeps_drivePin) | (with_reducible apply keeps_samplePin)
    | (with_reducible refine Keeps.foldl (fun _ _ _ => ?_) _ ?_) | split | dsimp only | intro _

theorem keeps_pacerCalOp {sz s : State} (n deviation : Nat)
    (hk : Keeps sz s) : Keeps sz (pacerCalOp n deviation s) := by
  unfold pacerCalOp
  repeat' first
    | with_reducible assumption | (simp only [↓keeps_mk, kernel_eta, ← keeps_iff])
    | (with_reducible apply keeps_setPacer) | split | dsimp only | intro _

theorem keeps_afterPush {sz s : State} (m : Nat)
    (hk : Keeps sz s) : Keeps sz (afterPush m s) := by
  unfold afterPush
  repeat' first
    | with_reducible assumption | (simp only [↓keeps_mk, kernel_eta, ← keeps_iff])
    | (with_reducible apply keeps_pumpRings) | (with_reducible refine Keeps.foldl (fun _ _ _ => ?_) _ ?_) | split
    | dsimp only | intro _

theorem keeps_pushOp {sz s : State} (m : Nat) (w : PortWord)
    (hk : Keeps sz s) : Keeps sz (pushOp m w s) := by
  unfold pushOp
  repeat' first
    | with_reducible assumption | (simp only [↓keeps_mk, kernel_eta, ← keeps_iff])
    | (with_reducible apply keeps_pushWord) | (with_reducible apply keeps_afterPush) | split | dsimp only
    | intro _

theorem keeps_popOp {sz s : State} (m : Nat)
    (hk : Keeps sz s) : Keeps sz (popOp m s) := by
  unfold popOp
  repeat' first
    | with_reducible assumption | (simp only [↓keeps_mk, kernel_eta, ← keeps_iff])
    | (with_reducible apply keeps_popWordOp) | split | dsimp only | intro _

theorem keeps_portWordOp {sz s : State} (m : Nat) (w : PortWord)
    (hk : Keeps sz s) : Keeps sz (portWordOp m w s) := by
  unfold portWordOp
  repeat' first
    | with_reducible assumption | (simp only [↓keeps_mk, kernel_eta, ← keeps_iff])
    | (with_reducible apply keeps_pushOp) | split | dsimp only | intro _

theorem keeps_endStreamAt {sz s : State} (m : Nat)
    (hk : Keeps sz s) : Keeps sz (endStreamAt m s) := by
  unfold endStreamAt
  repeat' first
    | with_reducible assumption | (simp only [↓keeps_mk, kernel_eta, ← keeps_iff])
    | (with_reducible apply keeps_endOp) | split | dsimp only | intro _

theorem keeps_endStreams {sz s : State}
    (hk : Keeps sz s) : Keeps sz (endStreams s) := by
  unfold endStreams
  repeat' first
    | with_reducible assumption | (simp only [↓keeps_mk, kernel_eta, ← keeps_iff])
    | (with_reducible apply keeps_setPort) | (with_reducible apply keeps_endUnbind)
    | (with_reducible apply keeps_endStreamAt) | (with_reducible refine Keeps.foldl (fun _ _ _ => ?_) _ ?_)
    | split | dsimp only | intro _

theorem keeps_clearMidway {sz s : State}
    (hk : Keeps sz s) : Keeps sz (clearMidway s) := by
  unfold clearMidway
  repeat' first
    | with_reducible assumption | (simp only [↓keeps_mk, kernel_eta, ← keeps_iff])
    | (with_reducible apply keeps_setPort) | (with_reducible apply keeps_setPin)
    | (with_reducible apply keeps_setUserLane) | (with_reducible apply keeps_setPacer)
    | (with_reducible refine Keeps.foldl (fun _ _ _ => ?_) _ ?_) | split | dsimp only | intro _

theorem keeps_startDesign {sz s : State} (version : Nat)
    (hk : Keeps sz s) : Keeps sz (startDesign version s) := by
  unfold startDesign
  repeat' first
    | with_reducible assumption | (simp only [↓keeps_mk, kernel_eta, ← keeps_iff])
    | (with_reducible apply keeps_setPort) | (with_reducible apply keeps_settleAll)
    | (with_reducible apply keeps_setPacer) | (with_reducible apply keeps_drivePin)
    | (with_reducible refine Keeps.foldl (fun _ _ _ => ?_) _ ?_) | split | dsimp only | intro _

theorem keeps_unbindFunc {sz s : State} (func : Nat)
    (hk : Keeps sz s) : Keeps sz (unbindFunc func s) := by
  unfold unbindFunc
  repeat' first
    | with_reducible assumption | (simp only [↓keeps_mk, kernel_eta, ← keeps_iff])
    | (with_reducible apply keeps_setPort) | (with_reducible refine Keeps.foldl (fun _ _ _ => ?_) _ ?_) | split
    | dsimp only | intro _

end Sys2Proof.Machine
end

