-- ==== Sys2Proof/Laws/KeepsQueues.lean ====
section
/-! SUPPORT. What the shared operations of Machine/Queues.lean keep. -/

set_option linter.unusedSimpArgs false
set_option maxRecDepth 4000

namespace Sys2Proof.Machine

theorem keeps_ringStop {sz s : State} (q : Nat) (w : Who) (write : Bool) (e : Stop)
    (hk : Keeps sz s) : Keeps sz (ringStop q w write e s) := by
  unfold ringStop
  repeat' first
    | with_reducible assumption | (simp only [↓keeps_mk, kernel_eta, ← keeps_iff])
    | (with_reducible apply keeps_setQueue) | (with_reducible apply keeps_recordStop)
    | (with_reducible apply keeps_startWait) | (with_reducible apply keeps_stopQueue) | split | dsimp only
    | intro _

theorem keeps_readDesc {sz s : State} (q : Nat)
    (hk : Keeps sz s) : Keeps sz (readDesc q s).2 := by
  unfold readDesc
  repeat' first
    | with_reducible assumption | (simp only [↓keeps_mk, kernel_eta, ← keeps_iff])
    | (with_reducible apply keeps_readRM) | (refine Keeps.use (by assumption) ?_) | split | dsimp only | intro _

theorem keeps_fetchFrom {sz s : State} (q : Nat)
    (hk : Keeps sz s) : Keeps sz (fetchFrom q s) := by
  unfold fetchFrom
  repeat' first
    | with_reducible assumption | (simp only [↓keeps_mk, kernel_eta, ← keeps_iff])
    | (with_reducible apply keeps_setQueue) | (with_reducible apply keeps_advanceQueue)
    | (with_reducible apply keeps_ringStop) | (with_reducible apply keeps_readDesc)
    | (refine Keeps.use (by assumption) ?_) | split | dsimp only | intro _

theorem keeps_fetchOp {sz s : State}
    (hk : Keeps sz s) : Keeps sz (fetchOp s) := by
  unfold fetchOp
  repeat' first
    | with_reducible assumption | (simp only [↓keeps_mk, kernel_eta, ← keeps_iff])
    | (with_reducible apply keeps_fetchFrom) | split | dsimp only | intro _

theorem keeps_resumeOpAfter {sz s : State} (tag : Nat)
    (hk : Keeps sz s) : Keeps sz (resumeOpAfter tag s) := by
  unfold resumeOpAfter
  repeat' first
    | with_reducible assumption | (simp only [↓keeps_mk, kernel_eta, ← keeps_iff])
    | (with_reducible apply keeps_updOp) | (with_reducible apply keeps_freeSlots)
    | (with_reducible apply keeps_advanceQueue) | split | dsimp only | intro _

theorem keeps_faultResolvedOp {sz s : State} (tag : Nat)
    (hk : Keeps sz s) : Keeps sz (faultResolvedOp tag s) := by
  unfold faultResolvedOp
  repeat' first
    | with_reducible assumption | (simp only [↓keeps_mk, kernel_eta, ← keeps_iff])
    | (with_reducible apply keeps_backRegion) | (with_reducible apply keeps_finishMigration)
    | (with_reducible apply keeps_stopOp) | (with_reducible apply keeps_advanceQueue)
    | (with_reducible apply keeps_resumeOpAfter) | (refine KeepsO.use (by assumption) ?_)
    | (with_reducible exact KeepsO.none) | (with_reducible refine KeepsO.some ?_)
    | (with_reducible refine KeepsO.map (fun _ => ?_)) | split | dsimp only | intro _

theorem keeps_statsTensor {sz s : State} (o : Op) (t : Tensor)
    (hk : Keeps sz s) : Keeps sz (statsTensor o t s).2 := by
  unfold statsTensor
  repeat' first
    | with_reducible assumption | (simp only [↓keeps_mk, kernel_eta, ← keeps_iff])
    | (with_reducible apply keeps_takeFree) | (refine Keeps.use (by assumption) ?_) | split | dsimp only | intro _

theorem keeps_writeStats {sz x1 : State} (o : Op) (x0 : List (Nat × Tensor))
    (hk : Keeps sz x1) : Keeps sz (writeStats o x0 x1).2 := by
  induction x0 generalizing x1 with
  | nil =>
    unfold writeStats
    repeat' first
      | with_reducible assumption | (simp only [↓keeps_mk, kernel_eta, ← keeps_iff])
      | (with_reducible apply keeps_updOp) | (with_reducible apply keeps_writeRM)
      | (with_reducible apply keeps_statsBytes) | (with_reducible apply keeps_statsTensor)
      | (refine Keeps.use (by assumption) ?_) | split | dsimp only | intro _
  | cons _ _ ih =>
    unfold writeStats
    repeat' first
      | with_reducible assumption | (with_reducible apply ih) | (simp only [↓keeps_mk, kernel_eta, ← keeps_iff])
      | (with_reducible apply keeps_updOp) | (with_reducible apply keeps_writeRM)
      | (with_reducible apply keeps_statsBytes) | (with_reducible apply keeps_statsTensor)
      | (refine Keeps.use (by assumption) ?_) | split | dsimp only | intro _

theorem keeps_letGo {sz s : State} (o : Op)
    (hk : Keeps sz s) : Keeps sz (letGo o s) := by
  unfold letGo
  repeat' first
    | with_reducible assumption | (simp only [↓keeps_mk, kernel_eta, ← keeps_iff])
    | (with_reducible apply keeps_freeParts) | (with_reducible apply keeps_killRuns)
    | (with_reducible apply keeps_dropLocks) | (with_reducible apply keeps_collLeave) | split | dsimp only
    | intro _

theorem keeps_dropOp {sz s : State} (tag : Nat)
    (hk : Keeps sz s) : Keeps sz (dropOp tag s) := by
  unfold dropOp
  repeat' first
    | with_reducible assumption | (simp only [↓keeps_mk, kernel_eta, ← keeps_iff])
    | (with_reducible apply keeps_releaseImages) | (with_reducible apply keeps_letGo) | split | dsimp only
    | intro _

theorem keeps_closeRuns {sz s : State} (o : Op)
    (hk : Keeps sz s) : Keeps sz (closeRuns o s) := by
  unfold closeRuns
  repeat' first
    | with_reducible assumption | (simp only [↓keeps_mk, kernel_eta, ← keeps_iff])
    | (with_reducible apply keeps_killRuns) | split | dsimp only | intro _

theorem keeps_closeStats {sz s : State} (o : Op)
    (hk : Keeps sz s) : Keeps sz (closeStats o s) := by
  unfold closeStats
  repeat' first
    | with_reducible assumption | (simp only [↓keeps_mk, kernel_eta, ← keeps_iff])
    | (with_reducible apply keeps_updOp) | (with_reducible apply keeps_recordStop)
    | (with_reducible apply keeps_startWait) | (with_reducible apply keeps_stopOp)
    | (with_reducible apply keeps_writeStats) | (refine Keeps.use (by assumption) ?_) | split | dsimp only
    | intro _

theorem keeps_closeArrive {sz s : State} (o : Op)
    (hk : Keeps sz s) : Keeps sz (closeArrive o s) := by
  unfold closeArrive
  repeat' first
    | with_reducible assumption | (simp only [↓keeps_mk, kernel_eta, ← keeps_iff])
    | (with_reducible apply keeps_updOp) | (with_reducible apply keeps_doneArrival)
    | (with_reducible apply keeps_partDone) | split | dsimp only | intro _

theorem keeps_retireOp {sz s : State} (o : Op)
    (hk : Keeps sz s) : Keeps sz (retireOp o s) := by
  unfold retireOp
  repeat' first
    | with_reducible assumption | (simp only [↓keeps_mk, kernel_eta, ← keeps_iff])
    | (with_reducible apply keeps_setQueue) | (with_reducible apply keeps_advanceQueue)
    | (with_reducible apply keeps_dropOp) | split | dsimp only | intro _

theorem keeps_writeEntries {sz s : State} (o : Op)
    (hk : Keeps sz s) : Keeps sz (writeEntries o s) := by
  unfold writeEntries
  repeat' first
    | with_reducible assumption | (simp only [↓keeps_mk, kernel_eta, ← keeps_iff])
    | (with_reducible apply keeps_setQueue) | (with_reducible apply keeps_writeRM)
    | (with_reducible apply keeps_countIrq) | (with_reducible apply keeps_ringStop)
    | (with_reducible apply keeps_retireOp) | (refine Keeps.use (by assumption) ?_) | split | dsimp only | intro _

theorem keeps_atClosing {sz s : State} (tag : Nat) (p : Nat → Bool) (f : Op → State → State)
    (hf : ∀ y0 y1, Keeps sz y1 → Keeps sz (f y0 y1)) (hk : Keeps sz s) : Keeps sz (atClosing tag p f s) := by
  unfold atClosing
  repeat' first
    | with_reducible assumption | (with_reducible apply hf) | (simp only [↓keeps_mk, kernel_eta, ← keeps_iff])
    | split | dsimp only | intro _

theorem keeps_completionOp {sz s : State} (tag : Nat)
    (hk : Keeps sz s) : Keeps sz (completionOp tag s) := by
  unfold completionOp
  repeat' first
    | with_reducible assumption | (simp only [↓keeps_mk, kernel_eta, ← keeps_iff])
    | (with_reducible apply keeps_closeRuns) | (with_reducible apply keeps_closeStats)
    | (with_reducible apply keeps_closeArrive) | (with_reducible apply keeps_writeEntries)
    | (with_reducible apply keeps_atClosing) | split | dsimp only | intro _

end Sys2Proof.Machine
end

