-- ==== Sys2Proof/Laws/KeepsTrips.lean ====
section
/-! SUPPORT. What the shared operations of Machine/Trips.lean keep. -/

set_option linter.unusedSimpArgs false
set_option maxRecDepth 4000

namespace Sys2Proof.Machine

theorem keeps_abortAll {sz s : State}
    (hk : Keeps sz s) : Keeps sz (abortAll s) := by
  unfold abortAll
  repeat' first
    | with_reducible assumption | (simp only [↓keeps_mk, kernel_eta, ← keeps_iff])
    | (with_reducible apply keeps_endAllOps) | (with_reducible apply keeps_completionOp)
    | (with_reducible refine Keeps.foldl (fun _ _ _ => ?_) _ ?_) | split | dsimp only | intro _

theorem keeps_thermalTrip {sz s : State} (sensor : Nat) (temp : Int)
    (hk : Keeps sz s) : Keeps sz (thermalTrip sensor temp s) := by
  unfold thermalTrip
  repeat' first
    | with_reducible assumption | (simp only [↓keeps_mk, kernel_eta, ← keeps_iff])
    | (with_reducible apply keeps_record) | (with_reducible apply keeps_removeVcore)
    | (with_reducible apply keeps_abortAll) | split | dsimp only | intro _

theorem keeps_judgeHeat {sz s : State}
    (hk : Keeps sz s) : Keeps sz (judgeHeat s) := by
  unfold judgeHeat
  repeat' first
    | with_reducible assumption | (simp only [↓keeps_mk, kernel_eta, ← keeps_iff])
    | (with_reducible apply keeps_record) | split | dsimp only | intro _

theorem keeps_governorAct {sz s : State} (watts : Nat)
    (hk : Keeps sz s) : Keeps sz (governorAct watts s) := by
  unfold governorAct
  repeat' first
    | with_reducible assumption | (simp only [↓keeps_mk, kernel_eta, ← keeps_iff])
    | (with_reducible apply keeps_showStage) | (with_reducible apply keeps_thermalTrip)
    | (with_reducible apply keeps_judgeHeat) | split | dsimp only | intro _

theorem keeps_governorSampleOp {sz s : State} (watts millivolts : Nat) (temps : List (Nat × Int))
    (hk : Keeps sz s) : Keeps sz (governorSampleOp watts millivolts temps s) := by
  unfold governorSampleOp
  repeat' first
    | with_reducible assumption | (simp only [↓keeps_mk, kernel_eta, ← keeps_iff])
    | (with_reducible apply keeps_passTo) | (with_reducible apply keeps_showStage)
    | (with_reducible apply keeps_countThermalCycle) | (with_reducible apply keeps_judgeHeat)
    | (with_reducible apply keeps_governorAct) | (with_reducible refine Keeps.foldl (fun _ _ _ => ?_) _ ?_)
    | split | dsimp only | intro _

theorem keeps_flitCrcOp {sz s : State} (source target net inject replay : Nat)
    (hk : Keeps sz s) : Keeps sz (flitCrcOp source target net inject replay s) := by
  unfold flitCrcOp
  repeat' first
    | with_reducible assumption | (simp only [↓keeps_mk, kernel_eta, ← keeps_iff])
    | (with_reducible apply keeps_emit) | (with_reducible apply keeps_record)
    | (with_reducible apply keeps_abortAll) | split | dsimp only | intro _

end Sys2Proof.Machine
end

