-- ==== Sys2Proof/Laws/KeepsConfigLoad.lean ====
section
/-! SUPPORT. What the shared operations of Machine/ConfigLoad.lean keep. -/

set_option linter.unusedSimpArgs false
set_option maxRecDepth 4000

namespace Sys2Proof.Machine

theorem keeps_recordReject {sz s : State} (boot : Bool) (r : Rejection)
    (hk : Keeps sz s) : Keeps sz (recordReject boot r s) := by
  unfold recordReject
  repeat' first
    | with_reducible assumption | (simp only [↓keeps_mk, kernel_eta, ← keeps_iff])
    | (with_reducible apply keeps_recordSev) | split | dsimp only | intro _

theorem keeps_rejectCfg {sz s : State} (tag : Nat) (r : Rejection) (addr : Nat)
    (hk : Keeps sz s) : Keeps sz (rejectCfg tag r addr s) := by
  unfold rejectCfg
  repeat' first
    | with_reducible assumption | (simp only [↓keeps_mk, kernel_eta, ← keeps_iff])
    | (with_reducible apply keeps_endOp) | (with_reducible apply keeps_recordReject) | split | dsimp only
    | intro _

theorem keeps_cfgTurn {sz s : State} (tag : Nat) (o : Op) (f : State → State)
    (hf : ∀ y0, Keeps sz y0 → Keeps sz (f y0)) (hk : Keeps sz s) : Keeps sz (cfgTurn tag o f s) := by
  unfold cfgTurn
  repeat' first
    | with_reducible assumption | (with_reducible apply hf) | (simp only [↓keeps_mk, kernel_eta, ← keeps_iff])
    | (with_reducible apply keeps_updOp) | split | dsimp only | intro _

theorem keeps_unstage {sz s : State} (hk : Keeps sz s) :
    Keeps sz (unstage s) := hk

theorem keeps_takeArea {sz s : State}
    (hk : Keeps sz s) : KeepsO sz (takeArea s) := by
  unfold takeArea
  repeat' first
    | with_reducible assumption | (simp only [↓keeps_mk, kernel_eta, ← keeps_iff])
    | (with_reducible exact KeepsO.none) | (with_reducible refine KeepsO.some ?_)
    | (with_reducible refine KeepsO.map (fun _ => ?_)) | split | dsimp only | intro _

theorem keeps_copyMem {sz s : State} (o : Op) (src len : Nat)
    (hk : Keeps sz s) : Keeps sz (copyMem o src len s).2 := by
  unfold copyMem
  repeat' first
    | with_reducible assumption | (simp only [↓keeps_mk, kernel_eta, ← keeps_iff])
    | (with_reducible apply keeps_readRM) | (refine Keeps.use (by assumption) ?_) | split | dsimp only | intro _

theorem keeps_stageCopy {sz s : State} (tag : Nat) (b : List Byte) (go : CfgStream → State → State)
    (hgo : ∀ y0 y1, Keeps sz y1 → Keeps sz (go y0 y1)) (hk : Keeps sz s) : Keeps sz (stageCopy tag b go s) := by
  unfold stageCopy
  repeat' first
    | with_reducible assumption | (with_reducible apply hgo) | (simp only [↓keeps_mk, kernel_eta, ← keeps_iff])
    | (with_reducible apply keeps_rejectCfg) | (with_reducible apply keeps_unstage) | split | dsimp only | intro _

theorem keeps_loadFlash {sz s : State} (tag role : Nat) (flashOk : Bool) (go : CfgStream → State → State)
    (hgo : ∀ y0 y1, Keeps sz y1 → Keeps sz (go y0 y1)) (hk : Keeps sz s) : Keeps sz
    (loadFlash tag role flashOk go s) := by
  unfold loadFlash
  repeat' first
    | with_reducible assumption | (with_reducible apply hgo) | (simp only [↓keeps_mk, kernel_eta, ← keeps_iff])
    | (with_reducible apply keeps_rejectCfg) | (with_reducible apply keeps_unstage)
    | (with_reducible apply keeps_stageCopy) | split | dsimp only | intro _

theorem keeps_cfgLoadOp {sz s : State} (tag : Nat) (flashOk : Bool) (o : Op)
    (hk : Keeps sz s) : Keeps sz (cfgLoadOp tag flashOk o s) := by
  unfold cfgLoadOp
  repeat' first
    | with_reducible assumption | (simp only [↓keeps_mk, kernel_eta, ← keeps_iff])
    | (with_reducible apply keeps_endOp) | (with_reducible apply keeps_recordStop)
    | (with_reducible apply keeps_stopOp) | (with_reducible apply keeps_refuseOp)
    | (with_reducible apply keeps_rejectCfg) | (with_reducible apply keeps_unstage)
    | (with_reducible apply keeps_takeArea) | (with_reducible apply keeps_copyMem)
    | (with_reducible apply keeps_stageCopy) | (with_reducible apply keeps_loadFlash)
    | (refine Keeps.use (by assumption) ?_) | (refine KeepsO.use (by assumption) ?_)
    | (with_reducible exact KeepsO.none) | (with_reducible refine KeepsO.some ?_)
    | (with_reducible refine KeepsO.map (fun _ => ?_)) | split | dsimp only | intro _

theorem keeps_beginApply {sz s : State} (tag from_ : Nat)
    (hk : Keeps sz s) : Keeps sz (beginApply tag from_ s) := by
  unfold beginApply
  repeat' first
    | with_reducible assumption | (simp only [↓keeps_mk, kernel_eta, ← keeps_iff])
    | (with_reducible apply keeps_updOp) | split | dsimp only | intro _

theorem keeps_storeConfig {sz s : State} (x : CfgStream) (golden : Bool)
    (hk : Keeps sz s) : Keeps sz (storeConfig x golden s) := by
  unfold storeConfig
  repeat' first
    | with_reducible assumption | (simp only [↓keeps_mk, kernel_eta, ← keeps_iff])
    | (with_reducible apply keeps_countErase) | split | dsimp only | intro _

theorem keeps_storeFirmware {sz s : State} (x : CfgStream)
    (hk : Keeps sz s) : Keeps sz (storeFirmware x s) := by
  unfold storeFirmware
  repeat' first
    | with_reducible assumption | (simp only [↓keeps_mk, kernel_eta, ← keeps_iff])
    | (with_reducible apply keeps_countErase) | split | dsimp only | intro _

theorem keeps_installStream {sz s : State} (x : CfgStream) (role from_ : Nat)
    (hk : Keeps sz s) : Keeps sz (installStream x role from_ s) := by
  unfold installStream
  repeat' first
    | with_reducible assumption | (simp only [↓keeps_mk, kernel_eta, ← keeps_iff])
    | (with_reducible apply keeps_record) | (with_reducible apply keeps_endStreams)
    | (with_reducible apply keeps_clearMidway) | (with_reducible apply keeps_startDesign)
    | (with_reducible refine Keeps.foldl (fun _ _ _ => ?_) _ ?_) | split | dsimp only | intro _

theorem keeps_countLoad {sz s : State} (area : Nat)
    (hk : Keeps sz s) : Keeps sz (countLoad area s) := by
  unfold countLoad
  repeat' first
    | with_reducible assumption | (simp only [↓keeps_mk, kernel_eta, ← keeps_iff]) | split | dsimp only | intro _

theorem keeps_cfgCommitOp {sz s : State} (tag : Nat) (flashOk : Bool) (o : Op)
    (hk : Keeps sz s) : Keeps sz (cfgCommitOp tag flashOk o s) := by
  unfold cfgCommitOp
  repeat' first
    | with_reducible assumption | (simp only [↓keeps_mk, kernel_eta, ← keeps_iff])
    | (with_reducible apply keeps_endOp) | (with_reducible apply keeps_rejectCfg)
    | (with_reducible apply keeps_unstage) | (with_reducible apply keeps_beginApply)
    | (with_reducible apply keeps_storeConfig) | (with_reducible apply keeps_storeFirmware) | split | dsimp only
    | intro _

theorem keeps_cfgRevertOp {sz s : State} (tag : Nat) (flashOk : Bool) (o : Op)
    (hk : Keeps sz s) : Keeps sz (cfgRevertOp tag flashOk o s) := by
  unfold cfgRevertOp
  repeat' first
    | with_reducible assumption | (simp only [↓keeps_mk, kernel_eta, ← keeps_iff])
    | (with_reducible apply keeps_refuseOp) | (with_reducible apply keeps_rejectCfg)
    | (with_reducible apply keeps_takeArea) | (with_reducible apply keeps_loadFlash)
    | (with_reducible apply keeps_beginApply) | (refine KeepsO.use (by assumption) ?_)
    | (with_reducible exact KeepsO.none) | (with_reducible refine KeepsO.some ?_)
    | (with_reducible refine KeepsO.map (fun _ => ?_)) | split | dsimp only | intro _

theorem keeps_rolesAfter {sz s : State} (o : Op) (from_ : Nat)
    (hk : Keeps sz s) : Keeps sz (rolesAfter o from_ s).2 := by
  unfold rolesAfter
  repeat' first
    | with_reducible assumption | (simp only [↓keeps_mk, kernel_eta, ← keeps_iff])
    | (with_reducible apply keeps_countErase) | (with_reducible apply keeps_countLoad) | split | dsimp only
    | intro _

theorem keeps_cfgApplyOp {sz s : State}
    (hk : Keeps sz s) : Keeps sz (cfgApplyOp s) := by
  unfold cfgApplyOp
  repeat' first
    | with_reducible assumption | (simp only [↓keeps_mk, kernel_eta, ← keeps_iff])
    | (with_reducible apply keeps_endOp) | (with_reducible apply keeps_unstage)
    | (with_reducible apply keeps_installStream) | (with_reducible apply keeps_rolesAfter)
    | (refine Keeps.use (by assumption) ?_) | split | dsimp only | intro _

theorem keeps_cfgDrainOp {sz s : State}
    (hk : Keeps sz s) : Keeps sz (cfgDrainOp s) := by
  unfold cfgDrainOp
  repeat' first
    | with_reducible assumption | (simp only [↓keeps_mk, kernel_eta, ← keeps_iff])
    | (with_reducible apply keeps_passTo) | (with_reducible apply keeps_endOp) | split | dsimp only | intro _

theorem keeps_bootRoles {sz x1 : State} (x0 : List Nat)
    (hk : Keeps sz x1) : Keeps sz (bootRoles x0 x1) := by
  induction x0 generalizing x1 with
  | nil =>
    unfold bootRoles
    repeat' first
      | with_reducible assumption | (simp only [↓keeps_mk, kernel_eta, ← keeps_iff])
      | (with_reducible apply keeps_record) | (with_reducible apply keeps_recordReject)
      | (with_reducible apply keeps_installStream) | (with_reducible apply keeps_countLoad) | split | dsimp only
      | intro _
  | cons _ _ ih =>
    unfold bootRoles
    repeat' first
      | with_reducible assumption | (with_reducible apply ih) | (simp only [↓keeps_mk, kernel_eta, ← keeps_iff])
      | (with_reducible apply keeps_record) | (with_reducible apply keeps_recordReject)
      | (with_reducible apply keeps_installStream) | (with_reducible apply keeps_countLoad) | split | dsimp only
      | intro _

theorem keeps_upset {sz s : State} (x : Nat × Nat × Nat × Nat)
    (hk : Keeps sz s) : Keeps sz (upset x s) := by
  unfold upset
  repeat' first
    | with_reducible assumption | (simp only [↓keeps_mk, kernel_eta, ← keeps_iff])
    | (with_reducible apply keeps_record) | split | dsimp only | intro _

theorem keeps_scrubOp {sz s : State} (found : List (Nat × Nat × Nat × Nat))
    (hk : Keeps sz s) : Keeps sz (scrubOp found s) := by
  unfold scrubOp
  repeat' first
    | with_reducible assumption | (simp only [↓keeps_mk, kernel_eta, ← keeps_iff])
    | (with_reducible apply keeps_upset) | (with_reducible refine Keeps.foldl (fun _ _ _ => ?_) _ ?_) | split
    | dsimp only | intro _

theorem keeps_secCtrlOp {sz s : State} (v : Nat)
    (hk : Keeps sz s) : Keeps sz (secCtrlOp v s) := by
  unfold secCtrlOp
  repeat' first
    | with_reducible assumption | (simp only [↓keeps_mk, kernel_eta, ← keeps_iff])
    | (with_reducible apply keeps_record) | split | dsimp only | intro _

theorem keeps_spdmOp {sz s : State} (code index : Nat) (body : List Byte)
    (hk : Keeps sz s) : Keeps sz (spdmOp code index body s) := by
  unfold spdmOp
  repeat' first
    | with_reducible assumption | (simp only [↓keeps_mk, kernel_eta, ← keeps_iff])
    | (with_reducible apply keeps_takeFree) | (with_reducible apply keeps_emit)
    | (refine Keeps.use (by assumption) ?_) | split | dsimp only | intro _

theorem keeps_ideOp {sz s : State} (func stream : Nat) (inSession good : Bool)
    (hk : Keeps sz s) : Keeps sz (ideOp func stream inSession good s) := by
  unfold ideOp
  repeat' first
    | with_reducible assumption | (simp only [↓keeps_mk, kernel_eta, ← keeps_iff])
    | (with_reducible apply keeps_record) | split | dsimp only | intro _

theorem keeps_putSlot {sz s : State} (act k : Nat) (x : KeySlot)
    (hk : Keeps sz s) : Keeps sz (putSlot act k x s) := by
  unfold putSlot
  repeat' first
    | with_reducible assumption | (simp only [↓keeps_mk, kernel_eta, ← keeps_iff])
    | (with_reducible apply keeps_record) | split | dsimp only | intro _

theorem keeps_writeSlotOp {sz s : State} (k : Nat) (kek : BitVec 256) (hash : BitVec 512) (inSession : Bool)
    (hk : Keeps sz s) : Keeps sz (writeSlotOp k kek hash inSession s) := by
  unfold writeSlotOp
  repeat' first
    | with_reducible assumption | (simp only [↓keeps_mk, kernel_eta, ← keeps_iff])
    | (with_reducible apply keeps_putSlot) | split | dsimp only | intro _

theorem keeps_revokeSlotOp {sz s : State} (k : Nat) (inSession : Bool)
    (hk : Keeps sz s) : Keeps sz (revokeSlotOp k inSession s) := by
  unfold revokeSlotOp
  repeat' first
    | with_reducible assumption | (simp only [↓keeps_mk, kernel_eta, ← keeps_iff])
    | (with_reducible apply keeps_putSlot) | split | dsimp only | intro _

theorem keeps_debugUnlockOp {sz s : State} (key sig : List Byte) (inSession : Bool)
    (hk : Keeps sz s) : Keeps sz (debugUnlockOp key sig inSession s) := by
  unfold debugUnlockOp
  repeat' first
    | with_reducible assumption | (simp only [↓keeps_mk, kernel_eta, ← keeps_iff])
    | (with_reducible apply keeps_takeFree) | (with_reducible apply keeps_record)
    | (refine Keeps.use (by assumption) ?_) | split | dsimp only | intro _

end Sys2Proof.Machine
end

