-- ==== Sys2Proof/Laws/KeepsStartup.lean ====
section
/-! SUPPORT. What the shared operations of Machine/Startup.lean keep. -/

set_option linter.unusedSimpArgs false
set_option maxRecDepth 4000

namespace Sys2Proof.Machine

theorem keeps_keptAlways {sz s : State}
    (hk : Keeps sz s) : Keeps sz (keptAlways s) := by
  unfold keptAlways
  repeat' first
    | with_reducible assumption | (with_reducible exact keeps_dmem _ (fun _ => rfl) hk)
    | (simp only [↓keeps_mk, kernel_eta, ← keeps_iff]) | split | dsimp only | intro _

theorem keeps_settleLedger {sz s : State}
    (hk : Keeps sz s) : Keeps sz (settleLedger s) := by
  unfold settleLedger
  repeat' first
    | with_reducible assumption | (simp only [↓keeps_mk, kernel_eta, ← keeps_iff])
    | (with_reducible apply keeps_iceCommitOp) | split | dsimp only | intro _

theorem keeps_newNonce {sz s : State}
    (hk : Keeps sz s) : Keeps sz (newNonce s) := by
  unfold newNonce
  repeat' first
    | with_reducible assumption | (simp only [↓keeps_mk, kernel_eta, ← keeps_iff])
    | (with_reducible apply keeps_takeFree) | (refine Keeps.use (by assumption) ?_) | split | dsimp only | intro _

theorem keeps_fromStraps {sz s : State} (hk : Keeps sz s) :
    Keeps sz (fromStraps s) := hk

theorem keeps_deviceReset {sz s0 : State}
    (hk : Keeps sz s0) : Keeps sz (deviceReset s0) := by
  unfold deviceReset
  repeat' first
    | with_reducible assumption | (simp only [↓keeps_mk, kernel_eta, ← keeps_iff])
    | (with_reducible apply keeps_unfreeze) | (with_reducible apply keeps_iceCommitOp)
    | (with_reducible apply keeps_keptAlways) | (with_reducible apply keeps_newNonce)
    | (with_reducible apply keeps_fromStraps) | split | dsimp only | intro _

theorem keeps_startFirmware {sz s : State} (pairs : List Nat)
    (hk : Keeps sz s) : Keeps sz (startFirmware pairs s) := by
  unfold startFirmware
  repeat' first
    | with_reducible assumption | (simp only [↓keeps_mk, kernel_eta, ← keeps_iff])
    | (with_reducible apply keeps_record) | split | dsimp only | intro _

theorem keeps_standbyStep {sz s : State}
    (hk : Keeps sz s) : Keeps sz (standbyStep s) := by
  unfold standbyStep
  repeat' first
    | with_reducible assumption | (simp only [↓keeps_mk, kernel_eta, ← keeps_iff])
    | (with_reducible apply keeps_record) | split | dsimp only | intro _

theorem keeps_standbyPhase {sz s : State} (role ident : Nat) (pairs : List Nat)
    (hk : Keeps sz s) : Keeps sz (standbyPhase role ident pairs s) := by
  unfold standbyPhase
  repeat' first
    | with_reducible assumption | (simp only [↓keeps_mk, kernel_eta, ← keeps_iff])
    | (with_reducible apply keeps_keptAlways) | (with_reducible apply keeps_newNonce)
    | (with_reducible apply keeps_fromStraps) | (with_reducible apply keeps_startFirmware)
    | (with_reducible apply keeps_standbyStep) | split | dsimp only | intro _

theorem keeps_failStartup {sz s : State} (step code : Nat)
    (hk : Keeps sz s) : Keeps sz (failStartup step code s) := by
  unfold failStartup
  repeat' first
    | with_reducible assumption | (simp only [↓keeps_mk, kernel_eta, ← keeps_iff])
    | (with_reducible apply keeps_record) | (with_reducible apply keeps_removeVcore) | split | dsimp only
    | intro _

theorem keeps_railsStep {sz s : State} (hk : Keeps sz s) :
    Keeps sz (railsStep s) := hk

theorem keeps_checkPosition {sz s : State} (faults : List (Nat × Nat × Nat)) (p : Nat)
    (hk : Keeps sz s) : Keeps sz (checkPosition faults p s) := by
  unfold checkPosition
  repeat' first
    | with_reducible assumption | (simp only [↓keeps_mk, kernel_eta, ← keeps_iff])
    | (with_reducible apply keeps_updTile) | (with_reducible apply keeps_countRetired)
    | (with_reducible apply keeps_recordRetired) | (with_reducible apply keeps_repairAll)
    | (refine Keeps.use (by assumption) ?_) | split | dsimp only | intro _

theorem keeps_tilesStep {sz s : State} (faults : List (Nat × Nat × Nat))
    (hk : Keeps sz s) : Keeps sz (tilesStep faults s) := by
  unfold tilesStep
  repeat' first
    | with_reducible assumption | (simp only [↓keeps_mk, kernel_eta, ← keeps_iff])
    | (with_reducible apply keeps_updTile) | (with_reducible apply keeps_checkPosition)
    | (with_reducible refine Keeps.foldl (fun _ _ _ => ?_) _ ?_) | split | dsimp only | intro _

theorem keeps_trainStack {sz s : State} (found : BootFindings) (k : Nat)
    (hk : Keeps sz s) : Keeps sz (trainStack found k s) := by
  unfold trainStack
  repeat' first
    | with_reducible assumption | (simp only [↓keeps_mk, kernel_eta, ← keeps_iff])
    | (with_reducible apply keeps_setStack) | (with_reducible apply keeps_takeFree)
    | (with_reducible apply keeps_record) | (refine Keeps.use (by assumption) ?_) | split | dsimp only | intro _

theorem keeps_stacksStep {sz s : State} (found : BootFindings)
    (hk : Keeps sz s) : Keeps sz (stacksStep found s) := by
  unfold stacksStep
  repeat' first
    | with_reducible assumption | (simp only [↓keeps_mk, kernel_eta, ← keeps_iff])
    | (with_reducible apply keeps_trainStack) | (with_reducible refine Keeps.foldl (fun _ _ _ => ?_) _ ?_) | split
    | dsimp only | intro _

theorem keeps_floeStep {sz s : State} (found : BootFindings)
    (hk : Keeps sz s) : Keeps sz (floeStep found s) := by
  unfold floeStep
  repeat' first
    | with_reducible assumption | (simp only [↓keeps_mk, kernel_eta, ← keeps_iff])
    | (with_reducible apply keeps_setFloe) | (with_reducible apply keeps_record)
    | (with_reducible refine Keeps.foldl (fun _ _ _ => ?_) _ ?_) | split | dsimp only | intro _

theorem keeps_cxlStep {sz s : State} (found : BootFindings)
    (hk : Keeps sz s) : Keeps sz (cxlStep found s) := by
  unfold cxlStep
  repeat' first
    | with_reducible assumption | (simp only [↓keeps_mk, kernel_eta, ← keeps_iff])
    | (with_reducible apply keeps_setCxl) | (with_reducible apply keeps_record)
    | (with_reducible refine Keeps.foldl (fun _ _ _ => ?_) _ ?_) | split | dsimp only | intro _

theorem keeps_zeroPage {sz s : State} (va : Nat)
    (hk : Keeps sz s) : Keeps sz (zeroPage s va) := by
  unfold zeroPage
  repeat' first
    | with_reducible assumption | (simp only [↓keeps_mk, kernel_eta, ← keeps_iff])
    | (with_reducible apply keeps_zeroPhys) | (with_reducible apply keeps_writeRM)
    | (refine Keeps.use (by assumption) ?_) | split | dsimp only | intro _

theorem keeps_prepareDefault {sz s : State}
    (hk : Keeps sz s) : Keeps sz (prepareDefault s) := by
  unfold prepareDefault
  repeat' first
    | with_reducible assumption | (simp only [↓keeps_mk, kernel_eta, ← keeps_iff])
    | (with_reducible apply keeps_setGroup) | (with_reducible apply keeps_setQueue)
    | (with_reducible apply keeps_backRegion) | (with_reducible apply keeps_writeRM)
    | (with_reducible apply keeps_zeroPage) | (refine Keeps.use (by assumption) ?_)
    | (refine KeepsO.use (by assumption) ?_) | (with_reducible refine Keeps.foldl (fun _ _ _ => ?_) _ ?_)
    | (with_reducible exact KeepsO.none) | (with_reducible refine KeepsO.some ?_)
    | (with_reducible refine KeepsO.map (fun _ => ?_))
    | (with_reducible refine KeepsO.foldl (fun _ _ _ => ?_) _ ?_) | split | dsimp only | intro _

theorem keeps_spaceStep {sz s : State}
    (hk : Keeps sz s) : Keeps sz (spaceStep s) := by
  unfold spaceStep
  repeat' first
    | with_reducible assumption | (simp only [↓keeps_mk, kernel_eta, ← keeps_iff])
    | (with_reducible apply keeps_setWindow) | (with_reducible apply keeps_prepareDefault) | split | dsimp only
    | intro _

theorem keeps_cascadeStep {sz s : State} (found : BootFindings)
    (hk : Keeps sz s) : Keeps sz (cascadeStep found s) := by
  unfold cascadeStep
  repeat' first
    | with_reducible assumption | (simp only [↓keeps_mk, kernel_eta, ← keeps_iff])
    | (with_reducible apply keeps_linkTrainedOp) | (with_reducible apply keeps_formGroup)
    | (with_reducible refine Keeps.foldl (fun _ _ _ => ?_) _ ?_) | split | dsimp only | intro _

theorem keeps_readyStep {sz s : State} (hk : Keeps sz s) :
    Keeps sz (readyStep s) := hk

theorem keeps_mainPhase {sz s : State} (found : BootFindings)
    (hk : Keeps sz s) : Keeps sz (mainPhase found s) := by
  unfold mainPhase
  repeat' first
    | with_reducible assumption | (simp only [↓keeps_mk, kernel_eta, ← keeps_iff])
    | (with_reducible apply keeps_bootRoles) | (with_reducible apply keeps_failStartup)
    | (with_reducible apply keeps_railsStep) | (with_reducible apply keeps_tilesStep)
    | (with_reducible apply keeps_stacksStep) | (with_reducible apply keeps_floeStep)
    | (with_reducible apply keeps_cxlStep) | (with_reducible apply keeps_spaceStep)
    | (with_reducible apply keeps_cascadeStep) | (with_reducible apply keeps_readyStep) | split | dsimp only
    | intro _

theorem keeps_mainIfDue {sz s : State} (found : BootFindings)
    (hk : Keeps sz s) : Keeps sz (mainIfDue found s) := by
  unfold mainIfDue
  repeat' first
    | with_reducible assumption | (simp only [↓keeps_mk, kernel_eta, ← keeps_iff])
    | (with_reducible apply keeps_mainPhase) | split | dsimp only | intro _

theorem keeps_endHints {sz s : State} (func : Nat)
    (hk : Keeps sz s) : Keeps sz (endHints func s) := by
  unfold endHints
  repeat' first
    | with_reducible assumption | (simp only [↓keeps_mk, kernel_eta, ← keeps_iff])
    | (with_reducible refine Keeps.foldl (fun _ _ _ => ?_) _ ?_) | split | dsimp only | intro _

theorem keeps_stopGroup {sz s : State} (g : Nat)
    (hk : Keeps sz s) : Keeps sz (stopGroup g s) := by
  unfold stopGroup
  repeat' first
    | with_reducible assumption | (simp only [↓keeps_mk, kernel_eta, ← keeps_iff])
    | (with_reducible apply keeps_setGroup) | split | dsimp only | intro _

theorem keeps_functionReset {sz s : State} (func : Nat)
    (hk : Keeps sz s) : Keeps sz (functionReset func s) := by
  unfold functionReset
  repeat' first
    | with_reducible assumption | (simp only [↓keeps_mk, kernel_eta, ← keeps_iff])
    | (with_reducible apply keeps_setFunc) | (with_reducible apply keeps_letIn)
    | (with_reducible apply keeps_unbindFunc) | (with_reducible apply keeps_dropOp)
    | (with_reducible apply keeps_prepareDefault) | (with_reducible apply keeps_endHints)
    | (with_reducible apply keeps_stopGroup) | (with_reducible refine Keeps.foldl (fun _ _ _ => ?_) _ ?_) | split
    | dsimp only | intro _

theorem keeps_hostReset {sz s : State}
    (hk : Keeps sz s) : Keeps sz (hostReset s) := by
  unfold hostReset
  repeat' first
    | with_reducible assumption | (simp only [↓keeps_mk, kernel_eta, ← keeps_iff])
    | (with_reducible apply keeps_functionReset) | (with_reducible refine Keeps.foldl (fun _ _ _ => ?_) _ ?_)
    | split | dsimp only | intro _

theorem keeps_resetRequest {sz s : State} (cause : Nat) (found : BootFindings)
    (hk : Keeps sz s) : Keeps sz (resetRequest cause found s) := by
  unfold resetRequest
  repeat' first
    | with_reducible assumption | (simp only [↓keeps_mk, kernel_eta, ← keeps_iff])
    | (with_reducible apply keeps_deviceReset) | (with_reducible apply keeps_startFirmware)
    | (with_reducible apply keeps_mainIfDue) | (with_reducible apply keeps_hostReset) | split | dsimp only
    | intro _

theorem keeps_supplyLost {sz s : State}
    (hk : Keeps sz s) : Keeps sz (supplyLost s) := by
  unfold supplyLost
  repeat' first
    | with_reducible assumption | (simp only [↓keeps_mk, kernel_eta, ← keeps_iff])
    | (with_reducible apply keeps_deviceReset) | (with_reducible apply keeps_startFirmware) | split | dsimp only
    | intro _

end Sys2Proof.Machine
end

