-- ==== Sys2Proof/Laws/KeepsRegisters.lean ====
section
/-! SUPPORT. What the shared operations of Machine/Registers.lean keep. -/

set_option linter.unusedSimpArgs false
set_option maxRecDepth 4000

namespace Sys2Proof.Machine

theorem keeps_openCounter {sz s : State} (key unit w : Nat) (sat now : Bool)
    (hk : Keeps sz s) : Keeps sz (openCounter key unit w sat now s).2 := by
  unfold openCounter
  repeat' first
    | with_reducible assumption | (simp only [↓keeps_mk, kernel_eta, ← keeps_iff])
    | (with_reducible apply keeps_takeFree) | (refine Keeps.use (by assumption) ?_) | split | dsimp only | intro _

theorem keeps_tileRead {sz s : State} (off : Nat)
    (hk : Keeps sz s) : Keeps sz (tileRead off s).2 := by
  unfold tileRead
  repeat' first
    | with_reducible assumption | (simp only [↓keeps_mk, kernel_eta, ← keeps_iff])
    | (with_reducible apply keeps_openCounter) | (refine Keeps.use (by assumption) ?_) | split | dsimp only
    | intro _

theorem keeps_floRead {sz s : State} (off : Nat)
    (hk : Keeps sz s) : Keeps sz (floRead off s).2 := by
  unfold floRead
  repeat' first
    | with_reducible assumption | (simp only [↓keeps_mk, kernel_eta, ← keeps_iff])
    | (with_reducible apply keeps_openCounter) | (refine Keeps.use (by assumption) ?_) | split | dsimp only
    | intro _

theorem keeps_nocRead {sz s : State} (off : Nat)
    (hk : Keeps sz s) : Keeps sz (nocRead off s).2 := by
  unfold nocRead
  repeat' first
    | with_reducible assumption | (simp only [↓keeps_mk, kernel_eta, ← keeps_iff])
    | (with_reducible apply keeps_openCounter) | (refine Keeps.use (by assumption) ?_) | split | dsimp only
    | intro _

theorem keeps_slotRead {sz s : State} (off : Nat)
    (hk : Keeps sz s) : Keeps sz (slotRead off s).2 := by
  unfold slotRead
  repeat' first
    | with_reducible assumption | (simp only [↓keeps_mk, kernel_eta, ← keeps_iff])
    | (with_reducible apply keeps_tileRead) | (with_reducible apply keeps_floRead)
    | (with_reducible apply keeps_nocRead) | (refine Keeps.use (by assumption) ?_)
    | (with_reducible refine Keeps.ite_snd ?_ ?_) | split | dsimp only | intro _

theorem keeps_slotClear {sz s : State} (off mask : Nat)
    (hk : Keeps sz s) : Keeps sz (slotClear off mask s) := by
  unfold slotClear
  repeat' first
    | with_reducible assumption | (simp only [↓keeps_mk, kernel_eta, ← keeps_iff])
    | (with_reducible apply keeps_setPort) | (with_reducible apply keeps_setPacer) | split | dsimp only | intro _

theorem keeps_bar0Read {sz s : State} (f off size : Nat)
    (hk : Keeps sz s) : Keeps sz (bar0Read f off size s).2 := by
  unfold bar0Read
  repeat' first
    | with_reducible assumption | (simp only [↓keeps_mk, kernel_eta, ← keeps_iff])
    | (with_reducible apply keeps_slotRead) | (with_reducible apply keeps_slotClear)
    | (refine Keeps.use (by assumption) ?_) | split | dsimp only | intro _

theorem keeps_qgpWrite {sz s : State} (g rel mask v : Nat)
    (hk : Keeps sz s) : Keeps sz (qgpWrite g rel mask v s) := by
  unfold qgpWrite
  repeat' first
    | with_reducible assumption | (simp only [↓keeps_mk, kernel_eta, ← keeps_iff])
    | (with_reducible apply keeps_setGroup) | (with_reducible apply keeps_qgpCommitOp)
    | (with_reducible apply keeps_abortQueue) | (with_reducible refine Keeps.foldl (fun _ _ _ => ?_) _ ?_) | split
    | dsimp only | intro _

theorem keeps_mmuWrite {sz s : State} (g rel mask v : Nat)
    (hk : Keeps sz s) : Keeps sz (mmuWrite g rel mask v s) := by
  unfold mmuWrite
  repeat' first
    | with_reducible assumption | (simp only [↓keeps_mk, kernel_eta, ← keeps_iff])
    | (with_reducible apply keeps_setGroup) | (with_reducible apply keeps_mmuCommand) | split | dsimp only
    | intro _

theorem keeps_msixWrite {sz s : State} (f rel mask v : Nat)
    (hk : Keeps sz s) : Keeps sz (msixWrite f rel mask v s) := by
  unfold msixWrite
  repeat' first
    | with_reducible assumption | (simp only [↓keeps_mk, kernel_eta, ← keeps_iff])
    | (with_reducible apply keeps_setFunc) | (with_reducible apply keeps_sendPending) | split | dsimp only
    | intro _

theorem keeps_hifWrite {sz s : State} (off mask v : Nat)
    (hk : Keeps sz s) : Keeps sz (hifWrite off mask v s) := by
  unfold hifWrite
  repeat' first
    | with_reducible assumption | (simp only [↓keeps_mk, kernel_eta, ← keeps_iff])
    | (with_reducible apply keeps_qgpWrite) | (with_reducible apply keeps_mmuWrite)
    | (with_reducible apply keeps_msixWrite) | split | dsimp only | intro _

theorem keeps_memWrite {sz s : State} (off mask v : Nat)
    (hk : Keeps sz s) : Keeps sz (memWrite off mask v s) := by
  unfold memWrite
  repeat' first
    | with_reducible assumption | (simp only [↓keeps_mk, kernel_eta, ← keeps_iff])
    | (with_reducible apply keeps_setStack) | (with_reducible apply keeps_setWindow)
    | (with_reducible apply keeps_iwinCommitOp) | split | dsimp only | intro _

theorem keeps_watcherWrite {sz s : State} (w mask v : Nat)
    (hk : Keeps sz s) : Keeps sz (watcherWrite w mask v s) := by
  unfold watcherWrite
  repeat' first
    | with_reducible assumption | (simp only [↓keeps_mk, kernel_eta, ← keeps_iff])
    | (with_reducible apply keeps_setWatcher) | split | dsimp only | intro _

theorem keeps_trnWrite {sz s : State} (off mask v : Nat)
    (hk : Keeps sz s) : Keeps sz (trnWrite off mask v s) := by
  unfold trnWrite
  repeat' first
    | with_reducible assumption | (simp only [↓keeps_mk, kernel_eta, ← keeps_iff])
    | (with_reducible apply keeps_setTrn) | (with_reducible apply keeps_trnCfgOp)
    | (with_reducible apply keeps_watcherWrite) | split | dsimp only | intro _

theorem keeps_lanWrite {sz s : State} (off mask v : Nat) (found : BootFindings) (eye : Nat × Nat)
    (hk : Keeps sz s) : Keeps sz (lanWrite off mask v found eye s) := by
  unfold lanWrite
  repeat' first
    | with_reducible assumption | (simp only [↓keeps_mk, kernel_eta, ← keeps_iff])
    | (with_reducible apply keeps_eyeScanOp) | (with_reducible apply keeps_cascCfgOp) | split | dsimp only
    | intro _

theorem keeps_secWrite {sz s : State} (off mask v : Nat)
    (hk : Keeps sz s) : Keeps sz (secWrite off mask v s) := by
  unfold secWrite
  repeat' first
    | with_reducible assumption | (simp only [↓keeps_mk, kernel_eta, ← keeps_iff])
    | (with_reducible apply keeps_morCtrlWrite) | (with_reducible apply keeps_morCopyCtrlWrite)
    | (with_reducible apply keeps_moraineClearOp) | (with_reducible apply keeps_iceCalSetOp)
    | (with_reducible apply keeps_secCtrlOp) | split | dsimp only | intro _

theorem keeps_plcWrite {sz s : State} (off mask v : Nat)
    (hk : Keeps sz s) : Keeps sz (plcWrite off mask v s) := by
  unfold plcWrite
  repeat' first
    | with_reducible assumption | (simp only [↓keeps_mk, kernel_eta, ← keeps_iff])
    | (with_reducible apply keeps_contextCopyOp) | (with_reducible apply keeps_migCtrlOp)
    | (with_reducible apply keeps_viewOp) | (with_reducible apply keeps_setCountOp)
    | (with_reducible apply keeps_setGenOp) | (with_reducible apply keeps_completeGenOp) | split | dsimp only
    | intro _

theorem keeps_slotWrite {sz s : State} (off mask v : Nat) (found : BootFindings) (eye : Nat × Nat)
    (hk : Keeps sz s) : Keeps sz (slotWrite off mask v found eye s) := by
  unfold slotWrite
  repeat' first
    | with_reducible assumption | (simp only [↓keeps_mk, kernel_eta, ← keeps_iff])
    | (with_reducible apply keeps_applyCap) | (with_reducible apply keeps_showStage)
    | (with_reducible apply keeps_setUserLane) | (with_reducible apply keeps_resetRequest)
    | (with_reducible apply keeps_hifWrite) | (with_reducible apply keeps_memWrite)
    | (with_reducible apply keeps_trnWrite) | (with_reducible apply keeps_lanWrite)
    | (with_reducible apply keeps_secWrite) | (with_reducible apply keeps_plcWrite)
    | (with_reducible refine Keeps.ite ?_ ?_) | split | dsimp only | intro _

theorem keeps_bar0Write {sz s : State} (f off size v : Nat) (found : BootFindings) (eye : Nat × Nat)
    (hk : Keeps sz s) : Keeps sz (bar0Write f off size v found eye s) := by
  unfold bar0Write
  repeat' first
    | with_reducible assumption | (simp only [↓keeps_mk, kernel_eta, ← keeps_iff])
    | (with_reducible apply keeps_msixWrite) | (with_reducible apply keeps_slotWrite) | split | dsimp only
    | intro _

theorem keeps_smbusReadOp {sz s : State} (off size : Nat) (pecOk : Bool)
    (hk : Keeps sz s) : Keeps sz (smbusReadOp off size pecOk s) := by
  unfold smbusReadOp
  repeat' first
    | with_reducible assumption | (simp only [↓keeps_mk, kernel_eta, ← keeps_iff])
    | (with_reducible apply keeps_emit) | (with_reducible apply keeps_bar0Read)
    | (refine Keeps.use (by assumption) ?_) | split | dsimp only | intro _

end Sys2Proof.Machine
end

