-- ==== Sys2Proof/Laws/Tables.lean ====
section
/-! SUPPORT. A unit that has been written reads back, and every other unit of its kind is as before. -/

namespace Sys2Proof.Machine

@[simp] theorem getGroup_setGroup (s : State) (k : Nat) (x : Group) : getGroup (setGroup s k x) k = x := by
  simp [getGroup, setGroup]
theorem getGroup_setGroup_ne (s : State) (k j : Nat) (x : Group) (h : j ≠ k) : getGroup (setGroup s k x) j = getGroup s j := by
  simp [getGroup, setGroup, tget_tset_ne h]
@[simp] theorem getQueue_setQueue (s : State) (k : Nat) (x : Queue) : getQueue (setQueue s k x) k = x := by
  simp [getQueue, setQueue]
theorem getQueue_setQueue_ne (s : State) (k j : Nat) (x : Queue) (h : j ≠ k) : getQueue (setQueue s k x) j = getQueue s j := by
  simp [getQueue, setQueue, tget_tset_ne h]
@[simp] theorem getFunc_setFunc (s : State) (k : Nat) (x : PciFunc) : getFunc (setFunc s k x) k = x := by
  simp [getFunc, setFunc]
theorem getFunc_setFunc_ne (s : State) (k j : Nat) (x : PciFunc) (h : j ≠ k) : getFunc (setFunc s k x) j = getFunc s j := by
  simp [getFunc, setFunc, tget_tset_ne h]
@[simp] theorem getStack_setStack (s : State) (k : Nat) (x : Stack) : getStack (setStack s k x) k = x := by
  simp [getStack, setStack]
theorem getStack_setStack_ne (s : State) (k j : Nat) (x : Stack) (h : j ≠ k) : getStack (setStack s k x) j = getStack s j := by
  simp [getStack, setStack, tget_tset_ne h]
@[simp] theorem getWindow_setWindow (s : State) (k : Nat) (x : Window) : getWindow (setWindow s k x) k = x := by
  simp [getWindow, setWindow]
theorem getWindow_setWindow_ne (s : State) (k j : Nat) (x : Window) (h : j ≠ k) : getWindow (setWindow s k x) j = getWindow s j := by
  simp [getWindow, setWindow, tget_tset_ne h]
@[simp] theorem getCxl_setCxl (s : State) (k : Nat) (x : CxlPort) : getCxl (setCxl s k x) k = x := by
  simp [getCxl, setCxl]
theorem getCxl_setCxl_ne (s : State) (k j : Nat) (x : CxlPort) (h : j ≠ k) : getCxl (setCxl s k x) j = getCxl s j := by
  simp [getCxl, setCxl, tget_tset_ne h]
@[simp] theorem getTile_setTile (s : State) (k : Nat) (x : Tile) : getTile (setTile s k x) k = x := by
  simp [getTile, setTile]
theorem getTile_setTile_ne (s : State) (k j : Nat) (x : Tile) (h : j ≠ k) : getTile (setTile s k x) j = getTile s j := by
  simp [getTile, setTile, tget_tset_ne h]
@[simp] theorem getFloe_setFloe (s : State) (k : Nat) (x : FloeUnit) : getFloe (setFloe s k x) k = x := by
  simp [getFloe, setFloe]
theorem getFloe_setFloe_ne (s : State) (k j : Nat) (x : FloeUnit) (h : j ≠ k) : getFloe (setFloe s k x) j = getFloe s j := by
  simp [getFloe, setFloe, tget_tset_ne h]
@[simp] theorem getTrn_setTrn (s : State) (k : Nat) (x : Turnstile) : getTrn (setTrn s k x) k = x := by
  simp [getTrn, setTrn]
theorem getTrn_setTrn_ne (s : State) (k j : Nat) (x : Turnstile) (h : j ≠ k) : getTrn (setTrn s k x) j = getTrn s j := by
  simp [getTrn, setTrn, tget_tset_ne h]
@[simp] theorem getWatcher_setWatcher (s : State) (k : Nat) (x : Watcher) : getWatcher (setWatcher s k x) k = x := by
  simp [getWatcher, setWatcher]
theorem getWatcher_setWatcher_ne (s : State) (k j : Nat) (x : Watcher) (h : j ≠ k) : getWatcher (setWatcher s k x) j = getWatcher s j := by
  simp [getWatcher, setWatcher, tget_tset_ne h]
@[simp] theorem getLink_setLink (s : State) (k : Nat) (x : CascLink) : getLink (setLink s k x) k = x := by
  simp [getLink, setLink]
theorem getLink_setLink_ne (s : State) (k j : Nat) (x : CascLink) (h : j ≠ k) : getLink (setLink s k x) j = getLink s j := by
  simp [getLink, setLink, tget_tset_ne h]
@[simp] theorem getLane_setLane (s : State) (k : Nat) (x : CascLane) : getLane (setLane s k x) k = x := by
  simp [getLane, setLane]
theorem getLane_setLane_ne (s : State) (k j : Nat) (x : CascLane) (h : j ≠ k) : getLane (setLane s k x) j = getLane s j := by
  simp [getLane, setLane, tget_tset_ne h]
@[simp] theorem getPort_setPort (s : State) (k : Nat) (x : MidPort) : getPort (setPort s k x) k = x := by
  simp [getPort, setPort]
theorem getPort_setPort_ne (s : State) (k j : Nat) (x : MidPort) (h : j ≠ k) : getPort (setPort s k x) j = getPort s j := by
  simp [getPort, setPort, tget_tset_ne h]
@[simp] theorem getUserLane_setUserLane (s : State) (k : Nat) (x : UserLane) : getUserLane (setUserLane s k x) k = x := by
  simp [getUserLane, setUserLane]
theorem getUserLane_setUserLane_ne (s : State) (k j : Nat) (x : UserLane) (h : j ≠ k) : getUserLane (setUserLane s k x) j = getUserLane s j := by
  simp [getUserLane, setUserLane, tget_tset_ne h]
@[simp] theorem getPin_setPin (s : State) (k : Nat) (x : Pin) : getPin (setPin s k x) k = x := by
  simp [getPin, setPin]
theorem getPin_setPin_ne (s : State) (k j : Nat) (x : Pin) (h : j ≠ k) : getPin (setPin s k x) j = getPin s j := by
  simp [getPin, setPin, tget_tset_ne h]
@[simp] theorem getPacer_setPacer (s : State) (k : Nat) (x : Pacer) : getPacer (setPacer s k x) k = x := by
  simp [getPacer, setPacer]
theorem getPacer_setPacer_ne (s : State) (k j : Nat) (x : Pacer) (h : j ≠ k) : getPacer (setPacer s k x) j = getPacer s j := by
  simp [getPacer, setPacer, tget_tset_ne h]

@[simp] theorem getPart_setPart (t : Tile) (q : Nat) (x : Partn) : getPart (setPart t q x) q = x := by simp [getPart, setPart]
theorem getPart_setPart_ne (t : Tile) (q j : Nat) (x : Partn) (h : j ≠ q) : getPart (setPart t q x) j = getPart t j := by
  simp [getPart, setPart, tget_tset_ne h]

end Sys2Proof.Machine
end

