-- ==== Sys2Proof/WellFormed.lean ====
section
/-! DEFINITION. When a command is well formed: every operand lies in the range its field or unit number has.
-/

namespace Sys2Proof

/-- The operands of a command lie in their ranges (unit numbers as R3, R262, R291, R348 and the field widths give
them). -/
def Instr.wellFormed : Instr → Bool
  | .standbyPowerOn role ident _ => role < 4 && ident < 16
  | .p12vauxLoss | .p48vInRange _ | .p48vBelow38v | .p48vAbove62v | .perstAssert _ | .perstDeassert | .hotReset
    | .lockStepMismatch _ | .rstCtrlDevice _ _ | .pwrCapWrite _ | .governorSample _ _ _ | .governorWindowEnd
    | .fetchDescriptor | .completionWrite _ | .nop _ | .copy _ | .convert _ | .gather _ | .scatter _ _ | .fill _
    | .elemwise _ | .reduce _ _ | .scan _ _ | .matmul _ _ _ _ | .conv _ _ _ _ | .attend _ _ | .kvAppend _
    | .kvTruncate _ | .optstep _ | .tileprog _ _ | .streamIn _ | .streamOut _ | .bindMem _ | .unbind _ | .laneUp _
    | .laneDown _ | .fabricTimeout _ | .allReduce _ _ | .reduceScatter _ _ | .allGather _ | .broadcast _
    | .doorbellOp _ | .collectiveTimeout _ | .trnArrive _ | .trnWait _ | .trnArriveWait _ | .signal _ | .trnTimeout _ _
    | .affinity _ | .keepNear _ | .pinData _ | .pinTiles _ | .priorityMode _ | .unpinData _ | .unpinTiles _
    | .cfgLoad _ _ | .cfgCommit _ _ | .cfgApply | .cfgDrainTimeout | .cfgRevert _ _ | .advanceSvn _ | .scrubPass _
    | .debugUnlock _ _ _ | .placementSnapshot _ | .contextCopy _ | .migCtrlWrite _ | .migrationEpoch
    | .speedSample _ _ | .sweepTimeout _ | .faultResolved _ | .pageLockGrant _ | .hostLinkLoss | .cascadeForm _ _ _ _
    | .followerHostTimeout | .eyeScan _ _ _ | .flashLogWrite | .freeze _ | .moraineCopy _ | .moraineClear _
    | .iceCommit | .iceCalSet _ | .moraineInterruptTimer => true
  | .functionLevelReset func | .priResponse func _ _ _ _ _ | .priTimeout func _ _ | .atsInvalidate func _ _ _ _
    | .translationCompletion func _ _ _ _ _ => func < 64
  | .read32 offset _ | .read64 offset _ => offset < 2 ^ 32
  | .setCap watts _ => watts < 2 ^ 16
  | .smbusReset key _ _ => key < 2 ^ 16
  | .thermalComparatorTrip _ temp => decide (120 ≤ temp)
  | .registerWrite func offset _ _ _ _ | .registerReadClear func offset _ => func < 64 && offset < 2 ^ 26
  | .bar2Read offset len => len > 0 && offset + len <= 2 ^ 36
  | .bar2Write offset data => data.length > 0 && offset + data.length <= 2 ^ 36
  | .submissionDoorbell func queue _ value => func < 64 && queue < 262144 && !value.msb
  | .completionHeadDoorbell func queue _ value => func < 64 && queue < 262144 && value.msb
  | .interruptTimer queue => queue < 262144
  | .vectorUnmask func vector => func < 64 && vector < 2048
  | .qgpCommit group | .qgpApply group | .qgpAbort group _ | .mmuCmdDone group | .shardArrive group _ => group < 4096
  | .reserve group size _ _ | .release group size | .unmap group size | .protect group size _ _ => group < 4096 && size < 4
  | .iwinCommit window | .iwinApply window => window < 16
  | .laneLock lane | .laneRxWord lane _ _ | .laneTxWord lane _ => lane < 16
  | .put _ _ status | .get _ _ status => status < 256
  | .fenceRelease dev queue | .cascDoorbell dev _ _ queue _ => dev < 16 && queue < 262144
  | .groupGenBroadcast trn gen => 3840 <= trn && trn < 4096 && gen < 65536
  | .trnCfgWrite trn _ => trn < 4096
  | .setCount trn value | .setGen trn value | .completeGen trn value => trn < 4096 && value < 65536
  | .deadlockFire watcher => watcher < 4
  | .spdmRequest code index _ => code < 256 && index < 256
  | .ideKmKeyProgram func stream _ _ => func < 64 && stream < 256
  | .writeKeySlot slot _ _ _ | .revokeSlot slot _ => slot < 4
  | .migrationDone asid _ _ => asid < 4096
  | .acc tile _ _ _ | .accDrain tile _ _ _ | .drain tile _ _ | .setMode tile _ _ | .check tile _ _ _ | .resume _ tile _
    | .imageLoad tile _ _ | .epilogueRunStart tile | .swaitResume tile | .vxNop tile | .halt tile | .jmp tile
    | .bnz tile | .loop tile | .swait tile | .srel tile | .vemit tile | .smovi tile | .smovh tile | .sadd tile
    | .radv tile | .vld tile | .vst tile | .vmovs tile | .vperm tile | .vadd tile | .vsub tile | .vmul tile
    | .vfma tile | .vmax tile | .vmin tile | .vcmp tile | .vsel tile | .vaddh tile | .vmulh tile | .vfmah tile
    | .vcvt tile | .vred tile | .vexp2 tile | .vlog2 tile | .vrcp tile | .vrsqrt tile | .qadd tile | .qsub tile
    | .qmul tile | .qmac tile | .qmsu tile | .aclr tile | .aget tile | .vtap tile => tile < 288
  | .drainEnd tile part => tile < 288 && part < 4
  | .multicastPrune _ member => member < 256
  | .readResponse tile slot _ _ => tile < 288 && slot < 16
  | .preempt tile part _ prio => tile < 320 && part < 4 && prio < 8
  | .floeParityError stack engine => stack < 32 && engine < 4
  | .memRequest _ addr _ _ _ _ _ => addr < 2 ^ 64
  | .issueSlot stack _ _ _ | .tempRead stack _ | .patrol stack _ _ => stack < 32
  | .refresh stack pc _ | .retrain stack pc _ | .rowIdleClose stack pc _ | .rowRepair stack pc _ _ _ _ => stack < 32 && pc < 32
  | .cxlLinkDown port | .cxlRetrainTimeout port => port < 4
  | .hostLaneFail width => width == 4 || width == 2
  | .flitCrcFail source target net inject _ => source < 288 && target < 288 && net < 4 && inject < 288
  | .cascFlitReceive link flit bad fixed => link < 8 && flit.length == 256 && bad.all (fun i => i < 8) && fixed.all (fun x => x.1 < 8)
  | .cascWrite dev _ _ _ group _ _ _ => dev < 16 && group < 4096
  | .cascRead dev _ _ group _ _ rtag => dev < 16 && group < 4096 && rtag < 4096
  | .readData dev _ rtag status _ => dev < 16 && rtag < 4096 && status < 256
  | .writeDone dev _ status lines => dev < 16 && status < 256 && lines < 65536
  | .cascSignal dev _ queue func trn n gen _ fence =>
      dev < 16 && queue < 262144 && func < 64 && trn < 4096 && n < 65536 && gen < 65536 && fence < 2 ^ 40
  | .signalDone dev _ status queue => dev < 16 && status < 256 && queue < 262144
  | .trnOp dev _ kind trn gen n _ wtag _ _ => dev < 16 && kind < 3 && trn < 4096 && gen < 65536 && n < 65536 && wtag < 65536
  | .trnRel dev _ trn gen => dev < 16 && trn < 4096 && gen < 65536
  | .trnDone dev _ wtag status => dev < 16 && wtag < 65536 && status < 256
  | .markerSend lane | .laneFail lane | .markerReceive lane _ _ => lane < 64
  | .idleEnter link | .idleNullBurst link | .idleExit link => link < 8
  | .linkRetrainDone link half _ => link < 8 && half < 4
  | .queuePush port _ keep _ => port < 256 + 8192 && keep < 256
  | .queuePop port => port < 256 + 8192
  | .portWord port _ keep _ => port < 256 && keep < 256
  | .ramAccess block _ _ _ => block < 8192
  | .memPortRequest port _ len _ _ _ => port < 256 && 0 < len && len <= 64
  | .pinChange pin _ => pin < 192
  | .bankSupplyChange bank millivolts => bank < 8 && millivolts < 4096
  | .pacerTick pacer _ drive sample => pacer < 32 && drive.all (fun x => x.1 < 192) && sample.all (fun x => x < 192)
  | .pacerCalibrate pacer _ => pacer < 32
  | .configurationRequest func item _ _ => func < 64 && item < 11
  | .cxlLinkRetrained port width rate => port < 4 && width < 8 && rate < 8
  | .hostLinkUp width rate _ => width < 8 && rate < 8
  | .cascLinkTrained link partner partnerLink => link < 8 && partner < 16 && partnerLink < 8
  | .collectiveControl dev _ _ members kind _ _ status => dev < 16 && members < 65536 && kind < 65536 && status < 256
  | .latchCapture cell _ _ => cell < 2560000

end Sys2Proof
end

