-- ==== Sys2Proof/Tests/Slice0.lean ====
section
/-! SUPPORT. Tests: every check of WellFormed refuses an ill-formed command; for every statement with hypotheses, states
and operands that meet them, at a boundary of their range; and a few single steps against the manual's own examples. -/

set_option Elab.async false

namespace Sys2Proof.Tests

open Sys2Proof Sys2Proof.Machine

/-! ### States used below -/

/-- A device whose start-up has ended. -/
def on : State :=
  { st := { auxOn := true, supplyOk := true, standbyDone := true, railsOn := true, ready := true, perst := false }
    pwr := { vcoreMv := 720 } }

/-- A device with stack 0 in service. -/
def mem : State := setStack on 0 { present := true, trained := true }

/-- An operation of queue 0 that is ready: opcode, then bytes of its descriptor by position. -/
def opOf (opc : Nat) (fields : List (Nat × Nat)) : Op :=
  { tag := 1, queue := 0, slot := 0, phase := .ready, valid := true
    desc := fields.foldl (fun d f => d.set f.1 (BitVec.ofNat 8 f.2)) ((BitVec.ofNat 8 opc) :: fill 255 0) }

/-- A device with one operation. -/
def withOp (s : State) (o : Op) : State := { s with ops := [o] }

/-! ### Witnesses: the block, power, Moraine and memory -/

theorem witness_StepRunsFrontCommand : ({ on with pending := [Instr.nop 1, .p48vAbove62v] } : State).pending =
    Instr.nop 1 :: [.p48vAbove62v] := by decide
theorem witness_IdleStepIsATick : State.reset.pending = [] ∧ State.reset.st.auxOn = false ∧ on.pending = [] ∧
    on.st.auxOn = true := by decide
theorem witness_StepKeepsMemoryForm : State.reset.memWf = true ∧ mem.memWf = true := by decide
theorem witness_CommandsThatStoreNothing : ∃ t, exec (.pinChange 0 true) on = .next t := ⟨_, rfl⟩
theorem witness_WindowMapIsOneToOne : ∃ w : WinCfg, winStacks w ≠ [] ∧ w.base ≤ 2 ^ 30 ∧ w.base ≤ 2 ^ 30 + 1 ∧
    winMap w (2 ^ 30) = winMap w (2 ^ 30) := ⟨⟨2 ^ 30, 2 ^ 26, 2 ^ 32⟩, by decide⟩
theorem witness_PowerInputs : on.st.railsOn = true ∧ on.st.auxOn = true ∧
    (∃ s : State, s.st.railsOn = false ∧ s.st.standbyDone = true ∧ s.st.thermalHold = false) := by
  and_intros
  all_goals first
    | decide +kernel
    | exact ⟨{ st := { standbyDone := true } }, by decide⟩
theorem witness_DeviceResets : on.st.auxOn = true ∧ on.st.standbyDone = true ∧
    (on.st.thermalHold = true → anyAbove on.pwr.temps 85 = false) ∧ bit (0x80005A17 : W32).toNat 31 = true ∧
    bits (0x80005A17 : W32).toNat 0 16 = 0x5A17 ∧ ∃ s : State, s.st.thermalHold = true ∧
    s.pwr.temps = [(0, 85)] ∧ anyAbove s.pwr.temps 85 = false := by
  and_intros
  all_goals first
    | decide +kernel
    | exact ⟨{ st := { thermalHold := true }, pwr := { temps := [(0, 85)] } }, by decide⟩
theorem witness_HostInterfaceResets : funcEnabled on 0 = true ∧ funcEnabled on 1 = false ∧ on.st.standbyDone = true ∧
    ∃ s : State, s.st.perst = true ∧ s.st.railsOn = true ∧ s.st.standbyDone = true := by
  and_intros
  all_goals first
    | decide +kernel
    | exact ⟨{ on with st := { on.st with perst := true } }, by decide⟩
theorem witness_PowerCapAndGovernor : on.st.standbyDone = true ∧ on.pwr.vcoreMv ≠ 0 ∧
    ∃ s : State, s.st.standbyDone = true ∧ s.pwr.vcoreMv = 0 := by
  and_intros
  all_goals first
    | decide +kernel
    | exact ⟨{ st := { standbyDone := true } }, by decide⟩

/-- A record of the ring. -/
def rec0 : MorRec := { seq := 0, time := 0, sev := 3, code := 0x0402, src := 0, payload := fill 16 0, repeats := 0, lastDelta := 0, touched := 0 }

theorem witness_RingKeepsNewest : recLen .full rec0 ≤ 16 * 2 ^ 20 := by decide
theorem witness_MoraineCommands_log : ∃ s : State, s.st.auxOn = true ∧ s.mor.toFlash = [rec0] ∧
    s.mor.flashEnd + recLen s.variant rec0 ≤ s.mor.flashStart + flashSize :=
  ⟨{ on with mor := { toFlash := [rec0] } }, by decide⟩
theorem witness_MoraineCommands_freeze : on.st.standbyDone = true ∧ bit (0x80000000 : W32).toNat 31 = true ∧
    bit (0 : W32).toNat 31 = false ∧ ∃ s : State, s.mor.frozen = true ∧ s.mor.lostNow = 0 := by
  and_intros
  all_goals first
    | decide +kernel
    | exact ⟨{ on with mor := { frozen := true } }, by decide⟩
theorem witness_MoraineCommands_copy : on.mor.copyLen < 64 ∧
    ∃ (s : State) (x : List Byte × Bool), s.st.standbyDone = true ∧ 64 ≤ s.mor.copyLen ∧ copyBytes s = x := by
  and_intros
  all_goals first
    | decide +kernel
    | exact ⟨{ on with mor := { copyLen := 64 } }, _, by decide, by decide, rfl⟩
theorem witness_IceCommands : on.st.standbyDone = true ∧
    ∃ s : State, s.st.auxOn = true ∧ s.mor.irqHeld = true ∧ s.mor.lastIrq = some 0 :=
  ⟨by decide, { on with mor := { irqHeld := true, lastIrq := some 0 } }, by decide⟩
theorem witness_MemoryRequests : localOf mem 0 = some (0, 0, 0) ∧ (getStack mem 0).present = true ∧
    (getStack mem 0).lost = false ∧ ((getStack mem 0).reqs.filter (fun r => r.write = false)).length < 256 ∧
    ((getStack mem 0).reqs.filter (fun r => r.write = true)).length < 128 ∧ 63 / 64 * 64 < tier2Base ∧
    (∃ s : State, localOf s 0 = some (0, 0, 0) ∧ (getStack s 0).lost = true) ∧
    ∃ s : State, tier2Base ≤ tier2Base / 64 * 64 ∧ (getCxl s ((tier2Base - tier2Base) / 2 ^ 44)).up = true ∧
      lineLost s tier2Base = false := by
  and_intros
  all_goals first
    | decide +kernel
    | exact ⟨setStack on 0 { lost := true }, by decide⟩
    | exact ⟨setCxl on 0 { up := true }, by decide⟩
/-- A read that waits at stack 0. -/
def read0 : MemReq :=
  { port := 0, addr := 0, write := false, data := fill 64 0, enables := 0, time := 0, target := 0, close := false, lost := false,
    op := none }
theorem witness_MemoryRequests_full : ∃ s : State, localOf s 0 = some (0, 0, 0) ∧ (getStack s 0).present = true ∧
    128 ≤ ((getStack s 0).reqs.filter (fun r => r.write = true)).length :=
  ⟨setStack mem 0 { present := true, reqs := List.replicate 128 { read0 with write := true } }, by decide +kernel⟩
theorem witness_IssueSlot : (getStack (setStack mem 0 { present := true, reqs := [read0] }) 0).reqs = [read0] ∧
    (getStack (setStack mem 0 { present := true, reqs := [read0] }) 0).banks = [] ∧
    localOf (setStack mem 0 { present := true, reqs := [read0] }) read0.addr = some (0, 0, 0) ∧
    (0, bankOf 0) ∉ ([] : List (Nat × Nat)) ∧ read0.lost = false ∧ read0.op = none ∧ read0.addr < tier2Base ∧
    lineLost (setStack mem 0 { present := true, reqs := [read0] }) read0.addr = false := by decide
theorem witness_IssueSlot_write : ∃ (s : State) (r : MemReq), (getStack s 0).reqs = [r] ∧ r.write = true ∧
    (getStack s 0).burst = true ∧ r.enables = 2 ^ 64 - 1 ∧ (getStack s 0).banks = [] ∧ localOf s r.addr = some (0, 0, 0) ∧
    r.op = none ∧ r.addr < tier2Base :=
  ⟨setStack mem 0 { present := true, burst := true, reqs := [{ read0 with write := true, enables := 2 ^ 64 - 1 }] },
    { read0 with write := true, enables := 2 ^ 64 - 1 }, by decide⟩
theorem witness_StackUpkeepAndRetraining : (getStack mem 0).trained = true ∧ bankUrgent mem 0 0 0 = false ∧
    (getStack mem 0).derated = (getStack mem 0).doubleRef ∧ (getStack mem 0).reqs = [] ∧ 0 ∉ (getStack mem 0).retrainFailed ∧
    (∃ s : State, (tget (dflt {}) (getStack s 0).banks (bankKey 0 0) : Bank).openRow = some 7 ∧ (getStack s 0).reqs = []) ∧
    ∃ s : State, (getStack s 0).present = true ∧ 0 ∈ (getStack s 0).retrainFailed := by
  and_intros
  all_goals first
    | decide +kernel
    | exact ⟨setStack mem 0 { banks := tset (dflt {}) [] (bankKey 0 0) { openRow := some 7 } }, by decide⟩
    | exact ⟨setStack mem 0 { present := true, retrainFailed := [0] }, by decide⟩
theorem witness_PatrolAndRepair : (getStack mem 0).present = true ∧
    ∃ s : State, rowKey 0 0 0 ∈ (getStack s 0).repairDue := ⟨by decide, setStack mem 0 { repairDue := [rowKey 0 0 0] }, by decide⟩
/-- A window of 64 MiB on stack 0 alone, with a grain of 4 KiB. -/
def win0 : WinCfg := { base := 0, size := 2 ^ 26, map := 12 + 2 ^ 32 }
/-- A device whose window 0 is that window. -/
def memW : State := setWindow mem 0 { active := win0, shadow := win0 }

theorem witness_WindowsAndCxlLinks : on.st.ready = true ∧ (getWindow on 0).result ≠ 0xFF ∧
    windowCheck memW 0 (getWindow memW 0).shadow = 0 ∧ windowCheck on 1 (getWindow on 1).shadow = 1 ∧
    ∃ s : State, (getWindow s 0).snapshot = some win0 ∧ windowCheck s 0 win0 = 0 ∧ (getCxl s 0).up = true ∧
      (getCxl s 1).downSince = some 0 ∧ s.time ≤ 0 + 10000000 ∧ s.place.migrations = [] := by
  and_intros
  all_goals first
    | decide +kernel
    | exact ⟨setCxl (setCxl (setWindow memW 0 { snapshot := some win0 }) 0 { up := true }) 1 { downSince := some 0 }, by decide +kernel⟩

/-! ### Witnesses: the host interface and address spaces -/

/-- A device whose address space 0 maps its first 2 MiB to the first of stack 0's memory. -/
def dev : State := { mem with
  pages := [{ asid := 0, base := 0, len := 2 ^ 21, leaf := 21, kind := .backed, rd := true, wr := true }] }

/-- A queue whose rings hold 16 and 32 entries. -/
def queue16 : Queue := { entry := { sqBase := 0x1000, cqBase := 0x2000, sqLog2 := 4, cqLog2 := 5, enable := true } }

/-- The same device with queue 0 enabled. -/
def devQ : State := setQueue dev 0 queue16

theorem witness_Doorbells : devQ.st.standbyDone = true ∧ devQ.st.ready = true ∧
    bindFunc (getGroup devQ 0).active.bind = 0 ∧ bindEnable (getGroup devQ 0).active.bind = true ∧
    (getFunc devQ 0).d3hot = false ∧ (getQueue devQ 0).entry.enable = true ∧ (getQueue devQ 0).stopped = false ∧
    bits (3 : W64).toNat 48 15 = 0 ∧ bits (3 : W64).toNat 32 16 = (getQueue devQ 0).entry.epoch ∧
    bits (3 : W64).toNat 0 32 < 2 ^ (getQueue devQ 0).entry.sqLog2 ∧ bit (2 ^ 63 : W64).toNat 63 = true ∧
    (bits (2 ^ 63 : W64).toNat 0 32 + 2 ^ 5 - (getQueue devQ 0).cqHead) % 2 ^ 5 ≤ cqUsed (getQueue devQ 0) := by decide +kernel
theorem witness_Doorbells_dropped : devQ.st.standbyDone = true ∧ bindFunc (getGroup devQ 0).active.bind ≠ 1 ∧
    (getQueue devQ 1).entry.enable = false ∧ bindFunc (getGroup devQ 0).active.bind = 0 ∧
    bits (2 ^ 32 : W64).toNat 32 16 ≠ (getQueue devQ 0).entry.epoch := by decide +kernel

/-- Group 0 with a shadow of one queue whose table lies at address 0. -/
def devG : State := setGroup { dev with dmem := [(16, 4), (17, 5)] } 0 { getGroup dev 0 with shadow := { bind := 0x8000000000000010, qtable := 0, ctrl := 1 } }

/-- Whether a read succeeds with what a test asks for. -/
def readsAs (r : Except Stop (List Byte) × State) (f : List Byte → State → Bool) : Bool :=
  match r with
  | (.ok bs, s) => f bs s
  | _ => false
theorem of_readsAs {r : Except Stop (List Byte) × State} {f : List Byte → State → Bool} (h : readsAs r f = true) :
    ∃ bs s, r = (.ok bs, s) ∧ f bs s = true := by
  rcases r with ⟨bs | bs, s⟩
  · simp [readsAs] at h
  · exact ⟨bs, s, rfl, h⟩

/-- Whether a write, or a delivery, succeeds. -/
def writes {ε : Type} (r : Option ε × State) : Bool := r.1.isNone
theorem of_writes {ε : Type} {r : Option ε × State} (h : writes r = true) : ∃ s, r = (none, s) := by
  rcases r with ⟨_ | e, s⟩
  · exact ⟨s, rfl⟩
  · simp [writes] at h

theorem witness_QueueGroupCommits : devG.st.ready = true ∧ (getGroup devG 0).result ≠ 0xFF ∧
    bindWeight (getGroup devG 0).shadow.bind ≠ 0 ∧ bits (getGroup devG 0).shadow.ctrl 0 7 = 1 ∧
    (getGroup devG 0).shadow.qtable % 4096 = 0 ∧ addrOk (getGroup devG 0).shadow.qtable = true ∧
    bindFunc (getGroup devG 0).shadow.bind = 0 ∧
    (∃ bs s1, readRM (bindWho (getGroup devG 0).shadow.bind) 0 32 3 devG = (.ok bs, s1) ∧
      entryOk (getQueue s1 0).entry (bs.take 32) = true) ∧
    ∃ bs s1, readRM (bindWho (getGroup devG 0).shadow.bind) 0 32 3 { devG with dmem := [(8, 1)] } = (.ok bs, s1) ∧
      (!entryOk (getQueue s1 0).entry (bs.take 32)) = true := by
  and_intros
  all_goals first
    | decide +kernel
    | exact of_readsAs (f := fun bs s1 => entryOk (getQueue s1 0).entry (bs.take 32)) (by decide +kernel)
    | exact of_readsAs (f := fun bs s1 => !entryOk (getQueue s1 0).entry (bs.take 32)) (by decide +kernel)
theorem witness_QueueGroupCommits_apply : ∃ s : State, (getGroup s 0).snapshot = some ⟨0, 0, 0⟩ ∧
    (getGroup s 0).tableWait = none ∧ s.ops = [] ∧ (getGroup s 0).shadow.qtable % 4096 = 0 ∧
    bindWeight (getGroup s 1).shadow.bind = 0 :=
  ⟨setGroup (setGroup on 0 { getGroup on 0 with snapshot := some ⟨0, 0, 0⟩, held := [63] }) 1 { getGroup on 1 with
    shadow := ⟨0, 0, 0⟩ }, by decide +kernel⟩
theorem witness_QueueGroupCommits_abort : setBitsOf 64 (2 ^ 63 : W64).toNat = [63] ∧ on.ops = [] ∧ on.st.ready = true ∧
    (opOf 0 []).phase ≠ .done ∧ ({ opOf 0 [] with queue := 63 } : Op).queue = 64 * 0 + 63 := by decide +kernel
theorem witness_HostTraffic : dev.st.standbyDone = true ∧ dev.st.ready = true ∧ 64 + 64 ≤ 2 ^ (getFunc dev 0).bar2Log2 ∧
    2 ^ (getFunc dev 0).bar2Log2 < 2 ^ 30 + [(0 : Byte)].length ∧
    (∃ bs s1, readRM { unit := 0x0300 } 64 64 2 dev = (.ok bs, s1) ∧ true = true) ∧
    (∃ s1, writeRM { unit := 0x0300 } 64 [1] 2 dev = (none, s1)) ∧
    ∃ s : State, s.st.standbyDone = true ∧ s.st.ready = false ∧ (getQueue s 1).irqCount ≠ 0 ∧ (getGroup s 0).modTime ≠ 0 := by
  and_intros
  all_goals first
    | decide +kernel
    | exact of_readsAs (f := fun _ _ => true) (by decide +kernel)
    | exact of_writes (by decide +kernel)
    | exact ⟨setGroup (setQueue { st := { standbyDone := true } } 1 { irqCount := 1 }) 0 { getGroup on 0 with modTime := 1 }, by decide +kernel⟩
theorem witness_HostTraffic_vector : ∃ s : State, (getFunc s 0).pba = [7] ∧ (getFunc s 0).msixEnable = true ∧
    (getFunc s 0).msixMask = false ∧ tget (dflt (0, 0, true)) (getFunc s 0).entries 7 = (1, 2, false) :=
  ⟨setFunc on 0 { pba := [7], msixEnable := true, entries := [(7, 1, 2, false)] }, by decide +kernel⟩
theorem witness_HostLinkStates : (∃ s : State, s.link.up = true) ∧ (∃ s : State, s.link.training = true) ∧
    ∃ s : State, s.queues = [(0, { waitAddr := some (2 ^ 63) })] ∧ isHost (2 ^ 63) = true ∧ s.mid.ports = [] :=
  ⟨⟨{ link := { up := true } }, rfl⟩, ⟨{ link := { training := true } }, rfl⟩,
    { queues := [(0, { waitAddr := some (2 ^ 63) })] }, by decide +kernel⟩

/-- A device whose group 0 names the first 2 MiB of the address space, or the next 2 MiB when there is nothing there. -/
def devA (base : Nat) : State := setGroup dev 0 { getGroup dev 0 with mmuBase := base, mmuLen := 2 ^ 21 }

theorem witness_AddressSpaceCommands : (devA 0).st.ready = true ∧ (getGroup (devA 0) 0).mmuBusy = false ∧
    mmuStatusOf 0 (2 ^ 21) (2 ^ 21) (leafOfSize 2) 1 true true (devA (2 ^ 21)) = 0 ∧
    mmuStatusOf 0 0 (2 ^ 21) (leafOfSize 2) 1 true true (devA 0) ≠ 0 ∧
    mmuStatusOf 0 0 (2 ^ 21) (leafOfSize 2) 2 false false (devA 0) = 0 ∧
    mmuStatusOf 0 0 (2 ^ 21) (leafOfSize 2) 3 false false (devA 0) = 0 ∧
    mmuStatusOf 0 0 (2 ^ 21) (leafOfSize 2) 4 true false (devA 0) = 0 ∧
    (∃ s : State, s.st.ready = true ∧ (getGroup s 0).mmuBusy = true) := by
  and_intros
  all_goals first
    | decide +kernel
    | exact ⟨setGroup on 0 { getGroup on 0 with mmuBusy := true }, by decide +kernel⟩

/-- An operation suspended on a host page. -/
def opHost : Op := { opOf 1 [] with phase := .suspended, wait := some .pageRequest, faultAddr := 2 ^ 63, waitWrite := true }
/-- The page request that it waits for. -/
def pri0 : PriReq := { func := 0, pasid := 0, page := 0, wr := true, deadline := 1000000 }

theorem witness_HostTranslations : (∃ s : State, (getFunc s 0).atsEnable = true ∧ s.ats.length < 4096 ∧
      queuesOnHost s 0 0 0 = [] ∧ s.mid.ports = []) ∧
    (∃ s : State, s.pris = [pri0] ∧ pri0.sent = true ∧ s.ats.length < 4096 ∧ queuesOnHost s 0 0 0 = [] ∧
      s.ops = [opHost] ∧ waitsOnHost 0 0 0 opHost = true ∧ opHost.waitWrite = true ∧ s.queues = [] ∧ s.mid.ports = []) ∧
    ∃ s : State, s.pris = [pri0] ∧ s.ops = [] ∧ s.queues = [] ∧ s.mid.ports = [] :=
  ⟨⟨setFunc on 0 { atsEnable := true }, by decide +kernel⟩,
    ⟨{ on with pris := [pri0], ops := [opHost] }, by decide +kernel⟩, { on with pris := [pri0] }, by decide +kernel⟩

/-! ### Witnesses: queues, element operations, matrix work, placement -/

/-- Queue 0 with a descriptor announced. -/
def devF : State := setQueue dev 0 { queue16 with tail := 1 }

theorem witness_GrantsAndFetches : ((grant devF).map (·.1)) = some 0 ∧ grant dev = none ∧
    (∃ a, grant devF = some (0, a) ∧ ∃ d s1, readDesc 0 { devF with arb := a } = (.ok d, s1) ∧ true = true) ∧
    ∃ s a, grant s = some (0, a) ∧ (match (readDesc 0 { s with arb := a }).1 with
      | .error (.fault _ _) => true
      | _ => false) = true := by
  and_intros
  all_goals first
    | decide +kernel
    | exact ⟨_, rfl, of_readsAs (f := fun _ _ => true) (by decide +kernel)⟩
    | exact ⟨{ devF with pages := [] }, _, rfl, by decide +kernel⟩

/-- An operation of queue 0 that has ended. -/
def opDone (status : Nat) : Op := { opOf 0 [(12, 0xFF), (13, 0xFF)] with phase := .done, closing := 3, result := { status } }

theorem witness_CompletesInOrder : (opDone 0).tag = 1 ∧ (opDone 0).gathers = false ∧ (opDone 0).doneTrn = 0xFFFF ∧
    (opDone 0).subKey = 0 ∧
    ({ opDone 0 with closing := 0 } : Op).phase = .done ∧
    (opDone 0).finalStatus < 0x10 ∧ 0x10 ≤ (opDone 0x20).finalStatus ∧
    findOp (withOp devQ (opDone 0)) 1 = some (opDone 0) ∧ findOp (withOp devQ (opDone 0x20)) 1 = some (opDone 0x20) ∧
    2 ≤ 2 ^ (getQueue devQ 0).entry.cqLog2 - 1 - cqUsed (getQueue devQ 0) ∧
    (∃ s1, writeRM (ringWho devQ 0) 0x2000 (primaryEntry (opDone 0) 0 true) 3 devQ = (none, s1)) ∧
    (∃ s1, writeRM (ringWho devQ 0) 0x2020 (contEntry (opDone 0x20) true) 3 devQ = (none, s1)) ∧
    2 ^ 5 - 1 - cqUsed { queue16 with cqTail := 31 } = 0 := by
  and_intros
  all_goals first
    | decide +kernel
    | exact of_writes (by decide +kernel)
    | exact of_writes (by decide +kernel)

/-- An operation suspended at an address. -/
def opSusp (a : Nat) : Op := { opOf 1 [] with phase := .suspended, faultAddr := a, waitWrite := true }
/-- The same memory, with its page RESERVED, or MIGRATING. -/
def devOf (k : LeafKind) : State := { dev with
  pages := [{ asid := 0, base := 0, len := 2 ^ 21, leaf := 21, kind := k, rd := true, wr := true }] }

theorem witness_FaultsResolve : (opSusp 0).phase = .suspended ∧
    translate (devOf .reserved) (whoOf (opSusp 0)) true 0 = .wait .backing ∧
    ((backRegion 0 0 false (devOf .reserved)).map (fun s => s.ops)) = some (devOf .reserved).ops ∧
    backRegion 0 0 false { devOf .reserved with windows := [(0, {})] } = none ∧
    translate (devOf .migrating) (whoOf (opSusp 0)) true 0 = .wait .migration ∧
    (∃ s m, s.pages = (devOf .migrating).pages ∧ migrationAt s 0 0 = some m) ∧
    translate dev (whoOf (opSusp 0)) true 0 = .phys 0 ∧ translate dev (whoOf (opSusp (2 ^ 63))) true (2 ^ 63) = .wait .link := by
  and_intros
  all_goals first
    | decide +kernel
    | exact ⟨{ devOf .migrating with place := { migrations := [⟨0, 0, 0, 2 ^ 21, true, 0, 1⟩] } }, _, rfl, rfl⟩

/-- A tensor record: its base, its format, and its extents. -/
def recOf (base fmt : Nat) (dims : List Nat) : List Byte :=
  leBytes 8 base ++ leBytes 1 fmt ++ leBytes 7 dims.length ++ dims.flatMap (leBytes 4) ++ fill 60 0

/-- FILL of one element of format 0x12 at address 64 with the value 1. -/
def opFill : Op := { opOf 3 [(38, 0xF0), (39, 0x3F)] with recs := [(1, recOf 64 0x10 [1, 1, 1, 1, 1])] }
/-- Where its element stands. -/
def fillState : State := withOp dev opFill
/-- What has succeeded. -/
def okOf {ε α : Type} (r : Except ε α) : Bool := match r with
  | .ok _ => true
  | _ => false
theorem of_okOf {ε α : Type} {r : Except ε α} (h : okOf r = true) : ∃ a, r = .ok a := by
  rcases r with e | a
  · simp [okOf] at h
  · exact ⟨a, rfl⟩

theorem witness_ElementOpsRunToTheEnd : findOp fillState 1 = some opFill ∧ opFill.phase = .ready ∧ opFill.opc = 3 ∧
    fillState.cfg.applying = none ∧ (opFill.tensor 1).count = 1 ∧ opFill.cursor = 0 ∧
    (∃ u, actVal 1 (opFill.tensor 1) opFill.arith (fun _ o _ => .ok (decodeElem 1 (o.fld 32 8), 0, noK)) opFill 0 1
      (beginOp opFill fillState) = .ok u) ∧
    okOf (actVal 1 (opFill.tensor 1) opFill.arith (fun _ o _ => .ok (decodeElem 1 (o.fld 32 8), 0, noK)) opFill 0 1
      (beginOp opFill { fillState with pages := [] })) = false := by
  and_intros
  all_goals first
    | decide +kernel
    | exact of_okOf (by decide +kernel)
theorem witness_ElementResultsAndStarts : isT (opFill.tensor 1).format = false ∧ (∃ u, writeAll (whoOf opFill)
      (codeWrites (opFill.tensor 1) ((opFill.tensor 1).coords 0)
        [fromContainer 0x10 (storeVal 0x10 opFill.arith (decodeElem 1 (opFill.fld 32 8))).1]) (beginOp opFill fillState) = .ok u) ∧
    findOp (withOp dev (opOf 0 [])) 1 = some (opOf 0 []) ∧ (opOf 0 []).opc = 0 ∧
    (opDone 0).phase ≠ .ready := by
  and_intros
  all_goals first
    | decide +kernel
    | exact of_okOf (by decide +kernel)

/-- MATMUL of one element: records 1, 2, 3 of format 0x10 at 64, 128, 192. -/
def opMat : Op := { opOf 0x10 [] with
  recs := [(1, recOf 64 0x10 [1, 1, 1, 1, 1]), (2, recOf 128 0x10 [1, 1, 1, 1, 1]), (3, recOf 192 0x10 [1, 1, 1, 1, 1])] }
/-- A device with logical tile 0 on physical tile 0. -/
def devT : State := { dev with tiles := [(0, { st := 0, logical := some 0 })] }
/-- The same with the tile's one partition in use. -/
def devX : State := { dev with tiles := [(0, { st := 0, logical := some 0, parts := [(0, { st := 1 })] })] }
/-- The MATMUL on that tile. -/
def opMatT : Op := { opMat with tiles := [0] }

theorem witness_MatrixBlocks : pinnedTiles dev 0 = [] ∧ pinnedTiles devT 0 = [0] ∧ opMat.opc = 0x10 ∧ opMat.gen = 0 ∧
    opMat.tiles = [] ∧ opMat.carousel = false ∧ opMat.batchOk = false ∧ opMat.nBlocks = 1 ∧
    (spreadTiles (withOp devT opMat) opMat [0]).length = 1 ∧ spreadTiles (withOp devX opMat) opMat [] = [] ∧
    pinnedTiles devX 0 ≠ [] ∧ okOf (opMatT.element (opMatT.sources devT) 0 0 0) = true ∧
    ((blockAct 0 [0] (opMatT.blk 0) (opMatT.sources (withOp { devT with pages := [] } opMatT)) opMatT
      (withOp { devT with pages := [] } opMatT)).1).isSome = true ∧
    ((fetchRow 1 0 [0] (withOp { devT with pages := [] } opMatT)).1).isSome = true := by
  decide +kernel
/-- The MATMUL as it begins on tile 0. -/
def matBegun : State :=
  let s := withOp devT opMat
  let u := beginOp opMat s
  let o1 : Op := { Op.deal { opMat.placed s with tiles := [0], slices := [], sumTree := [] } u [0] with started := true }
  let v := resumeDrains 1 (releaseParts 1 (growTree [1] o1.tiles (setOp u o1)))
  match findOp v 1 with
  | some o2 => markWork (o2.tileUnits v) (setModes o2 v)
  | none => v
/-- The same after block 0. -/
def matBlock : State :=
  match findOp matBegun 1 with
  | some y =>
    let w := (fetchRow 1 0 [0] (setOp matBegun { y with phys := 0 })).2
    updOp 1 (fun z => { z with gen := 1 }) (blockAct 0 [0] (y.blk 0) ({ y with phys := 0 }.sources w) { y with phys := 0 } w).2
  | none => matBegun
theorem witness_MatrixBlocks_run : (match findOp matBegun 1 with
    | some y => issues matBegun 1 && decide (y.gen = 0) && decide (y.sliceTiles 0 matBegun = some [0]) &&
        (fetchRow 1 0 [0] (setOp matBegun { y with phys := 0 })).1.isNone &&
        (blockAct 0 [0] (y.blk 0) ({ y with phys := 0 }.sources matBegun) { y with phys := 0 } matBegun).1.isNone
    | none => false) = true ∧ (match findOp matBlock 1 with
    | some x => issues matBlock 1 && decide (x.gen = 1 ∧ x.nBlocks = 1)
    | none => false) = true ∧ opMat.slotFree (withOp devT opMat) = true := by decide +kernel

/-- A ring of two places in its step, the first place with one phase done. -/
def ring2 : Carousel := { record := recOf 64 0x10 [2, 1, 1, 1, 1], ring := [0, 1], phases := [1, 1], op := 1 }

/-- Logical tiles 0 and 1 with the shards of the ring, and MATMUL of two rows there. -/
def devR : State := { dev with
  tiles := [(0, { st := 0, logical := some 0, shards := [(0, [(0, 0)])] }),
    (1, { st := 0, logical := some 1, shards := [(1, [(0, 0)])] })]
  place := { rings := [(0, ring2)] } }
def opRing : Op := { opOf 0x10 [] with
  phase := .running
  recs := [(1, recOf 64 0x10 [2, 1, 1, 1, 1]), (2, recOf 128 0x10 [1, 2, 1, 1, 1]), (3, recOf 192 0x10 [2, 2, 1, 1, 1])] }
/-- The state after shard 0 has moved to place 1. -/
def devR1 : State :=
  updTile 1 (fun t => { t with shards := t.shards ++ [(0, [(0, 0)])] })
    (updTile 0 (fun t => { t with shards := t.shards.filter (fun x => decide (x.1 ≠ 0)) }) (withOp devR opRing))

theorem witness_SweepsTreesAndRings : (∃ s : State, tfind 3 s.place.sweeps = some ⟨0, 5, 1, [1], []⟩ ∧
      findOp s 1 = some { opMat with phase := .waiting } ∧ opMat.epiImage = 0) ∧
    (∃ s : State, tfind 4 s.place.trees = some { root := 1, members := [0], ops := [1] } ∧ physOf s 0 = some 0) ∧
    tfind 0 devR.place.rings = some ring2 ∧ findOp (withOp devR opRing) 1 = some opRing ∧ opRing.phase = .running ∧
    opRing.result.status = 0 ∧ ring2.phases.getD 1 0 = 1 ∧ 1 ≤ ring2.phases.getD ((1 + 2 - 1) % 2) 0 ∧
    1 ≤ ring2.phases.getD ((1 + 1) % 2) 0 + 1 ∧ shardIn 2 1 1 = 0 ∧ ringPhys ring2 0 devR = 0 ∧ ringPhys ring2 1 devR = 1 ∧
    (getTile devR 1).shards.length < 2 ∧ (getTile devR 0).shard 0 = some [(0, 0)] ∧
    (match reloadShards ring2 opRing (List.range 2) (withOp devR opRing) with
      | .ok u => decide (u = withOp devR opRing)
      | .error _ => false) = true ∧
    (match reloadShards ring2 opRing (List.range 2) devR1 with
      | .ok u => decide (u = devR1)
      | .error _ => false) = true ∧
    ringWhole ring2 devR = true ∧ issues (withOp devR opRing) 1 = true ∧ mendRing 0 opRing (withOp devR opRing) = withOp devR opRing ∧
    ((getTile devR 1).shards.any (fun x => x.1 = 0)) = false ∧
    opRing.runsOn (getTile (ringMode ring2 1 opRing devR1) (ringPhys ring2 1 (ringMode ring2 1 opRing devR1))) = true ∧
    ((findOp (phaseBlocks 1 ((1 * 2 + 1) * 2 ^ 32) 1 0 ring2 (opRing.ringBlocks 2 1 1) 0 (ringMode ring2 1 opRing devR1)) 1).map
      (fun y => (List.range (opRing.ringBlocks 2 1 1).length).all (fun i => decide ((1 * 2 + 1) * 2 ^ 32 + i ∈ y.blocksDone)))) =
      some true :=
  ⟨⟨{ withOp dev { opMat with phase := .waiting } with place := { sweeps := [(3, ⟨0, 5, 1, [1], []⟩)] } },
      by decide +kernel⟩,
    ⟨{ devT with place := { trees := [(4, { root := 1, members := [0], ops := [1] })] } }, by decide +kernel⟩,
    by decide +kernel⟩

/-- Block-command words: an opcode in byte 0, formats and counts of one term, the bank and partition 0. -/
def cmdWord (op : Nat) : BitVec 512 :=
  BitVec.ofNat 512 (op + 0x10 * 2 ^ 16 + 0x10 * 2 ^ 24 + 2 * 2 ^ 32 + 1 * 2 ^ 128 + 1 * 2 ^ 144 + 1 * 2 ^ 152)

theorem witness_BlockCommands : tileServes devT 0 = true ∧
    (∀ op, op < 6 → cmdOp (cmdWord op).toNat = op) ∧
    (∀ op, op < 6 → op ≠ 0 → cmdOk (getTile devT 0).mode (cmdWord op).toNat = true) ∧
    splitsBlock devT (getTile devT 0).mode (cmdWord 2).toNat = false ∧
    (getPart (getTile devT 0) 0).held = [] ∧ ((getPart (getTile devT 0) 0).bank 0).st ≠ 2 ∧
    banksFree (getTile devT 0) = true ∧
    (∃ x : Partn, (x.bank 0).st = 1 ∧ (x.bank 1).st = 2 ∧ x.held = []) ∧
    banksFree { parts := [(0, { bankA := { st := 1 } })] } = false ∧ cmdToBank (2 ^ 12) = true ∧
    firstToBank { parts := [(0, { bankA := { st := 2, cmd := 2 ^ 12 } })] } { st := 2, cmd := 2 ^ 12 } = true ∧
    (∃ (b : PeBank) (w : EpiOwn), b.st = 2 ∧ cmdToBank b.cmd = false ∧ cmdToMem b.cmd = true ∧ b.owners = [w] ∧
      (drainOwn 0 0 b w devT).1 = none) ∧ cmdToBank 0 = false ∧ cmdToMem 0 = false := by
  and_intros
  all_goals first
    | decide +kernel
    | exact ⟨{ bankA := { st := 1 }, bankB := { st := 2 } }, by decide +kernel⟩
    | exact ⟨{ st := 2, cmd := 2 ^ 22 * 2 ^ 160 }, { op := 0, cols := 0 }, by decide +kernel⟩

/-- A device with a stream run of priority 0 on tile 0. -/
def devS : State := { dev with tiles := [(0, { st := 0, logical := some 0, run := { kind := 2, op := 1, winSize := 8 } })] }
/-- A device whose tile 0 accumulates in partition 0. -/
def devQ1 : State := { dev with tiles := [(0, { st := 0, logical := some 0, parts := [(0, { st := 1, bankA := { st := 1 } })] })] }
/-- A saved stream run. -/
def ctx1 : Context := { kind := 1, prio := 0, op := 1, tile := 9, part := 0, time := 0, run := some { kind := 2, op := 1 } }

theorem witness_SavedContexts : (getTile devS 0).run.kind = 2 ∧ (getTile devS 0).run.prio < 1 ∧
    contextFits devS 0 (takeStream devS 0).1 = true ∧
    contextFits { devS with memStacks := [] } 0 (takeStream devS 0).1 = false ∧
    firstToResume (fun x => x.faulted devT) [ctx1] 0 ctx1 = true ∧ ctx1.faulted devT = false ∧
    (getTile devT 0).run.kind = 0 ∧ physOf devT ctx1.tile = none ∧
    partBusy (getTile devQ1 0) 0 = true ∧ opPrio devQ1 (partTag (getTile devQ1 0) 0) < 1 ∧
    contextFits devQ1 0 (takePart devQ1 0 0).1 = true ∧
    contextFits { devQ1 with memStacks := [] } 0 (takePart devQ1 0 0).1 = false ∧
    findOp (withOp { devT with contexts := [ctx1] } (opOf 0x30 [])) ctx1.op = some (opOf 0x30 []) ∧
    selectContext { devT with contexts := [ctx1] } (2 ^ 19 + 9) = some ctx1 ∧ devT.contexts = [] := by decide +kernel

/-- PLACE_HINT of a kind on the device's 2 MiB, on stack 0's tier-one memory. -/
def opHint (kind : Nat) : Op := opOf 0x50 [(16, kind), (17, 0xFF), (20, 0), (34, 0x20)]

theorem witness_PlacementHints : (opHint 3).opc = 0x50 ∧ (opHint 3).fld 16 1 = 3 ∧ (opHint 3).hintLen = 2 ^ 21 ∧
    findOp (withOp dev (opHint 3)) 1 = some (opHint 3) ∧
    (∀ r ∈ runsIn (devOf .reserved) 0 0 (2 ^ 21), r.kind ≠ .backed ∧ r.kind ≠ .tier2) ∧
    firstUnmapped dev 0 2 0 (2 ^ 21) = none ∧ firstUnmapped { dev with pages := [] } 0 1 0 (2 ^ 21) = some 0 ∧
    8 * (pinnedBytes dev + 2 ^ 21) ≤ 7 * tierOne dev ∧ dev.place.migrations = [] ∧ (opHint 3).tag = 1 ∧
    (∀ r ∈ runsIn dev 0 0 (2 ^ 21), pinSettled dev 0 0xFF r = true) ∧
    7 * tierOne { dev with memStacks := [] } < 8 * (pinnedBytes dev + 2 ^ 21) := by decide +kernel
/-! ### Witnesses: migration, the vector engine, KV pages, Turnstiles -/

theorem witness_MigrationSpeedsAndView : on.st.ready = true ∧ bits (0x0A0A : W64).toNat 8 8 ≤ bits (0x0A0A : W64).toNat 0 8 ∧
    bits (0x1001 : W64).toNat 0 8 < bits (0x1001 : W64).toNat 8 8 ∧ hotPages on (bits on.place.migCtrl 8 8) = [] ∧
    (∃ s : State, s.place.migrations = [⟨0, 0, 0, 2 ^ 21, true, 0, 1⟩] ∧ s.dmem.wf = true ∧ badLines s 0 = []) ∧
    bit (0x81000000 : W32).toNat 31 = true ∧ bits (0x81000000 : W32).toNat 24 4 = 1 ∧ on.place.viewLen < 64 ∧
    devT.st.ready = true ∧ devT.tiles = [(0, { st := 0, logical := some 0 })] ∧ 0 < numPhys devT.variant := by
  and_intros
  all_goals first
    | decide +kernel
    | exact ⟨{ place := { migrations := [⟨0, 0, 0, 2 ^ 21, true, 0, 1⟩] } }, by decide⟩
/-- A tile with a history of equal ratios. -/
def devH (st n r : Nat) : State := { on with tiles := [(0, { st, logical := some 0, hist := List.replicate n r })] }

theorem witness_MigrationSpeedsAndView_judged :
    lastSum (getTile (devH 0 1000 599999) 0).hist 1000 = some 599999000 ∧
    lastSum (getTile (devH 0 1000 600000) 0).hist 1000 = some 600000000 := by decide +kernel
theorem witness_MigrationSpeedsAndView_slow : lastSum (getTile (devH 0 10000 849999) 0).hist 10000 = some 8499990000 := by
  decide +kernel
theorem witness_MigrationSpeedsAndView_active : lastSum (getTile (devH 1 10000 900000) 0).hist 10000 = some 9000000000 ∧
    (getTile (devH 1 10000 900000) 0).st = 1 := by decide +kernel

/-- An image of one instruction and a HALT. -/
def imgOf (i : Nat) : List Byte :=
  fill 6 0 ++ leBytes 2 2 ++ fill 8 0 ++ leBytes 4 4096 ++ fill 44 0 ++ leBytes 8 i ++ leBytes 8 (2 ^ 56)
/-- A device with a run of it on tile 0: of a kind, with a window of 4 KiB, and S1 the ring pointer of the whole window. -/
def devV (kind i : Nat) : State :=
  { withOp dev (opOf 0x30 []) with
    images := [⟨0, 0, imgOf i⟩]
    tiles := [(0, { st := 0, logical := some 0, images := [(0, 0, 2)], run := {
      kind, op := 1, winSize := 4096, sreg := [(1, 0)], imgAddr := 0, imgTag := 0 } })] }

theorem witness_VectorControl : (∀ c ∈ [0x00, 0x02, 0x03, 0x04, 0x05, 0x06, 0x08, 0x09, 0x0A, 0x0B, 0x2C],
      issued (devV 2 (c * 2 ^ 56)) 0 = some (opOf 0x30 [], c * 2 ^ 56) ∧ iOpc (c * 2 ^ 56) = c) ∧
    imageOf (devV 2 0) 0 0 = some (imgOf 0) ∧ (getTile (devV 2 0) 0).run.advance.pc < imgLen (imgOf 0) ∧
    pumpRings 0 (devV 2 0) = devV 2 0 ∧
    sext 64 ((getTile (devV 2 0) 0).run.getS 0) ≤ Int.ofNat ((getTile (devV 2 0) 0).run.ctr 0).count ∧
    Int.ofNat (({} : VecRun).ctr 0).count < sext 64 ((({} : VecRun).setS 1 1).getS 1) ∧ (({} : VecRun).ctr 0).ended = true := by
  decide +kernel
theorem witness_VectorLanes : (∀ c ∈ [0x18, 0x19, 0x20, 0x21, 0x22, 0x23, 0x24, 0x25, 0x27, 0x28, 0x29, 0x2A, 0x2B, 0x30,
      0x31, 0x32, 0x33, 0x40, 0x41, 0x42],
      issued (devV 2 (c * 2 ^ 56)) 0 = some (opOf 0x30 [], c * 2 ^ 56) ∧ iOpc (c * 2 ^ 56) = c) ∧
    lanesOfRun (getTile (devV 2 0) 0).run 0 = List.range 64 ∧ lanesOfRun {} (2 ^ 52) = [] := by decide +kernel
/-- A tile with a drain into its bank. -/
def tileB : Tile := { parts := [(0, { bankA := { st := 2, cmd := 2 ^ 12 } })] }

theorem witness_VectorBank : (∀ c ∈ [0x26, 0x43, 0x44, 0x45, 0x46, 0x10, 0x11, 0x47],
      issued (devV 2 (c * 2 ^ 56)) 0 = some (opOf 0x30 [], c * 2 ^ 56) ∧ iOpc (c * 2 ^ 56) = c) ∧
    okOf (laneAddrs (getTile (devV 2 0) 0).run 0 (fun q => 0 + Int.ofNat (4 * 1023 * q)) [0, 1]) = true ∧
    okOf (laneAddrs (getTile (devV 2 0) 0).run 0 (fun q => 0 + Int.ofNat (4 * 1024 * q)) [0, 1]) = false ∧
    iA (2 ^ 42) % 16 ≠ iB (2 ^ 42) % 16 ∧ memWaits (getTile (devV 2 0) 0) 0 (getTile (devV 2 0) 0).run = false ∧
    bankBusy (getTile (devV 2 0) 0) = false ∧ bankBusy tileB = true ∧
    memWaits tileB (64 * 2 ^ 20) { (getTile (devV 2 0) 0).run with winSize := 2 ^ 18 } = true ∧ lanesOfRun {} 0 ≠ [] ∧
    issued (devV 1 (0x07 * 2 ^ 56)) 0 = some (opOf 0x30 [], 0x07 * 2 ^ 56) ∧
    (∃ bs, emitBytes (getTile (devV 1 0) 0).run [] 0 0 = .ok bs) := by
  and_intros
  all_goals first
    | decide +kernel
    | exact of_okOf (by decide +kernel)

/-- A block that waits for an epilogue run, and one that a run has emitted. -/
def epi0 : EpiBlock := { op := 1, rows := 1, cols := 1, own := [{ op := 1, cols := 1 }] }
/-- MATMUL with an epilogue. -/
def opEpi : Op := { opMat with image := imgOf 0, blocksLeft := 1, phase := .running }
/-- A transfer of one element at address 64 that waits for its line. -/
def xfer0 : Transfer := { op := 1, ctr := 0, record := recOf 64 0x10 [1, 1, 1, 1, 1], fmt := 0x10, first := 0, last := 1, cursor := 0 }

/-- A device whose tile 0 has asked for the line of that transfer. -/
def devN : State := { withOp dev { opOf 0x30 [] with phase := .running } with
  tiles := [(0, { st := 0, logical := some 0, xfers := [(0, xfer0)], run := { kind := 2, op := 1, ctrs := [(0, { bound := 1, release := 1, winLen := 4 })] } })] }

theorem witness_VectorRuns : imageOf (devV 2 0) 0 0 = some (imgOf 0) ∧ ({} : Tile).images = [] ∧ imgLen (imgOf 0) ≤ 2048 ∧
    findOp (withOp devT opEpi) epi0.op = some opEpi ∧ epi0.vals = none ∧ opEpi.phase ≠ .done ∧
    epi0.base + imgNeed opEpi.image ≤ 2 ^ 19 ∧
    (∃ t : Tile, t.epi = [epi0] ∧ t.idleVx = true ∧ t.holds opEpi.imgAddr (imgTagOf opEpi.image) = true) ∧
    issued (devV 1 (2 ^ 56)) 0 = some (opOf 0x30 [], 2 ^ 56) ∧ (getTile (devV 1 0) 0).run.kind = 1 ∧
    tfind 0 (getTile devN 0).xfers = some xfer0 ∧ findOp devN 1 = some { opOf 0x30 [] with phase := .running } ∧
    (0, 0) ∈ (getTile devN 0).outstanding ∧
    (∃ bs, readV devN (whoAt { opOf 0x30 [] with phase := .running } 0) ((parseTensor xfer0.record).lowLine + 64 * 0) 64 = .ok bs) ∧
    translate devN (whoAt { opOf 0x30 [] with phase := .running } 0) false ((parseTensor xfer0.record).lowLine + 64 * 0) =
      .phys 64 ∧ 64 < tier2Base := by
  and_intros
  all_goals first
    | decide +kernel
    | exact ⟨{ epi := [epi0], images := [(0, 0, 2)] }, by decide +kernel⟩
    | exact of_okOf (by decide +kernel)
theorem witness_VectorRuns_start : streamTiles (withOp devT (opOf 0x30 [])) (opOf 0x30 []) [0] = [0] ∧
    (opOf 0x30 []).fld 48 2 ≤ 1 ∧ physOf devT 0 = some 0 ∧ (getTile devT 0).run.kind = 0 ∧ (getTile devT 0).epi = [] ∧
    (getTile devT 0).xfers = [] ∧ (∃ t : Tile, t.run.kind = 0 ∧ t.epi = [] ∧ t.xfers = [] ∧
      (0, 0, imgLen (imgOf 0)) ∈ t.images) ∧ imageOf (devV 2 0) (opOf 0x30 []).imgAddr (imgTagOf (opOf 0x30 []).image) =
      some (imgOf 0) := by
  and_intros
  all_goals first
    | decide +kernel
    | exact ⟨{ images := [(0, 0, imgLen (imgOf 0))] }, by decide +kernel⟩
/-- The run that emitted it. -/
def run0 : VecRun := { kind := 1, op := 1, emitted := [0, 0, 0, 0], block := some epi0 }
theorem witness_VectorRuns_end : epi0.own = [{ op := 1, cols := 1 }] ∧ run0.emitted.length = 4 * (epi0.rows * epi0.cols) ∧
    opEpi.subKey = 0 ∧
    (∃ s1, deliverBlock 1 (blkKey opEpi.trans (epi0.share opEpi { op := 1, cols := 1 })) (epi0.share opEpi { op := 1, cols := 1 })
      (epiVals opEpi epi0 { op := 1, cols := 1 } run0) (withOp devT opEpi) = (none, s1)) := by
  and_intros
  all_goals first
    | decide +kernel
    | exact of_writes (by decide +kernel)

/-- A KV page whose entry stands at address 64, and an operation that waits for its lock. -/
def kv0 : KvPage := { asid := 0, entry := 64, seqId := 0, layer := 0, head := 0, page := 0, stack := 0, leaf := 4096, pieces := [4096] }

theorem witness_KvPagesLocksAndEngines : (opOf 0x21 []).fld 58 1 = 0 ∧ (opOf 0x21 [(58, 1)]).fld 58 1 = 1 ∧
    (opOf 0x21 []).kvPos + (opOf 0x21 []).kvCount ≤ 256 * ((opOf 0x21 []).kvPos / 256 + 0 / (opOf 0x21 []).sqHeads) ∧
    truncPages (opOf 0x21 [(58, 1)]) dev = [] ∧
    (opOf 0x21 [(58, 1)]).kvPos ≤ 256 * kv0.page ∧
    (∃ s1, writeRM (whoOf (opOf 0x21 [])) kv0.entry [0, 0, 0, 0, 0, 0, 0, 0] 2 dev = (none, s1)) ∧
    floeServes dev 0 = true ∧ 3 ∉ (getFloe dev 0).retired ∧
    (insertNat 3 [0, 1, 2]).length = 4 ∧ (insertNat 3 []).length < 4 := by
  and_intros
  all_goals first
    | decide +kernel
    | exact of_writes (by decide +kernel)
theorem witness_KvPagesLocksAndEngines_parts : ∃ o : Op, o.opc = 0x21 ∧ 0 < o.kvCount ∧ ∃ u,
    appendPart 1 o 0 0 { withOp dev o with memStacks := [] } = (false, u) :=
  ⟨{ opOf 0x21 [(52, 1)] with seqRec := leBytes 8 64 ++ leBytes 8 (2 ^ 8 + 2 ^ 32 * 2 ^ 8 + 2 ^ 48) ++ fill 48 0 },
    by decide +kernel, by decide +kernel, _, rfl⟩
theorem witness_KvPagesLocksAndEngines_lock : kv0.readers = [] ∧ kv0.writer = none ∧
    ({ kv0 with waiting := [(1, true)] } : KvPage).waiting = (1, true) :: [] := by decide

/-- ATTEND of one query. -/
def opAtt : Op := { opOf 0x20 [(74, 1)] with recs := [(1, recOf 64 0x11 [0, 1, 1, 1, 1])], seqRec := leBytes 8 64 ++ fill 56 0 }
theorem witness_AttentionAndOptimiserSteps : opAtt.opc = 0x20 ∧ opAtt.atQueries = 1 ∧
    (∃ s : State, ∃ k, attendPages s opAtt = [k] ∧ k.lost = true) ∧ attendPages (withOp dev opAtt) opAtt = [] ∧
    (∃ s : State, ∃ k, attendPages s opAtt = [k] ∧ k.lost = false ∧ (askLock k 1 false s).1 = false) ∧
    (∃ s : State, ∃ k, attendPages s opAtt = [k] ∧ k.lost = false ∧ (askLock k 1 false s).1 = true ∧
      okOf (readKvPage 1 opAtt k (askLock k 1 false s).2) = true) ∧
    (∃ qs, queryRows (withOp dev opAtt) opAtt 1 = .ok qs) ∧
    (∃ s2, attendWrite 1 opAtt [] (withOp dev opAtt) = .ok s2) ∧
    (opOf 0x28 []).opc = 0x28 ∧ ((opOf 0x28 []).tensor 1).count = 0 := by
  and_intros
  all_goals first
    | decide +kernel
    | exact ⟨{ dev with kv := [{ kv0 with lost := true }] }, { kv0 with lost := true }, by decide +kernel⟩
    | exact ⟨{ dev with ops := [opAtt, { opAtt with tag := 2 }], kv := [{ kv0 with writer := some 2 }] }, { kv0 with writer := some 2 }, by decide +kernel⟩
    | exact ⟨{ withOp dev opAtt with kv := [kv0] }, kv0, by decide +kernel⟩
    | exact of_okOf (by decide +kernel)
    | exact of_okOf (by decide +kernel)

/-- An operation on Turnstile 5 with N 1, of the current generation or of a named one. -/
def opTrn (opc gen : Nat) (cur : Bool) : Op :=
  opOf opc [(16, 5), (18, gen), (19, gen / 256), (20, 1), (22, b2n cur), (23, 0xFF)]

theorem witness_TurnstileOperations : (opTrn 0x48 0 true).trn = 5 ∧ (opTrn 0x48 0 true).trnN = 1 ∧
    (opTrn 0x48 0 true).curgen = true ∧ (opTrn 0x48 0 false).trnGen = (getTrn dev 5).gen ∧ (getTrn dev 5).waiters = [] ∧
    dev.trnHeld = [] ∧ dev.casc.formed = false ∧ (opTrn 0x4B 0 true).trnDev = 0xFF ∧ (getTrn dev 5).gen < 2 ^ 16 ∧
    genDone (opTrn 0x49 0xFFFF false).trnGen 0 = true ∧ genDone (opTrn 0x49 0 false).trnGen 0 = false ∧ dev.trns = [] ∧
    (getTrn dev 5).count ≤ (getTrn dev 5).arrived + 1 := by decide
/-- A device in a group with device 2, itself 1, the master. -/
def devM : State := { dev with casc := { formed := true, master := true, ownId := 1, masterId := 1, members := 6 } }
/-- The same with device 2 as the master. -/
def devF2 : State := { dev with casc := { formed := true, master := false, ownId := 1, masterId := 2, members := 6 } }

theorem witness_TurnstileOperations_peer : isMember devM 2 = true ∧ isMember devM 1 = false ∧
    (opOf 0x4B [(23, 2)]).trnDev = 2 ∧
    (∃ s : State, ∃ o w, findOp s 1 = some o ∧ o.phase = .waiting ∧ o.opc = 0x49 ∧ o.timeoutUs ≠ 0 ∧ waitHere s 1 = some w) := by
  and_intros
  all_goals first
    | decide +kernel
    | exact ⟨setTrn (withOp dev { opOf 0x49 [(24, 1)] with phase := .waiting }) 5 { waiters := [{ kind := 0, op := 1, gen := 0 }] }, { opOf 0x49 [(24, 1)] with phase := .waiting }, (5, 0, 0), by decide +kernel⟩
theorem witness_TurnstileRegisters : dev.st.ready = true ∧ isMirror dev 5 = false ∧ trnIdle dev 5 = true ∧
    trnIdle (setTrn dev 5 { count := 2, arrived := 1 }) 5 = false ∧ isMirror devF2 3840 = true ∧
    genDone 0 (getTrn devF2 3840).gen = false ∧
    ∃ (s : State) (z : Nat × Nat × Nat), (getWatcher s 0).enable = true ∧ (getWatcher s 0).fired = false ∧
      watchedQueues s (getWatcher s 0) = [0] ∧ queueBlocked s 0 = true ∧ queueWaits s 0 = [z] := by
  and_intros
  all_goals first
    | decide +kernel
    | exact ⟨setWatcher (setTrn (withOp devQ { opOf 0x49 [] with phase := .waiting }) 5 { waiters := [{ kind := 0, op := 1, gen := 0 }] }) 0 { enable := true }, (5, 0, 0), by decide +kernel⟩
/-! ### Witnesses: links, the group, the Midway, configuration, registers -/

/-- A device with link 1 up at full width. -/
def devL (x : CascLink) : State := setLink dev 1 x
/-- A flit of 256 bytes with a header. -/
def flitOf (h : Nat) : List Byte := leBytes 8 h ++ fill 240 0 ++ leBytes 8 (crc64 (leBytes 8 h ++ fill 240 0))

theorem witness_CascadeLinks_fail : (getLink (devL { up := true, width := 3 }) 1).up = true ∧ laneWorks 3 (15 % 8) = true ∧
    (([] : List Nat).filter (fun t => decide (0 < t + 1000000000))).length < 2 ∧
    2 ≤ (([1, 2] : List Nat).filter (fun t => decide (0 < t + 1000000000))).length ∧ dev.casc.formed = false ∧
    (getLink (devL { training := true, failRow := 1 }) 1).training = true ∧
    (getLink dev 7).up = false ∧ (getLink dev 7).failed = false ∧ (getLink dev 7).training = false ∧ 7 < numLinks dev.variant ∧
    bit dev.noc.errLog 63 = false ∧ linked dev.variant 0 1 = true := by decide +kernel
theorem witness_CascadeLinks_lost : ∃ s : State, ∃ o : Op, (getLink s 1).training = true ∧ s.casc.formed = true ∧
    s.casc.master = true ∧ otherMembers s = [2] ∧ bit 2 2 = false ∧ s.ops = [o] ∧ awaits s 2 o = true ∧ s.trnHeld = [] :=
  ⟨setLink (withOp devM { opOf 0x40 [(48, 0x10), (51, 2)] with phase := .waiting }) 1 { training := true },
    { opOf 0x40 [(48, 0x10), (51, 2)] with phase := .waiting }, by decide +kernel⟩
theorem flitOf_crc (h : Nat) : crc64 ((flitOf h).take 248) = fieldAt (flitOf h) 248 8 := by
  have e : (leBytes 8 h ++ fill 240 0).length = 248 := by simp
  rw [flitOf, List.take_append_of_le_length (by simp), List.take_of_length_le (by simp), fieldAt_append_right _ _ _ _ (by simp),
    e, fieldAt_leBytes]
  exact (Nat.mod_eq_of_lt (crc64_lt _)).symm

theorem witness_CascadeLinks_flits : (flitOf 1).length = 256 ∧
    crc64 ((flitOf 1).take 248) = fieldAt (flitOf 1) 248 8 ∧ flitHeaderOk 1 = true ∧ bit 1 28 = false ∧ bits 1 0 4 ≠ 0 ∧
    bits 1 4 12 = (getLink (devL { up := true }) 1).rxNext ∧ fieldAt (flitOf 1) 0 8 = 1 ∧
    crc64 ((fill 248 0 ++ leBytes 8 (crc64 (fill 248 0) + 1)).take 248) ≠
      fieldAt (fill 248 0 ++ leBytes 8 (crc64 (fill 248 0) + 1)) 248 8 := by
  refine ⟨by simp [flitOf], flitOf_crc 1, by decide, by decide, by decide, by decide, ?_, ?_⟩
  · rw [flitOf, List.append_assoc, fieldAt_append_left _ _ _ _ (by simp), fieldAt_leBytes]
    all_goals rfl
  · have e : (fill 248 0).length = 248 := by simp
    rw [List.take_append_of_le_length (by simp), List.take_of_length_le (by simp), fieldAt_append_right _ _ _ _ (by simp), e,
      fieldAt_leBytes]
    have := crc64_lt (fill 248 0)
    omega
theorem witness_CascadeLinks_scan : ∃ v : W64, bit v.toNat 63 = true ∧ bits v.toNat 46 2 ≠ 3 ∧
    bits v.toNat 48 7 = 8 ∧ 8 < 8 * numLinks dev.variant ∧ (getLink (devL { up := true, width := 3 }) (8 / 8)).up = true ∧
    laneWorks 3 (8 % 8) = true ∧ (getLink (devL { idle := true }) 1).idle = true := ⟨2 ^ 63 + 8 * 2 ^ 48, by decide +kernel⟩
theorem witness_GroupFormation : bit (0xC0001000 : W32).toNat 31 = true ∧ bit (0xC0001000 : W32).toNat 30 = true ∧
    bits (0xC0001000 : W32).toNat 12 2 = 1 ∧ shapeOk .full 1 [0, 1] (([⟨0, 1, 1, 3⟩] : List Wiring).map (fun w => w.ends)) = true ∧ shapeOk .full 1 [0, 1] [] = false ∧
    (sortNat [0, 0]).length < [0, 0].length ∧
    ∃ s : State, roleInUse s = 2 ∧ s.link.up = false ∧ s.st.ready = true := by
  and_intros
  all_goals first
    | decide +kernel
    | exact ⟨{ on with st := { on.st with strapRole := 2 } }, by decide⟩
theorem witness_MessagesInOrder : devM.casc.rxHeld = [] ∧ isMember devM 2 = true ∧
    tget (dflt 0) devM.casc.rxSeq (seqKey 2 0) = 0 ∧ 32768 ≤ (32768 + 2 ^ 16 - 0) % 2 ^ 16 ∧
    (32767 + 2 ^ 16 - 0) % 2 ^ 16 < 32768 ∧ (deliverMsg 2 (.trnRel 3840 0) devM).isSome = true ∧
    (∀ u, deliverMsg 2 (.trnRel 3840 0) devM = some u → u.casc.rxHeld = devM.casc.rxHeld) ∧
    deliverMsg 2 (.read 0 0 8 0 0) { devM with pages := [], link := {} } ≠ none ∧
    deliverMsg 2 (.read 0 0 8 0 0) { setCxl devM 0 { downSince := some 0 } with pages := [{ asid := 0, base := 0, len := 2 ^ 21, leaf := 21, kind := .tier2, rd := true, wr := true, phys := tier2Base }] } = none := by
  refine ⟨by decide, by decide, by decide, by decide, by decide, by decide +kernel, ?_, by decide +kernel, by decide +kernel⟩
  intro u h
  have : (deliverMsg 2 (.trnRel 3840 0) devM) = some devM := by decide +kernel
  rw [this] at h
  cases h
  rfl
theorem witness_MessagesTakeEffect : isMember devM 2 = true ∧ counterFree devM 2 0 = true ∧
    (∃ s1, writeRM (peerWho devM 2 0 0) (0 / 64 * 64 + 1) (([1, 2, 3] : List Byte).drop 1 |>.take 2) 3 devM = (none, s1)) ∧
    (∃ bs s1, readRM (peerWho devM 2 0 0) 64 8 3 devM = (.ok bs, s1) ∧ true = true) ∧
    (∃ st b, (readRM (peerWho devM 2 0 0) (2 ^ 40) 8 3 devM).1 = .error (.fault st b)) ∧
    devM.ops = [] ∧ isMirror devM 3840 = false ∧ isMirror devF2 3840 = true ∧ devF2.casc.masterId = 2 ∧ devM.casc.master = true ∧
    genDone 0 (getTrn devF2 3840).gen = false ∧ devM.trnHeld = [] ∧ devM.casc.rxSignals = [] ∧
    bindFunc (getGroup devM 0).active.bind = 0 ∧ bindFunc (getGroup devM 0).active.bind ≠ 1 ∧
    0 ≤ tget (dflt 0) devM.casc.rxBytes (chanKey 0 2) ∧ tget (dflt 0) devM.casc.rxBytes (chanKey 0 2) < 1 := by
  and_intros
  all_goals first
    | decide +kernel
    | exact of_writes (by decide +kernel)
    | exact of_readsAs (f := fun _ _ => true) (by decide +kernel)
    | exact ⟨_, _, rfl⟩
theorem witness_MessagesTakeEffect_answers : ∃ (s : State) (o : Op), s.ops = [o] ∧ o.phase = .waiting ∧ o.sent = [(0, 64)] ∧
    o.sentFlags = [] ∧ s.casc.acks = [(2, o.tag)] ∧ s.casc.reads = [(0, (o.tag, 64))] ∧ s.casc.sigOut = [(chanKey 0 2, o.tag)] ∧
    s.casc.trnOut = [(7, 0, o.tag)] :=
  ⟨{ withOp devM { opOf 0x40 [] with phase := .waiting, sent := [(0, 64)] } with casc := { devM.casc with
      acks := [(2, 1)], reads := [(0, (1, 64))], sigOut := [(chanKey 0 2, 1)], trnOut := [(7, 0, 1)] } },
    { opOf 0x40 [] with phase := .waiting, sent := [(0, 64)] }, by decide +kernel⟩

/-- PUT or GET of one element of format 0x10 at 64 to device 2, at address 128 there. -/
def opRma (kind gen : Nat) : Op :=
  { opOf 0x40 [(48, kind), (51, 2)] with
    gen, recs := [(1, recOf 64 0x10 [1, 1, 1, 1, 1]), (3, recOf 128 0x10 [1, 1, 1, 1, 1])] }
/-- What a PUT sends. -/
def putOut : Except Stop State :=
  let o := opRma 0x10 1
  deliverBy (sendWrites (o.begun (withOp devM o)) 0)
    (fun l fl k => updOp 1 (fun x => { x with sentFlags := x.sentFlags ++ [(0, (o.tensor 3).runPos l, fl, k)] })) 1 o.arith 0 0
    (o.tensor 3) [(.fin false 1 1, 0, noK)] (beginOp o (withOp devM o))

theorem witness_RemoteOperations : (opRma 0x10 0).ckind = 0x10 ∧ (opRma 0x11 0).ckind = 0x11 ∧
    ((opRma 0x10 1).tensor 3).count = 1 ∧ channelHeld devM 0 2 = false ∧
    (∃ v, loadElem (beginOp (opRma 0x10 1) (withOp devM (opRma 0x10 1))) (whoOf (opRma 0x10 1)) ((opRma 0x10 1).tensor 1)
      (((opRma 0x10 1).tensor 1).coords 0) = .ok v) ∧
    (match putOut with
      | .ok s1 => (match findOp s1 1 with
        | some y => decide (y.phase = .ready ∧ y.cursor = 0 ∧ y.sent ≠ [])
        | none => false)
      | .error _ => false) = true ∧ deliverLen ((opRma 0x10 1).tensor 3) 0 = 1 ∧
    ((opRma 0x11 1).tensor 3).allLines = [128] ∧ freeRtag devM = some 0 ∧ (opRma 0x12 0).ckind = 0x12 ∧
    fenceOf (.signal 0 0 5 1 0 true 8) = 8 ∧ fenceOf (.signal 0 0 5 1 0 true 0) ≤ 0 ∧
    0 < fenceOf (.signal 0 0 5 1 0 true 8) := by
  and_intros
  all_goals first
    | decide +kernel
    | exact of_okOf (by decide +kernel)

/-- A collective of devices 1 and 2 over one element of format 0x10. -/
def opColl (kind gen : Nat) : Op :=
  { opOf 0x40 [(48, kind), (49, 0), (50, 2), (51, 1), (52, 6), (58, 1)] with
    gen, recs := [(1, recOf 64 0x10 [1, 1, 1, 1, 1]), (2, recOf 128 0x10 [1, 1, 1, 1, 1])] }
/-- A part of it. -/
def collPart (dev fmt n : Nat) : CollPart := { dev, tag := 0, members := 6, fmt, count := n, codes := [0] }
/-- The device when these parts have come. -/
def withParts (l : List CollPart) : State := { devM with casc := { devM.casc with parts := l } }

theorem witness_Collectives : (opColl 0 0).opc = 0x40 ∧ (∀ k, k < 4 → (opColl k 0).ckind = k) ∧
    (opColl 0 0).memberIds = [1, 2] ∧ partOf devM (opColl 0 0) 2 = none ∧
    (∃ p, ownPart (beginOp (opColl 0 0) devM) (opColl 0 0) = .ok p) ∧ (match ownPart (beginOp (opColl 0 0) devM) (opColl 0 0) with
      | .ok (p, fls) => decide (p.dev = devM.casc.ownId) && fls.all (fun x => x = 0)
      | .error _ => false) = true ∧ (1, (opColl 0 0).collTag, (opColl 0 0).memberMask) ∉ devM.casc.late ∧
    allParts (withParts [collPart 1 2 1, collPart 2 2 1]) (opColl 0 1) = some [collPart 1 2 1, collPart 2 2 1] ∧
    (∃ p ∈ [collPart 1 2 1, collPart 2 partEnded 1], p.fmt = partEnded) ∧
    countsAgree [collPart 1 2 1, collPart 2 2 2] = false ∧ countsAgree [collPart 1 2 1, collPart 2 2 1] = true ∧
    (∀ p ∈ [collPart 1 2 1, collPart 2 2 1], p.fmt ≠ partEnded) ∧ (opColl 0 1).isColl = true ∧ (opColl 0 1).collUs ≠ 0 ∧
    allParts (withParts [collPart 1 2 1]) (opColl 0 1) = none := by
  and_intros
  all_goals first
    | decide +kernel
    | exact of_okOf (by decide +kernel)

/-- A FABRIC operation of a kind on port 3, with FOPT 0x10, on one element of that format at 64. -/
def opFab (kind : Nat) : Op :=
  { opOf 0x38 [(36, 3), (38, kind), (39, 0x10), (32, 1)] with recs := [(1, recOf 64 0x10 [1, 1, 1, 1, 1])] }
/-- A port's words. -/
def word0 : PortWord := { data := 0x3F80, keep := 3, last := true }
/-- A device with port 3's chain configured. -/
def devP (x : MidPort) : State := setPort dev 3 { x with blocks := 1, words := 4 }

theorem witness_FabricOperations : (opFab 1).target = 3 ∧ (opFab 1).fopt = 0x10 ∧ (opFab 1).fopt ≠ 0 ∧
    portFree (withOp (devP {}) (opFab 1)) (opFab 1) 3 = true ∧ ((opFab 1).tensor 1).count = 1 ∧
    isT ((opFab 1).tensor 1).format = false ∧ (chainBytes [{ word0 with keep := 0xFF }]).1.length = 8 ∧ 0 < fmtBytes 0x10 ∧
    fmtBytes 0x10 ≤ 8 ∧ ({ words := 4 } : MidPort).full = false ∧
    (∃ x, outBytes (holdPort (opFab 2) 3 (beginOp (opFab 2) (withOp (devP {}) (opFab 2)))) ((opFab 2).begun (withOp (devP {}) (opFab 2)))
      ((opFab 2).tensor 1) 1 0 = .ok x) ∧
    (∃ x, deliver 1 (whoOf ((opFab 1).begun (withOp (devP {}) (opFab 1)))) 0 0 0 ((opFab 1).tensor 1) [(.fin false 1 1, 0, noK)]
      (holdPort (opFab 1) 3 (beginOp (opFab 1) (withOp (devP {}) (opFab 1)))) = .ok x) ∧ (getPort (devP {}) 3).pushing = [] ∧
    (opFab 1).fabricUs ≠ 0 ∧ (getUserLane dev 3).training = none ∧
    (getUserLane (setUserLane dev 3 { training := some 1 }) 3).training = some 1 := by
  and_intros
  all_goals first
    | decide +kernel
    | exact of_okOf (by decide +kernel)
    | exact of_okOf (by decide +kernel)
/-- A cell with every input a constant. -/
def cell0 (carry : Bool) : Cell :=
  let one : Wire := .const true
  ⟨carry, List.replicate 8 one, List.replicate 3 one, List.replicate 8 one, List.replicate 3 one, one, .chain⟩

theorem witness_QueuesMemoryAndLatches : (getPort (devP {}) 3).blocks ≠ 0 ∧ portHolder (devP {}) 3 = none ∧
    (∀ e ∈ (devP {}).tiles, e.2.run.kind ≠ 2) ∧ (getPort (devP {}) 3).full = false ∧
    (getPort (devP { chain := [word0, word0, word0, word0], drop := true }) 3).full = true ∧
    (getPort (devP { chain := [word0, word0, word0], drop := true }) 3).full = false ∧
    (∃ bs s1, portAccess {} { who := some {}, addr := 64, len := 8, write := false, data := [], enables := 0 } dev = (.ok bs, s1) ∧
      decide (s1.ops = []) = true) ∧
    (∃ s : State, s.mid.loaded = true ∧ 0 < numBlocks s.variant ∧ 8191 < 2 ^ (13 - 0) ∧ 639999 < numCells s.variant ∧
      (∃ d s1, settled (wireVal s [] (fun _ => true) (numCells s.variant + 1) 639999 (.cell 639999)) s = (d, s1)) ∧
      tget (dflt (false, false)) s.mid.latches 639999 = (false, false) ∧
      tget (dflt (false, false)) s.mid.latches 0 = (true, true)) ∧
    (getPort (devP { chain := [word0] }) 3).pushing = [] ∧ ({ pushing := [], credits := 0 } : MidPort).pushing.length < max 1 0 ∧
    (∃ (v : Wire → Option Bool) (c : Cell), muxVal v c.a c.sa = some true ∧ muxVal v c.b c.sb = some true ∧ c.carry = false ∧
      v c.x = some true) ∧
    (∃ (v : Wire → Option Bool) (c : Cell), muxVal v c.a c.sa = some true ∧ muxVal v c.b c.sb = some true ∧ c.carry = true ∧
      v c.cin = some true) := by
  and_intros
  all_goals first
    | decide +kernel
    | exact of_readsAs (f := fun _ s1 => decide (s1.ops = [])) (by decide +kernel)
    | exact ⟨{ mid := { loaded := true, latches := [(0, true, true)] } }, by decide, by decide, by decide, by decide, ⟨_, _, rfl⟩, by decide, by decide⟩
    | exact ⟨fun _ => some true, cell0 false, by decide⟩
    | exact ⟨fun _ => some true, cell0 true, by decide⟩
theorem witness_PinsPacersAndLanes : 23 < numBanks dev.variant * 24 ∧ (getPin dev 23).level ≠ true ∧
    (∃ s : State, s.mid.loaded = true ∧ bankOn s 0 = true ∧ (getPacer s 0).running = true ∧ (getUserLane s 0).up = true ∧
      (getUserLane s 0).rx.length - 0 < 64 ∧ 64 ≤ (getUserLane s 1).rx.length - 0 ∧ (getUserLane s 1).up = true) := by
  and_intros
  all_goals first
    | decide +kernel
    | exact ⟨{ mid := { loaded := true, banks := [(0, 1800)], pacers := [(0, { running := true })], lanes := [(0, { up := true }), (1, { up := true, rx := List.replicate 64 0 })] } }, by decide⟩

/-- A staged configuration. -/
def cfg0 : CfgStream := { version := 5 }
/-- A device with it staged as number 1. -/
def devC (o : Op) : State := { withOp dev o with cfg := { staged := some cfg0, stageId := 1 } }

theorem witness_ConfigurationStreams : (takeArea { dev with cfg := { dev.cfg with staged := none, stageArea := some 0 } }).isSome = true ∧
    (∃ bs s1, copyMem (opOf 0x60 [(24, 64)]) 0 64 dev = (.ok bs, s1) ∧ (!okOf (checkStream s1 bs)) = true) ∧
    (opOf 0x61 [(20, 1)]).cApply = true ∧ (opOf 0x61 [(20, 1)]).cStore = false ∧ (opOf 0x61 [(20, 2)]).cStore = true ∧
    (opOf 0x61 [(20, 2)]).cGolden = false ∧ (devC (opOf 0x61 [])).cfg.staged = some cfg0 ∧ cfg0.firmware = false ∧
    cfg0.partly = false ∧ (opOf 0x61 [(16, 2)]).fld 16 4 ≠ (devC (opOf 0x61 [])).cfg.stageId ∧
    midwayOnly cfg0 = true ∧ othersRun (devC (opOf 0x61 [])) 1 = false ∧ (opOf 0x61 [(24, 1)]).fld 24 4 ≠ 0 ∧
    othersRun { dev with ops := [{ opOf 1 [] with tag := 2, started := true }] } 1 = true := by
  and_intros
  all_goals first
    | decide +kernel
    | exact of_readsAs (f := fun bs s1 => !okOf (checkStream s1 bs)) (by decide +kernel)
theorem witness_Security : bit (0x80000000 : W32).toNat 31 = true ∧ on.cfg.running.svn ≤ on.cfg.fuseSvn ∧
    on.cfg.scrubOn = true ∧ on.cfg.applying = none ∧ essentialBit on (frameKey 0 0 (10239 / 10240)) (10239 % 10240) = true ∧
    (∃ s : State, essentialBit s (frameKey 0 0 0) 0 = false) ∧ (0xE0 : Nat) ∈ spdmSupported ∧ (0 : Nat) ∉ spdmSupported ∧
    (0x84 : Nat) ∈ spdmSupported ∧ (0x84 : Nat) ∉ ([0x81, 0x82, 0xE0] : List Nat) ∧
    ideCount on 0 < 4 ∧ (getSlot on 3).written = false ∧
    (∃ s : State, s.st.standbyDone = true ∧ s.cfg.provision = true ∧ s.cfg.fuseSvn < s.cfg.running.svn) := by
  and_intros
  all_goals first
    | decide +kernel
    | exact ⟨{ mid := { masks := [(frameKey 0 0 0, fill 1280 0)] } }, by decide⟩
    | exact ⟨{ on with cfg := { provision := true, running := { svn := 1 } } }, by decide⟩
theorem witness_Registers : on.st.standbyDone = true ∧ on.st.ready = true ∧ bit (0x80005A17 : W64).toNat 31 = true ∧
    bits (0x80005A17 : W64).toNat 0 16 = 0x5A17 ∧ smbusReach 0x3FFFC = true ∧ smbusReach 0x40000 = false ∧
    on.dropped.count < 2 ^ 32 ∧ accessOk 4 8 = false ∧ accessOk 4 4 = true ∧ (getGroup on 4095).shadow.qtable < 2 ^ 64 ∧
    (getGroup on 4095).mmuBase < 2 ^ 48 ∧ (getGroup on 4095).mmuBase % 4096 = 0 ∧
    (∃ v t, bar0Read 0 0xB0008 4 on = (v, t)) := by
  and_intros
  all_goals first
    | decide +kernel
    | exact ⟨_, _, rfl⟩

/-! ### Witnesses: further clauses -/

theorem witness_PowerInputs_ledger : (iceBest on.ice).commitSeq ≤ on.ice.now.commitSeq ∧ chooseFirmware on ≠ none ∧
    (∃ d ∈ [0], d < numDies on.variant) ∧ (∃ x ∈ hottest [(0, 115)], 115 ≤ x.2) := by decide +kernel
theorem witness_MoraineCommands_clear : inBar2 dev (bits (2 ^ 63 : W64).toNat 6 42 * 64) 304 = true ∧ copyBusy dev 3 = false ∧
    copyBusy dev 0 = false ∧ dev.st.standbyDone = true ∧ bit (2 ^ 63 : W64).toNat 63 = true ∧
    ∃ b s1, readRM (copyWho 0x0700) 0 304 3 dev = (.ok b, s1) ∧ decide ((judgeToken s1 b).1 ≠ 0) = true := by
  and_intros
  all_goals first
    | decide +kernel
    | exact of_readsAs (f := fun b s1 => decide ((judgeToken s1 b).1 ≠ 0)) (by decide +kernel)
theorem witness_MemoryRequests_waits : bit mem.noc.errLog 63 = false ∧
    (∃ s : State, (getCxl s 0).up = false ∧ (getCxl s 0).downSince ≠ none) ∧ ∃ s : State, bit s.noc.errLog 63 = true := by
  and_intros
  all_goals first
    | decide +kernel
    | exact ⟨setCxl on 0 { downSince := some 0 }, by decide +kernel⟩
    | exact ⟨{ noc := { errLog := 2 ^ 63 } }, by decide +kernel⟩
theorem witness_IssueSlot_lost : ∃ (s : State) (r : MemReq), (getStack s 0).reqs = [r] ∧ (getStack s 0).banks = [] ∧
    (getStack s 0).ingress = [] ∧ localOf s r.addr = some (0, 0, 0) ∧ r.op = none ∧ r.addr < tier2Base ∧ r.write = false ∧
    r.lost = true :=
  ⟨setStack mem 0 { present := true, reqs := [{ read0 with lost := true }] }, { read0 with lost := true }, by decide +kernel⟩
/-- A device whose queue group 0 waits for its table at an address, with a snapshot. -/
def devTable (a : Nat) : State :=
  { on with groups := [(0, { getGroup on 0 with snapshot := some ⟨0, 0, 0⟩, tableWait := some a })] }
/-- Whether a read stops at a fault that may still resolve, or at one that is final. -/
def stops (r : Except Stop (List Byte) × State) (waits : Bool) : Bool := match r.1 with
  | .error (.wait _ _) => waits
  | .error (.fault _ _) => !waits
  | _ => false
/-- A device whose first 2 MiB lie behind a CXL link that retrains. -/
def devCxl : State := { setCxl on 0 { downSince := some 0 } with
  pages := [{ asid := 0, base := 0, len := 2 ^ 21, leaf := 21, kind := .tier2, rd := true, wr := true, phys := tier2Base }] }
theorem witness_QueueGroupCommits_table : stops (readRM (bindWho (getGroup devG 0).shadow.bind) 0 32 3
      (setGroup devCxl 0 (getGroup devG 0))) true = true ∧
    stops (readRM (bindWho (getGroup devG 0).shadow.bind) 0 32 3 { devG with pages := [] }) false = true ∧
    ∃ o : Op, o.queue = 64 * 0 + 63 ∧ o.phase ≠ .done ∧ ({ on with ops := [o] } : State).trnHeld = [] :=
  ⟨by decide +kernel, by decide +kernel, { opOf 0 [] with queue := 63 }, by decide⟩
theorem witness_HostTraffic_timer : ∃ s : State, (getQueue s 0).irqCount ≠ 0 ∧ (getQueue s 0).irqTime ≠ 0 ∧
    (getQueue s 0).entry.irqEn = true ∧ s.bar2Waits = [] ∧ s.st.standbyDone = true ∧ (0 = 0 ∨ 0 ≤ (getFunc s 0).numVfs) :=
  ⟨setQueue on 0 { queue16 with entry := { queue16.entry with irqEn := true }, irqCount := 1, irqTime := 5 }, by decide +kernel⟩
theorem witness_HostTraffic_wait : stops (readRM bar2Who 0 64 (2 * (64 / 2 ^ 21 + 2)) devCxl) true = true ∧
    devCxl.st.ready = true ∧ devCxl.bar2Waits = [] := by decide +kernel
theorem witness_HostLinkStates_table : (devTable (2 ^ 63)).groups = [(0, { getGroup on 0 with
      snapshot := some ⟨0, 0, 0⟩, tableWait := some (2 ^ 63) })] ∧ isHost (2 ^ 63) = true ∧ on.ops = [] ∧ on.queues = [] ∧
    on.mid.ports = [] ∧ (∀ e ∈ on.groups, e.2.tableWait = none) ∧ opHost.phase = .suspended ∧ isHost opHost.faultAddr = true ∧
    opHost.opc ≠ 0x10 ∧ opHost.opc ≠ 0x12 ∧ opHost.result.status = 0 := by decide +kernel
theorem witness_HostTranslations_dies : (∃ d, d ∈ diesOnHost on 0 0 0 ∨ (diesOnHost on 0 0 0 = [] ∧ d = on.st.rmDie)) ∧
    (∃ s : State, ∃ d ∈ diesOnHost s 0 0 0, d < numDies s.variant) ∧ (∀ e ∈ on.groups, e.2.tableWait = none) := by
  and_intros
  all_goals first
    | decide +kernel
    | exact ⟨0, by decide +kernel⟩
    | exact ⟨{ on with ops := [opHost] }, 0, by decide +kernel⟩
theorem witness_CompletesInOrder_place : findOp (killRuns 1 (withOp devQ (opDone 0))) 1 = some (opDone 0) ∧
    findOp (killRuns 1 (withOp devQ { opDone 0 with closing := 0 })) 1 = some { opDone 0 with closing := 0 } ∧
    (getQueue devQ 0).ringFailed = false ∧ (getQueue devQ 0).waitAddr = none ∧
    3 ≤ (opDone 0).closing ∧ (∀ y ∈ (withOp devQ (opDone 0)).ops, y.queue = 0 → y.closing < 3 ∨ (opDone 0).closing ≤ y.closing) := by
  decide +kernel
/-- The same with a priority, and waiting for memory. -/
def opBack (tag prio : Nat) : Op := { opSusp 0 with tag, prio, wait := some .backing }
theorem witness_FaultsResolve_order : resolvesNext (opSusp 0) (withOp dev (opSusp 0)) = true ∧
    ∃ s : State, s.ops = [opBack 1 2, opBack 2 1] ∧ findOp s 1 = some (opBack 1 2) ∧ findOp s 2 = some (opBack 2 1) ∧
      resolvesNext (opBack 1 2) s = true ∧ translate s (whoOf (opBack 2 1)) (opBack 2 1).waitWrite (opBack 2 1).faultAddr =
        .wait .backing :=
  ⟨by decide +kernel, { devOf .reserved with ops := [opBack 1 2, opBack 2 1] }, by decide +kernel⟩
theorem witness_ElementOps_slots : opFill.slotFree fillState = true ∧ opFill.old = [] ∧
    (opOf 0 []).slotFree (withOp dev (opOf 0 [])) = true ∧
    ∃ s : State, ∃ o : Op, findOp s 1 = some o ∧ o.slotFree s = false ∧ o.opc = 1 :=
  ⟨by decide +kernel, by decide +kernel, by decide +kernel, { devT with
    tiles := [(0, { st := 0, logical := some 0, xfers := (List.range 16).map (fun i =>
      (i, { op := 9, ctr := 0, record := [], fmt := 0, first := 0, last := 0, cursor := 0 })) })]
    ops := [{ opOf 1 [] with recs := [(1, recOf 64 0x11 [1, 1, 1, 1, 1]), (2, recOf (2 ^ 63) 0x11 [1, 1, 1, 1, 1])] }] },
    { opOf 1 [] with recs := [(1, recOf 64 0x11 [1, 1, 1, 1, 1]), (2, recOf (2 ^ 63) 0x11 [1, 1, 1, 1, 1])] }, by decide +kernel⟩

/-- TILEPROG of priority 1 on tile 0, which a run of operation 2 holds. -/
def devGives : State := { devS with
  tiles := [(0, { st := 0, logical := some 0, run := { kind := 2, op := 2, winSize := 8 } })]
  ops := [{ opOf 0x30 [] with prio := 1 }, { opOf 0x30 [] with tag := 2, phase := .running }] }
/-- MATMUL of priority 1, with the one partition of tile 0 in use. -/
def devGivesPart : State := { devQ1 with ops := [{ opMat with prio := 1, tiles := [0] }] }
/-- CONVERT within stack 0. -/
def opConv : Op := { opOf 2 [] with recs := [(1, recOf 64 0x10 [1, 1, 1, 1, 1]), (2, recOf 128 0x10 [1, 1, 1, 1, 1])] }
/-- CONVERT of priority 1, with the engines of stack 0 held by others. -/
def devGivesEngine : State := { dev with
  floe := [(0, {})]
  ops := { opConv with prio := 1 } ::
    (List.range 4).map (fun i => { opConv with tag := 2 + i, phase := .suspended, started := true, onFloe := some 0 }) }
/-- A saved stream run whose image is resident in tile 0. -/
def devResume : State := { devV 2 0 with
  contexts := [{ ctx1 with run := some (getTile (devV 2 0) 0).run }]
  tiles := [(0, { st := 0, logical := some 0, images := [(0, 0, 2)] })] }
theorem witness_SavedContexts_victims : givesWay 1 devGives (.stream 0, 2) = true ∧
    contextFits devGives 0 (takeStream devGives 0).1 = true ∧ givesWay 1 devGivesPart (.part 0 0, 0) = true ∧
    ringAt devGivesPart 0 = none ∧ contextFits devGivesPart 0 (takePart devGivesPart 0 0).1 = true ∧
    givesWay 1 devGivesEngine (.engine 0, 2) = true ∧ (getFloe devGivesEngine 0).buffer.length < 8 ∧
    numPhys devGivesEngine.variant ≤ 288 ∧ (∀ u ∈ runUnits devGivesEngine, ∃ k, u.1 = .engine k) ∧
    (∀ u ∈ runUnits dev, givesWay 7 dev u = false) ∧ copyBusy devT 2 = false := by
  and_intros
  all_goals first
    | decide +kernel
    | intro u hu
      have h : runUnits devGivesEngine = (List.range 4).map (fun i => (.engine 0, 2 + i)) := by decide +kernel
      rw [h] at hu
      simp at hu
      obtain ⟨i, -, rfl⟩ := hu
      exact ⟨0, rfl⟩
theorem witness_SavedContexts_resume : ∃ c r, devResume.contexts[0]? = some c ∧ c.run = some r ∧ c.kind = 1 ∧ c.partn = none ∧
    c.faulted devResume = false ∧ firstToResume (fun x => x.faulted devResume) devResume.contexts 0 c = true ∧
    physOf devResume c.tile = none ∧ (getTile devResume 0).xfers.length + c.xfers.length ≤ 16 ∧
    (getTile devResume 0).run.kind = 0 ∧ (loadImage { devResume with contexts := [] } r.imgAddr r.imgTag (getTile devResume 0)).holds
      r.imgAddr r.imgTag = true := ⟨_, _, rfl, rfl, by decide +kernel⟩
theorem witness_PlacementHints_slot : (opHint 3).slotFree (withOp dev (opHint 3)) = true ∧ (opHint 3).result.status = 0 ∧
    (opHint 4).fld 16 1 = 4 ∧ (opHint 1).fld 16 1 = 1 := by decide +kernel
theorem witness_Migration_reads : (⟨0, 0, tier2Base, 2 ^ 21, true, 0, 1⟩ : Migration).readable mem = true ∧ copyBusy on 1 = false ∧
    (copyOut (copyWho 0x0500) 2 0 [] on).1 = none ∧ (getTile devT 0).hist.length < 999 ∧ devT.st.auxOn = true := by
  decide +kernel
theorem witness_VectorRuns_slots : (opOf 0x30 []).slotFree (withOp devT (opOf 0x30 [])) = true ∧ (opOf 0x30 []).gen = 0 ∧
    (opOf 0x30 []).binds = [] ∧ streamTiles (beginOp (opOf 0x30 []) (withOp devT (opOf 0x30 []))) (opOf 0x30 []) [0] = [0] ∧
    (match translate { dev with link := { up := true, flit := true } } (whoAt (opOf 0x30 []) 0) false (2 ^ 63) with
      | .host _ => true
      | _ => false) = true := by decide +kernel

/-- A truncation to position 0 of a sequence whose record names one head, one page and 256 layers. -/
def opTrunc : Op :=
  { opOf 0x21 [(58, 1)] with seqRec := leBytes 8 64 ++ leBytes 8 (2 ^ 8 + 2 ^ 32 * 2 ^ 8 + 2 ^ 48) ++ fill 48 0, asid := 0 }
theorem witness_KvPagesLocksAndEngines_slot : (opOf 0x21 []).slotFree (withOp dev (opOf 0x21 [])) = true ∧
    (∃ (s : State) (k : KvPage), truncPages opTrunc s = [k] ∧
      (askLock ((kvAt s k.asid k.entry).getD k) 1 true s).1 = true ∧
      (truncPage opTrunc k (askLock ((kvAt s k.asid k.entry).getD k) 1 true s).2).1 = none) ∧
    (floeServes dev 0 = false ∨ 4 ≤ 4 ∨ 4 ∈ (getFloe dev 0).retired) := by
  and_intros
  all_goals first
    | decide +kernel
    | exact ⟨{ withOp dev opTrunc with kv := [kv0] }, kv0, by decide +kernel⟩
/-- Four other parts hold the engines of stack 0. -/
def devBusy : State := { dev with
  ops := (List.range 4).map (fun i => { opAtt with tag := 2 + i, phase := .suspended, started := true, onFloe := some 0 }) }
theorem witness_AttentionAndOptimiserSteps_engines : opAtt.slotFree (withOp dev opAtt) = true ∧
    (∃ s : State, attendFloe s opAtt 0 = true ∧ floeFree s 0 1 = false) ∧
    (∃ s : State, attendFloe s opAtt 0 = true ∧ floeFree s 0 1 = true) ∧
    (opOf 0x28 []).slotFree (withOp dev (opOf 0x28 [])) = true := by
  and_intros
  all_goals first
    | decide +kernel
    | exact ⟨withOp dev opAtt, by decide +kernel⟩
    | exact ⟨devBusy, by decide +kernel⟩
theorem witness_TurnstileOperations_slot : (opTrn 0x48 0 true).slotFree (withOp dev (opTrn 0x48 0 true)) = true ∧
    (opTrn 0x49 1 true).slotFree (withOp dev (opTrn 0x49 1 true)) = true ∧
    ∃ (s : State) (w : Waiter) (p : Peer), s.trns = [(5, { waiters := [w] })] ∧ w.peer = some p ∧ s.trnHeld = [] :=
  ⟨by decide +kernel, by decide +kernel, { dev with trns := [(5, { waiters := [{
    kind := 0, gen := 0, peer := some { dev := 2, byOp := true, mark := 0, queue := 0 } }] })] }, _, _, rfl, rfl, rfl⟩

/-- Lane 9 fails while its link is up; a scan of it runs. -/
def devScan : State := { devL { up := true, width := 3 } with casc := { (devL { up := true, width := 3 }).casc with eyeBusy := some (9, 0, 2 ^ 20) } }
theorem witness_CascadeLinks_lanes : aligned dev 1 3 = true ∧ devScan.casc.eyeBusy = some (9, 0, 2 ^ 20) ∧
    (getLink devScan 1).up = true ∧ laneWorks (getLink devScan 1).width (9 % 8) = true ∧
    aligned (setLane dev 8 { markerSeen := 1 }) 1 3 = false ∧ aligned (setLane dev 8 { markerSeen := 1 }) 1 (1 + 1) = true ∧
    (getLink (devL { training := true, failRow := 0 }) 1).txQueue = [] ∧ isNode dev.variant 0 = true ∧
    (getLink (devL { up := true, owed := true }) 1).owed = true ∧
    (getLink (devL { idle := true, owed := true }) 1).txQueue = [] ∧ (getLink dev 1).rxIdle = false ∧
    (getLink (devL { up := true, rxIdle := true }) 1).rxIdle = true ∧
    (∀ i < 8, (getLane dev (8 * 1 + i)).codewordBad = false) ∧ ({} : CascLink).txBuf.length < 1024 := by decide +kernel
theorem witness_GroupFormation_follower : ∃ (s : State) (m : Mirror), s.st.ready = true ∧ roleInUse s = 2 ∧
    s.casc.formed = false ∧ s.casc.left = false ∧ formResult s [(3, 1, s.cfg.running.proto)] [(0, 3)] = 0 ∧ 3840 ≤ m.trn ∧
    (∀ p ∈ ([(3, 1, s.cfg.running.proto)] : List (Nat × Nat × Nat)), p.2.1 = 1 ∨ p.2.1 = 2) ∧
    bits (0x40003000 : W32).toNat 12 2 = 3 ∧ bit (0x40003000 : W32).toNat 30 = true :=
  ⟨{ on with st := { on.st with strapRole := 2 } }, { trn := 3840, gen := 5, count := 2, owner := 1, remote := true, arrived := 1 },
    by decide +kernel⟩
theorem witness_Messages_open : bit devM.noc.errLog 63 = false ∧ devM.casc.rxSignals = [] ∧ channelWaits devM 2 0 = false ∧
    ∃ x : Turnstile, x.remote = true ∧ x.owner = 0 ∧ x.waiters = [] ∧ x.arrived + 1 < x.count :=
  ⟨by decide, by decide, by decide +kernel, { remote := true, count := 2 }, by decide⟩
theorem witness_RemoteOperations_slot : (opRma 0x11 1).slotFree (withOp devM (opRma 0x11 1)) = true ∧
    ∃ (s : State) (m : CascMsg), s.casc.rxSignals = [(chanKey 0 2, m)] ∧ s.casc.rxHeld = [] ∧ channelWaits s 2 0 = false ∧
      fenceOf m ≤ tget (dflt 0) s.casc.rxBytes (chanKey 0 2) :=
  ⟨by decide +kernel, { devM with casc := { devM.casc with rxSignals := [(chanKey 0 2, .signal 0 0 5 1 0 true 0)] } },
    .signal 0 0 5 1 0 true 0, by decide +kernel⟩
theorem witness_FabricOperations_ports : portServes (devP {}) 3 (fabricDir 1) = false ∧
    portServes { devP { dir := 1 } with mid := { (devP { dir := 1 }).mid with loaded := true } } 3 (fabricDir 1) = true ∧
    (opFab 1).slotFree (withOp (devP {}) (opFab 1)) = true ∧ (0 < (opFab 2).portElem ((opFab 2).tensor 1)) ∧
    (opFab 2).portElem ((opFab 2).tensor 1) ≤ 8 := by decide +kernel
theorem witness_ConfigurationStreams_areas : (∃ s : State, ∃ x, roleStream s 1 = some x) ∧
    (opOf 0x60 []).slotFree (withOp dev (opOf 0x60 [])) = true ∧ (opOf 0x61 [(20, 2)]).cApply = false ∧ cfg0.partly = false := by
  and_intros
  all_goals first
    | decide +kernel
    | exact ⟨{ cfg := { areas := [((State.reset.cfg.roles.getD 1 0), cfg0)] } }, cfg0, by decide +kernel⟩

/-! ### Well-formedness: an ill-formed term for each check -/

theorem test_wf_refuses1 : ([
    .standbyPowerOn 4 0 .good, .standbyPowerOn 0 16 .good, .functionLevelReset 64, .read32 (2 ^ 32) false,
    .read64 (2 ^ 32) false, .setCap (2 ^ 16) false, .smbusReset (2 ^ 16) false .good, .thermalComparatorTrip 0 119,
    .registerWrite 64 0 0 0 .good (0, 0), .registerWrite 0 (2 ^ 26) 0 0 .good (0, 0), .registerReadClear 64 0 0,
    .registerReadClear 0 (2 ^ 26) 0, .bar2Read 0 0, .bar2Read (2 ^ 36) 1, .bar2Write 0 [], .bar2Write (2 ^ 36) [0],
    .submissionDoorbell 64 0 0 0, .submissionDoorbell 0 262144 0 0, .submissionDoorbell 0 0 0 (2 ^ 63),
    .completionHeadDoorbell 64 0 0 (2 ^ 63), .completionHeadDoorbell 0 262144 0 (2 ^ 63),
    .completionHeadDoorbell 0 0 0 0, .interruptTimer 262144, .vectorUnmask 64 0, .vectorUnmask 0 2048,
    .qgpCommit 4096, .qgpApply 4096, .qgpAbort 4096 0, .reserve 4096 0 false false, .reserve 0 4 false false,
    .release 4096 0, .release 0 4, .unmap 4096 0, .unmap 0 4, .protect 4096 0 false false, .protect 0 4 false false] :
    List Instr).all (fun i => !i.wellFormed) = true := by decide +kernel
theorem test_wf_refuses2 : ([
    .mmuCmdDone 4096, .iwinCommit 16, .iwinApply 16, .laneLock 16, .put 0 [] 256, .get 0 [] 256, .fenceRelease 16 0,
    .fenceRelease 0 262144, .groupGenBroadcast 3839 0, .groupGenBroadcast 4096 0, .groupGenBroadcast 3840 65536,
    .trnCfgWrite 4096 0, .setCount 4096 0, .setCount 0 65536, .setGen 4096 0, .setGen 0 65536, .completeGen 4096 0,
    .completeGen 0 65536, .deadlockFire 4, .spdmRequest 256 0 [], .spdmRequest 0 256 [],
    .ideKmKeyProgram 64 0 false false, .ideKmKeyProgram 0 256 false false, .writeKeySlot 4 0 0 false,
    .revokeSlot 4 false, .migrationDone 4096 0 false, .acc 288 0 [] [], .accDrain 288 0 [] [], .drain 288 0 [], .setMode 288 0 [],
    .check 288 0 [] [], .drainEnd 288 0, .drainEnd 0 4, .multicastPrune 0 256, .shardArrive 4096 0,
    .readResponse 288 0 0 false] :
    List Instr).all (fun i => !i.wellFormed) = true := by decide +kernel
theorem test_wf_refuses3 : ([
    .readResponse 0 16 0 false, .priResponse 64 0 0 0 false false, .priTimeout 64 0 0, .atsInvalidate 64 0 0 0 0,
    .preempt 320 0 false 0, .preempt 0 4 false 0, .preempt 0 0 false 8, .resume 0 288 false, .imageLoad 288 0 0,
    .epilogueRunStart 288, .swaitResume 288, .vxNop 288, .halt 288, .jmp 288, .bnz 288, .loop 288, .swait 288,
    .srel 288, .vemit 288, .smovi 288, .smovh 288, .sadd 288, .radv 288, .vld 288, .vst 288, .vmovs 288, .vperm 288,
    .vadd 288, .vsub 288, .vmul 288, .vfma 288, .vmax 288, .vmin 288, .vcmp 288, .vsel 288, .vaddh 288] :
    List Instr).all (fun i => !i.wellFormed) = true := by decide +kernel
theorem test_wf_refuses4 : ([
    .vmulh 288, .vfmah 288, .vcvt 288, .vred 288, .vexp2 288, .vlog2 288, .vrcp 288, .vrsqrt 288, .qadd 288,
    .qsub 288, .qmul 288, .qmac 288, .qmsu 288, .aclr 288, .aget 288, .vtap 288, .floeParityError 32 0,
    .floeParityError 0 4, .memRequest .context (2 ^ 64) false [] 0 false none, .issueSlot 32 [] 0 0, .refresh 32 0 0, .refresh 0 32 0,
    .tempRead 32 0, .retrain 32 0 false, .retrain 0 32 false, .rowIdleClose 32 0 0, .rowIdleClose 0 32 0,
    .patrol 32 0 [], .rowRepair 32 0 0 0 0 [], .rowRepair 0 32 0 0 0 [], .cxlLinkDown 4, .cxlRetrainTimeout 4,
    .hostLaneFail 3, .flitCrcFail 288 0 0 0 0, .flitCrcFail 0 288 0 0 0, .flitCrcFail 0 0 4 0 0] :
    List Instr).all (fun i => !i.wellFormed) = true := by decide +kernel
theorem test_wf_refuses5 : ([
    .flitCrcFail 0 0 0 288 0, .cascFlitReceive 8 (List.replicate 256 0) [] [], .cascFlitReceive 0 [] [] [],
    .cascFlitReceive 0 (List.replicate 256 0) [8] [], .cascFlitReceive 0 (List.replicate 256 0) [] [(8, 0)],
    .cascWrite 16 0 0 0 0 0 0 [], .cascWrite 0 0 0 0 4096 0 0 [], .cascRead 16 0 0 0 0 0 0,
    .cascRead 0 0 0 4096 0 0 0, .cascRead 0 0 0 0 0 0 4096, .readData 16 0 0 0 [], .readData 0 0 4096 0 [],
    .readData 0 0 0 256 [], .writeDone 16 0 0 0, .writeDone 0 0 256 0, .writeDone 0 0 0 65536,
    .cascSignal 16 0 0 0 0 0 0 false 0, .cascSignal 0 0 262144 0 0 0 0 false 0, .cascSignal 0 0 0 64 0 0 0 false 0,
    .cascSignal 0 0 0 0 4096 0 0 false 0, .cascSignal 0 0 0 0 0 65536 0 false 0,
    .cascSignal 0 0 0 0 0 0 65536 false 0, .cascSignal 0 0 0 0 0 0 0 false (2 ^ 40), .signalDone 16 0 0 0,
    .signalDone 0 0 256 0, .signalDone 0 0 0 262144, .trnOp 16 0 0 0 0 0 false 0 0 0, .trnOp 0 0 3 0 0 0 false 0 0 0,
    .trnOp 0 0 0 4096 0 0 false 0 0 0, .trnOp 0 0 0 0 65536 0 false 0 0 0, .trnOp 0 0 0 0 0 65536 false 0 0 0,
    .trnOp 0 0 0 0 0 0 false 65536 0 0, .trnRel 16 0 0 0, .trnRel 0 0 4096 0, .trnRel 0 0 0 65536, .trnDone 16 0 0 0] :
    List Instr).all (fun i => !i.wellFormed) = true := by decide +kernel
theorem test_wf_refuses6 : ([
    .trnDone 0 0 65536 0, .trnDone 0 0 0 256, .cascDoorbell 16 0 0 0 0, .cascDoorbell 0 0 0 262144 0, .markerSend 64,
    .idleEnter 8, .idleNullBurst 8, .idleExit 8, .laneFail 64, .linkRetrainDone 8 0 0, .linkRetrainDone 0 4 0,
    .queuePush 8448 0 0 false, .queuePush 0 0 256 false, .queuePop 8448, .ramAccess 8192 false 0 0,
    .portWord 256 0 0 false, .portWord 0 0 256 false, .memPortRequest 256 0 1 false [] 0,
    .memPortRequest 0 0 0 false [] 0, .memPortRequest 0 0 65 false [] 0, .pinChange 192 false, .bankSupplyChange 8 0,
    .bankSupplyChange 0 4096, .pacerTick 32 false [] [], .pacerTick 0 false [(192, true)] [], .pacerTick 0 false [] [192], .pacerCalibrate 32 0,
    .laneRxWord 16 0 0, .laneTxWord 16 [], .configurationRequest 64 0 false 0, .configurationRequest 0 11 false 0,
    .translationCompletion 64 0 0 false false false, .cxlLinkRetrained 4 0 0, .cxlLinkRetrained 0 8 0,
    .cxlLinkRetrained 0 0 8, .hostLinkUp 8 0 false, .hostLinkUp 0 8 false] :
    List Instr).all (fun i => !i.wellFormed) = true := by decide +kernel
theorem test_wf_refuses7 : ([
    .cascLinkTrained 8 0 0, .cascLinkTrained 0 16 0, .cascLinkTrained 0 0 8, .markerReceive 64 0 0,
    .collectiveControl 16 0 0 0 0 0 [] 0, .collectiveControl 0 0 0 65536 0 0 [] 0,
    .collectiveControl 0 0 0 0 65536 0 [] 0, .collectiveControl 0 0 0 0 0 0 [] 256, .latchCapture 2560000 false []] :
    List Instr).all (fun i => !i.wellFormed) = true := by decide +kernel
/-! ### Single steps and values against the manual's own examples -/

/-- Whether a step goes on to a state of which a check holds. -/
def nextIs (o : Host.Outcome State Fault Refusal) (p : State → Bool) : Bool := match o with
  | .next t => p t
  | _ => false

/-- Conversions of the example of R46's section: code and flags. -/
theorem test_conversion_examples :
    ([(0x402CCCCD, 0x23, 5, 0), (0x3E800000, 0x23, 1, 0), (0xBE4CCCCD, 0x23, 0, 0x100), (0x40C66666, 0x23, 7, 0x20),
      (0xC0100000, 0x22, 0x31, 0), (0x43960000, 0x20, 0x79, 0), (0x3A83126F, 0x20, 1, 0), (0x7F800000, 0x21, 0x7F, 0x40),
      (0x3EAAAAAB, 0x11, 0x3EAB, 0), (0x000AE398, 0x11, 0, 0x100), (0x477FF000, 0x03, 0x7C00, 0x14)] : List (Nat × Nat × Nat × Nat)).all
      (fun x => (storeVal x.2.1 0 (decodeElem 2 x.1)).1 = x.2.2.1 && (storeVal x.2.1 0 (decodeElem 2 x.1)).2.2 = x.2.2.2) =
        true := by decide +kernel
/-- 65,520 toward zero, RND 0b010. -/
theorem test_conversion_toward_zero :
    (storeVal 3 2 (decodeElem 2 0x477FF000)).1 = 0x7BFF ∧ (storeVal 3 2 (decodeElem 2 0x477FF000)).2.2 = 0x10 := by
  decide +kernel
/-- The address of the example behind R221, under the reset interleave. -/
theorem test_window_example : localOf State.reset 0x1234567890 = some (7, 11, 0x48D1890) := by decide +kernel
/-- Block 927 of the T8e tensor of the example behind R69, in line 16. -/
theorem test_scale_line_example : (parseTensor (recOf 0 0x20 [4096, 10, 1, 1, 1])).block [1000, 7, 0, 0, 0] = 927 ∧
    (parseTensor (recOf 0 0x20 [4096, 10, 1, 1, 1])).blocks = 1280 ∧
    (parseTensor (recOf 0 0x20 [4096, 10, 1, 1, 1])).lineAddr 927 = 16 * 64 := by decide +kernel
/-- Block 0 of the example behind R74: the codes of 30.0 and 1.0 at s_y 0.078125. -/
theorem test_scaling_example :
    ((blockStore { parseTensor (recOf 0 0x20 [2, 1, 1, 1, 1]) with scalePtr := 64, tscale := 0x3DA00000 }
      [.fin false 30 1, .fin false 1 1]).1.map (·.1)) = [0x7C, 0x55] := by decide +kernel
/-- GEN 0x0002 and waits of 0xFFFE and 0x0005 (the example of R294). -/
theorem test_generation_example : genDone 0xFFFE 2 = true ∧ genDone 5 2 = false ∧ genDist 5 2 = 3 := by decide
/-- The record of the example behind R403: its header and payload as bytes. -/
theorem test_record_example : recBytes .full { rec0 with
      seq := 0x12A3F, code := 0x0401, src := 0x27, sev := 4, time := 0
      payload := leBytes 8 0x1234567880 ++ [0x0B, 3, 0, 0, 0xA2, 0x91, 0, 0] } =
    [0x44, 0x27, 0x01, 0x04, 0x3F, 0x2A, 0x01, 0x00] ++ fill 8 0 ++ [0x80, 0x78, 0x56, 0x34, 0x12, 0, 0, 0] ++
      [0x0B, 3, 0, 0, 0xA2, 0x91, 0, 0] := by decide +kernel
/-- The completion of the example of R285, as the two entries written. -/
theorem test_completion_example :
    let o : Op := { opOf 1 [(6, 0x11), (12, 0xFF), (13, 0xFF)] with
      slot := 5, result := { status := 0x20, cursor := 131072, faultAddr := 0x4000040000 } }
    primaryEntry o 6 true = fill 22 0 ++ [0x20, 0, 5, 0, 6, 0, 0x11, 0, 0x40, 0x80] ∧
      contEntry o true = [0, 0, 2, 0, 0, 0, 0, 0, 0, 0, 4, 0, 0x40, 0, 0, 0] ++ fill 8 0 ++ [5, 0, 0, 0, 0, 0, 0x80, 0x80] := by
  decide +kernel
/-- The debugger's write of the case of R311: generation 9 of Turnstile 17 completes. -/
theorem test_force_example :
    nextIs (exec (.completeGen 17 0) (setTrn on 17 { count := 2, gen := 9, arrived := 1 }))
      (fun t => decide ((getTrn t 17).gen = 10 ∧ (getTrn t 17).arrived = 0)) = true := by decide +kernel
/-- The doorbells of the example behind R287: tail 6, and completion head 9 when entries 7 and 8 stand written. -/
theorem test_doorbell_example :
    nextIs (exec (.submissionDoorbell 0 0 8 6) devQ)
      (fun t => decide ((getQueue t 0).tail = 6)) = true ∧
    nextIs (exec (.completionHeadDoorbell 0 0 8 0x8000000000000009) (setQueue dev 0 { queue16 with cqTail := 9, cqHead := 7 }))
      (fun t => decide ((getQueue t 0).cqHead = 9)) = true := by decide +kernel
/-- COPY of one element moves its bytes, also where source and destination are one (R277). -/
theorem test_copy :
    nextIs (exec (.copy 1) { withOp dev { opOf 1 [] with recs := [(1, recOf 64 0x11 [1, 1, 1, 1, 1]),
        (2, recOf 128 0x11 [1, 1, 1, 1, 1])] } with dmem := [(64, 0x80), (65, 0x3F)] })
      (fun t => decide (t.dmem = [(64, 0x80), (65, 0x3F), (128, 0x80), (129, 0x3F)])) = true := by decide +kernel
/-- MATMUL of 2 × 3 stores 6 (R47): W16 operands, W16 result. -/
theorem test_matmul :
    nextIs (exec (.matmul 1 [0] [] []) { withOp devT { opMat with recs := [(1, recOf 64 0x11 [1, 1, 1, 1, 1]),
        (2, recOf 66 0x11 [1, 1, 1, 1, 1]), (3, recOf 128 0x11 [1, 1, 1, 1, 1])] } with
          dmem := [(65, 0x40), (66, 0x40), (67, 0x40)] })
      (fun t => decide (t.dmem.read 128 = 0xC0 ∧ t.dmem.read 129 = 0x40)) = true := by decide +kernel
/-- SADD with B S0 adds only its immediate, and wraps (R118). -/
theorem test_sadd :
    nextIs (exec (.sadd 0) (devV 2 (0x0A * 2 ^ 56 + 2 * 2 ^ 47 + 1 * 2 ^ 42 + 0xFFFFFFFF)))
      (fun t => decide ((getTile t 0).run.getS 2 = 2 ^ 64 - 1 ∧ (getTile t 0).run.pc = 1)) = true := by decide +kernel
end Sys2Proof.Tests
end

section
/-! Every command goes on to a next state and keeps what `Keeps` speaks of: the arms of `exec`, each from the law of
the shared operation that it calls. -/

namespace Sys2Proof.Machine

/-- An answer that is a next state, one that keeps what `Keeps` speaks of. -/
def GoesOnKeeping (s : State) (r : Host.Outcome State Fault Refusal) : Prop := ∃ t, r = .next t ∧ Keeps s t

theorem GoesOnKeeping.next {s t : State} (h : Keeps s t) : GoesOnKeeping s (.next t) := ⟨t, rfl, h⟩

/-- A command that has its effect under a condition only, and changes nothing otherwise. -/
theorem GoesOnKeeping.nextWhen {s t : State} {c : Prop} [Decidable c] (h : Keeps s t) :
    GoesOnKeeping s (.next (if c then t else s)) := .next (.ite h (.refl s))

/-! ### Arms that combine several operations -/

theorem execThermalComparatorTrip_keeps (sensor : Nat) (temp : Int) (s : State) :
    GoesOnKeeping s (execThermalComparatorTrip sensor temp s) :=
  .next (.ite (.refl s) (keeps_removeVcore (keeps_record 0x0103 0x01 _ (.refl s))))

theorem execFlashLogWrite_keeps (s : State) : GoesOnKeeping s (execFlashLogWrite s) := by
  refine .next (.ite (.refl s) ?_)
  split
  · exact .refl s
  · exact keeps_flashAppend _ (.refl s)

theorem execMoraineInterruptTimer_keeps (s : State) : GoesOnKeeping s (execMoraineInterruptTimer s) := by
  refine .next ?_
  split
  · exact keeps_sendMsix _ _ (keeps_passTo _ (.refl s))
  · exact .refl s

theorem execHalt_keeps (tile : Nat) (s : State) : GoesOnKeeping s (execHalt tile s) := by
  refine .next ?_
  split
  · exact .ite (keeps_haltRun _ (.refl s)) (.refl s)
  · exact .refl s

theorem execTrnTimeout_keeps (op : Nat) (peer : Option (Nat × Bool × Nat)) (s : State) :
    GoesOnKeeping s (execTrnTimeout op peer s) := by
  cases peer with
  | none => exact .next (keeps_trnTimeoutOp _ (.refl s))
  | some p => exact .next (keeps_peerTimeout _ _ _ (.refl s))

theorem execCascadeForm_keeps (value : W32) (peers : List (Nat × Nat × Nat)) (edges : List Wiring)
    (master : Option (List Mirror)) (s : State) : GoesOnKeeping s (execCascadeForm value peers edges master s) := by
  cases master with
  | none => exact .next (.ite (.refl s) (keeps_cascCfgOp _ _ _ (.refl s)))
  | some mirrors => exact .next (.ite (.refl s) (keeps_joinGroup _ _ _ (.refl s)))

theorem execCascFlitReceive_keeps (link : Nat) (flit : List Byte) (bad : List Nat) (fixed : List (Nat × Nat))
    (s : State) : GoesOnKeeping s (execCascFlitReceive link flit bad fixed s) :=
  have received := keeps_flitOp link flit bad fixed (.refl s)
  .next (.ite (keeps_deliverFlit _ received) received)

theorem execQgpAbort_keeps (group : Nat) (queues : W64) (s : State) :
    GoesOnKeeping s (execQgpAbort group queues s) :=
  .nextWhen (.foldl (fun _ _ h => keeps_abortQueue _ h) _ (.refl s))

theorem execPerstDeassert_keeps (s : State) : GoesOnKeeping s (execPerstDeassert s) :=
  .next ((Keeps.refl s).of_kernel rfl)

theorem execP48vInRange_keeps (found : BootFindings) (s : State) : GoesOnKeeping s (execP48vInRange found s) :=
  have noted : Keeps s { s with st := { s.st with supplyOk := true } } := (Keeps.refl s).of_kernel rfl
  .next (.ite noted (keeps_mainIfDue found noted))

/-! ### All arms -/

/-- Every command of the block, arm by arm. -/
theorem exec_keeps (c : Instr) (s : State) : GoesOnKeeping s (exec c s) := by
  have same := Keeps.refl s
  cases c with
  -- Power, resets, start-up (chapters 01 and 18)
  | standbyPowerOn => exact .next (keeps_mainIfDue _ (keeps_standbyPhase _ _ _ same))
  | p12vauxLoss => exact .next (keeps_keptAlways (keeps_settleLedger same))
  | p48vInRange found => exact execP48vInRange_keeps found s
  | p48vBelow38v | p48vAbove62v => exact .next (keeps_supplyLost same)
  | perstAssert => exact .next (keeps_resetRequest _ _ (same.of_kernel rfl))
  | perstDeassert => exact execPerstDeassert_keeps s
  | hotReset => exact .nextWhen (keeps_hostReset same)
  | functionLevelReset => exact .nextWhen (keeps_functionReset _ same)
  | lockStepMismatch => exact .next (.ite same (keeps_resetRequest _ _ (same.of_kernel rfl)))
  | rstCtrlDevice => exact .nextWhen (keeps_resetRequest _ _ same)
  | smbusReset =>
    exact .next (.ite same (.ite (keeps_emit _ same) (.ite (keeps_resetRequest _ _ same) same)))
  | read32 | read64 => exact .next (keeps_smbusReadOp _ _ _ same)
  | registerWrite => exact .nextWhen (keeps_bar0Write _ _ _ _ _ _ same)
  | registerReadClear => exact .nextWhen (keeps_emit _ (keeps_bar0Read _ _ _ same))
  -- The governor, Moraine and Ice (chapters 01 and 17)
  | setCap => exact .next (.ite same (.ite (keeps_applyCap _ _ same) (keeps_emit _ same)))
  | pwrCapWrite => exact .nextWhen (keeps_applyCap _ _ same)
  | governorSample => exact .next (keeps_governorSampleOp _ _ _ same)
  | governorWindowEnd => exact .next (keeps_governorWindowEndOp same)
  | thermalComparatorTrip sensor temp => exact execThermalComparatorTrip_keeps sensor temp s
  | flashLogWrite => exact execFlashLogWrite_keeps s
  | freeze => exact .nextWhen (keeps_morCtrlWrite _ same)
  | moraineCopy => exact .nextWhen (keeps_morCopyCtrlWrite _ same)
  | moraineClear => exact .nextWhen (keeps_moraineClearOp _ same)
  | iceCommit => exact .nextWhen (keeps_iceCommitOp same)
  | iceCalSet => exact .nextWhen (keeps_iceCalSetOp _ same)
  | moraineInterruptTimer => exact execMoraineInterruptTimer_keeps s
  -- Memory and translation (chapters 09 and 10)
  | memRequest => exact .next (keeps_memRequestOp _ _ _ _ _ _ _ same)
  | issueSlot => exact .next (keeps_issueSlotOp _ _ _ _ same)
  | refresh => exact .next (keeps_refreshOp _ _ _ same)
  | tempRead => exact .next (keeps_tempReadOp _ _ same)
  | retrain => exact .next (keeps_retrainOp _ _ _ same)
  | rowIdleClose => exact .next (keeps_rowIdleCloseOp _ _ _ same)
  | patrol => exact .next (keeps_patrolOp _ _ _ same)
  | rowRepair => exact .next (keeps_rowRepairOp _ _ _ _ _ _ same)
  | iwinCommit => exact .nextWhen (keeps_iwinCommitOp _ same)
  | iwinApply => exact .next (keeps_iwinApplyOp _ same)
  | cxlLinkDown => exact .next (keeps_cxlLinkDownOp _ same)
  | cxlLinkRetrained => exact .next (keeps_retryHeld (keeps_cxlLinkRetrainedOp _ _ _ same))
  | cxlRetrainTimeout => exact .next (keeps_retryHeld (keeps_cxlRetrainTimeoutOp _ same))
  | reserve | release | unmap | protect => exact .nextWhen (keeps_mmuCommand _ _ _ _ _ same)
  | mmuCmdDone => exact .next (keeps_mmuDone _ same)
  | faultResolved => exact .next (keeps_faultResolvedOp _ same)
  | priResponse => exact .next (keeps_priAnswer _ _ _ _ _ _ same)
  | priTimeout => exact .next (keeps_priExpire _ _ _ same)
  | atsInvalidate => exact .next (keeps_emit _ (same.of_kernel rfl))
  | translationCompletion => exact .nextWhen (keeps_retryHostPage _ _ _ (keeps_atsArrive _ same))
  -- The host interface and the queues (chapter 11)
  | bar2Read => exact .next (keeps_bar2ReadOp _ _ same)
  | bar2Write => exact .next (keeps_bar2WriteOp _ _ same)
  | submissionDoorbell | completionHeadDoorbell => exact .nextWhen (keeps_doorbellOp _ _ _ _ same)
  | fetchDescriptor => exact .next (keeps_fetchOp same)
  | completionWrite => exact .next (keeps_completionOp _ same)
  | interruptTimer => exact .next (.ite same (keeps_sendQueueIrq _ (keeps_passTo _ same)))
  | vectorUnmask => exact .next (keeps_sendPending _ (keeps_setFunc _ _ same))
  | qgpCommit => exact .nextWhen (keeps_qgpCommitOp _ same)
  | qgpApply => exact .next (keeps_qgpApplyOp _ same)
  | qgpAbort group queues => exact execQgpAbort_keeps group queues s
  | configurationRequest => exact .next (.ite same (.ite (keeps_configWrite _ _ _ same) (keeps_emit _ same)))
  | hostLaneFail => exact .next (keeps_hostLaneFailOp _ same)
  | hostLinkUp => exact .next (keeps_hostLinkUpOp _ _ _ same)
  | hostLinkLoss => exact .next (keeps_hostLinkLossOp same)
  -- Operations on data (chapters 04 to 07)
  | nop => exact .next (keeps_runOp _ _ _ (fun _ _ => keeps_endOp _ _) same)
  | copy | convert => exact .next (keeps_runWhen _ _ _ (fun _ _ => keeps_plainOp _ _) same)
  | gather => exact .next (keeps_runWhen _ _ _ (fun _ _ => keeps_gatherOp _ _) same)
  | scatter => exact .next (keeps_runWhen _ _ _ (fun _ _ => keeps_scatterOp _ _ _) same)
  | fill => exact .next (keeps_runOp _ _ _ (fun _ _ => keeps_fillOp _ _) same)
  | elemwise => exact .next (keeps_runOp _ _ _ (fun _ _ => keeps_elemwiseOp _ _) same)
  | reduce => exact .next (keeps_runOp _ _ _ (fun _ _ => keeps_reduceOp _ _ _) same)
  | scan => exact .next (keeps_runOp _ _ _ (fun _ _ => keeps_scanOp _ _ _) same)
  | matmul | conv => exact .next (keeps_runOp _ _ _ (fun _ _ => keeps_matrixOp _ _ _ _ _) same)
  | attend => exact .next (keeps_runOp _ _ _ (fun _ _ => keeps_attendOp _ _ _) same)
  | kvAppend => exact .next (keeps_runWhen _ _ _ (fun _ _ => keeps_kvAppendOp _ _) same)
  | kvTruncate => exact .next (keeps_runWhen _ _ _ (fun _ _ => keeps_truncAll _ _ _) same)
  | optstep => exact .next (keeps_runOp _ _ _ (fun _ _ => keeps_optstepOp _ _) same)
  | tileprog => exact .next (keeps_runOp _ _ _ (fun _ _ => keeps_tileprogOp _ _ _) same)
  | pageLockGrant => exact .next (keeps_lockGrantOp _ same)
  | floeParityError => exact .next (keeps_floeParityOp _ _ same)
  -- The matrix engine's blocks and its tiles (chapters 04 and 10)
  | acc | accDrain | drain => exact .next (keeps_blockCmd _ _ _ _ _ same)
  | setMode => exact .next (keeps_setModeOp _ _ _ same)
  | check => exact .next (keeps_checkOp _ _ _ _ same)
  | drainEnd => exact .next (keeps_drainEndOp _ _ same)
  | sweepTimeout => exact .next (keeps_sweepTimeoutOp _ same)
  | multicastPrune => exact .next (keeps_multicastPruneOp _ _ same)
  | shardArrive => exact .next (keeps_shardArriveOp _ _ same)
  | readResponse => exact .next (keeps_readResponseOp _ _ _ _ same)
  | preempt => exact .next (keeps_preemptOp _ _ _ _ same)
  | resume => exact .next (keeps_resumeOp _ _ _ same)
  | contextCopy => exact .nextWhen (keeps_contextCopyOp _ same)
  -- Placement (chapter 08)
  | affinity => exact .next (keeps_runWhen _ _ _ (fun _ _ => keeps_affinityOp _ _) same)
  | keepNear => exact .next (keeps_runWhen _ _ _ (fun _ _ => keeps_keepNearOp _ _) same)
  | pinData => exact .next (keeps_runWhen _ _ _ (fun _ _ => keeps_pinDataOp _ _) same)
  | unpinData => exact .next (keeps_runWhen _ _ _ (fun _ _ => keeps_unpinDataOp _ _) same)
  | pinTiles | priorityMode | unpinTiles =>
    exact .next (keeps_runWhen _ _ _ (fun _ _ => keeps_groupHint _ _ _) same)
  | placementSnapshot => exact .nextWhen (keeps_viewOp _ same)
  | migCtrlWrite => exact .nextWhen (keeps_migCtrlOp _ same)
  | migrationEpoch => exact .nextWhen (keeps_migrationEpochOp same)
  | migrationDone => exact .next (keeps_migrationDoneOp _ _ _ same)
  | speedSample => exact .nextWhen (keeps_speedSampleOp _ _ same)
  -- The vector engine (chapter 05)
  | imageLoad => exact .next (keeps_releaseImages (keeps_updTile _ _ same))
  | epilogueRunStart => exact .next (keeps_epilogueStart _ same)
  | swait | swaitResume => exact .next (keeps_swaitOp _ same)
  | srel => exact .next (keeps_srelOp _ same)
  | vemit => exact .next (keeps_vemitOp _ same)
  | halt tile => exact execHalt_keeps tile s
  | jmp | bnz | loop | vld | vst | vtap => exact .next (keeps_vxWith _ _ _ same)
  | vxNop | smovi | smovh | sadd | radv | vmovs | vperm | vadd | vsub | vmul | vfma | vmax | vmin | vcmp | vsel | vaddh
    | vmulh | vfmah | vcvt | vred | vexp2 | vlog2 | vrcp | vrsqrt | qadd | qsub | qmul | qmac | qmsu | aclr | aget =>
    exact .next (keeps_vx _ _ _ same)
  -- Turnstiles (chapter 12)
  | trnArrive => exact .next (keeps_runOp _ _ _ (fun _ _ => keeps_trnArriveOp _ _) same)
  | trnWait => exact .next (keeps_runOp _ _ _ (fun _ _ => keeps_trnWaitOp _ _) same)
  | trnArriveWait => exact .next (keeps_runOp _ _ _ (fun _ _ => keeps_trnArriveWaitOp _ _) same)
  | signal => exact .next (keeps_runOp _ _ _ (fun _ _ => keeps_signalOp _ _) same)
  | trnTimeout op peer => exact execTrnTimeout_keeps op peer s
  | groupGenBroadcast => exact .next (keeps_groupGenOp _ _ same)
  | trnCfgWrite => exact .nextWhen (keeps_trnCfgOp _ _ same)
  | setCount => exact .nextWhen (keeps_setCountOp _ _ same)
  | setGen => exact .nextWhen (keeps_setGenOp _ _ same)
  | completeGen => exact .nextWhen (keeps_completeGenOp _ _ same)
  | deadlockFire => exact .next (keeps_deadlockOp _ same)
  -- Links, the network and the cascade (chapters 13 and 14)
  | flitCrcFail => exact .next (keeps_flitCrcOp _ _ _ _ _ same)
  | markerSend => exact .next (keeps_markerSendOp _ same)
  | markerReceive => exact .next (keeps_markerReceiveOp _ _ _ same)
  | idleEnter => exact .next (keeps_idleEnterOp _ same)
  | idleNullBurst => exact .next (keeps_nullBurstOp _ same)
  | idleExit => exact .next (keeps_idleExitOp _ same)
  | laneFail => exact .next (keeps_laneFailOp _ same)
  | linkRetrainDone => exact .next (keeps_retryHeld (keeps_retrainDoneOp _ _ _ same))
  | cascLinkTrained => exact .next (keeps_linkTrainedOp _ _ _ same)
  | cascadeForm value peers edges master => exact execCascadeForm_keeps value peers edges master s
  | followerHostTimeout => exact .next (keeps_followerOp same)
  | eyeScan => exact .nextWhen (keeps_eyeScanOp _ _ _ same)
  | cascFlitReceive link flit bad fixed => exact execCascFlitReceive_keeps link flit bad fixed s
  | cascWrite | cascRead | readData | writeDone | cascSignal | signalDone | trnOp | trnRel | trnDone | cascDoorbell
    | collectiveControl => exact .next (keeps_receiveMsg _ _ _ same)
  | fenceRelease => exact .next (keeps_fenceReleaseOp _ _ same)
  | allReduce | reduceScatter | allGather | broadcast =>
    exact .next (keeps_runWhen _ _ _ (fun _ _ => keeps_collOp _ _ _) same)
  | put =>
    exact .next (keeps_runWhen _ _ _ (fun _ _ => keeps_withPeer _ _ _ _ _ (fun _ _ => keeps_putOp _ _)) same)
  | get =>
    exact .next (keeps_runWhen _ _ _ (fun _ _ => keeps_withPeer _ _ _ _ _ (fun _ _ => keeps_getOp _ _)) same)
  | doorbellOp => exact .next (keeps_runWhen _ _ _ (fun _ _ => keeps_sendDoorbell _ _) same)
  | collectiveTimeout => exact .next (keeps_collTimeoutOp _ same)
  -- The Midway fabric (chapter 15)
  | streamIn => exact .next (keeps_runFabric _ _ _ (fun _ _ => keeps_streamInOp _ _) same)
  | streamOut => exact .next (keeps_runFabric _ _ _ (fun _ _ => keeps_streamOutOp _ _) same)
  | bindMem => exact .next (keeps_runFabric _ _ _ (fun _ _ => keeps_bindMemOp _ _) same)
  | unbind => exact .next (keeps_runFabric _ _ _ (fun _ _ => keeps_unbindOp _ _) same)
  | laneUp => exact .next (keeps_runFabric _ _ _ (fun _ _ => keeps_laneUpOp _ _) same)
  | laneDown => exact .next (keeps_runFabric _ _ _ (fun _ _ => keeps_laneDownOp _ _) same)
  | laneLock => exact .next (keeps_laneLockOp _ same)
  | fabricTimeout => exact .next (keeps_fabricTimeoutOp _ same)
  | queuePush => exact .next (keeps_pushOp _ _ same)
  | queuePop => exact .next (keeps_popOp _ same)
  | ramAccess => exact .next (keeps_ramOp _ _ _ _ same)
  | portWord => exact .next (keeps_portWordOp _ _ same)
  | memPortRequest => exact .next (keeps_memRequest _ _ same)
  | pinChange => exact .next (keeps_pinChangeOp _ _ same)
  | bankSupplyChange => exact .next (keeps_bankOp _ _ same)
  | pacerTick => exact .next (keeps_pacerTickOp _ _ _ _ same)
  | pacerCalibrate => exact .next (keeps_pacerCalOp _ _ same)
  | laneRxWord => exact .next (keeps_laneRxOp _ _ _ same)
  | laneTxWord => exact .next (keeps_laneTxOp _ _ same)
  | latchCapture => exact .next (keeps_latchOp _ _ _ same)
  -- Configuration and security (chapter 16)
  | cfgLoad => exact .next (keeps_runOp _ _ _ (fun _ _ => keeps_cfgTurn _ _ _ (fun _ => keeps_cfgLoadOp _ _ _)) same)
  | cfgCommit =>
    exact .next (keeps_runOp _ _ _ (fun _ _ => keeps_cfgTurn _ _ _ (fun _ => keeps_cfgCommitOp _ _ _)) same)
  | cfgRevert =>
    exact .next (keeps_runOp _ _ _ (fun _ _ => keeps_cfgTurn _ _ _ (fun _ => keeps_cfgRevertOp _ _ _)) same)
  | cfgApply => exact .next (keeps_cfgApplyOp same)
  | cfgDrainTimeout => exact .next (keeps_cfgDrainOp same)
  | advanceSvn => exact .nextWhen (keeps_secCtrlOp _ same)
  | scrubPass => exact .next (keeps_scrubOp _ same)
  | spdmRequest => exact .next (keeps_spdmOp _ _ _ same)
  | ideKmKeyProgram => exact .next (keeps_ideOp _ _ _ _ same)
  | writeKeySlot => exact .next (keeps_writeSlotOp _ _ _ _ same)
  | revokeSlot => exact .next (keeps_revokeSlotOp _ _ same)
  | debugUnlock => exact .next (keeps_debugUnlockOp _ _ _ same)

/-! ### A whole step -/

theorem step_of_pending_nil {s : State} (h : s.pending = []) : step s = .next (passTime 1 s) := by
  simp [step, h, State.idle]

theorem step_of_pending_cons {s : State} {c : Instr} {rest : List Instr} (h : s.pending = c :: rest) :
    step s = exec c { s with pending := rest } := by
  simp [step, h]

/-- A step keeps everything of the state with its front command taken off the queue: an idle tick and a command alike. -/
theorem step_keeps (s : State) : GoesOnKeeping { s with pending := s.pending.tail } (step s) := by
  match h : s.pending with
  | [] =>
    rw [step_of_pending_nil h]
    exact .next (keeps_passTime 1 ((Keeps.refl _).of_kernel (by simp [State.kernel, h])))
  | c :: rest =>
    rw [step_of_pending_cons h]
    exact exec_keeps c _

/-- Settles O4: `exec` has no arm that faults or refuses, and an idle tick answers a state. -/
theorem everyStepGoesOn : Obligations.EveryStepGoesOn := by
  intro s
  obtain ⟨t, ht, -⟩ := step_keeps s
  exact ⟨t, ht⟩

/-- Settles O6: the invariant `Keeps`, proved for every arm of `exec`, read off for one step. -/
theorem stepKeepsPartAndMessages : Obligations.StepKeepsPartAndMessages := by
  intro s t hstep
  obtain ⟨t', ht', hvariant, hfused, hpending, houtbox, hfresh, -⟩ := step_keeps s
  obtain rfl : t' = t := by simpa [ht'] using hstep
  exact ⟨hvariant, hfused, hpending, houtbox, hfresh⟩

end Sys2Proof.Machine
end

section
/-! What an idle step and the reset state are, and what a write of a line leaves in the read caches of the dies. -/

namespace Sys2Proof.Machine

theorem passTime_of_auxOff {s : State} (dt : Nat) (h : s.st.auxOn = false) : passTime dt s = s := by
  simp [passTime, h]

theorem passTime_time_of_auxOn {s : State} (dt : Nat) (h : s.st.auxOn = true) :
    (passTime dt s).time = s.time + dt := by
  simp [passTime, h]

/-- Settles O2: the tick is `passTime 1`, whose frame law names the fields it can change. -/
theorem idleStepIsATick : Obligations.IdleStepIsATick := by
  constructor
  · intro s hidle haux
    rw [step_of_pending_nil hidle, passTime_of_auxOff 1 haux]
  · intro s hidle haux
    refine ⟨passTime 1 s, step_of_pending_nil hidle, passTime_time_of_auxOn 1 haux, ?_⟩
    simp [hidle]

theorem getQueue_reset (q : Nat) : getQueue State.reset q = {} := rfl
theorem getTrn_reset (t : Nat) : getTrn State.reset t = {} := rfl
theorem getLink_reset (l : Nat) : getLink State.reset l = {} := rfl

/-- Settles O3: every table is empty at reset, so each unit of it stands at its default. -/
theorem resetState : Obligations.ResetState := by
  have queues : ∀ q, (getQueue State.reset q).entry.enable = false := fun q => by rw [getQueue_reset]
  have turnstiles : ∀ t, (getTrn State.reset t).count = 1 ∧ (getTrn State.reset t).gen = 0 ∧
      (getTrn State.reset t).arrived = 0 ∧ (getTrn State.reset t).waiters = [] :=
    fun t => by rw [getTrn_reset]; exact ⟨rfl, rfl, rfl, rfl⟩
  have links : ∀ l, (getLink State.reset l).up = false := fun l => by rw [getLink_reset]
  exact ⟨rfl, rfl, rfl, rfl, rfl, rfl, queues, turnstiles, rfl, links, rfl, rfl, rfl⟩

/-- Refutes O9 at its third clause: a write also drops the line from the read caches of the other dies (`snoop`, R321), which
the clause does not let change. Here die 0 holds line 0, and one byte is written to address 0. -/
theorem not_bytesAndMemory : ¬ Obligations.BytesAndMemory := by
  rintro ⟨-, -, hwrite⟩
  obtain ⟨m, f, k, heq, -⟩ := hwrite 1 0 [0] { noc := { caches := [(0, [0])] } }
  have hdropped : (writePhys 1 0 [0] { noc := { caches := [(0, [0])] } }).noc.caches = [(0, [])] := by decide
  rw [heq] at hdropped
  simp at hdropped

end Sys2Proof.Machine
end

section
/-! Traffic of the host: BAR2, interrupts, and configuration requests (R258 to R261, R288, R289). -/

namespace Sys2Proof.Machine

/-! ### What an access leaves -/

/-- The second state differs from the first in the network at most. -/
def OnlyNoc (s t : State) : Prop := ∃ m, t = { s with noc := m }

theorem OnlyNoc.refl (s : State) : OnlyNoc s s := ⟨s.noc, rfl⟩

theorem OnlyNoc.trans {s t u : State} (h : OnlyNoc s t) (k : OnlyNoc t u) : OnlyNoc s u := by
  obtain ⟨m, rfl⟩ := h
  obtain ⟨n, rfl⟩ := k
  exact ⟨n, rfl⟩

theorem onlyNoc_passFlits (net n : Nat) (nodes : List Nat) (s : State) : OnlyNoc s (passFlits net n nodes s) :=
  ⟨_, rfl⟩

theorem onlyNoc_readFlits (at_ home : Nat) (s : State) : OnlyNoc s (readFlits at_ home s) :=
  (onlyNoc_passFlits ..).trans (onlyNoc_passFlits ..)

theorem onlyNoc_writeFlits (at_ home : Nat) (s : State) : OnlyNoc s (writeFlits at_ home s) :=
  ((onlyNoc_passFlits ..).trans (onlyNoc_passFlits ..)).trans (onlyNoc_passFlits ..)

theorem onlyNoc_cacheLine (at_ a : Nat) (s : State) : OnlyNoc s (cacheLine at_ a s) := by
  unfold cacheLine
  dsimp only
  split
  · exact .refl s
  · exact ⟨_, rfl⟩

theorem onlyNoc_lineFlits (at_ a : Nat) (s : State) : OnlyNoc s (lineFlits at_ a s) := by
  unfold lineFlits
  split
  · exact .refl s
  · exact (onlyNoc_readFlits ..).trans (onlyNoc_cacheLine ..)

/-- An access passes its flits through the network, and changes nothing else. -/
theorem onlyNoc_accessFlits (at_ : Nat) (w : Who) (write : Bool) (addr : Nat) (s : State) :
    OnlyNoc s (accessFlits at_ w write addr s) := by
  unfold accessFlits
  cases write with
  | true => split <;> exact onlyNoc_writeFlits ..
  | false =>
    split
    · exact onlyNoc_lineFlits ..
    · exact onlyNoc_readFlits ..

/-- An access that begins to wait sends a request, queues a page request, or raises the priority of a migration. -/
theorem startWait_frame (w : Who) (write : Bool) (x : Wait) (addr : Nat) (s : State) :
    ∃ o p l, startWait w write x addr s = { s with outbox := o, pris := p, place := l } := by
  cases x with
  | translation => exact ⟨_, s.pris, s.place, rfl⟩
  | migration => exact ⟨s.outbox, s.pris, _, rfl⟩
  | pageRequest =>
    unfold startWait
    dsimp only
    split
    · exact ⟨s.outbox, s.pris, s.place, rfl⟩
    · split
      · exact ⟨_, _, s.place, rfl⟩
      · exact ⟨s.outbox, _, s.place, rfl⟩
  | _ => exact ⟨s.outbox, s.pris, s.place, rfl⟩

/-! ### BAR2 (R261) -/

theorem exec_bar2Read_ready {s : State} {offset len : Nat} (hstandby : s.st.standbyDone = true)
    (hready : s.st.ready = true) (hin : offset + len ≤ 2 ^ (getFunc s 0).bar2Log2) :
    exec (.bar2Read offset len) s = .next (bar2Access offset len none s) := by
  simp [exec, execBar2Read, bar2ReadOp, inBar2, hstandby, hready, hin]

theorem exec_bar2Read_notReady {s : State} {offset len : Nat} (hstandby : s.st.standbyDone = true)
    (hready : s.st.ready = false) (hin : offset + len ≤ 2 ^ (getFunc s 0).bar2Log2) :
    exec (.bar2Read offset len) s = .next (completerAbort s) := by
  simp [exec, execBar2Read, bar2ReadOp, inBar2, hstandby, hready, hin]

theorem exec_bar2Read_beyond {s : State} {offset len : Nat} (hout : 2 ^ (getFunc s 0).bar2Log2 < offset + len) :
    exec (.bar2Read offset len) s = .next s := by
  simp [exec, execBar2Read, bar2ReadOp, inBar2, hout]

theorem exec_bar2Write_ready {s : State} {offset : Nat} {data : List Byte} (hready : s.st.ready = true)
    (hin : offset + data.length ≤ 2 ^ (getFunc s 0).bar2Log2) :
    exec (.bar2Write offset data) s = .next (bar2Access offset data.length (some data) s) := by
  simp [exec, execBar2Write, bar2WriteOp, inBar2, hready, hin]

theorem exec_bar2Write_beyond {s : State} {offset : Nat} {data : List Byte}
    (hout : 2 ^ (getFunc s 0).bar2Log2 < offset + data.length) : exec (.bar2Write offset data) s = .next s := by
  simp [exec, execBar2Write, bar2WriteOp, inBar2, hout]

theorem bar2Access_read_ok {s s1 : State} {offset len : Nat} {bs : List Byte} (hnone : s.bar2Waits = [])
    (hread : readRM bar2Who offset len (touchFuel len) s = (.ok bs, s1)) :
    bar2Access offset len none s = emit (.bar2 bs) (accessFlits pcieNode bar2Who false offset s1) := by
  simp [bar2Access, hnone, hread]

theorem bar2Access_read_wait {s s1 : State} {offset len a : Nat} {k : Wait} (hnone : s.bar2Waits = [])
    (hread : readRM bar2Who offset len (touchFuel len) s = (.error (.wait k a), s1)) :
    bar2Access offset len none s =
      startWait bar2Who false k a { s1 with bar2Waits := s1.bar2Waits ++ [(offset, len, none)] } := by
  simp [bar2Access, hnone, hread]

theorem bar2Access_write_ok {s s1 : State} {offset len : Nat} {data : List Byte} (hnone : s.bar2Waits = [])
    (hwrite : writeRM bar2Who offset data (touchFuel len) s = (none, s1)) :
    bar2Access offset len (some data) s = accessFlits pcieNode bar2Who true offset { s1 with fills := [] } := by
  simp [bar2Access, hnone, hwrite]

theorem exec_bar2Read_answers {s s1 : State} {offset len : Nat} {bs : List Byte} (hstandby : s.st.standbyDone = true)
    (hready : s.st.ready = true) (hin : offset + len ≤ 2 ^ (getFunc s 0).bar2Log2) (hnone : s.bar2Waits = [])
    (hread : readRM bar2Who offset len (touchFuel len) s = (.ok bs, s1)) :
    ∃ m, exec (.bar2Read offset len) s = .next { s1 with outbox := s1.outbox ++ [.bar2 bs], noc := m } := by
  obtain ⟨m, hflits⟩ := onlyNoc_accessFlits pcieNode bar2Who false offset s1
  exact ⟨m, by rw [exec_bar2Read_ready hstandby hready hin, bar2Access_read_ok hnone hread, hflits]; rfl⟩

theorem exec_bar2Read_waits {s s1 : State} {offset len a : Nat} {k : Wait} (hstandby : s.st.standbyDone = true)
    (hready : s.st.ready = true) (hin : offset + len ≤ 2 ^ (getFunc s 0).bar2Log2) (hnone : s.bar2Waits = [])
    (hread : readRM bar2Who offset len (touchFuel len) s = (.error (.wait k a), s1)) :
    ∃ t, exec (.bar2Read offset len) s = .next t ∧ t.bar2Waits = s1.bar2Waits ++ [(offset, len, none)] ∧
      t.dmem = s1.dmem := by
  refine ⟨_, by rw [exec_bar2Read_ready hstandby hready hin, bar2Access_read_wait hnone hread], ?_⟩
  obtain ⟨o, p, l, hwait⟩ :=
    startWait_frame bar2Who false k a { s1 with bar2Waits := s1.bar2Waits ++ [(offset, len, none)] }
  rw [hwait]
  exact ⟨rfl, rfl⟩

theorem exec_bar2Write_writes {s s1 : State} {offset : Nat} {data : List Byte} (hready : s.st.ready = true)
    (hin : offset + data.length ≤ 2 ^ (getFunc s 0).bar2Log2) (hnone : s.bar2Waits = [])
    (hwrite : writeRM bar2Who offset data (touchFuel data.length) s = (none, s1)) :
    ∃ m, exec (.bar2Write offset data) s = .next { s1 with fills := [], noc := m } := by
  obtain ⟨m, hflits⟩ := onlyNoc_accessFlits pcieNode bar2Who true offset { s1 with fills := [] }
  exact ⟨m, by rw [exec_bar2Write_ready hready hin, bar2Access_write_ok hnone hwrite, hflits]⟩

/-! ### Interrupts (R288, R289) -/

theorem getQueue_passTo (t q : Nat) (s : State) : getQueue (passTo t s) q = getQueue s q := by simp [getQueue]
theorem getGroup_passTo (t g : Nat) (s : State) : getGroup (passTo t s) g = getGroup s g := by simp [getGroup]

theorem exec_interruptTimer_due {s : State} {q : Nat} (hcount : (getQueue s q).irqCount ≠ 0)
    (htime : (getQueue s q).irqTime ≠ 0) (hen : (getQueue s q).entry.irqEn = true) :
    exec (.interruptTimer q) s =
      .next (sendQueueIrq q (passTo ((getQueue s q).irqFirst + (getQueue s q).irqTime * 1000) s)) := by
  simp [exec, execInterruptTimer, hcount, htime, hen]

theorem sendQueueIrq_passTo (t q : Nat) (s : State) :
    sendQueueIrq q (passTo t s) =
      sendMsix (bindFunc (getGroup s (groupOf q)).active.bind) (getQueue s q).entry.vector
        (setQueue (passTo t s) q { getQueue s q with irqCount := 0, irqFirst := 0 }) := by
  simp only [sendQueueIrq, getQueue_passTo, getGroup_passTo]

/-- A vector that is not masked, of a function that is not either, sends at once (R288). -/
theorem sendMsix_unmasked {s : State} {f v a d : Nat} (hen : (getFunc s f).msixEnable = true)
    (hmask : (getFunc s f).msixMask = false)
    (hentry : tget (dflt (0, 0, true)) (getFunc s f).entries v = (a, d, false)) :
    sendMsix f v s = emit (.msix f v a d) s := by
  simp [sendMsix, hen, hmask, hentry]

theorem sendPending_singleton {s : State} {f v : Nat} (hpba : (getFunc s f).pba = [v]) :
    sendPending f s = sendMsix f v (setFunc s f { getFunc s f with pba := [] }) := by
  simp [sendPending, hpba]

theorem exec_vectorUnmask {s : State} {f v a d : Nat} {m : Bool}
    (hentry : tget (dflt (0, 0, true)) (getFunc s f).entries v = (a, d, m)) :
    exec (.vectorUnmask f v) s = .next (sendPending f (setFunc s f { getFunc s f with
      entries := tset (dflt (0, 0, true)) (getFunc s f).entries v (a, d, false) })) := by
  simp [exec, execVectorUnmask, hentry]

/-- The message that was pending leaves when its vector is unmasked (R288). -/
theorem exec_vectorUnmask_sends {s : State} {f v a d : Nat} {m : Bool} (hpba : (getFunc s f).pba = [v])
    (hen : (getFunc s f).msixEnable = true) (hmask : (getFunc s f).msixMask = false)
    (hentry : tget (dflt (0, 0, true)) (getFunc s f).entries v = (a, d, m)) :
    ∃ fs, exec (.vectorUnmask f v) s = .next { s with funcs := fs, outbox := s.outbox ++ [.msix f v a d] } := by
  rw [exec_vectorUnmask hentry, sendPending_singleton (by simpa using hpba), sendMsix_unmasked (a := a) (d := d)
    (by simpa using hen) (by simpa using hmask) (by simp)]
  exact ⟨_, rfl⟩

/-! ### Configuration requests (R1, R258, R260) -/

theorem funcEnabled_of {s : State} {f : Nat} (h : f = 0 ∨ f ≤ (getFunc s 0).numVfs) : funcEnabled s f = true := by
  simpa [funcEnabled] using h

theorem exec_configurationRequest_read {s : State} {f : Nat} (item v : Nat) (hstandby : s.st.standbyDone = true)
    (hf : funcEnabled s f = true) :
    exec (.configurationRequest f item false v) s = .next (emit (.config f item (configValue s f item)) s) := by
  simp [exec, execConfigurationRequest, hstandby, hf]

theorem exec_configurationRequest_write {s : State} {f : Nat} (item v : Nat) (hstandby : s.st.standbyDone = true)
    (hf : funcEnabled s f = true) :
    exec (.configurationRequest f item true v) s = .next (configWrite f item v s) := by
  simp [exec, execConfigurationRequest, hstandby, hf]

/-- Settles O25, clause by clause. -/
theorem hostTraffic : Obligations.HostTraffic := by
  refine ⟨?_, ?_, ?_, ?_, ?_, ?_, ?_, ?_⟩
  · intro s s1 offset len bs hstandby hready hin hnone hread
    exact exec_bar2Read_answers hstandby hready hin hnone hread
  · intro s offset len hstandby hready hin
    exact exec_bar2Read_notReady hstandby hready hin
  · intro s s1 offset data hready hin hnone hwrite
    exact exec_bar2Write_writes hready hin hnone hwrite
  · intro s s1 offset len a k hstandby hready hin hnone hread
    exact exec_bar2Read_waits hstandby hready hin hnone hread
  · intro s offset data hout
    exact ⟨exec_bar2Write_beyond hout, exec_bar2Read_beyond hout⟩
  · intro s u q hcount htime hen hu
    subst hu
    refine ⟨_, _, ?_, rfl, rfl⟩
    rw [exec_interruptTimer_due hcount htime hen, sendQueueIrq_passTo]
  · intro s f v a d m hpba hen hmask hentry
    exact exec_vectorUnmask_sends hpba hen hmask hentry
  · intro s f item v hstandby hfunc
    have hf := funcEnabled_of hfunc
    exact ⟨exec_configurationRequest_read item v hstandby hf, rfl, exec_configurationRequest_write 2 0 hstandby hf,
      exec_configurationRequest_write 6 3 hstandby hf⟩

end Sys2Proof.Machine
end

section
/-! The arithmetic of register accesses, bit by bit: what a mask clears, and what a write merges. -/

namespace Sys2Proof.Machine

theorem testBit_clearMask (x mask i : Nat) : (clearMask x mask).testBit i = (x.testBit i && !mask.testBit i) := by
  rw [clearMask, Nat.testBit_xor, Nat.testBit_and]
  cases x.testBit i <;> cases mask.testBit i <;> rfl

/-- A write takes the covered writable bits from the value, and every other bit from the register (R14). -/
theorem testBit_mergeBits (old v mask rw i : Nat) :
    (mergeBits old v mask rw).testBit i = if mask.testBit i && rw.testBit i then v.testBit i else old.testBit i := by
  simp only [mergeBits, Nat.testBit_or, testBit_clearMask, Nat.testBit_and]
  cases mask.testBit i <;> cases rw.testBit i <;> simp

theorem testBit_fieldMask (lo n i : Nat) : (fieldMask lo n).testBit i = decide (lo ≤ i ∧ i < lo + n) := by
  rw [fieldMask, Nat.testBit_mul_two_pow, Nat.testBit_two_pow_sub_one, ← Bool.decide_and]
  exact decide_eq_decide.2 (by omega)

theorem testBit_bits (x lo n i : Nat) : (bits x lo n).testBit i = (decide (i < n) && x.testBit (lo + i)) := by
  rw [bits, Nat.testBit_mod_two_pow, Nat.testBit_shiftRight]

theorem testBit_of_lt_two_pow {x n i : Nat} (hx : x < 2 ^ n) (hi : n ≤ i) : x.testBit i = false :=
  Nat.testBit_lt_two_pow (Nat.lt_of_lt_of_le hx (Nat.pow_le_pow_right (by decide) hi))

/-- All bits of a number below 2 ^ n cleared. -/
theorem clearMask_all {x n : Nat} (hx : x < 2 ^ n) : clearMask x (2 ^ n - 1) = 0 := by
  simp [clearMask, Nat.and_two_pow_sub_one_of_lt_two_pow hx]

@[simp] theorem clearMask_zero (x : Nat) : clearMask x 0 = x := by simp [clearMask]

/-- A write that covers a whole register of n bits. -/
theorem mergeBits_all {old v n : Nat} (ho : old < 2 ^ n) (hv : v < 2 ^ n) :
    mergeBits old v (2 ^ n - 1) (2 ^ n - 1) = v := by
  refine Nat.eq_of_testBit_eq fun i => ?_
  rw [testBit_mergeBits, Nat.testBit_two_pow_sub_one]
  by_cases hi : i < n
  · simp [hi]
  · simp [hi, testBit_of_lt_two_pow ho (Nat.le_of_not_lt hi), testBit_of_lt_two_pow hv (Nat.le_of_not_lt hi)]

/-- A write that covers the upper half of a register of 2 * n bits. -/
theorem mergeBits_upper {old v n : Nat} (ho : old < 2 ^ (2 * n)) :
    mergeBits old (v % 2 ^ n * 2 ^ n) ((2 ^ n - 1) * 2 ^ n) (2 ^ (2 * n) - 1) = v % 2 ^ n * 2 ^ n + old % 2 ^ n := by
  refine Nat.eq_of_testBit_eq fun i => ?_
  rw [testBit_mergeBits, Nat.mul_comm (v % 2 ^ n), Nat.testBit_two_pow_mul_add _ (Nat.mod_lt _ (Nat.two_pow_pos n)),
    Nat.testBit_mul_two_pow, Nat.testBit_two_pow_sub_one, Nat.testBit_two_pow_sub_one, Nat.testBit_two_pow_mul,
    Nat.testBit_mod_two_pow, Nat.testBit_mod_two_pow]
  by_cases hlow : i < n
  · simp [hlow, Nat.not_le.2 hlow]
  · by_cases hhigh : i < 2 * n
    · have h1 : n ≤ i := Nat.le_of_not_lt hlow
      have h2 : i - n < n := by omega
      simp [hlow, hhigh, h1, h2]
    · have h2 : ¬ i - n < n := by omega
      simp [hlow, hhigh, h2, testBit_of_lt_two_pow ho (Nat.le_of_not_lt hhigh)]

/-- A write of 64 bits to a register that has one field, of n bits at bit lo. -/
theorem mergeBits_field {old v lo n : Nat} (hn : lo + n ≤ 64) (ho : old < 2 ^ (lo + n)) (hlow : old % 2 ^ lo = 0) :
    mergeBits old v (2 ^ 64 - 1) (fieldMask lo n) = bits v lo n * 2 ^ lo := by
  refine Nat.eq_of_testBit_eq fun i => ?_
  rw [testBit_mergeBits, Nat.testBit_two_pow_sub_one, testBit_fieldMask, Nat.testBit_mul_two_pow, testBit_bits]
  by_cases hlo : lo ≤ i
  · by_cases hhi : i < lo + n
    · have h1 : i < 64 := by omega
      have h2 : i - lo < n := by omega
      simp [hlo, hhi, h1, h2]
    · have h2 : ¬ i - lo < n := by omega
      simp [hhi, h2, testBit_of_lt_two_pow ho (Nat.le_of_not_lt hhi)]
  · have hbit : old.testBit i = false := by
      have h := congrArg (Nat.testBit · i) hlow
      simpa [Nat.testBit_mod_two_pow, Nat.lt_of_not_le hlo] using h
    simp [hlo, hbit]

/-- The lowest field of a number with other fields above it. -/
theorem bits_zero_of_add_mul {x y n : Nat} (hx : x < 2 ^ n) : bits (y * 2 ^ n + x) 0 n = x := by
  rw [bits, Nat.shiftRight_zero, Nat.mul_add_mod', Nat.mod_eq_of_lt hx]

end Sys2Proof.Machine
end

section
/-! Reads and writes of BAR0, over the SMBus and by the host (R14, R237, R260, R262, R270, R293, R434, R440). -/

namespace Sys2Proof.Machine

/-! ### Reads -/

theorem exec_smbusRead {c : Nat → Bool → Instr} {off size : Nat} (pecOk : Bool) (s : State)
    (hc : (c = Instr.read32 ∧ size = 4) ∨ (c = Instr.read64 ∧ size = 8)) :
    exec (c off pecOk) s = .next (smbusReadOp off size pecOk s) := by
  rcases hc with ⟨rfl, rfl⟩ | ⟨rfl, rfl⟩ <;> rfl

theorem smbusReadOp_badPec {s : State} (off size : Nat) (hstandby : s.st.standbyDone = true) :
    smbusReadOp off size false s = emit .smbusNack s := by
  simp [smbusReadOp, hstandby]

theorem smbusReadOp_beyond {s : State} {off : Nat} (size : Nat) (hstandby : s.st.standbyDone = true)
    (hreach : smbusReach off = false) : smbusReadOp off size true s = emit (.smbus (leBytes size 0)) s := by
  simp [smbusReadOp, hstandby, hreach]

theorem smbusReadOp_reached {s : State} {off : Nat} (size : Nat) (hstandby : s.st.standbyDone = true)
    (hreach : smbusReach off = true) :
    smbusReadOp off size true s =
      emit (.smbus (leBytes size (bar0Read 0 off size s).1)) (bar0Read 0 off size s).2 := by
  simp [smbusReadOp, hstandby, hreach]

theorem leBytes_zero (n : Nat) : leBytes n 0 = fill n 0 := by
  induction n with
  | zero => rfl
  | succ n ih => rw [leBytes, Nat.zero_div, ih]; rfl

theorem exec_registerRead {s : State} {f : Nat} (off size : Nat) (hstandby : s.st.standbyDone = true)
    (hf : funcEnabled s f = true) :
    exec (.registerReadClear f off size) s =
      .next (emit (.bar0 f off size (bar0Read f off size s).1) (bar0Read f off size s).2) := by
  simp [exec, execRegisterReadClear, hstandby, hf]

theorem bar0Read_notOk {s : State} (f : Nat) {off size : Nat} (hok : accessOk off size = false) :
    bar0Read f off size s = (0, s) := by
  simp [bar0Read, hok]

/-- HIF_DROP, the register of the dropped doorbells (R270). -/
theorem slotRead_dropped {s : State} (hready : s.st.ready = true) :
    slotRead 0xB0008 s = (s.dropped.reason * 2 ^ 50 + s.dropped.queue * 2 ^ 32 + s.dropped.count, s) := by
  simp [slotRead, hifSlot, hready]

theorem slotClear_dropped {s : State} (mask : Nat) (hready : s.st.ready = true) :
    slotClear 0xB0008 mask s = { s with
      dropped := { s.dropped with count := clearMask s.dropped.count (mask % 2 ^ 32) } } := by
  simp [slotClear, hready]

/-- An access to the PF reads its part of a slot, and clears the RC bits that it covers (R14). -/
theorem bar0Read_pf {s : State} {off size : Nat} (hok : accessOk off size = true) :
    bar0Read 0 off size s =
      (bits (slotRead (off / 8 * 8) s).1 (8 * (off % 8)) (8 * size),
        slotClear (off / 8 * 8) (accessMask off size) (slotRead (off / 8 * 8) s).2) := by
  simp [bar0Read, hok]

theorem bar0Read_droppedLow {s : State} (hready : s.st.ready = true) (hcount : s.dropped.count < 2 ^ 32) :
    bar0Read 0 0xB0008 4 s = (s.dropped.count, { s with dropped := { s.dropped with count := 0 } }) := by
  have hupper : s.dropped.reason * 2 ^ 50 + s.dropped.queue * 2 ^ 32 =
      (s.dropped.reason * 2 ^ 18 + s.dropped.queue) * 2 ^ 32 := by omega
  have hvalue : bits (slotRead 0xB0008 s).1 0 32 = s.dropped.count := by
    rw [slotRead_dropped hready, hupper, bits_zero_of_add_mul hcount]
  have hclear : slotClear 0xB0008 (2 ^ 32 - 1) (slotRead 0xB0008 s).2 =
      { s with dropped := { s.dropped with count := 0 } } := by
    rw [slotRead_dropped hready, slotClear_dropped _ hready, show (2 ^ 32 - 1) % 2 ^ 32 = 2 ^ 32 - 1 by decide,
      clearMask_all hcount]
  rw [bar0Read_pf (by decide)]
  exact Prod.ext hvalue hclear

/-- The upper half of the register holds no RC bit. -/
theorem bar0Read_droppedHigh {s : State} (hready : s.st.ready = true) : (bar0Read 0 0xB000C 4 s).2 = s := by
  have hclear : slotClear 0xB0008 ((2 ^ 32 - 1) * 2 ^ 32) (slotRead 0xB0008 s).2 = s := by
    rw [slotRead_dropped hready, slotClear_dropped _ hready, show (2 ^ 32 - 1) * 2 ^ 32 % 2 ^ 32 = 0 by decide,
      clearMask_zero]
  rw [bar0Read_pf (by decide)]
  exact hclear

/-! ### Writes -/

theorem exec_registerWrite {s : State} {f : Nat} (off size : Nat) (v : W64) (found : BootFindings) (eye : Nat × Nat)
    (hstandby : s.st.standbyDone = true) (hf : funcEnabled s f = true) :
    exec (.registerWrite f off size v found eye) s = .next (bar0Write f off size v.toNat found eye s) := by
  simp [exec, execRegisterWrite, hstandby, hf]

theorem bar0Write_notOk {f off size : Nat} (v : Nat) (found : BootFindings) (eye : Nat × Nat) (s : State)
    (hok : accessOk off size = false) : bar0Write f off size v found eye s = s := by
  simp [bar0Write, hok]

/-- A write of 8 bytes to the PF covers its slot whole. -/
theorem bar0Write_pf8 {off v : Nat} (found : BootFindings) (eye : Nat × Nat) (s : State) (hoff : off < 0x1000000)
    (halign : off % 8 = 0) (hv : v < 2 ^ 64) :
    bar0Write 0 off 8 v found eye s = slotWrite off (2 ^ 64 - 1) v found eye s := by
  have hslot : off / 8 * 8 = off := by omega
  have hv' : v % 18446744073709551616 = v := Nat.mod_eq_of_lt hv
  have hlow : ¬ 0x1000000 ≤ off := by omega
  simp [bar0Write, accessOk, accessMask, halign, hslot, hlow, hv']

/-- A write of 4 bytes to the upper half of a slot of the PF. -/
theorem bar0Write_pf4_upper {off : Nat} (v : Nat) (found : BootFindings) (eye : Nat × Nat) (s : State)
    (hoff : off < 0x1000000) (halign : off % 8 = 4) :
    bar0Write 0 off 4 v found eye s =
      slotWrite (off - 4) ((2 ^ 32 - 1) * 2 ^ 32) (v % 2 ^ 32 * 2 ^ 32) found eye s := by
  have hslot : off / 8 * 8 = off - 4 := by omega
  have halign4 : off % 4 = 0 := by omega
  have hlow : ¬ 0x1000000 ≤ off := by omega
  simp [bar0Write, accessOk, accessMask, halign, halign4, hslot, hlow]

theorem slotWrite_hif {s : State} {off : Nat} (mask v : Nat) (found : BootFindings) (eye : Nat × Nat)
    (hready : s.st.ready = true) (hlow : 0x40000 ≤ off) (hhigh : off < 0x100000) :
    slotWrite off mask v found eye s = hifWrite off mask v s := by
  simp [slotWrite, hready, show ¬ off = 0x10000 by omega, show ¬ off = 0x10100 by omega, show ¬ off = 0x20000 by omega,
    show ¬ off < 0x40000 by omega, hhigh]

theorem slotWrite_trn {s : State} {off : Nat} (mask v : Nat) (found : BootFindings) (eye : Nat × Nat)
    (hready : s.st.ready = true) (hlow : 0x280000 ≤ off) (hhigh : off < 0x300000) :
    slotWrite off mask v found eye s = trnWrite off mask v s := by
  simp [slotWrite, hready, show ¬ off = 0x10000 by omega, show ¬ off = 0x10100 by omega, show ¬ off = 0x20000 by omega,
    show ¬ off < 0x40000 by omega, show ¬ off < 0x100000 by omega, show ¬ off < 0x200000 by omega,
    show ¬ off < 0x280000 by omega, hhigh]

/-- The blocks of which every register is read-only (R107, R165, R192). -/
def readOnlySlot (off : Nat) : Prop :=
  off < 0x10000 ∨ (0x20008 ≤ off ∧ off < 0x40000) ∨ (0x200000 ≤ off ∧ off < 0x280000) ∨ (0x300000 ≤ off ∧ off < 0x500000)

theorem slotWrite_readOnly {off : Nat} (mask v : Nat) (found : BootFindings) (eye : Nat × Nat) (s : State)
    (h : readOnlySlot off) : slotWrite off mask v found eye s = s := by
  have hrst : ¬ off = 0x10000 := by unfold readOnlySlot at h; omega
  have hagr : ¬ off = 0x10100 := by unfold readOnlySlot at h; omega
  have hpwr : ¬ off = 0x20000 := by unfold readOnlySlot at h; omega
  unfold slotWrite
  rw [if_neg hrst, if_neg hagr, if_neg hpwr]
  rcases h with h | h | h | h
  · simp [show off < 0x40000 by omega]
  · simp [show off < 0x40000 by omega]
  · simp [show ¬ off < 0x40000 by omega, show ¬ off < 0x100000 by omega, show ¬ off < 0x200000 by omega, h.2]
  · simp [show ¬ off < 0x40000 by omega, show ¬ off < 0x100000 by omega, show ¬ off < 0x200000 by omega,
      show ¬ off < 0x280000 by omega, show ¬ off < 0x300000 by omega, h.2]

/-- A write to the PF in a read-only block, whatever its size. -/
theorem bar0Write_readOnly {off : Nat} (size v : Nat) (found : BootFindings) (eye : Nat × Nat) (s : State)
    (h : readOnlySlot off) : bar0Write 0 off size v found eye s = s := by
  have hslot : readOnlySlot (off / 8 * 8) := by unfold readOnlySlot at h ⊢; omega
  unfold bar0Write
  dsimp only
  split
  · rfl
  · exact slotWrite_readOnly _ _ found eye s hslot

/-- A VF has its MSI-X table alone to write (R260). -/
theorem bar0Write_vf {f off : Nat} (size v : Nat) (found : BootFindings) (eye : Nat × Nat) (s : State) (hf : f ≠ 0)
    (h : off < 0x10000 ∨ 0x18000 ≤ off) : bar0Write f off size v found eye s = s := by
  have hslot : ¬ (0x10000 ≤ off / 8 * 8 ∧ off / 8 * 8 < 0x18000) := by omega
  simp [bar0Write, hf, hslot]

/-- RST_CTRL.DEVICE with its key (R421). -/
theorem bar0Write_rstCtrl {s : State} {v : Nat} (found : BootFindings) (eye : Nat × Nat)
    (hdevice : bit v 31 = true) (hkey : bits v 0 16 = 0x5A17) :
    bar0Write 0 0x10000 4 v found eye s = resetRequest 2 found s := by
  have hdevice' : bit (v % 4294967296) 31 = true := (Nat.testBit_mod_two_pow v 32 31).trans hdevice
  have hkey' : bits (v % 4294967296) 0 16 = 0x5A17 := by
    rw [← hkey]; simp only [bits, Nat.shiftRight_zero]; omega
  have hmask : bit 4294967295 0 = true := by decide
  simp [bar0Write, accessOk, accessMask, slotWrite, actsEarly, hdevice', hkey', hmask]

theorem hifWrite_qtable {g : Nat} (mask v : Nat) (s : State) (hg : g < 4096) :
    hifWrite (0x40000 + 0x40 * g + 8) mask v s = setGroup s g { getGroup s g with
      shadow := { (getGroup s g).shadow with qtable := mergeBits (getGroup s g).shadow.qtable v mask (2 ^ 64 - 1) } } := by
  have hgroup : (0x40000 + 0x40 * g + 8 - 0x40000) / 0x40 = g := by omega
  have hrel : (0x40000 + 0x40 * g + 8) % 0x40 = 8 := by omega
  rw [hifWrite, if_pos (by omega), hgroup, hrel]
  rfl

theorem hifWrite_mmuBase {g : Nat} (mask v : Nat) (s : State) (hg : g < 4096) :
    hifWrite (0x80000 + 0x20 * g) mask v s = setGroup s g { getGroup s g with
      mmuBase := mergeBits (getGroup s g).mmuBase v mask (fieldMask 12 36) } := by
  have hgroup : (0x80000 + 0x20 * g - 0x80000) / 0x20 = g := by omega
  have hrel : (0x80000 + 0x20 * g) % 0x20 = 0 := by omega
  rw [hifWrite, if_neg (by omega), if_pos (by omega), hgroup, hrel]
  rfl

theorem trnWrite_state {t : Nat} (mask v : Nat) (s : State) (ht : t < 4096) :
    trnWrite (0x280000 + 0x20 * t + 8) mask v s =
      if bit (v &&& mask) 63 then setTrn s t { getTrn s t with ignored := false } else s := by
  have hunit : (0x280000 + 0x20 * t + 8 - 0x280000) / 0x20 = t := by omega
  have hrel : (0x280000 + 0x20 * t + 8) % 0x20 = 8 := by omega
  rw [trnWrite, if_pos (by omega), hunit, hrel]
  rfl

/-- A write of 8 bytes to TRN_STATE of a Turnstile. -/
theorem exec_write_trnState {s : State} {t : Nat} (v : W64) (found : BootFindings) (eye : Nat × Nat)
    (hstandby : s.st.standbyDone = true) (hready : s.st.ready = true) (ht : t < 4096) :
    exec (.registerWrite 0 (0x280000 + 0x20 * t + 8) 8 v found eye) s =
      .next (if bit (v.toNat &&& (2 ^ 64 - 1)) 63 then setTrn s t { getTrn s t with ignored := false } else s) := by
  rw [exec_registerWrite _ _ _ _ _ hstandby rfl, bar0Write_pf8 _ _ _ (by omega) (by omega) v.isLt,
    slotWrite_trn _ _ _ _ hready (by omega) (by omega), trnWrite_state _ _ _ ht]

/-- Settles O60: the reads, then the writes, each by the law of the slot that it reaches. -/
theorem registers : Obligations.Registers := by
  refine ⟨⟨?_, ?_, ?_, ?_⟩, ?_, ?_, ?_, ?_, ?_⟩
  · intro c s off size hstandby hc
    simp only [exec_smbusRead _ s hc]
    refine ⟨?_, fun hreach => ?_, fun hreach => ⟨_, _, rfl, ?_⟩⟩
    · rw [smbusReadOp_badPec off size hstandby]; rfl
    · rw [smbusReadOp_beyond size hstandby hreach, leBytes_zero]; rfl
    · rw [smbusReadOp_reached size hstandby hreach]; rfl
  · intro s f off size v t hstandby hfunc hread
    rw [exec_registerRead off size hstandby (funcEnabled_of hfunc), hread]
    rfl
  · intro s hstandby hready hcount
    constructor
    · rw [exec_registerRead _ _ hstandby rfl, bar0Read_droppedLow hready hcount]
      rfl
    · refine ⟨(bar0Read 0 0xB000C 4 s).1, ?_⟩
      rw [exec_registerRead _ _ hstandby rfl, bar0Read_droppedHigh hready]
      rfl
  · intro s f off size hstandby hfunc hok
    rw [exec_registerRead off size hstandby (funcEnabled_of hfunc), bar0Read_notOk f hok]
    rfl
  · intro s v found eye hstandby _ hdevice hkey
    rw [exec_registerWrite _ _ _ _ _ hstandby rfl, bar0Write_rstCtrl found eye hdevice hkey]
  · intro s f off size v found eye hstandby hfunc hignored
    rw [exec_registerWrite _ _ _ _ _ hstandby (funcEnabled_of hfunc)]
    congr 1
    rcases hignored with hok | ⟨rfl, h⟩ | ⟨rfl, h⟩ | ⟨rfl, h⟩ | ⟨rfl, h⟩ | ⟨hf, h⟩
    · exact bar0Write_notOk _ found eye s hok
    · exact bar0Write_readOnly _ _ found eye s (.inl h)
    · exact bar0Write_readOnly _ _ found eye s (.inr (.inl h))
    · exact bar0Write_readOnly _ _ found eye s (.inr (.inr (.inl h)))
    · exact bar0Write_readOnly _ _ found eye s (.inr (.inr (.inr h)))
    · exact bar0Write_vf _ _ found eye s hf h
  · intro s g v x found eye hstandby hready hg hx hqtable
    subst hx
    constructor
    · rw [exec_registerWrite _ _ _ _ _ hstandby rfl, bar0Write_pf8 _ _ _ (by omega) (by omega) v.isLt,
        slotWrite_hif _ _ _ _ hready (by omega) (by omega), hifWrite_qtable _ _ _ hg, mergeBits_all hqtable v.isLt]
    · rw [exec_registerWrite _ _ _ _ _ hstandby rfl, bar0Write_pf4_upper _ _ _ _ (by omega) (by omega),
        slotWrite_hif _ _ _ _ hready (by omega) (by omega),
        show 0x40000 + 0x40 * g + 12 - 4 = 0x40000 + 0x40 * g + 8 by omega, hifWrite_qtable _ _ _ hg,
        mergeBits_upper (n := 32) hqtable]
  · intro s g v x found eye hstandby hready hg hx hbase halign
    subst hx
    have hfield : mergeBits (getGroup s g).mmuBase v.toNat (2 ^ 64 - 1) (fieldMask 12 36) = bits v.toNat 12 36 * 4096 :=
      mergeBits_field (lo := 12) (n := 36) (by decide) hbase halign
    rw [exec_registerWrite _ _ _ _ _ hstandby rfl, bar0Write_pf8 _ _ _ (by omega) (by omega) v.isLt,
      slotWrite_hif _ _ _ _ hready (by omega) (by omega), hifWrite_mmuBase _ _ _ hg, hfield]
  · intro s t found eye hstandby hready ht
    constructor
    · have hset : bit ((2 ^ 63 : W64).toNat &&& (2 ^ 64 - 1)) 63 = true := by decide +kernel
      rw [exec_write_trnState _ _ _ hstandby hready ht, if_pos hset]
    · rw [exec_write_trnState _ _ _ hstandby hready ht, if_neg (by decide)]

end Sys2Proof.Machine
end

section
/-! The power cap, the governor's samples and windows, and what removes VCORE (R22, R26 to R28, R420, R440). -/

namespace Sys2Proof.Machine

/-! ### The cap (R27, R440) -/

theorem exec_pwrCapWrite {s : State} (v : W32) (hstandby : s.st.standbyDone = true) :
    exec (.pwrCapWrite v) s = .next (applyCap v.toNat 0 s) := by
  simp [exec, execPwrCapWrite, hstandby]

theorem exec_setCap_goodPec {s : State} (w : Nat) (hstandby : s.st.standbyDone = true) :
    exec (.setCap w true) s = .next (applyCap w 1 s) := by
  simp [exec, execSetCap, hstandby]

theorem exec_setCap_badPec {s : State} (w : Nat) (hstandby : s.st.standbyDone = true) :
    exec (.setCap w false) s = .next (emit .smbusNack s) := by
  simp [exec, execSetCap, hstandby]

/-! ### The thermal hold (R26, R420) -/

/-- VCORE is off and nothing runs, by a sensor's trip. -/
def InThermalHold (s : State) : Prop :=
  s.pwr.vcoreMv = 0 ∧ s.pwr.thermN = false ∧ s.st.thermalHold = true ∧ s.st.ready = false

@[simp] theorem removeVcore_ops (s : State) : (removeVcore s).ops = s.ops := by simp [removeVcore]
@[simp] theorem removeVcore_queues (s : State) : (removeVcore s).queues = s.queues := by simp [removeVcore]
@[simp] theorem removeVcore_dmem (s : State) : (removeVcore s).dmem = s.dmem := by simp [removeVcore]
@[simp] theorem removeVcore_hmem (s : State) : (removeVcore s).hmem = s.hmem := by simp [removeVcore]
@[simp] theorem removeVcore_thermalTrips (s : State) :
    (removeVcore s).ice.now.thermalTrips = s.ice.now.thermalTrips := rfl

/-- VCORE removed with THERM_N asserted in the hold is the thermal hold, whatever else the trip did. -/
theorem inThermalHold_removeVcore {s : State} (htherm : s.pwr.thermN = false) (hhold : s.st.thermalHold = true) :
    InThermalHold (removeVcore s) := by
  simp [InThermalHold, removeVcore, htherm, hhold]

theorem inThermalHold_thermalTrip (sensor : Nat) (temp : Int) (s : State) :
    InThermalHold (thermalTrip sensor temp s) :=
  inThermalHold_removeVcore rfl rfl

/-- The comparator's trip: the hold, with the operations dropped and the trip counted in the ledger. No completion is
written: the queues and the memory stand. -/
theorem exec_thermalComparatorTrip {s : State} (sensor : Nat) (temp : Int) (hvcore : s.pwr.vcoreMv ≠ 0) :
    ∃ t, exec (.thermalComparatorTrip sensor temp) s = .next t ∧ InThermalHold t ∧ t.ops = [] ∧
      t.ice.now.thermalTrips = s.ice.now.thermalTrips + 1 ∧ t.queues = s.queues ∧ t.dmem = s.dmem ∧
      t.hmem = s.hmem := by
  refine ⟨_, congrArg Host.Outcome.next (if_neg hvcore), inThermalHold_removeVcore rfl rfl, ?_⟩
  simp

/-! ### What a sample takes (R22, R28) -/

/-- What a sample writes and the governor's acts leave: the input voltage, the sensors, and the running window. -/
def samplesOf (p : Power) : Nat × Table Int × Nat × Nat := (p.supplyMv, p.temps, p.winSum, p.winCount)

/-- Of what belongs to power, time that passes changes the time under limiting alone (R28). -/
theorem passTo_pwr (t : Nat) (s : State) : ∃ n, (passTo t s).pwr = { s.pwr with limitNs := n } := by
  unfold passTo passTime
  split
  · exact ⟨_, rfl⟩
  · exact ⟨s.pwr.limitNs, rfl⟩

@[simp] theorem samplesOf_removeVcore (s : State) : samplesOf (removeVcore s).pwr = samplesOf s.pwr := by
  simp [removeVcore, samplesOf]

@[simp] theorem samplesOf_thermalTrip (sensor : Nat) (temp : Int) (s : State) :
    samplesOf (thermalTrip sensor temp s).pwr = samplesOf s.pwr := by
  simp only [thermalTrip, samplesOf_removeVcore]
  rfl

@[simp] theorem samplesOf_showStage (s : State) : samplesOf (showStage s).pwr = samplesOf s.pwr := rfl

@[simp] theorem samplesOf_judgeHeat (s : State) : samplesOf (judgeHeat s).pwr = samplesOf s.pwr := by
  unfold judgeHeat
  dsimp only
  split
  · rfl
  · split
    · rw [record_pwr]; rfl
    · split <;> rfl

@[simp] theorem samplesOf_limitDraw (watts : Nat) (p : Power) : samplesOf (limitDraw watts p) = samplesOf p := by
  unfold limitDraw
  split <;> rfl

/-- Heat gives `limitBoth` a VCORE and the throttling; the rest stands as the cap left it. -/
@[simp] theorem samplesOf_limitBoth (watts : Nat) (p : Power) : samplesOf (limitBoth watts p) = samplesOf p := by
  have hcap : samplesOf (limitBoth watts p) = samplesOf (if overCap watts p then limitDraw watts p else p) := rfl
  rw [hcap]
  split
  · exact samplesOf_limitDraw watts p
  · rfl

@[simp] theorem samplesOf_governorAct (watts : Nat) (s : State) :
    samplesOf (governorAct watts s).pwr = samplesOf s.pwr := by
  unfold governorAct
  split <;> simp

@[simp] theorem countThermalCycle_pwr (s : State) : (countThermalCycle s).pwr = s.pwr := by
  unfold countThermalCycle
  split
  · rfl
  · split
    · rfl
    · split <;> rfl

theorem exec_governorSample (watts mv : Nat) (ts : List (Nat × Int)) (s : State) :
    exec (.governorSample watts mv ts) s = .next (governorSampleOp watts mv ts s) := rfl

/-- A sample takes its readings, and then the governor acts on them, or with VCORE off judges heat alone. -/
theorem governorSampleOp_takes {s : State} (watts mv : Nat) (ts : List (Nat × Int))
    (hstandby : s.st.standbyDone = true) :
    ∃ u, samplesOf u.pwr = (mv, ts.foldl (fun l x => tinsert x.1 x.2 l) s.pwr.temps, s.pwr.winSum + watts,
        s.pwr.winCount + 1) ∧
      governorSampleOp watts mv ts s = if s.pwr.vcoreMv = 0 then showStage (judgeHeat u) else governorAct watts u := by
  obtain ⟨n, hpwr⟩ := passTo_pwr (s.pwr.lastSample + 100000) s
  refine ⟨?u, ?taken, ?acts⟩
  case acts =>
    simp only [governorSampleOp, hstandby, Bool.not_true, Bool.false_eq_true, if_false, hpwr]
    rfl
  case taken => simp [samplesOf]

theorem samplesOf_governorSampleOp {s : State} (watts mv : Nat) (ts : List (Nat × Int))
    (hstandby : s.st.standbyDone = true) :
    samplesOf (governorSampleOp watts mv ts s).pwr =
      (mv, ts.foldl (fun l x => tinsert x.1 x.2 l) s.pwr.temps, s.pwr.winSum + watts, s.pwr.winCount + 1) := by
  obtain ⟨u, htaken, hacts⟩ := governorSampleOp_takes watts mv ts hstandby
  rw [hacts, ← htaken]
  split
  · rw [samplesOf_showStage, samplesOf_judgeHeat]
  · rw [samplesOf_governorAct]

theorem governorAct_trips {s : State} {k : Nat} {c : Int} (watts : Nat) (hhot : (k, c) ∈ hottest s.pwr.temps)
    (hc : 115 ≤ c) : governorAct watts s = thermalTrip k c s := by
  rw [Option.mem_def] at hhot
  simp [governorAct, hhot, Option.filter, hc]

/-- The trip of a sample, judged by the sensors that the sample left (R26). -/
theorem inThermalHold_governorSampleOp {s : State} {k : Nat} {c : Int} (watts mv : Nat) (ts : List (Nat × Int))
    (hstandby : s.st.standbyDone = true) (hvcore : s.pwr.vcoreMv ≠ 0)
    (hhot : (k, c) ∈ hottest (governorSampleOp watts mv ts s).pwr.temps) (hc : 115 ≤ c) :
    InThermalHold (governorSampleOp watts mv ts s) := by
  obtain ⟨u, -, hacts⟩ := governorSampleOp_takes watts mv ts hstandby
  rw [if_neg hvcore] at hacts
  rw [hacts] at hhot ⊢
  have htemps : (governorAct watts u).pwr.temps = u.pwr.temps :=
    congrArg (fun x => x.2.1) (samplesOf_governorAct watts u)
  rw [htemps] at hhot
  rw [governorAct_trips watts hhot hc]
  exact inThermalHold_thermalTrip k c u

/-! ### The end of a window (R22, R27, R28) -/

theorem exec_governorWindowEnd (s : State) : exec .governorWindowEnd s = .next (governorWindowEndOp s) := rfl

theorem governorWindowEndOp_pwr {s : State} (hstandby : s.st.standbyDone = true) :
    (governorWindowEndOp s).pwr.capInForce = s.pwr.capW ∧ (governorWindowEndOp s).pwr.winSum = 0 ∧
      (governorWindowEndOp s).pwr.winCount = 0 ∧
      (governorWindowEndOp s).pwr.inputW = if s.pwr.winCount = 0 then 0 else s.pwr.winSum / s.pwr.winCount := by
  obtain ⟨n, hpwr⟩ := passTo_pwr (s.pwr.lastWindow + 10000000) s
  simp [governorWindowEndOp, showStage, hstandby, hpwr]

/-- Settles O14: the cap's two paths, what a sample takes and when it trips, the end of a window, the comparator's trip. -/
theorem powerCapAndGovernor : Obligations.PowerCapAndGovernor := by
  refine ⟨⟨fun s v hstandby => exec_pwrCapWrite v hstandby, fun s w hstandby =>
    ⟨exec_setCap_goodPec w hstandby, exec_setCap_badPec w hstandby⟩⟩, ?_, ?_, ?_⟩
  · intro s w mv ts hstandby
    have htaken := samplesOf_governorSampleOp w mv ts hstandby
    simp only [samplesOf, Prod.mk.injEq] at htaken
    obtain ⟨hsupply, htemps, hsum, hcount⟩ := htaken
    refine ⟨_, exec_governorSample w mv ts s, hsupply, htemps, hsum, hcount, ?_⟩
    rintro hvcore ⟨⟨k, c⟩, hhot, hc⟩
    exact inThermalHold_governorSampleOp w mv ts hstandby hvcore hhot hc
  · intro s hstandby
    exact ⟨_, exec_governorWindowEnd s, governorWindowEndOp_pwr hstandby⟩
  · intro s k c hvcore
    obtain ⟨t, hexec, ⟨hoff, htherm, hhold, hready⟩, hrest⟩ := exec_thermalComparatorTrip k c hvcore
    exact ⟨t, hexec, hoff, htherm, hhold, hready, hrest⟩

end Sys2Proof.Machine
end

section
/-! The codes of T4 (R37, R38): what each decodes as, and why none is stored as the code of −0. -/

namespace Sys2Proof.Machine

/-- What the store path makes of a conversion is never the code of −0 in a T format (R37). -/
theorem storeZero_ne_negZero {f arith code : Nat} {p : FloatFmt} (hp : floatFmt f = some p) (hT : isT f = true) :
    storeZero f arith code ≠ 2 ^ (p.prec - 1 + p.ebits) := by
  simp only [storeZero, hp, hT, or_true, and_true]
  split
  · exact Nat.ne_of_lt (Nat.two_pow_pos _)
  · assumption

theorem storeVal_T4_code (arith : Nat) (v : XVal) :
    (storeVal 0x23 arith v).1 = storeZero 0x23 arith (convertA 0x23 arith v).1 := rfl

/-- Twice the magnitude that R38's table gives a code of T4. -/
def t4Doubled (c : Nat) : Nat := [0, 1, 2, 3, 4, 6, 8, 12].getD (c % 8) 0

/-- Whether a value is the one that R38's table gives a code of T4. -/
def isT4Value (c : Nat) : XVal → Bool
  | .fin s n d => decide (s = decide (8 < c) ∧ 0 < d ∧ 2 * n = t4Doubled c * d)
  | _ => false

theorem exists_fin_of_isT4Value {c : Nat} {v : XVal} (h : isT4Value c v = true) :
    ∃ n d, v = .fin (decide (8 < c)) n d ∧ 0 < d ∧ 2 * n = t4Doubled c * d := by
  rcases v with ⟨s, n, d⟩ | _ | _
  · obtain ⟨rfl, hd, hn⟩ := of_decide_eq_true h
    exact ⟨n, d, rfl, hd, hn⟩
  all_goals cases h

theorem isT4Value_decodeElem : ∀ c < 16, isT4Value c (decodeElem 0x23 c) = true := by decide

/-- Settles O10: the sixteen codes decode as listed, and the store path's zero is never the code of −0. -/
theorem t4Codes : Obligations.T4Codes :=
  ⟨fun c hc => exists_fin_of_isT4Value (isT4Value_decodeElem c hc), fun arith v =>
    storeVal_T4_code arith v ▸ storeZero_ne_negZero (p := ⟨2, 2, 1⟩) rfl rfl⟩

end Sys2Proof.Machine
end

section
/-! The lane instructions of the vector engine (R109, R119, R128 to R132, R136 to R138): what a write of lanes leaves in the
run, and how an instruction that changes registers only is issued. -/

namespace Sys2Proof.Machine

/-! ### Writes of one lane -/

@[simp] theorem getV_note (r : VecRun) (pc lane fl d l : Nat) : (r.note pc lane fl).getV d l = r.getV d l := rfl

@[simp] theorem getV_setV_same (r : VecRun) (d l v : Nat) : (r.setV d l v).getV d l = v % 2 ^ 32 := by
  simp [VecRun.getV, VecRun.setV]

theorem getV_setV_ne {r : VecRun} {d e l m v : Nat} (hl : l < 64) (hm : m < 64) (h : ¬ (e = d ∧ m = l)) :
    (r.setV d l v).getV e m = r.getV e m :=
  tget_tset_ne (by omega)

/-! ### Writes of several lanes -/

/-- One lane of Vd is written with a value and its flags. -/
def writeLane (pc d : Nat) (f : Nat → Nat × Nat) (q : VecRun) (l : Nat) : VecRun :=
  (q.setV d l (f l).1).note pc l (f l).2

theorem lt_of_mem_lanesOfRun {r : VecRun} {i l : Nat} (h : l ∈ lanesOfRun r i) : l < 64 :=
  List.mem_range.1 (List.mem_filter.1 h).1

/-- A lane reads what was written to it last, and any other lane as before. -/
theorem getV_foldl_writeLane {pc d e m : Nat} {f : Nat → Nat × Nat} (hm : m < 64) (ls : List Nat) (q : VecRun)
    (hls : ∀ l ∈ ls, l < 64) :
    (ls.foldl (writeLane pc d f) q).getV e m = if e = d ∧ m ∈ ls then (f m).1 % 2 ^ 32 else q.getV e m := by
  induction ls generalizing q with
  | nil => simp
  | cons l ls ih =>
    rw [List.foldl_cons, ih _ fun k hk => hls k (List.mem_cons_of_mem _ hk)]
    by_cases hlater : e = d ∧ m ∈ ls
    · simp [hlater]
    · by_cases hnow : e = d ∧ m = l
      · obtain ⟨rfl, rfl⟩ := hnow
        simp [writeLane]
      · have hkept : (writeLane pc d f q l).getV e m = q.getV e m :=
          getV_setV_ne (hls l List.mem_cons_self) hm hnow
        have hnone : ¬ (e = d ∧ m ∈ l :: ls) := by
          rintro ⟨hreg, hmem⟩
          rcases List.mem_cons.1 hmem with hlane | hmem
          · exact hnow ⟨hreg, hlane⟩
          · exact hlater ⟨hreg, hmem⟩
        rw [if_neg hlater, if_neg hnone, hkept]

theorem flags_foldl_writeLane {pc d : Nat} {f : Nat → Nat × Nat} (ls : List Nat) (q : VecRun) :
    (ls.foldl (writeLane pc d f) q).flags = ls.foldl (fun fl l => fl ||| (f l).2) q.flags := by
  induction ls generalizing q with
  | nil => rfl
  | cons l ls ih => exact ih _

/-- What no write of lanes changes in a run. -/
def VecRun.besideLanes (q : VecRun) :=
  (q.imgAddr, q.imgTag, q.acc, q.sreg, q.preds, q.ctrs, q.pc, q.loops)

theorem besideLanes_foldl_writeLane {pc d : Nat} {f : Nat → Nat × Nat} (ls : List Nat) (q : VecRun) :
    (ls.foldl (writeLane pc d f) q).besideLanes = q.besideLanes := by
  induction ls generalizing q with
  | nil => rfl
  | cons l ls ih => exact ih _

/-- What a lane instruction leaves in the run: the active lanes of Vd hold its function of their lane, and their flags are the
run's. -/
def LanesWritten (r x : VecRun) (i : Nat) (g : Nat → Nat × Nat) : Prop :=
  (∀ l < 64, x.getV (iD i) l = if l ∈ lanesOfRun r i then (g l).1 % 2 ^ 32 else r.getV (iD i) l) ∧
  (∀ d l, l < 64 → d ≠ iD i → x.getV d l = r.getV d l) ∧
  x.flags = (lanesOfRun r i).foldl (fun f l => f ||| (g l).2) r.flags ∧
  x.acc = r.acc ∧ x.sreg = r.sreg ∧ x.preds = r.preds ∧ x.ctrs = r.ctrs ∧ x.pc = r.advance.pc ∧ x.loops = r.advance.loops

theorem besideLanes_advance {q r : VecRun} (h : q.besideLanes = r.besideLanes) :
    q.advance.besideLanes = r.advance.besideLanes := by
  simp only [VecRun.besideLanes, Prod.mk.injEq] at h
  obtain ⟨haddr, htag, hacc, hsreg, hpreds, hctrs, hpc, hloops⟩ := h
  simp only [VecRun.besideLanes, VecRun.advance, haddr, htag, hacc, hsreg, hpreds, hctrs, hpc, hloops]

theorem besideLanes_mapLanes_advance (r : VecRun) (i : Nat) (g : Nat → Nat × Nat) :
    (mapLanes r i g).advance.besideLanes = r.advance.besideLanes :=
  besideLanes_advance (besideLanes_foldl_writeLane _ _)

@[simp] theorem getV_advance (r : VecRun) (d l : Nat) : r.advance.getV d l = r.getV d l := rfl

theorem lanesWritten_mapLanes (r : VecRun) (i : Nat) (g : Nat → Nat × Nat) :
    LanesWritten r (mapLanes r i g).advance i g := by
  have hget {e m : Nat} (hm : m < 64) : (mapLanes r i g).getV e m =
      if e = iD i ∧ m ∈ lanesOfRun r i then (g m).1 % 2 ^ 32 else r.getV e m :=
    getV_foldl_writeLane hm _ _ fun _ => lt_of_mem_lanesOfRun
  have hbeside := besideLanes_mapLanes_advance r i g
  simp only [VecRun.besideLanes, Prod.mk.injEq] at hbeside
  obtain ⟨-, -, hacc, hsreg, hpreds, hctrs, hpc, hloops⟩ := hbeside
  refine ⟨fun l hl => ?_, fun d l hl hd => ?_, ?_, hacc, hsreg, hpreds, hctrs, hpc, hloops⟩
  · simp [hget hl]
  · simp [hget hl, hd]
  · exact flags_foldl_writeLane _ _

/-! ### Issue -/

/-- A run that stands on an instruction of its image goes on (R113). -/
theorem settle_of_lt {s : State} {p : Nat} {b : List Byte}
    (himg : imageOf s (getTile s p).run.imgAddr (getTile s p).run.imgTag = some b) (hpc : (getTile s p).run.pc < imgLen b) :
    settle p s = s := by
  simp [settle, himg, Nat.not_le.2 hpc]

/-- An instruction that changes registers only, and does not lead beyond the image, changes the run of its tile alone. -/
theorem vx_of_issued {s : State} {p opc i : Nat} {o : Op} {b : List Byte} {f : Op → Nat → VecRun → VecRun} {x : VecRun}
    (hiss : issued s p = some (o, i)) (hopc : iOpc i = opc) (hx : x = (f o i (getTile s p).run).advance)
    (himg : imageOf s x.imgAddr x.imgTag = some b) (hpc : x.pc < imgLen b) :
    vx p opc f s = setTile s p { getTile s p with run := x } := by
  subst hx
  simp only [vx, vxWith, hiss, hopc, ne_eq, not_true_eq_false, if_false]
  apply settle_of_lt (b := b) <;> rw [getTile_setTile]
  · exact himg
  · exact hpc

/-- An instruction that writes lanes does so, and goes on to the next. -/
theorem vx_mapLanes {s : State} {p opc i : Nat} {o : Op} {b : List Byte} {f : Op → Nat → VecRun → VecRun}
    {g : Nat → Nat × Nat} (hiss : issued s p = some (o, i))
    (himg : imageOf s (getTile s p).run.imgAddr (getTile s p).run.imgTag = some b)
    (hpc : (getTile s p).run.advance.pc < imgLen b) (hopc : iOpc i = opc)
    (hf : f o i (getTile s p).run = mapLanes (getTile s p).run i g) :
    ∃ x, vx p opc f s = setTile s p { getTile s p with run := x } ∧ LanesWritten (getTile s p).run x i g := by
  have hbeside := besideLanes_mapLanes_advance (getTile s p).run i g
  simp only [VecRun.besideLanes, Prod.mk.injEq] at hbeside
  obtain ⟨haddr, htag, -, -, -, -, hnext, -⟩ := hbeside
  exact ⟨_, vx_of_issued hiss hopc (congrArg VecRun.advance hf.symm) (by rw [haddr, htag]; exact himg) (by rw [hnext]; exact hpc),
    lanesWritten_mapLanes _ i g⟩

/-- A Q24 instruction takes the lanes of its sources as two's complement numbers of 24 bits (R132). -/
theorem qOp_eq_mapLanes (h : Int → Int → Nat × Nat) (o : Op) (i : Nat) (r : VecRun) :
    qOp h o i r = mapLanes r i (fun l => (toContainer 0x40 (h (sext 24 (r.getV (iA i) l)) (sext 24 (r.getV (iB i) l))).1,
      (h (sext 24 (r.getV (iA i) l)) (sext 24 (r.getV (iB i) l))).2)) := rfl

/-- Settles O42: each lane instruction is a write of lanes by its function. -/
theorem vectorLanes : Obligations.VectorLanes := by
  intro c s p i o t r b g hiss ht hr himg hpc hc
  subst hr ht
  suffices h : ∃ opc f, exec c s = .next (vx p opc f s) ∧ iOpc i = opc ∧
      f o i (getTile s p).run = mapLanes (getTile s p).run i g by
    obtain ⟨opc, f, hexec, hopc, hf⟩ := h
    obtain ⟨x, hx, hwritten⟩ := vx_mapLanes hiss himg hpc hopc hf
    exact ⟨x, hexec.trans (congrArg _ hx), hwritten⟩
  rcases hc with hmove | hperm | ⟨h, hbinary32, rfl⟩ | hsel | ⟨h, q, hpair, rfl, rfl⟩ | hcvt | ⟨k, hhelper, rfl⟩ |
    ⟨h, hfixed, rfl⟩
  · obtain ⟨rfl, hopc, rfl⟩ := hmove
    exact ⟨_, _, rfl, hopc, rfl⟩
  · obtain ⟨rfl, hopc, rfl⟩ := hperm
    exact ⟨_, _, rfl, hopc, rfl⟩
  · rcases hbinary32 with ⟨rfl, hopc, rfl⟩ | ⟨rfl, hopc, rfl⟩ | ⟨rfl, hopc, rfl⟩ | ⟨rfl, hopc, rfl⟩ | ⟨rfl, hopc, rfl⟩ |
      ⟨rfl, hopc, rfl⟩ <;> exact ⟨_, _, rfl, hopc, rfl⟩
  · obtain ⟨rfl, hopc, rfl⟩ := hsel
    exact ⟨_, _, rfl, hopc, rfl⟩
  · rcases hpair with ⟨rfl, hopc, rfl⟩ | ⟨rfl, hopc, rfl⟩ | ⟨rfl, hopc, rfl⟩ <;> exact ⟨_, _, rfl, hopc, rfl⟩
  · obtain ⟨rfl, hopc, rfl⟩ := hcvt
    exact ⟨_, _, rfl, hopc, rfl⟩
  · rcases hhelper with ⟨rfl, hopc, rfl⟩ | ⟨rfl, hopc, rfl⟩ | ⟨rfl, hopc, rfl⟩ | ⟨rfl, hopc, rfl⟩ <;>
      exact ⟨_, _, rfl, hopc, rfl⟩
  · rcases hfixed with ⟨rfl, hopc, rfl⟩ | ⟨rfl, hopc, rfl⟩ | ⟨rfl, hopc, rfl⟩ <;>
      exact ⟨_, _, rfl, hopc, qOp_eq_mapLanes _ o i _⟩

end Sys2Proof.Machine
end

section
/-! Element operations (R144, R166, R175, R276 to R279): an operation found by its tag, how one begins, and the delivery of a
single plain element. -/

namespace Sys2Proof.Machine

/-! ### Operations by their tag -/

theorem tag_of_findOp {s : State} {tag : Nat} {o : Op} (h : findOp s tag = some o) : o.tag = tag := by
  simpa using List.find?_some h

/-- An update that keeps the tag is seen by the next look-up. -/
theorem findOp_updOp {tag : Nat} {f : Op → Op} {s : State} (hf : ∀ x, x.tag = tag → (f x).tag = tag) :
    findOp (updOp tag f s) tag = (findOp s tag).map f := by
  have htag (x : Op) : (if x.tag = tag then f x else x).tag = tag ↔ x.tag = tag := by
    split
    next hx => simp [hf x hx, hx]
    next => exact Iff.rfl
  simp only [findOp, updOp, List.find?_map, Function.comp_def, htag]
  cases h : s.ops.find? (fun o => decide (o.tag = tag)) with
  | none => rfl
  | some o => simp [tag_of_findOp h]

theorem findOp_setOp {s : State} {o y : Op} (h : findOp s o.tag = some y) : findOp (setOp s o) o.tag = some o :=
  (findOp_updOp (f := fun _ => o) fun _ _ => rfl).trans (by rw [h]; rfl)

theorem findOp_updOp_of {tag : Nat} {f : Op → Op} {s : State} {o : Op} (h : findOp s tag = some o)
    (hf : ∀ x, x.tag = tag → (f x).tag = tag) : findOp (updOp tag f s) tag = some (f o) := by
  rw [findOp_updOp hf, h]
  rfl

/-- An operation that has ended with a result (R271, R283). -/
def Op.ended (o : Op) (r : Result) : Op :=
  { o with phase := .done, result := r, closing := if o.closing = 1 then 2 else o.closing }

theorem findOp_endOp_of {tag : Nat} {r : Result} {s : State} {o : Op} (h : findOp s tag = some o) :
    findOp (endOp tag r s) tag = some (o.ended r) :=
  findOp_updOp_of (f := fun o => o.ended r) h fun _ hx => hx

/-! ### How an operation begins (R144, R166, R386) -/

theorem placed_frame (o : Op) (s : State) : ∃ k, o.placed s = { o with onFloe := k } := by
  unfold Op.placed
  split
  · exact ⟨_, rfl⟩
  · exact ⟨o.onFloe, rfl⟩

@[simp] theorem placed_recs (o : Op) (s : State) : (o.placed s).recs = o.recs := by obtain ⟨_, h⟩ := placed_frame o s; rw [h]
@[simp] theorem placed_desc (o : Op) (s : State) : (o.placed s).desc = o.desc := by obtain ⟨_, h⟩ := placed_frame o s; rw [h]
@[simp] theorem placed_old (o : Op) (s : State) : (o.placed s).old = o.old := by obtain ⟨_, h⟩ := placed_frame o s; rw [h]
@[simp] theorem placed_tag (o : Op) (s : State) : (o.placed s).tag = o.tag := by obtain ⟨_, h⟩ := placed_frame o s; rw [h]
@[simp] theorem placed_cursor (o : Op) (s : State) : (o.placed s).cursor = o.cursor := by
  obtain ⟨_, h⟩ := placed_frame o s; rw [h]

@[simp] theorem placed_tensor (o : Op) (s : State) (n : Nat) : (o.placed s).tensor n = o.tensor n := by
  simp [Op.tensor, Op.rec?]
@[simp] theorem placed_fld (o : Op) (s : State) (i n : Nat) : (o.placed s).fld i n = o.fld i n := by simp [Op.fld]
@[simp] theorem placed_opc (o : Op) (s : State) : (o.placed s).opc = o.opc := by simp [Op.opc]
@[simp] theorem placed_arith (o : Op) (s : State) : (o.placed s).arith = o.arith := by simp [Op.arith]

@[simp] theorem begun_tag (o : Op) (s : State) : (o.begun s).tag = o.tag := placed_tag o s
@[simp] theorem begun_old (o : Op) (s : State) : (o.begun s).old = o.old := placed_old o s
@[simp] theorem begun_cursor (o : Op) (s : State) : (o.begun s).cursor = o.cursor := placed_cursor o s
@[simp] theorem begun_tensor (o : Op) (s : State) (n : Nat) : (o.begun s).tensor n = o.tensor n := placed_tensor o s n
@[simp] theorem begun_fld (o : Op) (s : State) (i n : Nat) : (o.begun s).fld i n = o.fld i n := placed_fld o s i n

theorem findOp_beginOp {s : State} {tag : Nat} {o : Op} (h : findOp s tag = some o) :
    findOp (beginOp o s) tag = some (o.begun s) := by
  obtain rfl := tag_of_findOp h
  have hset := findOp_setOp (o := o.begun s) (y := o) (by simpa using h)
  rwa [begun_tag] at hset

/-- An operation that is ready, passes the test and finds its units begins. -/
theorem runWhen_of_ready {s : State} {tag : Nat} {o : Op} {p : Op → Bool} {f : Op → State → State}
    (h : findOp s tag = some o) (hready : o.phase = .ready) (hp : p o = true) (happ : s.cfg.applying = none)
    (hslot : o.slotFree s = true) : runWhen tag p f s = f (o.placed s) (beginOp o s) := by
  simp [runWhen, h, hready, hp, happ, hslot]

/-- What keeps an operation from beginning: it is not ready, a configuration is applied, or its units are taken. -/
def Op.heldBack (o : Op) (s : State) : Prop :=
  o.phase ≠ .ready ∨ (s.cfg.applying.isSome = true ∧ o.started = false) ∨ o.slotFree s = false

theorem runWhen_of_heldBack {s : State} {tag : Nat} {p : Op → Bool} {f : Op → State → State}
    (h : ∀ o, findOp s tag = some o → o.heldBack s) : runWhen tag p f s = s := by
  unfold runWhen
  split
  next o ho =>
    rw [if_neg]
    rcases h o ho with hphase | ⟨happ, hstarted⟩ | hslot
    · simp [hphase]
    · simp [hstarted, Option.isNone_eq_false_iff.2 happ]
    · simp [hslot]
  next => rfl

/-! ### One plain element (R63, R175) -/

theorem original_of_old_nil {o : Op} (h : o.old = []) (s : State) : o.original s = s := by simp [Op.original, h]

theorem deliverLen_of_plain {t : Tensor} (h : isT t.format = false) (l : Nat) : deliverLen t l = 1 := by
  simp [deliverLen, h]

/-- The writes of one element of a destination that is no T tensor. -/
def elementWrites (t : Tensor) (arith : Nat) (v : XVal) : List (Nat × Bool × List Byte) :=
  codeWrites t (t.coords 0) [fromContainer t.format (storeVal t.format arith v).1]

/-- The state after the first element is written: it is counted, and its flags are taken. -/
def noteElement (tag : Nat) (t : Tensor) (arith : Nat) (v : XVal) (fl k : Nat) (s : State) : State :=
  flagElem tag (t.runPos 0) (fl ||| (storeVal t.format arith v).2.2) k
    (updStats tag 0 (countElem v (storeVal t.format arith v).2.1 (storeVal t.format arith v).2.2) s)

theorem actVal_element {tag arith fl k : Nat} {t : Tensor} {o : Op} {u s1 : State} {v : XVal}
    {val : State → Op → Nat → Except Stop (XVal × Nat × Nat)} (hplain : isT t.format = false) (hold : o.old = [])
    (hval : val u o 0 = .ok (v, fl, k))
    (hwrite : writeAll (whoOf o) (elementWrites t arith v) (keepOld tag (elementWrites t arith v) u) = .ok s1) :
    actVal tag t arith val o 0 1 u = .ok (noteElement tag t arith v fl k s1) := by
  have hvals : valuesOf (val (o.original u) o) 1 0 = .ok [(v, fl, k)] := by
    simp [valuesOf, original_of_old_nil hold, hval, Except.map]
  have hdeliver : deliver tag (whoOf o) arith 0 0 t [(v, fl, k)] u = .ok (noteElement tag t arith v fl k s1) := by
    simp only [elementWrites] at hwrite
    simp [deliver, deliverWith, deliverBy, hplain, hwrite, noteElement]
  simp only [actVal, hvals, hdeliver, Except.mapError]

theorem offer_frame (o : Op) (ord : Nat) (cand : Option Nat) :
    ∃ r n, o.offer ord cand = { o with offender := r, offOrd := n } := by
  unfold Op.offer
  split
  · exact ⟨_, _, rfl⟩
  · split
    · exact ⟨_, _, rfl⟩
    · exact ⟨_, _, rfl⟩

@[simp] theorem noteElement_dmem (tag : Nat) (t : Tensor) (arith : Nat) (v : XVal) (fl k : Nat) (s : State) :
    (noteElement tag t arith v fl k s).dmem = s.dmem := rfl
@[simp] theorem noteElement_hmem (tag : Nat) (t : Tensor) (arith : Nat) (v : XVal) (fl k : Nat) (s : State) :
    (noteElement tag t arith v fl k s).hmem = s.hmem := rfl

/-- A noted element adds its flags to its operation, and moves no cursor. -/
theorem findOp_noteElement {tag arith fl k : Nat} {t : Tensor} {v : XVal} {s : State} {o : Op} (h : findOp s tag = some o) :
    ∃ x, findOp (noteElement tag t arith v fl k s) tag = some x ∧ x.cursor = o.cursor ∧
      x.flags = o.flags ||| (fl ||| (storeVal t.format arith v).2.2) := by
  have hoffer (o : Op) (ord : Nat) (cand : Option Nat) : (o.offer ord cand).tag = o.tag ∧ (o.offer ord cand).cursor = o.cursor ∧
      (o.offer ord cand).flags = o.flags := by
    obtain ⟨r, n, hx⟩ := offer_frame o ord cand
    simp [hx]
  exact ⟨_, findOp_updOp_of (findOp_updOp_of h fun _ hx => hx) fun _ hx => (hoffer _ _ _).1.trans hx, (hoffer _ _ _).2.1,
    (hoffer _ _ _).2.2⟩

/-- An operation of one element whose delivery succeeds ends behind it. -/
theorem driveBy_one {tag : Nat} {len : Nat → Nat} {act : Op → Nat → Nat → State → Except (Stop × Bool) State} {u w : State}
    {o x : Op} (ho : findOp u tag = some o) (hcursor : o.cursor = 0) (hlen : len 0 = 1) (hact : act o 0 1 u = .ok w)
    (hx : findOp w tag = some x) (hstays : x.cursor = 0) :
    driveBy tag 1 len act 2 u = endOp tag { cursor := 1 } (updOp tag (fun o => { o with cursor := o.cursor + 1 }) w) := by
  have hnext : findOp (updOp tag (fun o => { o with cursor := o.cursor + 1 }) w) tag = some { x with cursor := 1 } := by
    rw [findOp_updOp_of hx (by exact fun _ h => h), hstays]
  simp [driveBy, ho, hcursor, hlen, hact, hnext]

/-- What a single element leaves: memory as its write left it, and its operation done with its flags. -/
theorem drive_element {tag arith fl k : Nat} {t : Tensor} {o o1 : Op} {u s1 : State} {v : XVal}
    {val : State → Op → Nat → Except Stop (XVal × Nat × Nat)} (hcount : t.count = 1) (hplain : isT t.format = false)
    (ho : findOp u tag = some o) (hcursor : o.cursor = 0) (hold : o.old = []) (hval : val u o 0 = .ok (v, fl, k))
    (hwrite : writeAll (whoOf o) (elementWrites t arith v) (keepOld tag (elementWrites t arith v) u) = .ok s1)
    (ho1 : findOp s1 tag = some o1) (hstays : o1.cursor = 0) :
    ∃ o', (drive tag t arith val u).dmem = s1.dmem ∧ (drive tag t arith val u).hmem = s1.hmem ∧
      findOp (drive tag t arith val u) tag = some o' ∧ o'.phase = .done ∧ o'.result = { cursor := 1 } ∧
      o'.flags = o1.flags ||| (fl ||| (storeVal t.format arith v).2.2) := by
  obtain ⟨x, hx, hxcursor, hxflags⟩ := findOp_noteElement (arith := arith) (fl := fl) (k := k) (t := t) (v := v) ho1
  rw [drive, hcount, driveBy_one ho hcursor (deliverLen_of_plain hplain 0) (actVal_element hplain hold hval hwrite) hx
    (hxcursor.trans hstays)]
  exact ⟨_, by simp, by simp, findOp_endOp_of (findOp_updOp_of hx (by exact fun _ h => h)), rfl, rfl, hxflags⟩

/-! ### The commands -/

theorem plainOp_of_convert {o : Op} (hopc : o.opc = 2) (tag : Nat) (s : State) :
    plainOp tag o s = drive tag (o.tensor 2) o.arith (fun s x l =>
      (loadElem s (whoOf x) (o.tensor 1) ((o.tensor 1).coords l)).map (fun e => (e.1, e.2, noK))) s := by
  simp [plainOp, byteCopy, hopc]

theorem gatherOp_of_convert {o : Op} (hopc : o.opc = 2) (tag : Nat) (s : State) :
    gatherOp tag o s = drive tag (o.tensor 2) o.arith gatherVal s := by
  simp [gatherOp, byteCopy, hopc]

theorem gatherVal_of_index {s : State} {o : Op} {l i fl : Nat} {v : XVal} (hindex : indexAt s o l = .ok i)
    (hi : i < (o.tensor 1).count) (hload : loadElem s (whoOf o) (o.tensor 1) ((o.tensor 1).coords i) = .ok (v, fl)) :
    gatherVal s o l = .ok (v, fl, noK) := by
  simp [gatherVal, indexIn?, hindex, hi, hload, Except.map]

/-- The first element of a line of an inclusive SCAN combines one term (R279). -/
theorem scanVal_first {orders : List (List Nat)} {s : State} {o : Op} (hincl : o.fld 43 1 = 0)
    (hfirst : ((o.tensor 2).coords 0).getD (o.fld 41 1) 0 = 0) :
    scanVal orders s o 0 = ropVal s o ((o.tensor 2).coords 0) 1 (orders.getD 0 []) := by
  have hbit : bit (o.fld 43 1) 0 = false := by rw [hincl]; rfl
  simp only [scanVal, hfirst, hbit]
  rfl

theorem endOp_frame (tag : Nat) (r : Result) (s : State) : endOp tag r s = { s with
    fills := [], tiles := (freeSlots (fun t => t = tag) s).tiles, floe := (leaveBuffers tag s).floe
    ops := s.ops.map (fun y => if y.tag = tag then y.ended r else y) } := rfl

/-- The operations after one has begun and ended. -/
theorem beginOp_ended_ops (o : Op) (r : Result) (s : State) :
    (beginOp o s).ops.map (fun y => if y.tag = o.tag then y.ended r else y) =
      s.ops.map (fun y => if y.tag = o.tag then (o.begun s).ended r else y) := by
  simp only [beginOp, setOp, leaveBuffers_ops, markWork_ops, List.map_map]
  refine List.map_congr_left fun y _ => ?_
  by_cases hy : y.tag = o.tag <;> simp [hy]

/-- What beginning and ending at once change. -/
theorem endOp_beginOp_frame (o : Op) (r : Result) (s : State) : endOp o.tag r (beginOp o s) = { s with
    works := (beginOp o s).works, fills := [], tiles := (freeSlots (fun t => t = o.tag) (beginOp o s)).tiles
    floe := (leaveBuffers o.tag (beginOp o s)).floe
    ops := s.ops.map (fun y => if y.tag = o.tag then (o.begun s).ended r else y) } := by
  simp [endOp_frame, beginOp_ended_ops]

theorem begun_closing (o : Op) (s : State) : (o.begun s).closing = o.closing := by
  obtain ⟨k, h⟩ := placed_frame o s
  simp [Op.begun, h]

/-- NOP changes its operation, and frees what it may have held, and nothing else (R273). -/
theorem exec_nop_frame {s : State} {tag : Nat} {o : Op} (ho : findOp s tag = some o) (hready : o.phase = .ready)
    (hopc : o.opc = 0) (happ : s.cfg.applying = none) (hslot : o.slotFree s = true) :
    ∃ w x ts fs, exec (.nop tag) s = .next { s with
        works := w, fills := [], tiles := ts, floe := fs, ops := s.ops.map (fun y => if y.tag = tag then x else y) } ∧
      x = { o.begun s with phase := .done, result := {}, closing := if o.closing = 1 then 2 else o.closing } := by
  obtain rfl := tag_of_findOp ho
  have hnop : exec (.nop o.tag) s = .next (endOp o.tag {} (beginOp o s)) :=
    congrArg Host.Outcome.next (runWhen_of_ready ho hready (by simp [hopc]) happ hslot)
  rw [endOp_beginOp_frame] at hnop
  exact ⟨_, _, _, _, hnop, by rw [Op.ended, begun_closing]⟩

/-- No element operation begins while something holds it back (R144, R166, R386). -/
theorem exec_of_heldBack {c : Instr} {s : State} {tag : Nat} {tree : List Nat} {trees : List (List Nat)}
    (hc : c ∈ [.nop tag, .copy tag, .convert tag, .gather tag, .scatter tag tree, .fill tag, .elemwise tag, .reduce tag tree,
      .scan tag trees]) (hheld : ∀ o, findOp s tag = some o → o.heldBack s) : exec c s = .next s := by
  have hstays {p : Op → Bool} {f : Op → State → State} : Host.Outcome.next (runWhen tag p f s) =
      (Host.Outcome.next s : Host.Outcome State Fault Refusal) :=
    congrArg Host.Outcome.next (runWhen_of_heldBack hheld)
  simp only [List.mem_cons, List.not_mem_nil, or_false] at hc
  rcases hc with rfl | rfl | rfl | rfl | rfl | rfl | rfl | rfl | rfl
  all_goals exact hstays

/-! ### What each command drives -/

section Drives

variable {s : State} {tag : Nat} {o : Op} (ho : findOp s tag = some o) (hready : o.phase = .ready)
  (happ : s.cfg.applying = none) (hslot : o.slotFree s = true)

include ho hready happ hslot

theorem exec_fill_drives (hopc : o.opc = 3) : exec (.fill tag) s = .next (drive tag (o.tensor 1) o.arith
    (fun _ o _ => .ok (decodeElem 1 (o.fld 32 8), 0, noK)) (beginOp o s)) := by
  have h := runWhen_of_ready (p := fun o => decide (o.opc ∈ [0x03])) (f := fillOp tag) ho hready (by simp [hopc]) happ hslot
  rw [fillOp, placed_tensor, placed_arith] at h
  exact congrArg Host.Outcome.next h

theorem exec_convert_drives (hopc : o.opc = 2) (hform : o.fld 48 1 = 0) : exec (.convert tag) s = .next (drive tag (o.tensor 2)
    o.arith (fun s x l => (loadElem s (whoOf x) (o.tensor 1) ((o.tensor 1).coords l)).map (fun e => (e.1, e.2, noK)))
    (beginOp o s)) := by
  have h := runWhen_of_ready (p := inForm [0x02] 0) (f := plainOp tag) ho hready (by simp [inForm, hopc, hform]) happ hslot
  rw [plainOp_of_convert (by simpa using hopc), placed_tensor, placed_tensor, placed_arith] at h
  exact congrArg Host.Outcome.next h

theorem exec_gather_drives (hopc : o.opc = 2) (hform : o.fld 48 1 = 1) :
    exec (.gather tag) s = .next (drive tag (o.tensor 2) o.arith gatherVal (beginOp o s)) := by
  have h := runWhen_of_ready (p := inForm [0x01, 0x02] 1) (f := gatherOp tag) ho hready (by simp [inForm, hopc, hform]) happ hslot
  rw [gatherOp_of_convert (by simpa using hopc), placed_tensor, placed_arith] at h
  exact congrArg Host.Outcome.next h

theorem exec_elemwise_drives (hopc : o.opc = 0x18) :
    exec (.elemwise tag) s = .next (drive tag (o.tensor 4) o.arith elemVal (beginOp o s)) := by
  have h := runWhen_of_ready (p := fun o => decide (o.opc ∈ [0x18])) (f := elemwiseOp tag) ho hready (by simp [hopc]) happ hslot
  rw [elemwiseOp, placed_tensor, placed_arith] at h
  exact congrArg Host.Outcome.next h

theorem exec_reduce_drives (order : List Nat) (hopc : o.opc = 0x19) : exec (.reduce tag order) s = .next (drive tag (o.tensor 2)
    o.arith (fun s x l => ropVal s x ((o.tensor 2).coords l) ((o.tensor 1).dim (x.fld 41 1)) order) (beginOp o s)) := by
  have h := runWhen_of_ready (p := fun o => decide (o.opc ∈ [0x19])) (f := reduceOp tag order) ho hready (by simp [hopc]) happ
    hslot
  simp only [reduceOp, placed_tensor, placed_arith] at h
  exact congrArg Host.Outcome.next h

theorem exec_scan_drives (orders : List (List Nat)) (hopc : o.opc = 0x1A) :
    exec (.scan tag orders) s = .next (drive tag (o.tensor 2) o.arith (scanVal orders) (beginOp o s)) := by
  have h := runWhen_of_ready (p := fun o => decide (o.opc ∈ [0x1A])) (f := scanOp tag orders) ho hready (by simp [hopc]) happ hslot
  rw [scanOp, placed_tensor, placed_arith] at h
  exact congrArg Host.Outcome.next h

end Drives

/-- Settles O34: each command of one plain element drives its value through one delivery; NOP; what does not begin. -/
theorem elementResultsAndStarts : Obligations.ElementResultsAndStarts := by
  refine ⟨?_, fun _ _ _ ho hready hopc happ hslot => exec_nop_frame ho hready hopc happ hslot,
    fun _ _ _ _ _ hc hheld => exec_of_heldBack hc hheld⟩
  intro c s u s1 tag k fl o o0 o1 b v ws ho hready happ hslot hcursor hold hcount hplain hu ho0 hc hws hwrite ho1 hflags hstays
  subst hu ho0 hws
  suffices h : ∃ val, exec c s = .next (drive tag b o.arith val (beginOp o s)) ∧
      val (beginOp o s) (o.begun s) 0 = .ok (v, fl, k) by
    obtain ⟨val, hexec, hval⟩ := h
    obtain ⟨o', hdmem, hhmem, hend⟩ := drive_element hcount hplain (findOp_beginOp ho) (by rw [begun_cursor, hcursor])
      (by rw [begun_old, hold]) hval hwrite ho1 hstays
    rw [hflags] at hend
    exact ⟨_, o', hexec, hdmem, hhmem, hend⟩
  rcases hc with ⟨rfl, hopc, rfl, rfl, rfl, rfl⟩ | ⟨rfl, hopc, hform, rfl, rfl, hload⟩ |
    ⟨rfl, hopc, hform, rfl, rfl, i, hindex, hi, hload⟩ | ⟨rfl, hopc, rfl, hval⟩ | ⟨order, rfl, hopc, rfl, hval⟩ |
    ⟨orders, rfl, hopc, rfl, hincl, hfirst, hval⟩
  · exact ⟨_, exec_fill_drives ho hready happ hslot hopc, by simp⟩
  · exact ⟨_, exec_convert_drives ho hready happ hslot hopc hform, by simp [hload, Except.map]⟩
  · exact ⟨_, exec_gather_drives ho hready happ hslot hopc hform,
      gatherVal_of_index hindex (by rwa [begun_tensor]) (by rwa [begun_tensor])⟩
  · exact ⟨_, exec_elemwise_drives ho hready happ hslot hopc, hval⟩
  · exact ⟨_, exec_reduce_drives ho hready happ hslot order hopc, by simpa using hval⟩
  · have hfirstVal : scanVal orders (beginOp o s) (o.begun s) 0 = _ :=
      scanVal_first (by rwa [begun_fld]) (by rwa [begun_tensor, begun_fld])
    exact ⟨_, exec_scan_drives ho hready happ hslot orders hopc, hfirstVal.trans (by rwa [begun_tensor])⟩

end Sys2Proof.Machine
end

section
/-! The output blocks of MATMUL when the next block's tile cannot run it (R197, R198): another tile may take over the surplus of
its queue, where the statement says that the operation waits. -/

namespace Sys2Proof.Machine

/-! ### A MATMUL of four blocks on two tiles -/

/-- The record of four batches of one W16 element each. -/
def fourBatches (base : Nat) : List Byte :=
  leBytes 8 base ++ leBytes 1 0x11 ++ leBytes 7 3 ++ [1, 1, 4, 1, 1].flatMap (leBytes 4) ++
    ([0, 0, 2, 0, 0].flatMap (leBytes 5)) ++ fill 67 0

/-- A MATMUL of four blocks, ready to begin. -/
def fourBlocks : Op :=
  { tag := 1, queue := 0, slot := 0, phase := .ready, valid := true, desc := 0x10 :: fill 255 0
    recs := [(1, fourBatches 0), (2, fourBatches 64), (3, fourBatches 128)] }

/-- The block command that accumulates one term into bank A of a partition (R102). -/
def accumulateOne (q : Nat) : Nat :=
  1 + q * 2 ^ 8 + 2 ^ 11 + 0x11 * 2 ^ 16 + 0x11 * 2 ^ 24 + 2 ^ 128 + 2 ^ 144 + 2 ^ 152

/-- A tile on quadrants, each of whose partitions has a command waiting while its banks are free, as `dropHeld` leaves one whose
drain is given up. -/
def commandsWait : Tile :=
  { st := 0, logical := some 0, mode := 2, parts := (List.range 4).map (fun q => (q, { held := [(accumulateOne q, [])] })) }

/-- A tile so slow that no block is dealt to it (R198). -/
def slowTile : Tile := { st := 0, logical := some 1, rate := 1 }

/-- A device with stack 0 in service and its memory mapped, these two tiles and the MATMUL. -/
def twoTiles : State :=
  { memStacks := [(0, { present := true, trained := true })]
    pages := [{ asid := 0, base := 0, len := 2 ^ 21, leaf := 21, kind := .backed, rd := true, wr := true }]
    tiles := [(0, commandsWait), (1, slowTile)], ops := [fourBlocks] }

/-! ### Its first block -/

/-- The MATMUL as it is dealt to both tiles. -/
def fourBlocksDealt : Op :=
  { Op.deal { fourBlocks.placed twoTiles with tiles := [0, 1], slices := [], sumTree := [] } (beginOp fourBlocks twoTiles) [0, 1]
    with started := true }

/-- The device as the MATMUL goes to its tiles. -/
def twoTilesDealt : State :=
  resumeDrains 1 (releaseParts 1 (growTree [1] fourBlocksDealt.tiles (setOp (beginOp fourBlocks twoTiles) fourBlocksDealt)))

/-- The MATMUL in a state. -/
def matmulIn (s : State) : Op := (findOp s 1).getD fourBlocks

/-- The device before block 0. -/
def beforeBlock0 : State :=
  markWork ((matmulIn twoTilesDealt).tileUnits twoTilesDealt) (setModes (matmulIn twoTilesDealt) twoTilesDealt)

/-- The MATMUL as it works on block 0, on physical tile 0. -/
def onTile0 : Op := { matmulIn beforeBlock0 with phys := [0].headD 0 }

/-- The device when the row operand of block 0 is staged. -/
def block0Staged : State := (fetchRow 1 0 [0] (setOp beforeBlock0 onTile0)).2

/-- The device when block 0 is delivered. -/
def block0Delivered : State := (blockAct 0 [0] ((matmulIn beforeBlock0).blk 0) (onTile0.sources block0Staged) onTile0 block0Staged).2

/-- The device before block 1: the command that waited runs now, and tile 0 can run no block. -/
def beforeBlock1 : State := updOp 1 (fun z => { z with gen := 1 }) block0Delivered

/-- The device from block to block. -/
def atBlock : Nat → State
  | 0 => beforeBlock0
  | _ => beforeBlock1

theorem atBlock_zero : atBlock 0 = beforeBlock0 := rfl

theorem eq_pair_of_fst_eq {α β : Type} {p : α × β} {a : α} (h : p.1 = a) : p = (a, p.2) := by rw [← h]

theorem findOp_eq_matmulIn {s : State} (h : (findOp s 1).isSome = true) : findOp s 1 = some (matmulIn s) := by
  obtain ⟨o, ho⟩ := Option.isSome_iff_exists.1 h
  rw [matmulIn, ho]
  rfl

theorem fourBlocks_begins : findOp twoTiles 1 = some fourBlocks ∧ fourBlocks.opc = 0x10 ∧ fourBlocks.slotFree twoTiles = true ∧
    spreadTiles (beginOp fourBlocks twoTiles) (fourBlocks.placed twoTiles) [0, 1] = [0, 1] ∧
    pinnedTiles (beginOp fourBlocks twoTiles) (groupOf fourBlocks.queue) ≠ [] ∧ fourBlocks.carousel = false ∧
    fourBlocks.batchOk = false ∧ (findOp twoTilesDealt 1).isSome = true ∧ (matmulIn twoTilesDealt).nBlocks = 4 := by
  decide +kernel

theorem block0_runs : (findOp beforeBlock0 1).isSome = true ∧ issues beforeBlock0 1 = true ∧ (matmulIn beforeBlock0).gen = 0 ∧
    (matmulIn beforeBlock0).nBlocks = 4 ∧ (matmulIn beforeBlock0).sliceTiles 0 beforeBlock0 = some [0] ∧
    (fetchRow 1 0 [0] (setOp beforeBlock0 onTile0)).1 = none ∧
    (blockAct 0 [0] ((matmulIn beforeBlock0).blk 0) (onTile0.sources block0Staged) onTile0 block0Staged).1 = none := by
  decide +kernel

theorem block1_has_no_tile : (findOp beforeBlock1 1).isSome = true ∧ (matmulIn beforeBlock1).gen = 1 ∧
    issues beforeBlock1 1 = true ∧ (matmulIn beforeBlock1).nBlocks = 4 ∧
    (matmulIn beforeBlock1).sliceTiles 1 beforeBlock1 = none := by
  decide +kernel

/-- Tile 1 takes block 1 over, and the operation goes on to block 2. -/
theorem block1_is_taken_over :
    (matmulIn (runOp 1 [0x10] (matrixOp 1 [0, 1] [] []) twoTiles)).gen = 2 := by
  decide +kernel

/-- Refutes O35 where it says that an operation waits when no tile can run its next block: of the four blocks dealt to tile 0
three stand in its queue when it can run none, so tile 1, whose queue is empty, takes the surplus above two units (R198). -/
theorem not_matrixBlocks : ¬ Obligations.MatrixBlocks := by
  rintro ⟨-, hblocks⟩
  obtain ⟨hfound, hopc, hslot, hspread, hpinned, hring, hsweep, hdealt, hdealtBlocks⟩ := fourBlocks_begins
  obtain ⟨hfound0, hissues0, hgen0, hblocks0, htiles0, hfetch0, hact0⟩ := block0_runs
  obtain ⟨hfound1, hgen1, hissues1, hblocks1, htiles1⟩ := block1_has_no_tile
  obtain ⟨-, -, hrun⟩ := hblocks (.matmul 1 [0, 1] [] []) twoTiles _ 1 [0, 1] [] [] [0, 1] fourBlocks hfound rfl rfl rfl
    (.inl ⟨rfl, hopc⟩) hslot hspread.symm
  obtain ⟨-, hwaits, -⟩ := hrun hpinned rfl rfl hring hsweep (by simp) fourBlocksDealt (matmulIn twoTilesDealt)
    (matmulIn beforeBlock1) twoTilesDealt 1 atBlock rfl rfl (findOp_eq_matmulIn hdealt) rfl (by omega)
    (fun i hi => by
      obtain rfl : i = 0 := by omega
      rw [atBlock_zero]
      exact ⟨matmulIn beforeBlock0, [0], block0Staged, block0Delivered, findOp_eq_matmulIn hfound0, hissues0, hgen0,
        by omega, htiles0, eq_pair_of_fst_eq hfetch0, eq_pair_of_fst_eq hact0, rfl⟩)
    (findOp_eq_matmulIn hfound1) hgen1 hissues1
  have hstill : Host.Outcome.next (runOp 1 [0x10] (matrixOp 1 [0, 1] [] []) twoTiles) =
      (Host.Outcome.next beforeBlock1 : Host.Outcome State Fault Refusal) := hwaits (by omega) htiles1
  have hmoved := block1_is_taken_over
  rw [Host.Outcome.next.inj hstill, hgen1] at hmoved
  exact absurd hmoved (by decide)

end Sys2Proof.Machine
end

section
/-! Block commands on a tile that serves (R85 to R88, R93, R100 to R104): the commands that the sequencer takes, those that
wait or that it cannot execute, partition modes, the check pattern, and the end of a drain. -/

namespace Sys2Proof.Machine

/-! ### What a command does to its partition (R86, R87, R102) -/

/-- The tile when its sequencer has run a command that leaves its partition so. -/
def Tile.ran (t : Tile) (c : Nat) (x : Partn) : Tile :=
  { setPart t (cmdPart c) { x with cmd := c } with accepted := t.accepted + 1 }

section Commands
variable {s : State} {p c : Nat} {feed : List Byte} {t : Tile} {x : Partn} {b : PeBank}
  (ht : getTile s p = t) (hx : getPart t (cmdPart c) = x) (hb : x.bank (cmdBank c) = b)
include ht hx hb

theorem runCmd_acc (hop : cmdOp c = 1) : runCmd p c feed s = setTile s p
    (t.ran c (Partn.setBank { x with st := 1, accBank := cmdBank c } (cmdBank c) (accBankOp s t c feed b))) := by
  subst ht hx hb
  simp only [runCmd, hop]
  rfl

theorem runCmd_accDrain (hop : cmdOp c = 2) : runCmd p c feed s = setTile s p
    (t.ran c (Partn.setBank { x with st := 0, accBank := cmdBank c } (cmdBank c)
      { accBankOp s t c feed b with st := 2, closed := t.accepted })) := by
  subst ht hx hb
  simp only [runCmd, hop]
  rfl

theorem runCmd_drain (hop : cmdOp c = 3) (hacc : b.st = 1) : runCmd p c feed s = setTile s p
    (t.ran c (Partn.setBank { x with st := 0 } (cmdBank c) { b with st := 2, cmd := c, closed := t.accepted })) := by
  subst ht hx hb
  simp only [runCmd, hop, hacc]
  rfl

end Commands

/-! ### Which commands a tile takes (R86, R88, R103) -/

section Taken
variable {s : State} {p kind c : Nat} (feed : List Byte) (ok : List Nat) (hserves : tileServes s p = true)
  (hok : cmdOk (getTile s p).mode c = true) (hop : cmdOp c = kind)
include hserves hok hop

/-- A command for a bank that does not drain runs, where none waits before it. -/
theorem blockCmd_runs (hsplit : splitsBlock s (getTile s p).mode c = false)
    (hheld : (getPart (getTile s p) (cmdPart c)).held = [])
    (hfree : ((getPart (getTile s p) (cmdPart c)).bank (cmdBank c)).st ≠ 2) :
    blockCmd p kind c feed ok s = runCmd p c feed (markWork [tileUnit p (cmdPart c)] s) := by
  simp [blockCmd, hserves, hok, hop, hsplit, hheld, hfree]

/-- A command for a bank that drains waits at its partition. -/
theorem blockCmd_waits (hsplit : splitsBlock s (getTile s p).mode c = false)
    (hdrains : ((getPart (getTile s p) (cmdPart c)).bank (cmdBank c)).st = 2) :
    blockCmd p kind c feed ok s = setTile (markWork [tileUnit p (cmdPart c)] s) p (setPart (getTile s p) (cmdPart c)
      { getPart (getTile s p) (cmdPart c) with
        held := (getPart (getTile s p) (cmdPart c)).held ++ [(c, feed)] }) := by
  simp [blockCmd, hserves, hok, hop, hsplit, hdrains]

end Taken

/-- A command with a reserved OP cannot be executed. -/
theorem cmdOk_of_reserved {m c : Nat} (h : cmdOp c = 0 ∨ 5 < cmdOp c) : cmdOk m c = false := by
  have hop : ¬(1 ≤ cmdOp c ∧ cmdOp c ≤ 5) := by omega
  simp [cmdOk, hop]

theorem blockCmd_of_reserved {s : State} {p kind c : Nat} {feed : List Byte} {ok : List Nat} (hserves : tileServes s p = true)
    (h : cmdOp c = 0 ∨ 5 < cmdOp c) : blockCmd p kind c feed ok s = seqFault p c ok s := by
  have hop : ¬(1 ≤ cmdOp c ∧ cmdOp c ≤ 5 ∧ cmdOp c ≠ kind) := by omega
  simp only [blockCmd, hserves, cmdOk_of_reserved h, hop, Bool.not_true, Bool.not_false, Bool.false_eq_true, if_true, if_false]

/-! ### Partition modes and the check pattern (R93, R100) -/

theorem setModeOp_of_banksFree {s : State} {p c : Nat} {ok : List Nat} (hserves : tileServes s p = true)
    (hok : cmdOk (getTile s p).mode c = true) (hop : cmdOp c = 4) (hfree : banksFree (getTile s p) = true) :
    setModeOp p c ok s = setTile s p { getTile s p with mode := cmdMode c, parts := [(0, { cmd := c })] } := by
  simp [setModeOp, hserves, hok, hop, hfree]

theorem setModeOp_of_bankInUse {s : State} {p c : Nat} {ok : List Nat} (hop : cmdOp c = 4)
    (hok : cmdOk (getTile s p).mode c = true) (hused : banksFree (getTile s p) = false) : setModeOp p c ok s = s := by
  simp [setModeOp, hok, hop, hused]

theorem checkTile_of_noFaults (p : Nat) (ok : List Nat) (s : State) :
    checkTile p [] ok s = setTile s p { getTile s p with check := 1 } := rfl

theorem checkOp_of_accepted {s : State} {p c : Nat} {faults : List (Nat × Nat)} {ok : List Nat}
    (hserves : tileServes s p = true) (hok : cmdOk (getTile s p).mode c = true) (hop : cmdOp c = 5) :
    checkOp p c faults ok s = checkTile p faults ok
      (setTile s p (setPart (getTile s p) (cmdPart c) { getPart (getTile s p) (cmdPart c) with cmd := c })) := by
  simp [checkOp, hserves, hok, hop]

/-! ### The end of a drain (R85 to R88) -/

@[simp] theorem setBank_held (x : Partn) (n : Nat) (b : PeBank) : (x.setBank n b).held = x.held := by
  unfold Partn.setBank
  split <;> rfl
@[simp] theorem setBank_st (x : Partn) (n : Nat) (b : PeBank) : (x.setBank n b).st = x.st := by
  unfold Partn.setBank
  split <;> rfl

theorem settlePart_of_notStopped {tags : List Nat} {p q : Nat} {s : State} (h : (getPart (getTile s p) q).st ≠ 2) :
    settlePart tags p q s = s := if_pos h

theorem runHeld_of_noneHeld {p q n : Nat} {s : State} (h : (getPart (getTile s p) q).held = []) : runHeld p q n s = s := by
  cases n with
  | zero => rfl
  | succ n => simp [runHeld, h]

/-- A bank that is given up at a partition that runs and where no command waits is free, and nothing else happens there. -/
theorem freeBank_of_noneHeld {p q : Nat} (n tag : Nat) {s : State} (hheld : (getPart (getTile s p) q).held = [])
    (hrun : (getPart (getTile s p) q).st ≠ 2) : freeBank p q n [tag] s =
      finishRuns tag (setTile s p (setPart (getTile s p) q ((getPart (getTile s p) q).setBank n {}))) := by
  simp only [freeBank, List.foldl]
  rw [settlePart_of_notStopped (by simpa using hrun), runHeld_of_noneHeld (by simpa using hheld)]

section DrainEnd
variable {s : State} {p q : Nat} (ha : (getPart (getTile s p) q).bankA.st = 2) (hb : (getPart (getTile s p) q).bankB.st ≠ 2)
include ha hb

theorem drainingBank_of_bankA : drainingBank (getPart (getTile s p) q) = some 0 := by
  simp [drainingBank, ha, hb]

theorem drainEndOp_toBank (hto : cmdToBank (getPart (getTile s p) q).bankA.cmd = true)
    (hfirst : firstToBank (getTile s p) (getPart (getTile s p) q).bankA = true) :
    drainEndOp p q s = freeBank p q 0 [cmdTag (getPart (getTile s p) q).bankA.cmd]
      (drainToBank p q (getPart (getTile s p) q).bankA s) := by
  simp [drainEndOp, drainingBank_of_bankA ha hb, Partn.bank, hto, hfirst]

theorem drainEndOp_toStore (hto : cmdToBank (getPart (getTile s p) q).bankA.cmd = false)
    (hmem : cmdToMem (getPart (getTile s p) q).bankA.cmd = false) :
    drainEndOp p q s = freeBank p q 0 [cmdTag (getPart (getTile s p) q).bankA.cmd]
      (drainToStore p q (getPart (getTile s p) q).bankA s) := by
  simp [drainEndOp, drainingBank_of_bankA ha hb, Partn.bank, hto, hmem]

theorem drainEndOp_toMem (hto : cmdToBank (getPart (getTile s p) q).bankA.cmd = false)
    (hmem : cmdToMem (getPart (getTile s p) q).bankA.cmd = true) : drainEndOp p q s = drainMem p q 0 s := by
  simp [drainEndOp, drainingBank_of_bankA ha hb, Partn.bank, hto, hmem]

end DrainEnd

/-- A drain into memory for one operation, of which nothing is left, frees its bank. -/
theorem drainMem_of_delivered {s u : State} {p q n : Nat} {w : EpiOwn}
    (hown : ((getPart (getTile s p) q).bank n).owners = [w])
    (hdone : drainOwn p q ((getPart (getTile s p) q).bank n) w s = (none, u)) :
    drainMem p q n s = freeBank p q n [w.op] u := by
  simp [drainMem, hown, hdone]

/-- Settles O37: what the sequencer takes runs or waits, SET_MODE and CHECK by their laws, each kind of drain by its state
before the bank is freed, and a reserved OP faults. -/
theorem blockCommands : Obligations.BlockCommands := by
  unfold Obligations.BlockCommands
  refine ⟨?commands, ?mode, ?check, ?drainEnd, ?fault⟩
  case commands =>
    rintro s _ p _ _ w feed ok _ _ hserves rfl hok hsplit rfl rfl rfl rfl
    refine ⟨fun hheld hfree => ⟨fun hop => ?_, fun hop => ?_, fun hop hacc => ?_⟩, fun hdrains hop => ?_⟩
    · exact congrArg Host.Outcome.next
        ((blockCmd_runs feed ok hserves hok hop hsplit hheld hfree).trans (runCmd_acc rfl rfl rfl hop))
    · exact congrArg Host.Outcome.next
        ((blockCmd_runs feed ok hserves hok hop hsplit hheld hfree).trans (runCmd_accDrain rfl rfl rfl hop))
    · exact congrArg Host.Outcome.next
        ((blockCmd_runs [] ok hserves hok hop hsplit hheld hfree).trans (runCmd_drain rfl rfl rfl hop hacc))
    · exact congrArg Host.Outcome.next (blockCmd_waits feed ok hserves hok hop hsplit hdrains)
  case mode =>
    rintro s p w ok _ hserves rfl hok hop
    exact ⟨fun hfree => congrArg Host.Outcome.next (setModeOp_of_banksFree hserves hok hop hfree),
      fun hused => congrArg Host.Outcome.next (setModeOp_of_bankInUse hop hok hused)⟩
  case check =>
    rintro s p _ w spares _ hserves rfl hok hop rfl
    exact ⟨_, rfl, congrArg Host.Outcome.next ((checkOp_of_accepted hserves hok hop).trans (checkTile_of_noFaults p spares _))⟩
  case drainEnd =>
    rintro s u p q tag _ _ _ rfl rfl - rfl hst hother hkind hheld hrun
    have hends : drainEndOp p q s = freeBank p q 0 [tag] u := by
      rcases hkind with ⟨hto, hfirst, rfl, rfl⟩ | ⟨hto, hmem, rfl, rfl⟩ | ⟨hto, hmem, w, hown, rfl, hdone⟩
      · exact drainEndOp_toBank hst hother hto hfirst
      · exact drainEndOp_toStore hst hother hto hmem
      · exact (drainEndOp_toMem hst hother hto hmem).trans (drainMem_of_delivered hown hdone)
    exact congrArg Host.Outcome.next (hends.trans (freeBank_of_noneHeld 0 tag hheld hrun))
  case fault =>
    intro s p w feed ok hserves hop
    exact congrArg Host.Outcome.next (blockCmd_of_reserved hserves hop)

end Sys2Proof.Machine
end

section
/-! Sweeps of one request, multicast trees and carousel rings (R90, R91, R178, R181): the block after block of a sweep, the
member that leaves its tree, and the shard that goes on to the next place of its ring. -/

namespace Sys2Proof.Machine

/-! ### Generation sweeps (R90, R91) -/

/-- Block i of a sweep is done: its row operand is staged, and its sums go to the result of each request. -/
def sweepStep (tags : List Nat) (o : Op) (i : Nat) (s s' : State) : Prop :=
  ∃ ps w0 w1 l, o.sliceTiles i s = some ps ∧ fetchRow o.tag i ps s = (none, w0) ∧ sweepParts ps i tags 0 w0 = (l, w1) ∧
    s' = giveBlock ps i (o.blk i) l w1

theorem sweepBlocks_cons {tags : List Nat} {o : Op} {i : Nat} {s s' : State} (h : sweepStep tags o i s s') (is : List Nat) :
    sweepBlocks tags o (i :: is) s = sweepBlocks tags o is s' := by
  obtain ⟨ps, w0, w1, l, htiles, hfetch, hparts, rfl⟩ := h
  simp only [sweepBlocks, htiles, hfetch, hparts]

/-- A sweep whose blocks are done one after another comes to its end. -/
theorem sweepBlocks_range' {tags : List Nat} {o : Op} {st : Nat → State} (k i : Nat)
    (h : ∀ j, i ≤ j → j < i + k → sweepStep tags o j (st j) (st (j + 1))) :
    sweepBlocks tags o (List.range' i k) (st i) = sweepBlocks tags o [] (st (i + k)) := by
  induction k generalizing i with
  | zero => rfl
  | succ k ih =>
    rw [List.range'_succ, sweepBlocks_cons (h i (by omega) (by omega)),
      ih (i + 1) fun j hlo hhi => h j (by omega) (by omega), Nat.add_right_comm, Nat.add_assoc]

theorem sweepBlocks_range {tags : List Nat} {o : Op} {st : Nat → State} {n : Nat}
    (h : ∀ i < n, sweepStep tags o i (st i) (st (i + 1))) :
    sweepBlocks tags o (List.range n) (st 0) = sweepBlocks tags o [] (st n) := by
  rw [List.range_eq_range', sweepBlocks_range' n 0 fun j _ hj => h j (by omega), Nat.zero_add]

/-- A sweep of one request that waits stages its weights and goes through the blocks. -/
theorem issueSweep_of_one {id tag : Nat} {s u : State} {w : Sweep} {o : Op} (hsweep : tfind id s.place.sweeps = some w)
    (hone : w.ops = [tag]) (hu : u = { s with place := { s.place with sweeps := terase id s.place.sweeps } })
    (ho : findOp u tag = some o) (hwaits : o.phase = .waiting) {y : Op} (hy : y = { o with phase := .ready }) {v : State}
    (hv : v = growTree [tag] o.tiles.eraseDups (stageWeights [tag] y (updOp tag (fun o => { o with phase := .ready }) u))) :
    issueSweep id s = sweepBlocks [tag] y (List.range y.nBlocks) (markWork (y.tileUnits v) (setModes y v)) := by
  have hready := findOp_updOp_of (f := fun o => { o with phase := .ready }) ho fun _ hx => hx
  subst hy hv hu
  simp [issueSweep, hsweep, hone, ho, hwaits, hready]

/-! ### Multicast trees (R178) -/

theorem multicastPruneOp_of_member {id m p : Nat} {s : State} {t : Tree} (ht : tfind id s.place.trees = some t)
    (hm : m ∈ t.members) (hp : physOf s m = some p) :
    multicastPruneOp id m s = updTile p (fun x => { x with pruned := satAdd 0xFFFF x.pruned 1 })
      { s with place := { s.place with trees := tinsert id { t with
        members := t.members.filter (· ≠ m), pruned := t.pruned ++ [(m, t.cursor)]
        nodes := t.nodes.take 1 ++ (t.nodes.drop 1).filter (· ≠ p) } s.place.trees } } := by
  simp only [multicastPruneOp, ht, hm, hp, if_true, Option.getD_some]

/-! ### Carousel rings (R181, R182) -/

@[simp] theorem findOp_mendRing (g tag : Nat) (o : Op) (s : State) : findOp (mendRing g o s) tag = findOp s tag := by
  unfold mendRing
  split <;> rfl

/-- A shard leaves the buffers of tile a for a free buffer of tile b. -/
def moveShard (j a b : Nat) (cs : List (Nat × Nat)) (s : State) : State :=
  updTile b (fun t => { t with shards := t.shards ++ [(j, cs)] })
    (updTile a (fun t => { t with shards := t.shards.filter (fun x => decide (x.1 ≠ j)) }) s)

theorem any_shard_of_shard {t : Tile} {j : Nat} {cs : List (Nat × Nat)} (h : t.shard j = some cs) :
    t.shards.any (fun x => x.1 = j) = true := by
  obtain ⟨x, hx, -⟩ := Option.map_eq_some_iff.1 h
  exact List.any_eq_true.2 ⟨x, List.mem_of_find?_eq_some hx, by simpa using List.find?_some hx⟩

/-- An arrival at a place that does not hold the shard yet puts it there. -/
theorem arrive_eq_moveShard {j a b : Nat} {cs : List (Nat × Nat)} {s : State} (hheld : (getTile s a).shard j = some cs)
    (hnew : (getTile s b).shards.any (fun x => x.1 = j) = false) :
    updTile b (fun t => { t with shards := if t.shards.any (fun x => x.1 = j) then t.shards else t.shards ++ [(j, cs)] })
      (updTile a (fun t => { t with shards := t.shards.filter (fun x => decide (x.1 ≠ j)) }) s) = moveShard j a b cs s := by
  have hne : b ≠ a := by
    rintro rfl
    exact Bool.false_ne_true (hnew.symm.trans (any_shard_of_shard hheld))
  simp only [moveShard, updTile, getTile_setTile_ne _ _ _ _ hne, hnew, Bool.false_eq_true, if_false]

/-- A place whose tile can run its phase, and does every block of it, has done the phase. -/
theorem ringPhase_of_done {g p n f key : Nat} {r : Carousel} {o : Op} {s s1 : State} (hn : n = r.ring.length)
    (hf : f = r.phases.getD p 0) (hreload : reloadShards r o (List.range n) s = .ok s) (hkey : key = (p * n + f) * 2 ^ 32)
    (hruns : o.runsOn (getTile (ringMode r p o s) (ringPhys r p (ringMode r p o s))) = true)
    (hblocks : phaseBlocks o.tag key (ringPhys r p (ringMode r p o s)) (shardIn n p f) r (o.ringBlocks n p f) 0
      (ringMode r p o s) = s1)
    (hdone : ∃ y, findOp s1 o.tag = some y ∧ ∀ i < (o.ringBlocks n p f).length, key + i ∈ y.blocksDone) :
    ringPhase g p r o s = setRing g { r with phases := r.phases.set p (f + 1) } s1 := by
  obtain ⟨y, hy, hall⟩ := hdone
  subst hn hf hkey
  simp only [ringPhase, hreload, hruns, hblocks, hy, Bool.not_true, Bool.false_eq_true, if_false, Option.map_some,
    Option.getD_some]
  exact if_pos (by simpa using hall)

/-- A place of a whole ring takes its next shard from its predecessor, which has done the phase before, and does the phase
with it. -/
theorem shardArriveOp_of_shard {g p n f j a b : Nat} {r0 r : Carousel} {o : Op} {s v : State} {cs : List (Nat × Nat)}
    (hring : tfind g s.place.rings = some r0) (ho : findOp s r0.op = some o) (hv : v = mendRing g o s)
    (hmended : tfind g v.place.rings = some r) (hop : r.op = r0.op) (hissues : issues v o.tag = true)
    (htaken : r.taken = false) (hwhole : ringWhole r v = true) (hn : n = r.ring.length) (hf : f = r.phases.getD p 0)
    (hplace : p < r.phases.length ∧ 0 < f ∧ f < n ∧ f ≤ r.phases.getD ((p + n - 1) % n) 0 ∧
      f ≤ r.phases.getD ((p + 1) % n) 0 + 1 ∧ (getTile v b).shards.length < 2)
    (hj : j = shardIn n p f) (ha : a = ringPhys r ((p + n - 1) % n) v) (hb : b = ringPhys r p v)
    (hnew : (getTile v b).shards.any (fun x => x.1 = j) = false) (hheld : (getTile v a).shard j = some cs)
    (hreload : reloadShards r o (List.range n) v = .ok v) :
    shardArriveOp g p s = ringCheck g o.tag (ringPhase g p r o (moveShard j a b cs v)) := by
  obtain ⟨hp, hpos, hlt, hbefore, hafter, hroom⟩ := hplace
  have hov : findOp v r.op = some o := by rw [hv, findOp_mendRing, hop, ho]
  rw [← arrive_eq_moveShard hheld hnew]
  subst hn hf hj ha hb
  simp only [shardArriveOp, hring, Option.bind_some, ho, ← hv, hmended, hov, hissues, htaken, hwhole, hp, hpos, hlt, hbefore,
    hafter, hroom, hreload, hheld, true_and, true_or, decide_true, Bool.not_false, Bool.and_self, if_true]

/-- Settles O36: the sweep by induction on its blocks, the pruned tree, and the shard that moves before its phase is done. -/
theorem sweepsTreesAndRings : Obligations.SweepsTreesAndRings := by
  unfold Obligations.SweepsTreesAndRings
  refine ⟨?sweep, ?tree, ?ring⟩
  case sweep =>
    intro s u v id tag n w o y st hsweep hone hu ho hwaits hy hn hv hst hsteps
    subst hn
    have hissue := issueSweep_of_one (s := passTo (w.opened + w.limit * 1000) s) (u := u) (by simpa using hsweep) hone
      (by simpa using hu) (by simpa [hu, findOp] using ho) hwaits hy hv
    have hruns : sweepTimeoutOp id s = sweepBlocks [tag] y [] (st y.nBlocks) := by
      rw [sweepTimeoutOp, hsweep]
      exact hissue.trans (hst ▸ sweepBlocks_range hsteps)
    exact congrArg Host.Outcome.next hruns
  case tree =>
    rintro s _ id m p t ht hm hp rfl
    exact congrArg Host.Outcome.next (multicastPruneOp_of_member ht hm hp)
  case ring =>
    rintro s v _ s1 g p f n j a b key r r0 o cs blocks hring ho hv hmended hop hissues htaken hwhole hn hf hp hpos hlt hbefore
      hafter hj ha hb hroom hnew hheld hreload rfl hreloaded rfl hkey hruns hblocks hdone
    have harrive := shardArriveOp_of_shard hring ho hv hmended hop hissues htaken hwhole hn hf
      ⟨hp, hpos, hlt, hbefore, hafter, hroom⟩ hj ha hb hnew hheld hreload
    subst hj
    exact congrArg Host.Outcome.next
      (harrive.trans (congrArg _ (ringPhase_of_done hn hf hreloaded hkey hruns hblocks hdone)))

end Sys2Proof.Machine
end

section
/-! Control and scalar instructions of the vector engine (R118 to R120, R127, R130): an issued instruction whose effect leaves
the run on an instruction of its image changes the run of its tile alone. -/

namespace Sys2Proof.Machine

section Issue
variable {s : State} {p opc i : Nat} {o : Op} {b : List Byte} {x : VecRun}

/-- A run put on a tile that stands on an instruction of its image does not end there (R113). -/
theorem settle_setTile_run (himg : imageOf s x.imgAddr x.imgTag = some b) (hpc : x.pc < imgLen b) :
    settle p (setTile s p { getTile s p with run := x }) = setTile s p { getTile s p with run := x } := by
  apply settle_of_lt (b := b) <;> rw [getTile_setTile]
  · exact himg
  · exact hpc

/-- An instruction that leaves the bank, and does not lead beyond the image, changes the run of its tile alone. -/
theorem vxWith_of_issued {f : Op → Nat → VecRun → Memory → Except Nat (VecRun × Memory)} (hiss : issued s p = some (o, i))
    (hopc : iOpc i = opc) (hf : f o i (getTile s p).run (getTile s p).bank = .ok (x, (getTile s p).bank))
    (himg : imageOf s x.imgAddr x.imgTag = some b) (hpc : x.pc < imgLen b) :
    vxWith p opc f s = setTile s p { getTile s p with run := x } := by
  simp only [vxWith, hiss, hopc, hf, ne_eq, not_true_eq_false, if_false]
  exact settle_setTile_run himg hpc

/-- SWAIT's effect where no queue port has bytes for the tile's rings: on when the count is reached, to TARGET when the source
has ended first, else it waits (R119, R127). -/
theorem swaitOp_of_pumped (hiss : issued s p = some (o, i)) (hopc : iOpc i = 0x05) (hpump : pumpRings p s = s)
    (hx : x = if sext 64 ((getTile s p).run.getS (iA i % 16)) ≤ Int.ofNat ((getTile s p).run.ctr (iC i % 8)).count then
        (getTile s p).run.advance
      else if ((getTile s p).run.ctr (iC i % 8)).ended then (getTile s p).run.branch (iTarget i) else (getTile s p).run)
    (himg : imageOf s x.imgAddr x.imgTag = some b) (hpc : x.pc < imgLen b) :
    swaitOp p s = setTile s p { getTile s p with run := x } := by
  rw [swaitOp, hpump]
  exact vxWith_of_issued hiss hopc (hx ▸ rfl) himg hpc

/-- SREL's effect where the new mark lets nothing more be delivered (R127). -/
theorem srelOp_of_pumped (hiss : issued s p = some (o, i)) (hopc : iOpc i = 0x06)
    (hx : x = ((getTile s p).run.setCtr (iC i % 8) { (getTile s p).run.ctr (iC i % 8) with
      release := sext 64 ((getTile s p).run.getS (iA i % 16)) + iImm i }).advance)
    (hpump : pumpTile p (setTile s p { getTile s p with run := x }) = setTile s p { getTile s p with run := x })
    (himg : imageOf s x.imgAddr x.imgTag = some b) (hpc : x.pc < imgLen b) :
    srelOp p s = setTile s p { getTile s p with run := x } := by
  simp only [srelOp, hiss, hopc, ne_eq, not_true_eq_false, if_false, updTile, ← hx, hpump]
  exact settle_setTile_run himg hpc

end Issue

/-- Settles O41: each instruction is one effect on the issued run, SWAIT and SREL after what the rings and slots take. -/
theorem vectorControl : Obligations.VectorControl := by
  intro c s p i n o t r x b hiss ht hr himage hc haddr htag hpc
  subst ht hr
  have himg : imageOf s x.imgAddr x.imgTag = some b := by rw [haddr, htag]; exact himage
  have hvx {opc : Nat} {f : Op → Nat → VecRun → VecRun} (hexec : exec c s = .next (vx p opc f s)) (hopc : iOpc i = opc)
      (hx : x = (f o i (getTile s p).run).advance) : exec c s = .next (setTile s p { getTile s p with run := x }) :=
    hexec.trans (congrArg _ (vx_of_issued hiss hopc hx himg hpc))
  have hvxWith {opc : Nat} {f : Op → Nat → VecRun → Memory → Except Nat (VecRun × Memory)}
      (hexec : exec c s = .next (vxWith p opc f s)) (hopc : iOpc i = opc)
      (hf : f o i (getTile s p).run (getTile s p).bank = .ok (x, (getTile s p).bank)) :
      exec c s = .next (setTile s p { getTile s p with run := x }) :=
    hexec.trans (congrArg _ (vxWith_of_issued hiss hopc hf himg hpc))
  rcases hc with hnop | hjmp | hbnz | hloop | hswait | hsrel | hsmovi | hsmovh | hsadd | hradv | hvred
  · obtain ⟨rfl, hopc, hx⟩ := hnop
    exact hvx rfl hopc hx
  · obtain ⟨rfl, hopc, rfl⟩ := hjmp
    exact hvxWith rfl hopc rfl
  · obtain ⟨rfl, hopc, rfl, rfl⟩ := hbnz
    exact hvxWith rfl hopc rfl
  · obtain ⟨rfl, hopc, rfl⟩ := hloop
    exact hvxWith rfl hopc rfl
  · obtain ⟨hinstr, hopc, hpump, hcount⟩ := hswait
    have hexec : exec c s = .next (swaitOp p s) := by rcases hinstr with rfl | rfl <;> rfl
    refine hexec.trans (congrArg _ (swaitOp_of_pumped hiss hopc hpump ?_ himg hpc))
    rcases hcount with ⟨hreached, hx⟩ | ⟨hbelow, hended, hx⟩ | ⟨hbelow, hopen, hx⟩
    · rw [if_pos hreached, hx]
    · rw [if_neg (Int.not_le.2 hbelow), if_pos hended, hx, iTarget]
    · rw [if_neg (Int.not_le.2 hbelow), if_neg (by simp [hopen]), hx]
  · obtain ⟨rfl, hopc, hx, hpump⟩ := hsrel
    exact congrArg Host.Outcome.next (srelOp_of_pumped hiss hopc hx hpump himg hpc)
  · obtain ⟨rfl, hopc, hx⟩ := hsmovi
    exact hvx rfl hopc hx
  · obtain ⟨rfl, hopc, hx⟩ := hsmovh
    exact hvx rfl hopc hx
  · obtain ⟨rfl, hopc, rfl, hx⟩ := hsadd
    exact hvx rfl hopc hx
  · obtain ⟨rfl, hopc, hx⟩ := hradv
    exact hvx rfl hopc hx
  · obtain ⟨rfl, hopc, hx⟩ := hvred
    exact hvx rfl hopc hx

end Sys2Proof.Machine
end

section
/-! The start and the end of vector runs (R112 to R115, R139, R171, R225, R244, R282): an image made resident, the scalars of a
first instruction, a stream run without bindings, a line that returns, and the delivery at HALT. -/

namespace Sys2Proof.Machine

/-! ### Images (R112) -/

theorem loadImage_frame (s : State) (addr tag : Nat) (t : Tile) : ∃ l, loadImage s addr tag t = { t with images := l } := by
  unfold loadImage
  split
  · exact ⟨t.images, rfl⟩
  · dsimp only
    split
    · exact ⟨_, rfl⟩
    · split
      · exact ⟨_, rfl⟩
      · exact ⟨t.images, rfl⟩

/-- A tile without images takes any image that is not too long. -/
theorem loadImage_of_none {s : State} {addr tag : Nat} {b : List Byte} {t : Tile} (himg : imageOf s addr tag = some b)
    (hnone : t.images = []) (hlen : imgLen b ≤ 2048) : loadImage s addr tag t = { t with images := [(addr, tag, imgLen b)] } := by
  simp [loadImage, himg, hnone, evictImages, imageFits, hlen]

/-- A resident image stays resident when it is asked for again. -/
theorem holds_loadImage_of_mem {s : State} {addr tag : Nat} {b : List Byte} {t : Tile} (himg : imageOf s addr tag = some b)
    (hmem : (addr, tag, imgLen b) ∈ t.images) : (loadImage s addr tag t).holds addr tag = true := by
  simp [loadImage, himg, hmem, Tile.holds]

/-! ### The first instruction of a run (R114) -/

section StartRun
variable (o : Op) (kind base s1 s2 : Nat)

theorem startRun_sreg : (startRun o kind base s1 s2).sreg =
    ([(1, s1), (2, s2), (3, if kind = 1 then base else imgNeed o.image), (0, base), (4, o.param 0), (5, o.param 1),
      (6, o.param 2), (7, o.param 3)] : List (Nat × Nat)).foldl (fun t e => tset (dflt 0) t e.1 e.2) [] := rfl

/-- The scalars that R114 gives; S3 of an epilogue run is its window's base, of a stream run its window's length. -/
theorem getS_startRun :
    (startRun o kind base s1 s2).getS 0 = base ∧ (startRun o kind base s1 s2).getS 1 = s1 ∧
    (startRun o kind base s1 s2).getS 2 = s2 ∧
    (startRun o kind base s1 s2).getS 3 = (if kind = 1 then base else imgNeed o.image) ∧
    ∀ k < 4, (startRun o kind base s1 s2).getS (4 + k) = o.param k := by
  have hparam (k : Nat) (hk : k < 4) : (startRun o kind base s1 s2).getS (4 + k) = o.param k := by
    match k, hk with
    | 0, _ | 1, _ | 2, _ | 3, _ => simp [VecRun.getS, startRun_sreg, tget_tset_ne]
  refine ⟨?_, ?_, ?_, ?_, hparam⟩ <;> simp [VecRun.getS, startRun_sreg, tget_tset_ne]

end StartRun

/-! ### Epilogue runs (R113, R115) -/

/-- The run of an epilogue block that waits in the bank. -/
def epilogueRun (o : Op) (b : EpiBlock) : VecRun :=
  { startRun o 1 b.base (b.brow % 2 ^ 24 + b.bcol % 2 ^ 24 * 2 ^ 24) (b.rows % 256 + b.cols % 256 * 256) with block := some b }

theorem getS_epilogueRun (o : Op) (b : EpiBlock) (k : Nat) : (epilogueRun o b).getS k =
    (startRun o 1 b.base (b.brow % 2 ^ 24 + b.bcol % 2 ^ 24 * 2 ^ 24) (b.rows % 256 + b.cols % 256 * 256)).getS k := rfl

/-- The first block that waits in the bank gets the engine, its image being resident and its window fitting the bank. -/
theorem epilogueStart_of_waiting {s : State} {p : Nat} {b : EpiBlock} {rest : List EpiBlock} {o : Op}
    (hepi : (getTile s p).epi = b :: rest) (ho : findOp s b.op = some o) (hidle : (getTile s p).idleVx = true)
    (hvals : b.vals = none) (hfits : b.base + imgNeed o.image ≤ 2 ^ 19)
    (hholds : (getTile s p).holds o.imgAddr (imgTagOf o.image) = true) (hphase : o.phase ≠ .done) :
    epilogueStart p s = markWork [tileUnit p 4] (setTile s p (loadImage s o.imgAddr (imgTagOf o.image)
      { getTile s p with epi := rest, run := epilogueRun o b })) := by
  have hwindow : b.window (getTile s p) (imgNeed o.image) = some b.base := by simp only [EpiBlock.window, hvals, hfits, if_true]
  have hblock : { b with vals := none } = b := by rw [← hvals]
  simp [epilogueStart, hepi, ho, hwindow, hidle, hholds, hphase, hvals, hblock, epilogueRun]

/-! ### Stream runs (R113, R282) -/

theorem getTile_markWork (us : List Nat) (s : State) (p : Nat) : getTile (markWork us s) p = getTile s p := rfl
theorem getTile_setOp (s : State) (o : Op) (p : Nat) : getTile (setOp s o) p = getTile s p := rfl
theorem getTile_beginOp (s : State) (o : Op) (p : Nat) : getTile (beginOp o s) p = getTile s p := rfl

theorem pumpTile_of_unbound {p : Nat} {s : State} (hxfers : (getTile s p).xfers = []) (hctrs : (getTile s p).run.ctrs = []) :
    pumpTile p s = s := by
  simp [pumpTile, pumpSlots, pumpRings, hxfers, hctrs]

/-- Without bindings a stream run begins with no transfer and no counter, and nothing is delivered yet. -/
theorem startStream_of_unbound {o : Op} {p : Nat} (j n : Nat) {s : State} (hbinds : o.binds = [])
    (hxfers : (getTile s p).xfers = []) : startStream o j n p s = markWork [tileUnit p 4, tileUnit p 5]
      (setTile s p { loadImage s o.imgAddr (imgTagOf o.image) (getTile s p) with
        run := { startRun o 2 0 j n with tileIx := j }, xfers := [] }) := by
  obtain ⟨l, hload⟩ := loadImage_frame s o.imgAddr (imgTagOf o.image) (getTile s p)
  simp only [startStream, hbinds, hload, hxfers, List.foldl_nil, List.filter_nil]
  apply pumpTile_of_unbound <;> rw [getTile_markWork, getTile_setTile]

/-- A stream operation without bindings whose one tile is free runs there. -/
theorem tileprogOp_of_oneTile {s : State} {tag l p : Nat} {want : List Nat} {o : Op} {b : List Byte} (hgen : o.gen = 0)
    (hbinds : o.binds = []) (htiles : streamTiles s o want = [l]) (hcount : o.fld 48 2 ≤ 1) (hphys : physOf s l = some p)
    (hidle : (getTile s p).run.kind = 0) (hepi : (getTile s p).epi = []) (hxfers : (getTile s p).xfers = [])
    (himg : imageOf s o.imgAddr (imgTagOf o.image) = some b)
    (hmem : (o.imgAddr, imgTagOf o.image, imgLen b) ∈ (getTile s p).images) :
    tileprogOp tag want o s = startStream { o with started := true, phase := .running, gen := 1, tiles := [l] } 0 1 p
      (setOp s { o with started := true, phase := .running, gen := 1, tiles := [l] }) := by
  have hports : o.ports = [] := by simp [Op.ports, hbinds]
  have hidle : (getTile s p).idleVx = true := by simp [Tile.idleVx, hidle]
  have hholds := holds_loadImage_of_mem himg hmem
  have hcount : ¬ 1 < o.fld 48 2 := Nat.not_lt.2 hcount
  simp [tileprogOp, hgen, htiles, hcount, hports, hphys, hidle, hepi, hholds, hxfers, hbinds]

/-- TILEPROG is never placed on a memory stack as it begins (R144). -/
theorem placed_of_tileprog {o : Op} (hopc : o.opc = 0x30) (s : State) : o.placed s = o := by
  simp [Op.placed, Op.onePart, hopc]

/-! ### Lines that return (R171, R225, R244) -/

/-- A tile's access engine has asked for a line of a transfer, whose operation runs, and has walked for its address. -/
structure AskedLine (s u : State) (p slot line a : Nat) (x : Transfer) (o : Op) : Prop where
  transfer : tfind slot (getTile s p).xfers = some x
  op : findOp s x.op = some o
  runs : o.phase ≠ .done
  asked : (slot, line) ∈ (getTile s p).outstanding
  addr : a = (parseTensor x.record).lowLine + 64 * line
  walked : u = if isHost a then s else walkEvent o.asid a 4 s

section ReadResponse
variable {s u : State} {p slot line a q : Nat} {x : Transfer} {o : Op}

/-- A line that can be read is kept, and the tile's slots deliver. -/
theorem readResponseOp_of_line {bs : List Byte} (hline : AskedLine s u p slot line a x o)
    (hread : readV (o.original u) (whoAt o p) a 64 = .ok bs) (hphys : translate u (whoAt o p) false a = .phys q)
    (htier : q < tier2Base) : readResponseOp p slot line false s =
      pumpTile p (setTile (lineFlits p q u) p { getTile s p with
        xfers := tinsert slot { x with arrived := tinsert line bs x.arrived } (getTile s p).xfers }) := by
  obtain ⟨hx, ho, hphase, hasked, ha, hu⟩ := hline
  simp [readResponseOp, hx, ho, hphase, hasked, ← ha, ← hu, hread, hphys, Nat.not_le.2 htier]

/-- A host read that ends in error is a fault that cannot be resolved. -/
theorem readResponseOp_of_hostError {h : Nat} (hline : AskedLine s u p slot line a x o)
    (hhost : translate u (whoAt o p) false a = .host h) :
    readResponseOp p slot line true s = streamStop p x.op (.fault 0x20 a) false u := by
  obtain ⟨hx, ho, hphase, hasked, ha, hu⟩ := hline
  simp [readResponseOp, hx, ho, hphase, hasked, ← ha, ← hu, hhost]

/-- An uncorrectable line of device memory stops the stream. -/
theorem readResponseOp_of_badLine (hline : AskedLine s u p slot line a x o)
    (hphys : translate u (whoAt o p) false a = .phys q) :
    readResponseOp p slot line true s = streamStop p x.op (.line (q / 64 * 64)) false (badRead q u) := by
  obtain ⟨hx, ho, hphase, hasked, ha, hu⟩ := hline
  simp [readResponseOp, hx, ho, hphase, hasked, ← ha, ← hu, hphys]

end ReadResponse

/-! ### HALT of an epilogue run (R139) -/

theorem findOp_run_of_issued {s : State} {p i : Nat} {z : Op} (hiss : issued s p = some (z, i)) :
    findOp s (getTile s p).run.op = some z := by
  simp only [issued] at hiss
  split at hiss
  next =>
    split at hiss
    next o _ ho _ =>
      split at hiss
      next => cases hiss
      next => cases hiss; exact ho
    next => cases hiss
  next => cases hiss

/-- HALT ends an epilogue run. -/
theorem exec_halt_of_epilogue {s : State} {p i : Nat} {z : Op} (hiss : issued s p = some (z, i)) (hopc : iOpc i = 0x01)
    (hkind : (getTile s p).run.kind = 1) : exec (.halt p) s = .next (endEpilogue p s) := by
  have hexec : exec (.halt p) s = execHalt p s := rfl
  simp [hexec, execHalt, hiss, hopc, haltRun, findOp_run_of_issued hiss, hkind]

/-- The first offender that an epilogue block offers an operation that owns a part of it: of the block itself, else of the run
(R91, R138). -/
def EpiBlock.firstOffender (b : EpiBlock) (o : Op) (w : EpiOwn) (t : Tile) : Option Nat := match w.cand with
  | some c => some c
  | none => (w.runCand t.run).map (fun e => offenderRec o.trans 0 t.name b.brow b.bcol (e + b.row0 * 32 + b.col0) b.batch noK)

/-- A block of one operation, emitted whole and delivered, counts as done and frees the engine. -/
theorem endEpilogue_of_delivered {s s1 : State} {p key : Nat} {o : Op} {b : EpiBlock} {w : EpiOwn} {x : Blk}
    (hblock : (getTile s p).run.block = some b) (hown : b.own = [w]) (ho : findOp s w.op = some o) (hphase : o.phase ≠ .done)
    (hsub : o.subKey = 0) (hall : (getTile s p).run.emitted.length = 4 * (b.rows * b.cols)) (hx : x = b.share o w)
    (hkey : key = blkKey o.trans x)
    (hdel : deliverBlock o.tag key x (epiVals o b w (getTile s p).run) s = (none, s1)) :
    endEpilogue p s = finishRuns w.op (freeVx p 0 (oneLess o.tag (updOp o.tag
      (fun o => { o with blocksDone := o.blocksDone ++ [key] }) (blockDone o.tag key (w.flags ||| w.runFlags (getTile s p).run)
        w.ord (b.firstOffender o w (getTile s p)) s1)))) := by
  subst hx hkey
  simp only [endEpilogue, hblock, hown, List.foldl_cons, List.foldl_nil, giveOwn, ho, hphase, hsub, hall, hdel, ne_eq,
    not_true_eq_false, false_and, if_false, if_true]
  rfl

/-- Settles O44: an image loads by definition, both kinds of run start with what R114 gives, a line that returns goes by its
translation, and HALT delivers for its one operation. -/
theorem vectorRuns : Obligations.VectorRuns := by
  unfold Obligations.VectorRuns
  refine ⟨fun _ _ _ _ => rfl, fun s addr tag b t => loadImage_of_none, ?epilogue, ?stream, ?line, ?halt⟩
  case epilogue =>
    rintro s p _ b rest o rfl hepi ho hidle hvals hfits hholds hphase
    have hstart := epilogueStart_of_waiting hepi ho hidle hvals hfits hholds hphase
    obtain ⟨l, hload⟩ := loadImage_frame s o.imgAddr (imgTagOf o.image)
      { getTile s p with epi := rest, run := epilogueRun o b }
    rw [hload] at hstart
    refine ⟨_, epilogueRun o b, _, congrArg Host.Outcome.next hstart, rfl, rfl, rfl, rfl, rfl, rfl, rfl, rfl, rfl, rfl, rfl, rfl,
      rfl, rfl, rfl, ?_⟩
    simp only [getS_epilogueRun]
    exact getS_startRun ..
  case stream =>
    intro s tag l p tiles o b ho hready happ hslot hopc hgen hbinds htiles hcount hphys hidle hepi hxfers himg hmem
    have hbegins : runOp tag [0x30] (tileprogOp tag tiles) s = tileprogOp tag tiles o (beginOp o s) := by
      rw [runOp, runWhen_of_ready ho hready (by simp [hopc]) happ hslot, placed_of_tileprog hopc]
    have hruns := tileprogOp_of_oneTile (s := beginOp o s) (tag := tag) hgen hbinds htiles hcount hphys hidle hepi hxfers himg hmem
    refine ⟨_, congrArg Host.Outcome.next (hbegins.trans (hruns.trans (startStream_of_unbound 0 1 hbinds hxfers))), ?_⟩
    simp only [getTile_markWork, getTile_setTile]
    refine ⟨rfl, rfl, rfl, rfl, rfl, by simp, fun q hq => ?_⟩
    rw [getTile_setTile_ne _ _ _ _ hq, getTile_setOp, getTile_beginOp]
  case line =>
    rintro s u p slot line a q _ x o bs rfl hx ho hphase hasked ha hu
    have hline : AskedLine s u p slot line a x o := ⟨hx, ho, hphase, hasked, ha, hu⟩
    exact ⟨fun hread hphys htier => congrArg Host.Outcome.next (readResponseOp_of_line hline hread hphys htier),
      fun h hhost => congrArg Host.Outcome.next (readResponseOp_of_hostError hline hhost),
      fun hphys => congrArg Host.Outcome.next (readResponseOp_of_badLine hline hphys)⟩
  case halt =>
    rintro s s1 p i key o z _ b w x rfl hiss hopc hkind hblock hown ho hphase hsub hall hx hkey hdel
    refine ⟨_, rfl, ?_⟩
    exact (exec_halt_of_epilogue hiss hopc hkind).trans
      (congrArg _ (endEpilogue_of_delivered hblock hown ho hphase hsub hall hx hkey hdel))

end Sys2Proof.Machine
end

section
/-! KV_APPEND and its truncate mode, page locks and parity errors (R145, R151 to R153): the parts of an append one after another,
a page that is freed, a lock that is given, and an engine that is retired. -/

namespace Sys2Proof.Machine

/-- A loop that spends one unit of its fuel for each step of a known kind goes to where the steps lead. -/
theorem loop_of_steps {F : Nat → State → State} {Step : State → State → Prop}
    (hF : ∀ fuel a b, Step a b → F (fuel + 1) a = F fuel b) (st : Nat → State) (n fuel : Nat)
    (hsteps : ∀ i < n, Step (st i) (st (i + 1))) : F (fuel + n) (st 0) = F fuel (st n) := by
  induction n generalizing fuel with
  | zero => rfl
  | succ n ih =>
    calc F (fuel + (n + 1)) (st 0) = F (fuel + 1 + n) (st 0) := by rw [Nat.add_right_comm]; rfl
      _ = F (fuel + 1) (st n) := ih (fuel + 1) fun i hi => hsteps i (Nat.lt_succ_of_lt hi)
      _ = F fuel (st (n + 1)) := hF _ _ _ (hsteps n (Nat.lt_succ_self n))

/-! ### KV_APPEND in write mode (R151) -/

/-- The page that an append writes next, its lowest position there, and the part of it that comes next. -/
def Op.appendPage (o : Op) : Nat := o.kvPos / 256 + o.gen / o.sqHeads
def Op.appendCursor (o : Op) : Nat := max o.kvPos (256 * o.appendPage)
def appendNext (tag : Nat) (o : Op) (s : State) : Bool × State :=
  appendPart tag { o with cursor := o.appendCursor } o.appendPage (o.gen % o.sqHeads)
    (updOp tag (fun z => { z with cursor := o.appendCursor }) s)

/-- A part of an append is written, and its operation counts it. -/
def AppendStep (tag : Nat) (s t : State) : Prop :=
  ∃ o u, findOp s tag = some o ∧ 256 * o.appendPage < o.kvPos + o.kvCount ∧ appendNext tag o s = (true, u) ∧
    t = updOp tag (fun z => { z with gen := z.gen + 1 }) u

section AppendFrom
variable {s u : State} {tag : Nat} {o : Op} (fuel : Nat)

theorem appendFrom_of_last (ho : findOp s tag = some o) (hlast : o.kvPos + o.kvCount ≤ 256 * o.appendPage) :
    appendFrom tag (fuel + 1) s = endOp tag {} s := by
  rw [Op.appendPage] at hlast
  simp [appendFrom, ho, hlast]

theorem appendFrom_of_left (ho : findOp s tag = some o) (hleft : 256 * o.appendPage < o.kvPos + o.kvCount)
    (hpart : appendNext tag o s = (false, u)) : appendFrom tag (fuel + 1) s = u := by
  simp only [appendNext, Op.appendCursor, Op.appendPage] at hleft hpart
  simp [appendFrom, ho, Nat.not_le.2 hleft, hpart]

theorem appendFrom_of_step {t : State} (h : AppendStep tag s t) : appendFrom tag (fuel + 1) s = appendFrom tag fuel t := by
  obtain ⟨o, u, ho, hleft, hpart, rfl⟩ := h
  simp only [appendNext, Op.appendCursor, Op.appendPage] at hleft hpart
  simp [appendFrom, ho, Nat.not_le.2 hleft, hpart]

end AppendFrom

/-- KV_APPEND never runs whole on a memory stack as it begins (R144). -/
theorem placed_of_kvAppend {o : Op} (hopc : o.opc = 0x21) (s : State) : o.placed s = o := by
  simp [Op.placed, Op.onePart, hopc]

/-- KV_APPEND goes on behind the parts that it can write. -/
theorem exec_kvAppend_of_steps {s : State} {tag n : Nat} {o : Op} {st : Nat → State} (ho : findOp s tag = some o)
    (hready : o.phase = .ready) (happ : s.cfg.applying = none) (hslot : o.slotFree s = true) (hopc : o.opc = 0x21)
    (hmode : o.fld 58 1 = 0) (hn : n ≤ ((o.kvCount + 255) / 256 + 1) * o.sqHeads) (hst : st 0 = beginOp o s)
    (hsteps : ∀ i < n, AppendStep tag (st i) (st (i + 1))) :
    ∃ fuel, exec (.kvAppend tag) s = .next (appendFrom tag (fuel + 1) (st n)) := by
  have hrun : runWhen tag (fun o => o.opc = 0x21 && o.fld 58 1 = 0) (kvAppendOp tag) s = kvAppendOp tag o (st 0) := by
    rw [runWhen_of_ready ho hready (by simp [hopc, hmode]) happ hslot, placed_of_kvAppend hopc, hst]
  obtain ⟨k, hk⟩ := Nat.exists_eq_add_of_le' hn
  refine ⟨k, congrArg Host.Outcome.next (hrun.trans ?_)⟩
  rw [kvAppendOp, hk, Nat.add_right_comm]
  exact loop_of_steps (fun fuel _ _ => appendFrom_of_step fuel) st n (k + 1) hsteps

/-! ### KV_APPEND in truncate mode (R153) -/

/-- A truncation goes through the pages that it changes. -/
theorem exec_kvTruncate_of_ready {s : State} {tag : Nat} {o : Op} (ho : findOp s tag = some o) (hready : o.phase = .ready)
    (happ : s.cfg.applying = none) (hslot : o.slotFree s = true) (hopc : o.opc = 0x21) (hmode : o.fld 58 1 = 1) :
    exec (.kvTruncate tag) s = .next (truncAll tag o (truncPages o (beginOp o s)) (beginOp o s)) := by
  have hrun := runWhen_of_ready (p := fun o => o.opc = 0x21 && o.fld 58 1 = 1)
    (f := fun o s => truncAll tag o (truncPages o s) s) ho hready (by simp [hopc, hmode]) happ hslot
  rw [placed_of_kvAppend hopc] at hrun
  exact congrArg Host.Outcome.next hrun

theorem truncAll_of_truncated {s s1 s2 : State} {tag : Nat} {o : Op} {k : KvPage} (ks : List KvPage)
    (hlock : askLock ((kvAt s k.asid k.entry).getD k) tag true s = (true, s1))
    (hpage : truncPage o ((kvAt s1 k.asid k.entry).getD k) s1 = (none, s2)) :
    truncAll tag o (k :: ks) s = truncAll tag o ks (dropLock k.asid k.entry tag s2) := by
  simp [truncAll, hlock, hpage]

/-- Waking the operations that wait for a page changes operations only. -/
theorem wakeWaiting_frame (k : KvPage) (s : State) : ∃ l, wakeWaiting k s = { s with ops := l } := by
  rw [wakeWaiting]
  induction k.waiting generalizing s with
  | nil => exact ⟨s.ops, rfl⟩
  | cons r rs ih =>
    obtain ⟨l, hl⟩ := ih (updOp r.1 (fun o => if o.phase = .waiting then { o with phase := .ready } else o) s)
    exact ⟨l, hl⟩

theorem unmapKv_dmem (k : KvPage) (s : State) : (unmapKv k s).dmem = s.dmem := by
  unfold unmapKv
  split <;> rfl

/-- A page is freed: its leaves are unmapped, and it stands behind its entry no more. -/
def kvFreed (k : KvPage) (s : State) : State :=
  { unmapKv k s with kv := s.kv.filter (fun x => !(x.asid = k.asid && x.entry = k.entry)) }

/-- No page stands behind an entry whose pages were taken away. -/
theorem kvAt_of_removed {s : State} (l : List KvPage) (asid entry : Nat)
    (hkv : s.kv = l.filter (fun x => !(x.asid = asid && x.entry = entry))) : kvAt s asid entry = none := by
  rw [kvAt, hkv, List.find?_eq_none]
  exact fun x hx => Bool.eq_false_iff.1 ((Bool.not_eq_true' _).mp (List.mem_filter.1 hx).2)

/-- A page wholly at or above the position is freed with its entry 0. -/
theorem truncPage_of_above {s s1 : State} {o : Op} {k : KvPage} (habove : o.kvPos ≤ 256 * k.page)
    (hentry : writeRM (whoOf o) k.entry (leBytes 8 0) 2 s = (none, s1)) :
    ∃ t, truncPage o k s = (none, t) ∧ kvAt t k.asid k.entry = none ∧ t.dmem = s1.dmem := by
  have hpage : truncPage o k s = (none, wakeWaiting k (kvFreed k s1)) := by
    simp only [truncPage, habove, hentry, if_true]
    rfl
  obtain ⟨ops, hwake⟩ := wakeWaiting_frame k (kvFreed k s1)
  refine ⟨_, hpage, ?_, ?_⟩
  · rw [hwake]
    exact kvAt_of_removed s1.kv _ _ rfl
  · rw [hwake]
    exact unmapKv_dmem k s1

/-! ### Page locks (R152) -/

/-- The request of the one operation that waits for the one page takes the lock that nobody holds. -/
theorem lockGrantOp_of_waiting {s : State} {tag : Nat} {write : Bool} {o : Op} {k : KvPage} {rest : List (Nat × Bool)}
    (hkv : s.kv = [k]) (hops : s.ops = [o]) (htag : o.tag = tag) (hphase : o.phase = .waiting)
    (hwaiting : k.waiting = (tag, write) :: rest) (hrest : ∀ r ∈ rest, r.1 = tag) (hreaders : k.readers = [])
    (hwriter : k.writer = none) : lockGrantOp k.addr s = { s with
      ops := [{ o with phase := .ready }]
      kv := [{ k with waiting := [], readers := if write then [] else [tag]
                      writer := if write then some tag else none }] } := by
  have hlockLive : lockLive s tag = true := by simp [lockLive, findOp, hops, htag, hphase]
  have hall : ∀ r ∈ k.waiting, r.1 = tag := by simpa [hwaiting] using hrest
  have hlive : k.live s = k := by
    have hkeep : k.waiting.filter (fun r => lockLive s r.1) = k.waiting :=
      List.filter_eq_self.2 fun r hr => by rw [hall r hr, hlockLive]
    simp only [KvPage.live, hkeep, hreaders, hwriter, List.filter_nil]
    rw [← hreaders, ← hwriter]
  have hadmits : k.admits tag write = true := by simp [KvPage.admits, hreaders, hwriter]
  have hnone : k.waiting.filter (fun r => decide (r.1 ≠ tag)) = [] :=
    List.filter_eq_nil_iff.2 fun r hr => by simp [hall r hr]
  have hgive : k.give tag write = { k with
      waiting := [], readers := if write then [] else [tag], writer := if write then some tag else none } := by
    rw [KvPage.give, hnone]
    cases write <;> simp [hreaders, hwriter, insertNat]
  have hfind : s.kv.find? (fun x => x.addr = k.addr && !(x.live s).waiting.isEmpty) = some k := by
    simp [hkv, hlive, hwaiting]
  simp only [lockGrantOp, hfind, hlive, hwaiting, hadmits, hgive, if_true]
  simp [updOp, setKv, hkv, hops, htag, hphase]

/-! ### Parity errors (R145) -/

/-- The part that begins again changes its operation only. -/
theorem restartPart_frame (k e : Nat) (s : State) : ∃ l, restartPart k e s = { s with ops := l } ∧ l.length = s.ops.length := by
  unfold restartPart
  split
  · exact ⟨_, rfl, by simp⟩
  · exact ⟨s.ops, rfl, rfl⟩

/-- The state once an engine is retired, with its record and its count. -/
def engineRetired (k e : Nat) (s : State) : State :=
  record 0x0301 (0x40 + k) (leBytes 1 e ++ leBytes 1 1) (setFloe { restartPart k e s with
    ice := { s.ice with now := { s.ice.now with floeRetired := tadd s.ice.now.floeRetired k 1 } } } k
      { getFloe s k with retired := insertNat e (getFloe s k).retired })

section EngineRetired
variable (k e : Nat) (s : State)

theorem getFloe_engineRetired :
    getFloe (engineRetired k e s) k = { getFloe s k with retired := insertNat e (getFloe s k).retired } := by
  rw [getFloe, engineRetired, record_floe]
  exact getFloe_setFloe ..

theorem engineRetired_length_ops : (engineRetired k e s).ops.length = s.ops.length := by
  obtain ⟨l, hrestart, hlen⟩ := restartPart_frame k e s
  simp [engineRetired, hrestart, setFloe, hlen]

theorem engineRetired_dmem : (engineRetired k e s).dmem = s.dmem := by
  obtain ⟨l, hrestart, -⟩ := restartPart_frame k e s
  simp [engineRetired, hrestart, setFloe]

theorem engineRetired_kv : (engineRetired k e s).kv = s.kv := by
  obtain ⟨l, hrestart, -⟩ := restartPart_frame k e s
  simp [engineRetired, hrestart, setFloe]

end EngineRetired

/-- A stack that serves goes on serving while one of its four engines is left. -/
theorem floeServes_engineRetired {k e : Nat} {s : State} (hserves : floeServes s k = true) :
    floeServes (engineRetired k e s) k = decide ((insertNat e (getFloe s k).retired).length < 4) := by
  obtain ⟨l, hrestart, -⟩ := restartPart_frame k e s
  have hvariant : (engineRetired k e s).variant = s.variant := by simp [engineRetired, hrestart, setFloe]
  have hstack : getStack (engineRetired k e s) k = getStack s k := by simp [getStack, engineRetired, hrestart, setFloe]
  simp only [floeServes, Bool.and_eq_true] at hserves
  obtain ⟨⟨⟨hfloe, hnum⟩, hpresent⟩, -⟩ := hserves
  simp [floeServes, hvariant, hstack, getFloe_engineRetired, hfloe, hnum, hpresent]

/-- The parts of a stack move off it, and its state buffer is empty. -/
def partsMoved (k : Nat) (s : State) : State :=
  setFloe { s with ops := s.ops.map (fun o => { (if o.onFloe = some k then o.runsPart s none else o) with
    kvSeen := o.kvSeen.map (fun x => if x.stack = k then { x with floe := false } else x) }) } k
    { getFloe s k with buffer := [] }

theorem partsMoved_onFloe {k : Nat} {s : State} : ∀ o ∈ (partsMoved k s).ops, o.onFloe ≠ some k := by
  intro o ho
  obtain ⟨x, -, rfl⟩ := List.mem_map.1 (show o ∈ s.ops.map _ from ho)
  by_cases hx : x.onFloe = some k
  · simp [hx, Op.runsPart]
  · simp [hx]

theorem floeParityOp_eq (k e : Nat) (s : State) : floeParityOp k e s =
    if !floeServes s k || decide (4 ≤ e) || decide (e ∈ (getFloe s k).retired) then s
    else if floeServes (engineRetired k e s) k then engineRetired k e s else partsMoved k (engineRetired k e s) := rfl

/-- What a parity error of an engine in service does, by whether the stack keeps an engine. -/
theorem floeParityOp_of_serving {k e : Nat} {s : State} (hserves : floeServes s k = true) (he : e < 4)
    (hin : e ∉ (getFloe s k).retired) : floeParityOp k e s =
      if (insertNat e (getFloe s k).retired).length < 4 then engineRetired k e s else partsMoved k (engineRetired k e s) := by
  rw [floeParityOp_eq, floeServes_engineRetired hserves]
  simp [hserves, hin, Nat.not_le.2 he]

theorem floeParityOp_of_outOfService {k e : Nat} {s : State}
    (h : floeServes s k = false ∨ 4 ≤ e ∨ e ∈ (getFloe s k).retired) : floeParityOp k e s = s := by
  rcases h with h | h | h <;> simp [floeParityOp_eq, h]

/-- Settles O45: each loop goes through its parts, and locks and parity errors act on one page and one stack. -/
theorem kvPagesLocksAndEngines : Obligations.KvPagesLocksAndEngines := by
  refine ⟨⟨?append, ?truncate, ?freed⟩, ?grant, ?parity, ?outOfService⟩
  case append =>
    intro s tag n o x st ho hready happ hslot hopc hmode hn hst hsteps hx
    have hparts : ∀ i < n, AppendStep tag (st i) (st (i + 1)) := by
      intro i hi
      obtain ⟨y, u, _, _, hy, rfl, hleft, rfl, hpart, hnext⟩ := hsteps i hi
      exact ⟨y, u, hy, hleft, hpart, hnext⟩
    obtain ⟨fuel, hexec⟩ := exec_kvAppend_of_steps ho hready happ hslot hopc hmode hn hst hparts
    refine ⟨fun hlast => hexec.trans (congrArg _ (appendFrom_of_last fuel hx hlast)), ?_⟩
    rintro u _ _ rfl hleft rfl hpart
    exact hexec.trans (congrArg _ (appendFrom_of_left fuel hx hleft hpart))
  case truncate =>
    rintro s _ tag o ho hready happ hslot hopc hmode rfl
    have hexec := exec_kvTruncate_of_ready ho hready happ hslot hopc hmode
    refine ⟨fun hnone => ?_, fun k s1 s2 hone hlock hpage => ?_⟩
    · rw [hexec, hnone, truncAll]
    · rw [hexec, hone, truncAll_of_truncated [] hlock hpage, truncAll]
  case freed => exact fun s s1 o k habove hentry => truncPage_of_above habove hentry
  case grant =>
    intro s tag write o k rest hkv hops htag hphase hwaiting hrest hreaders hwriter
    exact congrArg Host.Outcome.next (lockGrantOp_of_waiting hkv hops htag hphase hwaiting hrest hreaders hwriter)
  case parity =>
    rintro s k e _ hserves rfl he hin
    have hexec : exec (.floeParityError k e) s = .next _ := congrArg Host.Outcome.next (floeParityOp_of_serving hserves he hin)
    refine ⟨engineRetired k e s, rfl, fun hleft => by rw [hexec, if_pos hleft], fun hlast => ?_⟩
    rw [hexec, if_neg (Nat.not_lt.2 hlast)]
    exact ⟨_, rfl, partsMoved_onFloe, by simp [partsMoved, setFloe, engineRetired_length_ops], by simp [partsMoved],
      engineRetired_dmem k e s, engineRetired_kv k e s⟩
  case outOfService => exact fun s k e h => congrArg Host.Outcome.next (floeParityOp_of_outOfService h)

end Sys2Proof.Machine
end

section
/-! ATTEND and OPTSTEP (R152, R154, R157 to R163, R171): the pages that ATTEND reads one after another, its result when every
page is read, and the runs that OPTSTEP delivers. -/

namespace Sys2Proof.Machine

/-! ### The pages of ATTEND (R152, R154) -/

/-- ATTEND gets to a page that is not lost and asks for its lock: an engine is free where its part needs one. -/
structure AsksPage (tag : Nat) (z : Op) (k : KvPage) (s : State) : Prop where
  kept : k.lost = false
  engine : attendFloe s z k.stack = true → floeFree s k.stack tag = true

/-- ATTEND reads a page under its lock. -/
def ReadsPage (tag : Nat) (z : Op) (k : KvPage) (s t : State) : Prop :=
  AsksPage tag z k s ∧ ∃ s1, askLock ((kvAt s k.asid k.entry).getD k) tag false s = (true, s1) ∧
    readKvPage tag z ((kvAt s1 k.asid k.entry).getD k) s1 = .ok t

section Pages
variable {s s1 t : State} {tag : Nat} {z : Op} {k : KvPage} (ks : List KvPage)

theorem attendPagesFrom_of_lost (hlost : k.lost = true) : attendPagesFrom tag z (k :: ks) s =
    (false, updOp tag (fun o => { o with started := false }) (endOp tag { status := 0x30, faultAddr := k.addr } s)) := by
  simp [attendPagesFrom, hlost, stopWith]

theorem attendPagesFrom_of_noEngine (hkept : k.lost = false) (hfloe : attendFloe s z k.stack = true)
    (hbusy : floeFree s k.stack tag = false) : attendPagesFrom tag z (k :: ks) s = (false, s) := by
  simp [attendPagesFrom, hkept, hfloe, hbusy]

theorem AsksPage.not_waits (h : AsksPage tag z k s) : (attendFloe s z k.stack && !floeFree s k.stack tag) = false := by
  cases hfloe : attendFloe s z k.stack with
  | false => rfl
  | true => simp [h.engine hfloe]

theorem attendPagesFrom_of_noLock (h : AsksPage tag z k s)
    (hlock : askLock ((kvAt s k.asid k.entry).getD k) tag false s = (false, s1)) :
    attendPagesFrom tag z (k :: ks) s = (false, s1) := by
  simp [attendPagesFrom, h.kept, h.not_waits, hlock]

theorem attendPagesFrom_of_reads (h : ReadsPage tag z k s t) :
    attendPagesFrom tag z (k :: ks) s = attendPagesFrom tag z ks t := by
  obtain ⟨hasks, s1, hlock, hread⟩ := h
  simp [attendPagesFrom, hasks.kept, hasks.not_waits, hlock, hread]

end Pages

/-- Behind the pages that it reads, ATTEND goes on with the rest of them. -/
theorem attendPagesFrom_drop {tag n : Nat} {z : Op} {left : List KvPage} {st : Nat → State} (hn : n ≤ left.length)
    (hreads : ∀ i < n, ∀ k, left[i]? = some k → ReadsPage tag z k (st i) (st (i + 1))) :
    attendPagesFrom tag z left (st 0) = attendPagesFrom tag z (left.drop n) (st n) := by
  induction n with
  | zero => rfl
  | succ n ih =>
    have hpage : left[n]? = some left[n] := List.getElem?_eq_getElem hn
    rw [ih (Nat.le_of_succ_le hn) fun i hi => hreads i (Nat.lt_succ_of_lt hi), List.drop_eq_getElem_cons hn,
      attendPagesFrom_of_reads _ (hreads n (Nat.lt_succ_self n) _ hpage)]

/-- The page after those that it reads is the next that ATTEND gets to. -/
theorem attendPagesFrom_at {tag n : Nat} {z : Op} {left : List KvPage} {st : Nat → State} {k : KvPage}
    (hk : left[n]? = some k) (hreads : ∀ i < n, ∀ k, left[i]? = some k → ReadsPage tag z k (st i) (st (i + 1))) :
    attendPagesFrom tag z left (st 0) = attendPagesFrom tag z (k :: left.drop (n + 1)) (st n) := by
  obtain ⟨hn, rfl⟩ := List.getElem?_eq_some_iff.1 hk
  rw [attendPagesFrom_drop (Nat.le_of_lt hn) hreads, List.drop_eq_getElem_cons hn]

/-! ### The result of ATTEND (R157 to R160) -/

/-- A state in which one operation has noted something, keeping its tag. -/
def NotedOn (tag : Nat) (s t : State) : Prop := ∃ f : Op → Op, (∀ x, (f x).tag = x.tag) ∧ t = updOp tag f s

namespace NotedOn

variable {tag : Nat} {s t u : State}

theorem refl (tag : Nat) (s : State) : NotedOn tag s s := ⟨id, fun _ => rfl, by simp [updOp]⟩

theorem trans (hst : NotedOn tag s t) (htu : NotedOn tag t u) : NotedOn tag s u := by
  obtain ⟨f, hf, rfl⟩ := hst
  obtain ⟨g, hg, rfl⟩ := htu
  refine ⟨g ∘ f, fun x => (hg _).trans (hf x), ?_⟩
  simp only [updOp, List.map_map]
  congr 1
  refine List.map_congr_left fun x _ => ?_
  by_cases hx : x.tag = tag <;> simp [hx, hf]

theorem offer (ord : Nat) (cand : Option Nat) (s : State) : NotedOn tag s (updOp tag (fun o => o.offer ord cand) s) :=
  ⟨_, fun o => by obtain ⟨_, _, h⟩ := offer_frame o ord cand; rw [h], rfl⟩

theorem addBlock (key fl : Nat) (s : State) : NotedOn tag s (updOp tag (fun o => o.addBlock key fl) s) :=
  ⟨fun o => o.addBlock key fl, fun _ => rfl, rfl⟩

theorem foldl {β : Type} {f : State → β → State} (hf : ∀ s b, NotedOn tag s (f s b)) (l : List β) (s : State) :
    NotedOn tag s (l.foldl f s) := by
  induction l generalizing s with
  | nil => exact refl tag s
  | cons b l ih => exact (hf s b).trans (ih _)

theorem dmem (h : NotedOn tag s t) : t.dmem = s.dmem := by obtain ⟨_, _, rfl⟩ := h; rfl
theorem hmem (h : NotedOn tag s t) : t.hmem = s.hmem := by obtain ⟨_, _, rfl⟩ := h; rfl

theorem found (h : NotedOn tag s t) {o : Op} (ho : findOp s tag = some o) : ∃ x, findOp t tag = some x := by
  obtain ⟨f, hf, rfl⟩ := h
  exact ⟨_, findOp_updOp_of ho fun x hx => (hf x).trans hx⟩

end NotedOn

/-- The stacks whose pages ATTEND has read, and the state in which their engines have worked on them. -/
def Op.seenStacks (o : Op) : List Nat := sortNat (o.kvSeen.map (fun x => x.stack))
def enginesWorked (o : Op) (s : State) : State :=
  markWork ((o.seenStacks.filter (fun k => o.kvSeen.any (fun x => x.floe && x.stack = k))).flatMap
    (fun k => (List.range 4).map (floeUnit k))) s

/-- The triples of all queries, each combined from those of the parts. -/
def combinedTriples (o : Op) (order : List Nat) (qs : List (List XVal × Nat)) : List Flagged :=
  (List.range o.atQueries).map (fun i => (combineBy combineTriples (o.seenStacks.map (fun k =>
    (((partTriples o qs (partRead o k)).getD i (emptyTriple o.sqDim, 0, none)).1, 0, none))) order).getD
      (emptyTriple o.sqDim, 0, none))

/-- With its queries read and its results written, ATTEND notes flags and candidates, and ends. -/
theorem attendRun_of_written {s s2 : State} {tag : Nat} {order : List Nat} {o : Op} {qs : List (List XVal × Nat)}
    (hqueries : queryRows (enginesWorked o s) o o.atQueries = .ok qs)
    (hwrite : attendWrite tag o (combinedTriples o order qs) (enginesWorked o s) = .ok s2) :
    ∃ s3, NotedOn tag s2 s3 ∧ attendRun tag order o s = endOp tag {} s3 := by
  simp only [enginesWorked, combinedTriples, Op.seenStacks] at hqueries hwrite
  simp only [attendRun, hqueries, List.map_map, Function.comp_def, hwrite]
  exact ⟨_, (NotedOn.foldl (fun s b => NotedOn.offer 0 _ s) _ _).trans
    ((NotedOn.foldl (fun s c => NotedOn.offer 0 c s) _ _).trans (NotedOn.foldl (fun s i => NotedOn.addBlock i _ s) _ _)), rfl⟩

/-- ATTEND goes through the pages that it has not read yet. -/
def unreadPages (z : Op) (u : State) : List KvPage :=
  (attendPages u z).filter (fun k => z.kvSeen.all (fun x => x.entry ≠ k.entry))

section Attend
variable {s : State} {tag : Nat} {o : Op} (ho : findOp s tag = some o) (hready : o.phase = .ready)
  (happ : s.cfg.applying = none) (hslot : o.slotFree s = true) (hopc : o.opc = 0x20) (order : List Nat)

include ho hready happ hslot hopc

theorem exec_attend_of_ready : exec (.attend tag order) s = .next (attendOp tag order (o.placed s) (beginOp o s)) :=
  congrArg Host.Outcome.next (runWhen_of_ready ho hready (by simp [hopc]) happ hslot)

variable {left : List KvPage} (hleft : left = unreadPages (o.placed s) (beginOp o s)) {t : State}

include hleft

/-- ATTEND stops where its pages stop it. -/
theorem exec_attend_of_stopped (hpages : attendPagesFrom tag (o.placed s) left (beginOp o s) = (false, t)) :
    exec (.attend tag order) s = .next t := by
  rw [hleft, unreadPages] at hpages
  rw [exec_attend_of_ready ho hready happ hslot hopc, attendOp]
  simp only [hpages]

/-- ATTEND gives its result when its pages are read. -/
theorem exec_attend_of_read {x : Op} (hpages : attendPagesFrom tag (o.placed s) left (beginOp o s) = (true, t))
    (hx : findOp t tag = some x) : exec (.attend tag order) s = .next (attendRun tag order x t) := by
  rw [hleft, unreadPages] at hpages
  rw [exec_attend_of_ready ho hready happ hslot hopc, attendOp]
  simp only [hpages, hx]

end Attend

/-! ### OPTSTEP (R162, R163, R171) -/

/-- A run of OPTSTEP is delivered, and its cursor moves behind it. -/
def OptRunStep (tag total : Nat) (len : Nat → Nat) (s t : State) : Prop :=
  ∃ o u, findOp s tag = some o ∧ o.cursor < total ∧ optAct tag o o.cursor (len o.cursor) s = .ok u ∧
    t = updOp tag (fun z => { z with cursor := z.cursor + len o.cursor }) u

section DriveBy
variable {s : State} {tag total : Nat} {len : Nat → Nat} {act : Op → Nat → Nat → State → Except (Stop × Bool) State}
  {o : Op} (fuel : Nat)

theorem driveBy_of_behind (ho : findOp s tag = some o) (hlast : total ≤ o.cursor) :
    driveBy tag total len act (fuel + 1) s = endOp tag { cursor := o.cursor } s := by
  simp [driveBy, ho, hlast]

theorem driveBy_of_stop {e : Stop} {w : Bool} (ho : findOp s tag = some o) (hleft : o.cursor < total)
    (hact : act o o.cursor (len o.cursor) s = .error (e, w)) :
    driveBy tag total len act (fuel + 1) s = stopOp tag e w s := by
  simp [driveBy, ho, Nat.not_le.2 hleft, hact]

theorem driveBy_of_optRun {t : State} (h : OptRunStep tag total len s t) :
    driveBy tag total len (optAct tag) (fuel + 1) s = driveBy tag total len (optAct tag) fuel t := by
  obtain ⟨o, u, ho, hleft, hact, rfl⟩ := h
  simp [driveBy, ho, Nat.not_le.2 hleft, hact]

end DriveBy

/-- The tensor whose runs OPTSTEP goes through: the first state tensor of a T format, else w itself (R163). -/
def Op.runTensor (o : Op) : Tensor :=
  (([o.tensor 2, o.tensor 3] ++ (o.rec? 5).toList).find? (fun t => isT t.format)).getD (o.tensor 1)

theorem optstepOp_eq_driveBy (tag : Nat) (o : Op) (s : State) : optstepOp tag o s =
    driveBy tag (o.tensor 1).count (deliverLen o.runTensor) (optAct tag) ((o.tensor 1).count + 1) s := by
  rw [optstepOp, Op.runTensor]
  cases o.rec? 5 <;> rfl

theorem runTensor_placed (o : Op) (s : State) : (o.placed s).runTensor = o.runTensor := by simp [Op.runTensor, Op.rec?]

/-- OPTSTEP goes on behind the runs that it can deliver. -/
theorem exec_optstep_of_steps {s : State} {tag n : Nat} {o : Op} {st : Nat → State} (ho : findOp s tag = some o)
    (hready : o.phase = .ready) (happ : s.cfg.applying = none) (hslot : o.slotFree s = true) (hopc : o.opc = 0x28)
    (hn : n ≤ (o.tensor 1).count) (hst : st 0 = beginOp o s)
    (hsteps : ∀ i < n, OptRunStep tag (o.tensor 1).count (deliverLen o.runTensor) (st i) (st (i + 1))) :
    ∃ fuel, exec (.optstep tag) s =
      .next (driveBy tag (o.tensor 1).count (deliverLen o.runTensor) (optAct tag) (fuel + 1) (st n)) := by
  have hrun : runOp tag [0x28] (optstepOp tag) s =
      driveBy tag (o.tensor 1).count (deliverLen o.runTensor) (optAct tag) ((o.tensor 1).count + 1) (st 0) := by
    rw [runOp, runWhen_of_ready ho hready (by simp [hopc]) happ hslot, optstepOp_eq_driveBy, runTensor_placed, placed_tensor, hst]
  obtain ⟨k, hk⟩ := Nat.exists_eq_add_of_le' hn
  refine ⟨k, congrArg Host.Outcome.next (hrun.trans ?_)⟩
  rw [show (o.tensor 1).count + 1 = k + 1 + n by omega]
  exact loop_of_steps (fun fuel _ _ => driveBy_of_optRun fuel) st n (k + 1) hsteps

/-- Settles O46: ATTEND goes through its pages to its result, and OPTSTEP through its runs. -/
theorem attentionAndOptimiserSteps : Obligations.AttentionAndOptimiserSteps := by
  refine ⟨⟨?attend, ?empty⟩, ?optstep⟩
  case attend =>
    rintro s _ tag n order o _ left st ho hready happ hslot hopc rfl rfl hleft hn hst hsteps
    have hreads : ∀ i < n, ∀ k, left[i]? = some k → ReadsPage tag (o.placed s) k (st i) (st (i + 1)) := by
      intro i hi k hk
      obtain ⟨hkept, hengine, hread⟩ := hsteps i hi k hk
      exact ⟨⟨hkept, hengine⟩, hread⟩
    have hstop {k : KvPage} {t : State} (hk : left[n]? = some k)
        (hpage : attendPagesFrom tag (o.placed s) (k :: left.drop (n + 1)) (st n) = (false, t)) :
        exec (.attend tag order) s = .next t :=
      exec_attend_of_stopped ho hready happ hslot hopc order hleft (by rw [← hst, attendPagesFrom_at hk hreads, hpage])
    refine ⟨fun k hk hlost => hstop hk (attendPagesFrom_of_lost _ hlost),
      fun k hk hkept hfloe hbusy => hstop hk (attendPagesFrom_of_noEngine _ hkept hfloe hbusy),
      fun k s1 hk hkept hengine hlock => hstop hk (attendPagesFrom_of_noLock _ ⟨hkept, hengine⟩ hlock), ?_⟩
    rintro o1 _ _ s2 qs _ rfl ho1 rfl rfl hqueries rfl hwrite ⟨y, hy⟩
    have hall : attendPagesFrom tag (o.placed s) left (beginOp o s) = (true, st left.length) := by
      rw [← hst, attendPagesFrom_drop hn hreads, List.drop_length, attendPagesFrom]
    obtain ⟨s3, hnoted, hrun⟩ := attendRun_of_written hqueries hwrite
    obtain ⟨x, hx⟩ := hnoted.found hy
    have hexec := exec_attend_of_read ho hready happ hslot hopc order hleft hall ho1
    exact ⟨endOp tag {} s3, _, by rw [hexec, hrun], hnoted.dmem, hnoted.hmem, findOp_endOp_of hx, rfl, rfl⟩
  case empty => exact fun o d k fl c => ⟨rfl, rfl⟩
  case optstep =>
    rintro s tag n _ o x _ st ho hready happ hslot hopc rfl rfl hn hst hsteps hx
    obtain ⟨fuel, hexec⟩ := exec_optstep_of_steps ho hready happ hslot hopc hn hst hsteps
    exact ⟨fun hlast => hexec.trans (congrArg _ (driveBy_of_behind fuel hx hlast)),
      fun e w hleft hact => hexec.trans (congrArg _ (driveBy_of_stop fuel hx hleft hact))⟩

end Sys2Proof.Machine
end

section
/-! The runs of element operations (R170, R171, R246, R248, R276 to R279): a loop that delivers one run after the other from the
cursor, and the runs that each command goes through. -/

namespace Sys2Proof.Machine

/-! ### One run after the other (R171, R246, R248) -/

/-- The run at the cursor is delivered, and the cursor moves behind it. -/
def DeliversRun (tag total : Nat) (len : Nat → Nat) (act : Op → Nat → Nat → State → Except (Stop × Bool) State)
    (s t : State) : Prop :=
  ∃ o u, findOp s tag = some o ∧ o.cursor < total ∧ act o o.cursor (len o.cursor) s = .ok u ∧
    t = updOp tag (fun z => { z with cursor := z.cursor + len o.cursor }) u

theorem driveBy_of_deliversRun {tag total : Nat} {len : Nat → Nat}
    {act : Op → Nat → Nat → State → Except (Stop × Bool) State} {s t : State} (fuel : Nat)
    (h : DeliversRun tag total len act s t) :
    driveBy tag total len act (fuel + 1) s = driveBy tag total len act fuel t := by
  obtain ⟨o, u, ho, hleft, hact, rfl⟩ := h
  simp [driveBy, ho, Nat.not_le.2 hleft, hact]

/-- A loop with a unit of fuel for each element, and one more, is not spent by the runs that it delivers. -/
theorem driveBy_of_deliversRuns {tag total n : Nat} {len : Nat → Nat}
    {act : Op → Nat → Nat → State → Except (Stop × Bool) State} {st : Nat → State} (hn : n ≤ total)
    (hruns : ∀ i < n, DeliversRun tag total len act (st i) (st (i + 1))) :
    ∃ fuel, driveBy tag total len act (total + 1) (st 0) = driveBy tag total len act (fuel + 1) (st n) := by
  obtain ⟨k, rfl⟩ := Nat.exists_eq_add_of_le' hn
  refine ⟨k, ?_⟩
  rw [Nat.add_right_comm]
  exact loop_of_steps (fun fuel _ _ => driveBy_of_deliversRun fuel) st n (k + 1) hruns

/-! ### What COPY, CONVERT and their gather and scatter forms go through (R170, R176, R277) -/

@[simp] theorem byteCopy_placed (o : Op) (s : State) (a b : Tensor) : byteCopy (o.placed s) a b = byteCopy o a b := by
  simp [byteCopy]

section Drives

variable {s : State} {tag : Nat} {o : Op} (ho : findOp s tag = some o) (hready : o.phase = .ready)
  (happ : s.cfg.applying = none) (hslot : o.slotFree s = true)

include ho hready happ hslot

theorem exec_plain_begins {c : Instr} (hc : (c = .copy tag ∧ o.opc = 1) ∨ (c = .convert tag ∧ o.opc = 2))
    (hform : o.fld 48 1 = 0) : exec c s = .next (plainOp tag (o.placed s) (beginOp o s)) := by
  rcases hc with ⟨rfl, hopc⟩ | ⟨rfl, hopc⟩
  case inl =>
    exact congrArg Host.Outcome.next
      (runWhen_of_ready (p := inForm [0x01] 0) ho hready (by simp [inForm, hopc, hform]) happ hslot)
  case inr =>
    exact congrArg Host.Outcome.next
      (runWhen_of_ready (p := inForm [0x02] 0) ho hready (by simp [inForm, hopc, hform]) happ hslot)

theorem exec_gather_begins (hopc : o.opc = 1 ∨ o.opc = 2) (hform : o.fld 48 1 = 1) :
    exec (.gather tag) s = .next (gatherOp tag (o.placed s) (beginOp o s)) :=
  congrArg Host.Outcome.next
    (runWhen_of_ready (p := inForm [0x01, 0x02] 1) ho hready (by simp [inForm, hopc, hform]) happ hslot)

theorem exec_scatter_begins (late : List Nat) (hopc : o.opc = 1 ∨ o.opc = 2) (hform : o.fld 48 1 = 2) :
    exec (.scatter tag late) s = .next (scatterOp tag late (o.placed s) (beginOp o s)) :=
  congrArg Host.Outcome.next
    (runWhen_of_ready (p := inForm [0x01, 0x02] 2) ho hready (by simp [inForm, hopc, hform]) happ hslot)

end Drives

/-- A byte copy moves containers or blocks; any other plain form loads and converts values. -/
theorem plainOp_of_byteCopy {o : Op} (h : byteCopy o (o.tensor 1) (o.tensor 2) = true) (tag : Nat) (s : State) :
    plainOp tag o s = driveBy tag (o.tensor 2).count (deliverLen (o.tensor 2)) (actCopy tag (o.tensor 1) (o.tensor 2))
      ((o.tensor 2).count + 1) s := by
  simp [plainOp, h]

theorem plainOp_of_values {o : Op} (h : byteCopy o (o.tensor 1) (o.tensor 2) = false) (tag : Nat) (s : State) :
    plainOp tag o s = drive tag (o.tensor 2) o.arith (fun s x l =>
      (loadElem s (whoOf x) (o.tensor 1) ((o.tensor 1).coords l)).map (fun e => (e.1, e.2, noK))) s := by
  simp [plainOp, h]

/-- One destination element of a gather byte copy of a plain format: the container of source element idx[l] (R277). -/
def gatherContainer (tag : Nat) (a b : Tensor) (o : Op) (l _n : Nat) (s : State) : Except (Stop × Bool) State :=
  match indexIn? s o l a.count with
  | .error e => .error (e, false)
  | .ok i => copyPlain tag a b o i l s

theorem gatherOp_of_containers {o : Op} (h : byteCopy o (o.tensor 1) (o.tensor 2) = true)
    (hplain : isT (o.tensor 2).format = false) (tag : Nat) (s : State) :
    gatherOp tag o s = driveBy tag (o.tensor 2).count (fun _ => 1) (gatherContainer tag (o.tensor 1) (o.tensor 2))
      ((o.tensor 2).count + 1) s := by
  simp only [gatherOp, h, hplain, if_true, Bool.false_eq_true, if_false]
  rfl

theorem gatherOp_of_blocks {o : Op} (h : byteCopy o (o.tensor 1) (o.tensor 2) = true)
    (hblocks : isT (o.tensor 2).format = true) (tag : Nat) (s : State) :
    gatherOp tag o s = driveBy tag (o.tensor 2).count (deliverLen (o.tensor 2)) (gatherBlock tag)
      ((o.tensor 2).count + 1) s := by
  simp [gatherOp, h, hblocks]

theorem gatherOp_of_values {o : Op} (h : byteCopy o (o.tensor 1) (o.tensor 2) = false) (tag : Nat) (s : State) :
    gatherOp tag o s = drive tag (o.tensor 2) o.arith gatherVal s := by
  simp [gatherOp, h]

/-- Settles O33: each command drives its runs from the cursor on, and the loop is behind those that are delivered. -/
theorem elementOpsRunToTheEnd : Obligations.ElementOpsRunToTheEnd := by
  intro c s tag n total o x a b len act st ho hready happ hslot ha hn hc hst hsteps hx
  subst ha
  suffices hexec : exec c s = .next (driveBy tag total len act (total + 1) (beginOp o s)) by
    obtain ⟨fuel, hfuel⟩ := driveBy_of_deliversRuns hn hsteps
    rw [hexec, ← hst, hfuel]
    exact ⟨fun hlast => congrArg _ (driveBy_of_behind fuel hx hlast),
      fun e w hleft hact => congrArg _ (driveBy_of_stop fuel hx hleft hact)⟩
  rcases hc with ⟨hplain, hform, rfl, rfl, rfl, hcopy⟩ | ⟨rfl, hopc, hform, rfl, rfl, hgather⟩ |
    ⟨late, rfl, hopc, hform, rfl, rfl, rfl, rfl⟩ | ⟨rfl, hopc, rfl, rfl, rfl, rfl⟩ | ⟨rfl, hopc, rfl, rfl, rfl, rfl⟩ |
    ⟨order, rfl, hopc, rfl, rfl, rfl, rfl⟩ | ⟨orders, rfl, hopc, rfl, rfl, rfl, rfl⟩
  · rw [exec_plain_begins ho hready happ hslot hplain hform]
    rcases hcopy with ⟨hbytes, rfl⟩ | ⟨hvalues, rfl⟩
    · rw [plainOp_of_byteCopy (by simpa using hbytes), placed_tensor, placed_tensor]
    · rw [plainOp_of_values (by simpa using hvalues), placed_tensor, placed_tensor, placed_arith]
      rfl
  · rw [exec_gather_begins ho hready happ hslot hopc hform]
    rcases hgather with ⟨hbytes, hformat, rfl, rfl⟩ | ⟨hbytes, hformat, rfl, rfl⟩ | ⟨hvalues, rfl, rfl⟩
    · rw [gatherOp_of_containers (by simpa using hbytes) (by simpa using hformat), placed_tensor, placed_tensor]
      rfl
    · rw [gatherOp_of_blocks (by simpa using hbytes) (by simpa using hformat), placed_tensor]
    · rw [gatherOp_of_values (by simpa using hvalues), placed_tensor, placed_arith]
      rfl
  · rw [exec_scatter_begins ho hready happ hslot late hopc hform, scatterOp, placed_tensor, placed_tensor]
  · exact exec_fill_drives ho hready happ hslot hopc
  · exact exec_elemwise_drives ho hready happ hslot hopc
  · exact exec_reduce_drives ho hready happ hslot order hopc
  · exact exec_scan_drives ho hready happ hslot orders hopc

end Sys2Proof.Machine
end

section
/-! The fetch of descriptors (R185, R186, R268, R271): which claim an arbiter grants, what its other levels wait, and a ring that is
read, backed on the way, with every queue left as it is. -/

namespace Sys2Proof.Machine

/-! ### The arbiter's level and its queue (R185, R268) -/

theorem mem_insertNat {x y : Nat} {l : List Nat} : y ∈ insertNat x l ↔ y = x ∨ y ∈ l := by
  induction l with
  | nil => simp [insertNat]
  | cons z zs ih =>
    rw [insertNat]
    split
    next => simp
    next =>
      split
      next hx => simp [hx]
      next => rw [List.mem_cons, ih, List.mem_cons, or_left_comm]

theorem mem_sortNat {y : Nat} {l : List Nat} : y ∈ sortNat l ↔ y ∈ l := by
  have hfold (l acc : List Nat) : y ∈ l.foldl (fun acc x => insertNat x acc) acc ↔ y ∈ l ∨ y ∈ acc := by
    induction l generalizing acc with
    | nil => simp
    | cons x xs ih => rw [List.foldl_cons, ih, mem_insertNat, List.mem_cons, or_left_comm, or_assoc]
  simp [sortNat, hfold]

theorem nextAfter_mem {l : List Nat} (h : l ≠ []) (last : Nat) : nextAfter l last ∈ l := by
  unfold nextAfter
  cases hfind : l.find? (fun x => decide (last < x)) with
  | some x => exact List.mem_of_find?_eq_some hfind
  | none =>
    obtain ⟨y, ys, rfl⟩ := List.exists_cons_of_ne_nil h
    simp

/-- The numbers of an arbiter's tables stand one above those they name; the next of them names one of the list. -/
theorem exists_nextAfter_succ {α : Type} {l : List α} (h : l ≠ []) (f : α → Nat) (last : Nat) :
    ∃ x ∈ l, nextAfter (l.map (fun x => f x + 1)) last - 1 = f x := by
  obtain ⟨x, hx, heq⟩ := List.mem_map.1 (nextAfter_mem (l := l.map (fun x => f x + 1)) (by simpa using h) last)
  exact ⟨x, hx, by omega⟩

/-- Going down from a bound, the first number that passes a test is the highest. -/
theorem le_of_find?_reverse_range {p : Nat → Bool} {n k j : Nat} (h : (List.range n).reverse.find? p = some k) (hj : j < n)
    (hp : p j = true) : j ≤ k := by
  induction n with
  | zero => omega
  | succ n ih =>
    rw [List.range_succ, List.reverse_concat, List.find?_cons] at h
    cases hn : p n with
    | true =>
      obtain rfl : n = k := by simpa [hn] using h
      omega
    | false =>
      have hne : j ≠ n := fun heq => by simp [heq, hn] at hp
      exact ih (by simpa [hn] using h) (by omega)

/-- The level that is granted claims, and every higher level that claims has let it wait for 63 grants. -/
theorem arbLevel_spec {cs : List Claim} {a : Arbiter} {l : Nat} (h : arbLevel cs a = some l) :
    (∃ c ∈ cs, c.prio = l) ∧ ∀ c ∈ cs, l < c.prio → c.prio < 8 → 63 ≤ tget (dflt 0) a.waited l := by
  simp only [arbLevel] at h
  split at h
  next => exact absurd h nofun
  next p htop =>
    split at h
    next q hlower =>
      obtain rfl : q = l := by simpa using h
      have hq := List.find?_some hlower
      simp only [Bool.and_eq_true, List.any_eq_true, decide_eq_true_eq] at hq
      exact ⟨hq.1, fun _ _ _ _ => hq.2⟩
    next =>
      obtain rfl : p = l := by simpa using h
      have hp := List.find?_some htop
      simp only [List.any_eq_true, decide_eq_true_eq] at hp
      have hhighest {c : Claim} (hc : c ∈ cs) (hlevel : c.prio < 8) : c.prio ≤ p :=
        le_of_find?_reverse_range htop hlevel (List.any_eq_true.2 ⟨c, hc, by simp⟩)
      exact ⟨hp, fun c hc hlt hlevel => absurd (hhighest hc hlevel) (Nat.not_le.2 hlt)⟩

section Rewrite
variable {α : Type} [DecidableEq α] {d : Nat → α} (f : Nat → α → α)

/-- Entries of a table rewritten one after another: those of the keys change once, and no other. -/
theorem tget_foldl_tset_of_notMem {ks : List Nat} {j : Nat} (t : Table α) (h : j ∉ ks) :
    tget d (ks.foldl (fun t k => tset d t k (f k (tget d t k))) t) j = tget d t j := by
  induction ks generalizing t with
  | nil => rfl
  | cons k ks ih =>
    obtain ⟨hne, hks⟩ := not_or.1 (mt List.mem_cons.2 h)
    rw [List.foldl_cons, ih _ hks, tget_tset_ne hne]

theorem tget_foldl_tset_of_mem {ks : List Nat} {j : Nat} (t : Table α) (hks : ks.Nodup) (h : j ∈ ks) :
    tget d (ks.foldl (fun t k => tset d t k (f k (tget d t k))) t) j = f j (tget d t j) := by
  induction ks generalizing t with
  | nil => exact absurd h List.not_mem_nil
  | cons k ks ih =>
    obtain ⟨hnot, hnodup⟩ := List.nodup_cons.1 hks
    rw [List.foldl_cons]
    by_cases hjk : j = k
    · rw [hjk, tget_foldl_tset_of_notMem f _ hnot, tget_tset_same]
    · rw [ih _ hnodup ((List.mem_cons.1 h).resolve_left hjk), tget_tset_ne hjk]

end Rewrite

/-- The group that an arbiter serves at a level: the last one while it has quantum left, else the next that claims. -/
def Arbiter.nextGroup (a : Arbiter) (l : Nat) (here : List Claim) : Nat :=
  let gs := sortNat (here.map (fun c => c.group))
  let cur := tget (dflt 0) a.lastGroup l
  if decide (0 < cur) && decide (cur - 1 ∈ gs) && decide (0 < tget (dflt 0) a.deficit l) then cur - 1
  else nextAfter (gs.map (· + 1)) cur - 1

theorem exists_claim_of_nextGroup (a : Arbiter) (l : Nat) {here : List Claim} (h : here ≠ []) :
    ∃ c ∈ here, c.group = a.nextGroup l here := by
  suffices hmem : a.nextGroup l here ∈ sortNat (here.map (fun c => c.group)) from List.mem_map.1 (mem_sortNat.1 hmem)
  simp only [Arbiter.nextGroup]
  split
  next hstay =>
    simp only [Bool.and_eq_true, decide_eq_true_eq] at hstay
    exact hstay.1.2
  next =>
    obtain ⟨c, cs, rfl⟩ := List.exists_cons_of_ne_nil h
    have hne : sortNat ((c :: cs).map (fun c => c.group)) ≠ [] :=
      List.ne_nil_of_mem (mem_sortNat.2 (List.mem_cons_self ..))
    obtain ⟨g, hg, heq⟩ := exists_nextAfter_succ hne (fun g => g) (tget (dflt 0) a.lastGroup l)
    rwa [heq]

/-- What a grant at a level serves, and what it leaves of the waits. -/
theorem arbGrant_of_level {cs : List Claim} {a : Arbiter} {l : Nat} (h : arbLevel cs a = some l) :
    ∃ last a', a'.waited = (List.range 8).foldl (fun t i => tset (dflt 0) t i (if i = l then 0 else tget (dflt 0) t i + 1))
        a.waited ∧
      arbGrant cs a = some (nextAfter (((cs.filter (fun c => c.prio = l)).filter
        (fun c => c.group = a.nextGroup l (cs.filter (fun c => c.prio = l)))).map (fun c => c.id + 1)) last - 1, a') := by
  simp only [arbGrant, h]
  exact ⟨_, _, rfl, rfl⟩

theorem arbGrant_of_noLevel {cs : List Claim} {a : Arbiter} (h : arbLevel cs a = none) : arbGrant cs a = none := by
  simp only [arbGrant, h]

/-- A grant serves a claim of the level that is due, and every other level waits for one grant more. -/
theorem arbGrant_spec {cs : List Claim} {a a' : Arbiter} {id : Nat} (h : arbGrant cs a = some (id, a')) :
    ∃ c ∈ cs, c.id = id ∧ arbLevel cs a = some c.prio ∧
      ∀ i < 8, i ≠ c.prio → tget (dflt 0) a'.waited i = tget (dflt 0) a.waited i + 1 := by
  cases hlevel : arbLevel cs a with
  | none => exact absurd ((arbGrant_of_noLevel hlevel).symm.trans h) nofun
  | some l =>
    obtain ⟨last, _, hwaited, hgrant⟩ := arbGrant_of_level hlevel
    obtain ⟨hid, rfl⟩ := Prod.mk.inj (Option.some.inj (hgrant.symm.trans h))
    obtain ⟨⟨c0, hc0, hc0level⟩, -⟩ := arbLevel_spec hlevel
    obtain ⟨c1, hc1, hc1group⟩ := exists_claim_of_nextGroup a l (here := cs.filter (fun c => c.prio = l))
      (List.ne_nil_of_mem (a := c0) (by simp [hc0, hc0level]))
    obtain ⟨c, hc, hcid⟩ := exists_nextAfter_succ (l := (cs.filter (fun c => c.prio = l)).filter
      (fun c => c.group = a.nextGroup l (cs.filter (fun c => c.prio = l))))
      (List.ne_nil_of_mem (a := c1) (List.mem_filter.2 ⟨hc1, by simpa using hc1group⟩)) (fun c => c.id) last
    obtain ⟨hclaims, hprio⟩ := List.mem_filter.1 (List.mem_filter.1 hc).1
    obtain rfl : c.prio = l := by simpa using hprio
    refine ⟨c, hclaims, hcid.symm.trans hid, rfl, fun i hi hne => ?_⟩
    rw [hwaited, tget_foldl_tset_of_mem (fun i n => if i = c.prio then 0 else n + 1) _ List.nodup_range (List.mem_range.2 hi),
      if_neg hne]

/-- What a queue that can fetch claims: a grant at its priority, within its group. -/
def fetchClaim (s : State) (q : Nat) : Claim :=
  { prio := (getQueue s q).entry.priority, group := groupOf q, weight := bindWeight (getGroup s (groupOf q)).active.bind, id := q }

/-- The claims of the fetch arbiter are those of the queues that can fetch. -/
theorem mem_fetchClaims {s : State} {c : Claim} :
    c ∈ fetchClaims s ↔ ∃ q ∈ s.queues.map (·.1), fetchable s q = true ∧ c = fetchClaim s q := by
  simp only [fetchClaims, fetchClaim, List.mem_map, List.mem_filter, and_assoc, eq_comm]

theorem fetchable_of_grant {s : State} {q : Nat} {a : Arbiter} (h : grant s = some (q, a)) : fetchable s q = true := by
  obtain ⟨c, hc, rfl, -⟩ := arbGrant_spec h
  obtain ⟨q, -, hq, rfl⟩ := mem_fetchClaims.1 hc
  exact hq

theorem waitAddr_of_fetchable {s : State} {q : Nat} (h : fetchable s q = true) : (getQueue s q).waitAddr = none := by
  simp only [fetchable, Bool.and_eq_true, Option.isNone_iff_eq_none] at h
  obtain ⟨⟨⟨⟨⟨⟨⟨-, hwait⟩, -⟩, -⟩, -⟩, -⟩, -⟩, -⟩ := h
  exact hwait

/-! ### A read of a ring (R268, R271) -/

theorem foldl_queues {β : Type} {f : State → β → State} (hf : ∀ s b, (f s b).queues = s.queues) (l : List β) (s : State) :
    (l.foldl f s).queues = s.queues := by
  induction l generalizing s with
  | nil => rfl
  | cons b l ih => rw [List.foldl_cons, ih, hf]

@[simp] theorem zeroRuns_queues (rs : List PRange) (s : State) : (zeroRuns rs s).queues = s.queues :=
  foldl_queues (fun _ _ => zeroPhys_queues _ _ _) rs s

@[simp] theorem putRuns_queues (asid lo hi : Nat) (rs : List PRange) (s : State) :
    (putRuns asid lo hi rs s).queues = s.queues := rfl

theorem backOne_queues {bs : List Backing} {p : PRange} {s t : State} (h : backOne bs p s = some t) :
    t.queues = s.queues := by
  simp only [backOne] at h
  split at h
  next =>
    obtain rfl := Option.some.inj h
    simp
  next =>
    split at h
    next => exact absurd h nofun
    next =>
      obtain ⟨_, _, rfl⟩ := Option.map_eq_some_iff.1 h
      simp

theorem foldl_bind_queues {β : Type} {f : State → β → Option State} (hf : ∀ s b t, f s b = some t → t.queues = s.queues)
    (l : List β) {r : Option State} {t : State} (h : l.foldl (fun acc b => acc.bind (fun s => f s b)) r = some t) :
    ∃ s, r = some s ∧ t.queues = s.queues := by
  induction l generalizing r with
  | nil => exact ⟨t, h, rfl⟩
  | cons b l ih =>
    obtain ⟨s1, hs1, ht⟩ := ih h
    obtain ⟨s, hs, hb⟩ := Option.bind_eq_some_iff.1 hs1
    exact ⟨s, hs, ht.trans (hf s b s1 hb)⟩

theorem backRegion_queues {asid va : Nat} {one : Bool} {s t : State} (h : backRegion asid va one s = some t) :
    t.queues = s.queues := by
  simp only [backRegion] at h
  split at h
  next p hp =>
    split at h
    next =>
      split at h
      next =>
        obtain ⟨_, _, rfl⟩ := Option.map_eq_some_iff.1 h
        simp
      next => exact absurd h nofun
    next =>
      obtain ⟨s0, hs0, ht⟩ := foldl_bind_queues (fun s r t => backOne_queues) _ h
      obtain rfl := Option.some.inj hs0
      exact ht
  next => exact absurd h nofun

@[simp] theorem endMigration_queues (m : Migration) (s : State) : (endMigration m s).queues = s.queues := rfl

@[simp] theorem cancelMigration_queues (m : Migration) (s : State) : (cancelMigration m s).queues = s.queues :=
  (endMigration_queues m _).trans (foldl_queues (fun s x => endMigration_queues x s) _ s)

@[simp] theorem unreadLines_queues (m : Migration) (s : State) : (unreadLines m s).queues = s.queues := by
  rw [unreadLines, foldl_queues]
  exact fun _ _ => rfl

@[simp] theorem installMigration_queues (m : Migration) (s : State) : (installMigration m s).queues = s.queues :=
  unreadLines_queues m _

theorem finishMigration_queues (m : Migration) (s : State) : (finishMigration m s).queues = s.queues := by
  simp only [finishMigration]
  split
  next => exact cancelMigration_queues _ s
  next => exact (installMigration_queues m _).trans (foldl_queues (fun s x => installMigration_queues x s) _ s)

theorem resolveTouch_queues {w : Who} {e : Stop} {s t : State} (h : resolveTouch w e s = .ok t) : t.queues = s.queues := by
  unfold resolveTouch at h
  split at h
  next =>
    split at h
    next m _ =>
      obtain rfl := Except.ok.inj h
      exact finishMigration_queues m s
    next => exact absurd h nofun
  next =>
    split at h
    next hback =>
      obtain rfl := Except.ok.inj h
      exact backRegion_queues hback
    next => exact absurd h nofun
  next => exact absurd h nofun

theorem readRM_queues (w : Who) (addr n fuel : Nat) (s : State) : (readRM w addr n fuel s).2.queues = s.queues := by
  induction fuel generalizing s with
  | zero => rfl
  | succ fuel ih =>
    rw [readRM]
    split
    next => rfl
    next =>
      split
      next hres => exact (ih _).trans (resolveTouch_queues hres)
      next => rfl

theorem readDesc_queues (q : Nat) (s : State) : (readDesc q s).2.queues = s.queues := by
  have hread {w : Who} {addr : Nat} {s : State} {r : Except Stop (List Byte)} {t : State}
      (h : readRM w addr 64 3 s = (r, t)) : t.queues = s.queues := by
    rw [← readRM_queues w addr 64 3 s, h]
  simp only [readDesc]
  split
  next hfirst => exact hread hfirst
  next hfirst =>
    split
    next =>
      split
      next hsecond => exact (hread hsecond).trans (hread hfirst)
      next hsecond => exact (hread hsecond).trans (hread hfirst)
    next => exact hread hfirst

/-! ### FETCH_DESCRIPTOR (R268, R271) -/

theorem exec_fetchDescriptor_of_grant {s : State} {q : Nat} {a : Arbiter} (h : grant s = some (q, a)) :
    exec .fetchDescriptor s = .next (fetchFrom q { s with arb := a }) := by
  have hfetch : fetchOp s = fetchFrom q { s with arb := a } := by simp only [fetchOp, h]
  exact congrArg Host.Outcome.next hfetch

theorem exec_fetchDescriptor_of_noGrant {s : State} (h : grant s = none) : exec .fetchDescriptor s = .next s := by
  have hfetch : fetchOp s = s := by simp only [fetchOp, h]
  exact congrArg Host.Outcome.next hfetch

/-- A queue that waits for no ring stops without giving up its completion ring (R271, R283). -/
theorem stopQueue_of_notWaiting {q st addr : Nat} {s : State} (h : (getQueue s q).waitAddr = none) :
    stopQueue q st addr s = record 0x0602 0x03 (leBytes 4 q ++ leBytes 1 st ++ leBytes 3 0 ++ leBytes 8 addr)
      (setQueue s q { getQueue s q with stopped := true, waitAddr := none }) := by
  simp only [stopQueue, ringWrite, h, Bool.or_false]

/-- Settles O29: the arbiter's grant is a claim of the level that is due; the fetch by what the read of the ring gives, which
leaves every queue as it is. -/
theorem grantsAndFetches : Obligations.GrantsAndFetches := by
  refine ⟨?granted, ?fetched, fun s => exec_fetchDescriptor_of_noGrant, ?failed⟩
  case granted =>
    rintro s q _ a hgrant rfl
    obtain ⟨c, hc, hid, hlevel, hwaited⟩ := arbGrant_spec hgrant
    obtain ⟨q, -, hfetch, rfl⟩ := mem_fetchClaims.1 hc
    subst hid
    exact ⟨hfetch, fun p hp hlt h8 hlisted => (arbLevel_spec hlevel).2 _ (mem_fetchClaims.2 ⟨p, hlisted, hp, rfl⟩) hlt h8,
      hwaited⟩
  case fetched =>
    rintro s s1 q _ a _ desc hgrant hread rfl rfl
    rw [exec_fetchDescriptor_of_grant hgrant, fetchFrom, hread]
    rfl
  case failed =>
    rintro s s1 q st addr a _ hgrant hread rfl
    have hqueues : (recordFault (ringWho { s with arb := a } q) addr s1).queues = s.queues := by
      rw [recordFault, record_queues, ← readDesc_queues q { s with arb := a }, hread]
    have hnotWaiting : (getQueue (recordFault (ringWho { s with arb := a } q) addr s1) q).waitAddr = none := by
      rw [getQueue, hqueues]
      exact waitAddr_of_fetchable (fetchable_of_grant hgrant)
    rw [exec_fetchDescriptor_of_grant hgrant, fetchFrom, hread, ← stopQueue_of_notWaiting hnotWaiting]
    rfl

end Sys2Proof.Machine
end

section
/-! Upkeep of a memory stack (R196, R215 to R218, R227): refresh, temperature readings, rows left open, and the retraining of a
pseudo-channel. -/

namespace Sys2Proof.Machine

theorem exec_refresh_of_notUrgent {s : State} {k pc bank : Nat} (htrained : (getStack s k).trained = true)
    (hurgent : bankUrgent s k pc bank = false) : exec (.refresh k pc bank) s = .next (setStack s k { getStack s k with
      banks := tset (dflt {}) (getStack s k).banks (bankKey pc bank)
        { tget (dflt {}) (getStack s k).banks (bankKey pc bank) with openRow := none, postponed := 0 } }) := by
  have hop : exec (.refresh k pc bank) s = .next (refreshOp k pc bank s) := rfl
  simp [hop, refreshOp, htrained, hurgent]

/-- A reading of a stack in training sets the refresh rate and the derating by one rule (R196, R216). -/
theorem exec_tempRead_of_trained {s : State} {k : Nat} (t : Int) (htrained : (getStack s k).trained = true)
    (hsame : (getStack s k).derated = (getStack s k).doubleRef) :
    ∃ temps, exec (.tempRead k t) s = .next { setStack s k { getStack s k with
      tempC := t
      doubleRef := if 85 < t then true else if t ≤ 80 then false else (getStack s k).doubleRef
      derated := if 85 < t then true else if t ≤ 80 then false else (getStack s k).doubleRef } with
      pwr := { s.pwr with temps := temps } } := by
  have hop : exec (.tempRead k t) s = .next (tempReadOp k t s) := rfl
  have htrains : ¬(!(getStack s k).trained) = true := by simp [htrained]
  rw [hop]
  simp only [tempReadOp, if_neg htrains, hsame]
  exact ⟨_, rfl⟩

theorem exec_rowIdleClose_of_noRequests {s : State} {k pc bank row : Nat} {b : Bank}
    (hb : tget (dflt {}) (getStack s k).banks (bankKey pc bank) = b) (hopen : b.openRow = some row)
    (hreqs : (getStack s k).reqs = []) :
    exec (.rowIdleClose k pc bank) s = .next (setStack (passTo (b.lastUse + 200) s) k { getStack s k with
      banks := tset (dflt {}) (getStack s k).banks (bankKey pc bank) { b with openRow := none } }) := by
  have hop : exec (.rowIdleClose k pc bank) s = .next (rowIdleCloseOp k pc bank s) := rfl
  simp [hop, rowIdleCloseOp, hb, hopen, hreqs]

theorem exec_retrain_of_present {s : State} {k : Nat} (pc : Nat) (good : Bool) (hpresent : (getStack s k).present = true) :
    exec (.retrain k pc good) s = .next (
      if good then setStack s k { getStack s k with
        retrains := ((getStack s k).retrains + 1) % 2 ^ 32
        retrainFailed := (getStack s k).retrainFailed.filter (· ≠ pc) }
      else if pc ∈ (getStack s k).retrainFailed then loseStack k pc 0 (setStack s k { getStack s k with
        retrains := ((getStack s k).retrains + 1) % 2 ^ 32 })
      else setStack s k { getStack s k with
        retrains := ((getStack s k).retrains + 1) % 2 ^ 32
        retrainFailed := insertNat pc (getStack s k).retrainFailed }) := by
  have hop : exec (.retrain k pc good) s = .next (retrainOp k pc good s) := rfl
  have hpresents : ¬(!(getStack s k).present) = true := by simp [hpresent]
  rw [hop]
  simp only [retrainOp, if_neg hpresents, wrapAdd]

/-- Settles O20: each command by the branch of its rule that applies. -/
theorem stackUpkeepAndRetraining : Obligations.StackUpkeepAndRetraining := by
  refine ⟨⟨fun s k pc bank => exec_refresh_of_notUrgent, ?reading, ?idleRow⟩, ?trained, ?failedOnce, ?failedTwice⟩
  case reading =>
    rintro s k t _ htrained rfl hsame
    exact exec_tempRead_of_trained t htrained hsame
  case idleRow =>
    rintro s k pc bank row b hb hopen hreqs
    exact exec_rowIdleClose_of_noRequests hb.symm hopen hreqs
  case trained =>
    intro s k pc hpresent
    rw [exec_retrain_of_present pc true hpresent, if_pos rfl]
  case failedOnce =>
    intro s k pc hpresent hfirst
    rw [exec_retrain_of_present pc false hpresent, if_neg Bool.false_ne_true, if_neg hfirst]
  case failedTwice =>
    intro s k pc hpresent hsecond
    rw [exec_retrain_of_present pc false hpresent, if_neg Bool.false_ne_true, if_pos hsecond]

end Sys2Proof.Machine
end

section
/-! The resolution of a fault (R203, R236, R245, R246): the ways in which a suspended operation goes on, waits on, or ends. -/

namespace Sys2Proof.Machine

/-! ### What a migration that ends leaves of the operations (R203) -/

/-- The operations of a state are those of another, each with the tag and the queue that it had. -/
def SameOps (s t : State) : Prop :=
  ∃ f : Op → Op, (∀ o, (f o).tag = o.tag ∧ (f o).queue = o.queue) ∧ t.ops = s.ops.map f

namespace SameOps

variable {s t u : State}

theorem of_ops (h : t.ops = s.ops) : SameOps s t := ⟨id, fun _ => ⟨rfl, rfl⟩, by simp [h]⟩

theorem trans (hst : SameOps s t) (htu : SameOps t u) : SameOps s u := by
  obtain ⟨f, hf, hft⟩ := hst
  obtain ⟨g, hg, hgu⟩ := htu
  exact ⟨g ∘ f, fun o => ⟨(hg _).1.trans (hf o).1, (hg _).2.trans (hf o).2⟩, by rw [hgu, hft, List.map_map]⟩

theorem foldl {β : Type} {f : State → β → State} (hf : ∀ s b, SameOps s (f s b)) (l : List β) (s : State) :
    SameOps s (l.foldl f s) := by
  induction l generalizing s with
  | nil => exact of_ops rfl
  | cons b l ih => exact (hf s b).trans (ih _)

theorem found (h : SameOps s t) {tag : Nat} {o : Op} (ho : findOp s tag = some o) :
    ∃ x, findOp t tag = some x ∧ x.queue = o.queue := by
  obtain ⟨f, hf, hops⟩ := h
  refine ⟨f o, ?_, (hf o).2⟩
  have htag : ((fun y : Op => decide (y.tag = tag)) ∘ f) = fun y => decide (y.tag = tag) := by
    funext y
    simp [(hf y).1]
  rw [findOp, hops, List.find?_map, htag]
  exact congrArg (Option.map f) ho

end SameOps

theorem sameOps_wakeOps (p : Op → Bool) (s : State) : SameOps s (wakeOps p s) := by
  refine ⟨fun o => if o.phase = .suspended && p o then wake o else o, fun o => ?_, rfl⟩
  dsimp only
  split <;> exact ⟨rfl, rfl⟩

theorem sameOps_endMigration (m : Migration) (s : State) : SameOps s (endMigration m s) := sameOps_wakeOps _ _

theorem sameOps_cancelMigration (m : Migration) (s : State) : SameOps s (cancelMigration m s) :=
  (SameOps.foldl (fun s x => sameOps_endMigration x s) _ s).trans (sameOps_endMigration m _)

theorem sameOps_installMigration (m : Migration) (s : State) : SameOps s (installMigration m s) :=
  SameOps.foldl (f := fun s _ => { (takeFree 512 s).2 with dmem := _ }) (fun _ _ => .of_ops rfl) _ _

theorem sameOps_finishMigration (m : Migration) (s : State) : SameOps s (finishMigration m s) := by
  simp only [finishMigration]
  split
  next => exact sameOps_cancelMigration _ s
  next => exact (SameOps.foldl (fun s x => sameOps_installMigration x s) _ s).trans (sameOps_installMigration m _)

/-! ### FAULT_RESOLVED -/

theorem exec_faultResolved (tag : Nat) (s : State) : exec (.faultResolved tag) s = .next (faultResolvedOp tag s) := rfl

/-- An operation goes on: it is woken, its slots are free, and its queue moves on (R246). -/
theorem resumeOpAfter_of_found {s : State} {tag : Nat} {x : Op} (h : findOp s tag = some x) :
    resumeOpAfter tag s =
      advanceQueue x.queue (freeSlots (fun t => t = tag) (updOp tag (fun x => { wake x with since := s.time }) s)) := by
  simp [resumeOpAfter, h]

/-- A stop that does not resolve ends an operation that is no matrix work and has no status yet at its cursor (R245, R248). -/
theorem stopOp_fault_of_noStatus {s : State} {tag : Nat} {o : Op} (st a : Nat) (write : Bool) (ho : findOp s tag = some o)
    (hmatmul : o.opc ≠ 0x10) (hconv : o.opc ≠ 0x12) (hstatus : o.result.status = 0) :
    stopOp tag (.fault st a) write s =
      endOp tag (stopWith st o.cursor a) (dropHeld tag (recordStop (whoOf o) (.fault st a) s)) ∧
    findOp (stopOp tag (.fault st a) write s) tag = some (o.ended (stopWith st o.cursor a)) := by
  have hrec : findOp (recordStop (whoOf o) (.fault st a) s) tag = some o := by simpa [findOp, recordStop, recordFault] using ho
  have hend := findOp_endOp_of (r := stopWith st o.cursor a)
    (show findOp (dropHeld tag (recordStop (whoOf o) (.fault st a) s)) tag = some o from hrec)
  have hopc : (o.ended (stopWith st o.cursor a)).opc = o.opc := rfl
  have hstop : stopOp tag (.fault st a) write s =
      endOp tag (stopWith st o.cursor a) (dropHeld tag (recordStop (whoOf o) (.fault st a) s)) := by
    simp [stopOp, ho, endIssued, hrec, hstatus, hend, hopc, hmatmul, hconv]
  exact ⟨hstop, hstop ▸ hend⟩

theorem resolvesNext_of_higher {s : State} {o x : Op} (ho : o ∈ s.ops) (hphase : o.phase = .suspended) (hwait : o.wait = x.wait)
    (hprio : x.prio < o.prio) : resolvesNext x s = false := by
  simpa [resolvesNext] using ⟨o, ho, ⟨hphase, hwait⟩, hprio⟩

section FaultResolved

variable {s : State} {tag : Nat} {o : Op} (ho : findOp s tag = some o) (hsusp : o.phase = .suspended)

include ho hsusp

theorem exec_faultResolved_backed {s1 : State} (hnext : resolvesNext o s = true)
    (htr : translate s (whoOf o) o.waitWrite o.faultAddr = .wait .backing)
    (hback : backRegion o.asid o.faultAddr (o.unit = 1) s = some s1) :
    exec (.faultResolved tag) s = .next (resumeOpAfter tag s1) := by
  simp [exec_faultResolved, faultResolvedOp, ho, hsusp, htr, hnext, hback]

theorem exec_faultResolved_noMemory (hnext : resolvesNext o s = true)
    (htr : translate s (whoOf o) o.waitWrite o.faultAddr = .wait .backing)
    (hback : backRegion o.asid o.faultAddr (o.unit = 1) s = none) :
    exec (.faultResolved tag) s = .next (stopOp tag (.fault 0x12 o.faultAddr) o.waitWrite s) := by
  simp [exec_faultResolved, faultResolvedOp, ho, hsusp, htr, hnext, hback]

theorem exec_faultResolved_preceded (hlater : resolvesNext o s = false)
    (htr : translate s (whoOf o) o.waitWrite o.faultAddr = .wait .backing) : exec (.faultResolved tag) s = .next s := by
  simp [exec_faultResolved, faultResolvedOp, ho, hsusp, htr, hlater]

theorem exec_faultResolved_migration {m : Migration} (hnext : resolvesNext o s = true)
    (htr : translate s (whoOf o) o.waitWrite o.faultAddr = .wait .migration) (hm : migrationAt s o.asid o.faultAddr = some m) :
    exec (.faultResolved tag) s = .next (resumeOpAfter tag (finishMigration m s)) := by
  simp [exec_faultResolved, faultResolvedOp, ho, hsusp, htr, hnext, hm]

theorem exec_faultResolved_phys {p : Nat} (htr : translate s (whoOf o) o.waitWrite o.faultAddr = .phys p) :
    exec (.faultResolved tag) s = .next (resumeOpAfter tag s) := by
  simp [exec_faultResolved, faultResolvedOp, ho, hsusp, htr]

theorem exec_faultResolved_link (htr : translate s (whoOf o) o.waitWrite o.faultAddr = .wait .link) :
    exec (.faultResolved tag) s = .next s := by
  simp [exec_faultResolved, faultResolvedOp, ho, hsusp, htr]

end FaultResolved

/-- Settles O32: by what the access meets now; an operation that one of higher priority precedes waits on. -/
theorem faultsResolve : Obligations.FaultsResolve := by
  intro s tag o ho hsusp hnext
  refine ⟨?backed, ?noMemory, ?migrated, ?reached, fun htr => exec_faultResolved_link ho hsusp htr, ?preceded⟩
  case backed =>
    intro s1 htr hback hops
    have ho1 : findOp s1 tag = some o := by rwa [findOp, hops]
    rw [exec_faultResolved_backed ho hsusp hnext htr hback, resumeOpAfter_of_found ho1]
  case noMemory =>
    intro htr hback
    refine ⟨exec_faultResolved_noMemory ho hsusp hnext htr hback, fun hmatmul hconv hstatus => ?_⟩
    exact ⟨_, (stopOp_fault_of_noStatus _ _ _ ho hmatmul hconv hstatus).2, rfl, rfl⟩
  case migrated =>
    intro m htr hm
    obtain ⟨x, hx, hqueue⟩ := (sameOps_finishMigration m s).found ho
    rw [exec_faultResolved_migration ho hsusp hnext htr hm, resumeOpAfter_of_found hx, hqueue]
  case reached =>
    intro p htr
    rw [exec_faultResolved_phys ho hsusp htr, resumeOpAfter_of_found ho]
  case preceded =>
    intro x _ hxsusp hxwait hprio hwait hx htr
    have hlater : resolvesNext x s = false :=
      resolvesNext_of_higher (List.mem_of_find?_eq_some ho) hsusp (hwait.trans hxwait.symm) hprio
    exact exec_faultResolved_preceded hx hxsusp hlater htr

end Sys2Proof.Machine
end

section
/-! The leaves of a range: what a change of the page tables in a range leaves of the runs that meet it (R234, R235). -/

namespace Sys2Proof.Machine

theorem mem_insertPage {p q : PRange} {l : List PRange} : q ∈ insertPage p l ↔ q = p ∨ q ∈ l := by
  induction l with
  | nil => simp [insertPage]
  | cons x l ih =>
    rw [insertPage]
    split
    · simp
    · simp [ih, or_left_comm]

theorem mem_foldl_insertPage {q : PRange} {l : List PRange} (acc : List PRange) :
    q ∈ l.foldl (fun acc p => insertPage p acc) acc ↔ q ∈ l ∨ q ∈ acc := by
  induction l generalizing acc with
  | nil => simp
  | cons x l ih => simp [ih, mem_insertPage, or_left_comm, or_assoc]

/-- A run meets a range where it has a byte of it. -/
def PRange.meets (p : PRange) (lo hi : Nat) : Prop := lo < p.base + p.len ∧ p.base < hi

/-- The parts of a run beside a range do not meet it. -/
theorem not_meets_of_mem_cut {p q : PRange} {lo hi : Nat} (h : q ∈ (p.cut lo hi).1 ∨ q ∈ (p.cut lo hi).2.2) :
    ¬ q.meets lo hi := by
  simp only [PRange.cut] at h
  split at h
  next hout =>
    obtain rfl : q = p := by simpa using h
    simp only [PRange.meets]
    omega
  next =>
    rcases h with h | h
    · obtain ⟨hlow, rfl⟩ : p.base < max lo p.base ∧ q = p.slice p.base (max lo p.base) := by simpa using h
      simp only [PRange.meets, PRange.slice]
      omega
    · obtain ⟨hhigh, rfl⟩ : min hi (p.base + p.len) < p.base + p.len ∧
          q = p.slice (min hi (p.base + p.len)) (p.base + p.len) := by simpa using h
      simp only [PRange.meets, PRange.slice]
      omega

/-- A run of an address space that meets the changed range comes from the change. -/
theorem exists_of_mem_mapRange {asid lo hi : Nat} {f : PRange → List PRange} {l : List PRange} {q : PRange}
    (hq : q ∈ mapRange asid lo hi f l) (hasid : q.asid = asid) (hmeets : q.meets lo hi) : ∃ m, q ∈ f m := by
  obtain ⟨p, -, hp⟩ := List.mem_flatMap.1 (by simpa only [mapRange, mem_foldl_insertPage, List.not_mem_nil, or_false] using hq)
  have hbeside (h : q ∈ (p.cut lo hi).1 ∨ q ∈ (p.cut lo hi).2.2) : False := not_meets_of_mem_cut h hmeets
  split at hp
  next =>
    split at hp
    next a m c hcut =>
      rcases List.mem_append.1 hp with hp | hc
      · rcases List.mem_append.1 hp with ha | hm
        · exact (hbeside (.inl (by rwa [hcut]))).elim
        · exact ⟨m, hm⟩
      · exact (hbeside (.inr (by rwa [hcut]))).elim
    next a c hcut =>
      rcases List.mem_append.1 hp with ha | hc
      · exact (hbeside (.inl (by rwa [hcut]))).elim
      · exact (hbeside (.inr (by rwa [hcut]))).elim
  next hother =>
    obtain rfl := List.mem_singleton.1 hp
    exact absurd hasid hother

/-- The runs of a range are those of the page tables. -/
theorem runsIn_of_pages {s t : State} (h : t.pages = s.pages) (asid lo hi : Nat) : runsIn t asid lo hi = runsIn s asid lo hi := by
  rw [runsIn, runsIn, h]

theorem firstUnmapped_of_pages {s t : State} (h : t.pages = s.pages) (asid fuel lo hi : Nat) :
    firstUnmapped t asid fuel lo hi = firstUnmapped s asid fuel lo hi := by
  have hfind (va : Nat) : findPage t asid va = findPage s asid va := by rw [findPage, findPage, h]
  induction fuel generalizing lo with
  | zero => rfl
  | succ fuel ih => simp only [firstUnmapped, hfind, ih]

end Sys2Proof.Machine
end

section
/-! PLACE_HINT (R204 to R206): advice that moves nothing, pins, and hints for a queue's group. -/

namespace Sys2Proof.Machine

/-! ### How a hint begins -/

@[simp] theorem placed_asid (o : Op) (s : State) : (o.placed s).asid = o.asid := by obtain ⟨_, h⟩ := placed_frame o s; rw [h]
@[simp] theorem placed_func (o : Op) (s : State) : (o.placed s).func = o.func := by obtain ⟨_, h⟩ := placed_frame o s; rw [h]
@[simp] theorem placed_queue (o : Op) (s : State) : (o.placed s).queue = o.queue := by obtain ⟨_, h⟩ := placed_frame o s; rw [h]
@[simp] theorem placed_result (o : Op) (s : State) : (o.placed s).result = o.result := by
  obtain ⟨_, h⟩ := placed_frame o s; rw [h]
@[simp] theorem placed_hintBase (o : Op) (s : State) : (o.placed s).hintBase = o.hintBase := placed_fld o s 24 8
@[simp] theorem placed_hintLen (o : Op) (s : State) : (o.placed s).hintLen = o.hintLen := placed_fld o s 32 8

theorem runWhen_isHint_of_ready {s : State} {tag kind : Nat} {o : Op} {f : Op → State → State} (ho : findOp s tag = some o)
    (hready : o.phase = .ready) (happ : s.cfg.applying = none) (hopc : o.opc = 0x50) (hslot : o.slotFree s = true)
    (hkind : o.fld 16 1 = kind) : runWhen tag (isHint kind) f s = f (o.placed s) (beginOp o s) :=
  runWhen_of_ready ho hready (by simp [isHint, hopc, hkind]) happ hslot

/-! ### AFFINITY and KEEP_NEAR (R204, R205) -/

/-- Advice for a range without backed regions moves nothing. -/
theorem honour_of_unbacked {o : Op} {s : State}
    (h : ∀ r ∈ runsIn s o.asid o.hintBase (o.hintBase + o.hintLen), r.kind ≠ .backed ∧ r.kind ≠ .tier2) : honour o s = s := by
  have hnone : (runsIn s o.asid o.hintBase (o.hintBase + o.hintLen)).filter (fun r => r.kind = .backed || r.kind = .tier2) = [] :=
    List.filter_eq_nil_iff.2 fun r hr => by simpa using h r hr
  simp only [honour, hnone, List.foldl_nil]

/-- Such advice is recorded, and nothing else. -/
theorem honour_addHint_of_unbacked {s : State} {o : Op} (kind arg : Nat)
    (h : ∀ r ∈ runsIn s o.asid o.hintBase (o.hintBase + o.hintLen), r.kind ≠ .backed ∧ r.kind ≠ .tier2) :
    honour (o.placed s) (addHint (o.placed s) kind arg (beginOp o s)) = { beginOp o s with place := { s.place with
      hints := s.place.hints ++ [{ asid := o.asid, base := o.hintBase, len := o.hintLen, kind, arg, stackSet := o.fld 20 4
                                   window := o.fld 17 1, func := o.func }] } } := by
  have hruns : runsIn (addHint (o.placed s) kind arg (beginOp o s)) = runsIn s := rfl
  rw [honour_of_unbacked (by simpa [hruns] using h)]
  simp [addHint]

/-! ### PIN_DATA and UNPIN_DATA (R204, R206) -/

/-- The bytes of a hint's range that are not pinned yet. -/
def freshBytes (s : State) (o : Op) : Nat :=
  ((runsIn s o.asid o.hintBase (o.hintBase + o.hintLen)).filter (fun r => !r.pin)).foldl (fun n r => n + r.len) 0

section PinData

variable {s : State} {o : Op} (tag : Nat)

theorem pinDataOp_of_unmapped {a : Nat}
    (h : firstUnmapped s o.asid (s.pages.length + 1) o.hintBase (o.hintBase + o.hintLen) = some a) :
    pinDataOp tag o s = updOp tag (fun o => { o with started := false }) (stopOp tag (.fault 0x20 a) false s) := by
  simp only [pinDataOp, h]

theorem pinDataOp_of_full (hmapped : firstUnmapped s o.asid (s.pages.length + 1) o.hintBase (o.hintBase + o.hintLen) = none)
    (hfull : 7 * tierOne s < 8 * (pinnedBytes s + freshBytes s o)) : pinDataOp tag o s = refuseOp tag 0x12 s := by
  rw [freshBytes] at hfull
  simp only [pinDataOp, hmapped, if_pos hfull]

/-- A range that lies as a pin asks is pinned where it is. -/
theorem pinDataOp_of_settled (hmapped : firstUnmapped s o.asid (s.pages.length + 1) o.hintBase (o.hintBase + o.hintLen) = none)
    (hroom : 8 * (pinnedBytes s + freshBytes s o) ≤ 7 * tierOne s) (hmigrations : s.place.migrations = [])
    (hsettled : ∀ r ∈ runsIn s o.asid o.hintBase (o.hintBase + o.hintLen), pinSettled s (o.fld 20 4) (o.fld 17 1) r = true) :
    pinDataOp tag o s = endOp tag {} (addHint o 3 0 { s with
      pages := mapRange o.asid o.hintBase (o.hintBase + o.hintLen) (fun r => [{ r with pin := true }]) s.pages }) := by
  rw [freshBytes] at hroom
  have hfinish : finishRange o.asid o.hintBase (o.hintBase + o.hintLen) s = s := by simp [finishRange, hmigrations]
  have hleft : (runsIn s o.asid o.hintBase (o.hintBase + o.hintLen)).filter
      (fun r => !pinSettled s (o.fld 20 4) (o.fld 17 1) r) = [] :=
    List.filter_eq_nil_iff.2 fun r hr => by simp [hsettled r hr]
  have hwhy : pinFailure s o.asid o.hintBase (o.hintBase + o.hintLen) (o.fld 20 4) (o.fld 17 1) = none := by
    rw [pinFailure, List.find?_eq_none.2 fun r hr => by simp [hsettled r hr]]
    rfl
  simp only [pinDataOp, hmapped, if_neg (Nat.not_lt.2 hroom), hfinish, hleft, List.foldl_nil, Option.map_some, hwhy]

end PinData

/-- What is left of a hint lies outside the range that it is dropped from. -/
theorem outside_of_mem_without {g h : Hint} {asid lo hi : Nat} (hmem : g ∈ h.without asid lo hi) (hasid : g.asid = asid) :
    g.base + g.len ≤ lo ∨ hi ≤ g.base := by
  simp only [Hint.without] at hmem
  split at hmem
  next hout =>
    obtain rfl := List.mem_singleton.1 hmem
    exact hout.resolve_left fun hne => hne hasid
  next =>
    rcases List.mem_append.1 hmem with hmem | hmem
    · obtain ⟨hlow, rfl⟩ : h.base < lo ∧ g = { h with len := lo - h.base } := by simpa using hmem
      simp only
      omega
    · obtain ⟨-, rfl⟩ : hi < h.base + h.len ∧ g = { h with base := hi, len := h.base + h.len - hi } := by simpa using hmem
      exact .inr (Nat.le_refl hi)

section Begun

variable {s : State} {o : Op}

theorem firstUnmapped_beginOp : firstUnmapped (beginOp o s) (o.placed s).asid ((beginOp o s).pages.length + 1)
    (o.placed s).hintBase ((o.placed s).hintBase + (o.placed s).hintLen) =
      firstUnmapped s o.asid (s.pages.length + 1) o.hintBase (o.hintBase + o.hintLen) := by
  simp [firstUnmapped_of_pages (beginOp_pages o s)]

theorem freshBytes_beginOp : freshBytes (beginOp o s) (o.placed s) = freshBytes s o := by
  simp [freshBytes, runsIn_of_pages (beginOp_pages o s)]

theorem pinSettled_beginOp (set win : Nat) (r : PRange) : pinSettled (beginOp o s) set win r = pinSettled s set win r := rfl

theorem begun_opc_result (o : Op) (s : State) : (o.begun s).opc = o.opc ∧ (o.begun s).result = o.result :=
  ⟨placed_opc o s, placed_result o s⟩

end Begun

/-- The group of a hint's queue takes the hint, and the hint ends. -/
theorem groupHint_begun (tag : Nat) (f : Op → Group → Group) (o : Op) (s : State) :
    groupHint tag f (o.placed s) (beginOp o s) = endOp tag {} (setGroup (beginOp o s) (groupOf o.queue)
      (f (o.placed s) (getGroup s (groupOf o.queue)))) := by
  have hgroup (g : Nat) : getGroup (beginOp o s) g = getGroup s g := rfl
  simp only [groupHint, placed_queue, hgroup]

/-- Settles O39: each hint by its command's effect on the state in which it has begun. -/
theorem placementHints : Obligations.PlacementHints := by
  rintro s _ _ _ _ _ o ho rfl hready happ hopc hslot rfl rfl rfl rfl
  have hbegins {c : Instr} {kind : Nat} {f : Op → State → State}
      (hc : exec c s = .next (runWhen o.tag (isHint kind) f s)) (hkind : o.fld 16 1 = kind) :
      exec c s = .next (f (o.placed s) (beginOp o s)) :=
    hc.trans (congrArg _ (runWhen_isHint_of_ready ho hready happ hopc hslot hkind))
  refine ⟨?advice, ?pin, ?unmapped, ?unpin, ?pinTiles, ?unpinTiles, ?priority⟩
  case advice =>
    rintro c kind arg (⟨rfl, hkind, rfl, rfl⟩ | ⟨rfl, hkind, rfl, rfl⟩) hunbacked
    · rw [hbegins (c := .affinity o.tag) rfl hkind, affinityOp, honour_addHint_of_unbacked _ _ hunbacked, placed_fld]
    · rw [hbegins (c := .keepNear o.tag) rfl hkind, keepNearOp, honour_addHint_of_unbacked _ _ hunbacked, placed_fld]
  case pin =>
    rintro hkind _ hmapped rfl
    rw [← firstUnmapped_beginOp] at hmapped
    rw [hbegins (c := .pinData o.tag) rfl hkind]
    constructor
    · intro hroom hmigrations hsettled
      rw [pinDataOp_of_settled o.tag hmapped (by rw [freshBytes_beginOp]; exact hroom) hmigrations
        (by simpa [runsIn_of_pages (beginOp_pages o s), pinSettled_beginOp] using hsettled)]
      refine ⟨_, rfl, by simp [addHint], fun p hp hasid hlo hhi => ?_, by simp [addHint]⟩
      obtain ⟨m, hm⟩ := exists_of_mem_mapRange (by simpa [addHint] using hp) hasid ⟨hlo, hhi⟩
      rw [List.mem_singleton.1 hm]
    · intro hfull
      rw [pinDataOp_of_full o.tag hmapped (by rw [freshBytes_beginOp]; exact hfull)]
  case unmapped =>
    intro hkind hstatus a hmapped
    rw [← firstUnmapped_beginOp] at hmapped
    obtain ⟨hopcBegun, hresultBegun⟩ := begun_opc_result o s
    obtain ⟨hstop, hfound⟩ := stopOp_fault_of_noStatus 0x20 a false (findOp_beginOp ho) (by simp [hopcBegun, hopc])
      (by simp [hopcBegun, hopc]) (by rw [hresultBegun, hstatus])
    rw [hbegins (c := .pinData o.tag) rfl hkind, pinDataOp_of_unmapped o.tag hmapped]
    refine ⟨_, _, rfl, ?_, findOp_updOp_of hfound fun _ hx => hx, rfl, rfl, ?_⟩
    · rw [updOp_pages, hstop]
      simp [dropHeld, mapParts, recordStop, recordFault]
    · simp [Op.ended, stopWith]
  case unpin =>
    intro hkind
    rw [hbegins (c := .unpinData o.tag) rfl hkind, unpinDataOp]
    refine ⟨_, rfl, fun p hp hasid hlo hhi => ?_, fun h hh hasid => ?_, by simp [dropHints]⟩
    · obtain ⟨m, hm⟩ := exists_of_mem_mapRange (by simpa [dropHints] using hp) hasid ⟨hlo, hhi⟩
      rw [List.mem_singleton.1 hm]
    · obtain ⟨g, -, hg⟩ := List.mem_flatMap.1 (by simpa only [dropHints, endOp_place, beginOp_place, placed_asid,
        placed_hintBase, placed_hintLen] using hh)
      exact outside_of_mem_without hg hasid
  case pinTiles =>
    intro hkind
    rw [hbegins (c := .pinTiles o.tag) rfl hkind, groupHint_begun, placed_fld]
  case unpinTiles =>
    intro hkind
    rw [hbegins (c := .unpinTiles o.tag) rfl hkind, groupHint_begun]
  case priority =>
    intro hkind
    rw [hbegins (c := .priorityMode o.tag) rfl hkind, groupHint_begun, placed_fld]

end Sys2Proof.Machine
end

section
/-! Migration between the tiers (R202, R203): the control register, the end of an epoch, and the bytes of a page that moves. -/

namespace Sys2Proof.Machine

/-! ### PLC_MIG_CTRL and the end of an epoch (R202) -/

theorem exec_migCtrlWrite_of_ready {s : State} (v : W64) (hready : s.st.ready = true) :
    exec (.migCtrlWrite v) s = .next (migCtrlOp v.toNat s) := by
  have hop : exec (.migCtrlWrite v) s = .next (if s.st.ready then migCtrlOp v.toNat s else s) := rfl
  rw [hop, if_pos hready]

/-- A field that is 0 already is not changed by writing 0 to it. -/
theorem setBits_zero_of_zero {x lo n : Nat} (h : bits x lo n = 0) : setBits x lo n 0 = x := by
  rw [bits] at h
  simp [setBits, h]

theorem promote_nil (demote n : Nat) (s : State) : promote demote [] n s = s := by cases n <;> rfl

/-- What the end of an epoch does once its pages move: counts are halved, and a pending value comes into force (R202). -/
def epochEnded (u : State) : State :=
  { u with place := { u.place with
    counts := (u.place.counts.map (fun e => (e.1, e.2 / 512 * 256))).filter (fun e => e.2 ≠ 0)
    lastEpoch := u.time, migCtrl := u.place.migNext.getD u.place.migCtrl, migNext := none } }

/-- With migration off, or without a page hot enough, no page moves (R202). -/
theorem promote_of_offOrCold {v : Nat} {u : State} (h : bit v 63 = false ∨ hotPages u (bits v 8 8) = []) :
    (if migEnable v then promote (migDemote v) (hotPages u (migPromote v)) (migMax v) u else u) = u := by
  rcases h with hoff | hcold
  · rw [if_neg (by simp [migEnable, hoff])]
  · rw [migPromote, hcold, promote_nil, ite_self]

theorem exec_migrationEpoch_of_noPromotion {s u : State} (hready : s.st.ready = true)
    (hu : u = leaveBad (passTo (s.place.lastEpoch + bits s.place.migCtrl 16 16 * 1000000) s))
    (hnone : bit s.place.migCtrl 63 = false ∨ hotPages u (bits s.place.migCtrl 8 8) = []) :
    exec .migrationEpoch s = .next (epochEnded u) := by
  have hop : exec .migrationEpoch s = .next (if s.st.ready then migrationEpochOp s else s) := rfl
  rw [hop, if_pos hready]
  subst hu
  exact congrArg (fun t => Host.Outcome.next (epochEnded t)) (promote_of_offOrCold hnone)

/-! ### The bytes of a page that moves (R203) -/

theorem tfind_filter_of_key_out {α : Type} {p : Nat × α → Bool} {k : Nat} {t : Table α} (h : ∀ v, p (k, v) = false) :
    tfind k (t.filter p) = none := by
  induction t with
  | nil => rfl
  | cons e t ih =>
    obtain ⟨j, v⟩ := e
    rw [List.filter_cons]
    split
    next hp =>
      have hne : k ≠ j := fun hk => by simp [← hk, h] at hp
      rw [tfind, if_neg hne, ih]
    next => exact ih

theorem tfind_filter_of_key_in {α : Type} {p : Nat × α → Bool} {k : Nat} {t : Table α} (h : ∀ v, p (k, v) = true) :
    tfind k (t.filter p) = tfind k t := by
  induction t with
  | nil => rfl
  | cons e t ih =>
    obtain ⟨j, v⟩ := e
    rw [List.filter_cons]
    split
    next => rw [tfind, tfind, ih]
    next hp =>
      have hne : k ≠ j := fun hk => hp (by rw [← hk, h])
      rw [tfind, if_neg hne, ih]

/-- Cells written at a distance from where they stood, one after another. -/
def writeMoved (old new : Nat) (cells : Memory) (m : Memory) : Memory :=
  cells.foldl (fun m c => m.write (c.1 - old + new) c.2) m

theorem read_writeMoved {old new i : Nat} {cells m : Memory} (hsorted : tsorted cells = true) (habove : ∀ c ∈ cells, old ≤ c.1) :
    (writeMoved old new cells m).read (new + i) = (tfind (old + i) cells).getD (m.read (new + i)) := by
  induction cells generalizing m with
  | nil => rfl
  | cons c cells ih =>
    obtain ⟨k, b⟩ := c
    obtain ⟨hk, hrest⟩ := tsorted_cons.1 hsorted
    have hlow : old ≤ k := habove (k, b) List.mem_cons_self
    have hstep : writeMoved old new ((k, b) :: cells) m = writeMoved old new cells (m.write (k - old + new) b) := rfl
    rw [hstep, ih hrest fun c hc => habove c (List.mem_cons_of_mem _ hc), tfind]
    split
    next hhere =>
      rw [tfind_none_of_tabove hk (Nat.le_of_eq hhere), show k - old + new = new + i by omega]
      simp
    next hne => rw [Memory.read_write_ne (by omega)]

/-- The cells of a range. -/
def cellsIn (a n : Nat) (m : Memory) : Memory := m.filter (fun c => decide (a ≤ c.1 ∧ c.1 < a + n))

/-- The cells that lie in neither of two ranges. -/
def cellsBeside (a b n : Nat) (m : Memory) : Memory :=
  m.filter (fun c => !decide (a ≤ c.1 ∧ c.1 < a + n) && !decide (b ≤ c.1 ∧ c.1 < b + n))

theorem movePhys_dmem (old new n : Nat) (s : State) :
    (movePhys old new n s).dmem = writeMoved old new (cellsIn old n s.dmem) (cellsBeside old new n s.dmem) := rfl

/-- The bytes of a range that moves read at its new place as they did at the old. -/
theorem read_movePhys {s : State} {old new n i : Nat} (hwf : s.dmem.wf = true) (hi : i < n) :
    (movePhys old new n s).dmem.read (new + i) = s.dmem.read (old + i) := by
  have hsorted : tsorted (cellsIn old n s.dmem) = true := tsorted_filter (tcanon_iff.1 hwf).1
  have habove : ∀ c ∈ cellsIn old n s.dmem, old ≤ c.1 := fun c hc => (of_decide_eq_true (List.mem_filter.1 hc).2).1
  have hheld : tfind (old + i) (cellsIn old n s.dmem) = tfind (old + i) s.dmem := tfind_filter_of_key_in (by simp [hi])
  have hcleared : tfind (new + i) (cellsBeside old new n s.dmem) = none := tfind_filter_of_key_out (by simp [hi])
  rw [movePhys_dmem, read_writeMoved hsorted habove, hheld, Memory.read, Memory.read, tget, tget, hcleared]
  cases tfind (old + i) s.dmem <;> rfl

/-! ### MIGRATION_DONE (R203) -/

theorem cancelMigration_of_only {s : State} {m : Migration} (honly : s.place.migrations = [m]) :
    cancelMigration m s = endMigration m s := by
  simp [cancelMigration, honly]

theorem migrationDoneOp_of_only {s : State} {m : Migration} (readOk : Bool) (honly : s.place.migrations = [m])
    (hgood : badLines s m.old = []) : migrationDoneOp m.asid m.page readOk s =
      if readOk && m.readable s then wakeMigrated m.asid m.page (installMigration m s) else endMigration m s := by
  simp [migrationDoneOp, honly, placeHeld, hgood, cancelMigration_of_only honly]

/-- A migration that installs a page without poisoned lines moves its bytes, and is over. -/
theorem installMigration_of_good {s : State} {m : Migration} (hgood : badLines s m.old = []) :
    (installMigration m s).dmem = (movePhys m.old m.new (2 ^ 21) s).dmem ∧
      (installMigration m s).place.migrations = s.place.migrations.filter (fun x => !decide (x = m)) := by
  have hread : unreadLines m (wholeLines m.new (2 ^ 21) (movePhys m.old m.new (2 ^ 21) s)) =
      wholeLines m.new (2 ^ 21) (movePhys m.old m.new (2 ^ 21) s) := by
    rw [unreadLines, show badLines (wholeLines m.new (2 ^ 21) (movePhys m.old m.new (2 ^ 21) s)) m.old = [] from hgood]
    rfl
  simp only [installMigration, hread]
  exact ⟨rfl, rfl⟩

theorem exec_migrationDone_of_only {s : State} {m : Migration} {readOk : Bool} (honly : s.place.migrations = [m])
    (hgood : badLines s m.old = []) : ∃ t, exec (.migrationDone m.asid m.page readOk) s = .next t ∧ t.place.migrations = [] ∧
      (readOk = true → m.readable s = true → s.dmem.wf = true → ∀ i < 2 ^ 21, t.dmem.read (m.new + i) = s.dmem.read (m.old + i)) ∧
      (readOk = false → t.dmem = s.dmem) := by
  have hop : exec (.migrationDone m.asid m.page readOk) s = .next (migrationDoneOp m.asid m.page readOk s) := rfl
  rw [hop, migrationDoneOp_of_only readOk honly hgood]
  split
  next hread =>
    obtain ⟨hdmem, hover⟩ := installMigration_of_good hgood
    refine ⟨_, rfl, ?_, fun _ _ hwf i hi => ?_, fun hfail => ?_⟩
    · exact hover.trans (by simp [honly])
    · exact (congrArg (fun d => Memory.read d (m.new + i)) hdmem).trans (read_movePhys hwf hi)
    · simp [hfail] at hread
  next hkept =>
    refine ⟨_, rfl, ?_, fun hread hreadable => ?_, fun _ => rfl⟩
    · have hover : (endMigration m s).place.migrations = s.place.migrations.filter (fun x => !decide (x = m)) := rfl
      simp [hover, honly]
    · simp [hread, hreadable] at hkept

end Sys2Proof.Machine
end

section
/-! Tile speeds and the placement view (R199 to R201, R207). -/

namespace Sys2Proof.Machine

/-! ### The placement view (R207) -/

theorem exec_placementSnapshot_of_ready {s : State} (v : W32) (hready : s.st.ready = true) :
    exec (.placementSnapshot v) s = .next (viewOp v.toNat s) := by
  have hop : exec (.placementSnapshot v) s = .next (if s.st.ready then viewOp v.toNat s else s) := rfl
  rw [hop, if_pos hready]

/-- A write of PLC_VIEW_CTRL, but for GO, takes the kind and the group, and may clear DONE. -/
def viewAsked (v : Nat) (s : State) : State := { s with place := { s.place with
  viewKind := bits v 24 4, viewGroup := bits v 12 12, viewDone := s.place.viewDone && !bit v 29 } }

/-- The bytes of a snapshot: its header and its records, cut at the buffer's length. -/
def viewBytes (v : Nat) (rs : List (List Byte)) (s : State) : List Byte :=
  (padTo 64 (leBytes 4 rs.length ++ leBytes 1 (bits v 24 4) ++ leBytes 3 0 ++ leBytes 8 s.time) ++ rs.flatten).take s.place.viewLen

theorem viewOp_of_go {s : State} {v : Nat} {rs : List (List Byte)} {tr : Bool} (hgo : bit v 31 = true) (hlow : 1 ≤ bits v 24 4)
    (hhigh : bits v 24 4 ≤ 3) (hfree : copyBusy s 1 = false)
    (hrecords : viewRecords (viewAsked v s) (bits v 24 4) (bits v 12 12) s.place.viewSel ((s.place.viewLen - 64) / 16) = (rs, tr)) :
    viewOp v s = runCopy { kind := 1, addr := s.place.viewAddr, bytes := viewBytes v rs s,
                           trunc := tr || decide (s.place.viewLen < 64) } (viewAsked v s) := by
  have hgoes : (bit v 31 && decide (1 ≤ bits v 24 4 ∧ bits v 24 4 ≤ 3) && !copyBusy s 1) = true := by
    simp [hgo, hlow, hhigh, hfree]
  rw [viewAsked] at hrecords
  simp only [viewOp, viewAsked, viewBytes, hrecords, hgoes, if_true]

/-- A snapshot that is written whole is DONE. -/
theorem runCopy_view_of_written {u s1 : State} {addr : Nat} {bs : List Byte} (trunc : Bool)
    (hcopy : copyOut (copyWho 0x0500) (bs.length / 64 + 2) addr bs u = (none, s1)) :
    runCopy { kind := 1, addr, bytes := bs, trunc } u =
      { s1 with place := { s1.place with viewDone := true, viewTrunc := trunc } } := by
  have hwho : (CopyWait.who { kind := 1, addr, bytes := bs, trunc }) = copyWho 0x0500 := rfl
  simp [runCopy, hwho, hcopy, copyEnds]

/-! ### The only tile (R199, R200) -/

theorem ne_default_of_serves {x : Tile} (h : x.logical.isSome = true) : x ≠ {} := by
  rintro rfl
  exact absurd h nofun

section OnlyTile

variable {s : State} {p : Nat} {x : Tile} (honly : s.tiles = [(p, x)])

include honly

theorem getTile_of_only : getTile s p = x := by simp [getTile, honly, tget, tfind]

/-- Only a tile that serves is sure to stay listed, as no tile at its default is. -/
theorem updTile_of_only {f : Tile → Tile} (hf : (f x).logical.isSome = true) : (updTile p f s).tiles = [(p, f x)] := by
  rw [updTile, getTile_of_only honly]
  simp [setTile, honly, tset, dflt, ne_default_of_serves hf, tinsert]

/-- The rate of the only tile is its die's median (R199). -/
theorem ratioOf_of_only (hserves : x.logical.isSome = true) (hst : x.st ≤ 1) (hrate : x.rate ≠ 0) : ratioOf s p = 1000000 := by
  have hdie : dieRates s (p / 72) = [x.rate] := by simp [dieRates, honly, hserves, hst, sortBy, insertBy]
  have hmedian : medianOf [x.rate] = x.rate := by simp [medianOf]
  simp only [ratioOf, hdie, getTile_of_only honly, hmedian, if_neg hrate]
  exact Nat.mul_div_cancel_left 1000000 (Nat.pos_of_ne_zero hrate)

end OnlyTile

/-! ### The judgement of a tile (R200, R201) -/

theorem getTile_record (code src : Nat) (payload : List Byte) (s : State) (p : Nat) :
    getTile (record code src payload s) p = getTile s p := by
  simp [getTile]

section Judgement

variable {s : State} {p m m10 : Nat} (sp : List Nat)

theorem judgeTile_of_short (hshort : (getTile s p).hist.length < 1000) : judgeTile p sp s = s := by
  simp [judgeTile, lastSum, Nat.not_le.2 hshort]

theorem judgeTile_of_worn (hsum : lastSum (getTile s p).hist 1000 = some m) (hworn : m < 600000000) :
    judgeTile p sp s = retireTile p 0 sp s := by
  simp [judgeTile, hsum, hworn]

variable (hsum : lastSum (getTile s p).hist 1000 = some m) (hfit : 600000000 ≤ m)
  (hlong : lastSum (getTile s p).hist 10000 = some m10)

include hsum hfit hlong

theorem judgeTile_st_of_slow (hst : (getTile s p).st = 0) (hslow : m10 < 8500000000) :
    (getTile (judgeTile p sp s) p).st = 1 := by
  simp [judgeTile, hsum, Nat.not_lt.2 hfit, hlong, hst, hslow, getTile_record]

theorem judgeTile_st_of_recovered (hst : (getTile s p).st = 1) (hfast : 9000000000 ≤ m10) :
    (getTile (judgeTile p sp s) p).st = 0 := by
  simp [judgeTile, hsum, Nat.not_lt.2 hfit, hlong, hst, hfast, getTile_record]

theorem judgeTile_of_normal (hst : (getTile s p).st = 0) (hfast : 8500000000 ≤ m10) : judgeTile p sp s = s := by
  simp [judgeTile, hsum, Nat.not_lt.2 hfit, hlong, hst, Nat.not_lt.2 hfast]

end Judgement

/-! ### SPEED_SAMPLE (R199 to R201) -/

/-- A sample stores the rate of every tile that it counts (R199). -/
def ratesStored (rates : List (Nat × Nat)) (s : State) : State :=
  let s0 := passTo (s.place.lastSpeed + 1000000) s
  (rates.filter (fun r => decide (r.1 < numPhys s.variant) && (getTile s0 r.1).st ≠ 2)).foldl
    (fun s r => updTile r.1 (fun t => { t with rate := r.2 }) s) { s0 with place := { s0.place with lastSpeed := s0.time } }

/-- The active tiles, whose ratios are taken and judged (R199, R200). -/
def judgedTiles (s : State) : List Nat := (s.tiles.filter (fun e => e.2.logical.isSome && decide (e.2.st ≤ 1))).map (·.1)

/-- The ratio of each active tile joins its history, and the device shows its figures (R199). -/
def ratiosNoted (s : State) : State :=
  let t := (judgedTiles s).foldl (fun u p => updTile p (fun t => { t with hist := (ratioOf s p :: t.hist).take 10000 }) u) s
  let all := sortBy id ((judgedTiles s).map (fun p => (getTile s p).rate))
  { t with pwr := { t.pwr with minMlcs := min 0xFFFF (all.headD 0), medMlcs := min 0xFFFF (medianOf all) } }

theorem exec_speedSample_of_ready {s : State} (rates : List (Nat × Nat)) (sp : List Nat) (hready : s.st.ready = true) :
    exec (.speedSample rates sp) s = .next ((judgedTiles (ratesStored rates s)).foldl (fun s p => judgeTile p sp s)
      (ratiosNoted (ratesStored rates s))) := by
  have hop : exec (.speedSample rates sp) s = .next (if s.st.ready then speedSampleOp rates sp s else s) := rfl
  rw [hop, if_pos hready]
  rfl

section OnlyTileSampled

variable {s : State} {p r : Nat} {x : Tile} (honly : s.tiles = [(p, x)]) (hserves : x.logical.isSome = true)

include honly hserves

/-- The sample of the only tile stores its rate and the time, and leaves memory and operations. -/
theorem ratesStored_of_only (hst : x.st ≠ 2) (hp : p < numPhys s.variant) :
    (ratesStored [(p, r)] s).tiles = [(p, { x with rate := r })] ∧
      (ratesStored [(p, r)] s).time = (passTo (s.place.lastSpeed + 1000000) s).time ∧
      (ratesStored [(p, r)] s).place.lastSpeed = (passTo (s.place.lastSpeed + 1000000) s).time ∧
      (ratesStored [(p, r)] s).dmem = s.dmem ∧ (ratesStored [(p, r)] s).ops = s.ops := by
  have hpast : (passTo (s.place.lastSpeed + 1000000) s).tiles = [(p, x)] := by simp [honly]
  have hknown : [(p, r)].filter (fun r => decide (r.1 < numPhys s.variant) &&
      (getTile (passTo (s.place.lastSpeed + 1000000) s) r.1).st ≠ 2) = [(p, r)] := by simp [getTile_of_only hpast, hp, hst]
  simp only [ratesStored, hknown, List.foldl_cons, List.foldl_nil]
  exact ⟨updTile_of_only (by exact hpast) (by exact hserves), by simp, by simp, by simp, by simp⟩

theorem judgedTiles_of_only (hst : x.st ≤ 1) : judgedTiles s = [p] := by simp [judgedTiles, honly, hserves, hst]

/-- What the only tile's ratio, which is one, leaves. -/
theorem ratiosNoted_of_only (hst : x.st ≤ 1) (hrate : x.rate ≠ 0) (hshort : x.hist.length < 10000) :
    (ratiosNoted s).tiles = [(p, { x with hist := 1000000 :: x.hist })] ∧
      (ratiosNoted s).pwr.minMlcs = min 0xFFFF x.rate ∧ (ratiosNoted s).pwr.medMlcs = min 0xFFFF x.rate ∧
      (ratiosNoted s).time = s.time ∧ (ratiosNoted s).place = s.place ∧ (ratiosNoted s).dmem = s.dmem ∧
      (ratiosNoted s).ops = s.ops := by
  have hratio := ratioOf_of_only honly hserves hst hrate
  have hkept : (1000000 :: x.hist).take 10000 = 1000000 :: x.hist := List.take_of_length_le (Nat.succ_le_of_lt hshort)
  have htiles : (updTile p (fun t => { t with hist := (1000000 :: t.hist).take 10000 }) s).tiles =
      [(p, { x with hist := 1000000 :: x.hist })] := by
    rw [updTile_of_only honly (by exact hserves), hkept]
  simp only [ratiosNoted, judgedTiles_of_only honly hserves hst, List.foldl_cons, List.foldl_nil, List.map_cons, List.map_nil,
    hratio, getTile_of_only honly]
  exact ⟨htiles, rfl, by simp [sortBy, insertBy, medianOf], rfl, rfl, rfl, rfl⟩

end OnlyTileSampled

theorem passTo_time_of_auxOn {s : State} (t : Nat) (h : s.st.auxOn = true) : (passTo t s).time = max s.time t := by
  rw [passTo, passTime_time_of_auxOn _ h]
  omega

theorem exec_speedSample_of_only {s : State} {p l r : Nat} {x : Tile} (sp : List Nat) (hready : s.st.ready = true)
    (honly : s.tiles = [(p, x)]) (hlogical : x.logical = some l) (hst : x.st = 0) (hp : p < numPhys s.variant) (hr : r ≠ 0)
    (hshort : x.hist.length < 999) : exec (.speedSample [(p, r)] sp) s = .next (ratiosNoted (ratesStored [(p, r)] s)) := by
  have hserves : x.logical.isSome = true := by rw [hlogical]; rfl
  obtain ⟨hrated, -⟩ := ratesStored_of_only (r := r) honly hserves (by simp [hst]) hp
  obtain ⟨hnoted, -⟩ := ratiosNoted_of_only hrated hserves (by simp [hst]) hr (by simp only; omega)
  rw [exec_speedSample_of_ready _ _ hready, judgedTiles_of_only hrated hserves (by simp [hst]), List.foldl_cons, List.foldl_nil,
    judgeTile_of_short sp (by rw [getTile_of_only hnoted]; simp only [List.length_cons]; omega)]

/-- Settles O40: the control register and the epoch by their branches, a page that moves by its bytes, a snapshot by its copy,
and a sample by what it stores, notes and judges. -/
theorem migrationSpeedsAndView : Obligations.MigrationSpeedsAndView := by
  refine ⟨⟨?control, ?epoch, ?migrated, ?view⟩, ?sample, ?judged⟩
  case control =>
    intro s v hready
    rw [exec_migCtrlWrite_of_ready v hready]
    constructor
    · intro hignored
      exact congrArg _ (if_pos hignored)
    · intro htaken
      refine ⟨_, congrArg _ (if_neg (Nat.not_le.2 htaken)), fun hreserved hepoch => ?_⟩
      simp only [setBits_zero_of_zero hreserved, migEpochMs, if_neg hepoch]
  case epoch =>
    intro s u hready hu hnone
    exact exec_migrationEpoch_of_noPromotion hready hu hnone
  case migrated =>
    intro s m readOk honly hgood
    exact exec_migrationDone_of_only honly hgood
  case view =>
    rintro s _ s1 v _ rs tr _ hready hgo rfl hlow hhigh hfree rfl hrecords rfl hcopy
    rw [exec_placementSnapshot_of_ready v hready, viewOp_of_go hgo hlow hhigh hfree hrecords]
    exact congrArg _ (runCopy_view_of_written _ hcopy)
  case sample =>
    intro s p l r x sp hready honly hlogical hst hp hr hshort
    have hserves : x.logical.isSome = true := by rw [hlogical]; rfl
    obtain ⟨hrated, htime, hlast, hdmem, hops⟩ := ratesStored_of_only (r := r) honly hserves (by simp [hst]) hp
    obtain ⟨hnoted, hmin, hmed, htime2, hplace, hdmem2, hops2⟩ :=
      ratiosNoted_of_only hrated hserves (by simp [hst]) hr (by simp only; omega)
    refine ⟨_, exec_speedSample_of_only sp hready honly hlogical hst hp hr hshort, hnoted, hmin, hmed, ?_, fun haux => ?_,
      hdmem2.trans hdmem, hops2.trans hops⟩
    · rw [hplace, hlast, htime2, htime]
    · rw [htime2, htime, passTo_time_of_auxOn _ haux]
  case judged =>
    intro s p m m10 sp hsum
    exact ⟨judgeTile_of_worn sp hsum, fun hfit hlong => ⟨judgeTile_st_of_slow sp hsum hfit hlong,
      judgeTile_st_of_recovered sp hsum hfit hlong, judgeTile_of_normal sp hsum hfit hlong⟩⟩

end Sys2Proof.Machine
end

section
/-! The interleaving mapping (R219, R220): the stack, the pseudo-channel and the byte name one place of a window. -/

namespace Sys2Proof.Machine

theorem nodup_winStacks (w : WinCfg) : (winStacks w).Nodup := List.nodup_range.filter _

/-- A set of stacks lists none twice, so that the stack tells its position in the set. -/
theorem winStacks_getD_inj {w : WinCfg} {i j : Nat} (hi : i < (winStacks w).length) (hj : j < (winStacks w).length)
    (h : (winStacks w).getD i 0 = (winStacks w).getD j 0) : i = j := by
  rw [List.getD_eq_getElem?_getD, List.getD_eq_getElem?_getD, List.getElem?_eq_getElem hi, List.getElem?_eq_getElem hj,
    Option.getD_some, Option.getD_some] at h
  exact (List.getElem_inj (nodup_winStacks w)).1 h

/-- A whole number of grains and a rest below one grain are told apart in their sum. -/
theorem grains_and_rest_unique {g q1 q2 x y : Nat} (hg : 0 < g) (h : q1 * g + x % g = q2 * g + y % g) :
    q1 = q2 ∧ x % g = y % g := by
  have hq : ∀ q z, (q * g + z % g) / g = q ∧ (q * g + z % g) % g = z % g := fun q z =>
    (Nat.div_mod_unique hg).2 ⟨by rw [Nat.add_comm, Nat.mul_comm], Nat.mod_lt z hg⟩
  exact ⟨by rw [← (hq q1 x).1, h, (hq q2 y).1], by rw [← (hq q1 x).2, h, (hq q2 y).2]⟩

/-- The offset of an address in its window is rebuilt from grain, turn, pseudo-channel, position in the set and rest. -/
theorem offset_eq_of_winMap_eq {w : WinCfg} {a b : Nat} (hstacks : winStacks w ≠ []) (h : winMap w a = winMap w b) :
    a - w.base = b - w.base := by
  have hlen : 0 < (winStacks w).length := List.length_pos_iff.2 hstacks
  simp only [winMap, Prod.mk.injEq, Nat.add_assoc, Nat.add_left_cancel_iff] at h
  obtain ⟨hstack, hchannel, hbyte⟩ := h
  have hposition := winStacks_getD_inj (Nat.mod_lt _ hlen) (Nat.mod_lt _ hlen) hstack
  obtain ⟨hturn, hrest⟩ := grains_and_rest_unique (Nat.two_pow_pos _) hbyte
  have hrow := Nat.ext_div_mod hturn hchannel
  have hgrain := Nat.ext_div_mod hrow hposition
  exact Nat.ext_div_mod hgrain hrest

/-- Settles O8: the mapping gives back the offset in the window. -/
theorem windowMapIsOneToOne : Obligations.WindowMapIsOneToOne := by
  intro w a b hstacks ha hb hmap
  have hoffset := offset_eq_of_winMap_eq hstacks hmap
  omega

end Sys2Proof.Machine
end

section
/-! Lost lines (R227), and what the parts of a memory access leave of them. -/

namespace Sys2Proof.Machine

theorem localOf_congr {s t : State} (hvariant : t.variant = s.variant) (hwindows : t.windows = s.windows) (a : Nat) :
    localOf t a = localOf s a := by
  simp only [localOf, windowOf, getWindow, hvariant, hwindows]

/-- Whether the remap table or the loss of the stack takes a line of the first tier. -/
theorem lineLost_of_local {s : State} {a k pc off : Nat} (htier1 : a < tier2Base) (hlocal : localOf s a = some (k, pc, off)) :
    lineLost s a = ((getStack s k).lost ||
      bit (tget (dflt 0) (getStack s k).frames (frameNo pc off)) (frameLine off)) := by
  simp [lineLost, Nat.not_le.2 htier1, hlocal]

theorem clearLost_of_tier2 {s : State} {a : Nat} (htier2 : tier2Base ≤ a) : clearLost s a = s := by
  simp [clearLost, htier2]

theorem clearLost_of_local {s : State} {a k pc off : Nat} (htier1 : a < tier2Base) (hlocal : localOf s a = some (k, pc, off)) :
    clearLost s a =
      if bit (tget (dflt 0) (getStack s k).frames (frameNo pc off)) (frameLine off) then
        setStack s k { getStack s k with
          frames := tinsert (frameNo pc off) (tget (dflt 0) (getStack s k).frames (frameNo pc off) - 2 ^ frameLine off)
            (getStack s k).frames }
      else s := by
  simp [clearLost, Nat.not_le.2 htier1, hlocal]

/-- A set bit that is subtracted is clear. -/
theorem bit_sub_two_pow_of_bit {m i : Nat} (h : bit m i = true) : bit (m - 2 ^ i) i = false := by
  have hsum : bit (2 ^ i + (m - 2 ^ i)) i = !bit (m - 2 ^ i) i := Nat.testBit_two_pow_add_eq _ _
  rw [Nat.add_sub_cancel' (Nat.ge_two_pow_of_testBit h), h] at hsum
  simpa using hsum.symm

theorem tget_tinsert_same {α : Type} (d : Nat → α) (t : Table α) (k : Nat) (v : α) : tget d (tinsert k v t) k = v := by
  simp [tget]

/-- A line of a stack in service is whole once its bit is cleared. -/
theorem lineLost_clearLost {s : State} {a k pc off : Nat} (htier1 : a < tier2Base) (hlocal : localOf s a = some (k, pc, off))
    (hserves : (getStack s k).lost = false) : lineLost (clearLost s a) a = false := by
  have hlocal' : localOf (clearLost s a) a = some (k, pc, off) := by
    rw [localOf_congr (clearLost_variant s a) (clearLost_windows s a), hlocal]
  rw [lineLost_of_local htier1 hlocal', clearLost_of_local htier1 hlocal]
  split
  case isTrue hbit => simp [hserves, tget_tinsert_same, bit_sub_two_pow_of_bit hbit]
  case isFalse hbit => simp [hserves, hbit]

theorem takeWrite_dmem (a : Nat) (new : List Byte) (enables : Nat) (s : State) :
    (takeWrite a new enables s).dmem = s.dmem.writeN a new := by
  simp only [takeWrite]
  split
  · simp
  · simp

theorem takeWrite_of_tier2 {a : Nat} (new : List Byte) (enables : Nat) (s : State) (htier2 : tier2Base ≤ a) :
    takeWrite a new enables s = snoop a { s with dmem := s.dmem.writeN a new } := by
  simp [takeWrite, clearLost_of_tier2 htier2]

/-- A write of all 64 bytes makes a lost line whole (R227). -/
theorem lineLost_takeWrite_of_full {s : State} {a k pc off : Nat} (new : List Byte) (htier1 : a < tier2Base)
    (hlocal : localOf s a = some (k, pc, off)) (hserves : (getStack s k).lost = false) :
    lineLost (takeWrite a new (2 ^ 64 - 1) s) a = false := by
  have hfull : takeWrite a new (2 ^ 64 - 1) s = clearLost (snoop a { s with dmem := s.dmem.writeN a new }) a := by
    simp [takeWrite]
  rw [hfull]
  refine lineLost_clearLost htier1 (k := k) (pc := pc) (off := off) ?_ ?_
  · rw [localOf_congr (s := s) (by simp) (by simp), hlocal]
  · simpa [getStack] using hserves

end Sys2Proof.Machine
end

section
/-! Requests at a controller port and at a CXL port (R211, R213, R214, R223, R227, R229, R230, R319, R323). -/

namespace Sys2Proof.Machine

/-- The request for a line as its port offers it. -/
def lineCall (origin : Origin) (addr : Nat) (w : Bool) (data : List Byte) (e : W64) (close : Bool) (op : Option Nat) :
    MemCall :=
  { port := portOf origin, addr := addr / 64 * 64, write := w, data, enables := e.toNat, close, op }

section Arrives

variable {s : State} {origin : Origin} {addr : Nat} {w : Bool} {data : List Byte} {e : W64} {close : Bool} {op : Option Nat}

theorem exec_memRequest : exec (.memRequest origin addr w data e close op) s =
    .next (memRequestOp (portOf origin) addr w data e.toNat close op s) := rfl

theorem exec_memRequest_of_failedNetwork (hfailed : bit s.noc.errLog 63 = true) :
    exec (.memRequest origin addr w data e close op) s = .next s := by
  simp only [exec_memRequest, memRequestOp, if_pos hfailed]

theorem exec_memRequest_of_tier2 (hworks : bit s.noc.errLog 63 = false) (htier2 : tier2Base ≤ addr / 64 * 64) :
    exec (.memRequest origin addr w data e close op) s = .next (cxlRequest (lineCall origin addr w data e close op) s) := by
  simp only [exec_memRequest, memRequestOp, hworks, if_neg Bool.false_ne_true, if_pos htier2, lineCall]

theorem exec_memRequest_of_local {k pc off : Nat} (hworks : bit s.noc.errLog 63 = false) (htier1 : addr / 64 * 64 < tier2Base)
    (hlocal : localOf s (addr / 64 * 64) = some (k, pc, off)) :
    exec (.memRequest origin addr w data e close op) s =
      .next (offerReq false k (lineCall origin addr w data e close op) s) := by
  simp only [exec_memRequest, memRequestOp, hworks, if_neg Bool.false_ne_true, if_neg (Nat.not_le.2 htier1), hlocal, lineCall]

end Arrives

@[simp] theorem dataError_none (a : Nat) (s : State) : dataError none a s = s := rfl

section Offered

variable {s : State} {k : Nat} {c : MemCall}

theorem offerReq_of_lost (hlost : (getStack s k).lost = true) (hop : c.op = none) :
    offerReq false k c s = emit (.memLine c.port c.addr [] true) s := by
  simp [offerReq, hlost, hop]

section InService

variable (hserves : (getStack s k).lost = false) (hpresent : (getStack s k).present = true)

include hserves hpresent

theorem offerReq_of_room
    (hroom : ((getStack s k).reqs.filter (fun r => r.write = c.write)).length < if c.write then 128 else 256) :
    offerReq false k c s = acceptReq k c s := by
  simp only [offerReq, hserves, hpresent, Stack.room, decide_eq_true hroom, Bool.not_true, if_neg Bool.false_ne_true, if_true]

theorem offerReq_of_full
    (hfull : (if c.write then 128 else 256) ≤ ((getStack s k).reqs.filter (fun r => r.write = c.write)).length) :
    offerReq false k c s = emit (.memRefused c.port c.addr)
      (setStack s k { getStack s k with ingress := (getStack s k).ingress ++ [c] }) := by
  simp only [offerReq, hserves, hpresent, Stack.room, decide_eq_false (Nat.not_lt.2 hfull), Bool.not_true,
    if_neg Bool.false_ne_true]

end InService

/-- What a controller holds of a request that it accepts: the bytes that the line then has, and what stood of it before. -/
def reqHeld (s : State) (k : Nat) (c : MemCall) (line : List Byte) : MemReq :=
  { port := c.port, addr := c.addr, write := c.write, data := line, enables := c.enables, time := s.time
    target := (getStack s k).targets.getD c.port 1, close := c.close, lost := lineLost s c.addr, op := c.op }

theorem acceptReq_of_read (hread : c.write = false) (henables : c.enables < 2 ^ 64) :
    acceptReq k c s = setStack (countAccess c.addr s) k { getStack s k with
      reqs := (getStack s k).reqs ++ [reqHeld s k c (s.dmem.readN c.addr 64)] } := by
  have hsame : getStack (countAccess c.addr s) k = getStack s k := rfl
  simp only [acceptReq, reqHeld, hread, hsame, Nat.mod_eq_of_lt henables, if_neg Bool.false_ne_true, Bool.false_and,
    Bool.or_false]

theorem acceptReq_of_write {v : State} (hwrite : c.write = true) (henables : c.enables < 2 ^ 64)
    (hv : v = takeWrite c.addr (mergeLine (s.dmem.readN c.addr 64) c.data c.enables) c.enables (countAccess c.addr s)) :
    ∃ b, acceptReq k c s = setStack v k { getStack v k with
      reqs := (getStack v k).reqs ++ [reqHeld s k c (mergeLine (s.dmem.readN c.addr 64) c.data c.enables)], burst := b } := by
  simp only [acceptReq, reqHeld, hwrite, if_true, Nat.mod_eq_of_lt henables, hv]
  exact ⟨_, rfl⟩

end Offered

section SecondTier

variable {s : State} {c : MemCall} {p : Nat} (hp : (c.addr - tier2Base) / 2 ^ 44 = p)

include hp

theorem cxlRequest_of_waits (hup : (getCxl s p).up = false) (hwaits : (getCxl s p).downSince ≠ none) :
    cxlRequest c s = setCxl s p { getCxl s p with ingress := (getCxl s p).ingress ++ [c] } := by
  simp only [cxlRequest, hp, hup, Bool.not_false, if_true, Option.isSome_iff_ne_none.2 hwaits]

theorem cxlRequest_of_read (hup : (getCxl s p).up = true) (hread : c.write = false) (hwhole : lineLost s c.addr = false) :
    cxlRequest c s = emit (.memLine c.port c.addr (s.dmem.readN c.addr 64) false) (countAccess c.addr s) := by
  simp only [cxlRequest, hp, hup, hread, hwhole, Bool.not_true, if_neg Bool.false_ne_true]

theorem cxlRequest_of_write (hup : (getCxl s p).up = true) (hwrite : c.write = true) (htier2 : tier2Base ≤ c.addr) :
    cxlRequest c s = snoop c.addr { countAccess c.addr s with
      dmem := s.dmem.writeN c.addr (mergeLine (s.dmem.readN c.addr 64) c.data c.enables) } := by
  simp only [cxlRequest, hp, hup, hwrite, Bool.not_true, if_neg Bool.false_ne_true, if_true, takeWrite_of_tier2 _ _ _ htier2]
  rfl

end SecondTier

/-- Settles O18: where a request goes (`exec_memRequest_of_…`), and what the controller or the CXL port does with it. -/
theorem memoryRequests : Obligations.MemoryRequests := by
  rintro s origin addr _ _ data e close op rfl rfl
  refine ⟨fun hfailed w => exec_memRequest_of_failedNetwork hfailed, fun hworks =>
    ⟨?inService, ?outOfService, ?linkUp, ?linkDown⟩⟩
  case inService =>
    intro k pc off htier1 hlocal hserves hpresent
    refine ⟨?read, ?write, ?full⟩
    case read =>
      intro hroom
      rw [exec_memRequest_of_local hworks htier1 hlocal, offerReq_of_room hserves hpresent (by exact hroom),
        acceptReq_of_read rfl e.isLt]
      rfl
    case write =>
      rintro hroom _ rfl
      obtain ⟨b, haccepted⟩ := acceptReq_of_write (s := s) (k := k)
        (c := lineCall origin addr true data e close op) rfl e.isLt rfl
      refine ⟨b, ?_, takeWrite_dmem _ _ _ _, fun hall => ?_⟩
      · rw [exec_memRequest_of_local hworks htier1 hlocal, offerReq_of_room hserves hpresent (by exact hroom), haccepted]
        rfl
      · rw [hall]
        exact lineLost_takeWrite_of_full _ htier1 (by exact hlocal) (by exact hserves)
    case full =>
      intro w hfull
      rw [exec_memRequest_of_local hworks htier1 hlocal, offerReq_of_full hserves hpresent (by exact hfull)]
      rfl
  case outOfService =>
    rintro k pc off w htier1 hlocal hlost rfl
    rw [exec_memRequest_of_local hworks htier1 hlocal, offerReq_of_lost hlost rfl]
    rfl
  case linkUp =>
    intro htier2 hup
    constructor
    · intro hwhole
      rw [exec_memRequest_of_tier2 hworks htier2, cxlRequest_of_read rfl (by exact hup) rfl hwhole]
      rfl
    · rw [exec_memRequest_of_tier2 hworks htier2, cxlRequest_of_write rfl (by exact hup) rfl htier2]
      rfl
  case linkDown =>
    rintro p w htier2 rfl hdown hwaits
    rw [exec_memRequest_of_tier2 hworks htier2, cxlRequest_of_waits rfl (by exact hdown) (by exact hwaits)]
    rfl

end Sys2Proof.Machine
end

section
/-! An issue slot of a controller that holds one request (R210, R212, R213, R223 to R225, R227). -/

namespace Sys2Proof.Machine

/-! ### A queue of one request -/

@[simp] theorem dropReq_only (r : MemReq) : dropReq r [r] = [] := if_pos rfl
@[simp] theorem olderFor_only (r : MemReq) : olderFor r [r] = [] := by simp [olderFor]
@[simp] theorem laterFor_only (r : MemReq) : laterFor r [r] = [] := by simp [laterFor]
@[simp] theorem forwarded_only (r : MemReq) : forwarded r [r] = false := by simp [forwarded]

/-- A stack whose only request has left its queue. -/
def slotTaken (k : Nat) (burst : Bool) (banks : Table Bank) (s : State) : State :=
  setStack s k { getStack s k with burst, reqs := [], banks }

/-- The same, after parity errors in a row on the command: the second takes the stack out of service (R210). -/
def slotCommanded (k pc parity : Nat) (burst : Bool) (banks : Table Bank) (s : State) : State :=
  if parity < 2 then slotTaken k burst banks s else loseStack k pc 0 (slotTaken k burst banks s)

/-- Whether a controller issues writes: in a burst that goes on or begins, while no read is at urgency 3 (R213). -/
def burstAt (s : State) (k : Nat) : Bool :=
  ((getStack s k).burst || startsBurst s.time ((getStack s k).reqs.filter (fun r => r.write))) &&
    !((getStack s k).reqs.any fun r => !r.write && decide (urgency s.time r = 3)) &&
    !((getStack s k).reqs.filter (fun r => r.write)).isEmpty

section OnlyRequest

variable {s : State} {k pc off : Nat} {busy : List (Nat × Nat)} {r : MemReq} (honly : (getStack s k).reqs = [r])

include honly

theorem burstAt_of_write (hwrite : r.write = true) (hburst : (getStack s k).burst = true) : burstAt s k = true := by
  simp [burstAt, honly, hwrite, hburst]

variable (hbanks : (getStack s k).banks = []) (hlocal : localOf s r.addr = some (k, pc, off))
  (hready : (pc, bankOf off) ∉ busy)

include hbanks hlocal hready

/-- The only request may issue, but that a write waits for a burst of writes (R213). -/
theorem issuable_only (burst : Bool) : issuable s (getStack s k) busy burst r = (!r.write || burst) := by
  simp [issuable, reqPlace, hlocal, hready, honly, hbanks, tget, tfind, dflt]

theorem filter_issuable_only (hburst : r.write = true → (getStack s k).burst = true) :
    (getStack s k).reqs.filter (issuable s (getStack s k) busy (burstAt s k)) = [r] := by
  have hissues : issuable s (getStack s k) busy (burstAt s k) r = true := by
    rw [issuable_only honly hbanks hlocal hready]
    cases hwrite : r.write
    case false => rfl
    case true => rw [burstAt_of_write honly hwrite (hburst hwrite), Bool.or_true]
  rw [honly, List.filter_cons_of_pos hissues, List.filter_nil]

/-- The slot takes the only request. -/
theorem issueSlotOp_of_only : ∃ banks, (r.write = true → (getStack s k).burst = true) → ∀ bad parity,
    issueSlotOp k busy bad parity s = retryIngress k (
      if r.write then writeDone r [] k pc off bad (slotCommanded k pc parity (burstAt s k) banks s)
      else readDone r k pc off bad (slotCommanded k pc parity (burstAt s k) banks s)) := by
  refine ⟨tset (dflt {}) (getStack s k).banks (bankKey pc (bankOf off)) (useBank s.time r (rowOf off)
    (tget (dflt {}) (getStack s k).banks (bankKey pc (bankOf off)))), fun hburst bad parity => ?_⟩
  have htakes := filter_issuable_only honly hbanks hlocal hready hburst
  have hplace : reqPlace s r = (pc, off) := by simp [reqPlace, hlocal]
  unfold burstAt at htakes
  simp only [issueSlotOp, htakes, pickReq, hplace]
  simp only [honly, dropReq_only, laterFor_only, forwarded_only, if_neg Bool.false_ne_true]
  simp only [slotCommanded, slotTaken, burstAt, honly]

end OnlyRequest

/-! ### What the taken slot leaves -/

theorem lineLost_setStack {s : State} {k : Nat} {x : Stack} (hlost : x.lost = (getStack s k).lost)
    (hframes : x.frames = (getStack s k).frames) (a : Nat) : lineLost (setStack s k x) a = lineLost s a := by
  have hsame : ∀ j, (getStack (setStack s k x) j).lost = (getStack s j).lost ∧
      (getStack (setStack s k x) j).frames = (getStack s j).frames := by
    intro j
    by_cases hj : j = k
    · subst hj
      rw [getStack_setStack]
      exact ⟨hlost, hframes⟩
    · rw [getStack_setStack_ne _ _ _ _ hj]
      exact ⟨rfl, rfl⟩
  have hlocal : localOf (setStack s k x) a = localOf s a := localOf_congr (by simp) (by simp) a
  simp only [lineLost, hlocal, hsame]
  rfl

theorem localOf_slotTaken (k : Nat) (burst : Bool) (banks : Table Bank) (s : State) (a : Nat) :
    localOf (slotTaken k burst banks s) a = localOf s a := localOf_congr rfl rfl a

@[simp] theorem lineLost_slotTaken (k : Nat) (burst : Bool) (banks : Table Bank) (s : State) (a : Nat) :
    lineLost (slotTaken k burst banks s) a = lineLost s a :=
  lineLost_setStack (x := { getStack s k with burst, reqs := [], banks }) rfl rfl a

theorem slotCommanded_of_good (k pc : Nat) {parity : Nat} (burst : Bool) (banks : Table Bank) (s : State)
    (hgood : parity < 2) : slotCommanded k pc parity burst banks s = slotTaken k burst banks s := if_pos hgood

theorem retryIngress_of_none {s : State} {k : Nat} (hnone : (getStack s k).ingress = []) : retryIngress k s = s := by
  simp [retryIngress, hnone]

theorem getStack_emit (o : Out) (s : State) (k : Nat) : getStack (emit o s) k = getStack s k := rfl

theorem getStack_loseStack (k pc reason : Nat) (s : State) :
    getStack (loseStack k pc reason s) k = { getStack s k with lost := true, present := false } := by
  have hstacks : (loseStack k pc reason s).memStacks =
      (setStack s k { getStack s k with lost := true, present := false }).memStacks := by simp [loseStack]
  rw [getStack, hstacks]
  exact getStack_setStack _ _ _

theorem mem_stackLost_loseStack (k pc reason : Nat) (s : State) : k ∈ (loseStack k pc reason s).ice.now.stackLost := by
  simp [loseStack, mem_insertNat]

theorem localOf_loseStack (k pc reason : Nat) (s : State) (a : Nat) : localOf (loseStack k pc reason s) a = localOf s a :=
  localOf_congr (by simp [loseStack]) (by simp [loseStack]) a

/-! ### The end of a request -/

section Done

variable {s : State} {r : MemReq} {k pc off : Nat} (hnobody : r.op = none)

include hnobody

theorem readDone_of_lost (bad : Nat) (hlost : r.lost = true ∨ lineLost s r.addr = true) :
    readDone r k pc off bad s = emit (.memLine r.port r.addr [] true) s := by
  have hbit : (r.lost || lineLost s r.addr) = true := by simpa using hlost
  simp only [readDone, if_pos hbit, hnobody, dataError_none]

theorem readDone_of_whole (hwhole : r.lost = false) (hline : lineLost s r.addr = false) :
    readDone r k pc off 0 s = emit (.memLine r.port r.addr r.data false) s ∧
    readDone r k pc off 1 s = emit (.memLine r.port r.addr r.data false) (correctedLine k pc off s) ∧
    readDone r k pc off 2 s = emit (.memLine r.port r.addr [] true) (uncorrectableKv r.addr 0 s) := by
  simp [readDone, hwhole, hline, hnobody]

theorem writeDone_of_full (later : List MemReq) (bad : Nat) (hfull : r.enables = 2 ^ 64 - 1) :
    writeDone r later k pc off bad s = s := by
  simp [writeDone, hnobody, hfull]

end Done

/-- Settles O19: the slot takes the only request (`issueSlotOp_of_only`), and the request ends by the case of its line. -/
theorem issueSlot : Obligations.IssueSlot := by
  intro s k pc off bad busy r honly hbanks hlocal hready hnobody htier1
  obtain ⟨banks, hslot⟩ := issueSlotOp_of_only honly hbanks hlocal hready
  have hexec : ∀ parity, exec (.issueSlot k busy bad parity) s = .next (issueSlotOp k busy bad parity s) := fun _ => rfl
  have hread : r.write = false → ∀ parity, exec (.issueSlot k busy bad parity) s =
      .next (retryIngress k (readDone r k pc off bad (slotCommanded k pc parity (burstAt s k) banks s))) := by
    intro hreads parity
    rw [hexec, hslot (by simp [hreads]), hreads, if_neg Bool.false_ne_true]
  refine ⟨burstAt s k, banks, slotTaken k (burstAt s k) banks s, rfl, ?whole, ?lost, ?write, ?secondError⟩
  case whole =>
    intro hreads hwhole hline parity hgood
    obtain ⟨hclean, hcorrected, hdetected⟩ := readDone_of_whole (s := slotTaken k (burstAt s k) banks s) (k := k) (pc := pc)
      (off := off) hnobody hwhole (by rw [lineLost_slotTaken, hline])
    rw [hread hreads, slotCommanded_of_good k pc (burstAt s k) banks s hgood]
    refine ⟨?_, ?_, ?_⟩
    · rintro rfl
      rw [hclean]
      rfl
    · rintro rfl
      rw [hcorrected]
    · rintro rfl
      rw [hdetected]
  case lost =>
    intro hreads hlost
    rw [hread hreads, slotCommanded_of_good k pc (burstAt s k) banks s Nat.two_pos,
      readDone_of_lost hnobody bad (by rwa [lineLost_slotTaken])]
    rfl
  case write =>
    intro hwrite hburst hfull
    rw [hexec, hslot (fun _ => hburst), hwrite, if_pos rfl, slotCommanded_of_good k pc (burstAt s k) banks s Nat.two_pos,
      writeDone_of_full hnobody [] bad hfull]
  case secondError =>
    intro hreads hingress
    have hcommanded : slotCommanded k pc 2 (burstAt s k) banks s = loseStack k pc 0 (slotTaken k (burstAt s k) banks s) :=
      if_neg (by decide)
    have hstack := getStack_loseStack k pc 0 (slotTaken k (burstAt s k) banks s)
    have hline : lineLost (loseStack k pc 0 (slotTaken k (burstAt s k) banks s)) r.addr = true := by
      have hplace : localOf (loseStack k pc 0 (slotTaken k (burstAt s k) banks s)) r.addr = some (k, pc, off) := by
        rw [localOf_loseStack, localOf_slotTaken, hlocal]
      rw [lineLost_of_local htier1 hplace, hstack, Bool.true_or]
    refine ⟨emit (.memLine r.port r.addr [] true) (loseStack k pc 0 (slotTaken k (burstAt s k) banks s)), ?_, ?_, ?_, ?_⟩
    · rw [hread hreads, hcommanded, readDone_of_lost hnobody bad (.inr hline), retryIngress_of_none]
      rw [getStack_emit, hstack, slotTaken, getStack_setStack]
      exact hingress
    · rw [getStack_emit, hstack]
    · rw [getStack_emit, hstack]
    · exact mem_stackLost_loseStack k pc 0 _

end Sys2Proof.Machine
end

section
/-! Patrol and row repair (R224, R226). -/

namespace Sys2Proof.Machine

/-- A patrol of a stack that is there adds the on-die count, treats what it found, and ends the period of the row counts. -/
theorem exec_patrol_of_present {s u : State} {k n : Nat} {found : List (Nat × Nat × Nat)}
    (hpresent : (getStack s k).present = true)
    (hu : u = found.foldl (fun u f => foundLine k f.1 f.2.1 f.2.2 1 u)
      (setStack s k { getStack s k with ceOde := min 0xFFFFFF ((getStack s k).ceOde + n) })) :
    exec (.patrol k n found) s = .next (setStack u k { getStack u k with rowCounts := [] }) := by
  have hop : exec (.patrol k n found) s = .next (patrolOp k n found s) := rfl
  have hpresents : ¬(!(getStack s k).present) = true := by simp [hpresent]
  simp only [hop, patrolOp, if_neg hpresents, satAdd, hu]

/-- A repair treats the bad lines of its row, and then takes a spare row if there is one. -/
theorem exec_rowRepair_of_due {s u : State} {k pc bank row : Nat} (spares : Nat) {bad : List Nat}
    (hdue : rowKey pc bank row ∈ (getStack s k).repairDue)
    (hu : u = bad.foldl (fun u l => foundLine k pc l 2 1 u) (setStack s k { getStack s k with
      repairDue := (getStack s k).repairDue.filter (· ≠ rowKey pc bank row)
      rowCounts := terase (rowKey pc bank row) (getStack s k).rowCounts })) :
    exec (.rowRepair k pc bank row spares bad) s = .next (setStack u k
      (if spares = 0 then { getStack u k with repairFailed := min 0xFFFF ((getStack u k).repairFailed + 1) }
       else { getStack u k with
        softPending := min 0xFFFF ((getStack u k).softPending + 1)
        softRows := insertNat (rowKey pc bank row) (getStack u k).softRows
        spareMin := min (getStack u k).spareMin (spares - 1)
        banks := tset (dflt {}) (getStack u k).banks (bankKey pc bank)
          { tget (dflt {}) (getStack u k).banks (bankKey pc bank) with openRow := none } })) := by
  have hop : exec (.rowRepair k pc bank row spares bad) s = .next (rowRepairOp k pc bank row spares bad s) := rfl
  have hdues : ¬(!decide (rowKey pc bank row ∈ (getStack s k).repairDue)) = true := by simp [hdue]
  simp only [hop, rowRepairOp, if_neg hdues, satAdd, ← hu]
  split
  · rfl
  · rfl

/-- Settles O21: each command by the branch of its rule that applies. -/
theorem patrolAndRepair : Obligations.PatrolAndRepair :=
  ⟨fun _ _ _ _ _ => exec_patrol_of_present, fun _ _ _ _ _ _ spares _ => exec_rowRepair_of_due spares⟩

end Sys2Proof.Machine
end

section
/-! Interleave windows under agreement, and CXL links (R221, R222, R230, R430, R431). -/

namespace Sys2Proof.Machine

theorem exec_iwinCommit_of_free {s : State} {n : Nat} (hready : s.st.ready = true) (hfree : (getWindow s n).result ≠ 0xFF) :
    exec (.iwinCommit n) s = .next (
      if windowCheck s n (getWindow s n).shadow = 0 then
        setWindow s n { getWindow s n with result := 0xFF, snapshot := some (getWindow s n).shadow }
      else agrReject 1 n (windowCheck s n (getWindow s n).shadow)
        (setWindow s n { getWindow s n with result := windowCheck s n (getWindow s n).shadow })) := by
  have hop : exec (.iwinCommit n) s = .next (if s.st.ready then iwinCommitOp n s else s) := rfl
  simp only [hop, if_pos hready, iwinCommitOp, if_neg hfree]

theorem exec_iwinApply_of_passed {s : State} {n : Nat} {c : WinCfg} (hsnapshot : (getWindow s n).snapshot = some c)
    (hpass : windowCheck s n c = 0) :
    exec (.iwinApply n) s = .next (setWindow s n { getWindow s n with active := c, snapshot := none, result := 0 }) := by
  have hop : exec (.iwinApply n) s = .next (iwinApplyOp n s) := rfl
  simp only [hop, iwinApplyOp, hsnapshot, if_pos hpass]

theorem exec_cxlLinkDown_of_up {s : State} {p : Nat} (hup : (getCxl s p).up = true) :
    exec (.cxlLinkDown p) s = .next (setCxl s p { getCxl s p with
      up := false, width := 0, rate := 0, downSince := some s.time }) := by
  have hop : exec (.cxlLinkDown p) s = .next (cxlLinkDownOp p s) := rfl
  simp only [hop, cxlLinkDownOp, if_pos hup]

theorem exec_cxlLinkRetrained_of_inTime {s : State} {p t0 : Nat} (w r : Nat) (hdown : (getCxl s p).downSince = some t0)
    (hintime : s.time ≤ t0 + 10000000) :
    exec (.cxlLinkRetrained p w r) s = .next (retryHeld (retryDevice (offerCxl p (setCxl (wakeOps (waitsOnPort s p) s) p
      { getCxl s p with up := true, width := w, rate := r, downSince := none })))) := by
  have hop : exec (.cxlLinkRetrained p w r) s = .next (retryHeld (cxlLinkRetrainedOp p w r s)) := rfl
  simp only [hop, cxlLinkRetrainedOp, hdown, if_neg (Nat.not_lt.2 hintime)]

/-- The wait ends: the port's migrations are given up, its pages are lost, and the operations that waited on them end. -/
theorem exec_cxlRetrainTimeout_of_down {s u v x : State} {p t0 : Nat} (hdown : (getCxl s p).downSince = some t0)
    (hu : u = passTo (t0 + 10000000) s)
    (hv : v = (u.place.migrations.filter (fun m => decide (tier2Base ≤ m.new ∧ (m.new - tier2Base) / 2 ^ 44 = p))).foldl
      (fun s m => cancelMigration m s) u)
    (hx : x = (u.ops.filter (waitsOnPort u p)).foldl
      (fun s o => stopOp o.tag (.fault 0x31 (o.faultAddr / 2 ^ 21 * 2 ^ 21)) false s)
      { v with pages := v.pages.map (fun r => if onPort p r then { r with kind := .lost, cause := true } else r) }) :
    exec (.cxlRetrainTimeout p) s = .next (retryHeld (retryDevice (record 0x0405 (0x60 + p) (leBytes 4 (pagesUsed u p))
      (offerCxl p (setCxl x p { getCxl s p with failed := true, downSince := none }))))) := by
  have hop : exec (.cxlRetrainTimeout p) s = .next (retryHeld (cxlRetrainTimeoutOp p s)) := rfl
  simp only [hop, cxlRetrainTimeoutOp, hdown, List.foldl_map, hx, hv, hu]

/-- Settles O22: each command by the branch of its rule that applies. -/
theorem windowsAndCxlLinks : Obligations.WindowsAndCxlLinks := by
  refine ⟨⟨?passes, ?fails, fun s n c => exec_iwinApply_of_passed⟩, fun s p => exec_cxlLinkDown_of_up,
    fun s p w r t0 => exec_cxlLinkRetrained_of_inTime w r, fun s u v x p t0 => exec_cxlRetrainTimeout_of_down⟩
  case passes =>
    intro s n hready hfree hpass
    rw [exec_iwinCommit_of_free hready hfree, if_pos hpass]
  case fails =>
    intro s n hready hfree hfail
    rw [exec_iwinCommit_of_free hready hfree, if_neg hfail]
    rfl

end Sys2Proof.Machine
end

section
/-! The canonical form of both memories along a step (R236). -/

namespace Sys2Proof.Machine

theorem memWf_iff {s : State} : s.memWf = true ↔ Memory.wf s.dmem = true ∧ tsorted s.hmem = true := by
  simp [State.memWf]

/-- What `Keeps` says of the memories: both stay in canonical form. -/
theorem Keeps.memWf {s t : State} (h : Keeps s t) (hwf : s.memWf = true) : t.memWf = true := by
  obtain ⟨-, -, -, -, -, hdmem, hhmem⟩ := h
  obtain ⟨hd, hh⟩ := memWf_iff.1 hwf
  exact memWf_iff.2 ⟨hdmem hd, hhmem hh⟩

/-- Settles O5: the invariant `Keeps`, proved for every arm of `exec`, read off for the memories. -/
theorem stepKeepsMemoryForm : Obligations.StepKeepsMemoryForm := by
  intro s t hwf hstep
  obtain ⟨t', ht', hkeeps⟩ := step_keeps s
  obtain rfl : t' = t := by simpa [ht'] using hstep
  exact hkeeps.memWf hwf

end Sys2Proof.Machine
end

section
/-! Host translations (R240 to R243): what the caches of the dies hold after an answer, and which accesses it lets go on or
ends. -/

namespace Sys2Proof.Machine

/-! ### The address translation caches of the dies (R240) -/

theorem find?_eraseP_of_disjoint {α : Type} {p q : α → Bool} (hdisj : ∀ x, q x = true → p x = false) (l : List α) :
    (l.eraseP p).find? q = l.find? q := by
  induction l with
  | nil => rfl
  | cons x l ih =>
    cases hp : p x with
    | false => simp [hp, ih, List.find?_cons]
    | true =>
      have hq : q x = false := Bool.eq_false_iff.2 fun hq => by rw [hdisj x hq] at hp; cases hp
      rw [List.eraseP_cons_of_pos hp, List.find?_cons_of_neg (Bool.eq_false_iff.1 hq)]

/-- A translation put into a die's cache replaces the one that the die held for its page. -/
theorem atsFind_atsPut_same (e : AtsEntry) (s : State) : atsFind (atsPut e s) e.die e.func e.pasid e.page = some e := by
  have hmiss : ∀ x ∈ s.ats.filter (fun x => !(x.die = e.die && x.func = e.func && x.pasid = e.pasid && x.page = e.page)),
      ¬ (x.die = e.die && x.func = e.func && x.pasid = e.pasid && x.page = e.page) = true := by
    intro x hx
    simpa only [Bool.not_eq_true', Bool.not_eq_true] using (List.mem_filter.1 hx).2
  simp only [atsFind, atsPut, List.find?_append]
  rw [List.find?_eq_none.2, Option.none_or]
  · simp
  · intro x hx
    split at hx
    · exact hmiss x (List.mem_of_mem_eraseP hx)
    · exact hmiss x hx

/-- A translation put into one die's cache leaves those of the other dies. -/
theorem atsFind_atsPut_ne {e : AtsEntry} {d : Nat} (hd : d ≠ e.die) (func pasid page : Nat) (s : State) :
    atsFind (atsPut e s) d func pasid page = atsFind s d func pasid page := by
  have hother : ∀ x : AtsEntry, (x.die = d && x.func = func && x.pasid = pasid && x.page = page) = true →
      decide (x.die = e.die) = false := by
    intro x hx
    simp only [Bool.and_eq_true, decide_eq_true_eq] at hx
    simp [hx.1.1.1, hd]
  have hlast : ¬ (e.die = d && e.func = func && e.pasid = pasid && e.page = page) = true := by simp [Ne.symm hd]
  have hrest : (s.ats.filter (fun x => !(x.die = e.die && x.func = e.func && x.pasid = e.pasid && x.page = e.page))).find?
      (fun x => x.die = d && x.func = func && x.pasid = pasid && x.page = page) = atsFind s d func pasid page := by
    rw [List.find?_filter, atsFind]
    congr 1
    funext x
    cases hx : (x.die = d && x.func = func && x.pasid = pasid && x.page = page) with
    | false => simp
    | true => simp [hother x hx]
  simp only [atsFind, atsPut, List.find?_append, List.find?_singleton, hlast, Bool.false_eq_true, if_false, Option.or_none]
  split
  · rw [find?_eraseP_of_disjoint hother, hrest, atsFind]
  · rw [hrest, atsFind]

/-- Once a translation has been put into the caches of some dies, each of them holds it. -/
theorem atsFind_foldl_atsPut (e : AtsEntry) (l : List Nat) {d : Nat} {s : State}
    (h : d ∈ l ∨ atsFind s d e.func e.pasid e.page = some { e with die := d }) :
    atsFind (l.foldl (fun s d => atsPut { e with die := d } s) s) d e.func e.pasid e.page = some { e with die := d } := by
  induction l generalizing s with
  | nil => simpa using h
  | cons x l ih =>
    apply ih
    by_cases hx : d = x
    · subst hx
      exact .inr (atsFind_atsPut_same { e with die := d } s)
    · rw [atsFind_atsPut_ne (e := { e with die := x }) hx]
      simpa [hx] using h

/-- Every die that waits for a translation holds it once it has arrived; where none waits, the active Ringmaster's does. -/
theorem atsFind_atsArrive {e : AtsEntry} {s : State} {d : Nat} (h : d ∈ diesOnHost s e.func e.pasid e.page ∨
      (diesOnHost s e.func e.pasid e.page = [] ∧ d = s.st.rmDie)) :
    atsFind (atsArrive e s) d e.func e.pasid e.page = some { e with die := d } := by
  refine atsFind_foldl_atsPut e _ (.inl ?_)
  rcases h with h | ⟨hnone, rfl⟩
  · have : (diesOnHost s e.func e.pasid e.page).isEmpty = false := by
      simpa using List.ne_nil_of_mem h
    simpa [this] using h
  · simp [hnone]

/-- The arrival of a translation changes the caches alone. -/
theorem atsArrive_frame (e : AtsEntry) (s : State) : ∃ l, atsArrive e s = { s with ats := l } := by
  have hfold : ∀ (ds : List Nat) (s : State), ∃ l,
      ds.foldl (fun s d => atsPut { e with die := d } s) s = { s with ats := l } := by
    intro ds
    induction ds with
    | nil => exact fun s => ⟨s.ats, rfl⟩
    | cons d ds ih => exact fun s => ih (atsPut { e with die := d } s)
  exact hfold _ s

/-! ### Accesses that wait on a host page -/

theorem retryPorts_of_noPorts {s : State} (h : s.mid.ports = []) : retryPorts s = s := by simp [retryPorts, h]

theorem failPorts_of_noPorts {test : PortReq → Who → Bool} {status : Nat} {s : State} (h : s.mid.ports = []) :
    failPorts test status s = s := by simp [failPorts, h]

theorem refuseTables_of_noWaits {test : Who → Nat → Bool} {s : State} (h : ∀ e ∈ s.groups, e.2.tableWait = none) :
    refuseTables test s = s := by
  have hnone : tablesWaiting s test = [] := by
    refine List.filterMap_eq_nil_iff.2 fun e he => ?_
    rw [h e he]
    split <;> simp_all
  simp [refuseTables, hnone]

theorem queuesOnHost_of_noQueues {s : State} (h : s.queues = []) (func pasid page : Nat) :
    queuesOnHost s func pasid page = [] := by simp [queuesOnHost, h]

/-- An operation that waits on a page goes on, and every other one stays as it is. -/
def wokenOnHost (func pasid page : Nat) (o : Op) : Op := if waitsOnHost func pasid page o then wake o else o

/-- Where only operations wait on a page, they are woken. -/
theorem retryHostPage_of_opsOnly {s : State} {func pasid page : Nat} (hqueues : queuesOnHost s func pasid page = [])
    (hports : s.mid.ports = []) : retryHostPage func pasid page s = wakeOps (waitsOnHost func pasid page) s := by
  simp only [retryHostPage, hqueues, List.foldl_nil]
  exact retryPorts_of_noPorts hports

theorem wakeOps_waitsOnHost_ops (func pasid page : Nat) (s : State) :
    (wakeOps (waitsOnHost func pasid page) s).ops = s.ops.map (wokenOnHost func pasid page) := by
  have hsusp : ∀ o : Op, (decide (o.phase = .suspended) && waitsOnHost func pasid page o) = waitsOnHost func pasid page o := by
    intro o
    simp [waitsOnHost, ← Bool.and_assoc]
  simp only [wakeOps, hsusp, freeSlots_ops]
  rfl

/-- An answer that permits every access that waits on the page ends nothing. -/
theorem refuseHostPage_of_permitted {s : State} {func pasid page : Nat} {rd wr : Bool}
    (hpermits : ∀ o ∈ s.ops, waitsOnHost func pasid page o = true → (if o.waitWrite then wr else rd) = true)
    (hqueues : queuesOnHost s func pasid page = []) (hports : s.mid.ports = [])
    (htables : ∀ e ∈ s.groups, e.2.tableWait = none) : refuseHostPage func pasid page rd wr s = s := by
  have hops : s.ops.filter (fun o => waitsOnHost func pasid page o && !(if o.waitWrite then wr else rd)) = [] := by
    refine List.filter_eq_nil_iff.2 fun o ho => ?_
    cases hwaits : waitsOnHost func pasid page o with
    | false => simp
    | true => simp [hpermits o ho hwaits]
  simp only [refuseHostPage, hops, List.map_nil, List.foldl_nil, hqueues, List.filter_nil, refuseTables_of_noWaits htables,
    ite_self, failPorts_of_noPorts hports]

/-- So the arrival of a translation that permits them all is all that happens. -/
theorem refuseHostPage_arrived (e : AtsEntry) {s : State}
    (hpermits : ∀ o ∈ s.ops, waitsOnHost e.func e.pasid e.page o = true → (if o.waitWrite then e.wr else e.rd) = true)
    (hqueues : queuesOnHost s e.func e.pasid e.page = []) (hports : s.mid.ports = [])
    (htables : ∀ g ∈ s.groups, g.2.tableWait = none) :
    refuseHostPage e.func e.pasid e.page e.rd e.wr (atsArrive e s) = atsArrive e s := by
  obtain ⟨l, hl⟩ := atsArrive_frame e s
  rw [hl]
  exact refuseHostPage_of_permitted (s := { s with ats := l }) hpermits hqueues hports htables

/-- What an operation that ends leaves beside the operations: everything that the accesses of others wait on. -/
theorem stopOp_fault_leaves {s : State} {tag : Nat} {o : Op} (st a : Nat) (write : Bool) (ho : findOp s tag = some o)
    (hmatmul : o.opc ≠ 0x10) (hconv : o.opc ≠ 0x12) (hstatus : o.result.status = 0) :
    ∃ t, stopOp tag (.fault st a) write s = t ∧ t.queues = s.queues ∧ t.groups = s.groups ∧ t.mid = s.mid ∧
      t.pris = s.pris ∧ t.dmem = s.dmem ∧ t.hmem = s.hmem ∧ t.time = s.time ∧
      t.ops = s.ops.map (fun x => if x.tag = tag then x.ended (stopWith st o.cursor a) else x) := by
  refine ⟨_, (stopOp_fault_of_noStatus st a write ho hmatmul hconv hstatus).1, ?_⟩
  have hdrop : ∀ u : State, dropHeld tag u = { u with tiles := (dropHeld tag u).tiles } := fun _ => rfl
  rw [hdrop]
  simp [recordStop, recordFault, endOp, updOp, leaveBuffers, freeSlots, Op.ended]

/-- Where one operation waits on a page and nothing else does, an answer that permits nothing ends it at its cursor, and leaves
everything else that waits on host pages (R242). -/
theorem failHostPage_of_onlyOp {s : State} {func pasid page : Nat} {o : Op} (honly : s.ops = [o])
    (hwaits : waitsOnHost func pasid page o = true) (hqueues : s.queues = []) (hports : s.mid.ports = [])
    (htables : ∀ e ∈ s.groups, e.2.tableWait = none) (hmatmul : o.opc ≠ 0x10) (hconv : o.opc ≠ 0x12)
    (hstatus : o.result.status = 0) :
    ∃ t, failHostPage func pasid page s = t ∧ t.pris = s.pris ∧ t.dmem = s.dmem ∧ t.hmem = s.hmem ∧ t.time = s.time ∧
      t.ops = [o.ended (stopWith 0x20 o.cursor o.faultAddr)] := by
  have hfound : findOp s o.tag = some o := by simp [findOp, honly]
  obtain ⟨t, hstop, htqueues, htgroups, htmid, htpris, htdmem, hthmem, httime, htops⟩ :=
    stopOp_fault_leaves 0x20 o.faultAddr false hfound hmatmul hconv hstatus
  have htnone : queuesOnHost t func pasid page = [] := queuesOnHost_of_noQueues (htqueues.trans hqueues) _ _ _
  have hfail : failHostPage func pasid page s = t := by
    simp only [failHostPage, refuseHostPage, honly, List.filter_cons, hwaits, ite_self, List.filter_nil, List.map_cons,
      List.map_nil, List.foldl_cons, List.foldl_nil, hstop, htnone, Bool.not_false, Bool.and_self, if_true,
      refuseTables_of_noWaits (htgroups ▸ htables), Bool.false_eq_true,
      failPorts_of_noPorts ((congrArg Midway.ports htmid).trans hports)]
  exact ⟨t, hfail, htpris, htdmem, hthmem, httime, by simp [htops, honly]⟩

/-- Where only operations wait on a page whose translation arrives, each die that waits holds it, and they go on (R240, R241). -/
theorem retryHostPage_atsArrive {e : AtsEntry} {s : State} (hqueues : queuesOnHost s e.func e.pasid e.page = [])
    (hports : s.mid.ports = []) : ∃ t, retryHostPage e.func e.pasid e.page (atsArrive e s) = t ∧
      (∀ d, d ∈ diesOnHost s e.func e.pasid e.page ∨ (diesOnHost s e.func e.pasid e.page = [] ∧ d = s.st.rmDie) →
        atsFind t d e.func e.pasid e.page = some { e with die := d }) ∧
      t.pris = s.pris ∧ t.dmem = s.dmem ∧ t.hmem = s.hmem ∧ t.outbox = s.outbox ∧
      t.ops = s.ops.map (wokenOnHost e.func e.pasid e.page) := by
  have hfind := fun d => atsFind_atsArrive (e := e) (s := s) (d := d)
  obtain ⟨l, hl⟩ := atsArrive_frame e s
  rw [hl] at hfind ⊢
  exact ⟨_, retryHostPage_of_opsOnly hqueues hports, hfind, rfl, rfl, rfl, rfl, wakeOps_waitsOnHost_ops _ _ _ _⟩

/-! ### The answers (R241 to R243) -/

theorem exec_translationCompletion_of_enabled {s : State} {f : Nat} (p page : Nat) (rd wr un : Bool)
    (hen : (getFunc s f).atsEnable = true) : exec (.translationCompletion f p page rd wr un) s =
      .next (retryHostPage f p page (atsArrive { func := f, pasid := p, page, rd, wr, untranslated := un } s)) := by
  have hop : exec (.translationCompletion f p page rd wr un) s = .next (if (getFunc s f).atsEnable then
      retryHostPage f p page (atsArrive { func := f, pasid := p, page, rd, wr, untranslated := un } s) else s) := rfl
  rw [hop, if_pos hen]

theorem sendHeldPri_of_none {s : State} (h : s.pris = []) (func : Nat) : sendHeldPri func s = s := by simp [sendHeldPri, h]

section OnlyPageRequest

variable {s : State} {r : PriReq} (honly : s.pris = [r]) (hsent : r.sent = true)

include honly hsent

theorem find_onlyPageRequest :
    s.pris.find? (fun x => x.func = r.func && x.pasid = r.pasid && x.page = r.page && x.sent) = some r := by
  simp [honly, hsent]

omit hsent in
theorem drop_onlyPageRequest : s.pris.filter (fun x => !decide (x = r)) = [] := by simp [honly]

theorem exec_priResponse_success (rd wr : Bool) : exec (.priResponse r.func r.pasid r.page 0 rd wr) s =
    .next (sendHeldPri r.func (retryHostPage r.func r.pasid r.page (refuseHostPage r.func r.pasid r.page rd wr
      (atsArrive { func := r.func, pasid := r.pasid, page := r.page, rd, wr }
        (emit (.atsRequest r.func r.pasid r.page r.wr) { s with pris := [] }))))) := by
  have hop : exec (.priResponse r.func r.pasid r.page 0 rd wr) s =
    .next (priAnswer r.func r.pasid r.page 0 rd wr s) := rfl
  rw [hop, priAnswer, find_onlyPageRequest honly hsent]
  simp only [drop_onlyPageRequest honly, if_true]

theorem exec_priResponse_invalid (rd wr : Bool) : exec (.priResponse r.func r.pasid r.page 1 rd wr) s =
    .next (sendHeldPri r.func (failHostPage r.func r.pasid r.page { s with pris := [] })) := by
  have hop : exec (.priResponse r.func r.pasid r.page 1 rd wr) s =
    .next (priAnswer r.func r.pasid r.page 1 rd wr s) := rfl
  rw [hop, priAnswer, find_onlyPageRequest honly hsent]
  simp only [drop_onlyPageRequest honly, Nat.one_ne_zero, if_false, if_true]

theorem exec_priResponse_failure {code : Nat} (hcode : 1 < code) (rd wr : Bool) :
    exec (.priResponse r.func r.pasid r.page code rd wr) s = .next (sendHeldPri r.func (failHostPage r.func r.pasid r.page
      (setFunc { s with pris := [] } r.func { getFunc s r.func with priStopped := true }))) := by
  have hop : exec (.priResponse r.func r.pasid r.page code rd wr) s =
    .next (priAnswer r.func r.pasid r.page code rd wr s) := rfl
  rw [hop, priAnswer, find_onlyPageRequest honly hsent]
  simp only [drop_onlyPageRequest honly, if_neg (Nat.ne_of_gt (Nat.lt_of_succ_lt hcode)), if_neg (Nat.ne_of_gt hcode),
    List.filter_nil, List.foldl_cons, List.foldl_nil]
  rfl

theorem exec_priTimeout_of_only : exec (.priTimeout r.func r.pasid r.page) s =
    .next (sendHeldPri r.func (failHostPage r.func r.pasid r.page (passTo r.deadline { s with pris := [] }))) := by
  have hop : exec (.priTimeout r.func r.pasid r.page) s = .next (priExpire r.func r.pasid r.page s) := rfl
  rw [hop, priExpire, find_onlyPageRequest honly hsent]
  simp only [drop_onlyPageRequest honly]

end OnlyPageRequest

/-- Settles O28: an answer that permits the accesses puts the translation into the caches and wakes them, and each other
answer ends the one that waits, or finds none. -/
theorem hostTranslations : Obligations.HostTranslations := by
  refine ⟨fun _ _ _ _ _ _ => rfl, ?completion, ?success, ?ends, ?failure⟩
  case completion =>
    intro s f p page rd wr un hen hqueues hports
    obtain ⟨t, ht, hfind, -, hdmem, hhmem, houtbox, hops⟩ := retryHostPage_atsArrive
      (e := { func := f, pasid := p, page, rd, wr, untranslated := un }) hqueues hports
    exact ⟨t, ht ▸ exec_translationCompletion_of_enabled p page rd wr un hen, hfind, hdmem, hhmem, houtbox, hops⟩
  case success =>
    intro s r rd wr honly hsent hpermits hqueues hports htables
    have hkept := refuseHostPage_arrived { func := r.func, pasid := r.pasid, page := r.page, rd, wr }
      (s := emit (.atsRequest r.func r.pasid r.page r.wr) { s with pris := [] }) hpermits hqueues hports htables
    obtain ⟨t, ht, hfind, hpris, hdmem, hhmem, houtbox, hops⟩ := retryHostPage_atsArrive
      (e := { func := r.func, pasid := r.pasid, page := r.page, rd, wr })
      (s := emit (.atsRequest r.func r.pasid r.page r.wr) { s with pris := [] }) hqueues hports
    refine ⟨t, ?_, hpris, houtbox, hdmem, hhmem, fun d hd => hfind d (.inl hd), hops⟩
    rw [exec_priResponse_success honly hsent, hkept, ht, sendHeldPri_of_none hpris]
  case ends =>
    intro c s r o rd wr honly hsent hops hwaits hqueues hports htables hmatmul hconv hstatus hc
    rcases hc with rfl | rfl
    · obtain ⟨t, ht, hpris, hdmem, hhmem, -, hended⟩ := failHostPage_of_onlyOp (s := { s with pris := [] }) hops hwaits
        hqueues hports htables hmatmul hconv hstatus
      refine ⟨t, ?_, hpris, hdmem, hhmem, nofun, hended⟩
      rw [exec_priResponse_invalid honly hsent, ht, sendHeldPri_of_none hpris]
    · obtain ⟨t, ht, hpris, hdmem, hhmem, htime, hended⟩ := failHostPage_of_onlyOp
        (s := passTo r.deadline { s with pris := [] }) (by simpa using hops) hwaits (by simpa using hqueues)
        (by simpa using hports) (by simpa using htables) hmatmul hconv hstatus
      have hnone : t.pris = [] := hpris.trans (by simp)
      refine ⟨t, ?_, hnone, hdmem.trans (by simp), hhmem.trans (by simp), fun _ haux => ?_, hended⟩
      · rw [exec_priTimeout_of_only honly hsent, ht, sendHeldPri_of_none hnone]
      · exact htime.trans (passTo_time_of_auxOn _ haux)
  case failure =>
    intro s r rd wr honly hsent hnone hqueues hports htables
    rw [exec_priResponse_failure honly hsent (by decide), failHostPage, refuseHostPage_of_permitted,
      sendHeldPri_of_none rfl]
    · rfl
    · simp [hnone]
    · exact queuesOnHost_of_noQueues hqueues _ _ _
    · exact hports
    · exact htables

end Sys2Proof.Machine
end

section
/-! Pre-emption, resumption and the copy of a context (R250 to R257): which unit gives way, what is saved of its work, and what
a tile gets back. -/

namespace Sys2Proof.Machine

/-! ### Which unit PREEMPT takes (R250) -/

/-- Whether PREEMPT names a unit by its operands (R250; log entry 24). -/
def RunUnit.named (p q : Nat) (stream : Bool) : RunUnit → Bool
  | .part a b => !stream && decide (a = p ∧ b = q)
  | .stream a => stream && decide (a = p)
  | .ring a _ => !stream && decide (a = p)
  | .engine k => decide (288 + k = p)

theorem exec_preempt (p q prio : Nat) (stream : Bool) (s : State) : exec (.preempt p q stream prio) s =
    .next (match (runUnits s).find? (fun u => u.1.named p q stream && givesWay prio s u) with
      | some u => giveWay u s
      | none => s) := rfl

theorem mem_runUnits_of_givesWay {prio : Nat} {s : State} {u : RunUnit × Nat} (h : givesWay prio s u = true) :
    u ∈ runUnits s := by
  simp only [givesWay, victims, Bool.and_eq_true] at h
  exact (List.mem_filter.1 (of_decide_eq_true h.1)).1

/-- PREEMPT takes a unit that runs work, and that its operands name, if one of them gives way. -/
theorem exec_preempt_of_givesWay {p q prio : Nat} {stream : Bool} {s : State} {u : RunUnit × Nat}
    (hgives : givesWay prio s u = true) (hnamed : u.1.named p q stream = true) :
    ∃ v ∈ runUnits s, v.1.named p q stream = true ∧ exec (.preempt p q stream prio) s = .next (giveWay v s) := by
  cases hfind : (runUnits s).find? (fun u => u.1.named p q stream && givesWay prio s u) with
  | none =>
    have := List.find?_eq_none.1 hfind u (mem_runUnits_of_givesWay hgives)
    simp [hgives, hnamed] at this
  | some v =>
    have hv : v.1.named p q stream = true := (Bool.and_eq_true _ _ ▸ List.find?_some hfind).1
    exact ⟨v, List.mem_of_find?_eq_some hfind, hv, by rw [exec_preempt, hfind]⟩

theorem exec_preempt_of_none {p q prio : Nat} {stream : Bool} {s : State} (h : ∀ u ∈ runUnits s, givesWay prio s u = false) :
    exec (.preempt p q stream prio) s = .next s := by
  have hfind : (runUnits s).find? (fun u => u.1.named p q stream && givesWay prio s u) = none :=
    List.find?_eq_none.2 fun u hu => by simp [h u hu]
  rw [exec_preempt, hfind]

/-! ### The units that run work -/

theorem mem_partUnits {s : State} {p : Nat} {u : RunUnit × Nat} (h : u ∈ partUnits s p) :
    (∃ q, u.1 = .part p q) ∨ ∃ g, u.1 = .ring p g ∧ ringAt s p ≠ none := by
  obtain ⟨q, -, rfl⟩ := List.mem_map.1 h
  cases hring : ringAt s p with
  | none => exact .inl ⟨q, rfl⟩
  | some r =>
    dsimp only
    split
    · exact .inr ⟨r.1, rfl, nofun⟩
    · exact .inl ⟨q, rfl⟩

/-- A unit that runs work is a partition, a stream run, a ring that holds its tile, or an engine that a part of its stack holds
(R144, R182, R250). -/
theorem mem_runUnits {s : State} {u : RunUnit × Nat} (h : u ∈ runUnits s) :
    (∃ p q, u.1 = .part p q) ∨ (∃ p, u.1 = .stream p) ∨ (∃ p g, u.1 = .ring p g ∧ ringAt s p ≠ none) ∨
      ∃ k, u.1 = .engine k ∧ u.2 ∈ floeParts s k := by
  rcases List.mem_append.1 h with h | h
  · obtain ⟨⟨p, t⟩, -, h⟩ := List.mem_flatMap.1 h
    rcases List.mem_append.1 h with h | h
    · rcases List.mem_append.1 h with h | h
      · rcases mem_partUnits h with ⟨q, hq⟩ | ⟨g, hg⟩
        · exact .inl ⟨p, q, hq⟩
        · exact .inr (.inr (.inl ⟨p, g, hg⟩))
      · split at h
        · exact .inr (.inl ⟨p, by simp [List.mem_singleton.1 h]⟩)
        · cases h
    · split at h
      next g r hring =>
        refine .inr (.inr (.inl ⟨p, g, by simp [List.mem_singleton.1 h], ?_⟩))
        simp [show ringAt s p = some (g, r) from hring]
      next => cases h
  · obtain ⟨⟨k, f⟩, -, h⟩ := List.mem_flatMap.1 h
    obtain ⟨tag, htag, rfl⟩ := List.mem_map.1 h
    exact .inr (.inr (.inr ⟨k, rfl, htag⟩))

/-! ### Giving way (R251, R254) -/

theorem keepContext_of_fits {p : Nat} {x : Context × Tile} {s : State} (h : contextFits s (p / 72) x.1 = true) :
    keepContext p x s = setTile { s with contexts := s.contexts ++ [x.1] } p x.2 := if_pos h

theorem keepContext_of_full {p : Nat} {x : Context × Tile} {s : State} (h : contextFits s (p / 72) x.1 = false) :
    keepContext p x s = record 0x0603 0x05 [] s := if_neg (by simp [h])

theorem named_stream {u : RunUnit} {p q : Nat} (hp : p < 288) (h : u.named p q true = true) : u = .stream p := by
  cases u <;> simp [RunUnit.named] at h
  case stream a => rw [h]
  case engine k => omega

theorem named_part {u : RunUnit} {p q : Nat} (hp : p < 288) (h : u.named p q false = true) :
    u = .part p q ∨ ∃ g, u = .ring p g := by
  cases u <;> simp [RunUnit.named] at h
  case part a b => exact .inl (by rw [h.1, h.2])
  case ring a g => exact .inr ⟨g, by rw [h]⟩
  case engine k => omega

/-- From 288 on a tile's number names no tile but the engines of a stack. -/
theorem named_engine {u : RunUnit} {k q : Nat} {stream : Bool}
    (htiles : ∀ p, u = .stream p ∨ (∃ q g, u = .part p q ∨ u = .ring p g) → p < 288)
    (h : u.named (288 + k) q stream = true) : u = .engine k := by
  cases u <;> simp [RunUnit.named] at h
  case part a b => have := htiles a (.inr ⟨b, 0, .inl rfl⟩); omega
  case stream a => have := htiles a (.inl rfl); omega
  case ring a g => have := htiles a (.inr ⟨0, g, .inr rfl⟩); omega
  case engine j => rw [h]

/-- The stream run of a tile gives way, to the context that `keepContext` keeps. -/
theorem exec_preempt_stream {s : State} {p prio tag : Nat} (q : Nat) (hp : p < 288)
    (hgives : givesWay prio s (.stream p, tag) = true) :
    exec (.preempt p q true prio) s = .next (keepContext p (takeStream s p) s) := by
  obtain ⟨⟨u, tag'⟩, -, hnamed, hexec⟩ := exec_preempt_of_givesWay (p := p) (q := q) (stream := true) hgives
    (by simp [RunUnit.named])
  obtain rfl : u = .stream p := named_stream hp hnamed
  exact hexec

/-- A partition of a tile that is in no ring gives way. -/
theorem exec_preempt_part {s : State} {p q prio tag : Nat} (hp : p < 288) (hring : ringAt s p = none)
    (hgives : givesWay prio s (.part p q, tag) = true) :
    exec (.preempt p q false prio) s = .next (keepContext p (takePart s p q) s) := by
  obtain ⟨⟨u, tag'⟩, hmem, hnamed, hexec⟩ := exec_preempt_of_givesWay (p := p) (q := q) (stream := false) hgives
    (by simp [RunUnit.named])
  rcases named_part hp hnamed with rfl | ⟨g, rfl⟩
  · exact hexec
  · rcases mem_runUnits hmem with ⟨_, _, h⟩ | ⟨_, h⟩ | ⟨_, _, h, hin⟩ | ⟨_, h, -⟩ <;> cases h
    exact absurd hring hin

/-- A part on an engine gives way to the state buffer of its stack, while that has room (R144). -/
theorem exec_preempt_engine {s : State} {k q prio tag : Nat} {stream : Bool}
    (htiles : ∀ u ∈ runUnits s, ∀ p, u.1 = .stream p ∨ (∃ q g, u.1 = .part p q ∨ u.1 = .ring p g) → p < 288)
    (hgives : givesWay prio s (.engine k, tag) = true) (hroom : (getFloe s k).buffer.length < 8) :
    ∃ tag' ∈ floeParts s k, exec (.preempt (288 + k) q stream prio) s =
      .next (setFloe s k { getFloe s k with buffer := (getFloe s k).buffer ++ [tag'] }) := by
  obtain ⟨⟨u, tag'⟩, hmem, hnamed, hexec⟩ := exec_preempt_of_givesWay (p := 288 + k) (q := q) (stream := stream) hgives
    (by simp [RunUnit.named])
  obtain rfl : u = .engine k := named_engine (htiles _ hmem) hnamed
  rcases mem_runUnits hmem with ⟨_, _, h⟩ | ⟨_, h⟩ | ⟨_, _, h, -⟩ | ⟨_, h, hpart⟩ <;> cases h
  exact ⟨tag', hpart, hexec.trans (congrArg _ (if_pos hroom))⟩

/-- A partition whose work has been taken: its accumulating block is discarded, and it is stopped (R94). -/
def Partn.stopped (x : Partn) : Partn := { x.mapBanks (fun b => if b.st = 1 then {} else b) with st := 2, held := [] }

theorem getPart_takePart (s : State) (p q : Nat) : getPart (takePart s p q).2 q = (getPart (getTile s p) q).stopped := by
  have hset := getPart_setPart (getTile s p) q (getPart (getTile s p) q).stopped
  simp only [takePart]
  split
  · exact hset
  · exact hset

theorem store_takePart (s : State) (p q : Nat) : (takePart s p q).2.store = (getTile s p).store := by
  simp only [takePart]
  split <;> rfl

/-! ### Resumption (R253, R254) -/

theorem exec_resume (i p : Nat) (readOk : Bool) (s : State) : exec (.resume i p readOk) s = .next (resumeOp i p readOk s) := rfl

/-- A context of a tile that is gone releases no partition. -/
theorem releasePart_of_gone {c : Context} {s : State} (hgone : physOf s c.tile = none) : releasePart c s = s := by
  simp only [releasePart, hgone]

section Resume

variable {s : State} {i : Nat} {c : Context} (hc : s.contexts[i]? = some c)
  (hfirst : firstToResume (fun x => x.faulted s) s.contexts i c = true) (hopen : c.faulted s = false)
  (hgone : physOf s c.tile = none)

include hc hfirst hopen hgone

/-- A context that can be read goes on where it is put, or waits where it does not fit. -/
theorem exec_resume_readable (p : Nat) : exec (.resume i p true) s =
    .next ((placeContext p c { s with contexts := s.contexts.eraseIdx i }).getD s) := by
  have hrelease := releasePart_of_gone (s := { s with contexts := s.contexts.eraseIdx i }) hgone
  simp only [exec_resume, resumeOp, hc, hfirst, hopen, hrelease, Bool.not_true, Bool.or_self, Bool.false_eq_true, if_false]
  cases placeContext p c { s with contexts := s.contexts.eraseIdx i } <;> rfl

/-- A context that cannot be read ends its operation with DATA_ERROR. -/
theorem exec_resume_unreadable {o : Op} (p : Nat) (ho : findOp s c.op = some o) (hphase : o.phase ≠ .done) :
    exec (.resume i p false) s =
      .next (endIssued c.op { status := 0x30, cursor := o.cursor } { s with contexts := s.contexts.eraseIdx i }) := by
  have hrelease := releasePart_of_gone (s := { s with contexts := s.contexts.eraseIdx i }) hgone
  have hfound : findOp { s with contexts := s.contexts.eraseIdx i } c.op = some o := ho
  simp only [exec_resume, resumeOp, hc, hfirst, hopen, hrelease, hfound, hphase, Bool.not_true, Bool.not_false, Bool.or_self,
    Bool.false_eq_true, if_false, if_true]
  rfl

end Resume

/-- A stream run takes an engine that is idle and has slots for its transfers, if its image finds room there (R112, R253). -/
theorem placeContext_of_stream {s : State} {p : Nat} {c : Context} {r : VecRun} (hpartn : c.partn = none) (hrun : c.run = some r)
    (hopen : c.faulted s = false) (hidle : (getTile s p).run.kind = 0)
    (hslots : (getTile s p).xfers.length + c.xfers.length ≤ 16) :
    placeContext p c s = if (loadImage s r.imgAddr r.imgTag (getTile s p)).holds r.imgAddr r.imgTag then
      some (setTile s p (placeSlots false c.xfers (loadImage s r.imgAddr r.imgTag
        { getTile s p with run := r, bank := Memory.writeN (getTile s p).bank r.winBase c.window }))) else none := by
  have hheld : ((findOp s c.op).map (fun o => decide (o.phase = .suspended))).getD false = false := hopen
  simp [placeContext, hpartn, hrun, hidle, hslots, hheld]

/-! ### The copy of a context (R257) -/

/-- The state as a write of DBG_CTX_CTRL leaves it before its copy runs. -/
def copyAsked (v : Nat) (s : State) : State :=
  { s with place := { s.place with
    ctxSel := setBits (bits v 0 20) 10 6 0, ctxDone := s.place.ctxDone && !bit v 29 } }

theorem exec_contextCopy (v : W32) (s : State) :
    exec (.contextCopy v) s = .next (if s.st.ready then contextCopyOp v.toNat s else s) := rfl

/-- A context that is written whole is DONE. -/
theorem runCopy_context_of_written {u s1 : State} {addr : Nat} {bs : List Byte}
    (hcopy : copyOut (copyWho 0x0500) (bs.length / 64 + 2) addr bs u = (none, s1)) :
    runCopy { kind := 2, addr, bytes := bs } u = { s1 with place := { s1.place with ctxDone := true, ctxNone := false } } := by
  have hwho : CopyWait.who { kind := 2, addr, bytes := bs } = copyWho 0x0500 := rfl
  simp [runCopy, hwho, hcopy, copyEnds]

section ContextCopy

variable {s : State} {v : W32} (hready : s.st.ready = true) (hgo : bit v.toNat 31 = true) (hfree : copyBusy s 2 = false)

include hready hgo hfree

theorem exec_contextCopy_of_unselected (hnone : selectContext s (bits v.toNat 0 20) = none) :
    exec (.contextCopy v) s = .next { s with
      place := { (copyAsked v.toNat s).place with ctxDone := true, ctxNone := true } } := by
  have hsel : selectContext (copyAsked v.toNat s) (bits v.toNat 0 20) = none := hnone
  simp only [copyAsked] at hsel
  simp only [exec_contextCopy, hready, contextCopyOp, hgo, hfree, hsel, Bool.not_false, Bool.and_self, if_true]
  rfl

/-- A selected context whose bytes can all be written is DONE. -/
theorem exec_contextCopy_of_written {s1 s2 : State} {c : Context} {bs : List Byte}
    (hsel : selectContext s (bits v.toNat 0 20) = some c) (hbytes : contextBytes c (copyAsked v.toNat s) = (bs, s1))
    (hcopy : copyOut (copyWho 0x0500) (bs.length / 64 + 2) s1.place.ctxAddr bs s1 = (none, s2)) :
    exec (.contextCopy v) s = .next { s2 with place := { s2.place with ctxDone := true, ctxNone := false } } := by
  have hsel' : selectContext (copyAsked v.toNat s) (bits v.toNat 0 20) = some c := hsel
  simp only [copyAsked] at hsel' hbytes
  simp only [exec_contextCopy, hready, contextCopyOp, hgo, hfree, hsel', hbytes, Bool.not_false, Bool.and_self, if_true,
    runCopy_context_of_written hcopy]

end ContextCopy

/-- Settles O38: the named unit gives way to what `keepContext` or a state buffer keeps, a context goes on where `placeContext`
puts it, and a copy writes what it selects. -/
theorem savedContexts : Obligations.SavedContexts := by
  refine ⟨?stream, ?part, ?engine, fun s p q prio stream => exec_preempt_of_none, ?resumes, ?unreadable, ?unselected, ?copied⟩
  case stream =>
    rintro s p q prio tag _ hp hgives rfl
    have hexec := exec_preempt_stream q hp hgives
    exact ⟨fun h => hexec.trans (congrArg _ (keepContext_of_fits h)),
      fun h => hexec.trans (congrArg _ (keepContext_of_full h)), rfl, rfl, rfl⟩
  case part =>
    rintro s p q prio tag _ hp hring hgives rfl
    have hexec := exec_preempt_part hp hring hgives
    refine ⟨fun h => hexec.trans (congrArg _ (keepContext_of_fits h)),
      fun h => hexec.trans (congrArg _ (keepContext_of_full h)), rfl, rfl, rfl, ?_, ?_, store_takePart s p q⟩
    · rw [getPart_takePart]; rfl
    · rw [getPart_takePart]; rfl
  case engine =>
    intro s k q prio tag stream _ htiles hgives hroom
    exact exec_preempt_engine htiles hgives hroom
  case resumes =>
    rintro s i p c r _ hc hfirst hopen _ hpartn hrun rfl hidle hgone hslots
    have hplace := placeContext_of_stream (s := { s with contexts := s.contexts.eraseIdx i }) hpartn hrun hopen hidle hslots
    have hexec := exec_resume_readable hc hfirst hopen hgone p
    refine ⟨_, _, rfl, rfl, fun hholds => ?_, fun hholds => ?_⟩
    · rw [hexec, hplace]
      exact congrArg (fun x => Host.Outcome.next (Option.getD x s)) (if_pos hholds)
    · rw [hexec, hplace]
      exact congrArg (fun x => Host.Outcome.next (Option.getD x s)) (if_neg (Bool.eq_false_iff.1 hholds))
  case unreadable =>
    intro s i p c o hc hfirst hopen hgone ho hphase
    exact exec_resume_unreadable hc hfirst hopen hgone p ho hphase
  case unselected =>
    intro s v hready hgo hnone hfree
    have hsel : selectContext s (bits v.toNat 0 20) = none := by simp [selectContext, hnone]
    exact ⟨_, exec_contextCopy_of_unselected hready hgo hfree hsel, rfl, rfl⟩
  case copied =>
    rintro s _ s1 s2 v c bs hready hgo hfree hsel rfl hbytes hcopy
    exact exec_contextCopy_of_written hready hgo hfree hsel hbytes hcopy

end Sys2Proof.Machine
end

section
/-! Host pages (R240 to R242): the translations that the dies hold and the page requests that stand, and the shared operations
that leave both as they are. -/

namespace Sys2Proof.Machine

/-- The translations that the dies hold and the page requests that stand (R240 to R242). -/
def State.hostPages (s : State) : List AtsEntry × List PriReq := (s.ats, s.pris)

theorem hostPages_foldl {β : Type} {f : State → β → State} (hf : ∀ s b, (f s b).hostPages = s.hostPages) (l : List β)
    (s : State) : (l.foldl f s).hostPages = s.hostPages := by
  induction l generalizing s with
  | nil => rfl
  | cons b l ih => rw [List.foldl_cons, ih, hf]

theorem hostPages_congr {s t : State} (hats : t.ats = s.ats) (hpris : t.pris = s.pris) : t.hostPages = s.hostPages := by
  rw [State.hostPages, hats, hpris, State.hostPages]

theorem hostPages_record (code src : Nat) (payload : List Byte) (s : State) :
    (record code src payload s).hostPages = s.hostPages := by simp only [State.hostPages, record_ats, record_pris]

@[simp] theorem hostPages_setTrn (t : Nat) (x : Turnstile) (s : State) : (setTrn s t x).hostPages = s.hostPages :=
  hostPages_congr rfl rfl
@[simp] theorem hostPages_setLink (l : Nat) (x : CascLink) (s : State) : (setLink s l x).hostPages = s.hostPages :=
  hostPages_congr rfl rfl
@[simp] theorem hostPages_emit (o : Out) (s : State) : (emit o s).hostPages = s.hostPages := hostPages_congr rfl rfl
@[simp] theorem hostPages_updOp (tag : Nat) (f : Op → Op) (s : State) : (updOp tag f s).hostPages = s.hostPages :=
  hostPages_congr rfl rfl
@[simp] theorem hostPages_endOp (tag : Nat) (r : Result) (s : State) : (endOp tag r s).hostPages = s.hostPages :=
  hostPages_congr (endOp_ats tag r s) (endOp_pris tag r s)
@[simp] theorem hostPages_updTile (p : Nat) (f : Tile → Tile) (s : State) : (updTile p f s).hostPages = s.hostPages :=
  hostPages_congr rfl rfl
@[simp] theorem hostPages_dropLocks (tag : Nat) (s : State) : (dropLocks tag s).hostPages = s.hostPages :=
  hostPages_congr rfl rfl
@[simp] theorem hostPages_freeParts (tag : Nat) (s : State) : (freeParts tag s).hostPages = s.hostPages :=
  hostPages_congr rfl rfl
@[simp] theorem hostPages_dropParts (tag mask : Nat) (s : State) : (dropParts tag mask s).hostPages = s.hostPages :=
  hostPages_congr rfl rfl
@[simp] theorem hostPages_markLate (o : Op) (s : State) : (markLate o s).hostPages = s.hostPages :=
  hostPages_congr rfl rfl

/-! ### Messages to other devices (R331, R333, R335) -/

theorem hostPages_sendFlit (l ftype : Nat) (m : Option TxMsg) (s : State) : (sendFlit l ftype m s).hostPages = s.hostPages := by
  simp only [sendFlit, hostPages_emit, hostPages_setLink]

theorem hostPages_pumpLink (l n : Nat) (s : State) : (pumpLink l n s).hostPages = s.hostPages := by
  induction n generalizing s with
  | zero => rfl
  | succ n ih =>
    simp only [pumpLink]
    split
    next => rfl
    next =>
      split
      next => rw [ih, hostPages_sendFlit, hostPages_setLink]
      next => rfl

theorem hostPages_msgSlot (src dst seq : Nat) (m : CascMsg) (s : State) :
    (msgSlot src dst seq m s).2.hostPages = s.hostPages := by
  simp only [msgSlot]
  split <;> rfl

theorem hostPages_sendCasc (dev : Nat) (m : CascMsg) (s : State) : (sendCasc dev m s).hostPages = s.hostPages := by
  simp only [sendCasc, queueMsg]
  rw [hostPages_pumpLink, hostPages_setLink, hostPages_emit]
  exact (hostPages_congr rfl rfl).trans (hostPages_msgSlot _ _ _ m s)

/-! ### Turnstiles (R296 to R301) -/

theorem hostPages_releaseWaiter (w : Waiter) (s : State) : (releaseWaiter w s).hostPages = s.hostPages := by
  unfold releaseWaiter
  split
  next => exact hostPages_sendCasc ..
  next => split <;> simp

theorem hostPages_completeTrn (t : Nat) (s : State) : (completeTrn t s).hostPages = s.hostPages := by
  have hreleased (l : List Waiter) (s : State) : (l.foldl (fun s w => releaseWaiter w s) s).hostPages = s.hostPages :=
    hostPages_foldl (fun s w => hostPages_releaseWaiter w s) l s
  simp only [completeTrn]
  split
  next => rw [hostPages_foldl fun s d => hostPages_sendCasc d _ s, hreleased, hostPages_setTrn]
  next => rw [hreleased, hostPages_setTrn]

theorem hostPages_arriveOne (t : Nat) (s : State) : (arriveOne t s).hostPages = s.hostPages := by
  simp only [arriveOne, recount]
  split
  next => simp [hostPages_completeTrn]
  next => simp

theorem hostPages_arriveMany (t n : Nat) (s : State) : (arriveMany t n s).2.hostPages = s.hostPages := by
  induction n generalizing s with
  | zero => rfl
  | succ n ih =>
    cases n with
    | zero => exact hostPages_arriveOne t s
    | succ n => exact (ih _).trans (hostPages_arriveOne t s)

theorem hostPages_enterWaiter (t : Nat) (w : Waiter) (s : State) : (enterWaiter t w s).hostPages = s.hostPages := by
  simp only [enterWaiter]
  split
  next => rw [hostPages_record, hostPages_setTrn]
  next => exact hostPages_setTrn ..

theorem hostPages_registerWaiter (t : Nat) (w : Waiter) (s : State) : (registerWaiter t w s).hostPages = s.hostPages := by
  simp only [registerWaiter]
  split
  next => exact hostPages_congr rfl rfl
  next => exact hostPages_enterWaiter t w s

theorem hostPages_countFor (t : Nat) (w : Waiter) (s : State) : (countFor t w s).hostPages = s.hostPages := by
  simp only [countFor]
  split
  next =>
    unfold waitAt
    split
    next => exact (hostPages_releaseWaiter _ _).trans (hostPages_arriveMany t w.n s)
    next => exact (hostPages_registerWaiter _ _ _).trans (hostPages_arriveMany t w.n s)
  next => exact (hostPages_releaseWaiter _ _).trans (hostPages_arriveMany t w.n s)

theorem hostPages_settleTrn (t n : Nat) (s : State) : (settleTrn t n s).hostPages = s.hostPages := by
  induction n generalizing s with
  | zero => rfl
  | succ n ih =>
    simp only [settleTrn]
    split
    next => rfl
    next => rw [ih, hostPages_countFor, hostPages_setTrn]

theorem hostPages_admitHeld (n : Nat) (s : State) : (admitHeld n s).hostPages = s.hostPages := by
  induction n generalizing s with
  | zero => rfl
  | succ n ih =>
    simp only [admitHeld]
    split
    next => rfl
    next t w rest _ =>
      split
      next => exact ih _
      next =>
        split
        next => rfl
        next =>
          refine (ih _).trans ?_
          split
          next =>
            split
            next => exact hostPages_enterWaiter t w _
            next => exact (hostPages_settleTrn t _ _).trans (hostPages_countFor t w _)
          next =>
            split
            next => exact hostPages_releaseWaiter w _
            next => exact hostPages_enterWaiter t w _

theorem hostPages_letIn (s : State) : (letIn s).hostPages = s.hostPages := by
  unfold letIn
  split
  next => rfl
  next => exact hostPages_admitHeld _ s

/-! ### An operation that leaves (R96, R345) -/

theorem hostPages_collLeave (o : Op) (s : State) : (collLeave o s).hostPages = s.hostPages := by
  have htold (s : State) : (tellMembers o 1 0 [] o.result.status s).hostPages = s.hostPages :=
    hostPages_foldl (fun s d => hostPages_sendCasc d _ s) _ s
  have hforgot : (if o.gen = 3 then s else dropParts o.collTag o.memberMask (markLate o s)).hostPages = s.hostPages := by
    split <;> simp
  simp only [collLeave]
  split
  next => rfl
  next =>
    split
    next => exact hostPages_dropParts ..
    next =>
      split
      next => exact hforgot
      next => exact (htold _).trans hforgot

theorem hostPages_runFlags (name : Nat) (r : VecRun) (whole : Bool) (s : State) :
    (runFlags name r whole s).hostPages = s.hostPages := hostPages_congr rfl rfl

theorem hostPages_killRuns (tag : Nat) (s : State) : (killRuns tag s).hostPages = s.hostPages := by
  simp only [killRuns]
  refine ((hostPages_congr rfl rfl).trans (hostPages_foldl (fun s c => ?context) _ _)).trans
    (hostPages_foldl (fun s e => ?tile) _ s)
  case context =>
    split
    next =>
      split
      next => exact hostPages_runFlags ..
      next => rfl
    next => rfl
  case tile =>
    rw [hostPages_updTile]
    split
    next => exact hostPages_runFlags ..
    next => rfl

theorem hostPages_letGo (o : Op) (s : State) : (letGo o s).hostPages = s.hostPages := calc
  (letGo o s).hostPages = (freeParts o.tag (dropLocks o.tag (killRuns o.tag (collLeave o s)))).hostPages :=
    hostPages_congr rfl rfl
  _ = s.hostPages := by rw [hostPages_freeParts, hostPages_dropLocks, hostPages_killRuns, hostPages_collLeave]

theorem hostPages_dropOp (tag : Nat) (s : State) : (dropOp tag s).hostPages = s.hostPages := by
  simp only [dropOp, releaseImages]
  split
  next => rfl
  next o _ =>
    rw [← hostPages_letGo o s]
    exact hostPages_congr rfl rfl

/-! ### Memory that is backed, and written by the Ringmaster (R203, R236, R290) -/

theorem hostPages_zeroPhys (a n : Nat) (s : State) : (zeroPhys a n s).hostPages = s.hostPages :=
  hostPages_congr (zeroPhys_ats a n s) (zeroPhys_pris a n s)

theorem hostPages_writeLine (a : Nat) (bs : List Byte) (s : State) : (writeLine a bs s).hostPages = s.hostPages :=
  hostPages_congr (writeLine_ats a bs s) (writeLine_pris a bs s)

theorem hostPages_zeroRuns (rs : List PRange) (s : State) : (zeroRuns rs s).hostPages = s.hostPages := by
  rw [zeroRuns, hostPages_foldl fun s (p : PRange) => hostPages_zeroPhys p.phys p.len s]

theorem hostPages_putRuns (asid lo hi : Nat) (rs : List PRange) (s : State) :
    (putRuns asid lo hi rs s).hostPages = s.hostPages := hostPages_congr rfl rfl

theorem hostPages_of_backOne {bs : List Backing} {p : PRange} {s t : State} (h : backOne bs p s = some t) :
    t.hostPages = s.hostPages := by
  simp only [backOne] at h
  split at h
  next =>
    obtain rfl := Option.some.inj h
    rw [hostPages_zeroRuns, hostPages_putRuns]
  next =>
    split at h
    next => exact absurd h nofun
    next =>
      obtain ⟨_, _, rfl⟩ := Option.map_eq_some_iff.1 h
      rw [hostPages_zeroRuns, hostPages_putRuns]

theorem hostPages_of_backRuns {asid va : Nat} {one : Bool} {rs : List PRange} {r : Option State} {t : State}
    (h : rs.foldl (fun acc p => acc.bind (fun s => backOne (backingsFor s asid va one) p s)) r = some t) :
    ∃ s, r = some s ∧ t.hostPages = s.hostPages := by
  induction rs generalizing r with
  | nil => exact ⟨t, h, rfl⟩
  | cons p rs ih =>
    obtain ⟨s1, hs1, ht⟩ := ih h
    obtain ⟨s, hs, hp⟩ := Option.bind_eq_some_iff.1 hs1
    exact ⟨s, hs, ht.trans (hostPages_of_backOne hp)⟩

theorem hostPages_of_backRegion {asid va : Nat} {one : Bool} {s t : State} (h : backRegion asid va one s = some t) :
    t.hostPages = s.hostPages := by
  simp only [backRegion] at h
  split at h
  next =>
    split at h
    next =>
      split at h
      next =>
        obtain ⟨_, _, rfl⟩ := Option.map_eq_some_iff.1 h
        rw [hostPages_zeroRuns, hostPages_putRuns]
      next => exact absurd h nofun
    next =>
      obtain ⟨s0, hs0, ht⟩ := hostPages_of_backRuns h
      obtain rfl := Option.some.inj hs0
      exact ht
  next => exact absurd h nofun

theorem hostPages_endMigration (m : Migration) (s : State) : (endMigration m s).hostPages = s.hostPages :=
  hostPages_congr rfl rfl

theorem hostPages_cancelMigration (m : Migration) (s : State) : (cancelMigration m s).hostPages = s.hostPages := by
  rw [cancelMigration, hostPages_endMigration, hostPages_foldl fun s x => hostPages_endMigration x s]

theorem hostPages_installMigration (m : Migration) (s : State) : (installMigration m s).hostPages = s.hostPages := by
  have hopen (u : State) : (unreadLines m u).hostPages = u.hostPages := by
    rw [unreadLines, hostPages_foldl]
    exact fun _ _ => hostPages_congr rfl rfl
  have hmoved : (wholeLines m.new (2 ^ 21) (movePhys m.old m.new (2 ^ 21) s)).hostPages = s.hostPages :=
    hostPages_congr rfl rfl
  simp only [installMigration]
  exact (hostPages_congr rfl rfl).trans ((hopen _).trans hmoved)

theorem hostPages_finishMigration (m : Migration) (s : State) : (finishMigration m s).hostPages = s.hostPages := by
  simp only [finishMigration]
  split
  next => exact hostPages_cancelMigration _ s
  next => rw [hostPages_installMigration, hostPages_foldl fun s x => hostPages_installMigration x s]

theorem hostPages_of_resolveTouch {w : Who} {e : Stop} {s t : State} (h : resolveTouch w e s = .ok t) :
    t.hostPages = s.hostPages := by
  unfold resolveTouch at h
  split at h
  next =>
    split at h
    next m _ =>
      obtain rfl := Except.ok.inj h
      exact hostPages_finishMigration m s
    next => exact absurd h nofun
  next =>
    split at h
    next hback =>
      obtain rfl := Except.ok.inj h
      exact hostPages_of_backRegion hback
    next => exact absurd h nofun
  next => exact absurd h nofun

theorem hostPages_storeV (w : Who) (n addr : Nat) (bs : List Byte) (s : State) :
    (storeV w n addr bs s).hostPages = s.hostPages := by
  induction n generalizing addr bs s with
  | zero => rfl
  | succ n ih =>
    simp only [storeV]
    split
    next => rfl
    next =>
      rw [ih]
      split
      next => exact hostPages_writeLine ..
      next => exact hostPages_congr rfl rfl
      next => rfl

theorem hostPages_of_writeV {w : Who} {addr : Nat} {bs : List Byte} {s t : State} (h : writeV w addr bs s = .ok t) :
    t.hostPages = s.hostPages := by
  unfold writeV at h
  split at h
  next => exact absurd h nofun
  next =>
    obtain rfl := Except.ok.inj h
    exact hostPages_storeV ..

theorem hostPages_writeRM (w : Who) (addr : Nat) (bs : List Byte) (n : Nat) (s : State) :
    (writeRM w addr bs n s).2.hostPages = s.hostPages := by
  induction n generalizing s with
  | zero =>
    rw [writeRM]
    split
    next hwrite => exact hostPages_of_writeV hwrite
    next => rfl
  | succ n ih =>
    rw [writeRM]
    split
    next hwrite => exact hostPages_of_writeV hwrite
    next =>
      split
      next hres => exact (ih _).trans (hostPages_of_resolveTouch hres)
      next => rfl

theorem hostPages_zeroPage (s : State) (va : Nat) : (zeroPage s va).hostPages = s.hostPages := by
  unfold zeroPage
  split
  next => exact hostPages_zeroPhys ..
  next => exact hostPages_writeRM ..

theorem hostPages_setQueue (s : State) (q : Nat) (x : Queue) : (setQueue s q x).hostPages = s.hostPages :=
  hostPages_congr rfl rfl

theorem hostPages_setGroup (s : State) (g : Nat) (x : Group) : (setGroup s g x).hostPages = s.hostPages :=
  hostPages_congr rfl rfl

theorem hostPages_prepareDefault (s : State) : (prepareDefault s).hostPages = s.hostPages := by
  have hcleared : ((List.range 64).foldl (fun s q => setQueue s q {}) (setGroup s 0 (groupReset 0))).hostPages = s.hostPages := by
    rw [hostPages_foldl fun s q => hostPages_setQueue s q {}, hostPages_setGroup]
  simp only [prepareDefault]
  rw [hostPages_setQueue, hostPages_writeRM, hostPages_foldl hostPages_zeroPage]
  split
  next hback => rw [hostPages_of_backRegion hback, hcleared]
  next => exact hcleared

end Sys2Proof.Machine
end

section
/-! Resets of the host interface (R267, R417, R421): what a function-level reset leaves of the host pages, and how the link trains
again. -/

namespace Sys2Proof.Machine

/-! ### The reset of a function (R267, R293, R362) -/

theorem hostPages_stopGroup (g : Nat) (s : State) : (stopGroup g s).hostPages = s.hostPages := hostPages_setGroup ..

theorem hostPages_endHints (func : Nat) (s : State) : (endHints func s).hostPages = s.hostPages := by
  simp only [endHints]
  rw [hostPages_foldl]
  · exact hostPages_congr rfl rfl
  · exact fun _ _ => hostPages_congr rfl rfl

theorem hostPages_unbindFunc (func : Nat) (s : State) : (unbindFunc func s).hostPages = s.hostPages := by
  refine hostPages_foldl (fun s e => ?_) _ s
  split
  next => exact hostPages_congr rfl rfl
  next => rfl

theorem hostPages_setFunc (s : State) (f : Nat) (x : PciFunc) : (setFunc s f x).hostPages = s.hostPages :=
  hostPages_congr rfl rfl

/-- The reset of a function takes its own host pages; the end of its descriptors, its groups and its Turnstiles takes none. -/
theorem functionReset_hostPages (func : Nat) (s : State) : (functionReset func s).hostPages =
    (s.ats.filter (fun e => e.func != func), s.pris.filter (fun e => e.func != func)) := by
  unfold functionReset
  extract_lets mine tags s1 s2 quiet fresh place s3 f s4
  have hs1 : s1.hostPages = s.hostPages := hostPages_foldl (fun s t => hostPages_dropOp t s) tags s
  have hs2 : s2.hostPages = s1.hostPages := by
    refine hostPages_foldl (fun s g => ?_) _ s1
    split
    next => exact hostPages_stopGroup g s
    next => rfl
  have hs3 : s3.hostPages = (s2.ats.filter (fun e => e.func != func), s2.pris.filter (fun e => e.func != func)) :=
    (hostPages_unbindFunc func _).trans (hostPages_endHints func _)
  have hs4 : s4.hostPages = s3.hostPages := (hostPages_letIn _).trans (hostPages_setFunc _ _ _)
  have hkept : (s2.ats, s2.pris) = (s.ats, s.pris) := hs2.trans hs1
  obtain ⟨hats, hpris⟩ := Prod.mk.inj hkept
  rw [← hats, ← hpris, ← hs3, ← hs4]
  split
  next => exact hostPages_prepareDefault s4
  next => rfl

theorem exec_functionLevelReset {s : State} {f : Nat} (hstandby : s.st.standbyDone = true) (hf : funcEnabled s f = true) :
    exec (.functionLevelReset f) s = .next (functionReset f s) :=
  congrArg Host.Outcome.next (if_pos (by rw [hstandby, hf]; rfl))

theorem exec_hotReset {s : State} (hstandby : s.st.standbyDone = true) : exec .hotReset s = .next (hostReset s) :=
  congrArg Host.Outcome.next (if_pos hstandby)

theorem exec_perstDeassert {s : State} (hperst : s.st.perst = true) (hrails : s.st.railsOn = true)
    (hstandby : s.st.standbyDone = true) : exec .perstDeassert s =
      .next { s with st := { s.st with perst := false }, link := { s.link with training := true } } := by
  have hop : exec .perstDeassert s = .next { s with
    st := { s.st with perst := false }
    link := if s.st.perst && s.st.railsOn && s.st.standbyDone then { s.link with training := true } else s.link } := rfl
  rw [hop, hperst, hrails, hstandby]
  rfl

/-- Settles O13: the link's training by what the reset was given; a function-level reset by what it leaves of the host's pages. -/
theorem hostInterfaceResets : Obligations.HostInterfaceResets := by
  refine ⟨fun s => exec_perstDeassert, ?hot, ?function⟩
  case hot =>
    intro s hstandby
    refine ⟨hostReset s, exec_hotReset hstandby, rfl, ?_⟩
    simp only [hostReset, hstandby, Bool.and_true, satAdd]
  case function =>
    intro s f hstandby hf
    obtain ⟨hats, hpris⟩ := Prod.mk.inj (functionReset_hostPages f s)
    exact ⟨functionReset f s, exec_functionLevelReset hstandby hf, hats, hpris⟩

end Sys2Proof.Machine
end

section
/-! Doorbells (R270): why one is dropped, in the order of its checks, and what one that is taken stores. -/

namespace Sys2Proof.Machine

section Doorbell

variable {s : State} {func q size why : Nat}

theorem exec_submissionDoorbell (v : W64) (hstandby : s.st.standbyDone = true) :
    exec (.submissionDoorbell func q size v) s = .next (doorbellOp func q size v.toNat s) :=
  congrArg Host.Outcome.next (if_pos hstandby)

theorem exec_completionHeadDoorbell (v : W64) (hstandby : s.st.standbyDone = true) :
    exec (.completionHeadDoorbell func q size v) s = .next (doorbellOp func q size v.toNat s) :=
  congrArg Host.Outcome.next (if_pos hstandby)

theorem doorbellOp_of_fault {v : Nat} (h : doorbellFault s func q size v = some why) :
    doorbellOp func q size v s =
      { s with dropped := { reason := why, queue := q, count := min (2 ^ 32 - 1) (s.dropped.count + 1) } } := by
  simp only [doorbellOp, h, dropDoorbell, satAdd]

theorem doorbellOp_tail {v : Nat} (h : doorbellFault s func q size v = none) (hkind : bit v 63 = false) :
    doorbellOp func q size v s = setQueue s q { getQueue s q with tail := bits v 0 32 } := by
  simp only [doorbellOp, h, hkind, Bool.false_eq_true, if_false]

theorem doorbellOp_head {v : Nat} (h : doorbellFault s func q size v = none) (hkind : bit v 63 = true) :
    doorbellOp func q size v s = setQueue s q { getQueue s q with cqHead := bits v 0 32 } := by
  simp only [doorbellOp, h, hkind, if_true]

/-- A doorbell of another size is dropped before anything else is looked at. -/
theorem doorbellFault_of_size {v : Nat} (hsize : size ≠ 8) : doorbellFault s func q size v = some 3 := by
  simp only [doorbellFault, if_pos (Or.inl hsize : size ≠ 8 ∨ bits v 48 15 ≠ 0)]

variable {v : Nat} (hreserved : bits v 48 15 = 0)

include hreserved

/-- A doorbell of another function is dropped whatever the state of the queue. -/
theorem doorbellFault_of_otherFunc (hfunc : bindFunc (getGroup s (groupOf q)).active.bind ≠ func) :
    doorbellFault s func q 8 v = some 2 := by
  simp [doorbellFault, hreserved, hfunc]

variable (hfunc : bindFunc (getGroup s (groupOf q)).active.bind = func)

include hfunc

theorem doorbellFault_of_disabled (hqueue : (getQueue s q).entry.enable = false) : doorbellFault s func q 8 v = some 1 := by
  simp [doorbellFault, hreserved, hfunc, hqueue]

variable (hready : s.st.ready = true) (hbind : bindEnable (getGroup s (groupOf q)).active.bind = true)
  (hd0 : (getFunc s func).d3hot = false) (henable : (getQueue s q).entry.enable = true) (hruns : (getQueue s q).stopped = false)

include hready hbind hd0 henable hruns

theorem doorbellFault_of_otherEpoch (hepoch : bits v 32 16 ≠ (getQueue s q).entry.epoch) :
    doorbellFault s func q 8 v = some 0 := by
  simp [doorbellFault, hreserved, hfunc, hready, hbind, hd0, henable, hruns, hepoch]

variable (hepoch : bits v 32 16 = (getQueue s q).entry.epoch)

include hepoch

theorem doorbellFault_tail (hkind : bit v 63 = false) (hindex : bits v 0 32 < 2 ^ (getQueue s q).entry.sqLog2) :
    doorbellFault s func q 8 v = none := by
  simp [doorbellFault, hreserved, hfunc, hready, hbind, hd0, henable, hruns, hepoch, hkind, hindex]

theorem doorbellFault_head (hkind : bit v 63 = true) (hindex : bits v 0 32 < 2 ^ (getQueue s q).entry.cqLog2)
    (hwritten : (bits v 0 32 + 2 ^ (getQueue s q).entry.cqLog2 - (getQueue s q).cqHead) % 2 ^ (getQueue s q).entry.cqLog2 ≤
      cqUsed (getQueue s q)) : doorbellFault s func q 8 v = none := by
  simp [doorbellFault, hreserved, hfunc, hready, hbind, hd0, henable, hruns, hepoch, hkind, hindex, hwritten]

end Doorbell

/-- Settles O23: a doorbell is taken or dropped by the first of R270's reasons that it meets. -/
theorem doorbells : Obligations.Doorbells := by
  refine ⟨?taken, ?dropped⟩
  case taken =>
    intro s func q v hstandby hready hfunc hbind hd0 henable hruns hreserved hepoch
    refine ⟨fun hkind hindex => ?_, fun hkind hindex hwritten => ?_⟩
    · have hfault := doorbellFault_tail hreserved hfunc hready hbind hd0 henable hruns hepoch hkind hindex
      rw [exec_submissionDoorbell v hstandby, doorbellOp_tail hfault hkind]
    · have hfault := doorbellFault_head hreserved hfunc hready hbind hd0 henable hruns hepoch hkind hindex hwritten
      rw [exec_completionHeadDoorbell v hstandby, doorbellOp_head hfault hkind]
  case dropped =>
    intro c s func q size why v hstandby hc hwhy
    have hfault : doorbellFault s func q size v.toNat = some why := by
      rcases hwhy with ⟨hsize, rfl⟩ | ⟨rfl, hreserved, hfunc, rfl⟩ | ⟨rfl, hreserved, hfunc, hdisabled, rfl⟩ |
        ⟨rfl, hreserved, hfunc, hready, hbind, hd0, henable, hruns, hepoch, rfl⟩
      · exact doorbellFault_of_size hsize
      · exact doorbellFault_of_otherFunc hreserved hfunc
      · exact doorbellFault_of_disabled hreserved hfunc hdisabled
      · exact doorbellFault_of_otherEpoch hreserved hfunc hready hbind hd0 henable hruns hepoch
    have hexec : exec c s = .next (doorbellOp func q size v.toNat s) := by
      rcases hc with rfl | rfl
      · exact exec_submissionDoorbell v hstandby
      · exact exec_completionHeadDoorbell v hstandby
    rw [hexec, doorbellOp_of_fault hfault]

end Sys2Proof.Machine
end

section
/-! Completions (R271, R283 to R285): the layout of the entries, the place of an operation among the completions of its queue, and
the entries at the tail of its ring. -/

namespace Sys2Proof.Machine

/-! ### The layout of the entries (R284, R285) -/

/-- A field fits its width. -/
theorem fieldAt_lt (bs : List Byte) (i n : Nat) : fieldAt bs i n < 256 ^ n :=
  (leNat_lt _).trans_le (Nat.pow_le_pow_right (by decide) (List.length_take_le _ _))

/-- Settles O30: each field is found behind those that stand before it, and those narrower than their place fit. -/
theorem completionLayout : Obligations.CompletionLayout := by
  refine ⟨fun o head p => ?primary, fun o p => ?continuation⟩
  case primary =>
    have hlabel : o.fld 6 2 < 65536 := fieldAt_lt o.desc 6 2
    have hqueue : o.queue % 64 + (if 0x10 ≤ o.finalStatus then 64 else 0) < 256 := by split <;> omega
    have hphase : (if p then 128 else 0) < 256 := by split <;> omega
    simp (disch := simp) [primaryEntry, fieldAt_append_left, fieldAt_append_right, fieldAt_leBytes, Nat.mod_eq_of_lt hlabel,
      Nat.mod_eq_of_lt hqueue, Nat.mod_eq_of_lt hphase]
  case continuation =>
    have hcursor : o.result.cursor % 2 ^ 48 < 2 ^ 64 := by omega
    have hqueue : o.queue % 64 + 128 < 256 := by omega
    have hphase : (if p then 128 else 0) < 256 := by split <;> omega
    simpa (disch := simp) [contEntry, fieldAt_append_left, fieldAt_append_right, fieldAt_leBytes, Nat.mod_eq_of_lt hqueue,
      Nat.mod_eq_of_lt hphase] using hcursor

/-! ### The parts of a completion (R56, R73, R187, R283) -/

theorem exec_completionWrite (tag : Nat) (s : State) : exec (.completionWrite tag) s = .next (completionOp tag s) := rfl

theorem atClosing_of_found {s : State} {tag : Nat} {o : Op} (p : Nat → Bool) (f : Op → State → State)
    (ho : findOp s tag = some o) (hdone : o.phase = .done) : atClosing tag p f s = if p o.closing then f o s else s := by
  simp only [atClosing, ho, hdone, decide_true, Bool.true_and]

theorem atClosing_of_not {s : State} {tag : Nat} {o : Op} {p : Nat → Bool} (f : Op → State → State)
    (ho : findOp s tag = some o) (hp : p o.closing = false) : atClosing tag p f s = s := by
  simp [atClosing, ho, hp]

/-- The completion of an operation that has its place writes its entries, and does nothing else. -/
theorem completionOp_of_placed {s : State} {tag : Nat} {o : Op} (ho : findOp s tag = some o) (hplace : 3 ≤ o.closing) :
    completionOp tag s = atClosing tag (fun n => decide (3 ≤ n)) writeEntries s := by
  have hruns := atClosing_of_not (p := fun n => n = 0) closeRuns ho (by simp; omega)
  have hstats := atClosing_of_not (p := fun n => decide (n ≤ 1)) closeStats ho (by simp; omega)
  have harrive := atClosing_of_not (p := fun n => n = 2) closeArrive ho (by simp; omega)
  rw [completionOp, hruns, hstats, harrive]

theorem closeStats_of_noRecord {o : Op} (s : State) (h : o.gathers = false) :
    closeStats o s = updOp o.tag (fun o => { o with closing := 2 }) s := by
  simp [closeStats, h]

theorem doneArrival_of_none {o : Op} (s : State) (h : o.doneTrn = 0xFFFF) : doneArrival o s = s := by simp [doneArrival, h]

/-- An operation takes the next place among the completions of its queue (R283). -/
def takePlace (tag : Nat) (s : State) : State :=
  { s with
    ops := s.ops.map (fun x => if x.tag = tag then { x with closing := 3 + s.nextOrder } else x)
    nextOrder := s.nextOrder + 1 }

theorem closeArrive_of_quiet {o : Op} (s : State) (hdone : o.doneTrn = 0xFFFF) (hwhole : o.subKey = 0) :
    closeArrive o s = takePlace o.tag s := by
  simp only [closeArrive, hwhole, if_true, doneArrival_of_none _ hdone, ite_self]
  rfl

theorem takePlace_updOp_closing (tag n : Nat) (s : State) :
    takePlace tag (updOp tag (fun x => { x with closing := n }) s) = takePlace tag s := by
  have hops : ((fun x : Op => if x.tag = tag then { x with closing := 3 + s.nextOrder } else x) ∘
      fun x => if x.tag = tag then { x with closing := n } else x) =
      fun x => if x.tag = tag then { x with closing := 3 + s.nextOrder } else x := by
    funext x
    by_cases h : x.tag = tag <;> simp [h]
  simp only [takePlace, updOp, List.map_map, hops]

theorem findOp_takePlace {s : State} {tag : Nat} {o : Op} (ho : findOp s tag = some o) :
    findOp (takePlace tag s) tag = some { o with closing := 3 + s.nextOrder } :=
  findOp_updOp_of (f := fun x => { x with closing := 3 + s.nextOrder }) ho fun _ hx => hx

/-- The completion of an operation that has ended begins: its runs end, and it takes its place. -/
theorem completionOp_of_ended {s u : State} {tag : Nat} {o x : Op} (ho : findOp s tag = some o) (hodone : o.phase = .done)
    (hofirst : o.closing = 0) (hu : u = killRuns tag s) (hx : findOp u tag = some x) (hxdone : x.phase = .done)
    (hxfirst : x.closing = 0) (hstats : x.gathers = false) (hdoneTrn : x.doneTrn = 0xFFFF) (hwhole : x.subKey = 0) :
    completionOp tag s = completionOp tag (takePlace tag u) := by
  have hotag := tag_of_findOp ho
  have hxtag := tag_of_findOp hx
  have hmarked : findOp (updOp tag (fun x => { x with closing := 2 }) u) tag = some { x with closing := 2 } :=
    findOp_updOp_of hx fun _ h => h
  have hruns : atClosing tag (fun n => n = 0) closeRuns s = u := by
    simp [atClosing_of_found _ _ ho hodone, hofirst, closeRuns, hotag, hu]
  have hrecord : atClosing tag (fun n => decide (n ≤ 1)) closeStats u = updOp tag (fun x => { x with closing := 2 }) u := by
    simp [atClosing_of_found _ _ hx hxdone, hxfirst, closeStats_of_noRecord u hstats, hxtag]
  have harrive : atClosing tag (fun n => n = 2) closeArrive (updOp tag (fun x => { x with closing := 2 }) u) =
      takePlace tag u := by
    rw [atClosing_of_found _ _ hmarked hxdone]
    exact ((closeArrive_of_quiet _ hdoneTrn hwhole).trans (by rw [hxtag])).trans (takePlace_updOp_closing tag 2 u)
  rw [completionOp_of_placed (findOp_takePlace hx) (Nat.le_add_right 3 _), completionOp, hruns, hrecord, harrive]

/-! ### The entries (R271, R283 to R285) -/

/-- The entries that a completion takes: with an error status the continuation entry too (R285). -/
abbrev Op.entries (o : Op) : Nat := if 0x10 ≤ o.finalStatus then 2 else 1

/-- The phase of the entry that stands n places behind the tail of a completion ring (R271). -/
def Queue.phaseAt (x : Queue) (n : Nat) : Bool := if x.cqTail + n < 2 ^ x.entry.cqLog2 then x.phase else !x.phase

/-- The entries are written: the tail and its phase move past them, the completion counts for the interrupt, and the operation
leaves. -/
def leaveRing (o : Op) (x : Queue) (s : State) : State :=
  retireOp o (countIrq o.queue (bit o.dflags 0) (setQueue { s with fills := [] } o.queue { getQueue s o.queue with
    cqTail := (x.cqTail + o.entries) % 2 ^ x.entry.cqLog2, phase := x.phaseAt o.entries }))

/-- Nothing keeps the completion of an operation from the tail of its ring but the entries that are not free. -/
structure AtTail (s : State) (o : Op) (x : Queue) : Prop where
  ring : x = getQueue s o.queue
  works : x.ringFailed = false
  reached : x.waitAddr = none
  first : ∀ y ∈ s.ops, y.queue = o.queue → y.closing < 3 ∨ o.closing ≤ y.closing

section Entries

variable {s : State} {o : Op} {x : Queue} (h : AtTail s o x)

include h

theorem AtTail.notAhead :
    s.ops.any (fun y => y.queue = o.queue && decide (3 ≤ y.closing ∧ y.closing < o.closing)) = false := by
  refine List.any_eq_false.2 fun y hy => ?_
  simp only [Bool.and_eq_true, decide_eq_true_eq, not_and]
  intro hqueue hplaced
  have := h.first y hy hqueue
  omega

theorem writeEntries_of_full (hfull : 2 ^ x.entry.cqLog2 - 1 - cqUsed x < o.entries) : writeEntries o s = s := by
  have hahead := h.notAhead
  obtain ⟨rfl, hworks, hreached, -⟩ := h
  simp only [Op.entries] at hfull
  simp only [writeEntries, hworks, hreached, hahead, hfull, or_true, Bool.false_eq_true, if_true, if_false]

theorem writeEntries_of_written {s1 s2 : State} (hroom : o.entries ≤ 2 ^ x.entry.cqLog2 - 1 - cqUsed x)
    (hcont : (if o.entries = 2 then
        writeRM (ringWho s o.queue) (x.entry.cqBase + 32 * ((x.cqTail + 1) % 2 ^ x.entry.cqLog2)) (contEntry o (x.phaseAt 1)) 3 s
      else (none, s)) = (none, s1))
    (hprimary : writeRM (ringWho s o.queue) (x.entry.cqBase + 32 * (x.cqTail % 2 ^ x.entry.cqLog2))
      (primaryEntry o x.head x.phase) 3 s1 = (none, s2)) : writeEntries o s = leaveRing o x s2 := by
  have hahead := h.notAhead
  obtain ⟨rfl, hworks, hreached, -⟩ := h
  simp only [Queue.phaseAt] at hcont
  simp only [writeEntries, hworks, hreached, hahead, Nat.not_lt.2 hroom, hcont, hprimary, leaveRing, Op.entries, Queue.phaseAt,
    Option.isSome_none, Bool.false_eq_true, or_self, if_false, Nat.add_zero]

end Entries

/-- Settles O31: a completion that begins is the one of the operation at its place, and there its ring's free entries decide. -/
theorem completesInOrder : Obligations.CompletesInOrder := by
  refine ⟨?placed, ?written⟩
  case placed =>
    intro s u tag o x ho _ hodone hofirst hu hx _ hxdone hxfirst hstats hdoneTrn hwhole
    exact congrArg Host.Outcome.next (completionOp_of_ended ho hodone hofirst hu hx hxdone hxfirst hstats hdoneTrn hwhole)
  case written =>
    rintro s tag _ o x ho hdone hplace rfl hring hworks hreached hfirst
    have htail : AtTail s o x := ⟨hring, hworks, hreached, hfirst⟩
    have hexec : exec (.completionWrite tag) s = .next (writeEntries o s) := by
      rw [exec_completionWrite, completionOp_of_placed ho hplace, atClosing_of_found _ _ ho hdone, if_pos (by simpa using hplace)]
    refine ⟨fun s2 hok hroom hwrite => ?_, fun s1 s2 herror hroom hcont hwrite => ?_, fun hfull => ?_⟩
    · have hone : o.entries = 1 := if_neg (Nat.not_le.2 hok)
      rw [hexec, writeEntries_of_written htail (by rwa [hone]) (if_neg (by simp [hone])) hwrite, leaveRing, hone]
      rfl
    · have htwo : o.entries = 2 := if_pos herror
      rw [hexec, writeEntries_of_written htail (by rwa [htwo]) ((if_pos htwo).trans hcont) hwrite, leaveRing, htwo]
      rfl
    · have hneeds : 0 < o.entries := by rw [Op.entries]; split <;> decide
      rw [hexec, writeEntries_of_full htail (by rwa [hfull])]

end Sys2Proof.Machine
end

section
/-! The host link (R258, R259): its lanes fail, it comes up, and what waits on the host ends when it is lost. -/

namespace Sys2Proof.Machine

/-! ### Tables of one entry -/

theorem tget_singleton {α : Type} (d : Nat → α) (k : Nat) (v : α) : tget d [(k, v)] k = v := by simp [tget, tfind]

theorem tset_singleton {α : Type} [DecidableEq α] {d : Nat → α} {k : Nat} {w : α} (v : α) (h : w ≠ d k) :
    tset d [(k, v)] k w = [(k, w)] := by
  simp [tset, h, tinsert]

theorem getQueue_of_only {s : State} {q : Nat} {x : Queue} (h : s.queues = [(q, x)]) : getQueue s q = x := by
  rw [getQueue, h, tget_singleton]

theorem getGroup_of_only {s : State} {g : Nat} {x : Group} (h : s.groups = [(g, x)]) : getGroup s g = x := by
  rw [getGroup, h, tget_singleton]

/-! ### The link fails over and comes up (R258, R259) -/

theorem exec_hostLaneFail_of_up {s : State} {code : Nat} (width : Nat) (hup : s.link.up = true)
    (hcode : code = if width = 4 then 2 else 1) :
    exec (.hostLaneFail width) s = .next (record 0x0601 0x03 (leBytes 1 code) { s with
      link := { s.link with up := false, training := true, widthLimit := min code s.link.widthLimit
                            retrains := min 0xFFFF (s.link.retrains + 1) }
      ice := { s.ice with now := { s.ice.now with downshifts := s.ice.now.downshifts + 1 } } }) := by
  subst hcode
  exact congrArg Host.Outcome.next (if_neg (by simp [hup]))

/-- The link in L0, and the queues whose rings waited for it (R258, R259). -/
def linkInL0 (width rate : Nat) (s : State) : State :=
  { s with
    link := { s.link with up := true, flit := true, noFlit := false, training := false, rate := rate
                          width := min width s.link.widthLimit }
    queues := s.queues.map (fun e => match e.2.waitAddr with
      | some a => if isHost a then (e.1, { e.2 with waitAddr := none }) else e
      | none => e) }

theorem exec_hostLinkUp_of_noFlit {s : State} (width rate : Nat) (htraining : s.link.training = true) :
    exec (.hostLinkUp width rate false) s = .next { s with link := { s.link with noFlit := true, training := false } } := by
  have hop : exec (.hostLinkUp width rate false) s = .next (hostLinkUpOp width rate false s) := rfl
  simp [hop, hostLinkUpOp, htraining]

theorem exec_hostLinkUp_of_flit {s : State} (width rate : Nat) (htraining : s.link.training = true)
    (hports : s.mid.ports = []) :
    exec (.hostLinkUp width rate true) s = .next (wakeOps (fun o => o.wait = some .link) (linkInL0 width rate s)) := by
  have hop : exec (.hostLinkUp width rate true) s =
    .next (if !s.link.training then s else retryPorts (wakeOps (fun o => o.wait = some .link) (linkInL0 width rate s))) := rfl
  rw [hop, htraining, if_neg (by decide), retryPorts_of_noPorts]
  exact hports

/-- What waits and passes a test goes on, and leaves its slots (R166, R246). -/
theorem wakeOps_eq (p : Op → Bool) (s : State) : ∃ ts, wakeOps p s = { s with
    tiles := ts, ops := s.ops.map (fun o => if o.phase = .suspended ∧ p o = true then wake o else o) } := by
  refine ⟨(wakeOps p s).tiles, ?_⟩
  simp only [wakeOps, freeSlots, Bool.and_eq_true, decide_eq_true_eq]

/-! ### The link is lost (R259, R263, R271, R285) -/

/-- The link stays down; the page requests are lost with it. -/
def linkLost (s : State) : State :=
  { s with link := { s.link with up := false, flit := false, width := 0, rate := 0, training := true }, pris := [] }

/-- The operations whose accesses wait on the host end, then the commits whose tables do (R259, R263). -/
def endHostWaits (s : State) : State :=
  refuseTables (fun _ a => isHost a) ((s.ops.filter (fun o => o.phase = .suspended && isHost o.faultAddr)).foldl
    (fun s o => endIssued o.tag (stopWith 0x31 o.cursor (o.faultAddr / 4096 * 4096)) s) (linkLost s))

/-- The queues whose rings wait on the host, each with the address (R271). -/
def ringsOnHost (s : State) : List (Nat × Nat) :=
  s.queues.filterMap (fun e => match e.2.waitAddr with
    | some a => if isHost a then some (e.1, a) else none
    | none => none)

theorem exec_hostLinkLoss (s : State) : exec .hostLinkLoss s = .next (failPorts (fun r _ => isHost r.addr) 0x31
    ((ringsOnHost (endHostWaits s)).foldl (fun s x => stopQueue x.1 0x31 x.2 s) (endHostWaits s))) := rfl

theorem exec_hostLinkLoss_of_noQueues {s : State} (hqueues : (endHostWaits s).queues = [])
    (hports : (endHostWaits s).mid.ports = []) : exec .hostLinkLoss s = .next (endHostWaits s) := by
  have hrings : ringsOnHost (endHostWaits s) = [] := by rw [ringsOnHost, hqueues]; rfl
  rw [exec_hostLinkLoss, hrings, List.foldl_nil, failPorts_of_noPorts hports]

theorem endHostWaits_of_noOps {s : State} (hops : s.ops = []) :
    endHostWaits s = refuseTables (fun _ a => isHost a) (linkLost s) := by
  rw [endHostWaits, hops]
  rfl

/-- A queue that is the only one, and waits on the host, stops (R271, R285). -/
theorem exec_hostLinkLoss_of_onlyQueue {s : State} {q a : Nat} {x : Queue} (honly : s.queues = [(q, x)])
    (hwaits : x.waitAddr = some a) (hhost : isHost a = true) (hports : s.mid.ports = []) (hops : s.ops = [])
    (htables : ∀ e ∈ s.groups, e.2.tableWait = none) :
    exec .hostLinkLoss s = .next (record 0x0602 0x03 (leBytes 4 q ++ leBytes 1 0x31 ++ leBytes 3 0 ++ leBytes 8 a)
      { linkLost s with queues := [(q, { x with
          stopped := true, waitAddr := none, ringFailed := x.ringFailed || ringWrite x })] }) := by
  have hdown : endHostWaits s = linkLost s := (endHostWaits_of_noOps hops).trans (refuseTables_of_noWaits htables)
  have hrings : ringsOnHost (linkLost s) = [(q, a)] := by
    have hqueues : (linkLost s).queues = [(q, x)] := honly
    simp [ringsOnHost, hqueues, hwaits, hhost]
  have hget : getQueue (linkLost s) q = x := getQueue_of_only honly
  have hset : setQueue (linkLost s) q { x with stopped := true, waitAddr := none, ringFailed := x.ringFailed || ringWrite x } =
      { linkLost s with queues := [(q, { x with
          stopped := true, waitAddr := none, ringFailed := x.ringFailed || ringWrite x })] } := by
    have hqueues : (linkLost s).queues = [(q, x)] := honly
    rw [setQueue, hqueues, tset_singleton x (fun h => Bool.noConfusion (congrArg Queue.stopped h))]
  rw [exec_hostLinkLoss, hdown, hrings, List.foldl_cons, List.foldl_nil, stopQueue, hget, hset, failPorts_of_noPorts]
  simpa [linkLost] using hports

/-- What ends an operation that is no matrix work and has no status yet (R96, R248). -/
theorem endIssued_of_noStatus {s : State} {tag : Nat} {o : Op} (r : Result) (ho : findOp s tag = some o)
    (hmatmul : o.opc ≠ 0x10) (hconv : o.opc ≠ 0x12) (hstatus : o.result.status = 0) :
    endIssued tag r s = endOp tag r (dropHeld tag s) := by
  have hend := findOp_endOp_of (r := r) (show findOp (dropHeld tag s) tag = some o from ho)
  have hopc : (o.ended r).opc = o.opc := rfl
  simp [endIssued, ho, hstatus, hend, hopc, hmatmul, hconv]

/-- What the end of an operation leaves beside the operations. -/
theorem endOp_dropHeld_frame (tag : Nat) (r : Result) (s : State) : ∃ fs ts fl, endOp tag r (dropHeld tag s) = { s with
    fills := fs, tiles := ts, floe := fl
    ops := s.ops.map (fun x => if x.tag = tag then x.ended r else x) } :=
  ⟨_, _, _, endOp_frame tag r { s with tiles := (dropHeld tag s).tiles }⟩

/-- An operation that is the only one, and waits on the host, ends with LINK_ERROR and the page address (R259). -/
theorem endHostWaits_of_onlyOp {s : State} {o : Op} (honly : s.ops = [o]) (hsusp : o.phase = .suspended)
    (hhost : isHost o.faultAddr = true) (hmatmul : o.opc ≠ 0x10) (hconv : o.opc ≠ 0x12) (hstatus : o.result.status = 0)
    (htables : ∀ e ∈ s.groups, e.2.tableWait = none) : ∃ fs ts fl, endHostWaits s = { linkLost s with
      fills := fs, tiles := ts, floe := fl
      ops := [o.ended (stopWith 0x31 o.cursor (o.faultAddr / 4096 * 4096))] } := by
  have hfound : findOp (linkLost s) o.tag = some o := by simp [findOp, linkLost, honly]
  obtain ⟨fs, ts, fl, hended⟩ := endOp_dropHeld_frame o.tag (stopWith 0x31 o.cursor (o.faultAddr / 4096 * 4096)) (linkLost s)
  have hops : (linkLost s).ops = [o] := honly
  refine ⟨fs, ts, fl, ?_⟩
  have hwaiting : s.ops.filter (fun o => o.phase = .suspended && isHost o.faultAddr) = [o] := by simp [honly, hsusp, hhost]
  rw [endHostWaits, hwaiting, List.foldl_cons, List.foldl_nil, endIssued_of_noStatus _ hfound hmatmul hconv hstatus, hended,
    refuseTables_of_noWaits, hops]
  · simp only [List.map_cons, List.map_nil, if_true]
  · exact htables

theorem tablesWaiting_of_only {s : State} {g a : Nat} {x : Group} {c : GroupCfg} {test : Who → Nat → Bool}
    (honly : s.groups = [(g, x)]) (hsnapshot : x.snapshot = some c) (hwaits : x.tableWait = some a)
    (htest : test (bindWho c.bind) a = true) : tablesWaiting s test = [(g, bindWho c.bind, a)] := by
  simp [tablesWaiting, honly, hsnapshot, hwaits, htest]

/-- A commit that is the only one is rejected (R263, R431). -/
theorem rejectCommit_of_only {s : State} {g : Nat} {x : Group} (honly : s.groups = [(g, x)]) {code : Nat} (hcode : code ≠ 0) :
    rejectCommit g code s = agrReject 2 g code { s with
      groups := [(g, { x with result := code, snapshot := none, tableWait := none, held := [] })] } := by
  have hrejected : { x with result := code, snapshot := none, tableWait := none, held := [] } ≠ groupReset g :=
    fun h => hcode (congrArg Group.result h)
  rw [rejectCommit, getGroup_of_only honly, setGroup, honly, tset_singleton x hrejected]

/-- Settles O26: each event by what waits, and the loss by which of an operation, a queue and a commit waits on the host. -/
theorem hostLinkStates : Obligations.HostLinkStates := by
  refine ⟨fun s width code => exec_hostLaneFail_of_up width, ?up, ?queue, ?transfer, ?commit⟩
  case up =>
    intro s width rate htraining
    refine ⟨exec_hostLinkUp_of_noFlit width rate htraining, fun hports => ?_⟩
    obtain ⟨ts, hwake⟩ := wakeOps_eq (fun o => o.wait = some .link) (linkInL0 width rate s)
    refine ⟨ts, (exec_hostLinkUp_of_flit width rate htraining hports).trans (congrArg Host.Outcome.next (hwake.trans ?_))⟩
    simp only [decide_eq_true_eq]
    rfl
  case queue =>
    intro s q a x honly hwaits hhost hports hops htables
    exact exec_hostLinkLoss_of_onlyQueue honly hwaits hhost hports hops htables
  case transfer =>
    intro s o honly hsusp hhost hmatmul hconv hstatus hqueues hports htables
    obtain ⟨fs, ts, fl, hended⟩ := endHostWaits_of_onlyOp honly hsusp hhost hmatmul hconv hstatus htables
    refine ⟨_, exec_hostLinkLoss_of_noQueues (by rw [hended]; exact hqueues) (by rw [hended]; exact hports), ?_⟩
    rw [hended]
    exact ⟨rfl, rfl, rfl, rfl, rfl, rfl⟩
  case commit =>
    intro s g a x c honly hsnapshot hwaits hhost hops hqueues hports
    have hgroups : (recordFault (bindWho c.bind) a (linkLost s)).groups = [(g, x)] := by simpa [recordFault, linkLost] using honly
    have hrejected : endHostWaits s = agrReject 2 g 3 { recordFault (bindWho c.bind) a (linkLost s) with
        groups := [(g, { x with result := 3, snapshot := none, tableWait := none, held := [] })] } := by
      have htable : tablesWaiting (linkLost s) (fun _ a => isHost a) = [(g, bindWho c.bind, a)] :=
        tablesWaiting_of_only honly hsnapshot hwaits hhost
      rw [endHostWaits_of_noOps hops, refuseTables, htable, List.foldl_cons, List.foldl_nil,
        rejectCommit_of_only hgroups (by decide)]
    refine ⟨_, exec_hostLinkLoss_of_noQueues ?_ ?_, ?_⟩
    · simpa [hrejected, agrReject, recordFault, linkLost] using hqueues
    · simpa [hrejected, agrReject, recordFault, linkLost] using hports
    · rw [hrejected]
      exact ⟨rfl, rfl, rfl⟩

end Sys2Proof.Machine
end

section
/-! A step and its command (spec/95), and the Moraine's ring, which keeps the newest records (R401). -/

namespace Sys2Proof.Machine

/-- Settles O1: the front command is what `step` matches on. -/
theorem stepRunsFrontCommand : Obligations.StepRunsFrontCommand := fun _ _ _ h => step_of_pending_cons h

/-! ### The ring (R401) -/

theorem ringTrim_suffix (v : Variant) (top : Nat) (l : List MorRec) : ringTrim v top l <:+ l := by
  induction l with
  | nil => exact List.suffix_rfl
  | cons r rs ih =>
    unfold ringTrim
    split
    · exact List.suffix_rfl
    · exact ih.trans (List.suffix_cons r rs)

theorem ringBytes_ringTrim_le (v : Variant) (top : Nat) (l : List MorRec) : ringBytes v (ringTrim v top l) ≤ top := by
  induction l with
  | nil => exact Nat.zero_le top
  | cons r rs ih =>
    unfold ringTrim
    split
    · assumption
    · exact ih

theorem ringBytes_singleton (v : Variant) (r : MorRec) : ringBytes v [r] = recLen v r := Nat.zero_add _

/-- The newest record stays as long as it fits alone. -/
theorem getLast?_ringTrim_append {v : Variant} {top : Nat} {r : MorRec} (hfits : recLen v r ≤ top) (l : List MorRec) :
    (ringTrim v top (l ++ [r])).getLast? = some r := by
  induction l with
  | nil => simp [ringTrim, ringBytes_singleton, hfits]
  | cons x xs ih =>
    rw [List.cons_append, ringTrim]
    split
    · rw [← List.cons_append]
      exact List.getLast?_concat
    · exact ih

/-- Settles O15: each claim is one of the trim of the ring with the record behind it. -/
theorem ringKeepsNewest : Obligations.RingKeepsNewest := fun v _ _ hfits =>
  ⟨ringBytes_ringTrim_le v _ _, getLast?_ringTrim_append hfits _, ringTrim_suffix v _ _⟩

end Sys2Proof.Machine
end

section
/-! What a message to another device leaves (R331, R333, R335): everything but the links, the numbers of its destinations,
what has left, and the open values taken. -/

namespace Sys2Proof.Machine

/-- Only links, sequence numbers sent, the outbox and the count of open values differ. -/
def OnlySends (s t : State) : Prop :=
  ∃ l n o f, t = { s with casc := { s.casc with links := l, txSeq := n }, outbox := o, fresh := f }

theorem OnlySends.refl (s : State) : OnlySends s s := ⟨s.casc.links, s.casc.txSeq, s.outbox, s.fresh, rfl⟩

theorem OnlySends.trans {s t u : State} (h : OnlySends s t) (k : OnlySends t u) : OnlySends s u := by
  obtain ⟨_, _, _, _, rfl⟩ := h
  obtain ⟨l, n, o, f, rfl⟩ := k
  exact ⟨l, n, o, f, rfl⟩

theorem OnlySends.foldl {β : Type} {f : State → β → State} (hf : ∀ s b, OnlySends s (f s b)) (l : List β) (s : State) :
    OnlySends s (l.foldl f s) := by
  induction l generalizing s with
  | nil => exact .refl s
  | cons b l ih => exact (hf s b).trans (ih _)

theorem onlySends_emit (m : Out) (s : State) : OnlySends s (emit m s) := ⟨s.casc.links, s.casc.txSeq, _, s.fresh, rfl⟩

theorem onlySends_setLink (s : State) (l : Nat) (x : CascLink) : OnlySends s (setLink s l x) :=
  ⟨_, s.casc.txSeq, s.outbox, s.fresh, rfl⟩

theorem onlySends_sendFlit (l ftype : Nat) (m : Option TxMsg) (s : State) : OnlySends s (sendFlit l ftype m s) :=
  (onlySends_setLink ..).trans (onlySends_emit ..)

theorem onlySends_pumpLink (l n : Nat) (s : State) : OnlySends s (pumpLink l n s) := by
  induction n generalizing s with
  | zero => exact .refl s
  | succ n ih =>
    simp only [pumpLink]
    split
    next => exact .refl s
    next =>
      split
      next => exact ((onlySends_setLink ..).trans (onlySends_sendFlit ..)).trans (ih _)
      next => exact .refl s

theorem onlySends_msgSlot (src dst seq : Nat) (m : CascMsg) (s : State) : OnlySends s (msgSlot src dst seq m s).2 := by
  simp only [msgSlot]
  split
  · exact .refl s
  · exact ⟨s.casc.links, s.casc.txSeq, s.outbox, s.fresh + 1, rfl⟩

theorem onlySends_queueMsg (l : Nat) (m : TxMsg) (s : State) : OnlySends s (queueMsg l m s) :=
  (onlySends_setLink ..).trans (onlySends_pumpLink ..)

theorem onlySends_sendCasc (dev : Nat) (m : CascMsg) (s : State) : OnlySends s (sendCasc dev m s) := by
  simp only [sendCasc]
  exact (((onlySends_msgSlot _ _ _ m s).trans ⟨_, _, _, _, rfl⟩).trans (onlySends_emit ..)).trans (onlySends_queueMsg ..)

theorem onlySends_answerPeer (p : Peer) (status : Nat) (s : State) : OnlySends s (answerPeer p status s) :=
  onlySends_sendCasc ..

end Sys2Proof.Machine
end

section
/-! Turnstiles (R291 to R299, R303 to R305): how a single operation reaches the Turnstile unit, what one arrival, a wait and
a timeout do there, and what no waiter and no held operation leave to do. -/

namespace Sys2Proof.Machine

/-! ### A single operation begins -/

theorem findOp_of_only {s : State} {o : Op} (h : s.ops = [o]) : findOp s o.tag = some o := by simp [findOp, h]

theorem placed_of_notOnePart {o : Op} (h : o.onePart = false) (s : State) : o.placed s = o := by simp [Op.placed, h]

theorem onePart_of_opc {o : Op} {n : Nat} (h : o.opc = n) (hn : n ∉ [0x01, 0x02, 0x18, 0x19, 0x28]) : o.onePart = false := by
  simp only [List.mem_cons, List.not_mem_nil, or_false, not_or] at hn
  simp [Op.onePart, h, hn]

/-- An operation that is ready, has the opcode and finds its units begins, where nobody chooses its units. -/
theorem runOp_of_ready {s : State} {tag n : Nat} {o : Op} {codes : List Nat} {f : Op → State → State}
    (ho : findOp s tag = some o) (hready : o.phase = .ready) (happ : s.cfg.applying = none) (hslot : o.slotFree s = true)
    (hopc : o.opc = n) (hcode : n ∈ codes) (hn : n ∉ [0x01, 0x02, 0x18, 0x19, 0x28]) :
    runOp tag codes f s = f o (beginOp o s) := by
  rw [runOp, runWhen_of_ready ho hready (by simpa [hopc] using hcode) happ hslot,
    placed_of_notOnePart (onePart_of_opc hopc hn)]

theorem beginOp_ops_of_only {s : State} {o : Op} (h : s.ops = [o]) : (beginOp o s).ops = [o.begun s] := by
  simp [beginOp, setOp, h]

theorem atTurnstile_frame (tag : Nat) (s : State) : atTurnstile tag s = { s with
    noc := (turnstileFlit s).noc
    ops := s.ops.map (fun x => if x.tag = tag then { x with phase := .waiting, since := s.time } else x) } := rfl

/-- The operations when the only one has begun and waits. -/
theorem atTurnstile_beginOp {s : State} {o : Op} (h : s.ops = [o]) :
    ∃ w m fl, atTurnstile o.tag (beginOp o s) = { s with
      works := w, noc := m, floe := fl, ops := [{ o.begun s with phase := .waiting, since := s.time }] } := by
  refine ⟨(beginOp o s).works, (turnstileFlit (beginOp o s)).noc, (beginOp o s).floe, ?_⟩
  rw [atTurnstile_frame, beginOp_ops_of_only h, List.map_cons, List.map_nil, if_pos (begun_tag o s)]
  rfl

/-- What the only operation leaves when it ends. -/
theorem endOp_of_only {s : State} {o : Op} (r : Result) (h : s.ops = [o]) :
    ∃ ti fl, endOp o.tag r s = { s with fills := [], tiles := ti, floe := fl, ops := [o.ended r] } :=
  ⟨_, _, by rw [endOp_frame, h]; simp only [List.map_cons, List.map_nil, if_true]; rfl⟩

/-! ### Arrivals (R292, R297) -/

/-- A Turnstile after one arrival with nobody waiting. -/
def Turnstile.arrival (x : Turnstile) (now : Nat) : Turnstile :=
  { x with
    arrived := if x.arrived + 1 < x.count then x.arrived + 1 else 0
    gen := if x.arrived + 1 < x.count then x.gen else (x.gen + 1) % 2 ^ 16
    total := (x.total + 1) % 2 ^ 64, lastArrival := now }

theorem isGroupTrn_of_notFormed {s : State} (h : s.casc.formed = false) (t : Nat) : isGroupTrn s t = false := by
  simp [isGroupTrn, h]

theorem isMirror_of_notFormed {s : State} (h : s.casc.formed = false) (t : Nat) : isMirror s t = false := by
  simp [isMirror, isGroupTrn_of_notFormed h]

/-- A generation that completes with nobody waiting, outside a group or below COUNT. -/
theorem completeTrn_of_noWaiters {s : State} {t : Nat} (hwaiters : (getTrn s t).waiters = [])
    (hgroup : isGroupTrn s t = false) :
    completeTrn t s = setTrn s t { getTrn s t with gen := ((getTrn s t).gen + 1) % 2 ^ 16, arrived := 0 } := by
  simp [completeTrn, hwaiters, splitRelease, hgroup]

/-- Below COUNT, or with nobody waiting outside a group, an arrival changes its own Turnstile alone. -/
theorem arriveOne_frame {s : State} {t : Nat} (hcase : (getTrn s t).arrived + 1 < (getTrn s t).count ∨
    ((getTrn s t).waiters = [] ∧ isGroupTrn s t = false)) : ∃ ts,
    arriveOne t s = { s with trns := ts } ∧ tget (dflt {}) ts t = (getTrn s t).arrival s.time ∧
      ∀ k, k ≠ t → tget (dflt {}) ts k = getTrn s k := by
  refine ⟨(arriveOne t s).trns, ?_⟩
  change _ ∧ getTrn (arriveOne t s) t = _ ∧ ∀ k, k ≠ t → getTrn (arriveOne t s) k = getTrn s k
  simp only [arriveOne, recount, getTrn_setTrn]
  split
  next hfull =>
    obtain ⟨hwaiters, hgroup⟩ := hcase.resolve_left (Nat.not_lt.2 hfull)
    rw [completeTrn_of_noWaiters (by simpa using hwaiters) (by exact hgroup)]
    refine ⟨rfl, ?_, fun k hk => ?_⟩
    · simp only [getTrn_setTrn, Turnstile.arrival, if_neg (Nat.not_lt.2 hfull), wrapAdd]
    · simp only [getTrn_setTrn_ne _ _ _ _ hk]
  next hbelow =>
    refine ⟨rfl, ?_, fun k hk => ?_⟩
    · simp only [getTrn_setTrn, Turnstile.arrival, if_pos (Nat.not_le.1 hbelow), wrapAdd]
    · simp only [getTrn_setTrn_ne _ _ _ _ hk]

theorem genFuture_self (g : Nat) : genFuture g g = false := by
  have : genDist g g = 0 := by rw [genDist]; omega
  simp [genFuture, this]

/-- The generation that an arrival has completed is done. -/
theorem genDone_succ {g : Nat} (h : g < 2 ^ 16) : genDone g ((g + 1) % 2 ^ 16) = true := by
  rw [genDone, decide_eq_true_eq, genDist]
  omega

theorem settleTrn_of_noWaiters {s : State} {t : Nat} (h : (getTrn s t).waiters = []) (n : Nat) : settleTrn t n s = s := by
  cases n <;> simp [settleTrn, h]

theorem letIn_of_noneHeld {s : State} (h : s.trnHeld = []) : letIn s = s := by simp [letIn, h]

/-- An arrival that names the current generation or CURGEN counts at once (R296). -/
theorem arriveAt_of_current {s : State} {t : Nat} {curgen : Bool} {w : Waiter} (hgen : curgen = true ∨ w.gen = (getTrn s t).gen)
    (hnone : (getTrn (countFor t w s) t).waiters = []) :
    arriveAt t curgen w s = countFor t w s := by
  have hnow : (!curgen && genFuture w.gen (getTrn s t).gen) = false := by
    rcases hgen with h | h
    · simp [h]
    · simp [h, genFuture_self]
  simp [arriveAt, hnow, settleTrn_of_noWaiters hnone]

theorem releaseWaiter_here {w : Waiter} (hpeer : w.peer = none) (hkind : w.kind ≠ 3) (s : State) :
    releaseWaiter w s = endOp w.op {} s := by
  simp [releaseWaiter, hpeer, hkind]

theorem countFor_arrival {w : Waiter} (hkind : w.kind = 1) (hpeer : w.peer = none) (hn : w.n = 1) (t : Nat) (s : State) :
    countFor t w s = endOp w.op {} (arriveOne t s) := by
  simp [countFor, hn, arriveMany, hkind, releaseWaiter_here hpeer]

/-- An arrival that waits ends at once when it completes its generation (R298). -/
theorem countFor_arriveWait {t : Nat} {s : State} {w : Waiter} (hkind : w.kind = 2) (hpeer : w.peer = none) (hn : w.n = 1)
    (hdone : genDone (getTrn s t).gen (getTrn (arriveOne t s) t).gen = true) :
    countFor t w s = endOp w.op {} (arriveOne t s) := by
  simp [countFor, hn, arriveMany, hkind, waitAt, hdone, releaseWaiter, hpeer]

/-- The first entry of an empty waiter table (R301). -/
theorem registerWaiter_first {s : State} (htrns : s.trns = []) (hheld : s.trnHeld = []) (t : Nat) (w : Waiter) :
    registerWaiter t w s = setTrn s t { getTrn s t with waiters := [{ w with time := s.time }] } := by
  have hnone : (getTrn s t).waiters = [] := by simp [getTrn, htrns, tget, tfind, dflt]
  have hone (y : Turnstile) (hy : y.waiters = [{ w with time := s.time }]) : waiterCount (setTrn s t y) ≤ 1 := by
    have hne : y ≠ dflt ({} : Turnstile) t := fun h => by simp [h, dflt] at hy
    simp only [waiterCount, setTrn, htrns, tset, if_neg hne, tinsert, List.foldl_cons, List.foldl_nil, Nat.zero_add]
    exact (List.length_filter_le ..).trans (by simp [hy])
  have hroom : waiterCount s = 0 := by simp [waiterCount, htrns]
  have hnotFull := hone { getTrn s t with waiters := [{ w with time := s.time }] } rfl
  simp only [registerWaiter, hheld, hroom, enterWaiter, hnone, waiterRoom, List.filter_nil, List.nil_append]
  rw [if_neg (by decide), if_neg (fun h => absurd (h.symm.trans_le hnotFull) (by decide))]

/-! ### The commands -/

section Single

variable {s : State} {o : Op} (honly : s.ops = [o]) (hready : o.phase = .ready) (happ : s.cfg.applying = none)
  (hslot : o.slotFree s = true)

include honly in
/-- What a first arrival that ends its operation leaves, by what the command does once the operation is at the unit. -/
theorem arrivesAndEnds {t : Nat} {r : State} (hwaiters : (getTrn s t).waiters = []) (hformed : s.casc.formed = false)
    (hr : r = endOp o.tag {} (arriveOne t (atTurnstile o.tag (beginOp o s)))) : ∃ ts w m ti fl,
    r = { s with
      trns := ts, works := w, noc := m, tiles := ti, floe := fl, fills := []
      ops := [{ o.begun s with
        phase := .done, result := {}, since := s.time, closing := if o.closing = 1 then 2 else o.closing }] } ∧
    tget (dflt {}) ts t = (getTrn s t).arrival s.time ∧ ∀ k, k ≠ t → tget (dflt {}) ts k = getTrn s k := by
  obtain ⟨w, m, fl, hat⟩ := atTurnstile_beginOp honly
  rw [hat] at hr
  obtain ⟨ts, harrived, ht, hk⟩ := arriveOne_frame
    (s := { s with works := w, noc := m, floe := fl, ops := [{ o.begun s with phase := .waiting, since := s.time }] })
    (t := t) (.inr ⟨hwaiters, isGroupTrn_of_notFormed (by exact hformed) t⟩)
  rw [harrived, ← begun_tag o s] at hr
  obtain ⟨ti, fl', hended⟩ := endOp_of_only {} (s := { s with
    trns := ts, works := w, noc := m, floe := fl, ops := [{ o.begun s with phase := .waiting, since := s.time }] }) rfl
  refine ⟨ts, w, m, ti, fl', ?_, ht, hk⟩
  rw [← begun_closing o s]
  exact hr.trans hended

include honly in
/-- An arrival here of an operation that arrives once and ends. -/
theorem trnArriveOp_ends (hformed : s.casc.formed = false) (hwaiters : (getTrn s o.trn).waiters = []) (hheld : s.trnHeld = [])
    (hn : o.trnN = 1) (hgen : o.curgen = true ∨ o.trnGen = (getTrn s o.trn).gen) :
    trnArriveOp o.tag o (beginOp o s) = endOp o.tag {} (arriveOne o.trn (atTurnstile o.tag (beginOp o s))) := by
  obtain ⟨w, m, fl, hat⟩ := atTurnstile_beginOp honly
  obtain ⟨ts, harrived, ht, -⟩ := arriveOne_frame
    (s := { s with works := w, noc := m, floe := fl, ops := [{ o.begun s with phase := .waiting, since := s.time }] })
    (t := o.trn) (.inr ⟨hwaiters, isGroupTrn_of_notFormed (by exact hformed) _⟩)
  have hcount := countFor_arrival (w := { kind := 1, op := o.tag, gen := o.trnGen, n := o.trnN }) rfl rfl hn o.trn
    { s with works := w, noc := m, floe := fl, ops := [{ o.begun s with phase := .waiting, since := s.time }] }
  have hnone : (tget (dflt {}) ts o.trn).waiters = [] := by rw [ht]; exact hwaiters
  rw [trnArriveOp, isMirror_of_notFormed (by simpa using hformed), if_neg (by decide), hat]
  dsimp only
  rw [arriveAt_of_current hgen (by rw [hcount, harrived]; exact hnone), hcount, harrived, letIn_of_noneHeld (by simpa using hheld)]

include honly in
/-- An arrival here that completes its generation ends the operation that would wait for it (R298). -/
theorem trnArriveWaitOp_ends (hformed : s.casc.formed = false) (hwaiters : (getTrn s o.trn).waiters = []) (hheld : s.trnHeld = [])
    (hn : o.trnN = 1) (hcurgen : o.curgen = true) (hfull : (getTrn s o.trn).count ≤ (getTrn s o.trn).arrived + 1)
    (hlt : (getTrn s o.trn).gen < 2 ^ 16) :
    trnArriveWaitOp o.tag o (beginOp o s) = endOp o.tag {} (arriveOne o.trn (atTurnstile o.tag (beginOp o s))) := by
  obtain ⟨w, m, fl, hat⟩ := atTurnstile_beginOp honly
  obtain ⟨ts, harrived, ht, -⟩ := arriveOne_frame
    (s := { s with works := w, noc := m, floe := fl, ops := [{ o.begun s with phase := .waiting, since := s.time }] })
    (t := o.trn) (.inr ⟨hwaiters, isGroupTrn_of_notFormed (by exact hformed) _⟩)
  have hgen : (tget (dflt {}) ts o.trn).gen = ((getTrn s o.trn).gen + 1) % 2 ^ 16 := by
    rw [ht]
    exact if_neg (Nat.not_lt.2 hfull)
  have hcount := countFor_arriveWait (w := { kind := 2, op := o.tag, gen := o.trnGen, n := o.trnN }) rfl rfl hn (t := o.trn)
    (s := { s with works := w, noc := m, floe := fl, ops := [{ o.begun s with phase := .waiting, since := s.time }] })
    (by rw [harrived]; exact hgen ▸ genDone_succ hlt)
  have hnone : (tget (dflt {}) ts o.trn).waiters = [] := by rw [ht]; exact hwaiters
  rw [trnArriveWaitOp, isMirror_of_notFormed (by simpa using hformed), if_neg (by decide), hat]
  dsimp only
  rw [arriveAt_of_current (.inl hcurgen) (by rw [hcount, harrived]; exact hnone), hcount, harrived,
    letIn_of_noneHeld (by simpa using hheld)]

include honly in
/-- A wait on a completed generation ends at once (R298). -/
theorem trnWaitOp_of_done (hdone : genDone o.trnGen (getTrn s o.trn).gen = true) : ∃ w m ti fl,
    trnWaitOp o.tag o (beginOp o s) = { s with
      fills := [], works := w, noc := m, tiles := ti, floe := fl
      ops := [{ o.begun s with
        phase := .done, result := {}, since := s.time, closing := if o.closing = 1 then 2 else o.closing }] } := by
  obtain ⟨w, m, fl, hat⟩ := atTurnstile_beginOp honly
  obtain ⟨ti, fl', hended⟩ := endOp_of_only {} (s := { s with
    works := w, noc := m, floe := fl, ops := [{ o.begun s with phase := .waiting, since := s.time }] }) rfl
  refine ⟨w, m, ti, fl', ?_⟩
  rw [trnWaitOp, hat, waitAt, if_pos (by exact hdone), releaseWaiter_here rfl (by simp), ← begun_closing o s]
  refine Eq.trans ?_ hended
  rw [begun_tag]

include honly in
/-- A wait on another generation is the first entry of an empty waiter table (R301). -/
theorem trnWaitOp_registers (hdone : genDone o.trnGen (getTrn s o.trn).gen = false) (htrns : s.trns = [])
    (hheld : s.trnHeld = []) : ∃ w m fl, trnWaitOp o.tag o (beginOp o s) =
    { setTrn s o.trn { getTrn s o.trn with waiters := [{ kind := 0, op := o.tag, gen := o.trnGen, time := s.time }] } with
      works := w, noc := m, floe := fl, ops := [{ o.begun s with phase := .waiting, since := s.time }] } := by
  obtain ⟨w, m, fl, hat⟩ := atTurnstile_beginOp honly
  refine ⟨w, m, fl, ?_⟩
  rw [trnWaitOp, hat, waitAt, if_neg (by simpa [getTrn] using hdone),
    registerWaiter_first (by exact htrns) (by exact hheld)]
  rfl

end Single

/-- A SIGNAL that names another member goes there behind the fence of its channel (R303, R304). -/
theorem signalOp_of_member {u : State} {tag : Nat} {o : Op} (hdev : o.trnDev ≠ 0xFF) (hmember : isMember u o.trnDev = true) :
    signalOp tag o u = sendCasc o.trnDev
      (.signal o.queue o.func o.trn o.trnN o.trnGen o.curgen (unsignalled u o.queue o.trnDev)) { atTurnstile tag u with
        casc := { u.casc with
          txBytes := terase (chanKey o.queue o.trnDev) u.casc.txBytes
          sigOut := u.casc.sigOut ++ [(chanKey o.queue o.trnDev, tag)] } } := by
  have hself : namesSelf u o.trnDev = false := by
    simp only [isMember, Bool.and_eq_true, decide_eq_true_eq] at hmember
    simp [namesSelf, hdev, hmember.2]
  simp only [signalOp, hself, hmember]
  rfl

/-- TIMEOUT_US ends an operation that waits at a Turnstile here (R299). -/
theorem trnTimeoutOp_of_waiting {s : State} {tag : Nat} {o : Op} {w : Nat × Nat × Nat} (ho : findOp s tag = some o)
    (hwaits : o.phase = .waiting) (hlo : 0x48 ≤ o.opc) (hhi : o.opc ≤ 0x4B) (hus : o.timeoutUs ≠ 0)
    (hplace : waitHere s tag = some w) :
    trnTimeoutOp tag s = letIn (endOp tag { status := 0x51 } (passTo (o.since + o.timeoutUs * 1000) s)) := by
  simp [trnTimeoutOp, ho, hwaits, hlo, hhi, hus, hplace, stopWith]

/-- The only waiter of the only Turnstile withdraws, and its device hears of it (R299, R305). -/
theorem peerTimeout_of_only {s : State} {t : Nat} {x : Turnstile} {w : Waiter} {p : Peer} (htrns : s.trns = [(t, x)])
    (hwaiters : x.waiters = [w]) (hheld : s.trnHeld = []) (hpeer : w.peer = some p) :
    peerTimeout p.dev p.mark p.byOp s = answerPeer p 0x51 { s with trns := [(t, { x with waiters := [] })] } := by
  have hwithdrawn : withdraw (fun x => decide (x = w)) s = { s with trns := [(t, { x with waiters := [] })] } := by
    simp [withdraw, htrns, hwaiters, hheld]
  obtain ⟨_, _, _, _, hanswer⟩ := onlySends_answerPeer p 0x51 { s with trns := [(t, { x with waiters := [] })] }
  have hfound : ((s.trns.flatMap (fun e => e.2.waiters)) ++ s.trnHeld.map (·.2)).find? (fun w =>
      (w.peer.map (fun q => q.dev = p.dev && q.byOp = p.byOp && q.mark = p.mark)).getD false) = some w := by
    simp [htrns, hwaiters, hheld, hpeer]
  simp only [peerTimeout, hfound, hpeer]
  rw [hwithdrawn, letIn_of_noneHeld (by rw [hanswer]; exact hheld)]

/-- Settles O47: each clause by what its command does at the Turnstile unit. -/
theorem turnstileOperations : Obligations.TurnstileOperations := by
  refine ⟨?arrive, ?wait, ?arriveWait, ?signal, ?timeout, ?peer⟩
  case arrive =>
    rintro c s _ _ o _ honly rfl hready happ hslot rfl rfl hwaiters hheld hformed hn hgen - hc
    have ho := findOp_of_only honly
    have hrun : exec c s = .next (trnArriveOp o.tag o (beginOp o s)) := by
      rcases hc with ⟨rfl, hopc⟩ | ⟨rfl, hopc, hdev⟩
      · exact congrArg Host.Outcome.next (runOp_of_ready ho hready happ hslot hopc (by decide) (by decide))
      · refine congrArg Host.Outcome.next ((runOp_of_ready ho hready happ hslot hopc (by decide) (by decide)).trans ?_)
        simp [signalOp, namesSelf, hdev]
    obtain ⟨ts, w, m, ti, fl, hr, ht⟩ := arrivesAndEnds honly hwaiters hformed rfl
    exact ⟨ts, w, m, ti, fl, by rw [hrun, trnArriveOp_ends honly hformed hwaiters hheld hn hgen, hr], ht⟩
  case wait =>
    rintro s _ _ o _ honly rfl hready happ hslot rfl rfl hopc
    have hrun : exec (.trnWait o.tag) s = .next (trnWaitOp o.tag o (beginOp o s)) :=
      congrArg Host.Outcome.next (runOp_of_ready (findOp_of_only honly) hready happ hslot hopc (by decide) (by decide))
    rw [hrun]
    refine ⟨fun hdone => ?_, fun hdone htrns hheld => ?_⟩
    · obtain ⟨w, m, ti, fl, hr⟩ := trnWaitOp_of_done honly hdone
      exact ⟨w, m, ti, fl, by rw [hr]⟩
    · obtain ⟨w, m, fl, hr⟩ := trnWaitOp_registers honly hdone htrns hheld
      exact ⟨w, m, fl, by rw [hr]⟩
  case arriveWait =>
    rintro s _ _ o _ honly rfl hready happ hslot rfl rfl hwaiters hheld hformed hopc hn hcurgen hfull hlt
    have hrun : exec (.trnArriveWait o.tag) s = .next (trnArriveWaitOp o.tag o (beginOp o s)) :=
      congrArg Host.Outcome.next (runOp_of_ready (findOp_of_only honly) hready happ hslot hopc (by decide) (by decide))
    obtain ⟨ts, w, m, ti, fl, hr, ht, hk⟩ := arrivesAndEnds honly hwaiters hformed rfl
    have harrival : (getTrn s o.trn).arrival s.time = { getTrn s o.trn with
        arrived := 0, gen := ((getTrn s o.trn).gen + 1) % 2 ^ 16, total := ((getTrn s o.trn).total + 1) % 2 ^ 64
        lastArrival := s.time } := by
      simp only [Turnstile.arrival, if_neg (Nat.not_lt.2 hfull)]
    exact ⟨ts, w, m, ti, fl, by rw [hrun, trnArriveWaitOp_ends honly hformed hwaiters hheld hn hcurgen hfull hlt, hr],
      ht.trans harrival, hk⟩
  case signal =>
    rintro s _ tag _ o ho hready happ hslot hopc hdev hmember rfl rfl
    have hrun : exec (.signal tag) s = .next (signalOp tag o (beginOp o s)) :=
      congrArg Host.Outcome.next (runOp_of_ready ho hready happ hslot hopc (by decide) (by decide))
    rw [hrun, signalOp_of_member hdev (by exact hmember)]
    rfl
  case timeout =>
    rintro s _ tag o w ho hwaits hlo hhi hus hplace rfl
    exact congrArg Host.Outcome.next (trnTimeoutOp_of_waiting ho hwaits hlo hhi hus hplace)
  case peer =>
    intro s tag t x w p htrns hwaiters hheld hpeer
    exact congrArg Host.Outcome.next (peerTimeout_of_only htrns hwaiters hheld hpeer)

end Sys2Proof.Machine
end

section
/-! Turnstile registers (R293, R308, R310, R311): TRN_CFG, forced changes with nobody waiting, mirrors and watchers. -/

namespace Sys2Proof.Machine

theorem afterForce_of_noWaiters {s : State} {t : Nat} (hwaiters : (getTrn s t).waiters = []) (hheld : s.trnHeld = []) :
    afterForce t s = s := by
  rw [afterForce, settleTrn_of_noWaiters hwaiters, letIn_of_noneHeld hheld]

section Forced

variable {s : State} {t : Nat} (hwaiters : (getTrn s t).waiters = []) (harrived : (getTrn s t).arrived = 0)
  (hheld : s.trnHeld = []) (hformed : s.casc.formed = false)

theorem getTrn_record (code src : Nat) (payload : List Byte) (s : State) (t : Nat) :
    getTrn (record code src payload s) t = getTrn s t := by simp [getTrn]

theorem getTrn_recordForce (t op v k : Nat) (s : State) : getTrn (recordForce t op v s) k = getTrn s k := getTrn_record ..

include harrived in
theorem recordForce_of_idle (op v : Nat) : recordForce t op v s = record 0x0702 0x02 (leBytes 2 t ++ leBytes 1 op ++
    leBytes 1 0 ++ leBytes 2 v ++ leBytes 2 (getTrn s t).gen ++ leBytes 2 0) s := by rw [recordForce, harrived]

include hwaiters harrived hheld hformed

theorem setCountOp_of_idle (v : Nat) : setCountOp t v s =
    setTrn (recordForce t 0 v s) t { getTrn s t with count := max 1 (v % 2 ^ 16) } := by
  simp only [setCountOp, isMirror_of_notFormed hformed, getTrn_recordForce, harrived, recountMany]
  rw [afterForce_of_noWaiters (by simpa using hwaiters) (by simpa [recordForce] using hheld), ← harrived]
  rfl

theorem setGenOp_of_idle (v : Nat) : setGenOp t v s =
    setTrn (recordForce t 1 v s) t { getTrn s t with gen := v % 2 ^ 16 } := by
  simp only [setGenOp, isMirror_of_notFormed hformed, isGroupTrn_of_notFormed hformed, getTrn_recordForce, hwaiters,
    List.filter_nil, List.foldl_nil]
  rw [← harrived, ← hwaiters]
  exact afterForce_of_noWaiters (by simpa using hwaiters) (by simpa [recordForce] using hheld)

theorem completeGenOp_of_idle (v : Nat) : completeGenOp t v s =
    setTrn (recordForce t 2 v s) t { getTrn s t with gen := ((getTrn s t).gen + 1) % 2 ^ 16 } := by
  have hgroup : isGroupTrn (recordForce t 2 v s) t = false := isGroupTrn_of_notFormed (by simpa [recordForce] using hformed) t
  rw [completeGenOp, isMirror_of_notFormed hformed, if_neg (by decide),
    completeTrn_of_noWaiters (by simpa [getTrn_recordForce] using hwaiters) hgroup, getTrn_recordForce, ← harrived,
    afterForce_of_noWaiters (by simpa using hwaiters) (by simpa [recordForce] using hheld)]

end Forced

/-- A mirror with nobody waiting follows the master (R308). -/
theorem groupGenOp_of_noWaiters {s : State} {t gen : Nat} (hmirror : isMirror s t = true) (hwaiters : (getTrn s t).waiters = [])
    (hheld : s.trnHeld = []) : groupGenOp t gen s =
      setTrn s t { getTrn s t with gen := (gen + 1) % 2 ^ 16, lastArrival := s.time } := by
  simp only [groupGenOp, hmirror, hwaiters, List.filter_nil, List.foldl_nil]
  rw [← hwaiters]
  exact letIn_of_noneHeld (by simpa using hheld)

/-- A watcher of one queue that waits at one place fires when its interval has passed since (R310). -/
theorem deadlockOp_of_blocked {s : State} {w q t g z : Nat} (henable : (getWatcher s w).enable = true)
    (hfired : (getWatcher s w).fired = false) (hwatched : watchedQueues s (getWatcher s w) = [q])
    (hblocked : queueBlocked s q = true) (hwaits : queueWaits s q = [(t, g, z)]) :
    deadlockOp w s = sendMsix 0 (getWatcher s w).vector (record 0x0701 0x02
      (leBytes 1 w ++ leBytes 7 0 ++ leBytes 8 (q * 2 ^ 46 + t * 2 ^ 32 + g * 2 ^ 16 + 1))
      (setWatcher (passTo (max (max (getWatcher s w).since (getQueue s q).lastEnd) z + (getWatcher s w).interval * 1000000) s) w
        { getWatcher s w with fired := true, status := q * 2 ^ 46 + t * 2 ^ 32 + g * 2 ^ 16 + 1 })) := by
  have hstuck : [q].filter (queueBlocked s) = [q] := by simp [hblocked]
  have hsince : blockedSince s (getWatcher s w) [q] [q] = max (max (getWatcher s w).since (getQueue s q).lastEnd) z := by
    simp [blockedSince, hwaits]
  simp only [deadlockOp, hwatched, hstuck, hsince, hwaits, henable, hfired]
  simp [hblocked]

/-- Settles O48: a register write by whether the Turnstile is idle, a forced change by what it leaves with nobody waiting. -/
theorem turnstileRegisters : Obligations.TurnstileRegisters := by
  refine ⟨?config, ?forced, ?mirror, ?watcher⟩
  case config =>
    intro s t v hready hmirror
    have hrun : exec (.trnCfgWrite t v) s = .next (trnCfgOp t v.toNat s) := congrArg Host.Outcome.next (if_pos hready)
    rw [hrun]
    exact ⟨fun hidle => by simp [trnCfgOp, hmirror, hidle], fun hbusy => by simp [trnCfgOp, hmirror, hbusy]⟩
  case forced =>
    rintro s t v _ hready rfl hwaiters harrived hheld hformed - _ rfl
    refine ⟨(congrArg Host.Outcome.next (if_pos hready)).trans ?_, (congrArg Host.Outcome.next (if_pos hready)).trans ?_,
      (congrArg Host.Outcome.next (if_pos hready)).trans ?_⟩
    · rw [setCountOp_of_idle hwaiters harrived hheld hformed, recordForce_of_idle harrived]
    · rw [setGenOp_of_idle hwaiters harrived hheld hformed, recordForce_of_idle harrived]
    · rw [completeGenOp_of_idle hwaiters harrived hheld hformed, recordForce_of_idle harrived]
  case mirror =>
    rintro s t gen _ hmirror rfl hwaiters hheld
    exact congrArg Host.Outcome.next (groupGenOp_of_noWaiters hmirror hwaiters hheld)
  case watcher =>
    rintro s _ w q t g z _ _ rfl henable hfired hwatched hblocked hwaits rfl rfl
    exact congrArg Host.Outcome.next (deadlockOp_of_blocked henable hfired hwatched hblocked hwaits)

end Sys2Proof.Machine
end

section
/-! Formation of a cascade group (R308, R309, R338, R339, R346, R347): the checks in their order, and what a group that
passes leaves on its master and on a follower. -/

namespace Sys2Proof.Machine

/-- The registers that a write of LAN_CASC_CFG leaves. -/
def cascCfgWritten (v : Nat) (s : State) : State :=
  { s with casc := { s.casc with useReg := bit v 30, role := bits v 12 2, ident := bits v 8 4, topo := bits v 0 2 } }

/-- Only masters and followers count among the peers. -/
theorem filter_roles {peers : List (Nat × Nat × Nat)} (h : ∀ p ∈ peers, p.2.1 = 1 ∨ p.2.1 = 2) :
    peers.filter (fun d => decide (d.2.1 = 1 ∨ d.2.1 = 2)) = peers := List.filter_eq_self.2 (by simpa using h)

/-- The checks of a master, in their order (R339). -/
theorem formResult_of_master {s : State} {peers : List (Nat × Nat × Nat)} {edges : List (Nat × Nat)}
    (hrole : roleInUse s = 1) : formResult s peers edges =
    let all := (identInUse s, 1, s.cfg.running.proto) :: peers
    if 2 ≤ (all.filter (fun d => d.2.1 = 1)).length then 2
    else if (sortNat (all.map (·.1))).length < (all.map (·.1)).length then 3
    else if shapeOk s.variant s.casc.topo (all.map (·.1)) edges = false then 4
    else if ∃ p ∈ peers, p.2.2 ≠ s.cfg.running.proto then 5 else 0 := by
  have hproto : (!((identInUse s, 1, s.cfg.running.proto) :: peers).all (fun d => d.2.2 = s.cfg.running.proto)) = true ↔
      ∃ p ∈ peers, p.2.2 ≠ s.cfg.running.proto := by simp
  simp only [formResult, hrole, hproto, Bool.not_eq_true']
  rw [if_neg (by simp)]

/-- A formation that fails is recorded at the master (R339). -/
theorem formGroup_of_failed {s : State} {peers : List (Nat × Nat × Nat)} {wires : List Wiring} {mirrors : List Mirror}
    (hpeers : ∀ p ∈ peers, p.2.1 = 1 ∨ p.2.1 = 2) (hrole : roleInUse s = 1)
    (hfailed : formResult s peers (wires.map (fun w => w.ends)) ≠ 0) :
    formGroup peers wires mirrors s = record 0x0903 0x00
      (leBytes 1 (formResult s peers (wires.map (fun w => w.ends))) ++ leBytes 1 0 ++
        leBytes 2 (maskOf (identInUse s :: peers.map (·.1))))
      { s with casc := { s.casc with result := formResult s peers (wires.map (fun w => w.ends)) } } := by
  simp only [formGroup, filter_roles hpeers, if_neg hfailed, hrole, decide_true, if_true]

/-- The group as each of its members holds it. -/
def groupFormed (peers : List (Nat × Nat × Nat)) (wires : List Wiring) (master : Bool) (boss : Nat) (s : State) : State :=
  { s with casc := { s.casc with
      formed := true, master, masterId := boss, ownId := identInUse s
      members := maskOf (identInUse s :: peers.map (·.1)), result := 0, wires } }

/-- A group stands at its master (R308, R339). -/
theorem formGroup_of_master {s : State} {peers : List (Nat × Nat × Nat)} {wires : List Wiring} {mirrors : List Mirror}
    (hpeers : ∀ p ∈ peers, p.2.1 = 1 ∨ p.2.1 = 2) (hrole : roleInUse s = 1)
    (hpasses : formResult s peers (wires.map (fun w => w.ends)) = 0) : ∃ ts,
    formGroup peers wires mirrors s = { groupFormed peers wires true (identInUse s) s with trns := ts } := by
  simp only [formGroup, filter_roles hpeers, hrole, hpasses]
  exact ⟨_, rfl⟩

/-- The mirror of a group Turnstile with the master's values (R309). -/
def Turnstile.mirror (x : Turnstile) (m : Mirror) : Turnstile :=
  { x with
    gen := m.gen % 2 ^ 16, count := max 1 (m.count % 2 ^ 16), owner := m.owner % 2 ^ 6, remote := m.remote
    arrived := m.arrived % 2 ^ 16 }

/-- A group stands at a follower, with the master's values in its mirrors (R309, R339). -/
theorem formGroup_of_follower {s : State} {peers : List (Nat × Nat × Nat)} {wires : List Wiring} {m : Mirror}
    (hpeers : ∀ p ∈ peers, p.2.1 = 1 ∨ p.2.1 = 2) (hrole : roleInUse s = 2) (hgroup : 3840 ≤ m.trn)
    (hpasses : formResult s peers (wires.map (fun w => w.ends)) = 0) : ∃ (u : State) (y : Turnstile),
    formGroup peers wires [m] s = setTrn u m.trn (y.mirror m) ∧
    u.casc = (groupFormed peers wires false
      (((peers.find? (fun d => decide (d.2.1 = 1))).map (·.1)).getD (identInUse s)) s).casc := by
  have hmirror : [m].filter (fun m => decide (3840 ≤ m.trn)) = [m] := by simp [hgroup]
  simp only [formGroup, filter_roles hpeers, hrole, hpasses, hmirror, List.foldl_cons, List.foldl_nil]
  rw [if_pos trivial, if_neg (by decide)]
  exact ⟨_, _, rfl, rfl⟩

/-- Settles O50: the write of the configuration register, then formation at a master and at a follower. -/
theorem groupFormation : Obligations.GroupFormation := by
  refine ⟨?master, ?reserved, ?follower, ?host⟩
  case master =>
    rintro s v peers edges _ _ _ hready hformed hgo huse hrole hpeers rfl rfl rfl
    have hinUse : roleInUse (cascCfgWritten v.toNat s) = 1 := by simp [roleInUse, cascCfgWritten, huse, hrole]
    have hident : identInUse (cascCfgWritten v.toNat s) = bits v.toNat 8 4 := by simp [identInUse, cascCfgWritten, huse]
    have hrun : exec (.cascadeForm v peers edges none) s = .next (formGroup peers edges [] (cascCfgWritten v.toNat s)) := by
      refine (congrArg Host.Outcome.next (if_neg (by simp [hready]))).trans (congrArg Host.Outcome.next ?_)
      have hgoes : (bit v.toNat 31 && !s.casc.formed && decide (roleInUse (cascCfgWritten v.toNat s) = 1)) = true := by
        simp [hgo, hformed, hinUse]
      have hnotReserved : ¬((bit v.toNat 30 && decide (bits v.toNat 12 2 = 3)) = true) := by simp [hrole]
      simp only [cascCfgOp, if_neg hnotReserved]
      exact if_pos hgoes
    have hresult := formResult_of_master (peers := peers) (edges := edges.map (fun w => w.ends)) hinUse
    rw [hident] at hresult
    refine ⟨formResult (cascCfgWritten v.toNat s) peers (edges.map (fun w => w.ends)), _, hrun, ?_⟩
    by_cases hpasses : formResult (cascCfgWritten v.toNat s) peers (edges.map (fun w => w.ends)) = 0
    · obtain ⟨ts, hstands⟩ := formGroup_of_master (mirrors := []) hpeers hinUse hpasses
      rw [hstands, hpasses]
      exact ⟨rfl, huse, hrole, rfl, rfl, hpasses.symm.trans hresult, fun _ => ⟨rfl, rfl, by rw [← hident]; rfl, hident, rfl, rfl, rfl⟩,
        fun h => absurd rfl h⟩
    · rw [formGroup_of_failed hpeers hinUse hpasses]
      simp only [record_casc]
      exact ⟨trivial, huse, hrole, rfl, rfl, hresult, fun h => absurd h hpasses, fun _ => ⟨hformed, by rw [hident]; rfl⟩⟩
  case reserved =>
    intro s v peers edges hready huse hrole
    have hreserved : (bit v.toNat 30 && decide (bits v.toNat 12 2 = 3)) = true := by simp [huse, hrole]
    have hstays (b : Bool) (w : State) (h : roleInUse w = 0) :
        (b && !w.casc.formed && decide (roleInUse w = 1)) = false := by simp [h]
    refine ⟨_, (congrArg Host.Outcome.next (if_neg (by simp [hready]))), ?_⟩
    simp only [cascCfgOp, if_pos hreserved]
    rw [if_neg (by rw [hstays]; exact Bool.false_ne_true; simp [roleInUse, huse, hrole]), huse, hrole]
  case follower =>
    intro s v peers edges m hready hrole hformed hpeers
    refine ⟨fun hleft hpasses hgroup => ?_, fun hleft => ?_⟩
    · obtain ⟨u, y, hjoined, hu⟩ := formGroup_of_follower (wires := edges) hpeers hrole hgroup hpasses
      refine ⟨_, (congrArg Host.Outcome.next (if_neg (by simp [hready]))).trans (congrArg Host.Outcome.next
        (if_pos (by simp [hrole, hformed, hleft]))), ?_⟩
      rw [hjoined, setTrn_casc, hu, getTrn_setTrn]
      exact ⟨rfl, rfl, rfl, rfl, fun p hp => by simp [groupFormed, hp], rfl, rfl, rfl, rfl, rfl⟩
    · exact (congrArg Host.Outcome.next (if_neg (by simp [hready]))).trans (congrArg Host.Outcome.next
        (if_neg (by simp [hleft])))
  case host =>
    intro s hrole hlink hready
    exact congrArg Host.Outcome.next (if_pos (by simp [hrole, hlink, hready]))

end Sys2Proof.Machine
end

section
/-! What an access to memory leaves beside memory, mappings, their migrations and the operations that it wakes (R203, R227,
R236, R241). -/

namespace Sys2Proof.Machine

/-- Only what an access to memory can touch differs. -/
def OnlyMemory (s t : State) : Prop := ∃ op ti pg pl dm hm fi ms nc fr, (s.ops = [] → op = []) ∧ t = { s with
  ops := op, tiles := ti, pages := pg, place := pl, dmem := dm, hmem := hm, fills := fi, memStacks := ms, noc := nc, fresh := fr }

theorem OnlyMemory.refl (s : State) : OnlyMemory s s := ⟨_, _, _, _, _, _, _, _, _, _, id, rfl⟩

theorem OnlyMemory.trans {s t u : State} (h : OnlyMemory s t) (k : OnlyMemory t u) : OnlyMemory s u := by
  obtain ⟨_, _, _, _, _, _, _, _, _, _, hst, rfl⟩ := h
  obtain ⟨_, _, _, _, _, _, _, _, _, _, htu, rfl⟩ := k
  exact ⟨_, _, _, _, _, _, _, _, _, _, htu ∘ hst, rfl⟩

theorem OnlyMemory.foldl {β : Type} {f : State → β → State} (hf : ∀ s b, OnlyMemory s (f s b)) (l : List β) (s : State) :
    OnlyMemory s (l.foldl f s) := by
  induction l generalizing s with
  | nil => exact .refl s
  | cons b l ih => exact (hf s b).trans (ih _)

theorem OnlyMemory.casc {s t : State} (h : OnlyMemory s t) : t.casc = s.casc := by
  obtain ⟨_, _, _, _, _, _, _, _, _, _, -, rfl⟩ := h
  rfl

theorem onlyMemory_writeLine (a : Nat) (bs : List Byte) (s : State) : OnlyMemory s (writeLine a bs s) := by
  obtain ⟨_, _, _, _, h⟩ := writeLine_frame a bs s
  exact ⟨_, _, _, _, _, _, _, _, _, _, id, h⟩

theorem onlyMemory_zeroRuns (rs : List PRange) (s : State) : OnlyMemory s (zeroRuns rs s) :=
  .foldl (fun _ _ => ⟨_, _, _, _, _, _, _, _, _, _, id, rfl⟩) rs s

theorem onlyMemory_putRuns (asid lo hi : Nat) (rs : List PRange) (s : State) : OnlyMemory s (putRuns asid lo hi rs s) :=
  ⟨_, _, _, _, _, _, _, _, _, _, id, rfl⟩

theorem onlyMemory_of_backOne {bs : List Backing} {p : PRange} {s t : State} (h : backOne bs p s = some t) : OnlyMemory s t := by
  simp only [backOne] at h
  split at h
  next =>
    obtain rfl := Option.some.inj h
    exact (onlyMemory_putRuns ..).trans (onlyMemory_zeroRuns ..)
  next =>
    split at h
    next => exact absurd h nofun
    next =>
      obtain ⟨_, _, rfl⟩ := Option.map_eq_some_iff.1 h
      exact (onlyMemory_putRuns ..).trans (onlyMemory_zeroRuns ..)

theorem onlyMemory_of_backRuns {β : Type} {f : β → State → Option State} (hf : ∀ b s t, f b s = some t → OnlyMemory s t)
    (l : List β) {r : Option State} {t : State} (h : l.foldl (fun acc b => acc.bind (f b)) r = some t) :
    ∃ s, r = some s ∧ OnlyMemory s t := by
  induction l generalizing r with
  | nil => exact ⟨t, h, .refl t⟩
  | cons b l ih =>
    obtain ⟨s1, hs1, ht⟩ := ih h
    obtain ⟨s, hs, hb⟩ := Option.bind_eq_some_iff.1 hs1
    exact ⟨s, hs, (hf b s s1 hb).trans ht⟩

theorem onlyMemory_of_backRegion {asid va : Nat} {one : Bool} {s t : State} (h : backRegion asid va one s = some t) :
    OnlyMemory s t := by
  simp only [backRegion] at h
  split at h
  next p _ =>
    split at h
    next =>
      split at h
      next =>
        obtain ⟨_, _, rfl⟩ := Option.map_eq_some_iff.1 h
        exact (onlyMemory_putRuns ..).trans (onlyMemory_zeroRuns ..)
      next => exact absurd h nofun
    next =>
      obtain ⟨s0, hs0, ht⟩ := onlyMemory_of_backRuns (fun _ _ _ => onlyMemory_of_backOne) _ h
      obtain rfl := Option.some.inj hs0
      exact ht
  next => exact absurd h nofun

theorem onlyMemory_endMigration (m : Migration) (s : State) : OnlyMemory s (endMigration m s) :=
  ⟨_, _, _, _, _, _, _, _, _, _, fun h => by rw [h]; rfl, rfl⟩

theorem onlyMemory_cancelMigration (m : Migration) (s : State) : OnlyMemory s (cancelMigration m s) :=
  (OnlyMemory.foldl (fun s x => onlyMemory_endMigration x s) _ s).trans (onlyMemory_endMigration m _)

theorem onlyMemory_installMigration (m : Migration) (s : State) : OnlyMemory s (installMigration m s) := by
  have hunread (u : State) : OnlyMemory u (unreadLines m u) := .foldl (fun _ _ => ⟨_, _, _, _, _, _, _, _, _, _, id, rfl⟩) _ u
  have hmoved : OnlyMemory s (wholeLines m.new (2 ^ 21) (movePhys m.old m.new (2 ^ 21) s)) :=
    ⟨_, _, _, _, _, _, _, _, _, _, id, rfl⟩
  exact (hmoved.trans (hunread _)).trans ⟨_, _, _, _, _, _, _, _, _, _, id, rfl⟩

theorem onlyMemory_finishMigration (m : Migration) (s : State) : OnlyMemory s (finishMigration m s) := by
  simp only [finishMigration]
  split
  next => exact onlyMemory_cancelMigration _ s
  next => exact (OnlyMemory.foldl (fun s x => onlyMemory_installMigration x s) _ s).trans (onlyMemory_installMigration m _)

theorem onlyMemory_of_resolveTouch {w : Who} {e : Stop} {s t : State} (h : resolveTouch w e s = .ok t) : OnlyMemory s t := by
  unfold resolveTouch at h
  split at h
  next =>
    split at h
    next m _ =>
      obtain rfl := Except.ok.inj h
      exact onlyMemory_finishMigration m s
    next => exact absurd h nofun
  next =>
    split at h
    next hback =>
      obtain rfl := Except.ok.inj h
      exact onlyMemory_of_backRegion hback
    next => exact absurd h nofun
  next => exact absurd h nofun

theorem onlyMemory_readRM (w : Who) (addr n fuel : Nat) (s : State) : OnlyMemory s (readRM w addr n fuel s).2 := by
  induction fuel generalizing s with
  | zero => exact .refl s
  | succ fuel ih =>
    rw [readRM]
    split
    next => exact .refl s
    next =>
      split
      next hres => exact (onlyMemory_of_resolveTouch hres).trans (ih _)
      next => exact .refl s

theorem onlyMemory_storeV (w : Who) (n addr : Nat) (bs : List Byte) (s : State) : OnlyMemory s (storeV w n addr bs s) := by
  induction n generalizing addr bs s with
  | zero => exact .refl s
  | succ n ih =>
    simp only [storeV]
    split
    next => exact .refl s
    next =>
      refine OnlyMemory.trans ?_ (ih ..)
      split
      next => exact onlyMemory_writeLine ..
      next => exact ⟨_, _, _, _, _, _, _, _, _, _, id, rfl⟩
      next => exact .refl s

theorem onlyMemory_of_writeV {w : Who} {addr : Nat} {bs : List Byte} {s t : State} (h : writeV w addr bs s = .ok t) :
    OnlyMemory s t := by
  unfold writeV at h
  split at h
  next => exact absurd h nofun
  next =>
    obtain rfl := Except.ok.inj h
    exact onlyMemory_storeV ..

theorem onlyMemory_writeRM (w : Who) (addr : Nat) (bs : List Byte) (fuel : Nat) (s : State) :
    OnlyMemory s (writeRM w addr bs fuel s).2 := by
  induction fuel generalizing s with
  | zero =>
    rw [writeRM]
    split
    next h => exact onlyMemory_of_writeV h
    next => exact .refl s
  | succ fuel ih =>
    rw [writeRM]
    split
    next h => exact onlyMemory_of_writeV h
    next =>
      split
      next hres => exact (onlyMemory_of_resolveTouch hres).trans (ih _)
      next => exact .refl s

end Sys2Proof.Machine
end

section
/-! What the work of the Turnstile unit leaves (R291 to R308): everything but Turnstiles, operations that end or go on, what has
been sent, and records. -/

namespace Sys2Proof.Machine

/-- Only what the Turnstile unit and its answers can touch differs. -/
def OnlyTurnstiles (s t : State) : Prop := ∃ ts th op fi ti fl mo fu l n o f, t = { s with
  trns := ts, trnHeld := th, ops := op, fills := fi, tiles := ti, floe := fl, mor := mo, funcs := fu
  casc := { s.casc with links := l, txSeq := n }, outbox := o, fresh := f }

theorem OnlyTurnstiles.refl (s : State) : OnlyTurnstiles s s := ⟨_, _, _, _, _, _, _, _, s.casc.links, s.casc.txSeq, _, _, rfl⟩

theorem OnlyTurnstiles.trans {s t u : State} (h : OnlyTurnstiles s t) (k : OnlyTurnstiles t u) : OnlyTurnstiles s u := by
  obtain ⟨_, _, _, _, _, _, _, _, _, _, _, _, rfl⟩ := h
  obtain ⟨_, _, _, _, _, _, _, _, l, n, _, _, rfl⟩ := k
  exact ⟨_, _, _, _, _, _, _, _, l, n, _, _, rfl⟩

theorem OnlyTurnstiles.foldl {β : Type} {f : State → β → State} (hf : ∀ s b, OnlyTurnstiles s (f s b)) (l : List β)
    (s : State) : OnlyTurnstiles s (l.foldl f s) := by
  induction l generalizing s with
  | nil => exact .refl s
  | cons b l ih => exact (hf s b).trans (ih _)

theorem OnlySends.onlyTurnstiles {s t : State} (h : OnlySends s t) : OnlyTurnstiles s t := by
  obtain ⟨l, n, _, _, rfl⟩ := h
  exact ⟨_, _, _, _, _, _, _, _, l, n, _, _, rfl⟩

theorem onlyTurnstiles_setTrn (s : State) (t : Nat) (x : Turnstile) : OnlyTurnstiles s (setTrn s t x) :=
  ⟨_, _, _, _, _, _, _, _, s.casc.links, s.casc.txSeq, _, _, rfl⟩

theorem onlyTurnstiles_updOp (tag : Nat) (f : Op → Op) (s : State) : OnlyTurnstiles s (updOp tag f s) :=
  ⟨_, _, _, _, _, _, _, _, s.casc.links, s.casc.txSeq, _, _, rfl⟩

theorem onlyTurnstiles_endOp (tag : Nat) (r : Result) (s : State) : OnlyTurnstiles s (endOp tag r s) :=
  ⟨_, _, _, _, _, _, _, _, s.casc.links, s.casc.txSeq, _, _, rfl⟩

theorem onlyTurnstiles_record (code src : Nat) (payload : List Byte) (s : State) : OnlyTurnstiles s (record code src payload s) := by
  obtain ⟨_, _, _, h⟩ := record_frame code src payload s
  exact ⟨_, _, _, _, _, _, _, _, s.casc.links, s.casc.txSeq, _, _, h⟩

theorem onlyTurnstiles_releaseWaiter (w : Waiter) (s : State) : OnlyTurnstiles s (releaseWaiter w s) := by
  unfold releaseWaiter
  split
  next => exact (onlySends_answerPeer ..).onlyTurnstiles
  next =>
    split
    next => exact onlyTurnstiles_updOp ..
    next => exact onlyTurnstiles_endOp ..

theorem onlyTurnstiles_completeTrn (t : Nat) (s : State) : OnlyTurnstiles s (completeTrn t s) := by
  simp only [completeTrn]
  have hreleased (l : List Waiter) (x : Turnstile) : OnlyTurnstiles s (l.foldl (fun s w => releaseWaiter w s) (setTrn s t x)) :=
    (onlyTurnstiles_setTrn ..).trans (.foldl (fun s w => onlyTurnstiles_releaseWaiter w s) l _)
  split
  next => exact (hreleased _ _).trans (OnlySends.foldl (fun _ _ => onlySends_sendCasc ..) _ _).onlyTurnstiles
  next => exact hreleased _ _

theorem onlyTurnstiles_recount (t : Nat) (s : State) : OnlyTurnstiles s (recount t s) := by
  simp only [recount]
  split
  next => exact (onlyTurnstiles_setTrn ..).trans (onlyTurnstiles_completeTrn ..)
  next => exact onlyTurnstiles_setTrn ..

theorem onlyTurnstiles_arriveOne (t : Nat) (s : State) : OnlyTurnstiles s (arriveOne t s) :=
  (onlyTurnstiles_setTrn ..).trans (onlyTurnstiles_recount ..)

theorem onlyTurnstiles_arriveMany (t n : Nat) (s : State) : OnlyTurnstiles s (arriveMany t n s).2 := by
  induction n generalizing s with
  | zero => exact .refl s
  | succ n ih =>
    cases n with
    | zero => exact onlyTurnstiles_arriveOne t s
    | succ n => exact (onlyTurnstiles_arriveOne t s).trans (ih _)

theorem onlyTurnstiles_enterWaiter (t : Nat) (w : Waiter) (s : State) : OnlyTurnstiles s (enterWaiter t w s) := by
  simp only [enterWaiter]
  split
  next => exact (onlyTurnstiles_setTrn ..).trans (onlyTurnstiles_record ..)
  next => exact onlyTurnstiles_setTrn ..

theorem onlyTurnstiles_registerWaiter (t : Nat) (w : Waiter) (s : State) : OnlyTurnstiles s (registerWaiter t w s) := by
  simp only [registerWaiter]
  split
  next => exact ⟨_, _, _, _, _, _, _, _, s.casc.links, s.casc.txSeq, _, _, rfl⟩
  next => exact onlyTurnstiles_enterWaiter ..

theorem onlyTurnstiles_waitAt (t : Nat) (w : Waiter) (s : State) : OnlyTurnstiles s (waitAt t w s) := by
  unfold waitAt
  split
  next => exact onlyTurnstiles_releaseWaiter ..
  next => exact onlyTurnstiles_registerWaiter ..

theorem onlyTurnstiles_countFor (t : Nat) (w : Waiter) (s : State) : OnlyTurnstiles s (countFor t w s) := by
  simp only [countFor]
  refine (onlyTurnstiles_arriveMany t w.n s).trans ?_
  split
  next => exact onlyTurnstiles_waitAt ..
  next => exact onlyTurnstiles_releaseWaiter ..

theorem onlyTurnstiles_settleTrn (t n : Nat) (s : State) : OnlyTurnstiles s (settleTrn t n s) := by
  induction n generalizing s with
  | zero => exact .refl s
  | succ n ih =>
    simp only [settleTrn]
    split
    next => exact .refl s
    next => exact ((onlyTurnstiles_setTrn ..).trans (onlyTurnstiles_countFor ..)).trans (ih _)

theorem onlyTurnstiles_arriveAt (t : Nat) (curgen : Bool) (w : Waiter) (s : State) : OnlyTurnstiles s (arriveAt t curgen w s) := by
  simp only [arriveAt]
  split
  next => exact onlyTurnstiles_registerWaiter ..
  next => exact (onlyTurnstiles_countFor ..).trans (onlyTurnstiles_settleTrn ..)

theorem onlyTurnstiles_admitHeld (n : Nat) (s : State) : OnlyTurnstiles s (admitHeld n s) := by
  induction n generalizing s with
  | zero => exact .refl s
  | succ n ih =>
    simp only [admitHeld]
    split
    next => exact .refl s
    next t w rest _ =>
      have htaken : OnlyTurnstiles s { s with trnHeld := rest } :=
        ⟨_, _, _, _, _, _, _, _, s.casc.links, s.casc.txSeq, _, _, rfl⟩
      split
      next => exact htaken.trans (ih _)
      next =>
        split
        next => exact .refl s
        next =>
          refine (htaken.trans ?_).trans (ih _)
          split
          next =>
            split
            next => exact onlyTurnstiles_enterWaiter ..
            next => exact (onlyTurnstiles_countFor ..).trans (onlyTurnstiles_settleTrn ..)
          next =>
            split
            next => exact onlyTurnstiles_releaseWaiter ..
            next => exact onlyTurnstiles_enterWaiter ..

theorem onlyTurnstiles_letIn (s : State) : OnlyTurnstiles s (letIn s) := by
  unfold letIn
  split
  next => exact .refl s
  next => exact onlyTurnstiles_admitHeld ..

/-- What a signal or a group operation of another device does (R304 to R308). -/
theorem onlyTurnstiles_performMsg (dev queue : Nat) (m : CascMsg) (s : State) : OnlyTurnstiles s (performMsg dev queue m s) := by
  have hsend (d : Nat) (m : CascMsg) : OnlyTurnstiles s (sendCasc d m s) := (onlySends_sendCasc ..).onlyTurnstiles
  unfold performMsg
  split
  next =>
    split
    next => exact .refl s
    next =>
      dsimp only
      split
      next => exact hsend ..
      next => exact (onlyTurnstiles_arriveAt ..).trans (onlyTurnstiles_letIn _)
  next =>
    dsimp only
    split
    next => exact hsend ..
    next =>
      split
      next => exact (onlyTurnstiles_waitAt ..).trans (onlyTurnstiles_letIn _)
      next => exact (onlyTurnstiles_arriveAt ..).trans (onlyTurnstiles_letIn _)
  next => exact .refl s

theorem OnlyTurnstiles.rxHeld {s t : State} (h : OnlyTurnstiles s t) : t.casc.rxHeld = s.casc.rxHeld := by
  obtain ⟨_, _, _, _, _, _, _, _, _, _, _, _, rfl⟩ := h
  rfl

theorem OnlySends.rxHeld {s t : State} (h : OnlySends s t) : t.casc.rxHeld = s.casc.rxHeld := h.onlyTurnstiles.rxHeld

end Sys2Proof.Machine
end

section
/-! Cascade messages in order (R323, R340): what is discarded, what is held, and what the message in its turn leaves. -/

namespace Sys2Proof.Machine

theorem retryHeld_of_noneHeld {s : State} (h : s.casc.rxHeld = []) : retryHeld s = s := by simp [retryHeld, h, retryRounds]

/-- A message is held until its turn. -/
def heldFor (dev seq : Nat) (m : CascMsg) (s : State) : State :=
  { s with casc := { s.casc with rxHeld := [(dev, m.net, seq, m)] } }

/-- A message has been delivered, and the next number is awaited. -/
def messageTaken (dev seq : Nat) (m : CascMsg) (u : State) : State :=
  { u with casc := { u.casc with
      rxHeld := [], rxSeq := tset (dflt 0) u.casc.rxSeq (seqKey dev m.net) ((seq + 1) % 2 ^ 16) } }

section Receive

variable {s : State} {dev seq : Nat} {m : CascMsg} (hnone : s.casc.rxHeld = [])

include hnone in
theorem receiveMsg_of_discarded (h : isMember s dev = false ∨ bit s.noc.errLog 63 = true ∨
    32768 ≤ (seq + 2 ^ 16 - tget (dflt 0) s.casc.rxSeq (seqKey dev m.net)) % 2 ^ 16) : receiveMsg dev seq m s = s := by
  rcases h with h | h | h <;> simp only [receiveMsg, hnone, h] <;> simp

include hnone in
/-- One that is taken is held, and delivered if it is next. -/
theorem receiveMsg_of_taken (hmember : isMember s dev = true) (hworks : bit s.noc.errLog 63 = false)
    (hnew : (seq + 2 ^ 16 - tget (dflt 0) s.casc.rxSeq (seqKey dev m.net)) % 2 ^ 16 < 32768) :
    receiveMsg dev seq m s = retryHeld (drainHeld dev m.net 1 (heldFor dev seq m s)) := by
  have hlate : decide (32768 ≤ (seq + 2 ^ 16 - tget (dflt 0) s.casc.rxSeq (seqKey dev m.net)) % 2 ^ 16) = false :=
    decide_eq_false (Nat.not_le.2 hnew)
  simp only [receiveMsg, hnone, hmember, hworks, hlate]
  rfl

/-- A held message that stays where it is is tried in vain once more. -/
theorem retryHeld_of_stays (h : drainHeld dev m.net 1 (heldFor dev seq m s) = heldFor dev seq m s) :
    retryHeld (heldFor dev seq m s) = heldFor dev seq m s := by
  change retryRounds 1 (heldFor dev seq m s) = _
  simp only [retryRounds]
  have hfold : (heldFor dev seq m s).casc.rxHeld.foldl
      (fun t h => drainHeld h.1 h.2.1 t.casc.rxHeld.length t) (heldFor dev seq m s) = heldFor dev seq m s := h
  rw [hfold, if_pos rfl]

theorem drainHeld_of_ahead (h : seq ≠ tget (dflt 0) s.casc.rxSeq (seqKey dev m.net)) :
    drainHeld dev m.net 1 (heldFor dev seq m s) = heldFor dev seq m s := by
  simp [drainHeld, heldFor, h]

theorem drainHeld_of_waits (h : seq = tget (dflt 0) s.casc.rxSeq (seqKey dev m.net))
    (hwaits : deliverMsg dev m (heldFor dev seq m s) = none) :
    drainHeld dev m.net 1 (heldFor dev seq m s) = heldFor dev seq m s := by
  subst h
  simp [drainHeld, heldFor] at hwaits ⊢
  rw [hwaits]

theorem drainHeld_of_delivered {u : State} (h : seq = tget (dflt 0) s.casc.rxSeq (seqKey dev m.net))
    (hdeliver : deliverMsg dev m (heldFor dev seq m s) = some u) :
    drainHeld dev m.net 1 (heldFor dev seq m s) = { u with casc := { u.casc with
      rxHeld := u.casc.rxHeld.erase (dev, m.net, seq, m)
      rxSeq := tset (dflt 0) u.casc.rxSeq (seqKey dev m.net) ((seq + 1) % 2 ^ 16) } } := by
  subst h
  simp [drainHeld, heldFor] at hdeliver ⊢
  rw [hdeliver]

/-- The message in its turn, delivered (R340). -/
theorem receiveMsg_of_delivered {u : State} (hnone : s.casc.rxHeld = []) (hmember : isMember s dev = true)
    (hworks : bit s.noc.errLog 63 = false) (hnext : seq = tget (dflt 0) s.casc.rxSeq (seqKey dev m.net))
    (hdeliver : deliverMsg dev m (heldFor dev seq m s) = some u) (hheld : u.casc.rxHeld = [(dev, m.net, seq, m)]) :
    receiveMsg dev seq m s = messageTaken dev seq m u := by
  have hdrain := drainHeld_of_delivered hnext hdeliver
  have herased : u.casc.rxHeld.erase (dev, m.net, seq, m) = [] := by rw [hheld, List.erase_cons_head]
  simp only [herased] at hdrain
  rw [receiveMsg_of_taken hnone hmember hworks (by rw [← hnext]; omega), hdrain]
  exact retryHeld_of_noneHeld rfl

/-- The message in its turn, while it cannot be delivered. -/
theorem receiveMsg_of_waits (hnone : s.casc.rxHeld = []) (hmember : isMember s dev = true)
    (hworks : bit s.noc.errLog 63 = false) (hnext : seq = tget (dflt 0) s.casc.rxSeq (seqKey dev m.net))
    (hdeliver : deliverMsg dev m (heldFor dev seq m s) = none) : receiveMsg dev seq m s = heldFor dev seq m s := by
  have hdrain := drainHeld_of_waits hnext hdeliver
  rw [receiveMsg_of_taken hnone hmember hworks (by rw [← hnext]; omega), hdrain]
  exact retryHeld_of_stays hdrain

end Receive

/-- Settles O51: a message is discarded, held ahead of its turn, or delivered in it. -/
theorem messagesInOrder : Obligations.MessagesInOrder := by
  rintro c s _ dev seq _ m hc rfl hnone rfl
  have hrun : exec c s = .next (receiveMsg dev seq m s) := by
    rcases hc with ⟨_, _, _, _, _, _, rfl, rfl⟩ | ⟨_, _, _, _, _, rfl, rfl⟩ | ⟨_, _, _, rfl, rfl⟩ | ⟨_, _, rfl, rfl⟩ |
      ⟨_, _, _, _, _, _, _, rfl, rfl⟩ | ⟨_, _, rfl, rfl⟩ | ⟨_, _, _, _, _, _, _, _, rfl, rfl⟩ | ⟨_, _, rfl, rfl⟩ |
      ⟨_, _, rfl, rfl⟩ | ⟨_, _, _, rfl, rfl⟩ | ⟨_, _, _, _, _, _, rfl, rfl⟩ <;> rfl
  rw [hrun]
  refine ⟨fun h => congrArg Host.Outcome.next (receiveMsg_of_discarded hnone h), fun hmember hworks hnew hahead => ?_,
    fun hmember hworks hnext _ => ⟨fun hwaits => ?_, fun u hdeliver hheld => ?_⟩⟩
  · have hstays := drainHeld_of_ahead (s := s) hahead
    rw [receiveMsg_of_taken hnone hmember hworks hnew, hstays, retryHeld_of_stays hstays]
    rfl
  · exact congrArg Host.Outcome.next (receiveMsg_of_waits hnone hmember hworks hnext hwaits)
  · exact congrArg Host.Outcome.next (receiveMsg_of_delivered hnone hmember hworks hnext hdeliver hheld)

end Sys2Proof.Machine
end

section
/-! What each cascade message does when it is delivered (R304 to R308, R335, R343). -/

namespace Sys2Proof.Machine

/-! ### Signals and group operations behind a fence (R304 to R306) -/

/-- A fence is taken from the counter of its channel. -/
def fenceTaken (k fence : Nat) (s : State) : State :=
  { s with casc := { s.casc with rxBytes := tset (dflt 0) s.casc.rxBytes k (tget (dflt 0) s.casc.rxBytes k - fence) } }

theorem releaseChannel_of_met {s : State} {dev q : Nat} {m : CascMsg} (honly : s.casc.rxSignals = [(chanKey q dev, m)])
    (hmet : fenceOf m ≤ tget (dflt 0) s.casc.rxBytes (chanKey q dev)) (hfree : channelWaits s dev q = false) :
    releaseChannel dev q 1 s =
      performMsg dev q m (fenceTaken (chanKey q dev) (fenceOf m) { s with casc := { s.casc with rxSignals := [] } }) := by
  simp [releaseChannel, setCounter, honly, hmet, hfree, fenceTaken]

theorem releaseChannel_of_unmet {s : State} {dev q : Nat} {m : CascMsg} (honly : s.casc.rxSignals = [(chanKey q dev, m)])
    (hunmet : tget (dflt 0) s.casc.rxBytes (chanKey q dev) < fenceOf m ∨ channelWaits s dev q = true) :
    releaseChannel dev q 1 s = s := by
  rcases hunmet with h | h
  · simp [releaseChannel, honly, Nat.not_le.2 h]
  · simp [releaseChannel, honly, h]

/-- A message behind a fence that is met takes effect at once. -/
theorem holdMsg_of_met {s : State} {dev q : Nat} {m : CascMsg} (hnone : s.casc.rxSignals = [])
    (hmet : fenceOf m ≤ tget (dflt 0) s.casc.rxBytes (chanKey q dev)) (hfree : channelWaits s dev q = false) :
    holdMsg dev q m s = performMsg dev q m (fenceTaken (chanKey q dev) (fenceOf m) s) := by
  have hreleased := releaseChannel_of_met (s := { s with casc := { s.casc with rxSignals := [(chanKey q dev, m)] } }) rfl hmet hfree
  have hself : { s with casc := { s.casc with rxSignals := [] } } = s := by rw [← hnone]
  simp only [holdMsg, hnone]
  exact hreleased.trans (congrArg (fun u => performMsg dev q m (fenceTaken (chanKey q dev) (fenceOf m) u)) hself)

theorem holdMsg_of_unmet {s : State} {dev q : Nat} {m : CascMsg} (hnone : s.casc.rxSignals = [])
    (hunmet : tget (dflt 0) s.casc.rxBytes (chanKey q dev) < fenceOf m) :
    holdMsg dev q m s = { s with casc := { s.casc with rxSignals := [(chanKey q dev, m)] } } := by
  simp only [holdMsg, hnone]
  exact releaseChannel_of_unmet (s := { s with casc := { s.casc with rxSignals := [(chanKey q dev, m)] } }) rfl (.inl hunmet)

/-- One arrival of another device below COUNT counts and is answered (R296, R305). -/
theorem arriveAt_of_peer {u : State} {t g : Nat} (p : Peer) (hwaiters : (getTrn u t).waiters = [])
    (hbelow : (getTrn u t).arrived + 1 < (getTrn u t).count) (hheld : u.trnHeld = []) : ∃ ts,
    letIn (arriveAt t true { kind := 1, peer := some p, gen := g, n := 1 } u) = answerPeer p 0 { u with trns := ts } ∧
    tget (dflt {}) ts t = { getTrn u t with
      arrived := (getTrn u t).arrived + 1, total := ((getTrn u t).total + 1) % 2 ^ 64, lastArrival := u.time } := by
  obtain ⟨ts, harrived, ht, -⟩ := arriveOne_frame (.inl hbelow)
  have hcount : countFor t { kind := 1, peer := some p, gen := g, n := 1 } u = answerPeer p 0 { u with trns := ts } := by
    simp [countFor, arriveMany, releaseWaiter, harrived]
  obtain ⟨_, _, _, _, hsent⟩ := onlySends_answerPeer p 0 { u with trns := ts }
  refine ⟨ts, ?_, ?_⟩
  · have hnone : (getTrn (countFor t { kind := 1, peer := some p, gen := g, n := 1 } u) t).waiters = [] := by
      rw [hcount, hsent]
      change (tget (dflt {}) ts t).waiters = []
      rw [ht]
      exact hwaiters
    rw [arriveAt_of_current (.inl rfl) hnone, hcount, letIn_of_noneHeld (by rw [hsent]; exact hheld)]
  · rw [ht]
    simp only [Turnstile.arrival, if_pos hbelow]

section Arrivals

variable {u : State} {dev q f t g : Nat} (howner : (getTrn u t).owner = f) (hwaiters : (getTrn u t).waiters = [])
  (hbelow : (getTrn u t).arrived + 1 < (getTrn u t).count) (hheld : u.trnHeld = []) (hmirror : isMirror u t = false)

include howner hwaiters hbelow hheld hmirror

theorem performMsg_signal_of_below (q' z : Nat) (hremote : (getTrn u t).remote = true) : ∃ ts,
    performMsg dev q (.signal q' f t 1 g true z) u = sendCasc dev (.signalDone 0 q) { u with trns := ts } ∧
    tget (dflt {}) ts t = { getTrn u t with
      arrived := (getTrn u t).arrived + 1, total := ((getTrn u t).total + 1) % 2 ^ 64, lastArrival := u.time } := by
  obtain ⟨ts, harrived, ht⟩ := arriveAt_of_peer (g := g) { dev, byOp := false, mark := q, queue := q } hwaiters hbelow hheld
  refine ⟨ts, Eq.trans ?_ harrived, ht⟩
  simp [performMsg, hmirror, hremote, howner]

theorem performMsg_trnOp_of_below (w q' : Nat) (hgroup : isGroupTrn u t = true) : ∃ ts,
    performMsg dev q (.trnOp 0 t g 1 true w f q') u = sendCasc dev (.trnDone w 0) { u with trns := ts } ∧
    tget (dflt {}) ts t = { getTrn u t with
      arrived := (getTrn u t).arrived + 1, total := ((getTrn u t).total + 1) % 2 ^ 64, lastArrival := u.time } := by
  obtain ⟨ts, harrived, ht⟩ := arriveAt_of_peer (g := g) { dev, byOp := true, mark := w, queue := q } hwaiters hbelow hheld
  refine ⟨ts, Eq.trans ?_ harrived, ht⟩
  simp [performMsg, hmirror, hgroup, howner]

end Arrivals

/-! ### Answers (R305, R335) -/

section Answers

variable {s : State} {o : Op} {dev : Nat} (honly : s.ops = [o]) (hwaits : o.phase = .waiting)

include honly hwaits

theorem endRemote_of_waiting (c : Cascade) : ∃ ti fl, endRemote o.tag 0 { s with casc := c } = { s with
    casc := c, fills := [], tiles := ti, floe := fl, ops := [o.ended {}] } := by
  have hfound : findOp { s with casc := c } o.tag = some o := findOp_of_only honly
  obtain ⟨ti, fl, hended⟩ := endOp_of_only {} (s := { s with casc := c }) honly
  exact ⟨ti, fl, by simp only [endRemote, hfound, hwaits]; exact hended⟩

theorem signalDoneOp_ends {q : Nat} (hout : s.casc.sigOut = [(chanKey q dev, o.tag)]) : ∃ ti fl,
    signalDoneOp dev 0 q s = { s with
      casc := { s.casc with sigOut := [] }, fills := [], tiles := ti, floe := fl, ops := [o.ended {}] } := by
  obtain ⟨ti, fl, hended⟩ := endRemote_of_waiting honly hwaits { s.casc with sigOut := [] }
  exact ⟨ti, fl, by simpa [signalDoneOp, hout] using hended⟩

theorem trnDoneOp_ends {w k : Nat} (hout : s.casc.trnOut = [(w, k, o.tag)]) : ∃ ti fl,
    trnDoneOp w 0 s = { s with
      casc := { s.casc with trnOut := [] }, fills := [], tiles := ti, floe := fl, ops := [o.ended {}] } := by
  obtain ⟨ti, fl, hended⟩ := endRemote_of_waiting honly hwaits { s.casc with trnOut := [] }
  exact ⟨ti, fl, by simpa [trnDoneOp, hout] using hended⟩

/-- The last acknowledged line of a PUT ends it, where no flags of it wait. -/
theorem ackOne_ends {e a st : Nat} (hacks : s.casc.acks = [(dev, o.tag)]) (hsent : o.sent = [(e, a)])
    (hflags : ∀ f ∈ o.sentFlags, f.1 ≠ e) : ∃ ti fl, ackOne dev st s = { s with
      casc := { s.casc with acks := [] }, fills := [], tiles := ti, floe := fl
      ops := [({ o with sent := [] } : Op).ended (if st = 0 then { cursor := o.cursor } else stopWith st e a)] } := by
  have hkept : o.sentFlags.filter (fun f => !decide (f.1 = e)) = o.sentFlags := List.filter_eq_self.2 (by simpa using hflags)
  have hnoFlags : o.sentFlags.filter (fun f => decide (f.1 = e)) = [] := List.filter_eq_nil_iff.2 (by simpa using hflags)
  obtain ⟨ti, fl, hended⟩ := endOp_of_only (o := { o with sent := [] })
    (if st = 0 then { cursor := o.cursor } else stopWith st e a)
    (s := { s with casc := { s.casc with acks := [] }, ops := [{ o with sent := [] }] }) rfl
  refine ⟨ti, fl, Eq.trans ?_ hended⟩
  by_cases hst : st = 0
  · simp [ackOne, findOp, hacks, hsent, hwaits, hst, sentFlagsOf, hnoFlags, updOp, honly, hkept]
  · simp [ackOne, findOp, hacks, hsent, hwaits, hst, updOp, honly]

end Answers

/-- The last line of a GET lets it go on. -/
theorem readDataOp_of_last {s : State} {o : Op} {r a : Nat} (line : List Byte) (hreads : s.casc.reads = [(r, (o.tag, a))])
    (honly : s.ops = [o]) (hwaits : o.phase = .waiting) (hsent : o.sent = []) :
    readDataOp r 0 line s = { s with
      ops := [{ o with lines := tinsert a line o.lines, phase := .ready }], casc := { s.casc with reads := [] } } := by
  simp [readDataOp, findOp, hreads, tfind, terase, hwaits, hsent, updOp, honly, askAll]

theorem doorbellOp_casc (func q size v : Nat) (s : State) : (doorbellOp func q size v s).casc = s.casc := by
  simp only [doorbellOp]
  split
  · rfl
  · split <;> rfl

/-! ### Memory for another device (R335, R343) -/

theorem onlyNoc_casc {s t : State} (h : OnlyNoc s t) : t.casc = s.casc := by
  obtain ⟨_, rfl⟩ := h
  rfl

theorem recordStop_casc (w : Who) (e : Stop) (s : State) : (recordStop w e s).casc = s.casc := by
  cases e <;> simp [recordStop, recordFault]

section Memory

variable {u u1 : State} {dev q a g n off : Nat} {line : List Byte}

theorem deliverWrite_of_written (hfree : counterFree u dev q = true)
    (hwrite : writeRM (peerWho u dev q g) (a / 64 * 64 + off) ((line.drop off).take n) 3 u = (none, u1)) :
    deliverWrite dev q a g n off line u = some (sendCasc dev (.writeDone 0 1) (countArrived dev q n
      (accessFlits (linkNode (linkTo u dev q)) (peerWho u dev q g) true (a / 64 * 64 + off) { u1 with fills := [] }))) := by
  simp only [deliverWrite, hfree, hwrite]
  rfl

theorem deliverRead_of_read {r : Nat} {bs : List Byte}
    (hread : readRM (peerWho u dev 0 g) (a / 64 * 64 + off) n 3 u = (.ok bs, u1)) :
    deliverRead dev a g n off r u = some (sendCasc dev (.readData r 0 (padTo 64 (fill off 0 ++ bs)))
      (accessFlits (linkNode (linkTo u dev 0)) (peerWho u dev 0 g) false (a / 64 * 64 + off) u1)) := by
  simp only [deliverRead, hread]

theorem deliverRead_of_fault {r st b : Nat}
    (hread : readRM (peerWho u dev 0 g) (a / 64 * 64 + off) n 3 u = (.error (.fault st b), u1)) :
    deliverRead dev a g n off r u = some (sendCasc dev (.readData r st (fill 64 0))
      (recordStop (peerWho u dev 0 g) (.fault st b) u1)) := by
  simp only [deliverRead, hread]
  rfl

end Memory

/-! ### The message in its turn -/

/-- The message in its turn that keeps what is held beside it. -/
theorem receiveMsg_next {s u : State} {dev seq : Nat} {m : CascMsg} (hmember : isMember s dev = true)
    (hworks : bit s.noc.errLog 63 = false) (hnone : s.casc.rxHeld = [])
    (hnext : seq = tget (dflt 0) s.casc.rxSeq (seqKey dev m.net)) (hdeliver : deliverMsg dev m (heldFor dev seq m s) = some u)
    (hkeeps : u.casc.rxHeld = (heldFor dev seq m s).casc.rxHeld) :
    Host.Outcome.next (φ := Fault) (ρ := Refusal) (receiveMsg dev seq m s) = .next (messageTaken dev seq m u) :=
  congrArg Host.Outcome.next (receiveMsg_of_delivered hnone hmember hworks hnext hdeliver hkeeps)

/-- Settles O52: each message in its turn, by what its delivery leaves. -/
theorem messagesTakeEffect : Obligations.MessagesTakeEffect := by
  rintro s _ dev seq m _ hmember hworks hnone - hnext hheld rfl rfl
  have hturn {u : State} := receiveMsg_next (u := u) hmember hworks hnone hnext
  refine ⟨?write, ?read, ?readData, ?writeDone, ?done, ?signal, ?trnOp, ?trnRel, ?doorbell⟩
  case write =>
    rintro q a g n off line s1 rfl hfree hwrite
    refine hturn (deliverWrite_of_written (u := heldFor dev seq _ s) hfree hwrite) ?_
    rw [(onlySends_sendCasc ..).rxHeld]
    simp only [countArrived, onlyNoc_casc (onlyNoc_accessFlits ..)]
    exact congrArg (·.rxHeld) (hwrite ▸ onlyMemory_writeRM .. : OnlyMemory (heldFor dev seq _ s) s1).casc
  case read =>
    rintro a g n off r s1 rfl
    refine ⟨fun bs hread => ?_, fun st b hread => ?_⟩
    · refine hturn (deliverRead_of_read (u := heldFor dev seq _ s) hread) ?_
      rw [(onlySends_sendCasc ..).rxHeld, onlyNoc_casc (onlyNoc_accessFlits ..)]
      exact congrArg (·.rxHeld) (hread ▸ onlyMemory_readRM .. : OnlyMemory (heldFor dev seq _ s) s1).casc
    · refine hturn (deliverRead_of_fault (u := heldFor dev seq _ s) hread) ?_
      rw [(onlySends_sendCasc ..).rxHeld, recordStop_casc]
      exact congrArg (·.rxHeld) (hread ▸ onlyMemory_readRM .. : OnlyMemory (heldFor dev seq _ s) s1).casc
  case readData =>
    rintro r line tag a o rfl hreads honly rfl hwaits hsent
    exact hturn (congrArg some (readDataOp_of_last line (by exact hreads) honly hwaits hsent)) rfl
  case writeDone =>
    rintro o e a st rfl hacks honly hwaits hsent hflags
    obtain ⟨ts, fu, hended⟩ := ackOne_ends (s := heldFor dev seq (.writeDone st 1) s) honly hwaits hacks hsent hflags
    exact ⟨ts, fu, hturn (congrArg some hended) rfl⟩
  case done =>
    intro o q honly hwaits
    refine ⟨?_, ?_⟩
    · rintro rfl hout
      obtain ⟨ts, fu, hended⟩ := signalDoneOp_ends (s := heldFor dev seq (.signalDone 0 q) s) honly hwaits hout
      exact ⟨ts, fu, hturn (congrArg some hended) rfl⟩
    · rintro w k rfl hout
      obtain ⟨ts, fu, hended⟩ := trnDoneOp_ends (s := heldFor dev seq (.trnDone w 0) s) honly hwaits hout
      exact ⟨ts, fu, hturn (congrArg some hended) rfl⟩
  case signal =>
    rintro q f t g z x rfl hnosig hfree rfl
    refine ⟨fun hmet hmirror hremote howner hwaiters hbelow => ?_, fun hunmet => ?_⟩
    · obtain ⟨ts, hperformed, ht⟩ := performMsg_signal_of_below (dev := dev) (q := q) (g := g)
        (u := fenceTaken (chanKey q dev) z (heldFor dev seq (.signal q f t 1 g true z) s)) howner hwaiters hbelow hheld hmirror q z
        hremote
      exact ⟨ts, (hturn (congrArg some ((holdMsg_of_met (m := .signal q f t 1 g true z) (s := heldFor dev seq (.signal q f t 1 g true z) s) hnosig hmet hfree).trans hperformed)) (onlySends_sendCasc ..).rxHeld), ht⟩
    · exact hturn (congrArg some (holdMsg_of_unmet (by exact hnosig) hunmet)) rfl
  case trnOp =>
    rintro q f t g w x rfl hnosig hfree rfl hmaster ht3840 howner hwaiters hbelow
    have hformed : s.casc.formed = true := by
      simp only [isMember, Bool.and_eq_true] at hmember
      exact hmember.1.1
    have hgroup : isGroupTrn s t = true := by simp [isGroupTrn, hformed, ht3840]
    have hmirror : isMirror s t = false := by simp [isMirror, hmaster]
    obtain ⟨ts, hperformed, ht⟩ := performMsg_trnOp_of_below (dev := dev) (q := q) (g := g)
      (u := fenceTaken (chanKey q dev) 0 (heldFor dev seq (.trnOp 0 t g 1 true w f q) s)) howner hwaiters hbelow hheld hmirror w q
      hgroup
    exact ⟨ts, _, (hturn (congrArg some ((holdMsg_of_met (m := .trnOp 0 t g 1 true w f q) (s := heldFor dev seq (.trnOp 0 t g 1 true w f q) s) hnosig (Nat.zero_le _) hfree).trans hperformed)) (onlySends_sendCasc ..).rxHeld), ht⟩
  case trnRel =>
    rintro t g x rfl hmaster hmirror rfl hwaiters
    exact hturn (congrArg some ((if_pos hmaster).trans (groupGenOp_of_noWaiters hmirror hwaiters hheld))) rfl
  case doorbell =>
    rintro f q v rfl
    have hkeeps (w : State) (h : w.casc = (heldFor dev seq (.doorbell f q v.toNat) s).casc) (st : Nat) :
        (sendCasc dev (.writeDone st 1) w).casc.rxHeld = (heldFor dev seq (.doorbell f q v.toNat) s).casc.rxHeld :=
      (onlySends_sendCasc ..).rxHeld.trans (congrArg (·.rxHeld) h)
    exact ⟨fun hbound => hturn (congrArg some (if_neg (not_not.2 hbound))) (hkeeps _ (doorbellOp_casc ..) 0),
      fun hother => hturn (congrArg some (if_pos hother)) (hkeeps _ rfl 0x21)⟩

end Sys2Proof.Machine
end

section
/-! PUT, GET and DOORBELL of this device, and the release of a fence (R304, R343). -/

namespace Sys2Proof.Machine

/-- An operation of a cascade opcode that is ready and finds its units begins. -/
theorem runWhen_of_cascade {s : State} {tag k : Nat} {o : Op} {f : Op → State → State} (ho : findOp s tag = some o)
    (hready : o.phase = .ready) (happ : s.cfg.applying = none) (hslot : o.slotFree s = true) (hopc : o.opc = 0x40)
    (hkind : o.ckind = k) : runWhen tag (isCkind k) f s = f o (beginOp o s) := by
  rw [runWhen_of_ready ho hready (by simp [isCkind, hopc, hkind]) happ hslot, placed_of_notOnePart (onePart_of_opc hopc (by decide))]

theorem begun_phase (o : Op) (s : State) : (o.begun s).phase = o.phase := by
  obtain ⟨k, h⟩ := placed_frame o s
  simp [Op.begun, h]

theorem updOp_updOp {tag : Nat} {f g : Op → Op} (hf : ∀ x, x.tag = tag → (f x).tag = tag) (s : State) :
    updOp tag g (updOp tag f s) = updOp tag (fun x => g (f x)) s := by
  have hmap : (s.ops.map (fun x => if x.tag = tag then f x else x)).map (fun x => if x.tag = tag then g x else x) =
      s.ops.map (fun x => if x.tag = tag then g (f x) else x) := by
    rw [List.map_map]
    refine List.map_congr_left fun x _ => ?_
    by_cases hx : x.tag = tag
    · simp [hx, hf x hx]
    · simp [hx]
  simp only [updOp, hmap]

/-- A PUT of one element awaits its answers once its bytes have gone (R343). -/
theorem putLoop_of_oneElement {u s1 : State} {tag : Nat} {o y z : Op} {x : XVal × Nat} (hz : findOp u tag = some z)
    (hready : z.phase = .ready) (hcursor : z.cursor = 0) (hcount : (o.tensor 3).count = 1)
    (hlen : deliverLen (o.tensor 3) 0 = 1)
    (hload : loadElem u (whoOf z) (o.tensor 1) ((o.tensor 1).coords 0) = .ok x)
    (hsent : deliverBy (sendWrites z 0) (fun l fl k => updOp tag (fun x =>
      { x with sentFlags := x.sentFlags ++ [(0, (o.tensor 3).runPos l, fl, k)] })) tag z.arith 0 0 (o.tensor 3)
      [(x.1, x.2, noK)] u = .ok s1)
    (hy : findOp s1 tag = some y) (hyready : y.phase = .ready) (hycursor : y.cursor = 0) (hysent : y.sent ≠ []) :
    putLoop tag o 2 u = updOp tag (fun x => { x with cursor := x.cursor + 1, phase := .waiting, since := s1.time }) s1 := by
  have hmoved : findOp (updOp tag (fun o => { o with cursor := o.cursor + 1 }) s1) tag = some { y with cursor := y.cursor + 1 } :=
    findOp_updOp_of hy (fun _ h => h)
  have hvalues : valuesOf (fun l => (loadElem u (whoOf z) (o.tensor 1) ((o.tensor 1).coords l)).map (fun x => (x.1, x.2, noK))) 1 0 =
      .ok [(x.1, x.2, noK)] := by simp [valuesOf, hload, Except.map]
  have hwaits : putLoop tag o 1 (updOp tag (fun o => { o with cursor := o.cursor + 1 }) s1) =
      updOp tag (fun x => { x with cursor := x.cursor + 1, phase := .waiting, since := s1.time }) s1 := by
    have hmore : y.sent.isEmpty = false := by simpa using hysent
    simp only [putLoop, hmoved, hyready, hycursor, hcount, hmore]
    refine (if_neg nofun).trans ((if_pos (Nat.le_refl 1)).trans ((if_neg Bool.false_ne_true).trans ?_))
    exact updOp_updOp (f := fun o => { o with cursor := o.cursor + 1 }) (fun _ h => h) s1
  rw [putLoop]
  simp only [hz, hready, hcount, hcursor, hlen, hvalues, hsent]
  exact hwaits

/-- The only line that an operation wants is asked for, under a free RTAG. -/
theorem askLines_of_one {u : State} {z : Op} {a r : Nat} (honly : u.ops = [z]) (hsent : z.sent = [(a, 0)])
    (hfree : freeRtag u = some r) : askLines z.tag 1 u = sendCasc z.peerDev (.read a (z.fld 62 2) 64 0 r) { u with
      ops := [{ z with sent := [] }], casc := { u.casc with reads := tinsert r (z.tag, a) u.casc.reads } } := by
  have hsent' : updOp z.tag (fun x => { x with sent := [] }) { u with
      casc := { u.casc with reads := tinsert r (z.tag, a) u.casc.reads } } = { u with
      ops := [{ z with sent := [] }], casc := { u.casc with reads := tinsert r (z.tag, a) u.casc.reads } } := by
    simp [updOp, honly]
  unfold askLines
  simp only [findOp_of_only honly, hfree, hsent, hsent']
  rfl

section Single

variable {s : State} {o : Op} (honly : s.ops = [o])

include honly

theorem updOp_beginOp_of_only (f : Op → Op) : updOp o.tag f (beginOp o s) = { s with
    works := (beginOp o s).works, floe := (beginOp o s).floe, ops := [f (o.begun s)] } := by
  rw [updOp, beginOp_ops_of_only honly, List.map_cons, List.map_nil, if_pos (begun_tag o s)]
  rfl

/-- A GET asks for the only line of the remote record. -/
theorem getOp_of_oneLine {a r : Nat} (hgen : o.gen = 1) (hline : (o.tensor 3).allLines = [a]) (hfree : freeRtag s = some r) :
    ∃ w fu, getOp o.tag o (beginOp o s) = sendCasc o.peerDev (.read a (o.fld 62 2) 64 0 r) { s with
      works := w, floe := fu, ops := [{ o.begun s with gen := 2, phase := .waiting, since := s.time, sent := [] }]
      casc := { s.casc with reads := tinsert r (o.tag, a) s.casc.reads } } := by
  refine ⟨(beginOp o s).works, (beginOp o s).floe, ?_⟩
  simp only [getOp, hgen, if_true, hline]
  rw [updOp_beginOp_of_only honly]
  have hdesc : (o.begun s).desc = o.desc := placed_desc o s
  have hasked := askLines_of_one (a := a) (r := r) (u := { s with
    works := (beginOp o s).works, floe := (beginOp o s).floe
    ops := [{ o.begun s with gen := 2, phase := .waiting, since := s.time, sent := [(a, 0)] }] }) rfl rfl hfree
  simp only [Op.peerDev, Op.fld, hdesc, begun_tag, List.map_cons, List.map_nil] at hasked ⊢
  exact hasked

/-- DOORBELL is sent, and its answer awaited. -/
theorem sendDoorbell_of_only : ∃ w fu, sendDoorbell o.tag o (beginOp o s) =
    sendCasc o.peerDev (.doorbell o.func (o.fld 72 3) (o.fld 64 8)) { s with
      works := w, floe := fu, ops := [{ o.begun s with phase := .waiting, since := s.time, sent := [(0, 0)] }]
      casc := { s.casc with acks := s.casc.acks ++ [(o.peerDev, o.tag)] } } := by
  refine ⟨(beginOp o s).works, (beginOp o s).floe, ?_⟩
  simp only [sendDoorbell]
  rw [updOp_beginOp_of_only honly]
  rfl

end Single

/-- Settles O53: the peer's refusal, one element sent, one line asked for, the doorbell sent, and the fence of a held signal. -/
theorem remoteOperations : Obligations.RemoteOperations := by
  refine ⟨?refused, ?put, ?get, ?doorbell, ?fence⟩
  case refused =>
    rintro c s tag st rec o ho hready happ hslot hopc hgen hst hc
    have hrefused (f : Op → State → State) : withPeer tag rec st f o (beginOp o s) = refuseOp tag st (beginOp o s) := by
      simp [withPeer, hgen, hst]
    rcases hc with ⟨rfl, hkind⟩ | ⟨rfl, hkind⟩ <;>
      exact congrArg Host.Outcome.next ((runWhen_of_cascade ho hready happ hslot hopc hkind).trans (hrefused _))
  case put =>
    rintro s _ s1 tag st rec o y _ vs ho hready happ hslot hopc hkind hgen hcursor hcount hheld rfl rfl hvs hsent hy hyready
      hycursor hysent hlen
    obtain ⟨x, hload, rfl⟩ : ∃ x, loadElem (beginOp o s) (whoOf (o.begun s)) (o.tensor 1) ((o.tensor 1).coords 0) = .ok x ∧
        [(x.1, x.2, noK)] = vs := by
      cases hx : loadElem (beginOp o s) (whoOf (o.begun s)) (o.tensor 1) ((o.tensor 1).coords 0) with
      | error e => simp [hx, Except.map] at hvs
      | ok x => exact ⟨x, rfl, by simpa [hx, Except.map] using hvs⟩
    have hrun := putLoop_of_oneElement (findOp_beginOp ho) ((begun_phase o s).trans hready) ((begun_cursor o s).trans hcursor)
      hcount hlen hload (by simpa [Op.arith] using hsent) hy hyready hycursor hysent
    refine congrArg Host.Outcome.next ((runWhen_of_cascade ho hready happ hslot hopc hkind).trans ?_)
    refine (if_pos (by simp [hgen])).trans ((if_neg (by exact Bool.eq_false_iff.1 hheld)).trans ?_)
    rw [hcount]
    exact hrun
  case get =>
    rintro s _ st a r rec o honly rfl hready happ hslot hopc hkind hgen hline hfree
    obtain ⟨w, fu, hasked⟩ := getOp_of_oneLine honly hgen hline hfree
    refine ⟨w, fu, congrArg Host.Outcome.next ((runWhen_of_cascade (findOp_of_only honly) hready happ hslot hopc hkind).trans ?_)⟩
    exact (if_pos (by simp [hgen])).trans hasked
  case doorbell =>
    rintro s _ o honly rfl hready happ hslot hopc hkind
    obtain ⟨w, fu, hsent⟩ := sendDoorbell_of_only honly
    exact ⟨w, fu, congrArg Host.Outcome.next
      ((runWhen_of_cascade (findOp_of_only honly) hready happ hslot hopc hkind).trans hsent)⟩
  case fence =>
    rintro s dev q m - honly hheld
    have hrun (t : State) (h : releaseChannel dev q 1 s = t) (ht : t.casc.rxHeld = []) : exec (.fenceRelease dev q) s = .next t := by
      refine congrArg Host.Outcome.next ?_
      rw [fenceReleaseOp, honly]
      exact (congrArg retryHeld h).trans (retryHeld_of_noneHeld ht)
    refine ⟨fun hmet hfree => hrun _ (releaseChannel_of_met honly hmet hfree) ?_,
      fun hunmet => hrun s (releaseChannel_of_unmet honly hunmet) hheld⟩
    rw [(onlyTurnstiles_performMsg ..).rxHeld]
    exact hheld

end Sys2Proof.Machine
end

section
/-! Collectives (R342, R344, R345): what a member submits, what the parts of all members lead to, and parts that come first. -/

namespace Sys2Proof.Machine

/-! ### Parts -/

theorem mapM_eq_none_of_mem {α β : Type} {f : α → Option β} {l : List α} {a : α} (ha : a ∈ l) (h : f a = none) :
    l.mapM f = none := by
  induction l with
  | nil => exact absurd ha List.not_mem_nil
  | cons b l ih =>
    rcases List.mem_cons.1 ha with rfl | hmem
    · simp [List.mapM_cons, h]
    · cases hb : f b <;> simp [List.mapM_cons, hb, ih hmem]

theorem allParts_of_missing {s : State} {o : Op} {d : Nat} (hd : d ∈ o.memberIds) (hnone : partOf s o d = none) :
    allParts s o = none := mapM_eq_none_of_mem hd hnone

theorem takeLate_of_notLate {s : State} {d tag mask : Nat} (h : (d, tag, mask) ∉ s.casc.late) : takeLate d tag mask s = (false, s) :=
  if_neg h

theorem onlySends_tellMembers (o : Op) (kind count : Nat) (codes : List W64) (status : Nat) (s : State) :
    OnlySends s (tellMembers o kind count codes status s) := .foldl (fun _ _ => onlySends_sendCasc ..) _ s

/-- A part of one member leaves the part of another missing. -/
theorem partOf_append_of_other {s : State} {o : Op} {d : Nat} {p : CollPart} (hnone : partOf s o d = none) (hp : p.dev ≠ d) :
    partOf { s with casc := { s.casc with parts := s.casc.parts ++ [p] } } o d = none := by
  simp only [partOf, List.find?_append, Option.or_eq_none_iff]
  exact ⟨hnone, by simp [hp]⟩

theorem wakeColl_of_missing {s : State} {tag d : Nat} {o : Op} (ho : findOp s tag = some o) (hd : d ∈ o.memberIds)
    (hnone : partOf s o d = none) : wakeColl tag s = s := by
  simp [wakeColl, ho, allParts_of_missing hd hnone]

/-- The flags of a member's own conversions, where none is raised. -/
theorem lines_of_noFlags {fls : List Nat} (h : ∀ x ∈ fls, x = 0) (t : Table (List Byte)) (k : Nat) :
    (fls.zipIdx k).foldl (fun (t : Table (List Byte)) x => tset (dflt []) t x.2 (if x.1 = 0 then [] else leBytes 2 x.1)) t =
      (fls.zipIdx k).foldl (fun (t : Table (List Byte)) x => tset (dflt []) t x.2 []) t := by
  induction fls generalizing t k with
  | nil => rfl
  | cons x xs ih =>
    simp only [List.zipIdx_cons, List.foldl_cons, if_pos (h x List.mem_cons_self)]
    exact ih (fun y hy => h y (List.mem_cons_of_mem x hy)) _ _

/-! ### The exchange -/

/-- What a collective whose counts agree goes through its destination with. -/
def collAct (tag : Nat) (order : List Nat) (ps : List CollPart) (o : Op) (s : State) :
    Op → Nat → Nat → State → Except (Stop × Bool) State :=
  if o.reduces then actVal tag (o.tensor 2) o.arith (fun s' x l => .ok (reduceAt ps order (ownPlace s' x) x
    ((if o.ckind = 1 then (scatterPart (o.tensor 1).count ps.length (ownPlace s o)).1 else 0) + l)))
  else moveRunOf tag ps (o.tensor 2)

section Exchange

variable {s : State} {tag : Nat} {order : List Nat} {ps : List CollPart} {o : Op}

theorem exchange_of_ended (h : ∃ p ∈ ps, p.fmt = partEnded) : exchange tag order ps o s = refuseOp tag 0x50 s :=
  if_pos (by simpa using h)

theorem exchange_of_disagree (h : ∀ p ∈ ps, p.fmt ≠ partEnded) (hcounts : countsAgree ps = false) :
    exchange tag order ps o s = refuseOp tag 0x41 s :=
  (if_neg (by simpa using h)).trans (if_pos (by simp [hcounts]))

theorem exchange_of_agree (h : ∀ p ∈ ps, p.fmt ≠ partEnded) (hcounts : countsAgree ps = true) :
    exchange tag order ps o s = driveBy tag (o.tensor 2).count (deliverLen (o.tensor 2)) (collAct tag order ps o s)
      ((o.tensor 2).count + 1) s := by
  refine (if_neg (by simpa using h)).trans ((if_neg (by simp [hcounts])).trans ?_)
  rw [collAct]
  split
  · rfl
  · rfl

end Exchange

/-- An operation that has submitted its part waits for the others. -/
def Op.submitted (now : Nat) (fls : List Nat) (o : Op) : Op :=
  { o with
    phase := .waiting, gen := 1, since := now
    lines := fls.zipIdx.foldl (fun (t : Table (List Byte)) x => tset (dflt []) t x.2 []) [] }

/-- A collective that has not submitted submits, and waits where a member's part is missing (R344). -/
theorem submitColl_of_missing {u v : State} {tag d : Nat} {o z : Op} {p : CollPart} {fls : List Nat} (hz : findOp u tag = some z)
    (hdesc : z.desc = o.desc) (hpart : ownPart u o = .ok (p, fls)) (hflags : ∀ x ∈ fls, x = 0) (hd : d ∈ o.memberIds)
    (hother : p.dev ≠ d) (hmissing : partOf u o d = none) (hlate : (u.casc.ownId, o.collTag, o.memberMask) ∉ u.casc.late)
    (hv : v = tellMembers o (256 * p.fmt) p.count p.codes 0 (updOp tag (Op.submitted u.time fls) u)) :
    submitColl tag o u = { v with casc := { v.casc with parts := u.casc.parts ++ [p] } } := by
  have hsent : OnlySends (updOp tag (Op.submitted u.time fls) u) v := hv ▸ onlySends_tellMembers ..
  have hsubmits : submitColl tag o u = wakeColl tag { v with casc := { v.casc with parts := v.casc.parts ++ [p] } } := by
    rw [hv]
    simp only [submitColl, hpart, takeLate_of_notLate hlate, lines_of_noFlags hflags]
    rfl
  obtain ⟨_, _, _, _, rfl⟩ := hsent
  have hfound : findOp (updOp tag (Op.submitted u.time fls) u) tag = some (z.submitted u.time fls) := findOp_updOp_of hz (fun _ h => h)
  have hcoll (x : Op) (h : x.desc = o.desc) (s : State) : partOf s x d = partOf s o d ∧ x.memberIds = o.memberIds := by
    simp [partOf, Op.collTag, Op.memberMask, Op.memberIds, Op.fld, h]
  obtain ⟨hsame, hmembers⟩ := hcoll (z.submitted u.time fls) hdesc
    { u with casc := { u.casc with parts := u.casc.parts ++ [p] } }
  refine hsubmits.trans (wakeColl_of_missing (d := d) (o := z.submitted u.time fls) (by exact hfound) (hmembers ▸ hd) ?_)
  exact hsame.trans (partOf_append_of_other hmissing hother)

/-- A part that comes before this device's own is kept (R344). -/
theorem collSubmitted_of_idle {s : State} {dev tag mask fmt count : Nat} {codes : List W64}
    (hlate : (dev, tag, mask) ∉ s.casc.late) (hops : s.ops = []) : collSubmitted dev tag mask fmt count codes s =
      { s with casc := { s.casc with parts := s.casc.parts ++ [{ dev, tag, members := mask, fmt, count, codes }] } } := by
  simp [collSubmitted, takeLate_of_notLate hlate, collHere, hops]

/-- Settles O54: what a member submits, how the exchange ends or runs, a timeout, and a part that comes first. -/
theorem collectives : Obligations.Collectives := by
  refine ⟨?run, ?timeout, ?submitted⟩
  case run =>
    rintro c s _ s1 tag n order o x ps _ act st ho hready happ hslot hopc rfl rfl hc
    obtain ⟨ord, hrun, hact⟩ : ∃ ord, exec c s = .next (collOp tag ord o (beginOp o s)) ∧
        collAct tag ord ps o (beginOp o s) = act := by
      rcases hc with ⟨rfl, hkind, rfl⟩ | ⟨rfl, hkind, rfl⟩ | ⟨⟨rfl, hkind⟩ | ⟨rfl, hkind⟩, rfl⟩ <;>
        exact ⟨_, congrArg Host.Outcome.next (runWhen_of_cascade ho hready happ hslot hopc hkind), by
          simp [collAct, Op.reduces, hkind]⟩
    rw [hrun]
    refine ⟨fun p fls d hgen hpart hflags hd hdev hp hmissing hlate hs1 => ?_, fun hgen hparts => ?_⟩
    · have hsubmitted : collOp tag ord o (beginOp o s) = submitColl tag o (beginOp o s) := if_pos hgen
      exact congrArg Host.Outcome.next (hsubmitted.trans (submitColl_of_missing (findOp_beginOp ho) (placed_desc o s) hpart hflags hd
        (fun h => hdev (h.symm.trans hp)) hmissing hlate hs1))
    · have hexchange : collOp tag ord o (beginOp o s) = exchange tag ord ps o (beginOp o s) := by
        have hu : allParts (beginOp o s) o = some ps := hparts
        simp only [collOp, if_neg hgen, hu]
      rw [hexchange]
      refine ⟨fun hended => congrArg Host.Outcome.next (exchange_of_ended hended),
        fun hgo hcounts => congrArg Host.Outcome.next (exchange_of_disagree hgo hcounts),
        fun hgo hcounts hn hst hsteps hx hlast => ?_⟩
      obtain ⟨fuel, hfuel⟩ := driveBy_of_deliversRuns hn (fun i hi => hsteps i hi)
      rw [exchange_of_agree hgo hcounts, hact, ← hst, hfuel, driveBy_of_behind fuel hx hlast]
  case timeout =>
    intro s tag o ho hcoll hwaits hgen hus hmissing
    refine congrArg Host.Outcome.next ?_
    simp [collTimeoutOp, ho, hcoll, hwaits, hgen, hus, hmissing]
  case submitted =>
    intro s dev seq t ms k n cs hmember hworks hnone _ hnext heven hlate hops
    refine (receiveMsg_next hmember hworks hnone hnext
      (congrArg some ((if_pos heven).trans (collSubmitted_of_idle (by exact hlate) (by exact hops)))) rfl).trans ?_
    exact congrArg (fun held => (Host.Outcome.next { s with casc := { s.casc with
      rxHeld := held, parts := s.casc.parts ++ [{ dev, tag := t, members := ms, fmt := k / 256, count := n, codes := cs }]
      rxSeq := tset (dflt 0) s.casc.rxSeq (seqKey dev (CascMsg.collective t ms k n cs 0).net) ((seq + 1) % 2 ^ 16) } } : Host.Outcome State Fault Refusal)) hnone.symm

end Sys2Proof.Machine
end

section
/-! Links of the cascade (R326 to R341): records beside the cascade state, the lanes of a link, and a link's own state. -/

namespace Sys2Proof.Machine

/-! ### A record takes nothing from the cascade state, and leaves it -/

/-- A state with another cascade state. -/
def withCasc (c : Cascade) (s : State) : State := { s with casc := c }

theorem sendMsix_withCasc (func vec : Nat) (c : Cascade) (s : State) :
    sendMsix func vec (withCasc c s) = withCasc c (sendMsix func vec s) := by
  simp only [sendMsix, apply_ite (withCasc c)]
  rfl

theorem morIrq_withCasc (sev : Nat) (c : Cascade) (s : State) : morIrq sev (withCasc c s) = withCasc c (morIrq sev s) := by
  unfold morIrq
  by_cases hsev : (decide (s.mor.irqSev ≤ 6) && decide (s.mor.irqSev ≤ sev)) = true
  · rw [if_pos (by exact hsev), if_pos hsev]
    cases hirq : s.mor.lastIrq with
    | none =>
      have hnone : (withCasc c s).mor.lastIrq = none := hirq
      simp only [hnone]
      exact sendMsix_withCasc _ _ c { s with mor := { s.mor with lastIrq := some s.time } }
    | some t =>
      have hsome : (withCasc c s).mor.lastIrq = some t := hirq
      simp only [hsome, apply_ite (withCasc c)]
      exact congrArg₂ (ite _) (sendMsix_withCasc _ _ c { s with mor := { s.mor with lastIrq := some s.time } }) (by rw [← hsome]; rfl)
  · rw [if_neg (by exact hsev), if_neg hsev]

theorem createRec_withCasc (code sev src : Nat) (payload : List Byte) (c : Cascade) (s : State) :
    createRec code sev src payload (withCasc c s) = withCasc c (createRec code sev src payload s) := by
  simp only [createRec, ← morIrq_withCasc]
  rfl

theorem record_withCasc (code src : Nat) (payload : List Byte) (c : Cascade) (s : State) :
    record code src payload (withCasc c s) = withCasc c (record code src payload s) := by
  simp only [record, recordSev, apply_ite (withCasc c), ← createRec_withCasc]
  rfl

theorem record_mor_withCasc (code src : Nat) (payload : List Byte) (c : Cascade) (s : State) :
    (record code src payload (withCasc c s)).mor = (record code src payload s).mor := by
  rw [record_withCasc]
  rfl

/-! ### The lanes of a link -/

/-- Each entry of distinct keys is changed once. -/
theorem tget_foldl_tset {α : Type} [DecidableEq α] (d : Nat → α) (f : α → α) {key : Nat → Nat} (hkey : Function.Injective key)
    {l : List Nat} (hl : l.Nodup) (t : Table α) (i : Nat) :
    tget d (l.foldl (fun t i => tset d t (key i) (f (tget d t (key i)))) t) (key i) =
      if i ∈ l then f (tget d t (key i)) else tget d t (key i) := by
  induction l generalizing t with
  | nil => simp
  | cons j l ih =>
    obtain ⟨hj, hl⟩ := List.nodup_cons.1 hl
    rw [List.foldl_cons, ih hl]
    by_cases hij : i = j
    · subst hij
      simp [hj]
    · have hne : key i ≠ key j := fun h => hij (hkey h)
      simp [hij, tget_tset_ne, hne]

theorem getLane_mapLinkLanes (l : Nat) (f : CascLane → CascLane) (s : State) {i : Nat} (hi : i < 8) :
    getLane (mapLinkLanes l f s) (8 * l + i) = f (getLane s (8 * l + i)) := by
  have h := tget_foldl_tset (dflt {}) f (key := fun i => 8 * l + i) (fun _ _ h => Nat.add_left_cancel h) List.nodup_range
    s.casc.lanes (l := List.range 8) i
  simpa [hi, getLane, mapLinkLanes] using h

@[simp] theorem getLink_mapLinkLanes (l : Nat) (f : CascLane → CascLane) (s : State) (k : Nat) :
    getLink (mapLinkLanes l f s) k = getLink s k := rfl

@[simp] theorem getLink_ledgerLink (f : Ledger → Ledger) (s : State) (k : Nat) : getLink (ledgerLink f s) k = getLink s k := rfl

@[simp] theorem getLane_ledgerLink (f : Ledger → Ledger) (s : State) (n : Nat) : getLane (ledgerLink f s) n = getLane s n := rfl

@[simp] theorem getLane_setLink (s : State) (l : Nat) (x : CascLink) (n : Nat) : getLane (setLink s l x) n = getLane s n := rfl

@[simp] theorem getLink_record (code src : Nat) (payload : List Byte) (s : State) (l : Nat) :
    getLink (record code src payload s) l = getLink s l := by simp [getLink]

@[simp] theorem getLane_record (code src : Nat) (payload : List Byte) (s : State) (n : Nat) :
    getLane (record code src payload s) n = getLane s n := by simp [getLane]

/-! ### Scans that cannot go on (R332) -/

theorem scanLost_frame (test : Nat → Bool) (s : State) : ∃ b d r,
    scanLost test s = withCasc { s.casc with eyeBusy := b, eyeDone := d, eyeResult := r } s := by
  unfold scanLost
  split
  · split
    · exact ⟨_, _, _, rfl⟩
    · exact ⟨_, _, _, rfl⟩
  · exact ⟨_, _, _, rfl⟩

theorem scanLost_of_idle {s : State} (h : s.casc.eyeBusy = none) (test : Nat → Bool) : scanLost test s = s := by
  simp [scanLost, h]

/-! ### Retrains (R330, R337) -/

/-- A link whose retrain has begun. -/
def CascLink.retrained (x : CascLink) (now : Nat) : CascLink :=
  { x with
    up := false, training := true, idle := false, rxIdle := false
    retrainTimes := x.retrainTimes.filter (fun t => decide (now < t + 1000000000)) ++ [now]
    retrains := min 0xFFFF (x.retrains + 1) }

/-- A link whose retrain has begun, with its lanes to be aligned anew and counted in the ledger. -/
def retraining (l : Nat) (x : CascLink) (s : State) : State :=
  ledgerLink (fun g => { g with linkRetrains := tadd g.linkRetrains l 1 })
    (mapLinkLanes l (fun n => { n with markerSeen := 0, skew := 0 }) (setLink s l (x.retrained s.time)))

theorem beginRetrain_eq (l : Nat) (x : CascLink) (s : State) : beginRetrain l x s =
    if 2 ≤ (x.retrainTimes.filter (fun t => decide (s.time < t + 1000000000))).length
    then failLink l 1 s.casc.members (retraining l x s) else retraining l x s := by
  have htimes : (x.retrainTimes ++ [s.time]).filter (fun t => decide (s.time < t + 1000000000)) =
      x.retrainTimes.filter (fun t => decide (s.time < t + 1000000000)) ++ [s.time] := by simp
  simp only [beginRetrain, htimes, List.length_append, List.length_singleton]
  exact if_congr (by omega) rfl rfl

theorem getLink_retraining (l : Nat) (x : CascLink) (s : State) : getLink (retraining l x s) l = x.retrained s.time := by simp [retraining]

/-! ### Links that fail (R337, R341) -/

/-- A link that has failed. -/
def CascLink.dead (x : CascLink) : CascLink :=
  { x with up := false, failed := true, training := false, idle := false, width := 0 }

/-- A link that has failed has been recorded and counted, and its wires are gone. -/
theorem failLink_eq (l reason reach : Nat) (s : State) : ∃ c, failLink l reason reach s = rerouteLink l (getLink s l) (keepReach reach
      (ledgerLink (fun g => { g with linkFailures := tadd g.linkFailures l 1 })
        (record 0x0902 (0x68 + l) (leBytes 1 reason) (withCasc c s)))) ∧
    (∃ ls b d r, c = { s.casc with
      links := ls, eyeBusy := b, eyeDone := d, eyeResult := r
      wires := s.casc.wires.filter (fun w => !w.uses s.casc.ownId l) }) ∧
    tget (dflt {}) c.links l = (getLink s l).dead := by
  obtain ⟨b, d, r, hscan⟩ := scanLost_frame (fun n => n / 8 = l) (setLink s l (getLink s l).dead)
  refine ⟨{ (setLink s l (getLink s l).dead).casc with
    eyeBusy := b, eyeDone := d, eyeResult := r, wires := s.casc.wires.filter (fun w => !w.uses s.casc.ownId l) }, ?_, ?_, ?_⟩
  · rw [CascLink.dead] at hscan
    simp only [failLink, hscan]
    rfl
  · exact ⟨_, b, d, r, rfl⟩
  · exact getLink_setLink s l (getLink s l).dead

theorem keepReach_of_notFormed {s : State} (h : s.casc.formed = false) (reach : Nat) : keepReach reach s = s := by
  simp [keepReach, h]

theorem foldl_of_fixed {α β : Type} {f : α → β → α} {a : α} {l : List β} (h : ∀ b ∈ l, f a b = a) : l.foldl f a = a := by
  induction l with
  | nil => rfl
  | cons b l ih =>
    rw [List.foldl_cons, h b List.mem_cons_self]
    exact ih (fun c hc => h c (List.mem_cons_of_mem b hc))

theorem rerouteLink_of_notFormed {s : State} (h : s.casc.formed = false) (l : Nat) (x : CascLink) :
    rerouteLink l x s = setLink s l { getLink s l with txBuf := [], txQueue := [] } := by
  have hnone (dev : Nat) : isMember (setLink s l { getLink s l with txBuf := [], txQueue := [] }) dev = false := by
    simp [isMember, setLink, h]
  exact foldl_of_fixed fun m _ => by simp [hnone]

/-- Outside a group the failure of a link ends nothing else. -/
theorem failLink_of_notFormed {s : State} (h : s.casc.formed = false) (l reason reach : Nat) : ∃ t,
    failLink l reason reach s = t ∧ getLink t l = { (getLink s l).dead with txBuf := [], txQueue := [] } ∧
    t.casc.wires = s.casc.wires.filter (fun w => !w.uses s.casc.ownId l) ∧
    t.mor = (record 0x0902 (0x68 + l) (leBytes 1 reason) s).mor ∧
    t.ice.now = { s.ice.now with linkFailures := tadd s.ice.now.linkFailures l 1 } ∧ t.casc.rxHeld = s.casc.rxHeld := by
  obtain ⟨c, hfail, ⟨_, _, _, _, hc⟩, hlink⟩ := failLink_eq l reason reach s
  have hformed : (ledgerLink (fun g => { g with linkFailures := tadd g.linkFailures l 1 })
      (record 0x0902 (0x68 + l) (leBytes 1 reason) (withCasc c s))).casc.formed = false := by
    simp [ledgerLink, withCasc, hc, h]
  rw [keepReach_of_notFormed hformed, rerouteLink_of_notFormed hformed] at hfail
  refine ⟨_, hfail, ?_, ?_, ?_, ?_, ?_⟩
  · rw [getLink_setLink, getLink_ledgerLink, getLink_record, getLink]
    exact congrArg (fun x : CascLink => { x with txBuf := [], txQueue := [] }) hlink
  · simp [setLink, ledgerLink, withCasc, hc]
  · simp only [setLink_mor]
    exact record_mor_withCasc ..
  · simp [ledgerLink, withCasc]
  · simp [setLink, ledgerLink, withCasc, hc]

/-! ### A lane fails (R337) -/

theorem laneFailOp_of_working {s : State} {n : Nat} (hup : (getLink s (n / 8)).up = true)
    (hworks : laneWorks (getLink s (n / 8)).width (n % 8) = true) : laneFailOp n s =
      beginRetrain (n / 8) { getLink s (n / 8) with badLane := some (n % 8) } (scanLost (fun m => m = n)
        (record 0x0901 (0x68 + n / 8) (leBytes 1 (n % 8) ++ leBytes 1 (if n % 8 < 4 then 2 else 1)) s)) := by
  simp [laneFailOp, hup, hworks]

/-! ### A link comes up (R327, R334, R337) -/

theorem resend_eq (l : Nat) (s : State) :
    resend l s = { s with outbox := s.outbox ++ (getLink s l).txBuf.map (fun f => .flit l f.bytes) } := by
  have hall (fs : List TxFlit) (u : State) : fs.foldl (fun s f => emit (.flit l f.bytes) s) u =
      { u with outbox := u.outbox ++ fs.map (fun f => .flit l f.bytes) } := by
    induction fs generalizing u with
    | nil => simp
    | cons f fs ih =>
      rw [List.foldl_cons, ih]
      simp [emit]
  exact hall _ s

/-- A link that carries flits from now on. -/
def CascLink.upAt (x : CascLink) (width now : Nat) : CascLink :=
  { x with up := true, training := false, failRow := 0, width := width, rxFlits := 0, idleSince := now }

/-- A link carries flits from now on, and its lanes count anew. -/
def carrying (l width : Nat) (x : CascLink) (s : State) : State :=
  mapLinkLanes l (fun n => { n with
    markersSent := 0, markerDue := s.time + firstMarker, codewords := 0, codewordBad := false }) (setLink s l (x.upAt width s.time))

theorem getLink_carrying (l width : Nat) (x : CascLink) (s : State) : getLink (carrying l width x s) l = x.upAt width s.time := by
  simp [carrying]

theorem getLane_carrying (l width : Nat) (x : CascLink) (s : State) {i : Nat} (hi : i < 8) :
    getLane (carrying l width x s) (8 * l + i) = { getLane s (8 * l + i) with
      markersSent := 0, markerDue := s.time + 198949, codewords := 0, codewordBad := false } := by
  simp [carrying, getLane_mapLinkLanes, hi, firstMarker]

theorem carrying_outbox (l width : Nat) (x : CascLink) (s : State) : (carrying l width x s).outbox = s.outbox := rfl

/-- A link comes up with nothing that waits. -/
theorem linkUp_of_noQueue {l width : Nat} {x : CascLink} {s : State} (hqueue : x.txQueue = [])
    (hscan : scanLost (fun n => n / 8 = l && !laneWorks width (n % 8)) (carrying l width x s) = carrying l width x s) :
    linkUp l width x s = { carrying l width x s with outbox := s.outbox ++ x.txBuf.map (fun f => .flit l f.bytes) } := by
  have hresent := resend_eq l (carrying l width x s)
  rw [getLink_carrying, carrying_outbox] at hresent
  have hup : linkUp l width x s =
      pumpLink l 0 (resend l (scanLost (fun n => n / 8 = l && !laneWorks width (n % 8)) (carrying l width x s))) := by
    have hlen : x.txQueue.length = 0 := by simp [hqueue]
    rw [linkUp, hlen]
    rfl
  rw [hup, hscan, hresent]
  rfl

/-- What a link that comes up with nothing that waits leaves of itself and its lanes. -/
theorem linkUp_fields {l width : Nat} {x : CascLink} {s : State} (hqueue : x.txQueue = [])
    (hscan : scanLost (fun n => n / 8 = l && !laneWorks width (n % 8)) (carrying l width x s) = carrying l width x s) :
    ∃ t, linkUp l width x s = t ∧ getLink t l = x.upAt width s.time ∧
      t.outbox = s.outbox ++ x.txBuf.map (fun f => .flit l f.bytes) ∧ t.casc.rxHeld = s.casc.rxHeld ∧
      ∀ i < 8, getLane t (8 * l + i) = { getLane s (8 * l + i) with
        markersSent := 0, markerDue := s.time + 198949, codewords := 0, codewordBad := false } := by
  have hlane (u : State) (o : List Out) (n : Nat) : getLane { u with outbox := o } n = getLane u n := rfl
  have hlink (u : State) (o : List Out) : getLink { u with outbox := o } l = getLink u l := rfl
  refine ⟨_, linkUp_of_noQueue hqueue hscan, ?_, rfl, rfl, fun i hi => ?_⟩
  · rw [hlink, getLink_carrying]
  · rw [hlane, getLane_carrying l width x s hi]

end Sys2Proof.Machine
end

section
/-! What the loss of a path ends, and how a retrain ends (R330, R337, R341). -/

namespace Sys2Proof.Machine

/-! ### A device is no longer reached (R341) -/

theorem onlySends_rerouteLink (l : Nat) (x : CascLink) (s : State) : OnlySends s (rerouteLink l x s) := by
  refine (onlySends_setLink s l _).trans (.foldl (fun u m => ?_) _ _)
  split
  · exact onlySends_queueMsg ..
  · exact .refl u

section Lost

variable {u : State} {d : Nat} {o : Op} (honly : u.ops = [o]) (hawaits : awaits u d o = true) (hheld : u.trnHeld = [])

include honly hawaits

theorem endLinkError_of_only : endLinkError (awaits u d) u = endOp o.tag (stopWith 0x31 o.cursor 0) u := by
  simp [endLinkError, honly, hawaits]

include hheld

theorem losePath_of_only : ∃ t, losePath d u = t ∧ t.ops = [o.ended { status := 0x31, cursor := o.cursor }] ∧
    t.casc.members = u.casc.members ∧ t.casc.ownId = u.casc.ownId ∧ t.casc.rxHeld = u.casc.rxHeld.filter (fun x => x.1 != d) := by
  obtain ⟨ti, fl, hended⟩ := endOp_of_only (stopWith 0x31 o.cursor 0) honly
  refine ⟨_, rfl, ?_⟩
  rw [losePath, endLinkError_of_only honly hawaits, hended, letIn_of_noneHeld (by exact hheld)]
  exact ⟨rfl, rfl, rfl, rfl⟩

/-- The master loses its only other member. -/
theorem keepReach_of_onlyMember {reach : Nat} (hformed : u.casc.formed = true) (hmaster : u.casc.master = true)
    (hothers : otherMembers u = [d]) (hlost : bit reach d = false) : ∃ t, keepReach reach u = t ∧
    t.ops = [o.ended { status := 0x31, cursor := o.cursor }] ∧
    t.casc.members = u.casc.members &&& (reach ||| 2 ^ u.casc.ownId) ∧ t.casc.rxHeld = u.casc.rxHeld.filter (fun x => x.1 != d) := by
  obtain ⟨t, ht, hops, hmembers, hown, hrx⟩ := losePath_of_only honly hawaits hheld
  refine ⟨{ t with casc := { t.casc with members := t.casc.members &&& (reach ||| 2 ^ t.casc.ownId) } }, ?_, hops, ?_, hrx⟩
  · simp [keepReach, hformed, hmaster, hothers, hlost, ht]
  · change t.casc.members &&& (reach ||| 2 ^ t.casc.ownId) = _
    rw [hmembers, hown]

end Lost

/-! ### A retrain ends (R330, R337) -/

section RetrainDone

variable {s : State} {l half reach : Nat} (htraining : (getLink s l).training = true)

include htraining

theorem retrainDoneOp_of_noHalf : retrainDoneOp l 3 reach s = failLink l 2 reach s := by
  simp [retrainDoneOp, htraining]

theorem retrainDoneOp_of_untrained (hfails : half = 2 ∨ (half < 2 ∧ aligned s l (half + 1) = false)) :
    retrainDoneOp l half reach s = if 1 ≤ (getLink s l).failRow then failLink l 0 reach s
      else beginRetrain l { getLink s l with failRow := (getLink s l).failRow + 1 } s := by
  rcases hfails with rfl | ⟨hhalf, halign⟩
  · simp [retrainDoneOp, htraining]
  · have hwidth : (if half = 0 then 1 else 2) = half + 1 := by split <;> omega
    simp [retrainDoneOp, htraining, hwidth, halign, show half ≠ 3 by omega]

theorem retrainDoneOp_of_aligned (hhalf : half < 2) (halign : aligned s l (half + 1) = true) :
    retrainDoneOp l half reach s = linkUp l (half + 1) (getLink s l) s := by
  have hwidth : (if half = 0 then 1 else 2) = half + 1 := by split <;> omega
  simp [retrainDoneOp, htraining, hwidth, halign, show half ≠ 3 by omega, show half ≠ 2 by omega]

end RetrainDone

theorem exec_linkRetrainDone {l half reach : Nat} {s t : State} (h : retrainDoneOp l half reach s = t) (hheld : t.casc.rxHeld = []) :
    exec (.linkRetrainDone l half reach) s = .next t :=
  congrArg Host.Outcome.next ((congrArg retryHeld h).trans (retryHeld_of_noneHeld hheld))

theorem scanLost_of_busy {s : State} {n : Nat} {e : Nat × Nat} (h : s.casc.eyeBusy = some (n, e)) :
    (scanLost (fun m => m = n) s).casc.eyeBusy = none ∧ (scanLost (fun m => m = n) s).casc.eyeDone = true := by
  simp [scanLost, h, endScan]

/-- A lane fails: its link retrains, or fails with its third retrain within 1 s. -/
theorem laneFails {s : State} {n l half : Nat} {x : CascLink} {recent : List Nat} (hl : l = n / 8) (hx : x = getLink s l)
    (hup : x.up = true) (hworks : laneWorks x.width (n % 8) = true)
    (hrecent : recent = x.retrainTimes.filter (fun t => decide (s.time < t + 1000000000)))
    (hhalf : half = (if n % 8 < 4 then 2 else 1)) :
    (recent.length < 2 → ∃ t, exec (.laneFail n) s = .next t ∧ getLink t l = { x with
        up := false, training := true, idle := false, rxIdle := false, badLane := some (n % 8)
        retrainTimes := recent ++ [s.time], retrains := min 0xFFFF (x.retrains + 1) } ∧
      t.ice.now = { s.ice.now with linkRetrains := tadd s.ice.now.linkRetrains l 1 } ∧
      t.mor = (record 0x0901 (0x68 + l) (leBytes 1 (n % 8) ++ leBytes 1 half) s).mor ∧
      (∀ e, s.casc.eyeBusy = some (n, e) → t.casc.eyeBusy = none ∧ t.casc.eyeDone = true) ∧
      ∀ i < 8, getLane t (8 * l + i) = { getLane s (8 * l + i) with markerSeen := 0, skew := 0 }) ∧
    (2 ≤ recent.length → s.casc.formed = false → ∃ t, exec (.laneFail n) s = .next t ∧
      (getLink t l).up = false ∧ (getLink t l).failed = true ∧ (getLink t l).width = 0 ∧
      t.ice.now.linkFailures = tadd s.ice.now.linkFailures l 1) := by
  subst hl hx hrecent hhalf
  have hrun : exec (.laneFail n) s = .next (laneFailOp n s) := rfl
  rw [hrun, laneFailOp_of_working hup hworks]
  obtain ⟨v, hv⟩ : ∃ v, v = scanLost (fun m => m = n)
    (record 0x0901 (0x68 + n / 8) (leBytes 1 (n % 8) ++ leBytes 1 (if n % 8 < 4 then 2 else 1)) s) := ⟨_, rfl⟩
  obtain ⟨_, _, _, hscan⟩ := scanLost_frame (fun m => m = n)
    (record 0x0901 (0x68 + n / 8) (leBytes 1 (n % 8) ++ leBytes 1 (if n % 8 < 4 then 2 else 1)) s)
  have hframe := hv.trans hscan
  have htime : v.time = s.time := by simp [hframe, withCasc]
  have hice : v.ice = s.ice := by simp [hframe, withCasc]
  have hformed : v.casc.formed = s.casc.formed := by simp [hframe, withCasc]
  rw [← hv, beginRetrain_eq, htime]
  refine ⟨fun hfew => ?_, fun hmany hnone => ?_⟩
  · refine ⟨_, by rw [if_neg (Nat.not_le.2 hfew)], ?_, ?_, ?_, fun e he => ?_, fun i hi => ?_⟩
    · rw [getLink_retraining, htime]
      rfl
    · simp [retraining, ledgerLink, mapLinkLanes, hice]
    · simp [retraining, ledgerLink, mapLinkLanes, hframe, withCasc]
    · rw [retraining, ledgerLink, mapLinkLanes, hv]
      exact scanLost_of_busy (e := e) (by simpa using he)
    · have hlane : getLane v (8 * (n / 8) + i) = getLane s (8 * (n / 8) + i) := by simp [hframe, withCasc, getLane]
      simp [retraining, getLane_mapLinkLanes, hi, hlane]
  · obtain ⟨t, ht, hlink, -, -, hcount, -⟩ := failLink_of_notFormed
      (s := retraining (n / 8) { getLink s (n / 8) with badLane := some (n % 8) } v) (by exact hformed.trans hnone) (n / 8) 1 v.casc.members
    refine ⟨t, by rw [if_pos hmany, ht], ?_, ?_, ?_, ?_⟩
    · rw [hlink]; rfl
    · rw [hlink]; rfl
    · rw [hlink]; rfl
    · rw [hcount]
      simp [retraining, ledgerLink, mapLinkLanes, hice]

/-- A retrain ends: the link carries flits on a half, is retrained, or fails. -/
theorem retrainEnds {s : State} {l half reach : Nat} {x : CascLink} (hx : x = getLink s l) (htraining : x.training = true)
    (hheld : s.casc.rxHeld = []) (hidle : s.casc.eyeBusy = none) :
    (half < 2 → aligned s l (half + 1) = true → x.txQueue = [] → ∃ t, exec (.linkRetrainDone l half reach) s = .next t ∧
      getLink t l = { x with
        up := true, training := false, failRow := 0, width := half + 1, rxFlits := 0, idleSince := s.time } ∧
      t.outbox = s.outbox ++ x.txBuf.map (fun f => .flit l f.bytes) ∧
      ∀ i < 8, getLane t (8 * l + i) = { getLane s (8 * l + i) with
        markersSent := 0, markerDue := s.time + 198949, codewords := 0, codewordBad := false }) ∧
    (∀ recent, recent = x.retrainTimes.filter (fun t => decide (s.time < t + 1000000000)) → recent.length < 2 →
      half = 2 ∨ (half < 2 ∧ aligned s l (half + 1) = false) → x.failRow = 0 →
      ∃ t, exec (.linkRetrainDone l half reach) s = .next t ∧ getLink t l = { x with
        up := false, idle := false, rxIdle := false, failRow := 1
        retrainTimes := recent ++ [s.time], retrains := min 0xFFFF (x.retrains + 1) }) ∧
    (half = 3 ∨ (1 ≤ x.failRow ∧ (half = 2 ∨ (half < 2 ∧ aligned s l (half + 1) = false))) → s.casc.formed = false →
      ∃ t, exec (.linkRetrainDone l half reach) s = .next t ∧ getLink t l = { x with
        up := false, failed := true, training := false, idle := false, width := 0, txBuf := [], txQueue := [] } ∧
      t.casc.wires = s.casc.wires.filter (fun w => !w.uses s.casc.ownId l) ∧
      t.mor = (record 0x0902 (0x68 + l) (leBytes 1 (if half = 3 then 2 else 0)) s).mor ∧
      t.ice.now = { s.ice.now with linkFailures := tadd s.ice.now.linkFailures l 1 }) := by
  subst hx
  refine ⟨fun hhalf halign hqueue => ?_, ?_, fun hcase hnone => ?_⟩
  · obtain ⟨t, ht, hlink, hout, hrx, hlanes⟩ := linkUp_fields (s := s) (l := l) (width := half + 1) hqueue
      (scanLost_of_idle (by exact hidle) _)
    exact ⟨t, exec_linkRetrainDone ((retrainDoneOp_of_aligned htraining hhalf halign).trans ht) (hrx.trans hheld), hlink, hout, hlanes⟩
  · rintro recent rfl hfew hfails hrow
    have hretrains := retrainDoneOp_of_untrained (reach := reach) htraining hfails
    rw [if_neg (by omega), beginRetrain_eq, if_neg (by exact Nat.not_le.2 hfew)] at hretrains
    refine ⟨_, exec_linkRetrainDone hretrains hheld, ?_⟩
    rw [getLink_retraining, CascLink.retrained]
    simp [hrow, htraining]
  · obtain ⟨t, ht, hlink, hwires, hmor, hcount, hrx⟩ := failLink_of_notFormed hnone l (if half = 3 then 2 else 0) reach
    have hfails : retrainDoneOp l half reach s = t := by
      rw [← ht]
      rcases hcase with rfl | ⟨hrow, hfails⟩
      · exact retrainDoneOp_of_noHalf htraining
      · rw [retrainDoneOp_of_untrained htraining hfails, if_pos hrow, if_neg (by omega)]
    exact ⟨t, exec_linkRetrainDone hfails (hrx.trans hheld), hlink, hwires, hmor, hcount⟩

/-- A link fails over which the master's only other member was reached. -/
theorem memberLost {s : State} {l d reach : Nat} {o : Op} (htraining : (getLink s l).training = true) (hformed : s.casc.formed = true)
    (hmaster : s.casc.master = true) (hheld : s.casc.rxHeld = []) (hothers : otherMembers s = [d]) (hlost : bit reach d = false)
    (honly : s.ops = [o]) (hawaits : awaits s d o = true) (htrn : s.trnHeld = []) :
    ∃ t, exec (.linkRetrainDone l 3 reach) s = .next t ∧
      t.ops = [{ o with
        phase := .done, result := { status := 0x31, cursor := o.cursor }
        closing := if o.closing = 1 then 2 else o.closing }] ∧
      t.casc.members = s.casc.members &&& (reach ||| 2 ^ s.casc.ownId) := by
  obtain ⟨c, hfail, ⟨w, b, e, r, hc⟩, -⟩ := failLink_eq l 2 reach s
  subst hc
  obtain ⟨u, hu⟩ : ∃ u, u = ledgerLink (fun g => { g with linkFailures := tadd g.linkFailures l 1 })
    (record 0x0902 (0x68 + l) (leBytes 1 2) (withCasc { s.casc with
      links := w, eyeBusy := b, eyeDone := e, eyeResult := r
      wires := s.casc.wires.filter (fun w => !w.uses s.casc.ownId l) } s)) := ⟨_, rfl⟩
  have hops : u.ops = s.ops := by simp [hu, ledgerLink, withCasc]
  have hheldTrn : u.trnHeld = s.trnHeld := by simp [hu, ledgerLink, withCasc]
  have hcasc : u.casc = { s.casc with
      links := w, eyeBusy := b, eyeDone := e, eyeResult := r
      wires := s.casc.wires.filter (fun w => !w.uses s.casc.ownId l) } := by simp [hu, ledgerLink, withCasc]
  obtain ⟨v, hkeep, hended, hmembers, hrx⟩ := keepReach_of_onlyMember (u := u) (d := d) (o := o) (reach := reach)
    (hops.trans honly) (by simpa [awaits, hcasc] using hawaits) (hheldTrn.trans htrn) (by simpa [hcasc] using hformed)
    (by simpa [hcasc] using hmaster) (by simpa [otherMembers, hcasc] using hothers) hlost
  rw [← hu, hkeep] at hfail
  obtain ⟨_, _, _, _, hsent⟩ := onlySends_rerouteLink l (getLink s l) v
  refine ⟨_, exec_linkRetrainDone ((retrainDoneOp_of_noHalf htraining).trans (hfail.trans hsent)) ?_, hended, ?_⟩
  · simpa [hcasc, hheld] using hrx
  · simpa [hcasc] using hmembers

/-- A link whose lanes are aligned trains at full width. -/
theorem linkTrains {s : State} {l p pl : Nat} {x : CascLink} (hx : x = getLink s l) (hdown : x.up = false) (hworks : x.failed = false)
    (htraining : x.training = false) (hl : l < numLinks s.variant) (hp : p < 16) (hpl : pl < 8) :
    (aligned s l 3 = true → x.txQueue = [] → ∃ t, exec (.cascLinkTrained l p pl) s = .next t ∧ getLink t l = { x with
      up := true, partner := p, partnerLink := pl, width := 3, failRow := 0, rxFlits := 0, idleSince := s.time }) ∧
    (aligned s l 3 = false → exec (.cascLinkTrained l p pl) s = .next s) := by
  subst hx
  refine ⟨fun halign hqueue => ?_, fun halign => ?_⟩
  · have hup : linkTrainedOp l p pl s = linkUp l 3 { getLink s l with partner := p, partnerLink := pl } s := by
      simp [linkTrainedOp, hdown, hworks, htraining, halign, Nat.not_le.2 hl, Nat.mod_eq_of_lt hp, Nat.mod_eq_of_lt hpl]
    have hscan (u : State) : scanLost (fun n => n / 8 = l && !laneWorks 3 (n % 8)) u = u := by
      unfold scanLost
      split
      · simp [laneWorks]
      · rfl
    obtain ⟨t, ht, hlink, -⟩ := linkUp_fields (s := s) (l := l) (width := 3)
      (x := { getLink s l with partner := p, partnerLink := pl }) hqueue (hscan _)
    refine ⟨t, congrArg Host.Outcome.next (hup.trans ht), hlink.trans ?_⟩
    rw [CascLink.upAt, ← htraining]
  · exact congrArg Host.Outcome.next (by simp [linkTrainedOp, halign])

/-- A flit that fails its check is replayed, and ends every operation at its eighth failure. -/
theorem flitFails {s : State} {src dst net inject replay : Nat} (hnet : net < 4)
    (hlink : (src = dst ∧ isNode s.variant src = true) ∨ linked s.variant src dst = true) :
    (replay < 8 → exec (.flitCrcFail src dst net inject replay) s = .next { s with
      outbox := s.outbox ++ [.nocReplay src dst net]
      noc := { s.noc with
        replays := tset (dflt 0) s.noc.replays (4 * src + net)
          (min 0xFF (tget (dflt 0) s.noc.replays (4 * src + net) + 1)) } }) ∧
    (8 ≤ replay → ∃ u log, u = record 0x0801 0x06 (leBytes 8 log) (abortAll s) ∧
      exec (.flitCrcFail src dst net inject replay) s =
        .next (if bit s.noc.errLog 63 then u else { u with noc := { u.noc with errLog := log } }) ∧
      log = 2 ^ 63 + net % 4 * 2 ^ 61 + b2n (crosses src dst) * 2 ^ 60 + src % 512 * 2 ^ 40 + dst % 512 * 2 ^ 31 + inject % 512) := by
  have hpass : (!(decide (src = dst) && isNode s.variant src || linked s.variant src dst) || decide (4 ≤ net)) = false := by
    rcases hlink with ⟨rfl, hnode⟩ | hlinked
    · simp [hnode, Nat.not_le.2 hnet]
    · simp [hlinked, Nat.not_le.2 hnet]
  have hrun : exec (.flitCrcFail src dst net inject replay) s = .next (flitCrcOp src dst net inject replay s) := rfl
  rw [hrun]
  simp only [flitCrcOp, hpass]
  refine ⟨fun hfew => congrArg Host.Outcome.next (if_pos hfew), fun hmany => ⟨_, _, rfl, ?_, rfl⟩⟩
  exact congrArg Host.Outcome.next (if_neg (Nat.not_lt.2 hmany))

end Sys2Proof.Machine
end

section
/-! What passes on a link that is up (R327 to R334): markers, electrical idle, the flits that arrive, and eye scans. -/

namespace Sys2Proof.Machine

theorem markerBlock_length (n count : Nat) : (markerBlock n count).length = 680 := by
  simp [markerBlock, List.length_flatMap]

/-- A marker leaves a lane that works; in idle none does. -/
theorem markerLeaves {s u : State} {n : Nat} {x : CascLink} {y : CascLane} (hx : x = getLink s (n / 8)) (hy : y = getLane s n)
    (hup : x.up = true) (hworks : laneWorks x.width (n % 8) = true) (hu : u = passTo y.markerDue s) :
    (x.idle = false → exec (.markerSend n) s = .next { setLane u n { y with
        markersSent := (y.markersSent + 1) % 2 ^ 32, markerDue := y.markerDue + 198973 } with
      outbox := u.outbox ++ [.marker n y.markersSent (markerBlock n y.markersSent)] } ∧
      (markerBlock n y.markersSent).length = 680) ∧
    (x.idle = true → exec (.markerSend n) s = .next s) := by
  subst hx hy hu
  refine ⟨fun hidle => ⟨congrArg Host.Outcome.next ?_, markerBlock_length ..⟩, fun hidle => congrArg Host.Outcome.next ?_⟩
  · simp only [markerSendOp, hup, hidle, hworks]
    rfl
  · simp [markerSendOp, hidle]

/-- A marker is measured, but in idle or after the failure of its link. -/
theorem markerMeasured {s : State} {n count skew : Nat} {x : CascLink} (hx : x = getLink s (n / 8)) :
    (x.failed = false → x.rxIdle = false → exec (.markerReceive n count skew) s =
      .next (setLane s n { getLane s n with markerSeen := count, skew := skew })) ∧
    (x.failed = true ∨ x.rxIdle = true → exec (.markerReceive n count skew) s = .next s) := by
  subst hx
  exact ⟨fun hworks hbusy => congrArg Host.Outcome.next (if_neg (by simp [hworks, hbusy])),
    fun h => congrArg Host.Outcome.next (if_pos (by simpa using h))⟩

/-! ### Electrical idle (R331) -/

theorem flitBytes_length (x : CascLink) (ftype : Nat) (m : Option TxMsg) : (flitBytes x ftype m).length = 256 := by
  simp [flitBytes]

/-- The CRC of a flit covers what stands before it. -/
theorem flitBytes_crc (x : CascLink) (ftype : Nat) (m : Option TxMsg) :
    crc64 ((flitBytes x ftype m).take 248) = fieldAt (flitBytes x ftype m) 248 8 := by
  obtain ⟨body, hlen, hbytes⟩ : ∃ body : List Byte, body.length = 248 ∧ flitBytes x ftype m = body ++ leBytes 8 (crc64 body) :=
    ⟨_, by simp, rfl⟩
  rw [hbytes, List.take_append_of_le_length (by omega), List.take_of_length_le (by omega), fieldAt_append_right _ _ _ _ (by omega),
    hlen, Nat.sub_self, fieldAt_leBytes, Nat.mod_eq_of_lt (by exact crc64_lt body)]

theorem getLink_sendFlit (l ftype : Nat) (m : Option TxMsg) (s : State) : getLink (sendFlit l ftype m s) l = { getLink s l with
    txBuf := (getLink s l).txBuf ++ [{ seq := (getLink s l).txNext, bytes := flitBytes (getLink s l) ftype m, msg := m }]
    txNext := ((getLink s l).txNext + 1) % 4096, owed := false, idleSince := s.time
    creditDue := (getLink s l).creditDue.map (fun n => n - min 15 n) } := getLink_setLink s l _

theorem idleEnters {s u : State} {l : Nat} {x : CascLink} {bs : List Byte} (hx : x = getLink s l) (hup : x.up = true)
    (hidle : x.idle = false) :
    (x.owed = false → x.txQueue = [] → x.txBuf.length < 1024 → u = passTo (x.idleSince + 2000) s →
      bs = flitBytes x 2 none → bs.length = 256 ∧ crc64 (bs.take 248) = fieldAt bs 248 8 ∧
      ∃ t, exec (.idleEnter l) s = .next t ∧ getLink t l = { x with
        idle := true, idleSince := u.time, txNext := (x.txNext + 1) % 4096
        txBuf := x.txBuf ++ [{ seq := x.txNext, bytes := bs, msg := none }]
        creditDue := x.creditDue.map (fun n => n - min 15 n) } ∧
      t = { u with casc := { s.casc with links := t.casc.links }, outbox := u.outbox ++ [.flit l bs] }) ∧
    (x.owed = true ∨ x.txQueue ≠ [] → exec (.idleEnter l) s = .next s) := by
  subst hx
  refine ⟨?_, fun h => congrArg Host.Outcome.next ?_⟩
  · rintro howed hqueue hroom rfl rfl
    refine ⟨flitBytes_length .., flitBytes_crc .., _, congrArg Host.Outcome.next (if_neg ?_), ?_, ?_⟩
    · simp [hup, hidle, howed, hqueue, txRoom, Nat.not_le.2 hroom]
    · have hlink : getLink (passTo ((getLink s l).idleSince + 2000) s) l = getLink s l := by simp [getLink]
      rw [getLink_setLink, getLink_sendFlit, hlink]
      simp [howed]
    · have hcasc : (passTo ((getLink s l).idleSince + 2000) s).casc = s.casc := passTo_casc ..
      have hlink : getLink (passTo ((getLink s l).idleSince + 2000) s) l = getLink s l := by simp [getLink]
      simp only [sendFlit, setLink, emit, hcasc, hlink]
  · simp only [idleEnterOp]
    rcases h with h | h <;> simp [h]

/-- A link in idle bursts NULL flits, and leaves idle with what it owes. -/
theorem idleEnds {s u v : State} {l : Nat} {x : CascLink} (hx : x = getLink s l) (hidle : x.idle = true)
    (hu : u = passTo (x.idleSince + 1000000) s) (hv : v = passTime 4000 { u with outbox := u.outbox ++ [.linkCtl l 3 0] }) :
    exec (.idleNullBurst l) s = .next (setLink v l { x with idleSince := v.time }) ∧
    (x.txQueue = [] → ∃ t, exec (.idleExit l) s = .next t ∧
      getLink t l = { x with idle := false, idleSince := s.time, owed := false } ∧
      t.outbox = s.outbox ++ [.linkCtl l 5 0] ++
        (if x.owed then [.linkCtl l (if x.naked then 1 else 0) ((x.rxNext + 4095) % 4096)] else []) ∧
      ∀ i < 8, getLane t (8 * l + i) = { getLane s (8 * l + i) with markerDue := s.time + 198949 }) := by
  subst hx hu hv
  refine ⟨congrArg Host.Outcome.next (by simp only [nullBurstOp, hidle]; rfl), fun hqueue => ?_⟩
  have hlen : (getLink s l).txQueue.length = 0 := by simp [hqueue]
  obtain ⟨t1, ht1⟩ : ∃ t1, t1 = mapLinkLanes l (fun n => { n with markerDue := s.time + firstMarker })
    (setLink s l { getLink s l with idle := false, idleSince := s.time, owed := false }) := ⟨_, rfl⟩
  have hlink : getLink t1 l = { getLink s l with idle := false, idleSince := s.time, owed := false } := by simp [ht1]
  have hlanes (i : Nat) (hi : i < 8) : getLane t1 (8 * l + i) = { getLane s (8 * l + i) with markerDue := s.time + 198949 } := by
    simp [ht1, getLane_mapLinkLanes, hi, firstMarker]
  have hout : t1.outbox = s.outbox := by simp [ht1, mapLinkLanes]
  have hrun : idleExitOp l s = if (getLink s l).owed then
      emit (.linkCtl l (if (getLink s l).naked then 1 else 0) (((getLink s l).rxNext + 4095) % 4096)) (emit (.linkCtl l 5 0) t1)
      else emit (.linkCtl l 5 0) t1 := by
    simp only [idleExitOp, hidle, hlen, ht1]
    rfl
  cases howed : (getLink s l).owed with
  | true =>
    rw [howed, if_pos rfl] at hrun
    exact ⟨_, congrArg Host.Outcome.next hrun, hlink, by simp [emit, hout], hlanes⟩
  | false =>
    rw [howed, if_neg Bool.false_ne_true] at hrun
    exact ⟨_, congrArg Host.Outcome.next hrun, hlink, by simp [emit, hout], hlanes⟩

/-! ### Flits that arrive (R327, R328, R334) -/

/-- A lane whose decoder finds nothing to correct and nothing that it cannot correct. -/
theorem decodeLane_of_good (l i flit : Nat) (s : State) : ∃ b ls, decodeLane l i flit false 0 s = (b, withCasc { s.casc with lanes := ls } s) ∧
    (b = true → (getLane s (8 * l + i)).codewordBad = true) ∧
    ∀ j, (tget (dflt {}) ls j).codewordBad = true → (getLane s j).codewordBad = true := by
  simp only [decodeLane, Bool.not_false, if_true, Nat.min_zero, ledgerLink, Bool.and_false, Bool.or_false]
  split
  next => exact ⟨_, s.casc.lanes, rfl, fun h => (Bool.and_eq_true_iff.1 h).2, fun j h => h⟩
  next =>
    refine ⟨_, (setLane s (8 * l + i) { getLane s (8 * l + i) with
      codewords := (codewordsOf (getLink s l).width flit).2 + 1, codewordBad := false
      corr := wrapAdd 40 (getLane s (8 * l + i)).corr 0 }).casc.lanes, rfl, fun h => (Bool.and_eq_true_iff.1 h).2, fun j h => ?_⟩
    by_cases hj : j = 8 * l + i
    · subst hj
      simp [setLane] at h
    · simpa [setLane, tget_tset_ne hj, getLane] using h

/-- The lanes of a link decode a flit with nothing to correct and nothing that they cannot correct. -/
theorem decodeFlit_of_good (l flit : Nat) (s : State) : ∃ b ls, decodeFlit l flit [] [] s = (b, withCasc { s.casc with lanes := ls } s) ∧
    ((∀ i < 8, (getLane s (8 * l + i)).codewordBad = false) → b = false) := by
  have hall (is : List Nat) (acc : Bool) (u : State) : ∃ b ls,
      is.foldl (fun acc i =>
        let (b, s1) := decodeLane l i flit (decide (i ∈ ([] : List Nat)))
          (((([] : List (Nat × Nat)).find? (fun x => x.1 = i)).map (·.2)).getD 0) acc.2
        (acc.1 || b, s1)) (acc, u) = (b, withCasc { u.casc with lanes := ls } u) ∧
      ((∀ i ∈ is, (getLane u (8 * l + i)).codewordBad = false) → b = acc) := by
    induction is generalizing acc u with
    | nil => exact ⟨acc, u.casc.lanes, rfl, fun _ => rfl⟩
    | cons i is ih =>
      obtain ⟨b, ls, hlane, hb, hkept⟩ := decodeLane_of_good l i flit u
      obtain ⟨b', ls', hrest, hb'⟩ := ih (acc || b) (withCasc { u.casc with lanes := ls } u)
      refine ⟨b', ls', ?_, fun hgood => ?_⟩
      · rw [List.foldl_cons]
        have hstep : decodeLane l i flit (decide (i ∈ ([] : List Nat)))
            (((([] : List (Nat × Nat)).find? (fun x => x.1 = i)).map (·.2)).getD 0) u =
            (b, withCasc { u.casc with lanes := ls } u) := by simpa using hlane
        rw [hstep]
        exact hrest
      · have hnot : b = false := by
          have := hgood i List.mem_cons_self
          cases b with
          | false => rfl
          | true => simp [hb rfl] at this
        rw [hb' ?_, hnot, Bool.or_false]
        intro j hj
        cases hj' : (tget (dflt {}) ls (8 * l + j)).codewordBad with
        | false => exact hj'
        | true => exact absurd (hkept _ hj') (by simp [hgood j (List.mem_cons_of_mem i hj)])
  obtain ⟨b, ls, hfold, hb⟩ := hall ((List.range 8).filter (laneWorks (getLink s l).width)) false s
  refine ⟨b, ls, hfold, fun hgood => hb fun i hi => hgood i ?_⟩
  simpa using (List.mem_filter.1 hi).1

/-- What a valid flit says of the reverse direction, at a link with nothing that waits. -/
def CascLink.takenAck (x : CascLink) (h : Nat) : CascLink :=
  { x with
    acked := bits h 16 12, txBuf := dropAcked (bits h 16 12) x.txBuf
    credits := (List.range 4).map (fun i => x.credits.getD i 0 + bits h (48 + 4 * i) 4)
    replays := if bit h 28 then min (2 ^ 32 - 1) (x.replays + 1) else x.replays }

theorem takeAck_of_noQueue {l h : Nat} {s : State} (hqueue : (getLink s l).txQueue = []) : takeAck l h s =
    { setLink s l ((getLink s l).takenAck h) with
      outbox := s.outbox ++ if bit h 28 then (dropAcked (bits h 16 12) (getLink s l).txBuf).map (fun f => .flit l f.bytes) else [] } := by
  have hlen : (getLink s l).txQueue.length = 0 := by simp [hqueue]
  simp only [takeAck, hlen, pumpLink, CascLink.takenAck]
  cases bit h 28 with
  | true =>
    simp only [if_true, resend_eq, getLink_setLink]
    rfl
  | false =>
    simp only [Bool.false_eq_true, if_false, List.append_nil]
    rfl

theorem answerFlit_of_awake {s : State} {l : Nat} {nak : Bool} (h : (getLink s l).idle = false) : answerFlit l nak s =
    emit (.linkCtl l (b2n nak) (((getLink s l).rxNext + 4095) % 4096)) (setLink s l { getLink s l with idleSince := s.time }) :=
  if_neg (by simp [h])

theorem answered_frame (m : Out) (v : State) (l : Nat) (x y : CascLink) : emit m (setLink (setLink v l x) l y) = { v with
    casc := { v.casc with links := (setLink (setLink v l x) l y).casc.links }, outbox := v.outbox ++ [m] } := by
  simp only [emit, setLink]

/-- The flit in turn that is accepted, where it brings nothing and no scan has paused. -/
theorem flitOp_of_accepted {s u v : State} {l : Nat} {flit : List Byte} (hup : (getLink s l).up = true)
    (hdecoded : decodeFlit l (getLink s l).rxFlits [] [] (setLink s l { getLink s l with rxFlits := (getLink s l).rxFlits + 1 }) = (false, u))
    (hlen : flit.length = 256) (hcrc : crc64 (flit.take 248) = fieldAt flit 248 8) (hheader : flitHeaderOk (fieldAt flit 0 8) = true)
    (hslots : flitSlots flit = []) (hack : takeAck l (fieldAt flit 0 8) u = v) (htype : bits (fieldAt flit 0 8) 0 4 ≠ 0)
    (hnext : bits (fieldAt flit 0 8) 4 12 = (getLink v l).rxNext) (hscan : v.casc.eyeBusy = none) (hidle : (getLink v l).idle = false) :
    ∃ t, flitOp l flit [] [] s = (true, t) ∧ getLink t l = { getLink v l with
        rxNext := ((getLink v l).rxNext + 1) % 4096, naked := false, rxIdle := decide (bits (fieldAt flit 0 8) 0 4 = 2)
        idleSince := v.time } ∧
      t = { v with
        casc := { v.casc with links := t.casc.links }
        outbox := v.outbox ++ [.linkCtl l 0 ((((getLink v l).rxNext + 1) % 4096 + 4095) % 4096)] } := by
  have hsound : (!false && decide (flit.length = 256) && decide (crc64 (flit.take 248) = fieldAt flit 248 8) &&
      flitHeaderOk (fieldAt flit 0 8)) = true := by simp [hlen, hcrc, hheader]
  have hforwards (w : State) : forwardFlit flit w = w := by simp [forwardFlit, hslots]
  have hresumes (x : CascLink) : scanResumes l (setLink v l x) = setLink v l x := by simp [scanResumes, setLink, hscan]
  rw [flitOp]
  simp only []
  rw [if_neg (by simp [hup]), hdecoded]
  simp only [hsound, if_true, hack]
  rw [if_neg (by simp [htype]), if_pos (by simp [hnext]), hslots, hforwards, hresumes, ite_self, List.foldl_nil,
    answerFlit_of_awake (by simp [hidle])]
  refine ⟨_, rfl, (getLink_setLink ..).trans ?_, ?_⟩
  · simp
  · simp only [getLink_setLink]
    exact answered_frame ..

/-- A flit whose CRC does not hold asks once for a replay. -/
theorem flitOp_of_corrupted {s u : State} {l : Nat} {flit : List Byte} {b : Bool} (hup : (getLink s l).up = true)
    (hdecoded : decodeFlit l (getLink s l).rxFlits [] [] (setLink s l { getLink s l with rxFlits := (getLink s l).rxFlits + 1 }) = (b, u))
    (hcrc : crc64 (flit.take 248) ≠ fieldAt flit 248 8) (hnaked : (getLink u l).naked = false) (hidle : (getLink u l).idle = false) :
    ∃ t, flitOp l flit [] [] s = (false, t) ∧ getLink t l = { getLink u l with naked := true, idleSince := u.time } ∧
      t.outbox = u.outbox ++ [.linkCtl l 1 (((getLink u l).rxNext + 4095) % 4096)] := by
  have hsound : (!b && decide (flit.length = 256) && decide (crc64 (flit.take 248) = fieldAt flit 248 8) &&
      flitHeaderOk (fieldAt flit 0 8)) = false := by simp [hcrc]
  rw [flitOp]
  simp only []
  rw [if_neg (by simp [hup]), hdecoded]
  simp only [hsound, Bool.false_and, Bool.false_eq_true, if_false]
  rw [if_neg (by simp [hnaked]), answerFlit_of_awake (by simp [hidle])]
  refine ⟨_, rfl, (getLink_setLink ..).trans ?_, ?_⟩
  · simp
  · simp only [getLink_setLink]
    exact congrArg (·.outbox) (answered_frame ..)

/-- A sound flit in turn that brings nothing for another device. -/
theorem flitAccepted {s : State} {l h : Nat} {flit : List Byte} {x : CascLink} {left : List TxFlit} (hx : x = getLink s l)
    (hup : x.up = true) (hidle : x.idle = false) (hqueue : x.txQueue = []) (hscan : s.casc.eyeBusy = none)
    (hlanes : ∀ i < 8, (getLane s (8 * l + i)).codewordBad = false) (hlen : flit.length = 256) (hh : h = fieldAt flit 0 8)
    (hcrc : crc64 (flit.take 248) = fieldAt flit 248 8) (hheader : flitHeaderOk h = true) (hslots : flitSlots flit = [])
    (htype : bits h 0 4 ≠ 0) (hnext : bits h 4 12 = x.rxNext) (hleft : left = dropAcked (bits h 16 12) x.txBuf) :
    ∃ t, exec (.cascFlitReceive l flit [] []) s = .next t ∧ getLink t l = { x with
      rxFlits := x.rxFlits + 1, acked := bits h 16 12, txBuf := left
      credits := (List.range 4).map (fun i => x.credits.getD i 0 + bits h (48 + 4 * i) 4)
      replays := if bit h 28 then min (2 ^ 32 - 1) (x.replays + 1) else x.replays
      rxNext := (x.rxNext + 1) % 4096, naked := false, rxIdle := decide (bits h 0 4 = 2), idleSince := s.time } ∧
    t = { s with
      casc := { s.casc with links := t.casc.links, lanes := t.casc.lanes }
      outbox := s.outbox ++ (if bit h 28 then left.map (fun f => .flit l f.bytes) else []) ++ [.linkCtl l 0 x.rxNext] } := by
  subst hx hleft hh
  obtain ⟨b, ls, hdecoded, hgood⟩ := decodeFlit_of_good l (getLink s l).rxFlits
    (setLink s l { getLink s l with rxFlits := (getLink s l).rxFlits + 1 })
  obtain rfl : b = false := hgood hlanes
  obtain ⟨u, hu⟩ : ∃ u, u = withCasc { (setLink s l { getLink s l with rxFlits := (getLink s l).rxFlits + 1 }).casc with lanes := ls }
    (setLink s l { getLink s l with rxFlits := (getLink s l).rxFlits + 1 }) := ⟨_, rfl⟩
  have hlinkU : getLink u l = { getLink s l with rxFlits := (getLink s l).rxFlits + 1 } := by
    rw [hu]
    exact getLink_setLink s l _
  have hack := takeAck_of_noQueue (h := fieldAt flit 0 8) (s := u) (l := l) (by rw [hlinkU]; exact hqueue)
  obtain ⟨v, hv⟩ : ∃ v, v = takeAck l (fieldAt flit 0 8) u := ⟨_, rfl⟩
  have hlinkV : getLink v l = CascLink.takenAck { getLink s l with rxFlits := (getLink s l).rxFlits + 1 } (fieldAt flit 0 8) := by
    rw [hv, hack, ← hlinkU]
    exact getLink_setLink u l _
  have hvFrame : v = { withCasc { s.casc with links := v.casc.links, lanes := ls } s with
      outbox := s.outbox ++ if bit (fieldAt flit 0 8) 28 then
        (dropAcked (bits (fieldAt flit 0 8) 16 12) (getLink s l).txBuf).map (fun f => .flit l f.bytes) else [] } := by
    have hbuf : (getLink u l).txBuf = (getLink s l).txBuf := by rw [hlinkU]
    rw [hv, hack, hbuf, hu]
    simp only [withCasc, setLink]
  obtain ⟨t, ht, hlinkT, hT⟩ := flitOp_of_accepted hup (hu ▸ hdecoded) hlen hcrc hheader hslots hv.symm htype
    (by rw [hlinkV]; exact hnext) (by rw [hvFrame]; exact hscan) (by rw [hlinkV]; exact hidle)
  have hnumber : (((getLink s l).rxNext + 1) % 4096 + 4095) % 4096 = (getLink s l).rxNext := by
    have : (getLink s l).rxNext < 4096 := by
      rw [← hnext]
      exact Nat.mod_lt _ (by decide)
    omega
  refine ⟨t, congrArg Host.Outcome.next ?_, ?_, ?_⟩
  · simp only [ht, deliverFlit, hslots]
    rfl
  · have htime : v.time = s.time := by
      rw [hvFrame]
      rfl
    rw [hlinkT, hlinkV, htime]
    rfl
  · have hlanesT : t.casc.lanes = ls := (congrArg (·.casc.lanes) hT).trans (by rw [hvFrame]; rfl)
    have hnumberV : (((getLink v l).rxNext + 1) % 4096 + 4095) % 4096 = (getLink s l).rxNext := by
      rw [hlinkV]
      exact hnumber
    rw [hnumberV] at hT
    rw [hlanesT]
    refine hT.trans ?_
    rw [hvFrame]
    rfl

/-- A corrupted flit asks once for a replay. -/
theorem flitCorrupted {s : State} {l : Nat} {flit : List Byte} {x : CascLink} (hx : x = getLink s l) (hup : x.up = true)
    (hidle : x.idle = false) (hcrc : crc64 (flit.take 248) ≠ fieldAt flit 248 8) (hnaked : x.naked = false) :
    ∃ t, exec (.cascFlitReceive l flit [] []) s = .next t ∧
      getLink t l = { x with rxFlits := x.rxFlits + 1, naked := true, idleSince := s.time } ∧
      t.outbox = s.outbox ++ [.linkCtl l 1 ((x.rxNext + 4095) % 4096)] := by
  subst hx
  obtain ⟨b, ls, hdecoded, -⟩ := decodeFlit_of_good l (getLink s l).rxFlits
    (setLink s l { getLink s l with rxFlits := (getLink s l).rxFlits + 1 })
  obtain ⟨u, hu⟩ : ∃ u, u = withCasc { (setLink s l { getLink s l with rxFlits := (getLink s l).rxFlits + 1 }).casc with lanes := ls }
    (setLink s l { getLink s l with rxFlits := (getLink s l).rxFlits + 1 }) := ⟨_, rfl⟩
  have hlink : getLink u l = { getLink s l with rxFlits := (getLink s l).rxFlits + 1 } := by
    rw [hu]
    exact getLink_setLink s l _
  have hout : u.outbox = s.outbox := by rw [hu]; rfl
  have htime : u.time = s.time := by rw [hu]; rfl
  obtain ⟨t, ht, hlinkT, hT⟩ := flitOp_of_corrupted hup (hu ▸ hdecoded) hcrc (by rw [hlink]; exact hnaked) (by rw [hlink]; exact hidle)
  rw [hlink, htime] at hlinkT
  rw [hlink, hout] at hT
  exact ⟨t, congrArg Host.Outcome.next (by simp only [ht]; rfl), hlinkT, hT⟩

/-! ### Eye scans (R332) -/

theorem eyeScans {s : State} {v : W64} {errors compared lane dwell n : Nat} (hready : s.st.ready = true) (hgo : bit v.toNat 63 = true)
    (heye : bits v.toNat 46 2 ≠ 3) (hlane : lane = bits v.toNat 48 7) (hlt : lane < 8 * numLinks s.variant)
    (hbusy : s.casc.eyeBusy = none) (hup : (getLink s (lane / 8)).up = true)
    (hworks : laneWorks (getLink s (lane / 8)).width (lane % 8) = true) (hdwell : dwell = max 20 (min 31 (bits v.toNat 0 5)))
    (hn : n = min compared (2 ^ dwell)) :
    ((getLink s (lane / 8)).rxIdle = false →
      exec (.eyeScan v errors compared) s = .next (passTime (n / 112) { s with casc := { s.casc with
        eyeLane := lane, eyeEye := bits v.toNat 46 2, eyePhase := bits v.toNat 32 8, eyeVolt := bits v.toNat 24 8
        eyeDwell := dwell, eyeDone := true, eyeResult := min (2 ^ 24 - 1) errors * 2 ^ 40 + n % 2 ^ 40 } })) ∧
    ((getLink s (lane / 8)).rxIdle = true →
      exec (.eyeScan v errors compared) s = .next { s with casc := { s.casc with
        eyeLane := lane, eyeEye := bits v.toNat 46 2, eyePhase := bits v.toNat 32 8, eyeVolt := bits v.toNat 24 8
        eyeDwell := dwell, eyeDone := s.casc.eyeDone && !bit v.toNat 61, eyeBusy := some (lane, errors, n) } }) := by
  subst hlane hdwell hn
  have hrun : exec (.eyeScan v errors compared) s = .next (eyeScanOp v.toNat errors compared s) :=
    congrArg Host.Outcome.next (if_pos hready)
  have hfree : s.casc.eyeBusy.isSome = false := by rw [hbusy]; rfl
  rw [hrun]
  simp only [eyeScanOp]
  rw [if_neg (by simp [hgo, hfree, heye, Nat.not_le.2 hlt]), if_neg (by simp [hup, hworks])]
  refine ⟨fun hactive => ?_, fun hidle => ?_⟩
  · rw [if_neg (by simp [hactive])]
    simp only [endScan, ← hbusy]
  · rw [if_pos hidle]

/-- Settles O49: each clause by what its command does to the link. -/
theorem cascadeLinks : Obligations.CascadeLinks := by
  refine ⟨⟨?laneFails, ?retrainEnds, ?memberLost, ?linkTrains, ?flitFails⟩, ?marker, ?measured, ?idle, ?idleEnds, ?accepted,
    ?corrupted, ?eye⟩
  case laneFails => exact fun s n l half x recent hl hx hup hworks hrecent hhalf => laneFails hl hx hup hworks hrecent hhalf
  case retrainEnds => exact fun s l half reach x hx htraining hheld hidle => retrainEnds hx htraining hheld hidle
  case memberLost =>
    exact fun s l d reach o htraining hformed hmaster hheld hothers hlost honly hawaits htrn =>
      memberLost htraining hformed hmaster hheld hothers hlost honly hawaits htrn
  case linkTrains =>
    exact fun s l p pl x hx hdown hworks htraining hl hp hpl => linkTrains hx hdown hworks htraining hl hp hpl
  case flitFails => exact fun s src dst net inject replay hnet hlink => flitFails hnet hlink
  case marker => exact fun s u n x y hx hy hup hworks hu => markerLeaves hx hy hup hworks hu
  case measured => exact fun s n count skew x hx => markerMeasured hx
  case idle => exact fun s u l x bs hx hup hidle => idleEnters hx hup hidle
  case idleEnds => exact fun s u v l x hx hidle hu hv => idleEnds hx hidle hu hv
  case accepted =>
    exact fun s l h flit x left hx hup hidle hqueue hscan hlanes hlen hh hcrc hheader hslots htype hnext hleft =>
      flitAccepted hx hup hidle hqueue hscan hlanes hlen hh hcrc hheader hslots htype hnext hleft
  case corrupted => exact fun s l flit x hx hup hidle hcrc hnaked => flitCorrupted hx hup hidle hcrc hnaked
  case eye =>
    exact fun s v errors compared lane dwell n hready hgo heye hlane hlt hbusy hup hworks hdwell hn =>
      eyeScans hready hgo heye hlane hlt hbusy hup hworks hdwell hn

end Sys2Proof.Machine
end

section
/-! What delivering leaves of the only operation: its tag, descriptor and records (R271, R272). -/

namespace Sys2Proof.Machine

/-- The only operation has a tag, a descriptor and records. -/
def OnlyOp (tag : Nat) (desc : List Byte) (recs : List (Nat × List Byte)) (s : State) : Prop :=
  ∃ y, s.ops = [y] ∧ y.tag = tag ∧ y.desc = desc ∧ y.recs = recs

section OnlyOp

variable {tag : Nat} {desc : List Byte} {recs : List (Nat × List Byte)}

theorem OnlyOp.of_ops {s t : State} (h : OnlyOp tag desc recs s) (hops : t.ops = s.ops) : OnlyOp tag desc recs t := by
  rwa [OnlyOp, hops]

theorem OnlyOp.updOp {s : State} (h : OnlyOp tag desc recs s) {f : Op → Op}
    (hf : ∀ o, (f o).tag = o.tag ∧ (f o).desc = o.desc ∧ (f o).recs = o.recs) (k : Nat) : OnlyOp tag desc recs (updOp k f s) := by
  obtain ⟨y, hops, htag, hdesc, hrecs⟩ := h
  by_cases hk : y.tag = k
  · obtain ⟨ht, hd, hr⟩ := hf y
    exact ⟨f y, by simp [Machine.updOp, hops, hk], ht.trans htag, hd.trans hdesc, hr.trans hrecs⟩
  · exact ⟨y, by simp [Machine.updOp, hops, hk], htag, hdesc, hrecs⟩

theorem OnlyOp.updStats {s : State} (h : OnlyOp tag desc recs s) (k i : Nat) (f : Stats → Stats) :
    OnlyOp tag desc recs (updStats k i f s) :=
  h.updOp (f := fun o => { o with stats := tset (dflt {}) o.stats i (f (tget (dflt {}) o.stats i)) }) (fun _ => ⟨rfl, rfl, rfl⟩) k

theorem OnlyOp.flagElem {s : State} (h : OnlyOp tag desc recs s) (k pos fl j : Nat) : OnlyOp tag desc recs (flagElem k pos fl j s) :=
  h.updOp (fun o => by
    obtain ⟨r, n, hoffer⟩ := offer_frame (o.addBlock (pos / 4096) fl) 0 (if bit fl 0 then some (o.offender1 s pos j) else none)
    rw [hoffer]
    exact ⟨rfl, rfl, rfl⟩) k

theorem setOp_ops_of_only {s : State} {y x : Op} (hops : s.ops = [y]) (htag : y.tag = x.tag) : (setOp s x).ops = [x] := by
  simp [setOp, hops, htag]

theorem OnlyOp.keepOld {s : State} (h : OnlyOp tag desc recs s) (k : Nat) (l : List (Nat × Bool × List Byte)) :
    OnlyOp tag desc recs (keepOld k l s) := by
  obtain ⟨y, hops, htag, hdesc, hrecs⟩ := h
  simp only [Machine.keepOld]
  split
  next o ho =>
    obtain rfl : o = y := by
      simp only [findOp, hops, List.find?_singleton] at ho
      split at ho
      · exact (Option.some.inj ho).symm
      · exact absurd ho nofun
    split
    · exact ⟨_, setOp_ops_of_only hops rfl, htag, hdesc, hrecs⟩
    · exact ⟨_, hops, htag, hdesc, hrecs⟩
  next => exact ⟨y, hops, htag, hdesc, hrecs⟩

theorem storeV_ops (w : Who) (n addr : Nat) (bs : List Byte) (s : State) : (storeV w n addr bs s).ops = s.ops := by
  induction n generalizing addr bs s with
  | zero => rfl
  | succ n ih =>
    rw [storeV]
    split
    · rfl
    · rw [ih]
      split
      · obtain ⟨_, _, _, _, h⟩ := writeLine_frame _ _ s
        rw [h]
      · rfl
      · rfl

theorem writeAll_ops {w : Who} {l : List (Nat × Bool × List Byte)} {s t : State} (h : writeAll w l s = .ok t) : t.ops = s.ops := by
  have hall (l : List (Nat × Bool × List Byte)) (u : State) :
      (l.foldl (fun s x => storeV w (x.2.2.length / 64 + 2) x.1 x.2.2 s) u).ops = u.ops := by
    induction l generalizing u with
    | nil => rfl
    | cons x l ih => rw [List.foldl_cons, ih, storeV_ops]
  simp only [writeAll] at h
  split at h
  · exact absurd h nofun
  · obtain rfl := Except.ok.inj h
    exact hall l s

/-- One element delivered to a record that is no T tensor. -/
theorem OnlyOp.of_deliver {s t : State} (h : OnlyOp tag desc recs s) {k arith ix l : Nat} {w : Who} {r : Tensor}
    {v : XVal × Nat × Nat} (hplain : isT r.format = false) (hdelivered : deliver k w arith ix l r [v] s = .ok t) :
    OnlyOp tag desc recs t := by
  simp only [deliver, deliverWith, deliverBy, hplain, Bool.false_eq_true, if_false] at hdelivered
  split at hdelivered
  next => exact absurd hdelivered nofun
  next u hwritten =>
    obtain rfl := Except.ok.inj hdelivered
    exact (((h.keepOld k _).of_ops (writeAll_ops hwritten)).updStats k ix _).flagElem k _ _ _

end OnlyOp

end Sys2Proof.Machine
end

section
/-! FABRIC operations (R358 to R362, R366): streams of one element, bindings, lanes, and their timeouts. -/

namespace Sys2Proof.Machine

/-! ### Ports -/

@[simp] theorem getPort_putPort (s : State) (m : Nat) (x : MidPort) : getPort (putPort s m x) m = x := getPort_setPort s m x

theorem refill_of_noPushes {s : State} {m : Nat} (h : (getPort s m).pushing = []) : refill m s = s := by simp [refill, h]

theorem putPort_frame (s : State) (m : Nat) (x : MidPort) :
    putPort s m x = { setPort s m x with outbox := s.outbox ++ outputsMoved m (getPort s m) x } := rfl

theorem getPort_holdPort (o : Op) (m : Nat) (s : State) :
    getPort (holdPort o m s) m = { getPort s m with holder := some o.tag, holderGroup := groupOf o.queue } := getPort_setPort s m _

/-! ### A FABRIC that is ready (R359, R361) -/

/-- A ready FABRIC of a kind begins, where its port serves it. -/
theorem runFabric_of_ready {s : State} {tag k : Nat} {o : Op} {f : Op → State → State} (ho : findOp s tag = some o)
    (hopc : o.opc = 0x38) (hkind : o.fkind = k) (hready : o.phase = .ready) (happ : s.cfg.applying = none)
    (hslot : o.slotFree s = true) : runFabric tag k f s =
      if decide (k ≤ 4) && !portServes s o.target (fabricDir k) then refuseOp tag 0x10 (beginOp o s) else f o (beginOp o s) := by
  rw [runFabric, runWhen_of_ready ho hready (by simp [hopc, hkind]) happ hslot, placed_of_notOnePart (onePart_of_opc hopc (by decide))]
  rfl

theorem begun_target (o : Op) (s : State) : (o.begun s).target = o.target := begun_fld ..

theorem portElem_eq_of {o y : Op} (hdesc : y.desc = o.desc) (t : Tensor) : y.portElem t = o.portElem t := by
  have hopt : y.fopt = o.fopt := by simp only [Op.fopt, Op.fld, hdesc]
  rw [Op.portElem, Op.portElem, hopt]

/-! ### STREAM_IN (R360) -/

/-- The stream of an operation whose record is full ends, and its port is given back. -/
theorem streamInLoop_of_full {s : State} {tag fuel : Nat} {o : Op} (ho : findOp s tag = some o) (hfull : (o.tensor 1).count ≤ o.cursor)
    (hpushing : (getPort s o.target).pushing = []) : streamInLoop tag (fuel + 1) s = putPort (endOp tag { cursor := o.cursor } s) o.target
      { getPort s o.target with chain := chainTidy (getPort s o.target).chain, holder := none } := by
  simp only [streamInLoop, ho, hfull]
  exact refill_of_noPushes (by simpa using hpushing)

/-- One element of a port's bytes goes into the record. -/
theorem streamInLoop_of_element {s s1 : State} {tag fuel : Nat} {o : Op} {bs : List Byte} {e : Bool} (ho : findOp s tag = some o)
    (hleft : o.cursor < (o.tensor 1).count) (hplain : isT (o.tensor 1).format = false)
    (hpushing : (getPort s o.target).pushing = []) (hbytes : chainBytes (getPort s o.target).chain = (bs, e))
    (hsize : 0 < o.portElem (o.tensor 1)) (henough : o.portElem (o.tensor 1) ≤ bs.length)
    (hplaced : placeElems tag o (o.tensor 1) (bs.take (o.portElem (o.tensor 1))) 1 s = .ok s1) :
    streamInLoop tag (fuel + 1) s = streamInLoop tag fuel (putPort (updOp tag (fun o => { o with cursor := o.cursor + 1 }) s1) o.target
      { getPort s o.target with chain := chainTake (o.portElem (o.tensor 1)) (getPort s o.target).chain }) := by
  have hhave : 1 ≤ bs.length / o.portElem (o.tensor 1) := (Nat.one_le_div_iff hsize).2 henough
  simp only [streamInLoop, ho, hbytes, deliverLen_of_plain hplain, Nat.one_mul, hplaced]
  rw [if_neg (Nat.not_le.2 hleft), if_pos hhave]
  exact congrArg (streamInLoop tag fuel) (refill_of_noPushes (by simpa using hpushing))

section Fabric

variable {s u : State} {o z : Op} {m : Nat} {x : MidPort} (honly : s.ops = [o]) (hm : m = o.target) (hx : x = getPort s m)
  (hu : u = beginOp o s) (hz : z = o.begun s)

include honly hu hz in
theorem findOp_holdPort : findOp (holdPort o m u) o.tag = some z := by
  subst hu hz
  exact findOp_beginOp (findOp_of_only honly)

include honly hm hx hu hz in
theorem streamIn_one {s1 : State} {y : Op} {bs : List Byte} {e : Bool} (hpushing : x.pushing = [])
    (hcount : (o.tensor 1).count = 1) (hplain : isT (o.tensor 1).format = false) (hcursor : o.cursor = 0) (hopt : o.fopt ≠ 0)
    (hbytes : chainBytes x.chain = (bs, e)) (hsize : 0 < fmtBytes o.fopt) (henough : fmtBytes o.fopt ≤ bs.length)
    (hdelivered : deliver o.tag (whoOf z) o.arith 0 0 (o.tensor 1) [(decodeElem o.fopt (fromContainer o.fopt
      (fieldAt (bs.take (fmtBytes o.fopt)) 0 (fmtBytes o.fopt))), 0, noK)] (holdPort o m u) = .ok s1)
    (hy : s1.ops = [y]) (hycursor : y.cursor = 0) : ∃ t, streamInLoop o.tag 3 (holdPort o m u) = t ∧
      t.ops = [{ y with
        cursor := 1, phase := .done, result := { cursor := 1 }, closing := if y.closing = 1 then 2 else y.closing }] ∧
      t.dmem = s1.dmem ∧ t.hmem = s1.hmem ∧ getPort t m = { x with
        chain := chainTidy (chainTake (fmtBytes o.fopt) x.chain), holder := none, holderGroup := groupOf o.queue } := by
  have hsame : OnlyOp o.tag o.desc o.recs (holdPort o m u) := by
    subst hu
    exact ⟨o.begun s, beginOp_ops_of_only honly, begun_tag o s, placed_desc o s, placed_recs o s⟩
  obtain ⟨y', hy', htag, hdesc, hrecs⟩ := hsame.of_deliver hplain hdelivered
  obtain rfl : y' = y := by simpa [hy] using hy'.symm
  have hport : getPort (holdPort o m u) m = { x with holder := some o.tag, holderGroup := groupOf o.queue } := by
    subst hx hu
    exact getPort_holdPort o m _
  have hfind : findOp (holdPort o m u) o.tag = some z := findOp_holdPort honly hu hz
  have htensor : z.tensor 1 = o.tensor 1 := by rw [hz, begun_tensor]
  have htarget : z.target = m := by rw [hz, begun_target, hm]
  have hzcursor : z.cursor = 0 := by rw [hz, begun_cursor, hcursor]
  have hzdesc : z.desc = o.desc := by rw [hz]; exact placed_desc o s
  have hzopt : z.fopt = o.fopt := by simp only [Op.fopt, Op.fld, hzdesc]
  have helem : z.portElem (o.tensor 1) = fmtBytes o.fopt := by
    rw [portElem_eq_of hzdesc, Op.portElem, if_neg hopt]
  have hplaced : placeElems o.tag z (o.tensor 1) (bs.take (fmtBytes o.fopt)) 1 (holdPort o m u) = .ok s1 := by
    rw [placeElems, hzopt, if_neg hopt, hzcursor]
    simpa [Op.arith, Op.fld, hzdesc] using hdelivered
  have hfirst := streamInLoop_of_element (fuel := 2) (s1 := s1) (bs := bs) (e := e) hfind (by rw [htensor, hzcursor, hcount]; decide)
    (by rw [htensor]; exact hplain) (by rw [htarget, hport]; exact hpushing) (by rw [htarget, hport]; exact hbytes)
    (by rw [htensor, helem]; exact hsize) (by rw [htensor, helem]; exact henough) (by rw [htensor, helem]; exact hplaced)
  rw [htensor, helem, htarget, hport] at hfirst
  obtain ⟨v, hv⟩ : ∃ v, v = putPort (updOp o.tag (fun o => { o with cursor := o.cursor + 1 }) s1) m
    { x with chain := chainTake (fmtBytes o.fopt) x.chain, holder := some o.tag, holderGroup := groupOf o.queue } := ⟨_, rfl⟩
  have hvops : v.ops = [{ y' with cursor := 1 }] := by
    rw [hv, putPort_frame]
    simp [updOp, hy', htag, hycursor]
  have hvport : getPort v m = { x with
      chain := chainTake (fmtBytes o.fopt) x.chain, holder := some o.tag, holderGroup := groupOf o.queue } := by rw [hv, getPort_putPort]
  have hytarget : y'.target = m := by rw [hm]; simp only [Op.target, Op.fld, hdesc]
  have hytensor : ({ y' with cursor := 1 } : Op).tensor 1 = o.tensor 1 := by simp only [Op.tensor, Op.rec?, hrecs]
  have hlast := streamInLoop_of_full (s := v) (tag := o.tag) (fuel := 1) (o := { y' with cursor := 1 })
    (by rw [← htag]; exact findOp_of_only hvops) (by rw [hytensor, hcount])
    (by change (getPort v y'.target).pushing = []; rw [hytarget, hvport]; exact hpushing)
  change _ = putPort (endOp o.tag { cursor := 1 } v) y'.target { getPort v y'.target with
    chain := chainTidy (getPort v y'.target).chain, holder := none } at hlast
  rw [hytarget, hvport] at hlast
  refine ⟨_, hfirst.trans ((congrArg (streamInLoop o.tag 2) hv.symm).trans hlast), ?_, ?_, ?_, getPort_putPort ..⟩
  · rw [putPort_frame]
    simp only [setPort_ops, endOp_frame, hvops, List.map_cons, List.map_nil, htag, if_true]
    rfl
  · simp [putPort_frame, hv]
  · simp [putPort_frame, hv]

/-! ### STREAM_OUT (R360) -/

end Fabric

theorem packWord_frame (bs : List Byte) (last : Bool) (s : State) : ∃ f, (packWord bs last s).2 = { s with fresh := f } := by
  by_cases h : bs.length = 8
  · exact ⟨s.fresh, by simp [packWord, h]⟩
  · exact ⟨_, by simp only [packWord, if_neg h]; rfl⟩

theorem pushWord_of_room {s : State} {m : Nat} (w : PortWord) (hroom : (getPort s m).full = false)
    (hpopping : (getPort s m).popping = false) :
    pushWord m w s = wakeHolder m (putPort s m { getPort s m with chain := (getPort s m).chain ++ [w] }) := by
  simp [pushWord, hroom, storeWord, hpopping]

/-- A holder that is not waiting goes on by itself. -/
theorem wakeHolder_of_ready {s : State} {m : Nat} {y : Op} (hops : s.ops = [y]) (hready : y.phase = .ready) : wakeHolder m s = s := by
  unfold wakeHolder
  split
  next k _ =>
    have hsame : [y].map (fun o => if o.tag = k then (if o.phase = .waiting then { o with phase := .ready, since := s.time } else o) else o) =
        [y] := by simp [hready]
    rw [updOp, hops, hsame, ← hops]
  next => rfl

theorem streamOutLoop_of_full {s : State} {tag fuel : Nat} {o : Op} (ho : findOp s tag = some o)
    (hfull : (o.tensor 1).count ≤ o.cursor) :
    streamOutLoop tag (fuel + 1) s = freePort o.target (endOp tag { cursor := o.cursor } s) := by
  simp only [streamOutLoop, ho, hfull, if_true]

/-- The only element of a record is pushed as a word. -/
theorem streamOutLoop_of_element {s s1 : State} {tag fuel fl : Nat} {o : Op} {bs : List Byte} {w : PortWord}
    (ho : findOp s tag = some o) (hcount : (o.tensor 1).count = 1) (hcursor : o.cursor = 0)
    (hroom : (getPort s o.target).full = false) (hsize : 0 < o.portElem (o.tensor 1)) (hfits : o.portElem (o.tensor 1) ≤ 8)
    (hbytes : outBytes s o (o.tensor 1) 1 0 = .ok (bs, [fl])) (hpacked : packWord bs o.lastWord s = (w, s1)) :
    streamOutLoop tag (fuel + 1) s = streamOutLoop tag fuel (pushWord o.target w (updOp tag (fun o => { o with cursor := o.cursor + 1 })
      (flagElem tag ((o.tensor 1).runPos 0) fl noK s1))) := by
  have hone : min (8 / o.portElem (o.tensor 1)) (1 - 0) = 1 := by
    have := (Nat.one_le_div_iff hsize).2 hfits
    omega
  simp only [streamOutLoop, ho, hcount, hcursor, hroom, hone, hbytes]
  simp [hpacked]

theorem updOp_ops_of_only {s : State} {tag : Nat} {z : Op} (hops : s.ops = [z]) (htag : z.tag = tag) (f : Op → Op) :
    (updOp tag f s).ops = [f z] := by simp [updOp, hops, htag]

/-- The only operation after one element that it has sent. -/
theorem outElement_ops {v : State} {z : Op} (hops : v.ops = [z]) (pos fl : Nat) : ∃ y,
    (updOp z.tag (fun o => { o with cursor := o.cursor + 1 }) (flagElem z.tag pos fl noK v)).ops = [y] ∧ y.tag = z.tag ∧
      y.phase = z.phase ∧ y.flags = z.flags ||| fl ∧ y.cursor = z.cursor + 1 ∧ y.desc = z.desc ∧ y.recs = z.recs := by
  obtain ⟨r, n, hoffer⟩ := offer_frame (z.addBlock (pos / 4096) fl) 0 (if bit fl 0 then some (z.offender1 v pos noK) else none)
  have hflagged : (flagElem z.tag pos fl noK v).ops = [{ z.addBlock (pos / 4096) fl with offender := r, offOrd := n }] :=
    (updOp_ops_of_only hops rfl _).trans (congrArg (fun y => [y]) hoffer)
  exact ⟨_, updOp_ops_of_only hflagged rfl _, rfl, rfl, rfl, rfl, rfl, rfl⟩

section Fabric

variable {s u : State} {o z : Op} {m : Nat} {x : MidPort} (honly : s.ops = [o]) (hm : m = o.target) (hx : x = getPort s m)
  (hu : u = beginOp o s) (hz : z = o.begun s)

include honly hm hx hu hz in
theorem streamOut_one {s1 : State} {bs : List Byte} {fl : Nat} {w : PortWord} (hready : o.phase = .ready) (hroom : x.full = false)
    (hpopping : x.popping = false) (hcount : (o.tensor 1).count = 1) (hcursor : o.cursor = 0) (hsize : 0 < o.portElem (o.tensor 1))
    (hfits : o.portElem (o.tensor 1) ≤ 8) (hbytes : outBytes (holdPort o m u) z (o.tensor 1) 1 0 = .ok (bs, [fl]))
    (hpacked : packWord bs o.lastWord (holdPort o m u) = (w, s1)) : ∃ t y, streamOutLoop o.tag 2 (holdPort o m u) = t ∧
      t.ops = [y] ∧ y.phase = .done ∧ y.result = { cursor := 1 } ∧ y.flags = o.flags ||| fl ∧ t.fresh = s1.fresh ∧
      getPort t m = { x with chain := x.chain ++ [w], holder := none, holderGroup := groupOf o.queue } := by
  obtain ⟨f, hs1⟩ := packWord_frame bs o.lastWord (holdPort o m u)
  rw [hpacked] at hs1
  change s1 = _ at hs1
  have hport : getPort (holdPort o m u) m = { x with holder := some o.tag, holderGroup := groupOf o.queue } := by
    subst hx hu
    exact getPort_holdPort o m _
  have hzops : (holdPort o m u).ops = [z] := by
    subst hu hz
    exact beginOp_ops_of_only honly
  have hztag : z.tag = o.tag := by rw [hz, begun_tag]
  have htensor : z.tensor 1 = o.tensor 1 := by rw [hz, begun_tensor]
  have htarget : z.target = m := by rw [hz, begun_target, hm]
  have hzcursor : z.cursor = 0 := by rw [hz, begun_cursor, hcursor]
  have hzdesc : z.desc = o.desc := by rw [hz]; exact placed_desc o s
  have hzlast : z.lastWord = o.lastWord := by simp only [Op.lastWord, Op.fld, hzdesc]
  have hzready : z.phase = .ready := by rw [hz, begun_phase, hready]
  have hzflags : z.flags = o.flags := by
    obtain ⟨k, hplaced⟩ := placed_frame o s
    simp [hz, Op.begun, hplaced]
  have helem : z.portElem (o.tensor 1) = o.portElem (o.tensor 1) := portElem_eq_of hzdesc _
  have hfirst := streamOutLoop_of_element (fuel := 1) (tag := o.tag) (fl := fl) (bs := bs) (w := w) (s1 := s1)
    (by rw [← hztag]; exact findOp_of_only hzops) (by rw [htensor, hcount]) hzcursor (by rw [htarget, hport]; exact hroom)
    (by rw [htensor, helem]; exact hsize) (by rw [htensor, helem]; exact hfits) (by rw [htensor]; exact hbytes)
    (by rw [hzlast]; exact hpacked)
  rw [htensor, htarget] at hfirst
  obtain ⟨y, hyops, hytag, hyphase, hyflags, hycursor, hydesc, hyrecs⟩ := outElement_ops (v := s1) (z := z)
    (by rw [hs1]; exact hzops) ((o.tensor 1).runPos 0) fl
  rw [hztag] at hyops
  obtain ⟨v, hv⟩ : ∃ v, v = updOp o.tag (fun o => { o with cursor := o.cursor + 1 })
    (flagElem o.tag ((o.tensor 1).runPos 0) fl noK s1) := ⟨_, rfl⟩
  rw [← hv] at hyops hfirst
  have hvport : getPort v m = { x with holder := some o.tag, holderGroup := groupOf o.queue } := by
    rw [hv, hs1]
    exact hport
  have hpushed : pushWord m w v = putPort v m { x with
      chain := x.chain ++ [w], holder := some o.tag, holderGroup := groupOf o.queue } := by
    rw [pushWord_of_room w (by rw [hvport]; exact hroom) (by rw [hvport]; exact hpopping), hvport]
    exact wakeHolder_of_ready (by rw [putPort_frame]; exact hyops) (hyphase.trans hzready)
  have hytarget : y.target = m := by rw [hm]; simp only [Op.target, Op.fld, hydesc, hzdesc]
  have hytensor : y.tensor 1 = o.tensor 1 := by rw [← htensor]; simp only [Op.tensor, Op.rec?, hyrecs]
  have hlast := streamOutLoop_of_full (fuel := 0) (tag := o.tag) (o := y) (s := putPort v m { x with
      chain := x.chain ++ [w], holder := some o.tag, holderGroup := groupOf o.queue })
    (by rw [← hztag, ← hytag]; exact findOp_of_only (by rw [putPort_frame]; exact hyops))
    (by rw [hytensor, hcount, hycursor, hzcursor])
  rw [hpushed] at hfirst
  rw [hytarget, hycursor, hzcursor] at hlast
  refine ⟨_, y.ended { cursor := 1 }, hfirst.trans hlast, ?_, rfl, rfl, ?_, ?_, ?_⟩
  · simp only [freePort, setPort_ops, endOp_frame, putPort_frame, hyops, List.map_cons, List.map_nil, hytag, hztag, if_true]
  · rw [← hzflags]
    exact hyflags
  · simp only [freePort, setPort_fresh, endOp_fresh, putPort_frame]
    rw [hv]
    rfl
  · simp only [freePort, getPort_setPort]
    have hended (r : Result) (t : State) : getPort (endOp o.tag r t) m = getPort t m := by simp [getPort]
    rw [hended, getPort_putPort]

/-! ### Bindings and lanes (R362, R366) -/

theorem fabricWait_of_only {t : State} {tag : Nat} {y : Op} (hops : t.ops = [y]) (htag : y.tag = tag) :
    fabricWait tag t = { t with ops := [{ y with phase := .waiting, since := t.time }] } := by
  simp [fabricWait, updOp, hops, htag]

/-- How the only operation ends once its unit has been changed. -/
theorem endOp_begun {t : State} (hops : t.ops = [o.begun s]) : ∃ ti fl, endOp o.tag {} t = { t with
    fills := [], tiles := ti, floe := fl
    ops := [{ o.begun s with phase := .done, result := {}, closing := if o.closing = 1 then 2 else o.closing }] } := by
  obtain ⟨ti, fl, hended⟩ := endOp_of_only {} hops
  rw [begun_tag] at hended
  refine ⟨ti, fl, hended.trans ?_⟩
  rw [Op.ended, begun_closing]

include honly in
theorem bindMem_unbound (hbound : (getPort s o.target).bound = none) : ∃ w ts fu, bindMemOp o.tag o (beginOp o s) =
    { setPort s o.target { getPort s o.target with
        bound := some (groupOf o.queue)
        bindWho := { asid := o.asid, func := o.func, pasid := o.pasid, prio := o.prio
                     unit := (0x70 + o.target / 64) * 0x100 + o.target % 64 } } with
      ops := [{ o.begun s with phase := .done, result := {}, closing := if o.closing = 1 then 2 else o.closing }]
      fills := [], works := w, tiles := ts, floe := fu } := by
  obtain ⟨ti, fl, hended⟩ := endOp_begun (t := setPort (beginOp o s) o.target { getPort s o.target with
    bound := some (groupOf o.queue)
    bindWho := { asid := o.asid, func := o.func, pasid := o.pasid, prio := o.prio
                 unit := (0x70 + o.target / 64) * 0x100 + o.target % 64 } }) (beginOp_ops_of_only honly)
  have hport : (getPort (beginOp o s) o.target).bound = none := hbound
  refine ⟨(beginOp o s).works, ti, fl, ?_⟩
  simp only [bindMemOp, hport]
  exact hended

theorem bindMem_denied {t : State} {tag g : Nat} (hbound : (getPort t o.target).bound = some g) (hother : g ≠ groupOf o.queue) :
    bindMemOp tag o t = refuseOp tag 0x21 t := by
  simp only [bindMemOp, hbound, if_neg hother]

include honly in
theorem unbind_idle (hopc : o.opc = 0x38) (hkind : o.fkind = 4) (hreqs : (getPort s o.target).reqs = []) : ∃ w ts fu,
    unbindOp o.tag o (beginOp o s) = { setPort s o.target { getPort s o.target with bound := none } with
      ops := [{ o.begun s with
        phase := .done, since := s.time, result := {}, closing := if o.closing = 1 then 2 else o.closing }]
      fills := [], works := w, tiles := ts, floe := fu } := by
  have hops : (fabricWait o.tag (setPort (beginOp o s) o.target { getPort (beginOp o s) o.target with bound := none })).ops =
      [{ o.begun s with phase := .waiting, since := s.time }] := updOp_ops_of_only (beginOp_ops_of_only honly) (begun_tag o s) _
  obtain ⟨ti, fl, hended⟩ := endOp_of_only {} hops
  have hopc' : ({ o.begun s with phase := .waiting, since := s.time } : Op).opc = 0x38 := (begun_fld o s 0 1).trans hopc
  have hkind' : ({ o.begun s with phase := .waiting, since := s.time } : Op).fld 38 1 = 4 := (begun_fld o s 38 1).trans hkind
  have htarget' : ({ o.begun s with phase := .waiting, since := s.time } : Op).fld 36 2 = o.target := begun_fld o s 36 2
  have hidle : (getPort (fabricWait o.tag (setPort (beginOp o s) o.target { getPort (beginOp o s) o.target with bound := none }))
      o.target).reqs.isEmpty = true := by
    have hport (t : State) : getPort (fabricWait o.tag t) o.target = getPort t o.target := rfl
    rw [hport, getPort_setPort]
    exact List.isEmpty_iff.2 hreqs
  refine ⟨(beginOp o s).works, ti, fl, ?_⟩
  rw [unbindOp, endUnbind, if_pos hidle, hops]
  simp only [List.filter_cons, hopc', hkind', htarget', decide_true, Bool.and_self, if_true, List.filter_nil, List.foldl_cons,
    List.foldl_nil]
  refine hended.trans ?_
  rw [Op.ended, ← begun_closing o s]
  rfl

include honly in
theorem laneUp_free (hfree : (getUserLane s o.target).training = none) : ∃ w fu, laneUpOp o.tag o (beginOp o s) =
    { setUserLane s o.target { getUserLane s o.target with
        up := false, training := some o.tag, rate := bits o.laneCfg 0 2, code := bit o.laneCfg 2
        loopback := bit o.laneCfg 3, regTaps := bit o.laneCfg 4
        taps := if bit o.laneCfg 4 then ((getUserLane s o.target).pre, (getUserLane s o.target).post)
          else Config.laneTaps s.mid.frames o.target } with
      ops := [{ o.begun s with phase := .waiting, since := s.time }], works := w, floe := fu } := by
  have hlane : (getUserLane (beginOp o s) o.target).training = none := hfree
  refine ⟨(beginOp o s).works, (beginOp o s).floe, ?_⟩
  simp only [laneUpOp, hlane]
  exact (if_neg Bool.false_ne_true).trans (fabricWait_of_only (beginOp_ops_of_only honly) (begun_tag o s))

include honly in
theorem laneDown_ends : ∃ w ts fu, laneDownOp o.tag o (beginOp o s) = { setUserLane s o.target { getUserLane s o.target with
      up := false, training := none } with
    ops := [{ o.begun s with phase := .done, result := {}, closing := if o.closing = 1 then 2 else o.closing }]
    fills := [], works := w, tiles := ts, floe := fu } := by
  obtain ⟨ti, fl, hended⟩ := endOp_begun (t := setUserLane (beginOp o s) o.target { getUserLane s o.target with
    up := false, training := none }) (beginOp_ops_of_only honly)
  exact ⟨(beginOp o s).works, ti, fl, hended⟩

include honly in
theorem laneLock_trained (hwaits : o.phase = .waiting) (htraining : (getUserLane s m).training = some o.tag) : ∃ ts fu,
    laneLockOp m s = { setUserLane s m { getUserLane s m with up := true, training := none } with
      ops := [{ o with phase := .done, result := {}, closing := if o.closing = 1 then 2 else o.closing }]
      fills := [], tiles := ts, floe := fu } := by
  obtain ⟨ti, fl, hended⟩ := endOp_of_only {} (s := setUserLane s m { getUserLane s m with up := true, training := none }) honly
  refine ⟨ti, fl, ?_⟩
  simp only [laneLockOp, htraining, findOp_of_only honly, hwaits]
  exact hended

end Fabric

section Timeouts

variable {s : State} {o : Op} (honly : s.ops = [o]) (hopc : o.opc = 0x38) (hwaits : o.phase = .waiting)

include honly hopc hwaits

theorem fabricTimeout_lane (hkind : o.fkind = 5) (htraining : (getUserLane s o.target).training = some o.tag) :
    fabricTimeoutOp o.tag s = endOp o.tag { status := 0x31 }
      (setUserLane (passTo (o.since + (if o.fabricUs = 0 then 100000 else o.fabricUs) * 1000) s) o.target
        { getUserLane s o.target with training := none }) := by
  have hlane (t : Nat) : getUserLane (passTo t s) o.target = getUserLane s o.target := by simp [getUserLane]
  simp [fabricTimeoutOp, findOp_of_only honly, hopc, hwaits, hkind, hlane, htraining, stopWith]

theorem fabricTimeout_stream (hkind : o.fkind = 1 ∨ o.fkind = 2) (hus : o.fabricUs ≠ 0) :
    fabricTimeoutOp o.tag s = freePort o.target (endOp o.tag { status := 0x51, cursor := o.cursor }
      (passTo (o.since + o.fabricUs * 1000) s)) := by
  rcases hkind with hkind | hkind <;>
    simp [fabricTimeoutOp, findOp_of_only honly, hopc, hwaits, hkind, hus, stopWith]

end Timeouts

/-- Settles O55: a FABRIC begins where its port serves it, and each kind then by what it leaves. -/
theorem fabricOperations : Obligations.FabricOperations := by
  rintro s u _ m o z x honly rfl hopc hm hx hu hz
  have ho := findOp_of_only honly
  refine ⟨fun c hc hready happ hslot hserves => ?refused, fun hready happ hslot hserves => ?begins, fun hwaits hkind htraining => ?lane,
    fun hwaits hkind hus => ?stream⟩
  case refused =>
    have hrefused (k : Nat) (f : Op → State → State) (hk : k ≤ 4) (hkind : o.fkind = k) : runFabric o.tag k f s = refuseOp o.tag 0x10 u := by
      rw [runFabric_of_ready ho hopc hkind hready happ hslot, hu, if_pos]
      rw [hm, hkind] at hserves
      simp [hk, hserves]
    rcases hc with ⟨rfl, hkind⟩ | ⟨rfl, hkind⟩ | ⟨rfl, hkind⟩ | ⟨rfl, hkind⟩ <;>
      exact congrArg Host.Outcome.next (hrefused _ _ (by decide) hkind)
  case begins =>
    have hruns (k : Nat) (f : Op → State → State) (hkind : o.fkind = k) : runFabric o.tag k f s = f o u := by
      rw [runFabric_of_ready ho hopc hkind hready happ hslot, hu, if_neg]
      rw [hm, hkind] at hserves
      by_cases hk : k ≤ 4
      · simp [hserves hk]
      · simp [hk]
    have htakes (f : State → State) (hfree : portFree u o m = true) : withPort o.tag o f u = f (holdPort o m u) := by
      rw [hm] at hfree ⊢
      exact if_pos hfree
    refine ⟨?streamIn, ?streamOut, ?bindMem, ?unbind, ?laneUp, ?laneDown⟩
    case streamIn =>
      intro s1 y bs e hkind hfree hpushing hcount hplain hcursor hopt hbytes hsize henough hdelivered hy _ hycursor
      obtain ⟨t, ht, hleaves⟩ := streamIn_one honly hm hx hu hz hpushing hcount hplain hcursor hopt hbytes hsize henough hdelivered hy
        hycursor
      refine ⟨t, congrArg Host.Outcome.next ((hruns 1 _ hkind).trans ((htakes _ hfree).trans ?_)), hleaves⟩
      rw [hcount]
      exact ht
    case streamOut =>
      intro s1 bs fl w hkind hfree hroom hpopping hcount hcursor hsize hfits hbytes hpacked
      obtain ⟨t, y, ht, hleaves⟩ := streamOut_one honly hm hx hu hz hready hroom hpopping hcount hcursor hsize hfits hbytes hpacked
      refine ⟨t, y, congrArg Host.Outcome.next ((hruns 2 _ hkind).trans ((htakes _ hfree).trans ?_)), hleaves⟩
      rw [hcount]
      exact ht
    case bindMem =>
      subst hm hx hu hz
      refine fun hkind => ⟨fun hbound => ?_, fun g hbound hother => ?_⟩
      · obtain ⟨w, ts, fu, hleaves⟩ := bindMem_unbound honly hbound
        exact ⟨w, ts, fu, congrArg Host.Outcome.next ((hruns 3 _ hkind).trans hleaves)⟩
      · exact congrArg Host.Outcome.next ((hruns 3 _ hkind).trans (bindMem_denied (by exact hbound) hother))
    case unbind =>
      subst hm hx hu hz
      intro hkind hreqs
      obtain ⟨w, ts, fu, hleaves⟩ := unbind_idle honly hopc hkind hreqs
      exact ⟨w, ts, fu, congrArg Host.Outcome.next ((hruns 4 _ hkind).trans hleaves)⟩
    case laneUp =>
      subst hm hx hu hz
      intro hkind hfree
      obtain ⟨w, fu, hleaves⟩ := laneUp_free honly hfree
      exact ⟨w, fu, congrArg Host.Outcome.next ((hruns 5 _ hkind).trans hleaves)⟩
    case laneDown =>
      subst hm hx hu hz
      intro hkind
      obtain ⟨w, ts, fu, hleaves⟩ := laneDown_ends honly
      exact ⟨w, ts, fu, congrArg Host.Outcome.next ((hruns 6 _ hkind).trans hleaves)⟩
  case lane =>
    obtain ⟨ts, fu, hleaves⟩ := laneLock_trained honly hwaits htraining
    refine ⟨⟨ts, fu, congrArg Host.Outcome.next hleaves⟩, _, congrArg Host.Outcome.next ?_, rfl⟩
    subst hm
    exact fabricTimeout_lane honly hopc hwaits hkind htraining
  case stream =>
    subst hm
    exact congrArg Host.Outcome.next (fabricTimeout_stream honly hopc hwaits hkind hus)

end Sys2Proof.Machine
end

section
/-! Queue chains, memory ports, memory blocks and latches of the Midway (R349 to R357, R363). -/

namespace Sys2Proof.Machine

/-! ### Queue chains (R354, R357) -/

section Chains

variable {s : State} {m : Nat} (hholder : portHolder s m = none)

/-- A port keeps its holder, whatever else of it changes. -/
theorem portHolder_of_same {t : State} (hport : (getPort t m).holder = (getPort s m).holder) (hops : t.ops = s.ops) :
    portHolder t m = portHolder s m := by
  simp only [portHolder, hport, findOp, hops]

theorem wakeHolder_of_noHolder {t : State} (h : portHolder t m = none) : wakeHolder m t = t := by simp [wakeHolder, h]

theorem afterPush_of_noRings {t : State} (h : ∀ e ∈ t.tiles, e.2.run.kind ≠ 2) : afterPush m t = t :=
  foldl_of_fixed fun e he => by simp [h e he]

theorem pushOp_of_chain {w : PortWord} {t : State} (hblocks : (getPort s m).blocks ≠ 0) (hpushed : pushWord m w s = t)
    (htiles : t.tiles = s.tiles) (hrings : ∀ e ∈ s.tiles, e.2.run.kind ≠ 2) : pushOp m w s = t := by
  rw [pushOp, if_neg hblocks, hpushed, afterPush_of_noRings (by rw [htiles]; exact hrings)]

include hholder in
theorem pushWord_of_noHolder (w : PortWord) (hroom : (getPort s m).full = false) (hpopping : (getPort s m).popping = false) :
    pushWord m w s = putPort s m { getPort s m with chain := (getPort s m).chain ++ [w] } := by
  rw [pushWord_of_room w hroom hpopping]
  refine wakeHolder_of_noHolder ((portHolder_of_same (s := s) ?_ ?_).trans hholder)
  · rw [getPort_putPort]
  · rfl

theorem pushWord_of_drop (w : PortWord) (hfull : (getPort s m).full = true) (hdrop : (getPort s m).drop = true) :
    pushWord m w s = setPort s m { getPort s m with dropped := min (2 ^ 32 - 1) ((getPort s m).dropped + 1) } := by
  simp only [pushWord, hfull, hdrop, Bool.not_true, Bool.false_eq_true, if_false, if_true, satAdd]

theorem pushWord_of_block (w : PortWord) (hfull : (getPort s m).full = true) (hdrop : (getPort s m).drop = false)
    (hcredits : (getPort s m).pushing.length < max 1 (getPort s m).credits) :
    pushWord m w s = emit (.queueWaits m) (setPort s m { getPort s m with pushing := (getPort s m).pushing ++ [w] }) := by
  simp only [pushWord]
  rw [if_neg (by simp [hfull]), if_neg (by simp [hdrop]), if_pos hcredits]

include hholder in
theorem popHead_of_noPushes {w : PortWord} {ws : List PortWord} (hchain : (getPort s m).chain = w :: ws)
    (hpushing : (getPort s m).pushing = []) :
    popHead m s = emit (.popWord m w.data w.keep w.last) (putPort s m { getPort s m with chain := ws, popping := false }) := by
  have hkept : portHolder (emit (.popWord m w.data w.keep w.last) (putPort s m { getPort s m with chain := ws, popping := false })) m =
      none := by
    refine (portHolder_of_same (s := s) ?_ ?_).trans hholder
    · change (getPort (putPort s m { getPort s m with chain := ws, popping := false }) m).holder = _
      rw [getPort_putPort]
    · rfl
  simp only [popHead, hchain, hpushing]
  rw [← hpushing]
  exact wakeHolder_of_noHolder hkept

end Chains

/-- An output of a queue is told where it differs from what it was. -/
theorem mem_outputsMoved (m i : Nat) (x y : MidPort) (b : Bool) : Out.queueOut m i b ∈ outputsMoved m x y ↔
    x.outputs[i]? ≠ some b ∧ y.outputs[i]? = some b := by
  simp only [outputsMoved, List.mem_map, List.mem_filter, decide_eq_true_eq, List.mem_zipIdx_iff_getElem?, Out.queueOut.injEq]
  constructor
  · rintro ⟨c, ⟨hmem, hmoved⟩, -, rfl, rfl⟩
    exact ⟨hmoved, hmem⟩
  · rintro ⟨hmoved, hmem⟩
    exact ⟨(b, i), ⟨hmem, hmoved⟩, trivial, rfl, rfl⟩

/-- The three outputs of a queue. -/
theorem outputs_getElem (y : MidPort) (i : Nat) (b : Bool) : y.outputs[i]? = some b ↔
    (i = 0 ∧ b = decide (0 < y.level ∧ y.level ≤ y.chain.length)) ∨ (i = 1 ∧ b = decide (y.words ≤ y.chain.length)) ∨
      (i = 2 ∧ b = decide (y.chain = [])) := by
  have hempty : y.chain.isEmpty = decide (y.chain = []) := by cases y.chain <;> rfl
  match i with
  | 0 => simp [MidPort.outputs, MidPort.high, eq_comm]
  | 1 => simp [MidPort.outputs, MidPort.full, eq_comm]
  | 2 => simp [MidPort.outputs, hempty, eq_comm]
  | i + 3 => simp [MidPort.outputs]

/-! ### Memory ports (R363) -/

section Requests

variable {s : State} {m n : Nat}

theorem memRequest_of_noRequest (r : PortReq) (h : r.len = 0 ∨ 64 < r.addr % 64 + r.len) : memRequest m r s = s :=
  if_pos (.inr h)

/-- A request at a port with none outstanding is tried at once. -/
theorem memRequest_first {r : PortReq} (hdir : (getPort s m).dir = 3) (hnone : (getPort s m).reqs = []) (hlen : 0 < r.len)
    (hline : r.addr % 64 + r.len ≤ 64) : memRequest m r s = retryPort m (setPort s m { getPort s m with
      reqs := [{ r with who := (getPort s m).bound.map (fun _ => (getPort s m).bindWho) }] }) := by
  simp only [memRequest, hnone]
  rw [if_neg (by omega), if_neg (by simp)]
  rfl

theorem endUnbind_of_noOps {t : State} (h : t.ops = []) : endUnbind m t = t := by simp [endUnbind, h]

theorem retryPort_of_unbound {x : MidPort} {r : PortReq} (hwho : r.who = none) (hops : s.ops = []) :
    retryPort m (setPort s m { x with reqs := [r] }) =
      emit (.portResponse m 0x21 []) (setPort (setPort s m { x with reqs := [r] }) m { x with reqs := [] }) := by
  rw [retryPort, getPort_setPort]
  simp only [List.length_singleton, pumpPort, getPort_setPort, hwho]
  exact endUnbind_of_noOps hops

theorem retryPort_of_answered {x : MidPort} {r : PortReq} {w : Who} {bs : List Byte} {s1 : State} (hwho : r.who = some w)
    (haccess : portAccess w r (setPort s m { x with reqs := [r] }) = (.ok bs, s1)) (hops : s1.ops = []) :
    retryPort m (setPort s m { x with reqs := [r] }) = emit (.portResponse m 0 bs)
      (setPort (portFlits m w r s1) m { getPort (portFlits m w r s1) m with reqs := [] }) := by
  obtain ⟨noc, hflits⟩ := onlyNoc_accessFlits (portNode s1.variant m) w r.write r.addr s1
  have hflitOps : (portFlits m w r s1).ops = [] := by
    rw [portFlits, hflits]
    exact hops
  rw [retryPort, getPort_setPort]
  simp only [List.length_singleton, pumpPort, getPort_setPort, hwho, haccess]
  exact endUnbind_of_noOps hflitOps

end Requests

/-! ### Latches (R350) -/

section Latches

variable {s : State} {cell : Nat} {v : Bool} (hloaded : s.mid.loaded = true) (hcell : cell < numCells s.variant)

include hloaded hcell

theorem latchOp_captures {d : Bool} {ones : List Nat} {s1 : State}
    (hidle : tget (dflt (false, false)) s.mid.latches cell = (v, false))
    (hsettled : settled (wireVal s ones (fun _ => true) (numCells s.variant + 1) cell (.cell cell)) s = (d, s1)) :
    latchOp cell true ones s = settleAll { s1 with
      mid := { s1.mid with latches := tset (dflt (false, false)) s1.mid.latches cell (d, true) }
      outbox := s1.outbox ++ [.latchAck cell true] } := by
  simp only [latchOp, hidle, hsettled]
  rw [if_neg (by simp [hloaded, hcell]), if_pos (by decide)]
  rfl

theorem latchOp_releases {ones : List Nat} (hacked : tget (dflt (false, false)) s.mid.latches cell = (v, true)) :
    latchOp cell false ones s = { s with
      mid := { s.mid with latches := tset (dflt (false, false)) s.mid.latches cell (v, false) }
      outbox := s.outbox ++ [.latchAck cell false] } := by
  simp only [latchOp, hacked]
  rw [if_neg (by simp [hloaded, hcell]), if_neg (by decide), if_pos (by decide)]
  rfl

end Latches

/-! ### Cells (R349) -/

theorem cell_inFunctionMode {v : Wire → Option Bool} {c : Cell} {a b x : Bool} (ha : muxVal v c.a c.sa = some a)
    (hb : muxVal v c.b c.sb = some b) (hmode : c.carry = false) (hx : v c.x = some x) :
    cellOut v c = some (if x then b else a) ∧ cellCarry v c = none := by
  cases x <;> simp [cellOut, cellCarry, hmode, ha, hb, hx, pick]

theorem cell_inCarryMode {v : Wire → Option Bool} {c : Cell} {a b x : Bool} (ha : muxVal v c.a c.sa = some a)
    (hb : muxVal v c.b c.sb = some b) (hmode : c.carry = true) (hx : v c.cin = some x) :
    cellOut v c = some a ∧ cellCarry v c = some (if a then x else b) := by
  cases a <;> simp [cellOut, cellCarry, hmode, ha, hb, hx, pick]

/-- The select inputs count from the first. -/
theorem muxVal_of_selects {v : Wire → Option Bool} (d0 d1 d2 d3 d4 d5 d6 d7 : Wire) {i0 i1 i2 : Wire} {b0 b1 b2 : Bool}
    (h0 : v i0 = some b0) (h1 : v i1 = some b1) (h2 : v i2 = some b2) : muxVal v [d0, d1, d2, d3, d4, d5, d6, d7] [i0, i1, i2] =
      v (if b2 then (if b1 then (if b0 then d7 else d6) else (if b0 then d5 else d4))
        else if b1 then (if b0 then d3 else d2) else (if b0 then d1 else d0)) := by
  have hmux : muxVal v [d0, d1, d2, d3, d4, d5, d6, d7] [i0, i1, i2] =
      v ([d0, d1, d2, d3, d4, d5, d6, d7].getD (b0.toNat + 2 * b1.toNat + 4 * b2.toNat) (.const false)) := by
    simp [muxVal, h0, h1, h2]
  rw [hmux]
  cases b0 <;> cases b1 <;> cases b2 <;> rfl

/-- Settles O56: queues by whether the chain has room, requests by what they name, and each unit by its own law. -/
theorem queuesMemoryAndLatches : Obligations.QueuesMemoryAndLatches := by
  refine ⟨?push, ?pop, ?outputs, ?noRequest, ?request, ?ram, ?latch, ?cell, ?mux⟩
  case push =>
    rintro c s m k d l _ rfl hblocks hc hholder hrings
    have hruns (t : State) (hpushed : pushWord m { data := d, keep := k, last := l } s = t) (htiles : t.tiles = s.tiles) :
        exec c s = .next t := by
      have hpush := pushOp_of_chain hblocks hpushed htiles hrings
      rcases hc with rfl | ⟨rfl, hdir⟩
      · exact congrArg Host.Outcome.next hpush
      · exact congrArg Host.Outcome.next ((if_pos hdir).trans hpush)
    refine ⟨fun hroom hpopping y hy => ?_, fun hfull hdrop => ?_, fun hfull hdrop hcredits => ?_⟩
    · subst hy
      exact hruns _ (pushWord_of_noHolder hholder _ hroom hpopping) rfl
    · exact hruns _ (pushWord_of_drop _ hfull hdrop) rfl
    · exact hruns _ (pushWord_of_block _ hfull hdrop hcredits) rfl
  case pop =>
    rintro s m _ rfl hblocks hholder
    have hruns : exec (.queuePop m) s = .next (popWordOp m s) := congrArg Host.Outcome.next (if_neg hblocks)
    refine ⟨fun w ws y hchain hpushing hy => ?_, fun hempty => ?_⟩
    · subst hy
      rw [hruns, popWordOp, if_neg (by simp [hchain]), popHead_of_noPushes hholder hchain hpushing]
      rfl
    · rw [hruns, popWordOp, if_pos (by simp [hempty])]
      rfl
  case outputs => exact fun m i x y b => (mem_outputsMoved m i x y b).trans (and_congr_right fun _ => outputs_getElem y i b)
  case noRequest => exact fun s m n a en wr data h => congrArg Host.Outcome.next (memRequest_of_noRequest _ h)
  case request =>
    rintro s s1 m n a en wr data bs x r rfl hdir hnone hlen hline hops rfl
    have hruns : exec (.memPortRequest m a n wr data en) s = .next (retryPort m (setPort s m { getPort s m with
        reqs := [{ who := (getPort s m).bound.map (fun _ => (getPort s m).bindWho)
                   addr := a.toNat, len := n, write := wr, data, enables := en.toNat }] })) :=
      congrArg Host.Outcome.next (memRequest_first hdir hnone hlen hline)
    refine ⟨fun hbound => ?_, fun hbound haccess hops1 => ⟨_, rfl, ?_⟩⟩
    · refine ⟨_, hruns.trans (congrArg Host.Outcome.next (retryPort_of_unbound (by rw [hbound]; rfl) hops)), ?_, rfl, rfl⟩
      refine (getPort_setPort _ m _).trans ?_
      rw [← hnone]
    · obtain ⟨g, hg⟩ := Option.ne_none_iff_exists'.1 hbound
      exact hruns.trans (congrArg Host.Outcome.next (retryPort_of_answered (by rw [hg]; rfl) haccess hops1))
  case ram =>
    rintro s b a d _ hloaded hb rfl hmode ha
    have hopen : (!s.mid.loaded || decide (numBlocks s.variant ≤ b) || (tget (dflt {}) s.mid.blocks b).queue ||
        decide (2 ^ (13 - (tget (dflt {}) s.mid.blocks b).shape) ≤ a)) = false := by simp [hloaded, hb, hmode, ha]
    have hruns (write : Bool) : exec (.ramAccess b write a d) s = .next (ramOp b write a d s) := rfl
    refine ⟨(hruns true).trans (congrArg Host.Outcome.next ?_), (hruns false).trans (congrArg Host.Outcome.next ?_)⟩
    · exact (if_neg (by rw [hopen]; decide)).trans (if_pos rfl)
    · exact (if_neg (by rw [hopen]; decide)).trans (if_neg (by decide))
  case latch =>
    intro s cell d v ones hloaded hcell
    exact ⟨fun hidle s1 hsettled => congrArg Host.Outcome.next (latchOp_captures hloaded hcell hidle hsettled),
      fun hacked => congrArg Host.Outcome.next (latchOp_releases hloaded hcell hacked)⟩
  case cell => exact fun v c a b x ha hb => ⟨cell_inFunctionMode ha hb, cell_inCarryMode ha hb⟩
  case mux =>
    exact fun v d0 d1 d2 d3 d4 d5 d6 d7 i0 i1 i2 b0 b1 b2 h0 h1 h2 => muxVal_of_selects d0 d1 d2 d3 d4 d5 d6 d7 h0 h1 h2

end Sys2Proof.Machine
end

section
/-! Pins, banks, pacers and user serial lanes of the Midway (R364, R365, R367 to R369). -/

namespace Sys2Proof.Machine

/-! ### Pins (R365) -/

theorem pinChangeOp_of_event {s : State} {n : Nat} {level : Bool} (hn : n < numBanks s.variant * 24)
    (hmoves : (getPin s n).level ≠ level) (hloaded : s.mid.loaded = true) (hon : bankOn s (n / 24) = true) :
    pinChangeOp n level s = if n % 24 < 6
      then settleFast (n / 48) { setPin s n { getPin s n with level } with outbox := s.outbox ++ [.pinEvent n level false] }
      else { setPin s n { getPin s n with level } with outbox := s.outbox ++ [.pinEvent n level false] } := by
  simp only [pinChangeOp]
  rw [if_neg (Nat.not_le.2 hn), if_pos (by simp [hmoves, hloaded, hon])]
  exact if_congr (by simp [fastPin]) rfl rfl

theorem pinChangeOp_of_quiet {s : State} {n : Nat} {level : Bool} (hn : n < numBanks s.variant * 24)
    (hquiet : (getPin s n).level = level ∨ s.mid.loaded = false ∨ bankOn s (n / 24) = false) :
    pinChangeOp n level s = setPin s n { getPin s n with level } := by
  simp only [pinChangeOp]
  rw [if_neg (Nat.not_le.2 hn), if_neg]
  rcases hquiet with h | h | h <;> simp [h]

/-! ### Banks (R364) -/

/-- What a pin of a bank whose supply has changed tells: its output, which is driven again, and its input. -/
def supplyOuts (was : Bool) (n : Nat) (x : Pin) : List Out :=
  (match x.drive with
    | some v => if was then [] else [.pinEvent n v true]
    | none => []) ++ if x.level then [.pinEvent n (!was) false] else []

/-- The pins of a bank whose supply has changed. -/
theorem bankPins_eq (was : Bool) (b : Nat) (is : List Nat) (s : State) : is.foldl (fun s i =>
      let n := 24 * b + i
      let x := getPin s n
      let s2 := match x.drive with
        | some v => if was then s else emit (.pinEvent n v true) s
        | none => s
      if x.level then emit (.pinEvent n (!was) false) s2 else s2) s =
    { s with outbox := s.outbox ++ is.flatMap (fun i => supplyOuts was (24 * b + i) (getPin s (24 * b + i))) } := by
  have hstep (i : Nat) (u : State) : (let n := 24 * b + i
      let x := getPin u n
      let s2 := match x.drive with
        | some v => if was then u else emit (.pinEvent n v true) u
        | none => u
      if x.level then emit (.pinEvent n (!was) false) s2 else s2) =
      { u with outbox := u.outbox ++ supplyOuts was (24 * b + i) (getPin u (24 * b + i)) } := by
    simp only [supplyOuts]
    cases (getPin u (24 * b + i)).drive with
    | none => split <;> simp [emit]
    | some v => cases was <;> split <;> simp [emit]
  induction is generalizing s with
  | nil => simp
  | cons i is ih =>
    rw [List.foldl_cons, hstep, ih]
    simp [getPin]

theorem bankOn_setBank (s : State) (b mv : Nat) :
    bankOn { s with mid := { s.mid with banks := tset (dflt 0) s.mid.banks b mv } } b = decide (mv ≠ 0) := by
  simp [bankOn]

section Banks

variable {s u : State} {b mv : Nat} (hb : b < numBanks s.variant)
  (hu : u = { s with mid := { s.mid with banks := tset (dflt 0) s.mid.banks b mv } })

include hb hu

theorem bankOp_of_quiet (h : s.mid.loaded = false ∨ (bankOn s b = true ↔ mv ≠ 0)) : bankOp b mv s = u := by
  subst hu
  simp only [bankOp, bankOn_setBank]
  rw [if_neg (Nat.not_le.2 hb), if_pos]
  refine h.symm.imp (fun hsame => ?_) id
  exact (Bool.eq_iff_iff.2 (hsame.trans (by simp)))

theorem bankOp_of_change (hloaded : s.mid.loaded = true) (hchange : bankOn s b ≠ decide (mv ≠ 0)) :
    bankOp b mv s = settleFast (b / 2) { u with
      outbox := s.outbox ++ (List.range 24).flatMap (fun i => supplyOuts (bankOn s b) (24 * b + i) (getPin s (24 * b + i))) } := by
  subst hu
  simp only [bankOp, bankOn_setBank]
  rw [if_neg (Nat.not_le.2 hb), if_neg (not_or.2 ⟨hchange, Bool.ne_false_iff.2 hloaded⟩)]
  exact congrArg (settleFast (b / 2)) (bankPins_eq (bankOn s b) b (List.range 24) _)

end Banks

/-! ### Pacers (R368, R369) -/

/-- What `u` has in common with `s` where the two differ in pacers and messages at most. -/
structure SamePins (s u : State) : Prop where
  variant : u.variant = s.variant
  bankOn : ∀ b, bankOn u b = bankOn s b
  getPin : ∀ n, getPin u n = getPin s n

theorem drivePin_of_on {u : State} {n : Nat} {v : Bool} (hn : n < numBanks u.variant * 24) (hon : bankOn u (n / 24) = true) :
    drivePin n v u = { setPin u n { getPin u n with drive := some v } with outbox := u.outbox ++ [.pinEvent n v true] } := by
  simp only [drivePin]
  rw [if_neg (Nat.not_le.2 hn), if_pos hon]
  rfl

theorem samplePin_of_on {u : State} {n : Nat} (hn : n < numBanks u.variant * 24) (hon : bankOn u (n / 24) = true) :
    samplePin n u = { u with outbox := u.outbox ++ [.pinEvent n (getPin u n).level false] } := by
  rw [samplePin, if_neg (Nat.not_le.2 hn), hon, Bool.and_true]
  rfl

section Pacers

variable {s u : State} {p : Nat} {acked : Bool}
  (hu : u = (if (getPacer s p).waiting = true ∧ acked = false then
      setPacer s p { getPacer s p with missed := min (2 ^ 32 - 1) ((getPacer s p).missed + 1) }
    else { setPacer s p { getPacer s p with waiting := true } with outbox := s.outbox ++ [.pacerReq p] }))

include hu

theorem tickReq_frame : SamePins s u := by
  subst hu
  split <;> exact ⟨rfl, fun _ => rfl, fun _ => rfl⟩

theorem pacerTickOp_of_running (hrunning : (getPacer s p).running = true)
    (drive : List (Nat × Bool)) (sample : List Nat) : pacerTickOp p acked drive sample s =
      sample.foldl (fun s k => samplePin k s) (drive.foldl (fun s d => drivePin d.1 d.2 s) u) := by
  simp only [pacerTickOp]
  rw [if_neg (by simp [hrunning])]
  subst hu
  congr 2
  exact if_congr (by simp) rfl rfl

end Pacers

/-- Settles O57: pins by whether their bank is supplied, and each unit by what its command does. -/
theorem pinsPacersAndLanes : Obligations.PinsPacersAndLanes := by
  refine ⟨?pins, ?banks, ?pacers, ?calibrate, ?lanes⟩
  case pins =>
    rintro s n level _ rfl hn
    refine ⟨fun hmoves hloaded hon u hu => ?_, fun hquiet => congrArg Host.Outcome.next (pinChangeOp_of_quiet hn hquiet)⟩
    subst hu
    exact congrArg Host.Outcome.next (pinChangeOp_of_event hn hmoves hloaded hon)
  case banks =>
    intro s u b mv hb hu
    refine ⟨fun hquiet => congrArg Host.Outcome.next (bankOp_of_quiet hb hu hquiet), fun hloaded hoff hmv => ?_,
      fun hloaded hon hmv => ?_⟩
    · refine ⟨_, congrArg Host.Outcome.next (bankOp_of_change hb hu hloaded (by simp [hoff, hmv])), fun i v hi hdrive => ?_⟩
      exact List.mem_flatMap.2 ⟨i, List.mem_range.2 hi, by simp [supplyOuts, hdrive, hoff]⟩
    · refine ⟨_, congrArg Host.Outcome.next (bankOp_of_change hb hu hloaded (by simp [hon, hmv])), fun i hi hlevel => ?_⟩
      exact List.mem_flatMap.2 ⟨i, List.mem_range.2 hi, by simp [supplyOuts, hlevel, hon]⟩
  case pacers =>
    rintro s u p acked _ rfl hrunning hu
    have hticks := pacerTickOp_of_running hu hrunning
    have hsame := tickReq_frame hu
    refine ⟨congrArg Host.Outcome.next (hticks [] []), fun n v hn hon =>
      ⟨congrArg Host.Outcome.next ((hticks [(n, v)] []).trans (drivePin_of_on ?_ ?_)),
       congrArg Host.Outcome.next ((hticks [] [n]).trans ?_)⟩⟩
    · rwa [hsame.variant]
    · rwa [hsame.bankOn]
    · show samplePin n u = _
      rw [samplePin_of_on (by rwa [hsame.variant]) (by rwa [hsame.bankOn]), hsame.getPin]
  case calibrate =>
    intro s p dev hrunning
    exact congrArg Host.Outcome.next (if_pos hrunning)
  case lanes =>
    rintro s n _ rfl hup
    refine ⟨fun w taken => ⟨fun hroom => ?_, fun hfull => ?_⟩, fun ws => ⟨fun w rest hword => ?_, fun htx hws => ?_⟩⟩
    · refine congrArg Host.Outcome.next ?_
      simp only [laneRxOp]
      rw [if_neg (by simp [hup]), if_pos (by simpa using hroom)]
    · refine congrArg Host.Outcome.next ?_
      simp only [laneRxOp]
      rw [if_neg (by simp [hup]), if_neg (by simpa using hfull)]
      rfl
    · refine congrArg Host.Outcome.next ?_
      simp only [laneTxOp, hword]
      rw [if_neg (by simp [hup])]
      rfl
    · subst hws
      refine congrArg Host.Outcome.next ?_
      simp only [laneTxOp, htx]
      rw [if_neg (by simp [hup])]
      rfl

end Sys2Proof.Machine
end

section
/-! What ends at a load and what a design starts leaves the configuration and the order of the operations (R361, R370). -/

namespace Sys2Proof.Machine

/-- What is stored: device and host memory, the address maps and the interleave windows. -/
def State.stored (s : State) : Memory × Table Byte × List PRange × Table Window := (s.dmem, s.hmem, s.pages, s.windows)

/-- `t` has the configuration, the design, the power state, the cascade and what is stored of `s`, and its operations under
their tags. -/
structure SameDesign (s t : State) : Prop where
  cfg : t.cfg = s.cfg
  tags : t.ops.map (·.tag) = s.ops.map (·.tag)
  loaded : t.mid.loaded = s.mid.loaded
  version : t.mid.version = s.mid.version
  time : t.time = s.time
  st : t.st = s.st
  casc : t.casc = s.casc
  ice : t.ice = s.ice
  resets : t.resets = s.resets
  stored : t.stored = s.stored

theorem SameDesign.refl (s : State) : SameDesign s s := ⟨rfl, rfl, rfl, rfl, rfl, rfl, rfl, rfl, rfl, rfl⟩

theorem SameDesign.trans {s t u : State} (h : SameDesign s t) (k : SameDesign t u) : SameDesign s u :=
  ⟨k.cfg.trans h.cfg, k.tags.trans h.tags, k.loaded.trans h.loaded, k.version.trans h.version, k.time.trans h.time,
    k.st.trans h.st, k.casc.trans h.casc, k.ice.trans h.ice, k.resets.trans h.resets,
    k.stored.trans h.stored⟩

theorem sameDesign_foldl {α : Type} {f : State → α → State} (hf : ∀ s x, SameDesign s (f s x)) (l : List α) (s : State) :
    SameDesign s (l.foldl f s) := by
  induction l generalizing s with
  | nil => exact .refl s
  | cons x l ih => exact (hf s x).trans (ih _)

theorem sameDesign_ite {c : Prop} [Decidable c] {s t u : State} (ht : SameDesign s t) (hu : SameDesign s u) :
    SameDesign s (if c then t else u) := by
  split <;> assumption

/-- An operation is found as long as the tags stay. -/
theorem findOp_of_tags {s t : State} {tag : Nat} {o : Op} (h : t.ops.map (·.tag) = s.ops.map (·.tag))
    (ho : findOp s tag = some o) : ∃ y, findOp t tag = some y := by
  obtain ⟨x, hx, htag⟩ : ∃ x ∈ t.ops, x.tag = tag := by
    have hmem : tag ∈ t.ops.map (·.tag) :=
      h ▸ List.mem_map.2 ⟨o, List.mem_of_find?_eq_some ho, by simpa using List.find?_some ho⟩
    exact List.mem_map.1 hmem
  exact Option.isSome_iff_exists.1 (List.find?_isSome.2 ⟨x, hx, by simpa using htag⟩)

theorem sameDesign_endOp (tag : Nat) (r : Result) (s : State) : SameDesign s (endOp tag r s) := by
  refine ⟨rfl, ?_, rfl, rfl, rfl, rfl, rfl, rfl, rfl, rfl⟩
  rw [endOp_frame, List.map_map]
  refine List.map_congr_left fun y _ => ?_
  by_cases hy : y.tag = tag <;> simp [hy, Op.ended]

/-- A change of the Midway that leaves its design in effect. -/
theorem sameDesign_withMid {m : Midway} (s : State) (hloaded : m.loaded = s.mid.loaded) (hversion : m.version = s.mid.version) :
    SameDesign s { s with mid := m } := ⟨rfl, rfl, hloaded, hversion, rfl, rfl, rfl, rfl, rfl, rfl⟩

theorem sameDesign_setPort (m : Nat) (x : MidPort) (s : State) : SameDesign s (setPort s m x) :=
  sameDesign_withMid s rfl rfl
theorem sameDesign_setPacer (n : Nat) (x : Pacer) (s : State) : SameDesign s (setPacer s n x) :=
  sameDesign_withMid s rfl rfl
theorem sameDesign_setUserLane (n : Nat) (x : UserLane) (s : State) : SameDesign s (setUserLane s n x) :=
  sameDesign_withMid s rfl rfl
theorem sameDesign_setPin (n : Nat) (x : Pin) (s : State) : SameDesign s (setPin s n x) :=
  sameDesign_withMid s rfl rfl
theorem sameDesign_emit (x : Out) (s : State) : SameDesign s (emit x s) := ⟨rfl, rfl, rfl, rfl, rfl, rfl, rfl, rfl, rfl, rfl⟩

/-! ### Loads end what ports hold (R361) -/

theorem sameDesign_endUnbind (m : Nat) (s : State) : SameDesign s (endUnbind m s) := by
  unfold endUnbind
  split
  · refine sameDesign_foldl (fun s o => ?_) _ s
    exact sameDesign_endOp o.tag {} s
  · exact .refl s

theorem sameDesign_endStreamAt (m : Nat) (s : State) : SameDesign s (endStreamAt m s) := by
  simp only [endStreamAt]
  split
  · exact .refl s
  · split
    · exact .refl s
    · split
      · exact sameDesign_endOp _ _ s
      · exact ⟨rfl, rfl, rfl, rfl, rfl, rfl, rfl, rfl, rfl, rfl⟩

theorem sameDesign_endStreams (s : State) : SameDesign s (endStreams s) := by
  refine sameDesign_foldl (fun s e => ?_) _ s
  exact ((sameDesign_endStreamAt e.1 s).trans (sameDesign_setPort e.1 _ _)).trans (sameDesign_endUnbind e.1 _)

theorem sameDesign_clearMidway (s : State) :
    SameDesign { s with mid := { s.mid with loaded := false, latches := [], blocks := [] } } (clearMidway s) := by
  simp only [clearMidway]
  refine .trans (.trans (.trans (sameDesign_foldl (fun s e => ?_) _ _) (sameDesign_foldl (fun s e => ?_) _ _))
    (sameDesign_foldl (fun s e => ?_) _ _)) (sameDesign_foldl (fun s e => ?_) _ _)
  · exact sameDesign_setPort e.1 _ s
  · exact sameDesign_setPacer e.1 _ s
  · exact sameDesign_setUserLane e.1 _ s
  · exact sameDesign_setPin e.1 _ s

/-! ### A design starts (R370) -/

theorem sameDesign_settled {s t : State} {b : Option Bool} (h : SameDesign s t) : SameDesign s (settled b t).2 :=
  h.trans (by cases b <;> exact ⟨rfl, rfl, rfl, rfl, rfl, rfl, rfl, rfl, rfl, rfl⟩)

theorem sameDesign_settleFastPin (n : Nat) (s : State) : SameDesign s (settleFastPin n s) := by
  simp only [settleFastPin]
  split
  · exact .refl s
  · refine sameDesign_ite ?_ (sameDesign_ite ?_ ?_)
    · exact sameDesign_settled (sameDesign_settled (.refl s))
    · exact (sameDesign_settled (sameDesign_settled (.refl s))).trans
        ((sameDesign_setPin n _ _).trans (sameDesign_emit _ _))
    · exact (sameDesign_settled (sameDesign_settled (.refl s))).trans (sameDesign_setPin n _ _)

theorem sameDesign_settleFast (d : Nat) (s : State) : SameDesign s (settleFast d s) := by
  unfold settleFast
  split
  · exact .refl s
  · exact sameDesign_foldl (fun s i => sameDesign_settleFastPin _ s) _ s

theorem sameDesign_settleAll (s : State) : SameDesign s (settleAll s) :=
  sameDesign_foldl (fun s d => sameDesign_settleFast d s) _ s

theorem sameDesign_drivePin (n : Nat) (v : Bool) (s : State) : SameDesign s (drivePin n v s) := by
  simp only [drivePin]
  split
  · exact .refl s
  · split
    · exact (sameDesign_setPin n _ s).trans (sameDesign_emit _ _)
    · exact sameDesign_setPin n _ s

theorem sameDesign_startDesign (version : Nat) (s : State) :
    SameDesign { s with mid := { s.mid with loaded := true, version } } (startDesign version s) := by
  simp only [startDesign]
  refine .trans (.trans (.trans (.trans (sameDesign_foldl (fun s m => ?_) _ _) (sameDesign_foldl (fun s b => ?_) _ _))
    (sameDesign_foldl (fun s n => ?_) _ _)) (sameDesign_foldl (fun s n => ?_) _ _)) (sameDesign_settleAll _)
  · exact sameDesign_setPort m _ s
  · split
    · exact ⟨rfl, rfl, rfl, rfl, rfl, rfl, rfl, rfl, rfl, rfl⟩
    · exact ⟨rfl, rfl, rfl, rfl, rfl, rfl, rfl, rfl, rfl, rfl⟩
  · split
    next => exact sameDesign_setPacer n _ s
    next => exact .refl s
  · split
    next => exact sameDesign_drivePin n _ s
    next => exact .refl s

end Sys2Proof.Machine
end

section
/-! Configuration streams (R380 to R388). -/

namespace Sys2Proof.Machine

theorem roles_putRoles (l : List Nat) (c : CfgState) : (c.putRoles l).roles = l := by
  unfold CfgState.putRoles CfgState.roles CfgState.map
  rcases hdir0 : c.dir0 with _ | a <;> rcases hdir1 : c.dir1 with _ | b
  · simp
  · simp
  · simp
  · by_cases hlt : a.seq < b.seq
    · by_cases hab : a = b
      · simp [hab]
      · simp [hlt, hab]
    · simp [hlt]

theorem roles_storeConfig (x : CfgStream) (golden : Bool) (s : State) :
    (storeConfig x golden s).cfg.roles = mapAfterStore golden s.cfg.roles := roles_putRoles _ _

theorem areas_storeConfig (x : CfgStream) (golden : Bool) (s : State) :
    (storeConfig x golden s).cfg.areas = tinsert (s.cfg.roles.getD 3 0) x s.cfg.areas := rfl

theorem beginApply_frame (tag role : Nat) (s : State) : beginApply tag role s = { s with
    ops := s.ops.map (fun z => if z.tag = tag then { z with phase := .waiting, since := s.time } else z)
    cfg := { s.cfg with applying := some tag, applyFrom := role, applySince := s.time } } := rfl

/-- A CFG operation that is the only one has its turn. -/
theorem cfgTurn_of_only {s : State} {o p : Op} {tag : Nat} {f : State → State} (honly : s.ops = [p]) (horder : p.order = o.order) :
    cfgTurn tag o f s = f s := by
  rw [cfgTurn, if_neg]
  simp [honly, horder]

theorem othersRun_eq_false {s : State} {x : CfgStream} {tag : Nat} (h : midwayOnly x = true ∨ othersRun s tag = false) :
    ¬ ((!midwayOnly x && othersRun s tag) = true) := by
  rcases h with h | h <;> simp [h]

theorem installStream_frame (x : CfgStream) (role n : Nat) (s : State) : ∃ t : State, installStream x role n s = t ∧
    t.cfg.version = x.version ∧ t.cfg.digest = x.digest ∧ t.cfg.role = role ∧ t.cfg.inEffect = true ∧
    t.mid.loaded = true ∧ t.mid.version = x.version ∧ t.ops.map (·.tag) = s.ops.map (·.tag) := by
  refine ⟨_, rfl, ?_⟩
  simp only [installStream]
  have hstart := sameDesign_startDesign x.version
  simp only [record_cfg, record_mid, record_ops, (hstart _).cfg, (hstart _).loaded, (hstart _).version, (hstart _).tags,
    true_and]
  exact (sameDesign_clearMidway _).tags.trans (sameDesign_endStreams s).tags

theorem rolesAfter_of_commit (o : Op) (s : State) :
    rolesAfter o 4 s = (if o.cStore = true then (if o.cGolden = true then 2 else 0) else 3, s) := rfl

/-! ### CFG_LOAD and CFG_REVERT (R381, R388) -/

theorem stageCopy_of_ok {s : State} {b : List Byte} {x : CfgStream} (h : checkStream s b = .ok x) (tag : Nat)
    (go : CfgStream → State → State) : stageCopy tag b go s =
      go x { s with cfg := { s.cfg with staged := some x, stageId := (s.cfg.stageId + 1) % 2 ^ 32 } } := by
  rw [stageCopy, h]

theorem stageCopy_of_error {s : State} {b : List Byte} {r : Rejection} (h : checkStream s b = .error r) (tag : Nat)
    (go : CfgStream → State → State) : stageCopy tag b go s = rejectCfg tag r 0 (unstage s) := by
  rw [stageCopy, h]

theorem cfgLoadOp_of_memory {s s1 s2 : State} {o : Op} {b : List Byte} (hsource : o.fld 32 1 = 0)
    (harea : takeArea { s with cfg := { s.cfg with staged := none } } = some s1)
    (hcopy : copyMem o (o.fld 16 8) (o.fld 24 8) s1 = (.ok b, s2)) (tag : Nat) (flashOk : Bool) :
    cfgLoadOp tag flashOk o s = stageCopy tag b (fun _ s => endOp tag {} s) s2 := by
  simp only [cfgLoadOp, harea]
  rw [if_neg (by simp [hsource]), hcopy]

theorem cfgRevertOp_of_previous {s s1 : State} {o : Op} {x y : CfgStream} (hrole : o.fld 16 1 = 0)
    (hthere : roleStream s 1 = some x) (harea : takeArea { s with cfg := { s.cfg with staged := none } } = some s1)
    (hstays : roleStream s1 1 = some x) (hcheck : checkStream s1 x.bytes = .ok y) (tag : Nat) :
    cfgRevertOp tag true o s = beginApply tag 1
      { s1 with cfg := { s1.cfg with staged := some y, stageId := (s1.cfg.stageId + 1) % 2 ^ 32 } } := by
  simp only [cfgRevertOp, hrole, if_true]
  rw [if_neg (by simp [hthere]), harea]
  simp only [loadFlash, hstays, if_true]
  exact stageCopy_of_ok hcheck tag _

/-! ### CFG_COMMIT (R385) -/

theorem cfgCommitOp_of_stale {s : State} {o : Op}
    (h : s.cfg.staged = none ∨ (o.fld 16 4 ≠ 0 ∧ o.fld 16 4 ≠ s.cfg.stageId)) (tag : Nat) (flashOk : Bool) :
    cfgCommitOp tag flashOk o s = rejectCfg tag { sub := 0x0A } 0 s := by
  unfold cfgCommitOp
  rcases hstaged : s.cfg.staged with _ | x
  · rfl
  · exact if_pos (h.resolve_left (by simp [hstaged]))

theorem cfgCommitOp_of_staged {s : State} {o : Op} {x : CfgStream} (hstaged : s.cfg.staged = some x)
    (hid : o.fld 16 4 = 0 ∨ o.fld 16 4 = s.cfg.stageId) (hfw : x.firmware = false) (hgolden : o.cGolden = false)
    (hflags : o.fld 20 1 ≠ 0) (hpart : o.cStore = true → x.partly = false) (tag : Nat) :
    cfgCommitOp tag true o s = if o.cApply then beginApply tag 4 (if o.cStore then storeConfig x false s else s)
      else endOp tag {} (if o.cStore then unstage (storeConfig x false s) else s) := by
  simp only [cfgCommitOp, hstaged, hfw, hgolden]
  rw [if_neg (by rintro ⟨hne, hother⟩; exact hid.elim hne hother), if_neg (by simp), if_neg]
  · cases o.cStore <;> rfl
  · cases hstore : o.cStore
    · simpa using hflags
    · simpa [hpart hstore] using hflags

section Only

variable {s : State} {o : Op} (honly : s.ops = [o]) (hready : o.phase = .ready) (happ : s.cfg.applying = none)
  (hslot : o.slotFree s = true)

include honly hready happ hslot

/-- A CFG operation that is the only one begins. -/
theorem runCfg_of_only {n : Nat} {f : Op → State → State} (hopc : o.opc = n) (hn : n ∉ [0x01, 0x02, 0x18, 0x19, 0x28]) :
    runOp o.tag [n] (fun p s => cfgTurn o.tag p (f p) s) s = f o (beginOp o s) := by
  rw [runOp_of_ready (findOp_of_only honly) hready happ hslot hopc (List.mem_singleton_self n) hn]
  obtain ⟨k, hk⟩ := placed_frame o s
  exact cfgTurn_of_only (beginOp_ops_of_only honly) (by simp [Op.begun, hk])

end Only

/-- Settles O58: the three operations begun alone, and the two ways an application ends. -/
theorem configurationStreams : Obligations.ConfigurationStreams := by
  refine ⟨?operations, ?apply, ?drain⟩
  case operations =>
    rintro s u _ o honly rfl hready happ hslot rfl
    have hrun {n : Nat} {f : Op → State → State} := runCfg_of_only honly hready happ hslot (n := n) (f := f)
    refine ⟨fun s1 s2 b hopc hsource harea hcopy => ?_, fun x hopc hstaged hid hfw hgolden => ⟨fun happly hstore => ?_,
      fun happly hstore hpart => ?_⟩, fun hopc hstale => ?_, fun s1 x y hopc hrole hthere harea hstays hcheck => ?_⟩
    · have hload : exec (.cfgLoad o.tag true) s = .next (stageCopy o.tag b (fun _ s => endOp o.tag {} s) s2) :=
        congrArg Host.Outcome.next ((hrun hopc (by decide)).trans (cfgLoadOp_of_memory (s := beginOp o s) hsource harea hcopy o.tag true))
      exact ⟨fun x hx => hload.trans (congrArg Host.Outcome.next (stageCopy_of_ok hx _ _)),
        fun r hr => hload.trans (congrArg Host.Outcome.next (stageCopy_of_error hr _ _))⟩
    · refine ⟨(beginOp o s).works, (beginOp o s).floe, congrArg Host.Outcome.next ((hrun hopc (by decide)).trans ?_)⟩
      rw [cfgCommitOp_of_staged (s := beginOp o s) (x := x) hstaged hid hfw hgolden (fun h => by simp [Op.cApply, h, bit] at happly)
        (fun h => by simp [hstore] at h), if_pos happly, if_neg (by simp [hstore]), beginApply_frame,
        beginOp_ops_of_only honly]
      rw [List.map_cons, List.map_nil, if_pos (begun_tag o s)]
      rfl
    · have hcommit : exec (.cfgCommit o.tag true) s =
          .next (endOp o.tag {} (unstage (storeConfig x false (beginOp o s)))) := by
        refine congrArg Host.Outcome.next ((hrun hopc (by decide)).trans ?_)
        rw [cfgCommitOp_of_staged (s := beginOp o s) (x := x) hstaged hid hfw hgolden
          (fun h => by simp [Op.cStore, h, bit] at hstore) (fun _ => hpart), if_neg (by simp [happly]), if_pos hstore]
      obtain ⟨ti, fl, hended⟩ := endOp_begun (t := unstage (storeConfig x false (beginOp o s))) (beginOp_ops_of_only honly)
      refine ⟨_, hcommit, by rw [hended], rfl, ?_, ?_⟩
      · exact roles_storeConfig x false (beginOp o s)
      · show tfind _ (storeConfig x false (beginOp o s)).cfg.areas = _
        rw [areas_storeConfig]
        exact tfind_tinsert_same
    · exact congrArg Host.Outcome.next ((hrun hopc (by decide)).trans (cfgCommitOp_of_stale (s := beginOp o s) hstale o.tag true))
    · exact congrArg Host.Outcome.next ((hrun hopc (by decide)).trans
        (cfgRevertOp_of_previous (s := beginOp o s) hrole hthere harea hstays hcheck o.tag))
  case apply =>
    intro s tag o x happ ho hstaged hmay hfrom
    obtain ⟨t, ht, hversion, hdigest, hrole, heffect, hloaded, hmid, htags⟩ := installStream_frame x
      (if o.cStore = true then (if o.cGolden = true then 2 else 0) else 3) 4 s
    obtain ⟨y, hy⟩ := findOp_of_tags htags ho
    refine ⟨_, y.ended {}, congrArg Host.Outcome.next ?_, findOp_endOp_of
      (s := unstage { t with cfg := { t.cfg with applying := none } }) hy, rfl, rfl, rfl, rfl, hversion, hdigest, hrole,
      heffect, hloaded, hmid⟩
    simp only [cfgApplyOp, happ, ho, hstaged, hfrom, rolesAfter_of_commit]
    rw [if_neg (othersRun_eq_false hmay), ht]
  case drain =>
    rintro s _ tag _ o happ ho hopc rfl hus hothers rfl
    refine congrArg Host.Outcome.next ?_
    simp only [cfgDrainOp, happ, ho, hopc, if_true]
    rw [if_neg (by simp [hus, hothers])]
    rfl

end Sys2Proof.Machine
end

section
/-! Fuses, scrubbing, attestation, keys and debug (R391 to R396). -/

namespace Sys2Proof.Machine

/-! ### Scrubbing (R392) -/

theorem scrubOp_of_on {s : State} (hon : s.cfg.scrubOn = true) (hready : s.st.ready = true)
    (found : List (Nat × Nat × Nat × Nat)) :
    scrubOp found s = found.foldl (fun s x => upset x s) { s with cfg := { s.cfg with rewrite := [] } } := by
  rw [scrubOp, if_neg (by simp [hon, hready])]

theorem upset_of_bit (die booth fb : Nat) (s : State) : upset (0, die, booth, fb) s =
    if essentialBit s (frameKey die booth (fb / 10240)) (fb % 10240) then
      record 0x0B03 0x04 (leBytes 1 die ++ leBytes 1 (fb / 10240) ++ leBytes 2 booth ++ leBytes 1 0)
        { s with cfg := { s.cfg with essential := min 0xFFFFFF (s.cfg.essential + 1) } }
    else { s with cfg := { s.cfg with
      nonessential := min 0xFFFFFF (s.cfg.nonessential + 1)
      rewrite := insertNat (frameKey die booth (fb / 10240)) s.cfg.rewrite } } := rfl

/-! ### The SPDM responder (R393, R394) -/

section Spdm

variable {s : State} {code index : Nat} {body : List Byte} (hup : s.st.standbyDone = true)

include hup

theorem spdmOp_of_standby : spdmOp code index body s =
    if code = 0x81 then emit (.spdm 0x01 (digestBytes (Config.sha512 s.cfg.chain))) s
    else if code = 0x82 then
      if index = 0 then emit (.spdm 0x02 ((s.cfg.chain.drop (fieldAt body 0 2)).take (fieldAt body 2 2))) s
      else emit (.spdm 0x7F []) s
    else if code = 0xE0 ∧ 1 ≤ index ∧ index ≤ 5 then emit (.spdm 0x60 (measurement s index)) s
    else if code ∈ spdmSupported then
      emit (.spdm (code - 0x80) (leBytes 32 (takeFree 256 s).1.toNat)) (takeFree 256 s).2
    else emit (.spdm 0x7F []) s := by
  rw [spdmOp, if_neg (by simp [hup])]

theorem spdmOp_of_unsupported (hcode : code ∉ spdmSupported) : spdmOp code index body s = emit (.spdm 0x7F []) s := by
  rw [spdmOp_of_standby hup]
  have hne {n : Nat} (hn : n ∈ spdmSupported) : code ≠ n := fun h => hcode (h ▸ hn)
  rw [if_neg (hne (by decide)), if_neg (hne (by decide)), if_neg (fun h => hne (by decide) h.1), if_neg hcode]

theorem spdmOp_of_open (hcode : code ∈ spdmSupported) (hopen : code ∉ [0x81, 0x82, 0xE0]) : spdmOp code index body s =
    emit (.spdm (code - 0x80) (leBytes 32 (takeFree 256 s).1.toNat)) (takeFree 256 s).2 := by
  rw [spdmOp_of_standby hup]
  simp only [List.mem_cons, not_or] at hopen
  obtain ⟨hdigests, hcertificate, hmeasurements, -⟩ := hopen
  rw [if_neg hdigests, if_neg hcertificate, if_neg (fun h => hmeasurements h.1), if_pos hcode]

end Spdm

/-! ### Keys and debug (R395, R396) -/

theorem ideOp_of_session {s : State} (hup : s.st.standbyDone = true) (f n : Nat) (good : Bool) : ideOp f n true good s =
    if good && ((tfind (256 * f + n) s.cfg.ide).isSome || decide (ideCount s f < if f = 0 then 4 else 1)) then
      { s with cfg := { s.cfg with ide := tinsert (256 * f + n) 1 s.cfg.ide } }
    else record 0x0C04 0x04 (leBytes 1 n ++ leBytes 1 f) { s with cfg := { s.cfg with ide := terase (256 * f + n) s.cfg.ide } } := by
  simp only [ideOp]
  rw [if_neg (by simp [hup])]

theorem provisions_session {s : State} (hup : s.st.standbyDone = true) (hon : s.cfg.provision = true) :
    provisions s true = true := by
  simp [provisions, hup, hon]

/-- Settles O59: each service by what the model says it does once the standby phase has ended. -/
theorem security : Obligations.Security := by
  refine ⟨?fuse, ?scrub, ?spdm, ?ide, ?slots, ?debug⟩
  case fuse =>
    intro s v hup
    have hrun : exec (.advanceSvn v) s = .next (secCtrlOp v.toNat s) := congrArg Host.Outcome.next (if_pos hup)
    refine ⟨fun hset hlow => hrun.trans (congrArg Host.Outcome.next ?_), fun hkeep => hrun.trans (congrArg Host.Outcome.next ?_)⟩
    · exact if_pos (by simp [hset, hlow])
    · refine if_neg ?_
      rcases hkeep with h | h
      · simp [h]
      · simp [Nat.not_lt.2 h]
  case scrub =>
    rintro s _ hon _ hready rfl
    have hrun (found : List (Nat × Nat × Nat × Nat)) := congrArg (Host.Outcome.next (φ := Fault) (ρ := Refusal))
      (scrubOp_of_on hon hready found)
    refine ⟨hrun [], ?_⟩
    rintro die booth fb _ rfl
    refine ⟨fun hbit => (hrun _).trans (congrArg Host.Outcome.next ?_), fun hbit => (hrun _).trans (congrArg Host.Outcome.next ?_)⟩
    · exact (upset_of_bit die booth fb _).trans (if_pos hbit)
    · exact (upset_of_bit die booth fb _).trans (if_neg (Bool.not_eq_true _ ▸ hbit))
  case spdm =>
    intro s code index body hup
    have hrun := congrArg (Host.Outcome.next (φ := Fault) (ρ := Refusal))
      (spdmOp_of_standby (code := code) (index := index) (body := body) hup)
    refine ⟨?_, fun hcode => congrArg Host.Outcome.next (spdmOp_of_unsupported hup hcode), ?_, ?_, ?_, fun hcode hopen =>
      ⟨_, congrArg Host.Outcome.next (spdmOp_of_open hup hcode hopen)⟩⟩
    · rintro rfl hlow hhigh
      exact hrun.trans (congrArg Host.Outcome.next (if_pos (c := 0xE0 = 0xE0 ∧ 1 ≤ index ∧ index ≤ 5) ⟨rfl, hlow, hhigh⟩))
    · rintro rfl
      exact hrun
    · rintro rfl hindex
      exact hrun.trans (congrArg Host.Outcome.next (if_pos hindex))
    · rintro rfl hindex
      exact hrun.trans (congrArg Host.Outcome.next (if_neg hindex))
  case ide =>
    intro s f n ok hup
    refine ⟨congrArg Host.Outcome.next (if_pos (by simp)), fun hok hroom => ?_, fun hok => ?_⟩
    · refine congrArg Host.Outcome.next ((ideOp_of_session hup f n ok).trans (if_pos ?_))
      simpa [hok] using hroom
    · exact congrArg Host.Outcome.next ((ideOp_of_session hup f n ok).trans (if_neg (by simp [hok])))
  case slots =>
    intro s k kek hash hup hon
    have hprovisions := provisions_session hup hon
    exact ⟨fun hnew => congrArg Host.Outcome.next (if_pos (by simp [hprovisions, hnew])),
      fun hwritten => congrArg Host.Outcome.next (if_neg (by simp [hwritten])),
      congrArg Host.Outcome.next (if_pos hprovisions)⟩
  case debug =>
    rintro s key sig _ hup hon rfl
    exact ⟨fun hroot hsig => congrArg Host.Outcome.next (if_pos (Bool.and_eq_true_iff.2
        ⟨Bool.and_eq_true_iff.2 ⟨provisions_session hup hon, decide_eq_true hroot⟩, hsig⟩)),
      fun hother => congrArg Host.Outcome.next (if_neg (by simp [hother]))⟩

end Sys2Proof.Machine
end

section
/-! The Moraine's flash log, freeze, copies and clears (R402, R406 to R408). -/

namespace Sys2Proof.Machine

/-! ### The flash log and freeze (R402, R406) -/

/-- A record that fits goes behind the others; nothing is erased. -/
theorem flashAppend_of_room {s : State} {r : MorRec}
    (h : s.mor.flashEnd + recLen s.variant r ≤ s.mor.flashStart + flashSize) : flashAppend r s = { s with mor := { s.mor with
      flash := s.mor.flash ++ [(s.mor.flashEnd, r)], flashEnd := s.mor.flashEnd + recLen s.variant r } } := by
  have hroom : flashMakeRoom 2 (recLen s.variant r) s = s := by
    unfold flashMakeRoom
    exact if_pos h
  rw [flashAppend, hroom]

theorem unfreeze_of_noneLost {s : State} (h : s.mor.lostNow = 0) : unfreeze s = { s with mor := { s.mor with
    frozen := false, ring := s.mor.pending.foldl (ringAppend s.variant) s.mor.ring, pending := [], lostNow := 0 } } := by
  simp only [unfreeze]
  exact if_pos h

theorem morCtrlWrite_of_freeze {v : Nat} (h : bit v 31 = true) (s : State) : morCtrlWrite v s = { s with mor := { s.mor with
    irqSev := bits v 0 4, vector := bits v 4 11, frozen := true } } := by
  simp only [morCtrlWrite]
  exact if_pos h

theorem morCtrlWrite_of_thaw {v : Nat} {s : State} (h : bit v 31 = false) (hfrozen : s.mor.frozen = true) :
    morCtrlWrite v s = unfreeze { s with mor := { s.mor with irqSev := bits v 0 4, vector := bits v 4 11 } } := by
  simp only [morCtrlWrite]
  rw [if_neg (by simp [h]), if_pos hfrozen]

/-! ### Copies (R407) -/

/-- The Moraine as a copy request leaves it. -/
def copyRequested (v : Nat) (s : State) : State :=
  { s with mor := { s.mor with
    copySource := bit v 27, copyMinSev := bits v 0 4, copyDone := s.mor.copyDone && !bit v 29 } }

theorem morCopyCtrlWrite_of_go {v : Nat} {s : State} (hgo : bit v 31 = true) (hidle : copyBusy s 0 = false) :
    morCopyCtrlWrite v s = moraineCopyOp (copyRequested v s) := by
  simp only [morCopyCtrlWrite]
  exact if_pos (by simp [hgo, hidle])

theorem moraineCopyOp_of_room {u : State} {bs : List Byte} {more : Bool} (hlen : 64 ≤ u.mor.copyLen)
    (hbytes : copyBytes u = (bs, more)) :
    moraineCopyOp u = runCopy { kind := 0, addr := u.mor.copyAddr, bytes := bs, trunc := more } u := by
  rw [moraineCopyOp, if_neg (Nat.not_lt.2 hlen), hbytes]

theorem recordStop_dmem (w : Who) (e : Stop) (s : State) : (recordStop w e s).dmem = s.dmem := by
  cases e with
  | fault k a => exact record_dmem ..
  | _ => rfl

section Runs

variable {u s1 : State} {addr : Nat} {bs : List Byte} {more : Bool}

theorem runMoraine_of_done (h : copyOut (copyWho 0x0700) (bs.length / 64 + 2) addr bs u = (none, s1)) :
    runCopy { kind := 0, addr, bytes := bs, trunc := more } u = { s1 with mor := { s1.mor with
      copyDone := true, copyTrunc := more, copyFault := false } } := by
  rw [runCopy]
  simp only [CopyWait.who, if_true]
  rw [h]
  rfl

theorem runMoraine_of_stop {e : Stop} {a : Nat} {rest : List Byte} (he : ∀ k b, e ≠ .wait k b)
    (h : copyOut (copyWho 0x0700) (bs.length / 64 + 2) addr bs u = (some (e, a, rest), s1)) :
    ∃ t, runCopy { kind := 0, addr, bytes := bs, trunc := more } u = t ∧ t.mor.copyDone = true ∧
      t.mor.copyTrunc = more ∧ t.mor.copyFault = true ∧ t.dmem = s1.dmem := by
  refine ⟨copyEnds { kind := 0, addr, bytes := bs, trunc := more } true (recordStop (copyWho 0x0700) e s1), ?_, rfl, rfl, rfl,
    recordStop_dmem (copyWho 0x0700) e s1⟩
  rw [runCopy]
  simp only [CopyWait.who, if_true]
  rw [h]
  cases e with
  | wait k b => exact absurd rfl (he k b)
  | _ => rfl

theorem runMoraine_of_wait {k : Wait} {b a : Nat} {rest : List Byte}
    (h : copyOut (copyWho 0x0700) (bs.length / 64 + 2) addr bs u = (some (.wait k b, a, rest), s1)) :
    runCopy { kind := 0, addr, bytes := bs, trunc := more } u = startWait (copyWho 0x0700) true k b { s1 with
      copies := s1.copies ++ [{ kind := 0, addr := a, bytes := rest, trunc := more }] } := by
  rw [runCopy]
  simp only [CopyWait.who, if_true]
  rw [h]

end Runs

/-! ### The clear (R408) -/

theorem moraineClearOp_of_go {v : Nat} {s s1 u : State} {b : List Byte} (hgo : bit v 63 = true) (hidle : copyBusy s 3 = false)
    (hu : u = { s with mor := { s.mor with
      clearOffset := bits v 6 42 * 64, clearDone := s.mor.clearDone && !bit v 61 } })
    (hbar : inBar2 u (bits v 6 42 * 64) 304 = true)
    (hread : readRM (copyWho 0x0700) (bits v 6 42 * 64) 304 3 u = (.ok b, s1)) :
    moraineClearOp v s = clearWith b s1 := by
  subst hu
  simp only [moraineClearOp]
  rw [if_pos (by simp [hgo, hidle])]
  simp only [readToken]
  rw [if_neg (by simp [hbar]), hread]

theorem takeFree_eq (n : Nat) (s : State) : takeFree n s = (Config.freeBits n s.fresh, { s with fresh := s.fresh + 1 }) := rfl

theorem clearWith_of_rejected {b : List Byte} {s : State} (h : (judgeToken s b).1 ≠ 0) : clearWith b s =
    record 0x0D02 0x07 (leBytes 1 (judgeToken s b).1) { s with
      fresh := s.fresh + 1
      mor := { s.mor with
        nonce := Config.freeBits 256 s.fresh, clearDone := true, clearResult := (judgeToken s b).1 } } := by
  unfold clearWith
  rcases hjudge : judgeToken s b with ⟨res, key⟩
  rw [hjudge] at h
  exact if_pos h

theorem clearWith_of_ring {b : List Byte} {s : State} (h : (judgeToken s b).1 = 0) (hscope : bit (fieldAt b 265 1) 1 = false) :
    clearWith b s = record 0x0D01 0x07 (leBytes 1 (fieldAt b 265 1) ++ leBytes 1 (judgeToken s b).2 ++ leBytes 2 0 ++
        leBytes 4 ((s.mor.nextSeq + 2 ^ 32 - 1) % 2 ^ 32)) { s with
      fresh := s.fresh + 1
      mor := { s.mor with
        nonce := Config.freeBits 256 s.fresh, clearDone := true, clearResult := 0
        ring := if bit (fieldAt b 265 1) 0 then [] else s.mor.ring } } := by
  unfold clearWith
  rcases hjudge : judgeToken s b with ⟨res, key⟩
  rw [hjudge] at h
  obtain rfl : res = 0 := h
  simp only [takeFree_eq, hscope, Bool.false_eq_true, if_false, ne_eq, not_true]

/-- Settles O16: the flash log and freeze, a copy by how its last write ends, and a clear by what its token's checks give. -/
theorem moraineCommands : Obligations.MoraineCommands := by
  refine ⟨⟨?append, ?freeze, ?thaw⟩, ⟨?short, ?copy⟩, ?clear⟩
  case append =>
    intro s r rs haux hwaits hroom
    refine congrArg Host.Outcome.next ?_
    rw [if_neg (by simp [haux]), hwaits]
    exact flashAppend_of_room (s := { s with mor := { s.mor with toFlash := rs } }) hroom
  case freeze =>
    intro s v hup hset
    exact congrArg Host.Outcome.next ((if_pos hup).trans (morCtrlWrite_of_freeze hset s))
  case thaw =>
    intro s v hup hset hfrozen hlost
    refine congrArg Host.Outcome.next ((if_pos hup).trans ((morCtrlWrite_of_thaw hset hfrozen).trans ?_))
    rw [unfreeze_of_noneLost (by exact hlost), ← hlost]
  case short =>
    intro s v hup hset hlen hidle
    exact congrArg Host.Outcome.next ((if_pos hup).trans ((morCopyCtrlWrite_of_go hset hidle).trans (if_pos hlen)))
  case copy =>
    rintro s u v bs more hup hset hlen hidle hu hbytes
    have hrun : exec (.moraineCopy v) s =
        .next (runCopy { kind := 0, addr := s.mor.copyAddr, bytes := bs, trunc := more } u) := by
      subst hu
      exact congrArg Host.Outcome.next ((if_pos hup).trans ((morCopyCtrlWrite_of_go hset hidle).trans
        (moraineCopyOp_of_room hlen hbytes)))
    rcases hout : copyOut (copyWho 0x0700) (bs.length / 64 + 2) s.mor.copyAddr bs u with ⟨_ | ⟨e, addr, rest⟩, s1⟩
    · rw [hrun, runMoraine_of_done hout]
    · cases e with
      | wait k a => rw [hrun, runMoraine_of_wait hout]
      | _ =>
        obtain ⟨t, ht, hends⟩ := runMoraine_of_stop (more := more) (by nofun) hout
        exact ⟨t, hrun.trans (congrArg Host.Outcome.next ht), hends⟩
  case clear =>
    intro s u s1 v b hup hset hu hbar hidle hread
    exact ⟨_, congrArg Host.Outcome.next ((if_pos hup).trans (moraineClearOp_of_go hset hidle hu hbar hread)),
      clearWith_of_rejected, clearWith_of_ring⟩

end Sys2Proof.Machine
end

section
/-! What start-up keeps of the power state (R416 to R424): time, resets, straps and causes, the cascade's role, the cycles
counted, and that no operation begins. -/

namespace Sys2Proof.Machine

/-- What a start-up does not change of the power state. -/
def Startup.lasting (x : Startup) : Startup :=
  { x with railsOn := false, ready := false, failed := false, cxlPerst := false, step := 0, code := 0
           tilesActive := 0, capStacks := 0, capFloe := 0 }

structure KeepsPower (s t : State) : Prop where
  time : t.time = s.time
  resets : t.resets = s.resets
  st : t.st.lasting = s.st.lasting
  role : t.casc.role = s.casc.role
  ident : t.casc.ident = s.casc.ident
  cycles : t.ice.now.standbyCycles = s.ice.now.standbyCycles
  ops : s.ops = [] → t.ops = []

namespace KeepsPower

theorem refl (s : State) : KeepsPower s s := ⟨rfl, rfl, rfl, rfl, rfl, rfl, id⟩

theorem trans {s t u : State} (h : KeepsPower s t) (k : KeepsPower t u) : KeepsPower s u :=
  ⟨k.time.trans h.time, k.resets.trans h.resets, k.st.trans h.st, k.role.trans h.role, k.ident.trans h.ident,
    k.cycles.trans h.cycles, k.ops ∘ h.ops⟩

theorem foldl {α : Type} {f : State → α → State} (hf : ∀ s x, KeepsPower s (f s x)) (l : List α) (s : State) :
    KeepsPower s (l.foldl f s) := by
  induction l generalizing s with
  | nil => exact refl s
  | cons x l ih => exact (hf s x).trans (ih _)

theorem ite {c : Prop} [Decidable c] {s t u : State} (ht : KeepsPower s t) (hu : KeepsPower s u) :
    KeepsPower s (if c then t else u) := by
  split <;> assumption

theorem of_onlyMemory {s t : State} (h : OnlyMemory s t) : KeepsPower s t := by
  obtain ⟨_, _, _, _, _, _, _, _, _, _, hops, rfl⟩ := h
  exact ⟨rfl, rfl, rfl, rfl, rfl, rfl, hops⟩

theorem of_onlySends {s t : State} (h : OnlySends s t) : KeepsPower s t := by
  obtain ⟨_, _, _, _, rfl⟩ := h
  exact ⟨rfl, rfl, rfl, rfl, rfl, rfl, id⟩

theorem of_sameDesign {s t : State} (h : SameDesign s t) : KeepsPower s t := by
  obtain ⟨-, htags, -, -, htime, hst, hcasc, hice, hresets, -⟩ := h
  exact ⟨htime, hresets, by rw [hst], by rw [hcasc], by rw [hcasc], by rw [hice], fun hs => by simpa [hs] using htags⟩

end KeepsPower

theorem keepsPower_recordSev (code sev src : Nat) (payload : List Byte) (s : State) :
    KeepsPower s (recordSev code sev src payload s) := by
  obtain ⟨_, _, _, h⟩ := recordSev_frame code sev src payload s
  rw [h]
  exact ⟨rfl, rfl, rfl, rfl, rfl, rfl, id⟩

theorem keepsPower_record (code src : Nat) (payload : List Byte) (s : State) : KeepsPower s (record code src payload s) :=
  keepsPower_recordSev _ _ _ _ s

/-- A record of a state that keeps what start-up keeps. -/
theorem KeepsPower.record {s t : State} (h : KeepsPower s t) (code src : Nat) (payload : List Byte) :
    KeepsPower s (Machine.record code src payload t) := h.trans (keepsPower_record code src payload t)

theorem keepsPower_updTile (p : Nat) (f : Tile → Tile) (s : State) : KeepsPower s (updTile p f s) :=
  ⟨rfl, rfl, rfl, rfl, rfl, rfl, id⟩

/-! ### Tiles, stacks and Floe engines (R97, R145, R226, R424) -/

theorem keepsPower_repairAll (p : Nat) (fs : List (Nat × Nat)) (s : State) : KeepsPower s (repairAll p fs s).2 := by
  induction fs generalizing s with
  | nil => exact .refl s
  | cons f fs ih =>
    obtain ⟨kind, index⟩ := f
    rw [repairAll]
    split
    · exact .refl s
    · split
      · refine KeepsPower.trans (KeepsPower.record ?_ ..) (ih _)
        exact ⟨rfl, rfl, rfl, rfl, rfl, rfl, id⟩
      · exact .refl s

theorem keepsPower_checkPosition (faults : List (Nat × Nat × Nat)) (p : Nat) (s : State) :
    KeepsPower s (checkPosition faults p s) := by
  rw [checkPosition]
  split
  · exact keepsPower_updTile ..
  · have hrepair := keepsPower_repairAll p (faults.filterMap (fun f => if f.1 = p then some f.2 else none)) s
    split
    next heq =>
      rw [heq] at hrepair
      exact hrepair.trans (keepsPower_updTile ..)
    next heq =>
      rw [heq] at hrepair
      refine KeepsPower.record (hrepair.trans ?_) ..
      exact ⟨rfl, rfl, rfl, rfl, rfl, rfl, id⟩

theorem keepsPower_tilesStep (faults : List (Nat × Nat × Nat)) (s : State) : KeepsPower s (tilesStep faults s) := by
  simp only [tilesStep]
  have hcheck := KeepsPower.foldl (fun s p => keepsPower_checkPosition faults p s) (List.range (numPhys s.variant)) s
  have hend (u : State) (i : Ice) (hi : i.now.standbyCycles = u.ice.now.standbyCycles) :
      KeepsPower u { u with ice := i, st := { u.st with step := 0x11 } } := ⟨rfl, rfl, rfl, rfl, rfl, hi, id⟩
  refine KeepsPower.trans (hcheck.trans ?_) (hend _ _ rfl)
  refine KeepsPower.foldl (fun s x => ?_) _ _
  exact keepsPower_updTile ..

theorem keepsPower_trainStack (found : BootFindings) (k : Nat) (s : State) : KeepsPower s (trainStack found k s) := by
  simp only [trainStack]
  refine .ite ?_ (.ite (.record ?_ ..) ?_)
  all_goals exact ⟨rfl, rfl, rfl, rfl, rfl, rfl, id⟩

theorem keepsPower_stacksStep (found : BootFindings) (s : State) : KeepsPower s (stacksStep found s) :=
  (KeepsPower.foldl (fun s k => keepsPower_trainStack found k s) _ s).trans ⟨rfl, rfl, rfl, rfl, rfl, rfl, id⟩

theorem keepsPower_floeStep (found : BootFindings) (s : State) : KeepsPower s (floeStep found s) := by
  refine KeepsPower.foldl (fun s f => ?_) _ s
  refine .ite (.refl s) (KeepsPower.record (t := setFloe _ _ _) ?_ ..)
  exact ⟨rfl, rfl, rfl, rfl, rfl, rfl, id⟩

/-! ### Boot and expanders (R228, R389) -/

theorem keepsPower_installStream (x : CfgStream) (role n : Nat) (s : State) : KeepsPower s (installStream x role n s) := by
  simp only [installStream]
  refine KeepsPower.record (KeepsPower.trans ?_ (.of_sameDesign (sameDesign_startDesign x.version _))) ..
  refine KeepsPower.trans (KeepsPower.of_sameDesign (sameDesign_endStreams s)) ?_
  obtain ⟨-, htags, -, -, htime, hst, hcasc, hice, hresets, -⟩ := sameDesign_clearMidway (endStreams s)
  exact ⟨htime, hresets, congrArg Startup.lasting hst, congrArg Cascade.role hcasc, congrArg Cascade.ident hcasc,
    congrArg (fun i => i.now.standbyCycles) hice, fun hs => by simpa [hs] using htags⟩

theorem keepsPower_recordReject (boot : Bool) (r : Rejection) (s : State) : KeepsPower s (recordReject boot r s) := by
  have hlast : KeepsPower s { s with cfg := { s.cfg with lastSub := r.sub } } := ⟨rfl, rfl, rfl, rfl, rfl, rfl, id⟩
  exact hlast.trans (keepsPower_recordSev ..)

theorem keepsPower_bootRoles (rs : List Nat) (s : State) : KeepsPower s (bootRoles rs s) := by
  induction rs generalizing s with
  | nil =>
    rw [bootRoles]
    refine KeepsPower.record ?_ ..
    exact ⟨rfl, rfl, rfl, rfl, rfl, rfl, id⟩
  | cons r rs ih =>
    rw [bootRoles]
    split
    · exact ih s
    · split
      next => exact (keepsPower_recordReject ..).trans (ih _)
      next y _ =>
        have hload : KeepsPower s (countLoad (s.cfg.roles.getD r 0) s) := ⟨rfl, rfl, rfl, rfl, rfl, rfl, id⟩
        have hput (u : State) (c : CfgState) : KeepsPower u { u with cfg := c } := ⟨rfl, rfl, rfl, rfl, rfl, rfl, id⟩
        exact (hload.trans (keepsPower_installStream y r r _)).trans (hput _ _)

theorem keepsPower_cxlStep (found : BootFindings) (s : State) : KeepsPower s (cxlStep found s) := by
  simp only [cxlStep]
  have hperst : KeepsPower s { s with st := { s.st with cxlPerst := false } } := ⟨rfl, rfl, rfl, rfl, rfl, rfl, id⟩
  refine (hperst.trans (KeepsPower.foldl (fun s e => ?_) _ _)).trans (KeepsPower.foldl (fun s e => ?_) _ _)
  · refine .ite ?_ (.refl s)
    exact ⟨rfl, rfl, rfl, rfl, rfl, rfl, id⟩
  · exact .ite (keepsPower_record ..) (.refl s)

/-! ### Address space 0 (R233, R290) -/

theorem keepsPower_zeroPage (s : State) (va : Nat) : KeepsPower s (zeroPage s va) := by
  unfold zeroPage
  split
  · exact ⟨rfl, rfl, rfl, rfl, rfl, rfl, id⟩
  · exact .of_onlyMemory (onlyMemory_writeRM ..)

theorem keepsPower_prepareDefault (s : State) : KeepsPower s (prepareDefault s) := by
  simp only [prepareDefault]
  have hgroup : KeepsPower s (setGroup s 0 (groupReset 0)) := ⟨rfl, rfl, rfl, rfl, rfl, rfl, id⟩
  have hqueue (n : Nat) (x : Queue) (u : State) : KeepsPower u (setQueue u n x) := ⟨rfl, rfl, rfl, rfl, rfl, rfl, id⟩
  have hback (u : State) : KeepsPower u (match backRegion 0 0 false u with
      | some v => v
      | none => u) := by
    split
    next h => exact .of_onlyMemory (onlyMemory_of_backRegion h)
    next => exact .refl u
  have hzero (u : State) : KeepsPower u (((List.range 128).map (fun i => 4096 * i)).foldl zeroPage u) :=
    .foldl keepsPower_zeroPage _ u
  exact ((((hgroup.trans (.foldl (fun s q => hqueue q {} s) _ _)).trans (hback _)).trans (hzero _)).trans
    (.of_onlyMemory (onlyMemory_writeRM ..))).trans (hqueue 0 _ _)

theorem keepsPower_spaceStep (s : State) : KeepsPower s (spaceStep s) := by
  simp only [spaceStep]
  refine KeepsPower.trans ?_ (keepsPower_prepareDefault _)
  exact ⟨rfl, rfl, rfl, rfl, rfl, rfl, id⟩

/-! ### Links and formation (R339) -/

theorem keepsPower_scanLost (test : Nat → Bool) (s : State) : KeepsPower s (scanLost test s) := by
  obtain ⟨_, _, _, h⟩ := scanLost_frame test s
  rw [h]
  exact ⟨rfl, rfl, rfl, rfl, rfl, rfl, id⟩

theorem keepsPower_resend (l : Nat) (s : State) : KeepsPower s (resend l s) :=
  .foldl (fun s _ => .of_onlySends (onlySends_emit _ s)) _ s

theorem keepsPower_linkUp (l width : Nat) (x : CascLink) (s : State) : KeepsPower s (linkUp l width x s) := by
  simp only [linkUp]
  refine KeepsPower.trans (KeepsPower.trans (KeepsPower.trans ?_ (keepsPower_scanLost _ _)) (keepsPower_resend l _))
    (.of_onlySends (onlySends_pumpLink ..))
  exact ⟨rfl, rfl, rfl, rfl, rfl, rfl, id⟩

theorem keepsPower_linkTrainedOp (l partner partnerLink : Nat) (s : State) :
    KeepsPower s (linkTrainedOp l partner partnerLink s) := by
  simp only [linkTrainedOp]
  exact .ite (.refl s) (keepsPower_linkUp ..)

theorem keepsPower_formGroup (peers : List (Nat × Nat × Nat)) (wires : List Wiring) (mirrors : List Mirror) (s : State) :
    KeepsPower s (formGroup peers wires mirrors s) := by
  simp only [formGroup]
  refine .ite (.ite ?_ ?_) (.ite (.record ?_ ..) ?_)
  · exact ⟨rfl, rfl, rfl, rfl, rfl, rfl, id⟩
  · refine KeepsPower.trans ?_ (KeepsPower.foldl (fun s m => ?_) _ _)
    · exact ⟨rfl, rfl, rfl, rfl, rfl, rfl, id⟩
    · exact ⟨rfl, rfl, rfl, rfl, rfl, rfl, id⟩
  · exact ⟨rfl, rfl, rfl, rfl, rfl, rfl, id⟩
  · exact ⟨rfl, rfl, rfl, rfl, rfl, rfl, id⟩

theorem keepsPower_cascadeStep (found : BootFindings) (s : State) : KeepsPower s (cascadeStep found s) := by
  unfold cascadeStep
  refine .ite (.refl s) (KeepsPower.trans (KeepsPower.foldl (fun s l => ?_) _ s) (keepsPower_formGroup ..))
  exact keepsPower_linkTrainedOp ..

/-! ### The main phase (R416, R419) -/

theorem keepsPower_railsStep (s : State) : KeepsPower s (railsStep s) := ⟨rfl, rfl, rfl, rfl, rfl, rfl, id⟩

theorem keepsPower_failStartup (step code : Nat) (s : State) : KeepsPower s (failStartup step code s) := by
  have hremove : KeepsPower s (removeVcore s) := ⟨rfl, rfl, rfl, rfl, rfl, rfl, id⟩
  have hfail (u : State) : KeepsPower u { u with st := { u.st with failed := true, step := step, code := code } } :=
    ⟨rfl, rfl, rfl, rfl, rfl, rfl, id⟩
  exact ((KeepsPower.ite (.refl s) hremove).trans (hfail _)).record ..

theorem startUpFails (step code : Nat) (s : State) : (failStartup step code s).st.failed = true ∧
    (failStartup step code s).pwr.vcoreMv = 0 ∧ (failStartup step code s).st.step = step ∧
    (failStartup step code s).st.code = code := by
  simp only [failStartup, record_st, record_pwr]
  by_cases h : s.pwr.vcoreMv = 0
  · simp [h]
  · simp [h, removeVcore, iceCommitOp]

theorem keepsPower_readyStep (s : State) : KeepsPower s (readyStep s) := ⟨rfl, rfl, rfl, rfl, rfl, rfl, id⟩

theorem keepsPower_ready (found : BootFindings) (s : State) :
    KeepsPower s (readyStep (cascadeStep found (spaceStep (cxlStep found (bootRoles [0, 1, 2] (floeStep found s)))))) :=
  (((((keepsPower_floeStep found s).trans (keepsPower_bootRoles ..)).trans (keepsPower_cxlStep ..)).trans
    (keepsPower_spaceStep _)).trans (keepsPower_cascadeStep ..)).trans (keepsPower_readyStep _)

/-- The main phase ends READY, or failed at one of its four steps, and keeps what start-up keeps. -/
theorem mainPhase_ends (found : BootFindings) (s : State) :
    KeepsPower s (mainPhase found s) ∧ StartUpEnded found (mainPhase found s) := by
  have hend {step code : Nat} (u : State) := startUpFails step code u
  simp only [mainPhase]
  have htiles := (keepsPower_railsStep s).trans (keepsPower_tilesStep found.tileFaults (railsStep s))
  have hstacks := htiles.trans (keepsPower_stacksStep found _)
  split
  next hrails =>
    obtain ⟨hfailed, hvcore, hstep, hcode⟩ := hend { s with st := { s.st with railsOn := true } }
    have hon : KeepsPower s { s with st := { s.st with railsOn := true } } := ⟨rfl, rfl, rfl, rfl, rfl, rfl, id⟩
    exact ⟨hon.trans (keepsPower_failStartup ..), .inr ⟨hfailed, hvcore, .inl ⟨hstep, hcode, hrails⟩⟩⟩
  next hrails =>
    split
    next =>
      obtain ⟨hfailed, hvcore, hstep, hcode⟩ := hend _
      exact ⟨htiles.trans (keepsPower_failStartup ..), .inr ⟨hfailed, hvcore, .inr (.inl ⟨hstep, hcode⟩)⟩⟩
    next =>
      split
      next hlinks =>
        obtain ⟨hfailed, hvcore, hstep, hcode⟩ := hend _
        exact ⟨htiles.trans (keepsPower_failStartup ..),
          .inr ⟨hfailed, hvcore, .inr (.inr (.inl ⟨hstep, hcode, by simpa using hlinks⟩))⟩⟩
      next hlinks =>
        split
        next =>
          obtain ⟨hfailed, hvcore, hstep, hcode⟩ := hend _
          exact ⟨hstacks.trans (keepsPower_failStartup ..), .inr ⟨hfailed, hvcore, .inr (.inr (.inr ⟨hstep, hcode⟩))⟩⟩
        next =>
          exact ⟨hstacks.trans (keepsPower_ready ..), .inl ⟨rfl, rfl, by simpa using hrails, by simpa using hlinks⟩⟩

end Sys2Proof.Machine
end

section
/-! The auxiliary input, the 48 V supply and device resets (R411, R416, R419 to R422, R437). -/

namespace Sys2Proof.Machine

/-! ### The main phase, if it is due (R416) -/

/-- Whether the main phase begins. -/
def Startup.due (x : Startup) : Bool := x.standbyDone && x.supplyOk && !x.thermalHold

theorem mainIfDue_of_due {s : State} (h : s.st.due = true) (found : BootFindings) : mainIfDue found s = mainPhase found s :=
  if_pos h

theorem mainIfDue_of_notDue {s : State} (h : s.st.due = false) (found : BootFindings) : mainIfDue found s = s :=
  if_neg (by rw [← Startup.due, h]; exact Bool.false_ne_true)

theorem keepsPower_mainIfDue (found : BootFindings) (s : State) : KeepsPower s (mainIfDue found s) :=
  .ite (mainPhase_ends found s).1 (.refl s)

theorem startUpEnded_of_due {s : State} (h : s.st.due = true) (found : BootFindings) : StartUpEnded found (mainIfDue found s) := by
  rw [mainIfDue_of_due h]
  exact (mainPhase_ends found s).2

/-! ### The firmware (R391, R419, R422) -/

/-- Whether the boot ROM has a pair and an image. -/
def bootRuns (pairs : List Nat) (s : State) : Bool :=
  (List.range (numDies s.variant)).any (fun d => decide (d ∈ pairs) && !decide (d ∈ s.st.excluded)) && (chooseFirmware s).isSome

theorem startFirmware_frame (pairs : List Nat) (s : State) : ∃ d n l c m f o, startFirmware pairs s = { s with
    st := { s.st with rmDie := d, step := n, standbyDone := bootRuns pairs s }
    link := l, cfg := c, mor := m, funcs := f, outbox := o } := by
  simp only [startFirmware, bootRuns]
  cases hpair : (List.range (numDies s.variant)).find? (fun d => decide (d ∈ pairs) && !decide (d ∈ s.st.excluded)) with
  | none =>
    have hnone := List.find?_eq_none.1 hpair
    refine ⟨s.st.rmDie, s.st.step, {}, s.cfg, s.mor, s.funcs, s.outbox, ?_⟩
    rw [show ((List.range (numDies s.variant)).any fun d => decide (d ∈ pairs) && !decide (d ∈ s.st.excluded)) = false from
      List.any_eq_false.2 hnone, Bool.false_and]
  | some d =>
    have hsome := List.find?_some hpair
    rw [show ((List.range (numDies s.variant)).any fun d => decide (d ∈ pairs) && !decide (d ∈ s.st.excluded)) = true from
      List.any_eq_true.2 ⟨d, List.mem_of_find?_eq_some hpair, hsome⟩, Bool.true_and]
    cases hfw : chooseFirmware s with
    | none =>
      obtain ⟨m, f, o, hrecord⟩ := record_frame 0x0C02 0x04 [] s
      refine ⟨s.st.rmDie, s.st.step, {}, s.cfg, m, f, o, ?_⟩
      simp only [hrecord]
      rfl
    | some x => exact ⟨_, _, _, _, _, _, _, rfl⟩

/-! ### The auxiliary input (R411, R416, R437) -/

/-- The state at which the standby phase starts. -/
def standbyStart (role ident : Nat) (s : State) : State :=
  fromStraps (newNonce { keptAlways s with
    mor := { (keptAlways s).mor with nextSeq := match s.mor.flash.getLast? with
      | some r => (r.2.seq + 1) % 2 ^ 32
      | none => 0 }
    st := { (keptAlways s).st with auxOn := true, strapRole := role % 4, strapId := ident % 16 } })

theorem standbyPhase_eq (role ident : Nat) (pairs : List Nat) (s : State) : standbyPhase role ident pairs s =
    if (startFirmware pairs (standbyStart role ident s)).st.standbyDone then
      standbyStep (startFirmware pairs (standbyStart role ident s))
    else startFirmware pairs (standbyStart role ident s) := rfl

theorem standbyStep_frame (s : State) : ∃ m f o, standbyStep s = { s with
    ice := { s.ice with now := { iceBest s.ice with standbyCycles := (iceBest s.ice).standbyCycles + 1 } }
    st := { s.st with step := 3 }, mor := m, funcs := f, outbox := o } := by
  obtain ⟨m, f, o, hrecord⟩ := record_frame 0x0E01 0x00 (leBytes 4 ((iceBest s.ice).standbyCycles + 1) ++ leBytes 4 0 ++
    leBytes 8 (iceBest s.ice).lastCal) { s with
      ice := { s.ice with now := { iceBest s.ice with standbyCycles := (iceBest s.ice).standbyCycles + 1 } }
      st := { s.st with step := 3 } }
  simp only [standbyStep, hrecord]
  split
  · obtain ⟨m', f', o', hrole⟩ := record_frame 0x0904 0x00 [] { s with
      ice := { s.ice with now := { iceBest s.ice with standbyCycles := (iceBest s.ice).standbyCycles + 1 } }
      st := { s.st with step := 3 }, mor := m, funcs := f, outbox := o }
    exact ⟨m', f', o', hrole⟩
  · exact ⟨m, f, o, rfl⟩

theorem bootRuns_standbyStart (role ident : Nat) (pairs : List Nat) (s : State) :
    bootRuns pairs (standbyStart role ident s) = true ↔
      (∃ d ∈ pairs, d < numDies s.variant) ∧ chooseFirmware s ≠ none := by
  have hfw : chooseFirmware (standbyStart role ident s) = chooseFirmware s := rfl
  have hpairs : (List.range (numDies s.variant)).any
      (fun d => decide (d ∈ pairs) && !decide (d ∈ (standbyStart role ident s).st.excluded)) = true ↔
      ∃ d ∈ pairs, d < numDies s.variant := by
    rw [show (standbyStart role ident s).st.excluded = [] from rfl]
    simp [and_comm]
  rw [bootRuns, hfw, Bool.and_eq_true, Option.isSome_iff_ne_none]
  exact and_congr_left' hpairs

/-- A state that has just been reset: nothing runs, nothing is mapped, and what is powered is as it was. -/
structure IsReset (p : State) : Prop where
  ready : p.st.ready = false
  ops : p.ops = []
  queues : p.queues = []
  pages : p.pages = []
  trns : p.trns = []
  dmem : p.dmem = []

/-- The device after the standby phase. -/
structure InStandby (role ident : Nat) (runs : Bool) (s p : State) : Prop extends IsReset p where
  auxOn : p.st.auxOn = true
  time : p.time = 0
  strapRole : p.st.strapRole = role % 4
  strapId : p.st.strapId = ident % 16
  role : p.casc.role = role % 4
  ident : p.casc.ident = ident % 16
  standbyDone : p.st.standbyDone = runs
  supplyOk : p.st.supplyOk = s.st.supplyOk
  thermalHold : p.st.thermalHold = false
  railsOn : p.st.railsOn = false
  cycles : runs = true → p.ice.now.standbyCycles = (iceBest s.ice).standbyCycles + 1

theorem standbyPhase_ends (role ident : Nat) (pairs : List Nat) (s : State) :
    InStandby role ident (bootRuns pairs (standbyStart role ident s)) s (standbyPhase role ident pairs s) := by
  obtain ⟨_, _, _, _, _, _, _, hboot⟩ := startFirmware_frame pairs (standbyStart role ident s)
  rw [standbyPhase_eq, hboot]
  cases bootRuns pairs (standbyStart role ident s) with
  | true =>
    rw [if_pos rfl]
    obtain ⟨_, _, _, hstep⟩ := standbyStep_frame { standbyStart role ident s with
      st := { (standbyStart role ident s).st with rmDie := _, step := _, standbyDone := true }
      link := _, cfg := _, mor := _, funcs := _, outbox := _ }
    rw [hstep]
    exact ⟨⟨rfl, rfl, rfl, rfl, rfl, rfl⟩, rfl, rfl, rfl, rfl, rfl, rfl, rfl, rfl, rfl, rfl, fun _ => rfl⟩
  | false =>
    rw [if_neg Bool.false_ne_true]
    exact ⟨⟨rfl, rfl, rfl, rfl, rfl, rfl⟩, rfl, rfl, rfl, rfl, rfl, rfl, rfl, rfl, rfl, rfl, nofun⟩

/-! ### The loss of the auxiliary input (R411, R437) -/

/-- A commit becomes the best copy of a ledger that is not behind. -/
theorem iceBest_iceCommitOp {s : State} (h : (iceBest s.ice).commitSeq ≤ s.ice.now.commitSeq) :
    iceBest (iceCommitOp s).ice = { s.ice.now with commitSeq := s.ice.now.commitSeq + 1, lastCal := calNow s } := by
  simp only [iceCommitOp]
  cases hcopy0 : s.ice.copy0 with
  | none => cases hcopy1 : s.ice.copy1 with
    | none => simp [iceBest]
    | some b =>
      have hb : b.commitSeq ≤ s.ice.now.commitSeq := by simpa [iceBest, hcopy0, hcopy1] using h
      simp [iceBest]
      omega
  | some a => cases hcopy1 : s.ice.copy1 with
    | none =>
      have ha : a.commitSeq ≤ s.ice.now.commitSeq := by simpa [iceBest, hcopy0, hcopy1] using h
      simp [iceBest]
      omega
    | some b =>
      have hbest : (if a.commitSeq < b.commitSeq then b else a).commitSeq ≤ s.ice.now.commitSeq := by
        simpa [iceBest, hcopy0, hcopy1] using h
      by_cases hlt : a.commitSeq < b.commitSeq
      · rw [if_pos hlt] at hbest
        simp [iceBest, Nat.not_le.2 hlt]
        omega
      · rw [if_neg hlt] at hbest
        simp [iceBest, Nat.not_lt.1 hlt]
        omega

theorem settleLedger_frame (s : State) : ∃ i, settleLedger s = { s with ice := i } ∧
    ((iceBest s.ice).commitSeq ≤ s.ice.now.commitSeq → timeless (iceBest i) = timeless s.ice.now) := by
  unfold settleLedger
  split
  next hsame => exact ⟨s.ice, rfl, fun _ => hsame.symm⟩
  next => exact ⟨(iceCommitOp s).ice, rfl, fun h => by rw [iceBest_iceCommitOp h]; rfl⟩

/-! ### Device resets (R406, R411, R420 to R422, R437) -/

/-- What a device reset takes and what it leaves. -/
structure DeviceWasReset (s p : State) : Prop extends IsReset p where
  time : p.time = s.time
  resets : p.resets = s.resets + 1
  standbyDone : p.st.standbyDone = s.st.standbyDone
  supplyOk : p.st.supplyOk = s.st.supplyOk
  perst : p.st.perst = s.st.perst
  excluded : p.st.excluded = s.st.excluded
  cause : p.st.cause = s.st.cause
  deviceResets : p.st.deviceResets = s.st.deviceResets
  vcoreMv : p.pwr.vcoreMv = 0
  pwrGood : p.pwr.pwrGood = false
  bootRuns : ∀ pairs, bootRuns pairs p = bootRuns pairs s

theorem deviceReset_ends (s : State) : DeviceWasReset s (deviceReset s) := by
  obtain ⟨m, f, o, hthaw⟩ : ∃ m f o, (if s.mor.frozen then unfreeze s else s) = { s with mor := m, funcs := f, outbox := o } := by
    split
    · exact unfreeze_frame s
    · exact ⟨_, _, _, rfl⟩
  unfold deviceReset
  rw [hthaw]
  exact ⟨⟨rfl, rfl, rfl, rfl, rfl, rfl⟩, rfl, rfl, rfl, rfl, rfl, rfl, rfl, rfl, rfl, rfl, fun _ => rfl⟩

/-- A supply that leaves its limits while the rails are on. -/
theorem supplyLost_of_on {s : State} (haux : s.st.auxOn = true) (hrails : s.st.railsOn = true) : ∃ t, supplyLost s = t ∧
    t.st.supplyOk = false ∧ t.st.railsOn = false ∧ t.st.ready = false ∧ t.pwr.vcoreMv = 0 ∧ t.pwr.pwrGood = false ∧
    t.ops = [] ∧ t.queues = [] ∧ t.dmem = [] ∧ t.link = {} ∧ t.st.cause = s.st.cause ∧
    t.st.deviceResets = s.st.deviceResets ∧ t.time = s.time := by
  have hreset := deviceReset_ends s
  obtain ⟨_, _, _, _, _, _, _, hboot⟩ := startFirmware_frame [s.st.rmDie] (deviceReset s)
  refine ⟨_, if_neg (by simp [haux, hrails]), ?_⟩
  rw [hboot]
  exact ⟨rfl, rfl, hreset.ready, hreset.vcoreMv, hreset.pwrGood, hreset.ops, hreset.queues, hreset.dmem, rfl, hreset.cause,
    hreset.deviceResets, hreset.time⟩

/-- Settles O11: the phases that follow the auxiliary input and the 48 V supply, and what their loss leaves. -/
theorem powerInputs : Obligations.PowerInputs := by
  refine ⟨⟨?on, ?loss⟩, ?entersOn, ?enters, ?leaves⟩
  case on =>
    intro s role ident found
    have hstandby := standbyPhase_ends role ident found.pairsPass s
    have hkeeps := keepsPower_mainIfDue found (standbyPhase role ident found.pairsPass s)
    have hst {α : Type} (f : Startup → α) := congrArg f hkeeps.st
    have hdone : (mainIfDue found (standbyPhase role ident found.pairsPass s)).st.standbyDone = _ :=
      (hst Startup.standbyDone).trans hstandby.standbyDone
    refine ⟨_, rfl, (hst Startup.auxOn).trans hstandby.auxOn, hkeeps.time.trans hstandby.time, hkeeps.ops hstandby.ops,
      (hst Startup.strapRole).trans hstandby.strapRole, (hst Startup.strapId).trans hstandby.strapId,
      hkeeps.role.trans hstandby.role, hkeeps.ident.trans hstandby.ident, fun hruns => ?_, fun hruns => ?_, fun hnot => ?_⟩
    · have hruns := (bootRuns_standbyStart role ident found.pairsPass s).2 hruns
      refine ⟨hdone.trans hruns, hkeeps.cycles.trans (hstandby.cycles hruns), fun hsupply => startUpEnded_of_due ?_ found⟩
      simp [Startup.due, hstandby.standbyDone, hruns, hstandby.supplyOk, hsupply, hstandby.thermalHold]
    · exact hdone.trans (Bool.eq_false_iff.2 (mt (bootRuns_standbyStart role ident found.pairsPass s).1 hruns))
    · have hnotDue : (standbyPhase role ident found.pairsPass s).st.due = false := by
        rw [Startup.due, hstandby.supplyOk]
        rcases hnot with hnot | hnot
        · rw [hstandby.standbyDone, ← hdone, hnot, Bool.false_and, Bool.false_and]
        · rw [hnot, Bool.and_false, Bool.false_and]
      rw [mainIfDue_of_notDue hnotDue]
      exact ⟨hstandby.ready, hstandby.railsOn, hstandby.queues, hstandby.pages, hstandby.dmem⟩
  case loss =>
    intro s
    obtain ⟨i, hledger, hbest⟩ := settleLedger_frame s
    refine ⟨_, congrArg (fun u => Host.Outcome.next (keptAlways u)) hledger, ?_⟩
    exact ⟨rfl, rfl, rfl, rfl, rfl, rfl, rfl, rfl, rfl, rfl, rfl, rfl, rfl, rfl, rfl, rfl, rfl, hbest⟩
  case entersOn =>
    intro s found hrails
    exact congrArg Host.Outcome.next (if_pos hrails)
  case enters =>
    intro s found hrails hdone hhold
    have hkeeps := keepsPower_mainIfDue found { s with st := { s.st with supplyOk := true } }
    refine ⟨_, congrArg Host.Outcome.next (if_neg (by simp [hrails])), congrArg Startup.supplyOk hkeeps.st, hkeeps.time,
      startUpEnded_of_due ?_ found⟩
    simp [Startup.due, hdone, hhold]
  case leaves =>
    rintro c s hc haux hrails
    obtain ⟨t, ht, hend⟩ := supplyLost_of_on haux hrails
    refine ⟨t, ?_, hend⟩
    rcases hc with rfl | rfl <;> exact congrArg Host.Outcome.next ht

/-! ### The four requests (R420 to R422) -/

/-- The state in which the boot ROM runs after a request. -/
def requested (cause : Nat) (s : State) : State :=
  { deviceReset s with
    st := { (deviceReset s).st with
      cause := cause, deviceResets := satAdd 0xFFFF (deviceReset s).st.deviceResets 1, thermalHold := false }
    pwr := { (deviceReset s).pwr with thermN := true } }

theorem resetRequest_of_cool {s : State} (haux : s.st.auxOn = true)
    (hcool : s.st.thermalHold = true → anyAbove s.pwr.temps 85 = false) (cause : Nat) (found : BootFindings) :
    resetRequest cause found s = mainIfDue found (startFirmware found.pairsPass (requested cause s)) := by
  rw [resetRequest, if_neg (by simp [haux]), if_neg (by simpa using hcool)]
  rfl

/-- The device when the boot ROM has run after a request. -/
structure WasRequested (cause : Nat) (runs : Bool) (s p : State) : Prop extends IsReset p where
  time : p.time = s.time
  resets : p.resets = s.resets + 1
  cause : p.st.cause = cause
  deviceResets : p.st.deviceResets = min 0xFFFF (s.st.deviceResets + 1)
  thermalHold : p.st.thermalHold = false
  excluded : p.st.excluded = s.st.excluded
  perst : p.st.perst = s.st.perst
  supplyOk : p.st.supplyOk = s.st.supplyOk
  standbyDone : p.st.standbyDone = runs

theorem startFirmware_requested (cause : Nat) (pairs : List Nat) (s : State) :
    WasRequested cause (bootRuns pairs s) s (startFirmware pairs (requested cause s)) := by
  have hreset := deviceReset_ends s
  obtain ⟨_, _, _, _, _, _, _, hboot⟩ := startFirmware_frame pairs (requested cause s)
  rw [hboot, show bootRuns pairs (requested cause s) = bootRuns pairs s from hreset.bootRuns pairs]
  exact ⟨⟨hreset.ready, hreset.ops, hreset.queues, hreset.pages, hreset.trns, hreset.dmem⟩, hreset.time, hreset.resets, rfl,
    congrArg (fun n => satAdd 0xFFFF n 1) hreset.deviceResets, rfl, hreset.excluded, hreset.perst, hreset.supplyOk, rfl⟩

/-- A device reset that is not held off ends a thermal hold, and the main phase follows where it may. -/
theorem resetRequest_ends {s : State} (haux : s.st.auxOn = true) (hcool : s.st.thermalHold = true → anyAbove s.pwr.temps 85 = false)
    (cause : Nat) (found : BootFindings) : ∃ t, resetRequest cause found s = t ∧ t.st.cause = cause ∧
      t.st.deviceResets = min 0xFFFF (s.st.deviceResets + 1) ∧ t.st.thermalHold = false ∧ t.time = s.time ∧ t.ops = [] ∧
      t.resets = s.resets + 1 ∧ t.st.excluded = s.st.excluded ∧ t.st.perst = s.st.perst ∧
      t.st.standbyDone = bootRuns found.pairsPass s ∧
      (bootRuns found.pairsPass s = true → s.st.supplyOk = true → StartUpEnded found t) ∧
      (bootRuns found.pairsPass s = false ∨ s.st.supplyOk = false →
        t.st.ready = false ∧ t.queues = [] ∧ t.pages = [] ∧ t.trns = [] ∧ t.dmem = []) := by
  have hboot := startFirmware_requested cause found.pairsPass s
  have hkeeps := keepsPower_mainIfDue found (startFirmware found.pairsPass (requested cause s))
  have hst {α : Type} (f : Startup → α) := congrArg f hkeeps.st
  have hdue : (startFirmware found.pairsPass (requested cause s)).st.due = (bootRuns found.pairsPass s && s.st.supplyOk) := by
    rw [Startup.due, hboot.standbyDone, hboot.supplyOk, hboot.thermalHold, Bool.not_false, Bool.and_true]
  refine ⟨_, resetRequest_of_cool haux hcool cause found, (hst Startup.cause).trans hboot.cause,
    (hst Startup.deviceResets).trans hboot.deviceResets, (hst Startup.thermalHold).trans hboot.thermalHold,
    hkeeps.time.trans hboot.time, hkeeps.ops hboot.ops, hkeeps.resets.trans hboot.resets,
    (hst Startup.excluded).trans hboot.excluded, (hst Startup.perst).trans hboot.perst,
    (hst Startup.standbyDone).trans hboot.standbyDone, fun hruns hsupply => startUpEnded_of_due (by rw [hdue, hruns, hsupply]; rfl) found,
    fun hnot => ?_⟩
  rw [mainIfDue_of_notDue (hdue.trans (by rcases hnot with h | h <;> simp [h]))]
  exact ⟨hboot.ready, hboot.queues, hboot.pages, hboot.trns, hboot.dmem⟩

/-- While a thermal hold is in force and the device is hot, only PERST# does something. -/
theorem resetRequest_of_hot {s : State} (hhold : s.st.thermalHold = true) (habove : anyAbove s.pwr.temps 85 = true) {cause : Nat}
    (hcause : cause ≠ 1) (found : BootFindings) : resetRequest cause found s = s := by
  rw [resetRequest, if_pos (c := (s.st.thermalHold && anyAbove s.pwr.temps 85) = true) (by simp [hhold, habove]),
    if_neg hcause, ite_self]

/-- Settles O12: the four commands make one request each, of the state with PERST# asserted or the pair excluded. -/
theorem deviceResets : Obligations.DeviceResets := by
  intro s found haux hdone
  refine ⟨?requests, fun hhold habove v => ⟨?register, ?smbus⟩, fun v hkey => ?keyless, fun key hkey => ?otherKey⟩
  case requests =>
    rintro hcool c cause _ _ hc rfl rfl
    obtain ⟨u, hu, hrun, hout, hperst, haux', hcool', hsame⟩ : ∃ u : State,
        u = { s with st := { s.st with perst := u.st.perst, excluded := u.st.excluded } } ∧
        exec c s = .next (resetRequest cause found u) ∧
        u.st.excluded = (if cause = 4 then insertNat s.st.rmDie s.st.excluded else s.st.excluded) ∧
        (cause = 1 → u.st.perst = true) ∧ u.st.auxOn = true ∧
        (u.st.thermalHold = true → anyAbove u.pwr.temps 85 = false) ∧
        bootRuns found.pairsPass u = ((List.range (numDies s.variant)).any (fun d => decide (d ∈ found.pairsPass) &&
          !decide (d ∈ u.st.excluded)) && (chooseFirmware s).isSome) := by
      rcases hc with ⟨rfl, rfl⟩ | ⟨v, rfl, hgo, hkey, rfl⟩ | ⟨rfl, rfl⟩ | ⟨rfl, rfl⟩
      · exact ⟨{ s with st := { s.st with perst := true } }, rfl, rfl, rfl, fun _ => rfl, haux, hcool, rfl⟩
      · exact ⟨s, rfl, congrArg Host.Outcome.next (if_pos (by simp [hdone, hgo, hkey])), rfl, nofun, haux, hcool, rfl⟩
      · exact ⟨s, rfl, congrArg Host.Outcome.next (if_neg (by simp [hdone])), rfl, nofun, haux, hcool, rfl⟩
      · exact ⟨{ s with st := { s.st with excluded := insertNat s.st.rmDie s.st.excluded } }, rfl,
          congrArg Host.Outcome.next (if_neg (by simpa [hdone] using hcool)), rfl, nofun, haux, hcool, rfl⟩
    obtain ⟨t, ht, hcause, hcount, hhold, htime, hops, hresets, hexcluded, hpin, hruns, hends, hclear⟩ :=
      resetRequest_ends haux' hcool' cause found
    rw [hsame] at hruns hends hclear
    rw [← hout]
    rw [hu] at hcount htime hresets hends hclear
    exact ⟨t, hrun.trans (congrArg Host.Outcome.next ht), hcause, hcount, hhold, htime, hops, hresets, hexcluded,
      fun h => hpin.trans (hperst h), hruns, hends, hclear⟩
  case register =>
    have hhot := resetRequest_of_hot hhold habove (cause := 2) (by decide) found
    refine congrArg Host.Outcome.next ?_
    rw [hhot, ite_self]
  case smbus =>
    have hhot := resetRequest_of_hot hhold habove (cause := 3) (by decide) found
    exact congrArg Host.Outcome.next ((if_neg (by simp [hdone])).trans hhot)
  case keyless => exact congrArg Host.Outcome.next (if_neg (by simp [hkey]))
  case otherKey =>
    exact congrArg Host.Outcome.next ((if_neg (by simp [hdone])).trans ((if_neg Bool.false_ne_true).trans (if_neg hkey)))

end Sys2Proof.Machine
end

section
/-! What leaves memory, mappings and windows as they were: messages, Turnstiles, links and records (R291, R326, R364). -/

namespace Sys2Proof.Machine

/-- What is stored is as before, and no packet is held where none was. -/
structure KeepsStore (s t : State) : Prop where
  stored : t.stored = s.stored
  noneHeld : s.casc.rxHeld = [] → t.casc.rxHeld = []

namespace KeepsStore

variable {s t u : State}

theorem refl (s : State) : KeepsStore s s := ⟨rfl, id⟩

theorem trans (h : KeepsStore s t) (k : KeepsStore t u) : KeepsStore s u := ⟨k.stored.trans h.stored, k.noneHeld ∘ h.noneHeld⟩

theorem foldl {α : Type} {f : State → α → State} (hf : ∀ s x, KeepsStore s (f s x)) (l : List α) (s : State) :
    KeepsStore s (l.foldl f s) := by
  induction l generalizing s with
  | nil => exact refl s
  | cons x l ih => exact (hf s x).trans (ih _)

theorem ite {c : Prop} [Decidable c] (ht : KeepsStore s t) (hu : KeepsStore s u) : KeepsStore s (if c then t else u) := by
  split <;> assumption

theorem of_onlyTurnstiles (h : OnlyTurnstiles s t) : KeepsStore s t := by
  obtain ⟨_, _, _, _, _, _, _, _, _, _, _, _, rfl⟩ := h
  exact ⟨rfl, id⟩

theorem of_onlySends (h : OnlySends s t) : KeepsStore s t := .of_onlyTurnstiles h.onlyTurnstiles

theorem of_onlyNoc (h : OnlyNoc s t) : KeepsStore s t := by
  obtain ⟨_, rfl⟩ := h
  exact ⟨rfl, id⟩

theorem of_sameDesign (h : SameDesign s t) : KeepsStore s t := ⟨h.stored, fun hs => by rw [h.casc, hs]⟩

theorem record (h : KeepsStore s t) (code src : Nat) (payload : List Byte) : KeepsStore s (record code src payload t) :=
  h.trans (.of_onlyTurnstiles (onlyTurnstiles_record ..))

theorem sendMsix (h : KeepsStore s t) (func vec : Nat) : KeepsStore s (sendMsix func vec t) := by
  obtain ⟨_, _, hsend⟩ := sendMsix_frame func vec t
  rw [hsend]
  exact h.trans ⟨rfl, id⟩

theorem endOp (h : KeepsStore s t) (tag : Nat) (r : Result) : KeepsStore s (endOp tag r t) := h.trans ⟨rfl, id⟩

theorem letIn (h : KeepsStore s t) : KeepsStore s (letIn t) := h.trans (.of_onlyTurnstiles (onlyTurnstiles_letIn t))

theorem sendCasc (h : KeepsStore s t) (dev : Nat) (m : CascMsg) : KeepsStore s (sendCasc dev m t) :=
  h.trans (.of_onlySends (onlySends_sendCasc ..))

end KeepsStore

theorem keepsStore_updOp (tag : Nat) (f : Op → Op) (s : State) : KeepsStore s (updOp tag f s) := ⟨rfl, id⟩
theorem keepsStore_beginOp (o : Op) (s : State) : KeepsStore s (beginOp o s) := ⟨rfl, id⟩
theorem keepsStore_setTrn (t : Nat) (x : Turnstile) (s : State) : KeepsStore s (setTrn s t x) := ⟨rfl, id⟩
theorem keepsStore_setWatcher (w : Nat) (x : Watcher) (s : State) : KeepsStore s (setWatcher s w x) := ⟨rfl, id⟩

/-- A change of the cascade state that holds no packet. -/
theorem keepsStore_casc {c : Cascade} (s : State) (h : s.casc.rxHeld = [] → c.rxHeld = []) : KeepsStore s { s with casc := c } :=
  ⟨rfl, h⟩

theorem KeepsStore.putCasc {s t : State} {c : Cascade} (h : KeepsStore s t) (hc : t.casc.rxHeld = [] → c.rxHeld = []) :
    KeepsStore s { t with casc := c } := h.trans (keepsStore_casc t hc)

theorem keepsStore_refuseOp (tag status : Nat) (s : State) : KeepsStore s (refuseOp tag status s) :=
  ((KeepsStore.refl s).endOp ..).trans (keepsStore_updOp ..)

theorem keepsStore_passTime (dt : Nat) (s : State) : KeepsStore s (passTime dt s) := by
  obtain ⟨_, _, _, h⟩ := passTime_frame dt s
  rw [h]
  exact ⟨rfl, id⟩

theorem keepsStore_passTo (t : Nat) (s : State) : KeepsStore s (passTo t s) := keepsStore_passTime _ s

/-- An operation that begins, or does not. -/
theorem keepsStore_runWhen {f : Op → State → State} (hf : ∀ o s, KeepsStore s (f o s)) (tag : Nat) (p : Op → Bool) (s : State) :
    KeepsStore s (runWhen tag p f s) := by
  unfold runWhen
  split
  · exact .ite ((keepsStore_beginOp ..).trans (hf _ _)) (.refl s)
  · exact .refl s

/-! ### Turnstiles (R291 to R311) -/

theorem keepsStore_releaseAll (l : List Waiter) (s : State) : KeepsStore s (l.foldl (fun s w => releaseWaiter w s) s) :=
  .foldl (fun s w => .of_onlyTurnstiles (onlyTurnstiles_releaseWaiter w s)) l s

theorem keepsStore_atTurnstile (tag : Nat) (s : State) : KeepsStore s (atTurnstile tag s) :=
  (keepsStore_updOp ..).trans (.of_onlyNoc (onlyNoc_passFlits ..))

theorem keepsStore_sendFence (q d f : Nat) (s : State) : KeepsStore s (sendFence q d f s) := by
  simp only [sendFence, takeFence]
  refine KeepsStore.sendCasc ?_ ..
  exact keepsStore_casc s id

theorem keepsStore_sendTrnOp (o : Op) (kind t gen n : Nat) (curgen : Bool) (s : State) :
    KeepsStore s (sendTrnOp o kind t gen n curgen s) := by
  simp only [sendTrnOp]
  refine KeepsStore.sendCasc (.putCasc (keepsStore_sendFence o.queue s.casc.masterId o.func s) ?_) ..
  exact id

theorem keepsStore_trnArriveOp (tag : Nat) (o : Op) (s : State) : KeepsStore s (trnArriveOp tag o s) :=
  (keepsStore_atTurnstile tag s).trans
    (.ite (keepsStore_sendTrnOp ..) (KeepsStore.of_onlyTurnstiles (onlyTurnstiles_arriveAt ..)).letIn)

theorem keepsStore_trnWaitOp (tag : Nat) (o : Op) (s : State) : KeepsStore s (trnWaitOp tag o s) :=
  (keepsStore_atTurnstile tag s).trans (.of_onlyTurnstiles (onlyTurnstiles_waitAt ..))

theorem keepsStore_trnArriveWaitOp (tag : Nat) (o : Op) (s : State) : KeepsStore s (trnArriveWaitOp tag o s) :=
  (keepsStore_atTurnstile tag s).trans
    (.ite (keepsStore_sendTrnOp ..) (KeepsStore.of_onlyTurnstiles (onlyTurnstiles_arriveAt ..)).letIn)

theorem keepsStore_signalOp (tag : Nat) (o : Op) (s : State) : KeepsStore s (signalOp tag o s) := by
  simp only [signalOp, takeFence]
  refine .ite (keepsStore_trnArriveOp ..) (.ite (keepsStore_refuseOp ..) (.sendCasc (.putCasc (keepsStore_atTurnstile tag s) ?_) ..))
  exact id

theorem keepsStore_withdraw (test : Waiter → Bool) (s : State) : KeepsStore s (withdraw test s) := ⟨rfl, id⟩

theorem keepsStore_peerTimeout (dev mark : Nat) (byOp : Bool) (s : State) : KeepsStore s (peerTimeout dev mark byOp s) := by
  simp only [peerTimeout]
  split
  · split
    · exact ((keepsStore_withdraw _ s).trans (.of_onlySends (onlySends_answerPeer ..))).letIn
    · exact .refl s
  · exact .refl s

theorem keepsStore_trnTimeoutOp (tag : Nat) (s : State) : KeepsStore s (trnTimeoutOp tag s) := by
  unfold trnTimeoutOp
  split
  · exact .refl s
  · exact .ite ((keepsStore_passTo ..).endOp ..).letIn (.refl s)

theorem keepsStore_groupGenOp (t gen : Nat) (s : State) : KeepsStore s (groupGenOp t gen s) := by
  simp only [groupGenOp]
  exact .ite (.refl s) ((keepsStore_setTrn ..).trans (keepsStore_releaseAll ..)).letIn

theorem keepsStore_trnCfgOp (t v : Nat) (s : State) : KeepsStore s (trnCfgOp t v s) :=
  .ite (.refl s) (.ite (keepsStore_setTrn ..) (keepsStore_setTrn ..))

theorem keepsStore_afterForce (t : Nat) (s : State) : KeepsStore s (afterForce t s) :=
  (KeepsStore.of_onlyTurnstiles (onlyTurnstiles_settleTrn ..)).letIn

theorem keepsStore_recountMany (t n : Nat) (s : State) : KeepsStore s (recountMany t n s) := by
  induction n generalizing s with
  | zero => exact .refl s
  | succ n ih => exact (KeepsStore.of_onlyTurnstiles (onlyTurnstiles_recount t s)).trans (ih _)

theorem keepsStore_recordForce (t op v : Nat) (s : State) : KeepsStore s (recordForce t op v s) := (KeepsStore.refl s).record ..

theorem keepsStore_setCountOp (t v : Nat) (s : State) : KeepsStore s (setCountOp t v s) := by
  simp only [setCountOp]
  refine .ite (.refl s) (.trans ?_ (keepsStore_afterForce t _))
  refine .trans ?_ (keepsStore_recountMany ..)
  exact (keepsStore_recordForce t 0 v s).trans (keepsStore_setTrn ..)

theorem keepsStore_setGenOp (t v : Nat) (s : State) : KeepsStore s (setGenOp t v s) := by
  simp only [setGenOp]
  refine .ite (.refl s) (.trans ?_ (keepsStore_afterForce t _))
  have hrelease (u : State) (l : List Waiter) (x : Turnstile) :
      KeepsStore u (l.foldl (fun s w => releaseWaiter w s) (setTrn u t x)) :=
    (keepsStore_setTrn ..).trans (keepsStore_releaseAll l _)
  refine .ite (.trans ((keepsStore_recordForce t 1 v s).trans (hrelease ..)) (.foldl (fun s d => ?_) _ _))
    ((keepsStore_recordForce t 1 v s).trans (hrelease ..))
  exact .of_onlySends (onlySends_sendCasc ..)

theorem keepsStore_completeGenOp (t v : Nat) (s : State) : KeepsStore s (completeGenOp t v s) :=
  .ite (.refl s) (((keepsStore_recordForce t 2 v s).trans (.of_onlyTurnstiles (onlyTurnstiles_completeTrn t _))).trans
    (keepsStore_afterForce t _))

theorem keepsStore_deadlockOp (w : Nat) (s : State) : KeepsStore s (deadlockOp w s) := by
  simp only [deadlockOp]
  split
  · exact .refl s
  · refine .ite (.refl s) (KeepsStore.sendMsix (KeepsStore.record ?_ ..) ..)
    exact (keepsStore_passTo _ s).trans (keepsStore_setWatcher ..)

end Sys2Proof.Machine
end

section
/-! Cascade links, formation and on-chip links leave what is stored (R312, R326 to R341, R347). -/

namespace Sys2Proof.Machine

/-! ### Links that train and fail (R337, R341) -/

theorem keepsStore_setLink (l : Nat) (x : CascLink) (s : State) : KeepsStore s (setLink s l x) := ⟨rfl, id⟩
theorem keepsStore_setLane (n : Nat) (x : CascLane) (s : State) : KeepsStore s (setLane s n x) := ⟨rfl, id⟩
theorem keepsStore_mapLinkLanes (l : Nat) (f : CascLane → CascLane) (s : State) : KeepsStore s (mapLinkLanes l f s) := ⟨rfl, id⟩
theorem keepsStore_ledgerLink (f : Ledger → Ledger) (s : State) : KeepsStore s (ledgerLink f s) := ⟨rfl, id⟩
theorem keepsStore_emit (m : Out) (s : State) : KeepsStore s (emit m s) := ⟨rfl, id⟩

theorem keepsStore_scanLost (test : Nat → Bool) (s : State) : KeepsStore s (scanLost test s) := by
  obtain ⟨_, _, _, h⟩ := scanLost_frame test s
  rw [h]
  exact keepsStore_casc s id

theorem keepsStore_resend (l : Nat) (s : State) : KeepsStore s (resend l s) := .foldl (fun s _ => keepsStore_emit _ s) _ s

theorem keepsStore_pumpLink (l n : Nat) (s : State) : KeepsStore s (pumpLink l n s) := .of_onlySends (onlySends_pumpLink ..)

theorem keepsStore_endLinkError (test : Op → Bool) (s : State) : KeepsStore s (endLinkError test s) :=
  .foldl (fun s _ => (KeepsStore.refl s).endOp ..) _ s

theorem keepsStore_losePath (dev : Nat) (s : State) : KeepsStore s (losePath dev s) := by
  simp only [losePath]
  refine KeepsStore.letIn (.putCasc (keepsStore_endLinkError _ s) ?_)
  exact fun h => by rw [h, List.filter_nil]

theorem keepsStore_loseAll (l : List Nat) (s : State) : KeepsStore s (l.foldl (fun s d => losePath d s) s) :=
  .foldl (fun s d => keepsStore_losePath d s) l s

theorem keepsStore_leaveGroup (s : State) : KeepsStore s (leaveGroup s) := by
  simp only [leaveGroup]
  have hlost := keepsStore_loseAll (otherMembers s) s
  refine KeepsStore.letIn (.putCasc (.ite hlost (hlost.trans (keepsStore_endLinkError _ _))) ?_)
  exact id

theorem keepsStore_keepReach (reach : Nat) (s : State) : KeepsStore s (keepReach reach s) := by
  simp only [keepReach]
  refine .ite (.refl s) (.ite (.putCasc (keepsStore_loseAll _ s) ?_) (.ite (keepsStore_leaveGroup s) (keepsStore_loseAll _ s)))
  exact id

theorem keepsStore_failLink (l reason reach : Nat) (s : State) : KeepsStore s (failLink l reason reach s) := by
  simp only [failLink]
  refine .trans ?_ (.of_onlySends (onlySends_rerouteLink ..))
  refine .trans (.trans (KeepsStore.record (.putCasc ?_ ?_) ..) (keepsStore_ledgerLink ..)) (keepsStore_keepReach ..)
  · exact (keepsStore_setLink ..).trans (keepsStore_scanLost ..)
  · exact id

theorem keepsStore_beginRetrain (l : Nat) (x : CascLink) (s : State) : KeepsStore s (beginRetrain l x s) := by
  simp only [beginRetrain]
  have hretrain (y : CascLink) (f : CascLane → CascLane) (g : Ledger → Ledger) :
      KeepsStore s (ledgerLink g (mapLinkLanes l f (setLink s l y))) :=
    ((keepsStore_setLink ..).trans (keepsStore_mapLinkLanes ..)).trans (keepsStore_ledgerLink ..)
  exact .ite ((hretrain ..).trans (keepsStore_failLink ..)) (hretrain ..)

theorem keepsStore_laneFailOp (n : Nat) (s : State) : KeepsStore s (laneFailOp n s) := by
  simp only [laneFailOp]
  exact .ite (.refl s) ((((KeepsStore.refl s).record ..).trans (keepsStore_scanLost ..)).trans (keepsStore_beginRetrain ..))

theorem keepsStore_linkUp (l width : Nat) (x : CascLink) (s : State) : KeepsStore s (linkUp l width x s) := by
  simp only [linkUp]
  exact ((((keepsStore_setLink ..).trans (keepsStore_mapLinkLanes ..)).trans (keepsStore_scanLost ..)).trans
    (keepsStore_resend ..)).trans (keepsStore_pumpLink ..)

theorem keepsStore_linkTrainedOp (l partner partnerLink : Nat) (s : State) :
    KeepsStore s (linkTrainedOp l partner partnerLink s) := by
  simp only [linkTrainedOp]
  exact .ite (.refl s) (keepsStore_linkUp ..)

theorem keepsStore_retrainDoneOp (l outcome reach : Nat) (s : State) : KeepsStore s (retrainDoneOp l outcome reach s) := by
  simp only [retrainDoneOp]
  exact .ite (.refl s) (.ite (keepsStore_failLink ..)
    (.ite (.ite (keepsStore_failLink ..) (keepsStore_beginRetrain ..)) (keepsStore_linkUp ..)))

/-! ### Markers, idle and eye scans (R329 to R332) -/

theorem keepsStore_markerSendOp (n : Nat) (s : State) : KeepsStore s (markerSendOp n s) := by
  simp only [markerSendOp]
  exact .ite (.refl s) (((keepsStore_passTo ..).trans (keepsStore_setLane ..)).trans (keepsStore_emit ..))

theorem keepsStore_markerReceiveOp (n count skew : Nat) (s : State) : KeepsStore s (markerReceiveOp n count skew s) := by
  simp only [markerReceiveOp]
  exact .ite (.refl s) (keepsStore_setLane ..)

theorem keepsStore_idleEnterOp (l : Nat) (s : State) : KeepsStore s (idleEnterOp l s) := by
  simp only [idleEnterOp]
  exact .ite (.refl s) (((keepsStore_passTo ..).trans (.of_onlySends (onlySends_sendFlit ..))).trans (keepsStore_setLink ..))

theorem keepsStore_nullBurstOp (l : Nat) (s : State) : KeepsStore s (nullBurstOp l s) := by
  simp only [nullBurstOp]
  exact .ite (.refl s) ((((keepsStore_passTo ..).trans (keepsStore_emit ..)).trans (keepsStore_passTime ..)).trans
    (keepsStore_setLink ..))

theorem keepsStore_idleExitOp (l : Nat) (s : State) : KeepsStore s (idleExitOp l s) := by
  simp only [idleExitOp]
  have hexit (x : CascLink) (f : CascLane → CascLane) (m : Out) : KeepsStore s (emit m (mapLinkLanes l f (setLink s l x))) :=
    ((keepsStore_setLink ..).trans (keepsStore_mapLinkLanes ..)).trans (keepsStore_emit ..)
  exact .ite (.refl s) (.trans (.ite ((hexit ..).trans (keepsStore_emit ..)) (hexit ..)) (keepsStore_pumpLink ..))

theorem keepsStore_endScan (errors n : Nat) (s : State) : KeepsStore s (endScan errors n s) := keepsStore_casc s id

theorem keepsStore_eyeScanOp (v errors compared : Nat) (s : State) : KeepsStore s (eyeScanOp v errors compared s) := by
  simp only [eyeScanOp]
  refine .ite ?_ (.ite (.trans ?_ (keepsStore_endScan ..)) (.ite ?_ (.trans (.trans ?_ (keepsStore_endScan ..)) (keepsStore_passTime ..))))
  all_goals exact keepsStore_casc s id

/-! ### Formation (R338, R339, R346) -/

theorem keepsStore_formGroup (peers : List (Nat × Nat × Nat)) (wires : List Wiring) (mirrors : List Mirror) (s : State) :
    KeepsStore s (formGroup peers wires mirrors s) := by
  simp only [formGroup]
  refine .ite (.ite ?_ (.trans ?_ (.foldl (fun s m => keepsStore_setTrn _ _ s) _ _))) (.ite (.record ?_ ..) ?_)
  all_goals exact ⟨rfl, id⟩

theorem keepsStore_cascCfgOp (v : Nat) (peers : List (Nat × Nat × Nat)) (wires : List Wiring) (s : State) :
    KeepsStore s (cascCfgOp v peers wires s) := by
  have hset : KeepsStore s { s with casc := { s.casc with
      useReg := bit v 30, role := bits v 12 2, ident := bits v 8 4, topo := bits v 0 2 } } := keepsStore_casc s id
  simp only [cascCfgOp]
  have hrole := KeepsStore.ite (c := (bit v 30 && decide (bits v 12 2 = 3)) = true) (hset.record 0x0904 0x00 []) hset
  exact .ite (hrole.trans (keepsStore_formGroup ..)) hrole

theorem keepsStore_joinGroup (peers : List (Nat × Nat × Nat)) (wires : List Wiring) (mirrors : List Mirror) (s : State) :
    KeepsStore s (joinGroup peers wires mirrors s) := .ite (keepsStore_formGroup ..) (.refl s)

theorem keepsStore_followerOp (s : State) : KeepsStore s (followerOp s) := .ite (keepsStore_casc s id) (.refl s)

/-! ### Flits (R312, R327, R334) -/

theorem keepsStore_decodeLane (l i flit : Nat) (bad : Bool) (fixed : Nat) (s : State) :
    KeepsStore s (decodeLane l i flit bad fixed s).2 := by
  have hput (x : CascLane) (f : Ledger → Ledger) : KeepsStore s (ledgerLink f (setLane s (8 * l + i) x)) :=
    (keepsStore_setLane ..).trans (keepsStore_ledgerLink ..)
  simp only [decodeLane, apply_ite Prod.snd]
  exact .ite (.refl s) (.ite (hput ..) (.ite (((hput ..).trans (keepsStore_setLane ..)).trans (keepsStore_laneFailOp ..)) (hput ..)))

/-- The decoding of one lane of a flit after others. -/
def decodeNext (l flit : Nat) (bad : List Nat) (fixed : List (Nat × Nat)) (acc : Bool × State) (i : Nat) : Bool × State :=
  (acc.1 || (decodeLane l i flit (decide (i ∈ bad)) (((fixed.find? (fun x => x.1 = i)).map (·.2)).getD 0) acc.2).1,
    (decodeLane l i flit (decide (i ∈ bad)) (((fixed.find? (fun x => x.1 = i)).map (·.2)).getD 0) acc.2).2)

theorem decodeFlit_eq (l flit : Nat) (bad : List Nat) (fixed : List (Nat × Nat)) (s : State) : decodeFlit l flit bad fixed s =
    ((List.range 8).filter (laneWorks (getLink s l).width)).foldl (decodeNext l flit bad fixed) (false, s) := rfl

theorem keepsStore_decodeFlit (l flit : Nat) (bad : List Nat) (fixed : List (Nat × Nat)) (s : State) :
    KeepsStore s (decodeFlit l flit bad fixed s).2 := by
  have hall (is : List Nat) (acc : Bool × State) :
      KeepsStore acc.2 (is.foldl (decodeNext l flit bad fixed) acc).2 := by
    induction is generalizing acc with
    | nil => exact .refl acc.2
    | cons i is ih =>
      have hlane : KeepsStore acc.2 (decodeNext l flit bad fixed acc i).2 := keepsStore_decodeLane ..
      exact hlane.trans (ih _)
  rw [decodeFlit_eq]
  exact hall _ (false, s)

theorem keepsStore_takeAck (l h : Nat) (s : State) : KeepsStore s (takeAck l h s) := by
  simp only [takeAck]
  exact .trans (.ite ((keepsStore_setLink ..).trans (keepsStore_resend ..)) (keepsStore_setLink ..)) (keepsStore_pumpLink ..)

theorem keepsStore_answerFlit (l : Nat) (nak : Bool) (s : State) : KeepsStore s (answerFlit l nak s) := by
  simp only [answerFlit]
  exact .ite (keepsStore_setLink ..) ((keepsStore_setLink ..).trans (keepsStore_emit ..))

theorem keepsStore_scanResumes (l : Nat) (s : State) : KeepsStore s (scanResumes l s) := by
  unfold scanResumes
  split
  · exact .ite ((keepsStore_endScan ..).trans (keepsStore_passTime ..)) (.refl s)
  · exact .refl s

theorem keepsStore_forwardFlit (flit : List Byte) (s : State) : KeepsStore s (forwardFlit flit s) :=
  .foldl (fun s _ => .ite (.of_onlySends (onlySends_queueMsg ..)) (.refl s)) _ s

theorem keepsStore_flitOp (l : Nat) (flit : List Byte) (bad : List Nat) (fixed : List (Nat × Nat)) (s : State) :
    KeepsStore s (flitOp l flit bad fixed s).2 := by
  have hdecode (n : Nat) (x : CascLink) : KeepsStore s (decodeFlit l n bad fixed (setLink s l x)).2 :=
    (keepsStore_setLink l x s).trans (keepsStore_decodeFlit ..)
  have hack {u : State} (hu : KeepsStore s u) (c : Prop) [Decidable c] (h : Nat) :
      KeepsStore s (if c then takeAck l h u else u) := .ite (hu.trans (keepsStore_takeAck ..)) hu
  have htaken (c : Prop) [Decidable c] (h n : Nat) (x y : CascLink) := (hack (hdecode n x) c h).trans (keepsStore_setLink l y _)
  simp only [flitOp, apply_ite Prod.snd]
  refine .ite (.refl s) (.ite (hack (hdecode ..) _ _) (.ite ?_ (.ite (hack (hdecode ..) _ _)
    ((htaken ..).trans (keepsStore_answerFlit ..)))))
  exact ((KeepsStore.ite (htaken ..) ((htaken ..).trans (keepsStore_scanResumes ..))).trans (keepsStore_answerFlit ..)).trans
    (keepsStore_forwardFlit ..)

theorem deliverFlit_of_noSlots {flit : List Byte} (h : (flitSlots flit).isEmpty = true) (s : State) : deliverFlit flit s = s := by
  rw [deliverFlit, List.isEmpty_iff.1 h, List.foldl_nil]

theorem keepsStore_flitCrcOp {replay : Nat} (h : replay < 8) (source target net inject : Nat) (s : State) :
    KeepsStore s (flitCrcOp source target net inject replay s) := by
  unfold flitCrcOp
  refine .ite (.refl s) ?_
  rw [if_pos h]
  exact ⟨rfl, id⟩

/-! ### Held signals (R304, R306) -/

theorem keepsStore_releaseChannel (dev queue n : Nat) (s : State) : KeepsStore s (releaseChannel dev queue n s) := by
  induction n generalizing s with
  | zero => exact .refl s
  | succ n ih =>
    simp only [releaseChannel]
    split
    · exact .refl s
    · refine .ite (.trans (.trans ?_ (.of_onlyTurnstiles (onlyTurnstiles_performMsg ..))) (ih _)) (.refl s)
      exact ⟨rfl, id⟩

theorem keepsStore_fenceReleaseOp {s : State} (h : s.casc.rxHeld = []) (dev queue : Nat) :
    KeepsStore s (fenceReleaseOp dev queue s) := by
  have hrelease := keepsStore_releaseChannel dev queue s.casc.rxSignals.length s
  rw [fenceReleaseOp, retryHeld_of_noneHeld (hrelease.noneHeld h)]
  exact hrelease

end Sys2Proof.Machine
end

section
/-! The commands that store nothing (R270, R291, R326, R364). -/

namespace Sys2Proof.Machine

/-! ### The Midway (R350, R353, R362 to R369) -/

theorem keepsStore_setUserLane (n : Nat) (x : UserLane) (s : State) : KeepsStore s (setUserLane s n x) := ⟨rfl, id⟩
theorem keepsStore_setPort (m : Nat) (x : MidPort) (s : State) : KeepsStore s (setPort s m x) := ⟨rfl, id⟩

/-- A change of the Midway. -/
theorem keepsStore_mid (m : Midway) (s : State) : KeepsStore s { s with mid := m } := ⟨rfl, id⟩

theorem keepsStore_settleFast (d : Nat) (s : State) : KeepsStore s (settleFast d s) := .of_sameDesign (sameDesign_settleFast d s)

theorem keepsStore_settled (b : Option Bool) (s : State) : KeepsStore s (settled b s).2 :=
  .of_sameDesign (sameDesign_settled (.refl s))

theorem keepsStore_runFabric {f : Op → State → State} (hf : ∀ o s, KeepsStore s (f o s)) (tag kind : Nat) (s : State) :
    KeepsStore s (runFabric tag kind f s) :=
  keepsStore_runWhen (fun o s => .ite (keepsStore_refuseOp ..) (hf o s)) tag _ s

theorem keepsStore_bindMemOp (tag : Nat) (o : Op) (s : State) : KeepsStore s (bindMemOp tag o s) := by
  simp only [bindMemOp]
  split
  · exact .ite ((KeepsStore.refl s).endOp ..) (keepsStore_refuseOp ..)
  · exact (keepsStore_setPort ..).endOp ..

theorem keepsStore_laneUpOp (tag : Nat) (o : Op) (s : State) : KeepsStore s (laneUpOp tag o s) := by
  simp only [laneUpOp]
  exact .ite (keepsStore_updOp ..) ((keepsStore_setUserLane ..).trans (keepsStore_updOp ..))

theorem keepsStore_laneDownOp (tag : Nat) (o : Op) (s : State) : KeepsStore s (laneDownOp tag o s) :=
  (keepsStore_setUserLane ..).endOp ..

theorem keepsStore_laneLockOp (n : Nat) (s : State) : KeepsStore s (laneLockOp n s) := by
  simp only [laneLockOp]
  split
  · split
    · exact .ite (.refl s) ((keepsStore_setUserLane ..).endOp ..)
    · exact .refl s
  · exact .refl s

theorem keepsStore_fabricTimeoutOp (tag : Nat) (s : State) : KeepsStore s (fabricTimeoutOp tag s) := by
  simp only [fabricTimeoutOp]
  split
  · exact .refl s
  · have hpass (n : Nat) := keepsStore_passTo n s
    refine .ite (.refl s) (.ite (.endOp (.ite ((hpass _).trans (keepsStore_setUserLane ..)) (hpass _)) ..)
      (.ite (((hpass _).endOp ..).trans (keepsStore_setPort ..)) (.refl s)))

theorem keepsStore_ramOp (b : Nat) (write : Bool) (a : Nat) (d : BitVec 72) (s : State) : KeepsStore s (ramOp b write a d s) := by
  simp only [ramOp]
  exact .ite (.refl s) (.ite (keepsStore_mid ..) (keepsStore_emit ..))

theorem keepsStore_setPin (n : Nat) (x : Pin) (s : State) : KeepsStore s (setPin s n x) := ⟨rfl, id⟩

theorem keepsStore_pinChangeOp (n : Nat) (level : Bool) (s : State) : KeepsStore s (pinChangeOp n level s) := by
  simp only [pinChangeOp]
  have hevent (x : Pin) (m : Out) : KeepsStore s (emit m (setPin s n x)) := (keepsStore_setPin ..).trans (keepsStore_emit ..)
  exact .ite (.refl s) (.ite (.ite ((hevent ..).trans (keepsStore_settleFast ..)) (hevent ..)) (keepsStore_setPin ..))

theorem keepsStore_bankOp (b mv : Nat) (s : State) : KeepsStore s (bankOp b mv s) := by
  simp only [bankOp]
  refine .ite (.refl s) (.ite (keepsStore_mid ..) (.trans ((keepsStore_mid _ s).trans (.foldl (fun s i => ?_) _ _))
    (keepsStore_settleFast ..)))
  refine .ite (.trans ?_ (keepsStore_emit ..)) ?_
  all_goals
    split
    · exact .ite (.refl s) (keepsStore_emit ..)
    · exact .refl s

theorem keepsStore_drivePin (n : Nat) (v : Bool) (s : State) : KeepsStore s (drivePin n v s) :=
  .of_sameDesign (sameDesign_drivePin n v s)

theorem keepsStore_samplePin (n : Nat) (s : State) : KeepsStore s (samplePin n s) := .ite (.refl s) (keepsStore_emit ..)

theorem keepsStore_setPacer (n : Nat) (x : Pacer) (s : State) : KeepsStore s (setPacer s n x) := ⟨rfl, id⟩

theorem keepsStore_pacerTickOp (n : Nat) (acked : Bool) (drive : List (Nat × Bool)) (sample : List Nat) (s : State) :
    KeepsStore s (pacerTickOp n acked drive sample s) := by
  have hdrive (u : State) := KeepsStore.foldl (fun s (d : Nat × Bool) => keepsStore_drivePin d.1 d.2 s) drive u
  have hsample (u : State) := KeepsStore.foldl (fun s k => keepsStore_samplePin k s) sample u
  simp only [pacerTickOp]
  exact .ite (.refl s) (((KeepsStore.ite (keepsStore_setPacer ..) ((keepsStore_setPacer ..).trans (keepsStore_emit ..))).trans
    (hdrive _)).trans (hsample _))

theorem keepsStore_pacerCalOp (n deviation : Nat) (s : State) : KeepsStore s (pacerCalOp n deviation s) :=
  .ite (keepsStore_setPacer ..) (.refl s)

theorem keepsStore_ice (i : Ice) (s : State) : KeepsStore s { s with ice := i } := ⟨rfl, id⟩

theorem keepsStore_laneRxOp (n : Nat) (w : W64) (taken : Nat) (s : State) : KeepsStore s (laneRxOp n w taken s) := by
  simp only [laneRxOp]
  exact .ite (.refl s) (.ite (keepsStore_setUserLane ..) ((keepsStore_ice _ s).trans (keepsStore_setUserLane ..)))

theorem keepsStore_laneTxOp (n : Nat) (ws : List W64) (s : State) : KeepsStore s (laneTxOp n ws s) := by
  simp only [laneTxOp]
  refine .ite (.refl s) ?_
  split
  · exact (keepsStore_setUserLane ..).trans (keepsStore_emit ..)
  · exact ((keepsStore_ice _ s).trans (keepsStore_setUserLane ..)).trans (keepsStore_emit ..)

theorem keepsStore_latchOp (cell : Nat) (req : Bool) (ones : List Nat) (s : State) : KeepsStore s (latchOp cell req ones s) := by
  have hput (x : Bool × Bool) (u : State) : KeepsStore u (emit (.latchAck cell x.2)
      { u with mid := { u.mid with latches := tset (dflt (false, false)) u.mid.latches cell x } }) :=
    (keepsStore_mid _ u).trans (keepsStore_emit ..)
  simp only [latchOp]
  exact .ite (.refl s) (.ite (((keepsStore_settled ..).trans (hput ..)).trans (.of_sameDesign (sameDesign_settleAll _)))
    (.ite (hput ..) (.refl s)))

/-! ### The host interface (R270, R288, R289) -/

theorem keepsStore_setQueue (q : Nat) (x : Queue) (s : State) : KeepsStore s (setQueue s q x) := ⟨rfl, id⟩
theorem keepsStore_dropDoorbell (q reason : Nat) (s : State) : KeepsStore s (dropDoorbell q reason s) := ⟨rfl, id⟩
theorem keepsStore_setFunc (f : Nat) (x : PciFunc) (s : State) : KeepsStore s (setFunc s f x) := ⟨rfl, id⟩

theorem keepsStore_doorbellOp (func q size v : Nat) (s : State) : KeepsStore s (doorbellOp func q size v s) := by
  unfold doorbellOp
  split
  · exact keepsStore_dropDoorbell ..
  · exact .ite (keepsStore_setQueue ..) (keepsStore_setQueue ..)

theorem keepsStore_sendPending (func : Nat) (s : State) : KeepsStore s (sendPending func s) := by
  obtain ⟨_, _, h⟩ := sendPending_frame func s
  rw [h]
  exact ⟨rfl, id⟩

theorem keepsStore_sendQueueIrq (q : Nat) (s : State) : KeepsStore s (sendQueueIrq q s) := (keepsStore_setQueue ..).sendMsix ..

/-! ### The Moraine, the Ice core and security (R391 to R396, R406, R411, R414) -/

theorem keepsStore_mor (m : Moraine) (s : State) : KeepsStore s { s with mor := m } := ⟨rfl, id⟩
theorem keepsStore_cfg (c : CfgState) (s : State) : KeepsStore s { s with cfg := c } := ⟨rfl, id⟩
theorem keepsStore_iceCommitOp (s : State) : KeepsStore s (iceCommitOp s) := ⟨rfl, id⟩

theorem keepsStore_morCtrlWrite (v : Nat) (s : State) : KeepsStore s (morCtrlWrite v s) := by
  have hthaw (u : State) : KeepsStore u (unfreeze u) := by
    obtain ⟨_, _, _, h⟩ := unfreeze_frame u
    rw [h]
    exact ⟨rfl, id⟩
  simp only [morCtrlWrite]
  exact .ite (keepsStore_mor _ s) (.ite ((keepsStore_mor _ s).trans (hthaw _)) (keepsStore_mor _ s))

theorem keepsStore_iceCalSetOp (v : Nat) (s : State) : KeepsStore s (iceCalSetOp v s) := by
  simp only [iceCalSetOp]
  exact (keepsStore_ice _ s).record ..

theorem keepsStore_secCtrlOp (v : Nat) (s : State) : KeepsStore s (secCtrlOp v s) := by
  simp only [secCtrlOp]
  exact .ite ((keepsStore_cfg _ s).record ..) (keepsStore_cfg _ s)

theorem keepsStore_takeFree (n : Nat) (s : State) : KeepsStore s (takeFree n s).2 := ⟨rfl, id⟩

theorem keepsStore_spdmOp (code index : Nat) (body : List Byte) (s : State) : KeepsStore s (spdmOp code index body s) := by
  simp only [spdmOp]
  exact .ite (.refl s) (.ite (keepsStore_emit ..) (.ite (.ite (keepsStore_emit ..) (keepsStore_emit ..))
    (.ite (keepsStore_emit ..) (.ite ((keepsStore_takeFree 256 s).trans (keepsStore_emit ..)) (keepsStore_emit ..)))))

theorem keepsStore_ideOp (func stream : Nat) (inSession good : Bool) (s : State) : KeepsStore s (ideOp func stream inSession good s) := by
  simp only [ideOp]
  exact .ite (.refl s) (.ite (keepsStore_cfg _ s) ((keepsStore_cfg _ s).record ..))

theorem keepsStore_putSlot (act k : Nat) (x : KeySlot) (s : State) : KeepsStore s (putSlot act k x s) :=
  (keepsStore_cfg _ s).record ..

theorem keepsStore_debugUnlockOp (key sig : List Byte) (inSession : Bool) (s : State) :
    KeepsStore s (debugUnlockOp key sig inSession s) := by
  simp only [debugUnlockOp]
  exact .ite (((keepsStore_takeFree 256 s).trans (keepsStore_cfg _ _)).record ..) (keepsStore_takeFree 256 s)

theorem keepsStore_sendDoorbell (tag : Nat) (o : Op) (s : State) : KeepsStore s (sendDoorbell tag o s) := by
  simp only [sendDoorbell]
  refine KeepsStore.sendCasc (.putCasc (keepsStore_updOp ..) ?_) ..
  exact id

/-! ### The commands (R291, R326, R364) -/

/-- What a command leaves that goes on to a state with the same store. -/
theorem storesNothing {s t u : State} (hstep : (Host.Outcome.next u : Host.Outcome State Fault Refusal) = .next t)
    (h : KeepsStore s u) : (∀ a, t.dmem.read a = s.dmem.read a) ∧ t.hmem = s.hmem ∧ t.pages = s.pages ∧ t.windows = s.windows := by
  obtain rfl := Host.Outcome.next.inj hstep
  obtain ⟨hdmem, hhmem, hpages, hwindows⟩ : u.dmem = s.dmem ∧ u.hmem = s.hmem ∧ u.pages = s.pages ∧ u.windows = s.windows := by
    simpa [State.stored] using h.stored
  exact ⟨fun a => by rw [hdmem], hhmem, hpages, hwindows⟩

/-- Settles O7: command by command, with what its operation keeps. -/
theorem commandsThatStoreNothing : Obligations.CommandsThatStoreNothing := by
  intro c s t hstep hc
  cases c with
  | trnArrive op => exact storesNothing hstep (keepsStore_runWhen (keepsStore_trnArriveOp op) op _ s)
  | trnWait op => exact storesNothing hstep (keepsStore_runWhen (keepsStore_trnWaitOp op) op _ s)
  | trnArriveWait op => exact storesNothing hstep (keepsStore_runWhen (keepsStore_trnArriveWaitOp op) op _ s)
  | signal op => exact storesNothing hstep (keepsStore_runWhen (keepsStore_signalOp op) op _ s)
  | trnTimeout op peer =>
    cases peer with
    | none => exact storesNothing hstep (keepsStore_trnTimeoutOp op s)
    | some p => exact storesNothing hstep (keepsStore_peerTimeout p.1 p.2.2 p.2.1 s)
  | trnCfgWrite trn v => exact storesNothing hstep (.ite (keepsStore_trnCfgOp ..) (.refl s))
  | setCount trn v => exact storesNothing hstep (.ite (keepsStore_setCountOp ..) (.refl s))
  | setGen trn v => exact storesNothing hstep (.ite (keepsStore_setGenOp ..) (.refl s))
  | completeGen trn v => exact storesNothing hstep (.ite (keepsStore_completeGenOp ..) (.refl s))
  | groupGenBroadcast trn gen => exact storesNothing hstep (keepsStore_groupGenOp ..)
  | deadlockFire w => exact storesNothing hstep (keepsStore_deadlockOp w s)
  | markerSend n => exact storesNothing hstep (keepsStore_markerSendOp n s)
  | markerReceive n count skew => exact storesNothing hstep (keepsStore_markerReceiveOp n count skew s)
  | idleEnter l => exact storesNothing hstep (keepsStore_idleEnterOp l s)
  | idleNullBurst l => exact storesNothing hstep (keepsStore_nullBurstOp l s)
  | idleExit l => exact storesNothing hstep (keepsStore_idleExitOp l s)
  | laneFail n => exact storesNothing hstep (keepsStore_laneFailOp n s)
  | cascLinkTrained l p pl => exact storesNothing hstep (keepsStore_linkTrainedOp l p pl s)
  | cascadeForm v peers edges master =>
    cases master with
    | none => exact storesNothing hstep (.ite (.refl s) (keepsStore_cascCfgOp ..))
    | some mirrors => exact storesNothing hstep (.ite (.refl s) (keepsStore_joinGroup ..))
  | followerHostTimeout => exact storesNothing hstep (keepsStore_followerOp s)
  | eyeScan v errors compared => exact storesNothing hstep (.ite (keepsStore_eyeScanOp ..) (.refl s))
  | bindMem op => exact storesNothing hstep (keepsStore_runFabric (keepsStore_bindMemOp op) op 3 s)
  | laneUp op => exact storesNothing hstep (keepsStore_runFabric (keepsStore_laneUpOp op) op 5 s)
  | laneDown op => exact storesNothing hstep (keepsStore_runFabric (keepsStore_laneDownOp op) op 6 s)
  | laneLock n => exact storesNothing hstep (keepsStore_laneLockOp n s)
  | fabricTimeout op => exact storesNothing hstep (keepsStore_fabricTimeoutOp op s)
  | ramAccess b w a d => exact storesNothing hstep (keepsStore_ramOp b w a d s)
  | pinChange n level => exact storesNothing hstep (keepsStore_pinChangeOp n level s)
  | bankSupplyChange b mv => exact storesNothing hstep (keepsStore_bankOp b mv s)
  | pacerTick n acked drive sample => exact storesNothing hstep (keepsStore_pacerTickOp n acked drive sample s)
  | pacerCalibrate n dev => exact storesNothing hstep (keepsStore_pacerCalOp n dev s)
  | laneRxWord n w taken => exact storesNothing hstep (keepsStore_laneRxOp n w taken s)
  | laneTxWord n ws => exact storesNothing hstep (keepsStore_laneTxOp n ws s)
  | latchCapture cell req ones => exact storesNothing hstep (keepsStore_latchOp cell req ones s)
  | submissionDoorbell f q size v => exact storesNothing hstep (.ite (keepsStore_doorbellOp ..) (.refl s))
  | completionHeadDoorbell f q size v => exact storesNothing hstep (.ite (keepsStore_doorbellOp ..) (.refl s))
  | vectorUnmask f v => exact storesNothing hstep ((keepsStore_setFunc ..).trans (keepsStore_sendPending f _))
  | interruptTimer q =>
    exact storesNothing hstep (.ite (.refl s) ((keepsStore_passTo ..).trans (keepsStore_sendQueueIrq q _)))
  | nop op => exact storesNothing hstep (keepsStore_runWhen (fun _ s => (KeepsStore.refl s).endOp op {}) op _ s)
  | freeze v => exact storesNothing hstep (.ite (keepsStore_morCtrlWrite ..) (.refl s))
  | iceCommit => exact storesNothing hstep (.ite (keepsStore_iceCommitOp s) (.refl s))
  | iceCalSet v => exact storesNothing hstep (.ite (keepsStore_iceCalSetOp ..) (.refl s))
  | advanceSvn v => exact storesNothing hstep (.ite (keepsStore_secCtrlOp ..) (.refl s))
  | spdmRequest code index body => exact storesNothing hstep (keepsStore_spdmOp code index body s)
  | ideKmKeyProgram f n inSession ok => exact storesNothing hstep (keepsStore_ideOp f n inSession ok s)
  | writeKeySlot k kek hash inSession => exact storesNothing hstep (.ite (keepsStore_putSlot ..) (.refl s))
  | revokeSlot k inSession => exact storesNothing hstep (.ite (keepsStore_putSlot ..) (.refl s))
  | debugUnlock key sig inSession => exact storesNothing hstep (keepsStore_debugUnlockOp key sig inSession s)
  | doorbellOp op => exact storesNothing hstep (keepsStore_runWhen (keepsStore_sendDoorbell op) op _ s)
  | flitCrcFail src dst net inject replay =>
    exact storesNothing hstep (keepsStore_flitCrcOp (of_decide_eq_true hc) src dst net inject s)
  | cascFlitReceive l flit bad fixed =>
    have hflit := keepsStore_flitOp l flit bad fixed s
    refine storesNothing hstep ?_
    generalize flitOp l flit bad fixed s = r at hflit ⊢
    obtain ⟨ok, s1⟩ := r
    dsimp only
    rw [deliverFlit_of_noSlots hc, ite_self]
    exact hflit
  | fenceRelease dev q => exact storesNothing hstep (keepsStore_fenceReleaseOp (List.isEmpty_iff.1 hc) dev q)
  | linkRetrainDone l half reach =>
    have hdone := keepsStore_retrainDoneOp l half reach s
    have hstep : Host.Outcome.next (retryHeld (retrainDoneOp l half reach s)) = .next t := hstep
    rw [retryHeld_of_noneHeld (hdone.noneHeld (List.isEmpty_iff.1 hc))] at hstep
    exact storesNothing hstep hdone
  | _ => exact absurd hc Bool.false_ne_true

end Sys2Proof.Machine
end
